-- ==== Sys2Proof/Word.lean ====
section
/-! DEFINITION. The word types of the OCM-9400 (R5, R6, R80). -/

namespace Sys2Proof

/-- The contents of a general register (R205). -/
abbrev Word := BitVec 64

/-- One byte of memory, of a bank or of a record (R6). -/
abbrev Byte := BitVec 8

/-- A package physical address as the key of a memory cell: 52 bits (R21). -/
abbrev Addr := Nat

end Sys2Proof
end

