-- ==== Sys2Proof/Syntax.lean ====
section
/-! DEFINITION. The instructions, records and package events of the OCM-9400: one constructor of `Instr` per row of the
opcode table. Control-stream instructions carry the operand fields of R228; records carry the fields of R243, R343,
R344, R385 to R391; events carry the names of what they act on. -/

namespace Sys2Proof

/-- The three formats of a control-stream instruction (R227). -/
inductive Fmt where
  | c32 | c64 | c96
  deriving DecidableEq, Repr

/-- The operand fields of a control-stream instruction (R228). A field that the format does not carry holds 0 (R229). -/
structure Opnd where
  fmt : Fmt
  d : BitVec 6
  a : BitVec 6
  b : BitVec 6
  c : BitVec 6 := 0
  fn : BitVec 5 := 0
  k : BitVec 3 := 0
  feD : Bool := false
  feA : Bool := false
  feB : Bool := false
  feC : Bool := false
  lvl : BitVec 3 := 0
  imm16 : BitVec 16 := 0
  lit32 : BitVec 32 := 0
  deriving DecidableEq, Repr

/-- A context slot: package core number and slot number (R16, R208). -/
structure SlotId where
  core : BitVec 8
  slot : Bool
  deriving DecidableEq, Repr

/-- The three instruction streams of a slot (R211). -/
inductive StreamId where
  | control | matrix | copy
  deriving DecidableEq, Repr

/-- The common fields of a matrix or copy record (R243), but for its op, which the constructor names. -/
structure RecHead where
  trap : Bool := false
  cor : Bool := false
  stv : Bool := false
  cbv : Bool := false
  q : BitVec 4 := 0
  stamp : BitVec 24 := 0
  cbh : BitVec 4 := 0
  cboff : BitVec 32 := 0
  deriving DecidableEq, Repr

/-- Body of MXACC, MXPERM, MXRED and MXTRN (R343). `trip`, `astride` and `tstride` hold four bytes, level 1 lowest. -/
structure MxNest where
  opens : Bool := false
  closes : Bool := false
  x3 : Bool := false
  fsel : Bool := false
  wbuf : Bool := false
  tile : BitVec 3 := 0
  rows : BitVec 6 := 0
  consume : BitVec 4 := 0
  start : BitVec 8 := 0
  trip : BitVec 32 := 0
  astride : BitVec 32 := 0
  tstride : BitVec 32 := 0
  k0 : BitVec 9 := 0
  ks : BitVec 9 := 0
  neg : Bool := false
  deriving DecidableEq, Repr

/-- Body of MXLDW (R344). -/
structure MxLdwBody where
  t : Bool := false
  fsel : Bool := false
  wbuf : Bool := false
  consume : BitVec 4 := 0
  start : BitVec 8 := 0
  deriving DecidableEq, Repr

/-- Body of MXDRAIN (R344). -/
structure MxDrainBody where
  tile : BitVec 3 := 0
  clr : Bool := false
  adt : BitVec 2 := 0
  swt : Bool := false
  gsz : BitVec 2 := 0
  av : BitVec 5 := 0
  rows : BitVec 6 := 0
  cols : BitVec 8 := 0
  dst : BitVec 22 := 0
  rstride : BitVec 16 := 0
  scl : BitVec 22 := 0
  sa : BitVec 32 := 0
  deriving DecidableEq, Repr

/-- Body of MXSAVE and MXREST (R344). -/
structure MxSaveBody where
  tile : BitVec 3 := 0
  h : BitVec 4 := 0
  off : BitVec 32 := 0
  deriving DecidableEq, Repr

/-- Body of MXSTAMP (R344). -/
structure MxStampBody where
  abs : Bool := false
  delta : Word := 0
  deriving DecidableEq, Repr

/-- Body of CPY and CPYFILL (R385, R388). Extents hold the count minus one; CPYFILL's pattern is `sstr3 ‖ sstr2`. -/
structure CpyBody where
  istr : BitVec 32 := 0
  ind : BitVec 2 := 0
  ixa : BitVec 22 := 0
  doff : BitVec 32 := 0
  soff : BitVec 32 := 0
  dstr4 : BitVec 32 := 0
  dstr3 : BitVec 32 := 0
  dstr2 : BitVec 32 := 0
  sstr4 : BitVec 32 := 0
  sstr3 : BitVec 32 := 0
  sstr2 : BitVec 32 := 0
  n4 : BitVec 16 := 0
  n3 : BitVec 16 := 0
  n2 : BitVec 16 := 0
  n1 : BitVec 16 := 0
  dh : BitVec 4 := 0
  sh : BitVec 4 := 0
  dlvl : BitVec 2 := 0
  slvl : BitVec 2 := 0
  dkind : BitVec 2 := 0
  skind : BitVec 2 := 0
  deriving DecidableEq, Repr

/-- Body of CPYFIFO (R389). -/
structure CpyFifoBody where
  pstride : BitVec 32 := 0
  rstride : BitVec 16 := 0
  src : BitVec 22 := 0
  rows : BitVec 6 := 0
  npos : BitVec 4 := 0
  fifo : BitVec 2 := 0
  deriving DecidableEq, Repr

/-- Body of CPYNET (R390). -/
structure CpyNetBody where
  len : BitVec 24 := 0
  rpa : BitVec 52 := 0
  dev : BitVec 18 := 0
  loff : BitVec 32 := 0
  lh : BitVec 4 := 0
  lkind : BitVec 2 := 0
  get : Bool := false
  deriving DecidableEq, Repr

/-- Body of CPYIND (R391). -/
structure CpyIndBody where
  roff : BitVec 32 := 0
  rh : BitVec 4 := 0
  rkind : Bool := false
  deriving DecidableEq, Repr

/-- The targets that hold an access table (R125). -/
inductive Target where
  | slice (die : Bool) (n : BitVec 6)
  | memory (die : BitVec 2) (n : BitVec 2)
  | kvSlice (die : Bool) (n : BitVec 4)
  | egress
  | chain (port : BitVec 4)
  deriving DecidableEq, Repr

/-- A transport frame (R452): the header fields that are not checked on arrival, the payload, and the VLAN ID of its tag, if
it has one (R451). -/
structure Frame where
  kind : BitVec 4
  hs : Bool
  hd : Bool
  src : BitVec 18
  dst : BitVec 18
  tenant : BitVec 16
  context : BitVec 16
  seq : BitVec 24
  ack : BitVec 24
  rpa : BitVec 52
  aux : BitVec 32
  payload : List Byte
  tag : Option (BitVec 12) := none
  deriving DecidableEq, Repr

/-- A flow (R453). -/
structure FlowKey where
  hs : Bool
  hd : Bool
  src : BitVec 18
  dst : BitVec 18
  tenant : BitVec 16
  context : BitVec 16
  deriving DecidableEq, Repr

/-- Whose retransmit timer runs out (R454, R461): a flow of the Ethernet port, or a chain link. -/
inductive Sender where
  | flow (k : FlowKey)
  | chain (n : BitVec 3)
  deriving DecidableEq, Repr

/-- What a sender sends again after its back-off (R449, R450): a request of the intake engine, a frame of a flow, an update of
a barrier object, a packet of a chain link, a query entry. -/
inductive Resend where
  | request (i : Nat)
  | flow (k : FlowKey)
  | barrier (i : Nat)
  | chain (n : BitVec 3)
  | query (die : Bool) (i : Nat)
  deriving DecidableEq, Repr

/-- A port that fails (R455, R462): the Ethernet port, or a chain link of a package of the carry domain. -/
inductive FailedPort where
  | ethernet
  | chain (dev : BitVec 18) (n : BitVec 3)
  deriving DecidableEq, Repr

/-- Why a port goes down (R455). -/
inductive PortFailure where
  | drops | resends | lockLost
  deriving DecidableEq, Repr

/-- A port that goes down, and why. -/
structure PortLoss where
  port : FailedPort
  why : PortFailure
  deriving DecidableEq, Repr

/-- A port with link parameters of its own (R450, R458 code 0x10). -/
inductive PortId where
  | ethernet
  | chain (n : BitVec 3)
  | ucie (n : BitVec 3)
  deriving DecidableEq, Repr

/-- The five UCIe links (R12, R78): the compute link, and one for each compute die and attention die. -/
inductive UcieLink where
  | compute
  | attention (compute attn : Bool)
  deriving DecidableEq, Repr

/-- A link that retrains (R455, R460, R462): a UCIe link, or a chain link of a package of the carry domain. -/
inductive RetrainedLink where
  | ucie (link : UcieLink)
  | chain (dev : BitVec 18) (n : BitVec 3)
  deriving DecidableEq, Repr

/-- What the host that answers the boot ROM sends beside the image (R468, R470): further hosts, and the device ID. -/
structure HostReply where
  hosts : List (BitVec 18)
  dev : BitVec 18
  deriving DecidableEq, Repr

/-- What a pre-emption request asks for (R437, R458 code 0x08). -/
inductive PreemptKind where
  | boundary | midItem | resume
  deriving DecidableEq, Repr

/-- The frame in which a management request comes (R456, R458): the host, and the number in its flow. -/
structure MgmtHead where
  host : BitVec 18
  seq : BitVec 24 := 1
  tenant : BitVec 16 := 0
  context : BitVec 16 := 0
  deriving DecidableEq, Repr

/-- Where an error strikes (R446): a granule of memory or of a slice line, of a scratchpad bank, of a block in a KV slice, or a
line of an L1. -/
inductive ErrorPlace where
  | memory (granule : Nat)
  | bank (c : SlotId) (granule : Nat)
  | kv (die : Bool) (pbid : BitVec 26) (granule : Nat)
  | l1 (core : BitVec 8) (line : Nat)
  deriving DecidableEq, Repr

/-- What a check of a place finds (R446). -/
inductive ErrorKind where
  | clean | corrected | uncorrected
  deriving DecidableEq, Repr

/-- What a scrub finds, and where. -/
structure Finding where
  place : ErrorPlace
  kind : ErrorKind
  deriving DecidableEq, Repr

/-- What comes over a UCIe link (R459, R460): a flit, or a NAK that names the expected number. -/
inductive LinkUnit where
  | flit (bytes : List Byte)
  | nak (expected : BitVec 16)
  deriving DecidableEq, Repr

/-- What a chain packet is to the neighbour that receives it (R449, R453, R461): a packet of a train or its answer, or of the
link's own protocol an acknowledgement up to a number, or a NAK that names one, for a gap or a full queue. -/
inductive LinkForm where
  | packet | ack | gap | full
  deriving DecidableEq, Repr

/-- How a train is answered (R383, R384, R462): accepted, refused as FULL, refused because its work item is gone or no
route leads on, or refused by a chain port. -/
inductive CarryAnswer where
  | accepted | full | undeliverable | refused
  deriving DecidableEq, Repr

/-- A chain packet (R461): one of a train, or with a count of 0 the packet that answers a train. R461 gives the form of
the acceptance packet alone; the other answers take its form (log 92). `trainSeqs` are the numbers that an answered train had on
its last link; `hcrc` and `crc` are the two checks. -/
structure ChainPacket where
  srcDev : BitVec 18
  dstDev : BitVec 18
  srcCore : BitVec 8
  srcSlot : Bool
  core : BitVec 8
  slot : Bool
  tag : BitVec 16
  tenant : BitVec 16
  context : BitVec 16
  seq : BitVec 24
  index : Nat
  count : Nat
  data : List Byte
  trainSeqs : List (BitVec 24) := []
  answer : CarryAnswer := .accepted
  form : LinkForm := .packet
  hcrc : BitVec 32 := 0
  crc : BitVec 32 := 0
  deriving DecidableEq, Repr

/-- The instructions, records and events: one constructor per row of spec/opcode_table.json. -/
inductive Instr where
  /-- NOP (R265): Does nothing; the C32 word 0x0000_0001 is also the assembler's pad word. -/
  | nop (o : Opnd)
  /-- END (R213): Ends the control stream so that the work item can retire under R214. -/
  | endCtl (o : Opnd)
  /-- BR (R264): Branches by a signed word offset. -/
  | br (o : Opnd)
  /-- BRC (R264): Branches by a signed word offset when the fn-selected comparison of two general registers holds. -/
  | brc (o : Opnd)
  /-- BRI (R264): Jumps to codeva plus a register and a displacement, with bits 1:0 ignored. -/
  | bri (o : Opnd)
  /-- CALL (R264): Writes the link offset to a register and branches by a word offset. -/
  | call (o : Opnd)
  /-- RET (R264): Jumps to codeva plus the word-aligned offset held in a register. -/
  | ret (o : Opnd)
  /-- LOOP (R264): Decrements a count register modulo 2^64 and branches while the result is nonzero. -/
  | loop (o : Opnd)
  /-- TRAP (R265): Raises the user trap precisely with a 16-bit code, which is 0 in C32. -/
  | trap (o : Opnd)
  /-- SYSRD (R274): Reads a system register into a general register, faulting on firmware or unassigned numbers. -/
  | sysrd (o : Opnd)
  /-- SYSRD_FLAGS (R92): Reads FLAGS after every earlier control-stream instruction has written its results. -/
  | sysrdFlags (o : Opnd)
  /-- SYSWR (R274): Writes a system register that has no write behaviour of its own; a read-only or illegal target raises the illegal-system-register fault. -/
  | syswr (o : Opnd)
  /-- SYSWR_MODE (R91): Writes MODE for every later control instruction and updates the format digest. -/
  | syswrMode (o : Opnd)
  /-- SYSWR_BFMT (R41): Writes a bank format register, takes effect in its issue cycle, updates the digest and holds the control stream until earlier records that name the bank complete. -/
  | syswrBfmt (o : Opnd)
  /-- SYSWR_FLAGS (R274): Clears each FLAGS bit that is written as 1. -/
  | syswrFlags (o : Opnd)
  /-- SYSWR_STAMPB (R274): Sets STAMPB as STAMP does, without the cycle-count term. -/
  | syswrStampb (o : Opnd)
  /-- SYSWR_TRAPV (R274): Arms or disarms the user trap handler address, faulting on an illegal address and releasing held asynchronous events. -/
  | syswrTrapv (o : Opnd)
  /-- GETMODE (R276): Writes MODE, zero-extended, to a general register. -/
  | getmode (o : Opnd)
  /-- SETMODE (R276): Writes MODE from a register ORed with an immediate and enters the value in the format digest. -/
  | setmode (o : Opnd)
  /-- SIGNRD (R276): Locates the SIG of a recently completed launch of the issuer's tenant and copies it into SIG0 to SIG3. -/
  | signrd (o : Opnd)
  /-- FEAT (R272): Returns one of the eight feature words. -/
  | feat (o : Opnd)
  /-- RDTIME (R271): Returns the package cycle count, or the reference tick count under .RT. -/
  | rdtime (o : Opnd)
  /-- STAMP (R271): Sets STAMPB to the current cycle count plus a register and a displacement, and returns the new value. -/
  | stamp (o : Opnd)
  /-- YIELD (R265): Triggers a slot switch when the other slot holds a ready work item. -/
  | yield (o : Opnd)
  /-- LAUNCH (R268): Releases at PKG scope, reads a 256-byte launch record through a handle, submits it to a launch queue and returns the intake result. -/
  | launch (o : Opnd)
  /-- CANCEL (R269): Stops further dispatch of a launch that is named by queue and ordinal. -/
  | cancel (o : Opnd)
  /-- CANCEL_ITEM (R270): Removes the work item in a named context slot, together with its whole troupe. -/
  | cancelItem (o : Opnd)
  /-- RUN_MX (R266): Starts the matrix stream at a 64-byte-aligned code offset, blocking while the stream runs or trapping under !. -/
  | runMx (o : Opnd)
  /-- RUN_CP (R266): Starts the copy stream at a 64-byte-aligned code offset, blocking while the stream runs or trapping under !. -/
  | runCp (o : Opnd)
  /-- ADD (R277): Integer add in wrapping, 32-bit or saturating form. -/
  | add (o : Opnd)
  /-- ADDI (R279): Adds a sign-extended immediate, shifted by 16 times fn, to a register. -/
  | addi (o : Opnd)
  /-- SUB (R277): Integer subtract in wrapping, 32-bit or saturating form. -/
  | sub (o : Opnd)
  /-- MUL (R277): Returns the low bits of an integer product. -/
  | mul (o : Opnd)
  /-- MULH (R277): Returns bits 127:64 of the exact product in signed, unsigned or mixed form. -/
  | mulh (o : Opnd)
  /-- DIV (R278): Integer quotient rounded toward zero, with a deferrable destination. -/
  | div (o : Opnd)
  /-- REM (R278): Integer remainder with the sign of the dividend, with a deferrable destination. -/
  | rem (o : Opnd)
  /-- AND (R277): Bitwise AND. -/
  | and (o : Opnd)
  /-- OR (R277): Bitwise OR. -/
  | or (o : Opnd)
  /-- XOR (R277): Bitwise exclusive OR. -/
  | xor (o : Opnd)
  /-- SHL (R277): Logical shift left. -/
  | shl (o : Opnd)
  /-- SHR (R277): Logical shift right. -/
  | shr (o : Opnd)
  /-- SAR (R277): Arithmetic shift right. -/
  | sar (o : Opnd)
  /-- ROT (R277): Rotate right. -/
  | rot (o : Opnd)
  /-- MIN (R277): Signed or unsigned integer minimum. -/
  | min (o : Opnd)
  /-- MAX (R277): Signed or unsigned integer maximum. -/
  | max (o : Opnd)
  /-- ABS (R279): Integer absolute value, wrapping or saturating. -/
  | abs (o : Opnd)
  /-- SEL (R279): Selects one of two registers by whether a third is nonzero. -/
  | sel (o : Opnd)
  /-- CMP (R277): Writes 1 when the fn-selected comparison holds, and 0 otherwise. -/
  | cmp (o : Opnd)
  /-- CLZ (R279): Counts leading zero bits. -/
  | clz (o : Opnd)
  /-- POPC (R279): Counts the 1 bits. -/
  | popc (o : Opnd)
  /-- BFX (R279): Extracts a bit field, zero-extended or sign-extended. -/
  | bfx (o : Opnd)
  /-- BFI (R279): Inserts a bit field into the destination register. -/
  | bfi (o : Opnd)
  /-- LI (R279): Loads a sign-extended or zero-extended immediate. -/
  | li (o : Opnd)
  /-- MOV (R279): Copies a general register. -/
  | mov (o : Opnd)
  /-- ADDR (R279): Computes the target of a memory reference without touching memory. -/
  | addr (o : Opnd)
  /-- CVT (R281): Converts a scalar between the integer and floating types. -/
  | cvt (o : Opnd)
  /-- FADD (R280): Scalar floating add or subtract, rounded once. -/
  | fadd (o : Opnd)
  /-- FMUL (R280): Scalar floating multiply, rounded once. -/
  | fmul (o : Opnd)
  /-- FFMA (R280): Scalar fused multiply-add with optional negations, rounded once. -/
  | ffma (o : Opnd)
  /-- FMIN (R280): Scalar floating minimum. -/
  | fmin (o : Opnd)
  /-- FMAX (R280): Scalar floating maximum. -/
  | fmax (o : Opnd)
  /-- FCMP (R280): Scalar floating compare that writes 1 or 0. -/
  | fcmp (o : Opnd)
  /-- LD (R288): Loads 1 to 16 bytes from memory or a scratchpad into general registers. -/
  | ld (o : Opnd)
  /-- ST (R288): Stores 1 to 16 bytes from general registers. -/
  | st (o : Opnd)
  /-- ST_T (R288): Stores and returns the store's sequence tag in a register once the home performs the store. -/
  | stT (o : Opnd)
  /-- LDV (R288): Loads the active elements of a vector register, merging or zeroing the others. -/
  | ldv (o : Opnd)
  /-- STV (R288): Stores the active elements of a vector register. -/
  | stv (o : Opnd)
  /-- LDFE (R291): Waits for a full granule and loads it, emptying it under .CLR. -/
  | ldfe (o : Opnd)
  /-- STFE (R291): Stores into a granule and sets it full in the same bank access. -/
  | stfe (o : Opnd)
  /-- FESET (R291): Sets 1 to 64 granules full. -/
  | feset (o : Opnd)
  /-- FECLR (R291): Sets 1 to 64 granules empty. -/
  | feclr (o : Opnd)
  /-- FEPEEK (R291): Returns a granule's full/empty bit without waiting or changing it. -/
  | fepeek (o : Opnd)
  /-- XLAT (R117): Binds a handle to a virtual page; the handle stays empty until the translation arrives. -/
  | xlat (o : Opnd)
  /-- HREL (R120): Unbinds a handle, sets it full and abandons any outstanding walk. -/
  | hrel (o : Opnd)
  /-- HINFO (R295): Reads the low or high half of a handle. -/
  | hinfo (o : Opnd)
  /-- ATOM (R297): Performs an atomic read-modify-write of one of eight kinds at the home or bank. -/
  | atom (o : Opnd)
  /-- CAS (R297): Atomic compare-and-swap. -/
  | cas (o : Opnd)
  /-- XCHG (R297): Atomic exchange. -/
  | xchg (o : Opnd)
  /-- MARK (R174): Holds every later access of the stream until every earlier access has been performed. -/
  | mark (o : Opnd)
  /-- FENCE_ACQ (R180): Acquire fence that invalidates the L1 at TROUPE scope and wider. -/
  | fenceAcq (o : Opnd)
  /-- FENCE_REL (R180): Cumulative release fence, which in deterministic mode also counts a release. -/
  | fenceRel (o : Opnd)
  /-- FENCE_AR (R180): Acquire-release fence that also orders earlier stores before later loads. -/
  | fenceAr (o : Opnd)
  /-- FENCE_WACK (R180): Holds the control stream until every earlier store is acknowledged, and reports imprecise store faults. -/
  | fenceWack (o : Opnd)
  /-- WAIT (R216): Blocks until one or all of up to four counter, granule, tile or barrier conditions hold, or until the timeout. -/
  | wait (o : Opnd)
  /-- QPUB (R304): Binds a source timeline counter so that it forwards to a counter of another work item. -/
  | qpub (o : Opnd)
  /-- QPUB_OFF (R304): Withdraws a counter binding. -/
  | qpubOff (o : Opnd)
  /-- BARARR (R306): Arrives at a barrier object as a release and returns the phase before the update. -/
  | bararr (o : Opnd)
  /-- BAREXP (R306): Adds a signed count to a barrier object's pending transactions. -/
  | barexp (o : Opnd)
  /-- GATHER (R308): Issues an indexed gather on the slice gather engine, numbered on a counter. -/
  | gather (o : Opnd)
  /-- CINV (R310): Drops 1 to 64 lines from the issuing L1. -/
  | cinv (o : Opnd)
  /-- CWB (R310): Has the home slices write dirty lines of the range back to memory. -/
  | cwb (o : Opnd)
  /-- PREF (R310): Prefetches lines into the L1 or the home slice. -/
  | pref (o : Opnd)
  /-- VADD (R321): Vector floating add. -/
  | vadd (o : Opnd)
  /-- VSUB (R321): Vector floating subtract. -/
  | vsub (o : Opnd)
  /-- VMUL (R321): Vector floating multiply. -/
  | vmul (o : Opnd)
  /-- VFMA (R321): Vector fused multiply-add with optional negations. -/
  | vfma (o : Opnd)
  /-- VMIN (R321): Vector minimum, floating or integer. -/
  | vmin (o : Opnd)
  /-- VMAX (R321): Vector maximum, floating or integer. -/
  | vmax (o : Opnd)
  /-- VABS (R324): Vector absolute value. -/
  | vabs (o : Opnd)
  /-- VNEG (R324): Vector negation. -/
  | vneg (o : Opnd)
  /-- VDIV (R325): Vector division, correctly rounded, with a deferrable destination. -/
  | vdiv (o : Opnd)
  /-- VSQRT (R325): Vector square root. -/
  | vsqrt (o : Opnd)
  /-- VRSQRT (R325): Vector reciprocal square root. -/
  | vrsqrt (o : Opnd)
  /-- VRCP (R325): Vector reciprocal. -/
  | vrcp (o : Opnd)
  /-- VEXP2 (R325): Vector base-2 exponential. -/
  | vexp2 (o : Opnd)
  /-- VLOG2 (R325): Vector base-2 logarithm. -/
  | vlog2 (o : Opnd)
  /-- VCVT (R327): Converts the elements of a vector group between types, narrow formats included. -/
  | vcvt (o : Opnd)
  /-- VCMP (R328): Vector compare that writes all-ones or zero elements. -/
  | vcmp (o : Opnd)
  /-- VSEL (R329): Selects elements bitwise by a condition vector. -/
  | vsel (o : Opnd)
  /-- VAND (R323): Vector bitwise AND. -/
  | vand (o : Opnd)
  /-- VOR (R323): Vector bitwise OR. -/
  | vor (o : Opnd)
  /-- VXOR (R323): Vector bitwise exclusive OR. -/
  | vxor (o : Opnd)
  /-- VSHL (R323): Vector shift left. -/
  | vshl (o : Opnd)
  /-- VSHR (R323): Vector logical or arithmetic shift right. -/
  | vshr (o : Opnd)
  /-- VIADD (R322): Vector integer add, wrapping or saturating. -/
  | viadd (o : Opnd)
  /-- VISUB (R322): Vector integer subtract, wrapping or saturating. -/
  | visub (o : Opnd)
  /-- VDOT4 (R330): Packed four-part integer dot product, accumulated with saturation. -/
  | vdot4 (o : Opnd)
  /-- VRED (R332): Reduces the active elements by the canonical pairwise tree. -/
  | vred (o : Opnd)
  /-- VSCAN (R332): Inclusive left-fold scan of the active elements. -/
  | vscan (o : Opnd)
  /-- VSHUF (R334): Permutes elements from two registers by an index vector. -/
  | vshuf (o : Opnd)
  /-- VBCAST_G (R334): Broadcasts a general register into every active element. -/
  | vbcastG (o : Opnd)
  /-- VBCAST_IMM (R334): Broadcasts an immediate into every active element. -/
  | vbcastImm (o : Opnd)
  /-- VBCAST_ROW (R334): Broadcasts one row into every row. -/
  | vbcastRow (o : Opnd)
  /-- VBCAST_COL (R334): Broadcasts one column into every column. -/
  | vbcastCol (o : Opnd)
  /-- VTRANS (R334): Transposes R rows by C columns. -/
  | vtrans (o : Opnd)
  /-- VMOVE (R334): Copies the active elements, zeroing the others under .Z. -/
  | vmove (o : Opnd)
  /-- VMOVE_TOG (R334): Moves one element to a general register. -/
  | vmoveTog (o : Opnd)
  /-- VMOVE_FROMG (R334): Moves a general register into one element. -/
  | vmoveFromg (o : Opnd)
  /-- VSHAPE (R313): Sets the row count and element width of every vector register of the slot. -/
  | vshape (o : Opnd)
  /-- VSHAPE_RD (R313): Returns the current shape. -/
  | vshapeRd (o : Opnd)
  /-- KSET (R318): Sets a predicate count from a register plus an immediate. -/
  | kset (o : Opnd)
  /-- KADD (R318): Adds to a predicate count. -/
  | kadd (o : Opnd)
  /-- KMIN (R318): Takes the minimum of two predicate counts. -/
  | kmin (o : Opnd)
  /-- VIDX (R334): Writes an affine index of the element, row or column. -/
  | vidx (o : Opnd)
  /-- VRAND (R335): Generates Philox random bits or uniform binary32 values. -/
  | vrand (o : Opnd)
  /-- TRPACK (R337): Packs element signs into trit bytes. -/
  | trpack (o : Opnd)
  /-- TRUNPACK (R337): Unpacks trit bytes into elements of -1, 0 and +1. -/
  | trunpack (o : Opnd)
  /-- TRSPLIT (R337): Packs one balanced-ternary digit plane of the elements into trit bytes. -/
  | trsplit (o : Opnd)
  /-- SOPSET (R373): Loads and checks a scan operator record into the operator register, capturing MODE. -/
  | sopset (o : Opnd)
  /-- SCANL (R377): Issues a local scan of n positions through a state slot. -/
  | scanl (o : Opnd)
  /-- SCAN (R378): Issues a troupe-wide scan through the scan tree. -/
  | scan (o : Opnd)
  /-- SSTEP (R377): Issues one FOLD step on the single-step pipeline. -/
  | sstep (o : Opnd)
  /-- SLD (R380): Loads 512 bytes of a state slot into a vector register. -/
  | sld (o : Opnd)
  /-- SST (R380): Stores a vector register into 512 bytes of a state slot. -/
  | sst (o : Opnd)
  /-- SBIND (R374): Zeroes a state slot and binds it to an existing key domain, or to none. -/
  | sbind (o : Opnd)
  /-- SBIND_NEW (R374): Zeroes a state slot and binds it to a newly created key domain. -/
  | sbindNew (o : Opnd)
  /-- SSPILL (R381): Writes a whole state slot to memory through the pannier, encrypted. -/
  | sspill (o : Opnd)
  /-- SFILL (R381): Reads a whole state slot from memory through the pannier. -/
  | sfill (o : Opnd)
  /-- CHSEND (R383): Sends a state slot as a carry over the chain. -/
  | chsend (o : Opnd)
  /-- CHRECV (R384): Receives a carry with a matching tag into a state slot. -/
  | chrecv (o : Opnd)
  /-- KVOPEN (R153): Opens a new sequence with a private key domain. -/
  | kvopen (o : Opnd)
  /-- KVCLOSE (R154): Closes a sequence, releasing its blocks and key domains. -/
  | kvclose (o : Opnd)
  /-- KVFORK (R153): Forks a sequence into 1 to 15 children that share its blocks. -/
  | kvfork (o : Opnd)
  /-- KVAPPEND (R150): Appends one token at the sequence's length. -/
  | kvappend (o : Opnd)
  /-- KVEVICT (R151): Evicts positions below length from the block bitmaps. -/
  | kvevict (o : Opnd)
  /-- KVCOMPACT (R152): Seals a full open span into one SEALED block. -/
  | kvcompact (o : Opnd)
  /-- KVMAP (R485): Maps one position to a locator in a register pair. -/
  | kvmap (o : Opnd)
  /-- KVMAP_V (R480): Maps up to 1,024 positions to locators in a bank, numbered on a counter. -/
  | kvmapV (o : Opnd)
  /-- KVDRAFT (R155): Appends draft tokens into shadow entries. -/
  | kvdraft (o : Opnd)
  /-- KVACCEPT (R156): Accepts m draft tokens atomically. -/
  | kvaccept (o : Opnd)
  /-- KVREJECT (R156): Rejects every draft token. -/
  | kvreject (o : Opnd)
  /-- KVPREFIX_LOOK (R158): Looks up the prefix index and installs a matching block. -/
  | kvprefixLook (o : Opnd)
  /-- KVPREFIX_INS (R158): Inserts the block that holds the last position into the prefix index. -/
  | kvprefixIns (o : Opnd)
  /-- QSEND (R167): Sends a query entry to an attention-die queue and numbers its send and its reply on a counter. -/
  | qsend (o : Opnd)
  /-- QSEND_REPLY (R169): Answers an inbox entry with a reply to the sender and frees the inbox slot. -/
  | qsendReply (o : Opnd)
  /-- ADOT (R398): Attention dot products of A against B rows, in chunked binary32 order. -/
  | adot (o : Opnd)
  /-- AACC (R398): Attention weighted accumulation over B columns. -/
  | aacc (o : Opnd)
  /-- MXLDW (R354): Loads a weight tile from f2 or f3 into a weight buffer, decoding trits. -/
  | mxldw (h : RecHead) (b : MxLdwBody)
  /-- MXACC (R356): Accumulates activation rows times a weight buffer into tiles over a four-level nest. -/
  | mxacc (h : RecHead) (b : MxNest)
  /-- MXDRAIN (R359): Scales, rounds and stores tile elements into a bank. -/
  | mxdrain (h : RecHead) (b : MxDrainBody)
  /-- MXZERO (R361): Zeroes and closes the selected tiles. -/
  | mxzero (h : RecHead) (mask : BitVec 8)
  /-- MXPERM (R358): Accumulates a generated permutation product. -/
  | mxperm (h : RecHead) (b : MxNest)
  /-- MXRED (R358): Accumulates a generated group-reduction product. -/
  | mxred (h : RecHead) (b : MxNest)
  /-- MXTRN (R358): Accumulates a generated transpose product. -/
  | mxtrn (h : RecHead) (b : MxNest)
  /-- MXSAVE (R362): Saves a tile to memory in the 106,560-byte layout. -/
  | mxsave (h : RecHead) (b : MxSaveBody)
  /-- MXREST (R363): Checks a saved tile area and restores the tile from it. -/
  | mxrest (h : RecHead) (b : MxSaveBody)
  /-- MXSTAMP (R364): Moves the stream base SB by a delta, relative to SB or to STAMPB. -/
  | mxstamp (h : RecHead) (b : MxStampBody)
  /-- MXEND (R364): Ends the matrix stream once every earlier record has completed. -/
  | mxend (h : RecHead)
  /-- CPY (R386): Copies a four-level nest of elements, with optional indirection and conversion. -/
  | cpy (h : RecHead) (b : CpyBody)
  /-- CPYIND (R391): Performs a CPY whose body it fetches through the record cache. -/
  | cpyind (h : RecHead) (b : CpyIndBody)
  /-- CPYFIFO (R389): Fills operand FIFO positions from a bank. -/
  | cpyfifo (h : RecHead) (b : CpyFifoBody)
  /-- CPYNET (R390): Copies between the issuer and a system address by PUT or GET. -/
  | cpynet (h : RecHead) (b : CpyNetBody)
  /-- CPYFILL (R388): Fills a destination nest with a 64-bit pattern. -/
  | cpyfill (h : RecHead) (b : CpyBody)
  /-- RCFENCE (R392): Empties the slot's record cache. -/
  | rcfence (h : RecHead)
  /-- CPYEND (R392): Ends the copy stream once earlier records have issued. -/
  | cpyend (h : RecHead)
  /-- MATRIX_ITERATION_START (R349): A later iteration of a compute-pipe record starts back to back, is late, or traps when its position is unfilled. -/
  | matrixIterationStart (c : SlotId)
  /-- TILE_ROW_LAND (R348): A tile row write lands in its fixed cycle, and the last row of a closing group sets the tile full. -/
  | tileRowLand (c : SlotId)
  /-- RECORD_COMPLETE (R182): An engine operation or record completes, sets flags, writes status and advances its timeline counter in order. -/
  | recordComplete (c : SlotId) (q : BitVec 4) (n : Nat)
  /-- DEFERRED_WRITE (R236): A long-latency producer writes its deferred destination and sets it full. -/
  | deferredWrite (c : SlotId) (i : Nat)
  /-- STREAM_UNBLOCK (R215): A stream blocked on an empty register, granule, tile, handle or FIFO position resumes when the object becomes full. -/
  | streamUnblock (c : SlotId) (st : StreamId)
  /-- WAIT_RETURN (R217): A WAIT returns in the first cycle in which its combination of conditions holds, acquiring what held. -/
  | waitReturn (c : SlotId)
  /-- WAIT_TIMEOUT (R217): A WAIT returns at tick t0 + T + 1 with bit 4 set when its combination is unmet. -/
  | waitTimeout (c : SlotId)
  /-- XLAT_CACHE_HIT_FILL (R117): A handle becomes full and valid exactly 32 cycles after an XLAT that hits the translation cache. -/
  | xlatCacheHitFill (c : SlotId) (h : BitVec 4)
  /-- RETRANSLATION_HIT_REFILL (R120): On a re-translation that hits the translation cache, the handle is refilled and the stalled use proceeds exactly 48 cc later. -/
  | retranslationHitRefill (c : SlotId) (h : BitVec 4)
  /-- ACK_TIMER (R454): The receiver acknowledges within 2 rt of an unacknowledged accepted frame. -/
  | ackTimer (f : FlowKey)
  /-- RETRANSMIT_TIMEOUT (R454): The sender resends from its oldest unacknowledged frame after the retransmit time. -/
  | retransmitTimeout (f : Sender)
  /-- TRANSLATION_WALK_COMPLETE (R117): A control-processor walk completes, filling the handle or raising a walk fault. -/
  | translationWalkComplete (c : SlotId) (h : BitVec 4)
  /-- SHOOTDOWN_INVALIDATION (R123): An invalidation that names TENANT, CTXID and vpage reaches a slot, which drops matching entries and clears valid. -/
  | shootdownInvalidation (c : SlotId) (tenant context : BitVec 16) (vpage : BitVec 40)
  /-- SHOOTDOWN_ACK (R122): A slot acknowledges once earlier accesses through matching handles have been performed. -/
  | shootdownAck (c : SlotId)
  /-- HOME_SLICE_REQUEST (R76): A request reaches its home slice and is judged, ordered behind its predecessor and performed. -/
  | homeSliceRequest (i : Nat)
  /-- BACKOFF_RESEND (R450): After the back-off expires, the sender resends from the refused entry in order. -/
  | backoffResend (b : Resend)
  /-- DERAILLEUR_MOVE_START (R68): The derailleur checks its preconditions and sets a bucket to HOLD to move it between slices. -/
  | derailleurMoveStart (die : Bool) (bucket : BitVec 12) (target : BitVec 6)
  /-- DERAILLEUR_HOLD (R68): A request source receives HOLD, holds new requests for the bucket and acknowledges once its outstanding ones are answered. -/
  | derailleurHold (die : Bool)
  /-- DERAILLEUR_FLUSH (R68): After every acknowledgement, the entry goes to FLUSH and slice A writes back, invalidates and sends the write counter. -/
  | derailleurFlush (die : Bool)
  /-- DERAILLEUR_RELEASE (R68): When B confirms the counter, the entry becomes STABLE at B and the sources resume. -/
  | derailleurRelease (die : Bool)
  /-- GATHER_LINE_REPLY (R71): A gather engine receives a line, writes its elements and sets granules full, advancing the counter after the last. -/
  | gatherLineReply (c : SlotId) (q : BitVec 4) (n : Nat)
  /-- COPY_ELEMENT (R387): The copy engine checks and performs one element and keeps the index of the first unperformed one. -/
  | copyElement (c : SlotId) (q : BitVec 4) (n : Nat)
  /-- SCAN_UNIT_START (R376): The scan unit starts the next scan operation and checks tag, header and operator. -/
  | scanUnitStart (c : SlotId)
  /-- SCAN_COMPLETE (R377): A scan operation completes and updates the state slot, flags and counter. -/
  | scanComplete (c : SlotId)
  /-- SCAN_HUB_COMBINE (R378): After the last member issues, the hubs combine the member blocks by absolute alignment. -/
  | scanHubCombine (c : SlotId)
  /-- PANNIER_TRANSFER_COMPLETE (R381): A pannier spill or fill completes through the cipher engines. -/
  | pannierTransferComplete (c : SlotId) (q : BitVec 4) (n : Nat)
  /-- CARRY_ARRIVAL (R384): A carry reaches its receiving slot and is matched, held as unmatched, or refused. -/
  | carryArrival (i : Nat)
  /-- ACCEPTANCE_PACKET_ARRIVAL (R383): The acceptance packet reaches the sender and completes the CHSEND. -/
  | acceptancePacketArrival (i : Nat)
  /-- CHAIN_PACKET (R461): A chain packet reaches a hop, where it is CRC-checked, admitted and forwarded, or dropped and recovered. -/
  | chainPacket (link : BitVec 3) (p : ChainPacket)
  /-- KVOPEN_AT_SLICE0 (R138): Slice 0 of the named die judges a KVOPEN, allocates the ID and has the descriptor created. -/
  | kvopenAtSlice0 (die : Bool) (i : Nat)
  /-- KV_OPERATION_PERFORM (R159): The home KV slice judges and performs one KV operation atomically, then writes its status. -/
  | kvOperationPerform (die : Bool) (i : Nat)
  /-- DEAD_HANDLE_BROADCAST (R133): A compute core receives a dead handle, zeroes matching state slots, marks them DEAD and acknowledges. -/
  | deadHandleBroadcast (core : BitVec 8)
  /-- TIER_MOVE (R164): The tier engine moves a block's ciphertext between tiers under firmware policy. -/
  | tierMove (die : Bool) (pbid : BitVec 26) (tier : BitVec 3) (loc : BitVec 64)
  /-- QUERY_ENTRY_ENQUEUE (R167): A query entry reaches its queue and is enqueued or refused with a NAK. -/
  | queryEntryEnqueue (die : Bool) (i : Nat)
  /-- QUERY_DELIVERY (R168): The queue engine delivers the head entry to the lowest free inbox slot of a serving item. -/
  | queryDelivery (die : Bool) (queue : BitVec 5)
  /-- QUERY_REPLY_ARRIVAL (R169): A reply reaches the sender, fills the reply granules and completes the reply operation once. -/
  | queryReplyArrival (i : Nat)
  /-- QPUB_FORWARD (R304): A forwarded counter value reaches the target counter as a release. -/
  | qpubForward (c : SlotId) (q : BitVec 4)
  /-- BARRIER_HOME_UPDATE (R221): The home applies BARARR, BAREXP or a completion update and advances the phase when arrive and txn are both zero. -/
  | barrierHomeUpdate (i : Nat)
  /-- BARRIER_PHASE_SIGNAL (R301): A phase-change signal reaches a WAIT whose barrier condition names the object. -/
  | barrierPhaseSignal (c : SlotId)
  /-- WALKER_STEP (R408): Every 2 cycles a die's walker chooses the next placeable unit by priority and deficit round-robin. -/
  | walkerStep (die : BitVec 2)
  /-- TROUPE_RESERVATION (R410): A troupe unplaceable for 1,000 rt takes a reservation on one die. -/
  | troupeReservation (die : BitVec 2)
  /-- RESERVATION_PREEMPT (R437): Firmware pre-empts to place a reservation that has waited 10,000 rt. -/
  | reservationPreempt (die : BitVec 2)
  /-- ITEM_RETIRE (R214): A work item retires once its streams, operations and stores are done, and adds its signature term. -/
  | itemRetire (c : SlotId)
  /-- LAUNCH_COMPLETION (R404): A launch completes, computing SIG and writing its completion record and trace header. -/
  | launchCompletion (queue : BitVec 6) (ordinal : Nat)
  /-- SLOT_SWITCH (R209): The core switches to the other ready slot in 16 cycles, saving and refilling FIFO state. -/
  | slotSwitch (core : BitVec 8)
  /-- BLOCKED_SWITCH_TRIGGER (R209): Every running stream of the active slot has been blocked for 64 consecutive cycles. -/
  | blockedSwitchTrigger (core : BitVec 8)
  /-- PRIORITY_SWITCH_TRIGGER (R424): A higher-priority inactive slot takes the core once the active slot has held it for 256 cycles. -/
  | prioritySwitchTrigger (core : BitVec 8)
  /-- TIME_SLICE_SWITCH_TRIGGER (R424): A slot ready for 4,096 cycles takes the core from a slot that has held it for 4,096 cycles. -/
  | timeSliceSwitchTrigger (core : BitVec 8)
  /-- ASYNC_EVENT_TAKE (R431): A held or asynchronous event is taken at the next issue boundary, entering the user handler or ending the launch. -/
  | asyncEventTake (c : SlotId)
  /-- HELD_COMPLETION (R439): A completion or incoming write for a saved item is held in its save area or refused with a NAK. -/
  | heldCompletion (i : Nat)
  /-- RESTORE (R441): A saved item is restored to a compatible slot and resumes. -/
  | restore (i : Nat)
  /-- POWER_UP (R470): Power-good starts the staged bring-up of clocks, links, memory, ports and cores. -/
  | powerUp (unit : Nat)
  /-- CONTEXT_LOST (R444): An uncorrectable error marks the context lost and re-dispatches the item or ends the launch. -/
  | contextLost (c : SlotId) (section_ : Nat)
  /-- SCRUB (R446): Firmware scrubs every slice line and LPDDR-5X granule within each 24 hours. -/
  | scrub (f : Finding)
  /-- FRAME_PUT (R456): The intake engine writes a PUT payload at rpa under the frame's tenant and context. -/
  | framePut (f : Frame)
  /-- FRAME_GETREQ (R456): The intake engine reads the requested bytes and answers with GETDATA frames. -/
  | frameGetreq (f : Frame)
  /-- FRAME_GETDATA (R456): GETDATA is written into the requester's local granules. -/
  | frameGetdata (f : Frame)
  /-- FRAME_ACK (R454): A cumulative acknowledgement retires frames from the sender's replay window. -/
  | frameAck (f : Frame)
  /-- FRAME_NAK (R454): A GAP or FULL NAK makes the sender resend from the named frame. -/
  | frameNak (f : Frame)
  /-- FRAME_LAUNCH (R456): A 256-byte launch record from the port is submitted to a launch queue. -/
  | frameLaunch (f : Frame)
  /-- FRAME_LRESULT (R456): Carries the result of a LAUNCH to its sender. -/
  | frameLresult (f : Frame)
  /-- FRAME_CANCEL (R414): Cancels a launch by ordinal and is answered by LRESULT. -/
  | frameCancel (f : Frame)
  /-- FRAME_REPORT (R456): Carries a 64-byte fault report to a host. -/
  | frameReport (f : Frame)
  /-- FRAME_REFUSE (R390): Ends a PUT or GET at its first refused byte and raises the access-refused fault. -/
  | frameRefuse (f : Frame)
  /-- FRAME_DAMAGED_DROP (R453): A frame with an FCS, hcrc, version or kind error is dropped and counted against the port. -/
  | frameDamagedDrop (bytes : List Byte) (fcsError : Bool)
  /-- PORT_DOWN (R455): On a drop burst, repeated retransmission or loss of lock, the port goes down and outstanding traffic ends. -/
  | portDown (p : PortLoss)
  /-- PORT_RETRAIN_COMPLETE (R455): A retrained port comes up with every flow reset. -/
  | portRetrainComplete
  /-- MGMT_SET_DEVID (R458): Sets DEVID before the first launch. -/
  | mgmtSetDevid (from_ : MgmtHead) (dev : BitVec 18)
  /-- MGMT_WRITE_PSEED (R415): Writes PSEED, which every die sees from one cycle on. -/
  | mgmtWritePseed (from_ : MgmtHead) (seed : Word)
  /-- MGMT_TENANT (R458): Creates or removes a tenant and sets its weight. -/
  | mgmtTenant (from_ : MgmtHead) (tenant : BitVec 16) (create : Bool) (weight : BitVec 8)
  /-- MGMT_ASSIGN_QUEUE (R400): Assigns a launch queue to a tenant. -/
  | mgmtAssignQueue (from_ : MgmtHead) (queue : BitVec 6) (tenant : BitVec 16)
  /-- MGMT_ACCESS_TABLE (R127): Writes access-table entries, with revocation complete once queues drain. -/
  | mgmtAccessTable (from_ : MgmtHead) (target : Target) (index : BitVec 10) (entry : Word)
  /-- MGMT_CREATE_CONTEXT (R438): Creates a context with its translation root and save pool. -/
  | mgmtCreateContext (from_ : MgmtHead) (tenant context : BitVec 16) (root : BitVec 52) (saveAreas : Nat)
  /-- MGMT_PAGE_FAULT_ANSWER (R434): Maps or declines a faulting page, answering every outstanding fault on it. -/
  | mgmtPageFaultAnswer (from_ : MgmtHead) (tenant context : BitVec 16) (vpage : BitVec 40) (mapped : Bool)
  /-- MGMT_PREEMPT (R437): Pre-empts a launch at the boundary or mid-item, or resumes a pre-empted launch. -/
  | mgmtPreempt (from_ : MgmtHead) (queue : BitVec 6) (ordinal : Nat) (kind : PreemptKind)
  /-- MGMT_LOAD_OBJECT (R467): Verifies, selects or translates and maps a Skobuvo code object. -/
  | mgmtLoadObject (from_ : MgmtHead) (tenant context : BitVec 16) (va dest : BitVec 56) (len : Nat) (pa : BitVec 52) (kind : BitVec 8)
  /-- MGMT_ATTESTATION (R469): Answers a nonce with a signed attestation report. -/
  | mgmtAttestation (from_ : MgmtHead) (nonce : BitVec 256) (tenant : BitVec 16)
  /-- MGMT_POWER_CAP (R472): Sets the package power cap. -/
  | mgmtPowerCap (from_ : MgmtHead) (watts : Nat)
  /-- MGMT_PACKAGE_RESET (R471): Resets the package with the effect of a power cycle. -/
  | mgmtPackageReset (from_ : MgmtHead)
  /-- MGMT_MAP_PAGES (R122): Maps, changes or unmaps pages, running a shootdown for live mappings. -/
  | mgmtMapPages (from_ : MgmtHead) (tenant context : BitVec 16) (va : BitVec 56) (entry : BitVec 128)
  /-- MGMT_MIGRATE (R122): Migrates a page to a new physical location in six steps. -/
  | mgmtMigrate (from_ : MgmtHead) (tenant context : BitVec 16) (va : BitVec 56) (pa : BitVec 52)
  /-- MGMT_QUERY_QUEUE (R165): Configures a query queue's tenant and capacity. -/
  | mgmtQueryQueue (from_ : MgmtHead) (die : Bool) (queue : BitVec 5) (tenant : BitVec 16) (capacity : Nat)
  /-- MGMT_LINK_PARAMETERS (R450): Sets a port's back-off, retransmit time and VLAN ID. -/
  | mgmtLinkParameters (from_ : MgmtHead) (port : PortId) (backoff : BitVec 16) (retransmit : Nat) (vlan : Option (BitVec 12))
  /-- MGMT_PIN_PARTITION (R62): Sets every slice's pin partition before the first launch. -/
  | mgmtPinPartition (from_ : MgmtHead) (ways : Nat)
  /-- MGMT_SPILL_GRANT (R163): Grants or withdraws the tier-3 host spill region. -/
  | mgmtSpillGrant (from_ : MgmtHead) (grant : Option (Word × Nat))
  /-- MGMT_SIGNING_KEYS (R466): Enrols or removes code-signing key hashes and sets the translator-cache quota. -/
  | mgmtSigningKeys (from_ : MgmtHead) (tenant : BitVec 16) (keyHash : BitVec 256) (enrol : Bool) (quota : Nat)
  /-- FLIT_RECEIVE (R460): A UCIe flit is accepted, or dropped with a NAK that names the expected number. -/
  | flitReceive (link : UcieLink) (u : LinkUnit)
  /-- LINK_RETRAIN (R460): A flit resent 16 times makes the link retrain, and three failed retrains fail the package. -/
  | linkRetrain (link : RetrainedLink) (succeeds : Bool)
  /-- BOOT_HANDSHAKE (R468): The boot ROM registers the answering host, fetches and verifies the firmware image. -/
  | bootHandshake (reply : HostReply) (version : BitVec 32) (image signature : List Byte)
  /-- THERMAL_WITHHOLD (R472): A die sensor at 100 °C stops its walker claiming units, and claiming resumes below 95 °C. -/
  | thermalWithhold (die : BitVec 2) (celsius : Nat)
  /-- THERMAL_PREEMPT (R472): At 110 °C firmware pre-empts the die's running items mid-item. -/
  | thermalPreempt (die : BitVec 2) (celsius : Nat)
  /-- THERMAL_TRIP (R472): At 120 °C the hardware removes power from the package. -/
  | thermalTrip (celsius : Nat)
  /-- POWER_CAP_CHECK (R472): Every 1 ms firmware measures power and withholds dispatch for 1 ms after an interval above the cap. -/
  | powerCapCheck (watts : Nat)
  /-- POWER_REMOVAL (R4): Power is lost and every register, scratchpad, cache, key slot and SRAM array loses its contents until the next power-up. -/
  | powerRemoval
  deriving DecidableEq, Repr

end Sys2Proof
end

