-- ==== Sys2Proof/Decode.lean ====
section
/-! DEFINITION. Decoding and encoding: control-stream words (R227 to R242) and the 64-byte records of the matrix and
copy streams (R243 to R246). Decoding is total: it answers the instruction or the cause of the illegal-instruction
or illegal-record fault. -/

namespace Sys2Proof

/-- The two kinds of core (R13, R241). -/
inductive CoreKind where
  | compute | attention
  deriving DecidableEq, Repr

/-- The register classes whose registers carry a full/empty bit (R233, R235). -/
inductive RegClass where
  | g | gEven | v | h
  deriving DecidableEq, Repr

/-- What an entry does with the register that a field names (R235, R260). -/
inductive Role where
  | source | dest | both
  deriving DecidableEq, Repr

/-- How an entry uses one of the fields d, a, b, c: not at all, as a register, or as a number below a limit. -/
inductive Use where
  | no
  | reg (cls : RegClass) (role : Role)
  | num (limit : Nat)
  deriving DecidableEq, Repr

/-- Whether fields a, b and c form a memory reference (R239), and which base kinds the entry takes. -/
inductive MemUse where
  | no | any | handle | bank
  deriving DecidableEq, Repr

/-- One entry of the instruction chapters: formats, field uses, qualifiers (R241, R260). -/
structure Rule where
  make : Opnd → Instr
  fmts : List Fmt := [.c32, .c64]
  d : Use := .no
  a : Use := .no
  b : Use := .no
  c : Use := .no
  mem : MemUse := .no
  index : Bool := true
  pred : Bool := false
  imm : BitVec 16 := 0
  lit : Bool := false
  lvls : List (BitVec 3) := [0]
  lvlCause : Nat := 7
  long : Bool := false
  kind : Option CoreKind := none
  more : List (Nat × Bool) := []

/-- Field uses written the way the entries write them. -/
abbrev useG : Use := .reg .g .source
abbrev useD : Use := .reg .g .dest
abbrev useV : Use := .reg .v .source
abbrev useVD : Use := .reg .v .dest
abbrev useH : Use := .reg .h .source
abbrev useQ : Use := .num 16
abbrev useK : Use := .num 8
abbrev useU6 : Use := .num 64

abbrev all3 : List Fmt := [.c32, .c64, .c96]
abbrev only64 : List Fmt := [.c64]
abbrev only32 : List Fmt := [.c32]
abbrev long2 : List Fmt := [.c64, .c96]

/-- A rule, unless `fn` is undefined for the opcode: cause 3 (R241). -/
def ifFn (ok : Bool) (r : Rule) : Except Nat Rule := if ok then .ok r else .error 3

/-- Binary integer forms (R277): `imm` joins register b. -/
def binRule (make : Opnd → Instr) (fmts : List Fmt := [.c32, .c64]) : Rule :=
  { make, fmts, d := useD, a := useG, b := useG, imm := 0xFFFF, lit := true }

/-- Forms with a destination and one source. -/
def unRule (make : Opnd → Instr) : Rule := { make, d := useD, a := useG }

/-- Size codes of LD and ST (R287): `.U` only with `.B`, `.H` and `.W`. -/
def sizeOk (fn : BitVec 5) : Bool := (fn &&& 7).toNat ≤ 2 || ((fn &&& 7).toNat ≤ 4 && !fn.getLsbD 3)

/-- The d field of a load or store: an even register for `.Q` (R287). -/
def sizeReg (fn : BitVec 5) (role : Role) : Use := .reg (if (fn &&& 7) = 4 then .gEven else .g) role

/-- The levels of a memory reference through a handle (R238). -/
abbrev memLvls : List (BitVec 3) := [0, 1, 2, 3]

/-- A memory reference with levels 0 to 3. -/
def memRule (make : Opnd → Instr) (d : Use) (fmts : List Fmt := all3) : Rule :=
  { make, fmts, d, mem := .any, imm := 0xFFFF, lit := true, lvls := memLvls, lvlCause := 9 }

/-- A reference that must name a scratchpad (R290). -/
def bankRule (make : Opnd → Instr) (d : Use) : Rule :=
  { make, fmts := long2, d, mem := .bank, imm := 0xFFFF, lit := true, lvlCause := 9 }

/-- Atomics (R296): no index; field b is the operand. -/
def atomRule (make : Opnd → Instr) (fn : BitVec 5) (role : Role) : Rule :=
  { make, fmts := long2, d := .reg (if fn.getLsbD 4 then .gEven else .g) role, b := useG,
    mem := if fn.getLsbD 4 then .handle else .any, imm := 0xFFFF, lit := true,
    lvls := [0, 2, 3], lvlCause := 9, long := true }

/-- Element-wise binary vector forms (R321): fn bits 1:0 type, 2 .Z, 3 .G. -/
def vbinRule (make : Opnd → Instr) (fn : BitVec 5) : Rule :=
  { make, d := useVD, a := useV, b := if fn.getLsbD 3 then useG else useV, pred := true }

/-- Vector forms with one source. -/
def vunRule (make : Opnd → Instr) : Rule := { make, d := useVD, a := useV, pred := true }

/-- Bitwise vector forms carry their qualifiers in lvl (R323). -/
def vbitRule (make : Opnd → Instr) (lvl : BitVec 3) : Rule :=
  { make, d := useVD, a := useV, b := if lvl.getLsbD 0 then useG else useV, pred := true,
    lvls := [0, 1, 2, 3], lvlCause := 9 }

/-- Scope codes of FENCE, WAIT and QPUB (R238). -/
abbrev scopes : List (BitVec 3) := [0, 1, 2, 3, 4, 5]

/-- KV instructions (R393): field d holds the status granule's address, a the sequence, c the counter. -/
def kvRule (make : Opnd → Instr) (b : Use := .no) (imm : BitVec 16 := 0) : Rule :=
  { make, fmts := only64, d := useG, a := useG, b, c := useQ, imm, lvlCause := 9 }

/-- Integer types of VCVT (R326). -/
def vIntType (n : Nat) : Bool := 3 ≤ n && n ≤ 6

/-- The entry that opcode, function code and qualifier select, or cause 2 or 3 (R231, R241, R242). -/
def ruleOf (op : BitVec 7) (o : Opnd) : Except Nat Rule :=
  let fn := o.fn.toNat
  let typ := (o.fn &&& 3).toNat
  match op.toNat with
  | 0x00 => ifFn (fn == 0) { make := .nop }
  | 0x01 => ifFn (fn == 0) { make := .endCtl, fmts := only32 }
  | 0x02 => ifFn (fn == 0) { make := .br, fmts := long2, imm := 0xFFFF, lit := true }
  | 0x03 => ifFn (fn ≤ 5) { make := .brc, fmts := long2, a := useG, b := useG, imm := 0xFFFF, lit := true }
  | 0x04 => ifFn (fn == 0) { make := .bri, a := useG, imm := 0xFFFF }
  | 0x05 => ifFn (fn == 0) { make := .call, fmts := long2, d := useD, imm := 0xFFFF, lit := true }
  | 0x06 => ifFn (fn == 0) { make := .ret, fmts := only32, a := useG }
  | 0x07 => ifFn (fn == 0) { make := .loop, fmts := long2, d := .reg .g .both, imm := 0xFFFF, lit := true }
  | 0x08 => ifFn (fn == 0) { make := .trap, imm := 0xFFFF }
  | 0x09 =>
    match fn with
    | 0 => .ok { make := if o.imm16 = 0x011 then .sysrdFlags else .sysrd, fmts := only64, d := useD, imm := 0x0FFF }
    | 1 => .ok
        { make :=
            if o.imm16 = 0x010 then .syswrMode else if o.imm16 = 0x011 then .syswrFlags
            else if o.imm16 = 0x006 then .syswrTrapv else if o.imm16 = 0x007 then .syswrStampb
            else if (0x040#16 ≤ o.imm16 && o.imm16 ≤ 0x04F#16) then .syswrBfmt else .syswr,
          fmts := only64, a := useG, imm := 0x0FFF }
    | 2 => .ok { make := .getmode, d := useD }
    | 3 => .ok { make := .setmode, a := useG, imm := 0xFFFF }
    | 4 => .ok (unRule .signrd)
    | _ => .error 3
  | 0x0A => ifFn (fn == 0) { unRule .feat with imm := 0xFFFF }
  | 0x0B =>
    match fn with
    | 0 => .ok { make := .rdtime, d := useD, lvls := [0, 1], lvlCause := 9 }
    | 1 => .ok { unRule .stamp with imm := 0xFFFF }
    | _ => .error 3
  | 0x0C => ifFn (fn == 0) { make := .yield, fmts := only32 }
  | 0x0D =>
    match fn with
    | 0 => .ok { make := .launch, fmts := only64, d := useD, a := useH, b := useG, c := useU6, imm := 0xFFFF }
    | 1 => .ok (if o.lvl = 1
        then { make := .cancelItem, fmts := only64, d := useD, a := useG, lvls := [1], lvlCause := 9 }
        else { make := .cancel, fmts := only64, d := useD, a := useG, c := useU6, lvlCause := 9 })
    | _ => .error 3
  | 0x0E => ifFn (fn == 1 || fn == 2)
      { make := if fn = 1 then .runMx else .runCp, fmts := long2, a := useG, imm := 0xFFFF, lit := true,
        lvls := [0, 1], lvlCause := 9, kind := if fn = 1 then some .compute else none }
  | 0x10 => ifFn (fn ≤ 2) (binRule .add)
  | 0x11 => ifFn (fn ≤ 3) { unRule .addi with fmts := long2, imm := 0xFFFF, lit := true }
  | 0x12 => ifFn (fn ≤ 2) (binRule .sub)
  | 0x13 => ifFn (fn ≤ 2) (binRule .mul)
  | 0x14 => ifFn (fn ≤ 2) (binRule .mulh)
  | 0x15 => ifFn (fn ≤ 3) { unRule .div with b := useG, long := true }
  | 0x16 => ifFn (fn ≤ 3) { unRule .rem with b := useG, long := true }
  | 0x17 => ifFn (fn == 0) (binRule .and all3)
  | 0x18 => ifFn (fn == 0) (binRule .or all3)
  | 0x19 => ifFn (fn == 0) (binRule .xor all3)
  | 0x1A => ifFn (fn ≤ 1) (binRule .shl)
  | 0x1B => ifFn (fn ≤ 1) (binRule .shr)
  | 0x1C => ifFn (fn ≤ 1) (binRule .sar)
  | 0x1D => ifFn (fn ≤ 1) (binRule .rot)
  | 0x1E => ifFn (fn ≤ 1) (binRule .min)
  | 0x1F => ifFn (fn ≤ 1) (binRule .max)
  | 0x20 => ifFn (fn ≤ 1) (unRule .abs)
  | 0x21 => ifFn (fn == 0) { unRule .sel with fmts := only64, b := useG, c := useG }
  | 0x22 => ifFn (fn ≤ 5) (binRule .cmp)
  | 0x23 => ifFn (fn ≤ 1) { unRule (if fn = 0 then .clz else .popc) with lvls := [0, 1], lvlCause := 9 }
  | 0x24 => ifFn (fn ≤ 1) { unRule .bfx with fmts := only64, b := useU6, c := useU6 }
  | 0x25 => ifFn (fn == 0)
      { make := .bfi, fmts := only64, d := .reg .g .both, a := useG, b := useU6, c := useU6 }
  | 0x26 => ifFn (fn ≤ 1) { make := .li, fmts := long2, d := useD, imm := 0xFFFF, lit := true }
  | 0x27 => ifFn (fn == 0) (unRule .mov)
  | 0x28 => ifFn (fn == 0) { make := .addr, fmts := long2, d := useD, mem := .any, imm := 0xFFFF, lit := true }
  | 0x29 => ifFn (fn ≤ 6)
      { unRule .cvt with c := .num 7, lvls := if fn ≤ 3 && o.c.toNat ≤ 3 then [0, 1] else [0], lvlCause := 9 }
  | 0x2A => ifFn (typ ≤ 2 && fn ≤ 6) { unRule .fadd with b := useG }
  | 0x2B => ifFn (fn ≤ 2) { unRule .fmul with b := useG }
  | 0x2C => ifFn (typ ≤ 2 && fn ≤ 15) { unRule .ffma with fmts := only64, b := useG, c := useG }
  | 0x2D => ifFn (fn ≤ 2) { unRule .fmin with b := useG }
  | 0x2E => ifFn (fn ≤ 2) { unRule .fmax with b := useG }
  | 0x2F => ifFn (typ ≤ 2 && fn ≤ 15) { unRule .fcmp with b := useG }
  | 0x30 => ifFn (sizeOk o.fn && fn ≤ 15) { memRule .ld (sizeReg o.fn .dest) with long := true }
  | 0x31 => ifFn ((o.fn &&& 7).toNat ≤ 4 && fn ≤ 15)
      (if o.fn.getLsbD 3 then
        { memRule .stT (sizeReg o.fn .source) long2 with mem := .handle, b := useD }
      else memRule .st (sizeReg o.fn .source))
  | 0x32 => ifFn (fn ≤ 1) { memRule .ldv useVD with pred := true, long := true }
  | 0x33 => ifFn (fn == 0) { memRule .stv useV with pred := true }
  | 0x34 => ifFn (sizeOk o.fn) { bankRule .ldfe (sizeReg o.fn .dest) with long := true }
  | 0x35 => ifFn (fn ≤ 4) (bankRule .stfe (sizeReg o.fn .source))
  | 0x36 =>
    match fn with
    | 0 => .ok (bankRule .feset useU6)
    | 1 => .ok (bankRule .feclr useU6)
    | 2 => .ok (bankRule .fepeek useD)
    | _ => .error 3
  | 0x37 => ifFn (fn == 0) { make := .xlat, d := .reg .h .dest, a := useG, imm := 0xFFFF }
  | 0x38 => ifFn (fn == 0) { make := .hrel, fmts := only32, d := .reg .h .dest }
  | 0x39 => ifFn (fn ≤ 1) { make := .hinfo, d := useD, a := useH }
  | 0x3A => .ok (atomRule .atom o.fn .dest)
  | 0x3B => ifFn ((o.fn &&& 7) = 0) (atomRule .cas o.fn .both)
  | 0x3C => ifFn ((o.fn &&& 7) = 0) (atomRule .xchg o.fn .dest)
  | 0x3D => ifFn (fn == 0) { make := .mark, fmts := only32 }
  | 0x3E =>
    match fn with
    | 0 => .ok { make := .fenceAcq, lvls := scopes, lvlCause := 9 }
    | 1 => .ok { make := .fenceRel, lvls := scopes, lvlCause := 9 }
    | 2 => .ok { make := .fenceAr, lvls := scopes, lvlCause := 9 }
    | 3 => .ok { make := .fenceWack }
    | _ => .error 3
  | 0x3F => ifFn (fn ≤ 15)
      { make := .wait, fmts := only64, d := useD, a := useG, b := useG, c := useU6, imm := 0xFFFF,
        lvls := scopes, lvlCause := 9,
        more := [(7, o.c.toNat ≥ 8), (5, o.a.toNat + (o.c.toNat % 4) > 63)] }
  | 0x40 => ifFn (fn ≤ 1)
      { make := if fn = 0 then .qpub else .qpubOff, fmts := only64, d := useD, a := useQ, b := useG, c := useQ,
        lvls := scopes, lvlCause := 9 }
  | 0x41 => ifFn (fn == 0) { make := .bararr, fmts := all3, d := useD, mem := .handle, index := false, imm := 0xFFFF, lit := true }
  | 0x42 => ifFn (fn == 0) { make := .barexp, fmts := long2, d := useG, mem := .handle, index := false, imm := 0xFFFF, lit := true }
  | 0x43 => ifFn (fn ≤ 4)
      { make := .gather, fmts := only64, d := useG, a := useH, b := useG, c := useQ, imm := 0xFFFF, lvlCause := 9,
        more := [(7, o.imm16 = 0 || o.imm16.toNat > 1024)] }
  | 0x44 =>
    match fn with
    | 0 => .ok { memRule .cinv useU6 with mem := .handle, lvls := [0] }
    | 1 => .ok { memRule .cwb useU6 with mem := .handle, lvls := [0] }
    | 2 => .ok { memRule .pref useU6 with mem := .handle, lvls := [0, 1, 2] }
    | _ => .error 3
  | 0x50 => ifFn (typ ≤ 2 && fn ≤ 15) (vbinRule .vadd o.fn)
  | 0x51 => ifFn (typ ≤ 2 && fn ≤ 15) (vbinRule .vsub o.fn)
  | 0x52 => ifFn (typ ≤ 2 && fn ≤ 15) (vbinRule .vmul o.fn)
  | 0x53 => ifFn (typ ≤ 2) { make := .vfma, d := useVD, a := useV, b := useV, c := useV, pred := true }
  | 0x54 => ifFn (fn ≤ 15) (vbinRule .vmin o.fn)
  | 0x55 => ifFn (fn ≤ 15) (vbinRule .vmax o.fn)
  | 0x56 => ifFn (fn ≤ 1)
      { vunRule (if fn = 0 then .vabs else .vneg) with lvls := [0, 1, 2, 3, 4], lvlCause := 9 }
  | 0x57 => ifFn (typ ≤ 2 && fn ≤ 15) { vbinRule .vdiv o.fn with long := true }
  | 0x58 => ifFn (fn ≤ 4)
      { vunRule (match fn with | 0 => .vsqrt | 1 => .vrsqrt | 2 => .vrcp | 3 => .vexp2 | _ => .vlog2) with
        lvls := [0, 1, 2], lvlCause := 9, long := true }
  | 0x59 => ifFn (fn ≤ 7)
      { vunRule .vcvt with
        b := if fn = 7 || o.c.toNat = 7 then useG else .no, c := .num 8,
        lvls := if vIntType fn && vIntType o.c.toNat then [0, 1] else [0], lvlCause := 9,
        more := [(5, fn == 7 && o.c.toNat == 7)] }
  | 0x5A => ifFn (fn / 4 ≤ 4 || (fn / 4 = 5 && typ = 3))
      { vunRule .vcmp with b := if o.lvl.getLsbD 0 then useG else useV, lvls := [0, 1], lvlCause := 9 }
  | 0x5B => ifFn (fn ≤ 1) { vunRule .vsel with fmts := only64, b := useV, c := useV }
  | 0x5C =>
    match fn with
    | 0 => .ok (vbitRule .vand o.lvl)
    | 1 => .ok (vbitRule .vor o.lvl)
    | 2 => .ok (vbitRule .vxor o.lvl)
    | _ => .error 3
  | 0x5D => ifFn (typ == 0 && fn ≤ 15) (vbinRule .vshl o.fn)
  | 0x5E => ifFn (typ ≤ 1 && fn ≤ 15) (vbinRule .vshr o.fn)
  | 0x5F => ifFn (typ ≤ 2 && fn ≤ 15) (vbinRule .viadd o.fn)
  | 0x60 => ifFn (typ ≤ 2 && fn ≤ 15) (vbinRule .visub o.fn)
  | 0x61 => ifFn (fn ≤ 7)
      { make := .vdot4, fmts := only64, d := .reg .v .both, a := useV, b := useV, pred := true }
  | 0x62 => ifFn (fn % 8 ≤ 6 && (if fn % 8 ≤ 2 then fn / 8 ≤ 2 else fn / 8 = 0))
      { vunRule .vred with d := if o.lvl = 1 then useVD else useD, lvls := [0, 1], lvlCause := 9, long := true }
  | 0x63 => ifFn (fn % 8 ≤ 6 && (if fn % 8 ≤ 2 then fn / 8 ≤ 2 else fn / 8 = 0))
      { vunRule .vscan with lvls := [0, 1], lvlCause := 9, long := true }
  | 0x64 => ifFn (fn == 0) { vunRule .vshuf with fmts := only64, b := useV, c := useV, lvlCause := 9 }
  | 0x65 =>
    match fn with
    | 0 => .ok { make := .vbcastG, d := useVD, a := useG, pred := true, lvlCause := 9 }
    | 1 => .ok { make := .vbcastImm, fmts := all3, d := useVD, pred := true, imm := 0xFFFF, lit := true,
                 lvlCause := 9 }
    | 2 => .ok { vunRule .vbcastRow with fmts := only64, imm := 0xFFFF, lvlCause := 9 }
    | 3 => .ok { vunRule .vbcastCol with fmts := only64, imm := 0xFFFF, lvlCause := 9 }
    | _ => .error 3
  | 0x66 => ifFn (fn == 0) { make := .vtrans, d := useVD, a := useV, long := true, lvlCause := 9 }
  | 0x67 =>
    match fn with
    | 0 => .ok { vunRule .vmove with lvlCause := 9 }
    | 1 => .ok { vunRule .vmove with lvlCause := 9 }
    | 2 => .ok { make := .vmoveTog, d := useD, a := useV, imm := 0xFFFF, lvls := [0, 1], lvlCause := 9 }
    | 3 => .ok { make := .vmoveFromg, d := .reg .v .both, a := useG, imm := 0xFFFF, lvlCause := 9 }
    | _ => .error 3
  | 0x68 =>
    match fn with
    | 0 => .ok { make := .vshape, fmts := only64, imm := 0x033F }
    | 1 => .ok { make := .vshapeRd, fmts := only64, d := useD }
    | _ => .error 3
  | 0x69 =>
    match fn with
    | 0 => .ok { make := .kset, fmts := all3, d := useK, a := useG, imm := 0xFFFF, lit := true }
    | 1 => .ok { make := .kadd, fmts := all3, d := useK, a := useK, b := useG, imm := 0xFFFF, lit := true }
    | 2 => .ok { make := .kmin, d := useK, a := useK, b := useK }
    | _ => .error 3
  | 0x6A => ifFn (fn ≤ 2) { make := .vidx, d := useVD, a := useG, b := useG, pred := true, lvlCause := 9 }
  | 0x6B => ifFn (fn ≤ 1) { make := .vrand, fmts := only64, d := useVD, a := useG, pred := true, long := true }
  | 0x6C =>
    match fn with
    | 0 => .ok (vunRule .trpack)
    | 1 => .ok (vunRule .trunpack)
    | 2 => .ok { vunRule .trsplit with imm := 0x003F }
    | _ => .error 3
  | 0x70 => ifFn (fn == 0) { make := .sopset, fmts := only64, a := useH, imm := 0xFFFF, kind := some .compute }
  | 0x71 => ifFn (fn ≤ 1)
      { make := if fn = 0 then .scanl else .scan, fmts := only64, d := useU6, a := useG, b := useG, c := useQ,
        imm := 0xFFFF, kind := some .compute }
  | 0x72 => ifFn (fn == 0)
      { make := .sstep, fmts := only64, d := useU6, a := useG, b := useG, c := useQ, kind := some .compute }
  | 0x73 =>
    match fn with
    | 0 => .ok { make := .sld, fmts := only64, d := useVD, a := useU6, b := useG, imm := 0xFFFF, long := true,
                 kind := some .compute }
    | 1 => .ok { make := .sst, fmts := only64, d := useV, a := useU6, b := useG, imm := 0xFFFF,
                 kind := some .compute }
    | _ => .error 3
  | 0x74 => ifFn (fn ≤ 1)
      { make := if fn = 0 then .sbind else .sbindNew, fmts := only64, d := useU6, a := useG, b := useD,
        imm := 0xFFFF, kind := some .compute }
  | 0x75 => ifFn (fn ≤ 1)
      { make := if fn = 0 then .sspill else .sfill, fmts := only64, d := useU6, a := useH, c := useQ,
        imm := 0xFFFF, kind := some .compute }
  | 0x76 =>
    match fn with
    | 0 => .ok { make := .chsend, fmts := only64, d := useU6, a := useG, c := useQ, imm := 0xFFFF,
                 kind := some .compute }
    | 1 => .ok { make := .chrecv, fmts := only64, d := useU6, c := useQ, imm := 0xFFFF, kind := some .compute }
    | _ => .error 3
  | 0x78 =>
    match fn with
    | 0 => .ok (kvRule .kvopen)
    | 1 => .ok (kvRule .kvclose)
    | 2 => .ok { kvRule .kvfork .no 0xFFFF with more := [(7, o.imm16 = 0 || o.imm16.toNat > 15)] }
    | _ => .error 3
  | 0x79 =>
    match fn with
    | 0 => .ok (kvRule .kvappend useG 0x007F)
    | 1 => .ok (kvRule .kvevict useG 0xFFFF)
    | 2 => .ok (kvRule .kvcompact useG)
    | 3 => .ok (if o.lvl = 2 ∨ o.lvl = 3 then { kvRule .kvmapV useG 0x03FF with lvls := [2, 3] }
        else { make := .kvmap, fmts := only64, d := .reg .gEven .dest, a := useG, b := useG, lvls := [0, 1],
               lvlCause := 9, long := true })
    | _ => .error 3
  | 0x7A =>
    match fn with
    | 0 => .ok (kvRule .kvdraft useG 0xFE3F)
    | 1 => .ok { kvRule .kvaccept .no 0xFFFF with more := [(7, o.imm16.toNat > 64)] }
    | 2 => .ok (kvRule .kvreject)
    | _ => .error 3
  | 0x7B => ifFn (fn == 0)
      { kvRule (if o.lvl = 1 then .kvprefixIns else .kvprefixLook) useG with lvls := [0, 1] }
  | 0x7C => ifFn (fn == 0)
      (if o.lvl = 1 then { kvRule .qsendReply useG 0xFFFF with lvls := [1] } else kvRule .qsend .no 0x001F)
  | 0x7D => ifFn (fn ≤ 1)
      { make := if fn = 0 then .adot else .aacc, fmts := only64, d := useG, a := useG, b := useG, c := useG,
        lvls := [0, 1], lvlCause := 9, kind := some .attention }
  | _ => .error 2

/-- Whether a register number lies outside its class (R233, cause 5). -/
def outOfClass (u : Use) (x : BitVec 6) : Bool :=
  match u with
  | .no => false
  | .reg .g _ => false
  | .reg .gEven _ => x.getLsbD 0
  | .reg .v _ => x.toNat ≥ 32
  | .reg .h _ => x.toNat ≥ 16
  | .num n => x.toNat ≥ n

/-- Whether a field is a register source (R235). -/
def isSource (u : Use) : Bool :=
  match u with
  | .reg _ .source | .reg _ .both => true
  | _ => false

/-- Whether fe.d is legal: the bit of a source held in d, or a deferred destination on an opcode marked L (R235). -/
def deferOk (u : Use) (long : Bool) : Bool :=
  match u with
  | .reg .h .dest => false
  | .reg _ .dest => long
  | .reg _ _ => true
  | _ => false

/-- Whether fields a and b of the reference are register sources and in their classes; `c` bit 3 is the base kind
(R239). The index is absent where the entry gives field b another use (R283). -/
def memBankBase (o : Opnd) : Bool := o.c.getLsbD 3

/-- The conditions of R231, causes 4 to 9, for an entry. -/
def violations (r : Rule) (core : CoreKind) (o : Opnd) : List (Nat × Bool) :=
  let mem := decide (r.mem ≠ .no)
  let bank := memBankBase o
  let aUse : Use := if mem then (if bank then useG else useH) else r.a
  let bUse : Use := if mem && decide (r.b = .no) then
      (if r.index then useG else .no) else r.b
  [ (4, !r.fmts.contains o.fmt),
    (5, outOfClass r.d o.d || outOfClass aUse o.a || outOfClass bUse o.b || (!mem && outOfClass r.c o.c)),
    (6, match r.kind with | none => false | some k => decide (k ≠ core)),
    (7, (decide (r.d = .no) && o.d != 0) || (decide (aUse = .no) && o.a != 0) || (decide (bUse = .no) && o.b != 0)
        || (!mem && decide (r.c = .no) && o.c != 0) || (!r.pred && o.k != 0)
        || (if o.fmt = .c96 then o.imm16 != 0 || (!r.lit && o.lit32 != 0) else (o.imm16 &&& ~~~r.imm) != 0)
        || (mem && (o.c.toNat ≥ 16 || (r.mem = .handle && bank) || (r.mem = .bank && !bank)))),
    (8, (o.feA && !isSource aUse) || (o.feB && !isSource bUse) || (o.feC && (mem || !isSource r.c))
        || (o.feD && !deferOk r.d r.long)),
    (9, mem && (o.c.toNat % 8 > 4)),
    (if mem && bank && r.lvlCause = 9 then 9 else r.lvlCause,
      if mem && bank && r.lvlCause = 9 then o.lvl != 0 else !r.lvls.contains o.lvl) ] ++ r.more

/-- The lowest cause that applies (R231). -/
def lowestCause (vs : List (Nat × Bool)) : Option Nat :=
  [4, 5, 6, 7, 8, 9].find? (fun c => vs.any (fun p => p.1 == c && p.2))

/-- FENCE.WACK with a scope is cause 7 and every other unused qualifier too (R231, R260, R299). -/
def decodeFields (core : CoreKind) (op : BitVec 7) (o : Opnd) : Except Nat Instr :=
  match ruleOf op o with
  | .error c => .error c
  | .ok r =>
    match lowestCause (violations r core o) with
    | some c => .error c
    | none => .ok (r.make o)

/-- The number of 32-bit words that bits 1:0 of the first word give (R227); 0 is no instruction. -/
def wordsOf (w : BitVec 32) : Nat := (w.extractLsb' 0 2).toNat

/-- The operand fields of a 32-bit instruction (R228, R229). -/
def fields32 (w : BitVec 32) : Opnd :=
  { fmt := .c32, d := w.extractLsb' 9 6, a := w.extractLsb' 15 6, b := w.extractLsb' 21 6, fn := w.extractLsb' 27 5 }

/-- The operand fields of a 64-bit or 96-bit instruction, whose literal is `lit` (R228). -/
def fields64 (fmt : Fmt) (lit : BitVec 32) (w : BitVec 64) : Opnd :=
  { fmt := fmt, d := w.extractLsb' 9 6, a := w.extractLsb' 15 6, b := w.extractLsb' 21 6, c := w.extractLsb' 27 6,
    fn := w.extractLsb' 33 5, k := w.extractLsb' 38 3, feD := w.getLsbD 41, feA := w.getLsbD 42,
    feB := w.getLsbD 43, feC := w.getLsbD 44, lvl := w.extractLsb' 45 3, imm16 := w.extractLsb' 48 16, lit32 := lit }

/-- Decoding of an instruction whose words, lowest first, are bits 31:0, 63:32 and 95:64 of `w` (R231). -/
def decodeWord (core : CoreKind) (w : BitVec 96) : Except Nat Instr :=
  let op := w.extractLsb' 2 7
  match wordsOf (w.extractLsb' 0 32) with
  | 0 => .error 1
  | 1 => decodeFields core op (fields32 (w.extractLsb' 0 32))
  | 2 => decodeFields core op (fields64 .c64 0 (w.extractLsb' 0 64))
  | _ => decodeFields core op (fields64 .c96 (w.extractLsb' 64 32) (w.extractLsb' 0 64))

/-! ## Records -/

/-- The common fields of a record (R243). -/
def recHead (v : BitVec 512) : RecHead :=
  { trap := v.getLsbD 8, cor := v.getLsbD 9, stv := v.getLsbD 10, cbv := v.getLsbD 11, q := v.extractLsb' 12 4,
    stamp := v.extractLsb' 16 24, cbh := v.extractLsb' 40 4, cboff := v.extractLsb' 480 32 }

/-- The compute-pipe body (R343). -/
def nestBody (v : BitVec 512) : MxNest :=
  { opens := v.getLsbD 48, closes := v.getLsbD 49, x3 := v.getLsbD 50, fsel := v.getLsbD 51, wbuf := v.getLsbD 52,
    tile := v.extractLsb' 56 3, rows := v.extractLsb' 64 6, consume := v.extractLsb' 72 4,
    start := v.extractLsb' 80 8, trip := v.extractLsb' 88 32, astride := v.extractLsb' 120 32,
    tstride := v.extractLsb' 152 32, k0 := v.extractLsb' 184 9, ks := v.extractLsb' 193 9, neg := v.getLsbD 202 }

/-- The body of MXLDW (R344). -/
def ldwBody (v : BitVec 512) : MxLdwBody :=
  { t := v.getLsbD 48, fsel := v.getLsbD 49, wbuf := v.getLsbD 50, consume := v.extractLsb' 56 4,
    start := v.extractLsb' 64 8 }

/-- The body of MXDRAIN (R344). -/
def drainBody (v : BitVec 512) : MxDrainBody :=
  { tile := v.extractLsb' 48 3, clr := v.getLsbD 51, adt := v.extractLsb' 52 2, swt := v.getLsbD 54,
    gsz := v.extractLsb' 56 2, av := v.extractLsb' 58 5, rows := v.extractLsb' 64 6, cols := v.extractLsb' 72 8,
    dst := v.extractLsb' 80 22, rstride := v.extractLsb' 104 16, scl := v.extractLsb' 120 22,
    sa := v.extractLsb' 144 32 }

/-- The body of MXSAVE and MXREST (R344). -/
def saveBody (v : BitVec 512) : MxSaveBody :=
  { tile := v.extractLsb' 48 3, h := v.extractLsb' 56 4, off := v.extractLsb' 64 32 }

/-- The body of MXSTAMP (R344). -/
def stampBody (v : BitVec 512) : MxStampBody := { abs := v.getLsbD 48, delta := v.extractLsb' 56 64 }

/-- The body of CPY and CPYFILL (R385, R388). -/
def cpyBody (v : BitVec 512) : CpyBody :=
  { istr := v.extractLsb' 408 32, ind := v.extractLsb' 406 2, ixa := v.extractLsb' 384 22,
    doff := v.extractLsb' 352 32, soff := v.extractLsb' 320 32, dstr4 := v.extractLsb' 288 32,
    dstr3 := v.extractLsb' 256 32, dstr2 := v.extractLsb' 224 32, sstr4 := v.extractLsb' 192 32,
    sstr3 := v.extractLsb' 160 32, sstr2 := v.extractLsb' 128 32, n4 := v.extractLsb' 112 16,
    n3 := v.extractLsb' 96 16, n2 := v.extractLsb' 80 16, n1 := v.extractLsb' 64 16, dh := v.extractLsb' 60 4,
    sh := v.extractLsb' 56 4, dlvl := v.extractLsb' 54 2, slvl := v.extractLsb' 52 2, dkind := v.extractLsb' 50 2,
    skind := v.extractLsb' 48 2 }

/-- The body of CPYFIFO (R389). -/
def fifoBody (v : BitVec 512) : CpyFifoBody :=
  { pstride := v.extractLsb' 128 32, rstride := v.extractLsb' 112 16, src := v.extractLsb' 80 22,
    rows := v.extractLsb' 64 6, npos := v.extractLsb' 52 4, fifo := v.extractLsb' 48 2 }

/-- The body of CPYNET (R390). -/
def netBody (v : BitVec 512) : CpyNetBody :=
  { len := v.extractLsb' 192 24, rpa := v.extractLsb' 128 52, dev := v.extractLsb' 96 18,
    loff := v.extractLsb' 64 32, lh := v.extractLsb' 51 4, lkind := v.extractLsb' 49 2, get := v.getLsbD 48 }

/-- The body of CPYIND (R391). -/
def indBody (v : BitVec 512) : CpyIndBody :=
  { roff := v.extractLsb' 64 32, rh := v.extractLsb' 49 4, rkind := v.getLsbD 48 }

/-- A record from its common fields and its body, bits 479:48 (R243). -/
def recWord (op : BitVec 8) (h : RecHead) (body : BitVec 432) : BitVec 512 :=
  h.cboff ++ body ++ 0#4 ++ h.cbh ++ h.stamp ++ h.q ++ BitVec.ofBool h.cbv ++ BitVec.ofBool h.stv
    ++ BitVec.ofBool h.cor ++ BitVec.ofBool h.trap ++ op

/-- Bits 479:48 of a compute-pipe record (R343). -/
def nestBits (b : MxNest) : BitVec 432 :=
  0#277 ++ BitVec.ofBool b.neg ++ b.ks ++ b.k0 ++ b.tstride ++ b.astride ++ b.trip ++ b.start ++ 0#4 ++ b.consume
    ++ 0#2 ++ b.rows ++ 0#5 ++ b.tile ++ 0#3 ++ BitVec.ofBool b.wbuf ++ BitVec.ofBool b.fsel ++ BitVec.ofBool b.x3
    ++ BitVec.ofBool b.closes ++ BitVec.ofBool b.opens

def ldwBits (b : MxLdwBody) : BitVec 432 :=
  0#408 ++ b.start ++ 0#4 ++ b.consume ++ 0#5 ++ BitVec.ofBool b.wbuf ++ BitVec.ofBool b.fsel ++ BitVec.ofBool b.t

def drainBits (b : MxDrainBody) : BitVec 432 :=
  0#304 ++ b.sa ++ 0#2 ++ b.scl ++ b.rstride ++ 0#2 ++ b.dst ++ b.cols ++ 0#2 ++ b.rows ++ 0#1 ++ b.av ++ b.gsz
    ++ 0#1 ++ BitVec.ofBool b.swt ++ b.adt ++ BitVec.ofBool b.clr ++ b.tile

def zeroBits (mask : BitVec 8) : BitVec 432 := 0#424 ++ mask

def saveBits (b : MxSaveBody) : BitVec 432 := 0#384 ++ b.off ++ 0#4 ++ b.h ++ 0#5 ++ b.tile

def stampBits (b : MxStampBody) : BitVec 432 := 0#360 ++ b.delta ++ 0#7 ++ BitVec.ofBool b.abs

def cpyBits (b : CpyBody) : BitVec 432 :=
  0#40 ++ b.istr ++ b.ind ++ b.ixa ++ b.doff ++ b.soff ++ b.dstr4 ++ b.dstr3 ++ b.dstr2 ++ b.sstr4 ++ b.sstr3
    ++ b.sstr2 ++ b.n4 ++ b.n3 ++ b.n2 ++ b.n1 ++ b.dh ++ b.sh ++ b.dlvl ++ b.slvl ++ b.dkind ++ b.skind

def fifoBits (b : CpyFifoBody) : BitVec 432 :=
  0#320 ++ b.pstride ++ b.rstride ++ 0#10 ++ b.src ++ 0#10 ++ b.rows ++ 0#8 ++ b.npos ++ 0#2 ++ b.fifo

def netBits (b : CpyNetBody) : BitVec 432 :=
  0#264 ++ b.len ++ 0#12 ++ b.rpa ++ 0#14 ++ b.dev ++ b.loff ++ 0#9 ++ b.lh ++ b.lkind ++ BitVec.ofBool b.get

def indBits (b : CpyIndBody) : BitVec 432 := 0#384 ++ b.roff ++ 0#11 ++ b.rh ++ BitVec.ofBool b.rkind

/-- The 64 bytes of a record (R243 to R245, R343, R344, R385 to R392). -/
def encodeRecord (i : Instr) : Option (BitVec 512) :=
  match i with
  | .mxldw h b => some (recWord 0x01 h (ldwBits b))
  | .mxacc h b => some (recWord 0x02 h (nestBits b))
  | .mxdrain h b => some (recWord 0x03 h (drainBits b))
  | .mxzero h m => some (recWord 0x04 h (zeroBits m))
  | .mxperm h b => some (recWord 0x05 h (nestBits b))
  | .mxred h b => some (recWord 0x06 h (nestBits b))
  | .mxtrn h b => some (recWord 0x07 h (nestBits b))
  | .mxsave h b => some (recWord 0x08 h (saveBits b))
  | .mxrest h b => some (recWord 0x09 h (saveBits b))
  | .mxstamp h b => some (recWord 0x0A h (stampBits b))
  | .mxend h => some (recWord 0x0B h 0)
  | .cpy h b => some (recWord 0x41 h (cpyBits b))
  | .cpyind h b => some (recWord 0x42 h (indBits b))
  | .cpyfifo h b => some (recWord 0x43 h (fifoBits b))
  | .cpynet h b => some (recWord 0x44 h (netBits b))
  | .cpyfill h b => some (recWord 0x45 h (cpyBits b))
  | .rcfence h => some (recWord 0x46 h 0)
  | .cpyend h => some (recWord 0x47 h 0)
  | _ => none

/-- Bit-field reading of a record, by its op (R245); `none` for an op that names no record. -/
def readRecord (v : BitVec 512) : Option Instr :=
  let h := recHead v
  match (v.extractLsb' 0 8).toNat with
  | 0x01 => some (.mxldw h (ldwBody v))
  | 0x02 => some (.mxacc h (nestBody v))
  | 0x03 => some (.mxdrain h (drainBody v))
  | 0x04 => some (.mxzero h (v.extractLsb' 48 8))
  | 0x05 => some (.mxperm h (nestBody v))
  | 0x06 => some (.mxred h (nestBody v))
  | 0x07 => some (.mxtrn h (nestBody v))
  | 0x08 => some (.mxsave h (saveBody v))
  | 0x09 => some (.mxrest h (saveBody v))
  | 0x0A => some (.mxstamp h (stampBody v))
  | 0x0B => some (.mxend h)
  | 0x41 => some (.cpy h (cpyBody v))
  | 0x42 => some (.cpyind h (indBody v))
  | 0x43 => some (.cpyfifo h (fifoBody v))
  | 0x44 => some (.cpynet h (netBody v))
  | 0x45 => some (.cpyfill h (cpyBody v))
  | 0x46 => some (.rcfence h)
  | 0x47 => some (.cpyend h)
  | _ => none

/-- Byte `i`, lowest first, of a packed word of signed loop fields. -/
def packedByte (w : BitVec 32) (i : Nat) : BitVec 8 := w.extractLsb' (8 * i) 8

/-- The span that one loop level adds to a base: trips minus one times its stride (R343). -/
def levelSpan (trip stride : BitVec 32) (i : Nat) : Int :=
  (packedByte trip i).toNat * (packedByte stride i).toInt

/-- Whether every iteration's tile, tile + Σ i_l × tstride_l, is a0 to a7 (R343, R356). -/
def nestTilesOk (b : MxNest) : Bool :=
  let spans := [0, 1, 2, 3].map (levelSpan b.trip b.tstride)
  let lo : Int := b.tile.toNat + (spans.map (fun x => min 0 x)).sum
  let hi : Int := b.tile.toNat + (spans.map (fun x => max 0 x)).sum
  0 ≤ lo && hi ≤ 7

/-- The ranges that every compute-pipe body keeps (R343). -/
def nestRangeBad (b : MxNest) : Bool :=
  b.consume.toNat > 8 || b.start.toInt < -4 || b.start.toInt > 3 || !nestTilesOk b

/-- Cause 5 of R246 beyond the unlisted bits, which re-encoding finds. -/
def recordMbz (h : RecHead) (i : Instr) : Bool :=
  (!h.cbv && (h.cbh != 0 || h.cboff != 0)) ||
  match i with
  | .mxdrain .. => h.stv
  | .mxacc _ b => h.stv || h.cor || b.k0 != 0 || b.ks != 0 || b.neg
  | .mxperm _ b => h.stv || h.cor || b.x3 || b.wbuf
  | .mxred _ b | .mxtrn _ b => h.stv || h.cor || b.x3 || b.wbuf || b.ks != 0
  | .mxldw .. | .mxzero .. | .mxsave .. | .mxrest .. | .mxstamp .. | .mxend .. => h.stv || h.cor
  | .cpy _ b => (!h.stv && h.stamp != 0) || (b.ind = 0 && (b.istr != 0 || b.ixa != 0)) || (b.skind = 3 && b.istr != 0)
  | .cpyfill _ b =>
    (!h.stv && h.stamp != 0) || (b.ind = 0 && (b.istr != 0 || b.ixa != 0)) || b.skind != 0 || b.slvl != 0
      || b.sh != 0 || b.sstr4 != 0 || b.soff != 0
  | _ => !h.stv && h.stamp != 0

/-- Whether a scratchpad base sets a bit above local 21:0 or troupe 27:0, where R385 has zeros. DESIGN CHOICE (log 110): R385
names no cause; the base is then out of its range (cause 6), and not a must-be-zero bit that is set (cause 5). -/
def baseRangeBad (kind : BitVec 2) (off : BitVec 32) : Bool :=
  (kind = 1 && off.toNat ≥ 2 ^ 22) || (kind = 2 && off.toNat ≥ 2 ^ 28)

/-- Cause 6 of R246: body fields outside their ranges or in forbidden combinations. -/
def recordRange (i : Instr) : Bool :=
  match i with
  | .mxldw _ b => b.consume.toNat > 8 || b.start.toInt < -4 || b.start.toInt > 3
  | .mxacc _ b => nestRangeBad b
  | .mxperm _ b => nestRangeBad b || b.k0.toNat > 319 || b.ks.toNat > 319 || b.ks = 0
  | .mxred _ b => nestRangeBad b || b.k0 = 0 || b.k0.toNat > 320
  | .mxtrn _ b => nestRangeBad b || b.k0.toNat > 256
  | .mxdrain _ b =>
    b.gsz = 3 || (b.adt = 1 && b.av = 31) || b.dst.toNat % 16 != 0 || b.scl.toNat % 2 != 0 || b.rstride = 0
      || b.rstride.toNat % 16 != 0
  | .mxzero _ m => m = 0
  | .mxsave _ b | .mxrest _ b => b.off.toNat % 64 != 0
  | .cpy _ b =>
    b.ind = 3 || b.dkind = 3 || b.dlvl.toNat ≥ 2 || b.slvl.toNat ≥ 2
      || (b.ind != 0 && b.ixa.toNat % (if b.skind = 3 then 8 else 4) != 0)
      || (b.skind = 3 && (b.n2 != 0 || b.n3 != 0 || b.ind != 1))
      || baseRangeBad b.dkind b.doff || baseRangeBad b.skind b.soff
  | .cpyfill _ b =>
    b.ind = 3 || b.ind = 1 || b.dkind = 3 || b.dlvl.toNat ≥ 2 || (b.ind != 0 && b.ixa.toNat % 4 != 0)
      || baseRangeBad b.dkind b.doff
  | .cpyfifo _ b => b.src.toNat % 16 != 0 || (b.fifo.toNat ≥ 2 && (b.rows != 0 || b.rstride != 0))
  | .cpynet _ b => b.lkind.toNat ≥ 2 || (b.lkind = 1 && b.loff.toNat ≥ 2 ^ 22)
  | .cpyind _ b => b.roff.toNat % 64 != 0 || (b.rkind && b.roff.toNat ≥ 2 ^ 22)
  | _ => false

/-- Cause 4 of R246: the op needs a unit that the core kind lacks (R385, R389). -/
def recordKindBad (core : CoreKind) (i : Instr) : Bool :=
  match i with
  | .cpyfifo .. => core = .attention
  | .cpy _ b => core = .compute && b.skind = 3
  | _ => false

/-- The common fields of a record constructor. -/
def headOf (i : Instr) : RecHead :=
  match i with
  | .mxldw h _ | .mxacc h _ | .mxdrain h _ | .mxzero h _ | .mxperm h _ | .mxred h _ | .mxtrn h _ | .mxsave h _
  | .mxrest h _ | .mxstamp h _ | .mxend h | .cpy h _ | .cpyind h _ | .cpyfifo h _ | .cpynet h _ | .cpyfill h _
  | .rcfence h | .cpyend h => h
  | _ => {}

/-- Decoding of a record as the matrix stream (`matrix`) or the copy stream fetches it, with the lowest cause of the
illegal-record fault (R246). On an attention core no matrix stream runs (R211). -/
def decodeRecord (core : CoreKind) (matrix : Bool) (v : BitVec 512) : Except Nat Instr :=
  let op := (v.extractLsb' 0 8).toNat
  if op = 0 then .error 1
  else if op = 0x40 ∨ op ≥ 0x80 ∨ (matrix ∧ 0x0C ≤ op ∧ op < 0x40) ∨ (¬matrix ∧ 0x48 ≤ op) then .error 2
  else if matrix = decide (op ≥ 0x40) then .error 3
  else match readRecord v with
    | none => .error 2
    | some i =>
      if recordKindBad core i then .error 4
      else if encodeRecord i ≠ some v ∨ recordMbz (headOf i) i then .error 5
      else if recordRange i then .error 6
      else .ok i

/-- Decoding of a record that CPYIND reads as data (R391): cause 7 for another copy op, cause 5 for a nonzero common
field. -/
def decodeFetched (core : CoreKind) (v : BitVec 512) : Except Nat CpyBody :=
  match decodeRecord core false v with
  | .error c => if c = 6 ∧ recHead v ≠ {} then .error 5 else .error c
  | .ok i =>
    if headOf i ≠ {} then .error 5
    else match i with
      | .cpy _ b => .ok b
      | _ => .error 7

/-! ## The encoder -/

/-- The opcode and operands of a control-stream instruction (R241). -/
def opcodeOf (i : Instr) : Option (BitVec 7 × Opnd) :=
  match i with
  | .nop o => some (0x00, o) | .endCtl o => some (0x01, o) | .br o => some (0x02, o) | .brc o => some (0x03, o)
  | .bri o => some (0x04, o) | .call o => some (0x05, o) | .ret o => some (0x06, o) | .loop o => some (0x07, o)
  | .trap o => some (0x08, o)
  | .sysrd o | .sysrdFlags o | .syswr o | .syswrMode o | .syswrBfmt o | .syswrFlags o | .syswrStampb o
  | .syswrTrapv o | .getmode o | .setmode o | .signrd o => some (0x09, o)
  | .feat o => some (0x0A, o) | .rdtime o | .stamp o => some (0x0B, o) | .yield o => some (0x0C, o)
  | .launch o | .cancel o | .cancelItem o => some (0x0D, o) | .runMx o | .runCp o => some (0x0E, o)
  | .add o => some (0x10, o) | .addi o => some (0x11, o) | .sub o => some (0x12, o) | .mul o => some (0x13, o)
  | .mulh o => some (0x14, o) | .div o => some (0x15, o) | .rem o => some (0x16, o) | .and o => some (0x17, o)
  | .or o => some (0x18, o) | .xor o => some (0x19, o) | .shl o => some (0x1A, o) | .shr o => some (0x1B, o)
  | .sar o => some (0x1C, o) | .rot o => some (0x1D, o) | .min o => some (0x1E, o) | .max o => some (0x1F, o)
  | .abs o => some (0x20, o) | .sel o => some (0x21, o) | .cmp o => some (0x22, o)
  | .clz o | .popc o => some (0x23, o) | .bfx o => some (0x24, o) | .bfi o => some (0x25, o)
  | .li o => some (0x26, o) | .mov o => some (0x27, o) | .addr o => some (0x28, o) | .cvt o => some (0x29, o)
  | .fadd o => some (0x2A, o) | .fmul o => some (0x2B, o) | .ffma o => some (0x2C, o) | .fmin o => some (0x2D, o)
  | .fmax o => some (0x2E, o) | .fcmp o => some (0x2F, o) | .ld o => some (0x30, o)
  | .st o | .stT o => some (0x31, o) | .ldv o => some (0x32, o) | .stv o => some (0x33, o)
  | .ldfe o => some (0x34, o) | .stfe o => some (0x35, o)
  | .feset o | .feclr o | .fepeek o => some (0x36, o) | .xlat o => some (0x37, o) | .hrel o => some (0x38, o)
  | .hinfo o => some (0x39, o) | .atom o => some (0x3A, o) | .cas o => some (0x3B, o) | .xchg o => some (0x3C, o)
  | .mark o => some (0x3D, o) | .fenceAcq o | .fenceRel o | .fenceAr o | .fenceWack o => some (0x3E, o)
  | .wait o => some (0x3F, o) | .qpub o | .qpubOff o => some (0x40, o) | .bararr o => some (0x41, o)
  | .barexp o => some (0x42, o) | .gather o => some (0x43, o) | .cinv o | .cwb o | .pref o => some (0x44, o)
  | .vadd o => some (0x50, o) | .vsub o => some (0x51, o) | .vmul o => some (0x52, o) | .vfma o => some (0x53, o)
  | .vmin o => some (0x54, o) | .vmax o => some (0x55, o) | .vabs o | .vneg o => some (0x56, o)
  | .vdiv o => some (0x57, o) | .vsqrt o | .vrsqrt o | .vrcp o | .vexp2 o | .vlog2 o => some (0x58, o)
  | .vcvt o => some (0x59, o) | .vcmp o => some (0x5A, o) | .vsel o => some (0x5B, o)
  | .vand o | .vor o | .vxor o => some (0x5C, o) | .vshl o => some (0x5D, o) | .vshr o => some (0x5E, o)
  | .viadd o => some (0x5F, o) | .visub o => some (0x60, o) | .vdot4 o => some (0x61, o) | .vred o => some (0x62, o)
  | .vscan o => some (0x63, o) | .vshuf o => some (0x64, o)
  | .vbcastG o | .vbcastImm o | .vbcastRow o | .vbcastCol o => some (0x65, o) | .vtrans o => some (0x66, o)
  | .vmove o | .vmoveTog o | .vmoveFromg o => some (0x67, o) | .vshape o | .vshapeRd o => some (0x68, o)
  | .kset o | .kadd o | .kmin o => some (0x69, o) | .vidx o => some (0x6A, o) | .vrand o => some (0x6B, o)
  | .trpack o | .trunpack o | .trsplit o => some (0x6C, o) | .sopset o => some (0x70, o)
  | .scanl o | .scan o => some (0x71, o) | .sstep o => some (0x72, o) | .sld o | .sst o => some (0x73, o)
  | .sbind o | .sbindNew o => some (0x74, o) | .sspill o | .sfill o => some (0x75, o)
  | .chsend o | .chrecv o => some (0x76, o) | .kvopen o | .kvclose o | .kvfork o => some (0x78, o)
  | .kvappend o | .kvevict o | .kvcompact o | .kvmap o | .kvmapV o => some (0x79, o)
  | .kvdraft o | .kvaccept o | .kvreject o => some (0x7A, o) | .kvprefixLook o | .kvprefixIns o => some (0x7B, o)
  | .qsend o | .qsendReply o => some (0x7C, o) | .adot o | .aacc o => some (0x7D, o)
  | _ => none

/-- The 32-bit form (R228). -/
def word32 (op : BitVec 7) (o : Opnd) : BitVec 32 := o.fn ++ o.b ++ o.a ++ o.d ++ op ++ 1#2

/-- The low 64 bits of the 64-bit and 96-bit forms (R228). -/
def word64 (len : BitVec 2) (op : BitVec 7) (o : Opnd) : BitVec 64 :=
  o.imm16 ++ o.lvl ++ BitVec.ofBool o.feC ++ BitVec.ofBool o.feB ++ BitVec.ofBool o.feA ++ BitVec.ofBool o.feD
    ++ o.k ++ o.fn ++ o.c ++ o.b ++ o.a ++ o.d ++ op ++ len

/-- The instruction words of a control-stream instruction, lowest word in bits 31:0 (R228). -/
def encodeWord (i : Instr) : Option (BitVec 96) :=
  match opcodeOf i with
  | none => none
  | some (op, o) =>
    match o.fmt with
    | .c32 => some (0#64 ++ word32 op o)
    | .c64 => some (0#32 ++ word64 2 op o)
    | .c96 => some (o.lit32 ++ word64 3 op o)

/-- The bytes of a bit vector of `n` bytes, lowest first (R6). -/
def bytesOf (n : Nat) (w : Nat) : List Byte := (List.range n).map (fun i => BitVec.ofNat 8 (w >>> (8 * i)))

/-- The value of bytes, lowest first (R6). -/
def leNat : List Byte → Nat
  | [] => 0
  | b :: bs => b.toNat + 256 * leNat bs

/-- The bytes of a well-formed instruction or record, as memory holds them; `none` for an event, which has no
encoding. -/
def encode (i : Instr) : Option (List Byte) :=
  match encodeWord i, opcodeOf i with
  | some w, some (_, o) =>
    some (bytesOf (match o.fmt with | .c32 => 4 | .c64 => 8 | .c96 => 12) w.toNat)
  | _, _ => (encodeRecord i).map (fun v => bytesOf 64 v.toNat)

/-- Decoding of a control-stream instruction from bytes, lowest address first: the instruction and its length, or the
cause. Too few bytes decode as if zero bytes followed. -/
def decodeBytes (core : CoreKind) (bs : List Byte) : Except Nat (Instr × Nat) :=
  let w := BitVec.ofNat 96 (leNat (bs.take 12))
  match decodeWord core w with
  | .error c => .error c
  | .ok i => .ok (i, 4 * wordsOf (w.extractLsb' 0 32))

/-- The instruction that the decoder reads from the word `w` of an opcode-table row of `nbits` bits: its bytes, lowest
first, followed by zero bytes. A row that only an attention core runs decodes as one decodes it. -/
def decodeTableWord (nbits w : Nat) : Option Instr :=
  if nbits ≥ 512 then
    let v := BitVec.ofNat 512 w
    match decodeRecord .compute true v, decodeRecord .compute false v with
    | .ok i, _ => some i
    | _, .ok i => some i
    | _, _ => none
  else
    let bs := bytesOf 12 (w % 2 ^ nbits)
    match decodeBytes .compute bs, decodeBytes .attention bs with
    | .ok (i, _), _ => some i
    | _, .ok (i, _) => some i
    | _, _ => none

end Sys2Proof
end

