-- ==== Sys2Proof/Machine/Crypto.lean ====
section
/-! DEFINITION. The functions that the spec names by standard: SHA3-256 (R106, R107), AES-256 in XTS mode (R136),
Philox-4x32-10 (R335), CRC-32C (R452, R461) and CRC-64 with the ECMA-182 polynomial (R459). -/

namespace Sys2Proof.Machine

/-! ## SHA3-256 -/

/-- The rotation of each lane, lane x + 5y. -/
def keccakRot : List Nat :=
  [0, 1, 62, 28, 27, 36, 44, 6, 55, 20, 3, 10, 43, 25, 39, 41, 45, 15, 21, 8, 18, 2, 61, 56, 14]

/-- The constants of the 24 rounds. -/
def keccakRC : List Word :=
  [0x1#64,
   0x8082#64,
   0x800000000000808a#64,
   0x8000000080008000#64,
   0x808b#64,
   0x80000001#64,
   0x8000000080008081#64,
   0x8000000000008009#64,
   0x8a#64,
   0x88#64,
   0x80008009#64,
   0x8000000a#64,
   0x8000808b#64,
   0x800000000000008b#64,
   0x8000000000008089#64,
   0x8000000000008003#64,
   0x8000000000008002#64,
   0x8000000000000080#64,
   0x800a#64,
   0x800000008000000a#64,
   0x8000000080008081#64,
   0x8000000000008080#64,
   0x80000001#64,
   0x8000000080008008#64]

/-- One round of Keccak-f[1600] on 25 lanes. -/
def keccakRound (a : List Word) (rc : Word) : List Word :=
  let at_ (l : List Word) (i : Nat) : Word := l.getD i 0
  let c := (List.range 5).map (fun x => at_ a x ^^^ at_ a (x + 5) ^^^ at_ a (x + 10) ^^^ at_ a (x + 15) ^^^ at_ a (x + 20))
  let d := (List.range 5).map (fun x => at_ c ((x + 4) % 5) ^^^ (at_ c ((x + 1) % 5)).rotateLeft 1)
  let r := (List.range 25).map (fun i => (at_ a i ^^^ at_ d (i % 5)).rotateLeft (keccakRot.getD i 0))
  -- lane x + 5y moves to column y and row 2x + 3y
  let b := (List.range 25).map (fun i =>
    let X := i % 5
    let Y := i / 5
    let x := (X + 3 * Y) % 5
    at_ r (x + 5 * X))
  ((List.range 25).map (fun i =>
    let y := 5 * (i / 5)
    let v := at_ b i ^^^ (~~~at_ b (y + (i + 1) % 5) &&& at_ b (y + (i + 2) % 5))
    if i = 0 then v ^^^ rc else v))

def keccakF (a : List Word) : List Word := keccakRC.foldl keccakRound a

/-- The message padded for SHA3-256, whose rate is 136 bytes. -/
def sha3Pad (m : List Byte) : List Byte :=
  let r := 136 - m.length % 136
  if r = 1 then m ++ [0x86#8] else m ++ [0x06#8] ++ List.replicate (r - 2) 0#8 ++ [0x80#8]

/-- One block absorbed. -/
def sha3Absorb (a : List Word) (block : List Byte) : List Word :=
  keccakF ((List.range 25).map (fun i =>
    a.getD i 0 ^^^ (if i < 17 then BitVec.ofNat 64 (leNat ((block.drop (8 * i)).take 8)) else 0)))

/-- SHA3-256 of a list of bytes, read as a little-endian integer (R106). -/
def sha3 (m : List Byte) : BitVec 256 :=
  let p := sha3Pad m
  let a := (List.range (p.length / 136)).foldl (fun a i => sha3Absorb a ((p.drop (136 * i)).take 136))
    (List.replicate 25 0)
  a.getD 3 0 ++ a.getD 2 0 ++ a.getD 1 0 ++ a.getD 0 0

/-! ## AES-256 and XTS -/

/-- The substitution box of AES, entry i in byte i mod 32 of element i div 32. -/
def aesBox : List Nat :=
  [
    0xc072a49cafa2d4adf04759fa7dc982ca76abd7fe2b670130c56f6bf27b777c63,
    0x75b227ebe28012079a059618c323c7041531d871f1e5a534ccf73f362693fdb7,
    0xcf584c4a39becb6a5bb1fc20ed00d153842fe329b3d63b52a05a6e1b1a2c8309,
    0xd2f3ff1021dab6bcf5389d928f40a351a89f3c507f02f94585334d43fbaaefd0,
    0xdb0b5ede14b8ee4688902a22dc4f816073195d643d7ea7c41744975fec130ccd,
    0x8ae7a65eaf4566ca94ed58d6d37c8e779e4959162acd3c25c2406490a3a32e0,
    0x9e1dc186b95735610ef6034866b53e708a8bbd4b1f74dde8c6b4a61c2e2578ba,
    0x16bb54b00f2d99416842e6bf0d89a18cdf2855cee9871e9b948ed9691198f8e1]

/-- The inverse substitution box. -/
def aesBoxInv : List Nat :=
  [
    0xcbe9dec444438e3487ff2f9b8239e37cfbd7f3819ea340bf38a53630d56a0952,
    0x25d18b6d49a25b76b224d92866a12e084ec3fa420b954cee3d23c2a632947b54,
    0x849d8da75746155edab9edfd5048706c92b6655dcc5ca4d41698688664f6f872,
    0x6b8a130103bdafc1020f3fca8f1e2cd00645b3b80558e4f70ad3bc8c00abd890,
    0x6edf751ce837f9e28535ade72274ac9673e6b4f0cecff297eadc674f4111913a,
    0xf45acd78fec0db9a2079d2c64b3e56fc1bbe18aa0e62b76f89c5291d711af147,
    0xef9cc9939f7ae52d0d4ab519a97f51605fec8027591012b131c7078833a8dd1f,
    0x7d0c2155631469e126d677ba7e042b17619953833cbbebc8b0f52aae4d3be0a0]

def boxAt (t : List Nat) (x : Nat) : Nat := (t.getD (x / 32) 0 >>> (8 * (x % 32))) % 256

/-- Multiplication by x in GF(2^8) of AES. -/
def aesDouble (x : Nat) : Nat := if x < 128 then 2 * x else (2 * x) ^^^ 0x11B

/-- Multiplication by a constant below 16. -/
def aesTimes (k x : Nat) : Nat :=
  let x2 := aesDouble x
  let x4 := aesDouble x2
  let x8 := aesDouble x4
  (if k % 2 = 1 then x else 0) ^^^ (if k / 2 % 2 = 1 then x2 else 0) ^^^ (if k / 4 % 2 = 1 then x4 else 0)
    ^^^ (if k / 8 % 2 = 1 then x8 else 0)

def xorBytes (a b : List Nat) : List Nat := List.zipWith (fun x y => x ^^^ y) a b

/-- The 60 words of the AES-256 key schedule, each four bytes. -/
def aesSchedule (key : List Nat) : List (List Nat) :=
  let first := (List.range 8).map (fun i => (key.drop (4 * i)).take 4)
  (List.range 52).foldl (fun ws j =>
    let i := j + 8
    let t := ws.getD (i - 1) []
    let t :=
      if i % 8 = 0 then
        xorBytes ((t.drop 1 ++ t.take 1).map (boxAt aesBox)) [2 ^ (i / 8 - 1), 0, 0, 0]
      else if i % 8 = 4 then t.map (boxAt aesBox) else t
    ws ++ [xorBytes (ws.getD (i - 8) []) t]) first

/-- The 16 bytes of a round key. -/
def aesRoundKey (ws : List (List Nat)) (r : Nat) : List Nat := ((ws.drop (4 * r)).take 4).flatten

/-- ShiftRows, or its inverse, on bytes in column order. -/
def aesShift (inverse : Bool) (b : List Nat) : List Nat :=
  (List.range 16).map (fun i =>
    let row := i % 4
    let col := i / 4
    b.getD (4 * ((col + (if inverse then 4 - row else row)) % 4) + row) 0)

/-- MixColumns with a row of coefficients. -/
def aesMix (k : List Nat) (b : List Nat) : List Nat :=
  (List.range 16).map (fun i =>
    (List.range 4).foldl (fun v j =>
      v ^^^ aesTimes (k.getD ((j + 4 - i % 4) % 4) 0) (b.getD (4 * (i / 4) + j) 0)) 0)

/-- AES-256 encryption of a 16-byte block. -/
def aesEncrypt (ws : List (List Nat)) (b : List Nat) : List Nat :=
  let b := xorBytes b (aesRoundKey ws 0)
  let b := (List.range 13).foldl (fun b r =>
    xorBytes (aesMix [2, 3, 1, 1] (aesShift false (b.map (boxAt aesBox)))) (aesRoundKey ws (r + 1))) b
  xorBytes (aesShift false (b.map (boxAt aesBox))) (aesRoundKey ws 14)

/-- AES-256 decryption of a 16-byte block. -/
def aesDecrypt (ws : List (List Nat)) (b : List Nat) : List Nat :=
  let b := xorBytes b (aesRoundKey ws 14)
  let b := (List.range 13).foldl (fun b r =>
    aesMix [14, 11, 13, 9] (xorBytes ((aesShift true b).map (boxAt aesBoxInv)) (aesRoundKey ws (13 - r)))) b
  xorBytes ((aesShift true b).map (boxAt aesBoxInv)) (aesRoundKey ws 0)

/-- The next tweak of XTS: multiplication by x in GF(2^128), bytes little-endian. -/
def xtsNext (t : BitVec 128) : BitVec 128 := (t <<< 1) ^^^ (if t.msb then 0x87#128 else 0#128)

/-- One 512-byte data unit through AES-256 in XTS mode (R136). -/
def xtsUnit (encrypt : Bool) (k1 k2 : BitVec 256) (tweak : BitVec 128) (data : List Byte) : List Byte :=
  let nats (bs : List Byte) : List Nat := bs.map (fun b => b.toNat)
  let w1 := aesSchedule (nats (bytesOf 32 k1.toNat))
  let w2 := aesSchedule (nats (bytesOf 32 k2.toNat))
  let t0 : BitVec 128 :=
    BitVec.ofNat 128 (leNat ((aesEncrypt w2 (nats (bytesOf 16 tweak.toNat))).map (fun n => BitVec.ofNat 8 n)))
  ((List.range 32).foldl (fun (p : BitVec 128 × List Byte) i =>
    let t := nats (bytesOf 16 p.1.toNat)
    let x := xorBytes (nats ((data.drop (16 * i)).take 16)) t
    let y := xorBytes (if encrypt then aesEncrypt w1 x else aesDecrypt w1 x) t
    (xtsNext p.1, p.2 ++ y.map (fun n => BitVec.ofNat 8 n))) (t0, [])).2

/-- The tweak of R136: kdh, logical block number, unit. -/
def tweakOf (kdh : BitVec 32) (lbn : Word) (unit : Nat) : BitVec 128 := kdh ++ lbn ++ BitVec.ofNat 32 unit

/-- Whole data units under one logical block, the first numbered `unit`. -/
def xtsUnits (encrypt : Bool) (k1 k2 : BitVec 256) (kdh : BitVec 32) (lbn : Word) (unit : Nat) (data : List Byte) :
    List Byte :=
  (List.range (data.length / 512)).flatMap (fun i =>
    xtsUnit encrypt k1 k2 (tweakOf kdh lbn (unit + i)) ((data.drop (512 * i)).take 512))

/-! ## Philox -/

/-- Philox-4x32-10 (R335): the 128 bits of block `m` under a key from SEED. -/
def philox (m : Nat) (x1 : BitVec 32) (wid seed : Word) : BitVec 128 :=
  let step (p : (BitVec 32 × BitVec 32 × BitVec 32 × BitVec 32) × BitVec 32 × BitVec 32) (_ : Nat) :=
    let ((x0, x1, x2, x3), y0, y1) := p
    let u : Word := 0xD2511F53#64 * x0.setWidth 64
    let v : Word := 0xCD9E8D57#64 * x2.setWidth 64
    ((v.extractLsb' 32 32 ^^^ x1 ^^^ y0, v.extractLsb' 0 32, u.extractLsb' 32 32 ^^^ x3 ^^^ y1, u.extractLsb' 0 32),
      y0 + 0x9E3779B9#32, y1 + 0xBB67AE85#32)
  let r := (List.range 10).foldl step
    ((BitVec.ofNat 32 m, x1, wid.extractLsb' 0 32, wid.extractLsb' 32 32), seed.extractLsb' 0 32, seed.extractLsb' 32 32)
  let (x0, x1, x2, x3) := r.1
  x3 ++ x2 ++ x1 ++ x0

/-! ## Checksums -/

/-- CRC-32C of bytes: the Castagnoli polynomial, reflected, with initial and final inversion (RFC 3720). -/
def crc32c (bs : List Byte) : BitVec 32 :=
  ~~~(bs.foldl (fun (c : BitVec 32) b =>
    (List.range 8).foldl (fun (c : BitVec 32) _ => if c.getLsbD 0 then (c >>> 1) ^^^ 0x82F63B78#32 else c >>> 1)
      (c ^^^ b.setWidth 32)) 0xFFFFFFFF#32)

/-- CRC-64 of bytes with the ECMA-182 polynomial, most significant bit first, initial value 0 (log 14). -/
def crc64 (bs : List Byte) : BitVec 64 :=
  bs.foldl (fun (c : BitVec 64) b =>
    (List.range 8).foldl (fun (c : BitVec 64) _ => if c.msb then (c <<< 1) ^^^ 0x42F0E1EBA9EA3693#64 else c <<< 1)
      (c ^^^ (b ++ 0#56))) 0#64

end Sys2Proof.Machine
end

