-- ==== Sys2Proof/Config.lean ====
section
/-! DEFINITION. What an implementation fixes, and the free values: what the spec leaves open. -/

namespace Sys2Proof.Config

/-- The `n`-th draw of 512 bits from the entropy source of a die, conditioned as R130 says. Free: the spec gives no
value. Log 5. -/
opaque entropy : Nat → BitVec 512

/-- Whether an ML-DSA-44 signature (FIPS 204, R463, R467, R468) of a digest verifies under the key with this hash.
Free: the spec names the standard and gives no values. Log 6. -/
opaque mldsaVerify : BitVec 256 → BitVec 256 → List Byte → Bool

/-- The ML-DSA-44 signature that the device identity key makes of a digest (R469). Free. Log 6. -/
opaque mldsaSign : BitVec 256 → List Byte

/-- SHA3-256 of the device identity public key, derived from the fuse seed (R469). Free. Log 6. -/
opaque identityKeyDigest : BitVec 256

/-- Header bytes 4 to 31 of a chain packet as a number, from its fields (R461). Free: the spec lists the fields without their
places. Log 105. -/
opaque chainHeader : List Nat → BitVec 224

/-- An entry of an error log as a host receives it, from its fields (R448). Free: the spec gives no format. Log 107. -/
opaque errorRecord : List Nat → BitVec 128

/-- One variant of a code object (R463): the five feature words of its tag, its core kind, its code bytes. -/
structure Variant where
  tag : List Word
  kind : BitVec 8
  code : List Byte
  deriving DecidableEq, Repr

/-- A Skobuvo object as R463 lists its sections. -/
structure CodeObject where
  variants : List Variant
  lpf : List Byte
  /-- The bytes before the signature section. -/
  signedLen : Nat
  signature : List Byte
  keyHash : BitVec 256
  deriving DecidableEq, Repr

/-- An entry of the variant table as it reads (R463): tag, core kind, offset and length of the code region, digest. -/
structure ObjectEntry where
  tag : List Word
  kind : BitVec 8
  code : Nat × Nat
  digest : BitVec 256
  deriving DecidableEq, Repr

/-- The header and the variant table of a Skobuvo object as they read (R463): magic, version, variant count, the object's length,
offset and length of the variant table and of the LPF section with its digest, the offset of the signature section. -/
structure ObjectLayout where
  magic : Nat := 0
  version : Nat := 0
  count : Nat := 0
  length : Nat := 0
  table : Nat × Nat := (0, 0)
  entries : List ObjectEntry := []
  lpf : Nat × Nat := (0, 0)
  lpfDigest : BitVec 256 := 0
  signature : Nat := 0
  deriving DecidableEq, Repr, Inhabited

/-- What the header and the variant table of an object say. R463 lists the fields without their places, so that reading
the bytes is free. Log 6. -/
opaque objectLayout : List Byte → ObjectLayout

/-- A part of an LPF section that the translator checks: a control instruction, a copy record, or a matrix record, the first of
its stream or a later one, with the format of the destination bank that its drain is taken to have. -/
inductive CodePart where
  | control
  | copy
  | matrix (first : Bool) (fmt : BitVec 32)
  deriving DecidableEq, Repr

/-- The parts of an LPF section with their offsets, in order; all else is data. Free: the section does not say which of its
bytes are instructions, records and data. Log 6. -/
opaque codeMap : List Byte → List (Nat × CodePart)

/-- The place of the `n`-th page table that firmware makes, in units of 8,192 bytes of the home die's LPDDR-5X (R108).
Free: the spec leaves it to firmware. Log 24. -/
opaque tablePlace : Nat → BitVec 25

/-- The status of a management request that is not done. Free but for being nonzero (R458). Log 24. -/
opaque refusalStatus : BitVec 8 → BitVec 32

/-- The minimum firmware version in the read-only fuses (R468). Free. Log 6. -/
opaque minFirmware : BitVec 32

/-- The hash of Ocoatu's public key in the boot ROM (R468). Free. Log 6. -/
opaque ocoatuKeyHash : BitVec 256

/-- The storage address of a new KV block of a die, by its ID and epoch (R143, R144). Free: the spec leaves the place to
the die. Log 17. -/
opaque blockPlace : Nat → Nat → BitVec 16 → BitVec 64

/-- The place of a structure of a sequence in its die's LPDDR-5X, physical address bits 47:8 (R139): the die, the sequence,
the cc of its creation, and 0 for the span directory, 1 for the shadow span, 2 for the list of held domains. Free: the spec
leaves the place to the slice. Log 75. -/
opaque seqPlace : Nat → BitVec 24 → Nat → Nat → BitVec 40

/-- Whether the refill of the FIFOs of a slot, in a cc, takes the old contents of a granule that has been written since
its position was filled, or the new ones (R54, R55). Free. Log 8. -/
opaque refillOld : Nat → Nat → Nat → Bool

/-- Which ordinary line of a full set a slice evicts, in a cc, for a line that comes in: a number taken modulo their count.
Free: the spec gives no replacement rule for the slices (R60). Log 37. -/
opaque victim : Nat → Nat → Nat

/-- The share of a die's LPDDR-5X bandwidth that a latency-class 3 page of a size reserves, in parts per million. Free: R114
gives the limit of 50 % and not what a page reserves. Log 21. -/
opaque reservedShare : BitVec 2 → Nat

/-- The stepping byte of FEAT word 0: 0x01 on first silicon (R272). Log 4. -/
def stepping : BitVec 8 := 0x01#8

end Sys2Proof.Config
end

