-- ==== Sys2Proof/Machine/Sparse.lean ====
section
/-! DEFINITION. Sparse data by key: a list of key and value pairs in one canonical form, keys strictly rising and no
value equal to the default. -/

namespace Sys2Proof.Machine

/-- A map from keys to values that differ from a default. -/
abbrev Sparse (α : Type) := List (Nat × α)

/-- The value at a key. -/
def sget {α : Type} (dflt : α) : Sparse α → Nat → α
  | [], _ => dflt
  | (k, v) :: m, a => if a = k then v else sget dflt m a

/-- The map with the key's entry removed. -/
def sdel {α : Type} (m : Sparse α) (a : Nat) : Sparse α := m.filter (fun p => p.1 ≠ a)

/-- The map with a value put at a key. -/
def sput {α : Type} : Sparse α → Nat → α → Sparse α
  | [], a, x => [(a, x)]
  | (k, v) :: m, a, x => if a < k then (a, x) :: (k, v) :: m else if a = k then (a, x) :: m else (k, v) :: sput m a x

/-- The map with a value written at a key; writing the default removes the entry. -/
def sset {α : Type} [DecidableEq α] (dflt : α) (m : Sparse α) (a : Nat) (x : α) : Sparse α :=
  if x = dflt then sdel m a else sput m a x

/-- The entries of values at successive keys. -/
def sentries {α : Type} [DecidableEq α] (dflt : α) (a : Nat) : List α → Sparse α
  | [] => []
  | x :: xs => if x = dflt then sentries dflt (a + 1) xs else (a, x) :: sentries dflt (a + 1) xs

/-- Values written at successive keys. -/
def ssetRange {α : Type} [DecidableEq α] (dflt : α) (m : Sparse α) (a : Nat) (xs : List α) : Sparse α :=
  m.filter (fun p => p.1 < a) ++ sentries dflt a xs ++ m.filter (fun p => a + xs.length ≤ p.1)

/-- Whether keys rise strictly. -/
def srising {α : Type} : Sparse α → Bool
  | [] => true
  | (k, _) :: m => (match m with | [] => true | (l, _) :: _ => decide (k < l)) && srising m

/-- The values at `n` successive keys of a map whose keys rise strictly from the first. -/
def sdense {α : Type} (dflt : α) : Nat → Nat → Sparse α → List α
  | 0, _, _ => []
  | n + 1, a, [] => dflt :: sdense dflt n (a + 1) []
  | n + 1, a, (k, v) :: m => if k = a then v :: sdense dflt n (a + 1) m else dflt :: sdense dflt n (a + 1) ((k, v) :: m)

/-- The values at `n` successive keys, in one pass over a map in canonical form. -/
def sgetRange {α : Type} (dflt : α) (m : Sparse α) (a n : Nat) : List α :=
  let e := m.filter (fun p => a ≤ p.1 && p.1 < a + n)
  if srising e then sdense dflt n a e else (List.range n).map (fun i => sget dflt e (a + i))

/-- The map with every key in `lo` to `hi - 1` at the default. -/
def sclear {α : Type} (m : Sparse α) (lo hi : Nat) : Sparse α := m.filter (fun p => p.1 < lo || hi ≤ p.1)

/-- The canonical form: keys strictly rising, no default value. -/
def swf {α : Type} [DecidableEq α] (dflt : α) : Sparse α → Bool
  | [] => true
  | (k, v) :: m => decide (v ≠ dflt) && m.all (fun p => decide (k < p.1)) && swf dflt m

end Sys2Proof.Machine
end

