-- ==== Sys2Proof/Machine/State.lean ====
section
/-! DEFINITION. The state of the package as plain data, the state after reset, and why a step can stop. -/

namespace Sys2Proof.Machine

/-- A fault that stops the machine itself. Every fault of R426 is a next state (R427 to R435) and none of these. -/
inductive Fault where
  /-- The package has no power (R4, R472): nothing executes until power-up. Raised by every instruction and event other
  than a power-up of a package whose power is off. Safe: the hardware does nothing there. -/
  | unpowered
  deriving DecidableEq, Repr

/-- Why the model gives an instruction no meaning. -/
inductive Refusal where
  /-- Not modelled yet: raised by an arm of the dispatch alone. Safe: nothing is claimed of the instruction. -/
  | notModelled (mnemonic : String)
  deriving DecidableEq, Repr

/-! ## Translation -/

/-- A handle register (R116). `perm` is X, A, W, Rd from bit 3 down; `vpage` is virtual address bits 55:16 and `pbase`
physical address bits 51:16. -/
structure Handle where
  kdh : BitVec 32 := 0
  vpage : BitVec 40 := 0
  perm : BitVec 4 := 0
  pbase : BitVec 36 := 0
  lat : BitVec 3 := 0
  size : BitVec 2 := 0
  walk : Bool := false
  bound : Bool := false
  full : Bool := true
  valid : Bool := false
  deriving DecidableEq, Repr

/-- One leaf's contents with its tag (R110, R115). -/
structure Leaf where
  tenant : BitVec 16
  context : BitVec 16
  vpage : BitVec 40
  size : BitVec 2
  pbase : BitVec 36
  perm : BitVec 4
  lat : BitVec 3
  kdh : BitVec 32
  deriving DecidableEq, Repr

/-- The outstanding translation of a handle (R117, R118, R120): the address, the cc in which a cache hit fills it or
`none` for a walk, whether a use started it, the instruction that did, and whether its walk has faulted. -/
structure Walk where
  h : BitVec 4
  va : Word
  due : Option Nat
  atUse : Bool := false
  source : BitVec 3 := 0
  coff : BitVec 32 := 0
  len : BitVec 2 := 0
  q : BitVec 4 := 0
  /-- The number of the record on its counter, for reports (R427). -/
  opnum : Nat := 0
  /-- The cc in which the lookup was asked for. -/
  since : Nat := 0
  faulted : Bool := false
  /-- What the translation cache held for the lookup when it was asked for: the result of a cache hit (R117, R120). -/
  leaf : Option Leaf := none
  /-- The lookup starts again after the acknowledgement of an invalidation (R123). -/
  restart : Bool := false
  deriving DecidableEq, Repr

/-- What a record or an engine operation captures of a handle (R119). -/
structure Capture where
  base : Nat
  size : Nat
  perm : BitVec 4
  kdh : BitVec 32
  vpage : BitVec 40
  deriving DecidableEq, Repr

/-! ## Streams, counters and operations -/

/-- What a blocked stream waits for (R215). -/
inductive Obj where
  | gReg (r : BitVec 6)
  | vReg (r : BitVec 5)
  | handle (h : BitVec 4)
  | granule (rank : Option Nat) (g : Nat)
  | tile (t : BitVec 3)
  | position (f : BitVec 2) (p : Int)
  | stream (st : StreamId)
  /-- Operations of the slot, by identifier, that must complete first. -/
  | ops (ids : List Nat)
  | member (rank : Nat)
  | queueRoom (q : BitVec 6)
  /-- Every deferred destination of the control stream (R92). -/
  | producers
  /-- Updates of barrier objects that the stream has sent (R174, R180). -/
  | updates
  /-- Writes that the slot's engine contexts have sent (R193). -/
  | sentWrites
  /-- A WAIT whose combination does not hold yet (R217). -/
  | waiting
  /-- A re-translation that hits, until the handle is refilled (R120). -/
  | refill (h : BitVec 4)
  /-- A fault of the stream that the user handler has not taken (R432, R433). -/
  | handler
  deriving DecidableEq, Repr

/-- One instruction stream of a slot (R211). `issued` marks a stream that has had its turn in the current cc (R422). -/
structure Stream where
  running : Bool := false
  pc : Word := 0
  blocked : Option Obj := none
  issued : Bool := false
  /-- How many cc the stream does not issue yet: a taken branch, an instruction marked L (R236, R261). -/
  hold : Nat := 0
  deriving DecidableEq, Repr

/-- The classes of registers whose results settle after a latency (R261). -/
inductive ResultReg where
  | g
  | v
  deriving DecidableEq, Repr

/-- A register whose result cannot be read for `left` more cc (R261, R320). -/
structure Settling where
  cls : ResultReg
  reg : Nat
  left : Nat
  deriving DecidableEq, Repr

/-- One QPUB binding of a source counter (R304): the target slot and the item it held, its counter, the scope. -/
structure Binding where
  target : SlotId
  queue : BitVec 6
  ordinal : Nat
  index : Nat
  q : BitVec 4
  scope : BitVec 3
  /-- The last value forwarded. -/
  sent : Word
  deriving DecidableEq, Repr

/-- A timeline counter (R182): value, issue count, last acquired value (R195), QPUB bindings, and the source that is
bound to it, as its slot and item (R304), and what its last forward carried. -/
structure Counter where
  value : Word := 0
  issued : Word := 0
  acquired : Word := 0
  bindings : List Binding := []
  boundBy : Option (SlotId × Nat × Nat × Nat) := none
  scope : BitVec 3 := 0
  carriedRc : BitVec 6 := 0
  /-- The lowest number of an operation that wrote compute-side memory (R183); 0 when none did. -/
  firstWrite : Nat := 0
  deriving DecidableEq, Repr

/-- What a matrix or copy record captured when it issued (R342, R41, R119). -/
structure RecCapture where
  mode : BitVec 6 := 0
  trap : Bool := false
  fmts : List (BitVec 32) := []
  handles : List Capture := []
  /-- The bytes that a drain or a save has still to write, in the order of its blocks, that a load has still to take, or that
  a restore has read (R348, R352). -/
  out : List Byte := []
  /-- The rows of the present iteration that the compute pipe has added (R348, R352). -/
  row : Nat := 0
  /-- The logical consumption count of the FIFO that the record reads, before the record (R355). -/
  cs : Nat := 0
  /-- The local address at which a CPYIND found its body (R391). -/
  body : Option Nat := none
  deriving DecidableEq, Repr

/-- A KV operation (R393). -/
inductive KvKind where
  | opens | closes | fork | append | evict | compact | map | mapV | draft | accept | reject | look | insert
  deriving DecidableEq, Repr

/-- The operands of a KV operation as captured at issue (R393, R395). -/
structure KvReq where
  kind : KvKind
  seq : BitVec 24 := 0
  word : Word := 0
  second : Word := 0
  n : Nat := 0
  stride : Nat := 0
  shadow : Bool := false
  status : Nat := 0
  deriving DecidableEq, Repr

/-- A scan operator with the MODE that SOPSET captured (R247, R373). -/
structure ScanOp where
  record : BitVec 512
  mode : BitVec 6
  deriving DecidableEq, Repr

/-- What an engine operation of a slot is, with the progress that its rule keeps. -/
inductive Work where
  /-- R308: destination, index vector, handle, element size, count, and in this pass the indices read so far and the
  elements written or skipped, and the lines fetched (R70 to R72). -/
  | gather (dst idx : Nat) (h : Capture) (esize count : Nat) (index written : List Nat) (lines : List (Nat × List Byte))
  /-- CPY and CPYFILL (R385 to R388): the index of the first unperformed element, the granules that completion empties
  (a troupe granule with its rank plus one above bit 18), and the granules written that a later element of an indirect
  destination may still reach. -/
  | copy (fill : Bool) (b : CpyBody) (cap : RecCapture) (cor : Bool) (next : Nat) (read pend : List Nat)
  /-- R389: the captured format of each position, and the next position to fill. -/
  | fifo (b : CpyFifoBody) (cap : RecCapture) (cor : Bool) (next : Nat)
  /-- R390: the captured handle, trap and cor of the record, the byte from which the request that a GET has sent asks, and
  the bytes that are sent or have come. -/
  | net (b : CpyNetBody) (h : Option Capture) (trap cor : Bool) (sent : Option Nat) (done : Nat)
  /-- A matrix record (R342): the cc in which it issued or in which its next iteration starts, that iteration, and
  whether the record has slipped (R351); for a drain or a save `next` counts the blocks that it has written. -/
  | matrix (i : Instr) (cap : RecCapture) (start : Nat) (next : Nat) (slipped : Bool)
  /-- SCANL, SCAN (`troupe`) and SSTEP (R375): state slot, footprints, positions and channels, the captured operator,
  whether the unit has started it, and the source bytes that it has read in this pass. -/
  | scan (z : BitVec 6) (src dst n nch : Nat) (op : ScanOp) (troupe step started : Bool) (read : List Byte)
  /-- SSPILL and SFILL (R381): slot, page capture, byte offset. -/
  | pannier (fill : Bool) (z : BitVec 6) (h : Capture) (off : Nat)
  /-- CHSEND (R383): state slot, destination word, tag, and once the chain port has read the slot the FULL refusals before. -/
  | chsend (z : BitVec 6) (dest : Word) (tag : BitVec 16) (sent : Option Nat)
  | chrecv (z : BitVec 6) (tag : BitVec 16)
  | kv (req : KvReq) (dest : Option (BitVec 6))
  /-- QSEND in send form (R396): queue, header as read at issue, payload address and bytes, status address. -/
  | query (queue : BitVec 5) (header : BitVec 512) (payload len status : Nat)
  /-- The reply operation of a QSEND (R169): reply region. -/
  | awaitReply (raddr len : Nat)
  /-- QSEND.REPLY (R396): payload address and bytes, inbox tag, status address. -/
  | reply (payload len : Nat) (tag : BitVec 16) (status : Nat)
  /-- A performed KV operation whose status is written once its dead handles are acknowledged (R160, R394, R486). -/
  | status (addr : Nat) (bytes : List Byte)
  /-- CPYEND (R392): it completes after every earlier copy record. -/
  | end_
  /-- The completion update of a barrier object is on its way (R244). -/
  | barrier
  /-- An operation with nothing left to perform. -/
  | none
  deriving DecidableEq, Repr

/-- What an engine has read of the banks and not written yet, for its write belongs to the engine writes of a later cc (R46):
of a copy the index entry of the elements of one transfer, their codes in the destination format, the flags, and the source
granules read (R387); of a KV operation its token or hash bytes. -/
structure Staged where
  ix : Option Nat := none
  values : List Nat := []
  flags : BitVec 6 := 0
  src : List Nat := []
  /-- The key domain of a located block that its block check has found (R149, R486). -/
  kdh : BitVec 32 := 0
  deriving DecidableEq, Repr

/-- An outstanding operation of a slot: identifier, counter and number (R182), source of its fault reports (R427), the
instruction or record that issued it, its completion barrier (R244), flags to be set at completion (R92). -/
structure Op where
  id : Nat
  q : Option (BitVec 4) := none
  num : Nat := 0
  source : BitVec 3 := 0
  coff : BitVec 32 := 0
  len : BitVec 2 := 0
  barrier : Option Nat := none
  /-- The offset of the completion barrier in its handle's page (R428). -/
  barrierOff : Nat := 0
  flags : BitVec 6 := 0
  /-- Faulted, and the fault is not answered yet. -/
  stopped : Bool := false
  /-- Dead handles whose broadcasts must be acknowledged first (R133). -/
  dead : List (BitVec 32) := []
  /-- Whether the operation wrote compute-side memory of the package (R183). -/
  wrote : Bool := false
  /-- The cc in which the scan unit has run the operation's duration (R377), or in which a KV operation was sent (R158). -/
  due : Nat := 0
  staged : Option Staged := none
  work : Work := .none
  deriving DecidableEq, Repr

/-- A pending write of a deferred destination (R236). -/
structure Deferred where
  gs : List (BitVec 6 × Word) := []
  vs : List (BitVec 5 × BitVec 4096) := []
  flags : BitVec 6 := 0
  /-- The cc from which the producer can write (R278, R286, R320). -/
  due : Nat := 0
  deriving DecidableEq, Repr

/-- The state of a WAIT (R217 to R219, R301): the condition words, the timeout, and for each barrier condition, in
operand order, the object's physical address, the last phase received and the object's scope. -/
structure WaitState where
  conds : List Word
  any : Bool
  acq : BitVec 4
  scope : BitVec 3
  t0 : Nat
  timeout : Word
  dest : BitVec 6
  phases : List (Nat × BitVec 32 × BitVec 3) := []
  /-- The home has signalled a phase change of an object that a condition names. -/
  signalled : Bool := false
  deriving DecidableEq, Repr

/-! ## Storage of a slot -/

/-- An accumulator tile beside its elements (R49, R339). -/
structure Tile where
  count : Nat := 0
  full : Bool := true
  opened : Bool := false
  qa : Option Int := none
  deriving DecidableEq, Repr

/-- A weight buffer: the trit bytes it was loaded from (R88), and whether by MXLDW.T (R354). -/
structure WeightBuffer where
  bytes : Sparse Byte := []
  transposed : Bool := false
  deriving DecidableEq, Repr

/-- A filled position of an operand FIFO (R51), with the source footprint that refills it (R54). -/
structure Position where
  num : Nat
  fmt : BitVec 32
  src : Nat
  rstride : Nat
  rows : Nat
  bytes : Sparse Byte
  deriving DecidableEq, Repr

/-- An operand FIFO (R52, R355). C is the least of F and the positions that completed records have consumed. -/
structure Fifo where
  filled : Nat := 0
  /-- The cc in which the last position was filled: a record reads it from the next cc on (R347). -/
  filledAt : Nat := 0
  consumed : Nat := 0
  issuedC : Nat := 0
  held : List Position := []
  deriving DecidableEq, Repr

/-- The tag of a state slot (R367), and whether SBIND.NEW made its domain (R374). -/
structure ZTag where
  state : BitVec 2 := 0
  kdh : BitVec 32 := 0
  fresh : Bool := false
  deriving DecidableEq, Repr

/-- An entry of the record cache (R391): key (physical, or local address with `loc`), and the body. -/
structure CachedRecord where
  loc : Bool
  key : Nat
  body : CpyBody
  deriving DecidableEq, Repr

/-- An operation of an item, wherever the item is: the slot it issued from, the item, the cc of its dispatch, and the
operation. -/
structure OpRef where
  slot : SlotId
  item : Nat × Nat × Nat := (0, 0, 0)
  born : Nat := 0
  op : Nat := 0
  deriving DecidableEq, Repr

/-- A carry (R383): who sends it, to whom, and once the chain port has read the state slot its bytes; the link on which it
came to this package, with the numbers of its packets there; while it waits after a refusal its refusals and the cc of its
resending (R449, R450); and as an answer on its way to the sender, which answer it is. -/
structure Carry where
  srcDev : BitVec 18
  source : OpRef
  dstDev : BitVec 18
  dstCore : BitVec 8
  dstSlot : Bool
  tag : BitVec 16
  tenant : BitVec 16
  context : BitVec 16
  bytes : Option (List Byte) := none
  via : Option Nat := none
  seqs : List (BitVec 24) := []
  refusals : Nat := 0
  due : Nat := 0
  answer : CarryAnswer := .accepted
  deriving DecidableEq, Repr

/-- An occupied inbox slot of a serving item (R168): its index, the queue, and the entry's number. -/
structure InboxEntry where
  index : Nat
  queue : BitVec 5
  no : Nat
  deriving DecidableEq, Repr

/-- An event that the slot has not taken yet (R429): its report (R427), the disposition of R426 as E 0, F 1, U 2, L 3,
the order of its source, and the operation to close (R433). -/
structure Event where
  report : BitVec 512
  disp : BitVec 2
  rank : Nat
  op : Option Nat
  stream : Option StreamId
  deriving DecidableEq, Repr

/-- The faults that a slot waits to have answered (R434): the pages of its context, and the cc S in which it stopped. -/
structure Answer where
  tenant : BitVec 16
  context : BitVec 16
  pages : List (BitVec 40)
  stopped : Nat
  deriving DecidableEq, Repr

/-- The acquire table entries of deterministic mode (R193): agent code and count, and the pending pairs. -/
structure DetState where
  rc : BitVec 6 := 0
  table : List (BitVec 9 × BitVec 6) := []
  pending : List (BitVec 9 × BitVec 6) := []
  deriving DecidableEq, Repr

/-- A range of the launch's pinned translations (R200): virtual base, length, physical base. -/
structure Pin where
  va : Nat
  len : Nat
  pa : Nat
  deriving DecidableEq, Repr

/-- A work item (R202 to R207). -/
structure Item where
  queue : BitVec 6
  ordinal : Nat
  index : Nat
  wid : Word
  rank : Nat
  size : Nat
  dispatched : Nat
  /-- A troupe member that has retired and keeps its slot (R207). -/
  retired : Bool := false
  /-- END has executed (R214). -/
  ended : Bool := false
  deriving DecidableEq, Repr

/-- A tile write that has not landed (R348): the tile, the cc, and whether it then sets the tile full. -/
structure Landing where
  tile : BitVec 3
  at_ : Nat
  fill : Bool
  deriving DecidableEq, Repr

/-- The matrix stream's own timing (R346 to R352): SB, the cc of RUN, the last issue, tile writes still to land, tile
reads with their last cc, whether the next record has been late, and the cc in which the stream's time stopped. -/
structure MatrixTime where
  sb : Word := 0
  started : Nat := 0
  lastIssue : Nat := 0
  lands : List Landing := []
  reads : List (BitVec 3 × Nat) := []
  late : Bool := false
  stoppedAt : Option Nat := none
  deriving DecidableEq, Repr

/-- A context slot (R205, R208, R211, R339). `gEmpty`, `vEmpty`: full/empty bits, 1 for empty;
`empty`: granules by number, false for an empty one. -/
structure Slot where
  id : SlotId
  item : Option Item := none
  record : BitVec 2048 := 0
  pins : List Pin := []
  phase : Nat := 1
  ctl : Stream := {}
  mx : Stream := {}
  cp : Stream := {}
  g : Vector Word 64 := Vector.replicate 64 0
  gEmpty : BitVec 64 := 0
  v : Vector (BitVec 4096) 32 := Vector.replicate 32 0
  vEmpty : BitVec 32 := 0
  k : Vector (BitVec 16) 8 := Vector.replicate 8 0
  rows : BitVec 6 := 0
  wcode : BitVec 2 := 0
  h : Vector Handle 16 := Vector.replicate 16 {}
  walks : List Walk := []
  cache : List Leaf := []
  q : Vector Counter 16 := Vector.replicate 16 {}
  ops : List Op := []
  nextOp : Nat := 0
  deferred : List Deferred := []
  /-- Results of non-L instructions whose latency runs (R261). -/
  settling : List Settling := []
  wait : Option WaitState := none
  mode : BitVec 6 := 0
  flags : BitVec 6 := 0
  seed : Word := 0
  tenant : BitVec 16 := 0
  context : BitVec 16 := 0
  trapv : Word := 0
  stampb : Word := 0
  slips : BitVec 32 := 0
  sig : BitVec 256 := 0
  digest : BitVec 256 := 0
  bfmt : Vector (BitVec 32) 16 := Vector.replicate 16 0
  banks : Sparse Byte := []
  empty : Sparse Bool := []
  conflict : Sparse (BitVec 32) := []
  /-- The slot whose engine context last wrote a granule in the present phase (R195), by granule. -/
  owners : Sparse (BitVec 9) := []
  /-- The granules that hold an uncorrectable error (R446). -/
  poison : Sparse Bool := []
  acc : Sparse (BitVec 48) := []
  accFlags : Sparse (BitVec 3) := []
  tiles : Vector Tile 8 := Vector.replicate 8 {}
  wbuf : Vector WeightBuffer 2 := Vector.replicate 2 {}
  fifos : Vector Fifo 4 := Vector.replicate 4 {}
  time : MatrixTime := {}
  z : Sparse Byte := []
  ztag : Sparse ZTag := []
  scanOp : Option ScanOp := none
  records : List CachedRecord := []
  unmatched : List Carry := []
  /-- The events of the present cc that end the item's launch or lose its context (R429), in the order of R429. -/
  ending : List Event := []
  inbox : List InboxEntry := []
  det : DetState := {}
  events : List Event := []
  answer : Option Answer := none
  /-- Stopped by a pre-emption, and not saved yet (R430, R437). -/
  saving : Bool := false
  blockedFor : Nat := 0
  readyFor : Nat := 0
  /-- The bits that the copy engine has moved in this cc, and beyond it (R387). -/
  copied : Nat := 0
  /-- A stream of the slot has had the translation cache and the handle tests in this cc (R422). -/
  tested : Bool := false
  deriving DecidableEq, Repr

/-! ## The attention dies -/

/-- The states of a key slot (R129). -/
inductive KeyState where
  | free | priv | shared | retired
  deriving DecidableEq, Repr

/-- A key slot (R129). -/
structure KeySlot where
  state : KeyState := .free
  gen : BitVec 15 := 0
  holders : Nat := 0
  k1 : BitVec 256 := 0
  k2 : BitVec 256 := 0
  deriving DecidableEq, Repr

/-- A block-table entry that names a block (R142). -/
structure BlockEntry where
  kdh : BitVec 32
  pbid : BitVec 26
  sealed_ : Bool
  deriving DecidableEq, Repr

/-- A sequence: the descriptor (R139), its span records, keyed 16 × span + entry (R141), and the shadow span (R155). -/
structure Sequence where
  id : BitVec 24
  tenant : BitVec 16
  context : BitVec 16
  kdh : BitVec 32
  doms : List (BitVec 32)
  spans : BitVec 18
  drafts : Nat := 0
  length : Nat := 0
  stride : Nat
  entries : List (Nat × BlockEntry) := []
  shadow : List (Nat × BlockEntry) := []
  /-- Where the span directory, the shadow span and the list of held domains lie (R139). -/
  dir : BitVec 40 := 0
  shadowAt : BitVec 40 := 0
  domsAt : BitVec 40 := 0
  deriving DecidableEq, Repr

/-- A KV page-table entry in use (R144) with the stored ciphertext of its slots (R145). -/
structure Block where
  refs : Nat := 0
  kdh : BitVec 32 := 0
  tenant : BitVec 16 := 0
  epoch : BitVec 16 := 0
  loc : BitVec 64 := 0
  stride : Nat := 0
  fill : Nat := 0
  tier : BitVec 3 := 0
  sealed_ : Bool := false
  moving : Bool := false
  /-- The tier and place that a move in progress goes to (R164). -/
  target : BitVec 3 × BitVec 64 := (0, 0)
  bitmap : BitVec 256 := 0
  data : Sparse Byte := []
  /-- The granules that hold an uncorrectable error (R446). -/
  poison : Sparse Bool := []
  deriving DecidableEq, Repr

/-- A prefix-index entry (R157). -/
structure PrefixEntry where
  set : Nat
  way : Nat
  hash : BitVec 128
  tenant : BitVec 16
  stride : Nat
  pbid : BitVec 26
  kdh : BitVec 32
  lastHit : Nat
  deriving DecidableEq, Repr

/-- A query entry in its queue (R166 to R168): its number, the reply operation of its sender, and whether it has been
delivered. -/
structure QueryEntry where
  no : Nat
  sender : OpRef
  header : BitVec 512
  payload : List Byte
  delivered : Bool := false
  deriving DecidableEq, Repr

/-- A query queue (R165). -/
structure QueryQueue where
  tenant : BitVec 16 := 0
  capacity : Nat := 0
  entries : List QueryEntry := []
  deriving DecidableEq, Repr

/-- A query entry on its way to its queue (R167): the send, the payload once the queue engine has read
it, and how often the queue has refused it (R450). -/
structure QueryArrival where
  queue : BitVec 5
  sender : OpRef
  payload : Option (List Byte) := none
  refused : Nat := 0
  /-- The cc in which its back-off ends (R450). -/
  resendAt : Option Nat := none
  deriving DecidableEq, Repr

/-- The KV store of an attention die. -/
structure KvDie where
  keys : Sparse KeySlot := []
  seqs : List Sequence := []
  blocks : Sparse Block := []
  /-- The bytes of the die's LPDDR-5X that blocks can still take (R143; log 76). -/
  pool : Nat := 274877906944
  index : List PrefixEntry := []
  queues : Sparse QueryQueue := []
  /-- KV operations on their way, in order of arrival (R159). -/
  arrivals : List OpRef := []
  queries : List QueryArrival := []
  /-- Key domains that a KVCLOSE destroys, one in each cc, in order (R486). -/
  closing : List (BitVec 32) := []
  /-- The number of the next query entry. -/
  nextEntry : Nat := 0
  deriving DecidableEq, Repr

/-! ## Launches -/

/-- Why a launch claims no index for now (R437, R472): a host's request, until the host asks to resume; a reservation; a die's
temperature. -/
inductive HoldCause where
  | host
  | reservation (queue : BitVec 6) (ordinal : Nat)
  | thermal (die : BitVec 2)
  deriving DecidableEq, Repr

/-- An accepted launch (R402 to R406). -/
structure Launch where
  ordinal : Nat
  record : BitVec 2048
  acceptedAt : Nat
  pins : List Pin := []
  /-- The next dispatch index to claim. -/
  next : Nat := 0
  firstDispatch : Nat := 0
  lastDispatch : Nat := 0
  retired : Nat := 0
  running : Nat := 0
  redisp : Nat := 0
  /-- Indices owed a re-dispatch (R225), with the slot each was lost on (R226). -/
  owed : List (Nat × SlotId) := []
  cancelled : Bool := false
  failed : Bool := false
  /-- Pre-empted: no index is claimed while a cause holds (R437). -/
  held : List HoldCause := []
  acc : BitVec 256 := 0
  detIndex : Nat := 0
  phase : Nat := 1
  unplaceableSince : Option Nat := none
  /-- The conflict words of the lines that KV operations name (R161): a sequence ID, or 2^24 plus a prefix hash. -/
  kvWords : Sparse (BitVec 32) := []
  deriving DecidableEq, Repr

/-- A launch queue (R400, R402, R406): tenant, acceptance count, completion counter, launches accepted and not complete,
ordinals completed out of order, and the SIG of the last 16 completed with their tenants (R276). `counted` is the cc in which
the completion counter last changed, with its value before that cc. -/
structure Queue where
  tenant : BitVec 16 := 0
  accepted : Nat := 0
  completed : Nat := 0
  counted : Option (Nat × Nat) := none
  launches : List Launch := []
  ahead : List Nat := []
  sigs : List (Nat × BitVec 16 × BitVec 256) := []
  deriving DecidableEq, Repr

/-- A walker (R408 to R411): the core after which the next scan starts, the tenant visited last at each level, deficits
keyed 8 × tenant + level, the reservation (R410) with the cc in which it was taken, and the cc of the next step. -/
structure Walker where
  last : Nat := 63
  visited : Sparse Nat := []
  deficits : Sparse Nat := []
  reservation : Option (BitVec 6 × Nat) := none
  /-- The slots that the reservation of a saved DET item keeps in place of its launch's mask (R441). -/
  kept : List SlotId := []
  reservedAt : Nat := 0
  next : Nat := 0
  deriving DecidableEq, Repr

/-- A core's share of its two slots (R209, R423, R424). -/
structure Core where
  active : Bool := false
  heldSince : Nat := 0
  switchEnds : Nat := 0
  wants : Bool := false
  deriving DecidableEq, Repr

/-- A line of an L1 (R56). -/
structure L1Line where
  core : BitVec 8
  line : Nat
  tenant : BitVec 16
  bytes : List Byte
  deriving DecidableEq, Repr

/-! ## Requests on their way -/

/-- What a request asks of its home slice (R61, R76). -/
inductive ReqKind where
  | write (bytes : List Byte)
  | read (len : Nat)
  /-- No request: the effect of a frame that comes behind others of its flow (R454). -/
  | perform
  deriving DecidableEq, Repr

/-- A request for one line on its way to its home slice (R76, R77): source, 10-bit number, predecessor, identity, address,
bytes, the frame to answer (R456) with its place in it, the bytes of its transfer before the frame (log 93) and those read of
earlier lines that have not gone out, and the cc in which it was sent. In the queue of the intake engine
it stands for what is not yet sent of a frame. -/
structure Request where
  source : Nat
  num : BitVec 10
  pred : Option (BitVec 10)
  tenant : BitVec 16
  context : BitVec 16
  addr : Nat
  kind : ReqKind
  reply : Option Frame := none
  offset : Nat := 0
  lead : Nat := 0
  before : List Byte := []
  sent : Nat := 0
  /-- Whether it waits in the reorder buffer of its slice (R77). -/
  held : Bool := false
  refusals : Nat := 0
  resendAt : Option Nat := none
  deriving DecidableEq, Repr

/-- The place of a request in its source's order (R76, R77): its number, the number of its predecessor on the line, whether it
waits in the reorder buffer of its slice, its refusals, and the cc in which a refused one is sent again (R449, R450). -/
structure Sending where
  num : BitVec 10 := 0
  pred : Option (BitVec 10) := none
  held : Bool := false
  refusals : Nat := 0
  resendAt : Option Nat := none
  deriving DecidableEq, Repr

/-- An update of a barrier object on its way (R221): issuer, object, change of txn, what a report says of its instruction
or operation (R427), and whether the issuer's operation completes with it (R244). -/
structure BarrierUpdate where
  issuer : OpRef
  addr : Nat
  delta : Int
  source : BitVec 3 := 0
  coff : BitVec 32 := 0
  len : BitVec 2 := 0
  q : BitVec 4 := 0
  opnum : Nat := 0
  /-- The cc in which it was sent (R68, R69). -/
  sent : Nat := 0
  /-- The object's offset in the page of its handle, for reports (R428). -/
  offset : Nat := 0
  tenant : BitVec 16
  context : BitVec 16
  completes : Bool := false
  order : Sending := {}
  deriving DecidableEq, Repr

/-- A query reply on its way to the sender (R169): the replier's operation; once its payload is read, the entry
that it answers and the bytes. -/
structure Reply where
  source : OpRef
  sent : Option (QueryEntry × List Byte) := none
  deriving DecidableEq, Repr

/-- A saved item (R438 to R441): the state of its slot, the data of CPYNET GETs held for it, each with its operation,
since when a restore waits, and the serial number of the save. Other completions are held in its operations. -/
structure Saved where
  slot : Slot
  held : List (Nat × List Byte) := []
  since : Nat
  serial : Nat := 0
  deriving DecidableEq, Repr

/-- An invalidation in progress (R122, R123): the old leaf, the slots that it has not reached, those that it has reached
and that have not acknowledged, those whose translation cache held the page; for a migration the address of the table
entry and the new place; and the host that is answered, with the code of its request and what the answer returns. -/
structure Shootdown where
  old : Leaf
  unreached : List SlotId
  unacked : List SlotId := []
  held : List SlotId := []
  entry : Nat
  move : Option Nat := none
  code : BitVec 8 := 0x0D
  more : List Byte := []
  host : BitVec 18
  /-- The number of the request that the invalidation belongs to: it is answered after the last one. -/
  job : Nat := 0
  deriving DecidableEq, Repr

/-- A page fault that a host has been asked to answer (R434): the page, the item that waits on it, the handle of a walk, and
the report of the fault. -/
structure PageFault where
  tenant : BitVec 16
  context : BitVec 16
  vpage : BitVec 40
  owner : OpRef
  handle : Option (BitVec 4)
  report : BitVec 512 := 0
  deriving DecidableEq, Repr

/-! ## Ports and management -/

/-- A frame in a replay window (R453, R454). -/
structure SentFrame where
  frame : Frame
  at_ : Nat
  resends : Nat := 0
  /-- The CPYNET that it belongs to (R390). -/
  op : Option OpRef := none
  deriving DecidableEq, Repr

/-- The sending side of a flow (R453). `waiting` holds the frames that a full window keeps back. -/
structure TxFlow where
  key : FlowKey
  next : BitVec 24 := 1
  window : List SentFrame := []
  waiting : List SentFrame := []
  /-- Consecutive FULL refusals of the oldest frame, and the cc in which its back-off ends (R450). -/
  fulls : Nat := 0
  resendAt : Option Nat := none
  deriving DecidableEq, Repr

/-- The receiving side of a flow (R453, R454). -/
structure RxFlow where
  key : FlowKey
  expected : BitVec 24 := 1
  gapSent : Bool := false
  unacked : Nat := 0
  unackedSince : Nat := 0
  /-- The runs of PUT bytes that it has carried, each a transfer (log 93). -/
  runs : List (Nat × Nat) := []
  deriving DecidableEq, Repr

/-- The Ethernet port (R451 to R455). `wire` holds the frames that the port has sent, latest first. -/
structure Port where
  up : Bool := true
  vlan : Option (BitVec 12) := none
  backoff : BitVec 16 := 50
  retransmit : Nat := 2000
  drops : List Nat := []
  dropped : Nat := 0
  tx : List TxFlow := []
  rx : List RxFlow := []
  wire : List Frame := []
  /-- Link notices that firmware sends: to the host, or to a tenant (R455). -/
  notices : List (Option (BitVec 16)) := []
  deriving DecidableEq, Repr

/-- A chain packet in a replay window (R461): the cc of its last sending, and how often it has been sent again. -/
structure SentPacket where
  packet : ChainPacket
  at_ : Nat
  resends : Nat := 0
  deriving DecidableEq, Repr

/-- A chain link (R461, R462): its parameters, the numbers of both directions, the replay window, the packets of trains that
are not whole, and the drops, with the cc of those of the last millisecond (R455). `gapSent`, `fulls` and `resendAt` are as in a
flow of the Ethernet port; `wire` holds the packets that the link has sent, latest first. -/
structure ChainLink where
  up : Bool := true
  backoff : BitVec 16 := 50
  retransmit : Nat := 50
  next : BitVec 24 := 1
  expected : BitVec 24 := 1
  window : List SentPacket := []
  partials : List ChainPacket := []
  dropped : Nat := 0
  drops : List Nat := []
  gapSent : Bool := false
  fulls : Nat := 0
  resendAt : Option Nat := none
  wire : List ChainPacket := []
  deriving DecidableEq, Repr

/-- A UCIe link (R459, R460): the numbers of both directions, the replay buffer, the credits that have come back in each group
of virtual channels, the numbers that its NAKs named, latest first, how often in succession its oldest flit has been sent again,
and the flits that it has sent, latest first. -/
structure UcieState where
  next : BitVec 16 := 0
  expected : BitVec 16 := 0
  replay : List (List Byte) := []
  credits : Vector Nat 3 := Vector.replicate 3 0
  naks : List (BitVec 16) := []
  resends : Nat := 0
  wire : List (List Byte) := []
  retrainFails : Nat := 0
  training : Bool := false
  backoff : BitVec 16 := 1
  deriving DecidableEq, Repr

/-- A tenant (R409, R466, R467). -/
structure Tenant where
  id : BitVec 16
  weight : BitVec 8 := 1
  quota : Nat := 0
  keys : List (BitVec 256) := []
  deriving DecidableEq, Repr

/-- A context (R108, R438): translation root and free save areas. -/
structure Context where
  tenant : BitVec 16
  context : BitVec 16
  root : Nat
  areas : Nat
  deriving DecidableEq, Repr

/-- An entry of the translator cache (R466), least recently used last. -/
structure Translated where
  tenant : BitVec 16
  digest : BitVec 256
  words : List Word
  code : List Byte
  deriving DecidableEq, Repr

/-- A derailleur's move in progress (R68): bucket, target, step 2 to 5, and the sources that have acknowledged. -/
structure Move where
  bucket : BitVec 12
  target : BitVec 6
  flushing : Bool := false
  held : Bool := false
  deriving DecidableEq, Repr

/-- How far the bring-up has come (R470): how many of its units have come up, one after another, and the cc from which the
next may; 48 when the launch intake is open. `dev` is the device ID that the host has supplied. -/
structure Boot where
  stage : Nat := 48
  due : Nat := 0
  dev : BitVec 18 := 0
  deriving DecidableEq, Repr

/-- An entry of a die's log of errors (R448): the place, whether the error was corrected, and the cc. -/
structure ErrorEntry where
  die : BitVec 2
  place : ErrorPlace
  corrected : Bool
  cycle : Nat
  deriving DecidableEq, Repr

/-- Power, bring-up, thermal control and firmware (R460, R468, R470, R472). -/
structure Management where
  powered : Bool := true
  boot : Boot := {}
  failed : Bool := false
  intakeOpen : Bool := true
  cap : Nat := 1250
  withheld : Vector Bool 4 := Vector.replicate 4 false
  capUntil : Nat := 0
  hosts : List (BitVec 18) := [0]
  version : BitVec 32 := 0
  digest : BitVec 256 := 0
  spill : Option (Word × Nat) := none
  deriving DecidableEq, Repr

/-- The whole machine. `cur` is the slot whose streams have the turn, `rest` the other slots that hold an item or keep a
translation cache, in no order that matters to the spec; `agenda` holds the events that come next (log 1). -/
structure State where
  cur : Slot := { id := ⟨0, false⟩ }
  rest : List Slot := []
  agenda : List Instr := []
  cycle : Nat := 0
  /-- How far the present cc has come in the order of its accesses (R46, R47, R422; log 69). -/
  stage : Nat := 0
  mem : List Host.Cell := []
  poison : Sparse Bool := []
  lines : Sparse (BitVec 32) := []
  detWords : Sparse (BitVec 32) := []
  counters : Sparse (BitVec 16) := []
  table : Sparse (BitVec 16) := []
  /-- The pages of latency class 1 to 3 that firmware has loaded (R62, R114). -/
  classPages : List Leaf := []
  pinWays : Nat := 0
  moves : Vector (Option Move) 2 := Vector.replicate 2 none
  lastMove : Vector (Option Nat) 2 := Vector.replicate 2 none
  requests : List Request := []
  intake : List Request := []
  sourceNums : Sparse (BitVec 10) := []
  barriers : List BarrierUpdate := []
  l1 : List L1Line := []
  fused : BitVec 16 := 0
  cores : Sparse Core := []
  access : Sparse Word := []
  /-- The cc in which an access table last changed, with the tables before that cc (R127). -/
  accessWas : Option (Nat × Sparse Word) := none
  contexts : List Context := []
  tenants : List Tenant := []
  queues : Sparse Queue := []
  walkers : Vector Walker 4 := Vector.replicate 4 {}
  kv : Vector KvDie 2 := Vector.replicate 2 {}
  carries : List Carry := []
  acceptances : List Carry := []
  replies : List Reply := []
  /-- Dead handles on their way, each with the compute cores that have not acknowledged it (R133). -/
  broadcasts : List (BitVec 32 × BitVec 128) := []
  saved : List Saved := []
  shootdowns : List Shootdown := []
  saveSerial : Vector Nat 2 := Vector.replicate 2 0
  pageFaults : List PageFault := []
  pseed : Word := 0
  pseedWas : Option (Nat × Word) := none
  devid : BitVec 18 := 0
  port : Port := {}
  chains : Vector ChainLink 8 := Vector.replicate 8 {}
  /-- The chain links of other packages of the carry domain that firmware knows to be down (R462). -/
  ringDown : List (BitVec 18 × BitVec 3) := []
  ucie : Vector UcieState 5 := Vector.replicate 5 {}
  translator : List Translated := []
  mgmt : Management := {}
  errors : List ErrorEntry := []
  draws : Nat := 0
  deriving DecidableEq, Repr

/-- The machine right after the bring-up of R470: everything zero (R471), key slots FREE (R129), access tables and the
indirection table at their Reset values, queues unassigned, no work item in any slot. PSEED and DEVID: log 3. -/
def State.reset : State := {}

end Sys2Proof.Machine
end

