-- ==== Sys2Proof/Machine/Ops.lean ====
section
/-! DEFINITION. The named operations that the meanings share: slots, registers, launch-record fields, memory, how an
instruction ends, and taking a fault (R425 to R435). -/

namespace Sys2Proof.Machine

abbrev Result := Host.Outcome State Fault Refusal

/-! ## Why an instruction does not complete -/

/-- What a fault report says beyond where it was raised (R427, R428). -/
structure FaultInfo where
  code : BitVec 8
  sub : BitVec 8 := 0
  operand : Word := 0
  elem : BitVec 32 := 0
  dcheck : BitVec 3 := 0
  dwriter : BitVec 9 := 0
  dreader : BitVec 9 := 0
  dagent : BitVec 9 := 0
  /-- The virtual page of a fault that firmware answers (R434). -/
  vpage : Option (BitVec 40) := none
  handle : Option (BitVec 4) := none
  /-- Imprecise toward the control stream (R425): the refused store of R127. -/
  imprecise : Bool := false
  deriving DecidableEq, Repr

/-- An instruction that does not complete: it waits for an object (R215), it faults, or its handle must be translated
again first. -/
inductive Stop where
  | block (o : Obj)
  | fault (f : FaultInfo)
  /-- A use of a bound handle that is not valid (R119, R120): the handle, whether an empty one traps, the page offset. -/
  | retranslate (h : BitVec 4) (trap : Bool) (off : Int)
  /-- A source is the result of an earlier instruction whose latency runs (R261). -/
  | hold
  deriving DecidableEq, Repr

abbrev Res (α : Type) := Except Stop α

/-- A fault with a code of R426 and an operand of R428. -/
def raise {α : Type} (code : BitVec 8) (operand : Word := 0) (elem : BitVec 32 := 0) : Res α :=
  .error (.fault { code, operand, elem })

/-- The first stop of a check, or success. -/
def need (ok : Bool) (code : BitVec 8) (operand : Word := 0) : Res Unit :=
  if ok then .ok () else raise code operand

def blockOn {α : Type} (o : Obj) : Res α := .error (.block o)

/-! ## Bits -/

/-- Bits `hi` down to `lo` of a word (R9). -/
def bits (w : Word) (hi lo : Nat) : Nat := (w.toNat >>> lo) % 2 ^ (hi + 1 - lo)

/-- SignExt of an immediate to 64 bits (R259). -/
def sx {n : Nat} (x : BitVec n) : Word := x.signExtend 64

/-- ZeroExt to 64 bits (R259). -/
def zx {n : Nat} (x : BitVec n) : Word := x.setWidth 64

/-- A word from a natural number, modulo 2^64. -/
abbrev word (n : Nat) : Word := BitVec.ofNat 64 n

/-- PopCount (R259). -/
def popCount {n : Nat} (x : BitVec n) : Nat := (List.range n).foldl (fun c i => if x.getLsbD i then c + 1 else c) 0

/-- 1 for true and 0 for false. -/
def ofBool (b : Bool) : Word := if b then 1 else 0

/-- Length of a control-stream instruction in bytes (R227). -/
def Fmt.bytes (f : Fmt) : Nat :=
  match f with
  | .c32 => 4
  | .c64 => 8
  | .c96 => 12

/-- The immediate as the integer and branch entries read it: 0, imm16 or lit32, sign-extended (R264, R277). -/
def immOf (o : Opnd) : Word :=
  match o.fmt with
  | .c32 => 0
  | .c64 => sx o.imm16
  | .c96 => sx o.lit32

/-! ## Launch-record fields (R198) -/

def field (r : BitVec 2048) (hi lo : Nat) : Nat := (r.extractLsb' lo (hi + 1 - lo)).toNat

def recCodeva (r : BitVec 2048) : Nat := field r 311 256
def recCodelen (r : BitVec 2048) : Nat := field r 351 320
def recEntry (r : BitVec 2048) : Nat := field r 383 352
def recTrapv (r : BitVec 2048) : Nat := field r 415 384
def recTenant (r : BitVec 2048) : BitVec 16 := r.extractLsb' 448 16
def recContext (r : BitVec 2048) : BitVec 16 := r.extractLsb' 464 16
def recPrio (r : BitVec 2048) : Nat := field r 482 480
def recRepl (r : BitVec 2048) : Bool := r.getLsbD 483
def recDet (r : BitVec 2048) : Bool := r.getLsbD 484
def recStrict (r : BitVec 2048) : Bool := r.getLsbD 485
def recFuse (r : BitVec 2048) : Bool := r.getLsbD 486
def recSeedx (r : BitVec 2048) : Bool := r.getLsbD 487
def recTrrec (r : BitVec 2048) : Bool := r.getLsbD 488
def recTrbind (r : BitVec 2048) : Bool := r.getLsbD 489
def recQserve (r : BitVec 2048) : Bool := r.getLsbD 490
def recNlev (r : BitVec 2048) : Nat := field r 706 704
/-- Width, trip, direction of level `i`, 1 to 6. -/
def recWidth (r : BitVec 2048) (i : Nat) : Nat := field r (706 + 6 * i) (701 + 6 * i)
def recTrip (r : BitVec 2048) (i : Nat) : Nat := field r (799 + 32 * (i - 1)) (768 + 32 * (i - 1))
def recDir (r : BitVec 2048) (i : Nat) : Bool := r.getLsbD (760 + i)
/-- The level that order slot `j`, 1 to 6, names. -/
def recOrder (r : BitVec 2048) (j : Nat) : Nat := field r (742 + 3 * j) (740 + 3 * j)
def recMask (r : BitVec 2048) (die : Nat) : Nat :=
  match die with
  | 0 => field r 1023 960
  | 1 => field r 1087 1024
  | 2 => field r 1103 1088
  | _ => field r 1119 1104
def recTroupe (r : BitVec 2048) : Nat := field r 1126 1120
def recBmask (r : BitVec 2048) : BitVec 16 := r.extractLsb' 1128 16
def recAmask (r : BitVec 2048) : BitVec 8 := r.extractLsb' 1144 8
def recZmask (r : BitVec 2048) : BitVec 64 := r.extractLsb' 1152 64
def recNctr (r : BitVec 2048) : Nat := field r 1220 1216
def recQbind (r : BitVec 2048) : Nat := field r 1225 1221
def recInboxn (r : BitVec 2048) : Nat := field r 1232 1226
def recIq (r : BitVec 2048) : BitVec 4 := r.extractLsb' 1233 4
def recIstride (r : BitVec 2048) : Nat := field r 1248 1237
def recInbox (r : BitVec 2048) : Nat := field r 1270 1249
def recDwin (r : BitVec 2048) : Nat := field r 1591 1536
def recDwlen (r : BitVec 2048) : Nat := field r 1631 1600
def recMspill (r : BitVec 2048) : Nat := field r 1719 1664
def recEbar (r : BitVec 2048) : Nat := field r 1783 1728
def recDone (r : BitVec 2048) : Nat := field r 1847 1792
def recTrace (r : BitVec 2048) : Nat := field r 1911 1856
def recTrlen (r : BitVec 2048) : Nat := field r 1951 1920

/-! ## Slots -/

/-- Whether a core number names a compute core, an attention core, or none (R16). -/
def coreKind (core : BitVec 8) : Option CoreKind :=
  if core.toNat < 0x80 then some .compute
  else if core.toNat % 64 < 16 then some .attention else none

def dieOf (core : BitVec 8) : Nat := core.toNat / 64

/-- The state of an occupied slot, or of the slot that has the turn. -/
def slotOf (s : State) (c : SlotId) : Option Slot :=
  if s.cur.id = c then some s.cur else s.rest.find? (fun t => t.id = c)

/-- The state with one slot changed. -/
def modSlot (s : State) (c : SlotId) (f : Slot → Slot) : State :=
  if s.cur.id = c then { s with cur := f s.cur }
  else { s with rest := s.rest.map (fun t => if t.id = c then f t else t) }

/-- Every slot that the state holds. -/
def allSlots (s : State) : List Slot := s.cur :: s.rest

/-- The state with every slot changed. -/
def mapSlots (s : State) (f : Slot → Slot) : State := { s with cur := f s.cur, rest := s.rest.map f }

/-- The state with every item's slot changed, those of saved items too. -/
def mapItems (s : State) (f : Slot → Slot) : State :=
  { mapSlots s f with saved := s.saved.map (fun x => { x with slot := f x.slot }) }

/-- Whether a slot's item belongs to a launch. -/
def slotRuns (t : Slot) (q : BitVec 6) (ord : Nat) : Bool :=
  match t.item with
  | some i => i.queue = q && i.ordinal = ord
  | none => false

/-- The rank and size that a slot reads (R207): 0 for an item that is no troupe member. -/
def troupeRank (t : Slot) : Nat := match t.item with | some i => if i.size = 0 then 0 else i.rank | none => 0
def troupeSize (t : Slot) : Nat := match t.item with | some i => i.size | none => 0

/-- The identity of a slot's item, which messages carry so that they reach only that item. -/
def itemKey (t : Slot) : Nat × Nat × Nat :=
  match t.item with
  | some i => (i.queue.toNat, i.ordinal, i.index)
  | none => (0, 0, 0)

/-- The cc in which a slot's item was dispatched. -/
def bornAt (t : Slot) : Nat := match t.item with | some i => i.dispatched | none => 0

/-- Whether a slot holds an item, of one dispatch, that has not retired. -/
def holdsItem (t : Slot) (item : Nat × Nat × Nat) (born : Nat) : Bool :=
  match t.item with
  | some i => itemKey t = item && i.dispatched = born && !i.retired
  | none => false

/-- An operation of a slot's item, by which messages name it. -/
def refOf (t : Slot) (op : Nat) : OpRef := { slot := t.id, item := itemKey t, born := bornAt t, op := op }

/-- The resident slot that holds the item of a reference. -/
def refSlot (s : State) (r : OpRef) : Option Slot := (allSlots s).find? (fun t => holdsItem t r.item r.born)

/-- Whether two references name operations of one item. -/
def sameItem (a b : OpRef) : Bool := a.item = b.item && a.born = b.born

def isDet (t : Slot) : Bool := recDet t.record
def isStrict (t : Slot) : Bool := recStrict t.record

/-- The 9-bit agent code of a slot (R192). -/
def slotCode (c : SlotId) : BitVec 9 := c.core ++ BitVec.ofBool c.slot

/-- The agent code of engine context `q` of a slot (R192): 0xE0 + q, then the slot. -/
def engineCode (c : SlotId) (q : BitVec 4) : BitVec 9 := BitVec.ofNat 8 (0xE0 + q.toNat) ++ BitVec.ofBool c.slot

def streamOf (t : Slot) (st : StreamId) : Stream :=
  match st with
  | .control => t.ctl
  | .matrix => t.mx
  | .copy => t.cp

def modStream (t : Slot) (st : StreamId) (f : Stream → Stream) : Slot :=
  match st with
  | .control => { t with ctl := f t.ctl }
  | .matrix => { t with mx := f t.mx }
  | .copy => { t with cp := f t.cp }

/-! ## Launches -/

def queueOf (s : State) (q : BitVec 6) : Queue := sget {} s.queues q.toNat

def setQueue (s : State) (q : BitVec 6) (x : Queue) : State := { s with queues := sset {} s.queues q.toNat x }

def launchOf (s : State) (q : BitVec 6) (ord : Nat) : Option Launch :=
  (queueOf s q).launches.find? (fun l => l.ordinal = ord)

def modLaunch (s : State) (q : BitVec 6) (ord : Nat) (f : Launch → Launch) : State :=
  let x := queueOf s q
  setQueue s q { x with launches := x.launches.map (fun l => if l.ordinal = ord then f l else l) }

/-! ## Registers -/

/-- The value of a general register; g0 reads zero (R234). -/
def gval (t : Slot) (r : BitVec 6) : Word := if r = 0 then 0 else t.g[r.toNat]

def gIsEmpty (t : Slot) (r : BitVec 6) : Bool := r != 0 && t.gEmpty.getLsbD r.toNat

/-- A write of a general register, which is then full; a write to g0 is discarded (R234). -/
def setG (t : Slot) (r : BitVec 6) (x : Word) : Slot :=
  if r = 0 then t else { t with g := t.g.set r.toNat x, gEmpty := t.gEmpty &&& ~~~(1#64 <<< r.toNat) }

/-- A deferred destination marked empty; g0 never is (R234, R236). -/
def emptyG (t : Slot) (r : BitVec 6) : Slot :=
  if r = 0 then t else { t with gEmpty := t.gEmpty ||| (1#64 <<< r.toNat) }

def vval (t : Slot) (r : BitVec 5) : BitVec 4096 := t.v[r.toNat]

def vIsEmpty (t : Slot) (r : BitVec 5) : Bool := t.vEmpty.getLsbD r.toNat

def setV (t : Slot) (r : BitVec 5) (x : BitVec 4096) : Slot :=
  { t with v := t.v.set r.toNat x, vEmpty := t.vEmpty &&& ~~~(1#32 <<< r.toNat) }

def emptyV (t : Slot) (r : BitVec 5) : Slot := { t with vEmpty := t.vEmpty ||| (1#32 <<< r.toNat) }

/-- The operand of an empty-register trap (R428): class in bits 11:8, number in bits 5:0. -/
def regOperand (cls : Nat) (n : Nat) : Word := word (cls * 256 + n)

/-- Whether the result that a register holds has settled (R261). -/
def settled (t : Slot) (c : ResultReg) (r : Nat) : Bool := !t.settling.any (fun x => x.cls = c && x.reg = r)

/-- A read of a register waits until its result has settled (R261). -/
def needSettled (t : Slot) (c : ResultReg) (r : Nat) : Res Unit := if settled t c r then .ok () else .error .hold

/-- A register whose result settles after a latency. -/
def settle (c : ResultReg) (r latency : Nat) (t : Slot) : Slot :=
  if latency ≤ 1 ∨ (c = .g ∧ r = 0) then t else { t with settling := t.settling ++ [⟨c, r, latency⟩] }

/-- A general-register source: its value once full; it waits on empty, or traps under its fe bit (R235). -/
def srcG (t : Slot) (r : BitVec 6) (fe : Bool) : Res Word :=
  if gIsEmpty t r then (if fe then raise 0x29 (regOperand 0 r.toNat) else blockOn (.gReg r))
  else if settled t .g r.toNat then .ok (gval t r) else .error .hold

/-- A destination waits while an earlier deferred producer has not written it (R236). -/
def dstG (t : Slot) (r : BitVec 6) : Res Unit := if gIsEmpty t r then blockOn (.gReg r) else .ok ()

/-- A vector-register source (R235). -/
def srcV (t : Slot) (r : BitVec 5) (fe : Bool) : Res (BitVec 4096) :=
  if vIsEmpty t r then (if fe then raise 0x29 (regOperand 1 r.toNat) else blockOn (.vReg r))
  else if settled t .v r.toNat then .ok (vval t r) else .error .hold

def dstV (t : Slot) (r : BitVec 5) : Res Unit := if vIsEmpty t r then blockOn (.vReg r) else .ok ()

/-- The state with the current slot changed. -/
def onCur (s : State) (f : Slot → Slot) : State := { s with cur := f s.cur }

/-- FLAGS bits raised (R92). -/
def addFlags (t : Slot) (f : BitVec 6) : Slot := { t with flags := t.flags ||| f }

/-! ## How a control-stream instruction ends -/

/-- The control stream at the given address, having issued in this cc (R261, R422). -/
def jump (s : State) (pc : Word) : State :=
  onCur s (fun t => { t with ctl := { t.ctl with pc := pc, issued := true } })

/-- The control stream at the following instruction (R227). -/
def advance (s : State) (o : Opnd) : State := jump s (s.cur.ctl.pc + word (Fmt.bytes o.fmt))

/-- The control stream waits for an object (R215). -/
def blockCtl (s : State) (obj : Obj) : State :=
  onCur s (fun t => { t with ctl := { t.ctl with blocked := some obj, issued := true } })

/-- The control stream tries again in the next cc (R261). -/
def holdCtl (s : State) : State := onCur s (fun t => { t with ctl := { t.ctl with issued := true } })

/-- The control stream issues nothing for `n` cc, this one included (R261). -/
def holdFor (n : Nat) (s : State) : State := onCur s (fun t => { t with ctl := { t.ctl with hold := n } })

/-! ## Memory -/

/-- `n` bytes of LPDDR-5X at a package physical address; a byte that nothing has written reads 0 (R471). -/
def readMem (s : State) (a n : Nat) : List Byte := sgetRange 0 s.mem a n

def memNat (s : State) (a n : Nat) : Nat := leNat (readMem s a n)

/-- The poison that is left when `n` bytes from `a` on are written: every granule that they cover whole loses it (R447). -/
def curePoison (m : Sparse Bool) (a n : Nat) : Sparse Bool :=
  m.filter (fun p => !(decide (a ≤ 16 * p.1) && decide (16 * p.1 + 16 ≤ a + n)))

/-- Whether a range of bytes has a poisoned granule (R448). -/
def hasPoison (m : Sparse Bool) (a n : Nat) : Bool :=
  m.any (fun p => p.2 && decide (16 * p.1 < a + n) && decide (a < 16 * p.1 + 16))

/-- Bytes written, with the poison of every granule that the bytes cover whole cleared (R447). -/
def writeMem (s : State) (a : Nat) (bs : List Byte) : State :=
  { s with mem := ssetRange 0 s.mem a bs, poison := curePoison s.poison a bs.length }

/-- Zeros written from `lo` up to `hi`. -/
def clearMem (s : State) (lo hi : Nat) : State :=
  { s with mem := sclear s.mem lo hi, poison := curePoison s.poison lo (hi - lo) }

/-- Whether a read consumes a poisoned granule (R448). -/
def poisoned (s : State) (a n : Nat) : Bool := hasPoison s.poison a n

/-! ## Frames -/

def flowOf (f : Frame) : FlowKey := ⟨f.hs, f.hd, f.src, f.dst, f.tenant, f.context⟩

/-- The frames of the port that are not acknowledged. -/
def portUnacked (p : Port) : Nat := p.tx.foldl (fun n x => n + x.window.length) 0

/-- How many more frames a flow may have unacknowledged: 4,096 in a flow, 65,536 in the port (R453). -/
def windowLeft (p : Port) (x : TxFlow) : Nat := min (4096 - x.window.length) (65536 - portUnacked p)

/-- A frame sent by the port, with the port's VLAN ID (R451): numbered in its flow and kept for replay, or ACK and NAK unnumbered
(R453, R456). A frame that the window has no room for waits. A port that is down refuses every send (R455). -/
def sendFrame (s : State) (f : Frame) (op : Option OpRef := none) : State :=
  let f := { f with tag := s.port.vlan }
  if !s.port.up then s
  else if f.kind = 4 ∨ f.kind = 5 then { s with port := { s.port with wire := f :: s.port.wire } }
  else
    let key := flowOf f
    let flow := (s.port.tx.find? (fun x => x.key = key)).getD { key := key }
    let g := { f with seq := flow.next }
    let sent : SentFrame := { frame := g, at_ := s.cycle, op }
    let others := s.port.tx.filter (fun x => x.key ≠ key)
    let flow := { flow with next := flow.next + 1 }
    if flow.waiting.isEmpty && windowLeft s.port flow ≠ 0 then
      { s with port := { s.port with
          tx := { flow with window := flow.window ++ [sent] } :: others, wire := g :: s.port.wire } }
    else { s with port := { s.port with tx := { flow with waiting := flow.waiting ++ [sent] } :: others } }

/-- A frame from this package to a host. -/
def hostFrame (s : State) (kind : BitVec 4) (host : BitVec 18) (tenant context : BitVec 16) (aux : BitVec 32)
    (payload : List Byte) : Frame :=
  { kind, hs := false, hd := true, src := s.devid, dst := host, tenant, context, seq := 0, ack := 0, rpa := 0, aux,
    payload }

/-- The host that reports go to: the first registered (R468). -/
def reportHost (s : State) : BitVec 18 := s.mgmt.hosts.headD 0

/-! ## Key domains: releasing a holder (R131 to R133) -/

/-- One holder fewer; at 0 the keys are zeroed, the generation advances, and the dead handle is broadcast. -/
def releaseDomain (s : State) (kdh : BitVec 32) : State :=
  let die : Fin 2 := if kdh.getLsbD 31 then 1 else 0
  let n := (kdh.extractLsb' 0 16).toNat
  let d := s.kv[die]
  let key := sget {} d.keys n
  if kdh = 0 ∨ key.gen ≠ kdh.extractLsb' 16 15 ∨ key.state = .free ∨ key.state = .retired then s
  else if key.holders > 1 then
    { s with kv := s.kv.set die { d with keys := sset {} d.keys n { key with holders := key.holders - 1 } } }
  else
    let gen := key.gen + 1
    let dead : KeySlot := { gen, state := if gen = 0x7FFF then .retired else .free }
    { s with
      kv := s.kv.set die { d with keys := sset {} d.keys n dead }
      broadcasts := s.broadcasts ++ [(kdh, BitVec.allOnes 128)] }

/-- Whether a key domain handle is dead (R131). -/
def handleDead (s : State) (kdh : BitVec 32) : Bool :=
  let die : Fin 2 := if kdh.getLsbD 31 then 1 else 0
  let key := sget {} (s.kv[die]).keys (kdh.extractLsb' 0 16).toNat
  key.gen ≠ kdh.extractLsb' 16 15 || key.state = .free || key.state = .retired

/-! ## Taking a fault -/

/-- Where a fault was raised (R427): slot, source, instruction, and the operation if an engine or a record. -/
structure Site where
  slot : SlotId
  source : BitVec 3
  coff : BitVec 32
  len : BitVec 2 := 0
  q : BitVec 4 := 0
  opnum : Nat := 0
  op : Option Nat := none
  deriving DecidableEq, Repr

/-- The disposition of R426: 0 E, 1 F, 2 U, 3 L. -/
def disposition (code : BitVec 8) : BitVec 2 :=
  if code = 0x22 ∨ code = 0x23 then 1
  else if 0x26 ≤ code.toNat ∧ code.toNat ≤ 0x2E then 2
  else if code = 0x2F ∨ code = 0x30 then 3
  else 0

/-- The 64-byte report (R427). -/
def report (s : State) (t : Slot) (w : Site) (f : FaultInfo) : BitVec 512 :=
  let wid : Word := match t.item with | some i => i.wid | none => 0
  let ord : BitVec 48 := match t.item with | some i => BitVec.ofNat 48 i.ordinal | none => 0
  let queue : BitVec 6 := match t.item with | some i => i.queue | none => 0
  BitVec.ofNat 64 s.cycle ++ wid ++ f.operand ++ ord ++ queue ++ t.context ++ t.tenant
    ++ BitVec.ofBool w.slot.slot ++ w.slot.core ++ f.elem ++ w.coff ++ BitVec.ofNat 48 w.opnum ++ f.dcheck
    ++ f.dwriter ++ f.dreader ++ f.dagent ++ 0#57 ++ w.len ++ BitVec.ofBool (w.source = 0 && !f.imprecise) ++ w.q ++ w.source
    ++ f.sub ++ f.code

/-- An empty slot of the same place, keeping the translation cache (R115). -/
def emptySlot (t : Slot) : Slot := { id := t.id, cache := t.cache, tenant := t.tenant, context := t.context }

/-- Whether a slot that has not the turn stays in the state: it has an item, or a translation cache to keep (R115). -/
def keepsSlot (t : Slot) : Bool := t.item.isSome || !t.cache.isEmpty

/-- A slot freed of its item. -/
def freeSlot (s : State) (c : SlotId) : State :=
  let s := modSlot s c emptySlot
  { s with rest := s.rest.filter keepsSlot }

/-- Entries delivered to a slot and not answered return to their queues (R168). -/
def returnEntries (s : State) (t : Slot) : State :=
  t.inbox.foldl (fun s e =>
    let die : Fin 2 := if dieOf t.id.core = 3 then 1 else 0
    let d := s.kv[die]
    let qq := sget {} d.queues e.queue.toNat
    let es := qq.entries.map (fun x => if x.no = e.no then { x with delivered := false } else x)
    { s with kv := s.kv.set die { d with queues := sset {} d.queues e.queue.toNat { qq with entries := es } } }) s

/-- The QPUB bindings of an item lapse (R304): those it made, and those that others made to it. -/
def lapse (s : State) (key : Nat × Nat × Nat) : State :=
  mapItems s (fun t =>
    { t with q := t.q.map (fun c =>
        { c with
          bindings := c.bindings.filter (fun b => (b.queue.toNat, b.ordinal, b.index) ≠ key)
          boundBy := match c.boundBy with
            | some (_, k) => if k = key then none else c.boundBy
            | none => none }) })

/-- The core of a slot will switch when the other slot is ready, if the slot is its active one (R209). -/
def wantSwitch (s : State) (c : SlotId) : State :=
  let x := sget {} s.cores c.core.toNat
  if x.active = c.slot then { s with cores := sset {} s.cores c.core.toNat { x with wants := true } } else s

/-- What an item that goes leaves behind (R168, R304, R374, R436): domains that SBIND.NEW made are released, entries that it has
not answered return, its bindings lapse, and its operations that have not started are dropped with the completion-barrier
updates of those that are abandoned. -/
def dropWork (s : State) (t : Slot) : State :=
  let s := (t.ztag.filter (fun p => p.2.fresh && p.2.state = 1)).foldl (fun s p => releaseDomain s p.2.kdh) s
  let s := lapse (returnEntries s t) (itemKey t)
  let s := match t.item with
    | some it => if it.retired then s else modLaunch s it.queue it.ordinal (fun l => { l with running := l.running - 1 })
    | none => s
  let me := refOf t 0
  let drop (d : KvDie) : KvDie :=
    { d with
      arrivals := d.arrivals.filter (fun a => !sameItem a me)
      queries := d.queries.filter (fun a => !sameItem a.sender me) }
  { s with
    kv := s.kv.map drop
    replies := s.replies.filter (fun r => !sameItem r.source me || r.sent.isSome)
    barriers := s.barriers.filter (fun u => !(u.completes && sameItem u.issuer me))
    carries := s.carries.filter (fun k => !sameItem k.source me || k.bytes.isSome)
    pageFaults := s.pageFaults.filter (fun f => !sameItem f.owner me) }

/-- A work item removed from its slot (R270, R435, R436): the slot is free. -/
def removeItem (s : State) (c : SlotId) : State :=
  match slotOf s c with
  | none => s
  | some t =>
    match t.item with
    | none => s
    | some _ => freeSlot (wantSwitch (dropWork s t) c) c

/-- The slots of the running items of a launch. -/
def launchSlots (s : State) (q : BitVec 6) (ord : Nat) : List SlotId :=
  ((allSlots s).filter (fun t => slotRuns t q ord)).map (fun t => t.id)

/-- A saved item discarded with its save area (R435, R438, R444). -/
def dropSaved (s : State) (x : Saved) : State :=
  let t := x.slot
  let s := dropWork s t
  { s with
    saved := s.saved.filter (fun y => y.slot.id ≠ t.id || itemKey y.slot ≠ itemKey t)
    contexts := s.contexts.map (fun c =>
      if c.tenant = t.tenant ∧ c.context = t.context then { c with areas := c.areas + 1 } else c) }

/-- Firmware ends a launch (R435): no index is claimed, every running or saved item is removed, the report goes to the
host, and the launch completes with status FAILED. -/
def endLaunch (s : State) (q : BitVec 6) (ord : Nat) (tenant context : BitVec 16) (rep : BitVec 512) : State :=
  let s := modLaunch s q ord (fun l => { l with failed := true, owed := [], unplaceableSince := none })
  let free (x : Walker) : Walker := if x.reservation = some (q, ord) then { x with reservation := none, kept := [] } else x
  let s := { s with walkers := s.walkers.map free }
  let s := (launchSlots s q ord).foldl removeItem s
  let s := (s.saved.filter (fun x => slotRuns x.slot q ord)).foldl dropSaved s
  sendFrame s (hostFrame s 9 (reportHost s) tenant context 0 (bytesOf 64 rep.toNat))

/-- Firmware ends the launch of a slot's item; a slot without an item only stops its streams. -/
def endItem (s : State) (c : SlotId) (rep : BitVec 512) : State :=
  match slotOf s c with
  | none => s
  | some t =>
    match t.item with
    | some it => endLaunch s it.queue it.ordinal t.tenant t.context rep
    | none => modSlot s c (fun t => { t with ctl := { t.ctl with running := false, issued := true } })

/-- The signature term of an item (R106). -/
def itemTerm (t : Slot) (i : Item) : BitVec 256 := sha3 (bytesOf 8 i.wid.toNat ++ bytesOf 32 t.digest.toNat)

/-- A lost item owed a re-dispatch (R225, R226). One that has retired counts no longer, so that it is added once when it has run
again (R106, R445). -/
def oweItem (s : State) (t : Slot) (it : Item) : State :=
  modLaunch s it.queue it.ordinal (fun l =>
    let l := { l with owed := l.owed ++ [(it.index, t.id)] }
    if it.retired then { l with acc := l.acc - itemTerm t it, retired := l.retired - 1 } else l)

/-- A lost context (R444): under REPL the walker owes the item a re-dispatch; otherwise the launch ends. DESIGN CHOICE (log
97): of a troupe under REPL this member alone goes and is dispatched again; its partners stay, and their accesses to it wait
for it. -/
def loseContext (s : State) (c : SlotId) (rep : BitVec 512) : State :=
  match slotOf s c with
  | none => s
  | some t =>
    match t.item with
    | none => s
    | some it =>
      if recRepl t.record then
        let s := oweItem (removeItem s c) t it
        sendFrame s (hostFrame s 9 (reportHost s) t.tenant t.context 0 (bytesOf 64 rep.toNat))
      else endLaunch s it.queue it.ordinal t.tenant t.context rep

/-- Entry to the user handler (R431): g60 to g63 take the report, the offset of the instruction, the operand and the
link; TRAPV is disarmed; the control stream continues at the old TRAPV, 8 cc later. -/
def enterHandler (t : Slot) (rep : BitVec 512) (link : Word) : Slot :=
  let t1 := setG (setG (setG (setG t 60 (rep.extractLsb' 0 64)) 61 (zx (rep.extractLsb' 161 32)))
    62 (rep.extractLsb' 320 64)) 63 link
  { t1 with
    trapv := BitVec.allOnes 64
    ctl := { t1.ctl with pc := t.trapv, blocked := none, issued := true, hold := 8 } }

/-- Whether a user handler is armed (R431). -/
def armed (t : Slot) : Bool := t.trapv != BitVec.allOnes 64

/-- The place of a held event in the order of R429: the cc, the source, the counter, the operation number. -/
def eventKey (r : BitVec 512) : Nat :=
  (r.extractLsb' 448 64).toNat * 2 ^ 64 + (r.extractLsb' 16 3).toNat * 2 ^ 60 + (r.extractLsb' 19 4).toNat * 2 ^ 48
    + (r.extractLsb' 113 48).toNat

/-- An event put into a list in the order of R429, once. -/
def putEvent (es : List Event) (e : Event) : List Event :=
  let before (x : Event) : Bool := decide (eventKey x.report ≤ eventKey e.report)
  if es.contains e then es else es.filter before ++ [e] ++ es.filter (fun x => !before x)

/-- An event that ends the launch of a slot's item at the end of the cc (R429, R435). -/
def endLater (s : State) (c : SlotId) (e : Event) : State := modSlot s c (fun t => { t with ending := putEvent t.ending e })

/-- What the events of a cc end (R429): an event of disposition E or L comes before those of disposition U. -/
def endSlot (s : State) (c : SlotId) : State :=
  match slotOf s c with
  | none => s
  | some t =>
    match t.ending with
    | [] => s
    | e :: _ =>
      let e := (t.ending.find? (fun x => x.disp ≠ 2)).getD e
      let s := modSlot s c (fun t => { t with ending := [] })
      if e.disp = 3 then loseContext s c e.report else endItem s c e.report

/-- An event held for the slot (R429): at most 16, and a seventeenth ends the launch with the oldest's report. -/
def holdEvent (s : State) (c : SlotId) (e : Event) : State :=
  match slotOf s c with
  | none => s
  | some t =>
    if t.events.length ≥ 16 then endLater s c { e with report := (t.events.map (fun x => x.report)).headD e.report }
    else modSlot s c (fun t => { t with events := putEvent t.events e })

/-- The stream that a report's source names. -/
def sourceStream (src : BitVec 3) : Option StreamId :=
  if src = 0 then some .control else if src = 1 then some .matrix else if src = 2 then some .copy else none

/-- Whether every deferred producer of the control stream has written: a scalar KVMAP is one (R92, R241, R393). -/
def producersDone (t : Slot) : Bool :=
  t.deferred.isEmpty && !t.ops.any (fun o => match o.work with
    | .kv _ (some _) => true
    | _ => false)

/-- Whether the drain of the control stream alone is over (R430, step 3; R431): its deferred producers have written, and the
updates of barrier objects that it has sent are performed. -/
def ctlDrained (s : State) (t : Slot) : Bool :=
  producersDone t && !s.barriers.any (fun u => sameItem u.issuer (refOf t 0) && u.source = 0)

/-- A page or class-capacity fault given to firmware (R427, R434): its report goes to the host, and the host is asked to map
the page, once for a page that has outstanding faults (log 98). -/
def askHost (s : State) (t : Slot) (vpage : BitVec 40) (handle : Option (BitVec 4)) (rep : BitVec 512) : State :=
  let asked := s.pageFaults.any (fun f => f.tenant = t.tenant && f.context = t.context && f.vpage = vpage)
  let fault : PageFault :=
    { tenant := t.tenant, context := t.context, vpage, owner := refOf t 0, handle, report := rep }
  let s := { s with pageFaults := s.pageFaults ++ [fault] }
  let s := sendFrame s (hostFrame s 9 (reportHost s) t.tenant t.context 0 (bytesOf 64 rep.toNat))
  if asked then s else sendFrame s (hostFrame s 10 (reportHost s) t.tenant t.context 7 (bytesOf 16 vpage.toNat))

/-- A slot that stops for an answer of firmware (R423, R434); a fault on one more page is kept beside those before it. -/
def awaitAnswer (t : Slot) (vpage : BitVec 40) (cycle : Nat) : Slot :=
  let a : Answer := t.answer.getD { tenant := t.tenant, context := t.context, pages := [], stopped := cycle }
  { t with
    answer := some { a with pages := a.pages.filter (fun p => p ≠ vpage) ++ [vpage] }
    time := { t.time with stoppedAt := t.time.stoppedAt <|> some cycle } }

/-- A precise control-stream event that an armed handler takes (R431): it enters the handler once the control stream is
drained, and is held until then. -/
def takeHandled (s : State) (t : Slot) (e : Event) (link : Word) : State :=
  if ctlDrained s t then modSlot s t.id (fun t => enterHandler t e.report link)
  else modSlot s t.id (fun t =>
    { t with
      events := putEvent t.events { e with stream := none }
      ctl := { t.ctl with pc := word (recCodeva t.record) + link, blocked := some .handler, issued := true } })

/-- A fault or trap taken by the disposition of its code (R425 to R435). `link` is the offset that a handler returns to
after a precise control-stream event. What ends the launch does so at the end of the cc, in the order of R429. -/
def takeFault (s : State) (w : Site) (f : FaultInfo) (link : Word) : State :=
  match slotOf s w.slot with
  | none => s
  | some t =>
    let rep := report s t w f
    let stop (obj : Option Obj) (t : Slot) : Slot :=
      match sourceStream w.source with
      | some st => modStream t st (fun x => { x with issued := true, blocked := obj <|> x.blocked })
      | none => t
    let event : Event := { report := rep, disp := disposition f.code, rank := w.source.toNat, op := w.op, stream := sourceStream w.source }
    let ends : State := endLater (modSlot s w.slot (stop none)) w.slot event
    match (disposition f.code).toNat with
    | 1 =>
      let s := wantSwitch (modSlot s w.slot (fun t => awaitAnswer (stop none t) (f.vpage.getD 0) s.cycle)) w.slot
      askHost s t (f.vpage.getD 0) f.handle rep
    | 2 =>
      if w.source = 0 then
        if !armed t then ends
        else if t.ending.isEmpty then takeHandled s t event link
        else modSlot s w.slot (stop none)
      else
        let s := modSlot s w.slot (fun t =>
          { stop (some .handler) t with ops := t.ops.map (fun o => if some o.id = w.op then { o with stopped := true } else o) })
        holdEvent s w.slot event
    | _ => ends

/-- The site of a control-stream instruction of the current slot. -/
def ctlSite (s : State) (o : Opnd) : Site :=
  { slot := s.cur.id, source := 0, coff := (s.cur.ctl.pc - word (recCodeva s.cur.record)).setWidth 32,
    len := BitVec.ofNat 2 (Fmt.bytes o.fmt / 4) }

/-- The offset from codeva of the control stream's program counter. -/
def codeOff (s : State) : Word := s.cur.ctl.pc - word (recCodeva s.cur.record)

/-! ## Translation caches (R115, R120) -/

/-- The bytes of a page by its size code (R19, R110). -/
def pageBytes (size : BitVec 2) : Nat := if size = 0 then 2 ^ 16 else if size = 1 then 2 ^ 21 else 2 ^ 30

/-- vpage with the bits below the page size cleared (R117); vpage counts 64 KiB. -/
def pageOf (size : BitVec 2) (vpage : BitVec 40) : BitVec 40 :=
  let n := pageBytes size / 2 ^ 16
  BitVec.ofNat 40 (vpage.toNat / n * n)

/-- The cached leaf that covers a virtual page (R115). -/
def cachedLeaf (t : Slot) (vpage : BitVec 40) : Option Leaf :=
  t.cache.find? (fun e => e.tenant = t.tenant && e.context = t.context && e.vpage = pageOf e.size vpage)

/-- A leaf put into a slot's translation cache, at most 256 entries (R115). DESIGN CHOICE (log 99): a full cache gives up the
entry that it has held longest. -/
def cacheLeaf (t : Slot) (e : Leaf) : Slot :=
  { t with cache := (e :: t.cache.filter (fun x => x.vpage ≠ e.vpage || x.tenant ≠ e.tenant || x.context ≠ e.context)).take 256 }

/-- The re-translation of a handle that a use found bound and not valid (R120): a hit refills it 48 cc later; a miss
empties it and starts a walk. Answers what the use waits for, unless it traps. -/
def retranslate (s : State) (c : SlotId) (h : BitVec 4) (trap : Bool) (off : Int) (w : Site) : State × Option Obj :=
  let coff := w.coff
  let source := w.source
  let len := w.len
  let q := w.q
  let opnum := w.opnum
  match slotOf s c with
  | none => (s, none)
  | some t =>
    let x := t.h[h.toNat]
    let va : Word := (x.vpage.setWidth 64 <<< 16) + BitVec.ofInt 64 off
    let others := t.walks.filter (fun w => w.h ≠ h)
    if t.walks.any (fun w => w.h = h && w.due.isSome) then (s, some (.refill h))
    else if let some found := cachedLeaf t x.vpage then
      (modSlot s c (fun t =>
        { t with walks := others ++ [{ h := h, va := va, due := some (s.cycle + 48), since := s.cycle, atUse := true, leaf := some found, source, coff, len, q, opnum }] }),
       some (.refill h))
    else
      (modSlot s c (fun t =>
        { t with
          h := t.h.set h.toNat { x with full := false, walk := true }
          walks := others ++ [{ h := h, va := va, due := none, since := s.cycle, atUse := true, source, coff, len, q, opnum }] }),
       if trap then none else some (.handle h))

/-- A result written to general register `r`, with the FLAGS bits it raises, and the next instruction; a reader of the
register waits for the latency (R261). -/
def finishG (s : State) (o : Opnd) (r : BitVec 6) (x : Word) (fl : BitVec 6 := 0) (latency : Nat := 1) : State :=
  advance (onCur s (fun t => settle .g r.toNat latency (addFlags (setG t r x) fl))) o

/-- The results of a vector instruction that is not marked L: a reader of a register waits for the latency (R261, R320). -/
def finishV (s : State) (o : Opnd) (vs : List (BitVec 5 × BitVec 4096)) (fl : BitVec 6) (latency : Nat) : State :=
  advance (onCur s (fun t =>
    vs.foldl (fun t p => settle .v p.1.toNat latency t) (addFlags (vs.foldl (fun t p => setV t p.1 p.2) t) fl))) o

/-- The results of an instruction marked L (R236): with fe.d the destinations become empty and a producer writes them
once its latency is over; else they are written, the control stream issues nothing for the latency, and another stream
that reads them waits for it (R261, R320). -/
def finishL (s : State) (o : Opnd) (gs : List (BitVec 6 × Word)) (vs : List (BitVec 5 × BitVec 4096) := [])
    (fl : BitVec 6 := 0) (deferred : Bool := o.feD) (latency : Nat := 1) : State :=
  if deferred then
    advance (onCur s (fun t =>
      let t := gs.foldl (fun t p => emptyG t p.1) t
      let t := vs.foldl (fun t p => emptyV t p.1) t
      { t with deferred := t.deferred ++ [{ gs := gs, vs := vs, flags := fl, due := s.cycle + latency }] })) o
  else
    holdFor latency (advance (onCur s (fun t =>
      let t := addFlags (vs.foldl (fun t p => setV t p.1 p.2) (gs.foldl (fun t p => setG t p.1 p.2) t)) fl
      vs.foldl (fun t p => settle .v p.1.toNat latency t) (gs.foldl (fun t p => settle .g p.1.toNat latency t) t))) o)

/-- How a control-stream instruction ends: its state, a wait, or a fault taken (R215, R425). Without power nothing
executes. -/
def issue (s : State) (o : Opnd) (body : Res State) : Result :=
  if !s.mgmt.powered then .fault .unpowered
  else match body with
    | .ok s' => .next s'
    | .error (.block obj) => .next (blockCtl s obj)
    | .error .hold => .next (holdCtl s)
    | .error (.fault f) => .next (takeFault s (ctlSite s o) f (codeOff s))
    | .error (.retranslate h trap off) =>
      match retranslate s s.cur.id h trap off (ctlSite s o) with
      | (s', some obj) => .next (blockCtl s' obj)
      | (s', none) => .next (takeFault s' (ctlSite s o) { code := 0x2A, operand := regOperand 3 h.toNat } (codeOff s))

/-- The user trap's link is the instruction after the TRAP (R431). -/
def issueTrap (s : State) (o : Opnd) (f : FaultInfo) : Result :=
  if !s.mgmt.powered then .fault .unpowered
  else .next (takeFault s (ctlSite s o) f (codeOff s + word (Fmt.bytes o.fmt)))

/-- How a package event ends. -/
def event (s : State) (s' : State) : Result := if !s.mgmt.powered then .fault .unpowered else .next s'

/-! ## Engine operations -/

/-- An operation issued on a counter of the slot: it takes the next number (R182). -/
def pushOp (t : Slot) (q : Option (BitVec 4)) (op : Op) : Slot :=
  match q with
  | some q =>
    let c := t.q[q.toNat]
    { t with
      q := t.q.set q.toNat { c with issued := c.issued + 1 }
      ops := t.ops ++ [{ op with id := t.nextOp, q := some q, num := c.issued.toNat + 1 }]
      nextOp := t.nextOp + 1 }
  | none => { t with ops := t.ops ++ [{ op with id := t.nextOp }], nextOp := t.nextOp + 1 }

/-- The counter's value: the largest n such that operations 1 to n have completed (R182). -/
def counterValue (t : Slot) (q : BitVec 4) : Word :=
  (t.ops.filter (fun o => o.q = some q)).foldl
    (fun v o => if o.num ≤ v.toNat then word (o.num - 1) else v) t.q[q.toNat].issued

/-- A completed operation leaves the slot: FLAGS are set, the counter advances in order (R92, R182). -/
def finishOp (t : Slot) (id : Nat) : Slot :=
  match t.ops.find? (fun o => o.id = id) with
  | none => t
  | some o =>
    let t := { addFlags t o.flags with ops := t.ops.filter (fun x => x.id ≠ id) }
    match o.q with
    | none => t
    | some q =>
      let x := t.q[q.toNat]
      let first := if o.wrote && (x.firstWrite = 0 || o.num < x.firstWrite) then o.num else x.firstWrite
      if x.boundBy.isSome then t
      else { t with q := t.q.set q.toNat { x with value := counterValue t q, firstWrite := first } }

/-- The operation with an identifier. -/
def opOf (t : Slot) (id : Nat) : Option Op := t.ops.find? (fun o => o.id = id)

/-- The resident slot and the operation that a reference names. -/
def refOp (s : State) (r : OpRef) : Option (Slot × Op) :=
  (refSlot s r).bind (fun t => (opOf t r.op).map (fun o => (t, o)))

/-- The operation numbered `n` on counter `q`. -/
def opNumbered (t : Slot) (q : BitVec 4) (n : Nat) : Option Op :=
  t.ops.find? (fun o => o.q = some q && o.num = n)

def modOp (t : Slot) (id : Nat) (f : Op → Op) : Slot :=
  { t with ops := t.ops.map (fun o => if o.id = id then f o else o) }

/-- The site of an operation's fault (R427): an engine, or the record's stream. -/
def opSite (c : SlotId) (o : Op) : Site :=
  { slot := c, source := o.source, coff := o.coff, len := o.len, q := o.q.getD 0, opnum := o.num, op := some o.id }

/-- A counter field must be below the launch's nctr (R208), and must not be a target of a binding (R304). -/
def checkCounter (t : Slot) (q : BitVec 6) : Res (BitVec 4) :=
  let n : BitVec 4 := q.setWidth 4
  if q.toNat < recNctr t.record && t.q[n.toNat].boundBy.isNone then .ok n else raise 0x0B

end Sys2Proof.Machine
end

