-- ==== Sys2Proof/Machine/Flags.lean ====
section
/-! DEFINITION. FLAGS (R92) and the flag computations of the integer instructions (R277 to R279, R99, R104). -/

namespace Sys2Proof.Machine

/-- FLAGS bits (R92). -/
abbrev flagNx : BitVec 6 := 1
abbrev flagUf : BitVec 6 := 2
abbrev flagOf : BitVec 6 := 4
abbrev flagDz : BitVec 6 := 8
abbrev flagNv : BitVec 6 := 16
abbrev flagSat : BitVec 6 := 32

/-- The smallest and largest integer of a signed or unsigned width. -/
def intMin (signed : Bool) (w : Nat) : Int := if signed then -(2 ^ (w - 1) : Nat) else 0
def intMax (signed : Bool) (w : Nat) : Int := if signed then (2 ^ (w - 1) : Nat) - 1 else (2 ^ w : Nat) - 1

/-- Saturation to a width, once, with FLAGS.sat when it changes the value (R99, R104). -/
def satInt (signed : Bool) (w : Nat) (x : Int) : Int × BitVec 6 :=
  if x < intMin signed w then (intMin signed w, flagSat)
  else if intMax signed w < x then (intMax signed w, flagSat)
  else (x, 0)

/-- The low `w` bits of a number, read signed or unsigned (R259). -/
def readInt (signed : Bool) (w : Nat) (x : Nat) : Int :=
  let y := x % 2 ^ w
  if signed && decide (2 ^ (w - 1) ≤ y) then (y : Int) - (2 ^ w : Nat) else y

/-- The two's-complement form of an integer at a width. -/
def toBits (w : Nat) (x : Int) : Nat := (x % (2 ^ w : Nat)).toNat

end Sys2Proof.Machine
end

