-- ==== Sys2Proof/Machine/Number.lean ====
section
/-! DEFINITION. Number formats and exact arithmetic (R79 to R105): every value is an exact dyadic number, an infinity or
NaN, and each result is rounded once. -/

namespace Sys2Proof.Machine

/-- A floating or fixed-point format by its effective fields (R79, R82): width, sign bit, exponent and fraction widths,
bias, special-value policy, subnormals, saturation, and whether it is a narrow format. -/
structure NumFmt where
  w : Nat
  s : Bool
  e : Nat
  m : Nat
  bias : Int
  special : Nat
  sub : Bool
  sat : Bool
  narrow : Bool
  deriving DecidableEq, Repr

/-- binary32, binary16 and bfloat16 (R79). -/
def fmt32 : NumFmt := ⟨32, true, 8, 23, 127, 1, true, false, false⟩
def fmt16 : NumFmt := ⟨16, true, 5, 10, 15, 1, true, false, false⟩
def fmtB16 : NumFmt := ⟨16, true, 8, 7, 127, 1, true, false, false⟩

/-- The float type codes of the instruction entries: 0 binary32, 1 binary16, 2 bfloat16 (R280). -/
def floatFmt (code : Nat) : NumFmt := if code = 0 then fmt32 else if code = 1 then fmt16 else fmtB16

/-- The effective fields of an NFMT value (R81, R82). -/
def narrowFmt (n : BitVec 20) : NumFmt :=
  let w0 := (n.extractLsb' 0 4).toNat
  let w := if w0 ≤ 1 then 2 else if w0 ≥ 9 then 8 else w0
  let s := n.getLsbD 7
  let e := min (n.extractLsb' 4 3).toNat (w - s.toNat)
  let m := w - s.toNat - e
  let p := (n.extractLsb' 16 2).toNat
  let p := if p = 3 then 0 else if p = 1 && (e = 0 || m = 0) then 2 else p
  ⟨w, s, e, m, (n.extractLsb' 8 8).toInt, p, n.getLsbD 19 && e != 0, n.getLsbD 18, true⟩

/-- A value: (−1)^neg × mant × 2^exp, an infinity, or NaN. -/
inductive NumVal where
  | fin (neg : Bool) (mant : Nat) (exp : Int)
  | inf (neg : Bool)
  | nan
  deriving DecidableEq, Repr

/-- The bits of a magnitude, all ones. -/
def magOnes (f : NumFmt) : Nat := 2 ^ (f.w - f.s.toNat) - 1

/-- The largest finite magnitude code (R84). -/
def maxMag (f : NumFmt) : Nat :=
  if f.special = 1 then magOnes f - 2 ^ f.m else if f.special = 2 then magOnes f - 1 else magOnes f

/-- The magnitude that a code's magnitude bits stand for, as mantissa and exponent (R83). -/
def magValue (f : NumFmt) (k : Nat) : Nat × Int :=
  if f.e = 0 then (k, -f.bias)
  else
    let E := k >>> f.m
    let M := k % 2 ^ f.m
    if E = 0 && f.sub then (M, 1 - f.bias - f.m)
    else if E = 0 && M = 0 then (0, 0)
    else (2 ^ f.m + M, (E : Int) - f.bias - f.m)

/-- The value of a code (R83, R84). -/
def decodeNum (f : NumFmt) (c : Nat) : NumVal :=
  let k := c % 2 ^ (f.w - f.s.toNat)
  let neg := f.s && c.testBit (f.w - 1)
  if f.special = 1 && decide (k = magOnes f - (2 ^ f.m - 1)) then .inf neg
  else if f.special ≠ 0 && decide (maxMag f < k) then .nan
  else let v := magValue f k; .fin neg v.1 v.2

/-- Whether a code is a subnormal floating operand, which FIN reads as zero (R95). -/
def isSubnormal (f : NumFmt) (c : Nat) : Bool :=
  f.e != 0 && f.sub && decide ((c % 2 ^ (f.w - f.s.toNat)) >>> f.m = 0) && decide (c % 2 ^ f.m ≠ 0)

/-- MODE fields (R90). -/
def modeRnd (mode : BitVec 6) : Nat := let r := (mode.extractLsb' 0 3).toNat; if r ≥ 5 then 0 else r
def modeFin (mode : BitVec 6) : Bool := mode.extractLsb' 3 2 = 1
def modeFout (mode : BitVec 6) : Bool := mode.extractLsb' 3 2 = 2
def modeMaxf (mode : BitVec 6) : Bool := mode.getLsbD 5

/-- An operand read under MODE.sub (R95). -/
def readNum (f : NumFmt) (mode : BitVec 6) (c : Nat) : NumVal :=
  match decodeNum f c with
  | .fin neg m e => if modeFin mode && isSubnormal f c then .fin neg 0 0 else .fin neg m e
  | x => x

/-- Comparison of two magnitudes m × 2^e. -/
def magCmp (m1 : Nat) (e1 : Int) (m2 : Nat) (e2 : Int) : Ordering :=
  if e1 ≤ e2 then compare m1 (m2 <<< (e2 - e1).toNat) else compare (m1 <<< (e1 - e2).toNat) m2

def magLe (a b : Nat × Int) : Bool := magCmp a.1 a.2 b.1 b.2 != .gt

/-- The largest code up to `cap` whose magnitude is at most x, tried bit by bit from the top: codes rise with their
magnitudes. -/
def codeBelow (f : NumFmt) (cap : Nat) (x : Nat × Int) : Nat :=
  (List.range f.w).foldl (fun k i =>
    let k' := k + 2 ^ (f.w - 1 - i)
    if k' ≤ cap && magLe (magValue f k') x then k' else k) 0

/-- Sum of two magnitudes with their exponents. -/
def magAdd (a b : Nat × Int) : Nat × Int :=
  if a.2 ≤ b.2 then (a.1 + (b.1 <<< (b.2 - a.2).toNat), a.2) else ((a.1 <<< (a.2 - b.2).toNat) + b.1, b.2)

/-- Whether rounding picks the upper of two neighbouring magnitudes (R93). `even` says that the lower's code has bit 0
clear. -/
def roundUp (rnd : Nat) (neg : Bool) (x lo hi : Nat × Int) (even : Bool) : Bool :=
  let mid := magAdd lo hi
  let c := magCmp (2 * x.1) x.2 mid.1 mid.2
  if rnd = 1 then false
  else if rnd = 2 then !neg
  else if rnd = 3 then neg
  else if rnd = 4 then c != .lt
  else c == .gt || (c == .eq && !even)

/-- The bit length of a number. -/
def bitLen (n : Nat) : Nat := if n = 0 then 0 else n.log2 + 1

/-- The smallest normal magnitude (R95), as a code; `none` for fixed point, which is never tiny. -/
def minNormal (f : NumFmt) : Option Nat :=
  if f.e = 0 then none else if f.sub then some (2 ^ f.m) else some 1

/-- Whether a nonzero magnitude is tiny (R95): its rounding with the same fraction width and an exponent range unbounded
below is smaller than the smallest normal value. DESIGN CHOICE (log 70): a format with m = 0 has no code below its range
whose bit 0 could settle a tie, and the tie rounds up. -/
def isTiny (f : NumFmt) (rnd : Nat) (neg : Bool) (x : Nat × Int) : Bool :=
  match minNormal f with
  | none => false
  | some k =>
    let n := magValue f k
    if magLe n x then false
    else
      let drop := (bitLen x.1 : Int) - 1 - f.m
      if drop ≤ 0 then true
      else
        let lo : Nat × Int := (x.1 >>> drop.toNat, x.2 + drop)
        let hi : Nat × Int := (lo.1 + 1, lo.2)
        let exact := lo.1 <<< drop.toNat = x.1
        let r := if !exact && roundUp rnd neg x lo hi (lo.1 % 2 = 0) then hi else lo
        !magLe n r

/-- A code with its sign bit (R83). -/
def signed (f : NumFmt) (neg : Bool) (k : Nat) : Nat := if neg && f.s then k + 2 ^ (f.w - 1) else k

/-- The canonical NaN (R79, R84); policy 0b00 has none and writes +0 (R98). -/
def canonNaN (f : NumFmt) : Nat :=
  if f.special = 1 then magOnes f - (2 ^ f.m - 1) + 2 ^ (f.m - 1)
  else if f.special = 2 then magOnes f else 0

/-- An infinity code (R84). -/
def infCode (f : NumFmt) (neg : Bool) : Nat := signed f neg (magOnes f - (2 ^ f.m - 1))

/-- The result of an overflow (R94). -/
def overflow (f : NumFmt) (mode : BitVec 6) (neg : Bool) : Nat × BitVec 6 :=
  let fl := flagOf ||| flagNx
  let rnd := modeRnd mode
  if modeMaxf mode || f.sat || f.special = 0 then (signed f neg (maxMag f), fl)
  else if f.special = 2 then (canonNaN f, fl ||| flagNv)
  else if rnd = 1 || (rnd = 2 && neg) || (rnd = 3 && !neg) then (signed f neg (maxMag f), fl)
  else (infCode f neg, fl)

/-- Round of a nonzero finite value (R93 to R95), with the flags it sets. Code `k + 1` has the next magnitude even beyond
the largest finite one, as an exponent range unbounded above gives it (R94). -/
def roundFin (f : NumFmt) (mode : BitVec 6) (neg : Bool) (x : Nat × Int) : Nat × BitVec 6 :=
  let rnd := modeRnd mode
  let cap := maxMag f
  let k := codeBelow f cap x
  let lo := magValue f k
  let exact := magCmp lo.1 lo.2 x.1 x.2 == .eq
  let hi := magValue f (k + 1)
  let far := k = cap && magLe hi x
  let up := far || (!exact && roundUp rnd neg x lo hi (k % 2 = 0))
  if !f.s && neg then (0, if up || k ≠ 0 then flagNv else flagNx)
  else if up && k = cap then overflow f mode neg
  else
    let r := if up then k + 1 else k
    let tiny := isTiny f rnd neg x
    if tiny && modeFout mode && f.sub then (signed f neg 0, flagUf ||| flagNx)
    else (signed f neg r, if exact then 0 else if tiny then flagUf ||| flagNx else flagNx)

/-- Round of any value into a format (R93 to R98). `fresh` says that a NaN was made from operands that are none (R97). -/
def roundNum (f : NumFmt) (mode : BitVec 6) (x : NumVal) : Nat × BitVec 6 :=
  match x with
  | .nan => if f.narrow && f.special = 0 then (0, flagNv) else (canonNaN f, 0)
  | .inf neg =>
    if !f.s && neg then (0, flagNv)
    else if !f.narrow then (infCode f neg, 0)
    else if f.sat then (signed f neg (maxMag f), flagOf)
    else if f.special = 1 then (infCode f neg, 0)
    else if f.special = 2 then (canonNaN f, flagNv)
    else (signed f neg (maxMag f), flagNv)
  | .fin neg m e => if m = 0 then (signed f neg 0, 0) else roundFin f mode neg (m, e)

/-! ## Exact operations -/

def negNum (x : NumVal) : NumVal :=
  match x with
  | .nan => .nan
  | .inf n => .inf (!n)
  | .fin n m e => .fin (!n) m e

/-- Exact product; the flag is nv for 0 × ∞ (R97). -/
def mulNum (x y : NumVal) : NumVal × BitVec 6 :=
  match x, y with
  | .nan, _ => (.nan, 0)
  | _, .nan => (.nan, 0)
  | .inf a, .inf b => (.inf (a != b), 0)
  | .inf a, .fin b m _ => if m = 0 then (.nan, flagNv) else (.inf (a != b), 0)
  | .fin a m _, .inf b => if m = 0 then (.nan, flagNv) else (.inf (a != b), 0)
  | .fin a m e, .fin b n g => (.fin (a != b) (m * n) (e + g), 0)

/-- The signed value of a finite number at an exponent not above its own. -/
def atExp (neg : Bool) (m : Nat) (e low : Int) : Int :=
  let v : Int := (m <<< (e - low).toNat : Nat)
  if neg then -v else v

/-- Exact sum; an exact zero follows R96; nv for ∞ − ∞ (R97). -/
def addNum (mode : BitVec 6) (x y : NumVal) : NumVal × BitVec 6 :=
  match x, y with
  | .nan, _ => (.nan, 0)
  | _, .nan => (.nan, 0)
  | .inf a, .inf b => if a = b then (.inf a, 0) else (.nan, flagNv)
  | .inf a, .fin .. => (.inf a, 0)
  | .fin .., .inf b => (.inf b, 0)
  | .fin a m e, .fin b n g =>
    let low := min e g
    let v := atExp a m e low + atExp b n g low
    if v = 0 then
      (.fin (if m = 0 && n = 0 && a && b then true else modeRnd mode = 3) 0 0, 0)
    else (.fin (v < 0) v.natAbs low, 0)

/-- The order of two numbers that are not NaN, −0 below +0 where `zeros` says so (R97). -/
def ltNum (zeros : Bool) (x y : NumVal) : Bool :=
  match x, y with
  | .inf a, .inf b => a && !b
  | .inf a, .fin .. => a
  | .fin .., .inf b => !b
  | .fin a m e, .fin b n g =>
    if m = 0 && n = 0 then zeros && a && !b
    else
      let low := min e g
      atExp a m e low < atExp b n g low
  | _, _ => false

def isNaN (x : NumVal) : Bool := x = .nan

/-- Equality of numbers, −0 equal to +0 (R280). -/
def eqNum (x y : NumVal) : Bool := !isNaN x && !isNaN y && !ltNum false x y && !ltNum false y x

/-- Minimum or maximum of two codes (R97); the chosen operand is written as a result, which FOUT can make zero (R95). -/
def minMaxNum (f : NumFmt) (mode : BitVec 6) (isMax : Bool) (a b : Nat) : Nat × BitVec 6 :=
  let x := readNum f mode a
  let y := readNum f mode b
  if isNaN x || isNaN y then (canonNaN f, 0)
  else roundNum f mode (if ltNum true x y then (if isMax then y else x) else if isMax then x else y)

/-- The integer square root, by bits from the top. -/
def isqrt (n : Nat) : Nat :=
  let h := bitLen n / 2 + 1
  (List.range h).foldl (fun r i =>
    let r' := r + 2 ^ (h - 1 - i)
    if r' * r' ≤ n then r' else r) 0

/-- A quotient with a sticky bit below at least 96 exact bits. -/
def quotient (a b : Nat) : Nat × Int :=
  let k := 96 + bitLen b
  let n := a <<< k
  (2 * (n / b) + (if n % b = 0 then 0 else 1), -(k : Int) - 1)

/-- DIV (R105). -/
def divNum (x y : NumVal) : NumVal × BitVec 6 :=
  match x, y with
  | .nan, _ => (.nan, 0)
  | _, .nan => (.nan, 0)
  | .inf _, .inf _ => (.nan, flagNv)
  | .inf a, .fin b _ _ => (.inf (a != b), 0)
  | .fin a _ _, .inf b => (.fin (a != b) 0 0, 0)
  | .fin a m e, .fin b n g =>
    if n = 0 then (if m = 0 then (.nan, flagNv) else (.inf (a != b), flagDz))
    else
      let q := quotient m n
      (.fin (a != b) q.1 (if m = 0 then 0 else q.2 + e - g), 0)

/-- SQRT (R105). -/
def sqrtNum (x : NumVal) : NumVal × BitVec 6 :=
  match x with
  | .nan => (.nan, 0)
  | .inf a => if a then (.nan, flagNv) else (.inf false, 0)
  | .fin a m e =>
    if m = 0 then (.fin a 0 0, 0)
    else if a then (.nan, flagNv)
    else
      let odd := e % 2 ≠ 0
      let n := (if odd then 2 * m else m) <<< 192
      let g := (if odd then e - 1 else e) - 192
      let r := isqrt n
      (.fin false (2 * r + (if r * r = n then 0 else 1)) (g / 2 - 1), 0)

/-- RSQRT (R105). -/
def rsqrtNum (x : NumVal) : NumVal × BitVec 6 :=
  match x with
  | .nan => (.nan, 0)
  | .inf a => if a then (.nan, flagNv) else (.fin false 0 0, 0)
  | .fin a m e =>
    if m = 0 then (.inf a, flagDz)
    else if a then (.nan, flagNv)
    else
      let odd := e % 2 ≠ 0
      let n := if odd then 2 * m else m
      let g := if odd then e - 1 else e
      let k := 192 + 2 * bitLen n
      let r := isqrt (2 ^ k / n)
      (.fin false (2 * r + (if r * r * n = 2 ^ k then 0 else 1)) (-(k : Int) / 2 - g / 2 - 1), 0)

/-- RCP (R105). -/
def rcpNum (x : NumVal) : NumVal × BitVec 6 := divNum (.fin false 1 0) x

/-- ln 2 × 2^256, rounded down. -/
def ln2Fixed : Nat := 0xb17217f7d1cf79abc9e3b39803f2f6af40f343267298b62d8a0d175b8baafa2b

/-- Σ t^k / k! for a fixed-point t below 1 with 256 fraction bits. -/
def expFixed (t : Nat) : Nat :=
  ((List.range 64).foldl (fun (p : Nat × Nat) k =>
    let term := p.2 * t / 2 ^ 256 / (k + 1)
    (p.1 + term, term)) (2 ^ 256, 2 ^ 256)).1

/-- EXP2 (R105): exact for an integer; otherwise irrational, taken to 256 fraction bits and a sticky bit (log 13). -/
def exp2Num (x : NumVal) : NumVal × BitVec 6 :=
  match x with
  | .nan => (.nan, 0)
  | .inf a => (if a then .fin false 0 0 else .inf false, 0)
  | .fin a m e =>
    if m = 0 then (.fin false 1 0, 0)
    else if 0 ≤ e || m % 2 ^ (-e).toNat = 0 then
      let n : Int := atExp a m e (min e 0) / (2 ^ (-(min e 0)).toNat : Nat)
      (.fin false 1 (if n > 100000 then 100000 else if n < -100000 then -100000 else n), 0)
    else if bitLen m + e > 20 then (.fin false 1 (if a then -100000 else 100000), 0)
    else
      let v : Int := if a then -(m : Int) else m
      let n : Int := v / (2 ^ (-e).toNat : Nat)
      let frac := (v - n * (2 ^ (-e).toNat : Nat)).toNat
      let t := if -e ≤ 256 then frac <<< (256 - (-e).toNat) else frac >>> ((-e).toNat - 256)
      (.fin false (2 * expFixed (t * ln2Fixed / 2 ^ 256) + 1) (n - 257), 0)

/-- 2 × atanh(z) = ln((1 + z) / (1 − z)) for a fixed-point z with 256 fraction bits. -/
def lnFixed (z : Nat) : Nat :=
  2 * ((List.range 90).foldl (fun (p : Nat × Nat) k =>
    (p.1 + p.2 / (2 * k + 1), p.2 * z / 2 ^ 256 * z / 2 ^ 256)) (0, z)).1

/-- LOG2 (R105): exact for a power of two; otherwise irrational, as EXP2 (log 13). -/
def log2Num (x : NumVal) : NumVal × BitVec 6 :=
  match x with
  | .nan => (.nan, 0)
  | .inf a => if a then (.nan, flagNv) else (.inf false, 0)
  | .fin a m e =>
    if m = 0 then (.inf true, flagDz)
    else if a then (.nan, flagNv)
    else
      let b := bitLen m - 1
      let n : Int := b + e
      if m = 2 ^ b then (.fin (n < 0) n.natAbs 0, 0)
      else
        let z := ((m - 2 ^ b) <<< 256) / (m + 2 ^ b)
        let v : Int := n * (2 ^ 256 : Nat) + (lnFixed z * 2 ^ 256 / ln2Fixed : Nat)
        (.fin (v < 0) (2 * v.natAbs + 1) (-257), 0)

/-! ## Conversions -/

/-- Floating to integer (R99). -/
def toInt (mode : BitVec 6) (sgn : Bool) (w : Nat) (x : NumVal) : Int × BitVec 6 :=
  match x with
  | .nan => (0, flagNv)
  | .inf a => (if a then intMin sgn w else intMax sgn w, flagNv)
  | .fin a m e =>
    let r : Nat × Bool :=
      if 0 ≤ e then (m <<< (min e 4096).toNat, false)
      else
        let d := (-e).toNat
        let lo := m >>> d
        let exact := lo <<< d = m
        (if !exact && roundUp (modeRnd mode) a (m, e) (lo, 0) (lo + 1, 0) (lo % 2 = 0) then lo + 1 else lo, !exact)
    let v : Int := if a then -(r.1 : Int) else r.1
    if v < intMin sgn w then (intMin sgn w, flagNv)
    else if intMax sgn w < v then (intMax sgn w, flagNv)
    else (v, if r.2 then flagNx else 0)

/-- An integer as a number. -/
def ofInt (v : Int) : NumVal := .fin (v < 0) v.natAbs 0

/-- Conversion between floating formats: the same format returns its operand, with a NaN canonical and, under FIN, a
subnormal zero (R281, R326); otherwise one rounding. -/
def convertNum (src dst : NumFmt) (mode : BitVec 6) (c : Nat) : Nat × BitVec 6 :=
  if src = dst then
    match readNum src mode c with
    | .nan => (canonNaN dst, 0)
    | .fin neg m _ => if m = 0 then (signed dst neg 0, 0) else (c % 2 ^ dst.w, 0)
    | .inf _ => (c % 2 ^ dst.w, 0)
  else roundNum dst mode (readNum src mode c)

/-- The type of an element of a vector, of a bank or of a scan block: a floating or narrow format, or an integer. -/
inductive ElemFmt where
  | num (f : NumFmt)
  | int (sgn : Bool) (w : Nat)
  deriving DecidableEq, Repr

/-- Conversion of one element by CVT or VCVT (R93 to R99); `wrap` keeps the low bits of an integer conversion. -/
def convertElem (src dst : ElemFmt) (mode : BitVec 6) (wrap : Bool) (c : Nat) : Nat × BitVec 6 :=
  match src, dst with
  | .num f, .num g => convertNum f g mode c
  | .num f, .int sg w => let r := toInt mode sg w (readNum f mode c); (toBits w r.1, r.2)
  | .int sg w, .num g => roundNum g mode (ofInt (readInt sg w c))
  | .int sg w, .int sh v =>
    let x := readInt sg w c
    if wrap then (toBits v x, 0) else let r := satInt sh v x; (toBits v r.1, r.2)

/-- Conversion of one element by a converting copy (R42): every value is read and rounded (R93 to R98), that of two
formats with the same effective fields too. -/
def recodeElem (src dst : ElemFmt) (mode : BitVec 6) (c : Nat) : Nat × BitVec 6 :=
  match src, dst with
  | .num f, .num g => roundNum g mode (readNum f mode c)
  | _, _ => convertElem src dst mode false c

/-- A reduction by the canonical pairwise tree (R102): `leaf` makes each one-element tree a result like any other. -/
def treeFold (op : Nat → Nat → Nat × BitVec 6) (leaf : Nat → Nat × BitVec 6) (fuel : Nat) (xs : List Nat) :
    Nat × BitVec 6 :=
  match fuel, xs with
  | 0, _ => leaf (xs.headD 0)
  | _, [] => (0, 0)
  | _, [x] => leaf x
  | fuel + 1, xs =>
    let k := 2 ^ (xs.length - 1).log2
    let a := treeFold op leaf fuel (xs.take k)
    let b := treeFold op leaf fuel (xs.drop k)
    let r := op a.1 b.1
    (r.1, a.2 ||| b.2 ||| r.2)

/-! ## Sums of many terms (R102, R103) -/

/-- The exact sum of products of one chunk (R103): NaN for a NaN operand, a 0 × ∞, or both infinities, the last two with
nv. -/
def sumTerms (mode : BitVec 6) (ps : List (NumVal × BitVec 6)) : NumVal × BitVec 6 :=
  let fl := ps.foldl (fun f p => f ||| p.2) 0
  let pos := ps.any (fun p => p.1 = .inf false)
  let neg := ps.any (fun p => p.1 = .inf true)
  let fl := if pos && neg then fl ||| flagNv else fl
  if ps.any (fun p => isNaN p.1) || (pos && neg) then (.nan, fl)
  else if pos then (.inf false, fl)
  else if neg then (.inf true, fl)
  else
    let low := ps.foldl (fun l p => match p.1 with | .fin _ m e => if m = 0 then l else min l e | _ => l) 0
    let v := ps.foldl (fun v p => match p.1 with | .fin a m e => if m = 0 then v else v + atExp a m e low | _ => v) (0 : Int)
    if v = 0 then
      let allNeg := ps.all (fun p => match p.1 with | .fin a m _ => a && m = 0 | _ => false)
      (.fin ((allNeg && !ps.isEmpty) || modeRnd mode = 3) 0 0, fl)
    else (.fin (v < 0) v.natAbs low, fl)

end Sys2Proof.Machine
end

