-- ==== Sys2Proof/Machine/Formats.lean ====
section
/-! DEFINITION. The formats of banks and of operand-FIFO positions (R38 to R40, R85, R86, R389). -/

namespace Sys2Proof.Machine

/-! ## Bank formats -/

/-- The elements of a bank (R39): raw bytes, trit bytes, or elements of a format with their stored width in bits (R40). -/
inductive BankClass where
  | raw
  | trit
  | elem (f : ElemFmt) (bits : Nat)
  deriving DecidableEq, Repr

/-- The class of a BFMT value; reserved classes decode as raw (R39). -/
def bankClass (b : BitVec 32) : BankClass :=
  match (b.extractLsb' 24 4).toNat with
  | 1 => .elem (.num fmt32) 32
  | 2 => .elem (.num fmt16) 16
  | 3 => .elem (.num fmtB16) 16
  | 4 => .elem (.int true 8) 8
  | 5 => .elem (.int true 16) 16
  | 6 => .elem (.int true 32) 32
  | 7 => .elem (.int true 64) 64
  | 8 => .trit
  | 9 =>
    let f := narrowFmt (b.extractLsb' 0 20)
    .elem (.num f) (if f.w = 2 then 2 else if f.w = 4 then 4 else 8)
  | _ => .raw

/-- The format register of the bank that a local address lies in (R38). -/
def bankFmt (t : Slot) (a : Nat) : BitVec 32 := t.bfmt.toList.getD (a / 2 ^ 18) 0

/-- The lsb exponent of a format (R85). -/
def qminOf (f : ElemFmt) : Int :=
  match f with
  | .int .. => 0
  | .num f => if f.e = 0 then -f.bias else (if f.sub then 1 else 0) - f.bias - f.m

/-- The integer image of a finite value (R85). -/
def imageOf (f : ElemFmt) (m : Nat) (e : Int) : Nat := m <<< (e - qminOf f).toNat

/-- The span of a format (R85). -/
def spanOf (f : ElemFmt) : Nat :=
  match f with
  | .int _ w => w
  | .num g => if g.narrow then (let v := magValue g (maxMag g); 1 + bitLen (imageOf f v.1 v.2)) else 31

/-- The activation-eligible formats (R85). -/
def activation (b : BitVec 32) : Option (ElemFmt × Nat) :=
  match bankClass b with
  | .elem f bits => if spanOf f ≤ 30 then some (f, bits) else none
  | _ => none

/-- The value of an activation element: its integer image as a number with exponent 0, an infinity, or NaN (R86). -/
def activationOf (f : ElemFmt) (c : Nat) : NumVal :=
  match f with
  | .int s w => ofInt (readInt s w c)
  | .num g =>
    match decodeNum g c with
    | .fin neg m e => .fin neg (imageOf f m e) 0
    | x => x

/-- The bytes of one activation row of a position (R389). -/
def rowBytesOf (bits : Nat) : Nat := 320 * bits / 8

/-- The rows of a position as address and length (R389); weights are one row of 16,384 bytes. -/
def positionRows (src rstride rows : Nat) (weight : Bool) (fmt : BitVec 32) : List (Nat × Nat) :=
  if weight then [(src, 16384)]
  else match activation fmt with
    | some (_, bits) => (List.range rows).map (fun r => (src + r * rstride, rowBytesOf bits))
    | none => []

end Sys2Proof.Machine
end

