-- ==== Sys2Proof/Machine/Home.lean ====
section
/-! DEFINITION. Where accesses are performed: access tables (R125 to R127), home slices and their line metadata (R60 to
R67), the conflict rule of deterministic mode (R188 to R196), L1 caches (R56 to R59), handles (R116 to R121) and
scratchpad banks (R27 to R30, R36 to R48). -/

namespace Sys2Proof.Machine

/-! ## Access tables -/

/-- A number for each target that holds an access table (R125). -/
def targetNum (t : Target) : Nat :=
  match t with
  | .slice d n => 64 * d.toNat + n.toNat
  | .memory d n => 128 + 4 * d.toNat + n.toNat
  | .kvSlice d n => 160 + 16 * d.toNat + n.toNat
  | .egress => 200
  | .chain p => 210 + p.toNat

/-- Rights of an access-table entry (R125). -/
abbrev rightRead : Nat := 16
abbrev rightWrite : Nat := 17
abbrev rightAtomic : Nat := 18
abbrev rightKvMgmt : Nat := 19
abbrev rightKv : Nat := 20
abbrev rightEgress : Nat := 21
abbrev rightChain : Nat := 22

/-- The access tables that judge a request of this cc: as they stood before a write of this cc (R127). -/
def accessNow (s : State) : Sparse Word :=
  match s.accessWas with
  | some (c, old) => if c = s.cycle then old else s.access
  | none => s.access

/-- Whether a target admits a request (R126): firmware always; else an exact entry, and only without one an entry for
every context of the tenant. -/
def admits (s : State) (t : Target) (tenant context : BitVec 16) (right : Nat) : Bool :=
  let mine := ((accessNow s).filter (fun p => p.1 / 1024 = targetNum t && p.2.getLsbD 0
      && p.2.extractLsb' 48 16 = tenant)).map (fun p => p.2)
  let exact := mine.filter (fun e => e.extractLsb' 32 16 = context)
  let wild := mine.filter (fun e => e.extractLsb' 32 16 = 0xFFFF)
  tenant = 0 || (if exact.isEmpty then wild else exact).any (fun e => e.getLsbD right)

/-! ## Home slices -/

/-- The bucket of a line (R66). -/
def bucketOf (pa : Nat) : Nat :=
  ((pa >>> 7) % 4096) ^^^ ((pa >>> 19) % 4096) ^^^ ((pa >>> 31) % 4096) ^^^ ((pa >>> 43) % 32)

/-- The home compute die, physical address bit 44 (R21). -/
def homeDie (pa : Nat) : Nat := (pa >>> 44) % 2

def bucketKey (pa : Nat) : Nat := 4096 * homeDie pa + bucketOf pa

/-- An indirection-table entry (R67), by 4096 × die + bucket. -/
def tableEntry (s : State) (key : Nat) : BitVec 16 := sget (BitVec.ofNat 16 (key % 64)) s.table key

def setTable (s : State) (key : Nat) (e : BitVec 16) : State :=
  { s with table := sset (BitVec.ofNat 16 (key % 64)) s.table key e }

/-- The home slice of a line (R66). -/
def homeTarget (s : State) (pa : Nat) : Target :=
  .slice (homeDie pa = 1) ((tableEntry s (bucketKey pa)).extractLsb' 0 6)

/-- Whether a physical address is one of compute-side LPDDR-5X (R21). -/
def isMemory (pa : Nat) : Bool := pa < 2 ^ 46 && (pa >>> 45) % 2 = 0 && (pa >>> 38) % 64 = 0

/-- A line's state word (R63), by physical address ÷ 128. -/
def lineWord (s : State) (line : Nat) : BitVec 32 := sget 0 s.lines line

def setLine (s : State) (line : Nat) (w : BitVec 32) : State := { s with lines := sset 0 s.lines line w }

/-- A conflict word (R63): phase, w, rm, writer, reader, wsync. -/
def mkWord (phase : Nat) (w rm : Bool) (writer reader : BitVec 9) (wsync : BitVec 6) : BitVec 32 :=
  BitVec.ofNat 6 phase ++ BitVec.ofBool w ++ BitVec.ofBool rm ++ writer ++ reader ++ wsync

abbrev cwPhase (w : BitVec 32) : BitVec 6 := w.extractLsb' 26 6
abbrev cwW (w : BitVec 32) : Bool := w.getLsbD 25
abbrev cwRm (w : BitVec 32) : Bool := w.getLsbD 24
abbrev cwWriter (w : BitVec 32) : BitVec 9 := w.extractLsb' 15 9
abbrev cwReader (w : BitVec 32) : BitVec 9 := w.extractLsb' 6 9
abbrev cwSync (w : BitVec 32) : BitVec 6 := w.extractLsb' 0 6

/-- The slice and the set of a line (R60, R66): its home die, the slice that owns its bucket, address bits 20:7. -/
def lineSet (s : State) (line : Nat) : Nat × BitVec 6 × Nat :=
  (homeDie (128 * line), (tableEntry s (bucketKey (128 * line))).extractLsb' 0 6, line % 16384)

/-- A range of pinned translations by its virtual base (R200). -/
def pinAt (pins : List Pin) (va : Nat) : Option Nat := (pins.find? (fun p => p.va = va)).map (fun p => p.pa)

/-- The lines of a deterministic launch's window (R64). -/
def windowLines (l : Launch) : Option (Nat × Nat) :=
  (pinAt l.pins (recDwin l.record)).map (fun pa => (pa / 128, pa / 128 + 512 * recDwlen l.record))

/-- The entry of a line in a launch's metadata spill area (R64), for a line of its window. -/
def launchSpill (l : Launch) (line : Nat) : Option Nat :=
  match windowLines l, pinAt l.pins (recMspill l.record) with
  | some (lo, hi), some area => if lo ≤ line ∧ line < hi then some (area + 4 * (line - lo)) else none
  | _, _ => none

/-- The deterministic launches that have an index (R190). -/
def detLaunches (s : State) : List Launch :=
  s.queues.flatMap (fun p => p.2.launches.filter (fun l => recDet l.record && l.detIndex ≠ 0))

/-- The launch that owns a line's determinism word, by its index (R63, R64). -/
def detOwner (s : State) (line : Nat) : Option Launch :=
  (detLaunches s).find? (fun l => l.detIndex = ((lineWord s line).extractLsb' 12 4).toNat)

/-- A line leaves its slice (R64): it is written back, and its determinism word goes to the owning launch's spill area
while its phase is the present one. -/
def evictLine (s : State) (line : Nat) : State :=
  let w := lineWord s line
  let word := sget 0 s.detWords line
  let gone (s : State) : State := { s with lines := sdel s.lines line, detWords := sdel s.detWords line }
  match detOwner s line with
  | some l =>
    match launchSpill l line with
    | some a =>
      if w.getLsbD 1 && cwPhase word = BitVec.ofNat 6 l.phase then
        gone { s with mem := ssetRange 0 s.mem a (bytesOf 4 word.toNat) }
      else gone s
    | none => gone s
  | none => gone s

/-- The ordinary lines of a line's set, which share the ways outside the pin partition (R60, R62). -/
def setMates (s : State) (line : Nat) : List Nat :=
  ((s.lines.filter (fun p => p.2.getLsbD 0 && !p.2.getLsbD 3)).map (fun p => p.1)).filter
    (fun x => lineSet s x = lineSet s line)

/-- A full set evicts one of its ordinary lines, a free choice (R60, R62; log 37). -/
def makeRoom (s : State) (line : Nat) : State :=
  let mates := setMates s line
  if mates.length + s.pinWays < 24 then s
  else evictLine s (mates.getD (Config.victim s.cycle line % mates.length) line)

/-- The determinism word that a returning line takes back from the spill area of the launch whose window holds it, while
its phase is the launch's present one (R64, R190). -/
def reloadLine (s : State) (line : Nat) : State :=
  match (detLaunches s).findSome? (fun l =>
      (launchSpill l line).bind (fun a =>
        let word := BitVec.ofNat 32 (memNat s a 4)
        if cwPhase word = BitVec.ofNat 6 l.phase then some (l.detIndex, word) else none)) with
  | some (idx, word) =>
    { setLine s line ((lineWord s line &&& 0xFFFF0FFF#32) ||| (BitVec.ofNat 32 idx <<< 12) ||| 2#32) with
      detWords := sset 0 s.detWords line word }
  | none => s

/-- A line made resident in its home slice, whoever touches it (R60, R64). -/
def bringLine (s : State) (line : Nat) : State :=
  if (lineWord s line).getLsbD 0 then s
  else
    let s := reloadLine (makeRoom s line) line
    setLine s line (lineWord s line ||| 1#32)

/-- The state after a read at the home: the line is resident, unless a .MEM access finds it absent (R61). -/
def touchLine (s : State) (line : Nat) (mem : Bool) : State := if mem then s else bringLine s line

/-- The sequence tag of one more write on a line: its bucket's counter advances and the line takes it (R65). A write at
.MEM is written through, and does not allocate (R61). -/
def tagWrite (s : State) (line : Nat) (mem : Bool) : State × BitVec 16 :=
  let key := bucketKey (128 * line)
  let tag := sget 0 s.counters key + 1
  let s := touchLine { s with counters := sset 0 s.counters key tag } line mem
  let w := lineWord s line
  if !w.getLsbD 0 then (s, tag)
  else
    let low : BitVec 16 := w.extractLsb' 0 16
    (setLine s line (tag ++ (if mem then low &&& ~~~4#16 else low ||| 4#16)), tag)

/-- Whether the derailleur has new requests for a line's bucket held (R68, step 3): its entry is in HOLD or FLUSH. -/
def lineHeld (s : State) (line : Nat) : Bool :=
  let st := (tableEntry s (bucketKey (128 * line))).extractLsb' 14 2
  st = 1 || st = 2

/-- The lines that `n` bytes at an address touch. -/
def linesOf (pa n : Nat) : List Nat :=
  if n = 0 then [] else (List.range ((pa + n - 1) / 128 + 1 - pa / 128)).map (fun i => pa / 128 + i)

/-- One write performed at the home of each line it touches (R65); answers the tag of the first line. -/
def homeWrite (s : State) (pa : Nat) (bs : List Byte) (mem : Bool := false) : State × BitVec 16 :=
  let r := (linesOf pa bs.length).foldl
    (fun (x : State × Option (BitVec 16)) line =>
      let y := tagWrite x.1 line mem
      (y.1, some (x.2.getD y.2))) (s, none)
  (writeMem r.1 pa bs, r.2.getD 0)

/-- One read performed at the home of each line it touches (R61). -/
def homeRead (s : State) (pa n : Nat) (mem : Bool := false) : State × List Byte :=
  ((linesOf pa n).foldl (fun s line => touchLine s line mem) s, readMem s pa n)

/-! ## Deterministic mode: memory lines -/

/-- What an access is for the conflict rule (R194). -/
inductive Access where
  | read | write | reduce
  deriving DecidableEq, Repr

/-- The update of R194, or the check that traps (R196: 1 RAW, 2 WRITE, 3 REDUCE). -/
def conflict (wd : BitVec 32) (touched : Bool) (phase : Nat) (x : BitVec 9) (k : Access) (ws : BitVec 6)
    (ordered : Bool) : Except (BitVec 3) (BitVec 32) :=
  if !touched then
    match k with
    | .read => .ok (mkWord phase false false x x 0)
    | .write => .ok (mkWord phase true false x x ws)
    | .reduce => .ok (mkWord phase true false 0x1FF x ws)
  else
    match k with
    | .read =>
      if cwW wd && cwWriter wd != x && !ordered then .error 1
      else if cwReader wd != x then .ok (wd ||| 0x01000000#32) else .ok wd
    | .reduce => if !cwW wd || cwWriter wd != 0x1FF then .error 3 else .ok wd
    | .write =>
      if (cwW wd && cwWriter wd != x) || cwReader wd != x || cwRm wd then .error 2
      else .ok (mkWord phase true (cwRm wd) x (cwReader wd) ws)

/-- The determinism trap (R196). -/
def detTrap {α : Type} (operand : Word) (check : BitVec 3) (wd : BitVec 32) (agent : BitVec 9) : Res α :=
  .error (.fault { code := 0x21, operand := operand, dcheck := check, dwriter := cwWriter wd, dreader := cwReader wd,
                   dagent := agent })

/-- The launch of a slot's item. -/
def launchOfSlot (s : State) (t : Slot) : Option Launch :=
  match t.item with
  | some i => launchOf s i.queue i.ordinal
  | none => none

/-- The physical base of the pinned range that starts at a virtual address (R200). -/
def pinBase (t : Slot) (va : Nat) : Option Nat := pinAt t.pins va

/-- The entry of a line's determinism word in the launch's metadata spill area (R64). -/
def spillEntry (t : Slot) (line : Nat) : Option Nat :=
  match pinBase t (recDwin t.record), pinBase t (recMspill t.record) with
  | some base, some area => some (area + 4 * (line - base / 128))
  | _, _ => none

/-- Whether a line lies in the launch's deterministic window (R64, R188). -/
def inWindow (t : Slot) (line : Nat) : Bool :=
  match pinBase t (recDwin t.record) with
  | some base => base / 128 ≤ line && line < base / 128 + 512 * recDwlen t.record
  | none => false

/-- The conflict word of a line as the slot finds it, and whether it is valid: a resident line's own, or the entry of
the spill area for a line that is not resident (R64). -/
def lineConflictWord (s : State) (t : Slot) (line : Nat) : BitVec 32 × Bool :=
  let st := lineWord s line
  let idx := match launchOfSlot s t with | some l => l.detIndex | none => 0
  if st.getLsbD 0 then
    (sget 0 s.detWords line, st.getLsbD 1 && (st.extractLsb' 12 4).toNat = idx)
  else match spillEntry t line with
    | some a => (BitVec.ofNat 32 (memNat s a 4), true)
    | none => (0, false)

/-- A conflict word kept: with its line if that is resident, else in the spill area, for an access at .MEM allocates no
line (R61, R64; log 71). -/
def keepWord (s : State) (t : Slot) (line : Nat) (w : BitVec 32) : State :=
  let idx := match launchOfSlot s t with | some l => l.detIndex | none => 0
  let st := lineWord s line
  if st.getLsbD 0 then
    { setLine s line ((st &&& 0xFFFF0FFF#32) ||| (BitVec.ofNat 32 idx <<< 12) ||| 2#32) with
      detWords := sset 0 s.detWords line w }
  else match spillEntry t line with
    | some a => { s with mem := ssetRange 0 s.mem a (bytesOf 4 w.toNat) }
    | none => s

/-- The conflict rule for one line (R194), before the access is performed. -/
def checkLine (s : State) (t : Slot) (k : Access) (mem : Bool) (line : Nat) : Res State :=
  if !inWindow t line then raise 0x1F
  else
    let x := slotCode t.id
    let s := touchLine s line mem
    let (wd, present) := lineConflictWord s t line
    let touched := present && cwPhase wd = BitVec.ofNat 6 t.phase
    let ordered := cwWriter wd != 0x1FF
      && t.det.table.any (fun e => e.1 = cwWriter wd && decide (cwSync wd < e.2))
    match conflict wd touched t.phase x k t.det.rc ordered with
    | .error c => detTrap (word (128 * line)) c wd x
    | .ok w => .ok (keepWord s t line w)

/-- The conflict rule for every line of an access of a deterministic launch; nothing for any other (R188). -/
def checkLines (s : State) (t : Slot) (k : Access) (pa n : Nat) (mem : Bool := false) : Res State :=
  if isDet t then (linesOf pa n).foldlM (fun s line => checkLine s t k mem line) s else .ok s

/-! ## Deterministic mode: granules -/

/-- An access to a scratchpad granule for the conflict rule (R195): a waiting read, consuming or not; a read that does
not wait; a write with its wsync. -/
inductive GranAccess where
  | waiting (consume : Bool)
  | plain
  | write (ws : BitVec 6)
  /-- FESET: a publication by the word's writer, a write by another agent. -/
  | publish (rc : BitVec 6)
  /-- A commutative reduction (R192). -/
  | reduce (rc : BitVec 6)
  deriving DecidableEq, Repr

/-- Whether an agent code is that of an engine context (R192). -/
def isEngineCode (c : BitVec 9) : Bool := 0xE0 ≤ (c.extractLsb' 1 8).toNat && c != 0x1FF

/-- The update of a granule's conflict word (R194, R195), or the check that traps. `seen` says that the slot that reads is
the owning slot of the writer's engine code, and that its last acquired value of that counter is the issue count. -/
def granuleConflict (t : Slot) (wd : BitVec 32) (x : BitVec 9) (seen : Bool) (a : GranAccess) :
    Except (BitVec 3) (BitVec 32) :=
  let touched := cwPhase wd = BitVec.ofNat 6 t.phase
  let third := touched && cwReader wd != x && cwReader wd != cwWriter wd
  let handed := touched && !cwW wd && cwSync wd = 0x3E && cwWriter wd = x
  match a with
  | .waiting consume =>
    if third then .error 1
    else match conflict wd touched t.phase x .read 0 (isEngineCode (cwWriter wd) || cwSync wd != 0x3F) with
      | .error c => .error c
      | .ok w => if consume then .ok (mkWord t.phase false false (cwWriter w) x 0x3E) else .ok w
  | .plain => if third then .error 1 else conflict wd touched t.phase x .read 0 seen
  | .write ws =>
    if handed then .ok (mkWord t.phase true (cwRm wd) x (cwReader wd) ws) else conflict wd touched t.phase x .write ws false
  | .publish rc =>
    if handed || (touched && cwW wd && cwWriter wd = x) then .ok (mkWord t.phase true (cwRm wd) x (cwReader wd) rc)
    else conflict wd touched t.phase x .write rc false
  | .reduce rc => conflict wd touched t.phase x .reduce rc false

/-- Whether a slot owns the engine context that last wrote a granule, `owner` being its code, and has acquired every
operation of that counter (R195). -/
def acquiredAll (r : Slot) (owner : BitVec 9) (code : BitVec 9) : Bool :=
  isEngineCode code && owner = slotCode r.id &&
    (match r.q[(code.extractLsb' 1 4).toNat]? with | some c => c.acquired = c.issued | none => false)

/-- Whether an access writes its granule. -/
def GranAccess.writes (a : GranAccess) : Bool :=
  match a with
  | .waiting _ => false
  | .plain => false
  | .write _ => true
  | .publish _ => true
  | .reduce _ => true

/-- The granules that `n` bytes at a local address touch. -/
def granulesOf (a n : Nat) : List Nat :=
  if n = 0 then [] else (List.range ((a + n - 1) / 16 + 1 - a / 16)).map (fun i => a / 16 + i)

/-- A waiting read that was admitted with wsync other than 0x3F enters its pair as pending (R193). DESIGN CHOICE (log 96): a
word without a publication in the phase, one whose w bit is 0, gives no pair. -/
def addPending (t : Slot) (wd : BitVec 32) (a : GranAccess) : Slot :=
  match a with
  | .waiting _ =>
    if cwW wd && cwSync wd != 0x3F && cwPhase wd = BitVec.ofNat 6 t.phase then
      let p := (cwWriter wd, cwSync wd)
      if t.det.pending.contains p then t else { t with det := { t.det with pending := t.det.pending ++ [p] } }
    else t
  | _ => t

/-- The register form of a target (R240, R279). -/
def scratchReg (rank : Option Nat) (a : Nat) : Word :=
  match rank with
  | none => word a
  | some r => word (2 ^ 32 + r * 2 ^ 22 + a)

/-- Whether a FIFO position that has not retired was filled from a granule of its slot (R55). -/
def fifoReads (t : Slot) (g : Nat) : Bool :=
  t.fifos.toList.any (fun f => f.held.any (fun p =>
    (positionRows p.src p.rstride p.rows (p.rows = 0) p.fmt).any (fun r =>
      decide (r.1 < 16 * g + 16) && decide (16 * g < r.1 + r.2))))

/-- The conflict rule for one granule of slot `c` as agent `x` of slot `by_` accesses it. A write while the read for a
FIFO position lasts conflicts with it (R55). -/
def checkGranule (s : State) (c by_ : SlotId) (x : BitVec 9) (a : GranAccess) (g : Nat) : Res State :=
  match slotOf s c with
  | none => .ok s
  | some t =>
    let wd := sget 0 t.conflict g
    let rank := if c = by_ then none else t.item.map (fun i => i.rank)
    let operand := scratchReg rank (16 * g)
    let seen := match slotOf s by_ with | some r => acquiredAll r (sget 0 t.owners g) (cwWriter wd) | none => false
    if a.writes && fifoReads t g then detTrap operand 2 wd x
    else match granuleConflict t wd x seen a with
    | .error k => detTrap operand k wd x
    | .ok w =>
      .ok (modSlot (modSlot s c (fun t =>
          { t with
            conflict := sset 0 t.conflict g w
            owners := if a.writes && isEngineCode x then sset 0 t.owners g (slotCode by_) else t.owners })) by_
        (fun t => addPending t wd a))

/-- The conflict rule for every granule of an access of a deterministic launch. -/
def checkGranules (s : State) (c by_ : SlotId) (x : BitVec 9) (a : GranAccess) (addr n : Nat) : Res State :=
  match slotOf s by_ with
  | some t => if isDet t then (granulesOf addr n).foldlM (fun s g => checkGranule s c by_ x a g) s else .ok s
  | none => .ok s

/-! ## L1 caches -/

/-- The cluster of a compute core (R15), or none. -/
def clusterOf (core : BitVec 8) : Option Nat := if core.toNat < 0x80 then some (core.toNat / 8) else none

def isFused (s : State) (core : BitVec 8) : Bool :=
  match clusterOf core with
  | some c => s.fused.getLsbD c
  | none => false

/-- The core whose L1 holds a line for accesses of `core`: its own, or in fused mode the member that bits 9:7 name
(R58). -/
def l1Holder (s : State) (core : BitVec 8) (line : Nat) : BitVec 8 :=
  if isFused s core then BitVec.ofNat 8 (core.toNat / 8 * 8 + line % 8) else core

/-- The set of a line in its L1: bits 15:7, or in fused mode bits 18:10 (R56, R58). -/
def l1Set (s : State) (core : BitVec 8) (line : Nat) : Nat := if isFused s core then line / 8 % 512 else line % 512

/-- A line read at .CL (R57, R177): the L1's copy on a hit of address and TENANT, else a fill from the home. The list
holds the lines with the latest used first, and a full set loses its last one (R56, log 10). -/
def l1Read (s : State) (t : Slot) (line : Nat) : State × List Byte :=
  let core := l1Holder s t.id.core line
  let mine (x : L1Line) : Bool := x.core = core && x.line = line && x.tenant = t.tenant
  match s.l1.find? mine with
  | some x => ({ s with l1 := x :: s.l1.filter (fun y => !mine y) }, x.bytes)
  | none =>
    let s := touchLine s line false
    let bs := readMem s (128 * line) 128
    let inSet := s.l1.filter (fun x => x.core = core && l1Set s core x.line = l1Set s core line)
    let keep := if inSet.length ≥ 8 then
        (match inSet.getLast? with
         | some v => s.l1.filter (fun x => !(x.core = core && x.line = v.line && x.tenant = v.tenant))
         | none => s.l1)
      else s.l1
    ({ s with l1 := ⟨core, line, t.tenant, bs⟩ :: keep }, bs)

/-- `n` bytes read at .CL. -/
def l1Bytes (s : State) (t : Slot) (pa n : Nat) : State × List Byte :=
  (linesOf pa n).foldl (fun x line =>
    let y := l1Read x.1 t line
    let lo := if 128 * line < pa then pa - 128 * line else 0
    let hi := if pa + n < 128 * line + 128 then pa + n - 128 * line else 128
    (y.1, x.2 ++ (y.2.drop lo).take (hi - lo))) (s, [])

/-- Bytes of a list replaced from an offset. -/
def patch (bs : List Byte) (off : Nat) (new : List Byte) : List Byte :=
  bs.take off ++ new ++ bs.drop (off + new.length)

/-- A store also updates a copy of its line in the issuing L1 (R57, R172). -/
def l1Update (s : State) (t : Slot) (pa : Nat) (bs : List Byte) : State :=
  { s with l1 := s.l1.map (fun x =>
      if x.core = l1Holder s t.id.core x.line && x.tenant = t.tenant
          && decide (pa < 128 * x.line + 128) && decide (128 * x.line < pa + bs.length) then
        let drop := 128 * x.line - pa
        let off := pa - 128 * x.line
        { x with bytes := patch x.bytes off ((bs.drop drop).take (128 - off)) }
      else x) }

/-- Every line of the core's L1 dropped, or of the cluster's in fused mode (R179). -/
def l1Invalidate (s : State) (core : BitVec 8) : State :=
  { s with l1 := s.l1.filter (fun x =>
      if isFused s core then clusterOf x.core ≠ clusterOf core else x.core ≠ core) }

/-- Copies of some lines dropped from the core's L1, or the cluster's (R310). -/
def l1Drop (s : State) (core : BitVec 8) (lo hi : Nat) : State :=
  { s with l1 := s.l1.filter (fun x =>
      !((if isFused s core then clusterOf x.core = clusterOf core else x.core = core)
        && decide (lo ≤ x.line) && decide (x.line < hi))) }

/-! ## Handles -/

/-- What a handle captures when it is full and valid (R119). -/
def capture (h : Handle) : Capture :=
  { base := h.pbase.toNat * 2 ^ 16, size := pageBytes h.size, perm := h.perm, kdh := h.kdh, vpage := h.vpage }

/-- A use of a handle (R119): unbound faults, empty waits or traps, not valid re-translates, for
the page offset of the use. -/
def useHandle (t : Slot) (h : BitVec 4) (trap : Bool) (off : Int := 0) : Res Capture :=
  let x := t.h[h.toNat]
  if !x.bound then raise 0x07
  else if !x.full then (if trap then raise 0x2A (regOperand 3 h.toNat) else blockOn (.handle h))
  else if !x.valid then .error (.retranslate h trap off)
  else .ok (capture x)

/-- Permission bits of a use (R121). -/
abbrev permRd : BitVec 4 := 1
abbrev permW : BitVec 4 := 2
abbrev permRwa : BitVec 4 := 7

/-- Bounds and permission of an access at a page offset (R20, R121). -/
def checkPage (c : Capture) (off : Int) (n : Nat) (perm : BitVec 4) (keyed : Bool := false) : Res Nat :=
  if off < 0 || off ≥ c.size then raise 0x05 (BitVec.ofInt 64 off)
  else if off + n > c.size then raise 0x05 (word c.size)
  else if (c.perm &&& perm) != perm || (!keyed && c.kdh != 0) then raise 0x06 (BitVec.ofInt 64 off)
  else .ok (c.base + off.toNat)

/-! ## Refusals -/

/-- The back-off of a port in cc (R450). -/
def backoffTime (b : BitVec 16) (j : Nat) : Nat := b.toNat * 2 ^ min j 6 * 16

/-! ## Scratchpad banks -/

/-- Whether `n` bytes at a local address lie in one bank that the slot's launch declared (R27, R285). -/
def ownsBank (t : Slot) (a : Nat) : Bool := a < 2 ^ 22 && (recBmask t.record).getLsbD (a / 2 ^ 18)

def ownsRange (t : Slot) (a n : Nat) : Bool :=
  ownsBank t a && (n = 0 || (ownsBank t (a + n - 1) && a / 2 ^ 18 = (a + n - 1) / 2 ^ 18))

def bankRead (t : Slot) (a n : Nat) : List Byte := sgetRange 0 t.banks a n

/-- Bytes written to the banks; the poison of every granule that they cover whole is cleared (R447). -/
def bankWrite (t : Slot) (a : Nat) (bs : List Byte) : Slot :=
  { t with banks := ssetRange 0 t.banks a bs, poison := curePoison t.poison a bs.length }

/-- Whether a read consumes a poisoned granule of the banks (R448). -/
def bankPoisoned (t : Slot) (a n : Nat) : Bool := hasPoison t.poison a n

/-- Bytes that a slot's bank gives a reader, which a poisoned granule stops (R448). -/
def bankData (s : State) (c : SlotId) (a n : Nat) : Res (List Byte) :=
  match slotOf s c with
  | some t => if bankPoisoned t a n then raise 0x2F else .ok (bankRead t a n)
  | none => .ok []

/-- The full/empty bit of a granule (R44); a granule that nothing has emptied is full (R37). -/
def granuleFull (t : Slot) (g : Nat) : Bool := sget true t.empty g

def setGranule (t : Slot) (g : Nat) (full : Bool) : Slot := { t with empty := sset true t.empty g full }

def setGranules (t : Slot) (a n : Nat) (full : Bool) : Slot := (granulesOf a n).foldl (fun t g => setGranule t g full) t

/-- The first granule of a range that is empty. -/
def firstEmpty (t : Slot) (a n : Nat) : Option Nat := (granulesOf a n).find? (fun g => !granuleFull t g)

/-- Whether a slot is the active one of its core (R209). -/
def isActive (s : State) (c : SlotId) : Bool := (sget {} s.cores c.core.toNat).active = c.slot

/-- Whether the streams and engines of a slot may act: not stopped by a fault that firmware answers (R430, R434), or for a save
(R437). -/
def slotRunning (t : Slot) : Bool := t.answer.isNone && !t.saving && t.item.isSome

/-- Whether the engines of a slot may use its storage now: an engine operation of an inactive slot stops where R430 says, and
what no longer uses the slot's storage goes on (R210; log 82). -/
def enginesRun (s : State) (t : Slot) : Bool := slotRunning t && isActive s t.id

/-- Whether the control stream of a slot can go on by an event of its own now: the slot is active, past the switch, and
waits on no firmware answer (R209, R423, R443). -/
def ctlAwake (s : State) (t : Slot) : Bool :=
  t.answer.isNone && !t.saving && isActive s t.id && decide ((sget {} s.cores t.id.core.toNat).switchEnds ≤ s.cycle)

/-- The slot of the troupe member with a rank (R28, R207). -/
def memberSlot (s : State) (t : Slot) (rank : Nat) : Option Slot :=
  match t.item with
  | none => none
  | some i => (allSlots s).find? (fun x => match x.item with
      | some j => j.queue = i.queue && j.ordinal = i.ordinal && j.rank = rank && j.index + i.rank = i.index + rank
      | none => false)

/-- Whether a troupe member's banks can be reached (R30, R207): it is resident and active, or has retired and keeps its
slot. -/
def memberHere (s : State) (m : Slot) : Bool :=
  isActive s m.id || (match m.item with | some i => i.retired | none => false)

/-- Where a memory reference points: memory at a physical address, or a bank of a slot. `reg` is the address or handle
offset for reports (R428). -/
inductive Place where
  | mem (pa : Nat) (reg : Word)
  | bank (slot : SlotId) (a : Nat) (reg : Word)
  deriving DecidableEq, Repr

/-- A scratchpad address in the register form of R240: the rank, if a troupe address, and the local address. -/
def parseScratch (B : Word) : Res (Option Nat × Nat) :=
  if B.getLsbD 32 then
    if bits B 63 33 ≠ 0 ∨ bits B 31 28 ≠ 0 then raise 0x04 else .ok (some (bits B 27 22), bits B 21 0)
  else if bits B 63 22 ≠ 0 then raise 0x04 else .ok (none, bits B 21 0)

/-- A local scratchpad address in a register; a troupe form is the address-form fault (R307, R375). -/
def localAddr (B : Word) (align : Nat) : Res Nat :=
  match parseScratch B with
  | .error e => .error e
  | .ok (some _, _) => raise 0x04
  | .ok (none, a) => if a % align = 0 then .ok a else raise 0x04

/-- The bank that `n` bytes at a scratchpad target lie in, after the checks of ownership and troupe (R27, R29, R30). A
member's own rank is the local access. A member that has retired keeps its banks, and an access to it behaves as one to a resident
member (R207). -/
def bankPlace (s : State) (t : Slot) (rank : Option Nat) (a n : Nat) : Res Place :=
  let reg := scratchReg rank a
  if n ≠ 0 ∧ a / 2 ^ 18 ≠ (a + n - 1) / 2 ^ 18 then raise 0x04
  else match rank with
  | none => if ownsRange t a n then .ok (.bank t.id a reg) else raise 0x08 reg
  | some r =>
    let size := match t.item with | some i => i.size | none => 0
    let own := match t.item with | some i => i.rank | none => 0
    if size = 0 ∨ r ≥ size then raise 0x0C reg
    else if r = own then (if ownsRange t a n then .ok (.bank t.id a reg) else raise 0x08 reg)
    else match memberSlot s t r with
      | none => blockOn (.member r)
      | some m =>
        if !memberHere s m then blockOn (.member r)
        else if ownsRange m a n then .ok (.bank m.id a reg) else raise 0x08 reg (BitVec.ofNat 32 r)

/-- Whether a home admits an access of a slot (R126, R127). A .MEM access that passes to memory is judged by the memory
controller as well (log 11). -/
def admitMem (s : State) (t : Slot) (pa : Nat) (right : Nat) (mem : Bool) : Bool :=
  admits s (homeTarget s pa) t.tenant t.context right
    && (!mem || admits s (.memory (BitVec.ofNat 2 (homeDie pa)) (BitVec.ofNat 2 (pa / 4096))) t.tenant t.context right)

/-- The first byte of an access whose home refuses it (R127). -/
def refusedByte (s : State) (t : Slot) (pa : Nat) (lines : List Nat) (right : Nat) (mem : Bool) : Option Nat :=
  (lines.find? (fun l => !admitMem s t (128 * l) right mem)).map (fun l => max pa (128 * l))

/-- The place of a link. -/
def linkNum (l : UcieLink) : Fin 5 :=
  match l with
  | .compute => 0
  | .attention false false => 1
  | .attention false true => 2
  | .attention true false => 3
  | .attention true true => 4

/-- The links that a request from one die to another crosses (R12, R13, R78): between the attention dies it passes
through the compute die that the low bit of the destination's KV slice names. -/
def diePath (src dst slice : Nat) : List UcieLink :=
  if src = dst then []
  else if src < 2 then (if dst < 2 then [.compute] else [.attention (src = 1) (dst = 3)])
  else if dst < 2 then [.attention (dst = 1) (src = 3)]
  else [.attention (slice % 2 = 1) (src = 3), .attention (slice % 2 = 1) (dst = 3)]

/-- The back-off parameter of the first link that a request crosses. DESIGN CHOICE (log 88): one that crosses no link takes
that of the compute link. -/
def linkBackoff (s : State) (src dst slice : Nat) : BitVec 16 :=
  match diePath src dst slice with
  | l :: _ => (s.ucie[linkNum l]).backoff
  | [] => (s.ucie[0]).backoff

/-- Whether traffic can cross: none of its links retrains (R460). -/
def pathUp (s : State) (src dst slice : Nat) : Bool := (diePath src dst slice).all (fun l => !(s.ucie[linkNum l]).training)

/-- Whether a request from a die to a line's home can be sent now: the derailleur does not hold its bucket (R68), and its
links are up. -/
def canSend (s : State) (die line : Nat) : Bool := !lineHeld s line && pathUp s die (homeDie (128 * line)) 0

/-- Whether a request was sent to a line's home before the move of its bucket began (R68, step 3; R69). -/
def sentBefore (s : State) (line sent : Nat) : Bool :=
  match (s.lastMove[homeDie (128 * line)]?).join with
  | some c => sent < c
  | none => false

/-- Whether a request that was sent to a line's home in some cc can arrive there now. -/
def canArrive (s : State) (die line sent : Nat) : Bool :=
  (!lineHeld s line || sentBefore s line sent) && pathUp s die (homeDie (128 * line)) 0

/-- A request for a bucket that the derailleur moves, or over a link that retrains, waits at its source (R68, R69,
R460). -/
def needReleased (s : State) (die : Nat) (lines : List Nat) : Res Unit :=
  if lines.all (canSend s die) then .ok () else .error .hold

end Sys2Proof.Machine
end

