-- ==== Sys2Proof/Machine/Fetch.lean ====
section
/-! DEFINITION. Fetching instructions and records (R206, R231, R232, R246), which streams may issue (R209, R211, R413,
R422), and the placing of one instruction as a loaded program. -/

namespace Sys2Proof.Machine

/-- The physical address that a pinned translation gives a virtual address (R200, R206). -/
def pinnedPa (t : Slot) (va n : Nat) : Option Nat :=
  (t.pins.find? (fun p => p.va ≤ va && va + n ≤ p.va + p.len)).map (fun p => p.pa + (va - p.va))

/-- `n` bytes of code at a virtual address: the bounds fault outside the code region (R206), and the
uncorrectable-error fault on a poisoned granule (R448). -/
def fetchBytes (s : State) (t : Slot) (va n : Nat) : Res Nat :=
  let base := recCodeva t.record
  if va < base ∨ base + recCodelen t.record < va + n then raise 0x05
  else match pinnedPa t va n with
    | none => raise 0x05
    | some pa => if poisoned s pa n then raise 0x2F else .ok (memNat s pa n)

/-- The words of the control-stream instruction at the program counter (R231). -/
def fetchWords (s : State) (t : Slot) : Res (BitVec 96) :=
  let pc := t.ctl.pc.toNat
  match fetchBytes s t pc 4 with
  | .error e => .error e
  | .ok w0 =>
    match wordsOf (BitVec.ofNat 32 w0) with
    | 2 => (fetchBytes s t (pc + 4) 4).map (fun w1 => BitVec.ofNat 96 (w0 + w1 * 2 ^ 32))
    | 3 =>
      match fetchBytes s t (pc + 4) 4, fetchBytes s t (pc + 8) 4 with
      | .error e, _ => .error e
      | _, .error e => .error e
      | .ok w1, .ok w2 => .ok (BitVec.ofNat 96 (w0 + w1 * 2 ^ 32 + w2 * 2 ^ 64))
    | _ => .ok (BitVec.ofNat 96 w0)

/-- The record at a stream's program counter (R232). -/
def fetchRecord (s : State) (t : Slot) (x : Stream) : Res (BitVec 512) :=
  (fetchBytes s t x.pc.toNat 64).map (fun n => BitVec.ofNat 512 n)

/-- The kind of the core that a slot belongs to; a number that names no core counts as a compute core. -/
def kindOf (t : Slot) : CoreKind := (coreKind t.id.core).getD .compute

/-- The instruction that the control stream of the slot that has the turn issues next, or why it issues none. -/
def fetchCtl (s : State) : Except FaultInfo Instr :=
  match fetchWords s s.cur with
  | .error (.fault f) => .error f
  | .error _ => .error { code := 0x05 }
  | .ok w =>
    match decodeWord (kindOf s.cur) w with
    | .ok i => .ok i
    | .error c => .error { code := 0x01, sub := BitVec.ofNat 8 c }

/-- The record that the matrix or copy stream issues next, or why it issues none (R246). -/
def fetchStream (s : State) (matrix : Bool) : Except FaultInfo Instr :=
  match fetchRecord s s.cur (if matrix then s.cur.mx else s.cur.cp) with
  | .error (.fault f) => .error f
  | .error _ => .error { code := 0x05 }
  | .ok v =>
    match decodeRecord (kindOf s.cur) matrix v with
    | .ok i => .ok i
    | .error c => .error { code := 0x02, sub := BitVec.ofNat 8 c }

/-- The bytes that the next fetch of a stream of the slot in turn reads: the address and the count. -/
def fetchSpan (s : State) (st : StreamId) : Nat × Nat :=
  match st with
  | .control =>
    let pc := s.cur.ctl.pc.toNat
    (pc, match fetchBytes s s.cur pc 4 with
      | .ok w => 4 * max 1 (wordsOf (BitVec.ofNat 32 w))
      | .error _ => 4)
  | .matrix => (s.cur.mx.pc.toNat, 64)
  | .copy => (s.cur.cp.pc.toNat, 64)

/-- The state after the fetch of a stream, which the homes of its lines perform at .SL (R232); none while a line is on the
move or a link to its home retrains (R68, R460). -/
def fetched (s : State) (st : StreamId) : Option State :=
  let span := fetchSpan s st
  match pinnedPa s.cur span.1 span.2 with
  | none => some s
  | some pa =>
    let lines := linesOf pa span.2
    if lines.all (canSend s (dieOf s.cur.id.core)) then some (lines.foldl (fun s l => touchLine s l false) s) else none

/-- The site of a fetch of the control stream; the length is that of the first word, if it can be read. -/
def fetchSite (s : State) : Site :=
  { slot := s.cur.id, source := 0, coff := (codeOff s).setWidth 32,
    len := match fetchBytes s s.cur s.cur.ctl.pc.toNat 4 with
      | .ok w => BitVec.ofNat 2 w
      | .error _ => 0 }

/-- The site of a record of the slot that has the turn. -/
def recSite (s : State) (matrix : Bool) : Site :=
  let x := if matrix then s.cur.mx else s.cur.cp
  { slot := s.cur.id, source := if matrix then 1 else 2,
    coff := (x.pc - word (recCodeva s.cur.record)).setWidth 32 }

/-- Whether the slot that has the turn may issue at all in this cc: powered work on the active slot of its core, past
the switch (R209) and the preparation (R413), and not waiting on a firmware answer (R423). -/
def slotMayIssue (s : State) : Bool :=
  let t := s.cur
  isActive s t.id && decide ((sget {} s.cores t.id.core.toNat).switchEnds ≤ s.cycle) && t.answer.isNone && !t.saving
    && (match t.item with | some i => i.dispatched + 8 ≤ s.cycle | none => true)

/-- Whether a held event goes to the user handler before the control stream issues again (R431, R432). -/
def handlerNext (t : Slot) : Bool := armed t && !t.events.isEmpty && t.ending.isEmpty

/-- Whether a stream of the slot that has the turn has something to issue now. -/
def mayIssue (s : State) (st : StreamId) : Bool :=
  let x := streamOf s.cur st
  x.running && x.blocked.isNone && !x.issued && x.hold = 0 && slotMayIssue s && !(st = .control && handlerNext s.cur)

/-- The launch record of the one-instruction program: tenant 1, context 1, a 64 KiB code region at 0x1_0000, one item,
every bank, tile, state slot and counter declared, no user handler. -/
def probeRecord : BitVec 2048 :=
  BitVec.ofNat 2048
    (0x10000 * 2 ^ 256 + 0x10000 * 2 ^ 320 + 0xFFFFFFFF * 2 ^ 384 + 2 ^ 448 + 2 ^ 464 + 2 ^ 704 + 2 ^ 707
      + 2 ^ 743 + 2 ^ 768 + (2 ^ 64 - 1) * 2 ^ 960 + 0xFFFF * 2 ^ 1128 + 0xFF * 2 ^ 1144 + (2 ^ 64 - 1) * 2 ^ 1152
      + 16 * 2 ^ 1216)

/-- The slot as dispatch leaves it (R205), at its place, for a record and an item; PSEED does not enter. -/
def dispatchedSlot (t : Slot) (r : BitVec 2048) (it : Item) (pins : List Pin) (idx : List Nat) : Slot :=
  let seed : Word := r.extractLsb' 512 64
  let codeva := recCodeva r
  let gs := idx.zipIdx.foldl (fun (g : Vector Word 64) p =>
    if p.2 < 6 then g.setIfInBounds (p.2 + 1) (word p.1) else g) (Vector.replicate 64 0)
  { id := t.id
    cache := if t.tenant = recTenant r ∧ t.context = recContext r then t.cache else []
    item := some it, record := r, pins := pins
    ctl := { running := true, pc := word (codeva + recEntry r) }
    g := gs.set 7 it.wid
    k := Vector.replicate 8 0x8080, rows := 0, wcode := 2
    mode := r.extractLsb' 416 6, seed := seed, tenant := recTenant r, context := recContext r
    trapv := if recTrapv r = 0xFFFFFFFF then BitVec.allOnes 64 else word (codeva + recTrapv r)
    stampb := word it.dispatched }

/-- The state with the bytes of one instruction placed as a one-instruction program in the slot that has the turn, whose
item has just been dispatched (log 12). Records run on their own stream. -/
def placeProgram (s : State) (bs : List Byte) (record matrix attention : Bool) : State :=
  let id : SlotId := ⟨if attention then 0x80 else 0x00, false⟩
  let cycle := s.cycle + 8
  let it : Item := { queue := 0, ordinal := 1, index := 0, wid := 0, rank := 0, size := 0, dispatched := s.cycle }
  let pins : List Pin := [{ va := 0x10000, len := 0x10000, pa := 0 }]
  let t := dispatchedSlot { id := id } probeRecord it pins []
  let t := if record then
      if matrix then
        { t with ctl := {}, mx := { running := true, pc := 0x10000 }, time := { t.time with sb := word cycle } }
      else { t with ctl := {}, cp := { running := true, pc := 0x10000 } }
    else t
  let q0 : Queue :=
    { tenant := 1, accepted := 1,
      launches := [{ ordinal := 1, record := probeRecord, acceptedAt := s.cycle, pins := pins, next := 1, running := 1 }] }
  { s with
    cur := t, rest := s.rest.filter (fun x => x.id ≠ id), agenda := [], cycle := cycle, stage := 0
    mem := ssetRange 0 s.mem 0 bs
    cores := sset {} s.cores id.core.toNat {}
    queues := sset {} s.queues 0 q0 }

end Sys2Proof.Machine
end

