-- ==== Sys2Proof/Machine/Walk.lean ====
section
/-! DEFINITION. The page tables of a context and their walk (R108 to R112, R120). -/

namespace Sys2Proof.Machine

/-- How a walk ends: the leaf with its virtual page, a fault of R426 with the level at which it stopped, or a
leaf with mig = 1, or a table line on the move, to wait for (R68, R122). -/
inductive WalkEnd where
  | leaf (l : Leaf) (x : Bool)
  | fault (code : BitVec 8) (level : Nat)
  | waits
  deriving DecidableEq, Repr

/-- The virtual address bits that index a level (R108): the lowest bit and the count. -/
def levelBits (level : Nat) : Nat × Nat :=
  match level with
  | 0 => (48, 8)
  | 1 => (39, 9)
  | 2 => (30, 9)
  | 3 => (21, 9)
  | _ => (16, 5)

/-- The alignment of a table of a level (R108). -/
def tableAlign (level : Nat) : Nat := if level = 0 then 4096 else if level = 4 then 512 else 8192

/-- Bits of a 128-bit table entry. -/
def entryBits (e : Nat) (hi lo : Nat) : Nat := (e >>> lo) % 2 ^ (hi + 1 - lo)

/-- A leaf's fields (R110), for a virtual page of a tenant and context. -/
def leafOf (tenant context : BitVec 16) (va e : Nat) : Leaf :=
  let size : BitVec 2 := BitVec.ofNat 2 (entryBits e 3 2)
  { tenant, context, vpage := pageOf size (BitVec.ofNat 40 (va / 2 ^ 16)), size
    pbase := BitVec.ofNat 36 (entryBits e 51 16), perm := BitVec.ofNat 4 (entryBits e 7 4)
    lat := BitVec.ofNat 3 (entryBits e 10 8), kdh := BitVec.ofNat 32 (entryBits e 95 64) }

/-- Whether a leaf breaks R111 or R128 at a level. -/
def badLeaf (level e : Nat) : Bool :=
  let size := entryBits e 3 2
  let pa := entryBits e 51 16 * 2 ^ 16
  let lat := entryBits e 10 8
  let kdh := entryBits e 95 64
  level < 2 || size ≠ 4 - level
    || entryBits e 127 96 ≠ 0 || entryBits e 63 52 ≠ 0 || entryBits e 15 12 ≠ 0
    || pa % pageBytes (BitVec.ofNat 2 size) ≠ 0 || !isMemory pa || lat ≥ 4 || ((lat = 1 || lat = 2) && size = 2)
    || (kdh ≠ 0 && kdh % 2 ^ 16 = 0)

/-- Whether a pointer breaks R111 at a level. -/
def badPointer (level e : Nat) : Bool :=
  let next := entryBits e 51 9 * 512
  level = 4 || entryBits e 127 52 ≠ 0 || entryBits e 8 2 ≠ 0 || next % tableAlign (level + 1) ≠ 0 || !isMemory next

/-- The walk of the remaining levels from a table (R108 to R112); `through` looks at a leaf with mig = 1 and at lines on the
move as well. -/
def walkFrom (s : State) (tenant context : BitVec 16) (through : Bool) (va table : Nat) : List Nat → WalkEnd
  | [] => .fault 0x24 4
  | level :: rest =>
    let (lo, n) := levelBits level
    let a := table + 16 * ((va >>> lo) % 2 ^ n)
    let e := memNat s a 16
    if !through && lineHeld s (a / 128) then .waits
    else match e % 4 with
    | 0 => .fault 0x22 level
    | 1 => if badPointer level e then .fault 0x24 level 
      else walkFrom s tenant context through va (entryBits e 51 9 * 512) rest
    | 2 =>
      if badLeaf level e then .fault 0x24 level
      else if entryBits e 11 11 = 1 && !through then .waits
      else .leaf (leafOf tenant context va e) (e.testBit 7)
    | _ => .fault 0x24 level

/-- The translation root of a context (R108), if firmware has created it. -/
def contextOf (s : State) (tenant context : BitVec 16) : Option Context :=
  s.contexts.find? (fun c => c.tenant = tenant && c.context = context)

/-- The walk of a virtual address of a context. A context that firmware has not created maps nothing: the page fault. -/
def walk (s : State) (tenant context : BitVec 16) (va : Nat) : WalkEnd :=
  match contextOf s tenant context with
  | none => .fault 0x22 0
  | some c => walkFrom s tenant context false va c.root [0, 1, 2, 3, 4]

/-- Where a virtual address of a context lies now, a page that is being migrated included. -/
def walkPlace (s : State) (tenant context : BitVec 16) (va : Nat) : WalkEnd :=
  match contextOf s tenant context with
  | none => .fault 0x22 0
  | some c => walkFrom s tenant context true va c.root [0, 1, 2, 3, 4]

/-- The physical address of a virtual address under a leaf. -/
def leafPa (l : Leaf) (va : Nat) : Nat := l.pbase.toNat * 2 ^ 16 + va % pageBytes l.size

/-- The pinned ranges of `pages` 64 KiB pages from a virtual address, when every page has a leaf that passes a test
(R200, R420). -/
def pinPages (s : State) (tenant context : BitVec 16) (va pages : Nat) (ok : Leaf → Bool) : Option (List Pin) :=
  (List.range pages).mapM (fun i =>
    let a := va / 2 ^ 16 * 2 ^ 16 + i * 2 ^ 16
    match walk s tenant context a with
    | .leaf l _ => if ok l then some ⟨a, 2 ^ 16, leafPa l a⟩ else none
    | _ => none)

/-- The 64 KiB pages that `n` bytes at a virtual address touch. -/
def pagesOf (va n : Nat) : Nat := if n = 0 then 0 else (va + n - 1) / 2 ^ 16 + 1 - va / 2 ^ 16

/-- A range that maps onto one physically contiguous range of one home die (R200), as one pin. -/
def pinContiguous (s : State) (tenant context : BitVec 16) (va n : Nat) (ok : Leaf → Bool) : Option Pin :=
  match pinPages s tenant context va (pagesOf va n) ok with
  | some (p :: ps) =>
    if ((p :: ps).zipIdx.all (fun x => x.1.pa = p.pa + x.2 * 2 ^ 16 && homeDie x.1.pa = homeDie p.pa))
    then some ⟨va, n, p.pa⟩ else none
  | _ => none

end Sys2Proof.Machine
end

