-- ==== Sys2Proof/Machine/Intake.lean ====
section
/-! DEFINITION. The launch intake (R198 to R203, R400 to R402, R420), LAUNCH and CANCEL (R267 to R269, R414). -/

namespace Sys2Proof.Machine

/-- The product of the used trips (R203). -/
def recTotal (r : BitVec 2048) : Nat :=
  (List.range (recNlev r)).foldl (fun n i => n * recTrip r (i + 1)) 1

/-- The lowest set bit of a field, as a bit number of the record. -/
def lowBit (r : BitVec 2048) (hi lo : Nat) : List Nat :=
  ((List.range (hi + 1 - lo)).find? (fun i => r.getLsbD (lo + i))).toList.map (fun i => lo + i)

/-- A bit number when a check fails. -/
def bad (fails : Bool) (bit : Nat) : List Nat := if fails then [bit] else []

/-- The must-be-zero ranges of R198, MODE bits 31:6 and dependence bits 62:54 included. -/
def recReserved : List (Nat × Nat) :=
  [(2047, 1952), (1919, 1912), (1855, 1848), (1791, 1784), (1727, 1720), (1663, 1632), (1599, 1592), (1279, 1271),
   (1127, 1127), (767, 767), (511, 491), (319, 312), (447, 422), (1342, 1334), (1406, 1398), (1470, 1462),
   (1534, 1526)]

/-- The bits of the core masks, as numbers of the lowest bit of each. -/
def maskCount (r : BitVec 2048) (die : Nat) : Nat := popCount (BitVec.ofNat 64 (recMask r die))

/-- Offending bits of the levels, trips and order slots (R199). -/
def badLevels (r : BitVec 2048) : List Nat :=
  let n := recNlev r
  let used := (List.range (min n 6)).map (fun i => i + 1)
  let unused := ((List.range 6).map (fun i => i + 1)).filter (fun i => i > n)
  bad (n = 0 || n = 7) 704
    ++ used.flatMap (fun i => bad (recWidth r i = 0 || recWidth r i > 32) (701 + 6 * i))
    ++ used.flatMap (fun i => bad (recTrip r i = 0 || recTrip r i > 2 ^ recWidth r i) (701 + 6 * i))
    ++ bad ((used.foldl (fun n i => n + recWidth r i) 0) > 64) 707
    ++ unused.flatMap (fun i =>
        lowBit r (706 + 6 * i) (701 + 6 * i) ++ lowBit r (742 + 3 * i) (740 + 3 * i) ++ lowBit r (760 + i) (760 + i)
          ++ lowBit r (799 + 32 * (i - 1)) (768 + 32 * (i - 1)))
    ++ bad (!used.all (fun i => used.any (fun j => recOrder r j = i))) 743

/-- Whether a launch places on attention cores. -/
def onAttention (r : BitVec 2048) : Bool := recMask r 2 ≠ 0 || recMask r 3 ≠ 0

def onCompute (r : BitVec 2048) : Bool := recMask r 0 ≠ 0 || recMask r 1 ≠ 0

/-- Offending bits of the code, placement, troupe and resource fields (R199). -/
def badPlacement (r : BitVec 2048) : List Nat :=
  let len := recCodelen r
  let tv := recTrapv r
  let size := recTroupe r
  bad (recCodeva r = 0 || recCodeva r % 2 ^ 16 ≠ 0) 256
    ++ bad (len = 0 || len % 4 ≠ 0) 320
    ++ bad (recEntry r % 4 ≠ 0) 352 ++ bad (len ≤ recEntry r) 320
    ++ bad (tv ≠ 0xFFFFFFFF && tv % 4 ≠ 0) 384 ++ bad (tv ≠ 0xFFFFFFFF && len ≤ tv) 320
    ++ bad (onAttention r = onCompute r) 960
    ++ bad (size ≠ 0 && recTotal r % size ≠ 0) 768
    ++ bad (size ≠ 0 && (List.range 4).all (fun d => maskCount r d < size)) 960
    ++ bad (recNctr r > 16) 1216
    ++ bad (onAttention r && (recAmask r ≠ 0 || recZmask r ≠ 0)) 1088

/-- Whether every inbox slot lies in declared banks (R199). -/
def inboxOk (r : BitVec 2048) : Bool :=
  (List.range (recInboxn r)).all (fun k =>
    let a := recInbox r + 16 * recIstride r * k
    let e := a + 16 * recIstride r
    e ≤ 2 ^ 22 && (List.range 16).all (fun b =>
      (recBmask r).getLsbD b || e ≤ b * 2 ^ 18 || (b + 1) * 2 ^ 18 ≤ a))

/-- Offending bits of the queue-service, deterministic and dependence fields (R199). -/
def badService (r : BitVec 2048) : List Nat :=
  (if recQserve r then
      bad (onCompute r || recInboxn r = 0 || recIstride r < 5 || !inboxOk r) 490
    else lowBit r 1270 1221)
    ++ (if recDet r then bad (recDwlen r = 0 || recMspill r = 0) 484
      else lowBit r 489 488 ++ lowBit r 1591 1536 ++ lowBit r 1631 1600 ++ lowBit r 1719 1664 ++ lowBit r 1783 1728)
    ++ bad (recTrrec r && recTrbind r) 488
    ++ (List.range 4).flatMap (fun k =>
        if r.getLsbD (1343 + 64 * k) then [] else lowBit r (1333 + 64 * k) (1280 + 64 * k))

/-- The lowest offending bit of a record (R199). -/
def badRecord (r : BitVec 2048) : Option Nat :=
  let bs := recReserved.flatMap (fun p => lowBit r p.1 p.2) ++ bad (recTenant r = 0) 448 ++ badLevels r
    ++ badPlacement r ++ badService r
  bs.foldl (fun m b => match m with | none => some b | some x => some (min x b)) none

/-- A dependence word (R198): valid, queue, value. -/
def recDep (r : BitVec 2048) (k : Nat) : Bool × BitVec 6 × Nat :=
  (r.getLsbD (1343 + 64 * k), r.extractLsb' (1328 + 64 * k) 6, field r (1327 + 64 * k) (1280 + 64 * k))

/-- A record with a field of `n` bits at `lo` replaced. -/
def putField (r : BitVec 2048) (lo n : Nat) (v : Nat) : BitVec 2048 :=
  (r &&& ~~~(BitVec.ofNat 2048 ((2 ^ n - 1) * 2 ^ lo))) ||| BitVec.ofNat 2048 ((v % 2 ^ n) * 2 ^ lo)

/-- SHA3-256 of the record with seed, trace, trlen, done, TRREC and TRBIND zero (R416). -/
def recordDigest (r : BitVec 2048) : BitVec 256 :=
  let r := putField (putField (putField (putField (putField r 512 64 0) 1856 56 0) 1920 32 0) 1792 56 0) 488 2 0
  sha3 (bytesOf 256 r.toNat)

/-- A leaf for data of the walker: lat 0 and no key domain. -/
def plainLeaf (need : BitVec 4) (l : Leaf) : Bool := l.lat = 0 && l.kdh = 0 && (l.perm &&& need) = need

/-- Bytes of a pinned range, read by virtual address. -/
def pinRead (s : State) (pins : List Pin) (va n : Nat) : List Byte :=
  (List.range n).map (fun i =>
    match pins.find? (fun p => p.va ≤ va + i && va + i < p.va + p.len) with
    | some p => sget 0 s.mem (p.pa + (va + i - p.va))
    | none => 0)

/-- The physical address of a virtual address in pinned ranges. -/
def pinAddr (pins : List Pin) (va : Nat) : Option Nat :=
  (pins.find? (fun p => p.va ≤ va && va < p.va + p.len)).map (fun p => p.pa + (va - p.va))

/-- Whether a mask names a core (R16, R198). -/
def maskNames (r : BitVec 2048) (core : Nat) : Bool := (recMask r (core / 64)).testBit (core % 64)

/-- A trace entry (R417): offset, slot, core, and whether its reserved bits are zero. -/
def traceEntry (s : State) (pins : List Pin) (r : BitVec 2048) (c : Nat) : Nat × Bool × Nat × Bool :=
  let e := leNat (pinRead s pins (recTrace r + 64 + 8 * c) 8)
  (e / 2 ^ 32, e.testBit 8, e % 256, (e / 2 ^ 9) % 2 ^ 23 = 0)

/-- Whether the trace of a bound launch passes R420. -/
def traceOk (s : State) (pins : List Pin) (r : BitVec 2048) : Bool :=
  let h := leNat (pinRead s pins (recTrace r) 64)
  let total := recTotal r
  let size := recTroupe r
  let core (c : Nat) : Nat := (traceEntry s pins r c).2.2.1
  h / 2 ^ 128 % 2 ^ 64 = total && (h / 2 ^ 192) % 2 ^ 256 = (recordDigest r).toNat && total ≤ h / 2 ^ 448
    && h % 2 ^ 128 = 0
    && (List.range total).all (fun c => (traceEntry s pins r c).2.2.2 && maskNames r (core c))
    && (size = 0 || (List.range (total / size)).all (fun t =>
        (List.range size).all (fun i =>
          core (size * t + i) / 64 = core (size * t) / 64
            && (List.range i).all (fun j => core (size * t + i) ≠ core (size * t + j)))))

/-- A check of the translations that a record needs: its pins, a refusal status, or a walk that waits (R122). -/
inductive PinResult where
  | pins (ps : List Pin)
  | refused (status : Nat)
  | waits
  deriving DecidableEq, Repr

/-- Whether the derailleur holds a line of some bytes of a page, which a control processor therefore does not read or write yet
(R68, R69). -/
def pageHeld (s : State) (l : Leaf) (va n : Nat) : Bool :=
  let base := l.pbase.toNat * 2 ^ 16 + va % pageBytes l.size
  s.moves.any (fun m => m.isSome) && (linesOf base (min n (2 ^ 16 - va % 2 ^ 16))).any (lineHeld s)

/-- Whether some page of a range is being migrated, or has a line that the derailleur holds (R68, R122). -/
def anyWaits (s : State) (tenant context : BitVec 16) (va n : Nat) : Bool :=
  (List.range (pagesOf va n)).any (fun i =>
    let a := if i = 0 then va else va / 2 ^ 16 * 2 ^ 16 + i * 2 ^ 16
    match walk s tenant context a with
    | .waits => true
    | .leaf l _ => pageHeld s l a (va + n - a)
    | .fault .. => false)

/-- The checks of R200 and R420, in the order of R400. -/
def checkPins (s : State) (r : BitVec 2048) : PinResult :=
  let t := recTenant r
  let c := recContext r
  let cv := recCodeva r
  let len := recCodelen r
  let tlen := 64 + 8 * recTotal r
  let tr := recTrrec r || recTrbind r
  if anyWaits s t c cv len || (recDet r && (anyWaits s t c (recDwin r) (recDwlen r * 2 ^ 16)
      || anyWaits s t c (recMspill r) (recDwlen r * 2048)))
      || (recDone r ≠ 0 && anyWaits s t c (recDone r) 64) || (tr && anyWaits s t c (recTrace r) (recTrlen r)) then .waits
  else match pinPages s t c cv (pagesOf cv len) (fun l => l.perm.getLsbD 3 && !l.perm.getLsbD 1) with
  | none => .refused 2
  | some code =>
    if sha3 (pinRead s code cv len) ≠ r.extractLsb' 0 256 then .refused 2
    else
      let win := if recDet r then
          (match pinContiguous s t c (recDwin r) (recDwlen r * 2 ^ 16) (plainLeaf 0),
                 pinContiguous s t c (recMspill r) (recDwlen r * 2048) (plainLeaf 3) with
           | some w, some m => if homeDie w.pa = homeDie m.pa then some [w, m] else none
           | _, _ => none)
        else some []
      match win with
      | none => .refused 3
      | some win =>
        let done := if recDone r = 0 then some []
          else if recDone r % 64 ≠ 0 then none
          else pinPages s t c (recDone r) 1 (plainLeaf 2)
        let trace := if tr then
            (if recTrlen r < tlen then none
             else pinPages s t c (recTrace r) (pagesOf (recTrace r) (recTrlen r)) (plainLeaf (if recTrrec r then 2 else 1)))
          else some []
        match done, trace with
        | some d, some x =>
          if recTrbind r && !traceOk s x r then .refused 6 else .pins (code ++ win ++ d ++ x)
        | _, _ => .refused 5

/-- The result word of R268. -/
def launchResult (ordinal bit status : Nat) : Word := word (ordinal * 2 ^ 16 + bit * 16 + status)

/-- The PSEED that an acceptance captures: that of the ccs before the present one (R415). -/
def pseedNow (s : State) : Word :=
  match s.pseedWas with
  | some (c, x) => if c = s.cycle then x else s.pseed
  | none => s.pseed

/-- The decision of the intake on a record for a queue (R400): the state and the result word, or none while a walk
waits. `issuer` is the TENANT of a LAUNCH. -/
def submit (s : State) (q : BitVec 6) (r : BitVec 2048) (issuer : Option (BitVec 16)) : Option (State × Word) :=
  let x := queueOf s q
  let t := recTenant r
  if s.mgmt.failed ∨ x.tenant = 0 ∨ x.tenant ≠ t ∨ issuer.getD t ≠ t then some (s, launchResult 0 0 4)
  else match badRecord r with
  | some bit => some (s, launchResult 0 bit 1)
  | none =>
    if (List.range 4).any (fun k =>
        let d := recDep r k
        d.1 && (queueOf s d.2.1).tenant ≠ t) then some (s, launchResult 0 0 4)
    else match checkPins s r with
    | .waits => none
    | .refused st => some (s, launchResult 0 0 st)
    | .pins ps =>
      let ordinal := x.accepted + 1
      let r := if recSeedx r then r else putField r 512 64 (pseedNow s).toNat
      let l : Launch := { ordinal, record := r, acceptedAt := s.cycle, pins := ps }
      some (setQueue s q { x with accepted := ordinal, launches := x.launches ++ [l] }, launchResult ordinal 0 0)

/-- Whether a queue has no room: 32 launches that have not completed (R400), or the intake is not open yet (R470). -/
def queueFull (s : State) (q : BitVec 6) : Bool := (queueOf s q).launches.length ≥ 32 || !s.mgmt.intakeOpen

/-- The release count of deterministic mode (R193): one more, or the determinism-capacity fault at 62. -/
def releaseCount (t : Slot) : Res Slot :=
  if isDet t then
    (if t.det.rc.toNat + 1 ≥ 62 then raise 0x20 else .ok { t with det := { t.det with rc := t.det.rc + 1 } })
  else .ok t

/-- Whether the control stream of a slot has sent updates of barrier objects that are not performed yet. -/
def updatesPending (s : State) (t : Slot) : Bool := s.barriers.any (fun u => sameItem u.issuer (refOf t 0) && u.source = 0)

/-- Every access of the stream is performed when it issues; only its barrier updates can still be on their way. -/
def performed (s : State) : Res Unit := if updatesPending s s.cur then blockOn .updates else .ok ()

/-- Whether writes that a slot's streams and engine contexts have sent are still to be performed at their homes (R193):
updates of completion barriers, KV operations on their way, and PUT frames that no acknowledgement covers. DESIGN CHOICE
(log 111): a KV operation counts from its issue, also while the granules of its tokens are still empty. -/
def engineWrites (s : State) (t : Slot) : Bool :=
  let me := refOf t 0
  s.barriers.any (fun u => sameItem u.issuer me)
    || s.kv.toList.any (fun d => d.arrivals.any (fun a => sameItem a me))
    || s.port.tx.any (fun x => (x.window ++ x.waiting).any (fun f => f.frame.kind = 1 && (match f.op with
        | some a => sameItem a me
        | none => false)))

/-- A release waits for the stream's accesses, and in deterministic mode for the writes that the slot's engine contexts
have sent (R180, R193). -/
def releasable (s : State) : Res Unit := if isDet s.cur && engineWrites s s.cur then blockOn .sentWrites else performed s

/-- LAUNCH (R268): the release; the record read as a use of the handle; the decision of the intake. The release count is
raised once, with the decision. -/
def execLaunch (o : Opnd) (s : State) : Result :=
  issue s o do
    let x ← srcG s.cur o.b o.feB
    let off := x.toInt + (sx o.imm16).toInt
    releasable s
    let t ← releaseCount s.cur
    let h ← useHandle s.cur (o.a.setWidth 4) o.feA off
    dstG s.cur o.d
    if off % 64 ≠ 0 then raise 0x04
    else do
      let pa ← checkPage h off 256 permRd
      let q : BitVec 6 := o.c
      let reg := BitVec.ofInt 64 off
      needReleased s (dieOf s.cur.id.core) (linesOf pa 256)
      match refusedByte s s.cur pa (linesOf pa 256) rightRead false with
      | some b => raise 0x25 (reg + word (b - pa))
      | none =>
      if poisoned s pa 256 then raise 0x2F
      else if queueFull s q then blockOn (.queueRoom q)
      else
        let r := BitVec.ofNat 2048 (leNat (homeRead s pa 256).2)
        match submit (onCur (homeRead s pa 256).1 (fun _ => t)) q r (some s.cur.tenant) with
        | none => blockOn (.queueRoom q)
        | some (s', w) => return finishG s' o o.d w

/-- Every index of a launch claimed (R414). -/
def fullyClaimed (l : Launch) : Bool := recTotal l.record ≤ l.next

/-- CANCEL at the dispatch counter (R269, R414): the state, and the result word. `tenant` and `context` are the
issuer's; a host's cancel may name any. -/
def cancelLaunch (s : State) (q : BitVec 6) (ordinal : Nat) (tenant context : BitVec 16) : State × Word :=
  match launchOf s q ordinal with
  | none => (s, 1)
  | some l =>
    if recTenant l.record ≠ tenant ∨ recContext l.record ≠ context then (s, 2)
    else
      let w := word (l.next * 2 ^ 16)
      if fullyClaimed l ∨ l.cancelled ∨ l.failed then (s, w)
      else
        let s := modLaunch s q ordinal (fun l => { l with cancelled := true, unplaceableSince := none })
        let free (x : Walker) : Walker :=
          if x.reservation = some (q, ordinal) then { x with reservation := none, kept := [] } else x
        ({ s with walkers := s.walkers.map free }, w)

/-- CANCEL (R269). -/
def execCancel (o : Opnd) (s : State) : Result :=
  issue s o do
    let x ← srcG s.cur o.a o.feA
    dstG s.cur o.d
    let r := cancelLaunch s o.c (x.extractLsb' 0 48).toNat s.cur.tenant s.cur.context
    return finishG r.1 o o.d r.2

/-- CANCEL.ITEM (R270): the item and its whole troupe are removed. -/
def execCancelItem (o : Opnd) (s : State) : Result :=
  issue s o do
    let x ← srcG s.cur o.a o.feA
    dstG s.cur o.d
    let c : SlotId := ⟨x.extractLsb' 0 8, x.getLsbD 8⟩
    if (coreKind c.core).isNone then raise 0x0D
    else match slotOf s c with
    | none => return finishG s o o.d 1
    | some t =>
      match t.item with
      | none => return finishG s o o.d 1
      | some i =>
        if t.tenant ≠ s.cur.tenant ∨ t.context ≠ s.cur.context then return finishG s o o.d 2
        else
          let gang := if i.size = 0 then [c] else
            ((allSlots s).filter (fun y => slotRuns y i.queue i.ordinal && (match y.item with
              | some j => j.index + i.rank = i.index + j.rank
              | none => false))).map (fun y => y.id)
          if gang.contains s.cur.id then return gang.foldl removeItem s
          else return gang.foldl removeItem (finishG s o o.d 0)

end Sys2Proof.Machine
end

