-- ==== Sys2Proof/Machine/Operands.lean ====
section
/-! DEFINITION. Operand forms: memory references (R239, R240, R284, R285), the accesses they make (R57, R61, R127, R172,
R194, R195, R448), and vector groups with their predicates (R312 to R317). -/

namespace Sys2Proof.Machine

/-! ## Memory references -/

/-- The displacement (R239): 0 in C32. -/
def dispOf (o : Opnd) : Int :=
  match o.fmt with
  | .c32 => 0
  | .c64 => o.imm16.toInt
  | .c96 => o.lit32.toInt

/-- The scale of the index (R239). -/
def scaleOf (o : Opnd) : Int := (2 ^ (o.c.toNat % 8) : Nat)

/-- The register sources of a reference (R284, step 1): the scratchpad base and the index. -/
def refSources (t : Slot) (o : Opnd) (index : Bool := true) : Res (Word × Word) := do
  let base ← if memBankBase o then srcG t o.a o.feA else .ok 0
  let idx ← if index then srcG t o.b o.feB else .ok 0
  return (base, idx)

/-- A reference whose target is known (R240): a page offset, or a scratchpad target. -/
inductive Ref where
  | page (h : Capture) (off : Int)
  | bank (rank : Option Nat) (a : Nat)
  deriving DecidableEq, Repr

/-- The page offset or scratchpad target of base and index values (R240). -/
def bankTarget (o : Opnd) (r : Word × Word) : Res Ref :=
  match parseScratch r.1 with
  | .error e => .error e
  | .ok (rank, l) =>
    let a : Int := l + r.2.toInt * scaleOf o + dispOf o
    if a < 0 || (2 ^ 22 : Nat) ≤ a then raise 0x04 else .ok (.bank rank a.toNat)

/-- Steps 2 and 3 of R284. -/
def refTarget (t : Slot) (o : Opnd) (r : Word × Word) : Res Ref :=
  if memBankBase o then bankTarget o r
  else do
    let off := r.2.toInt * scaleOf o + dispOf o
    let h ← useHandle t (o.a.setWidth 4) o.feA off
    return .page h off

/-- Steps 4 to 6 of R284: alignment, then bounds and permission, or ownership and troupe. -/
def resolveRef (s : State) (t : Slot) (r : Ref) (n align : Nat) (perm : BitVec 4) : Res Place :=
  match r with
  | .page h off =>
    if off % align ≠ 0 then raise 0x04
    else do
      let pa ← checkPage h off n perm
      return .mem pa (BitVec.ofInt 64 off)
  | .bank rank a => if a % align ≠ 0 then raise 0x04 else bankPlace s t rank a n

/-- A reference resolved to the place of its `n` bytes. -/
def resolve (s : State) (o : Opnd) (r : Word × Word) (n align : Nat) (perm : BitVec 4) : Res Place := do
  let x ← refTarget s.cur o r
  resolveRef s s.cur x n align perm

/-- Where an access is performed (R172): at .CL, .SL or .MEM. -/
inductive Level where
  | cl | sl | mem
  deriving DecidableEq, Repr

/-- The level of a load (R172, R188, R238): .CL by default, and .SL in place of .CL in deterministic mode. -/
def loadLevel (t : Slot) (o : Opnd) : Level :=
  if o.lvl = 3 then .mem else if o.lvl = 2 || isDet t then .sl else .cl

/-- The level of a store: .SL by default. -/
def storeLevel (o : Opnd) : Level := if o.lvl = 3 then .mem else if o.lvl = 1 then .cl else .sl

/-- Whether the issuing L1 holds a line for the slot's tenant (R56). -/
def l1Has (s : State) (t : Slot) (line : Nat) : Bool :=
  s.l1.any (fun x => x.core = l1Holder s t.id.core line && x.line = line && x.tenant = t.tenant)

/-- The lines of an access that reach the home: at .CL those that the L1 does not hold. -/
def homeLines (s : State) (t : Slot) (pa n : Nat) (lv : Level) : List Nat :=
  (linesOf pa n).filter (fun l => lv != .cl || !l1Has s t l)

/-- Step 7 of R284 for a read, then the conflict rule and the poison of the granules that it consumes. -/
def admitRead (s : State) (t : Slot) (pa : Nat) (reg : Word) (n : Nat) (lv : Level) : Res State := do
  let lines := homeLines s t pa n lv
  needReleased s (dieOf t.id.core) lines
  match refusedByte s t pa lines rightRead (lv = .mem) with
  | some b => raise 0x25 (reg + word (b - pa))
  | none => do
    let s' ← checkLines s t .read pa n (lv = .mem)
    if lines.any (fun l => poisoned s (max pa (128 * l)) (min (pa + n) (128 * l + 128) - max pa (128 * l)))
    then raise 0x2F else return s'

/-- A load of `n` bytes by the slot that has the turn. -/
def loadAt (s : State) (p : Place) (n : Nat) (lv : Level) (g : GranAccess := .plain) : Res (State × List Byte) :=
  match p with
  | .mem pa reg => do
    let s' ← admitRead s s.cur pa reg n lv
    return match lv with
      | .cl => l1Bytes s' s'.cur pa n
      | .sl => homeRead s' pa n
      | .mem => homeRead s' pa n true
  | .bank c a _ => do
    let s' ← checkGranules s c s.cur.id (slotCode s.cur.id) g a n
    (bankData s' c a n).map (fun bs => (s', bs))

/-- A store of bytes by the slot that has the turn; answers the sequence tag (R65). A refused store is imprecise (R127). -/
def storeAt (s : State) (p : Place) (bs : List Byte) (lv : Level) (g : GranAccess := .write 0x3F) :
    Res (State × BitVec 16) :=
  match p with
  | .mem pa reg => do
    needReleased s (dieOf s.cur.id.core) (linesOf pa bs.length)
    match refusedByte s s.cur pa (linesOf pa bs.length) rightWrite (lv = .mem) with
    | some b => .error (.fault { code := 0x25, operand := reg + word (b - pa), imprecise := true })
    | none => do
      let s' ← checkLines s s.cur .write pa bs.length (lv = .mem)
      let r := homeWrite s' pa bs (lv = .mem)
      return (l1Update r.1 r.1.cur pa bs, r.2)
  | .bank c a _ => do
    let s' ← checkGranules s c s.cur.id (slotCode s.cur.id) g a bs.length
    return (modSlot s' c (fun t => bankWrite t a bs), 0)

/-! ## Vector groups -/

/-- The element width in bits (R313). -/
def vWidth (t : Slot) : Nat := 8 * 2 ^ t.wcode.toNat

/-- The number of elements of a register (R312). -/
def vCount (t : Slot) : Nat := 4096 / vWidth t

/-- Rows and columns of the shape (R312). -/
def vRows (t : Slot) : Nat := t.rows.toNat + 1
def vCols (t : Slot) : Nat := vCount t / vRows t

/-- A(kn): the count of a predicate converted to a width (R314, R315). -/
def predAt (t : Slot) (k : BitVec 3) (w : Nat) : Nat :=
  if k = 0 then 4096 / vWidth t * vWidth t / w
  else
    let x := t.k[k.toNat]
    (x.extractLsb' 0 12).toNat * (8 * 2 ^ (x.extractLsb' 14 2).toNat) / w

/-- The active elements of an instruction at the current width. -/
def activeCount (t : Slot) (k : BitVec 3) : Nat := predAt t k (vWidth t)

/-- The active elements of a Single instruction (R316). -/
def activeSingle (t : Slot) (k : BitVec 3) : Nat := min (activeCount t k) (vCount t)

/-- The registers of a group (R316). -/
def groupSize (a n : Nat) : Nat := max 1 ((a + n - 1) / n)

/-- The vector register with a number. -/
def vreg (n : Nat) : BitVec 5 := BitVec.ofNat 5 n

/-- The source registers of a group that exist, once full (R319, step 2). -/
def srcGroup (t : Slot) (r : BitVec 6) (size : Nat) (fe : Bool) : Res Nat :=
  ((List.range size).filter (fun i => r.toNat + i < 32)).foldlM
    (fun acc i => (srcV t (vreg (r.toNat + i)) fe).map (fun x => acc + x.toNat * 2 ^ (4096 * i))) 0

/-- The vector-group fault (R316). -/
def needGroup (rs : List (BitVec 6)) (size : Nat) : Res Unit := need (rs.all (fun r => r.toNat + size ≤ 32)) 0x0E

/-- The destination registers of a group wait for earlier producers (R236). -/
def dstGroup (t : Slot) (r : BitVec 6) (size : Nat) : Res Unit :=
  (List.range size).foldlM (fun _ i => dstV t (vreg (r.toNat + i))) ()

/-- Element `j` of width `w` of a group's bits. -/
def elemOf (w x j : Nat) : Nat := (x >>> (w * j)) % 2 ^ w

/-- Elements packed, the first lowest. -/
def packElems (w : Nat) : List Nat → Nat
  | [] => 0
  | x :: xs => x % 2 ^ w + packElems w xs * 2 ^ w

/-- The destination registers of a group whose first elements take new values; the others keep theirs, or become 0
under .Z (R317). -/
def mergeGroup (t : Slot) (d : BitVec 6) (size w : Nat) (z : Bool) (vals : List Nat) : List (BitVec 5 × BitVec 4096) :=
  (List.range size).map (fun i =>
    let r := vreg (d.toNat + i)
    let per := 4096 / w
    let xs := (vals.drop (i * per)).take per
    let bitsDone := xs.length * w
    let old := if z then 0 else (vval t r).toNat
    (r, BitVec.ofNat 4096 (packElems w xs + (old >>> bitsDone) * 2 ^ bitsDone)))

end Sys2Proof.Machine
end

