-- ==== Sys2Proof/Machine/Record.lean ====
section
/-! DEFINITION. What matrix and copy records share: bank formats (R39, R40, R42, R85), how a record ends at issue (R243
to R246), completion barriers (R244), and when a matrix record is ready (R340, R346 to R350). -/

namespace Sys2Proof.Machine

/-! ## How a record ends at issue -/

/-- The stream of a record. -/
def recStream (matrix : Bool) : StreamId := if matrix then .matrix else .copy

/-- The site of a record's fault at issue: the number that the record has on its counter (R427). -/
def headSite (s : State) (matrix : Bool) (h : RecHead) : Site :=
  { recSite s matrix with q := h.q, opnum := s.cur.q[h.q.toNat].issued.toNat + 1 }

/-- A record's fault at issue taken. One that the user handler takes closes the record's operation, which then counts as
completed (R433; log 83). -/
def recordFault (s : State) (matrix : Bool) (h : RecHead) (f : FaultInfo) : State :=
  let site := headSite s matrix h
  if disposition f.code = 2 then
    let op : Op := { id := 0, source := site.source, coff := site.coff, stopped := true }
    takeFault (onCur s (fun t => pushOp t (some h.q) op)) { site with op := some s.cur.nextOp } f 0
  else takeFault s site f 0

/-- The record's stream has had its turn in this cc, and tries the record again in the next. -/
def holdRec (s : State) (matrix : Bool) : State :=
  onCur s (fun t => modStream t (recStream matrix) (fun x => { x with issued := true }))

/-- The record's stream at the following record. -/
def advanceRec (s : State) (matrix : Bool) : State :=
  onCur s (fun t => modStream t (recStream matrix) (fun x => { x with issued := true, pc := x.pc + 64 }))

/-- The record's stream waits for an object (R215). -/
def blockRec (s : State) (matrix : Bool) (obj : Obj) : State :=
  onCur s (fun t => modStream t (recStream matrix) (fun x => { x with issued := true, blocked := some obj }))

/-- How a record ends at issue: its state, a wait, or a fault taken. -/
def issueRec (s : State) (matrix : Bool) (h : RecHead) (body : Res State) : Result :=
  if !s.mgmt.powered then .fault .unpowered
  else match body with
    | .ok s' => .next s'
    | .error (.block obj) => .next (blockRec s matrix obj)
    | .error .hold => .next (holdRec s matrix)
    | .error (.fault f) => .next (recordFault s matrix h f)
    | .error (.retranslate r trap off) =>
      match retranslate s s.cur.id r trap off (headSite s matrix h) with
      | (s', some obj) => .next (blockRec s' matrix obj)
      | (s', none) => .next (recordFault s' matrix h { code := 0x2A, operand := regOperand 3 r.toNat })

/-- The completion barrier that a record names (R244): its physical address, after the test of its handle, bounds and
permission. -/
def recBarrier (t : Slot) (h : RecHead) : Res (Option Nat) :=
  if h.cbv then do
    let c ← useHandle t h.cbh h.trap (16 * h.cboff.toNat : Nat)
    let pa ← checkPage c (16 * h.cboff.toNat) 16 permRwa
    return some pa
  else .ok none

/-- The counter of a record (R208, R341). -/
def recCounter (t : Slot) (h : RecHead) : Res (BitVec 4) := checkCounter t (h.q.setWidth 6)

/-! ## Nests of the compute pipe (R343) -/

/-- The nest of a compute-pipe product. -/
def nestOf (i : Instr) : Option MxNest :=
  match i with
  | .mxacc _ b => some b
  | .mxperm _ b => some b
  | .mxred _ b => some b
  | .mxtrn _ b => some b
  | _ => none

/-- Byte `l` of four signed bytes. -/
def signedByte (x : BitVec 32) (l : Nat) : Int := (x.extractLsb' (8 * l) 8).toInt

/-- The trip count of level `l + 1`. -/
def nestTrip (b : MxNest) (l : Nat) : Nat := (b.trip.extractLsb' (8 * l) 8).toNat + 1

/-- The iterations of a record. -/
def nestCount (b : MxNest) : Nat := nestTrip b 0 * nestTrip b 1 * nestTrip b 2 * nestTrip b 3

/-- The index of level `l + 1` in iteration `k`, level 1 fastest. -/
def nestIndex (b : MxNest) (k l : Nat) : Nat :=
  match l with
  | 0 => k % nestTrip b 0
  | 1 => k / nestTrip b 0 % nestTrip b 1
  | 2 => k / (nestTrip b 0 * nestTrip b 1) % nestTrip b 2
  | _ => k / (nestTrip b 0 * nestTrip b 1 * nestTrip b 2)

/-- The strides' contribution to iteration `k`. -/
def nestSum (b : MxNest) (strides : BitVec 32) (k : Nat) : Int :=
  (List.range 4).foldl (fun x l => x + nestIndex b k l * signedByte strides l) 0

/-- The position that iteration `k` reads, from the logical consumption count (R343). -/
def nestPos (b : MxNest) (cs k : Nat) : Int := cs + b.start.toInt + nestSum b b.astride k

/-- The tile that iteration `k` writes; every tile of a decoded record is a0 to a7. -/
def nestTile (b : MxNest) (k : Nat) : BitVec 3 := BitVec.ofInt 3 (b.tile.toNat + nestSum b b.tstride k)

def nestRows (b : MxNest) : Nat := b.rows.toNat + 1

/-- The cc that an iteration keeps the pipe busy (R348). -/
def nestSpan (i : Instr) (b : MxNest) : Nat :=
  match i with
  | .mxtrn .. => 64
  | _ => nestRows b

/-- The first iteration of a record that writes a tile. -/
def firstWrite (b : MxNest) (tile : BitVec 3) : Option Nat :=
  (List.range (nestCount b)).find? (fun k => nestTile b k = tile)

/-- Whether an iteration from `k` on writes a tile. -/
def writesFrom (b : MxNest) (k : Nat) (tile : BitVec 3) : Bool :=
  (List.range (nestCount b)).any (fun j => k ≤ j && nestTile b j = tile)

/-- The operand FIFO that a record reads. -/
def recFifo (i : Instr) : Option (BitVec 2) :=
  match i with
  | .mxldw _ b => some (if b.fsel then 3 else 2)
  | .mxacc _ b => some (if b.fsel then 1 else 0)
  | .mxperm _ b => some (if b.fsel then 1 else 0)
  | .mxred _ b => some (if b.fsel then 1 else 0)
  | .mxtrn _ b => some (if b.fsel then 1 else 0)
  | _ => none

/-! ## Units and hazards -/

/-- The units of the array (R340). -/
inductive Unit_ where
  | pipe | load | drain | save
  deriving DecidableEq, Repr

def unitOf (i : Instr) : Option Unit_ :=
  match i with
  | .mxacc .. => some .pipe
  | .mxperm .. => some .pipe
  | .mxred .. => some .pipe
  | .mxtrn .. => some .pipe
  | .mxzero .. => some .pipe
  | .mxldw .. => some .load
  | .mxdrain .. => some .drain
  | .mxsave .. => some .save
  | .mxrest .. => some .save
  | _ => none

def drainRows (b : MxDrainBody) : Nat := b.rows.toNat + 1
def drainCols (b : MxDrainBody) : Nat := b.cols.toNat + 1

/-- The vector registers of a drain's addend (R359). -/
def addendRegs (b : MxDrainBody) : List (BitVec 5) :=
  if b.adt = 0 then [] else if b.adt = 1 then [b.av, b.av + 1] else [b.av]

/-- The bytes of one destination row of a drain (R359). -/
def drainRowBytes (b : MxDrainBody) (fmt : BitVec 32) : Nat :=
  match bankClass fmt with
  | .elem _ bits => (drainCols b * bits + 7) / 8
  | _ => drainCols b

/-- The cc during which a drain reads its tile (R348). -/
def drainSpan (b : MxDrainBody) (fmt : BitVec 32) : Nat := drainRows b * ((drainRowBytes b fmt + 63) / 64)

/-- The group scales that a drain reads: their byte count (R359). -/
def drainScaleBytes (b : MxDrainBody) : Nat :=
  let g := if b.gsz = 0 then 1 else if b.gsz = 1 then 16 else 64
  2 * ((drainCols b - 1) / g + 1)

/-- The cc in which a record's unit has finished it, or none while iterations remain (R347, R348). -/
def unitEnd (w : Work) : Option Nat :=
  match w with
  | .matrix i cap start next _ =>
    match i with
    | .mxldw .. => some (start + 64)
    | .mxzero .. => some (start + 8)
    | .mxdrain _ b => some (start + drainSpan b (cap.fmts.headD 0) + 16)
    | .mxsave .. => some (start + 1665)
    | .mxrest .. => some (start + 1665)
    | i =>
      match nestOf i with
      | some b => if next < nestCount b then none else some start
      | none => some start
  | _ => some 0

/-- Whether an operation still occupies its unit in cc `x`. -/
def occupies (w : Work) (x : Nat) : Bool :=
  match unitEnd w with
  | some e => x < e
  | none => true

/-- Whether an earlier record still occupies the unit of a record. -/
def unitBusy (t : Slot) (i : Instr) (x : Nat) : Bool :=
  t.ops.any (fun o => match o.work with
    | .matrix j .. => (unitOf j).isSome && unitOf j = unitOf i && occupies o.work x
    | _ => false)

/-- A read of a tile in cc `x` before every earlier write to it has landed (R348). -/
def readHazard (t : Slot) (tile : BitVec 3) (x : Nat) : Bool :=
  t.time.lands.any (fun l => l.tile = tile && x ≤ l.at_)
    || t.ops.any (fun o => match o.work with
      | .matrix (.mxrest _ b) _ _ next _ => b.tile = tile && next < 1665
      | .matrix j _ _ next _ => (match nestOf j with | some b => writesFrom b next tile | none => false)
      | _ => false)

/-- A write of a tile that would land before an earlier read of it has ended (R348). -/
def writeHazard (t : Slot) (tile : BitVec 3) (lands : Nat) : Bool :=
  t.time.reads.any (fun r => r.1 = tile && lands ≤ r.2)

/-- The tiles of MXZERO's mask. -/
def maskTiles (m : BitVec 8) : List (BitVec 3) := ((List.range 8).filter (fun n => m.getLsbD n)).map (BitVec.ofNat 3)

/-- A tile or buffer hazard of a record in cc `x` (R348, R350). -/
def hazard (t : Slot) (i : Instr) (x : Nat) : Bool :=
  let loading (buf : Bool) : Bool := t.ops.any (fun o => match o.work with
    | .matrix (.mxldw _ b) _ _ _ _ => b.wbuf = buf && occupies o.work x
    | _ => false)
  let reading (buf : Bool) : Bool := t.ops.any (fun o => match o.work with
    | .matrix (.mxacc _ b) _ _ _ _ => b.wbuf = buf && occupies o.work x
    | _ => false)
  let product (b : MxNest) : Bool := (List.range 8).any (fun n =>
    let tile : BitVec 3 := BitVec.ofNat 3 n
    match firstWrite b tile with
    | some k => writeHazard t tile (x + 12 + k * nestSpan i b)
    | none => false)
  match i with
  | .mxldw _ b => reading b.wbuf
  | .mxacc _ b => loading b.wbuf || product b
  | .mxperm _ b => product b
  | .mxred _ b => product b
  | .mxtrn _ b => product b
  | .mxzero _ m => (maskTiles m).any (fun n => writeHazard t n (x + 8))
  | .mxdrain _ b =>
    readHazard t b.tile x || (addendRegs b).any (fun r => !settled t .v r.toNat)
      || (b.clr && writeHazard t b.tile (x + drainSpan b (bankFmt t b.dst.toNat)))
  | .mxsave _ b => readHazard t b.tile x
  | .mxrest _ b => writeHazard t b.tile (x + 1665)
  | _ => false

/-! ## Readiness (R347) -/

/-- C (R52, R355; log 73). -/
def fifoC (f : Fifo) : Nat := min f.consumed f.filled

/-- The positions from T on are held (R52). -/
def retire (f : Fifo) : Fifo := { f with held := f.held.filter (fun p => fifoC f ≤ p.num + 4) }

/-- Whether a position was filled before the present cc (R347, R365). -/
def positionReady (s : State) (f : Fifo) (p : Int) : Bool :=
  p < (f.filled : Int) - (if f.filledAt = s.cycle && f.filled ≠ 0 then 1 else 0)

/-- The operand of a replay-window fault or an empty-position trap (R428). -/
def positionOperand (f : BitVec 2) (p : Int) : Word := word (f.toNat * 2 ^ 48 + (p % (2 ^ 48 : Nat)).toNat)

/-- The first position that a record reads (R347), with its FIFO. -/
def firstPosition (t : Slot) (i : Instr) : Option (BitVec 2 × Int) :=
  match recFifo i with
  | none => none
  | some f =>
    let cs := t.fifos[f.toNat].issuedC
    match i with
    | .mxldw _ b => some (f, cs + b.start.toInt)
    | _ => (nestOf i).map (fun b => (f, nestPos b cs 0))

/-- The empty-granule trap of an engine read (R45, R428). -/
def emptyGranule (a g : Nat) : FaultInfo := { code := 0x2B, operand := word (max a (16 * g)) }

/-- The handles that a matrix record names. -/
def mxHandles (i : Instr) (h : RecHead) : List (BitVec 4) :=
  (match i with
   | .mxsave _ b => [b.h]
   | .mxrest _ b => [b.h]
   | _ => []) ++ (if h.cbv then [h.cbh] else [])

/-- The first operand of a record that is empty, with the trap that it raises under trap = 1 (R347, R353). -/
def emptyOperand (s : State) (t : Slot) (i : Instr) (h : RecHead) : Option FaultInfo :=
  let handles := (mxHandles i h).filter (fun x => !t.h[x.toNat].full)
  let position := match firstPosition t i with
    | some (f, p) =>
      if positionReady s t.fifos[f.toNat] p then none else some { code := 0x2C, operand := positionOperand f p }
    | none => none
  let drain : Option FaultInfo := match i with
    | .mxdrain _ b =>
      match (addendRegs b).filter (fun r => vIsEmpty t r) with
      | r :: _ => some { code := 0x29, operand := regOperand 1 r.toNat }
      | [] => (firstEmpty t b.scl.toNat (drainScaleBytes b)).map (emptyGranule b.scl.toNat)
    | _ => none
  match handles with
  | x :: _ => some { code := 0x2A, operand := regOperand 3 x.toNat }
  | [] => position <|> drain

/-- Whether a record's unit, spacing, tiles and buffers let it issue in cc `x` (R347, items 1, 2 and 5). -/
def mxClear (t : Slot) (i : Instr) (x : Nat) : Bool :=
  t.time.started + 8 ≤ x && t.time.lastIssue + 4 ≤ x && !unitBusy t i x && !hazard t i x

/-- The target cc of a record (R346). -/
def mxTarget (t : Slot) (h : RecHead) : Nat := (t.time.sb + zx h.stamp).toNat

/-! ## The conditions of a WAIT (R216, R301) -/

/-- The kind of a condition word (R301): 0 counter, 1 granule, 2 tile, 3 barrier. -/
def condKind (c : Word) : Nat := bits c 63 62

/-- The counter and the value of a counter condition. -/
def condCounter (c : Word) : BitVec 4 × Nat := (c.extractLsb' 58 4, bits c 47 0)

/-- The barrier condition's place among the phases that the WAIT keeps. -/
def phaseOf (w : WaitState) (i : Nat) : Nat × BitVec 32 × BitVec 3 :=
  w.phases.getD ((w.conds.take i).filter (fun c => condKind c = 3)).length (0, 0, 0)

/-- Whether condition `i` holds (R216, R301). -/
def condHolds (t : Slot) (w : WaitState) (i : Nat) : Bool :=
  let c := w.conds.getD i 0
  match condKind c with
  | 0 =>
    let (q, n) := condCounter c
    (t.q[q.toNat].value.toNat + 2 ^ 64 - n) % 2 ^ 48 < 2 ^ 47
  | 1 => granuleFull t (bits c 21 0 / 16)
  | 2 => t.tiles[(c.extractLsb' 0 3).toNat].full
  | _ =>
    let d := (phaseOf w i).2.1 - c.extractLsb' 0 32
    1 ≤ d.toNat && d.toNat < 2 ^ 31

/-- Bit `i` for each condition that holds (R218). -/
def heldBits (t : Slot) (w : WaitState) : Nat :=
  (List.range w.conds.length).foldl (fun n i => if condHolds t w i then n + 2 ^ i else n) 0

/-- Whether the combination holds (R217). -/
def waitMet (t : Slot) (w : WaitState) : Bool :=
  if w.any then heldBits t w ≠ 0 else heldBits t w + 1 = 2 ^ w.conds.length

/-- Whether the timeout of a WAIT has come (R217): tick t0 + T + 1; all ones is none. -/
def waitExpired (s : State) (w : WaitState) : Bool :=
  w.timeout ≠ BitVec.allOnes 64 && w.t0 + w.timeout.toNat + 1 ≤ s.cycle / 16

/-! ## Ready slots (R423) -/

/-- The matrix record that a slot would issue next. -/
def nextMatrix (s : State) (t : Slot) : Option Instr :=
  match fetchRecord s t t.mx with
  | .ok v => (decodeRecord (kindOf t) true v).toOption
  | .error _ => none

/-- Whether the matrix stream of a slot could issue in the next cc (R346, R347; SB moves only when a stopped stream
resumes, R352); a record that is late in a STRICT launch or whose fetch fails issues its fault. -/
def matrixCould (s : State) (t : Slot) : Bool :=
  let x := s.cycle + 1
  match nextMatrix s t with
  | none => true
  | some i =>
    mxTarget t (headOf i) ≤ x
      && (isStrict t || (headOf i).trap || ((emptyOperand s t i (headOf i)).isNone && mxClear t i x))

/-- Whether the copy stream of a slot could issue in the next cc: its record has no stamp, or the stamp has come (R243);
a record whose fetch fails issues its fault. -/
def copyCould (s : State) (t : Slot) : Bool :=
  match fetchRecord s t t.cp with
  | .ok v =>
    (match decodeRecord (kindOf t) false v with
     | .ok i => !(headOf i).stv || decide ((t.stampb + zx (headOf i).stamp).toNat ≤ s.cycle + 1)
     | .error _ => true)
  | .error _ => true

/-- Whether a running matrix or copy stream of a slot is blocked (R209): it waits for an object, or its record for its
target cc or for what makes it ready (log 26). -/
def recordStuck (s : State) (t : Slot) (matrix : Bool) : Bool :=
  if matrix then t.mx.blocked.isSome || !matrixCould s t else t.cp.blocked.isSome || !copyCould s t

/-- Whether a blocked control stream can go on now: its WAIT returns or times out (R217, R423). -/
def waitOver (s : State) (t : Slot) : Bool :=
  match t.wait with
  | some w => waitMet t w || waitExpired s w
  | none => false

/-- Whether an operation stops while its slot is inactive and goes on with the next switch-in (R72, R352, R387, R430). -/
def stopsInactive (o : Op) : Bool :=
  !o.stopped && (match o.work with
    | .gather .. => true
    | .copy .. => true
    | .fifo .. => true
    | .matrix .. => true
    | .scan .. => true
    | .pannier .. => true
    | .chsend _ _ _ sent => sent.isNone
    | .chrecv .. => true
    | _ => false)

/-- Whether a slot is ready (R423): it holds an item, waits on no firmware answer, and one of its running streams could
issue in the next cc, or an engine that the switch has stopped could go on (log 19). -/
def slotReady (s : State) (t : Slot) : Bool :=
  (match t.item with | some i => !i.retired && decide (i.dispatched + 8 ≤ s.cycle + 1) | none => false) && t.answer.isNone && !t.saving
    && ((t.ctl.running && t.ctl.hold ≤ 1 && (t.ctl.blocked.isNone || waitOver s t)) || (!isActive s t.id && t.ops.any stopsInactive)
      || (t.cp.running && !recordStuck s t false) || (t.mx.running && !recordStuck s t true))

/-- The other context slot of a slot's core. -/
def otherSlot (c : SlotId) : SlotId := ⟨c.core, !c.slot⟩

/-- Whether the other slot of the core is ready. -/
def otherReady (s : State) (c : SlotId) : Bool :=
  match slotOf s (otherSlot c) with
  | some t => slotReady s t
  | none => false

def coreOf (s : State) (core : BitVec 8) : Core := sget {} s.cores core.toNat

def setCore (s : State) (core : BitVec 8) (x : Core) : State := { s with cores := sset {} s.cores core.toNat x }

/-- A trigger of R209 or R424: the core will switch, when the other slot is ready; otherwise the trigger is dropped
(R423). -/
def triggerSwitch (s : State) (core : BitVec 8) : State :=
  let x := coreOf s core
  if otherReady s ⟨core, x.active⟩ then setCore s core { x with wants := true } else s

end Sys2Proof.Machine
end

