-- ==== Sys2Proof/Machine/Control.lean ====
section
/-! DEFINITION. Branches, calls, loops, streams, traps and idling (R262 to R266). -/

namespace Sys2Proof.Machine

/-- Cond of R262. -/
def compares (fn : BitVec 5) (x y : Word) : Bool :=
  match fn.toNat with
  | 0 => x == y
  | 1 => x != y
  | 2 => x.slt y
  | 3 => !x.slt y
  | 4 => x.ult y
  | _ => !x.ult y

/-- A taken branch costs 2 cc before its target issues (R261). -/
def jumpTaken (s : State) (pc : Word) : State := holdFor 2 (jump s pc)

/-- The control stream at its program counter plus a word offset (R264). -/
def branch (s : State) (o : Opnd) : State := jumpTaken s (s.cur.ctl.pc + immOf o * 4)

/-- The virtual base of the code region. -/
def codeBase (t : Slot) : Word := word (recCodeva t.record)

/-- The register offset with bits 1:0 cleared, added to codeva. -/
def codeTarget (t : Slot) (off : Word) : Word := codeBase t + (off &&& ~~~3#64)

/-- NOP (R265). -/
def execNop (o : Opnd) (s : State) : Result := issue s o (.ok (advance s o))

/-- END (R213): the control stream ends, and the item can retire (R214). -/
def execEndCtl (o : Opnd) (s : State) : Result :=
  issue s o (.ok (onCur s (fun t =>
    { t with
      ctl := { t.ctl with running := false, issued := true }
      item := t.item.map (fun i => { i with ended := true }) })))

/-- BR (R264). -/
def execBr (o : Opnd) (s : State) : Result := issue s o (.ok (branch s o))

/-- BRC (R264). -/
def execBrc (o : Opnd) (s : State) : Result :=
  issue s o do
    let x ← srcG s.cur o.a o.feA
    let y ← srcG s.cur o.b o.feB
    return if compares o.fn x y then branch s o else advance s o

/-- BRI (R264). -/
def execBri (o : Opnd) (s : State) : Result :=
  issue s o do
    let x ← srcG s.cur o.a o.feA
    return jumpTaken s (codeTarget s.cur (x + immOf o))

/-- CALL (R264). -/
def execCall (o : Opnd) (s : State) : Result :=
  issue s o do
    dstG s.cur o.d
    let link := s.cur.ctl.pc + word (Fmt.bytes o.fmt) - codeBase s.cur
    return branch (onCur s (fun t => setG t o.d link)) o

/-- RET (R264). -/
def execRet (o : Opnd) (s : State) : Result :=
  issue s o do
    let x ← srcG s.cur o.a o.feA
    return jumpTaken s (codeTarget s.cur x)

/-- LOOP (R264): the count is read from d, decremented modulo 2^64 and written back; g0 discards the write. -/
def execLoop (o : Opnd) (s : State) : Result :=
  issue s o do
    let x ← srcG s.cur o.d o.feD
    let s' := onCur s (fun t => setG t o.d (x - 1))
    return if x - 1 = 0 then advance s' o else branch s' o

/-- TRAP (R265): the user trap with the code, which a C32 TRAP has 0. -/
def execTrap (o : Opnd) (s : State) : Result := issueTrap s o { code := 0x2E, operand := zx o.imm16 }

/-- YIELD (R265): triggers a slot switch when the other slot is ready. -/
def execYield (o : Opnd) (s : State) : Result := issue s o (.ok (triggerSwitch (advance s o) s.cur.id.core))

/-- The record offset of RUN (R266). -/
def runOffset (o : Opnd) (x : Word) : Int :=
  if o.fmt = .c96 then x.toInt + (sx o.lit32).toInt else x.toInt + (sx o.imm16).toInt * 64

/-- RUN (R212, R266): the bounds fault, then waiting for the named stream to end, or the stream-busy trap under !. -/
def runCheck (s : State) (o : Opnd) (st : StreamId) : Res Word := do
  let x ← srcG s.cur o.a o.feA
  let off := runOffset o x
  if off < 0 ∨ off % 64 ≠ 0 ∨ (recCodelen s.cur.record : Int) < off + 64 then raise 0x05 (BitVec.ofInt 64 off)
  else if (streamOf s.cur st).running then
    if o.lvl = 1 then raise 0x2D else blockOn (.stream st)
  else return codeBase s.cur + BitVec.ofInt 64 off

/-- RUN.MX: the matrix stream starts, and takes its base SB from STAMPB (R346). -/
def execRunMx (o : Opnd) (s : State) : Result :=
  issue s o do
    let pc ← runCheck s o .matrix
    return advance (onCur s (fun t =>
      { t with
        mx := { running := true, pc := pc, issued := true }
        time := { t.time with sb := t.stampb, started := s.cycle, late := false, stoppedAt := none } })) o

/-- RUN.CP: the copy stream starts. -/
def execRunCp (o : Opnd) (s : State) : Result :=
  issue s o do
    let pc ← runCheck s o .copy
    return advance (onCur s (fun t => { t with cp := { running := true, pc := pc, issued := true } })) o

end Sys2Proof.Machine
end

