-- ==== Sys2Proof/Machine/Scalar.lean ====
section
/-! DEFINITION. Scalar integer instructions (R277 to R279). ADDR stands with the memory instructions. -/

namespace Sys2Proof.Machine

/-- SignExt(x, 32) to 64 bits. -/
def sx32 (x : Word) : Word := (x.extractLsb' 0 32).signExtend 64

/-- ZeroExt(x, 32) to 64 bits. -/
def zx32 (x : Word) : Word := (x.extractLsb' 0 32).setWidth 64

/-- The binary form of R277: register a and B := g(b) + imm. -/
def binaryOp (s : State) (o : Opnd) (f : Word → Word → Word × BitVec 6) (latency : Nat := 1) : Result :=
  issue s o do
    let x ← srcG s.cur o.a o.feA
    let y ← srcG s.cur o.b o.feB
    dstG s.cur o.d
    let r := f x (y + immOf o)
    return finishG s o o.d r.1 r.2 latency

/-- The form with one source register. -/
def unaryOp (s : State) (o : Opnd) (f : Word → Word × BitVec 6) (latency : Nat := 1) : Result :=
  issue s o do
    let x ← srcG s.cur o.a o.feA
    dstG s.cur o.d
    let r := f x
    return finishG s o o.d r.1 r.2 latency

/-- Wrapping, .W and .S forms of an operation on integers (R277). -/
def arith (fn : BitVec 5) (f : Int → Int → Int) (x y : Word) : Word × BitVec 6 :=
  if fn = 1 then (sx32 (BitVec.ofInt 64 (f x.toInt y.toInt)), 0)
  else if fn = 2 then let r := satInt true 64 (f x.toInt y.toInt); (BitVec.ofInt 64 r.1, r.2)
  else (BitVec.ofInt 64 (f x.toInt y.toInt), 0)

def execAdd (o : Opnd) (s : State) : Result := binaryOp s o (arith o.fn (fun x y => x + y))

def execSub (o : Opnd) (s : State) : Result := binaryOp s o (arith o.fn (fun x y => x - y))

def execMul (o : Opnd) (s : State) : Result := binaryOp s o (arith o.fn (fun x y => x * y)) 3

/-- Bits 127:64 of the exact product (R277): signed, unsigned, or signed by unsigned. -/
def mulHigh (fn : BitVec 5) (x y : Word) : Word :=
  let a : Int := if fn = 1 then x.toNat else x.toInt
  let b : Int := if fn = 0 then y.toInt else y.toNat
  BitVec.ofInt 64 (a * b / (2 ^ 64 : Nat))

def execMulh (o : Opnd) (s : State) : Result := binaryOp s o (fun x y => (mulHigh o.fn x y, 0)) 4

def execAnd (o : Opnd) (s : State) : Result := binaryOp s o (fun x y => (x &&& y, 0))

def execOr (o : Opnd) (s : State) : Result := binaryOp s o (fun x y => (x ||| y, 0))

def execXor (o : Opnd) (s : State) : Result := binaryOp s o (fun x y => (x ^^^ y, 0))

/-- A shift of 64 bits by B mod 64, or in .W of the low 32 bits by B mod 32, then sign-extended (R277). -/
def shiftOp (fn : BitVec 5) (f64 : Word → Nat → Word) (f32 : BitVec 32 → Nat → BitVec 32) (x y : Word) :
    Word × BitVec 6 :=
  (if fn = 1 then (f32 (x.extractLsb' 0 32) (y.toNat % 32)).signExtend 64 else f64 x (y.toNat % 64), 0)

def execShl (o : Opnd) (s : State) : Result := binaryOp s o (shiftOp o.fn (fun x n => x <<< n) (fun x n => x <<< n))

def execShr (o : Opnd) (s : State) : Result := binaryOp s o (shiftOp o.fn (fun x n => x >>> n) (fun x n => x >>> n))

def execSar (o : Opnd) (s : State) : Result :=
  binaryOp s o (shiftOp o.fn (fun x n => x.sshiftRight n) (fun x n => x.sshiftRight n))

def execRot (o : Opnd) (s : State) : Result :=
  binaryOp s o (shiftOp o.fn (fun x n => x.rotateRight n) (fun x n => x.rotateRight n))

/-- Signed or unsigned order (R277). -/
def lessThan (fn : BitVec 5) (x y : Word) : Bool := if fn = 1 then x.ult y else x.slt y

def execMin (o : Opnd) (s : State) : Result := binaryOp s o (fun x y => (if lessThan o.fn y x then y else x, 0))

def execMax (o : Opnd) (s : State) : Result := binaryOp s o (fun x y => (if lessThan o.fn x y then y else x, 0))

def execCmp (o : Opnd) (s : State) : Result := binaryOp s o (fun x y => (ofBool (compares o.fn x y), 0))

/-- The operands of DIV and REM (R278): signed, .U, .W, .WU. -/
def divOperand (fn : BitVec 5) (x : Word) : Int :=
  match fn.toNat with
  | 0 => x.toInt
  | 1 => x.toNat
  | 2 => (x.extractLsb' 0 32).toInt
  | _ => (x.extractLsb' 0 32).toNat

/-- A result of DIV or REM at its width (R278). -/
def divResult (fn : BitVec 5) (r : Int) : Word :=
  let w := BitVec.ofInt 64 r
  match fn.toNat with
  | 2 => sx32 w
  | 3 => zx32 w
  | _ => w

/-- Quotient toward zero and remainder (R278); a zero divisor gives 0 and the dividend. -/
def divide (fn : BitVec 5) (x y : Word) : Word × Word × BitVec 6 :=
  let a := divOperand fn x
  let b := divOperand fn y
  if b = 0 then (0, divResult fn a, flagDz) else (divResult fn (a.tdiv b), divResult fn (a.tmod b), 0)

/-- The latency of DIV and REM (R278). -/
def divLatency (fn : BitVec 5) : Nat := if fn.getLsbD 1 then 18 else 34

/-- DIV (R278). -/
def execDiv (o : Opnd) (s : State) : Result :=
  issue s o do
    let x ← srcG s.cur o.a o.feA
    let y ← srcG s.cur o.b o.feB
    dstG s.cur o.d
    let r := divide o.fn x y
    return finishL s o [(o.d, r.1)] [] r.2.2 o.feD (divLatency o.fn)

/-- REM (R278). -/
def execRem (o : Opnd) (s : State) : Result :=
  issue s o do
    let x ← srcG s.cur o.a o.feA
    let y ← srcG s.cur o.b o.feB
    dstG s.cur o.d
    let r := divide o.fn x y
    return finishL s o [(o.d, r.2.1)] [] r.2.2 o.feD (divLatency o.fn)

/-- ADDI (R279): the immediate shifted by 16 × fn. -/
def execAddi (o : Opnd) (s : State) : Result := unaryOp s o (fun x => (x + (immOf o <<< (16 * o.fn.toNat)), 0))

/-- ABS (R279). -/
def execAbs (o : Opnd) (s : State) : Result :=
  unaryOp s o (fun x =>
    if o.fn = 1 then let r := satInt true 64 (x.toInt.natAbs : Int); (BitVec.ofInt 64 r.1, r.2)
    else (word x.toInt.natAbs, 0))

/-- SEL (R279). -/
def execSel (o : Opnd) (s : State) : Result :=
  issue s o do
    let x ← srcG s.cur o.a o.feA
    let y ← srcG s.cur o.b o.feB
    let z ← srcG s.cur o.c o.feC
    dstG s.cur o.d
    return finishG s o o.d (if z = 0 then y else x)

/-- Leading zero bits of a number of `w` bits. -/
def leadingZeros (w n : Nat) : Nat := if n = 0 then w else w - 1 - n.log2

/-- CLZ (R279). -/
def execClz (o : Opnd) (s : State) : Result :=
  unaryOp s o (fun x =>
    (word (if o.lvl = 1 then leadingZeros 32 (x.extractLsb' 0 32).toNat else leadingZeros 64 x.toNat), 0))

/-- POPC (R279). -/
def execPopc (o : Opnd) (s : State) : Result :=
  unaryOp s o (fun x => (word (if o.lvl = 1 then popCount (x.extractLsb' 0 32) else popCount x), 0))

/-- The field of BFX (R279): bits above 63 read as 0, or as bit 63 in .S. -/
def bitField (sgn : Bool) (pos len : Nat) (x : Word) : Word :=
  let f := if sgn then (x.signExtend 128) >>> pos else (x.setWidth 128) >>> pos
  if sgn then BitVec.ofInt 64 (readInt true len f.toNat) else word (f.toNat % 2 ^ len)

/-- BFX (R279): field b is pos and field c is len − 1. -/
def execBfx (o : Opnd) (s : State) : Result :=
  unaryOp s o (fun x => (bitField (o.fn = 1) o.b.toNat (o.c.toNat + 1) x, 0))

/-- BFI (R279): bits min(pos + len, 64) − 1 down to pos of the destination. -/
def insertField (pos len : Nat) (old new : Word) : Word :=
  let mask : Word := word (2 ^ len - 1) <<< pos
  (old &&& ~~~mask) ||| ((new <<< pos) &&& mask)

def execBfi (o : Opnd) (s : State) : Result :=
  issue s o do
    let old ← srcG s.cur o.d o.feD
    let x ← srcG s.cur o.a o.feA
    return finishG s o o.d (insertField o.b.toNat (o.c.toNat + 1) old x)

/-- LI (R279): sign-extended, or zero-extended in .Z. -/
def execLi (o : Opnd) (s : State) : Result :=
  issue s o do
    dstG s.cur o.d
    return finishG s o o.d (if o.fn = 1 then (if o.fmt = .c96 then zx o.lit32 else zx o.imm16) else immOf o)

/-- MOV (R279). -/
def execMov (o : Opnd) (s : State) : Result := unaryOp s o (fun x => (x, 0))

end Sys2Proof.Machine
end

