-- ==== Sys2Proof/Machine/MemoryInstr.lean ====
section
/-! DEFINITION. Loads, stores, full/empty access, handles and atomics (R279, R283 to R298). -/

namespace Sys2Proof.Machine

/-- The bytes of a size code (R287): 1, 2, 4, 8, 16. -/
def sizeOf_ (fn : BitVec 5) : Nat := 2 ^ (fn.toNat % 8)

/-- The registers of a data operand: two for `.Q` (R288). -/
def dataRegs (d : BitVec 6) (n : Nat) : List (BitVec 6) := if n = 16 then [d, d + 1] else [d]

/-- The registers that a load writes (R288). -/
def loadResult (d : BitVec 6) (n : Nat) (zero : Bool) (bs : List Byte) : List (BitVec 6 × Word) :=
  let x := leNat bs
  if n = 16 then [(d, word x), (d + 1, word (x / 2 ^ 64))]
  else [(d, if zero then word x else BitVec.ofInt 64 (readInt true (8 * n) x))]

/-- Destinations that must not be empty from an earlier producer (R236). -/
def dstRegs (t : Slot) (rs : List (BitVec 6)) : Res Unit := rs.foldlM (fun _ r => dstG t r) ()

/-- The bytes of a data operand once its registers are full (R288). -/
def dataBytes (t : Slot) (d : BitVec 6) (n : Nat) (fe : Bool) : Res (List Byte) := do
  let x ← srcG t d fe
  let y ← if n = 16 then srcG t (d + 1) fe else .ok 0
  return bytesOf n (x.toNat + y.toNat * 2 ^ 64)

/-- ADDR (R279): the target of a reference, in the register form of R240; the handle is not tested. -/
def execAddr (o : Opnd) (s : State) : Result :=
  issue s o do
    let r ← refSources s.cur o
    dstG s.cur o.d
    if memBankBase o then
      match bankTarget o r with
      | .error e => .error e
      | .ok (.bank rank a) => return finishG s o o.d (scratchReg rank a)
      | .ok (.page _ off) => return finishG s o o.d (BitVec.ofInt 64 off)
    else return finishG s o o.d (BitVec.ofInt 64 (r.2.toInt * scaleOf o + dispOf o))

/-- The hops between the tiles of two cores of one die (R15). -/
def tileHops (a b : BitVec 8) : Nat :=
  let side := if a.toNat < 0x80 then 8 else 4
  let far (x y : Nat) : Nat := if x ≤ y then y - x else x - y
  far (a.toNat % side) (b.toNat % side) + far (a.toNat % 64 / side) (b.toNat % 64 / side)

/-- The latency of a scratchpad access (R286): 4 cc in the own one, in a member's 8 cc and 2 cc for each hop each way. -/
def bankLatency (s : State) (c : SlotId) : Nat :=
  if c = s.cur.id then 4 else 8 + 4 * tileHops s.cur.id.core c.core

/-- The latency of a load (R286): 6 cc where every line hits the own L1, 14 cc in a fused L1; one that the spec does not
fix is 1 cc (log 2). -/
def loadLatency (s : State) (p : Place) (n : Nat) (lv : Level) : Nat :=
  match p with
  | .bank c _ _ => bankLatency s c
  | .mem pa _ =>
    let lines := linesOf pa n
    if lv = .cl && lines.all (l1Has s s.cur) then
      if lines.all (fun l => l1Holder s s.cur.id.core l = s.cur.id.core) then 6 else 14
    else 1

/-- LD (R288). -/
def execLd (o : Opnd) (s : State) : Result :=
  issue s o do
    let n := sizeOf_ o.fn
    let r ← refSources s.cur o
    let p ← resolve s o r n 1 permRd
    dstRegs s.cur (dataRegs o.d n)
    let x ← loadAt s p n (loadLevel s.cur o)
    return finishL x.1 o (loadResult o.d n (o.fn.getLsbD 3) x.2) [] 0 o.feD (loadLatency s p n (loadLevel s.cur o))

/-- ST (R288). -/
def execSt (o : Opnd) (s : State) : Result :=
  issue s o do
    let n := sizeOf_ o.fn
    let r ← refSources s.cur o
    let bs ← dataBytes s.cur o.d n o.feD
    let p ← resolve s o r n 1 permW
    let x ← storeAt s p bs (storeLevel o)
    return advance x.1 o

/-- ST.T (R285, R288): within one line; the tag register is empty until the home has performed the store. A scratchpad base
does not decode (R287). -/
def execStT (o : Opnd) (s : State) : Result :=
  issue s o do
    let n := sizeOf_ o.fn
    let r ← refSources s.cur o false
    let bs ← dataBytes s.cur o.d n o.feD
    let ref ← refTarget s.cur o r
    match ref with
    | .bank .. => .error (.fault { code := 0x01, sub := 7 })
    | .page h off =>
      if off % 128 + n > 128 then raise 0x04
      else do
        let p ← resolveRef s s.cur (.page h off) n 1 permW
        dstG s.cur o.b
        let x ← storeAt s p bs (storeLevel o)
        return finishL x.1 o [(o.b, zx x.2)] [] 0 true

/-- LDV (R288): the active elements; the others keep their values or become 0 under .Z. -/
def execLdv (o : Opnd) (s : State) : Result :=
  issue s o do
    let a := activeSingle s.cur o.k
    let n := a * (vWidth s.cur / 8)
    let r ← refSources s.cur o
    let ref ← if n = 0 && memBankBase o then .ok (.bank none 0) else refTarget s.cur o r
    let d := vreg o.d.toNat
    if n = 0 then do
      dstV s.cur d
      return finishL s o [] (mergeGroup s.cur o.d 1 8 (o.fn = 1) [])
    else do
      let p ← resolveRef s s.cur ref n 1 permRd
      dstV s.cur d
      let x ← loadAt s p n (loadLevel s.cur o)
      return finishL x.1 o [] (mergeGroup s.cur o.d 1 8 (o.fn = 1) (x.2.map (fun b => b.toNat))) 0 o.feD (loadLatency s p n (loadLevel s.cur o))

/-- STV (R288). -/
def execStv (o : Opnd) (s : State) : Result :=
  issue s o do
    let a := activeSingle s.cur o.k
    let n := a * (vWidth s.cur / 8)
    let r ← refSources s.cur o
    let v ← srcV s.cur (vreg o.d.toNat) o.feD
    let ref ← if n = 0 && memBankBase o then .ok (.bank none 0) else refTarget s.cur o r
    if n = 0 then return advance s o
    else do
      let p ← resolveRef s s.cur ref n 1 permW
      let x ← storeAt s p (bytesOf n v.toNat) (storeLevel o)
      return advance x.1 o

/-! ## Full/empty access -/

/-- The granule of a place, for a wait: the rank is that of the reference, unless it is the slot's own. -/
def granuleObj (s : State) (r : Ref) (c : SlotId) (a : Nat) : Obj :=
  match r with
  | .bank rank _ => .granule (if c = s.cur.id then none else rank) (a / 16)
  | .page .. => .granule none (a / 16)

/-- WaitFull of a granule (R45, R291): waits, or raises the empty-granule trap under !. -/
def waitGranule (s : State) (r : Ref) (p : Place) (trap : Bool) : Res Unit :=
  match p with
  | .mem .. => .ok ()
  | .bank c a reg =>
    match slotOf s c with
    | none => .ok ()
    | some t =>
      if granuleFull t (a / 16) then .ok ()
      else if trap then raise 0x2B reg else blockOn (granuleObj s r c a)

/-- The granule of a place made full or empty. -/
def markPlace (s : State) (p : Place) (full : Bool) : State :=
  match p with
  | .mem .. => s
  | .bank c a _ => modSlot s c (fun t => setGranule t (a / 16) full)

/-- LDFE (R291). -/
def execLdfe (o : Opnd) (s : State) : Result :=
  issue s o do
    let n := sizeOf_ o.fn
    let clr := o.fn.getLsbD 4
    let r ← refSources s.cur o
    let ref ← refTarget s.cur o r
    let p ← resolveRef s s.cur ref n n permRd
    waitGranule s ref p o.feA
    dstRegs s.cur (dataRegs o.d n)
    let x ← loadAt s p n .sl (.waiting clr)
    return finishL (if clr then markPlace x.1 p false else x.1) o (loadResult o.d n (o.fn.getLsbD 3) x.2) [] 0 o.feD
      (loadLatency s p n .sl)

/-- STFE (R291). -/
def execStfe (o : Opnd) (s : State) : Result :=
  issue s o do
    let n := sizeOf_ o.fn
    let r ← refSources s.cur o
    let bs ← dataBytes s.cur o.d n o.feD
    let p ← resolve s o r n n permW
    let x ← storeAt s p bs .sl (.write s.cur.det.rc)
    return advance (markPlace x.1 p true) o

/-- The granules of FESET, FECLR and FEPEEK (R290, R291): target bits 3:0 are ignored, and a range that leaves its bank
raises the scratchpad-ownership fault. -/
def granuleRange (s : State) (o : Opnd) (count : Nat) : Res (SlotId × Nat × Word) := do
  let r ← refSources s.cur o
  let ref ← refTarget s.cur o r
  match ref with
  | .page .. => raise 0x04
  | .bank rank a =>
    let g := a / 16 * 16
    if g / 2 ^ 18 ≠ (g + 16 * count - 1) / 2 ^ 18 then raise 0x08 (scratchReg rank g)
    else do
      let p ← bankPlace s s.cur rank g (16 * count)
      match p with
      | .bank c a reg => return (c, a, reg)
      | .mem _ reg => raise 0x08 reg

/-- FESET (R291). -/
def execFeset (o : Opnd) (s : State) : Result :=
  issue s o do
    let n := o.d.toNat + 1
    let r ← granuleRange s o n
    let s' ← checkGranules s r.1 s.cur.id (slotCode s.cur.id) (.publish s.cur.det.rc) r.2.1 (16 * n)
    return advance (modSlot s' r.1 (fun t => setGranules t r.2.1 (16 * n) true)) o

/-- FECLR (R291); in deterministic mode a write to the granules' words (R292). -/
def execFeclr (o : Opnd) (s : State) : Result :=
  issue s o do
    let n := o.d.toNat + 1
    let r ← granuleRange s o n
    let s' ← checkGranules s r.1 s.cur.id (slotCode s.cur.id) (.write 0x3F) r.2.1 (16 * n)
    return advance (modSlot s' r.1 (fun t => setGranules t r.2.1 (16 * n) false)) o

/-- FEPEEK (R291); the determinism trap PEEK in deterministic mode (R188). -/
def execFepeek (o : Opnd) (s : State) : Result :=
  issue s o do
    let r ← granuleRange s o 1
    dstG s.cur o.d
    if isDet s.cur then
      .error (.fault { code := 0x21, operand := r.2.2, dcheck := 6, dagent := slotCode s.cur.id })
    else
      return finishG s o o.d
        (ofBool (match slotOf s r.1 with | some t => granuleFull t (r.2.1 / 16) | none => true)) 0 (bankLatency s r.1)

/-! ## Handles -/

/-- The 128 bits of a handle register (R116). -/
def handleBits (h : Handle) : BitVec 128 :=
  h.kdh ++ h.vpage ++ h.perm ++ h.pbase ++ h.lat ++ h.size ++ 0#7 ++ BitVec.ofBool h.walk ++ BitVec.ofBool h.bound
    ++ BitVec.ofBool h.full ++ BitVec.ofBool h.valid

/-- Any outstanding walk of a handle abandoned, with the fault it has raised (R118, R120). -/
def dropWalk (s : State) (h : BitVec 4) : State :=
  { onCur s (fun t => { t with walks := t.walks.filter (fun w => w.h ≠ h) }) with
    pageFaults := s.pageFaults.filter (fun f => !(sameItem f.owner (refOf s.cur 0) && f.handle = some h)) }

/-- XLAT (R117, R294): the handle empties at issue; the result comes 32 cc later on a cache hit, else from a walk. -/
def execXlat (o : Opnd) (s : State) : Result :=
  issue s o do
    let x ← srcG s.cur o.a o.feA
    let va := x + sx o.imm16
    if bits va 63 56 ≠ 0 then raise 0x04
    else
      let h : BitVec 4 := o.d.setWidth 4
      let vpage : BitVec 40 := va.extractLsb' 16 40
      let found := cachedLeaf s.cur vpage
      let hit := found.isSome
      let site := ctlSite s o
      let w : Walk :=
        { h := h, va := va, due := if hit then some (s.cycle + 32) else none, since := s.cycle, leaf := found
          coff := site.coff, len := site.len }
      return advance (onCur (dropWalk s h) (fun t =>
        let old := t.h[h.toNat]
        { t with
          h := t.h.set h.toNat { old with full := false, bound := true, valid := false, vpage := vpage, walk := !hit }
          walks := t.walks ++ [w] })) o

/-- HREL (R120). -/
def execHrel (o : Opnd) (s : State) : Result :=
  let h : BitVec 4 := o.d.setWidth 4
  issue s o (.ok (advance (onCur (dropWalk s h) (fun t =>
    let old := t.h[h.toNat]
    { t with h := t.h.set h.toNat { old with full := true, bound := false, valid := false, walk := false } })) o))

/-- HINFO (R295): a use of the handle in deterministic mode only. -/
def execHinfo (o : Opnd) (s : State) : Result :=
  issue s o do
    let h : BitVec 4 := o.a.setWidth 4
    if isDet s.cur then (useHandle s.cur h o.feA).map (fun _ => ()) else .ok ()
    dstG s.cur o.d
    let b := handleBits s.cur.h[h.toNat]
    return finishG s o o.d (if o.fn = 1 then b.extractLsb' 64 64 else b.extractLsb' 0 64)

/-! ## Atomics -/

/-- Step 7 of R284 for an atomic, then the conflict rule and the consumed granule. -/
def admitAtomic (s : State) (pa : Nat) (reg : Word) (n : Nat) (mem reduce : Bool) : Res State := do
  needReleased s (dieOf s.cur.id.core) (linesOf pa n)
  match refusedByte s s.cur pa (linesOf pa n) rightAtomic mem with
  | some b => raise 0x25 (reg + word (b - pa))
  | none => do
    let s' ← checkLines s s.cur (if reduce then .reduce else .write) pa n mem
    if poisoned s pa n then raise 0x2F else return s'

/-- One indivisible read and write at the home or the bank (R178, R297): the state, the old value and the tag. -/
def atomicAt (s : State) (p : Place) (n : Nat) (mem reduce : Bool) (f : Nat → Nat) : Res (State × Nat × BitVec 16) :=
  match p with
  | .mem pa reg => do
    let s' ← admitAtomic s pa reg n mem reduce
    let old := memNat s' pa n
    let bs := bytesOf n (f old)
    let r := homeWrite s' pa bs mem
    return (l1Update r.1 r.1.cur pa bs, old, r.2)
  | .bank c a _ => do
    let s' ← checkGranules s c s.cur.id (slotCode s.cur.id)
      (if reduce then .reduce s.cur.det.rc else .write s.cur.det.rc) a n
    let old := leNat (← bankData s' c a n)
    return (modSlot s' c (fun t => bankWrite t a (bytesOf n (f old))), old, 0)

/-- The new value of ATOM (R297). -/
def atomNew (kind n old y : Nat) : Nat :=
  let w := 8 * n
  let so := readInt true w old
  let sy := readInt true w y
  match kind with
  | 0 => (old + y) % 2 ^ w
  | 1 => old &&& y
  | 2 => old ||| y
  | 3 => old ^^^ y
  | 4 => if sy < so then y else old
  | 5 => if so < sy then y else old
  | 6 => min old y
  | _ => max old y

/-- The shared form of ATOM, CAS and XCHG (R296, R297). `f` gives the new value from the old one and the operand. DESIGN
CHOICE (log 100): the data register waits when it is empty, or traps under fe.b (R235), and fe.d defers the destination (R236),
though the row of ATOM in R311 gives the trap to fe.d. -/
def atomic (o : Opnd) (s : State) (reduce : Bool) (f : Nat → Nat → Nat → Nat) (compare : Bool) : Result :=
  issue s o do
    let n := if o.fn.getLsbD 3 then 8 else 4
    let tagged := o.fn.getLsbD 4
    let r ← refSources s.cur o false
    let y ← srcG s.cur o.b o.feB
    let c ← if compare then srcG s.cur o.d false else .ok 0
    let p ← resolve s o r n n permRwa
    dstRegs s.cur (if tagged then [o.d, o.d + 1] else [o.d])
    let x ← atomicAt s p n (o.lvl = 3) reduce (fun old => f (c.toNat % 2 ^ (8 * n)) (y.toNat % 2 ^ (8 * n)) old)
    return finishL x.1 o ([(o.d, word x.2.1)] ++ if tagged then [(o.d + 1, zx x.2.2)] else []) [] 0 o.feD
      (match p with | .bank c _ _ => bankLatency s c | .mem .. => 1)

/-- ATOM (R297); with d = g0 a commutative reduction (R298). -/
def execAtom (o : Opnd) (s : State) : Result :=
  atomic o s (o.d = 0) (fun _ y old => atomNew (o.fn.toNat % 8) (if o.fn.getLsbD 3 then 8 else 4) old y) false

/-- CAS (R297). -/
def execCas (o : Opnd) (s : State) : Result := atomic o s false (fun c y old => if old = c then y else old) true

/-- XCHG (R297). -/
def execXchg (o : Opnd) (s : State) : Result := atomic o s false (fun _ y _ => y) false

end Sys2Proof.Machine
end

