-- ==== Sys2Proof/Machine/Sync.lean ====
section
/-! DEFINITION. Ordering, waiting, counters of other items, barrier objects, gathers and cache control (R174, R179 to
R187, R216 to R223, R299 to R310), with the events that complete them. -/

namespace Sys2Proof.Machine

/-! ## MARK and FENCE -/

/-- The acquire of deterministic mode (R193): pending pairs become effective; a seventeenth entry faults. -/
def acquirePending (t : Slot) : Res Slot :=
  let merge (tab : List (BitVec 9 × BitVec 6)) (p : BitVec 9 × BitVec 6) : List (BitVec 9 × BitVec 6) :=
    if tab.any (fun e => e.1 = p.1) then tab.map (fun e => if e.1 = p.1 ∧ e.2.toNat < p.2.toNat then p else e)
    else tab ++ [p]
  let tab := t.det.pending.foldl merge t.det.table
  if isDet t then
    if tab.length > 16 then raise 0x20 else .ok { t with det := { t.det with table := tab, pending := [] } }
  else .ok t

/-- The one hardware effect of a scope on memory (R179): an acquire at TROUPE or wider drops the issuing L1. -/
def scopeInvalidate (s : State) (core : BitVec 8) (scope : BitVec 3) : State :=
  if 2 ≤ scope.toNat then l1Invalidate s core else s

/-- MARK (R174). -/
def execMark (o : Opnd) (s : State) : Result :=
  issue s o do
    performed s
    return advance s o

/-- FENCE.ACQ (R180, R193). -/
def execFenceAcq (o : Opnd) (s : State) : Result :=
  issue s o do
    performed s
    let t ← acquirePending s.cur
    return advance (scopeInvalidate (onCur s (fun _ => t)) s.cur.id.core o.lvl) o

/-- FENCE.REL (R180, R193). -/
def execFenceRel (o : Opnd) (s : State) : Result :=
  issue s o do
    releasable s
    let t ← releaseCount s.cur
    return advance (onCur s (fun _ => t)) o

/-- FENCE.AR (R180, R193). -/
def execFenceAr (o : Opnd) (s : State) : Result :=
  issue s o do
    releasable s
    let t ← acquirePending s.cur
    let t ← releaseCount t
    return advance (scopeInvalidate (onCur s (fun _ => t)) s.cur.id.core o.lvl) o

/-- FENCE.WACK (R180). -/
def execFenceWack (o : Opnd) (s : State) : Result :=
  issue s o do
    performed s
    return advance s o

/-! ## WAIT -/

/-- Must-be-zero bits of a condition word (R301). -/
def condMbz (c : Word) : Bool :=
  match condKind c with
  | 0 => bits c 57 48 ≠ 0
  | 1 => bits c 61 33 ≠ 0
  | 2 => bits c 61 3 ≠ 0
  | _ => false

/-- The checks of R302 for one condition word; answers the object of a barrier condition. -/
def checkCond (s : State) (trap : Bool) (c : Word) : Res (List (Nat × BitVec 32 × BitVec 3)) :=
  if condMbz c then raise 0x10
  else match condKind c with
    | 0 => if (condCounter c).1.toNat < recNctr s.cur.record then .ok [] else raise 0x0B
    | 1 =>
      let a := bits c 32 0
      if c.getLsbD 32 then raise 0x0C (word a)
      else if ownsBank s.cur a then .ok [] else raise 0x08 (word a)
    | 2 => if (recAmask s.cur.record).getLsbD (bits c 2 0) then .ok [] else raise 0x09
    | _ => do
      let h ← useHandle s.cur (c.extractLsb' 58 4) trap (bits c 57 32 * 16 : Nat)
      let off := bits c 57 32 * 16
      let pa ← checkPage h off 16 permRd
      needReleased s (dieOf s.cur.id.core) [pa / 128]
      if !admitMem s s.cur pa rightRead false then raise 0x25 (word off)
      else if poisoned s pa 16 then raise 0x2F
      else
        let v := memNat s pa 16
        return [(pa, BitVec.ofNat 32 (v / 2 ^ 96), BitVec.ofNat 3 (v / 16))]

/-- The narrowest scope that holds two slots (R179); `gang` says that they are in one troupe. -/
def scopeBetween (a b : SlotId) (gang : Bool) : Nat :=
  if a = b then 0 else if a.core = b.core then 1 else if gang then 2 else if dieOf a.core = dieOf b.core then 3 else 4

/-- What a condition that held acquires (R183, R185, R304, R305). -/
def acquireCond (s : State) (c : SlotId) (w : WaitState) (i : Nat) : State :=
  match slotOf s c with
  | none => s
  | some t =>
    if !(condHolds t w i && w.acq.getLsbD i) then s
    else match condKind (w.conds.getD i 0) with
      | 0 =>
        let (q, n) := condCounter (w.conds.getD i 0)
        let x := t.q[q.toNat]
        let source := match x.boundBy with
          | some (b, key) =>
            let gang := match t.item with
              | some j => j.size ≠ 0 && key.1 = j.queue.toNat && key.2.1 = j.ordinal && key.2.2 / j.size = j.index / j.size
              | none => false
            (b, scopeBetween c b gang)
          | none => (c, 0)
        if source.2 ≤ w.scope.toNat && source.2 ≤ (if x.boundBy.isSome then x.scope.toNat else 5) then
          let s := modSlot s c (fun t =>
            { t with
              q := t.q.set q.toNat { x with acquired := word n }
              det := if x.boundBy.isSome && isDet t then
                  { t.det with pending := t.det.pending ++ [(slotCode source.1, x.carriedRc)] } else t.det })
          if x.firstWrite ≠ 0 && decide (x.firstWrite ≤ n) then l1Invalidate s c.core else s
        else s
      | 3 => scopeInvalidate s c.core (phaseOf w i).2.2
      | _ => s

/-- The granule conditions of a WAIT that held, judged in deterministic mode as reads that wait (R181, R193, R195). -/
def waitReads (s : State) (c : SlotId) (w : WaitState) : Res State :=
  (List.range w.conds.length).foldlM (fun s i =>
    match slotOf s c with
    | none => .ok s
    | some t =>
      let x := w.conds.getD i 0
      if condKind x = 1 && condHolds t w i then checkGranules s c c (slotCode c) (.waiting false) (bits x 21 0 / 16 * 16) 16
      else .ok s) s

/-- A WAIT returns (R217, R218): what held acquires, the destination is written, and the stream goes on. -/
def waitFinish (s : State) (c : SlotId) (w : WaitState) (timeout : Bool) : State :=
  match slotOf s c with
  | none => s
  | some t =>
    let held := heldBits t w
    let r := word (held + if timeout && !waitMet t w then 16 else 0)
    modSlot ((List.range w.conds.length).foldl (fun s i => acquireCond s c w i) s) c (fun t =>
      { setG t w.dest r with
        wait := none
        ctl := { t.ctl with pc := t.ctl.pc + 8, blocked := none, issued := true } })

/-- The condition words of a WAIT (R300). -/
def waitWords (t : Slot) (o : Opnd) : Res (List Word) :=
  (List.range (o.c.toNat % 4 + 1)).mapM (fun i => srcG t (o.a + BitVec.ofNat 6 i) o.feA)

/-- WAIT (R216 to R218, R300 to R302): returns in the cc of issue when its combination holds, else blocks. -/
def execWait (o : Opnd) (s : State) : Result :=
  issue s o do
    let conds ← waitWords s.cur o
    let b ← srcG s.cur o.b o.feB
    let phases ← conds.foldlM (fun acc c => (checkCond s o.feA c).map (fun p => acc ++ p)) []
    dstG s.cur o.d
    let any := o.c.getLsbD 2 && conds.length > 1
    if any && isDet s.cur then
      .error (.fault { code := 0x21, dcheck := 5, dagent := slotCode s.cur.id })
    else
      let w : WaitState :=
        { conds, any, acq := o.fn.setWidth 4, scope := o.lvl, t0 := s.cycle / 16, timeout := b + zx o.imm16, dest := o.d,
          phases }
      if waitMet s.cur w then do
        let s ← waitReads s s.cur.id w
        return waitFinish s s.cur.id w false
      else return onCur s (fun t =>
        { t with wait := some w, ctl := { t.ctl with blocked := some .waiting, issued := true } })

/-- Whether the WAIT of a slot returns now because its combination holds (R217, R443). -/
def waitReturns (s : State) (t : Slot) : Bool :=
  ctlAwake s t && (match t.wait with | some w => waitMet t w | none => false)

/-- Whether the WAIT of a slot times out now (R217, R443). -/
def waitTimesOut (s : State) (t : Slot) : Bool :=
  ctlAwake s t && (match t.wait with | some w => waitExpired s w | none => false)

/-- The site of the control-stream instruction that a slot waits at. -/
def waitSite (t : Slot) : Site :=
  { slot := t.id, source := 0, coff := (t.ctl.pc - word (recCodeva t.record)).setWidth 32, len := 2 }

/-- A fault at the WAIT of a slot. -/
def waitFault (s : State) (t : Slot) (f : FaultInfo) : State :=
  takeFault s (waitSite t) f (t.ctl.pc - word (recCodeva t.record))

/-- The WAIT of a slot ends: the granules that it waited for are judged, and it returns. -/
def waitEnd (s : State) (t : Slot) (w : WaitState) (timeout : Bool) : State :=
  match waitReads s t.id w with
  | .ok s' => waitFinish s' t.id w timeout
  | .error (.fault f) => waitFault s t f
  | .error _ => s

/-- WAIT_RETURN (R217): the combination holds. -/
def execWaitReturn (c : SlotId) (s : State) : Result :=
  event s (match slotOf s c with
    | none => s
    | some t =>
      match t.wait with
      | some w => if waitReturns s t then waitEnd s t w false else s
      | none => s)

/-- WAIT_TIMEOUT (R217, R218); in deterministic mode the trap TIMEOUT (R188). -/
def execWaitTimeout (c : SlotId) (s : State) : Result :=
  event s (match slotOf s c with
    | none => s
    | some t =>
      match t.wait with
      | some w =>
        if !waitTimesOut s t then s
        else if isDet t && !waitMet t w then waitFault s t { code := 0x21, dcheck := 4, dagent := slotCode c }
        else waitEnd s t w true
      | none => s)

/-! ## QPUB -/

/-- QPUB publish (R303, R304). -/
def execQpub (o : Opnd) (s : State) : Result :=
  issue s o do
    let x ← srcG s.cur o.b o.feB
    dstG s.cur o.d
    let qa : BitVec 4 := o.a.setWidth 4
    let qc : BitVec 4 := o.c.setWidth 4
    let c : SlotId := ⟨x.extractLsb' 0 8, x.getLsbD 8⟩
    if (coreKind c.core).isNone then raise 0x0D
    else if recNctr s.cur.record ≤ o.a.toNat then raise 0x0B
    else
      let refuse (n : Word) : Res State := return finishG s o o.d n
      match slotOf s c with
      | none => refuse 1
      | some t =>
        match t.item with
        | none => refuse 1
        | some i =>
          let src := s.cur.q[qa.toNat]
          let tgt := t.q[qc.toNat]
          if t.tenant ≠ s.cur.tenant ∨ t.context ≠ s.cur.context then refuse 2
          else if src.bindings.length ≥ 4 then refuse 3
          else if recNctr t.record ≤ qc.toNat ∨ tgt.boundBy.isSome ∨ tgt.issued ≠ 0 then refuse 4
          else
            let b : Binding :=
              { target := c, queue := i.queue, ordinal := i.ordinal, index := i.index, q := qc, scope := o.lvl,
                sent := BitVec.allOnes 64 }
            let s := modSlot s c (fun t =>
              { t with q := t.q.set qc.toNat { tgt with boundBy := some (s.cur.id, itemKey s.cur), scope := o.lvl } })
            let add (x : Counter) : Counter := { x with bindings := x.bindings ++ [b] }
            let s := onCur s (fun t => { t with q := t.q.set qa.toNat (add t.q[qa.toNat]) })
            return finishG s o o.d 0

/-- The slot that holds the item of a binding, if it is resident. -/
def bindingSlot (s : State) (b : Binding) : Option Slot :=
  (allSlots s).find? (fun t => t.item.isSome && decide (itemKey t = (b.queue.toNat, b.ordinal, b.index)))

/-- Whether a binding's target is named by a slot: the one that holds the item now, or, while the item is saved, the one
that held it at the publish (R304). -/
def boundTo (s : State) (c : SlotId) (q : BitVec 4) (b : Binding) : Bool :=
  b.q = q && (match bindingSlot s b with | some t => t.id = c | none => b.target = c)

/-- QPUB.OFF (R304): status 1 for a binding that does not exist. -/
def execQpubOff (o : Opnd) (s : State) : Result :=
  issue s o do
    let x ← srcG s.cur o.b o.feB
    dstG s.cur o.d
    let qa : BitVec 4 := o.a.setWidth 4
    let qc : BitVec 4 := o.c.setWidth 4
    let c : SlotId := ⟨x.extractLsb' 0 8, x.getLsbD 8⟩
    if (coreKind c.core).isNone then raise 0x0D
    else if recNctr s.cur.record ≤ o.a.toNat then raise 0x0B
    else
      match s.cur.q[qa.toNat].bindings.find? (boundTo s c qc) with
      | none => return finishG s o o.d 1
      | some b =>
        let drop (x : Counter) : Counter := { x with bindings := x.bindings.filter (fun y => y ≠ b) }
        let s := onCur s (fun t => { t with q := t.q.set qa.toNat (drop t.q[qa.toNat]) })
        let s := mapItems s (fun t =>
          if t.item.isSome ∧ itemKey t = (b.queue.toNat, b.ordinal, b.index) then
            { t with q := t.q.set qc.toNat { t.q[qc.toNat] with boundBy := none } } else t)
        return finishG s o o.d 0

/-- Whether a binding has a value to forward now: the target is resident (R304), and in deterministic mode the writes that
the release of the forward covers are performed (R193, R305). -/
def forwardDue (s : State) (t : Slot) (x : Counter) (b : Binding) : Bool :=
  b.sent ≠ x.value && (bindingSlot s b).isSome && !(isDet t && engineWrites s t)

/-- One forward of counter `q` of a slot to one target (R304, R305). -/
def forwardTo (s : State) (t : Slot) (q : BitVec 4) (b : Binding) : State :=
  let x := t.q[q.toNat]
  match bindingSlot s b with
  | none => s
  | some y =>
    match releaseCount t with
    | .error _ =>
      takeFault s (waitSite t) { code := 0x20 } (t.ctl.pc - word (recCodeva t.record))
    | .ok t' =>
      let take (z : Counter) : Counter :=
        { z with
          value := x.value, scope := b.scope, carriedRc := t'.det.rc, firstWrite := x.firstWrite,
          boundBy := some (t.id, itemKey t) }
      let sent (z : Counter) : Counter :=
        { z with bindings := z.bindings.map (fun y => if y = b then { y with sent := x.value } else y) }
      let s := modSlot s y.id (fun y => { y with q := y.q.set b.q.toNat (take y.q[b.q.toNat]) })
      modSlot s t.id (fun u => { u with det := t'.det, q := u.q.set q.toNat (sent u.q[q.toNat]) })

/-- QPUB_FORWARD (R304): the value of a source counter reaches its targets. -/
def execQpubForward (c : SlotId) (q : BitVec 4) (s : State) : Result :=
  event s (match slotOf s c with
    | none => s
    | some t =>
      match (t.q[q.toNat].bindings.filter (fun b => forwardDue s t t.q[q.toNat] b)) with
      | b :: _ => forwardTo s t q b
      | [] => s)

/-! ## Barrier objects -/

/-- The deterministic phase after one more barrier phase (R189): values whose low 6 bits are 0 are skipped. -/
def nextPhase (n : Nat) : Nat := if (n + 1) % 64 = 0 then n + 2 else n + 1

/-- Zeros written over the metadata spill area (R191). -/
def zeroSpill (s : State) (l : Launch) : State :=
  match l.pins.find? (fun p => p.va = recMspill l.record) with
  | some p => clearMem s p.pa (p.pa + 2048 * recDwlen l.record)
  | none => s

/-- The det bit cleared on the resident lines that a test names (R190, R191). -/
def clearDet (s : State) (hit : Nat → BitVec 32 → Bool) : State :=
  { s with
    detWords := s.detWords.filter (fun p => !hit p.1 (lineWord s p.1))
    lines := (s.lines.map (fun p => if hit p.1 p.2 then (p.1, p.2 &&& ~~~2#32) else p)).filter (fun p => p.2 ≠ 0) }

/-- The det bit cleared on every resident line of a launch's window (R191). -/
def clearWindow (s : State) (l : Launch) : State :=
  match windowLines l with
  | some (lo, hi) => clearDet s (fun n _ => lo ≤ n && n < hi)
  | none => s

/-- The det bit cleared on every resident line whose dlaunch is an index (R190). -/
def clearIndex (s : State) (idx : Nat) : State := clearDet s (fun _ w => (w.extractLsb' 12 4).toNat = idx)

/-- The phase change of a deterministic launch (R189, R191, R193), which every slot of it sees, and so does
a saved item of it. DESIGN CHOICE (log 96): the pairs that are still pending go with the table. -/
def phaseChange (s : State) (q : BitVec 6) (l : Launch) : State :=
  let n := nextPhase l.phase
  let wipe := n % 64 = 1 || n % 64 = 32
  let s := if wipe then clearWindow (zeroSpill s l) l else s
  let s := modLaunch s q l.ordinal (fun l => { l with phase := n, kvWords := if wipe then [] else l.kvWords })
  mapItems s (fun t =>
    if slotRuns t q l.ordinal then
      { t with phase := n, det := {}, owners := [], conflict := if wipe then [] else t.conflict }
    else t)

/-- The deterministic launches whose epoch barrier is an object (R189). -/
def epochLaunches (s : State) (addr : Nat) : List (BitVec 6 × Launch) :=
  s.queues.flatMap (fun p => (p.2.launches.filter (fun l =>
    recDet l.record && recEbar l.record ≠ 0 &&
      (match walkPlace s (recTenant l.record) (recContext l.record) (recEbar l.record) with
       | .leaf f _ => leafPa f (recEbar l.record) = addr
       | _ => false))).map (fun l => (BitVec.ofNat 6 p.1, l)))

/-- One update of a barrier object at its home (R221, R222): the state and the phase before it, or the fault. -/
def barrierUpdate (s : State) (addr : Nat) (arrival : Bool) (delta : Int) : Except (BitVec 8) (State × BitVec 32) :=
  let v := memNat s addr 16
  let phase := v / 2 ^ 96
  let expect := v / 2 ^ 80 % 2 ^ 16
  let arrive := v / 2 ^ 64 % 2 ^ 16
  let txn := readInt true 32 (v / 2 ^ 32) + delta
  let scope := v / 16 % 8
  if v / 2 ^ 7 % 2 ^ 25 ≠ 0 ∨ v % 16 ≠ 0 ∨ expect = 0 ∨ 6 ≤ scope then .error 0x11
  else if (arrival ∧ arrive = 0) ∨ txn < intMin true 32 ∨ intMax true 32 < txn then .error 0x12
  else
    let arrive := if arrival then arrive - 1 else arrive
    let done := arrive = 0 ∧ txn = 0
    let new (phase arrive : Nat) : Nat :=
      phase % 2 ^ 32 * 2 ^ 96 + expect * 2 ^ 80 + arrive * 2 ^ 64 + toBits 32 txn * 2 ^ 32 + scope * 16
    if done then
      let s := (homeWrite s addr (bytesOf 16 (new (phase + 1) expect))).1
      let s := (epochLaunches s addr).foldl (fun s p => phaseChange s p.1 p.2) s
      .ok (mapItems s (fun t =>
        { t with wait := t.wait.map (fun w =>
            if w.phases.any (fun p => p.1 = addr) then { w with signalled := true } else w) }), BitVec.ofNat 32 phase)
    else .ok ((homeWrite s addr (bytesOf 16 (new phase arrive))).1, BitVec.ofNat 32 phase)

/-- The object of BARARR and BAREXP (R306): a handle reference without an index, on a page with Rd, W and A. -/
def barrierPlace (s : State) (o : Opnd) : Res (Nat × Word) := do
  let r ← refSources s.cur o false
  let p ← resolve s o r 16 16 permRwa
  match p with
  | .mem pa reg => return (pa, reg)
  | .bank .. => raise 0x04

/-- BARARR (R185, R221, R306): holds the stream until the home has performed the update. -/
def execBararr (o : Opnd) (s : State) : Result :=
  issue s o do
    let p ← barrierPlace s o
    dstG s.cur o.d
    performed s
    needReleased s (dieOf s.cur.id.core) [p.1 / 128]
    if !admitMem s s.cur p.1 rightAtomic false then raise 0x25 p.2
    else if poisoned s p.1 16 then raise 0x2F
    else match barrierUpdate s p.1 true 0 with
      | .error c => raise c
      | .ok (s', phase) => return finishG s' o o.d (zx phase)

/-- Whether an update comes from a source of a slot's item (R68): its load and store queues, or the engine context of a
counter. -/
def sameSource (u : BarrierUpdate) (me : OpRef) (source : BitVec 3) (q : BitVec 4) : Bool :=
  sameItem u.issuer me && ((u.source = 0 && source = 0) || (u.source ≠ 0 && source ≠ 0 && u.q = q))

/-- The number of a source among the request sources (R68, R76): a slot's own queues, or an engine context of it; 0 is the
intake engine. -/
def sourceKey (c : SlotId) (source : BitVec 3) (q : BitVec 4) : Nat :=
  1 + 32 * (slotCode c).toNat + (if source = 0 then 0 else 1 + q.toNat)

/-- The updates of a source that are outstanding. -/
def sourceUpdates (s : State) (u : BarrierUpdate) : List BarrierUpdate :=
  s.barriers.filter (fun x => sameSource x u.issuer u.source u.q)

/-- An update of a barrier object sent to its home: numbered, with its predecessor on the line (R76). -/
def sendUpdate (s : State) (u : BarrierUpdate) : State :=
  let key := sourceKey u.issuer.slot u.source u.q
  let num := sget 0 s.sourceNums key
  let pred := (((sourceUpdates s u).filter (fun x => x.addr / 128 = u.addr / 128)).getLast?).map (fun x => x.order.num)
  { s with
    sourceNums := sset 0 s.sourceNums key (num + 1)
    barriers := s.barriers ++ [{ u with sent := s.cycle, order := { num, pred } }] }

/-- BAREXP (R221, R306): the update is sent, and the stream goes on; a source keeps at most 64 requests outstanding
(R76). -/
def execBarexp (o : Opnd) (s : State) : Result :=
  issue s o do
    let x ← srcG s.cur o.d o.feD
    let p ← barrierPlace s o
    needReleased s (dieOf s.cur.id.core) [p.1 / 128]
    let u : BarrierUpdate :=
      { issuer := refOf s.cur 0, addr := p.1, delta := (x.extractLsb' 0 32).toInt, source := 0, coff := (ctlSite s o).coff
        len := (ctlSite s o).len, offset := p.2.toNat, tenant := s.cur.tenant, context := s.cur.context }
    if 64 ≤ (sourceUpdates s u).length then .error .hold
    else return advance (sendUpdate s u) o

/-- The operation of an issuer that completes with its update (R222, R244). -/
def updateDone (s : State) (u : BarrierUpdate) : State :=
  match u.completes, refSlot s u.issuer with
  | true, some t => modSlot s t.id (fun t => finishOp t u.issuer.op)
  | _, _ => s

/-- Whether a line belongs to a page of latency class 1 to 3 (R113). -/
def classLine (s : State) (line : Nat) : Bool :=
  s.classPages.any (fun l => l.pbase.toNat * 512 ≤ line && decide (line < l.pbase.toNat * 512 + pageBytes l.size / 128))

/-- The addresses of the requests that the reorder buffer of the slice of an address holds (R77). -/
def heldRequests (s : State) (addr : Nat) : List Nat :=
  (((s.requests.filter (fun x => x.held)).map (fun x => x.addr))
    ++ ((s.barriers.filter (fun x => x.order.held)).map (fun x => x.addr))).filter (fun a => homeTarget s a = homeTarget s addr)

/-- Whether the reorder buffer of an address's slice has an entry for one more request: 32, of which 4 are kept for lines of
class 1 to 3, which are never refused (R77, R114). -/
def reorderRoom (s : State) (addr : Nat) : Bool :=
  let held := heldRequests s addr
  let classed := (held.filter (fun a => classLine s (a / 128))).length
  classLine s (addr / 128) || held.length - classed + max classed 4 < 32

/-- A request arrives behind its predecessor: it waits in the reorder buffer, or is refused and waits for its back-off (R77,
R449, R450). -/
def queueBehind (s : State) (die addr : Nat) (x : Sending) : Sending :=
  if x.held then x
  else if reorderRoom s addr then { x with held := true }
  else { x with refusals := x.refusals + 1, resendAt := some (s.cycle + backoffTime (linkBackoff s die (homeDie addr) 0) x.refusals) }

/-- The update `i` reaches its home (R221, R222) once its predecessor on the line is performed, and not before a refused one
of its source is sent again (R76, R77); a fault is imprecise, at its issuer. -/
def barrierArrive (s : State) (i : Nat) : State :=
  match s.barriers[i]? with
  | none => s
  | some u =>
    let before := (s.barriers.take i).filter (fun x => sameSource x u.issuer u.source u.q)
    if u.order.resendAt.isSome || (!u.order.held && before.any (fun x => x.order.resendAt.isSome))
        || !canArrive s (dieOf u.issuer.slot.core) (u.addr / 128) u.sent then s
    else if before.any (fun x => x.addr / 128 = u.addr / 128) then
      { s with barriers := s.barriers.set i { u with order := queueBehind s (dieOf u.issuer.slot.core) u.addr u.order } }
    else
    let s := { s with barriers := s.barriers.eraseIdx i }
    let fail (c : BitVec 8) : State :=
      match refSlot s u.issuer with
      | some t => takeFault (updateDone s u)
          { slot := t.id, source := u.source, coff := u.coff, len := u.len, q := u.q, opnum := u.opnum }
          { code := c, operand := if c = 0x25 then word u.offset else 0, imprecise := true } 0
      | none => s
    if !admits s (homeTarget s u.addr) u.tenant u.context rightAtomic then fail 0x25
    else match barrierUpdate s u.addr false u.delta with
      | .error c => fail c
      | .ok (s', _) => updateDone s' u

/-- BARRIER_HOME_UPDATE (R221, R222). -/
def execBarrierHomeUpdate (i : Nat) (s : State) : Result := event s (barrierArrive s i)

/-- BARRIER_PHASE_SIGNAL (R301): the WAIT reads the phase again. -/
def execBarrierPhaseSignal (c : SlotId) (s : State) : Result :=
  event s (modSlot s c (fun t =>
    { t with wait := t.wait.map (fun w =>
        if w.signalled then
          { w with
            signalled := false
            phases := w.phases.map (fun p => (p.1, BitVec.ofNat 32 (memNat s (p.1 + 12) 4), p.2.2)) }
        else w) }))

/-! ## GATHER -/

/-- GATHER (R71, R73, R307, R308). -/
def execGather (o : Opnd) (s : State) : Result :=
  issue s o do
    let dst ← srcG s.cur o.d o.feD
    let idx ← srcG s.cur o.b o.feB
    let h ← useHandle s.cur (o.a.setWidth 4) o.feA
    let esize := 2 ^ o.fn.toNat
    let count := o.imm16.toNat
    let d ← localAddr dst 16
    let i ← localAddr idx 4
    let foot := (count * esize + 15) / 16 * 16
    if d < i + 4 * count ∧ i < d + foot then raise 0x04
    else do
      let q ← checkCounter s.cur o.c
      if !ownsRange s.cur d foot then raise 0x08 dst
      else if !ownsRange s.cur i (4 * count) then raise 0x08 idx
      else
        let op : Op := { id := 0, source := 3, coff := (ctlSite s o).coff, work := .gather d i h esize count [] [] [] }
        return advance (onCur s (fun t => pushOp (setGranules t d foot false) (some q) op)) o

/-- The elements of a gather that fall in a destination granule. -/
def gatherElems (esize count g : Nat) : List Nat :=
  (List.range count).filter (fun j => j * esize / 16 = g)

/-- An operation's fault: the operation stops, and the fault is taken by its site (R425, R433). -/
def opFault (s : State) (c : SlotId) (o : Op) (f : FaultInfo) : State :=
  takeFault (modSlot s c (fun t => modOp t o.id (fun o => { o with stopped := true, staged := none }))) (opSite c o) f 0

/-- The indices of a gather read as far as their granules are full (R71, R308): each granule is read once, as a read that
waits, under the engine's code (R195). -/
def gatherIndices (s : State) (t : Slot) (o : Op) (idx : Nat) (index : List Nat) : Nat → Res (State × List Nat)
  | 0 => .ok (s, index)
  | fuel + 1 =>
    let a := idx + 4 * index.length
    if !granuleFull t (a / 16) then .ok (s, index)
    else do
      let s ← if index ≠ [] && a % 16 ≠ 0 then .ok s
        else checkGranules s t.id t.id (engineCode t.id (o.q.getD 0)) (.waiting false) (a / 16 * 16) 16
      let bs ← bankData s t.id a 4
      gatherIndices s t o idx (index ++ [leNat bs]) fuel

/-- The place in its page of gather element `k`, once its index is read. -/
def gatherOffset (index : List Nat) (esize k : Nat) : Option Nat := (index[k]?).map (fun x => x * esize)

/-- The bytes of a gather element that the pass has fetched; an element with a poisoned byte has none (R448). -/
def gatherBytes (s : State) (h : Capture) (esize : Nat) (index : List Nat) (lines : List (Nat × List Byte)) (k : Nat) :
    Option (List Byte) :=
  (gatherOffset index esize k).bind (fun off =>
    let pa := h.base + off
    if h.size < off + esize || poisoned s pa esize then none
    else (lines.find? (fun l => l.1 = pa / 128)).map (fun l => (l.2.drop (pa % 128)).take esize))

/-- The elements of a destination granule that a gather still takes in this pass. -/
def gatherOpen (esize count : Nat) (written : List Nat) (g : Nat) : List Nat :=
  (gatherElems esize count g).filter (fun k => !written.contains k)

/-- The destination granules of a gather that still take elements in this pass and for which every one of them is fetched,
so that a granule is written whole (R171). -/
def gatherGranules (s : State) (h : Capture) (esize count : Nat) (index written : List Nat) (lines : List (Nat × List Byte)) :
    List Nat :=
  (List.range ((count * esize + 15) / 16)).filter (fun g =>
    let mine := gatherOpen esize count written g
    !mine.isEmpty && mine.all (fun k => (gatherBytes s h esize index lines k).isSome))

/-- The next index of a gather that is not read yet is there. -/
def gatherIndexReady (t : Slot) (idx count : Nat) (index : List Nat) : Bool :=
  decide (index.length < count) && granuleFull t ((idx + 4 * index.length) / 16)

/-- The first element of a gather whose index is read and whose bytes are not fetched. -/
def gatherMissing (s : State) (h : Capture) (esize count : Nat) (index written : List Nat) (lines : List (Nat × List Byte)) :
    Option Nat :=
  (List.range (min count index.length)).find? (fun k =>
    !written.contains k && (gatherBytes s h esize index lines k).isNone)

/-- The line of a gather element read at its home (R70). -/
def gatherFetch (s : State) (t : Slot) (h : Capture) (off esize : Nat) : Res (State × Nat × List Byte) := do
  let pa ← checkPage h off esize permRd
  needReleased s (dieOf t.id.core) [pa / 128]
  if !admitMem s t pa rightRead false then raise 0x25 (word off)
  else if poisoned s pa esize then raise 0x2F
  else do
    let s ← checkLines s t .read pa esize
    return (touchLine s (pa / 128) false, pa / 128, readMem s (pa / 128 * 128) 128)

/-- A fault of a gather at an element. -/
def gatherFault {α : Type} (k : Nat) (r : Res α) : Res α :=
  match r with
  | .error (.fault f) => .error (.fault { f with elem := BitVec.ofNat 32 k })
  | r => r

/-- The destination granules of a gather written, with zero pad bytes, and made full (R71). -/
def gatherWrite (s : State) (t : Slot) (o : Op) (dst idx : Nat) (h : Capture) (esize count : Nat)
    (index written : List Nat) (lines : List (Nat × List Byte)) (gs : List Nat) : Res State := do
  let s ← if isDet t then
      gs.foldlM (fun s g =>
        checkGranule s t.id t.id (engineCode t.id (o.q.getD 0)) (.write t.det.rc) (dst / 16 + g)) s
    else .ok s
  let done := gs.flatMap (gatherOpen esize count written)
  return modSlot s t.id (fun t =>
    let t := done.foldl (fun t k =>
      bankWrite t (dst + k * esize) ((gatherBytes s h esize index lines k).getD [])) t
    let t := gs.foldl (fun t g =>
      let used := count * esize - 16 * g
      let t := if used < 16 then bankWrite t (dst + 16 * g + used) (List.replicate (16 - used) 0) else t
      setGranule t (dst / 16 + g) true) t
    modOp t o.id (fun o => { o with work := .gather dst idx h esize count index (written ++ done) lines }))

/-- The next step of a gather (R70 to R73, R308). `reads` says that the step reads indices, which comes after the engine
writes of the cc (R46). Else the destination granules whose elements are all fetched are written; when there is none, the
line of the first element that is not there is fetched. With every element written the operation has nothing left to
perform. -/
def gatherStep (s : State) (t : Slot) (o : Op) (dst idx : Nat) (h : Capture) (esize count : Nat)
    (index written : List Nat) (lines : List (Nat × List Byte)) (reads : Bool) : Res State :=
  let keep (w : Work) (s : State) : State := modSlot s t.id (fun t => modOp t o.id (fun o => { o with work := w }))
  if written.length = count then (if reads then .error .hold else .ok (keep .none s))
  else if reads then
    if !gatherIndexReady t idx count index then .error .hold
    else (gatherFault index.length (gatherIndices s t o idx index (count - index.length))).map (fun r =>
      keep (.gather dst idx h esize count r.2 written lines) r.1)
  else match gatherGranules s h esize count index written lines with
  | [] =>
    (match gatherMissing s h esize count index written lines with
     | none => .error .hold
     | some j =>
       (gatherFault j (gatherFetch s t h (index.getD j 0 * esize) esize)).map (fun r =>
         keep (.gather dst idx h esize count index written (lines ++ [(r.2.1, r.2.2)])) r.1))
  | gs => gatherWrite s t o dst idx h esize count index written lines gs

/-- A gather begins again from index 0 when its operation resumes (R72): it skips the elements of granules that are full
and rewrites the others in full. -/
def restartGather (t : Slot) (o : Op) : Op :=
  match o.work with
  | .gather dst idx h esize count _ _ _ =>
    let kept := (List.range count).filter (fun j => granuleFull t ((dst + j * esize) / 16))
    { o with work := .gather dst idx h esize count [] kept [] }
  | _ => o

/-! ## Cache control -/

/-- The lines of CINV, CWB and PREF (R309): from the line of the target, clipped at the end of the page. Bounds and
permission apply to the first byte. A scratchpad base does not decode. -/
def cacheLines (s : State) (o : Opnd) (perm : BitVec 4) : Res (List Nat) := do
  let r ← refSources s.cur o
  let ref ← refTarget s.cur o r
  match ref with
  | .bank .. => .error (.fault { code := 0x01, sub := 7 })
  | .page h off => do
    let pa ← checkPage h off 1 perm
    let last := (h.base + h.size) / 128
    return (List.range (min (o.d.toNat + 1) (last - pa / 128))).map (fun i => pa / 128 + i)

/-- CINV (R310). -/
def execCinv (o : Opnd) (s : State) : Result :=
  issue s o do
    let ls ← cacheLines s o permRd
    return advance (l1Drop s s.cur.id.core (ls.headD 0) (ls.headD 0 + ls.length)) o

/-- CWB (R310): dirty lines become clean; a line whose home refuses the request stays as it is (log 15). -/
def execCwb (o : Opnd) (s : State) : Result :=
  issue s o do
    let ls ← cacheLines s o permW
    needReleased s (dieOf s.cur.id.core) ls
    return advance (ls.foldl (fun s' l =>
      if admitMem s s.cur (128 * l) rightWrite false then setLine s' l (lineWord s' l &&& ~~~4#32) else s') s) o

/-- PREF (R310): fills of the L1, none in deterministic mode, or of the home slice. -/
def execPref (o : Opnd) (s : State) : Result :=
  issue s o do
    let ls ← cacheLines s o permRd
    needReleased s (dieOf s.cur.id.core) ls
    return advance (ls.foldl (fun s' l =>
      if !admitMem s s.cur (128 * l) rightRead false then s'
      else if o.lvl = 2 then touchLine s' l false
      else if isDet s.cur then s'
      else (l1Read s' s.cur l).1) s) o

end Sys2Proof.Machine
end

