-- ==== Sys2Proof/Machine/Kv.lean ====
section
/-! DEFINITION. The KV store of an attention die: key domains, blocks, sequences, the prefix index, and the effect of
each KV operation on them (R128 to R158, R484, R486, R489). -/

namespace Sys2Proof.Machine

/-! ## Key domains -/

def setDie (s : State) (die : Fin 2) (d : KvDie) : State := { s with kv := s.kv.set die d }

/-- The attention die of a key domain handle (R128). -/
def kdhDie (kdh : BitVec 32) : Fin 2 := if kdh.getLsbD 31 then 1 else 0

def keyOf (s : State) (kdh : BitVec 32) : KeySlot := sget {} (s.kv[kdhDie kdh]).keys (kdh.extractLsb' 0 16).toNat

def setKey (s : State) (kdh : BitVec 32) (k : KeySlot) : State :=
  let d := s.kv[kdhDie kdh]
  setDie s (kdhDie kdh) { d with keys := sset {} d.keys (kdh.extractLsb' 0 16).toNat k }

/-- The key slots of a die that are not FREE. -/
def usedKeys (d : KvDie) : List Nat := (d.keys.filter (fun p => p.1 ≠ 0 && p.2.state != .free)).map (fun p => p.1)

/-- Key slots that are FREE (R129). -/
def freeKeys (d : KvDie) : Nat := 65535 - (usedKeys d).length

/-- The lowest number from `n` on that rising numbers skip. -/
def lowestFree (n : Nat) : List Nat → Nat
  | [] => n
  | x :: xs => if x = n then lowestFree (n + 1) xs else n

/-- A new domain (R130): the lowest FREE slot, fresh keys, one holder; none when no slot is FREE. -/
def newDomain (s : State) (die : Fin 2) : Option (State × BitVec 32) :=
  let d := s.kv[die]
  let n := lowestFree 1 (usedKeys d)
  if 65535 < n then none
  else
    let old := sget {} d.keys n
    let e := Config.entropy s.draws
    let kdh : BitVec 32 := BitVec.ofBool (die = 1) ++ old.gen ++ BitVec.ofNat 16 n
    some (setKey { s with draws := s.draws + 1 } kdh
      { k1 := e.extractLsb' 0 256, k2 := e.extractLsb' 256 256, gen := old.gen, holders := 1, state := .priv }, kdh)

/-- `n` holders more of a live domain. -/
def addHolders (s : State) (kdh : BitVec 32) (n : Nat) : State :=
  let k := keyOf s kdh
  setKey s kdh { k with holders := k.holders + n }

def shareDomain (s : State) (kdh : BitVec 32) : State := setKey s kdh { keyOf s kdh with state := .shared }

/-! ## Blocks -/

def blockOf (d : KvDie) (pbid : Nat) : Block := sget {} d.blocks pbid

def putBlock (s : State) (die : Fin 2) (pbid : Nat) (b : Block) : State :=
  let d := s.kv[die]
  setDie s die { d with blocks := sset {} d.blocks pbid b }

/-- The positions of a block (R141). -/
def blockSpan (sealed_ : Bool) : Nat := if sealed_ then 256 else 16

/-- The bytes that a block occupies (R143). -/
def blockBytes (sealed_ : Bool) (stride : Nat) : Nat := blockSpan sealed_ * stride * 32

/-- The slot of block position `i` (R145): the survivors below it. -/
def packedSlot (b : Block) (i : Nat) : Nat :=
  (List.range i).foldl (fun n j => if b.bitmap.getLsbD j then n + 1 else n) 0

/-- A package physical address of an attention die's LPDDR-5X (R21): side 1, the die, region 0, and an offset. -/
def dieMemory (die : Fin 2) (offset : Nat) : Nat := 2 ^ 45 + die.val * 2 ^ 44 + offset % 2 ^ 38

/-- Whether an address lies in an attention die's LPDDR-5X. -/
def isDieMemory (die : Fin 2) (a : Nat) : Bool := a / 2 ^ 38 = dieMemory die 0 / 2 ^ 38

/-- The place of a new block of some bytes in its die's LPDDR-5X: a free multiple of 512 bytes (log 17). -/
def blockPlace (die : Fin 2) (n : Nat) (epoch : BitVec 16) (size : Nat) : BitVec 64 :=
  word (dieMemory die (512 * ((Config.blockPlace die n epoch).toNat % ((2 ^ 38 - size) / 512 + 1))))

/-- A new block with one reference (R143): the lowest free ID; none when the pool or the storage is exhausted. Its place
in the die's storage is free (log 17). -/
def newBlock (s : State) (die : Fin 2) (sealed_ : Bool) (kdh : BitVec 32) (tenant : BitVec 16) (stride : Nat) :
    Option (State × Nat) :=
  let d := s.kv[die]
  let n := lowestFree 1 ((d.blocks.filter (fun p => p.1 ≠ 0 && p.2.refs ≠ 0)).map (fun p => p.1))
  if 2 ^ 26 ≤ n ∨ d.pool < blockBytes sealed_ stride then none
  else
    let old := blockOf d n
    let b : Block :=
      { refs := 1, kdh := kdh, tenant := tenant, epoch := old.epoch, loc := blockPlace die n old.epoch (blockBytes sealed_ stride)
        stride := stride, tier := 1, sealed_ := sealed_, data := old.data }
    let s := putBlock s die n b
    let d := s.kv[die]
    some (setDie s die { d with pool := d.pool - blockBytes sealed_ stride }, n)

/-- Whether a block takes bytes of its die's LPDDR-5X: it lies there, or moves there (R163, R164). -/
def inDieMemory (b : Block) : Bool := b.tier = 1 || (b.moving && b.target.1 = 1)

/-- One reference fewer; at 0 the block is freed (R146). -/
def releaseBlock (s : State) (die : Fin 2) (pbid : Nat) : State :=
  let b := blockOf s.kv[die] pbid
  if b.refs ≤ 1 then
    let s := putBlock s die pbid { b with refs := 0, epoch := b.epoch + 1, moving := false }
    let d := s.kv[die]
    setDie s die { d with pool := d.pool + if inDieMemory b then blockBytes b.sealed_ b.stride else 0 }
  else putBlock s die pbid { b with refs := b.refs - 1 }

def addRefs (s : State) (die : Fin 2) (pbid n : Nat) : State :=
  let b := blockOf s.kv[die] pbid
  putBlock s die pbid { b with refs := b.refs + n }

/-- `n` plaintext bytes of a block from an offset (R136, R137): whole 512-byte units are decrypted. -/
def blockRead (s : State) (die : Fin 2) (pbid off n : Nat) : List Byte :=
  let b := blockOf s.kv[die] pbid
  let k := keyOf s b.kdh
  let u := off / 512
  let last := (off + n + 511) / 512
  let bs := xtsUnits false k.k1 k.k2 b.kdh (word pbid) u (sgetRange 0 b.data (512 * u) (512 * (last - u)))
  (bs.drop (off - 512 * u)).take n

/-- The poison of `n` bytes from `src` on as it lies after they are moved to `dst`, both multiples of 16 (R447). -/
def movedPoison (m : Sparse Bool) (src dst n : Nat) : Sparse Bool :=
  (m.filter (fun p => src / 16 ≤ p.1 && p.1 < (src + n) / 16)).map (fun p => (p.1 - src / 16 + dst / 16, p.2))

/-- Plaintext bytes stored in a block: the units that they touch are decrypted, merged and encrypted again (R137). -/
def blockWrite (s : State) (die : Fin 2) (pbid off : Nat) (new : List Byte) : State :=
  let b := blockOf s.kv[die] pbid
  let k := keyOf s b.kdh
  let u := off / 512
  let last := (off + new.length + 511) / 512
  let old := xtsUnits false k.k1 k.k2 b.kdh (word pbid) u (sgetRange 0 b.data (512 * u) (512 * (last - u)))
  let bs := xtsUnits true k.k1 k.k2 b.kdh (word pbid) u (patch old (off - 512 * u) new)
  putBlock s die pbid { b with data := ssetRange 0 b.data (512 * u) bs, poison := curePoison b.poison off new.length }

/-- The plaintext of a block's survivors, in slot order. -/
def survivors (s : State) (die : Fin 2) (pbid : Nat) : List Byte :=
  let b := blockOf s.kv[die] pbid
  blockRead s die pbid 0 (popCount b.bitmap * b.stride * 32)

/-- A copy of a block under another domain, with fill and bitmap (R150, CopyOnWrite without the release). -/
def copyBlock (s : State) (die : Fin 2) (pbid : Nat) (kdh : BitVec 32) (tenant : BitVec 16) : Option (State × Nat) :=
  let b := blockOf s.kv[die] pbid
  let bs := survivors s die pbid
  (newBlock s die b.sealed_ kdh tenant b.stride).map (fun r =>
    let x := blockOf r.1.kv[die] r.2
    let s := putBlock r.1 die r.2 { x with fill := b.fill, bitmap := b.bitmap }
    let s := if bs.isEmpty then s else blockWrite s die r.2 0 bs
    (putBlock s die r.2 { blockOf s.kv[die] r.2 with poison := movedPoison b.poison 0 0 bs.length }, r.2))

/-- A token written at block position `i` (R145, R150). -/
def writeToken (s : State) (die : Fin 2) (pbid i : Nat) (token : List Byte) : State :=
  let b := blockOf s.kv[die] pbid
  let s := blockWrite s die pbid (popCount b.bitmap * b.stride * 32) token
  let b := blockOf s.kv[die] pbid
  putBlock s die pbid { b with bitmap := b.bitmap ||| (1#256 <<< i), fill := i + 1 }

/-! ## Sequences -/

def seqOf (d : KvDie) (id : BitVec 24) : Option Sequence := d.seqs.find? (fun x => x.id = id)

def putSeq (s : State) (die : Fin 2) (x : Sequence) : State :=
  let d := s.kv[die]
  setDie s die { d with seqs := d.seqs.map (fun y => if y.id = x.id then x else y) }

/-- The home attention die of a sequence (R138). -/
def seqDie (id : BitVec 24) : Fin 2 := if id.getLsbD 0 then 1 else 0

/-- The home KV slice of a sequence (R138). -/
def seqSlice (id : BitVec 24) : BitVec 4 := id.extractLsb' 1 4

def capacityOf (x : Sequence) : Nat := (x.spans.toNat + 1) * 256

/-- A new sequence's structures at their places (R139). -/
def placeSeq (s : State) (die : Fin 2) (x : Sequence) : Sequence :=
  let at_ (n : Nat) : BitVec 40 :=
    BitVec.ofNat 40 (dieMemory die (256 * (Config.seqPlace die x.id s.cycle n).toNat) / 256)
  { x with dir := at_ 0, shadowAt := at_ 1, domsAt := at_ 2 }

/-- The descriptor of an open sequence as firmware reads it (R139). -/
def descriptor (x : Sequence) : BitVec 512 :=
  0#48 ++ x.context ++ x.tenant ++ x.kdh ++ x.dir ++ x.shadowAt ++ x.domsAt ++ BitVec.ofNat 13 x.doms.length ++ 0#206
    ++ x.spans ++ BitVec.ofNat 7 x.drafts ++ BitVec.ofNat 27 x.length ++ BitVec.ofNat 8 x.stride ++ 1#1

/-- A block-table entry as firmware reads it (R142): the slice writes no reserved size and no must-be-zero bit. -/
def entryWord (e : BlockEntry) (shadow : Bool) : BitVec 128 :=
  e.kdh ++ 0#58 ++ e.pbid ++ 0#8 ++ BitVec.ofNat 2 e.sealed_.toNat ++ BitVec.ofBool shadow ++ 1#1

/-- A page-table entry as firmware reads it (R144). -/
def pageWord (b : Block) : BitVec 512 :=
  b.bitmap ++ BitVec.ofNat 32 b.refs ++ b.kdh ++ b.tenant ++ b.epoch ++ b.loc ++ 0#16 ++ BitVec.ofNat 8 b.stride
    ++ BitVec.ofNat 9 b.fill ++ b.tier ++ BitVec.ofBool b.sealed_ ++ BitVec.ofBool b.moving ++ 0#58

/-- An entry of a table keyed by number. -/
def entryAt (es : List (Nat × BlockEntry)) (k : Nat) : Option BlockEntry :=
  (es.find? (fun p => p.1 = k)).map (fun p => p.2)

def putEntry (es : List (Nat × BlockEntry)) (k : Nat) (e : BlockEntry) : List (Nat × BlockEntry) :=
  (k, e) :: es.filter (fun p => p.1 ≠ k)

/-- The block-table entry that covers a position, with its key and the position within the block (R141, R147). -/
def entryFor (x : Sequence) (p : Nat) : Nat × Nat × Option BlockEntry :=
  let k0 := 16 * (p / 256)
  match entryAt x.entries k0 with
  | some e =>
    if e.sealed_ then (k0, p % 256, some e)
    else (p / 16, p % 16, entryAt x.entries (p / 16))
  | none => (p / 16, p % 16, entryAt x.entries (p / 16))

/-- A locator (R148). -/
def locator (epoch : BitVec 16) (slot pbid : Nat) : Word :=
  word (2 ^ 63 + epoch.toNat * 2 ^ 42 + slot * 2 ^ 34 + pbid)

/-- The locator of block position `i`, or 0 for an evicted one. -/
def locate (d : KvDie) (e : BlockEntry) (i : Nat) : Word :=
  let b := blockOf d e.pbid.toNat
  if b.bitmap.getLsbD i then locator b.epoch (packedSlot b i) e.pbid.toNat else 0

/-- The mapping of a position, live or through the shadow view (R147, R155); 0 is absent. -/
def mapPosition (d : KvDie) (x : Sequence) (shadow : Bool) (p : Nat) : Word :=
  if 2 ^ 26 ≤ p then 0
  else if p < x.length then
    match entryFor x p with
    | (_, i, some e) => locate d e i
    | _ => 0
  else if shadow && decide (p < x.length + x.drafts) then
    match entryAt x.shadow (p / 16 - x.length / 16) with
    | some e => locate d e (p % 16)
    | none => 0
  else 0

/-- The lowest free sequence ID of a die, skipping 0 (R138). -/
def newSeqId (d : KvDie) (die : Fin 2) : Option (BitVec 24) :=
  let first := if die = 1 then 0 else 1
  (List.range (d.seqs.length + 1)).findSome? (fun i =>
    let n := 2 * (first + i) + (if die = 1 then 1 else 0)
    if n < 2 ^ 24 ∧ !d.seqs.any (fun x => x.id.toNat = n) then some (BitVec.ofNat 24 n) else none)

/-- Free sequence IDs of a die. -/
def freeIds (d : KvDie) (die : Fin 2) : Nat := 2 ^ 23 - (if die = 1 then 0 else 1) - d.seqs.length

/-! ## Operations -/

/-- A KV status (R162). -/
abbrev kvOk : Nat := 0
abbrev kvHit : Nat := 1
abbrev kvLost : Nat := 2
abbrev kvRefused : Nat := 3
abbrev kvDead : Nat := 4
abbrev kvNoKey : Nat := 5
abbrev kvLimit : Nat := 6
abbrev kvNoSeq : Nat := 7
abbrev kvRange : Nat := 8
abbrev kvNoBlock : Nat := 9
abbrev kvBusy : Nat := 10
abbrev kvNotFull : Nat := 11
abbrev kvMiss : Nat := 14

/-- What a performed operation answers (R394): status, length, ID, handle, aux, the children's IDs and handles, and the
locators. -/
structure KvDone where
  st : State
  status : Nat := 0
  length : Nat := 0
  seq : BitVec 24 := 0
  kdh : BitVec 32 := 0
  aux : Nat := 0
  children : List (BitVec 24 × BitVec 32) := []
  locs : List Word := []

/-- An operation completes with a status and changes nothing, or is performed. -/
abbrev Kv := Except Nat KvDone

/-- KVOPEN (R153, R395). -/
def kvOpen (s : State) (die : Fin 2) (tenant context : BitVec 16) (w : Word) : Kv :=
  if bits w 63 26 ≠ 0 then .error kvRange
  else match newSeqId s.kv[die] die with
  | none => .error kvNoSeq
  | some id =>
    match newDomain s die with
    | none => .error kvNoKey
    | some (s, kdh) =>
      let d := s.kv[die]
      let x : Sequence :=
        { id := id, tenant := tenant, context := context, kdh := kdh, doms := [kdh], spans := w.extractLsb' 7 18
          stride := bits w 6 0 + 1 }
      .ok { st := setDie s die { d with seqs := d.seqs ++ [placeSeq s die x] }, seq := id, kdh := kdh }

/-- KVCLOSE (R154, R486): the blocks and the domains that others hold are released now, and the domains that no one holds any
more are left to be destroyed, one in each cc, in ascending slot order. -/
def kvClose (s : State) (die : Fin 2) (x : Sequence) : Kv :=
  let s := (x.entries ++ x.shadow).foldl (fun s e => releaseBlock s die e.2.pbid.toNat) s
  let last (k : BitVec 32) : Bool := (keyOf s k).holders ≤ 1
  let ends := (x.doms.filter last).mergeSort (fun a b => (a.extractLsb' 0 16).toNat ≤ (b.extractLsb' 0 16).toNat)
  let s := (x.doms.filter (fun k => !last k)).foldl releaseDomain s
  let d := s.kv[die]
  .ok { st := setDie s die { d with seqs := d.seqs.filter (fun y => y.id ≠ x.id), closing := d.closing ++ ends } }

/-- How often the tables of a sequence name a block. -/
def timesNamed (x : Sequence) (pbid : BitVec 26) : Nat := (x.entries.filter (fun e => e.2.pbid = pbid)).length

/-- The children of a fork, one after another (R484): each takes the lowest free ID, then a new domain. -/
def forkChildren (s : State) (die : Fin 2) (base : Sequence) (tenant context : BitVec 16) :
    Nat → Option (State × List (BitVec 24 × BitVec 32))
  | 0 => some (s, [])
  | n + 1 =>
    match newSeqId s.kv[die] die, newDomain s die with
    | some id, some (s, kdh) =>
      let d := s.kv[die]
      let x := { base with id := id, tenant := tenant, context := context, kdh := kdh, doms := base.doms ++ [kdh] }
      (forkChildren (setDie s die { d with seqs := d.seqs ++ [placeSeq s die x] }) die base tenant context n).map
        (fun r => (r.1, (id, kdh) :: r.2))
    | _, _ => none

/-- KVFORK (R153, R484). -/
def kvFork (s : State) (die : Fin 2) (x : Sequence) (tenant context : BitVec 16) (n : Nat) : Kv :=
  let d := s.kv[die]
  if x.drafts ≠ 0 then .error kvBusy
  else if freeIds d die < n then .error kvNoSeq
  else if freeKeys d < n + 1 then .error kvNoKey
  else if 4096 < x.doms.length + 1
      || x.entries.any (fun e => 2 ^ 32 ≤ (blockOf d e.2.pbid.toNat).refs + n * timesNamed x e.2.pbid)
      || x.doms.any (fun k => 2 ^ 32 ≤ (keyOf s k).holders + n) then .error kvLimit
  else
    let s := x.entries.foldl (fun s e => addRefs s die e.2.pbid.toNat n) s
    let s := x.doms.foldl (fun s k => addHolders s k n) s
    let s := shareDomain s x.kdh
    match newDomain s die with
    | none => .error kvNoKey
    | some (s, kdh) =>
      let s := putSeq s die { x with kdh := kdh, doms := x.doms ++ [kdh] }
      match forkChildren s die x tenant context n with
      | none => .error kvNoSeq
      | some (s, cs) => .ok { st := s, length := x.length, kdh := kdh, children := cs }

/-- The block that the next token at a TAIL position goes to (R150): a new one, a copy of a shared one, or its own. -/
def writableTail (s : State) (die : Fin 2) (x : Sequence) (e : Option BlockEntry) : Option (State × BlockEntry) :=
  match e with
  | none => (newBlock s die false x.kdh x.tenant x.stride).map (fun r =>
      (r.1, { kdh := x.kdh, pbid := BitVec.ofNat 26 r.2, sealed_ := false }))
  | some e =>
    let b := blockOf s.kv[die] e.pbid.toNat
    if b.refs > 1 ∨ e.kdh ≠ x.kdh then
      (copyBlock s die e.pbid.toNat x.kdh x.tenant).map (fun r =>
        (releaseBlock r.1 die e.pbid.toNat, { e with kdh := x.kdh, pbid := BitVec.ofNat 26 r.2 }))
    else some (s, e)

/-- KVAPPEND (R150, R395). -/
def kvAppend (s : State) (die : Fin 2) (x : Sequence) (stride : Nat) (token : List Byte) : Kv :=
  if stride ≠ x.stride then .error kvRange
  else if x.drafts > 0 then .error kvBusy
  else if capacityOf x ≤ x.length then .error kvRange
  else
    let p := x.length
    match writableTail s die x (entryAt x.entries (p / 16)) with
    | none => .error kvNoBlock
    | some (s, e) =>
      let s := writeToken s die e.pbid.toNat (p % 16) token
      .ok { st := putSeq s die { x with entries := putEntry x.entries (p / 16) e, length := p + 1 }, length := p + 1,
            aux := p }

/-- A block after some of its positions are evicted (R151): the survivors repacked in ascending slot order. -/
def repack (s : State) (die : Fin 2) (pbid : Nat) (keep : Nat → Bool) : State :=
  let b := blockOf s.kv[die] pbid
  let bs := survivors s die pbid
  let tok := b.stride * 32
  let live := (List.range 256).filter (fun i => b.bitmap.getLsbD i)
  let kept := live.zipIdx.filter (fun p => keep p.1)
  let new := kept.flatMap (fun p => (bs.drop (p.2 * tok)).take tok)
  let map := kept.foldl (fun m p => m ||| (1#256 <<< p.1)) 0#256
  let poison := kept.zipIdx.flatMap (fun p => movedPoison b.poison (p.1.2 * tok) (p.2 * tok) tok)
  let s := if new.isEmpty then s else blockWrite s die pbid 0 new
  putBlock s die pbid { blockOf s.kv[die] pbid with bitmap := map, poison := poison }

/-- Eviction in one entry of a sequence (R151). `base` is the position of its first block position. -/
def evictEntry (s : State) (die : Fin 2) (x : Sequence) (k base lo hi : Nat) : Option (State × Sequence) :=
  match entryAt x.entries k with
  | none => some (s, x)
  | some e =>
    let b := blockOf s.kv[die] e.pbid.toNat
    let gone (i : Nat) : Bool := lo ≤ base + i && base + i < hi && b.bitmap.getLsbD i
    if !(List.range (blockSpan e.sealed_)).any gone then some (s, x)
    else if b.refs > 1 then
      (copyBlock s die e.pbid.toNat x.kdh x.tenant).map (fun r =>
        let s := releaseBlock r.1 die e.pbid.toNat
        (repack s die r.2 (fun i => !gone i),
         { x with entries := putEntry x.entries k { e with kdh := x.kdh, pbid := BitVec.ofNat 26 r.2 } }))
    else some (repack s die e.pbid.toNat (fun i => !gone i), x)

/-- KVEVICT of `n` positions from `p` (R31, R151). Several shared blocks are copied in the order of the entry list
(log 77). -/
def kvEvict (s : State) (die : Fin 2) (x : Sequence) (p : Word) (n : Nat) : Kv :=
  if 2 ^ 26 < p.toNat + n then .error kvRange
  else
    let lo := p.toNat
    let hi := min (lo + n) x.length
    let ks := (x.entries.map (fun e => (e.1, if e.2.sealed_ then 256 * (e.1 / 16) else 16 * e.1)))
    match ks.foldlM (fun r k => evictEntry r.1 die r.2 k.1 k.2 lo hi) (s, x) with
    | none => .error kvNoBlock
    | some (s, x) => .ok { st := putSeq s die x, length := x.length }

/-- KVCOMPACT of a span (R152, R395). -/
def kvCompact (s : State) (die : Fin 2) (x : Sequence) (span : Word) : Kv :=
  let sp := span.toNat
  if x.spans.toNat + 1 ≤ sp then .error kvRange
  else
    let tails := (List.range 16).filterMap (fun j => entryAt x.entries (16 * sp + j))
    if (match entryAt x.entries (16 * sp) with | some e => e.sealed_ | none => false) then
      .ok { st := s, length := x.length }
    else if tails.length ≠ 16 ∨ x.length < 256 * sp + 256 then .error kvNotFull
    else match newBlock s die true x.kdh x.tenant x.stride with
    | none => .error kvNoBlock
    | some (s, n) =>
      let bs := tails.flatMap (fun e => survivors s die e.pbid.toNat)
      let map := tails.zipIdx.foldl (fun m p =>
        m ||| (((blockOf s.kv[die] p.1.pbid.toNat).bitmap &&& 0xFFFF#256) <<< (16 * p.2))) 0#256
      let poison := (tails.foldl (fun (r : Nat × Sparse Bool) e =>
        let b := blockOf s.kv[die] e.pbid.toNat
        let size := popCount b.bitmap * b.stride * 32
        (r.1 + size, r.2 ++ movedPoison b.poison 0 r.1 size)) (0, [])).2
      let s := if bs.isEmpty then s else blockWrite s die n 0 bs
      let s := putBlock s die n { blockOf s.kv[die] n with bitmap := map, fill := 256, poison := poison }
      let s := tails.foldl (fun s e => releaseBlock s die e.pbid.toNat) s
      let es := x.entries.filter (fun p => p.1 / 16 ≠ sp)
      let e : BlockEntry := { kdh := x.kdh, pbid := BitVec.ofNat 26 n, sealed_ := true }
      .ok { st := putSeq s die { x with entries := putEntry es (16 * sp) e }, length := x.length }

/-- The draft tokens of KVDRAFT, one after another (R155). -/
def draftTokens (s : State) (die : Fin 2) (x : Sequence) : List (List Byte) → Option (State × Sequence)
  | [] => some (s, x)
  | tok :: rest =>
    let p := x.length + x.drafts
    let k := p / 16 - x.length / 16
    let place : Option (State × BlockEntry) :=
      match entryAt x.shadow k with
      | some e => some (s, e)
      | none =>
        match (if k = 0 then entryAt x.entries (p / 16) else none) with
        | some e => (copyBlock s die e.pbid.toNat x.kdh x.tenant).map (fun r =>
            (r.1, { kdh := x.kdh, pbid := BitVec.ofNat 26 r.2, sealed_ := false }))
        | none => writableTail s die x none
    match place with
    | none => none
    | some (s, e) =>
      draftTokens (writeToken s die e.pbid.toNat (p % 16) tok) die
        { x with shadow := putEntry x.shadow k e, drafts := x.drafts + 1 } rest

/-- KVDRAFT (R155, R395). -/
def kvDraft (s : State) (die : Fin 2) (x : Sequence) (stride : Nat) (toks : List (List Byte)) : Kv :=
  if stride ≠ x.stride then .error kvRange
  else if 64 < x.drafts + toks.length ∨ capacityOf x < x.length + x.drafts + toks.length then .error kvRange
  else match draftTokens s die x toks with
  | none => .error kvNoBlock
  | some (s, x) => .ok { st := putSeq s die x, length := x.length }

/-- KVACCEPT of `m` drafts; KVREJECT is KVACCEPT of none (R156). -/
def kvAccept (s : State) (die : Fin 2) (x : Sequence) (m : Nat) : Kv :=
  if x.drafts < m then .error kvRange
  else
    let new := x.length + m
    let first := x.length / 16
    let taken := x.shadow.filter (fun e => 16 * (first + e.1) < new)
    let left := x.shadow.filter (fun e => new ≤ 16 * (first + e.1))
    let r := taken.foldl (fun (r : State × List (Nat × BlockEntry)) e =>
      let k := first + e.1
      let s := match entryAt r.2 k with | some o => releaseBlock r.1 die o.pbid.toNat | none => r.1
      let b := blockOf s.kv[die] e.2.pbid.toNat
      let keep := new - 16 * k
      let s := if keep < 16 then
          putBlock s die e.2.pbid.toNat
            { b with bitmap := b.bitmap &&& BitVec.ofNat 256 (2 ^ keep - 1), fill := min b.fill keep }
        else s
      (s, putEntry r.2 k e.2)) (s, x.entries)
    let s := left.foldl (fun s e => releaseBlock s die e.2.pbid.toNat) r.1
    .ok { st := putSeq s die { x with entries := r.2, shadow := [], length := new, drafts := 0 }, length := new }

/-! ## The prefix index (R157, R158) -/

def indexMatch (d : KvDie) (hash : BitVec 128) (tenant : BitVec 16) (stride : Nat) : Option PrefixEntry :=
  d.index.find? (fun e => e.hash = hash && e.tenant = tenant && e.stride = stride)

/-- The entry of the index was hit in this cc. -/
def touchIndex (s : State) (die : Fin 2) (e : PrefixEntry) : State :=
  let d := s.kv[die]
  setDie s die { d with index := d.index.map (fun x =>
    if x.set = e.set ∧ x.way = e.way then { x with lastHit := s.cycle } else x) }

/-- A sequence holds a domain at most once (R140): one holder more, or none when it holds it already. -/
def holdDomain (s : State) (x : Sequence) (kdh : BitVec 32) : Except Nat (State × Sequence) :=
  if x.doms.contains kdh then .ok (s, x)
  else if 4096 ≤ x.doms.length ∨ 2 ^ 32 ≤ (keyOf s kdh).holders + 1 then .error kvLimit
  else .ok (addHolders s kdh 1, { x with doms := x.doms ++ [kdh] })

/-- KVPREFIX.LOOK (R158). DESIGN CHOICE (log 102): a hit while drafts are outstanding advances length and leaves the shadow
entries as they are. -/
def kvLook (s : State) (die : Fin 2) (x : Sequence) (hash : BitVec 128) : Kv :=
  match indexMatch s.kv[die] hash x.tenant x.stride with
  | none => .ok { st := s, status := kvMiss, length := x.length }
  | some e =>
    let b := blockOf s.kv[die] e.pbid.toNat
    let n := blockSpan b.sealed_
    if x.length % n ≠ 0 ∨ capacityOf x < x.length + n then .error kvRange
    else if 2 ^ 32 ≤ b.refs + 1 then .error kvLimit
    else do
      let (s, x) ← holdDomain s x e.kdh
      let s := touchIndex (addRefs s die e.pbid.toNat 1) die e
      let new : BlockEntry := { kdh := e.kdh, pbid := e.pbid, sealed_ := b.sealed_ }
      return { st := putSeq s die { x with entries := putEntry x.entries (x.length / 16) new, length := x.length + n }
               status := kvHit, length := x.length + n }

/-- The way of a set that a new entry takes (R158): a free one, else the oldest hit, the lowest way on a tie. -/
def victimWay (d : KvDie) (set : Nat) : Nat × Option PrefixEntry :=
  let here := d.index.filter (fun e => e.set = set)
  match (List.range 16).find? (fun w => !here.any (fun e => e.way = w)) with
  | some w => (w, none)
  | none =>
    match here.foldl (fun (m : Option PrefixEntry) e => match m with
        | none => some e
        | some x => if e.lastHit < x.lastHit ∨ (e.lastHit = x.lastHit ∧ e.way < x.way) then some e else some x) none with
    | some e => (e.way, some e)
    | none => (0, none)

/-- KVPREFIX.INS (R158, R395). LIMIT is judged before NOKEY and NOBLOCK, a LOST insert is a hit of the entry, and a new
entry's last hit is its insert (log 78). DESIGN CHOICE (log 103): an insert that matches an entry of the other block size
switches the sequence's entry to the winner's block with the winner's size. -/
def kvInsert (s : State) (die : Fin 2) (x : Sequence) (hash : BitVec 128) : Kv :=
  if x.length = 0 then .error kvRange
  else match entryFor x (x.length - 1) with
  | (_, _, none) => .error kvNotFull
  | (k, _, some own) =>
    let b := blockOf s.kv[die] own.pbid.toNat
    let n := blockSpan own.sealed_
    if b.fill < n ∨ popCount b.bitmap ≠ n then .error kvNotFull
    else match indexMatch s.kv[die] hash x.tenant x.stride with
    | some e =>
      let w := blockOf s.kv[die] e.pbid.toNat
      if 2 ^ 32 ≤ w.refs + 1 then .error kvLimit
      else do
        let (s, x) ← holdDomain s x e.kdh
        let s := touchIndex (releaseBlock (addRefs s die e.pbid.toNat 1) die own.pbid.toNat) die e
        let new : BlockEntry := { kdh := e.kdh, pbid := e.pbid, sealed_ := w.sealed_ }
        return { st := putSeq s die { x with entries := putEntry x.entries k new }, status := kvLost, length := x.length }
    | none =>
      if 4096 ≤ x.doms.length then .error kvLimit
      else match newDomain s die with
      | none => .error kvNoKey
      | some (s, kdh) =>
        match copyBlock s die own.pbid.toNat kdh x.tenant with
        | none => .error kvNoBlock
        | some (s, p) =>
          let s := releaseBlock (addRefs s die p 1) die own.pbid.toNat
          let s := shareDomain (addHolders s kdh 1) kdh
          let set := (hash.extractLsb' 0 16).toNat
          let (way, old) := victimWay s.kv[die] set
          let s := match old with
            | some v => releaseDomain (releaseBlock s die v.pbid.toNat) v.kdh
            | none => s
          let d := s.kv[die]
          let e : PrefixEntry :=
            { set := set, way := way, hash := hash, tenant := x.tenant, stride := x.stride, pbid := BitVec.ofNat 26 p
              kdh := kdh, lastHit := s.cycle }
          let s := setDie s die
            { d with index := e :: d.index.filter (fun y => !(y.set = set && y.way = way)) }
          let new : BlockEntry := { kdh := kdh, pbid := BitVec.ofNat 26 p, sealed_ := own.sealed_ }
          .ok { st := putSeq s die { x with doms := x.doms ++ [kdh], entries := putEntry x.entries k new }
                length := x.length }

/-! ## Judging (R489) -/

/-- The right that a KV operation needs (R125). DESIGN CHOICE (log 104): KVEVICT, KVCOMPACT, KVDRAFT, KVACCEPT and KVREJECT,
which R125 does not name, need kvrw. -/
def kvRight (k : KvKind) : Nat :=
  match k with
  | .opens => rightKvMgmt
  | .closes => rightKvMgmt
  | .fork => rightKvMgmt
  | .look => rightKvMgmt
  | .insert => rightKvMgmt
  | _ => rightKv

/-- The die and KV slice that a KV operation is sent to (R138): KVPREFIX too goes to its sequence's home, whose access
table judges it (R395; log 79). -/
def kvHome (r : KvReq) : Fin 2 × BitVec 4 :=
  match r.kind with
  | .opens => (if r.word.getLsbD 25 then 1 else 0, 0)
  | _ => (seqDie r.seq, seqSlice r.seq)

/-- The index home slice of a prefix hash (R157). -/
def indexSlice (hash : BitVec 128) : BitVec 4 := hash.extractLsb' 0 4

/-- The access table of a KV slice. -/
def kvAdmits (s : State) (die : Fin 2) (slice : BitVec 4) (tenant context : BitVec 16) (right : Nat) : Bool :=
  admits s (.kvSlice (die = 1) slice) tenant context right

/-- Values of `n` bytes each. -/
def chunksOf (n : Nat) (bs : List Byte) : Nat → List (List Byte)
  | 0 => []
  | k + 1 => bs.take n :: chunksOf n (bs.drop n) k

/-- A named sequence's operation, once the access table and the ownership have passed. KVMAP from 2^26 on is RANGE (R31, log
89). -/
def kvEffect (s : State) (die : Fin 2) (tenant context : BitVec 16) (r : KvReq) (x : Sequence) (data : List Byte) : Kv :=
  let d := s.kv[die]
  match r.kind with
  | .opens => kvOpen s die tenant context r.word
  | .closes => kvClose s die x
  | .fork => kvFork s die x tenant context r.n
  | .append => kvAppend s die x r.stride data
  | .evict => kvEvict s die x r.second r.n
  | .compact => kvCompact s die x r.second
  | .map =>
    if 2 ^ 26 ≤ r.second.toNat then .error kvRange
    else .ok { st := s, length := x.length, locs := [mapPosition d x r.shadow r.second.toNat] }
  | .mapV =>
    if 2 ^ 26 ≤ r.second.toNat then .error kvRange
    else .ok
      { st := s, length := x.length, aux := r.n
        locs := (List.range r.n).map (fun i => mapPosition d x r.shadow (r.second.toNat + i)) }
  | .draft => kvDraft s die x r.stride (chunksOf (r.stride * 32) data r.n)
  | .accept => kvAccept s die x r.n
  | .reject => kvAccept s die x 0
  | .look => kvLook s die x (BitVec.ofNat 128 (leNat data))
  | .insert => kvInsert s die x (BitVec.ofNat 128 (leNat data))

/-- One KV operation at its home slice (R489). A status that is an error leaves the state as it is, and carries the
length of a sequence that the issuer owns (R394). -/
def kvJudge (s : State) (tenant context : BitVec 16) (r : KvReq) (data : List Byte) : KvDone :=
  let (die, slice) := kvHome r
  let own := (seqOf s.kv[die] r.seq).filter (fun x => r.seq ≠ 0 && r.kind ≠ .opens && x.tenant = tenant)
  let len := match own with | some x => x.length | none => 0
  let fail (n : Nat) : KvDone := { st := s, status := n, length := len }
  if !kvAdmits s die slice tenant context (kvRight r.kind) then fail kvRefused
  else match r.kind with
  | .opens => (match kvOpen s die tenant context r.word with | .ok d => d | .error n => fail n)
  | _ =>
    match own with
    | none => fail kvNoSeq
    | some x => (match kvEffect s die tenant context r x data with | .ok d => d | .error n => fail n)

end Sys2Proof.Machine
end

