-- ==== Sys2Proof/Machine/Nests.lean ====
section
/-! DEFINITION. The addresses of copy records: the formats of a pair of banks (R42), the nests of CPY and CPYFILL (R386),
the positions of CPYFIFO (R389), and the banks that a record names (R41). -/

namespace Sys2Proof.Machine

/-! ## Formats (R42) -/

/-- The conversion that a pair of captured formats asks for (R42): none for a byte copy. -/
def pairMode (dst src : BitVec 32) : Res (Option ((ElemFmt × Nat) × (ElemFmt × Nat))) :=
  let same := dst.extractLsb' 24 4 = src.extractLsb' 24 4
    && (dst.extractLsb' 24 4 != 9 || dst.extractLsb' 0 20 = src.extractLsb' 0 20)
  match bankClass dst, bankClass src with
  | .raw, _ => .ok none
  | _, .raw => .ok none
  | .elem f n, .elem g m => .ok (if same then none else some ((f, n), (g, m)))
  | .trit, .trit => .ok none
  | _, _ => raise 0x13

/-- The conversion of a copy record in progress; its captured formats have passed R42. -/
def capMode (cap : RecCapture) : Option ((ElemFmt × Nat) × (ElemFmt × Nat)) :=
  match cap.fmts with
  | [d, s] => (match pairMode d s with | .ok m => m | .error _ => none)
  | _ => none

/-- The bits of a destination and of a source element. -/
def dstBits (cap : RecCapture) : Nat := match capMode cap with | some m => m.1.2 | none => 8
def srcBits (cap : RecCapture) : Nat := match capMode cap with | some m => m.2.2 | none => 8

/-! ## Nests (R386) -/

def cpyN (b : CpyBody) : Nat × Nat × Nat × Nat := (b.n1.toNat + 1, b.n2.toNat + 1, b.n3.toNat + 1, b.n4.toNat + 1)

/-- The elements of a record. -/
def cpyTotal (b : CpyBody) : Nat := let n := cpyN b; n.1 * n.2.1 * n.2.2.1 * n.2.2.2

/-- The indices of element `k`, i1 fastest. -/
def cpyIndex (b : CpyBody) (k : Nat) : Nat × Nat × Nat × Nat :=
  let n := cpyN b
  (k % n.1, k / n.1 % n.2.1, k / (n.1 * n.2.1) % n.2.2.1, k / (n.1 * n.2.1 * n.2.2.1))

/-- The byte address of an element: base, strides, the indirect term, and its place in the row. -/
def cpyAddr (base : BitVec 32) (s2 s3 s4 : BitVec 32) (b : CpyBody) (bits k : Nat) (ix : Option Nat) : Int :=
  let i := cpyIndex b k
  let last : Int := match ix with
    | some x => x * b.istr.toInt
    | none => i.2.2.2 * s4.toInt
  (base.toNat + i.1 * bits / 8 : Nat) + i.2.1 * s2.toInt + i.2.2.1 * s3.toInt + last

/-- The destination address of element `k`; CPYFILL has no source strides. -/
def cpyDst (b : CpyBody) (bits k : Nat) (ix : Option Nat) : Int :=
  cpyAddr b.doff b.dstr2 b.dstr3 b.dstr4 b bits k (if b.ind = 2 then ix else none)

def cpySrc (b : CpyBody) (bits k : Nat) (ix : Option Nat) : Int :=
  cpyAddr b.soff b.sstr2 b.sstr3 b.sstr4 b bits k (if b.ind = 1 then ix else none)

/-- The least and greatest byte of a nest's level with a stride. -/
def levelSpan (n : BitVec 16) (stride : BitVec 32) : Int × Int :=
  let x : Int := n.toNat * stride.toInt
  (min 0 x, max 0 x)

/-- The byte range that a nest covers, its indirect level aside. -/
def nestRange (base s2 s3 s4 : BitVec 32) (b : CpyBody) (bits : Nat) (indirect : Bool) : Int × Int :=
  let a := levelSpan b.n2 s2
  let c := levelSpan b.n3 s3
  let d := if indirect then (0, 0) else levelSpan b.n4 s4
  let row : Int := ((b.n1.toNat + 1) * bits + 7) / 8
  (base.toNat + a.1 + c.1 + d.1, base.toNat + a.2 + c.2 + d.2 + row)

/-- What a CPYNET to the package's own device keeps in place of the byte that a request has asked from (R26). -/
abbrev nearTransfer : Nat := 2 ^ 64

/-- The capture of a side that names no handle. -/
def noCapture : Capture := { base := 0, size := 0, perm := 0, kdh := 0, vpage := 0 }

/-! ## Positions (R389) -/

/-- The address of position `k`. -/
def fifoSrc (b : CpyFifoBody) (k : Nat) : Int := b.src.toNat + k * b.pstride.toInt

def isWeight (b : CpyFifoBody) : Bool := b.fifo.getLsbD 1

/-- The rows of position `k` of a record. -/
def fifoRows (b : CpyFifoBody) (cap : RecCapture) (k : Nat) : List (Nat × Nat) :=
  positionRows (fifoSrc b k).toNat b.rstride.toNat (b.rows.toNat + 1) (isWeight b) (cap.fmts.getD k 0)

/-! ## Named banks (R41) -/

/-- The banks that a range of local bytes reaches. -/
def banksOf (r : Int × Int) : List Nat :=
  (List.range 16).filter (fun n => decide (((n * 2 ^ 18 : Nat) : Int) < r.2) && decide (r.1 < ((n + 1) * 2 ^ 18 : Nat)))

/-- The first bytes of the rows of a nest, its indirect level aside. -/
def rowStarts (base s2 s3 s4 : BitVec 32) (b : CpyBody) (indirect : Bool) : List Int :=
  let n := cpyN b
  (List.range (if indirect then 1 else n.2.2.2)).flatMap (fun i4 => (List.range n.2.2.1).flatMap (fun i3 =>
    (List.range n.2.1).map (fun i2 => (base.toNat : Int) + (i2 : Nat) * s2.toInt + (i3 : Nat) * s3.toInt + (i4 : Nat) * s4.toInt)))

/-- The own banks that the elements of one side of a copy record lie in: local addresses, or troupe addresses under the own
rank. -/
def sideBanks (t : Slot) (kind : BitVec 2) (base s2 s3 s4 : BitVec 32) (b : CpyBody) (bits : Nat) (indirect : Bool) :
    List Nat :=
  let own : Nat := if kind = 2 then base.toNat / 2 ^ 22 else 0
  let row : Int := ((b.n1.toNat + 1) * bits + 7) / 8
  if kind = 1 || (kind = 2 && decide (own = troupeRank t)) then
    ((rowStarts base s2 s3 s4 b indirect).flatMap (fun a =>
      banksOf (a - (own * 2 ^ 22 : Nat), a - (own * 2 ^ 22 : Nat) + row))).eraseDups
  else []

/-- The banks of its own slot that a matrix or copy record names (R41); of an indirect level, those of its base. -/
def namedBanks (t : Slot) (w : Work) : List Nat :=
  match w with
  | .copy fill b cap .. =>
    sideBanks t b.dkind b.doff b.dstr2 b.dstr3 b.dstr4 b (dstBits cap) (b.ind = 2)
      ++ (if fill then [] else sideBanks t b.skind b.soff b.sstr2 b.sstr3 b.sstr4 b (srcBits cap) (b.ind = 1))
      ++ (match cap.body with | some a => banksOf (a, (a + 64 : Nat)) | none => [])
      ++ (if b.ind = 0 then [] else
          banksOf (b.ixa.toNat, (b.ixa.toNat + (if b.skind = 3 then 8 else 4) * (b.n4.toNat + 1) : Nat)))
  | .fifo b cap .. =>
    (List.range (b.npos.toNat + 1)).flatMap (fun k =>
      (fifoRows b cap k).flatMap (fun (r : Nat × Nat) => banksOf (r.1, (r.1 + r.2 : Nat))))
  | .net b .. => if b.lkind = 1 then banksOf (b.loff.toNat, (b.loff.toNat + b.len.toNat + 1 : Nat)) else []
  | .matrix (.mxdrain _ b) cap _ _ _ =>
    banksOf (b.dst.toNat, ((b.dst.toNat + (drainRows b - 1) * b.rstride.toNat + drainRowBytes b (cap.fmts.headD 0) : Nat) : Int))
      ++ banksOf (b.scl.toNat, (b.scl.toNat + drainScaleBytes b : Nat))
  | _ => []

end Sys2Proof.Machine
end

