-- ==== Sys2Proof/Machine/Order.lean ====
section
/-! DEFINITION. The order of the operations on one engine context, granule by granule (R184): what an operation still
touches, and what it must wait for. -/

namespace Sys2Proof.Machine

/-- A range of bytes that an operation touches, and whether it writes or empties them: memory, or banks as 28-bit troupe
addresses (R28). -/
structure Touch where
  bank : Bool
  lo : Int
  hi : Int
  writes : Bool
  deriving DecidableEq, Repr

/-- The troupe address of a slot's own bank 0. -/
def ownBase (t : Slot) : Nat := troupeRank t * 2 ^ 22

/-- A range of a slot's own banks. -/
def ownTouch (t : Slot) (a n : Nat) (writes : Bool) : Touch := ⟨true, (ownBase t + a : Nat), (ownBase t + a + n : Nat), writes⟩

/-- The number of components of a scan operator (R247). -/
def sopComps (r : BitVec 512) : Nat := (r.extractLsb' 10 2).toNat + 1

/-- The local address and the bytes of the token or hash data of an operation. -/
def kvToken (r : KvReq) : Nat × Nat :=
  match r.kind with
  | .append => (r.second.toNat, 32 * r.stride)
  | .draft => (r.second.toNat, 32 * r.stride * r.n)
  | .look => (r.second.toNat, 16)
  | .insert => (r.second.toNat, 16)
  | _ => (0, 0)

/-- The bytes of status granules and locators that an operation of the KV store writes (R394, R480). -/
def kvOutput (r : KvReq) : Nat :=
  match r.kind with
  | .fork => 16 * (r.n + 1)
  | .mapV => 16 + 8 * r.n
  | _ => 16

/-- One side of a CPY: the range of its nest, or for an indirect level all that it may reach. -/
def sideTouch (t : Slot) (kind : BitVec 2) (c : Capture) (r : Int × Int) (indirect writes : Bool) : List Touch :=
  if kind = 0 then
    [if indirect then ⟨false, c.base, (c.base + c.size : Nat), writes⟩ else ⟨false, c.base + r.1, c.base + r.2, writes⟩]
  else if kind = 1 then
    [if indirect then ownTouch t 0 (2 ^ 22) writes else ⟨true, ownBase t + r.1, ownBase t + r.2, writes⟩]
  else if kind = 2 then
    [if indirect then ⟨true, 0, (2 ^ 28 : Nat), writes⟩ else ⟨true, r.1, r.2, writes⟩]
  else []

/-- What a copy still touches. The granules of a record that a CPYIND with cor fetched are the first four that it has
read (R391). -/
def copyTouches (t : Slot) (fill : Bool) (b : CpyBody) (cap : RecCapture) (cor : Bool) (read : List Nat) : List Touch :=
  sideTouch t b.dkind (cap.handles.getD 0 noCapture) (nestRange b.doff b.dstr2 b.dstr3 b.dstr4 b (dstBits cap) (b.ind = 2))
      (b.ind = 2) true
    ++ (if fill then [] else sideTouch t b.skind (cap.handles.getD 1 noCapture)
          (nestRange b.soff b.sstr2 b.sstr3 b.sstr4 b (srcBits cap) (b.ind = 1)) (b.ind = 1) cor)
    ++ (if b.ind = 0 then [] else [ownTouch t b.ixa.toNat (8 * (b.n4.toNat + 1)) cor])
    ++ ((read.take 4).filter (fun g => g < 2 ^ 18)).map (fun g => ownTouch t (16 * g) 16 true)

/-- What an operation still touches, as covering ranges. -/
def touches (t : Slot) (w : Work) : List Touch :=
  match w with
  | .gather dst idx h esize count .. =>
    [ownTouch t dst ((count * esize + 15) / 16 * 16) true, ownTouch t idx (4 * count) false,
     ⟨false, h.base, (h.base + h.size : Nat), false⟩]
  | .copy fill b cap cor _ read _ => copyTouches t fill b cap cor read
  | .fifo b cap cor next =>
    ((List.range (b.npos.toNat + 1)).filter (fun k => next ≤ k)).flatMap (fun k =>
      (fifoRows b cap k).map (fun r => ownTouch t r.1 r.2 cor))
  | .net b h _ cor sent _ =>
    let n := b.len.toNat + 1
    (match h with
     | some c => [⟨false, (c.base + b.loff.toNat : Nat), (c.base + b.loff.toNat + n : Nat), b.get⟩]
     | none => [ownTouch t b.loff.toNat n (b.get || cor)])
      ++ (if sent = some nearTransfer then [⟨false, (b.rpa.toNat : Nat), (b.rpa.toNat + n : Nat), !b.get⟩] else [])
  | .matrix (.mxdrain h b) cap _ _ _ =>
    [ownTouch t b.dst.toNat ((drainRows b - 1) * b.rstride.toNat + drainRowBytes b (cap.fmts.headD 0)) true,
     ownTouch t b.scl.toNat (drainScaleBytes b) h.cor]
  | .matrix (.mxsave _ b) cap _ _ _ =>
    cap.handles.map (fun c => ⟨false, (c.base + b.off.toNat : Nat), (c.base + b.off.toNat + 106560 : Nat), true⟩)
  | .matrix (.mxrest _ b) cap _ _ _ =>
    cap.handles.map (fun c => ⟨false, (c.base + b.off.toNat : Nat), (c.base + b.off.toNat + 106560 : Nat), false⟩)
  | .scan _ src dst n nch op .. =>
    let size := 4 * sopComps op.record * n * nch
    [ownTouch t src size false, ownTouch t dst size true]
  | .pannier fill _ h off => [⟨false, (h.base + off : Nat), (h.base + off + 32768 : Nat), !fill⟩]
  | .kv r dest =>
    let p := kvToken r
    [ownTouch t p.1 p.2 false] ++ (if dest.isSome then [] else [ownTouch t r.status (kvOutput r) true])
  | .status a bs => [ownTouch t a bs.length true]
  | .query _ _ payload len status => [ownTouch t payload len false, ownTouch t status 16 true]
  | .awaitReply raddr len => [ownTouch t raddr len true]
  | .reply payload len _ status => [ownTouch t payload len false, ownTouch t status 16 true]
  | _ => []

/-- Whether two ranges have a common granule and one of them writes. -/
def clash (x y : Touch) : Bool :=
  x.bank = y.bank && decide (x.lo < x.hi) && decide (y.lo < y.hi) && (x.writes || y.writes) && decide (x.lo / 16 * 16 < y.hi) && decide (y.lo / 16 * 16 < x.hi)

/-- The earlier operations on a counter that clash with ranges. -/
def clashesOn (t : Slot) (q : Option (BitVec 4)) (num : Nat) (xs : List Touch) : List Op :=
  t.ops.filter (fun p => p.q = q && decide (p.num < num) && (touches t p.work).any (fun x => xs.any (clash x)))

/-- Whether no earlier operation on the same counter must first be performed on a common granule (R184). -/
def inOrder (t : Slot) (o : Op) : Bool :=
  o.q.isNone || (clashesOn t o.q o.num (touches t o.work)).isEmpty

/-- Whether a record that is about to issue on a counter would find every earlier operation on it performed on the
granules of some ranges (R184). -/
def orderFree (t : Slot) (q : BitVec 4) (xs : List Touch) : Bool := (clashesOn t (some q) (2 ^ 64) xs).isEmpty

/-- The operations of a counter that must be performed before a read, or a read that empties, of `n` bytes of the own
banks or of memory (R184). -/
def earlierOn (t : Slot) (q : BitVec 4) (bank : Bool) (a n : Nat) (clears : Bool) : List Nat :=
  (clashesOn t (some q) (2 ^ 64) [if bank then ownTouch t a n clears else ⟨false, a, (a + n : Nat), clears⟩]).map (fun p => p.id)

end Sys2Proof.Machine
end

