-- ==== Sys2Proof/Machine/System.lean ====
section
/-! DEFINITION. System registers, modes, features and time (R34, R35, R38, R41, R90 to R92, R106, R271 to R276). -/

namespace Sys2Proof.Machine

/-- The WID register (R273). -/
def widOf (t : Slot) : Word := match t.item with | some i => i.wid | none => 0

/-- The value of a system register (R273), or none for a number that is firmware's or unassigned (R35). -/
def sysReg (s : State) (t : Slot) (n : Nat) : Option Word :=
  if 0x040 ≤ n ∧ n ≤ 0x04F then some (zx (t.bfmt.toList.getD (n - 0x040) 0))
  else if 0x018 ≤ n ∧ n ≤ 0x01B then some (t.sig.extractLsb' (64 * (n - 0x018)) 64)
  else match n with
    | 0x000 => some (widOf t)
    | 0x001 => some (zx t.tenant)
    | 0x002 => some (zx t.context)
    | 0x003 => some (word (troupeRank t))
    | 0x004 => some (word (troupeSize t))
    | 0x005 => some t.seed
    | 0x006 => some t.trapv
    | 0x007 => some t.stampb
    | 0x008 => some (zx t.slips)
    | 0x009 => some (ofBool t.id.slot)
    | 0x010 => some (zx t.mode)
    | 0x011 => some (zx t.flags)
    | 0x100 => some (zx t.id.core)
    | 0x200 => some (zx s.devid)
    | 0x201 => some s.pseed
    | 0x202 => some (word s.cycle)
    | 0x203 => some (word (s.cycle / 16))
    | _ => none

/-- The register number of SYSRD and SYSWR (R274). -/
def sysNumber (o : Opnd) : Nat := o.imm16.toNat % 0x1000

/-- The bank of a BFMT register is declared, or the scratchpad-ownership fault is raised (R273). -/
def checkBfmt (t : Slot) (n : Nat) : Res Unit :=
  if 0x040 ≤ n ∧ n ≤ 0x04F then
    need ((recBmask t.record).getLsbD (n - 0x040)) 0x08 (word ((n - 0x040) * 2 ^ 18))
  else .ok ()

/-- SYSRD (R274): illegal numbers fault (R35). -/
def execSysrd (o : Opnd) (s : State) : Result :=
  issue s o do
    dstG s.cur o.d
    checkBfmt s.cur (sysNumber o)
    match sysReg s s.cur (sysNumber o) with
    | none => raise 0x03
    | some x => return finishG s o o.d x

/-- SYSRD of FLAGS waits until every earlier instruction has written its results, deferred producers included (R92). -/
def execSysrdFlags (o : Opnd) (s : State) : Result :=
  issue s o do
    if !producersDone s.cur then blockOn .producers
    else if !s.cur.settling.isEmpty then .error .hold
    else
      dstG s.cur o.d
      return finishG s o o.d (zx s.cur.flags)

/-- SYSWR of a number that no user may write: the illegal-system-register fault (R35, R274). -/
def execSyswr (o : Opnd) (s : State) : Result :=
  issue s o do
    let _ ← srcG s.cur o.a o.feA
    raise 0x03

/-- A write of MODE or of a format register enters the format digest (R106). -/
def digestWrite (t : Slot) (reg : Nat) (value : BitVec 32) : Slot :=
  { t with digest := sha3 (bytesOf 32 t.digest.toNat ++ bytesOf 2 reg ++ bytesOf 4 value.toNat) }

/-- MODE written (R90, R91, R106): bits 5:0 of the value. -/
def writeMode (t : Slot) (x : Word) : Slot :=
  let m : BitVec 6 := x.extractLsb' 0 6
  digestWrite { t with mode := m } 0x010 (m.setWidth 32)

/-- SYSWR of MODE. -/
def execSyswrMode (o : Opnd) (s : State) : Result :=
  issue s o do
    let x ← srcG s.cur o.a o.feA
    return advance (onCur s (fun t => writeMode t x)) o

/-- The operations of records of the slot that name a bank (R41). -/
def recordsNaming (t : Slot) (n : Nat) : List Nat :=
  (t.ops.filter (fun p => (p.source = 1 || p.source = 2) && (namedBanks t p.work).contains n)).map (fun p => p.id)

/-- SYSWR of BFMTn (R38, R41, R106): the control stream then holds until every earlier record that names bank n has
completed. -/
def execSyswrBfmt (o : Opnd) (s : State) : Result :=
  issue s o do
    let x ← srcG s.cur o.a o.feA
    checkBfmt s.cur (sysNumber o)
    let n := sysNumber o - 0x040
    let v : BitVec 32 := x.extractLsb' 0 32 &&& 0x0F0FFFFF#32
    let ids := recordsNaming s.cur n
    return onCur (advance (onCur s (fun t => digestWrite { t with bfmt := t.bfmt.setIfInBounds n v } (sysNumber o) v)) o)
      (fun t => if ids.isEmpty then t else { t with ctl := { t.ctl with blocked := some (.ops ids) } })

/-- SYSWR of FLAGS clears the bits written as 1 (R92, R274). -/
def execSyswrFlags (o : Opnd) (s : State) : Result :=
  issue s o do
    let x ← srcG s.cur o.a o.feA
    return advance (onCur s (fun t => { t with flags := t.flags &&& ~~~(x.extractLsb' 0 6) })) o

/-- SYSWR of STAMPB: STAMP without the cycle-count term (R274). -/
def execSyswrStampb (o : Opnd) (s : State) : Result :=
  issue s o do
    let x ← srcG s.cur o.a o.feA
    return advance (onCur s (fun t => { t with stampb := x })) o

/-- Whether a value may be TRAPV (R274): all ones, or a multiple of 4 in the code region. -/
def trapvOk (t : Slot) (x : Word) : Bool :=
  x = BitVec.allOnes 64 ||
    (x.toNat % 4 = 0 && recCodeva t.record ≤ x.toNat && x.toNat < recCodeva t.record + recCodelen t.record)

/-- SYSWR of TRAPV (R274). -/
def execSyswrTrapv (o : Opnd) (s : State) : Result :=
  issue s o do
    let x ← srcG s.cur o.a o.feA
    need (trapvOk s.cur x) 0x03
    return advance (onCur s (fun t => { t with trapv := x })) o

/-- GETMODE (R276). -/
def execGetmode (o : Opnd) (s : State) : Result :=
  issue s o do
    dstG s.cur o.d
    return finishG s o o.d (zx s.cur.mode)

/-- SETMODE (R276): bits 5:0 of g(a) or imm. -/
def execSetmode (o : Opnd) (s : State) : Result :=
  issue s o do
    let x ← srcG s.cur o.a o.feA
    return advance (onCur s (fun t => writeMode t (x ||| sx o.imm16))) o

/-- The SIG that a launch queue keeps for a completed launch of a tenant (R276). -/
def keptSig (s : State) (x : Word) (tenant : BitVec 16) : Option (BitVec 256) :=
  let q := queueOf s (x.extractLsb' 48 6)
  (q.sigs.find? (fun p => p.1 = (x.extractLsb' 0 48).toNat && p.2.1 = tenant)).map (fun p => p.2.2)

/-- SIGNRD (R276). -/
def execSignrd (o : Opnd) (s : State) : Result :=
  issue s o do
    let x ← srcG s.cur o.a o.feA
    dstG s.cur o.d
    let r := keptSig s x s.cur.tenant
    return finishG (onCur s (fun t => { t with sig := r.getD 0 })) o o.d (ofBool r.isSome)

/-- The feature words (R272). -/
def featWord (k : CoreKind) (i : Nat) : Word :=
  match k, i with
  | .compute, 0 => 0x9400010000000001 ||| (Config.stepping.setWidth 64 <<< 24)
  | .attention, 0 => 0x9400010000000002 ||| (Config.stepping.setWidth 64 <<< 24)
  | .compute, 1 => 0x00000000000003CF
  | .attention, 1 => 0x0000000000000230
  | _, 2 => 0xFFFFFFFFFFFF7FFF
  | .compute, 3 => 0x1F7F1FFFFFFF001F
  | .attention, 3 => 0x3F001FFFFFFF001F
  | .compute, 4 => 0x0000000000000FFE
  | .compute, 5 => 0x00000000000000FE
  | .attention, 5 => 0x00000000000000F6
  | .compute, 6 => 0x1302101040081210
  | .attention, 6 => 0x1302101000001210
  | .compute, 7 => 0x000000001230081F
  | .attention, 7 => 0x000000000000081F
  | _, _ => 0

/-- FEAT (R272): the index is ZeroExt(imm16), and a word above 7 reads 0. -/
def execFeat (o : Opnd) (s : State) : Result :=
  unaryOp s o (fun x => (featWord (kindOf s.cur) (x + zx o.imm16).toNat, 0))

/-- RDTIME (R271): cycles, or ticks under .RT. -/
def execRdtime (o : Opnd) (s : State) : Result :=
  issue s o do
    dstG s.cur o.d
    return finishG s o o.d (word (if o.lvl = 1 then s.cycle / 16 else s.cycle))

/-- STAMP (R271). -/
def execStamp (o : Opnd) (s : State) : Result :=
  issue s o do
    let x ← srcG s.cur o.a o.feA
    dstG s.cur o.d
    let v := word s.cycle + x + sx o.imm16
    return finishG (onCur s (fun t => { t with stampb := v })) o o.d v

end Sys2Proof.Machine
end

