-- ==== Sys2Proof/Machine/Copy.lean ====
section
/-! DEFINITION. The copy stream but for CPYNET, and the copy engine (R42, R43, R51 to R55, R149, R385 to R392). -/

namespace Sys2Proof.Machine

/-! ## Issue -/

/-- The issue of a copy record (R243, R244): not before its stamp when stv = 1; then the counter, the record's checks
and captures, the barrier, and the operation on its counter. -/
def cpIssue (s : State) (h : RecHead) (body : State → Res (State × Work)) : Result :=
  issueRec s false h do
    if h.stv && decide (s.cycle < (s.cur.stampb + zx h.stamp).toNat) then return holdRec s false
    else
      let q ← recCounter s.cur h
      let bar ← recBarrier s.cur h
      let r ← body s
      let op : Op :=
        { id := 0, source := 2, coff := (recSite s false).coff, barrier := bar, barrierOff := 16 * h.cboff.toNat
          work := r.2 }
      return advanceRec (onCur r.1 (fun t => pushOp t (some q) op)) false

/-- RCFENCE (R392). -/
def execRcfence (h : RecHead) (s : State) : Result :=
  cpIssue s h (fun s => .ok (onCur s (fun t => { t with records := [] }), .none))

/-- CPYEND (R392): the copy stream ends; every earlier record has issued. -/
def execCpyend (h : RecHead) (s : State) : Result :=
  cpIssue s h (fun s => .ok (onCur s (fun t => { t with cp := { t.cp with running := false } }), .end_))

/-! ## Formats (R42, R43) -/

/-- The BFMT of the bank that a base address names (R41), for kind 1 local and 2 troupe. -/
def namedFmt (s : State) (t : Slot) (kind : BitVec 2) (a : Nat) : Res (BitVec 32) :=
  if kind = 1 then .ok (bankFmt t (a % 2 ^ 22))
  else
    let r := a / 2 ^ 22
    if r ≥ troupeSize t then raise 0x0C (word (2 ^ 32 + a))
    else if r = troupeRank t then .ok (bankFmt t (a % 2 ^ 22))
    else match memberSlot s t r with
      | some m => .ok (bankFmt m (a % 2 ^ 22))
      | none => blockOn (.member r)

/-! ## Issue of CPY and CPYFILL -/

/-- The index of the indirect level for element `k` (R386), from the index vector. -/
def ixOf (t : Slot) (b : CpyBody) (k : Nat) : Nat :=
  leNat (bankRead t (b.ixa.toNat + 4 * (cpyIndex b k).2.2.2) 4)

/-- The destination footprint of a converting copy as far as it is known at issue (R43): the nest, and with an indirect
level 4 the other levels at their base (log 74). -/
def checkFootprint (s : State) (t : Slot) (b : CpyBody) (bits : Nat) : Res Unit :=
  let r := nestRange b.doff b.dstr2 b.dstr3 b.dstr4 b bits (b.ind = 2)
  let rank := if b.dkind = 2 then some (b.doff.toNat / 2 ^ 22) else none
  let lo := r.1 - (if b.dkind = 2 then (b.doff.toNat / 2 ^ 22 * 2 ^ 22 : Nat) else 0)
  if lo < 0 then raise 0x08 (word b.doff.toNat)
  else match bankPlace s t rank lo.toNat (r.2 - r.1).toNat with
    | .error (.fault f) => if f.code = 0x04 then raise 0x08 (word b.doff.toNat) else .error (.fault f)
    | .error e => .error e
    | .ok _ => .ok ()

/-- The checks and captures of CPY and CPYFILL at issue (R41 to R43, R119, R386); a handle is used at the first byte of
the first element (R120, R428). -/
def cpyCapture (s : State) (h : RecHead) (b : CpyBody) (fill : Bool) : Res RecCapture := do
  let t := s.cur
  let ix := if b.ind = 0 then none else some (ixOf t b 0)
  let d ← if b.dkind = 0 then useHandle t b.dh h.trap (cpyDst b 8 0 ix) else .ok noCapture
  let sc ← if b.skind = 0 && !fill then useHandle t b.sh h.trap (cpySrc b 8 0 ix) else .ok noCapture
  let banks := (b.dkind = 1 || b.dkind = 2) && (b.skind = 1 || b.skind = 2) && !fill
  let fmts ← if banks then do
      let fd ← namedFmt s t b.dkind b.doff.toNat
      let fs ← namedFmt s t b.skind b.soff.toNat
      pure [fd, fs]
    else .ok []
  let cap : RecCapture := { mode := t.mode, trap := h.trap, fmts := fmts, handles := [d, sc] }
  match fmts with
  | [fd, fs] =>
    match pairMode fd fs with
    | .error e => .error e
    | .ok none => return cap
    | .ok (some m) =>
      if (b.n1.toNat + 1) * m.1.2 % 8 ≠ 0 ∨ (b.n1.toNat + 1) * m.2.2 % 8 ≠ 0 then .error (.fault { code := 0x02, sub := 6 })
      else (checkFootprint s t b m.1.2).map (fun _ => cap)
  | _ => return cap

/-- CPY (R386). -/
def execCpy (h : RecHead) (b : CpyBody) (s : State) : Result :=
  cpIssue s h (fun s => (cpyCapture s h b false).map (fun cap => (s, .copy false b cap h.cor 0 [] [])))

/-- CPYFILL (R388). -/
def execCpyfill (h : RecHead) (b : CpyBody) (s : State) : Result :=
  cpIssue s h (fun s => (cpyCapture s h b true).map (fun cap => (s, .copy true b cap h.cor 0 [] [])))

/-! ## CPYFIFO (R389) -/

/-- CPYFIFO: the source bank's format of every position is captured at issue (R41, R51). -/
def execCpyfifo (h : RecHead) (b : CpyFifoBody) (s : State) : Result :=
  cpIssue s h (fun s =>
    let fmts := (List.range (b.npos.toNat + 1)).map (fun k => bankFmt s.cur (fifoSrc b k).toNat)
    .ok (s, .fifo b { trap := h.trap, fmts := fmts } h.cor 0))

/-- The bytes of a position, each row at its place (R51). -/
def positionBytes (t : Slot) (rows : List (Nat × Nat)) : Sparse Byte :=
  rows.zipIdx.foldl (fun m r => ssetRange 0 m (640 * r.2) (bankRead t r.1.1 r.1.2)) []

/-- The next position of a CPYFIFO filled (R51, R53, R389), or what it waits for. -/
def fillPosition (s : State) (t : Slot) (o : Op) (b : CpyFifoBody) (cap : RecCapture) (cor : Bool) (k : Nat) :
    Res State :=
  let f := t.fifos[b.fifo.toNat]
  let fmt := cap.fmts.getD k 0
  let p : Int := f.filled
  if fifoC f + 4 ≤ f.filled ∨ !isActive s t.id ∨ f.filledAt = s.cycle then blockOn (.position b.fifo (fifoC f + 4))
  else if isWeight b && bankClass fmt != .trit || !isWeight b && (activation fmt).isNone then
    raise 0x14 0 (BitVec.ofNat 32 k)
  else
    let rows := fifoRows b cap k
    if rows.any (fun r => bankPoisoned t r.1 r.2) then raise 0x2F 0 (BitVec.ofNat 32 k)
    else match rows.find? (fun r => fifoSrc b k < 0 || !ownsRange t r.1 r.2) with
    | some _ => raise 0x08 (BitVec.ofInt 64 (fifoSrc b k)) (BitVec.ofNat 32 k)
    | none =>
      match rows.findSome? (fun r => (firstEmpty t r.1 r.2).map (fun g => (r.1, g))) with
      | some (a, g) => if cap.trap then .error (.fault (emptyGranule a g)) else blockOn (.granule none g)
      | none => do
        let s ← rows.foldlM (fun s r =>
          checkGranules s t.id t.id (engineCode t.id (o.q.getD 0)) (.waiting cor) r.1 r.2) s
        let pos : Position :=
          { num := f.filled, fmt := fmt, src := (fifoSrc b k).toNat, rstride := b.rstride.toNat
            rows := if isWeight b then 0 else b.rows.toNat + 1, bytes := positionBytes t rows }
        return modSlot s t.id (fun t =>
          let x := t.fifos[b.fifo.toNat]
          let y : Fifo := retire { x with filled := p.toNat + 1, filledAt := s.cycle, held := x.held ++ [pos] }
          let t := { t with fifos := t.fifos.set b.fifo.toNat y }
          modOp t o.id (fun o => { o with work := .fifo b cap cor (k + 1) }))

/-- A row of a position read again: a byte that has changed since is the old or the new one, which of the two is free
(R54, R55, log 8). -/
def refillRow (t : Slot) (z : Nat) (old : Sparse Byte) (j a n : Nat) : List Byte :=
  ((bankRead t a n).zip (sgetRange 0 old (640 * j) n)).zipIdx.map (fun x =>
    if x.1.1 ≠ x.1.2 ∧ Config.refillOld z (slotCode t.id).toNat ((a + x.2) / 16) = true then x.1.2 else x.1.1)

/-- The positions of the incoming slot read again from their footprints in cc `z` (R54); granule bits play no part. -/
def refillFifos (t : Slot) (z : Nat) : Slot :=
  { t with fifos := t.fifos.map (fun f =>
      { f with held := f.held.map (fun p =>
          { p with bytes := (positionRows p.src p.rstride p.rows (p.rows = 0) p.fmt).zipIdx.foldl (fun m r =>
              ssetRange 0 m (640 * r.2) (refillRow t z p.bytes r.2 r.1.1 r.1.2)) [] }) }) }

/-! ## Elements (R386, R387) -/

/-- The place of `n` bytes at an element's address. -/
def copyPlace (s : State) (t : Slot) (kind : BitVec 2) (c : Capture) (a : Int) (n : Nat) (perm : BitVec 4) : Res Place :=
  if kind = 0 then (checkPage c a n perm).map (fun pa => .mem pa (BitVec.ofInt 64 a))
  else if kind = 1 then
    if a < 0 ∨ (2 ^ 22 : Nat) ≤ a then raise 0x08 (BitVec.ofInt 64 a)
    else match bankPlace s t none a.toNat n with
      | .error (.fault f) => if f.code = 0x04 then raise 0x08 (BitVec.ofInt 64 a) else .error (.fault f)
      | x => x
  else if a < 0 ∨ (2 ^ 28 : Nat) ≤ a then raise 0x0C (BitVec.ofInt 64 a)
  else match bankPlace s t (some (a.toNat / 2 ^ 22)) (a.toNat % 2 ^ 22) n with
    | .error (.fault f) => if f.code = 0x04 then raise 0x08 (word (2 ^ 32 + a.toNat)) else .error (.fault f)
    | x => x

/-- The granules of `n` bytes at a bank address of a copy: a troupe granule has its rank plus one above bit 18. -/
def granuleKeys (kind : BitVec 2) (a : Int) (n : Nat) : List Nat :=
  if a < 0 then []
  else (granulesOf a.toNat n).map (fun g => if kind = 2 then g % 2 ^ 18 + 2 ^ 18 * (g / 2 ^ 18 + 1) else g)

/-- Granules of the own slot or of troupe members made full or empty. -/
def setKeys (s : State) (t : Slot) (keys : List Nat) (full : Bool) : State :=
  keys.foldl (fun s k =>
    let g := k % 2 ^ 18
    let rank := k / 2 ^ 18 - 1
    if k < 2 ^ 18 ∨ rank = troupeRank t then modSlot s t.id (fun t => setGranule t g full)
    else match memberSlot s t rank with
      | some m => modSlot s m.id (fun t => setGranule t g full)
      | none => s) s

/-- A granule that an engine read waits for (R45), or the empty-granule trap. -/
def engineWait (s : State) (c : SlotId) (a n : Nat) (reg : Word) (trap : Bool) : Res Unit :=
  match slotOf s c with
  | none => .ok ()
  | some t =>
    match firstEmpty t a n with
    | none => .ok ()
    | some g => if trap then raise 0x2B reg else blockOn (.granule none g)

/-- Bytes that the copy engine reads at a place (R387). -/
def engineRead (s : State) (t : Slot) (o : Op) (p : Place) (n : Nat) (mem cor trap : Bool) : Res (State × List Byte) :=
  match p with
  | .mem pa reg => do
    needReleased s (dieOf t.id.core) (linesOf pa n)
    match refusedByte s t pa (linesOf pa n) rightRead mem with
    | some x => raise 0x25 (reg + word (x - pa))
    | none =>
      if poisoned s pa n then raise 0x2F
      else do
        let s ← checkLines s t .read pa n mem
        return homeRead s pa n mem
  | .bank c a reg => do
    engineWait s c a n reg trap
    let s ← checkGranules s c t.id (engineCode t.id (o.q.getD 0)) (.waiting cor) a n
    (bankData s c a n).map (fun bs => (s, bs))

/-- One transfer that the copy engine writes at a place (R65, R387); the granules' bits are set apart. -/
def engineWrite (s : State) (t : Slot) (o : Op) (p : Place) (bs : List Byte) (mem : Bool) : Res State :=
  match p with
  | .mem pa reg => do
    needReleased s (dieOf t.id.core) (linesOf pa bs.length)
    match refusedByte s t pa (linesOf pa bs.length) rightWrite mem with
    | some x => raise 0x25 (reg + word (x - pa))
    | none => do
      let s ← checkLines s t .write pa bs.length mem
      return modSlot (homeWrite s pa bs mem).1 t.id (fun t => modOp t o.id (fun o => { o with wrote := true }))
  | .bank c a _ => do
    let s ← checkGranules s c t.id (engineCode t.id (o.q.getD 0)) (.write t.det.rc) a bs.length
    return modSlot s c (fun m => bankWrite m a bs)

/-- The attention die that a core reads blocks of (R149). -/
def kvDieOf (core : BitVec 8) : Fin 2 := if dieOf core = 3 then 1 else 0

/-- The block check of a locator (R149, R386), which waits while its block is moving (R164): the key domain of the block. -/
def locatedBlock (s : State) (t : Slot) (loc : Word) (off n1 : Nat) : Res (BitVec 32) :=
  let die := kvDieOf t.id.core
  let pbid := (loc.extractLsb' 0 26).toNat
  let b := blockOf s.kv[die] pbid
  let slice : BitVec 4 := BitVec.ofNat 4 pbid
  if !loc.getLsbD 63 then .ok 0
  else if !kvAdmits s die slice t.tenant t.context rightKv then raise 0x25 loc
  else if b.refs = 0 ∨ b.epoch ≠ loc.extractLsb' 42 16 then raise 0x27 loc
  else if b.tenant ≠ t.tenant then raise 0x25 loc
  else if b.stride * 32 < off + n1 then raise 0x05 (word (b.stride * 32))
  else if b.moving then blockOn .updates
  else .ok b.kdh

/-- `n` bytes of a located token from a byte on as the cipher engines return them under the key domain that the block check
found (R134, R136, R486); zeros under a locator that names no block. -/
def locatedBytes (s : State) (t : Slot) (loc : Word) (kdh : BitVec 32) (off n : Nat) : Res (List Byte) :=
  let die := kvDieOf t.id.core
  let pbid := (loc.extractLsb' 0 26).toNat
  let b := blockOf s.kv[die] pbid
  let at_ := bits loc 41 34 * b.stride * 32 + off
  if !loc.getLsbD 63 then .ok (List.replicate n 0)
  else if kdh ≠ 0 ∧ handleDead s kdh then raise 0x26 (zx kdh)
  else if b.moving then blockOn .updates
  else if hasPoison b.poison at_ n then raise 0x2F
  else .ok (blockRead s die pbid at_ n)

/-- Whether a located token lies in tier 3 behind a path that is down (R164). -/
def unreachable (s : State) (t : Slot) (loc : Word) : Bool :=
  let die := kvDieOf t.id.core
  loc.getLsbD 63 && (blockOf s.kv[die] (loc.extractLsb' 0 26).toNat).tier = 3 && !s.port.up

/-- The index entry of an element once its granule is full: the entry, and the granule read (R386). -/
def readIndex (s : State) (t : Slot) (o : Op) (b : CpyBody) (cor trap : Bool) (k : Nat) :
    Res (State × Option Nat × List Nat) :=
  if b.ind = 0 then .ok (s, none, [])
  else
    let n := if b.skind = 3 then 8 else 4
    let a := b.ixa.toNat + n * (cpyIndex b k).2.2.2
    if !ownsRange t a n then raise 0x08 (word a) (BitVec.ofNat 32 k)
    else do
      let r ← engineRead s t o (.bank t.id a (word a)) n false cor trap
      return (r.1, some (leNat r.2), [a / 16])

/-- The bits of an element within its bytes (R40). -/
def subElement (bits k n : Nat) (bs : List Byte) : Nat :=
  if bits < 8 then (leNat bs >>> (k * bits % 8)) % 2 ^ bits else leNat bs % 2 ^ (8 * n)

/-- What the engine has for one element: its code in the destination format, the flags, the source granules read. -/
structure Fetched where
  value : Nat
  flags : BitVec 6 := 0
  src : List Nat := []
  /-- The key domain that the block check of a located element found; its value comes with the write. -/
  kdh : BitVec 32 := 0
  deriving DecidableEq, Repr

/-- The bytes of consecutive elements, packed into the bytes that are there (R40): the first begins at bit `phase`. -/
def transferBytes (bits phase : Nat) (old : List Byte) (vs : List Nat) : List Byte :=
  let last := phase + vs.length * bits
  let v := leNat old
  bytesOf ((last + 7) / 8) (v % 2 ^ phase + packElems bits vs * 2 ^ phase + v / 2 ^ last * 2 ^ last)

/-- What the earlier elements of a transfer have produced: where its destination begins, the bit of the first one, and
their codes. -/
structure Produced where
  at_ : Place
  phase : Nat
  values : List Nat := []
  deriving DecidableEq, Repr

/-- Bytes read at `a` over which those of the range from `d` on are laid. -/
def overlay (a d : Nat) (bs xs : List Byte) : List Byte :=
  if d + xs.length ≤ a ∨ a + bs.length ≤ d then bs
  else bs.zipIdx.map (fun x => if d ≤ a + x.2 ∧ a + x.2 < d + xs.length then xs.getD (a + x.2 - d) x.1 else x.1)

/-- Source bytes of an element as the earlier elements of its transfer leave them: a later element reads an earlier one's
write (R184, R387). -/
def readBehind (s : State) (w : Produced) (bits : Nat) (p : Place) (bs : List Byte) : List Byte :=
  let len := (w.phase + w.values.length * bits + 7) / 8
  match p, w.at_ with
  | .mem a _, .mem d _ => overlay a d bs (transferBytes bits w.phase [] w.values)
  | .bank c a _, .bank e d _ =>
    if c = e then
      overlay a d bs (transferBytes bits w.phase (match slotOf s c with | some m => bankRead m d len | none => []) w.values)
    else bs
  | _, _ => bs

/-- Element `k` of a copy record read, as the elements before it leave its source, and converted, and its destination
checked (R386 to R388): the state, what was fetched, what the transfer has then produced; or what it waits for, or its
fault. -/
def fetchElement (s : State) (t : Slot) (o : Op) (fill : Bool) (b : CpyBody) (cap : RecCapture) (cor : Bool)
    (ix : Option Nat) (k : Nat) (w : Option Produced) : Res (State × Fetched × Produced) := do
  let sb := srcBits cap
  let i1 := (cpyIndex b k).1
  let d := cpyDst b (dstBits cap) k ix
  let r ← (if fill then .ok (s, { value := ((b.sstr3 ++ b.sstr2).toNat >>> (8 * (d % 8).toNat)) % 256 })
    else if b.skind = 3 then
      (locatedBlock s t (word (ix.getD 0)) (b.soff.toNat + i1) (b.n1.toNat + 1 - i1)).map
        (fun y => (s, { value := 0, kdh := y }))
    else do
      let sa := cpySrc b sb k ix
      let n := (sb + 7) / 8
      let p ← copyPlace s t b.skind (cap.handles.getD 1 noCapture) sa n permRd
      let r ← engineRead s t o p n (b.slvl = 1) cor cap.trap
      let got := match w with
        | some w => readBehind r.1 w (dstBits cap) p r.2
        | none => r.2
      let v := subElement sb i1 n got
      let cv := match capMode cap with
        | some m => recodeElem m.2.1 m.1.1 cap.mode v
        | none => (v, 0)
      return (r.1, { value := cv.1, flags := cv.2, src := if b.skind = 0 then [] else granuleKeys b.skind sa n })
    : Res (State × Fetched))
  let at_ ← copyPlace s t b.dkind (cap.handles.getD 0 noCapture) d ((dstBits cap + 7) / 8) permW
  let w := w.getD { at_ := at_, phase := i1 * dstBits cap % 8 }
  return (r.1, r.2, { w with values := w.values ++ [r.2.value] })

/-- Elements from `k` on, up to the first that waits or faults: the state, what was fetched, and what stopped it. -/
def fetchElements (s : State) (t : Slot) (o : Op) (fill : Bool) (b : CpyBody) (cap : RecCapture) (cor : Bool)
    (ix : Option Nat) (k : Nat) (w : Option Produced) : Nat → State × List Fetched × Option Stop
  | 0 => (s, [], none)
  | fuel + 1 =>
    match fetchElement s t o fill b cap cor ix k w with
    | .error e => (s, [], some e)
    | .ok r =>
      let x := fetchElements r.1 t o fill b cap cor ix (k + 1) (some r.2.2) fuel
      (x.1, r.2.1 :: x.2.1, x.2.2)

/-- The bit of memory or of the banks at which an element's destination begins (R40). -/
def dstBit (b : CpyBody) (bits k : Nat) (ix : Option Nat) : Int :=
  8 * cpyDst b bits k ix + ((cpyIndex b k).1 * bits % 8 : Nat)

/-- The elements of one transfer from element `k` on: those under the same index entry whose destinations follow one another
and begin in the same granule of a bank, or in the same 64 bytes of memory (R171, R387). -/
def transferLen (b : CpyBody) (bits k : Nat) (ix : Option Nat) : Nat :=
  let grain : Int := if b.dkind = 0 then 64 else 16
  ((List.range (min (cpyTotal b - k) 512)).takeWhile (fun j =>
    decide (dstBit b bits (k + j) ix = dstBit b bits k ix + (j * bits : Nat))
      && decide (cpyDst b bits (k + j) ix / grain = cpyDst b bits k ix / grain)
      && (b.ind = 0 || (cpyIndex b (k + j)).2.2.2 = (cpyIndex b k).2.2.2))).length

/-- How much of a transfer goes out when an element of it stops: all before a fault, and before a wait only whole granules
(R171). -/
def transferCut (b : CpyBody) (bits k n : Nat) (ix : Option Nat) (stop : Option Stop) : Nat :=
  match stop with
  | none => n
  | some (.fault _) => n
  | _ => ((List.range n).takeWhile (fun j => cpyDst b bits (k + j) ix / 16 < cpyDst b bits (k + n) ix / 16)).length

/-- The granules that an element's destination touches. -/
def elementKeys (t : Slot) (b : CpyBody) (bits k : Nat) : List Nat :=
  granuleKeys b.dkind (cpyDst b bits k (if b.ind = 2 then some (ixOf t b k) else none)) ((bits + 7) / 8)

/-- Whether an element from `k` on still writes a granule (R387). -/
def writtenLater (t : Slot) (b : CpyBody) (bits k key : Nat) : Bool :=
  (List.range (cpyTotal b - k)).any (fun j => (elementKeys t b bits (k + j)).contains key)

/-- Whether the destinations of all elements from `k` on are known: an indirect level's index entries are there (R386). -/
def indexKnown (t : Slot) (b : CpyBody) (k : Nat) : Bool :=
  b.ind ≠ 2 || cpyTotal b ≤ k || (List.range (b.n4.toNat + 1)).all (fun i =>
    decide (i < (cpyIndex b k).2.2.2) || granuleFull t ((b.ixa.toNat + 4 * i) / 16))

/-- The granules that become full after element `k` (R44, R387), and those that are kept back: of an indirect destination
the granules that an element with an unread index may still write (log 90), and the granules of tokens that could not be
read (R164). -/
def publish (t : Slot) (b : CpyBody) (bits k : Nat) (pend keys : List Nat) : List Nat × List Nat :=
  if b.ind = 2 then
    let all := pend ++ keys.filter (fun g => !pend.contains g)
    let ready := if indexKnown t b k then all.filter (fun g => !writtenLater t b bits k g) else []
    (ready, all.filter (fun g => !ready.contains g))
  else (keys.filter (fun g => !pend.contains g && !writtenLater t b bits k g), pend)

/-- Whether a copy reads granules of banks, its index vector among them. -/
def copyReads (fill : Bool) (b : CpyBody) : Bool := b.ind ≠ 0 || (!fill && (b.skind = 1 || b.skind = 2))

/-- Whether a copy writes banks. -/
def copyToBanks (b : CpyBody) : Bool := b.dkind = 1 || b.dkind = 2

/-- The next transfer of a copy record from element `k` on read (R386 to R388), or what it waits for, or its fault. -/
def readTransfer (s : State) (t : Slot) (o : Op) (fill : Bool) (b : CpyBody) (cap : RecCapture) (cor : Bool) (k : Nat) :
    Res (State × Staged) := do
  let db := dstBits cap
  let (s, ix, idx) ← readIndex s t o b cor cap.trap k
  let x := fetchElements s t o fill b cap cor ix k none (transferLen b db k ix)
  let n := transferCut b db k x.2.1.length ix x.2.2
  let xs := x.2.1.take n
  match xs, x.2.2 with
  | [], some e => .error e
  | _, _ =>
    return (x.1,
      { ix, values := xs.map (fun v => v.value), flags := xs.foldl (fun f v => f ||| v.flags) 0
        src := idx ++ xs.flatMap (fun v => v.src), kdh := (xs.map (fun v => v.kdh)).headD 0 })

/-- What was read of a transfer from element `k` on written (R386 to R388), or what it waits for, or its fault. -/
def writeTransfer (s : State) (t : Slot) (o : Op) (fill : Bool) (b : CpyBody) (cap : RecCapture) (cor : Bool) (k : Nat)
    (read pend : List Nat) (w : Staged) : Res State := do
  let db := dstBits cap
  let n := w.values.length
  let d := cpyDst b db k w.ix
  let phase := (cpyIndex b k).1 * db % 8
  let len := (phase + n * db + 7) / 8
  let p ← copyPlace s t b.dkind (cap.handles.getD 0 noCapture) d len permW
  let old := match p with
    | .bank c a _ => (match slotOf s c with | some m => bankRead m a len | none => [])
    | .mem .. => []
  let loc := word (w.ix.getD 0)
  let skip := b.skind = 3 && unreachable s t loc
  let values ← if b.skind = 3 && !skip then
      (locatedBytes s t loc w.kdh (b.soff.toNat + (cpyIndex b k).1) n).map (fun bs => bs.map (fun y => y.toNat))
    else .ok w.values
  let keys := if b.dkind = 0 then [] else granuleKeys b.dkind d len
  let s ← if skip then .ok s else engineWrite s t o p (transferBytes db phase old values) (b.dlvl = 1)
  let now := (slotOf s t.id).getD t
  let pub := if skip then ([], pend ++ keys.filter (fun g => !pend.contains g)) else publish now b db (k + n) pend keys
  let got := w.src.foldl (fun l g => if l.contains g then l else l ++ [g]) read
  return modSlot (setKeys s t pub.1 true) t.id (fun t => modOp t o.id (fun o =>
    { o with
      flags := o.flags ||| w.flags
      staged := none
      work := .copy fill b cap cor (k + n) (if cor then got else read) pub.2 }))

/-- The next step of a copy record from element `k` on. Between banks the write of a transfer is an engine write of a cc after
the read (R46), and under a locator the bytes come from the cipher engines after the block check (R486); elsewhere one step
reads and writes it. -/
def copyTransfer (s : State) (t : Slot) (o : Op) (fill : Bool) (b : CpyBody) (cap : RecCapture) (cor : Bool) (k : Nat)
    (read pend : List Nat) : Res State :=
  match o.staged with
  | some w => writeTransfer s t o fill b cap cor k read pend w
  | none => do
    let r ← readTransfer s t o fill b cap cor k
    if b.skind = 3 || (copyReads fill b && copyToBanks b) then
      return modSlot r.1 t.id (fun t => modOp t o.id (fun o => { o with staged := some r.2 }))
    else writeTransfer r.1 t o fill b cap cor k read pend r.2

/-! ## CPYIND (R391) -/

/-- The body that CPYIND finds in a fetched record, or the cause of the illegal-record fault (R246, R391). -/
def fetchedBody (t : Slot) (v : BitVec 512) : Except Nat CpyBody :=
  let common := v.extractLsb' 8 40 ≠ 0 || v.extractLsb' 480 32 ≠ 0
  match decodeRecord (kindOf t) false v with
  | .error c => if common && decide (5 < c) then .error 5 else .error c
  | .ok i =>
    if common then .error 5
    else match i with
      | .cpy _ b => .ok b
      | _ => .error 7

/-- CPYIND (R391): the record cache, or a read of the 64 bytes, then the CPY under CPYIND's own common fields. -/
def execCpyind (h : RecHead) (b : CpyIndBody) (s : State) : Result :=
  cpIssue s h (fun s => do
    let t := s.cur
    let a := b.roff.toNat
    let key ← if b.rkind then (if ownsRange t a 64 then .ok a else raise 0x08 (word a))
      else do
        let c ← useHandle t b.rh h.trap a
        checkPage c a 64 permRd
    match t.records.find? (fun r => r.loc = b.rkind && r.key = key) with
    | some r => do
      let cap ← cpyCapture s h r.body false
      return (s, .copy false r.body { cap with body := if b.rkind then some a else none } h.cor 0 [] [])
    | none => do
      let before := earlierOn t h.q b.rkind key 64 (b.rkind && h.cor)
      let r ← if !before.isEmpty then blockOn (.ops before)
        else if b.rkind then
          match firstEmpty t a 64 with
          | some g => if h.trap then .error (.fault (emptyGranule a g)) else blockOn (.granule none g)
          | none => do
            let s ← checkGranules s t.id t.id (engineCode t.id h.q) (.waiting h.cor) a 64
            let bs ← bankData s t.id a 64
            pure (s, leNat bs)
        else if !canSend s (dieOf t.id.core) (key / 128) then .error .hold
        else if !admitMem s t key rightRead false then raise 0x25 (word a)
        else if poisoned s key 64 then raise 0x2F
        else .ok ((homeRead s key 64).1, leNat (homeRead s key 64).2)
      match fetchedBody t (BitVec.ofNat 512 r.2) with
      | .error c => .error (.fault { code := 0x02, sub := BitVec.ofNat 8 c })
      | .ok body => do
        let cap ← cpyCapture r.1 h body false
        let entry : CachedRecord := { loc := b.rkind, key := key, body := body }
        let keep (l : List CachedRecord) : List CachedRecord := if l.length < 8 then l else l.drop 1
        return (onCur r.1 (fun t => { t with records := keep t.records ++ [entry] }),
          .copy false body { cap with body := if b.rkind then some a else none } h.cor 0
            (if b.rkind && h.cor then granulesOf a 64 else []) []))

/-! ## Completion -/

/-- Whether a copy record has performed everything. -/
def copyDone (t : Slot) (o : Op) : Bool :=
  match o.work with
  | .copy _ b _ _ k .. => o.staged.isNone && cpyTotal b ≤ k
  | .fifo b _ _ k => b.npos.toNat < k
  | .end_ => !t.ops.any (fun p => p.source = 2 && p.id < o.id)
  | _ => false

/-- The granules that a copy record's completion empties (R387): of the own slot, or of a troupe member. -/
def clearRead (s : State) (t : Slot) (w : Work) : State :=
  let keys := match w with
    | .copy _ _ _ cor _ read _ => if cor then read else []
    | .fifo b cap cor _ =>
      if cor then (List.range (b.npos.toNat + 1)).flatMap (fun k =>
        (fifoRows b cap k).flatMap (fun (r : Nat × Nat) => granulesOf r.1 r.2))
      else []
    | .net b none _ cor _ _ => if cor && !b.get then granulesOf b.loff.toNat (b.len.toNat + 1) else []
    | _ => []
  setKeys s t keys false

end Sys2Proof.Machine
end

