-- ==== Sys2Proof/Machine/Floating.lean ====
section
/-! DEFINITION. Scalar floating instructions and conversions (R280, R281). -/

namespace Sys2Proof.Machine

/-- An operand in the low bits of a g register (R280). -/
def floatOperand (f : NumFmt) (mode : BitVec 6) (x : Word) : NumVal := readNum f mode (x.toNat % 2 ^ f.w)

/-- A rounded result, zero-extended, with every flag of the operation (R280). -/
def floatResult (f : NumFmt) (mode : BitVec 6) (r : NumVal × BitVec 6) : Word × BitVec 6 :=
  let c := roundNum f mode r.1
  (word c.1, r.2 ||| c.2)

/-- The form with two floating sources. -/
def floatOp (s : State) (o : Opnd) (latency : Nat) (f : Word → Word → Word × BitVec 6) : Result :=
  issue s o do
    let x ← srcG s.cur o.a o.feA
    let y ← srcG s.cur o.b o.feB
    dstG s.cur o.d
    let r := f x y
    return finishG s o o.d r.1 r.2 latency

/-- FADD (R280): .SUB negates g(b) before the single rounding. -/
def execFadd (o : Opnd) (s : State) : Result :=
  let f := floatFmt (o.fn.toNat % 4)
  let m := s.cur.mode
  floatOp s o 4 (fun x y =>
    let b := floatOperand f m y
    floatResult f m (addNum m (floatOperand f m x) (if o.fn.getLsbD 2 then negNum b else b)))

/-- FMUL (R280). -/
def execFmul (o : Opnd) (s : State) : Result :=
  let f := floatFmt (o.fn.toNat % 4)
  let m := s.cur.mode
  floatOp s o 4 (fun x y => floatResult f m (mulNum (floatOperand f m x) (floatOperand f m y)))

/-- The fused sum ±(a × b) ± c; 0 × ∞ plus a NaN sets nv (R97). -/
def fusedNum (mode : BitVec 6) (np nc : Bool) (a b c : NumVal) : NumVal × BitVec 6 :=
  let p := mulNum a b
  let q := if np then negNum p.1 else p.1
  let r := addNum mode q (if nc then negNum c else c)
  (r.1, p.2 ||| r.2)

/-- FFMA (R280). -/
def execFfma (o : Opnd) (s : State) : Result :=
  issue s o do
    let x ← srcG s.cur o.a o.feA
    let y ← srcG s.cur o.b o.feB
    let z ← srcG s.cur o.c o.feC
    dstG s.cur o.d
    let f := floatFmt (o.fn.toNat % 4)
    let m := s.cur.mode
    let r := floatResult f m
      (fusedNum m (o.fn.getLsbD 2) (o.fn.getLsbD 3) (floatOperand f m x) (floatOperand f m y) (floatOperand f m z))
    return finishG s o o.d r.1 r.2 4

/-- FMIN (R280, R97). -/
def execFmin (o : Opnd) (s : State) : Result :=
  let f := floatFmt (o.fn.toNat % 4)
  floatOp s o 1 (fun x y =>
    let r := minMaxNum f s.cur.mode false (x.toNat % 2 ^ f.w) (y.toNat % 2 ^ f.w)
    (word r.1, r.2))

/-- FMAX (R280, R97). -/
def execFmax (o : Opnd) (s : State) : Result :=
  let f := floatFmt (o.fn.toNat % 4)
  floatOp s o 1 (fun x y =>
    let r := minMaxNum f s.cur.mode true (x.toNat % 2 ^ f.w) (y.toNat % 2 ^ f.w)
    (word r.1, r.2))

/-- The conditions of FCMP and VCMP on numbers: 0 EQ, 1 LT, 2 LE, 3 UN (R280). -/
def numCond (c : Nat) (x y : NumVal) : Bool :=
  match c with
  | 0 => eqNum x y
  | 1 => ltNum false x y
  | 2 => ltNum false x y || eqNum x y
  | _ => isNaN x || isNaN y

/-- FCMP (R280). -/
def execFcmp (o : Opnd) (s : State) : Result :=
  let f := floatFmt (o.fn.toNat % 4)
  let m := s.cur.mode
  floatOp s o 1 (fun x y => (ofBool (numCond (o.fn.toNat / 4) (floatOperand f m x) (floatOperand f m y)), 0))

/-- The integer types of CVT (R281): signed, width. -/
def intType (code : Nat) : Bool × Nat :=
  match code with
  | 0 => (true, 64)
  | 1 => (true, 32)
  | 2 => (false, 64)
  | _ => (false, 32)

/-- An integer written as a CVT destination type: .I32 sign-extended, .UI32 zero-extended. -/
def intWord (code : Nat) (v : Int) : Word :=
  if code = 1 then sx32 (BitVec.ofInt 64 v) else if code = 3 then zx32 (BitVec.ofInt 64 v) else BitVec.ofInt 64 v

/-- CVT of R281 from type `c` to type `d`. -/
def convert (mode : BitVec 6) (d c : Nat) (wrap : Bool) (x : Word) : Word × BitVec 6 :=
  if c ≤ 3 then
    let (sg, w) := intType c
    let v := readInt sg w x.toNat
    if d ≤ 3 then
      let (sd, wd) := intType d
      if wrap then (intWord d v, 0) else let r := satInt sd wd v; (intWord d r.1, r.2)
    else
      let r := roundNum (floatFmt (d - 4)) mode (ofInt v)
      (word r.1, r.2)
  else
    let f := floatFmt (c - 4)
    if d ≤ 3 then
      let (sd, wd) := intType d
      let r := toInt mode sd wd (floatOperand f mode x)
      (intWord d r.1, r.2)
    else
      let r := convertNum f (floatFmt (d - 4)) mode (x.toNat % 2 ^ f.w)
      (word r.1, r.2)

/-- CVT (R281). -/
def execCvt (o : Opnd) (s : State) : Result :=
  unaryOp s o (convert s.cur.mode o.fn.toNat o.c.toNat (o.lvl = 1)) 3

end Sys2Proof.Machine
end

