-- ==== Sys2Proof/Machine/KvInstr.lean ====
section
/-! DEFINITION. The KV instructions and the events of the KV slices, the cipher block and the tier engine (R133, R138,
R159 to R164, R393 to R395, R480, R485, R486, R489). -/

namespace Sys2Proof.Machine

/-! ## Issue -/

/-- The number of a context slot in the order of R158 and R168: core, then slot. -/
def slotNumber (c : SlotId) : Nat := 2 * c.core.toNat + c.slot.toNat

/-- A request put among the arrivals of a die: behind those of earlier cc, and among those of one cc by core and slot
(R158). -/
def insertArrival (s : State) (xs : List OpRef) (me : OpRef) : List OpRef :=
  let before (r : OpRef) : Bool := match refOp s r with
    | some (_, o) => o.due ≠ s.cycle || slotNumber r.slot ≤ slotNumber me.slot
    | none => true
  xs.takeWhile before ++ [me] ++ xs.dropWhile before

/-- A request to the KV store sent: its operation, and its place among the arrivals of its home die (R138, R159). -/
def sendKv (s : State) (q : Option (BitVec 4)) (coff : BitVec 32) (r : KvReq) (dest : Option (BitVec 6)) : State :=
  let id := s.cur.nextOp
  let op : Op := { id := 0, source := 3, coff := coff, due := s.cycle, work := .kv r dest }
  let die := (kvHome r).1
  let d := s.kv[die]
  onCur (setDie s die { d with arrivals := insertArrival s d.arrivals (refOf s.cur id) }) (fun t => pushOp t q op)

/-- Whether an operation is a KV operation on its way. -/
def isKv (w : Work) : Bool := match w with
  | .kv .. => true
  | _ => false

/-- The issue of a numbered KV instruction (R393, R394): `size` bytes of status and locators, `tok` bytes of token or
hash data at g(b). A source keeps at most 64 requests outstanding (R76). -/
def kvIssue (s : State) (o : Opnd) (kind : KvKind) (size tok n stride : Nat) (second : Bool) : Result :=
  issue s o do
    let d ← srcG s.cur o.d o.feD
    let x ← srcG s.cur o.a o.feA
    let y ← if second then srcG s.cur o.b o.feB else .ok 0
    let st ← localAddr d 16
    let a ← if tok = 0 then .ok 0 else localAddr y 1
    if !ownsRange s.cur st size then raise 0x08 d
    else if tok ≠ 0 && !ownsRange s.cur a tok then raise 0x08 y
    else do
      let q ← checkCounter s.cur o.c
      if 64 ≤ (s.cur.ops.filter (fun p => p.q = some q && isKv p.work)).length then .error .hold
      else
      let r : KvReq :=
        { kind := kind, seq := x.extractLsb' 0 24, word := x, second := if tok = 0 then y else word a, n := n
          stride := stride, shadow := o.lvl.getLsbD 0, status := st }
      let s := onCur s (fun t => setGranules t st size false)
      return advance (sendKv s (some q) (ctlSite s o).coff r none) o

/-- KVOPEN (R153, R393). -/
def execKvopen (o : Opnd) (s : State) : Result := kvIssue s o .opens 16 0 0 0 false

/-- KVCLOSE (R154, R393). -/
def execKvclose (o : Opnd) (s : State) : Result := kvIssue s o .closes 16 0 0 0 false

/-- KVFORK (R153, R393, R394). -/
def execKvfork (o : Opnd) (s : State) : Result :=
  let n := o.imm16.toNat
  kvIssue s o .fork (16 * (n + 1)) 0 n 0 false

/-- KVAPPEND (R150, R393). -/
def execKvappend (o : Opnd) (s : State) : Result :=
  let stride := o.imm16.toNat % 2 ^ 7 + 1
  kvIssue s o .append 16 (32 * stride) 1 stride true

/-- KVEVICT (R151, R393). -/
def execKvevict (o : Opnd) (s : State) : Result := kvIssue s o .evict 16 0 (o.imm16.toNat + 1) 0 true

/-- KVCOMPACT (R152, R393). -/
def execKvcompact (o : Opnd) (s : State) : Result := kvIssue s o .compact 16 0 0 0 true

/-- KVMAP.V (R393, R480). -/
def execKvmapV (o : Opnd) (s : State) : Result :=
  let n := o.imm16.toNat % 2 ^ 10 + 1
  kvIssue s o .mapV (16 + 8 * n) 0 n 0 true

/-- KVDRAFT (R155, R393). -/
def execKvdraft (o : Opnd) (s : State) : Result :=
  let n := o.imm16.toNat % 2 ^ 6 + 1
  let stride := o.imm16.toNat / 2 ^ 9 + 1
  kvIssue s o .draft 16 (32 * stride * n) n stride true

/-- KVACCEPT (R156, R393). -/
def execKvaccept (o : Opnd) (s : State) : Result := kvIssue s o .accept 16 0 o.imm16.toNat 0 false

/-- KVREJECT (R156, R393). -/
def execKvreject (o : Opnd) (s : State) : Result := kvIssue s o .reject 16 0 0 0 false

/-- KVPREFIX.LOOK (R158, R393). -/
def execKvprefixLook (o : Opnd) (s : State) : Result := kvIssue s o .look 16 16 0 0 true

/-- KVPREFIX.INS (R158, R393). -/
def execKvprefixIns (o : Opnd) (s : State) : Result := kvIssue s o .insert 16 16 0 0 true

/-- Scalar KVMAP (R393, R485): unnumbered; it holds the stream until the pair is written, or is deferred. -/
def execKvmap (o : Opnd) (s : State) : Result :=
  issue s o do
    let x ← srcG s.cur o.a o.feA
    let y ← srcG s.cur o.b o.feB
    dstG s.cur o.d
    dstG s.cur (o.d + 1)
    let r : KvReq :=
      { kind := .map, seq := x.extractLsb' 0 24, word := x, second := y, n := 1, shadow := o.lvl.getLsbD 0 }
    let id := s.cur.nextOp
    let s' := advance (sendKv s none (ctlSite s o).coff r (some o.d)) o
    if o.feD then return onCur s' (fun t => emptyG (emptyG t o.d) (o.d + 1))
    else return onCur s' (fun t => { t with ctl := { t.ctl with blocked := some (.ops [id]) } })

/-! ## Performing -/

/-- The entries of a sequence that an eviction of positions from `lo` to below `hi` changes (R151). -/
def evictedEntries (d : KvDie) (x : Sequence) (lo hi : Nat) : List BlockEntry :=
  (x.entries.filter (fun e =>
    let base := if e.2.sealed_ then 256 * (e.1 / 16) else 16 * e.1
    (List.range (blockSpan e.2.sealed_)).any (fun i =>
      lo ≤ base + i && base + i < hi && (blockOf d e.2.pbid.toNat).bitmap.getLsbD i))).map (fun e => e.2)

/-- The blocks whose data an operation reads or writes (R150 to R158): none of a span that is sealed already, nor of an
insert that loses. -/
def kvBlocks (d : KvDie) (x : Sequence) (r : KvReq) (data : List Byte) : List BlockEntry :=
  match r.kind with
  | .append => (entryAt x.entries (x.length / 16)).toList
  | .evict => evictedEntries d x r.second.toNat (min (r.second.toNat + r.n) x.length)
  | .compact =>
    ((List.range 16).filterMap (fun j => entryAt x.entries (16 * r.second.toNat + j))).filter (fun e => !e.sealed_)
  | .draft =>
    let p := x.length + x.drafts
    match entryAt x.shadow (p / 16 - x.length / 16) with
    | some e => [e]
    | none => if p / 16 = x.length / 16 then (entryAt x.entries (p / 16)).toList else []
  | .insert =>
    if x.length = 0 || (indexMatch d (BitVec.ofNat 128 (leNat data)) x.tenant x.stride).isSome then []
    else (entryFor x (x.length - 1)).2.2.toList
  | _ => []

/-- The blocks that an operation on an open sequence reads or writes. -/
def kvNamed (s : State) (r : KvReq) (data : List Byte) : List Block :=
  let d := s.kv[(kvHome r).1]
  match seqOf d r.seq with
  | some x => (kvBlocks d x r data).map (fun e => blockOf d e.pbid.toNat)
  | none => []

/-- The operation judged and performed (R489); one that needs a tier-3 block behind a path that is down changes nothing
(R164). -/
def kvRun (s : State) (t : Slot) (r : KvReq) (data : List Byte) : KvDone :=
  let d := kvJudge s t.tenant t.context r data
  if (d.status = kvOk || d.status = kvHit || d.status = kvLost)
      && (kvNamed s r data).any (fun b => b.tier = 3) && !s.port.up then
    { st := s, status := 13
      length := match seqOf s.kv[(kvHome r).1] r.seq with | some x => x.length | none => 0 }
  else d

/-- A status granule (R394). -/
def kvStatus (status length : Nat) (seq : BitVec 24) (kdh : BitVec 32) (aux : Nat) : List Byte :=
  bytesOf 16 (status + length * 2 ^ 13 + seq.toNat * 2 ^ 40 + kdh.toNat * 2 ^ 64 + aux * 2 ^ 96)

/-- Whether a status is one of a performed operation (R162). -/
def kvDoneOk (n : Nat) : Bool := n = kvOk || n = kvHit || n = kvLost || n = kvMiss

/-- What the slice writes at the status address (R394, R480). -/
def kvReply (r : KvReq) (d : KvDone) : List Byte :=
  let head := kvStatus d.status d.length d.seq d.kdh d.aux
  let ok := kvDoneOk d.status
  match r.kind with
  | .fork =>
    head ++ (if ok then d.children.flatMap (fun c => kvStatus 0 d.length c.1 c.2 0)
      else (List.range r.n).flatMap (fun _ => kvStatus d.status 0 0 0 0))
  | .mapV =>
    head ++ (if ok then d.locs.flatMap (fun l => bytesOf 8 l.toNat) else List.replicate (8 * r.n) 0)
  | _ => head

/-- The granules of the sender written by an engine, which become full (R44); `q` names its engine context. -/
def engineFill (s : State) (c : SlotId) (q : BitVec 4) (addr : Nat) (bs : List Byte) : Res State :=
  match slotOf s c with
  | none => .ok s
  | some t => do
    let s ← checkGranules s c c (engineCode c q) (.write t.det.rc) addr bs.length
    return modSlot s c (fun t => setGranules (bankWrite t addr bs) addr bs.length true)

/-- An engine's write on behalf of an operation, whose work is then over; a determinism trap stops the operation. -/
def engineFinish (s : State) (c : SlotId) (o : Op) (addr : Nat) (bs : List Byte) : State :=
  match engineFill s c (o.q.getD 0) addr bs with
  | .ok s => modSlot s c (fun t => modOp t o.id (fun o => { o with work := .none }))
  | .error (.fault f) => opFault s c o f
  | .error _ => s

/-- The lines that a KV operation from state `s` to an outcome counts as accessing (R161): a sequence ID, or 2^24 plus a
prefix hash. An operation that changes nothing counts as no write. -/
def kvLines (s : State) (r : KvReq) (data : List Byte) (d : KvDone) : List (Nat × Access) :=
  if !kvDoneOk d.status then []
  else match r.kind with
  | .map => [(r.seq.toNat, .read)]
  | .mapV => [(r.seq.toNat, .read)]
  | .opens => [(d.seq.toNat, .write)]
  | .insert => [(r.seq.toNat, .write), (2 ^ 24 + leNat data, .write)]
  | _ => if decide (d.st = s) then [] else ((r.seq :: d.children.map (fun c => c.1)).map (fun x => (x.toNat, .write)))

/-- The conflict rule on lines of a deterministic launch (R161, R194), from state `s`: the launch's words afterwards. -/
def kvConflicts (t : Slot) (words : Sparse (BitVec 32)) (lines : List (Nat × Access)) : Res (Sparse (BitVec 32)) :=
  lines.foldlM (fun words p =>
    let wd := sget 0 words p.1
    let touched := cwPhase wd = BitVec.ofNat 6 t.phase
    let ordered := t.det.table.any (fun e => e.1 = cwWriter wd && decide (cwSync wd < e.2))
    match conflict wd touched t.phase (slotCode t.id) p.2 t.det.rc ordered with
    | .error k => detTrap 0 k wd (slotCode t.id)
    | .ok w => .ok (sset 0 words p.1 w)) words

/-- A performed KV operation judged by the conflict rule in deterministic mode (R161): one that traps changes nothing. -/
def checkKvLines (s : State) (t : Slot) (r : KvReq) (data : List Byte) (d : KvDone) : Res KvDone :=
  match isDet t, t.item, launchOfSlot s t with
  | true, some i, some l =>
    (kvConflicts t l.kvWords (kvLines s r data d)).map (fun words =>
      { d with st := modLaunch d.st i.queue i.ordinal (fun l => { l with kvWords := words }) })
  | _, _, _ => .ok d

/-- The request removed from the arrivals of its die. -/
def dropArrival (s : State) (die : Fin 2) (i : Nat) : State :=
  let d := s.kv[die]
  setDie s die { d with arrivals := d.arrivals.eraseIdx i }

/-- The locator and status of a scalar KVMAP in its register pair (R485), which ends the operation. -/
def kvPair (t : Slot) (id : Nat) (r : BitVec 6) (d : KvDone) : Slot :=
  let x : Word := if d.status = kvOk then d.locs.headD 0 else 0
  finishOp (setG (setG t r x) (r + 1) (word d.status)) id

/-- `n` bytes of the own banks that an engine reads for an operation once their granules are full (R45, R195, R448). -/
def engineTake (s : State) (t : Slot) (o : Op) (a n : Nat) : Res (State × List Byte) :=
  match firstEmpty t a n with
  | some g => blockOn (.granule none g)
  | none => do
    let s ← checkGranules s t.id t.id (engineCode t.id (o.q.getD 0)) (.waiting false) a n
    (bankData s t.id a n).map (fun bs => (s, bs))

/-- The token or hash bytes of a KV operation, once its slice has them; an operation without any has them at once. -/
def kvData (o : Op) (r : KvReq) : Option (List Byte) :=
  if (kvToken r).2 = 0 then some [] else o.staged.map (fun w => w.values.map (BitVec.ofNat 8))

/-- The index home slice that a KVPREFIX has reached with its hash (R157, R158). -/
def prefixSlice (s : State) (ref : OpRef) : Option (BitVec 4) :=
  match refOp s ref with
  | some (_, o) =>
    (match o.work with
     | .kv r _ =>
       if (r.kind = .look || r.kind = .insert) && !o.stopped then
         (kvData o r).map (fun bs => indexSlice (BitVec.ofNat 128 (leNat bs)))
       else none
     | _ => none)
  | none => none

/-- Whether arrival `i` of a die goes on now (R138, R158, R159, R184): it was sent in an earlier cc, its links are up, no
earlier operation of its item waits, none of its own context has first to be performed on its granules, no earlier KVPREFIX
waits at its index home slice, and no block that it needs is moving (R164). `data` is its token or hash, if it has come. -/
def kvReady (s : State) (die : Fin 2) (i : Nat) (ref : OpRef) (t : Slot) (o : Op) (r : KvReq) (data : List Byte) : Bool :=
  let before := (s.kv[die]).arrivals.take i
  let here := prefixSlice s ref
  !o.stopped && decide (o.due < s.cycle) && !before.any (sameItem ref)
    && (here.isNone || !before.any (fun a => prefixSlice s a = here)) && inOrder t o
    && pathUp s (dieOf t.id.core) (die.val + 2) (kvHome r).2.toNat
    && !(kvNamed s r data).any (fun b => b.moving)

/-- The key domains that the step from one state to another has destroyed, or that a KVCLOSE has left to be destroyed (R133,
R486). -/
def newlyDead (s s' : State) (die : Fin 2) : List (BitVec 32) :=
  (s'.broadcasts.drop s.broadcasts.length).map (fun b => b.1) ++ (s'.kv[die]).closing.drop (s.kv[die]).closing.length

/-- One KV operation at its home slice (R159, R160, R393, R394): its token or hash is read; then it is judged and performed
atomically, and its status is written, after the acknowledgement of every domain that it destroyed. -/
def kvPerform (s : State) (die : Fin 2) (i : Nat) (opens : Bool) : State :=
  match (s.kv[die]).arrivals[i]? with
  | none => s
  | some ref =>
    match refOp s ref with
    | none => s
    | some (t, o) =>
      let c := t.id
      let id := o.id
      match o.work with
      | .kv r dest =>
        let p := kvToken r
        let data := kvData o r
        if (r.kind = .opens) != opens || !kvReady s die i ref t o r (data.getD []) then s
        else
          let gone := dropArrival s die i
          match data with
          | none =>
            (match engineTake s t o p.1 p.2 with
             | .ok r' => modSlot r'.1 c (fun t => modOp t id (fun o =>
                 { o with staged := some { values := r'.2.map (fun b => b.toNat) } }))
             | .error (.fault f) => opFault gone c o f
             | .error _ => s)
          | some data =>
          match checkKvLines gone t r data (kvRun gone t r data) with
          | .error (.fault f) => opFault gone c o f
          | .error _ => s
          | .ok d =>
            let dead := newlyDead s d.st die
            match dest with
            | some g => modSlot d.st c (fun t => kvPair t id g d)
            | none =>
              if dead.isEmpty then engineFinish d.st c o r.status (kvReply r d)
              else modSlot d.st c (fun t => modOp t id (fun o =>
                { o with work := .status r.status (kvReply r d), dead := dead }))
      | _ => s

/-- KVOPEN_AT_SLICE0 (R138). -/
def execKvopenAtSlice0 (die : Bool) (i : Nat) (s : State) : Result :=
  event s (kvPerform s (if die then 1 else 0) i true)

/-- KV_OPERATION_PERFORM (R159). -/
def execKvOperationPerform (die : Bool) (i : Nat) (s : State) : Result :=
  event s (kvPerform s (if die then 1 else 0) i false)

/-! ## Dead handles (R133) -/

/-- The bytes of a state slot. -/
abbrev stateBytes : Nat := 32768

/-- Every state slot of a context slot whose tag holds a dead handle zeroed and marked DEAD. -/
def killState (kdh : BitVec 32) (t : Slot) : Slot :=
  let hit := t.ztag.filter (fun p => p.2.state = 1 && p.2.kdh = kdh)
  hit.foldl (fun t p =>
    { t with
      z := sclear t.z (stateBytes * p.1) (stateBytes * (p.1 + 1))
      ztag := sset {} t.ztag p.1 { p.2 with state := 2, fresh := false } }) t

/-- A handle that every compute core has acknowledged leaves the operations that wait for it. -/
def clearDead (kdh : BitVec 32) (t : Slot) : Slot :=
  { t with ops := t.ops.map (fun o => { o with dead := o.dead.filter (fun h => h ≠ kdh) }) }

/-- DEAD_HANDLE_BROADCAST (R133): the core takes the first dead handle that it has not acknowledged. -/
def execDeadHandleBroadcast (core : BitVec 8) (s : State) : Result :=
  event s (match s.broadcasts.find? (fun b => core.toNat < 128 && b.2.getLsbD core.toNat) with
    | none => s
    | some b =>
      let s := mapSlots s (fun t => if t.id.core = core then killState b.1 t else t)
      let away (x : Saved) : Saved := if x.slot.id.core = core then { x with slot := killState b.1 x.slot } else x
      let s := { s with saved := s.saved.map away }
      let left := b.2 &&& ~~~(1#128 <<< core.toNat)
      let later := s.broadcasts.map (fun x => if x = b then (b.1, left) else x)
      if left = 0 then
        mapSlots { s with
          broadcasts := s.broadcasts.filter (fun x => x ≠ b)
          saved := s.saved.map (fun x => { x with slot := clearDead b.1 x.slot }) } (clearDead b.1)
      else { s with broadcasts := later })

/-! ## Tiers (R163, R164) -/

/-- The next key domain that each die's KVCLOSEs destroy: one in a cc, after the frees (R486). -/
def closeDomains (s : State) : State :=
  ([0, 1] : List (Fin 2)).foldl (fun s die =>
    match (s.kv[die]).closing with
    | [] => s
    | k :: rest => releaseDomain (setDie s die { s.kv[die] with closing := rest }) k) s

/-- The bytes of bonded SRAM of a KV slice (R10). -/
abbrev sliceSram : Nat := 2 ^ 27

/-- The ranges that a block takes in its KV slice's SRAM, by its present and its coming tier (R10, R163). -/
def sramRanges (b : Block) : List (Nat × Nat) :=
  let n := blockBytes b.sealed_ b.stride
  (if b.tier = 0 then [(b.loc.toNat, n)] else []) ++ (if b.moving && b.target.1 = 0 then [(b.target.2.toNat, n)] else [])

/-- Whether a block may go to a tier and place (R10, R163): within the SRAM of its slice and free there; its die's LPDDR-5X
with room; memory of a compute die; or the spill grant. -/
def tierOk (s : State) (die : Fin 2) (pbid : Nat) (tier : BitVec 3) (loc : BitVec 64) : Bool :=
  let d := s.kv[die]
  let b := blockOf d pbid
  let n := blockBytes b.sealed_ b.stride
  let a := loc.toNat
  match tier.toNat with
  | 0 =>
    a + n ≤ sliceSram && (d.blocks.filter (fun p => p.1 % 16 = pbid % 16 && p.1 ≠ pbid && p.2.refs ≠ 0)).all (fun p =>
      (sramRanges p.2).all (fun r => a + n ≤ r.1 || r.1 + r.2 ≤ a))
  | 1 => (b.tier = 1 || n ≤ d.pool) && isDieMemory die a && isDieMemory die (a + n - 1)
  | 2 => isMemory a && isMemory (a + n - 1)
  | 3 =>
    s.port.up && (match s.mgmt.spill with | some (base, len) => base.toNat ≤ a && a + n ≤ base.toNat + len | none => false)
  | _ => false

/-- The bytes of the die's LPDDR-5X that blocks take or give back when one block changes (R143, R163). -/
def putMoved (s : State) (die : Fin 2) (pbid : Nat) (b : Block) : State :=
  let old := blockOf s.kv[die] pbid
  let n := blockBytes b.sealed_ b.stride
  let s := putBlock s die pbid b
  let d := s.kv[die]
  let free := d.pool + (if inDieMemory old then n else 0) - (if inDieMemory b then n else 0)
  setDie s die { d with pool := free }

/-- Whether the host memory that a move reads or writes can be reached (R1, R163). -/
def moveReaches (s : State) (b : Block) : Bool := s.port.up || (b.tier ≠ 3 && b.target.1 ≠ 3)

/-- TIER_MOVE (R164): the engine sets moving; later it has copied the ciphertext, and sets tier and loc and clears
moving. A block without references is not moved, and a freed one is abandoned. A move to or from host memory needs the port,
its only way there (R1). -/
def execTierMove (die : Bool) (pbid : BitVec 26) (tier : BitVec 3) (loc : BitVec 64) (s : State) : Result :=
  event s (
    let die : Fin 2 := if die then 1 else 0
    let b := blockOf s.kv[die] pbid.toNat
    if b.refs = 0 then s
    else if b.moving then
      if !moveReaches s b then s else
      putMoved s die pbid.toNat { b with moving := false, tier := b.target.1, loc := b.target.2 }
    else if (b.tier = 3 && !s.port.up) || !tierOk s die pbid.toNat tier loc then s
    else putMoved s die pbid.toNat { b with moving := true, target := (tier, loc) })

end Sys2Proof.Machine
end

