-- ==== Sys2Proof/Machine/Query.lean ====
section
/-! DEFINITION. Query entries, their queues, deliveries and replies (R165 to R169, R396, R489), and the attention dot
unit (R103, R397, R398, R481). -/

namespace Sys2Proof.Machine

/-! ## QSEND -/

/-- Whether `n` bytes at a local address lie in banks that the slot declared, one or several (R167). -/
def ownsRegion (t : Slot) (a n : Nat) : Bool :=
  a + n ≤ 2 ^ 22 && (n = 0 || (List.range ((a + n - 1) / 2 ^ 18 + 1 - a / 2 ^ 18)).all (fun i =>
    ownsBank t ((a / 2 ^ 18 + i) * 2 ^ 18)))

/-- Fields of a query header (R166). -/
def hdrSeq (h : BitVec 512) : BitVec 24 := h.extractLsb' 464 24
def hdrPos (h : BitVec 512) : BitVec 27 := h.extractLsb' 437 27
def hdrPayload (h : BitVec 512) : Nat := ((h.extractLsb' 422 15).toNat + 1) * 16
def hdrReply (h : BitVec 512) : Nat := ((h.extractLsb' 407 15).toNat + 1) * 16
def hdrRaddr (h : BitVec 512) : Nat := (h.extractLsb' 385 22).toNat

/-- A header with a field of `n` bits at `lo` replaced. -/
def putHdr (h : BitVec 512) (lo n v : Nat) : BitVec 512 :=
  (h &&& ~~~(BitVec.ofNat 512 ((2 ^ n - 1) * 2 ^ lo))) ||| BitVec.ofNat 512 (v % 2 ^ n * 2 ^ lo)

/-- The status granule of an instruction with a status address in d: aligned and owned (R393). -/
def statusPlace (t : Slot) (d : Word) : Res Nat := do
  let st ← localAddr d 16
  if ownsRange t st 16 then return st else raise 0x08 d

/-- QSEND in send form (R167, R396): two numbers on q(c), the send and its reply. -/
def execQsend (o : Opnd) (s : State) : Result :=
  issue s o do
    let d ← srcG s.cur o.d o.feD
    let x ← srcG s.cur o.a o.feA
    let st ← statusPlace s.cur d
    let e ← localAddr x 1
    if !ownsRange s.cur e 64 then raise 0x08 x
    else match firstEmpty s.cur e 64 with
    | some g => blockOn (.granule none g)
    | none => do
      let c := s.cur.id
      let s ← checkGranules s c c (slotCode c) (.waiting false) e 64
      let h : BitVec 512 := BitVec.ofNat 512 (leNat (← bankData s c e 64))
      if h.extractLsb' 488 24 ≠ 0 ∨ h.extractLsb' 0 385 ≠ 0 ∨ hdrRaddr h % 16 ≠ 0 then raise 0x04
      else if !ownsRegion s.cur (hdrRaddr h) (hdrReply h) then raise 0x08 (word (hdrRaddr h))
      else if !ownsRegion s.cur (e + 64) (hdrPayload h) then raise 0x08 (word (e + 64))
      else do
        let q ← checkCounter s.cur o.c
        let h := putHdr (putHdr (putHdr h 381 4 q.toNat) 380 1 c.slot.toNat) 372 8 c.core.toNat
        let queue : BitVec 5 := o.imm16.setWidth 5
        let die := seqDie (hdrSeq h)
        let coff := (ctlSite s o).coff
        let send : Op := { id := 0, source := 3, coff := coff, work := .query queue h (e + 64) (hdrPayload h) st }
        let await : Op := { id := 0, source := 3, coff := coff, work := .awaitReply (hdrRaddr h) (hdrReply h) }
        let entry : QueryArrival := { queue := queue, sender := refOf s.cur s.cur.nextOp }
        let dd := s.kv[die]
        let s := setDie s die { dd with queries := dd.queries ++ [entry] }
        return advance (onCur s (fun t =>
          let t := setGranules (setGranules t (hdrRaddr h) (hdrReply h) false) st 16 false
          pushOp (pushOp t (some q) send) (some q) await)) o

/-- QSEND.REPLY (R169, R396). -/
def execQsendReply (o : Opnd) (s : State) : Result :=
  issue s o do
    let d ← srcG s.cur o.d o.feD
    let x ← srcG s.cur o.a o.feA
    let y ← srcG s.cur o.b o.feB
    let st ← statusPlace s.cur d
    let a ← localAddr x 1
    let n := (o.imm16.toNat + 1) * 16
    if !ownsRegion s.cur a n then raise 0x08 x
    else do
      let q ← checkCounter s.cur o.c
      let op : Op := { id := 0, source := 3, coff := (ctlSite s o).coff, work := .reply a n (y.extractLsb' 0 16) st }
      let s := { s with replies := s.replies ++ [{ source := refOf s.cur s.cur.nextOp }] }
      return advance (onCur s (fun t => pushOp (setGranules t st 16 false) (some q) op)) o

/-! ## Queues -/

/-- The bytes that a queue holds (R165): an entry occupies it until it is answered. -/
def queueBytes (x : QueryQueue) : Nat := x.entries.foldl (fun n e => n + 64 + e.payload.length) 0

def queueAt (d : KvDie) (q : BitVec 5) : QueryQueue := sget {} d.queues q.toNat

def putQueue (s : State) (die : Fin 2) (q : BitVec 5) (x : QueryQueue) : State :=
  let d := s.kv[die]
  setDie s die { d with queues := sset {} d.queues q.toNat x }

/-- The status of a send but for want of room (R31, R165, R166, R489), and the length of the issuer's sequence. A payload
beyond 32,768 bytes is beyond a limit (log 80). -/
def judgeQuery (s : State) (t : Slot) (die : Fin 2) (q : BitVec 5) (h : BitVec 512) : Nat × Nat :=
  let seq := hdrSeq h
  let own := (seqOf s.kv[die] seq).filter (fun x => seq ≠ 0 && x.tenant = t.tenant)
  let len := match own with | some x => x.length | none => 0
  let x := queueAt s.kv[die] q
  if !kvAdmits s die (BitVec.ofNat 4 q.toNat) t.tenant t.context rightKv then (kvRefused, len)
  else if x.tenant = 0 ∨ x.tenant ≠ t.tenant then (kvRefused, len)
  else if own.isNone then (kvNoSeq, 0)
  else if (hdrPos h ≠ BitVec.allOnes 27 && decide (2 ^ 26 ≤ (hdrPos h).toNat)) || 32768 < hdrPayload h then (kvRange, len)
  else (kvOk, len)

/-- The arrival removed, or changed. -/
def dropQuery (s : State) (die : Fin 2) (i : Nat) : State :=
  let d := s.kv[die]
  setDie s die { d with queries := d.queries.eraseIdx i }

def putQuery (s : State) (die : Fin 2) (i : Nat) (x : QueryArrival) : State :=
  let d := s.kv[die]
  setDie s die { d with queries := d.queries.set i x }

/-- A query entry with its payload read is judged and enqueued; a queue without room refuses it, and it is sent again after
its back-off (R167, R450, R489). A send that
fails completes its reply operation as well (R396). A pos of 2^27 - 1 takes the length that the sequence has now (R166;
log 81). -/
def enqueueEntry (s : State) (die : Fin 2) (i : Nat) (a : QueryArrival) (t : Slot) (o : Op) (h : BitVec 512)
    (payload : List Byte) (status : Nat) : State :=
  let c := t.id
  let r := judgeQuery s t die a.queue h
  let x := queueAt s.kv[die] a.queue
  if r.1 ≠ kvOk then
    let s := engineFinish (dropQuery s die i) c o status (kvStatus r.1 r.2 0 0 0)
    modSlot s c (fun t => modOp t (o.id + 1) (fun p => { p with work := .none }))
  else if x.capacity < queueBytes x + 64 + payload.length then
    let b := linkBackoff s (dieOf c.core) (die.val + 2) (a.queue.toNat % 16)
    putQuery s die i
      { a with payload := some payload, refused := a.refused + 1, resendAt := some (s.cycle + backoffTime b a.refused) }
  else
    let h := if hdrPos h = BitVec.allOnes 27 then putHdr h 437 27 r.2 else h
    let d := s.kv[die]
    let e : QueryEntry :=
      { no := d.nextEntry, sender := refOf t (o.id + 1), header := h, payload := payload }
    let s := setDie s die { d with nextEntry := d.nextEntry + 1 }
    let s := putQueue s die a.queue { x with entries := x.entries ++ [e] }
    engineFinish (dropQuery s die i) c o status (kvStatus kvOk r.2 0 0 0)

/-- QUERY_ENTRY_ENQUEUE (R167): the queue engine reads the payload; then the entry is judged. Entries from one sender to one
queue enter in issue order. -/
def execQueryEntryEnqueue (die : Bool) (i : Nat) (s : State) : Result :=
  let die : Fin 2 := if die then 1 else 0
  event s (match (s.kv[die]).queries[i]? with
    | none => s
    | some a =>
      match refOp s a.sender with
      | none => s
      | some (t, o) =>
        match o.work with
        | .query _ h addr len status =>
          if ((s.kv[die]).queries.take i).any (fun x => sameItem x.sender a.sender && x.queue = a.queue) || o.stopped
              || !inOrder t o || !pathUp s (dieOf t.id.core) (die.val + 2) (a.queue.toNat % 16) then s
          else match a.payload with
          | some p => if a.resendAt.isSome then s else enqueueEntry s die i a t o h p status
          | none =>
            match engineTake s t o addr len with
            | .error (.fault f) => opFault (dropQuery s die i) t.id o f
            | .error _ => s
            | .ok r => putQuery r.1 die i { a with payload := some r.2 }
        | _ => s)

/-! ## Delivery (R168) -/

/-- The lowest free inbox slot of a serving item. -/
def freeInbox (t : Slot) : Option Nat :=
  (List.range (recInboxn t.record)).find? (fun k => !t.inbox.any (fun e => e.index = k))

/-- The serving slot that takes the next entry of a queue, with the inbox slot. DESIGN CHOICE (log 101): the launch that serves
a queue need not belong to the queue's tenant. -/
def servingSlot (s : State) (die : Fin 2) (queue : BitVec 5) : Option (Slot × Nat) :=
  ((allSlots s).filterMap (fun t =>
    if (match t.item with | some i => !i.retired | none => false) && recQserve t.record
        && recQbind t.record = queue.toNat && dieOf t.id.core = die.val + 2
    then (freeInbox t).map (fun k => (t, k)) else none)).foldl
    (fun m x => match m with
      | none => some x
      | some y => if slotNumber x.1.id < slotNumber y.1.id then some x else m) none

/-- The first entry of a queue that is not delivered. -/
def headEntry (x : QueryQueue) : Option QueryEntry := x.entries.find? (fun e => !e.delivered)

/-- QUERY_DELIVERY (R168). -/
def execQueryDelivery (die : Bool) (queue : BitVec 5) (s : State) : Result :=
  let die : Fin 2 := if die then 1 else 0
  event s (
    let x := queueAt s.kv[die] queue
    match headEntry x, servingSlot s die queue with
    | some e, some (t, k) =>
      let es := x.entries.map (fun y => if y.no = e.no then { y with delivered := true } else y)
      let s := putQueue s die queue { x with entries := es }
      let iq := recIq t.record
      let id := t.nextOp
      let stride := 16 * recIstride t.record
      let bs := (bytesOf 64 (putHdr e.header 356 16 k).toNat ++ e.payload).take stride
      let op : Op := { id := 0, source := 3, work := .none }
      let s := modSlot s t.id (fun t => pushOp { t with inbox := t.inbox ++ [⟨k, queue, e.no⟩] } (some iq) op)
      match engineFill s t.id iq (recInbox t.record + stride * k) bs with
      | .ok s => modSlot s t.id (fun t => finishOp t id)
      | .error (.fault f) => opFault s t.id { op with id := id, q := some iq } f
      | .error _ => s
    | _, _ => s)

/-! ## Replies (R169) -/

/-- The reply's payload read at the replier: the inbox slot is free, and the entry leaves its queue. -/
def sendReply (s : State) (i : Nat) (r : Reply) (t : Slot) (o : Op) (a n : Nat) (tag : BitVec 16) (status : Nat) :
    State :=
  let die : Fin 2 := if dieOf t.id.core = 3 then 1 else 0
  let gone : State := { s with replies := s.replies.eraseIdx i }
  match t.inbox.find? (fun e => e.index = tag.toNat) with
  | none => engineFinish gone t.id o status (kvStatus kvRange 0 0 0 0)
  | some b =>
    let x := queueAt s.kv[die] b.queue
    match x.entries.find? (fun e => e.no = b.no) with
    | none => engineFinish gone t.id o status (kvStatus kvRange 0 0 0 0)
    | some e =>
      let len := hdrReply e.header
      if len < n then opFault gone t.id o { code := 0x05 }
      else match engineTake s t o a n with
      | .error (.fault f) => opFault gone t.id o f
      | .error _ => s
      | .ok r' =>
        let s := r'.1
        let bs := r'.2 ++ List.replicate (len - n) 0
        let s := putQueue s die b.queue { x with entries := x.entries.filter (fun y => y.no ≠ e.no) }
        let s := modSlot s t.id (fun t => { t with inbox := t.inbox.filter (fun y => y.index ≠ b.index) })
        { s with replies := s.replies.set i { r with sent := some (e, bs) } }

/-- The reply written at the sender, whose reply operation is then over; a reply to an item that has ended is
discarded. -/
def deliverReply (s : State) (e : QueryEntry) (bs : List Byte) : State :=
  match refOp s e.sender with
  | none => s
  | some (t, o) =>
    match o.work with
    | .awaitReply raddr _ => engineFinish s t.id o raddr bs
    | _ => s

/-- QUERY_REPLY_ARRIVAL (R169): the replier's engine reads the payload; then the reply reaches the sender, or waits for
the restore of a pre-empted one, and the replier's operation is over. -/
def execQueryReplyArrival (i : Nat) (s : State) : Result :=
  event s (match s.replies[i]? with
    | none => s
    | some r =>
      let replier := refOp s r.source
      match r.sent, replier with
      | none, none => s
      | none, some (t, o) =>
        (match o.work with
         | .reply a n tag status => if o.stopped || !inOrder t o then s else sendReply s i r t o a n tag status
         | _ => s)
      | some (e, bs), x =>
        if s.saved.any (fun y => holdsItem y.slot e.sender.item e.sender.born)
            || !pathUp s (dieOf r.source.slot.core) (dieOf e.sender.slot.core) 0 then s
        else
          let s := deliverReply { s with replies := s.replies.eraseIdx i } e bs
          match x with
          | some (t, o) =>
            (match o.work with
             | .reply _ _ _ status => engineFinish s t.id o status (kvStatus kvOk 0 0 0 0)
             | _ => s)
          | none => s)

/-! ## The attention dot unit -/

/-- The value of a bank element that the dot unit reads (R103, R398). -/
def dotOperand (mode : BitVec 6) (f : ElemFmt) (c : Nat) : NumVal :=
  match f with
  | .int sg w => ofInt (readInt sg w c)
  | .num g => readNum g mode c

/-- `n` elements that start at a byte address (R40). -/
def bankElems (t : Slot) (a n bits : Nat) : List Nat :=
  let x := leNat (bankRead t a ((n * bits + 7) / 8))
  (List.range n).map (fun i => elemOf bits x i)

/-- One step of an accumulation: exact, then rounded to binary32. DESIGN CHOICE (log 84): the chunk sums and the
accumulator are intermediate values and no operands, so that MODE.sub = FIN does not make a subnormal one zero. -/
def dotAdd (mode : BitVec 6) (acc c : Nat × BitVec 6) : Nat × BitVec 6 :=
  let r := addNum mode (decodeNum fmt32 acc.1) (decodeNum fmt32 c.1)
  let y := roundNum fmt32 mode r.1
  (y.1, acc.2 ||| c.2 ||| r.2 ||| y.2)

/-- The chunks of 32 products, each summed exactly and rounded once (R103). -/
def dotChunks (mode : BitVec 6) (ps : List (NumVal × BitVec 6)) : Nat → List (Nat × BitVec 6)
  | 0 => []
  | n + 1 =>
    let r := sumTerms mode (ps.take 32)
    let y := roundNum fmt32 mode r.1
    (y.1, r.2 ||| y.2) :: dotChunks mode (ps.drop 32) n

/-- A product of the dot unit; one of two integers has no negative zero (R80, R96). -/
def dotProduct (ints : Bool) (x y : NumVal) : NumVal × BitVec 6 :=
  match mulNum x y with
  | (.fin neg m e, f) => (.fin (neg && !(ints && m = 0)) m e, f)
  | p => p

/-- Dot (R103, R398), with the starting value of .ACC; `ints` says that both formats are integer formats. -/
def dotOf (mode : BitVec 6) (ints : Bool) (xs ys : List NumVal) (start : Option Nat) : Nat × BitVec 6 :=
  let ps := List.zipWith (dotProduct ints) xs ys
  let cs := dotChunks mode ps ((ps.length + 31) / 32)
  match start with
  | some c =>
    let z := readNum fmt32 mode c
    let first := match z with | .fin neg 0 _ => if neg then 2 ^ 31 else 0 | _ => c
    cs.foldl (dotAdd mode) (first, 0)
  | none =>
    match cs with
    | c :: rest => rest.foldl (dotAdd mode) c
    | [] => (0, 0)

/-- Whether a format is an integer format. -/
def isIntFmt (f : ElemFmt) : Bool := match f with
  | .int .. => true
  | _ => false

/-- The source formats of the dot unit (R397). -/
def dotFormat (b : BitVec 32) : Option (ElemFmt × Nat) :=
  let k := (b.extractLsb' 24 4).toNat
  match bankClass b with
  | .elem f bits => if 2 ≤ k ∧ k ≤ 5 ∨ k = 9 then some (f, bits) else none
  | _ => none

/-- Every granule of some ranges is full, or the first that is not. -/
def emptyIn (t : Slot) (rs : List (Nat × Nat)) : Option Nat := rs.findSome? (fun r => firstEmpty t r.1 r.2)

/-- ADOT and AACC (R397, R398): loads of the control stream that wait for full granules, outputs as STFE stores; the
stream is held for the duration of R398. -/
def attentionDot (o : Opnd) (s : State) (columns : Bool) : Result :=
  issue s o do
    let t := s.cur
    let d ← srcG t o.d o.feD
    let x ← srcG t o.a o.feA
    let y ← srcG t o.b o.feB
    let w ← srcG t o.c o.feC
    if bits w 63 48 ≠ 0 then raise 0x04
    else do
      let a ← localAddr x 1
      let b ← localAddr y 16
      let out ← localAddr d 1
      let len := bits w 15 0 + 1
      let cnt := bits w 31 16 + 1
      let stride := 16 * bits w 47 32
      let rows := if columns then len else cnt
      let rowLen := if columns then cnt else len
      if !ownsRange t a 1 then raise 0x08 x
      else if !ownsRange t b 1 then raise 0x08 y
      else if !ownsRange t out 1 then raise 0x08 d
      else match dotFormat (bankFmt t a), dotFormat (bankFmt t b), (bankFmt t out).extractLsb' 24 4 with
      | some (fa, wa), some (fb, wb), 1 =>
        let na := (len * wa + 7) / 8
        let nb := (rowLen * wb + 7) / 8
        if !ownsRange t a na then raise 0x08 x
        else if !ownsRange t b ((rows - 1) * stride + nb) then raise 0x08 y
        else if !ownsRange t out (4 * cnt) then raise 0x08 d
        else
          let acc := o.lvl = 1
          let brows := (List.range rows).map (fun r => (b + r * stride, nb))
          let srcs := [(a, na)] ++ brows ++ (if acc then [(out, 4 * cnt)] else [])
          match emptyIn t srcs with
          | some g => blockOn (.granule none g)
          | none => do
            let c := t.id
            let s ← srcs.foldlM (fun s r => checkGranules s c c (slotCode c) (.waiting false) r.1 r.2) s
            need (!srcs.any (fun r => bankPoisoned t r.1 r.2)) 0x2F
            let s ← checkGranules s c c (slotCode c) (.write t.det.rc) out (4 * cnt)
            let xs := (bankElems t a len wa).map (dotOperand t.mode fa)
            let ys := brows.map (fun r => (bankElems t r.1 rowLen wb).map (dotOperand t.mode fb))
            let column (i : Nat) : List NumVal := if columns then ys.map (fun r => r.getD i .nan) else ys.getD i []
            let rs := (List.range cnt).map (fun i =>
              dotOf t.mode (isIntFmt fa && isIntFmt fb) xs (column i) (if acc then some (leNat (bankRead t (out + 4 * i) 4)) else none))
            let bs := rs.flatMap (fun r => bytesOf 4 r.1)
            let fl := rs.foldl (fun f r => f ||| r.2) (0 : BitVec 6)
            return holdFor ((len * cnt + 2047) / 2048 + 20) (advance (onCur s (fun t =>
              addFlags (setGranules (bankWrite t out bs) out (4 * cnt) true) fl)) o)
      | _, _, _ => raise 0x14

/-- ADOT (R398). -/
def execAdot (o : Opnd) (s : State) : Result := attentionDot o s false

/-- AACC (R398). -/
def execAacc (o : Opnd) (s : State) : Result := attentionDot o s true

end Sys2Proof.Machine
end

