-- ==== Sys2Proof/Machine/Scan.lean ====
section
/-! DEFINITION. Scan operators, state slots, the scan unit and its hubs, and the pannier (R247 to R249, R366 to R381,
R477). -/

namespace Sys2Proof.Machine

/-! ## Operator records (R247 to R249) -/

def sopOrder (r : BitVec 512) : Nat := (r.extractLsb' 8 2).toNat
def sopFold (r : BitVec 512) : Bool := sopOrder r = 1
def sopCount (r : BitVec 512) : Nat := (r.extractLsb' 12 3).toNat + 1
def sopIdent (r : BitVec 512) : List Nat := (List.range 4).map (fun i => (r.extractLsb' (64 + 32 * i) 32).toNat)
def sopUop (r : BitVec 512) (j : Nat) : Nat := (r.extractLsb' (192 + 32 * j) 32).toNat

/-- A field of a micro-op. -/
def uopField (u lo : Nat) : Nat := u / 2 ^ lo % 16

/-- The operands that a micro-op reads (R248). -/
def uopReads (u : Nat) : List Nat :=
  let a := uopField u 8
  let b := uopField u 12
  let c := uopField u 16
  if uopField u 0 = 6 then [a] else if uopField u 0 = 3 then [a, b, c] else [a, b]

/-- Whether an operand code is legal for a number of components, with some temporaries written. -/
def operandOk (comps : Nat) (temps : List Nat) (x : Nat) : Bool :=
  if x < 4 then x < comps else if x < 8 then x - 4 < comps else if x < 12 then temps.contains x else x < 14

/-- The micro-ops in index order: each legal, and every temporary written before it is read. -/
def uopsOk (comps : Nat) : List Nat → List Nat → Bool
  | _, [] => true
  | temps, u :: us =>
    let dst := uopField u 4
    let unused := if uopField u 0 = 6 then uopField u 12 + uopField u 16 else if uopField u 0 = 3 then 0 else uopField u 16
    u < 2 ^ 20 && uopField u 0 < 7 && unused = 0 && (if dst < 4 then dst < comps else 8 ≤ dst && dst < 12)
      && (uopReads u).all (operandOk comps temps) && uopsOk comps (if dst < 4 then temps else dst :: temps) us

/-- Whether a record has a fault of cause 5 (R249). -/
def sopBad (r : BitVec 512) : Bool :=
  let comps := sopComps r
  let us := (List.range (sopCount r)).map (sopUop r)
  r.extractLsb' 448 64 ≠ 0 || r.extractLsb' 15 49 ≠ 0 || 2 ≤ sopOrder r
    || ((List.range 4).any (fun i => comps ≤ i && (sopIdent r).getD i 0 ≠ 0))
    || ((List.range 8).any (fun j => sopCount r ≤ j && sopUop r j ≠ 0))
    || !uopsOk comps [] us
    || !((List.range comps).all (fun i => us.any (fun u => uopField u 4 = i)))

/-- The value of an operand code: earlier element, later element, temporaries, constants. -/
def operandValue (p n temps : List Nat) (x : Nat) : Nat :=
  if x < 4 then p.getD x 0 else if x < 8 then n.getD (x - 4) 0 else if x < 12 then temps.getD (x - 8) 0
  else if x = 13 then 0x3F800000 else 0

/-- The result of a micro-op (R248), rounded once. -/
def uopResult (mode : BitVec 6) (u a b c : Nat) : Nat × BitVec 6 :=
  let v (x : Nat) : NumVal := readNum fmt32 mode x
  let round (r : NumVal × BitVec 6) : Nat × BitVec 6 := let y := roundNum fmt32 mode r.1; (y.1, r.2 ||| y.2)
  match uopField u 0 with
  | 0 => round (addNum mode (v a) (v b))
  | 1 => round (addNum mode (v a) (negNum (v b)))
  | 2 => round (mulNum (v a) (v b))
  | 3 => round (fusedNum mode false false (v a) (v b) (v c))
  | 4 => minMaxNum fmt32 mode false a b
  | 5 => minMaxNum fmt32 mode true a b
  | _ => round (v a, 0)

/-- Op(L, R) of R369: the components, and the flags that the micro-ops raise. -/
def scanApply (op : ScanOp) (p n : List Nat) : List Nat × BitVec 6 :=
  let us := (List.range (sopCount op.record)).map (sopUop op.record)
  let r := us.foldl (fun (x : List Nat × List Nat × BitVec 6) u =>
    let val (k : Nat) : Nat := operandValue p n x.2.1 k
    let y := uopResult op.mode u (val (uopField u 8)) (val (uopField u 12)) (val (uopField u 16))
    let dst := uopField u 4
    if dst < 4 then (x.1.set dst y.1, x.2.1, x.2.2 ||| y.2) else (x.1, x.2.1.set (dst - 8) y.1, x.2.2 ||| y.2))
    ([0, 0, 0, 0], [0, 0, 0, 0], 0)
  (r.1, r.2.2)

/-- A read at .SL that the deterministic mode does not check (R188): a refused line or consumed poison faults. -/
def plainRead (s : State) (pa n : Nat) (reg : Word) : Res (State × List Byte) := do
  needReleased s (dieOf s.cur.id.core) (linesOf pa n)
  match refusedByte s s.cur pa (linesOf pa n) rightRead false with
  | some x => raise 0x25 (reg + word (x - pa))
  | none => if poisoned s pa n then raise 0x2F else .ok (homeRead s pa n)

/-- SOPSET (R373): the record is read at .SL through the handle, and checked. -/
def execSopset (o : Opnd) (s : State) : Result :=
  issue s o do
    let off := (sx o.imm16).toInt
    let h ← useHandle s.cur (o.a.setWidth 4) o.feA off
    if off % 64 ≠ 0 then raise 0x04
    else do
      let pa ← checkPage h off 64 permRd
      let x ← plainRead s pa 64 (BitVec.ofInt 64 off)
      let r : BitVec 512 := BitVec.ofNat 512 (leNat x.2)
      let op := r.extractLsb' 0 8
      if op ≠ 1 then .error (.fault { code := 0x02, sub := if op = 0 then 1 else 2 })
      else if sopBad r then .error (.fault { code := 0x02, sub := 5 })
      else return advance (onCur x.1 (fun t => { t with scanOp := some { record := r, mode := t.mode } })) o

/-! ## State slots (R366, R367) -/

def zRead (t : Slot) (z : BitVec 6) (off n : Nat) : List Byte := sgetRange 0 t.z (stateBytes * z.toNat + off) n

def zWrite (t : Slot) (z : BitVec 6) (off : Nat) (bs : List Byte) : Slot :=
  { t with z := ssetRange 0 t.z (stateBytes * z.toNat + off) bs }

def zTag (t : Slot) (z : BitVec 6) : ZTag := sget {} t.ztag z.toNat

def setZTag (t : Slot) (z : BitVec 6) (x : ZTag) : Slot := { t with ztag := sset {} t.ztag z.toNat x }

/-- Tag states (R367). -/
abbrev tagUnbound : BitVec 2 := 0
abbrev tagBound : BitVec 2 := 1
abbrev tagDead : BitVec 2 := 2

/-- The header of a state slot (R366). -/
def zHeader (t : Slot) (z : BitVec 6) : Nat := leNat (zRead t z 0 64)
def hdrP (h : Nat) : Nat := h % 2 ^ 27
def hdrNch (h : Nat) : Nat := h / 2 ^ 27 % 2 ^ 12
def hdrComps (h : Nat) : Nat := h / 2 ^ 39 % 4 + 1
def hdrOrder (h : Nat) : Nat := h / 2 ^ 41 % 4

/-- The slot declared the state slot, or the ownership fault (R33). -/
def needZ (t : Slot) (z : BitVec 6) : Res Unit := need ((recZmask t.record).getLsbD z.toNat) 0x0A

/-- A state slot that the scan, chain and pannier operations may use (R367). -/
def needBound (t : Slot) (z : BitVec 6) : Res Unit :=
  let x := zTag t z
  if x.state = tagBound then .ok () else if x.state = tagDead then raise 0x26 (zx x.kdh) else raise 0x1A

/-- The state slot that an operation names (R368). -/
def namedZ (w : Work) : Option (BitVec 6) :=
  match w with
  | .scan z .. => some z
  | .pannier _ z .. => some z
  | .chsend z .. => some z
  | .chrecv z _ => some z
  | _ => none

/-- The operations that name a state slot. -/
def zOps (t : Slot) (z : BitVec 6) : List Nat := (t.ops.filter (fun o => namedZ o.work = some z)).map (fun o => o.id)

/-- Whether every earlier operation on the state slot of an operation is over (R368). -/
def zTurn (t : Slot) (o : Op) : Bool :=
  match namedZ o.work with
  | some z => !(zOps t z).any (fun i => i < o.id)
  | none => true

/-- The stream waits until no operation names the state slot (R368, R374). -/
def zIdle (t : Slot) (z : BitVec 6) : Res Unit := if (zOps t z).isEmpty then .ok () else blockOn (.ops (zOps t z))

/-- The tag that SBIND gives for g(a), with its status (R374). -/
def bindTag (s : State) (t : Slot) (x : Word) : ZTag × Nat :=
  let kdh := x.extractLsb' 0 32
  let held := (s.kv[kdhDie kdh]).seqs.any (fun x => x.tenant = t.tenant && x.doms.contains kdh)
  if x = 0 then ({ state := tagBound }, 0)
  else if handleDead s kdh then ({ state := tagDead, kdh := kdh }, kvDead)
  else if held then ({ state := tagBound, kdh := kdh }, 0)
  else ({}, kvRefused)

/-- A state slot zeroed for `nch` channels under a tag; the holder that SBIND.NEW made for it is released first. -/
def rebind (s : State) (z : BitVec 6) (nch : Nat) : State :=
  let old := zTag s.cur z
  let s := if old.fresh && old.state = tagBound then releaseDomain s old.kdh else s
  onCur s (fun t =>
    let lo := stateBytes * z.toNat
    zWrite { t with z := sclear t.z lo (lo + stateBytes) } z 0 (bytesOf 64 (nch * 2 ^ 27)))

/-- The common part of SBIND and SBIND.NEW (R374): `tag` gives the state, the tag and the status. -/
def bindState (o : Opnd) (s : State) (malformed : Word → Bool) (tag : State → Word → State × ZTag × Nat) : Result :=
  issue s o do
    let x ← srcG s.cur o.a o.feA
    let z := o.d
    needZ s.cur z
    if 2044 < o.imm16.toNat + 1 then raise 0x04
    else if malformed x then raise 0x1E
    else do
      zIdle s.cur z
      dstG s.cur o.b
      let r := tag (rebind s z (o.imm16.toNat + 1)) x
      return finishG (onCur r.1 (fun t => setZTag t z r.2.1)) o o.b (word r.2.2)

/-- SBIND (R374). -/
def execSbind (o : Opnd) (s : State) : Result :=
  bindState o s (fun x => x ≠ 0 && bits x 15 0 = 0) (fun s x =>
    let r := bindTag s s.cur x
    (s, r.1, r.2))

/-- SBIND.NEW (R374). -/
def execSbindNew (o : Opnd) (s : State) : Result :=
  bindState o s (fun _ => false) (fun s x =>
    match newDomain s (if x.getLsbD 31 then 1 else 0) with
    | some (s, kdh) => (s, { state := tagBound, kdh := kdh, fresh := true }, 0)
    | none => (s, {}, kvNoKey))

/-- The byte offset of SLD and SST (R380). -/
def zOffset (o : Opnd) (x : Word) : Res Nat :=
  let off := x.toInt + (sx o.imm16).toInt
  if off % 16 ≠ 0 ∨ off < 0 ∨ (stateBytes : Int) < off + 512 then raise 0x04 else .ok off.toNat

/-- SLD and SST refuse a DEAD state slot (R133). -/
def needLive (t : Slot) (z : BitVec 6) : Res Unit :=
  let x := zTag t z
  if x.state = tagDead then raise 0x26 (zx x.kdh) else .ok ()

/-- SLD (R380). -/
def execSld (o : Opnd) (s : State) : Result :=
  issue s o do
    let x ← srcG s.cur o.b o.feB
    needZ s.cur o.a
    let off ← zOffset o x
    zIdle s.cur o.a
    needLive s.cur o.a
    let d := vreg o.d.toNat
    dstV s.cur d
    return finishL s o [] [(d, BitVec.ofNat 4096 (leNat (zRead s.cur o.a off 512)))] (latency := 8)

/-- SST (R380). -/
def execSst (o : Opnd) (s : State) : Result :=
  issue s o do
    let x ← srcG s.cur o.b o.feB
    let v ← srcV s.cur (vreg o.d.toNat) o.feD
    needZ s.cur o.a
    let off ← zOffset o x
    zIdle s.cur o.a
    needLive s.cur o.a
    return advance (onCur s (fun t => zWrite t o.a off (bytesOf 512 v.toNat))) o

/-! ## Scans (R369 to R379) -/

/-- A footprint of a scan (R375): an aligned local address, and `n` bytes of one declared bank, or no check of them where
the captured nch gives no footprint. -/
def scanPlace (t : Slot) (x : Word) (n : Nat) : Res Nat := do
  let a ← localAddr x 16
  if n = 0 || ownsRange t a n then return a else raise 0x04

/-- The issue of SCANL, SCAN and SSTEP (R375, R376). -/
def scanIssue (o : Opnd) (s : State) (n : Nat) (troupe step : Bool) : Result :=
  issue s o do
    let x ← srcG s.cur o.a o.feA
    let y ← srcG s.cur o.b o.feB
    needZ s.cur o.d
    let q ← checkCounter s.cur o.c
    match s.cur.scanOp with
    | none => raise 0x1B
    | some op =>
      let nch := hdrNch (zHeader s.cur o.d)
      let size := if nch = 0 ∨ 2044 < nch then 0 else 4 * sopComps op.record * n * nch
      let a ← scanPlace s.cur x size
      let b ← scanPlace s.cur y size
      if a ≠ b ∧ a < b + size ∧ b < a + size then raise 0x04
      else
        let w : Work := .scan o.d a b n nch op troupe step false []
        let op : Op := { id := 0, source := 3, coff := (ctlSite s o).coff, work := w }
        return advance (onCur s (fun t => pushOp (setGranules t b size false) (some q) op)) o

/-- SCANL (R377). -/
def execScanl (o : Opnd) (s : State) : Result := scanIssue o s (o.imm16.toNat + 1) false false

/-- SCAN (R378). -/
def execScan (o : Opnd) (s : State) : Result := scanIssue o s (o.imm16.toNat + 1) true false

/-- SSTEP (R377). -/
def execSstep (o : Opnd) (s : State) : Result := scanIssue o s 1 false true

/-- The state of one channel: its value, and the valid stack levels (R366). -/
structure Channel where
  value : List Nat
  stack : List (Option (List Nat))
  deriving DecidableEq, Repr

/-- A 16-byte entry of four components. -/
def zEntry (t : Slot) (z : BitVec 6) (off : Nat) : List Nat :=
  let x := leNat (zRead t z off 16)
  (List.range 4).map (fun i => x / 2 ^ (32 * i) % 2 ^ 32)

/-- The channels of a state slot as it stands. -/
def channelsOf (t : Slot) (z : BitVec 6) : List Channel :=
  let h := zHeader t z
  (List.range (hdrNch h)).map (fun ch =>
    { value := zEntry t z (64 + 16 * ch)
      stack := (List.range 27).map (fun j =>
        if hdrOrder h = 1 && (hdrP h).testBit j then some (zEntry t z (64 + 16 * hdrNch h + 16 * (27 * ch + j)))
        else none) })

/-- A block carried up the stack from level `j` at position `p` (R370). -/
def carryUp (op : ScanOp) (p : Nat) (st : List (Option (List Nat))) (x : List Nat) (fl : BitVec 6) (j : Nat) :
    Nat → List (Option (List Nat)) × BitVec 6
  | 0 => (st, fl)
  | fuel + 1 =>
    match p.testBit j, st.getD j none with
    | true, some b =>
      let r := scanApply op b x
      carryUp op p (st.set j none) r.1 (fl ||| r.2) (j + 1) fuel
    | _, _ => (st.set j (some x), fl)

/-- One position absorbed by a channel (R370, R371). DESIGN CHOICE (log 85): under TREE, position 0 is the block
B(0, 0) = x_0 with its bits unchanged; R102's y_0 is read as that of the vector scans. -/
def absorb (op : ScanOp) (p : Nat) (c : Channel) (x : List Nat) : Channel × BitVec 6 :=
  if sopFold op.record then
    let r := scanApply op (if p = 0 then sopIdent op.record else c.value) x
    ({ c with value := r.1 }, r.2)
  else
    let up := carryUp op p c.stack x 0 0 28
    let r := up.1.reverse.foldl (fun (y : Option (List Nat) × BitVec 6) b =>
      match y.1, b with
      | some v, some b => let z := scanApply op v b; (some z.1, y.2 ||| z.2)
      | none, b => (b, y.2)
      | v, none => (v, y.2)) (none, up.2)
    ({ value := r.1.getD [], stack := up.1 }, r.2)

/-- Elements absorbed in order, channel fastest: the channels, the results, and the flags. -/
def absorbAll (op : ScanOp) (p0 nch : Nat) (cs : List Channel) (xs : List (List Nat)) :
    List Channel × List (List Nat) × BitVec 6 :=
  let r := xs.zipIdx.foldl (fun (y : List Channel × List (List Nat) × BitVec 6) e =>
    let ch := e.2 % nch
    let z := absorb op (p0 + e.2 / nch) (y.1.getD ch { value := [], stack := [] }) e.1
    (y.1.set ch z.1, z.1.value :: y.2.1, y.2.2 ||| z.2)) (cs, [], 0)
  (r.1, r.2.1.reverse, r.2.2)

/-- Bytes cut into elements of `comps` components each. -/
def elementsOf (comps : Nat) (bs : List Byte) : List (List Nat) :=
  (List.range (bs.length / (4 * comps))).map (fun e =>
    let x := leNat ((bs.drop (4 * comps * e)).take (4 * comps))
    (List.range 4).map (fun i => if i < comps then x / 2 ^ (32 * i) % 2 ^ 32 else 0))

/-- The bytes of an element's first components. -/
def elementBytes (comps : Nat) (x : List Nat) : List Byte := (x.take comps).flatMap (fun c => bytesOf 4 c)

/-- The state slot at the completion of a scan (R366, R377). -/
def storeState (t : Slot) (z : BitVec 6) (op : ScanOp) (p nch : Nat) (cs : List Channel) : Slot :=
  let fold := sopFold op.record
  let order := if fold then 2 else 1
  let h := p + nch * 2 ^ 27 + (sopComps op.record - 1) * 2 ^ 39 + order * 2 ^ 41
  let entry (x : List Nat) : List Byte := x.flatMap (fun c => bytesOf 4 c)
  let values := cs.flatMap (fun c => entry c.value)
  let stack := if fold then List.replicate (432 * nch) 0
    else cs.flatMap (fun c => c.stack.flatMap (fun b => match b with
      | some x => entry x
      | none => List.replicate 16 0))
  zWrite t z 0 ((bytesOf 64 h ++ values ++ stack).take stateBytes)

/-- The checks of the scan unit (R376), in the order of its table. -/
def scanCheck (t : Slot) (z : BitVec 6) (n nch : Nat) (op : ScanOp) (step : Bool) : Res Unit := do
  needBound t z
  let h := zHeader t z
  let tree := !sopFold op.record
  if 0 < hdrP h && hdrComps h ≠ sopComps op.record then raise 0x1A
  else if 0 < hdrP h && tree && (hdrOrder h = 0 || hdrOrder h = 2) then raise 0x1B
  else if ((tree || hdrOrder h = 1) && 64 < hdrNch h) || 2 ^ 26 < hdrP h + n || hdrOrder h = 3 || 2 ^ 43 ≤ h then raise 0x1A
  else if hdrNch h ≠ nch || nch = 0 || 2044 < nch then raise 0x1A
  else if step && tree then raise 0x1B
  else return ()

/-- The scan operation that the unit, or for SSTEP the single-step pipeline, starts next (R376, R477). -/
def scanNext (s : State) (t : Slot) : Option Op :=
  if !enginesRun s t then none
  else t.ops.find? (fun o =>
    match o.work with
    | .scan _ _ _ _ _ _ _ step started _ =>
      !o.stopped && !started && inOrder t o && zTurn t o && !t.ops.any (fun p => decide (p.id < o.id) && (match p.work with
        | .scan _ _ _ _ _ _ _ step' _ _ => step' = step
        | _ => false))
    | _ => false)

/-- The troupe-address fault of a SCAN outside a troupe (R379). -/
def needTroupe (t : Slot) (troupe : Bool) : Res Unit := need (!troupe || troupeSize t ≠ 0) 0x0C

/-- The cc that the scan unit takes (R377); a SCAN takes 40 more for each hub level (R378). -/
def scanTime (op : ScanOp) (n nch : Nat) (step : Bool) : Nat :=
  let rounds := sopCount op.record * ((n * nch + 63) / 64)
  if step then 12 + rounds else if sopFold op.record then 24 + rounds else 24 + 2 * rounds

/-- SCAN_UNIT_START (R376). -/
def execScanUnitStart (c : SlotId) (s : State) : Result :=
  event s (match slotOf s c with
    | none => s
    | some t =>
      match scanNext s t with
      | none => s
      | some o =>
        match o.work with
        | .scan z src dst n nch op troupe step _ _ =>
          (match needTroupe t troupe >>= fun _ => scanCheck t z n nch op step with
           | .error (.fault f) => opFault s c o f
           | .error _ => s
           | .ok _ => modSlot s c (fun t => modOp t o.id (fun o =>
               { o with due := s.cycle + scanTime op n nch step, work := .scan z src dst n nch op troupe step true [] })))
        | _ => s)

/-- The bytes of the source that a scan can read now, beyond those it has read: whole elements whose granules are full,
or all of them in place (R375, R377). -/
def scanAvailable (t : Slot) (src dst size cb done : Nat) : Nat :=
  if src = dst then size
  else match firstEmpty t (src + done) (size - done) with
    | none => size
    | some g => (16 * g - src) / cb * cb

/-- The scan in progress of a slot that has read what it has not written, or has run its duration and has more source to read
(R377). -/
def scanRunning (s : State) (t : Slot) : Option Op :=
  if !enginesRun s t then none
  else t.ops.find? (fun o =>
    match o.work with
    | .scan _ src dst n nch op false _ true read =>
      let cb := 4 * sopComps op.record
      !o.stopped && (o.staged.isSome || (decide (o.due ≤ s.cycle)
        && decide (read.length < scanAvailable t src dst (cb * n * nch) cb read.length)))
    | _ => false)

/-- The source of a scan from a byte on up to another read by its engine (R45, R377): granules in place are not waited for. -/
def scanTake (s : State) (t : Slot) (o : Op) (src dst got upto : Nat) : Res (State × List Byte) := do
  let s ← checkGranules s t.id t.id (engineCode t.id (o.q.getD 0)) (if src = dst then .plain else .waiting false)
    (src + got) (upto - got)
  (bankData s t.id (src + got) (upto - got)).map (fun bs => (s, bs))

/-- The unit reads what has become full (R377). What it writes of it is an engine write of a cc after this one (R46);
`staged` keeps where the results not written begin. -/
def scanRead (s : State) (t : Slot) (o : Op) (z : BitVec 6) (src dst n nch : Nat) (op : ScanOp) (troupe step : Bool)
    (read : List Byte) : Res State := do
  scanCheck t z n nch op step
  let cb := 4 * sopComps op.record
  let got := read.length
  let r ← scanTake s t o src dst got (scanAvailable t src dst (cb * n * nch) cb got)
  return modSlot r.1 t.id (fun t => modOp t o.id (fun o =>
    { o with staged := some { values := [got] }, work := .scan z src dst n nch op troupe step true (read ++ r.2) }))

/-- The unit writes the granules whose results are complete; after the last element the state slot changes and the operation is
over (R377). -/
def scanWrite (s : State) (t : Slot) (o : Op) (z : BitVec 6) (dst n nch : Nat) (op : ScanOp) (step : Bool)
    (read : List Byte) (w : Staged) : Res State := do
  scanCheck t z n nch op step
  let comps := sopComps op.record
  let size := 4 * comps * n * nch
  let upto := read.length
  let r := absorbAll op (hdrP (zHeader t z)) nch (channelsOf t z) (elementsOf comps read)
  let from_ := w.values.headD 0 / 16 * 16
  let end_ := if upto = size then size else upto / 16 * 16
  let s ← checkGranules s t.id t.id (engineCode t.id (o.q.getD 0)) (.write t.det.rc) (dst + from_) (end_ - from_)
  return modSlot s t.id (fun t =>
    let bs := ((r.2.1.flatMap (elementBytes comps)).drop from_).take (end_ - from_)
    let t := setGranules (bankWrite t (dst + from_) bs) (dst + from_) (end_ - from_) true
    if upto = size then
      modOp (storeState t z op (hdrP (zHeader t z) + n) nch r.1) o.id (fun o =>
        { o with staged := none, work := .none, flags := o.flags ||| r.2.2 })
    else modOp t o.id (fun o => { o with staged := none }))

/-- SCAN_COMPLETE (R377): the unit writes what it has read, or reads on. The checks of its start hold on (R133, R376). -/
def execScanComplete (c : SlotId) (s : State) : Result :=
  event s (match slotOf s c with
    | none => s
    | some t =>
      match scanRunning s t with
      | none => s
      | some o =>
        match o.work with
        | .scan z src dst n nch op troupe step _ read =>
          let r := match o.staged with
            | some w => scanWrite s t o z dst n nch op step read w
            | none => scanRead s t o z src dst n nch op troupe step read
          (match r with
           | .ok s => s
           | .error (.fault f) => opFault s c o f
           | .error _ => s)
        | _ => s)

/-! ## The scan tree (R378, R379) -/

/-- The SCAN in progress of a member. -/
def memberScan (s : State) (t : Slot) : Option Op :=
  if !enginesRun s t then none
  else t.ops.find? (fun o => match o.work with
    | .scan _ _ _ _ _ _ true _ true _ => !o.stopped
    | _ => false)

/-- What the members of a SCAN must agree in (R379). -/
def scanKey (t : Slot) (w : Work) : Option (Nat × Nat × ScanOp × BitVec 32) :=
  match w with
  | .scan z _ _ n nch op .. => some (n, nch, op, (zTag t z).kdh)
  | _ => none

/-- Every member of a slot's troupe with its SCAN, in rank order, once all have one (R378). -/
def scanMembers (s : State) (t : Slot) : Option (List (Slot × Op)) :=
  if troupeSize t = 0 then none
  else (List.range (troupeSize t)).mapM (fun r =>
    match (if r = troupeRank t then some t else memberSlot s t r) with
    | some m => (memberScan s m).map (fun o => (m, o))
    | none => none)

/-- The fault that every member of a SCAN raises (R379), or none. -/
def scanFault (ms : List (Slot × Op)) : Option (BitVec 8) :=
  match ms with
  | [] => none
  | (t, o) :: _ =>
    match o.work with
    | .scan z _ _ n _ op .. =>
      let p := hdrP (zHeader t z)
      if ms.any (fun m => match m.2.work with | .scan _ _ _ _ _ op' .. => sopFold op'.record | _ => false) then some 0x1B
      else if ms.any (fun m => match m.2.work with | .scan _ _ _ n' .. => n' ≠ 2 ^ n'.log2 | _ => false) || p % n ≠ 0
      then some 0x1C
      else if ms.any (fun m => scanKey m.1 m.2.work ≠ scanKey t o.work) then some 0x1D
      else if 2 ^ 26 < p + n * ms.length || sopFold op.record then some 0x1A
      else none
    | _ => none

/-- Whether every source granule of the members is full, so that the hubs can combine (R45, R378). -/
def scanSources (ms : List (Slot × Op)) : Bool :=
  ms.all (fun m => match m.2.work with
    | .scan _ src dst n nch op .. => src = dst || (firstEmpty m.1 src (4 * sopComps op.record * n * nch)).isNone
    | _ => false)

/-- One member's source read, which the combination of a later cc takes (R46). -/
def scanMemberRead (s : State) (m : Slot × Op) : Res State :=
  match m.2.work with
  | .scan _ src dst n nch op .. => do
    let r ← scanTake s m.1 m.2 src dst 0 (4 * sopComps op.record * n * nch)
    return modSlot r.1 m.1.id (fun t => modOp t m.2.id (fun o =>
      { o with staged := some { values := r.2.map (fun b => b.toNat) } }))
  | _ => .ok s

/-- The source bytes of a member that have been read. -/
def memberBytes (m : Slot × Op) : List Byte :=
  match m.2.staged with
  | some w => w.values.map (BitVec.ofNat 8)
  | none => []

/-- One member's results written, with its flags; answers the channels after it. -/
def scanMember (p0 n nch : Nat) (op : ScanOp) (r : Res (State × List Channel × Nat)) (m : Slot × Op) :
    Res (State × List Channel × Nat) := do
  let (s, cs, k) ← r
  match m.2.work with
  | .scan _ _ dst .. =>
    let c := m.1.id
    let comps := sopComps op.record
    let size := 4 * comps * n * nch
    let y := absorbAll op (p0 + k * n) nch cs (elementsOf comps (memberBytes m))
    let s ← checkGranules s c c (engineCode c (m.2.q.getD 0)) (.write m.1.det.rc) dst size
    return (modSlot s c (fun t =>
      let t := setGranules (bankWrite t dst (y.2.1.flatMap (elementBytes comps))) dst size true
      modOp t m.2.id (fun o => { o with flags := o.flags ||| y.2.2 })), y.1, k + 1)
  | _ => return (s, cs, k)

/-- Whether the sources of every member are read. -/
def scanTaken (ms : List (Slot × Op)) : Bool := ms.all (fun m => m.2.staged.isSome)

/-- The chunks absorbed in rank order from rank 0's state; every member's slot then holds the final state (R378). -/
def scanCombine (s : State) (ms : List (Slot × Op)) : Res State :=
  match ms with
  | (t, o) :: _ =>
    (match o.work with
     | .scan z _ _ n nch op .. => do
       let p0 := hdrP (zHeader t z)
       let r ← ms.foldl (scanMember p0 n nch op) (.ok (s, channelsOf t z, 0))
       return ms.foldl (fun s m => modSlot s m.1.id (fun u =>
         match m.2.work with
         | .scan z' .. =>
           modOp (storeState u z' op (p0 + n * ms.length) nch r.2.1) m.2.id (fun o => { o with staged := none, work := .none })
         | _ => u)) r.1
     | _ => .ok s)
  | [] => .ok s

/-- The checks of the scan unit on every member, which hold on after its start (R133, R376). -/
def scanMembersOk (ms : List (Slot × Op)) : Res Unit :=
  ms.foldlM (fun _ m => match m.2.work with
    | .scan z _ _ n nch op _ step .. => scanCheck m.1 z n nch op step
    | _ => .ok ()) ()

/-- Whether the last member's duration and the hubs' have run: ⌈log2 S⌉ levels of 40 cc (R378). -/
def scanRan (s : State) (ms : List (Slot × Op)) : Bool :=
  ms.all (fun m => m.2.due + 40 * (2 * ms.length - 1).log2 ≤ s.cycle)

/-- SCAN_HUB_COMBINE (R378): after every member has issued and started, the sources are read, and then the chunks are
combined. -/
def execScanHubCombine (c : SlotId) (s : State) : Result :=
  event s (match (slotOf s c).bind (scanMembers s) with
    | none => s
    | some ms =>
      match scanFault ms with
      | some code => ms.foldl (fun s m => opFault s m.1.id m.2 { code := code }) s
      | none =>
        if !scanTaken ms && (!scanSources ms || !scanRan s ms) then s
        else match (do
            scanMembersOk ms
            if scanTaken ms then scanCombine s ms else ms.foldlM scanMemberRead s) with
          | .ok s => s
          | .error (.fault f) => ms.foldl (fun s m => opFault s m.1.id m.2 f) s
          | .error _ => s)

/-! ## The pannier (R381) -/

/-- SSPILL and SFILL at issue: the page, bounds, permission, and the tag's handle. -/
def pannierIssue (o : Opnd) (s : State) (fill : Bool) : Result :=
  issue s o do
    let off := (sx o.imm16).toInt * 512
    let h ← useHandle s.cur (o.a.setWidth 4) o.feA off
    needZ s.cur o.d
    let _ ← checkPage h off stateBytes (if fill then permRd else permW) true
    if h.kdh ≠ (zTag s.cur o.d).kdh then raise 0x06 (BitVec.ofInt 64 off)
    else do
      let q ← checkCounter s.cur o.c
      let op : Op := { id := 0, source := 3, coff := (ctlSite s o).coff, work := .pannier fill o.d h off.toNat }
      return advance (onCur s (fun t => pushOp t (some q) op)) o

/-- SSPILL (R381). -/
def execSspill (o : Opnd) (s : State) : Result := pannierIssue o s false

/-- SFILL (R381). -/
def execSfill (o : Opnd) (s : State) : Result := pannierIssue o s true

/-- Data of a leaf-mapped page through the cipher engines (R136): none while the handle is dead (R134). -/
def cipher (s : State) (encrypt : Bool) (h : Capture) (off : Nat) (bs : List Byte) : Res (List Byte) :=
  if h.kdh = 0 then .ok bs
  else if handleDead s h.kdh then raise 0x26 (zx h.kdh)
  else
    let k := keyOf s h.kdh
    .ok (xtsUnits encrypt k.k1 k.k2 h.kdh (h.vpage.setWidth 64) (off / 512) bs)

/-- The way of a page's data through the cipher engines of the die that its key domain names (R136): the links of that way are
up (R460). -/
def cipherPath (s : State) (t : Slot) (h : Capture) (pa : Nat) : Res Unit :=
  let die := (kdhDie h.kdh).val + 2
  if h.kdh = 0 || (pathUp s (dieOf t.id.core) die 0 && pathUp s die (homeDie pa) 0) then .ok () else .error .hold

/-- The transfer of a pannier operation. R188 names it neither among the accesses that a deterministic launch makes in
its window nor among the checked ones: it is not checked (log 27). -/
def pannierRun (s : State) (t : Slot) (fill : Bool) (z : BitVec 6) (h : Capture) (off : Nat) : Res State := do
  needBound t z
  let pa := h.base + off
  cipherPath s t h pa
  match refusedByte s t pa (linesOf pa stateBytes) (if fill then rightRead else rightWrite) false with
  | some x => raise 0x25 (word (off + (x - pa)))
  | none => do
    needReleased s (dieOf t.id.core) (linesOf pa stateBytes)
    if fill then
      if poisoned s pa stateBytes then raise 0x2F
      else do
        let r := homeRead s pa stateBytes
        let bs ← cipher r.1 false h off r.2
        return modSlot r.1 t.id (fun t => zWrite t z 0 bs)
    else do
      let bs ← cipher s true h off (zRead t z 0 stateBytes)
      return (homeWrite s pa bs).1

/-- Whether a pannier operation may run now. -/
def pannierReady (s : State) (t : Slot) (o : Op) : Bool :=
  enginesRun s t && !o.stopped && inOrder t o && zTurn t o && (match o.work with | .pannier .. => true | _ => false)

/-- PANNIER_TRANSFER_COMPLETE (R381, R477). -/
def execPannierTransferComplete (c : SlotId) (q : BitVec 4) (n : Nat) (s : State) : Result :=
  event s (match slotOf s c with
    | none => s
    | some t =>
      match opNumbered t q n with
      | none => s
      | some o =>
        match o.work with
        | .pannier fill z h off =>
          if !pannierReady s t o then s
          else (match pannierRun s t fill z h off with
            | .ok s => modSlot s c (fun t => modOp t o.id (fun o => { o with work := .none, wrote := !fill }))
            | .error (.fault f) => opFault s c o f
            | .error _ => s)
        | _ => s)

end Sys2Proof.Machine
end

