-- ==== Sys2Proof/Machine/Chain.lean ====
section
/-! DEFINITION. Carries between packages and cores: CHSEND, CHRECV, the chain ports, and the events that move carries
and their acceptance (R14, R382 to R384, R461, R462). -/

namespace Sys2Proof.Machine

/-! ## Issue -/

def destDev (w : Word) : BitVec 18 := w.extractLsb' 0 18
def destCore (w : Word) : BitVec 8 := w.extractLsb' 18 8
def destSlot (w : Word) : Bool := w.getLsbD 26

/-- CHSEND (R382, R383). -/
def execChsend (o : Opnd) (s : State) : Result :=
  issue s o do
    let w ← srcG s.cur o.a o.feA
    needZ s.cur o.d
    if bits w 63 27 ≠ 0 ∨ (destDev w).extractLsb' 6 12 ≠ s.devid.extractLsb' 6 12 then raise 0x04
    else if 128 ≤ (destCore w).toNat then raise 0x0D
    else do
      let q ← checkCounter s.cur o.c
      let c : Carry :=
        { srcDev := s.devid, source := refOf s.cur s.cur.nextOp, dstDev := destDev w, dstCore := destCore w, dstSlot := destSlot w
          tag := o.imm16, tenant := s.cur.tenant, context := s.cur.context }
      let op : Op := { id := 0, source := 3, coff := (ctlSite s o).coff, work := .chsend o.d w o.imm16 none }
      return advance (onCur { s with carries := s.carries ++ [c] } (fun t => pushOp t (some q) op)) o

/-- CHRECV (R382, R384). -/
def execChrecv (o : Opnd) (s : State) : Result :=
  issue s o do
    needZ s.cur o.d
    let q ← checkCounter s.cur o.c
    let op : Op := { id := 0, source := 3, coff := (ctlSite s o).coff, work := .chrecv o.d o.imm16 }
    return advance (onCur s (fun t => pushOp t (some q) op)) o

/-! ## Checks of a packet (R461) -/

/-- The numbers that stand for the answer and the form of a packet in its header. -/
def answerNum (a : CarryAnswer) : Nat :=
  match a with
  | .accepted => 0
  | .full => 1
  | .undeliverable => 2
  | .refused => 3

def formNum (f : LinkForm) : Nat :=
  match f with
  | .packet => 0
  | .ack => 1
  | .gap => 2
  | .full => 3

/-- Header bytes 4 to 31 (log 105). -/
def chainHead (p : ChainPacket) : List Byte :=
  bytesOf 28 (Config.chainHeader ([p.srcDev.toNat, p.dstDev.toNat, p.srcCore.toNat, p.srcSlot.toNat, p.core.toNat, p.slot.toNat
    , p.tag.toNat, p.tenant.toNat, p.context.toNat, p.seq.toNat, p.index, p.count, answerNum p.answer, formNum p.form]
    ++ p.trainSeqs.map (fun x => x.toNat))).toNat

/-- The CRC-32C of the header. -/
def headCrc (p : ChainPacket) : BitVec 32 := crc32c (chainHead p)

/-- The CRC-32C of the whole packet. -/
def wholeCrc (p : ChainPacket) : BitVec 32 := crc32c (bytesOf 4 (headCrc p).toNat ++ chainHead p ++ p.data)

/-- A packet with its two checks. -/
def sealPacket (p : ChainPacket) : ChainPacket := { p with hcrc := headCrc p, crc := wholeCrc p }

/-- Whether a hop finds a packet undamaged. -/
def soundPacket (p : ChainPacket) : Bool := p.hcrc = headCrc p && p.crc = wholeCrc p

/-! ## Routes (R14, R383, R462) -/

/-- The step count in one axis of the torus, modulo 8, in the + direction. -/
def axisSteps (own dst : BitVec 18) (lo : Nat) : Nat :=
  ((dst.extractLsb' lo 3).toNat + 8 - (own.extractLsb' lo 3).toNat) % 8

/-- The device `n` steps on in the + direction of an axis, 0 for x and 1 for y. -/
def axisDev (dev : BitVec 18) (axis n : Nat) : BitVec 18 :=
  let lo := 3 * axis
  let pos := dev.toNat / 2 ^ lo % 8
  BitVec.ofNat 18 (dev.toNat - pos * 2 ^ lo + (pos + n) % 8 * 2 ^ lo)

/-- Whether a chain link of a package of the domain is down, as firmware knows (R462). -/
def linkDown (s : State) (dev : BitVec 18) (n : Nat) : Bool :=
  if dev = s.devid then (match s.chains[n]? with | some l => !l.up | none => true)
  else s.ringDown.contains (dev, BitVec.ofNat 3 n)

/-- The link of a die in an axis and direction. -/
def axisPort (die axis : Nat) (plus : Bool) : Nat := 4 * die + 2 * axis + (if plus then 0 else 1)

/-- Whether a leg of a route from a device has no link that is down: neither end of any of its hops. -/
def legUp (s : State) (die axis : Nat) (plus : Bool) (src : BitVec 18) (steps : Nat) : Bool :=
  (List.range steps).all (fun i =>
    let here := axisDev src axis (if plus then i else 8 - i)
    let next := axisDev src axis (if plus then i + 1 else 7 - i)
    !linkDown s here (axisPort die axis plus) && !linkDown s next (axisPort die axis (!plus)))

/-- The direction that a carry takes along an axis from one device to another: the shorter way, + on a tie, or the other round
a link that is down (R383, R462). -/
def legWay (s : State) (die axis : Nat) (src dst : BitVec 18) (plus : Bool) : Option Bool :=
  let steps := axisSteps src dst (3 * axis)
  let count (plus : Bool) : Nat := if plus then steps else 8 - steps
  if legUp s die axis plus src (count plus) then some plus
  else if legUp s die axis (!plus) src (count (!plus)) then some (!plus) else none

/-- The shorter way along an axis, + on a tie. -/
def shortWay (src dst : BitVec 18) (axis : Nat) : Bool := axisSteps src dst (3 * axis) ≤ 4

/-- The link on which a train of a die leaves for a device: x before y. A train that has come on link `came` and has more steps
along that link's axis goes straight on. -/
def routeLink (s : State) (die : Nat) (dst : BitVec 18) (came : Option Nat := none) : Option Nat :=
  let axis := if axisSteps s.devid dst 0 ≠ 0 then 0 else 1
  let plus := match came with
    | some n => if n % 4 / 2 = axis then n % 2 = 1 else shortWay s.devid dst axis
    | none => shortWay s.devid dst axis
  (legWay s die axis s.devid dst plus).map (axisPort die axis)

/-! ## Links (R449, R453, R461) -/

/-- A packet sent on a link: numbered, and kept in the 64-packet replay window (R461). -/
def linkSend (s : State) (link : Nat) (p : ChainPacket) : State :=
  match s.chains[link]? with
  | none => s
  | some l =>
    let p := sealPacket { p with seq := l.next }
    let l := { l with next := l.next + 1, window := l.window ++ [{ packet := p, at_ := s.cycle }], wire := p :: l.wire }
    { s with chains := s.chains.setIfInBounds link l }

/-- Whether the replay window of a link has room for packets. -/
def linkRoom (s : State) (link n : Nat) : Bool :=
  match s.chains[link]? with
  | some l => l.window.length + n ≤ 64
  | none => false

def setChain (s : State) (link : Fin 8) (l : ChainLink) : State := { s with chains := s.chains.set link l }

/-- An acknowledgement or a NAK for the neighbour on a link. -/
def linkReply (s : State) (link : Fin 8) (form : LinkForm) (seq : BitVec 24) : State :=
  let l := s.chains[link]
  let p : ChainPacket :=
    { srcDev := s.devid, dstDev := s.devid, srcCore := 0, srcSlot := false, core := 0, slot := false, tag := 0, tenant := 0
      context := 0, seq, index := 0, count := 0, data := [], form }
  setChain s link { l with wire := sealPacket p :: l.wire }

/-- Every kept packet of a link sent again, from the oldest. -/
def resendLink (s : State) (link : Fin 8) (l : ChainLink) : State :=
  let again (p : SentPacket × Nat) : SentPacket :=
    { p.1 with at_ := s.cycle, resends := if p.2 = 0 then p.1.resends + 1 else p.1.resends }
  let sent := (l.window.map (fun p => p.packet)).reverse
  setChain s link { l with window := l.window.zipIdx.map again, resendAt := none, wire := sent ++ l.wire }

/-- The packets of a link that a cumulative acknowledgement leaves. -/
def linkLeft (l : ChainLink) (ack : BitVec 24) : List SentPacket :=
  l.window.filter (fun p => 2 ^ 23 ≤ (ack - p.packet.seq).toNat)

/-- An acknowledgement, a gap or a full queue at the neighbour (R449, R450, R453). -/
def linkAnswered (s : State) (link : Fin 8) (p : ChainPacket) : State :=
  let l := s.chains[link]
  let w := linkLeft l (if p.form = .ack then p.seq else p.seq - 1)
  let fulls := if w.length = l.window.length then l.fulls else 0
  match p.form with
  | .gap => resendLink s link { l with window := w, fulls := 0 }
  | .full => setChain s link { l with window := w, fulls := fulls + 1, resendAt := some (s.cycle + backoffTime l.backoff fulls) }
  | _ => setChain s link { l with window := w, fulls := fulls }

/-- A packet dropped and counted against its link, with the drops of the last millisecond (R455, R461). -/
def linkDrop (s : State) (link : Fin 8) : State :=
  let l := s.chains[link]
  setChain s link { l with dropped := l.dropped + 1, drops := l.drops.filter (fun c => s.cycle < c + 1600000) ++ [s.cycle] }

/-- A carry as the packets of its train (R461). -/
def trainOf (c : Carry) (bs : List Byte) : List ChainPacket :=
  let n := (bs.length + 511) / 512
  (List.range n).map (fun i =>
    let d := (bs.drop (512 * i)).take 512
    { srcDev := c.srcDev, dstDev := c.dstDev, srcCore := c.source.slot.core, srcSlot := c.source.slot.slot
      core := c.dstCore, slot := c.dstSlot, tag := c.tag, tenant := c.tenant, context := c.context, seq := 0, index := i, count := n
      data := d ++ List.replicate (512 - d.length) 0 })

/-- The packet that answers a train: source and destination exchanged, its numbers, a train count of 0, no data (R461). -/
def answerOf (p : ChainPacket) (answer : CarryAnswer) (seqs : List (BitVec 24)) : ChainPacket :=
  { p with
    srcDev := p.dstDev, dstDev := p.srcDev, srcCore := p.core, srcSlot := p.slot, core := p.srcCore, slot := p.srcSlot
    seq := 0, index := 0, count := 0, data := [], trainSeqs := seqs, answer := answer }

/-- The ports of the on-package chain lane that a carry passes on its way from one die to another (R14, R125): none when
it stays on its die (log 18). -/
def lanePorts (src dst : Nat) : List Nat := if src = dst then [] else [8 + src, 8 + dst]

/-- A flit (R459): number, acknowledgement, virtual channel, no credits, payload, CRC-64. -/
def flitBytes (seq ack : BitVec 16) (vc : Nat) (payload : List Byte) : List Byte :=
  let bs := bytesOf 2 seq.toNat ++ bytesOf 2 ack.toNat ++ bytesOf 4 vc ++ payload ++ List.replicate (240 - payload.length) 0
  bs ++ bytesOf 8 (crc64 bs).toNat

/-- A flit sent on a UCIe link, kept in the 512-flit replay buffer (R460). -/
def sendFlit (s : State) (link : Fin 5) (vc : Nat) (payload : List Byte) : State :=
  let l := s.ucie[link]
  let f := flitBytes l.next (l.expected - 1) vc payload
  let kept := l.replay ++ [f]
  let l := { l with next := l.next + 1, replay := kept.drop (kept.length - 512), wire := f :: l.wire }
  { s with ucie := s.ucie.set link l }

/-- The bytes of a packet. -/
def packetBytes (p : ChainPacket) : List Byte := bytesOf 4 p.hcrc.toNat ++ chainHead p ++ p.data

/-- A train on the on-package lane: the flits of the compute link, on the chain channel, that its packets fill (R383, R459;
log 105). -/
def laneSend (s : State) (ps : List ChainPacket) : State :=
  let bs := ps.flatMap (fun p => packetBytes (sealPacket p))
  (List.range ((bs.length + 239) / 240)).foldl (fun s i => sendFlit s 0 4 ((bs.drop (240 * i)).take 240)) s

/-- The link on which an answer leaves that goes back along a route which reached this package on link `came` (R383): the
same link at the destination, and beyond it straight on, or at the corner of the route into the x ring, the other way
round from the carry. -/
def backLink (s : State) (came : Nat) (dst : BitVec 18) : Option Nat :=
  let die := came / 4
  let straight := if came % 2 = 0 then came + 1 else came - 1
  let turn (axis : Nat) : Option Nat :=
    (legWay s die axis dst s.devid (shortWay dst s.devid axis)).map (fun plus => axisPort die axis (!plus))
  if axisSteps s.devid dst 3 ≠ 0 then (if 2 ≤ came % 4 then some straight else turn 1)
  else if came % 4 < 2 then some straight
  else turn 0

def chainAdmits (s : State) (ports : List Nat) (tenant context : BitVec 16) : Bool :=
  ports.all (fun p => admits s (.chain (BitVec.ofNat 4 p)) tenant context rightChain)

/-! ## Sending -/

/-- The bytes of a state slot that travel as a carry (R383): header, values, and under TREE the stacks. -/
def carryBytes (t : Slot) (z : BitVec 6) : List Byte :=
  let h := zHeader t z
  zRead t z 0 (min stateBytes (64 + 16 * hdrNch h + (if hdrOrder h = 1 then 432 * hdrNch h else 0)))

/-- The slot, resident now, that sent a carry, with its operation. -/
def carrySender (s : State) (c : Carry) : Option (Slot × Op) :=
  (refOp s c.source).filter (fun x => match x.2.work with | .chsend .. => true | _ => false)

/-- The operation of a CHSEND faults, and its carry is gone. -/
def carryFault (s : State) (i : Nat) (t : Slot) (o : Op) (f : FaultInfo) : State :=
  opFault { s with carries := s.carries.eraseIdx i } t.id o f

/-- Whether an earlier CHSEND of the slot to the same place with the same tag has left the package and is not answered: a later
one waits for its answer, so that the two match in send order (R384; log 92). -/
def sendsBefore (t : Slot) (o : Op) (w : Word) (tag : BitVec 16) : Bool :=
  t.ops.any (fun p => decide (p.id < o.id) && !p.stopped && (match p.work with
    | .chsend _ w' tag' _ => w' = w && tag' = tag
    | _ => false))

/-- The chain port reads the state slot, once earlier operations on it are over, and sends the carry (R368, R383). -/
def carrySend (s : State) (i : Nat) (c : Carry) (t : Slot) (o : Op) (z : BitVec 6) (w : Word) (tag : BitVec 16) : State :=
  if !enginesRun s t || o.stopped || !zTurn t o then s
  else match needBound t z with
  | .error (.fault f) => carryFault s i t o f
  | .error _ => s
  | .ok _ =>
    let bs := carryBytes t z
    let sent (s : State) : State :=
      modSlot s t.id (fun t => modOp t o.id (fun o => { o with work := .chsend z w tag (some c.refusals) }))
    if c.dstDev = s.devid then
      if !chainAdmits s (lanePorts (dieOf c.source.slot.core) (dieOf c.dstCore)) c.tenant c.context then carryFault s i t o { code := 0x25 }
      else if !pathUp s (dieOf c.source.slot.core) (dieOf c.dstCore) 0 then s
      else
        let s := if dieOf c.source.slot.core = dieOf c.dstCore then s else laneSend s (trainOf c bs)
        sent { s with carries := s.carries.set i { c with bytes := some bs } }
    else match routeLink s (dieOf c.source.slot.core) c.dstDev with
      | none => carryFault s i t o { code := 0x28 }
      | some l =>
        if !chainAdmits s [l] c.tenant c.context then carryFault s i t o { code := 0x25 }
        else if sendsBefore t o w tag || !linkRoom s l (trainOf c bs).length then s
        else sent ((trainOf c bs).foldl (fun s p => linkSend s l p) { s with carries := s.carries.eraseIdx i })

/-! ## Receiving (R384) -/

/-- The pending CHRECVs of a slot with a tag, in issue order. -/
def pendingRecv (t : Slot) (tag : BitVec 16) : List Op :=
  t.ops.filter (fun o => match o.work with | .chrecv _ x => x = tag && !o.stopped | _ => false)

/-- The carries with a tag that a slot has accepted and no CHRECV has taken. -/
def heldCarries (t : Slot) (tag : BitVec 16) : List Carry := t.unmatched.filter (fun c => c.tag = tag)

/-- The carries of a slot that no CHRECV matches. -/
def unmatchedCount (t : Slot) : Nat :=
  (t.unmatched.map (fun c => c.tag)).eraseDups.foldl (fun n g =>
    n + ((heldCarries t g).length - (pendingRecv t g).length)) 0

/-- Whether a slot accepts a carry (R384): a pending CHRECV matches it, or fewer than four are unmatched. -/
def acceptsCarry (t : Slot) (c : Carry) : Bool :=
  (heldCarries t c.tag).length < (pendingRecv t c.tag).length || unmatchedCount t < 4

/-- A carry as a packet of its train without data. -/
def carryPacket (c : Carry) : ChainPacket :=
  { srcDev := c.srcDev, dstDev := c.dstDev, srcCore := c.source.slot.core, srcSlot := c.source.slot.slot
    core := c.dstCore, slot := c.dstSlot, tag := c.tag, tenant := c.tenant, context := c.context, seq := 0, index := 0, count := 1
    data := [] }

/-- The answer to a carry on its way to the sender (R383): within the package, or on the link on which the carry came. -/
def answerCarry (s : State) (c : Carry) (answer : CarryAnswer) : State :=
  match c.via with
  | none => { s with acceptances := s.acceptances ++ [{ c with answer := answer }] }
  | some l => linkSend s l (answerOf (carryPacket c) answer c.seqs)

/-- Whether the answer to a carry can be sent now. -/
def answerRoom (s : State) (c : Carry) : Bool :=
  match c.via with
  | none => true
  | some l => linkRoom s l 1

/-- A carry that its receiving slot has no room for (R384, R449): one from this package waits its back-off and comes again;
one from another package is dropped and answered. The lane has the default B of a chain port (R450, log 92). -/
def carryFull (s : State) (i : Nat) (c : Carry) : State :=
  match c.via with
  | none =>
    let c := { c with refusals := c.refusals + 1, due := s.cycle + backoffTime 50 c.refusals }
    { s with carries := s.carries.set i c }
  | some _ => answerCarry { s with carries := s.carries.eraseIdx i } c .full

/-- The bytes that a saved item's save area holds for it (R439). -/
def heldBytes (x : Saved) : Nat :=
  let works := x.slot.ops.map (fun o => match o.work with | .status _ bs => bs.length | _ => 0)
  let carries := x.slot.unmatched.map (fun c => (c.bytes.getD []).length)
  ((x.held.map (fun p => p.2.length)) ++ works ++ carries).foldl (fun n m => n + m) 0

/-- Whether a held section has room for more bytes. -/
def heldRoom (x : Saved) (n : Nat) : Bool := heldBytes x + n ≤ 65536

/-- A carry reaches its receiving slot (R384): accepted, held while the slot is away (HELD_COMPLETION takes it for a saved item
with room, R439), or refused because the slot or the held section is full or its work item gone. -/
def carryReceive (s : State) (i : Nat) (c : Carry) : State :=
  let id : SlotId := ⟨c.dstCore, c.dstSlot⟩
  let gone : State := { s with carries := s.carries.eraseIdx i }
  let resident := (slotOf s id).filter (fun t => match t.item with | some it => !it.retired | none => false)
  match resident with
  | some t =>
    if !enginesRun s t then s
    else if !acceptsCarry t c then carryFull s i c
    else answerCarry (modSlot gone id (fun t => { t with unmatched := t.unmatched ++ [c] })) c .accepted
  | none =>
    match s.saved.find? (fun x => x.slot.id = id) with
    | some x => if acceptsCarry x.slot c && heldRoom x (c.bytes.getD []).length then s else carryFull s i c
    | none => answerCarry gone c .undeliverable

/-- CARRY_ARRIVAL (R383, R384). Carries from one sender to one slot with one tag keep their order; a refused one waits its
back-off. -/
def execCarryArrival (i : Nat) (s : State) : Result :=
  event s (match s.carries[i]? with
    | none => s
    | some c =>
      if (s.carries.take i).any (fun x =>
          x.srcDev = c.srcDev && x.source.slot = c.source.slot && x.dstCore = c.dstCore
            && x.dstSlot = c.dstSlot && x.tag = c.tag) || s.cycle < c.due || !answerRoom s c then s
      else match c.bytes with
      | some _ => carryReceive s i c
      | none =>
        match carrySender s c with
        | some (t, o) => (match o.work with
          | .chsend z w tag _ => carrySend s i c t o z w tag
          | _ => s)
        | none => s)

/-- The CHSEND of a sender answered (R383, R384, R462): accepted, it is over; refused as FULL, the carry is sent again
after the back-off of the link it left on, ahead of later ones; otherwise it faults. -/
def answerSender (s : State) (c : Carry) (t : Slot) (o : Op) : State :=
  match c.answer with
  | .accepted => modSlot s t.id (fun t => modOp t o.id (fun o => { o with work := .none }))
  | .undeliverable => opFault s t.id o { code := 0x28 }
  | .refused => opFault s t.id o { code := 0x25 }
  | .full =>
    let b := match (routeLink s (dieOf t.id.core) c.dstDev).bind (fun l => s.chains[l]?) with
      | some l => l.backoff
      | none => 50
    let again : Carry := { c with bytes := none, refusals := c.refusals + 1, due := s.cycle + backoffTime b c.refusals }
    modSlot { s with carries := again :: s.carries } t.id (fun t => modOp t o.id (fun o =>
      match o.work with
      | .chsend z w tag _ => { o with work := .chsend z w tag none }
      | _ => o))

/-- ACCEPTANCE_PACKET_ARRIVAL (R383): the answer to a carry reaches the sender. It waits for the restore of a pre-empted
sender (R439). -/
def execAcceptancePacketArrival (i : Nat) (s : State) : Result :=
  event s (match s.acceptances[i]? with
    | none => s
    | some c =>
      if s.saved.any (fun x => holdsItem x.slot c.source.item c.source.born) then s
      else
        let s := { s with acceptances := s.acceptances.eraseIdx i }
        match carrySender s c with
        | some (t, o) => answerSender s c t o
        | none => s)

/-- Whether a CHRECV can finish now: its carry has come, or its state slot faults (R368, R384). -/
def recvCarry (t : Slot) (o : Op) (tag : BitVec 16) : Option Carry :=
  (heldCarries t tag)[((pendingRecv t tag).filter (fun p => p.id < o.id)).length]?

def recvReady (s : State) (t : Slot) (o : Op) (z : BitVec 6) (tag : BitVec 16) : Bool :=
  enginesRun s t && !o.stopped && zTurn t o && ((zTag t z).state ≠ tagBound || (recvCarry t o tag).isSome)

/-- The state slot replaced by the carry's header, values and stack (R384). -/
def recvRun (s : State) (t : Slot) (o : Op) (z : BitVec 6) (tag : BitVec 16) : State :=
  match needBound t z, recvCarry t o tag with
  | .error (.fault f), _ => opFault s t.id o f
  | .error _, _ => s
  | .ok _, none => s
  | .ok _, some c =>
    let bs := c.bytes.getD []
    let area := min stateBytes (64 + 448 * hdrNch (leNat (bs.take 64)))
    modSlot s t.id (fun t =>
      let t := zWrite t z 0 (bs ++ List.replicate (area - bs.length) 0)
      modOp { t with unmatched := t.unmatched.erase c } o.id (fun o => { o with work := .none }))

/-! ## Packets (R461) -/

/-- Whether two packets belong to one train. -/
def sameTrain (a b : ChainPacket) : Bool :=
  a.srcDev = b.srcDev && a.srcCore = b.srcCore && a.srcSlot = b.srcSlot && a.core = b.core && a.slot = b.slot
    && a.tag = b.tag && a.count = b.count

/-- The oldest CHSEND that an answer packet answers, as the carry that it sent. -/
def answeredCarry (s : State) (p : ChainPacket) : Option Carry :=
  ((allSlots s ++ s.saved.map (fun x => x.slot)).find? (fun t => t.id = ⟨p.core, p.slot⟩)).bind (fun t =>
    t.ops.findSome? (fun o => match o.work with
      | .chsend _ w tag (some j) =>
        if destDev w = p.srcDev && destCore w = p.srcCore && destSlot w = p.srcSlot && tag = p.tag then
          some { srcDev := s.devid, source := refOf t o.id, dstDev := p.srcDev, dstCore := p.srcCore, dstSlot := p.srcSlot, tag := tag, tenant := p.tenant
                 context := p.context, answer := p.answer, refusals := j }
        else none
      | _ => none))

/-- The carry bytes of a train without the padding of its last packet, by its own header (R383, R461). -/
def trimCarry (bs : List Byte) : List Byte :=
  let h := leNat (bs.take 64)
  bs.take (64 + 16 * hdrNch h + (if hdrOrder h = 1 then 432 * hdrNch h else 0))

/-- A train that goes no further is answered, with its first packet, on the link on which it came (R383, R462); none while that
link has no room. -/
def refuseTrain (s : State) (link : Nat) (p : ChainPacket) (answer : CarryAnswer) : Option State :=
  if p.count = 0 || p.index ≠ 0 then some s
  else if linkRoom s link 1 then
    some (linkSend s link (answerOf p answer ((List.range p.count).map (fun i => p.seq + BitVec.ofNat 24 i))))
  else none

/-- A packet that goes on over a link; none while that link has no room. -/
def forwardPacket (s : State) (link : Nat) (p : ChainPacket) : Option State :=
  if linkRoom s link 1 then some (linkSend s link p) else none

/-- A packet for this package: an answer, or a part of a train, which is a carry once it is whole. A train for a core of
the other die passes the ports of the lane (R14). -/
def packetHere (s : State) (link : Nat) (p : ChainPacket) : Option State :=
  if p.count = 0 then
    some (match answeredCarry s p with
      | some c => { s with acceptances := s.acceptances ++ [c] }
      | none => s)
  else if !chainAdmits s (lanePorts (link / 4) (dieOf p.core)) p.tenant p.context then refuseTrain s link p .refused
  else
    let mine := (s.chains.toList.flatMap (fun l => l.partials)).filter (sameTrain p) ++ [p]
    let cleared := { s with chains := s.chains.map (fun l => { l with partials := l.partials.filter (fun x => !sameTrain p x) }) }
    if mine.length < p.count then
      some (match cleared.chains[link]? with
        | some l => { cleared with chains := cleared.chains.setIfInBounds link { l with partials := l.partials ++ mine } }
        | none => cleared)
    else
      let c : Carry :=
        { srcDev := p.srcDev, source := { slot := ⟨p.srcCore, p.srcSlot⟩ }, dstDev := p.dstDev, dstCore := p.core
          dstSlot := p.slot, tag := p.tag, tenant := p.tenant, context := p.context
          bytes := some (trimCarry (mine.flatMap (fun x => x.data))), via := some link, seqs := mine.map (fun x => x.seq) }
      some { cleared with carries := cleared.carries ++ [c] }

/-- The packet in order at a hop: one of another carry domain is dropped (R25); a train passes the port's access table, and goes
on or stays. None when no room is left for what follows from it. -/
def chainTake (s : State) (link : Nat) (p : ChainPacket) : Option State :=
  let domain (d : BitVec 18) : Bool := d.extractLsb' 6 12 = s.devid.extractLsb' 6 12
  if !domain p.srcDev || !domain p.dstDev then some s
  else if p.count ≠ 0 && !chainAdmits s [link] p.tenant p.context then refuseTrain s link p .refused
  else if p.dstDev = s.devid then packetHere s link p
  else if p.count = 0 then
    match backLink s link p.dstDev with
    | some out => forwardPacket s out p
    | none => some s
  else match routeLink s (link / 4) p.dstDev (some link) with
    | some out =>
      if chainAdmits s [out] p.tenant p.context then forwardPacket s out p else refuseTrain s link p .refused
    | none => refuseTrain s link p .undeliverable

/-- CHAIN_PACKET (R449, R453, R461, R462): a damaged packet is dropped and counted; what is in order is taken and acknowledged,
or refused while no room is left; a gap is named once, and a duplicate acknowledged. DESIGN CHOICE (log 105): every packet
taken is acknowledged at once. -/
def execChainPacket (link : BitVec 3) (p : ChainPacket) (s : State) : Result :=
  event s (
    let n : Fin 8 := link.toFin
    let l := s.chains[n]
    if !l.up then s
    else if !soundPacket p then linkDrop s n
    else if p.form ≠ .packet then linkAnswered s n p
    else
      let ahead := (p.seq - l.expected).toNat
      if ahead = 0 then
        match chainTake (setChain s n { l with expected := l.expected + 1, gapSent := false }) n p with
        | some s' => linkReply s' n .ack p.seq
        | none => linkReply s n .full p.seq
      else if ahead < 2 ^ 23 then
        if l.gapSent then s else linkReply (setChain s n { l with gapSent := true }) n .gap l.expected
      else linkReply s n .ack (l.expected - 1))

/-! ## Timers and failures of a link (R454, R455, R461, R462) -/

/-- The retransmit timer of a link: without an acknowledgement of its oldest packet it sends again from there. -/
def linkTimeout (s : State) (link : Fin 8) : State :=
  let l := s.chains[link]
  match l.window with
  | p :: _ =>
    if l.up && l.resendAt.isNone && decide (p.at_ + 16 * l.retransmit ≤ s.cycle) then resendLink s link l else s
  | [] => s

/-- The back-off of a link's refused packet is over. -/
def linkBackoffEnds (s : State) (link : Fin 8) : State :=
  let l := s.chains[link]
  match l.resendAt with
  | some c => if l.up && decide (c ≤ s.cycle) then resendLink s link l else s
  | none => s

/-- A packet that a link held as it went down leaves over the other way round its ring (R462; log 105); one with no way left is
answered as undeliverable. -/
def reroute (s : State) (die : Nat) (p : ChainPacket) : State :=
  match routeLink s die p.dstDev with
  | some out => linkSend s out p
  | none =>
    if p.count = 0 || p.index ≠ 0 then s
    else
      let q := answerOf p .undeliverable [p.seq]
      if p.srcDev = s.devid then
        (match answeredCarry s q with
         | some c => { s with acceptances := s.acceptances ++ [c] }
         | none => s)
      else match routeLink s die q.dstDev with
        | some out => linkSend s out q
        | none => s

/-- Whether firmware marks a link down (R455, R462). -/
def linkFails (l : ChainLink) (cycle : Nat) (why : PortFailure) : Bool :=
  match why with
  | .drops => 64 ≤ (l.drops.filter (fun c => cycle < c + 1600000)).length
  | .resends => l.window.any (fun p => 8 ≤ p.resends)
  | .lockLost => true

/-- A chain link goes down: one of this package, or of another package, of which firmware learns. -/
def chainDown (s : State) (dev : BitVec 18) (n : BitVec 3) (why : PortFailure) : State :=
  if dev ≠ s.devid then { s with ringDown := s.ringDown.filter (fun x => x ≠ (dev, n)) ++ [(dev, n)] }
  else
    let link : Fin 8 := n.toFin
    let l := s.chains[link]
    if !l.up || !linkFails l s.cycle why then s
    else
      let s := setChain s link { l with up := false, window := [], drops := [], resendAt := none }
      l.window.foldl (fun s p => reroute s (link / 4) p.packet) s

/-- A chain link comes up again, with its numbers at their starts. -/
def chainUp (s : State) (dev : BitVec 18) (n : BitVec 3) : State :=
  if dev ≠ s.devid then { s with ringDown := s.ringDown.filter (fun x => x ≠ (dev, n)) }
  else
    let link : Fin 8 := n.toFin
    let l := s.chains[link]
    if l.up then s
    else setChain s link { l with up := true, next := 1, expected := 1, window := [], gapSent := false, fulls := 0, resendAt := none, drops := [] }

end Sys2Proof.Machine
end

