-- ==== Sys2Proof/Machine/Matrix.lean ====
section
/-! DEFINITION. The matrix stream: its records, their iterations and their completion (R339 to R365, R100, R101). -/

namespace Sys2Proof.Machine

/-! ## Issue -/

/-- A record that is not ready in its target cc (R351): the schedule-miss fault, or a late record. -/
def mxLate (s : State) : Res State :=
  if isStrict s.cur then raise 0x19
  else return onCur (holdRec s true) (fun t => { t with time := { t.time with late := true } })

/-- SB and SLIPS after a slip of `n` cc (R351); SLIPS saturates (R205). -/
def slip (t : Slot) (n : Nat) (counted : Bool) : Slot :=
  { t with
    time := { t.time with sb := t.time.sb + word n }
    slips := if counted && t.slips != BitVec.allOnes 32 then t.slips + 1 else t.slips }

/-- Whether a STRICT record whose handle must be translated again only waits for it, and is late (R120, R351): the translation
cache holds the page, or the record does not trap. -/
def waitsHandle (t : Slot) (r : BitVec 4) (trap : Bool) : Bool :=
  !trap || (cachedLeaf t t.h[r.toNat].vpage).isSome || t.walks.any (fun w => w.h = r && w.due.isSome)

/-- The handle uses of a record (R119, R244): the barrier's address, and the capture of MXSAVE's or MXREST's handle. A
re-translation makes a STRICT record late. -/
def mxUses (t : Slot) (i : Instr) : Res (Option Nat × Option Capture) := do
  let h := headOf i
  let c ← match i with
    | .mxsave _ b => (useHandle t b.h h.trap b.off.toNat).map some
    | .mxrest _ b => (useHandle t b.h h.trap b.off.toNat).map some
    | _ => .ok none
  let bar ← recBarrier t h
  return (bar, c)

/-- The issue of a matrix record: nothing before its target cc; then the checks made at issue, readiness, the handle
uses, the order on its counter (R184; log 91), and the record's own effect (R346 to R353). -/
def mxIssue (s : State) (i : Instr) (check : Slot → Res Unit)
    (perform : State → Option Capture → Res (State × BitVec 6 × List Byte)) : Result :=
  let h := headOf i
  let x := s.cycle
  let target := mxTarget s.cur h
  issueRec s true h do
    if x < target then return holdRec s true
    else
      let q ← recCounter s.cur h
      check s.cur
      match emptyOperand s s.cur i h with
      | some f => if h.trap then .error (.fault f) else mxLate s
      | none =>
        if !mxClear s.cur i x || (isStrict s.cur && decide (target < x)) then mxLate s
        else match mxUses s.cur i with
        | .error (.retranslate r trap off) =>
          if isStrict s.cur && waitsHandle s.cur r trap then mxLate s else .error (.retranslate r trap off)
        | .error e => .error e
        | .ok (bar, use) => do
          let cap : RecCapture :=
            { mode := s.cur.mode
              fmts := match i with | .mxdrain _ b => [bankFmt s.cur b.dst.toNat] | _ => []
              handles := use.toList
              row := 1
              cs := match recFifo i with | some f => s.cur.fifos[f.toNat].issuedC | none => 0 }
          if !orderFree s.cur q (touches s.cur (.matrix i cap x 0 false)) then mxLate s
          else
          let late := decide (target < x)
          let s := onCur s (fun t => slip t (x - target) late)
          let r ← perform s use
          let cap := { cap with out := r.2.2 }
          let work : Work := match i with
            | .mxstamp .. => .none
            | i => match nestOf i with
              | some b => .matrix i cap (x + nestSpan i b) 1 late
              | none => .matrix i cap x 0 late
          let op : Op :=
            { id := 0, source := 1, coff := (recSite s true).coff, barrier := bar, barrierOff := 16 * h.cboff.toNat
              flags := r.2.1, wrote := match i with | .mxsave .. => true | _ => false
              work := work }
          return advanceRec (onCur r.1 (fun t =>
            pushOp { t with time := { t.time with late := false, lastIssue := x } } (some q) op)) true

/-! ## Tiles -/

/-- The key of element (j, c) of a tile. -/
def accKey (tile : BitVec 3) (j c : Nat) : Nat := 16384 * tile.toNat + 256 * j + c

/-- `n` elements of a row of a tile, and their flags: +∞ seen, −∞ seen, NaN seen from bit 0 up (R49, R100). -/
def accRow (t : Slot) (tile : BitVec 3) (j n : Nat) : List (BitVec 48) := sgetRange 0 t.acc (accKey tile j 0) n
def flagRow (t : Slot) (tile : BitVec 3) (j n : Nat) : List (BitVec 3) := sgetRange 0 t.accFlags (accKey tile j 0) n

/-- Whether a tile is declared, or the tile-ownership fault (R49). -/
def needTile (t : Slot) (tile : BitVec 3) (elem : BitVec 32 := 0) : Res Unit :=
  if (recAmask t.record).getLsbD tile.toNat then .ok () else raise 0x09 0 elem

/-- A tile's elements and flags zeroed. -/
def zeroTile (t : Slot) (tile : BitVec 3) : Slot :=
  { t with
    acc := sclear t.acc (accKey tile 0 0) (accKey tile 64 0)
    accFlags := sclear t.accFlags (accKey tile 0 0) (accKey tile 64 0) }

def setTile (t : Slot) (tile : BitVec 3) (x : Tile) : Slot := { t with tiles := t.tiles.set tile.toNat x }

def addLanding (t : Slot) (l : Landing) : Slot := { t with time := { t.time with lands := t.time.lands ++ [l] } }

def addRead (t : Slot) (tile : BitVec 3) (last : Nat) : Slot :=
  { t with time := { t.time with reads := t.time.reads ++ [(tile, last)] } }

/-- MXZERO of one tile, whose write lands in a later cc (R361). -/
def clearTile (t : Slot) (tile : BitVec 3) (lands : Nat) : Slot :=
  addLanding (setTile (zeroTile t tile) tile { t.tiles[tile.toNat] with count := 0, opened := false, qa := none })
    ⟨tile, lands, true⟩

/-- What one product adds to an element: an integer term and the flags it raises (R100). -/
def productTerm (w : Int) (x : NumVal) : Int × BitVec 3 :=
  match x with
  | .nan => (0, 4)
  | .inf neg => (0, if (w < 0) != neg then 2 else 1)
  | .fin neg m _ => (w * (if neg then -(m : Int) else m), 0)

/-- Terms added to the first elements of a row. -/
def addTerms (t : Slot) (tile : BitVec 3) (j : Nat) (xs : List (Int × BitVec 3)) : Slot :=
  let a := List.zipWith (fun (y : BitVec 48) (x : Int × BitVec 3) => y + BitVec.ofInt 48 x.1) (accRow t tile j xs.length) xs
  let t' := { t with acc := ssetRange 0 t.acc (accKey tile j 0) a }
  if xs.all (fun x => x.2 = 0) then t'
  else
    let f := List.zipWith (fun (y : BitVec 3) (x : Int × BitVec 3) => y ||| x.2) (flagRow t tile j xs.length) xs
    { t' with accFlags := ssetRange 0 t.accFlags (accKey tile j 0) f }

/-- Every element of a tile multiplied by three (R357); no nonzero element becomes 0, since 3 is odd. -/
def tripleTile (t : Slot) (tile : BitVec 3) : Slot :=
  { t with acc := t.acc.map (fun p =>
      if accKey tile 0 0 ≤ p.1 ∧ p.1 < accKey tile 64 0 then (p.1, p.2 * 3) else p) }

/-! ## Weights -/

/-- A weight buffer of the slot (R339). -/
def bufferOf (t : Slot) (n : Bool) : WeightBuffer := if n then t.wbuf[1] else t.wbuf[0]

def setBuffer (t : Slot) (n : Bool) (x : WeightBuffer) : Slot := { t with wbuf := if n then t.wbuf.set 1 x else t.wbuf.set 0 x }

/-- The trit of a digit (R87). -/
def tritValue (b i : Nat) : Int := let d := b / 3 ^ i % 3; if d = 1 then 1 else if d = 2 then -1 else 0

/-- The nonzero trits of each column of a weight buffer (R88, R354), as K index and trit. -/
def bufferColumns (w : WeightBuffer) : List (List (Nat × Int)) :=
  let bs := (sgetRange 0 w.bytes 0 16384).toArray
  let trit (k c : Nat) : Int := tritValue (bs.getD (64 * c + k / 5) 0).toNat (k % 5)
  (List.range 256).map (fun c => ((List.range 320).filterMap (fun k =>
    let x := if w.transposed then (if k < 256 then trit c k else 0) else trit k c
    if x = 0 then none else some (k, x))))

/-- The columns of the generated matrices (R358). -/
def generatedColumns (i : Instr) : List (List (Nat × Int)) :=
  match i with
  | .mxperm _ b =>
    (List.range 256).map (fun c => [((b.k0.toNat + c * b.ks.toNat) % 320, if b.neg then -1 else 1)])
  | .mxred _ b =>
    let g := b.k0.toNat
    (List.range 256).map (fun c =>
      ((List.range g).filter (fun i => c * g + i < 320)).map (fun i => (c * g + i, if b.neg then -1 else 1)))
  | _ => []

/-- The terms that an iteration counts (R356, R358). -/
def termsOf (t : Slot) (i : Instr) : Nat :=
  match i with
  | .mxacc _ b => if (bufferOf t b.wbuf).transposed then 256 else 320
  | .mxred _ b => b.k0.toNat
  | _ => 1

/-! ## Iterations -/

/-- The position with a number that a FIFO holds. -/
def heldPosition (t : Slot) (f : BitVec 2) (p : Int) : Option Position :=
  t.fifos[f.toNat].held.find? (fun x => (x.num : Int) = p)

/-- The activation elements of row `r` of a position. -/
def positionRow (p : Position) (f : ElemFmt) (bits r : Nat) : Array NumVal :=
  let x := leNat (sgetRange 0 p.bytes (640 * r) (rowBytesOf bits))
  ((List.range 320).map (fun k => activationOf f (elemOf bits x k))).toArray

/-- The rows of its tile that an iteration adds to, one in each cc (R348). -/
def productRows (i : Instr) (b : MxNest) : Nat :=
  match i with
  | .mxtrn .. => 64
  | _ => nestRows b

/-- The adds of row `j` of an iteration (R356, R358). -/
def addRow (t : Slot) (i : Instr) (b : MxNest) (p : Position) (f : ElemFmt) (bits : Nat) (tile : BitVec 3) (j : Nat) : Slot :=
  let sum (row : Array NumVal) (col : List (Nat × Int)) : Int × BitVec 3 :=
    col.foldl (fun a k => let x := productTerm k.2 (row.getD k.1 .nan); (a.1 + x.1, a.2 ||| x.2)) (0, 0)
  match i with
  | .mxtrn .. =>
    let rows := (List.range (nestRows b)).map (positionRow p f bits)
    addTerms t tile j (rows.map (fun r => productTerm (if b.neg then -1 else 1) (r.getD (b.k0.toNat + j) .nan)))
  | _ =>
    let cols := match i with | .mxacc .. => bufferColumns (bufferOf t b.wbuf) | _ => generatedColumns i
    addTerms t tile j (cols.map (sum (positionRow p f bits j)))

/-- Row `j` of iteration `k` added, from the position that the iteration reads. -/
def iterationRow (t : Slot) (i : Instr) (b : MxNest) (cs k j : Nat) : Slot :=
  match (recFifo i).bind (fun f => heldPosition t f (nestPos b cs k)) with
  | some p => (match activation p.fmt with
    | some (fm, bits) => addRow t i b p fm bits (nestTile b k) j
    | none => t)
  | none => t

/-- Iteration `k` of a compute-pipe product, which starts in cc `y` with its checks and its first row (R356); the other rows
follow, one in each cc (R348). -/
def iteration (t : Slot) (i : Instr) (b : MxNest) (cs k y : Nat) : Res Slot :=
  let tile := nestTile b k
  let elem : BitVec 32 := BitVec.ofNat 32 k
  let fault {α : Type} (c : BitVec 8) : Res α := raise c 0 elem
  match recFifo i with
  | none => .ok t
  | some f =>
    match heldPosition t f (nestPos b cs k) with
    | none => fault 0x15
    | some p =>
      match activation p.fmt with
      | none => fault 0x14
      | some (fm, bits) => do
        let first := decide (firstWrite b tile = some k)
        let old := t.tiles[tile.toNat]
        let t1 := if first && b.opens then zeroTile t tile else t
        let x := if first && b.opens then { old with count := 0, qa := none } else old
        let x := if first && !x.opened then { x with opened := true, full := false } else x
        if first && b.x3 && decide (262144 < 3 * x.count) then fault 0x16
        else
          let t2 := if first && b.x3 then tripleTile t1 tile else t1
          let count := if first && b.x3 then 3 * x.count else x.count
          let qmin := qminOf fm
          if x.qa.isSome && x.qa != some qmin then fault 0x14
          else if 262144 < count + termsOf t i then fault 0x16
          else
            let t3 := setTile t2 tile { x with count := count + termsOf t i, qa := some qmin }
            let t4 := addRow t3 i b p fm bits tile 0
            let last := !writesFrom b (k + 1) tile
            let t5 := if b.closes && last then
                setTile t4 tile { t4.tiles[tile.toNat] with opened := false } else t4
            return addLanding t5 ⟨tile, y + nestSpan i b + 11, b.closes && last⟩

/-- The checks of every iteration before a product issues (R53, R356), in iteration order. A position below 0 was never
filled and is outside the window (log 16). -/
def checkNest (t : Slot) (i : Instr) (b : MxNest) : Res Unit :=
  match recFifo i with
  | none => .ok ()
  | some f =>
    let cs := t.fifos[f.toNat].issuedC
    (List.range (nestCount b)).foldlM (fun _ k =>
      let p := nestPos b cs k
      if p < max 0 ((cs : Int) - 4) ∨ (cs : Int) + 4 ≤ p then raise 0x15 (positionOperand f p) (BitVec.ofNat 32 k)
      else needTile t (nestTile b k) (BitVec.ofNat 32 k)) ()

/-- Cs after a record has issued (R355). -/
def consumeAt (t : Slot) (f : BitVec 2) (n : Nat) : Slot :=
  let x := t.fifos[f.toNat]
  { t with fifos := t.fifos.set f.toNat { x with issuedC := x.issuedC + n } }

/-- A compute-pipe product (R356, R358). -/
def mxProduct (s : State) (i : Instr) (b : MxNest) : Result :=
  mxIssue s i (fun t => checkNest t i b) (fun s _ =>
    match recFifo i with
    | none => .ok (s, 0, [])
    | some f => do
      let t ← iteration s.cur i b s.cur.fifos[f.toNat].issuedC 0 s.cycle
      return (onCur s (fun _ => consumeAt t f b.consume.toNat), 0, []))

/-- MXACC (R356). -/
def execMxacc (h : RecHead) (b : MxNest) (s : State) : Result := mxProduct s (.mxacc h b) b
/-- MXPERM (R358). -/
def execMxperm (h : RecHead) (b : MxNest) (s : State) : Result := mxProduct s (.mxperm h b) b
/-- MXRED (R358). -/
def execMxred (h : RecHead) (b : MxNest) (s : State) : Result := mxProduct s (.mxred h b) b
/-- MXTRN (R358). -/
def execMxtrn (h : RecHead) (b : MxNest) (s : State) : Result := mxProduct s (.mxtrn h b) b

/-! ## The other records -/

/-- Cs without what a record that did nothing would have consumed (R354). -/
def giveBack (t : Slot) (f : BitVec 2) (n : Nat) : Slot :=
  let x := t.fifos[f.toNat]
  { t with fifos := t.fifos.set f.toNat { x with issuedC := x.issuedC - n } }

/-- Chunk `k` of a load: 256 bytes of the position decoded into the buffer. At an illegal trit byte the buffer is all zero trits,
and the record does nothing else, so that what it would consume is not consumed (R87, R352, R354). -/
def loadChunk (t : Slot) (b : MxLdwBody) (f : BitVec 2) (p : Int) (x : Position) (k : Nat) : Slot × Option FaultInfo :=
  let bs := sgetRange 0 x.bytes (256 * k) 256
  match bs.findIdx? (fun y => 243 ≤ y.toNat) with
  | some n =>
    (giveBack (setBuffer t b.wbuf { bytes := [], transposed := b.t }) f b.consume.toNat,
     some { code := 0x18, operand := positionOperand f p, elem := BitVec.ofNat 32 (256 * k + n) })
  | none =>
    let w := bufferOf t b.wbuf
    (setBuffer t b.wbuf { w with bytes := ssetRange 0 w.bytes (256 * k) bs }, none)

/-- MXLDW (R354): its chunks follow, one in each cc. -/
def execMxldw (h : RecHead) (b : MxLdwBody) (s : State) : Result :=
  let f : BitVec 2 := if b.fsel then 3 else 2
  mxIssue s (.mxldw h b)
    (fun t =>
      let cs := t.fifos[f.toNat].issuedC
      let p : Int := cs + b.start.toInt
      if p < max 0 ((cs : Int) - 4) ∨ (cs : Int) + 4 ≤ p then raise 0x15 (positionOperand f p) else .ok ())
    (fun s _ =>
      let p : Int := s.cur.fifos[f.toNat].issuedC + b.start.toInt
      match heldPosition s.cur f p with
      | none => raise 0x15 (positionOperand f p)
      | some x =>
        if bankClass x.fmt ≠ .trit then raise 0x14
        else .ok (onCur s (fun t =>
          consumeAt (setBuffer t b.wbuf { bufferOf t b.wbuf with transposed := b.t }) f b.consume.toNat), 0, []))

/-- MXZERO (R361). -/
def execMxzero (h : RecHead) (mask : BitVec 8) (s : State) : Result :=
  mxIssue s (.mxzero h mask)
    (fun t => (maskTiles mask).foldlM (fun _ n => needTile t n) ())
    (fun s _ => .ok (onCur s (fun t => (maskTiles mask).foldl (fun t n => clearTile t n (s.cycle + 8)) t), 0, []))

/-- The addend of column `c` (R359). -/
def drainAddend (t : Slot) (b : MxDrainBody) (c : Nat) : NumVal :=
  let v (r : BitVec 5) : Nat := (vval t r).toNat
  if b.adt = 1 then readNum fmt32 t.mode (elemOf 32 (v b.av + v (b.av + 1) * 2 ^ 4096) c)
  else readNum (if b.adt = 2 then fmt16 else fmtB16) t.mode (elemOf 16 (v b.av) c)

/-- One drained element (R101): the code in the destination format, and the flags. -/
def drainOne (mode : BitVec 6) (dst : ElemFmt) (qa : Int) (sa sw : NumVal) (ad : Option NumVal) (acc : BitVec 48)
    (fl : BitVec 3) : Nat × BitVec 6 :=
  let both := fl.getLsbD 0 && fl.getLsbD 1
  let l : NumVal := if fl.getLsbD 2 || both then .nan
    else if fl.getLsbD 0 then .inf false
    else if fl.getLsbD 1 then .inf true
    else .fin (acc.toInt < 0) acc.toInt.natAbs qa
  let p := mulNum l sa
  let p2 := mulNum p.1 sw
  let sm := match ad with | some a => addNum mode p2.1 a | none => (p2.1, 0)
  let zero : Bool := match sm.1 with | .fin _ m _ => m = 0 | _ => false
  let r := match dst with
    | .num g => roundNum g mode (if zero then .fin false 0 0 else sm.1)
    | .int sg w => let v := toInt mode sg w sm.1; (toBits w v.1, v.2)
  (r.1, (if both then flagNv else 0) ||| p.2 ||| p2.2 ||| sm.2 ||| r.2)

/-- The checks of MXDRAIN at issue (R344, R359, R360). -/
def checkDrain (t : Slot) (b : MxDrainBody) : Res Unit :=
  let fmt := bankFmt t b.dst.toNat
  let rb := drainRowBytes b fmt
  do
    needTile t b.tile
    if !ownsRange t b.dst.toNat ((drainRows b - 1) * b.rstride.toNat + rb) then raise 0x08 (word b.dst.toNat)
    else if !ownsRange t b.scl.toNat (drainScaleBytes b) then raise 0x08 (word b.scl.toNat)
    else match bankClass fmt with
      | .elem .. => if b.rstride.toNat < rb then .error (.fault { code := 0x02, sub := 6 }) else .ok ()
      | _ => raise 0x14

/-- The rows of a drain: the bytes of each destination row, and the flags of all elements. -/
def drainValues (t : Slot) (b : MxDrainBody) (dst : ElemFmt) (bits : Nat) : List (List Byte) × BitVec 6 :=
  let g := if b.gsz = 0 then 1 else if b.gsz = 1 then 16 else 64
  let sa := readNum fmt32 t.mode b.sa.toNat
  let scales := leNat (bankRead t b.scl.toNat (drainScaleBytes b))
  let cols := (List.range (drainCols b)).map (fun c =>
    (readNum (if b.swt then fmtB16 else fmt16) t.mode (elemOf 16 scales (c / g)),
     if b.adt = 0 then none else some (drainAddend t b c)))
  let qa := t.tiles[b.tile.toNat].qa.getD 0
  let rows := (List.range (drainRows b)).map (fun j =>
    let xs := List.zipWith (fun (x : BitVec 48 × BitVec 3) (c : NumVal × Option NumVal) =>
      drainOne t.mode dst qa sa c.1 c.2 x.1 x.2)
      ((accRow t b.tile j (drainCols b)).zip (flagRow t b.tile j (drainCols b))) cols
    (bytesOf ((drainCols b * bits + 7) / 8) (packElems bits (xs.map (fun x => x.1))),
     xs.foldl (fun f x => f ||| x.2) (0 : BitVec 6)))
  (rows.map (fun r => r.1), rows.foldl (fun f r => f ||| r.2) 0)

/-- The blocks of at most 64 bytes that a drain writes or that a save or a restore moves, as offset and length (R348, R352):
those of a drain row by row. -/
def matrixBlocks (i : Instr) (fmt : BitVec 32) : List (Nat × Nat) :=
  match i with
  | .mxdrain _ b =>
    let n := drainRowBytes b fmt
    (List.range (drainRows b)).flatMap (fun j => (List.range ((n + 63) / 64)).map (fun k =>
      (j * b.rstride.toNat + 64 * k, min 64 (n - 64 * k))))
  | .mxsave .. => (List.range 1665).map (fun k => (64 * k, 64))
  | .mxrest .. => (List.range 1665).map (fun k => (64 * k, 64))
  | _ => []

/-- The cc in which block `k` of a drain, a save or a restore leaves its unit (R348). -/
def blockDue (i : Instr) (start k : Nat) : Nat :=
  match i with
  | .mxdrain .. => start + k + 16
  | _ => start + k + 1

/-- One block of a drain written: a granule becomes full with the last byte of the drain in it (R44, R360). -/
def drainBlock (t : Slot) (a : Nat) (bs : List Byte) (later : List (Nat × Nat)) : Slot :=
  let gs := (granulesOf a bs.length).filter (fun g => !later.any (fun p => decide (p.1 < 16 * g + 16) && decide (16 * g < p.1 + p.2)))
  gs.foldl (fun t g => setGranule t g true) (bankWrite t a bs)

/-- Values of six bytes each. -/
def sixes : Nat → List Byte → List (BitVec 48)
  | 0, _ => []
  | n + 1, bs => BitVec.ofNat 48 (leNat (bs.take 6)) :: sixes n (bs.drop 6)

/-- A saved tile put back as its data has arrived (R348, R363), or the accumulator-restore fault. -/
def restoreTile (t : Slot) (tile : BitVec 3) (bs : List Byte) : Res Slot :=
  let header := leNat (bs.take 64)
  let count := header % 2 ^ 19
  let elems := sixes 16384 (bs.drop 64)
  let nibbles := (bs.drop 98368).flatMap (fun b => [b.toNat % 16, b.toNat / 16])
  let bound : Int := (count * (2 ^ 29 - 1) : Nat)
  if header / 2 ^ 37 ≠ 0 || nibbles.any (fun n => 8 ≤ n) || 262144 < count
      || elems.any (fun e => bound < e.toInt || e.toInt < -bound) then raise 0x17
  else
    let open_ := header.testBit 36
    let qa := if header.testBit 35 then some (readInt true 16 (header / 2 ^ 19)) else none
    let t := setTile t tile { count := count, full := !open_, opened := open_, qa := qa }
    .ok { t with
      acc := ssetRange 0 t.acc (accKey tile 0 0) elems
      accFlags := ssetRange 0 t.accFlags (accKey tile 0 0) (nibbles.map (BitVec.ofNat 3)) }

/-- A request of a save or a restore judged at its home: the access table, the conflict rule, the granules (R127, R194, R448). -/
def judgeBlock (s : State) (t : Slot) (b : MxSaveBody) (pa n : Nat) (write : Bool) (c : Capture) : Res State :=
  match refusedByte s t pa (linesOf pa n) (if write then rightWrite else rightRead) false with
  | some x => raise 0x25 (word (x - c.base))
  | none => do
    let s ← checkLines s t (if write then .write else .read) pa n
    if !write && poisoned s pa n then raise 0x2F (word (pa - b.off.toNat - c.base)) else return s

/-- The effect of the next block: a drain's is judged in the banks and written, a save's at its home; a restore's is read, and
the last one sets the tile (R194, R348, R360, R362, R363). What is left of the record's bytes is its second result. -/
def performBlock (s : State) (t : Slot) (o : Op) (i : Instr) (cap : RecCapture) (next off n : Nat) (later : List (Nat × Nat)) :
    Res (State × List Byte) :=
  match i, cap.handles with
  | .mxdrain _ b, _ => do
    let a := b.dst.toNat + off
    let s ← checkGranules s t.id t.id (engineCode t.id (o.q.getD 0)) (.write t.det.rc) a n
    let rest := later.map (fun p => (b.dst.toNat + p.1, p.2))
    return (modSlot s t.id (fun t => drainBlock t a (cap.out.take n) rest), cap.out.drop n)
  | .mxsave _ b, c :: _ => do
    let pa := c.base + b.off.toNat + off
    let s ← judgeBlock s t b pa n true c
    return ((homeWrite s pa (cap.out.take n)).1, cap.out.drop n)
  | .mxrest _ b, c :: _ => do
    let pa := c.base + b.off.toNat + off
    let s ← judgeBlock s t b pa n false c
    let r := homeRead s pa n
    let out := r.2.reverse ++ cap.out
    if next + 1 < 1665 then return (r.1, out)
    else match slotOf r.1 t.id with
      | some u => (restoreTile u b.tile out.reverse).map (fun u => (modSlot r.1 t.id (fun _ => u), []))
      | none => return (r.1, out)
  | _, _ => .ok (s, cap.out)

/-- Whether the units of the array work for a slot now (R352). -/
def arrayRuns (t : Slot) (o : Op) : Bool := !o.stopped && t.time.stoppedAt.isNone && t.answer.isNone

/-- The next block of a drain, a save or a restore, once it is due and its line is not on the move (R68, R348). -/
def nextBlock (s : State) (t : Slot) (o : Op) : Option State :=
  match o.work with
  | .matrix i cap start next slipped =>
    (match (matrixBlocks i (cap.fmts.headD 0)).drop next with
     | [] => none
     | (off, n) :: later =>
       let lines := match i, cap.handles with
         | .mxsave _ b, c :: _ => linesOf (c.base + b.off.toNat + off) n
         | .mxrest _ b, c :: _ => linesOf (c.base + b.off.toNat + off) n
         | _, _ => []
       if !arrayRuns t o || decide (s.cycle < blockDue i start next) || !lines.all (canSend s (dieOf t.id.core)) then none
       else match performBlock s t o i cap next off n later with
       | .ok (s, out) => some (modSlot s t.id (fun t => modOp t o.id (fun o =>
           { o with work := .matrix i { cap with out := out } start (next + 1) slipped })))
       | .error (.fault f) => some (opFault s t.id o f)
       | .error _ => none)
  | _ => none

/-- The next chunk of a load (R352, R354). -/
def nextChunk (s : State) (t : Slot) (o : Op) : Option State :=
  match o.work with
  | .matrix (.mxldw h b) cap start next slipped =>
    let f : BitVec 2 := if b.fsel then 3 else 2
    let p : Int := cap.cs + b.start.toInt
    if !arrayRuns t o || 64 ≤ next || decide (s.cycle < start + next + 1) then none
    else (heldPosition t f p).map (fun x =>
      let r := loadChunk t b f p x next
      let s := modSlot s t.id (fun _ => modOp r.1 o.id (fun o => { o with work := .matrix (.mxldw h b) cap start (next + 1) slipped }))
      match r.2 with
      | some e => opFault s t.id o e
      | none => s)
  | _ => none

/-- The next row of a product, each in its own cc after the first (R348, R352). -/
def nextRow (s : State) (t : Slot) (o : Op) : Option State :=
  match o.work with
  | .matrix i cap start next slipped =>
    (match nestOf i with
     | some b =>
       let began := start - nestSpan i b
       if !arrayRuns t o || productRows i b ≤ cap.row || decide (s.cycle < began + cap.row) then none
       else some (modSlot s t.id (fun _ => modOp (iterationRow t i b cap.cs (next - 1) cap.row) o.id (fun o =>
         { o with work := .matrix i { cap with row := cap.row + 1 } start next slipped })))
     | none => none)
  | _ => none

/-- The blocks, chunks and rows that the array's units of every slot move in this cc (R348). -/
def moveBlocks (s : State) : State :=
  (allSlots s).foldl (fun s t => t.ops.foldl (fun s o =>
    match slotOf s t.id with
    | some u => (nextBlock s u o <|> nextChunk s u o <|> nextRow s u o).getD s
    | none => s) s) s

/-- MXDRAIN (R359, R360): it reads the tile, the scales and the addend at issue; its blocks and its flags follow. -/
def execMxdrain (h : RecHead) (b : MxDrainBody) (s : State) : Result :=
  mxIssue s (.mxdrain h b) (fun t => checkDrain t b) (fun s _ =>
    let fmt := bankFmt s.cur b.dst.toNat
    match bankClass fmt with
    | .elem f bits => do
      let c := s.cur.id
      let agent := engineCode c h.q
      let s ← checkGranules s c c agent (.waiting h.cor) b.scl.toNat (drainScaleBytes b)
      let _ ← bankData s c b.scl.toNat (drainScaleBytes b)
      let r := drainValues s.cur b f bits
      let last := s.cycle + drainSpan b fmt
      return (onCur s (fun t =>
        let t := addRead t b.tile last
        if b.clr then clearTile t b.tile last else t), r.2, r.1.flatten)
    | _ => raise 0x14)

/-- The bytes of a saved tile (R362). -/
def tileBytes (t : Slot) (tile : BitVec 3) : List Byte :=
  let x := t.tiles[tile.toNat]
  let qa := match x.qa with | some q => toBits 16 q * 2 ^ 19 + 2 ^ 35 | none => 0
  let header := x.count + qa + (if x.opened then 2 ^ 36 else 0)
  let elems := (sgetRange 0 t.acc (accKey tile 0 0) 16384).flatMap (fun y => bytesOf 6 y.toNat)
  let flags := packElems 4 ((sgetRange 0 t.accFlags (accKey tile 0 0) 16384).map (fun y => y.toNat))
  bytesOf 64 header ++ elems ++ bytesOf 8192 flags

/-- MXSAVE (R362): the tile as it is at issue, written block by block. -/
def execMxsave (h : RecHead) (b : MxSaveBody) (s : State) : Result :=
  mxIssue s (.mxsave h b) (fun t => needTile t b.tile) (fun s use =>
    match use with
    | none => .ok (s, 0, [])
    | some c => do
      let _ ← checkPage c b.off.toNat 106560 permW
      return (onCur s (fun t => addRead t b.tile (s.cycle + 1665)), 0, tileBytes s.cur b.tile))

/-- MXREST (R362, R363): its blocks are read one in each cc, and the tile is set once the data has arrived. -/
def execMxrest (h : RecHead) (b : MxSaveBody) (s : State) : Result :=
  mxIssue s (.mxrest h b) (fun t => needTile t b.tile) (fun s use =>
    match use with
    | none => .ok (s, 0, [])
    | some c => do
      let _ ← checkPage c b.off.toNat 106560 permRd
      return (s, 0, []))

/-- MXSTAMP (R364). -/
def execMxstamp (h : RecHead) (b : MxStampBody) (s : State) : Result :=
  mxIssue s (.mxstamp h b) (fun _ => .ok ()) (fun s _ =>
    .ok (onCur s (fun t =>
      { t with time := { t.time with sb := (if b.abs then t.stampb else t.time.sb) + b.delta } }), 0, []))

/-- MXEND (R364): the stream issues nothing more, and ends when MXEND completes. -/
def execMxend (h : RecHead) (s : State) : Result :=
  mxIssue s (.mxend h) (fun _ => .ok ()) (fun s _ =>
    .ok (onCur s (fun t => { t with mx := { t.mx with blocked := some (.ops [t.nextOp]) } }), 0, []))

/-! ## Events of the matrix stream -/

/-- The compute-pipe operation whose next iteration starts now (R349). -/
def iterationDue (s : State) (t : Slot) : Option (Op × Instr × MxNest × RecCapture × Nat × Nat × Bool) :=
  if t.time.stoppedAt.isSome || t.answer.isSome then none
  else t.ops.findSome? (fun o =>
    match o.work with
    | .matrix i cap start next slipped =>
      match nestOf i with
      | some b =>
        if !o.stopped && decide (next < nestCount b) && decide (start ≤ s.cycle) then
          some (o, i, b, cap, start, next, slipped) else none
      | none => none
    | _ => none)

/-- Whether the position of a due iteration is filled, or its lateness stops it (R349, R351, R353). -/
def iterationActs (s : State) (t : Slot) : Bool :=
  match iterationDue s t with
  | some (_, i, b, cap, _, next, _) =>
    match recFifo i with
    | some f => positionReady s t.fifos[f.toNat] (nestPos b cap.cs next) || (headOf i).trap || isStrict t
    | none => false
  | none => false

/-- MATRIX_ITERATION_START (R349, R351, R353). -/
def execMatrixIterationStart (c : SlotId) (s : State) : Result :=
  event s (match slotOf s c with
    | none => s
    | some t =>
      match iterationDue s t with
      | none => s
      | some (o, i, b, cap, start, next, slipped) =>
        match recFifo i with
        | none => s
        | some f =>
          let p := nestPos b cap.cs next
          let elem : BitVec 32 := BitVec.ofNat 32 next
          if !positionReady s t.fifos[f.toNat] p then
            if (headOf i).trap then opFault s c o { code := 0x2C, operand := positionOperand f p, elem := elem }
            else if isStrict t then opFault s c o { code := 0x19, elem := elem }
            else s
          else match iteration t i b cap.cs next s.cycle with
            | .error (.fault fi) => opFault s c o fi
            | .error _ => s
            | .ok t' =>
              let late := decide (start < s.cycle)
              let t' := slip t' (s.cycle - start) (late && !slipped)
              modSlot s c (fun _ => modOp t' o.id (fun o =>
                { o with work := .matrix i { cap with row := 1 } (s.cycle + nestSpan i b) (next + 1) (slipped || late) })))

/-- Whether some tile write of a slot has landed and is not accounted for. -/
def landingDue (s : State) (t : Slot) : Bool :=
  t.time.stoppedAt.isNone && (t.time.lands.any (fun l => l.at_ < s.cycle || (l.fill && decide (l.at_ ≤ s.cycle)))
    || t.time.reads.any (fun r => r.2 < s.cycle))

/-- TILE_ROW_LAND (R348, R356): a landing that closes a group sets the tile full. -/
def execTileRowLand (c : SlotId) (s : State) : Result :=
  event s (modSlot s c (fun t =>
    if t.time.stoppedAt.isSome then t
    else
      let done := t.time.lands.filter (fun l => l.at_ ≤ s.cycle && l.fill)
      let t := done.foldl (fun t l =>
        let x := t.tiles[l.tile.toNat]
        if x.opened then t else setTile t l.tile { x with full := true }) t
      { t with time := { t.time with
          lands := (t.time.lands.filter (fun l => s.cycle ≤ l.at_)).map (fun l =>
            if l.at_ ≤ s.cycle then { l with fill := false } else l)
          reads := t.time.reads.filter (fun r => s.cycle ≤ r.2) } }))

/-- Whether a matrix record has done all that its rule asks (R348, R364). -/
def matrixDone (s : State) (t : Slot) (o : Op) : Bool :=
  t.time.stoppedAt.isNone && match o.work with
    | .matrix i cap start next _ =>
      match i with
      | .mxend .. => !t.ops.any (fun p => p.source = 1 && p.id < o.id)
      | i =>
        match nestOf i with
        | some b => nestCount b ≤ next && start + 11 ≤ s.cycle && productRows i b ≤ cap.row
        | none => !occupies o.work s.cycle && (match i with
          | .mxldw .. => 64 ≤ next
          | .mxrest .. => 1665 ≤ next
          | _ => cap.out.isEmpty)
    | _ => false

/-- The positions that a matrix record consumes, counted once it has ended (R52, R355). -/
def countConsumed (t : Slot) (i : Instr) : Slot :=
  let n : Nat := match i with
    | .mxldw _ b => b.consume.toNat
    | i => (match nestOf i with | some b => b.consume.toNat | none => 0)
  match recFifo i with
  | none => t
  | some f =>
    let x := t.fifos[f.toNat]
    { t with fifos := t.fifos.set f.toNat (retire { x with consumed := x.consumed + n }) }

/-- What the completion of a matrix record leaves: C, emptied scale granules, the end of the stream (R354, R360, R364). -/
def finishMatrix (t : Slot) (i : Instr) : Slot :=
  match i with
  | .mxdrain h b => if h.cor then setGranules t b.scl.toNat (drainScaleBytes b) false else t
  | .mxend .. => { t with mx := { t.mx with running := false, blocked := none } }
  | i => countConsumed t i

end Sys2Proof.Machine
end

