-- ==== Sys2Proof/Machine/Net.lean ====
section
/-! DEFINITION. CPYNET (R24 to R26, R390), and the event in which the copy engine performs an element (R387, R389). -/

namespace Sys2Proof.Machine

/-! ## Issue -/

/-- CPYNET (R390): the handle is captured; the engine checks the bytes as it reaches them. -/
def execCpynet (h : RecHead) (b : CpyNetBody) (s : State) : Result :=
  cpIssue s h (fun s =>
    let near := if b.dev = s.devid then some nearTransfer else none
    if b.lkind = 0 then (useHandle s.cur b.lh h.trap b.loff.toNat).map (fun c => (s, .net b (some c) h.trap h.cor near 0))
    else .ok (s, .net b none h.trap h.cor near 0))

/-! ## The local side -/

/-- The bytes of a transfer. -/
def netLen (b : CpyNetBody) : Nat := b.len.toNat + 1

/-- The length of the piece at an offset of a transfer within the package: one granule of the side that is written (R171). -/
def netPiece (b : CpyNetBody) (off : Nat) : Nat :=
  min (netLen b - off) (16 - ((if b.get then b.loff.toNat else b.rpa.toNat) + off) % 16)

/-- The local place of `n` bytes at an offset. -/
def netPlace (s : State) (t : Slot) (b : CpyNetBody) (h : Option Capture) (off n : Nat) (perm : BitVec 4) : Res Place :=
  copyPlace s t (if h.isSome then 0 else 1) (h.getD noCapture) (b.loff.toNat + off : Nat) n perm

/-- A piece of the local side read (R45, R387). -/
def netRead (s : State) (t : Slot) (o : Op) (b : CpyNetBody) (h : Option Capture) (trap cor : Bool) (off n : Nat) :
    Res (State × List Byte) := do
  let p ← netPlace s t b h off n permRd
  engineRead s t o p n false cor trap

/-- A piece of the local side written; a granule becomes full with the last byte of the transfer in it (R44). -/
def netWrite (s : State) (t : Slot) (o : Op) (b : CpyNetBody) (h : Option Capture) (off : Nat) (bs : List Byte) :
    Res State := do
  let p ← netPlace s t b h off bs.length permW
  let last := decide ((b.loff.toNat + off + bs.length) % 16 = 0) || decide (off + bs.length = netLen b)
  let s ← engineWrite s t o p bs false
  return if h.isNone && last then setKeys s t (granulesOf (b.loff.toNat + off) bs.length) true else s

/-- The local bytes from an offset up to another, granule by granule, up to the first granule that waits or faults: the
state, the bytes, and what stopped it. -/
def netGather (s : State) (t : Slot) (o : Op) (b : CpyNetBody) (h : Option Capture) (trap cor : Bool) (off upto : Nat) :
    Nat → State × List Byte × Option Stop
  | 0 => (s, [], none)
  | fuel + 1 =>
    let n := min (16 - (b.loff.toNat + off) % 16) (min (netLen b) upto - off)
    if n = 0 then (s, [], none)
    else match netRead s t o b h trap cor off n with
    | .error e => (s, [], some e)
    | .ok r =>
      let x := netGather r.1 t o b h trap cor (off + n) upto fuel
      (x.1, r.2 ++ x.2.1, x.2.2)

/-! ## Within the package (R26) -/

/-- Whether the Ethernet egress admits a transfer (R125, R457). -/
def egressAdmits (s : State) (t : Slot) : Bool := admits s .egress t.tenant t.context rightEgress

/-- The operand of a refused remote byte (R390). -/
def netRefused {α : Type} (b : CpyNetBody) (off : Nat) : Res α := raise 0x25 (word (b.rpa.toNat + off))

/-- The remote side's read or write right, judged at the home (R126, R390). -/
def remoteAdmits (s : State) (t : Slot) (pa : Nat) (right : Nat) : Bool :=
  isMemory pa && admits s (homeTarget s pa) t.tenant t.context right

/-- A transfer advanced to an offset. -/
def netAdvance (s : State) (t : Slot) (o : Op) (b : CpyNetBody) (h : Option Capture) (trap cor : Bool) (sent : Option Nat) (done : Nat) :
    State :=
  modSlot s t.id (fun t => modOp t o.id (fun o => { o with work := .net b h trap cor sent done }))

/-- The next piece of a transfer within the package. -/
def netLocal (s : State) (t : Slot) (o : Op) (b : CpyNetBody) (h : Option Capture) (trap cor : Bool) (off : Nat) :
    Res State :=
  let n := netPiece b off
  let pa := b.rpa.toNat + off
  if !egressAdmits s t then netRefused b off
  else if b.get then
    let n := if remoteAdmits s t (pa + n - 1) rightRead then n else min n (128 - pa % 128)
    if !remoteAdmits s t pa rightRead then netRefused b off
    else if poisoned s pa n then raise 0x2F
    else do
      needReleased s 0 (linesOf pa n)
      let r := homeRead s pa n
      let s ← netWrite r.1 t o b h off r.2
      return netAdvance s t o b h trap cor (some nearTransfer) (off + n)
  else
    let x := netGather s t o b h trap cor off (off + n) 2
    match x.2.1, x.2.2 with
    | [], some e => .error e
    | _, some (.block w) => .error (.block w)
    | _, some .hold => .error .hold
    | bs, _ =>
      if !remoteAdmits s t pa rightWrite then netRefused b off
      else if !(linesOf pa bs.length).all (canSend s 0) then .error .hold
      else
        let s := (homeWrite x.1 pa bs).1
        let s := modSlot s t.id (fun t => modOp t o.id (fun o => { o with wrote := true }))
        .ok (netAdvance s t o b h trap cor (some nearTransfer) (off + bs.length))

/-! ## To another package -/

/-- A frame from this package to another for a transfer. -/
def netFrame (s : State) (t : Slot) (b : CpyNetBody) (kind : BitVec 4) (off : Nat) (aux : BitVec 32) (payload : List Byte) :
    Frame :=
  { kind, hs := false, hd := false, src := s.devid, dst := b.dev, tenant := t.tenant, context := t.context, seq := 0
    ack := 0, rpa := b.rpa + BitVec.ofNat 52 off, aux, payload }

/-- The frames of a flow that are not acknowledged, and all of the port's. -/
def unackedFrames (s : State) (f : Frame) : Nat × Nat :=
  ((match s.port.tx.find? (fun x => x.key = flowOf f) with | some x => (x.window ++ x.waiting).length | none => 0),
   portUnacked s.port)

/-- Whether a flow may send one more frame (R453). -/
def flowRoom (s : State) (f : Frame) : Bool := (unackedFrames s f).1 < 4096 && (unackedFrames s f).2 < 65536

/-- Zeros to a multiple of 16 bytes (R451; log 23). -/
def padFrame (bs : List Byte) : List Byte := bs ++ List.replicate ((16 - bs.length % 16) % 16) 0

/-- The next frame of a transfer to another package: a GETREQ for the bytes that are missing, or a PUT. -/
def netSend (s : State) (t : Slot) (o : Op) (b : CpyNetBody) (h : Option Capture) (trap cor : Bool) (sent : Option Nat) (off : Nat) :
    Res State :=
  if !egressAdmits s t then netRefused b off
  else if !s.port.up then netRefused b off
  else if b.get then
    let n := (netLen b - off + 15) / 16 * 16
    let f := netFrame s t b 2 off (BitVec.ofNat 32 n) []
    if sent.isSome || !flowRoom s f then blockOn .updates
    else .ok (netAdvance (sendFrame s f (some (refOf t o.id))) t o b h trap cor (some off) off)
  else
    let x := netGather s t o b h trap cor off (off + 8192) 513
    let f := netFrame s t b 1 off 0 (padFrame x.2.1)
    if !flowRoom s f then blockOn .updates
    else match x.2.1, x.2.2 with
    | [], some e => .error e
    | [], none => blockOn .updates
    | bs, _ =>
      .ok (netAdvance (sendFrame x.1 f (some (refOf t o.id))) t o b h trap cor sent (off + bs.length))

/-- Whether frames of an operation are not acknowledged. -/
def netOutstanding (s : State) (t : Slot) (o : Op) : Bool :=
  s.port.tx.any (fun x => (x.window ++ x.waiting).any (fun f => f.op = some (refOf t o.id)))

/-- Whether a CPYNET has completed (R390): its PUT is acknowledged, or its local bytes are all there. -/
def netDone (s : State) (t : Slot) (o : Op) : Bool :=
  match o.work with
  | .net b _ _ _ _ done => netLen b ≤ done && (b.get || b.dev = s.devid || !netOutstanding s t o)
  | _ => false

/-- The next step of a CPYNET. -/
def netStep (s : State) (t : Slot) (o : Op) (b : CpyNetBody) (h : Option Capture) (trap cor : Bool) (sent : Option Nat) (done : Nat) :
    Res State :=
  if !pathUp s (dieOf t.id.core) 0 0 then .error .hold
  else if b.dev = s.devid then netLocal s t o b h trap cor done else netSend s t o b h trap cor sent done

/-! ## The event -/

/-- The bits that a step of a copy operation has moved; `after` is the operation after it. A transfer between banks counts
when it is read. -/
def stepBits (s : State) (o after : Op) : Nat :=
  match o.work with
  | .copy _ _ cap _ k .. =>
    if o.staged.isSome then 0
    else match after.staged, after.work with
    | some w, _ => w.values.length * dstBits cap
    | none, .copy _ _ _ _ k' .. => (k' - k) * dstBits cap
    | none, _ => 0
  | .fifo b cap _ k => (fifoRows b cap k).foldl (fun n r => n + 8 * r.2) 0
  | .net b _ _ _ _ done =>
    8 * (if b.dev = s.devid then netPiece b done else if b.get then 0 else min (netLen b - done) 8192)
  | _ => 0

/-- The next transfer of a copy operation, if it does not wait (R387, R389). The engine moves 64 bytes per cc; a step that
moves more takes from the next cc. -/
def copyStep (s : State) (t : Slot) (o : Op) : Option (Res State) :=
  if o.stopped || (o.staged.isNone && decide (512 ≤ t.copied)) || !slotRunning t || !isActive s t.id || !inOrder t o then none
  else
    let waits (r : Res State) : Option (Res State) := match r with
      | .error (.block _) => none
      | .error .hold => none
      | r => some r
    match o.work with
    | .copy fill b cap cor k read pend =>
      if k < cpyTotal b then waits (copyTransfer s t o fill b cap cor k read pend) else none
    | .net b h trap cor sent done => if done < netLen b then waits (netStep s t o b h trap cor sent done) else none
    | .fifo b cap cor k => if k ≤ b.npos.toNat then waits (fillPosition s t o b cap cor k) else none
    | _ => none

/-- COPY_ELEMENT (R387, R389, R390). -/
def execCopyElement (c : SlotId) (q : BitVec 4) (n : Nat) (s : State) : Result :=
  event s (match slotOf s c with
    | none => s
    | some t =>
      match opNumbered t q n with
      | none => s
      | some o =>
        match copyStep s t o with
        | some (.ok s') =>
          let after := ((slotOf s' c).bind (fun u => opOf u o.id)).getD o
          modSlot s' c (fun u => { u with copied := u.copied + stepBits s o after })
        | some (.error (.fault f)) =>
          let k := match o.work with
            | .copy _ _ _ _ k .. => k
            | .fifo _ _ _ k => k
            | .net _ _ _ _ _ done => done
            | _ => 0
          opFault s c o { f with elem := BitVec.ofNat 32 k }
        | _ => s)

end Sys2Proof.Machine
end

