-- ==== Sys2Proof/Machine/Complete.lean ====
section
/-! DEFINITION. How what has been issued ends: gather lines, deferred destinations, the completion of operations, blocked
streams that go on, and asynchronous events (R71, R72, R182, R215, R236, R244, R431 to R433). -/

namespace Sys2Proof.Machine

/-! ## Gathers -/

/-- What a gather does next, if it does not wait: its slot runs, and earlier operations are in order (R70 to R72, R184).
`reads` says that it reads indices. -/
def gatherNow (s : State) (t : Slot) (o : Op) (reads : Bool) : Option (Res State) :=
  match o.work with
  | .gather dst idx h esize count index written lines =>
    if o.stopped || !enginesRun s t || !inOrder t o then none
    else match gatherStep s t o dst idx h esize count index written lines reads with
      | .error (.block _) => none
      | .error .hold => none
      | r => some r
  | _ => none

/-- The next step of a gather: it fetches or writes, or, when it can do neither, it reads indices. -/
def gatherTurn (s : State) (t : Slot) (o : Op) : Option (Res State) := gatherNow s t o false <|> gatherNow s t o true

def gatherReady (s : State) (t : Slot) (o : Op) : Bool := (gatherTurn s t o).isSome

/-- GATHER_LINE_REPLY (R71, R308). The operation is over once every element of the pass is written. -/
def execGatherLineReply (c : SlotId) (q : BitVec 4) (n : Nat) (s : State) : Result :=
  event s (match slotOf s c with
    | none => s
    | some t =>
      match opNumbered t q n with
      | none => s
      | some o =>
        match gatherTurn s t o with
        | some (.ok s') => s'
        | some (.error (.fault f)) => opFault s c o f
        | _ => s)

/-! ## Completion -/

/-- Whether an operation has done all that its rule asks before it completes (R182). -/
def completeReady (s : State) (t : Slot) (o : Op) : Bool :=
  !o.stopped && o.dead.isEmpty && (match o.work with
    | .none => true
    | .status .. => true
    | .matrix .. => matrixDone s t o
    | .copy .. => enginesRun s t && copyDone t o
    | .fifo .. => enginesRun s t && copyDone t o
    | .end_ => copyDone t o
    | .net .. => netDone s t o
    | .chrecv z tag => recvReady s t o z tag
    | _ => false)

/-- The last effects of an operation before it completes: the carry taken, the stream ended, granules emptied, the
status written. -/
def completeWork (s : State) (t : Slot) (o : Op) : State :=
  match o.work with
  | .chrecv z tag => recvRun s t o z tag
  | .matrix i .. => modSlot s t.id (fun t => modOp (finishMatrix t i) o.id (fun o => { o with work := .none }))
  | .copy .. => modSlot (clearRead s t o.work) t.id (fun t => modOp t o.id (fun o => { o with work := .none }))
  | .fifo .. => modSlot (clearRead s t o.work) t.id (fun t => modOp t o.id (fun o => { o with work := .none }))
  | .status addr bs => engineFinish s t.id o addr bs
  | .end_ => modSlot s t.id (fun t => modOp t o.id (fun o => { o with work := .none }))
  | .net .. => modSlot (clearRead s t o.work) t.id (fun t => modOp t o.id (fun o => { o with work := .none }))
  | _ => s

/-- An operation with nothing left to perform completes (R182), or sends the update of its completion barrier first
(R244). -/
def complete (s : State) (c : SlotId) (id : Nat) : State :=
  match slotOf s c with
  | none => s
  | some t =>
    match opOf t id with
    | none => s
    | some o =>
      if o.work ≠ .none ∨ o.stopped then s
      else match o.barrier with
      | none => modSlot s c (fun t => finishOp t id)
      | some addr =>
        let u : BarrierUpdate :=
          { issuer := refOf t id, addr := addr, delta := -1, source := o.source, coff := o.coff, tenant := t.tenant
            context := t.context, completes := true, len := o.len, q := o.q.getD 0, opnum := o.num, offset := o.barrierOff }
        let s := sendUpdate s u
        modSlot s c (fun t => modOp t id (fun o => { o with work := .barrier, barrier := none }))

/-- RECORD_COMPLETE (R182, R244). -/
def execRecordComplete (c : SlotId) (q : BitVec 4) (n : Nat) (s : State) : Result :=
  event s (match slotOf s c with
    | none => s
    | some t =>
      match opNumbered t q n with
      | none => s
      | some o => if completeReady s t o then complete (completeWork s t o) c o.id else s)

/-- The destinations of pending producer `i` written (R236). -/
def writeDeferred (t : Slot) (i : Nat) : Slot :=
  match t.deferred[i]? with
  | none => t
  | some d =>
    let t := d.gs.foldl (fun t p => setG t p.1 p.2) { t with deferred := t.deferred.eraseIdx i }
    addFlags (d.vs.foldl (fun t p => setV t p.1 p.2) t) d.flags

/-- Whether the producer of pending write `i` has its result (R236). -/
def deferredDue (s : State) (t : Slot) (i : Nat) : Bool :=
  match t.deferred[i]? with
  | some d => d.due ≤ s.cycle
  | none => false

/-- DEFERRED_WRITE (R236). -/
def execDeferredWrite (c : SlotId) (i : Nat) (s : State) : Result :=
  event s (modSlot s c (fun t => if deferredDue s t i then writeDeferred t i else t))

/-! ## Blocked streams (R215) -/

/-- Whether what a stream waits for has come; a WAIT and a held fault end by events of their own. -/
def objReady (s : State) (t : Slot) (o : Obj) : Bool :=
  match o with
  | .gReg r => !gIsEmpty t r
  | .vReg r => !vIsEmpty t r
  | .handle h => t.h[h.toNat].full
  | .granule none g => granuleFull t g
  | .granule (some r) g => (match memberSlot s t r with | some m => granuleFull m g | none => true)
  | .tile n => t.tiles[n.toNat].full
  | .position f p => positionReady s t.fifos[f.toNat] p
  | .stream st => !(streamOf t st).running
  | .ops ids => !t.ops.any (fun o => ids.contains o.id)
  | .member r => (match memberSlot s t r with | some m => memberHere s m | none => false)
  | .queueRoom q => !queueFull s q
  | .producers => producersDone t
  | .updates => !updatesPending s t
  | .sentWrites => !engineWrites s t
  | .waiting => false
  | .refill h => !t.walks.any (fun w => w.h = h && w.due.isSome)
  | .handler => false

/-- Whether a stream's object has come. -/
def unblockDue (s : State) (t : Slot) (st : StreamId) : Bool :=
  match (streamOf t st).blocked with
  | some o => objReady s t o
  | none => false

/-- STREAM_UNBLOCK (R215): the stream tries its instruction or record again, or goes on. -/
def execStreamUnblock (c : SlotId) (st : StreamId) (s : State) : Result :=
  event s (match slotOf s c with
    | none => s
    | some t => if unblockDue s t st then modSlot s c (fun t => modStream t st (fun x => { x with blocked := none })) else s)

/-! ## Asynchronous events (R429 to R433) -/

/-- Whether the control stream of a slot is at an issue boundary: it runs, its slot may issue, and no instruction of it
is in progress. -/
def atBoundary (s : State) (t : Slot) : Bool :=
  t.ctl.running && ctlAwake s t
    && (match t.ctl.blocked with
        | some .waiting => false
        | some (.ops _) => false
        | _ => true)

/-- Whether a slot's oldest held event is taken now: the handler is armed and the control stream is drained, or it has
ended. -/
def eventDue (s : State) (t : Slot) : Bool :=
  !t.events.isEmpty && t.ending.isEmpty
    && ((match t.item with | some i => i.ended | none => false) || (armed t && atBoundary s t && ctlDrained s t))

/-- What closing an operation counts (R355): a matrix record no longer runs, and C takes its positions. -/
def closeWork (t : Slot) (w : Option Work) : Slot :=
  match w with
  | some (.matrix i ..) => countConsumed t i
  | _ => t

/-- The handler takes an event (R431, R433): the stream that raised it stops, and its operation is closed. A precise event of
the control stream that was held for the drain names no stream. -/
def takeEvent (t : Slot) (e : Event) : Slot :=
  let t := { t with events := t.events.drop 1 }
  let t := match e.stream with
    | some st => modStream t st (fun x => { x with running := false, blocked := none })
    | none => t
  let t := match e.op with
    | some id => finishOp (closeWork t ((opOf t id).map (fun o => o.work))) id
    | none => t
  enterHandler t e.report (t.ctl.pc - word (recCodeva t.record))

/-- ASYNC_EVENT_TAKE (R431 to R433): the oldest held event enters the handler; one held at END ends the launch. -/
def execAsyncEventTake (c : SlotId) (s : State) : Result :=
  event s (match slotOf s c with
    | none => s
    | some t =>
      if !eventDue s t then s
      else match t.events with
      | [] => s
      | e :: _ =>
        if (match t.item with | some i => i.ended | none => false) then endItem s c e.report
        else modSlot s c (fun t => takeEvent t e))

end Sys2Proof.Machine
end

