-- ==== Sys2Proof/Machine/Objects.lean ====
section
/-! DEFINITION. Skobuvo objects: their sections and checks (R463), and the translator of the portable form (R464, R465). -/

namespace Sys2Proof.Machine

/-! ## Sections (R463) -/

/-- The bytes of a section. -/
def sectionBytes (bs : List Byte) (x : Nat × Nat) : List Byte := (bs.drop x.1).take x.2

/-- Whether a section is 64-byte aligned and lies within the object before its signature. -/
def sectionOk (o : Config.ObjectLayout) (x : Nat × Nat) : Bool := x.1 % 64 = 0 && x.1 + x.2 ≤ o.signature

/-- The bytes of the signature section. -/
abbrev signatureBytes : Nat := 2484

/-- Whether the bytes of an object keep R463: magic, version, at most 15 variants, aligned sections, a whole signature section with
its zero bytes, and the digest of every section. -/
def objectOk (bs : List Byte) (o : Config.ObjectLayout) : Bool :=
  o.magic = 0x424F4B53 && o.version = 1 && o.entries.length ≤ 15 && o.count = o.entries.length
    && bs.length = o.length && o.signature + signatureBytes ≤ bs.length && o.signature % 64 = 0
    && sectionOk o o.table && o.table.2 = 64 * o.count
    && sectionOk o o.lpf && (sha3 (sectionBytes bs o.lpf) = o.lpfDigest)
    && o.entries.all (fun e => sectionOk o e.code && sha3 (sectionBytes bs e.code) = e.digest)
    && (sectionBytes bs (o.signature + 2452, 32)).all (fun b => b = 0)

/-- An object as its bytes give it, or none for one that R463 does not admit. -/
def parseObject (bs : List Byte) : Option Config.CodeObject :=
  let o := Config.objectLayout bs
  if objectOk bs o then
    some
      { variants := o.entries.map (fun e => { tag := e.tag, kind := e.kind, code := sectionBytes bs e.code })
        lpf := sectionBytes bs o.lpf, signedLen := o.signature, signature := sectionBytes bs (o.signature, 2420)
        keyHash := BitVec.ofNat 256 (leNat (sectionBytes bs (o.signature + 2420, 32))) }
  else none

/-! ## The translator (R464, R465) -/

/-- The stamp field of a record, and a record with another one (R243). -/
def stampField (v : BitVec 512) : Nat := (v.extractLsb' 16 24).toNat

def withStamp (v : BitVec 512) (n : Nat) : BitVec 512 := v ^^^ ((v.extractLsb' 16 24 ^^^ BitVec.ofNat 24 n).setWidth 512 <<< 16)

/-- The last cc in which a product that issues in cc `x` lands on a tile (R348). -/
def productLands (i : Instr) (b : MxNest) (x : Nat) (tile : BitVec 3) : Option Nat :=
  ((List.range (nestCount b)).reverse.find? (fun k => nestTile b k = tile)).map (fun k => x + k * nestSpan i b + nestRows b - 1 + 12)

/-- The tile writes of a record that issues in cc `x`, and the tile reads with their ends (R348). -/
def recordTiles (t : Slot) (i : Instr) (x : Nat) : List Landing × List (BitVec 3 × Nat) :=
  match i with
  | .mxzero _ m => ((maskTiles m).map (fun n => ⟨n, x + 8, true⟩), [])
  | .mxdrain _ b =>
    let last := x + drainSpan b (bankFmt t b.dst.toNat)
    (if b.clr then [⟨b.tile, last, true⟩] else [], [(b.tile, last)])
  | .mxsave _ b => ([], [(b.tile, x + 1665)])
  | .mxrest _ b => ([⟨b.tile, x + 1665, true⟩], [])
  | i =>
    match nestOf i with
    | some b => ((List.range 8).filterMap (fun n => (productLands i b x (BitVec.ofNat 3 n)).map (fun c => ⟨BitVec.ofNat 3 n, c, false⟩)), [])
    | none => ([], [])

/-- A slot in which a record has issued in cc `x` and goes on with every operand filled. -/
def afterRecord (t : Slot) (i : Instr) (x : Nat) : Slot :=
  let cap : RecCapture := { fmts := match i with | .mxdrain _ b => [bankFmt t b.dst.toNat] | _ => [] }
  let work : Work := match i, nestOf i with
    | .mxrest .., _ => .matrix i cap x 1665 false
    | i, some b => .matrix i cap (x + nestSpan i b * nestCount b) (nestCount b) false
    | i, none => .matrix i cap x 0 false
  let ends := recordTiles t i x
  let time := { t.time with lastIssue := x, lands := t.time.lands ++ ends.1, reads := t.time.reads ++ ends.2 }
  pushOp { t with time } none { id := 0, work := work }

/-- The first cc from `lo` on, among 2 to the `n`, in which a record can issue; once it can, it can in every later cc. -/
def firstClear (t : Slot) (i : Instr) (lo : Nat) : Nat → Nat
  | 0 => lo
  | n + 1 => if mxClear t i (lo + 2 ^ n - 1) then firstClear t i lo n else firstClear t i (lo + 2 ^ n) n

/-- The translation as far as it has come: the stream's records so far, the previous target, the bytes. -/
structure Translation where
  slot : Slot := { id := ⟨0, false⟩ }
  target : Nat := 0
  bytes : List Byte
  deriving DecidableEq, Repr

/-- The result of a translation that fails (R465): status 1 with the offset, or status 2. -/
abbrev TranslateError := BitVec 32 × List Byte

/-- One part of the section (R464): an instruction or a record, checked; a matrix record takes its stamp. -/
def translatePart (k : CoreKind) (lpf : List Byte) (x : Translation) (p : Nat × Config.CodePart) :
    Except TranslateError Translation :=
  let illegal : Except TranslateError Translation := .error (1, bytesOf 4 p.1)
  let v : BitVec 512 := BitVec.ofNat 512 (leNat (sectionBytes lpf (p.1, 64)))
  match p.2 with
  | .control =>
    (match decodeWord k (BitVec.ofNat 96 (leNat (sectionBytes lpf (p.1, 12)))) with
     | .ok _ => .ok x
     | .error _ => illegal)
  | .copy => (match decodeRecord k false v with | .ok _ => .ok x | .error _ => illegal)
  | .matrix first fmt =>
    match decodeRecord k true v with
    | .error _ => illegal
    | .ok i =>
      let slot : Slot := { (if first then { id := ⟨0, false⟩ } else x.slot) with bfmt := Vector.replicate 16 fmt }
      let target := firstClear slot i ((if first then 0 else x.target) + stampField v) 26
      if 2 ^ 24 ≤ target then .error (2, [])
      else .ok
        { slot := afterRecord slot i target, target
          bytes := x.bytes.take p.1 ++ bytesOf 64 (withStamp v target).toNat ++ x.bytes.drop (p.1 + 64) }

/-- The code region that the translator makes of an LPF section (R464, R465). -/
def translate (k : CoreKind) (lpf : List Byte) : Except TranslateError (List Byte) :=
  ((Config.codeMap lpf).foldlM (translatePart k lpf) { bytes := lpf }).map (fun x => x.bytes)

end Sys2Proof.Machine
end

