-- ==== Sys2Proof/Machine/Translate.lean ====
section
/-! DEFINITION. How translations arrive and go: cache hits, walks, re-translations (R115 to R120), latency classes (R62,
R114), shootdowns and migrations (R122 to R124). -/

namespace Sys2Proof.Machine

/-! ## Filling a handle -/

/-- A handle filled from a leaf (R117): it is full and valid, and its walk is over. -/
def fillHandle (t : Slot) (h : BitVec 4) (l : Leaf) : Slot :=
  let x := t.h[h.toNat]
  { t with
    h := t.h.set h.toNat { x with
      vpage := pageOf l.size x.vpage, pbase := l.pbase, perm := l.perm, lat := l.lat, size := l.size, kdh := l.kdh
      walk := false, full := true, valid := true }
    walks := t.walks.filter (fun w => w.h ≠ h) }

/-- The lookup of a handle starts as a walk (R117, R120). -/
def startWalk (t : Slot) (w : Walk) : Slot :=
  let x := t.h[w.h.toNat]
  { t with
    h := t.h.set w.h.toNat { x with full := false, walk := true }
    walks := t.walks.filter (fun y => y.h ≠ w.h) ++ [{ w with due := none, faulted := false, restart := false }] }

/-- The outstanding lookup of a handle that a cache hit ends: of an XLAT, or of a use. -/
def hitDue (s : State) (t : Slot) (atUse : Bool) (h : BitVec 4) : Option Walk :=
  t.walks.find? (fun w => w.h = h && w.atUse = atUse && !w.restart && (match w.due with
    | some d => decide (d ≤ s.cycle)
    | none => false))

/-- A cache hit arrives, with what the cache held when the lookup was asked for (R117, R120). -/
def hitFill (s : State) (c : SlotId) (atUse : Bool) (h : BitVec 4) : State :=
  modSlot s c (fun t =>
    match hitDue s t atUse h with
    | none => t
    | some w =>
      match w.leaf with
      | some l => fillHandle t h l
      | none => startWalk t w)

/-- XLAT_CACHE_HIT_FILL (R117). -/
def execXlatCacheHitFill (c : SlotId) (h : BitVec 4) (s : State) : Result := event s (hitFill s c false h)

/-- RETRANSLATION_HIT_REFILL (R120). -/
def execRetranslationHitRefill (c : SlotId) (h : BitVec 4) (s : State) : Result := event s (hitFill s c true h)

/-! ## Latency classes (R62, R114) -/

/-- The lines of a leaf's page. -/
def leafLines (l : Leaf) : List Nat :=
  (List.range (pageBytes l.size / 128)).map (fun i => l.pbase.toNat * 512 + i)

def isPinned (s : State) (line : Nat) : Bool := (lineWord s line).getLsbD 3

/-- Whether the pin partitions have room for every line of a page (R62, R114). No two lines of a page of class 1 or 2 share
bits 20:7 of their addresses, and so a set: such a page has at most 2 MiB (R111). -/
def pinRoom (s : State) (l : Leaf) : Bool :=
  let pinned := (s.lines.filter (fun p => p.2.getLsbD 3)).map (fun p => p.1)
  (leafLines l).all (fun x =>
    isPinned s x || (pinned.filter (fun y => lineSet s y = lineSet s x)).length < s.pinWays)

/-- Whether a page has been loaded with its class. -/
def classLoaded (s : State) (l : Leaf) : Bool := s.classPages.contains l

/-- The share of a die's LPDDR-5X bandwidth that its class-3 pages reserve, in parts per million (R114, log 21). -/
def classShare (s : State) (die : Nat) : Nat :=
  (s.classPages.filter (fun l => l.lat = 3 && homeDie (l.pbase.toNat * 2 ^ 16) = die)).foldl
    (fun n l => n + Config.reservedShare l.size) 0

/-- Whether firmware refuses a leaf with the class-capacity fault (R114): a pin partition has no room for a page of class 1
or 2, or the reservations of a die would pass 50 % with a page of class 3. -/
def overCapacity (s : State) (l : Leaf) : Bool :=
  !classLoaded s l
    && (((l.lat = 1 || l.lat = 2) && !pinRoom s l)
      || (l.lat = 3 && decide (500000 < classShare s (homeDie (l.pbase.toNat * 2 ^ 16)) + Config.reservedShare l.size)))

/-- A line pinned in its slice (R62), with the determinism word that it has in a spill area (R64). -/
def pinLine (s : State) (line : Nat) : State :=
  let s := if (lineWord s line).getLsbD 0 then s else reloadLine s line
  setLine s line (lineWord s line ||| 9#32)

/-- A leaf of class 1 to 3 loaded: lines of class 1 and 2 are pinned (R62). -/
def loadClass (s : State) (l : Leaf) : State :=
  if l.lat = 0 ∨ classLoaded s l then s
  else
    let s := { s with classPages := s.classPages ++ [l] }
    if l.lat = 3 then s else (leafLines l).foldl pinLine s

/-- A page whose mapping goes: its lines leave the pin partition, unless another mapping pins them (R62, log 37). -/
def unloadClass (s : State) (l : Leaf) : State :=
  let rest := s.classPages.filter (fun x => x ≠ l)
  let pinnedBy (line : Nat) : Bool := rest.any (fun x =>
    (x.lat = 1 || x.lat = 2) && decide (x.pbase.toNat * 512 ≤ line) && decide (line < x.pbase.toNat * 512 + pageBytes x.size / 128))
  if !classLoaded s l then s
  else
    let s := { s with classPages := rest }
    if l.lat = 3 then s
    else ((leafLines l).filter (fun x => isPinned s x && !pinnedBy x)).foldl evictLine s

/-- The 16-bit reservation count of a bucket (R62): pinned lines, and lines of class-3 pages. -/
def reservedCount (s : State) (die : Bool) (bucket : BitVec 12) : BitVec 16 :=
  BitVec.ofNat 16 (
  let mine (line : Nat) : Bool := bucketKey (128 * line) = 4096 * die.toNat + bucket.toNat
  (s.lines.filter (fun p => p.2.getLsbD 3 && mine p.1)).length
    + ((s.classPages.filter (fun l => l.lat = 3)).flatMap leafLines).countP mine)

/-! ## Walks -/

/-- A walk that a slot has outstanding and that no fault has stopped; it takes longer than a hit would (R117, R120,
log 2). -/
def pendingWalk (s : State) (t : Slot) (h : BitVec 4) : Option Walk :=
  t.walks.find? (fun w => w.h = h && w.due.isNone && !w.faulted && !w.restart 
    && w.since + (if w.atUse then 48 else 32) < s.cycle)

/-- What a slot's pending walk finds now, with the class-capacity test of firmware, whose report carries the level of the
leaf at which the walk stopped (R111; log 86). -/
def walkFinds (s : State) (t : Slot) (w : Walk) : WalkEnd :=
  match walk s t.tenant t.context w.va.toNat with
  | .leaf l x => if overCapacity s l then .fault 0x23 (4 - l.size.toNat) else .leaf l x
  | r => r

/-- The virtual page that firmware asks a host to map. -/
def walkPage (w : Walk) : BitVec 40 := w.va.extractLsb' 16 40

/-- A walk fault at XLAT (R117, R434): a leaf-format fault ends the launch; firmware answers the others while the streams
run. The report's elem is the level at which the walk stopped (R111, log 22). -/
def xlatFault (s : State) (t : Slot) (w : Walk) (code : BitVec 8) (level : Nat) : State :=
  let f : FaultInfo :=
    { code := code, operand := w.va, elem := BitVec.ofNat 32 level, vpage := some (walkPage w), handle := some w.h
      imprecise := true }
  let site : Site := { slot := t.id, source := 0, coff := w.coff, len := w.len }
  if code = 0x24 then takeFault s site f 0
  else
    let s := modSlot s t.id (fun t =>
      { t with walks := t.walks.map (fun y => if y.h = w.h then { y with faulted := true } else y) })
    askHost s t (walkPage w) (some w.h) (report s t site f)

/-- A walk fault at a use (R120, R434): the handle is as before the use, which takes the fault and issues again when it
is answered. -/
def useFault (s : State) (t : Slot) (w : Walk) (code : BitVec 8) (level : Nat) : State :=
  let f : FaultInfo :=
    { code := code, operand := w.va, elem := BitVec.ofNat 32 level, vpage := some (walkPage w), handle := none }
  let s := modSlot s t.id (fun t =>
    let x := t.h[w.h.toNat]
    { t with h := t.h.set w.h.toNat { x with full := true, walk := false }, walks := t.walks.filter (fun y => y.h ≠ w.h) })
  takeFault s { slot := t.id, source := w.source, coff := w.coff, len := w.len, q := w.q, opnum := w.opnum } f 0

/-- TRANSLATION_WALK_COMPLETE (R117, R120, R122): the walk ends in a leaf or a fault; a leaf with mig = 1 keeps it
waiting. -/
def execTranslationWalkComplete (c : SlotId) (h : BitVec 4) (s : State) : Result :=
  event s (match slotOf s c with
    | none => s
    | some t =>
      match pendingWalk s t h with
      | none => s
      | some w =>
        match walkFinds s t w with
        | .waits => s
        | .leaf l _ => modSlot (loadClass s l) c (fun t => fillHandle (cacheLeaf t l) h l)
        | .fault code level => if w.atUse then useFault s t w code level else xlatFault s t w code level)

/-! ## Shootdowns (R122, R123) -/

/-- Whether a virtual page lies in the page of a leaf. -/
def inLeafPage (l : Leaf) (vpage : BitVec 40) : Bool := pageOf l.size vpage = l.vpage

/-- Whether a slot serves the context of a leaf. -/
def servesLeaf (t : Slot) (l : Leaf) : Bool := t.tenant = l.tenant && t.context = l.context

/-- The invalidation as a slot applies it (R122, step 3; R123). -/
def invalidate (t : Slot) (l : Leaf) : Slot :=
  { t with
    cache := t.cache.filter (fun e => !(e.tenant = l.tenant && e.context = l.context && inLeafPage l e.vpage))
    h := if servesLeaf t l then
        t.h.map (fun x => if x.bound && x.full && inLeafPage l x.vpage then { x with valid := false } else x) else t.h
    walks := if servesLeaf t l then
        t.walks.map (fun w => if inLeafPage l (walkPage w) && !w.faulted then { w with restart := true } else w)
      else t.walks }

/-- Whether a slot's translation cache holds the page of a leaf. -/
def cacheHolds (t : Slot) (l : Leaf) : Bool :=
  t.cache.any (fun e => e.tenant = l.tenant && e.context = l.context && inLeafPage l e.vpage)

/-- The first invalidation of a page that has not reached a slot. -/
def reaching (s : State) (c : SlotId) (tenant context : BitVec 16) (vpage : BitVec 40) : Option (Nat × Shootdown) :=
  (s.shootdowns.zipIdx.find? (fun x => x.1.unreached.contains c && x.1.old.tenant = tenant && x.1.old.context = context
    && inLeafPage x.1.old vpage)).map (fun x => (x.2, x.1))

/-- SHOOTDOWN_INVALIDATION (R122, R123). -/
def execShootdownInvalidation (c : SlotId) (tenant context : BitVec 16) (vpage : BitVec 40) (s : State) : Result :=
  event s (match reaching s c tenant context vpage with
    | none => s
    | some (i, x) =>
      let held := match slotOf s c with | some t => cacheHolds t x.old | none => false
      let y := { x with
        unreached := x.unreached.filter (fun d => d ≠ c), unacked := x.unacked ++ [c]
        held := if held then x.held ++ [c] else x.held }
      let s := { s with shootdowns := s.shootdowns.set i y }
      modSlot s c (fun t => invalidate t x.old))

/-- The handles that an operation has captured, with those of its completion barrier apart. -/
def capturesOf (w : Work) : List Capture :=
  match w with
  | .gather _ _ h .. => [h]
  | .copy _ _ cap .. => cap.handles
  | .net _ h _ _ _ _ => h.toList
  | .matrix _ cap _ _ _ => cap.handles
  | .pannier _ _ h _ => [h]
  | _ => []

/-- Whether a physical address lies in a leaf's page. -/
def inLeafMemory (l : Leaf) (pa : Nat) : Bool :=
  l.pbase.toNat * 2 ^ 16 ≤ pa && pa < l.pbase.toNat * 2 ^ 16 + pageBytes l.size

/-- Whether accesses or records that a slot issued through a page's handles are still to be performed (R122, step 3). -/
def usesPage (s : State) (t : Slot) (l : Leaf) : Bool :=
  t.ops.any (fun o => (capturesOf o.work).any (fun h => h.size ≠ 0 && inLeafMemory l h.base)
      || (match o.barrier with | some a => inLeafMemory l a | none => false))
    || s.barriers.any (fun u => sameItem u.issuer (refOf t 0) && inLeafMemory l u.addr)

/-- Whether no saved item has an access or a record through the page outstanding, and of a page that moves no item at all once the
last slot acknowledges (R122, R124). -/
def pageQuiet (s : State) (x : Shootdown) : Bool :=
  let items := (s.saved.map (fun y => y.slot)) ++ (if x.move.isSome && x.unreached.isEmpty && x.unacked.length ≤ 1 then allSlots s else [])
  items.all (fun t => !usesPage s t x.old)

/-- The first invalidation that a slot can acknowledge now. -/
def ackDue (s : State) (c : SlotId) : Option (Nat × Shootdown) :=
  (s.shootdowns.zipIdx.find? (fun x => x.1.unacked.contains c && pageQuiet s x.1 && (match slotOf s c with
    | some t => !usesPage s t x.1.old
    | none => true))).map (fun x => (x.2, x.1))

/-- Lookups that an invalidation stopped start again with a new look at the cache (R123). -/
def restartWalks (s : State) (l : Leaf) (t : Slot) : Slot :=
  (t.walks.filter (fun w => w.restart && inLeafPage l (walkPage w))).foldl (fun t w =>
    match cachedLeaf t (walkPage w) with
    | some l =>
      let again : Walk := { w with restart := false, leaf := some l, due := some (s.cycle + if w.atUse then 48 else 32) }
      { t with walks := t.walks.map (fun y => if y.h = w.h then again else y) }
    | none => startWalk t w) t

/-- Memory cells of a range copied to another place, with their poison (R122, step 4). -/
def copyMem (s : State) (src dst n : Nat) : State :=
  let moved {α : Type} (m : Sparse α) (src dst n : Nat) : Sparse α :=
    m.filter (fun p => p.1 < dst)
      ++ (m.filter (fun p => src ≤ p.1 && p.1 < src + n)).map (fun p => (p.1 - src + dst, p.2))
      ++ m.filter (fun p => dst + n ≤ p.1)
  { s with mem := moved s.mem src dst n, poison := moved s.poison (src / 16) (dst / 16) (n / 16) }

/-- An answer of firmware to a host (R456, R458): the request code in aux; the status, 0 for done, and then what the
request returns in the payload (log 24). -/
def mgmtAnswer (s : State) (host : BitVec 18) (code : BitVec 8) (status : BitVec 32) (more : List Byte := []) : State :=
  sendFrame s (hostFrame s 10 host 0 0 (code.setWidth 32) (padFrame (bytesOf 4 status.toNat ++ more)))

/-- The host is answered once every invalidation of its request is over (R122). -/
def shootdownAnswer (s : State) (x : Shootdown) : State :=
  if s.shootdowns.any (fun y => y.job = x.job) then s else mgmtAnswer s x.host x.code 0 x.more

/-- The number of a request that starts invalidations. -/
def nextJob (s : State) : Nat := (s.shootdowns.map (fun x => x.job)).foldl max 0 + 1

/-- Every acknowledgement has come (R122, steps 4 to 6): a migration moves the page and installs the new leaf, unless the entry has
been changed meanwhile, or its latency class finds no room any more (R114); the host is answered. DESIGN CHOICE (log 87): a WAIT
whose barrier lies in the page, of a saved item too, follows it to its new place. -/
def shootdownEnd (s : State) (x : Shootdown) : State :=
  let s := { s with l1 := s.l1.filter (fun y => !inLeafMemory x.old (128 * y.line)) }
  match x.move with
  | none => shootdownAnswer s x
  | some pa =>
    let s := ((s.lines.map (fun p => p.1)).filter (fun n => inLeafMemory x.old (128 * n))).foldl evictLine s
    let s := unloadClass s x.old
    let old := x.old.pbase.toNat * 2 ^ 16
    let s := copyMem s old pa (pageBytes x.old.size)
    let new : Leaf := { x.old with pbase := BitVec.ofNat 36 (pa / 2 ^ 16) }
    let e := memNat s x.entry 16
    let mine := e % 4 = 2 && e.testBit 11 && entryBits e 51 16 = x.old.pbase.toNat
    let e := e - entryBits e 51 16 * 2 ^ 16 + pa / 2 ^ 16 * 2 ^ 16 - entryBits e 11 11 * 2 ^ 11
    let s := if mine then (homeWrite s x.entry (bytesOf 16 e)).1 else s
    let room := mine && !overCapacity s new
    let install (t : Slot) : Slot := if room && x.held.contains t.id && servesLeaf t new then cacheLeaf t new else t
    let move (p : Nat × BitVec 32 × BitVec 3) : Nat × BitVec 32 × BitVec 3 :=
      if inLeafMemory x.old p.1 then (p.1 - old + pa, p.2) else p
    let follow (t : Slot) : Slot := { t with wait := t.wait.map (fun w => { w with phases := w.phases.map move }) }
    let s := mapItems (mapSlots s install) follow
    let s := if room then loadClass s new else s
    shootdownAnswer s x

/-- SHOOTDOWN_ACK (R122, R123). -/
def execShootdownAck (c : SlotId) (s : State) : Result :=
  event s (match ackDue s c with
    | none => s
    | some (i, x) =>
      let y := { x with unacked := x.unacked.filter (fun d => d ≠ c) }
      let s := { s with l1 := s.l1.filter (fun l => !(l.core = c.core && inLeafMemory x.old (128 * l.line))) }
      if y.unreached.isEmpty && y.unacked.isEmpty then
        let s := shootdownEnd { s with shootdowns := s.shootdowns.eraseIdx i } y
        mapSlots s (restartWalks s x.old)
      else modSlot { s with shootdowns := s.shootdowns.set i y } c (fun t =>
        if y.move.isSome then t else restartWalks s x.old t))

end Sys2Proof.Machine
end

