-- ==== Sys2Proof/Machine/Port.lean ====
section
/-! DEFINITION. The Ethernet port: frames, flows, the intake engine, and requests at their home slices (R76, R77, R449 to
R457). -/

namespace Sys2Proof.Machine

/-! ## Frames as bytes (R451, R452) -/

/-- The transport header of a frame but for hcrc, which is its low 32 bits (R452). -/
def headerFields (f : Frame) : Nat :=
  2 ^ 252 + f.kind.toNat * 2 ^ 248 + f.hs.toNat * 2 ^ 247 + f.hd.toNat * 2 ^ 246 + f.src.toNat * 2 ^ 228 + f.dst.toNat * 2 ^ 210
    + f.tenant.toNat * 2 ^ 194 + f.context.toNat * 2 ^ 178 + f.seq.toNat * 2 ^ 154 + f.ack.toNat * 2 ^ 130
    + (f.payload.length + 15) / 16 * 2 ^ 116 + f.rpa.toNat * 2 ^ 64 + f.aux.toNat * 2 ^ 32

/-- The CRC-32C of a transport header, over its bytes 4 to 31 (R452). -/
def headerCrc (h : Nat) : Nat := (crc32c (bytesOf 28 (h / 2 ^ 32))).toNat

/-- The transport header and payload of a frame. -/
def frameBytes (f : Frame) : List Byte := bytesOf 32 (headerFields f + headerCrc (headerFields f)) ++ f.payload

/-- A frame on the wire after its MAC addresses: the tag if it has one, the EtherType, the transport (R451). -/
def etherBytes (f : Frame) : List Byte :=
  (match f.tag with
   | some v => [0x81, 0x00, BitVec.ofNat 8 (v.toNat / 256), BitVec.ofNat 8 v.toNat]
   | none => []) ++ [0x9A, 0x4C] ++ frameBytes f

/-- A field of a transport header. -/
def headerField (h hi lo : Nat) : Nat := h / 2 ^ lo % 2 ^ (hi + 1 - lo)

/-- Whether a transport header is damaged (R452, R453): hcrc, version, or a reserved kind. -/
def damagedHeader (bs : List Byte) : Bool :=
  let h := leNat (bs.take 32)
  let kind := headerField h 251 248
  bs.length < 32 || headerField h 255 252 ≠ 1 || kind = 0 || 12 ≤ kind || headerCrc h ≠ headerField h 31 0

/-- The frame that transport bytes make, or none for a header that is damaged or a length that is not the payload's. -/
def parseFrame (bs : List Byte) : Option Frame :=
  let h := leNat (bs.take 32)
  let n := 16 * headerField h 129 116
  if damagedHeader bs || 8192 < n || bs.length < 32 + n then none
  else some
    { kind := BitVec.ofNat 4 (headerField h 251 248), hs := h.testBit 247, hd := h.testBit 246
      src := BitVec.ofNat 18 (headerField h 245 228), dst := BitVec.ofNat 18 (headerField h 227 210)
      tenant := BitVec.ofNat 16 (headerField h 209 194), context := BitVec.ofNat 16 (headerField h 193 178)
      seq := BitVec.ofNat 24 (headerField h 177 154), ack := BitVec.ofNat 24 (headerField h 153 130)
      rpa := BitVec.ofNat 52 (headerField h 115 64), aux := BitVec.ofNat 32 (headerField h 63 32), payload := (bs.drop 32).take n }

/-- The 16-bit number at a place of an Ethernet frame, most significant byte first. -/
def etherWord (bs : List Byte) (k : Nat) : Nat := (bs.getD k 0).toNat * 256 + (bs.getD (k + 1) 0).toNat

/-- The 802.1Q tags of an Ethernet frame, up to two. -/
def etherTags (bs : List Byte) : Nat := if etherWord bs 12 ≠ 0x8100 then 0 else if etherWord bs 16 ≠ 0x8100 then 1 else 2

/-- Whether the port does not take an Ethernet frame for its form (R451): another EtherType, two tags, or more than 8,246 bytes
with the frame check sequence. -/
def foreignFrame (bs : List Byte) : Bool :=
  2 ≤ etherTags bs || etherWord bs (12 + 4 * etherTags bs) ≠ 0x9A4C || 8242 < bs.length

/-- Whether a frame is an IEEE 802.3 pause frame, which the port ignores (R451). -/
def pauseFrame (bs : List Byte) : Bool := etherWord bs 12 = 0x8808

/-- The transport bytes of an Ethernet frame. -/
def transportOf (bs : List Byte) : List Byte := bs.drop (14 + 4 * etherTags bs)

/-! ## Flows (R453, R454) -/

/-- The flow in the opposite direction. -/
def reverseFlow (k : FlowKey) : FlowKey := ⟨k.hd, k.hs, k.dst, k.src, k.tenant, k.context⟩

def rxFlow (s : State) (k : FlowKey) : RxFlow := (s.port.rx.find? (fun x => x.key = k)).getD { key := k }

def setRx (s : State) (x : RxFlow) : State :=
  { s with port := { s.port with rx := x :: s.port.rx.filter (fun y => y.key ≠ x.key) } }

/-- An ACK or NAK of a flow that this package receives. -/
def flowReply (s : State) (k : FlowKey) (kind : BitVec 4) (ack : BitVec 24) (reason : BitVec 32) : State :=
  let r := reverseFlow k
  sendFrame s
    { kind, hs := r.hs, hd := r.hd, src := r.src, dst := r.dst, tenant := r.tenant, context := r.context, seq := 0, ack
      rpa := 0, aux := reason, payload := [] }

/-- The cumulative acknowledgement of a flow (R454). -/
def sendAck (s : State) (x : RxFlow) : State :=
  flowReply (setRx s { x with unacked := 0 }) x.key 4 (x.expected - 1) 0

/-- A frame dropped and counted against the port. -/
def countDrop (s : State) : State := { s with port := { s.port with dropped := s.port.dropped + 1 } }

/-- Whether the tenant-0 rule accepts a frame (R457): one of tenant 0 is an MGMT frame from a host, or a host's ACK or NAK in the
flow of the answers to those (log 53). -/
def tenantOk (f : Frame) : Bool := f.tenant ≠ 0 || (f.hs && (f.kind = 10 || f.kind = 4 || f.kind = 5))

/-- Whether the payload of a frame has a length that R451 allows, or R456 gives an LRESULT. -/
def payloadOk (f : Frame) : Bool := (f.payload.length ≤ 8192 && f.payload.length % 16 = 0) || (f.kind = 7 && f.payload.length = 8)

def forUs (s : State) (f : Frame) : Bool := s.port.up && !f.hd && f.dst = s.devid

/-- A numbered frame at its receiver (R453): handed to intake, or refused as FULL, a gap, or a duplicate. -/
def receive (s : State) (f : Frame) (kind : BitVec 4) (full : Bool) (intake : State → State) : State :=
  if !forUs s f || f.kind ≠ kind then s
  else if !tenantOk f || !payloadOk f then countDrop s
  else
    let x := rxFlow s (flowOf f)
    let ahead := (f.seq - x.expected).toNat
    if ahead = 0 then
      if full then flowReply s x.key 5 x.expected 1
      else
        let since := if x.unacked = 0 then s.cycle else x.unackedSince
        let y : RxFlow :=
          { x with expected := x.expected + 1, gapSent := false, unacked := x.unacked + 1, unackedSince := since }
        let s := intake (setRx s y)
        if 16 ≤ y.unacked then sendAck s (rxFlow s y.key) else s
    else if ahead < 2 ^ 23 then
      if x.gapSent then s else flowReply (setRx s { x with gapSent := true }) x.key 5 x.expected 0
    else sendAck s x

/-- ACK_TIMER (R454): an accepted frame is acknowledged within 2 rt. -/
def execAckTimer (f : FlowKey) (s : State) : Result :=
  event s (
    let x := rxFlow s f
    if s.port.up && x.unacked ≠ 0 && decide (x.unackedSince + 32 ≤ s.cycle) then sendAck s x else s)

/-! ## The sending side -/

def txFlow (s : State) (k : FlowKey) : Option TxFlow := s.port.tx.find? (fun x => x.key = k)

def setTx (s : State) (x : TxFlow) : State :=
  { s with port := { s.port with tx := x :: s.port.tx.filter (fun y => y.key ≠ x.key) } }

/-- Whether a frame's number is at or below a cumulative acknowledgement. -/
def acked (ack : BitVec 24) (f : SentFrame) : Bool := (ack - f.frame.seq).toNat < 2 ^ 23

/-- Every kept frame of a flow sent again, from the oldest; the oldest has been sent once more. -/
def resendFlow (s : State) (x : TxFlow) : State :=
  let w := x.window.zipIdx.map (fun p =>
    { p.1 with at_ := s.cycle, resends := if p.2 = 0 then p.1.resends + 1 else p.1.resends })
  let s := setTx s { x with window := w, resendAt := none }
  { s with port := { s.port with wire := (x.window.map (fun p => p.frame)).reverse ++ s.port.wire } }

/-- The frames of a flow that wait for room in its window, sent as far as there is room (R453). -/
def pumpFlow (s : State) (x : TxFlow) : State :=
  match s.port.tx.find? (fun y => y.key = x.key) with
  | none => s
  | some y =>
    let n := windowLeft s.port y
    let out : List SentFrame := (y.waiting.take n).map (fun p => { p with at_ := s.cycle })
    if out.isEmpty then s
    else
      let s := { s with port := { s.port with
        tx := s.port.tx.map (fun (z : TxFlow) => if z.key = y.key then { z with window := z.window ++ out, waiting := z.waiting.drop n } else z) } }
      { s with port := { s.port with wire := (out.map (fun p => p.frame)).reverse ++ s.port.wire } }

/-- Every flow's waiting frames, once an acknowledgement has made room. -/
def pumpFlows (s : State) : State := s.port.tx.foldl pumpFlow s

/-- FRAME_ACK (R454). -/
def execFrameAck (f : Frame) (s : State) : Result :=
  event s (if !forUs s f || f.kind ≠ 4 then s
    else if !tenantOk f then countDrop s
    else match txFlow s (reverseFlow (flowOf f)) with
    | none => s
    | some x =>
      let w := x.window.filter (fun p => !acked f.ack p)
      pumpFlows (setTx s { x with window := w, fulls := if w.length = x.window.length then x.fulls else 0 }))

/-- FRAME_NAK (R449, R450, R454): GAP resends at once from the named frame, FULL after the back-off. -/
def execFrameNak (f : Frame) (s : State) : Result :=
  event s (if !forUs s f || f.kind ≠ 5 then s
    else if !tenantOk f then countDrop s
    else match txFlow s (reverseFlow (flowOf f)) with
    | none => s
    | some x =>
      let w := x.window.filter (fun p => !acked (f.ack - 1) p)
      let fulls := if w.length = x.window.length then x.fulls else 0
      if f.aux = 1 then
        setTx s { x with window := w, fulls := fulls + 1, resendAt := some (s.cycle + backoffTime s.port.backoff fulls) }
      else resendFlow s { x with window := w, fulls := 0 })

/-- The retransmit timer of a flow (R454). -/
def flowTimeout (s : State) (k : FlowKey) : State :=
  match txFlow s k with
  | none => s
  | some x =>
    match x.window with
    | p :: _ =>
      if s.port.up && x.resendAt.isNone && decide (p.at_ + 16 * s.port.retransmit ≤ s.cycle) then resendFlow s x else s
    | [] => s

/-- RETRANSMIT_TIMEOUT (R454, R461). -/
def execRetransmitTimeout (f : Sender) (s : State) : Result :=
  event s (match f with
    | .flow k => flowTimeout s k
    | .chain n => linkTimeout s n.toFin)

/-! ## What frames do once their flow has come to them (R456) -/

/-- A frame of this package that answers another. -/
def answerFrame (s : State) (f : Frame) (kind : BitVec 4) (rpa : BitVec 52) (aux : BitVec 32) (payload : List Byte) : Frame :=
  { kind, hs := false, hd := f.hs, src := s.devid, dst := f.src, tenant := f.tenant, context := f.context, seq := 0, ack := 0
    rpa, aux, payload }

/-- Whether an operation is the CPYNET that a frame from another package answers; `off` is the offset of its request. -/
def netMatches (f : Frame) (t : Slot) (o : Op) (get : Bool) : Bool :=
  match o.work with
  | .net b .. => !o.stopped && b.dev = f.src && !f.hs && b.get = get && t.tenant = f.tenant && t.context = f.context
  | _ => false

/-- The oldest operation of the resident slots that a frame answers. -/
def netOpFor (s : State) (f : Frame) (p : Slot → Op → Bool) : Option (Slot × Op) :=
  (allSlots s).findSome? (fun t =>
    if t.tenant = f.tenant && t.context = f.context then (t.ops.find? (p t)).map (fun o => (t, o)) else none)

/-- Bytes of a GETDATA frame written piece by piece (R390). -/
def netFill (s : State) (c : SlotId) (o : Op) (b : CpyNetBody) (h : Option Capture) (off : Nat) (bs : List Byte) :
    Nat → Res State
  | 0 => .ok s
  | fuel + 1 =>
    match bs with
    | [] => .ok s
    | _ =>
      let n := min (16 - (b.loff.toNat + off) % 16) bs.length
      match slotOf s c with
      | none => .ok s
      | some t =>
        match netWrite s t o b h off (bs.take n) with
        | .error e => .error e
        | .ok s => netFill s c o b h (off + n) (bs.drop n) fuel

/-- The GET whose next byte a GETDATA frame carries: the request's address with its offset is the address that comes
next. -/
def getMatches (f : Frame) (t : Slot) (o : Op) : Bool :=
  netMatches f t o true && (match o.work with
    | .net b _ _ _ sent done => sent.isSome && decide (f.rpa.toNat + f.aux.toNat = b.rpa.toNat + done)
    | _ => false)

/-- The saved item and its GET for which a GETDATA frame is held. -/
def heldGet (s : State) (f : Frame) : Option (Nat × Saved × Op) :=
  s.saved.zipIdx.findSome? (fun p =>
    (p.1.slot.ops.find? (fun o => netMatches f p.1.slot o true && (match o.work with
      | .net b _ _ _ sent done =>
        let more := ((p.1.held.filter (fun h => h.1 = o.id)).map (fun h => h.2.length)).foldl (fun n m => n + m) 0
        sent.isSome && decide (f.rpa.toNat + f.aux.toNat = b.rpa.toNat + done + more)
      | _ => false))).map (fun o => (p.2, p.1, o)))

/-- Whether a GETDATA frame for a saved item finds the held section full (R439). -/
def heldFull (s : State) (f : Frame) : Bool :=
  (netOpFor s f (getMatches f)).isNone && (match heldGet s f with
    | some (_, x, _) => !heldRoom x f.payload.length
    | none => false)

/-- GETDATA written into the requester's local granules, or held for a saved item (R390, R439). -/
def performData (s : State) (f : Frame) : State :=
  match netOpFor s f (getMatches f) with
  | none =>
    (match heldGet s f with
     | some (i, x, o) => { s with saved := s.saved.set i { x with held := x.held ++ [(o.id, f.payload)] } }
     | none => s)
  | some (t, o) =>
    match o.work with
    | .net b h trap cor sent done =>
      let bs := f.payload.take (netLen b - done)
      (match netFill s t.id o b h done bs 513 with
       | .ok s => netAdvance s t o b h trap cor sent (done + bs.length)
       | .error (.fault e) => opFault s t.id o e
       | .error _ => s)
    | _ => s

/-- The remote address of the first byte of a transfer that is not acknowledged, or not there (R390, R455). -/
def netFirst (s : State) (t : Slot) (o : Op) (b : CpyNetBody) (done : Nat) : Nat :=
  if b.get then b.rpa.toNat + done
  else match (s.port.tx.flatMap (fun x => x.window ++ x.waiting)).find? (fun p => p.op = some (refOf t o.id)) with
    | some p => p.frame.rpa.toNat
    | none => b.rpa.toNat + done

/-- A transfer of the port that has started and is not done. -/
def netOpen (s : State) (t : Slot) (o : Op) : Bool :=
  match o.work with
  | .net b _ _ _ sent done => !o.stopped && b.dev ≠ s.devid && (sent.isSome || done ≠ 0) && !netDone s t o
  | _ => false

/-- A transfer refused, or cut off, at a byte (R390, R455): the access-refused fault against its stream. Of a saved item it ends the
launch at once, as the fault does at the end of the cc (R426, R435). -/
def netRefuse (s : State) (t : Slot) (o : Op) (at_ : Nat) : State :=
  let f : FaultInfo := { code := 0x25, operand := word at_ }
  match (slotOf s t.id).filter (fun u => holdsItem u (itemKey t) (bornAt t)) with
  | some u => opFault s u.id o f
  | none =>
    match t.item with
    | some it => endLaunch s it.queue it.ordinal t.tenant t.context (report s t (opSite t.id o) f)
    | none => s

/-- The operations of resident and of saved items that are open transfers of the port. -/
def openTransfers (s : State) : List (Slot × Op) :=
  (allSlots s ++ s.saved.map (fun x => x.slot)).flatMap (fun t => (t.ops.filter (netOpen s t)).map (fun o => (t, o)))

/-- REFUSE (R390, R439, R456): the oldest transfer of the flow ends at the refused byte of its request, which for a PUT is
the whole transfer (log 93). -/
def performRefuse (s : State) (f : Frame) : State :=
  match (openTransfers s).find? (fun x => netMatches f x.1 x.2 true || netMatches f x.1 x.2 false) with
  | none => s
  | some (t, o) =>
    match o.work with
    | .net b _ _ _ sent _ => netRefuse s t o (b.rpa.toNat + sent.getD 0 + bits (zx f.aux) 23 0)
    | _ => s

/-- LAUNCH (R400, R401, R456): the record is submitted, and an LRESULT answers; none while it has to wait. -/
def performLaunch (s : State) (f : Frame) : Option State :=
  let q : BitVec 6 := f.aux.setWidth 6
  if queueFull s q then none
  else (submit s q (BitVec.ofNat 2048 (leNat (f.payload.take 256))) (some f.tenant)).map (fun r =>
    sendFrame r.1 (answerFrame s f 7 0 0 (bytesOf 8 r.2.toNat)))

/-- CANCEL (R414, R456). -/
def performCancel (s : State) (f : Frame) : State :=
  let r := cancelLaunch s (f.aux.setWidth 6) (leNat (f.payload.take 6)) f.tenant f.context
  sendFrame r.1 (answerFrame s f 7 0 0 (bytesOf 8 r.2.toNat))

/-- The effect of a frame that the intake engine has no request for; none while it has to wait. -/
def performFrame (s : State) (f : Frame) : Option State :=
  match f.kind.toNat with
  | 3 => some (performData s f)
  | 6 => performLaunch s f
  | 8 => some (performCancel s f)
  | 11 => some (performRefuse s f)
  | _ => some s

/-! ## Requests at their home slices (R76, R77) -/

/-- The number of the Ethernet intake engine among the request sources. -/
abbrev intakeSource : Nat := 0

/-- The bytes of a request. -/
def reqLen (k : ReqKind) : Nat :=
  match k with
  | .write bs => bs.length
  | .read n => n
  | .perform => 0

/-- Whether two requests come from different frames of one flow, which are performed in order (R454). -/
def flowAfter (a b : Request) : Bool :=
  match a.reply, b.reply with
  | some f, some g => flowOf f = flowOf g && f ≠ g
  | _, _ => false

/-- The next line of a frame as a request of the intake engine on die 0: numbered, with its predecessor on that line (R76).
A bucket on the move, a link that retrains, and an earlier frame of the flow hold it, and what follows it, back (R68, R454,
R460). A frame that makes no request takes its effect in its turn. -/
def sendRequest (s : State) : Option State :=
  match s.intake with
  | [] => none
  | j :: rest =>
    let pa := j.addr + j.offset
    let left := reqLen j.kind - j.offset
    let n := min left (128 - pa % 128)
    let mine := s.requests.filter (fun x => x.source = j.source)
    if j.kind = .perform then
      (if mine.any (flowAfter j) then none
       else j.reply.bind (fun f => performFrame { s with intake := rest } f))
    else if 64 ≤ mine.length || mine.any (flowAfter j) || (isMemory pa && !canSend s 0 (pa / 128)) then none
    else
      let num := sget 0 s.sourceNums j.source
      let part : ReqKind := match j.kind with
        | .write bs => .write ((bs.drop j.offset).take n)
        | .read _ => .read n
        | .perform => .perform
      let pred := ((mine.filter (fun x => x.addr / 128 = pa / 128)).getLast?).map (fun x => x.num)
      some { s with
        requests := s.requests ++ [{ j with num, pred, addr := pa, kind := part, sent := s.cycle }]
        sourceNums := sset 0 s.sourceNums j.source (num + 1)
        intake := if left ≤ n then rest else { j with offset := j.offset + n } :: rest }

/-- Requests sent as long as the intake engine can, at most 64 at a time (R76). -/
def sendRequests (s : State) : Nat → State
  | 0 => s
  | n + 1 =>
    match sendRequest s with
    | some s' => sendRequests s' n
    | none => s

/-- A frame handed to the intake engine. -/
def pushRequest (s : State) (f : Frame) (kind : ReqKind) (lead : Nat := 0) : State :=
  let j : Request :=
    { source := intakeSource, num := 0, pred := none, tenant := f.tenant, context := f.context, addr := f.rpa.toNat
      kind, reply := some f, lead }
  sendRequests { s with intake := s.intake ++ [j] } 64

/-- Whether an earlier frame of a flow is not performed yet (R454). -/
def flowBusy (s : State) (f : Frame) : Bool :=
  (s.requests ++ s.intake).any (fun r => match r.reply with | some g => flowOf g = flowOf f | none => false)

/-- A frame that makes no request takes its effect behind the earlier frames of its flow (R454). -/
def performNext (s : State) (f : Frame) : State :=
  if flowBusy s f then pushRequest s f .perform else (performFrame s f).getD (pushRequest s f .perform)

/-- The PUT frames of a flow whose addresses run on belong to one transfer (log 93): where the transfer of a frame began,
with the runs of the flow after it, the 64 latest. -/
def putRun (x : RxFlow) (f : Frame) : Nat × List (Nat × Nat) :=
  let a := f.rpa.toNat
  let start := match x.runs.find? (fun r => r.2 = a) with
    | some r => r.1
    | none => a
  (start, ((start, a + f.payload.length) :: x.runs.filter (fun r => r.2 ≠ a)).take 64)

/-- A PUT frame handed to the intake engine. -/
def pushPut (s : State) (f : Frame) : State :=
  let x := rxFlow s (flowOf f)
  let r := putRun x f
  if f.payload.isEmpty then s
  else pushRequest (setRx s { x with runs := r.2 }) f (.write f.payload) (f.rpa.toNat - r.1)

/-- Whether the intake engine has no room for a frame: as many frames and requests wait as requests of a source may be
outstanding (R76). DESIGN CHOICE (log 92): the spec does not give the depth of its queue. -/
def intakeFull (s : State) : Bool := 64 ≤ s.intake.length + s.requests.length

/-- Whether an earlier request of the source on the line must be performed first (R76). -/
def reqWaits (s : State) (i : Nat) (r : Request) : Bool :=
  (s.requests.take i).any (fun x => x.source = r.source && (r.pred = some x.num || x.addr / 128 = r.addr / 128))

/-- The refusal of a frame at its first refused byte (R390, R456): 0 access table, 1 address. The rest of the frame is
dropped, once what precedes the byte is performed. -/
def refuseFrame (s : State) (i : Nat) (r : Request) (reason : Nat) : State :=
  match r.reply with
  | some f =>
    let mine (x : Request) : Bool := x.source = r.source && x.reply = some f
    if s.requests.any (fun x => mine x && x.offset < r.offset) then s
    else
      let s := { s with requests := s.requests.filter (fun x => !mine x), intake := s.intake.filter (fun x => !mine x) }
      sendFrame s (answerFrame s f 11 0 (BitVec.ofNat 32 ((r.lead + r.offset) % 2 ^ 24 + reason * 2 ^ 24)) [])
  | none => { s with requests := s.requests.eraseIdx i }

/-- The data of one more line of a GETREQ (R451, R456): whole multiples of 16 bytes go out as GETDATA with their offset in the
request, the rest with the next line, and the last ones padded. -/
def answerLine (s : State) (f : Frame) (r : Request) (n : Nat) (bs : List Byte) : State :=
  let off := r.offset + n - bs.length
  let whole := if r.offset + n = f.aux.toNat then bs else bs.take (bs.length / 16 * 16)
  let s := if whole.isEmpty then s else sendFrame s (answerFrame s f 3 f.rpa (BitVec.ofNat 32 off) (padFrame whole))
  let next (x : Request) : Request :=
    if x.reply = some f && x.offset = r.offset + n then { x with before := bs.drop whole.length } else x
  { s with requests := s.requests.map next, intake := s.intake.map next }

/-- A request performed at its home slice. -/
def performLine (s : State) (i : Nat) (r : Request) : State :=
  let past : State := { s with requests := s.requests.eraseIdx i }
  let judge (right : Nat) (perform : State) : State :=
    if !isMemory r.addr then refuseFrame s i r 1
    else if !admits s (homeTarget s r.addr) r.tenant r.context right then refuseFrame s i r 0
    else perform
  match r.kind with
  | .write bs => judge rightWrite (homeWrite past r.addr bs).1
  | .read n =>
    judge rightRead (
      let x := homeRead past r.addr n
      match r.reply with
      | some f => answerLine x.1 f r n (r.before ++ x.2)
      | none => x.1)
  | .perform => past

/-- A request of the intake engine that arrives behind its predecessor (R77, R449). -/
def queueRequest (s : State) (i : Nat) (r : Request) : State :=
  let x := queueBehind s 0 r.addr { num := r.num, pred := r.pred, held := r.held, refusals := r.refusals, resendAt := r.resendAt }
  { s with requests := s.requests.set i { r with held := x.held, refusals := x.refusals, resendAt := x.resendAt } }

/-- Whether an earlier line of the same GETREQ is still to be read: its data comes first. -/
def readsBefore (s : State) (i : Nat) (r : Request) : Bool :=
  (match r.kind with | .read _ => true | _ => false) && (s.requests.take i).any (fun x => x.reply = r.reply && x.reply.isSome)

/-- HOME_SLICE_REQUEST (R76, R77, R127): a request that can arrive is judged and performed, behind its predecessor. After a
refused one of its source it is sent again in order. Beyond the requests the intake engine sends its next ones. -/
def execHomeSliceRequest (i : Nat) (s : State) : Result :=
  event s (match s.requests[i]? with
    | none => if i = s.requests.length then sendRequests s 64 else s
    | some r =>
      let refused := (s.requests.take i).any (fun x => x.source = r.source && x.resendAt.isSome)
      if r.resendAt.isSome || (refused && !r.held) || (isMemory r.addr && !canArrive s 0 (r.addr / 128) r.sent) then s
      else if reqWaits s i r then queueRequest s i r
      else if readsBefore s i r then s
      else performLine s i r)

/-- A back-off that is over (R450). -/
def backoffOver (s : State) (at_ : Option Nat) : Bool := match at_ with | some d => d ≤ s.cycle | none => false

/-- BACKOFF_RESEND (R449, R450): after its back-off the sender sends again, from what was refused on and in order. -/
def execBackoffResend (b : Resend) (s : State) : Result :=
  event s (match b with
    | .request i => (match s.requests[i]? with
      | some r => if backoffOver s r.resendAt then { s with requests := s.requests.set i { r with resendAt := none } } else s
      | none => s)
    | .flow k => (match txFlow s k with
      | some x => if backoffOver s x.resendAt && s.port.up then resendFlow s x else s
      | none => s)
    | .barrier i => (match s.barriers[i]? with
      | some u =>
        if backoffOver s u.order.resendAt then
          { s with barriers := s.barriers.set i { u with order := { u.order with resendAt := none } } } else s
      | none => s)
    | .chain n => linkBackoffEnds s n.toFin
    | .query die i =>
      let d : Fin 2 := if die then 1 else 0
      (match (s.kv[d]).queries[i]? with
       | some a =>
         if backoffOver s a.resendAt then
           { s with kv := s.kv.set d { s.kv[d] with queries := (s.kv[d]).queries.set i { a with resendAt := none } } } else s
       | none => s))

/-! ## Frames from other packages and hosts (R456) -/

/-- FRAME_PUT. -/
def execFramePut (f : Frame) (s : State) : Result :=
  event s (receive s f 1 (intakeFull s) (fun s => pushPut s f))

/-- FRAME_GETREQ: a length outside 16 to 2^24 bytes is refused at its first byte (log 106). -/
def execFrameGetreq (f : Frame) (s : State) : Result :=
  event s (receive s f 2 (intakeFull s) (fun s =>
    if f.aux.toNat < 16 ∨ 2 ^ 24 < f.aux.toNat then sendFrame s (answerFrame s f 11 0 (BitVec.ofNat 32 (2 ^ 24)) [])
    else pushRequest s f (.read f.aux.toNat)))

/-- FRAME_GETDATA (R390, R439). -/
def execFrameGetdata (f : Frame) (s : State) : Result :=
  event s (receive s f 3 (heldFull s f) (fun s => performNext s f))

/-- FRAME_REFUSE (R390, R456). -/
def execFrameRefuse (f : Frame) (s : State) : Result := event s (receive s f 11 false (fun s => performNext s f))

/-- FRAME_LAUNCH (R400, R401, R456): a full queue, or a walk that waits, refuses the frame. -/
def execFrameLaunch (f : Frame) (s : State) : Result :=
  event s (receive s f 6 (!flowBusy s f && (performLaunch s f).isNone) (fun s => performNext s f))

/-- FRAME_LRESULT: a package that receives one only acknowledges it. -/
def execFrameLresult (f : Frame) (s : State) : Result := event s (receive s f 7 false (fun s => s))

/-- FRAME_CANCEL (R414, R456). -/
def execFrameCancel (f : Frame) (s : State) : Result := event s (receive s f 8 false (fun s => performNext s f))

/-- FRAME_REPORT: reports go to hosts, and a package that receives one only acknowledges it. -/
def execFrameReport (f : Frame) (s : State) : Result := event s (receive s f 9 false (fun s => s))

/-- A drop that counts toward R455's 64 in a millisecond, 1,600,000 cc: those of the last one with one more now. -/
def noteDrop (s : State) : State :=
  let s := countDrop s
  { s with port := { s.port with drops := (s.port.drops.filter (fun c => s.cycle < c + 1600000)) ++ [s.cycle] } }

/-- Whether a header's damage is one of those that R455 counts: hcrc or version. -/
def countedDamage (bs : List Byte) : Bool :=
  let h := leNat (bs.take 32)
  32 ≤ bs.length && (headerField h 255 252 ≠ 1 || headerCrc h ≠ headerField h 31 0)

/-- FRAME_DAMAGED_DROP (R451, R453, R455): `bytes` is an Ethernet frame without its frame check sequence. A pause frame is
ignored; a damaged frame, and one that the port does not take, is dropped and counted, and the FCS, hcrc and version errors count
toward the port's failure. -/
def execFrameDamagedDrop (bytes : List Byte) (fcsError : Bool) (s : State) : Result :=
  event s (
    if !s.port.up then s
    else if fcsError then noteDrop s
    else if pauseFrame bytes then s
    else if foreignFrame bytes then countDrop s
    else if countedDamage (transportOf bytes) then noteDrop s
    else if (parseFrame (transportOf bytes)).isNone then countDrop s
    else s)

/-! ## The port itself (R455) -/

/-- Whether firmware takes the port down. -/
def portFails (s : State) (why : PortFailure) : Bool :=
  match why with
  | .drops => 64 ≤ (s.port.drops.filter (fun c => s.cycle < c + 1600000)).length
  | .resends => s.port.tx.any (fun x => x.window.any (fun p => 8 ≤ p.resends))
  | .lockLost => true

/-- The tenants of the open flows. -/
def openTenants (s : State) : List (BitVec 16) :=
  (s.port.tx.map (fun x => x.key.tenant) ++ s.port.rx.map (fun x => x.key.tenant)).eraseDups

/-- The Ethernet port goes down (R455): transfers with bytes outstanding fault; notices are owed to the host and the tenants. -/
def portDown (s : State) (why : PortFailure) : State :=
  if !s.port.up || !portFails s why then s
  else
    let faults := (openTransfers s).filterMap (fun x => match x.2.work with
      | .net b _ _ _ _ done => some (x.1, x.2, netFirst s x.1 x.2 b done)
      | _ => none)
    let notices := none :: (openTenants s).map some
    let s := { s with port := { s.port with
      up := false, tx := [], rx := [], drops := [], notices := s.port.notices ++ notices } }
    faults.foldl (fun s x => netRefuse s x.1 x.2.1 x.2.2) s

/-- PORT_DOWN (R455, R462). -/
def execPortDown (p : PortLoss) (s : State) : Result :=
  event s (match p.port with
    | .ethernet => portDown s p.why
    | .chain dev n => chainDown s dev n p.why)

/-- PORT_RETRAIN_COMPLETE (R455): every flow is at its starting state. -/
def execPortRetrainComplete (s : State) : Result :=
  event s (if s.port.up then s else { s with port := { s.port with up := true, tx := [], rx := [], drops := [] } })

end Sys2Proof.Machine
end

