-- ==== Sys2Proof/Machine/Sched.lean ====
section
/-! DEFINITION. The walkers and what they dispatch, retirement and the completion of launches (R37, R106, R107, R202 to
R214, R403 to R420). -/

namespace Sys2Proof.Machine

/-! ## Work items of a launch (R202 to R204) -/

/-- One step of R203 from order slot `j`: the remainder and the indices so far. -/
def orderStep (r : BitVec 2048) (x : Nat × List (Nat × Nat)) (j : Nat) : Nat × List (Nat × Nat) :=
  let lv := recOrder r j
  let trip := recTrip r lv
  let k := x.1 % trip
  (x.1 / trip, (lv, if recDir r lv then trip - 1 - k else k) :: x.2)

/-- idx(1) to idx(6) of dispatch index `c` (R203); levels above nlev give 0. -/
def itemIndices (r : BitVec 2048) (c : Nat) : List Nat :=
  let n := recNlev r
  let x := ((List.range n).reverse.map (fun j => j + 1)).foldl (orderStep r) (c, [])
  (List.range 6).map (fun i => ((x.2.find? (fun p => p.1 = i + 1)).map (fun p => p.2)).getD 0)

/-- off(i) of R202. -/
def levelOff (r : BitVec 2048) (i : Nat) : Nat := (List.range (i - 1)).foldl (fun n j => n + recWidth r (j + 1)) 0

/-- The WID of the indices of an item (R202). -/
def itemWid (r : BitVec 2048) (idx : List Nat) : Word :=
  word ((List.range (recNlev r)).foldl (fun n i => n + idx.getD i 0 * 2 ^ levelOff r (i + 1)) 0)

/-! ## Slots that can take an item (R208, R411) -/

/-- The cores of a die, as package core numbers. -/
def coreCount (die : Nat) : Nat := if die < 2 then 64 else 16

/-- Whether a slot holds no item. -/
def slotEmpty (s : State) (c : SlotId) : Bool :=
  match slotOf s c with
  | some t => t.item.isNone
  | none => true

/-- Whether a launch's banks, tiles and state slots are disjoint from those of the item in a core's other slot. -/
def disjointFrom (s : State) (c : SlotId) (r : BitVec 2048) : Bool :=
  match slotOf s (otherSlot c) with
  | none => true
  | some t =>
    t.item.isNone || (recBmask t.record &&& recBmask r = 0 && recAmask t.record &&& recAmask r = 0
      && recZmask t.record &&& recZmask r = 0)

/-- Whether a slot is compatible with a launch's record (R411). -/
def compatible (s : State) (c : SlotId) (r : BitVec 2048) : Bool :=
  (coreKind c.core).isSome && slotEmpty s c && (recMask r (dieOf c.core)).testBit (c.core.toNat % 64) && disjointFrom s c r

/-- Whether a reservation of the die keeps a slot from a unit of a launch (R410); that of a saved DET item keeps the slot that the
item left (R441). -/
def reservedFrom (s : State) (c : SlotId) (q : BitVec 6) (l : Launch) : Bool :=
  match (s.walkers[dieOf c.core]?).bind (fun w => w.reservation.map (fun r => (r, w.kept))) with
  | none => false
  | some ((q', o'), kept) =>
    (q', o') ≠ (q, l.ordinal) && (match launchOf s q' o' with
      | some h => recPrio l.record ≤ recPrio h.record
          && (if kept.isEmpty then (recMask h.record (dieOf c.core)).testBit (c.core.toNat % 64) else kept.contains c)
      | none => false)

/-- Whether the mode of a slot's cluster admits an item of a launch: while L1s are fused, every occupied slot of the cluster
belongs to one launch, and the mode cannot change before all are free (R58, R59, log 56). -/
def clusterOpen (s : State) (q : BitVec 6) (l : Launch) (c : SlotId) : Bool :=
  match clusterOf c.core with
  | none => true
  | some k =>
    !s.fused.getLsbD k || (allSlots s).all (fun t =>
      t.item.isNone || clusterOf t.id.core ≠ some k || slotRuns t q l.ordinal)

/-- Whether a slot can take a unit of a launch. -/
def canTake (s : State) (q : BitVec 6) (l : Launch) (c : SlotId) : Bool :=
  compatible s c l.record && clusterOpen s q l c && !reservedFrom s c q l

/-- The cores of a die in the walker's scan order (R411): after the one that received the last unit, and round. -/
def scanOrder (s : State) (die : Nat) : List (BitVec 8) :=
  let n := coreCount die
  let last := match s.walkers[die]? with | some w => w.last | none => 0
  (List.range n).map (fun i => BitVec.ofNat 8 (64 * die + (last + 1 + i) % n))

/-- The slot of a core that can take a unit, slot 0 before slot 1. -/
def coreSlot (s : State) (q : BitVec 6) (l : Launch) (core : BitVec 8) : Option SlotId :=
  if canTake s q l ⟨core, false⟩ then some ⟨core, false⟩
  else if canTake s q l ⟨core, true⟩ then some ⟨core, true⟩ else none

/-- The first slots of `n` distinct cores of a die in scan order, ranks by ascending core (R412). -/
def gangSlots (s : State) (die : Nat) (q : BitVec 6) (l : Launch) (n : Nat) : Option (List SlotId) :=
  let found := ((scanOrder s die).filterMap (coreSlot s q l)).take n
  if found.length < n then none
  else some ((List.range (coreCount die)).filterMap (fun i => found.find? (fun c => c.core.toNat = 64 * die + i)))

/-! ## Candidates (R403, R406) -/

/-- Whether a launch has nothing further to dispatch but items that it owes. -/
def launchOver (l : Launch) : Bool := l.cancelled || l.failed || fullyClaimed l

/-- The completion counter of a queue as the ccs before the present one left it (R406). -/
def completedBefore (s : State) (x : Queue) : Nat :=
  match x.counted with
  | some (c, n) => if c = s.cycle then n else x.completed
  | none => x.completed

/-- Whether every dependence of a launch is met (R406). -/
def depsMet (s : State) (l : Launch) : Bool :=
  (List.range 4).all (fun k =>
    let d := recDep l.record k
    !d.1 || decide (d.2.2 ≤ completedBefore s (queueOf s d.2.1)))

/-- The candidates of a queue, in order: a launch after those that are over, while it is eligible. -/
def eligibleOf (s : State) : List Launch → List Launch
  | [] => []
  | l :: rest => if !depsMet s l then [] else l :: (if launchOver l then eligibleOf s rest else [])

/-- Every eligible launch with its queue. -/
def eligible (s : State) : List (BitVec 6 × Launch) :=
  s.queues.flatMap (fun p => (eligibleOf s p.2.launches).map (fun l => (BitVec.ofNat 6 p.1, l)))

/-- Whether the cause of a pre-emption has passed (R437). -/
def causePassed (s : State) (h : HoldCause) : Bool :=
  match h with
  | .host => false
  | .reservation q o => !s.walkers.toList.any (fun w => w.reservation = some (q, o))
  | .thermal die => !s.mgmt.withheld.toList.getD die.toNat false

/-- Whether a saved item belongs to a launch. -/
def savedOf (s : State) (q : BitVec 6) (l : Launch) : List Saved := s.saved.filter (fun x => slotRuns x.slot q l.ordinal)

/-- Whether every cause of a launch's pre-emption has passed (R437). -/
def holdPassed (s : State) (l : Launch) : Bool := l.held.all (causePassed s)

/-- Whether a launch may claim an index: not pre-empted, or resumed with every saved item restored (R437). -/
def mayClaim (s : State) (q : BitVec 6) (l : Launch) : Bool := holdPassed s l && (savedOf s q l).isEmpty

/-- The saved items that are restored together: a troupe by rank, or one item. -/
def savedGang (s : State) (x : Saved) : List Saved :=
  match x.slot.item with
  | none => []
  | some i =>
    if i.size = 0 then [x]
    else
      let mine := s.saved.filter (fun y => slotRuns y.slot i.queue i.ordinal && (match y.slot.item with
        | some j => j.index + i.rank = i.index + j.rank
        | none => false))
      (List.range i.size).filterMap (fun r => mine.find? (fun y => match y.slot.item with
        | some j => j.rank = r
        | none => false))

/-- Causes that have passed leave their launches, and a saved item begins to wait for its restore once its launch is held no
longer (R437, R441). -/
def noteHolds (s : State) : State :=
  let waiting (x : Saved) : Saved :=
    match x.slot.item.bind (fun i => launchOf s i.queue i.ordinal) with
    | some l => if holdPassed s l then x else { x with since := s.cycle + 1 }
    | none => x
  let free (l : Launch) : Launch := { l with held := l.held.filter (fun h => !causePassed s h) }
  { s with
    saved := s.saved.map waiting
    queues := s.queues.map (fun p => (p.1, { p.2 with launches := p.2.launches.map free })) }

/-- The indices of deterministic launches in use (R63). -/
def detInUse (s : State) : List Nat := s.queues.flatMap (fun p => p.2.launches.map (fun l => l.detIndex))

/-- The lowest free index for a deterministic launch. -/
def freeDet (s : State) : Option Nat := (List.range 15).map (fun i => i + 1) |>.find? (fun i => !(detInUse s).contains i)

/-! ## Units -/

/-- A unit that a walker can dispatch now: the launch, its dispatch indices, their slots, and whether it is a
re-dispatch. -/
structure DispatchUnit where
  queue : BitVec 6
  launch : Launch
  indices : List Nat
  slots : List SlotId
  again : Bool := false
  deriving DecidableEq, Repr

/-- The slot that a trace entry names. -/
def traceSlot (s : State) (l : Launch) (c : Nat) : SlotId :=
  let e := traceEntry s l.pins l.record c
  ⟨BitVec.ofNat 8 e.2.2.1, e.2.1⟩

/-- The slots for new indices of a launch on a die (R411, R412, R419). -/
def placeNew (s : State) (die : Nat) (q : BitVec 6) (l : Launch) (cs : List Nat) : Option (List SlotId) :=
  if recTrbind l.record then
    let slots := cs.map (traceSlot s l)
    let due := l.next = 0 || l.firstDispatch + (traceEntry s l.pins l.record l.next).1 ≤ s.cycle
    if due && slots.all (fun c => dieOf c.core = die && canTake s q l c) then some slots else none
  else if recTroupe l.record = 0 then ((scanOrder s die).findSome? (coreSlot s q l)).map (fun c => [c])
  else gangSlots s die q l (recTroupe l.record)

/-- The dispatch indices of a launch's next new unit (R204). -/
def nextIndices (l : Launch) : List Nat :=
  (List.range (if recTroupe l.record = 0 then 1 else recTroupe l.record)).map (fun i => l.next + i)

/-- The unit of a launch that the walker of a die can place now: a lost item first (R411), on its recorded slot under
DET (R226) and for a troupe. -/
def placeable (s : State) (die : Nat) (q : BitVec 6) (l : Launch) : Option DispatchUnit :=
  if !mayClaim s q l || l.failed || (recDet l.record && l.detIndex = 0 && (freeDet s).isNone) then none
  else
    match l.owed with
    | (c, slot) :: _ =>
      let fixed := recDet l.record || recTroupe l.record ≠ 0
      let at_ := if fixed then (if dieOf slot.core = die && canTake s q l slot then some slot else none)
        else (scanOrder s die).findSome? (coreSlot s q l)
      at_.map (fun x => { queue := q, launch := l, indices := [c], slots := [x], again := true })
    | [] =>
      if launchOver l then none
      else (placeNew s die q l (nextIndices l)).map (fun slots =>
        { queue := q, launch := l, indices := nextIndices l, slots })

/-! ## The choice (R408, R409) -/

/-- Whether firmware withholds dispatch on a die (R472). -/
def withheld (s : State) (die : Nat) : Bool :=
  s.mgmt.withheld.toList.getD die false || s.cycle < s.mgmt.capUntil || !s.mgmt.intakeOpen

/-- The eligible launches of a priority level that name a core of a die. -/
def levelLaunches (s : State) (die level : Nat) : List (BitVec 6 × Launch) :=
  (eligible s).filter (fun x => recPrio x.2.record = level && recMask x.2.record die ≠ 0)

/-- The oldest of a tenant's launches at a level that has a placeable unit (R409). -/
def tenantUnit (s : State) (die level : Nat) (tenant : Nat) : Option DispatchUnit :=
  let mine := (levelLaunches s die level).filter (fun x => (recTenant x.2.record).toNat = tenant)
  let units := mine.filterMap (fun x => placeable s die x.1 x.2)
  units.foldl (fun m u => match m with
    | none => some u
    | some v =>
      if u.launch.acceptedAt < v.launch.acceptedAt
          ∨ (u.launch.acceptedAt = v.launch.acceptedAt ∧ u.queue.toNat < v.queue.toNat) then some u else some v) none

/-- The tenants with an eligible launch at a level, ascending. -/
def levelTenants (s : State) (die level : Nat) : List Nat :=
  let ts := ((levelLaunches s die level).map (fun x => (recTenant x.2.record).toNat)).eraseDups
  ts.mergeSort (fun a b => decide (a ≤ b))

/-- The weight of a tenant (R409). -/
def weightOf (s : State) (tenant : Nat) : Nat :=
  match s.tenants.find? (fun t => t.id.toNat = tenant) with
  | some t => t.weight.toNat
  | none => 1

/-- The tenant visited after another: the next higher, or the lowest. -/
def tenantAfter (ts : List Nat) (t : Nat) : Option Nat := (ts.find? (fun x => t < x)) <|> ts.head?

/-- Deficit round-robin at a level from the tenant in visit (R409): the unit, the tenant then in visit, the deficits. -/
def roundRobin (s : State) (die level : Nat) (ts : List Nat) (cur : Nat) (ds : Sparse Nat) :
    Nat → Option (DispatchUnit × Nat × Sparse Nat)
  | 0 => none
  | fuel + 1 =>
    let key (t : Nat) : Nat := 8 * t + level
    let leave (ds : Sparse Nat) : Option (DispatchUnit × Nat × Sparse Nat) :=
      match tenantAfter ts cur with
      | some t => roundRobin s die level ts t (sset 0 ds (key t) (sget 0 ds (key t) + 8 * weightOf s t)) fuel
      | none => none
    if !ts.contains cur then leave ds
    else match tenantUnit s die level cur with
    | none => leave (sset 0 ds (key cur) 0)
    | some u =>
      let have_ := sget 0 ds (key cur)
      if u.indices.length ≤ have_ then some (u, cur, sset 0 ds (key cur) (have_ - u.indices.length)) else leave ds

/-- The highest level with a placeable unit on a die (R408). -/
def topLevel (s : State) (die : Nat) : Option Nat :=
  [7, 6, 5, 4, 3, 2, 1, 0].find? (fun level =>
    (levelLaunches s die level).any (fun x => (placeable s die x.1 x.2).isSome))

/-- The deficits of a level with those of tenants that have no eligible launch at 0 (R409). -/
def clearDeficits (ds : Sparse Nat) (level : Nat) (ts : List Nat) : Sparse Nat :=
  ds.filter (fun p => p.1 % 8 ≠ level || ts.contains (p.1 / 8))

/-! ## Dispatch (R37, R205, R413) -/

/-- The members of a cluster all without an item. -/
def clusterIdle (s : State) (core : BitVec 8) : Bool :=
  (List.range 8).all (fun i =>
    let c : BitVec 8 := BitVec.ofNat 8 (core.toNat / 8 * 8 + i)
    slotEmpty s ⟨c, false⟩ && slotEmpty s ⟨c, true⟩)

/-- The mode of a cluster's L1s as the launch of an item that starts it asks (R58, R59): a change drops every line. -/
def setFused (s : State) (core : BitVec 8) (fuse : Bool) : State :=
  match clusterOf core with
  | none => s
  | some c =>
    if !clusterIdle s core || s.fused.getLsbD c = fuse then s
    else { s with
      fused := s.fused ^^^ (1#16 <<< c)
      l1 := s.l1.filter (fun x => clusterOf x.core ≠ some c) }

/-- A slot put into the state, in the turn if its place has it. -/
def putSlot (s : State) (t : Slot) : State :=
  if s.cur.id = t.id then { s with cur := t } else { s with rest := s.rest.filter (fun x => x.id ≠ t.id) ++ [t] }

/-- The slot of a place as it is between items. -/
def placeOf (s : State) (c : SlotId) : Slot := (slotOf s c).getD { id := c }

/-- An item takes a slot, and the L1 of the core is invalidated (R407). -/
def occupy (s : State) (t : Slot) : State := l1Invalidate (putSlot s t) t.id.core

/-- One item of a unit dispatched to a slot (R205, R413). -/
def dispatchItem (s : State) (u : DispatchUnit) (c : Nat) (slot : SlotId) : State :=
  let r := u.launch.record
  let size := recTroupe r
  let idx := itemIndices r c
  let it : Item :=
    { queue := u.queue, ordinal := u.launch.ordinal, index := c, wid := itemWid r idx
      rank := if size = 0 then 0 else c % size, size, dispatched := s.cycle }
  let t := dispatchedSlot (placeOf s slot) r it u.launch.pins idx
  let phase := match launchOf s u.queue u.launch.ordinal with | some l => l.phase | none => 1
  occupy (setFused s slot.core (recFuse r))
    { t with digest := sha3 (bytesOf 4 t.mode.toNat), phase := phase }

/-- The trace entry of a new index under TRREC (R417, R418). -/
def writeTrace (s : State) (l : Launch) (first c : Nat) (slot : SlotId) : State :=
  match pinAddr l.pins (recTrace l.record + 64 + 8 * c) with
  | some pa =>
    let off := min (s.cycle - first) 0xFFFFFFFF
    (homeWrite s pa (bytesOf 8 (off * 2 ^ 32 + slot.slot.toNat * 2 ^ 8 + slot.core.toNat))).1
  | none => s

/-- A deterministic launch takes its index at its first dispatch, with a zeroed spill area (R191). -/
def startDet (s : State) (q : BitVec 6) (l : Launch) : State :=
  if recDet l.record && l.detIndex = 0 then
    modLaunch (zeroSpill s l) q l.ordinal (fun l => { l with detIndex := (freeDet s).getD 0 })
  else s

/-- A die's walker changed. -/
def modWalker (s : State) (die : Nat) (f : Walker → Walker) : State :=
  { s with walkers := s.walkers.mapIdx (fun i w => if i = die then f w else w) }

/-- A launch's reservation released on every die: its unit is placed (R410). -/
def dropReservation (s : State) (q : BitVec 6) (ord : Nat) : State :=
  let free (w : Walker) : Walker := if w.reservation = some (q, ord) then { w with reservation := none, kept := [] } else w
  { s with walkers := s.walkers.map free }

/-- A unit dispatched (R204, R411 to R413). -/
def dispatchUnit (s : State) (die : Nat) (u : DispatchUnit) : State :=
  let l := u.launch
  let s := startDet s u.queue l
  let pairs := u.indices.zip u.slots
  let first := if l.next = 0 then s.cycle else l.firstDispatch
  let s := pairs.foldl (fun s p =>
    let s := dispatchItem s u p.1 p.2
    if recTrrec l.record && !u.again then writeTrace s l first p.1 p.2 else s) s
  let n := u.indices.length
  let s := modLaunch s u.queue l.ordinal (fun l =>
    if u.again then { l with running := l.running + n, owed := l.owed.drop 1, redisp := l.redisp + 1 }
    else { l with running := l.running + n, next := l.next + n, firstDispatch := first, lastDispatch := s.cycle, unplaceableSince := none })
  let last := match u.slots.getLast? with | some c => c.core.toNat % 64 | none => 0
  modWalker (dropReservation s u.queue l.ordinal) die (fun w => { w with last := last })

/-- Whether a die's walker has a unit to dispatch in this cc. -/
def walkerDue (s : State) (die : Nat) : Bool :=
  (match s.walkers[die]? with | some w => w.next ≤ s.cycle | none => false) && !withheld s die && (topLevel s die).isSome

/-- The deficits of the levels at which a die's walker finds no placeable unit: every tenant visited there finds no unit, or is
skipped, and its deficit is 0 (R409). -/
def idleDeficits (s : State) (die : Nat) (w : Walker) : Walker :=
  if w.deficits.isEmpty || s.cycle < w.next || withheld s die then w
  else
    let idle (level : Nat) : Bool := (levelLaunches s die level).all (fun x => (placeable s die x.1 x.2).isNone)
    { w with deficits := w.deficits.filter (fun p => !idle (p.1 % 8)) }

/-- The walkers at the end of a cc. -/
def restWalkers (s : State) : State := { s with walkers := s.walkers.mapIdx (fun i w => idleDeficits s i w) }

/-- WALKER_STEP (R408, R409): one unit, once every 2 cc. -/
def execWalkerStep (die : BitVec 2) (s : State) : Result :=
  event s (
    let d := die.toNat
    if !walkerDue s d then s
    else match topLevel s d, s.walkers[d]? with
    | some level, some w =>
      let ts := levelTenants s d level
      (match roundRobin s d level ts (sget 0 w.visited level) (clearDeficits w.deficits level ts) (9 * ts.length + 9) with
       | none => s
       | some (u, t, ds) =>
         let s := dispatchUnit s d u
         let mark (w : Walker) : Walker :=
           { w with visited := sset 0 w.visited level t, deficits := ds, next := s.cycle + 2 }
         modWalker s d mark)
    | _, _ => s)

/-! ## Reservations (R410) -/

/-- The die on which a troupe takes its reservation: the lowest whose mask names enough cores. -/
def reservationDie (r : BitVec 2048) : Option Nat := (List.range 4).find? (fun d => recTroupe r ≤ maskCount r d)

/-- The launches that wait for a reservation on a die, with the cc since when they wait and the slots that it keeps in place of
the mask: unplaceable troupes of launches that still claim indices, and saved troupes and DET items whose restore waits
(R441). -/
def reservationWaits (s : State) (die : Nat) : List (Nat × BitVec 6 × Launch × List SlotId) :=
  let new := (eligible s).filterMap (fun x =>
    match x.2.unplaceableSince with
    | some c => if reservationDie x.2.record = some die && !launchOver x.2 then some (c, x.1, x.2, []) else none
    | none => none)
  let back := s.saved.filterMap (fun x => match x.slot.item with
    | some i => (launchOf s i.queue i.ordinal).bind (fun l =>
        let here := if isDet x.slot then dieOf x.slot.id.core = die else i.size ≠ 0 && reservationDie l.record = some die
        let kept := if isDet x.slot then (savedGang s x).map (fun y => y.slot.id) else []
        if here && holdPassed s l then some (x.since, i.queue, l, kept) else none)
    | none => none)
  (new ++ back).filter (fun x => x.1 + 16000 ≤ s.cycle)

/-- The one that takes the reservation next: the longest wait, then the higher priority. -/
def reservationNext (s : State) (die : Nat) : Option (Nat × BitVec 6 × Launch × List SlotId) :=
  (reservationWaits s die).foldl (fun m x => match m with
    | none => some x
    | some y =>
      if x.1 < y.1 ∨ (x.1 = y.1 ∧ recPrio y.2.2.1.record < recPrio x.2.2.1.record) then some x else some y) none

/-- TROUPE_RESERVATION (R410): a die holds at most one reservation. -/
def execTroupeReservation (die : BitVec 2) (s : State) : Result :=
  event s (match s.walkers[die.toNat]?, reservationNext s die.toNat with
    | some w, some (_, q, l, kept) =>
      if w.reservation.isSome then s
      else
        let take (w : Walker) : Walker := { w with reservation := some (q, l.ordinal), kept := kept, reservedAt := s.cycle }
        modWalker s die.toNat take
    | _, _ => s)

/-- Whether an eligible troupe has a unit that no walker can place. -/
def unplaceable (s : State) (q : BitVec 6) (l : Launch) : Bool :=
  recTroupe l.record ≠ 0 && !launchOver l && mayClaim s q l
    && (List.range 4).all (fun d => (placeable s d q l).isNone)

/-- Since when each eligible troupe has been unplaceable. -/
def noteUnplaceable (s : State) : State :=
  (eligible s).foldl (fun s x =>
    let u := unplaceable s x.1 x.2
    if u && x.2.unplaceableSince.isNone then
      modLaunch s x.1 x.2.ordinal (fun l => { l with unplaceableSince := some s.cycle })
    else if !u && x.2.unplaceableSince.isSome then
      modLaunch s x.1 x.2.ordinal (fun l => { l with unplaceableSince := none })
    else s) s

/-! ## Retirement (R106, R207, R214) -/

/-- Whether a forward of the slot's counters has still to be sent (R214, R304). -/
def forwardOwed (s : State) (t : Slot) : Bool :=
  t.q.toList.any (fun c => c.bindings.any (fun b => b.sent ≠ c.value && ((bindingSlot s b).isSome
    || s.saved.any (fun x => decide (itemKey x.slot = (b.queue.toNat, b.ordinal, b.index))))))

/-- Whether a slot's item retires now. -/
def retireDue (s : State) (t : Slot) : Bool :=
  (match t.item with | some i => i.ended && !i.retired | none => false)
    && !t.mx.running && !t.cp.running && t.ops.isEmpty && t.events.isEmpty && t.ending.isEmpty && !forwardOwed s t
    && !s.barriers.any (fun u => sameItem u.issuer (refOf t 0))

/-- The slots of the members of an item's troupe that are resident, or the slot itself. -/
def gangOf (s : State) (t : Slot) : List Slot :=
  match t.item with
  | none => []
  | some i =>
    if i.size = 0 then [t]
    else (allSlots s).filter (fun y => slotRuns y i.queue i.ordinal && (match y.item with
      | some j => j.index + i.rank = i.index + j.rank
      | none => false))

/-- ITEM_RETIRE (R214): the item adds its signature term, and the entries that it has not answered return (R168); a troupe's slots
are free when its last member retires. -/
def execItemRetire (c : SlotId) (s : State) : Result :=
  event s (match slotOf s c with
    | none => s
    | some t =>
      if !retireDue s t then s
      else match t.item with
      | none => s
      | some i =>
        let s := modLaunch s i.queue i.ordinal (fun l =>
          { l with acc := l.acc + itemTerm t i, retired := l.retired + 1, running := l.running - 1 })
        let done (t : Slot) : Slot := { t with item := some { i with retired := true }, walks := [], inbox := [] }
        let s := wantSwitch (lapse (modSlot (returnEntries s t) c done) (itemKey t)) c
        let gang := match slotOf s c with | some t => gangOf s t | none => []
        if i.size ≤ gang.length + (if i.size = 0 then 1 else 0)
            && gang.all (fun y => match y.item with | some j => j.retired | none => false)
        then (gang.map (fun y => y.id)).foldl removeItem s
        else s)

/-! ## Completion of a launch (R107, R404 to R406, R416) -/

/-- Whether a launch completes now. -/
def launchDone (l : Launch) : Bool := launchOver l && l.owed.isEmpty && l.running = 0

/-- The completion record (R405). -/
def completionRecord (q : BitVec 6) (l : Launch) (sig : BitVec 256) : List Byte :=
  let last := if l.next = 0 then 2 ^ 64 - 1 else l.next - 1
  let status := if l.failed then 2 else if l.cancelled then 1 else 0
  bytesOf 64 (status + l.redisp % 2 ^ 32 * 2 ^ 32 + l.retired * 2 ^ 64 + last * 2 ^ 128 + q.toNat * 2 ^ 202
    + l.ordinal * 2 ^ 208 + sig.toNat * 2 ^ 256)

/-- The trace header (R416). -/
def traceHeader (l : Launch) : List Byte :=
  bytesOf 64 (recTotal l.record * 2 ^ 128 + (recordDigest l.record).toNat * 2 ^ 192 + l.next * 2 ^ 448)

/-- Bytes written at a pinned virtual address. -/
def pinWrite (s : State) (pins : List Pin) (va : Nat) (bs : List Byte) : State :=
  match pinAddr pins va with
  | some pa => (homeWrite s pa bs).1
  | none => s

/-- The completion counter after ordinals that completed ahead of it (R406). -/
def countCompleted (n : Nat) (ahead : List Nat) : Nat → Nat
  | 0 => n
  | fuel + 1 => if ahead.contains (n + 1) then countCompleted (n + 1) ahead fuel else n

/-- LAUNCH_COMPLETION (R404); a `done` of 0 asks for no completion record (R198). -/
def execLaunchCompletion (queue : BitVec 6) (ordinal : Nat) (s : State) : Result :=
  event s (match launchOf s queue ordinal with
    | none => s
    | some l =>
      if !launchDone l then s
      else
        let sig := sha3 (bytesOf 256 l.record.toNat ++ bytesOf 32 l.acc.toNat)
        let s := if recDone l.record = 0 then s else pinWrite s l.pins (recDone l.record) (completionRecord queue l sig)
        let s := if recTrrec l.record then pinWrite s l.pins (recTrace l.record) (traceHeader l) else s
        let s := if l.detIndex ≠ 0 then clearIndex s l.detIndex else s
        let x := queueOf s queue
        let ahead := ordinal :: x.ahead
        let n := countCompleted x.completed ahead ahead.length
        setQueue s queue { x with
          launches := x.launches.filter (fun y => y.ordinal ≠ ordinal)
          completed := n
          counted := some (s.cycle, completedBefore s x)
          ahead := ahead.filter (fun y => n < y)
          sigs := ((ordinal, recTenant l.record, sig) :: x.sigs).take 16 })

end Sys2Proof.Machine
end

