-- ==== Sys2Proof/Machine/Switch.lean ====
section
/-! DEFINITION. Slot switches, pre-emption, saved items and their restore, lost contexts (R54, R209, R352, R410, R423,
R424, R430, R437 to R446). -/

namespace Sys2Proof.Machine

/-! ## Stopping and resuming a slot -/

/-- The matrix stream's time goes on in cc `z` (R352). -/
def resumeTime (t : Slot) (z : Nat) : Slot :=
  match t.time.stoppedAt with
  | none => t
  | some s0 =>
    let d := z - s0
    let x := t.time
    let shift (o : Op) : Op :=
      match o.work with
      | .matrix i cap start next slipped => { o with work := .matrix i cap (start + d) next slipped }
      | _ => o
    { t with
      time := { x with
        sb := x.sb + word d, started := x.started + d, lastIssue := x.lastIssue + d, stoppedAt := none
        lands := x.lands.map (fun l => { l with at_ := l.at_ + d }), reads := x.reads.map (fun r => (r.1, r.2 + d)) }
      ops := t.ops.map shift }

/-- What an engine keeps when its slot stops (R368, R445): a scan begins again, and so does a gather once its slot resumes
(R72); a copy reads again what it has not written (R387). -/
def stopWork (o : Op) : Op :=
  match o.work with
  | .scan z src dst n nch op troupe step _ _ =>
    { o with staged := none, work := .scan z src dst n nch op troupe step false [] }
  | _ => { o with staged := none }

/-- A slot stopped in a cc by a switch or a pre-emption (R352, R430). -/
def stopSlot (t : Slot) (cycle : Nat) : Slot :=
  { t with
    time := { t.time with stoppedAt := t.time.stoppedAt <|> some cycle }
    ops := t.ops.map stopWork, blockedFor := 0, readyFor := 0, copied := 0 }

/-- The gathers of a slot that goes on after an interruption begin again (R72). -/
def restartGathers (t : Slot) : Slot := { t with ops := t.ops.map (restartGather t) }

/-- A slot that runs again from cc `z`: its FIFOs are refilled first (R54), and its gathers and its time go on unless it
waits on a firmware answer. -/
def resumeSlot (t : Slot) (z : Nat) : Slot :=
  let t := { refillFifos t z with blockedFor := 0, readyFor := 0 }
  if t.answer.isNone then resumeTime (restartGathers t) z else t

/-- A WAIT whose combination holds in the cc in which its slot stops ends in that cc: what it waited for is judged, and its
result and what it acquires are those of that cc (R193, R194, R442). -/
def latchWait (s : State) (c : SlotId) : State :=
  match slotOf s c with
  | some t => (match t.wait with | some w => if waitMet t w then waitEnd s t w false else s | none => s)
  | none => s

/-! ## Switches (R209, R423, R424) -/

/-- Whether a slot holds an item that has not retired. -/
def liveSlot (s : State) (c : SlotId) : Bool :=
  match slotOf s c with
  | some t => (match t.item with | some i => !i.retired | none => false)
  | none => false

/-- The active slot of a core. -/
def activeSlot (s : State) (core : BitVec 8) : SlotId := ⟨core, (coreOf s core).active⟩

/-- Whether a core switches now, or drops the triggers that it has (R423); a core with a freed slot takes the other one
once it is ready. -/
def switchDue (s : State) (core : BitVec 8) : Bool :=
  let x := coreOf s core
  x.switchEnds ≤ s.cycle
    && (x.wants || (!liveSlot s (activeSlot s core) && otherReady s (activeSlot s core)))

/-- SLOT_SWITCH (R209). -/
def execSlotSwitch (core : BitVec 8) (s : State) : Result :=
  event s (
    if !switchDue s core then s
    else
      let x := coreOf s core
      let old := activeSlot s core
      if !otherReady s old then setCore s core { x with wants := false }
      else
        let z := s.cycle + 16
        let s := modSlot (latchWait s old) old (fun t => stopSlot t s.cycle)
        let s := modSlot s (otherSlot old) (fun t => resumeSlot t z)
        setCore s core { active := !x.active, heldSince := z, switchEnds := z, wants := false })

/-- Whether the active slot runs a matrix stream of a STRICT launch, which some triggers spare (R209, R424). -/
def strictRunning (s : State) (core : BitVec 8) : Bool :=
  match slotOf s (activeSlot s core) with
  | some t => isStrict t && t.mx.running
  | none => false

/-- Whether a trigger that a STRICT matrix stream bars would switch the core. -/
def triggerOpen (s : State) (core : BitVec 8) : Bool :=
  let x := coreOf s core
  x.switchEnds ≤ s.cycle && !x.wants && !strictRunning s core && otherReady s (activeSlot s core)

/-- Every running stream of the active slot has been blocked for 64 consecutive cc (R209). -/
def blockedTrigger (s : State) (core : BitVec 8) : Bool :=
  triggerOpen s core && (match slotOf s (activeSlot s core) with | some t => 64 ≤ t.blockedFor | none => false)

/-- The priority of a slot's launch. -/
def slotPrio (s : State) (c : SlotId) : Nat := match slotOf s c with | some t => recPrio t.record | none => 0

/-- The inactive slot's launch has a strictly higher priority, and the active slot has held the core for 256 cc
(R424). -/
def priorityTrigger (s : State) (core : BitVec 8) : Bool :=
  let a := activeSlot s core
  triggerOpen s core && slotPrio s a < slotPrio s (otherSlot a) && (coreOf s core).heldSince + 256 ≤ s.cycle

/-- The inactive slot has been ready for 4,096 cc, and the active slot has held the core as long (R424). -/
def timeSliceTrigger (s : State) (core : BitVec 8) : Bool :=
  triggerOpen s core && (coreOf s core).heldSince + 4096 ≤ s.cycle
    && (match slotOf s (otherSlot (activeSlot s core)) with | some t => 4096 ≤ t.readyFor | none => false)

/-- BLOCKED_SWITCH_TRIGGER (R209). -/
def execBlockedSwitchTrigger (core : BitVec 8) (s : State) : Result :=
  event s (if blockedTrigger s core then triggerSwitch s core else s)

/-- PRIORITY_SWITCH_TRIGGER (R424). -/
def execPrioritySwitchTrigger (core : BitVec 8) (s : State) : Result :=
  event s (if priorityTrigger s core then triggerSwitch s core else s)

/-- TIME_SLICE_SWITCH_TRIGGER (R424). -/
def execTimeSliceSwitchTrigger (core : BitVec 8) (s : State) : Result :=
  event s (if timeSliceTrigger s core then triggerSwitch s core else s)

/-! ## Saving (R437 to R440) -/

/-- The barrier updates of an item performed (R430, step 3). -/
def drainBarriers (s : State) (r : OpRef) : Nat → State
  | 0 => s
  | fuel + 1 =>
    match s.barriers.findIdx? (fun u => sameItem u.issuer r) with
    | some i => drainBarriers (barrierArrive s i) r fuel
    | none => s

/-- Every pending producer of a slot writes its destination (R430, step 3). -/
def drainDeferred (t : Slot) : Slot := (List.range t.deferred.length).foldl (fun t _ => writeDeferred t 0) t

/-- What an item finishes in the cc in which a pre-emption stops it. -/
def drainSlot (s : State) (t : Slot) : State :=
  modSlot (drainBarriers (latchWait s t.id) (refOf t 0) s.barriers.length) t.id drainDeferred

/-- A slot stopped for a save (R430, R437). -/
def stopForSave (s : State) (t : Slot) : State :=
  modSlot (drainSlot s t) t.id (fun t => { stopSlot t s.cycle with saving := true })

/-- The free save areas of a slot's context (R438). -/
def freeAreas (s : State) (t : Slot) : Nat := match contextOf s t.tenant t.context with | some c => c.areas | none => 0

def modAreas (s : State) (t : Slot) (f : Nat → Nat) : State :=
  { s with contexts := s.contexts.map (fun c =>
      if c.tenant = t.tenant ∧ c.context = t.context then { c with areas := f c.areas } else c) }

/-- The handles of a slot after an absence (R441): bound ones are full and not valid. The translation cache stays with the
place (R115). -/
def restHandles (t : Slot) : Slot :=
  { t with
    walks := [], cache := []
    h := t.h.map (fun x => if x.bound then { x with full := true, valid := false, walk := false } else x) }

/-! ### State slots (R440) -/

/-- The tweak of state slot `z` in a save, but for the unit (R440). -/
def saveLbn (serial : Nat) (z : Nat) : Word := word (2 ^ 63 + 64 * serial + z)

/-- The bound state slots of an item through the cipher engines of the dies that their tags name: enciphered as the pannier saves
them, deciphered as it restores them. A slot whose tag holds 0 passes as it is, and one whose handle is dead is zeroed (R133,
R440). -/
def cipherState (s : State) (encrypt : Bool) (serial : Nat) (t : Slot) : Slot :=
  (t.ztag.filter (fun p => p.2.state = tagBound && p.2.kdh ≠ 0)).foldl (fun t p =>
    let z : BitVec 6 := BitVec.ofNat 6 p.1
    let k := keyOf s p.2.kdh
    if handleDead s p.2.kdh then killState p.2.kdh t
    else zWrite t z 0 (xtsUnits encrypt k.k1 k.k2 p.2.kdh (saveLbn serial p.1) 0 (zRead t z 0 stateBytes))) t

/-- An item saved: its slot is free (R437, R438). -/
def saveSlot (s : State) (c : SlotId) : State :=
  match slotOf s c with
  | none => s
  | some t =>
    let die : Fin 2 := if dieOf c.core % 2 = 1 then 1 else 0
    let rest := { restHandles (stopSlot t s.cycle) with saving := false }
    let x : Saved := { slot := cipherState s true s.saveSerial[die] rest, since := s.cycle, serial := s.saveSerial[die] }
    let s := modAreas s t (fun n => n - 1)
    let s := { s with
      saved := s.saved ++ [x]
      saveSerial := s.saveSerial.set die ((s.saveSerial[die] + 1) % 2 ^ 48)
      pageFaults := s.pageFaults.filter (fun f => !(sameItem f.owner (refOf t 0) && f.handle.isSome)) }
    freeSlot (wantSwitch s c) c

/-- A unit that a pre-emption has stopped is saved whole once every producer has written (R30, R430, step 3; R437); what ends its
item in this cc comes first (R429). -/
def finishSave (s : State) (c : SlotId) : State :=
  match slotOf s c with
  | none => s
  | some t =>
    let gang := gangOf s t
    if gang.all (fun y => y.saving && y.ending.isEmpty && producersDone y) then (gang.map (fun y => y.id)).foldl saveSlot s else s

/-- The saves that wait, at the end of a cc. -/
def finishSaves (s : State) : State :=
  (((allSlots s).filter (fun t => t.saving)).map (fun t => t.id)).foldl finishSave s

/-- A unit stopped and saved, when the context has areas for it (R30, R438). -/
def saveUnit (s : State) (t : Slot) : State :=
  let gang := gangOf s t
  if freeAreas s t < gang.length then s else finishSave (gang.foldl stopForSave s) t.id

/-- A launch pre-empted at the boundary: it claims no index (R437). -/
def holdLaunch (s : State) (q : BitVec 6) (ord : Nat) (why : HoldCause) : State :=
  modLaunch s q ord (fun l => { l with held := l.held.filter (fun h => h ≠ why) ++ [why] })

/-- The host's request to resume a launch: its own pre-emption is over (R437). -/
def resumeLaunch (s : State) (q : BitVec 6) (ord : Nat) : State :=
  modLaunch s q ord (fun l => { l with held := l.held.filter (fun h => h ≠ .host) })

/-- A launch pre-empted mid-item on some slots (R437). -/
def preemptMid (s : State) (q : BitVec 6) (ord : Nat) (why : HoldCause) (on : SlotId → Bool) : State :=
  let s := holdLaunch s q ord why
  ((launchSlots s q ord).filter on).foldl (fun s c =>
    match slotOf s c with
    | some t => if slotRuns t q ord && !t.saving then saveUnit s t else s
    | none => s) s

/-- The launch that firmware pre-empts to place a reservation: of the lowest priority, at most that of the reservation,
with an item on a core of its mask. -/
def reservationVictim (s : State) (die : Nat) (q : BitVec 6) (l : Launch) : Option (BitVec 6 × Launch) :=
  let on (x : BitVec 6 × Launch) : Bool := (launchSlots s x.1 x.2.ordinal).any (fun c =>
    dieOf c.core = die && (recMask l.record die).testBit (c.core.toNat % 64))
  let all := s.queues.flatMap (fun p => p.2.launches.map (fun x => ((BitVec.ofNat 6 p.1 : BitVec 6), x)))
  let can := all.filter (fun x =>
    (x.1, x.2.ordinal) ≠ (q, l.ordinal) && recPrio x.2.record ≤ recPrio l.record && on x)
  can.foldl (fun m x => match m with
    | none => some x
    | some y => if recPrio x.2.record < recPrio y.2.record then some x else some y) none

/-- What a reservation that has waited 10,000 rt pre-empts (R437). -/
def reservationLate (s : State) (die : Nat) : Option (BitVec 6 × Nat × BitVec 6 × Launch) :=
  match s.walkers[die]? with
  | some w =>
    (match w.reservation with
     | some (q, o) =>
       if s.cycle < w.reservedAt + 160000 then none
       else ((launchOf s q o).bind (fun l => reservationVictim s die q l)).map (fun v => (q, o, v.1, v.2))
     | none => none)
  | none => none

/-- RESERVATION_PREEMPT (R437). -/
def execReservationPreempt (die : BitVec 2) (s : State) : Result :=
  event s (match reservationLate s die.toNat with
    | some (q, o, v, l) => preemptMid s v l.ordinal (.reservation q o) (fun c => dieOf c.core = die.toNat)
    | none => s)

/-! ## Completions held for a saved item (R439) -/

def modSaved (s : State) (i : Nat) (f : Saved → Saved) : State :=
  { s with saved := s.saved.mapIdx (fun j x => if j = i then f x else x) }

/-- A saved item's operation changed. -/
def modSavedOp (s : State) (i : Nat) (id : Nat) (f : Op → Op) : State :=
  modSaved s i (fun x => { x with slot := modOp x.slot id f })

/-- The next KV operation of a saved item that its slice can perform without its storage, performed and its completion held. -/
def heldKv (s : State) (i : Nat) (x : Saved) (die : Fin 2) : Option State :=
  let d := s.kv[die]
  match d.arrivals.findIdx? (fun r => sameItem r (refOf x.slot 0)) with
  | none => none
  | some j =>
    (d.arrivals[j]?.bind (fun a => (opOf x.slot a.op).map (fun o => (a, o)))).bind (fun p =>
      match p.2.work with
      | .kv r none =>
        (kvData p.2 r).bind (fun data =>
          if !kvReady s die j p.1 x.slot p.2 r data then none
          else
            let gone := dropArrival s die j
            match checkKvLines gone x.slot r data (kvRun gone x.slot r data) with
            | .error _ => none
            | .ok y =>
              let bs := kvReply r y
              let dead := newlyDead s y.st die
              if !heldRoom x bs.length then none
              else some (modSavedOp y.st i p.2.id (fun o => { o with work := .status r.status bs, dead := dead })))
      | _ => none)

/-- A reply for a saved item, held; the replier's operation is over (R169). -/
def heldReply (s : State) (i : Nat) (x : Saved) : Option State :=
  (s.replies.zipIdx.find? (fun p => match p.1.sent with
    | some (e, _) => holdsItem x.slot e.sender.item e.sender.born
    | none => false)).bind (fun p =>
      match p.1.sent with
      | none => none
      | some (e, bs) =>
        if !heldRoom x bs.length then none
        else
          let s := modSavedOp { s with replies := s.replies.eraseIdx p.2 } i e.sender.op (fun o =>
            match o.work with
            | .awaitReply raddr _ => { o with work := .status raddr bs }
            | _ => o)
          match refOp s p.1.source with
          | some (t, o) =>
            (match o.work with
             | .reply _ _ _ status => some (engineFinish s t.id o status (kvStatus kvOk 0 0 0 0))
             | _ => some s)
          | none => some s)

/-- The acceptance of a saved item's carry, held. -/
def heldAcceptance (s : State) (i : Nat) (x : Saved) : Option State :=
  (s.acceptances.zipIdx.find? (fun p => p.1.answer = .accepted && holdsItem x.slot p.1.source.item p.1.source.born)).map (fun p =>
    modSavedOp { s with acceptances := s.acceptances.eraseIdx p.2 } i p.1.source.op (fun o =>
      match o.work with
      | .chsend .. => { o with work := .none }
      | _ => o))

/-- A carry for a saved item, held (R384): the first with its tag, past its back-off. -/
def heldCarry (s : State) (i : Nat) (x : Saved) : Option State :=
  let first (p : Carry × Nat) : Bool := !(s.carries.take p.2).any (fun y =>
    y.srcDev = p.1.srcDev && y.source.slot = p.1.source.slot && y.dstCore = p.1.dstCore && y.dstSlot = p.1.dstSlot
      && y.tag = p.1.tag)
  (s.carries.zipIdx.find? (fun p =>
      x.slot.id = ⟨p.1.dstCore, p.1.dstSlot⟩ && p.1.bytes.isSome && decide (p.1.due ≤ s.cycle) && first p)).bind (fun p =>
    if !acceptsCarry x.slot p.1 || !heldRoom x (p.1.bytes.getD []).length || !answerRoom s p.1 || liveSlot s x.slot.id then none
    else
      let take (x : Saved) : Saved := { x with slot := { x.slot with unmatched := x.slot.unmatched ++ [p.1] } }
      some (answerCarry (modSaved { s with carries := s.carries.eraseIdx p.2 } i take) p.1 .accepted))

/-- What is held for a saved item next; none when nothing comes or the held section has no room. -/
def heldNext (s : State) (i : Nat) : Option State :=
  match s.saved[i]? with
  | none => none
  | some x => heldKv s i x 0 <|> heldKv s i x 1 <|> heldReply s i x <|> heldAcceptance s i x <|> heldCarry s i x

/-- HELD_COMPLETION (R439): what does not fit is refused, and its sender sends it again. -/
def execHeldCompletion (i : Nat) (s : State) : Result := event s ((heldNext s i).getD s)

/-! ## Restore (R441) -/

/-- Whether new units of a higher priority come first on a die (R408, R441). -/
def outranked (s : State) (die : Nat) (l : Launch) : Bool := (topLevel s die).any (fun p => recPrio l.record < p)

/-- The slots to which the items of a gang return: their own under DET, else compatible ones (R411, R412). DESIGN CHOICE (log
97): a troupe of which a member is lost returns to its own slots, where that member is dispatched again. -/
def restorePlaces (s : State) (q : BitVec 6) (l : Launch) (gang : List Saved) : Option (List SlotId) :=
  if recDet l.record || gang.length < recTroupe l.record then
    (if gang.all (fun x => canTake s q l x.slot.id && !outranked s (dieOf x.slot.id.core) l) then some (gang.map (fun x => x.slot.id))
     else none)
  else (List.range 4).findSome? (fun d =>
    if outranked s d l then none
    else if recTroupe l.record = 0 then ((scanOrder s d).findSome? (coreSlot s q l)).map (fun c => [c])
    else gangSlots s d q l (recTroupe l.record))

/-- Where a saved item and its troupe can be restored now. -/
def restoreTo (s : State) (i : Nat) : Option (List (Saved × SlotId)) :=
  (s.saved[i]?).bind (fun x =>
    match x.slot.item with
    | none => none
    | some it =>
      (launchOf s it.queue it.ordinal).bind (fun l =>
        let gang := savedGang s x
        let lost := l.owed.filter (fun p => it.size ≠ 0 && p.1 / it.size = it.index / it.size)
        if !holdPassed s l || decide (gang.length + lost.length < it.size) then none
        else (restorePlaces s it.queue l gang).map (fun cs => gang.zip cs)))

/-- GET data that was held, written in order of arrival (R439, R441). -/
def applyHeld (s : State) (c : SlotId) (p : Nat × List Byte) : State :=
  match (slotOf s c).bind (fun t => (opOf t p.1).map (fun o => (t, o))) with
  | none => s
  | some (t, o) =>
    match o.work with
    | .net b h trap cor sent done =>
      let bs := p.2.take (netLen b - done)
      (match netFill s c o b h done bs 513 with
       | .ok s => netAdvance s t o b h trap cor sent (done + bs.length)
       | .error (.fault e) => opFault s c o e
       | .error _ => s)
    | _ => s

/-- A GET asks again for what is missing (R441). -/
def askAgain (o : Op) : Op :=
  match o.work with
  | .net b h trap cor _ done => if b.get then { o with work := .net b h trap cor none done } else o
  | _ => o

/-- The completions that were held for an item, in operation-number order (R439, R441). -/
def applyCompletions (s : State) (c : SlotId) : State :=
  match slotOf s c with
  | none => s
  | some t =>
    t.ops.foldl (fun s o =>
      match (slotOf s c).bind (fun t => (opOf t o.id).map (fun o => (t, o))) with
      | none => s
      | some (t, o) =>
        let held := o.work = .none || (match o.work with | .status .. => true | _ => false)
        if held && completeReady s t o then complete (completeWork s t o) c o.id else s) s

/-- One saved item back in a slot (R441). -/
def restoreSlot (s : State) (x : Saved) (c : SlotId) : State :=
  let s := { s with saved := s.saved.filter (fun y => y.slot.id ≠ x.slot.id || itemKey y.slot ≠ itemKey x.slot) }
  let s := modAreas s x.slot (fun n => n + 1)
  let place := placeOf s c
  let cache := if place.tenant = x.slot.tenant ∧ place.context = x.slot.context then place.cache else []
  let s := occupy (setFused s c.core (recFuse x.slot.record)) { cipherState s false x.serial x.slot with id := c, cache }
  let s := x.held.foldl (fun s p => applyHeld s c p) (applyCompletions s c)
  modSlot s c (fun t =>
    let t := { t with ops := t.ops.map askAgain }
    if isActive s c then resumeSlot t (max s.cycle (coreOf s c.core).switchEnds) else t)

/-- RESTORE (R441): the item, or its whole troupe. -/
def execRestore (i : Nat) (s : State) : Result :=
  event s (match restoreTo s i with
    | none => s
    | some ps =>
      let s := ps.foldl (fun s p => restoreSlot s p.1 p.2) s
      let slots := ps.map (fun p => p.2)
      let last := match slots.getLast? with | some c => c | none => ⟨0, false⟩
      match ps.head?.bind (fun p => p.1.slot.item) with
      | some it => modWalker (dropReservation s it.queue it.ordinal) (dieOf last.core) (fun w =>
          { w with last := last.core.toNat % 64 })
      | none => s)

/-! ## Errors (R444, R446) -/

/-- The report of a lost context (R444): the section in which the error struck. -/
def lostReport (section_ : Nat) : FaultInfo := { code := 0x30, elem := BitVec.ofNat 32 section_ }

/-- A saved item's context lost (R444). -/
def loseSaved (s : State) (x : Saved) (section_ : Nat) : State :=
  match x.slot.item with
  | none => s
  | some it =>
    let rep := report s x.slot { slot := x.slot.id, source := 5, coff := 0 } (lostReport section_)
    if recRepl x.slot.record then
      let s := oweItem (dropSaved s x) x.slot it
      sendFrame s (hostFrame s 9 (reportHost s) x.slot.tenant x.slot.context 0 (bytesOf 64 rep.toNat))
    else endLaunch s it.queue it.ordinal x.slot.tenant x.slot.context rep

/-- CONTEXT_LOST (R444, R446): an uncorrectable error in the state of an item, saved or not. -/
def execContextLost (c : SlotId) (section_ : Nat) (s : State) : Result :=
  event s (
    if 6 < section_ then s
    else match s.saved.find? (fun x => x.slot.id = c) with
    | some x => loseSaved s x section_
    | none => if !slotEmpty s c then takeFault s { slot := c, source := 5, coff := 0 } (lostReport section_) 0 else s)

/-- The die on which an error strikes. -/
def placeDie (p : ErrorPlace) : BitVec 2 :=
  match p with
  | .memory g => BitVec.ofNat 2 (if isDieMemory 1 (16 * g) then 3 else if isDieMemory 0 (16 * g) then 2 else homeDie (16 * g))
  | .bank c _ => BitVec.ofNat 2 (dieOf c.core)
  | .kv die _ _ => if die then 3 else 2
  | .l1 core _ => BitVec.ofNat 2 (dieOf core)

/-- An entry put into the log of its die, which holds 256 (R448). DESIGN CHOICE (log 107): a full log gives up its oldest. -/
def logError (s : State) (p : ErrorPlace) (corrected : Bool) : State :=
  let e : ErrorEntry := { die := placeDie p, place := p, corrected, cycle := s.cycle }
  let mine := s.errors.filter (fun x => x.die = e.die)
  let others := s.errors.filter (fun x => x.die ≠ e.die)
  { s with errors := others ++ mine.drop (mine.length - 255) ++ [e] }

/-- A granule that an uncorrectable error strikes is poisoned; of an L1 the line is dropped (R446). -/
def strike (s : State) (p : ErrorPlace) : State :=
  match p with
  | .memory g => { s with poison := sset false s.poison g true }
  | .bank c g => modSlot s c (fun t => { t with poison := sset false t.poison g true })
  | .kv die pbid g =>
    let d : Fin 2 := if die then 1 else 0
    let b := blockOf s.kv[d] pbid.toNat
    if b.refs = 0 then s else putBlock s d pbid.toNat { b with poison := sset false b.poison g true }
  | .l1 core line => l1Drop s core line (line + 1)

/-- The numbers of a log entry (log 107). -/
def errorFields (e : ErrorEntry) : List Nat :=
  let place := match e.place with
    | .memory g => [0, g]
    | .bank c g => [1, c.core.toNat, c.slot.toNat, g]
    | .kv die pbid g => [2, die.toNat, pbid.toNat, g]
    | .l1 core line => [3, core.toNat, line]
  [e.die.toNat, e.corrected.toNat, e.cycle] ++ place

/-- The log of a die drained, and sent to the host (R448). -/
def drainLog (s : State) (die : BitVec 2) : State :=
  let mine := s.errors.filter (fun e => e.die = die)
  if mine.isEmpty then s
  else
    let bs := mine.flatMap (fun e => bytesOf 16 (Config.errorRecord (errorFields e)).toNat)
    sendFrame { s with errors := s.errors.filter (fun e => e.die ≠ die) } (hostFrame s 10 (reportHost s) 0 0 0 bs)

/-- SCRUB (R446, R448): what a check of a place finds. A corrected error is counted; an uncorrected one poisons the granule,
and of an L1 either drops the line. DESIGN CHOICE (log 107): firmware drains a die's log when a scrub there finds nothing. -/
def execScrub (f : Finding) (s : State) : Result :=
  let p := f.place
  event s (match f.kind with
    | .clean => drainLog s (placeDie p)
    | .corrected => logError (match p with | .l1 .. => strike s p | _ => s) p true
    | .uncorrected => logError (strike s p) p (match p with | .l1 .. => true | _ => false))

end Sys2Proof.Machine
end

