-- ==== Sys2Proof/Machine/Manage.lean ====
section
/-! DEFINITION. Firmware: management requests (R434, R437, R458, R465 to R469), and the derailleur (R68, R69). -/

namespace Sys2Proof.Machine

/-! ## Requests and answers (R456, R458) -/

/-- Whether a request of a host reaches firmware: the host is registered and firmware runs (R468, R470), and the port, the only
way in, is up (R1). -/
def hostHeard (s : State) (host : BitVec 18) : Bool := s.port.up && 25 ≤ s.mgmt.boot.stage && s.mgmt.hosts.contains host

/-- The frame in which a request comes (R456). -/
def requestFrame (s : State) (m : MgmtHead) (code : BitVec 8) : Frame :=
  { kind := 10, hs := true, hd := false, src := m.host, dst := s.devid, tenant := m.tenant, context := m.context, seq := m.seq
    ack := 0, rpa := 0, aux := code.setWidth 32, payload := [] }

/-- Whether a step of firmware has written to a bucket that is on the move. -/
def writesHeld (s s' : State) : Bool :=
  ([false, true] : List Bool).any (fun die =>
    match s.moves[die.toNat]? with
    | some (some m) =>
      let key := 4096 * die.toNat + m.bucket.toNat
      sget 0 s.counters key ≠ sget 0 s'.counters key
    | _ => false)

/-- A request of firmware at a control processor, which is a source (R68): none while it would read one of `lines` or write to
a bucket on the move, or while earlier frames of its flow are not performed (R69, R454). -/
def firmwareRuns (s : State) (f : Frame) (lines : List Nat) (run : State → State) : Option State :=
  let s' := run s
  if lines.all (canSend s 0) && !writesHeld s s' && !flowBusy s f then some s' else none

/-- A request (R458): it comes as a numbered frame of its flow (R453, R456), and firmware performs it. DESIGN CHOICE (log 92): a
request that would have to wait is refused as FULL, and the host sends it again. -/
def requestRun (s : State) (m : MgmtHead) (code : BitVec 8) (lines : State → List Nat) (run : State → State) : Result :=
  let f := requestFrame s m code
  let now (s : State) : Option State := firmwareRuns s f (lines s) run
  event s (if hostHeard s m.host then receive s f 10 (now s).isNone (fun s => (now s).getD s) else s)

/-- The answer of firmware: the status 0 with what the request returns, or that of a request which is not done. -/
def answered (s : State) (m : MgmtHead) (code : BitVec 8) (done : Option State) (more : List Byte := []) : State :=
  match done with
  | some s' => mgmtAnswer s' m.host code 0 more
  | none =>
    let x := Config.refusalStatus code
    mgmtAnswer s m.host code (if x = 0 then 1 else x)

/-- A request that firmware performs and answers at once. -/
def request (s : State) (m : MgmtHead) (code : BitVec 8) (done : State → Option State)
    (more : State → List Byte := fun _ => []) : Result :=
  requestRun s m code (fun _ => []) (fun s => answered s m code (done s) (more s))

/-- Whether no launch has been accepted since power-up. -/
def beforeLaunch (s : State) : Bool := s.queues.all (fun p => p.2.accepted = 0)

/-- MGMT_SET_DEVID (R25, R458). -/
def execMgmtSetDevid (m : MgmtHead) (dev : BitVec 18) (s : State) : Result :=
  request s m 0x01 (fun s => if beforeLaunch s then some { s with devid := dev } else none)

/-- MGMT_WRITE_PSEED (R415): acceptances of this cc still capture the value before it. -/
def execMgmtWritePseed (m : MgmtHead) (seed : Word) (s : State) : Result :=
  request s m 0x02 (fun s => some { s with pseed := seed, pseedWas := some (s.cycle, pseedNow s) })

/-- MGMT_TENANT (R409, R458, R466). -/
def execMgmtTenant (m : MgmtHead) (tenant : BitVec 16) (create : Bool) (weight : BitVec 8) (s : State) : Result :=
  request s m 0x03 (fun s =>
    let others := s.tenants.filter (fun t => t.id ≠ tenant)
    let old : Tenant := (s.tenants.find? (fun t => t.id = tenant)).getD { id := tenant }
    if tenant = 0 then none
    else if !create then
      some { s with tenants := others, translator := s.translator.filter (fun e => e.tenant ≠ tenant) }
    else if weight = 0 then none
    else some { s with tenants := others ++ [{ old with weight := weight }] })

/-- MGMT_ASSIGN_QUEUE (R400): tenant 0 assigns it to none. -/
def execMgmtAssignQueue (m : MgmtHead) (queue : BitVec 6) (tenant : BitVec 16) (s : State) : Result :=
  request s m 0x04 (fun s => some (setQueue s queue { queueOf s queue with tenant := tenant }))

/-- MGMT_ACCESS_TABLE (R125, R127): bits that must be zero are written as zero. Every request is judged when it is
performed, so none that was admitted earlier is left; one judged in this cc still finds the entry before the write. -/
def execMgmtAccessTable (m : MgmtHead) (target : Target) (index : BitVec 10) (entry : Word) (s : State) : Result :=
  let write (s : State) : State :=
    { s with
      access := sset 0 s.access (1024 * targetNum target + index.toNat) (entry &&& 0xFFFFFFFF007F0001#64)
      accessWas := some (s.cycle, accessNow s) }
  request s m 0x05 (fun s => some (write s))

/-- MGMT_CREATE_CONTEXT (R108, R438). -/
def execMgmtCreateContext (m : MgmtHead) (tenant context : BitVec 16) (root : BitVec 52) (saveAreas : Nat)
    (s : State) : Result :=
  request s m 0x06 (fun s =>
    if tenant = 0 ∨ root.toNat % 4096 ≠ 0 ∨ !isMemory root.toNat ∨ (contextOf s tenant context).isSome then none
    else some { s with contexts := s.contexts ++ [{ tenant, context, root := root.toNat, areas := saveAreas }] })

/-! ## Page faults (R434) -/

/-- Whether a fault is on a page. -/
def onPage (f : PageFault) (tenant context : BitVec 16) (vpage : BitVec 40) : Bool :=
  f.tenant = tenant && f.context = context && f.vpage = vpage

/-- Whether a slot waits for the answer on a page. -/
def waitsOn (t : Slot) (tenant context : BitVec 16) (vpage : BitVec 40) : Bool :=
  match t.answer with
  | some a => a.tenant = tenant && a.context = context && a.pages.contains vpage
  | none => false

/-- A slot whose faults on a page are answered; it waits on for its other pages. -/
def answeredPage (t : Slot) (vpage : BitVec 40) : Slot :=
  { t with answer := t.answer.bind (fun a =>
      if a.pages.all (fun p => p = vpage) then none else some { a with pages := a.pages.filter (fun p => p ≠ vpage) }) }

/-- A mapped page: walks of it start again, uses issue again. -/
def pageMapped (s : State) (tenant context : BitVec 16) (vpage : BitVec 40) (t : Slot) : Slot :=
  let t := { t with walks := t.walks.map (fun w =>
    if t.tenant = tenant ∧ t.context = context ∧ walkPage w = vpage then { w with faulted := false } else w) }
  if waitsOn t tenant context vpage then
    let t := answeredPage t vpage
    if t.answer.isNone && isActive s t.id then resumeTime (restartGathers t) s.cycle else t
  else t

/-- A declined page: every launch to which a fault on it belongs ends, with the report of its first. -/
def pageDeclined (s : State) (tenant context : BitVec 16) (vpage : BitVec 40) : State :=
  (s.pageFaults.filter (fun f => onPage f tenant context vpage)).foldl (fun s f =>
    let q : BitVec 6 := BitVec.ofNat 6 f.owner.item.1
    if (launchOf s q f.owner.item.2.1).any (fun l => !l.failed) then
      endLaunch s q f.owner.item.2.1 tenant context f.report
    else s) s

/-- The faults on a page answered: mapped, or declined (R434). -/
def pagesAnswered (s : State) (tenant context : BitVec 16) (vpage : BitVec 40) (mapped : Bool) : State :=
  let forget (s : State) : State := { s with pageFaults := s.pageFaults.filter (fun f => !onPage f tenant context vpage) }
  let back (x : Saved) : Saved := if waitsOn x.slot tenant context vpage then { x with slot := answeredPage x.slot vpage } else x
  if mapped then
    let s := mapSlots (forget s) (pageMapped s tenant context vpage)
    { s with saved := s.saved.map back }
  else forget (pageDeclined s tenant context vpage)

/-- MGMT_PAGE_FAULT_ANSWER (R434): every fault outstanding on the page is answered. -/
def execMgmtPageFaultAnswer (m : MgmtHead) (tenant context : BitVec 16) (vpage : BitVec 40) (mapped : Bool)
    (s : State) : Result :=
  request s m 0x07 (fun s => some (pagesAnswered s tenant context vpage mapped))

/-! ## Pre-emption (R437) -/

/-- MGMT_PREEMPT. -/
def execMgmtPreempt (m : MgmtHead) (queue : BitVec 6) (ordinal : Nat) (kind : PreemptKind) (s : State) : Result :=
  request s m 0x08 (fun s =>
    if (launchOf s queue ordinal).isNone then none
    else match kind with
    | .boundary => some (holdLaunch s queue ordinal .host)
    | .midItem => some (preemptMid s queue ordinal .host (fun _ => true))
    | .resume => some (resumeLaunch s queue ordinal))

/-! ## Page tables (R108 to R112, R122) -/

/-- A pointer entry to a table (R109). -/
def pointerTo (table : Nat) : Nat := 1 + table / 512 * 512

/-- The address of the entry of a virtual address at a level, with the tables above it made where they are missing; none
under a leaf or a malformed entry. -/
def leafWith (s : State) (va level : Nat) (table : Nat) : List Nat → Option (State × Nat)
  | [] => none
  | lv :: rest =>
    let (lo, n) := levelBits lv
    let at_ := table + 16 * ((va >>> lo) % 2 ^ n)
    if lv = level then some (s, at_)
    else
      let e := memNat s at_ 16
      match e % 4 with
      | 0 =>
        let new := (table >>> 44) % 2 * 2 ^ 44 + (Config.tablePlace s.draws).toNat * 8192
        let s := { clearMem s new (new + 8192) with draws := s.draws + 1 }
        leafWith (homeWrite s at_ (bytesOf 16 (pointerTo new))).1 va level new rest
      | 1 => if badPointer lv e then none else leafWith s va level (entryBits e 51 9 * 512) rest
      | _ => none

/-- The leaf that a virtual address has, whatever its mig bit, with its entry's level. -/
def leafAt (s : State) (tenant context : BitVec 16) (va : Nat) (table : Nat) : List Nat → Option (Leaf × Nat)
  | [] => none
  | level :: rest =>
    let (lo, n) := levelBits level
    let e := memNat s (table + 16 * ((va >>> lo) % 2 ^ n)) 16
    match e % 4 with
    | 1 => if badPointer level e then none else leafAt s tenant context va (entryBits e 51 9 * 512) rest
    | 2 => some (leafOf tenant context va e, level)
    | _ => none

/-- The leaves under a table, in the order of their entries. -/
def leavesUnder (s : State) (tenant context : BitVec 16) : List Nat → Nat → Nat → List Leaf
  | [], _, _ => []
  | level :: rest, va, table =>
    let (lo, n) := levelBits level
    let used := (((s.mem.filter (fun c => table ≤ c.1 && c.1 < table + 16 * 2 ^ n)).map (fun c => (c.1 - table) / 16)).eraseDups)
    used.flatMap (fun i =>
      let e := memNat s (table + 16 * i) 16
      match e % 4 with
      | 1 => if badPointer level e then [] else leavesUnder s tenant context rest (va + i * 2 ^ lo) (entryBits e 51 9 * 512)
      | 2 => [leafOf tenant context (va + i * 2 ^ lo) e]
      | _ => [])

/-- The leaves that an entry at a level stands for: itself, or all under the table to which it points. -/
def leavesOf (s : State) (tenant context : BitVec 16) (va level at_ : Nat) : List Leaf :=
  let e := memNat s at_ 16
  match e % 4 with
  | 1 =>
    if badPointer level e then []
    else leavesUnder s tenant context ([0, 1, 2, 3, 4].drop (level + 1)) (va / 2 ^ (levelBits level).1 * 2 ^ (levelBits level).1)
      (entryBits e 51 9 * 512)
  | 2 => [leafOf tenant context va e]
  | _ => []

/-- The lines that a walk of a virtual address reads from a table on. -/
def walkLines (s : State) (va table : Nat) : List Nat → List Nat
  | [] => []
  | level :: rest =>
    let (lo, n) := levelBits level
    let at_ := table + 16 * ((va >>> lo) % 2 ^ n)
    let e := memNat s at_ 16
    at_ / 128 :: (if e % 4 = 1 && !badPointer level e then walkLines s va (entryBits e 51 9 * 512) rest else [])

/-- The lines that firmware reads to find the entries of `n` bytes of a context. -/
def tableLines (s : State) (tenant context : BitVec 16) (va n : Nat) : List Nat :=
  match contextOf s tenant context with
  | some c => (List.range (pagesOf va n)).flatMap (fun i => walkLines s (va + i * 2 ^ 16) c.root [0, 1, 2, 3, 4])
  | none => []

/-- The places that an invalidation finds something in: those that hold items, those that keep a translation cache between
items, and those that items have left which are saved (R115, R122). -/
def itemSlots (s : State) : List SlotId :=
  (((allSlots s).filter keepsSlot).map (fun t => t.id) ++ s.saved.map (fun x => x.slot.id)).eraseDups

/-- An invalidation started; with no slot to reach it is over at once. -/
def startShootdown (s : State) (x : Shootdown) : State :=
  if x.unreached.isEmpty then shootdownEnd s x else { s with shootdowns := s.shootdowns ++ [x] }

/-- The level of a mapping request's entry: a leaf's own, or that of the leaf that it removes. -/
def requestLevel (e : Nat) (old : Option (Leaf × Nat)) : Option Nat :=
  match e % 4, old with
  | 2, _ => if entryBits e 3 2 = 3 then none else some (4 - entryBits e 3 2)
  | 0, some (_, level) => some level
  | _, _ => none

/-- The lines of the old pages dropped from every L1 (R122, step 3). -/
def dropL1 (s : State) (old : List Leaf) : State :=
  { s with l1 := s.l1.filter (fun y => !old.any (fun l => inLeafMemory l (128 * y.line))) }

/-- The answer to a request that has replaced leaves, after the shootdown of each (R122): each with its entry. -/
def replaceLeaves (s : State) (host : BitVec 18) (code : BitVec 8) (more : List Byte) (old : List (Leaf × Nat)) : State :=
  let s := old.foldl (fun s l => unloadClass s l.1) s
  let slots := itemSlots s
  if old.isEmpty ∨ slots.isEmpty then mgmtAnswer (dropL1 s (old.map (fun l => l.1))) host code 0 more
  else { s with
    shootdowns := s.shootdowns ++ old.map (fun l =>
      { old := l.1, unreached := slots, entry := l.2, host := host, code := code, more := more, job := nextJob s }) }

/-- A table entry written, and the shootdown of every mapping that may be live: of a leaf, or of all leaves of the table
that the entry pointed to (R122). The answer to the host comes at its end. -/
def mapPages (s : State) (host : BitVec 18) (tenant context : BitVec 16) (va e : Nat) : Option State :=
  (contextOf s tenant context).bind (fun c =>
    (requestLevel e (leafAt s tenant context va c.root [0, 1, 2, 3, 4])).bind (fun level =>
      (leafWith s va level c.root [0, 1, 2, 3, 4]).map (fun r =>
        let old := (leavesOf r.1 tenant context va level r.2).map (fun l => (l, r.2))
        replaceLeaves (homeWrite r.1 r.2 (bytesOf 16 e)).1 host 0x0D [] old)))

/-- A request whose answer comes later, or whose refusal comes now. -/
def laterDone (s : State) (m : MgmtHead) (code : BitVec 8) (done : Option State) : State :=
  match done with
  | some s' => s'
  | none => answered s m code none

/-- MGMT_MAP_PAGES (R112, R122). -/
def execMgmtMapPages (m : MgmtHead) (tenant context : BitVec 16) (va : BitVec 56) (entry : BitVec 128) (s : State) :
    Result :=
  requestRun s m 0x0D (fun s => tableLines s tenant context va.toNat 1)
    (fun s => laterDone s m 0x0D (mapPages s m.host tenant context va.toNat entry.toNat))

/-- The migration of a page begun: its leaf gets mig = 1, and the invalidation follows (R122). -/
def migrate (s : State) (host : BitVec 18) (tenant context : BitVec 16) (va pa : Nat) : Option State :=
  (contextOf s tenant context).bind (fun c =>
    (leafAt s tenant context va c.root [0, 1, 2, 3, 4]).bind (fun l =>
      (leafWith s va l.2 c.root [0, 1, 2, 3, 4]).bind (fun r =>
        let e := memNat r.1 r.2 16
        if pa % pageBytes l.1.size ≠ 0 ∨ !isMemory pa ∨ e.testBit 11 then none
        else
          let s := (homeWrite r.1 r.2 (bytesOf 16 (e + 2 ^ 11))).1
          some (startShootdown s
            { old := l.1, unreached := itemSlots s, entry := r.2, move := some pa, code := 0x0E, host, job := nextJob s }))))

/-- MGMT_MIGRATE (R122). -/
def execMgmtMigrate (m : MgmtHead) (tenant context : BitVec 16) (va : BitVec 56) (pa : BitVec 52) (s : State) : Result :=
  requestRun s m 0x0E (fun s => tableLines s tenant context va.toNat 1)
    (fun s => laterDone s m 0x0E (migrate s m.host tenant context va.toNat pa.toNat))

/-! ## Code objects (R463 to R467) -/

/-- The bytes of a virtual range of a context; none when a page of it is not mapped. -/
def contextRead (s : State) (tenant context : BitVec 16) (va n : Nat) : Option (List Byte) :=
  (pinPages s tenant context va (pagesOf va n) (fun _ => true)).map (fun ps => pinRead s ps va n)

/-- The feature words 1 to 5 of a core kind (R272). -/
def featTag (k : CoreKind) : List Word := [1, 2, 3, 4, 5].map (featWord k)

/-- The first variant that qualifies (R467). -/
def chooseVariant (o : Config.CodeObject) (kind : BitVec 8) : Option (List Byte) :=
  let k : CoreKind := if kind = 2 then .attention else .compute
  (o.variants.find? (fun v => v.kind = kind && (List.zipWith (fun a b => decide (a &&& ~~~b = 0)) v.tag (featTag k)).all id)).map
    (fun v => v.code)

/-- The tenant's translation of an LPF section, from the cache or new, with the cache afterwards (R466). -/
def translateFor (s : State) (tenant : BitVec 16) (kind : BitVec 8) (lpf : List Byte) :
    Except TranslateError (State × List Byte) :=
  let k : CoreKind := if kind = 2 then .attention else .compute
  let words := featTag k
  let digest := sha3 lpf
  let quota := match s.tenants.find? (fun t => t.id = tenant) with | some t => t.quota | none => 0
  match s.translator.find? (fun e => e.tenant = tenant && e.digest = digest && e.words = words) with
  | some e => .ok ({ s with translator := e :: s.translator.erase e }, e.code)
  | none =>
    (translate k lpf).map (fun code =>
      let mine := ((⟨tenant, digest, words, code⟩ : Translated) :: s.translator.filter (fun e => e.tenant = tenant)).take quota
      let others := s.translator.filter (fun e => e.tenant ≠ tenant)
      (if mine.length + others.length ≤ 4096 then { s with translator := mine ++ others } else s, code))

/-- Leaves with X alone over a range, 64 KiB each (R467, step 4), with the leaves that they replace and their entries. -/
def mapCode (s : State) (c : Context) (va pa : Nat) : Nat → Option (State × List (Leaf × Nat))
  | 0 => some (s, [])
  | n + 1 =>
    (leafWith s va 4 c.root [0, 1, 2, 3, 4]).bind (fun r =>
      let old := (leafAt s c.tenant c.context va c.root [0, 1, 2, 3, 4]).toList.map (fun l => (l.1, r.2))
      (mapCode (homeWrite r.1 r.2 (bytesOf 16 (2 + 8 * 2 ^ 4 + pa))).1 c (va + 2 ^ 16) (pa + 2 ^ 16) n).map (fun x =>
        (x.1, old ++ x.2)))

/-- The object of some bytes whose signature a tenant's enrolled keys verify (R463, R467, step 1). -/
def signedObject (s : State) (tenant : BitVec 16) (bytes : List Byte) : Option Config.CodeObject :=
  (parseObject bytes).filter (fun o =>
    let keys := match s.tenants.find? (fun t => t.id = tenant) with | some t => t.keys | none => []
    keys.contains o.keyHash && Config.mldsaVerify o.keyHash (sha3 (bytes.take o.signedLen)) o.signature)

/-- The code region of an object, chosen or translated (R467, steps 2 and 3). -/
def objectCode (s : State) (tenant : BitVec 16) (o : Config.CodeObject) (kind : BitVec 8) : Except TranslateError (State × List Byte) :=
  match chooseVariant o kind with
  | some code => .ok (s, code)
  | none => translateFor s tenant kind o.lpf

/-- Code written at its destination and mapped there (R467, steps 4 and 5): the answer gives codeva, codelen and the digest, after
the shootdown of any leaf that the code replaces. -/
def placeCode (s : State) (host : BitVec 18) (c : Context) (dest pa : Nat) (code : List Byte) : Option State :=
  (mapCode s c dest pa (pagesOf 0 code.length)).map (fun y =>
    replaceLeaves (homeWrite y.1 pa code).1 host 0x09 (bytesOf 8 dest ++ bytesOf 8 code.length ++ bytesOf 32 (sha3 code).toNat) y.2)

/-- An object loaded, or why not (R465, R467). -/
def loadObject (s : State) (m : MgmtHead) (tenant context : BitVec 16) (va dest len pa : Nat) (kind : BitVec 8) : State :=
  let object := (contextOf s tenant context).bind (fun c =>
    if dest % 2 ^ 16 ≠ 0 ∨ pa % 2 ^ 16 ≠ 0 ∨ !isMemory pa then none
    else (contextRead s tenant context va len).bind (fun bytes => (signedObject s tenant bytes).map (fun o => (c, o))))
  match object with
  | none => answered s m 0x09 none
  | some (c, o) =>
    match objectCode s tenant o kind with
    | .error e => mgmtAnswer s m.host 0x09 e.1 e.2
    | .ok x => laterDone s m 0x09 (placeCode x.1 m.host c dest pa x.2)

/-- The lines that firmware reads of a table and a range of a context. -/
def contextLines (s : State) (tenant context : BitVec 16) (va n : Nat) : List Nat :=
  tableLines s tenant context va n ++ (match pinPages s tenant context va (pagesOf va n) (fun _ => true) with
    | some ps => ps.flatMap (fun p => linesOf p.pa p.len)
    | none => [])

/-- MGMT_LOAD_OBJECT (R467). -/
def execMgmtLoadObject (m : MgmtHead) (tenant context : BitVec 16) (va dest : BitVec 56) (len : Nat) (pa : BitVec 52)
    (kind : BitVec 8) (s : State) : Result :=
  requestRun s m 0x09
    (fun s => contextLines s tenant context va.toNat len ++ tableLines s tenant context dest.toNat 1)
    (fun s => loadObject s m tenant context va.toNat dest.toNat len pa.toNat kind)

/-- The attestation report (R469). -/
def attestReport (s : State) (nonce : BitVec 256) (tenant : BitVec 16) : List Byte :=
  bytesOf 128 (tenant.toNat * 2 ^ 62 + s.devid.toNat * 2 ^ 78 + s.mgmt.version.toNat * 2 ^ 96
    + (word s.cycle).toNat * 2 ^ 128 + (featWord .compute 0).toNat * 2 ^ 192
    + Config.identityKeyDigest.toNat * 2 ^ 256 + s.mgmt.digest.toNat * 2 ^ 512 + nonce.toNat * 2 ^ 768)

/-- MGMT_ATTESTATION (R469). -/
def execMgmtAttestation (m : MgmtHead) (nonce : BitVec 256) (tenant : BitVec 16) (s : State) : Result :=
  request s m 0x0A some (fun s =>
    let r := attestReport s nonce tenant
    r ++ Config.mldsaSign (sha3 r))

/-! ## Settings (R458) -/

/-- MGMT_POWER_CAP (R472). -/
def execMgmtPowerCap (m : MgmtHead) (watts : Nat) (s : State) : Result :=
  request s m 0x0B (fun s =>
    if watts < 400 ∨ 1250 < watts then none else some { s with mgmt := { s.mgmt with cap := watts } })

/-- MGMT_QUERY_QUEUE (R165). -/
def execMgmtQueryQueue (m : MgmtHead) (die : Bool) (queue : BitVec 5) (tenant : BitVec 16) (capacity : Nat)
    (s : State) : Result :=
  let d : Fin 2 := if die then 1 else 0
  request s m 0x0F (fun s =>
    some (putQueue s d queue { queueAt s.kv[d] queue with tenant := tenant, capacity := capacity }))

/-- MGMT_LINK_PARAMETERS (R450, R451, R454, R461). -/
def execMgmtLinkParameters (m : MgmtHead) (port : PortId) (backoff : BitVec 16) (retransmit : Nat)
    (vlan : Option (BitVec 12)) (s : State) : Result :=
  request s m 0x10 (fun s =>
    if backoff = 0 then none
    else match port with
    | .ethernet =>
      if retransmit < 100 ∨ 1000000 < retransmit then none
      else some { s with port := { s.port with backoff := backoff, retransmit := retransmit, vlan := vlan } }
    | .chain n =>
      let l := s.chains[n.toNat]
      some { s with chains := s.chains.set n.toNat { l with backoff := backoff, retransmit := retransmit } }
    | .ucie n =>
      (s.ucie[n.toNat]?).map (fun l => { s with ucie := s.ucie.setIfInBounds n.toNat { l with backoff := backoff } }))

/-- MGMT_PIN_PARTITION (R62). -/
def execMgmtPinPartition (m : MgmtHead) (ways : Nat) (s : State) : Result :=
  request s m 0x11 (fun s =>
    if beforeLaunch s && (ways = 0 || ways = 4 || ways = 8) then some { s with pinWays := ways } else none)

/-- MGMT_SPILL_GRANT (R163). -/
def execMgmtSpillGrant (m : MgmtHead) (grant : Option (Word × Nat)) (s : State) : Result :=
  request s m 0x12 (fun s => some { s with mgmt := { s.mgmt with spill := grant } })

/-- MGMT_SIGNING_KEYS (R466, R467). -/
def execMgmtSigningKeys (m : MgmtHead) (tenant : BitVec 16) (keyHash : BitVec 256) (enrol : Bool) (quota : Nat)
    (s : State) : Result :=
  request s m 0x13 (fun s =>
    if (s.tenants.find? (fun t => t.id = tenant)).isNone then none
    else
      let keep (t : Tenant) : List (BitVec 256) := t.keys.filter (fun k => k ≠ keyHash)
      let change (t : Tenant) : Tenant :=
        if t.id = tenant then { t with keys := if enrol then keep t ++ [keyHash] else keep t, quota := quota } else t
      some { s with tenants := s.tenants.map change })

/-! ## The derailleur (R68, R69) -/

def dieFin (die : Bool) : Fin 2 := if die then 1 else 0

/-- An indirection-table entry (R67): state, target, slice. -/
def tableWord (state : BitVec 2) (target slice : BitVec 6) : BitVec 16 := state ++ target ++ 0#2 ++ slice

def moveKey (die : Bool) (m : Move) : Nat := 4096 * die.toNat + m.bucket.toNat

/-- The preconditions of a move (R68, step 1; R69). -/
def moveAllowed (s : State) (die : Bool) (bucket : BitVec 12) (target : BitVec 6) : Bool :=
  let e := tableEntry s (4096 * die.toNat + bucket.toNat)
  let last := s.lastMove[dieFin die]
  (e.extractLsb' 14 2 = 0 || e.extractLsb' 14 2 = 3) && e.extractLsb' 0 6 ≠ target && reservedCount s die bucket = 0
    && (s.moves[dieFin die]).isNone && (match last with | some c => decide (c + 16000 ≤ s.cycle) | none => true)

/-- DERAILLEUR_MOVE_START (R68, steps 1 and 2). -/
def execDerailleurMoveStart (die : Bool) (bucket : BitVec 12) (target : BitVec 6) (s : State) : Result :=
  event s (
    if !moveAllowed s die bucket target then s
    else
      let m : Move := { bucket, target }
      let slice := (tableEntry s (moveKey die m)).extractLsb' 0 6
      let s := setTable s (moveKey die m) (tableWord 1 target slice)
      { s with moves := s.moves.set (dieFin die) (some m), lastMove := s.lastMove.set (dieFin die) (some s.cycle) })

/-- Whether a request that a source had sent for a bucket before its move began is not performed yet (R68, step 3). The
accesses of cores and engines are performed in the cc in which they are sent. -/
def bucketBusy (s : State) (key : Nat) : Bool :=
  s.requests.any (fun r => bucketKey r.addr = key && sentBefore s (r.addr / 128) r.sent)
    || s.barriers.any (fun u => bucketKey u.addr = key && sentBefore s (u.addr / 128) u.sent)

/-- DERAILLEUR_HOLD (R68, step 3): the sources acknowledge. Steps 4 to 6 follow before any source sends again. -/
def execDerailleurHold (die : Bool) (s : State) : Result :=
  event s (match s.moves[dieFin die] with
    | none => s
    | some m =>
      if m.held || bucketBusy s (moveKey die m) then s
      else { s with
        moves := s.moves.set (dieFin die) (some { m with held := true })
        agenda := [.derailleurFlush die, .derailleurRelease die] ++ s.agenda })

/-- DERAILLEUR_FLUSH (R68, steps 4 and 5): slice A gives up every line of the bucket; the counter goes to B. -/
def execDerailleurFlush (die : Bool) (s : State) : Result :=
  event s (match s.moves[dieFin die] with
    | none => s
    | some m =>
      if !m.held || m.flushing then s
      else
        let key := moveKey die m
        let slice := (tableEntry s key).extractLsb' 0 6
        let s := ((s.lines.map (fun p => p.1)).filter (fun n => bucketKey (128 * n) = key)).foldl evictLine s
        let s := setTable s key (tableWord 2 m.target slice)
        { s with moves := s.moves.set (dieFin die) (some { m with flushing := true }) })

/-- DERAILLEUR_RELEASE (R68, step 6). -/
def execDerailleurRelease (die : Bool) (s : State) : Result :=
  event s (match s.moves[dieFin die] with
    | none => s
    | some m =>
      if !m.flushing then s
      else
        let s := setTable s (moveKey die m) (tableWord 0 0 m.target)
        { s with moves := s.moves.set (dieFin die) none })

end Sys2Proof.Machine
end

