-- ==== Sys2Proof/Machine/Power.lean ====
section
/-! DEFINITION. UCIe links, power, bring-up, temperature (R4, R459, R460, R468, R470 to R472). -/

namespace Sys2Proof.Machine

/-! ## UCIe links (R459, R460) -/

/-- Whether a flit's length and CRC are right (R459). -/
def flitOk (bs : List Byte) : Bool :=
  bs.length = 256 && (crc64 (bs.take 248)).toNat = leNat (bs.drop 248)

/-- The flits of a link that an acknowledgement of a number leaves in its replay buffer. -/
def replayAfter (l : UcieState) (ack : BitVec 16) : List (List Byte) :=
  let oldest := l.next - BitVec.ofNat 16 l.replay.length
  let freed := (ack + 1 - oldest).toNat
  if freed ≤ l.replay.length then l.replay.drop freed else l.replay

/-- A byte of a flit as a number. -/
def flitByte (bs : List Byte) (i : Nat) : Nat := (bs.getD i 0).toNat

/-- The flit in order at a link (R459, R460): it is accepted, its acknowledgement frees replay entries, and its credits come
back. -/
def takeFlit (l : UcieState) (bs : List Byte) : UcieState :=
  let left := replayAfter l (BitVec.ofNat 16 (leNat ((bs.drop 2).take 2)))
  { l with
    expected := l.expected + 1, replay := left, resends := if left.length = l.replay.length then l.resends else 0
    credits := l.credits.mapIdx (fun i n => n + flitByte bs (5 + i)) }

/-- A NAK that names a number (R460): the sender sends again from there out of its replay buffer; a flit sent again for the
16th time in succession makes the link retrain. -/
def resendFlits (l : UcieState) (n : BitVec 16) : UcieState :=
  let left := replayAfter l (n - 1)
  let again := if left.length = l.replay.length then l.resends + 1 else 1
  if left.isEmpty then { l with replay := left, resends := 0 }
  else if 16 ≤ again then { l with replay := left, resends := again, training := true }
  else { l with replay := left, resends := again, wire := left.reverse ++ l.wire }

/-- FLIT_RECEIVE (R460): the flit in order is taken; any other, and a damaged one, is dropped with a NAK that names the expected
number. -/
def execFlitReceive (link : UcieLink) (u : LinkUnit) (s : State) : Result :=
  event s (
    let n := linkNum link
    let l := s.ucie[n]
    if l.training then s
    else
      let l := match u with
        | .nak k => resendFlits l k
        | .flit bs =>
          if flitOk bs && BitVec.ofNat 16 (leNat (bs.take 2)) = l.expected then takeFlit l bs
          else { l with naks := l.expected :: l.naks }
      { s with ucie := s.ucie.set n l })

/-- The package has failed (R460): every launch ends with a context-lost report, and no new one is taken. -/
def packageFails (s : State) : State :=
  let all := s.queues.flatMap (fun p => p.2.launches.map (fun l => ((BitVec.ofNat 6 p.1 : BitVec 6), l)))
  let s := all.foldl (fun s x =>
    let it : Item := { queue := x.1, ordinal := x.2.ordinal, index := 0, wid := 0, rank := 0, size := 0, dispatched := 0 }
    let r := x.2.record
    let t : Slot := { id := ⟨0, false⟩, item := some it, tenant := recTenant r, context := recContext r }
    endLaunch s x.1 x.2.ordinal (recTenant r) (recContext r)
      (report s t { slot := t.id, source := 5, coff := 0 } { code := 0x30 })) s
  { s with mgmt := { s.mgmt with failed := true } }

/-- The retraining of a UCIe link ends (R460): traffic resumes from the oldest flit that is not acknowledged; after three failures
in succession the package has failed. -/
def ucieRetrains (s : State) (link : UcieLink) (succeeds : Bool) : State :=
  let n := linkNum link
  let l := s.ucie[n]
  if succeeds then
    let again := if l.training then l.replay.reverse else []
    { s with ucie := s.ucie.set n { l with training := false, resends := 0, retrainFails := 0, wire := again ++ l.wire } }
  else
    let s := { s with ucie := s.ucie.set n { l with training := true, retrainFails := l.retrainFails + 1 } }
    if 3 ≤ l.retrainFails + 1 then packageFails s else s

/-- LINK_RETRAIN (R455, R460, R462). A chain link that is down goes on retraining until it succeeds. -/
def execLinkRetrain (link : RetrainedLink) (succeeds : Bool) (s : State) : Result :=
  event s (match link with
    | .ucie l => ucieRetrains s l succeeds
    | .chain dev n => if succeeds then chainUp s dev n else s)

/-! ## Power (R4, R468, R470, R471) -/

/-- The package without power: nothing keeps its contents. What the outside does next goes on. -/
def powerOff (s : State) : State :=
  { State.reset with agenda := s.agenda, draws := s.draws, mgmt := { State.reset.mgmt with powered := false } }

/-- The package as power becomes good (R470): everything is zero, no link or port is trained, no host is registered, and no
unit is up. -/
def powerGood (s : State) : State :=
  { State.reset with
    agenda := s.agenda, draws := s.draws
    port := { State.reset.port with up := false }
    chains := State.reset.chains.map (fun l => { l with up := false })
    ucie := State.reset.ucie.map (fun l => { l with training := true })
    mgmt := { State.reset.mgmt with intakeOpen := false, hosts := [], boot := { stage := 0 } } }

/-- The stage in which the boot handshake waits for an image. -/
abbrev handshakeStage : Nat := 24

/-- What the bring-up of unit `n` does (R470): clocks (1), the UCIe links (2 to 6), the LPDDR-5X interfaces (7 to 22), the Ethernet
port (23), the chain links (24), the handshake (25), the waves of compute (26 to 41) and attention cores (42 to 45), firmware's
zeroing (46), PSEED and DEVID (47), the launch intake (48). -/
def bootUnit (s : State) (n : Nat) : State :=
  if 2 ≤ n ∧ n ≤ 6 then { s with ucie := s.ucie.mapIdx (fun i l => if i + 2 = n then { l with training := false } else l) }
  else if n = 23 then { s with port := { s.port with up := true } }
  else if n = 24 then { s with chains := s.chains.map (fun l => { l with up := true }) }
  else if n = 46 then { s with mem := [], poison := [] }
  else if n = 47 then { s with
    pseed := (Config.entropy s.draws).extractLsb' 0 64, draws := s.draws + 1, devid := s.mgmt.boot.dev }
  else if n = 48 then { s with mgmt := { s.mgmt with intakeOpen := true } }
  else s

/-- The cc from a unit to the next (R470): 20 µs after the clocks, 2 µs between waves of cores. DESIGN CHOICE (log 108): one cc
where the spec gives no time. -/
def bootPause (n : Nat) : Nat := if n = 1 then 32000 else if 26 ≤ n ∧ n ≤ 45 then 3200 else 1

/-- Unit `n` up. -/
def bootTo (s : State) (n : Nat) : State :=
  let s := bootUnit s n
  { s with mgmt := { s.mgmt with boot := { s.mgmt.boot with stage := n, due := s.cycle + bootPause n } } }

/-- Whether the next unit comes up now; the handshake comes from outside. -/
def bootDue (s : State) : Bool :=
  s.mgmt.boot.stage < 48 && s.mgmt.boot.stage ≠ handshakeStage && decide (s.mgmt.boot.due ≤ s.cycle)

/-- POWER_UP (R470): power becomes good (unit 0), and then units come up one after another. -/
def execPowerUp (unit : Nat) (s : State) : Result :=
  .next (
    if !s.mgmt.powered then (if unit = 0 then powerGood s else s)
    else if bootDue s && unit = s.mgmt.boot.stage + 1 then bootTo s unit else s)

/-- POWER_REMOVAL (R4). -/
def execPowerRemoval (s : State) : Result := event s (powerOff s)

/-- MGMT_PACKAGE_RESET (R471): firmware answers, and power is removed and restored. What the port has sent stays sent. -/
def execMgmtPackageReset (m : MgmtHead) (s : State) : Result :=
  requestRun s m 0x0C (fun _ => []) (fun s =>
    let a := mgmtAnswer s m.host 0x0C 0
    let b := powerGood a
    { b with port := { b.port with wire := a.port.wire } })

/-- BOOT_HANDSHAKE (R468, R470): the first host that answers the boot ROM over the Ethernet port is registered as host 0, with the
further hosts that it lists. Its image runs when its signature verifies and it is new enough; any other is refused, and
the boot ROM asks again. -/
def execBootHandshake (reply : HostReply) (version : BitVec 32) (image signature : List Byte) (s : State) : Result :=
  event s (
    if !s.port.up || s.mgmt.boot.stage ≠ handshakeStage then s
    else
      let listed := if s.mgmt.hosts.isEmpty then 0 :: reply.hosts.filter (fun h => h ≠ 0) else s.mgmt.hosts
      let digest := sha3 image
      if Config.mldsaVerify Config.ocoatuKeyHash digest signature && Config.minFirmware ≤ version then
        bootTo { s with mgmt := { s.mgmt with
          hosts := listed, version := version, digest := digest, boot := { s.mgmt.boot with dev := reply.dev } } } 25
      else { s with mgmt := { s.mgmt with hosts := listed } })

/-! ## Temperature and the power cap (R472) -/

/-- Whether a die's walker claims no new unit. -/
def setWithheld (s : State) (die : BitVec 2) (stop : Bool) : State :=
  { s with mgmt := { s.mgmt with withheld := s.mgmt.withheld.set die.toNat stop } }

/-- THERMAL_WITHHOLD. -/
def execThermalWithhold (die : BitVec 2) (celsius : Nat) (s : State) : Result :=
  event s (if 100 ≤ celsius then setWithheld s die true else if celsius < 95 then setWithheld s die false else s)

/-- THERMAL_PREEMPT. -/
def execThermalPreempt (die : BitVec 2) (celsius : Nat) (s : State) : Result :=
  event s (
    if celsius < 110 then s
    else
      let s := setWithheld s die true
      let on (c : SlotId) : Bool := dieOf c.core = die.toNat
      let all := s.queues.flatMap (fun p => p.2.launches.map (fun l => ((BitVec.ofNat 6 p.1 : BitVec 6), l.ordinal)))
      (all.filter (fun x => (launchSlots s x.1 x.2).any on)).foldl (fun s x => preemptMid s x.1 x.2 (.thermal die) on) s)

/-- THERMAL_TRIP. -/
def execThermalTrip (celsius : Nat) (s : State) : Result := event s (if 120 ≤ celsius then powerOff s else s)

/-- POWER_CAP_CHECK: after an interval above the cap, dispatch is withheld for 1 ms, 1,600,000 cc. -/
def execPowerCapCheck (watts : Nat) (s : State) : Result :=
  event s (if s.mgmt.cap < watts then { s with mgmt := { s.mgmt with capUntil := s.cycle + 1600000 } } else s)

end Sys2Proof.Machine
end

