-- ==== Sys2Proof/Machine/Vector.lean ====
section
/-! DEFINITION. Vector arithmetic, conversion, comparison and selection (R313, R318 to R330). -/

namespace Sys2Proof.Machine

/-- What a vector instruction does with its fields beside d and a. -/
structure VecForm where
  useA : Bool := true
  useB : Bool := false
  useC : Bool := false
  /-- Field b is a general register (.G). -/
  scalarB : Bool := false
  /-- d is read before it is written. -/
  readD : Bool := false
  /-- The width that the type requires (R317). -/
  width : Option Nat := none
  single : Bool := false
  /-- .Z: inactive elements become 0. -/
  zero : Bool := false
  /-- Marked L (R241): it holds the control stream, or fe.d defers the destination. -/
  long : Bool := false
  /-- The latency for one register (R320). -/
  latency : Nat := 2
  /-- At most this many elements are computed. -/
  limit : Option Nat := none
  /-- A row, column or element index is in range (R317). -/
  indexOk : Bool := true
  deriving DecidableEq, Repr

/-- The sources of a vector instruction: the groups of a, b, c and d, and the register of .G. -/
structure VecSrc where
  a : Nat
  b : Nat
  c : Nat
  d : Nat
  g : Word
  deriving DecidableEq, Repr

/-- The common course of a vector instruction (R316, R317, R319): sources, group fault, shape fault, then every active
element computed by `f` from its index. -/
def vectorOp (o : Opnd) (s : State) (v : VecForm) (f : VecSrc → Nat → Nat × BitVec 6) : Result :=
  issue s o do
    let t := s.cur
    let w := vWidth t
    let act := if v.single then activeSingle t o.k else activeCount t o.k
    let size := if v.single then 1 else groupSize act (vCount t)
    let a ← if v.useA then srcGroup t o.a size o.feA else .ok 0
    let g ← if v.scalarB then srcG t o.b o.feB else .ok 0
    let b ← if v.useB then srcGroup t o.b size o.feB else .ok 0
    let c ← if v.useC then srcGroup t o.c size o.feC else .ok 0
    let d ← if v.readD then srcGroup t o.d size o.feD else .ok 0
    needGroup ([o.d] ++ (if v.useA then [o.a] else []) ++ (if v.useB then [o.b] else [])
      ++ (if v.useC then [o.c] else [])) size
    need (v.width.getD w = w && v.indexOk) 0x0F
    dstGroup t o.d size
    let src : VecSrc := { a := a, b := b, c := c, d := d, g := g }
    let rs := (List.range (min act (v.limit.getD act))).map (f src)
    let vs := mergeGroup t o.d size w v.zero (rs.map (fun r => r.1))
    let fl := rs.foldl (fun fl r => fl ||| r.2) 0
    let latency := v.latency + 2 * (size - 1)
    return if v.long then finishL s o [] vs fl o.feD latency else finishV s o vs fl latency

/-- The element of b, or the low bits of g(b) under .G (R322). -/
def secondOf (v : VecForm) (w : Nat) (x : VecSrc) (j : Nat) : Nat :=
  if v.scalarB then x.g.toNat % 2 ^ w else elemOf w x.b j

/-- The binary forms of R321: fn bits 1:0 the type, bit 2 .Z, bit 3 .G. -/
def binaryForm (o : Opnd) (width : Option Nat) (long : Bool := false) (latency : Nat := 2) :
    VecForm :=
  { useB := !o.fn.getLsbD 3, scalarB := o.fn.getLsbD 3, zero := o.fn.getLsbD 2, width := width, long := long
    latency := latency }

/-- A binary floating operation on elements (R322). -/
def vecFloat (o : Opnd) (s : State) (long : Bool) (op : BitVec 6 → NumVal → NumVal → NumVal × BitVec 6) : Result :=
  let f := floatFmt (o.fn.toNat % 4)
  let v := binaryForm o (some f.w) long (if long then 20 else 4)
  let w := vWidth s.cur
  let m := s.cur.mode
  vectorOp o s v (fun x j =>
    let r := op m (readNum f m (elemOf w x.a j)) (readNum f m (secondOf v w x j))
    let c := roundNum f m r.1
    (c.1, r.2 ||| c.2))

def execVadd (o : Opnd) (s : State) : Result := vecFloat o s false addNum

def execVsub (o : Opnd) (s : State) : Result := vecFloat o s false (fun m x y => addNum m x (negNum y))

def execVmul (o : Opnd) (s : State) : Result := vecFloat o s false (fun _ x y => mulNum x y)

def execVdiv (o : Opnd) (s : State) : Result := vecFloat o s true (fun _ x y => divNum x y)

/-- VFMA (R321): type in fn bits 1:0, bit 2 .Z, bit 3 .NP, bit 4 .NC. -/
def execVfma (o : Opnd) (s : State) : Result :=
  let f := floatFmt (o.fn.toNat % 4)
  let w := vWidth s.cur
  let m := s.cur.mode
  vectorOp o s { useB := true, useC := true, zero := o.fn.getLsbD 2, width := some f.w, latency := 4 } (fun x j =>
    let r := fusedNum m (o.fn.getLsbD 3) (o.fn.getLsbD 4) (readNum f m (elemOf w x.a j)) (readNum f m (elemOf w x.b j))
      (readNum f m (elemOf w x.c j))
    let c := roundNum f m r.1
    (c.1, r.2 ||| c.2))

/-- VMIN and VMAX (R322): floating without flags, or signed integers. -/
def vecMinMax (o : Opnd) (s : State) (isMax : Bool) : Result :=
  let typ := o.fn.toNat % 4
  let f := floatFmt typ
  let v := binaryForm o (if typ = 3 then none else some f.w)
  let w := vWidth s.cur
  vectorOp o s v (fun x j =>
    let p := elemOf w x.a j
    let q := secondOf v w x j
    if typ = 3 then
      (if decide (readInt true w q < readInt true w p) = isMax then p else q, 0)
    else ((minMaxNum f s.cur.mode isMax p q).1, 0))

def execVmin (o : Opnd) (s : State) : Result := vecMinMax o s false

def execVmax (o : Opnd) (s : State) : Result := vecMinMax o s true

/-- VIADD and VISUB (R322): wrapping, .S or .US. -/
def vecInt (o : Opnd) (s : State) (op : Int → Int → Int) : Result :=
  let typ := o.fn.toNat % 4
  let v := binaryForm o none
  let w := vWidth s.cur
  vectorOp o s v (fun x j =>
    let sg := typ ≠ 2
    let r := op (readInt sg w (elemOf w x.a j)) (readInt sg w (secondOf v w x j))
    if typ = 0 then (toBits w r, 0) else let y := satInt sg w r; (toBits w y.1, y.2))

def execViadd (o : Opnd) (s : State) : Result := vecInt o s (fun x y => x + y)

def execVisub (o : Opnd) (s : State) : Result := vecInt o s (fun x y => x - y)

/-- Bitwise forms (R323): lvl bit 0 .G, bit 1 .Z. -/
def vecBits (o : Opnd) (s : State) (op : Nat → Nat → Nat) : Result :=
  let v : VecForm := { useB := !o.lvl.getLsbD 0, scalarB := o.lvl.getLsbD 0, zero := o.lvl.getLsbD 1 }
  let w := vWidth s.cur
  vectorOp o s v (fun x j => (op (elemOf w x.a j) (secondOf v w x j), 0))

def execVand (o : Opnd) (s : State) : Result := vecBits o s (fun x y => x &&& y)

def execVor (o : Opnd) (s : State) : Result := vecBits o s (fun x y => x ||| y)

def execVxor (o : Opnd) (s : State) : Result := vecBits o s (fun x y => x ^^^ y)

/-- VSHL (R323): the amount is b modulo w. -/
def execVshl (o : Opnd) (s : State) : Result :=
  let v := binaryForm o none
  let w := vWidth s.cur
  vectorOp o s v (fun x j => ((elemOf w x.a j <<< (secondOf v w x j % w)) % 2 ^ w, 0))

/-- VSHR (R323): logical, or arithmetic under .A. -/
def execVshr (o : Opnd) (s : State) : Result :=
  let v := binaryForm o none
  let w := vWidth s.cur
  vectorOp o s v (fun x j =>
    let n := secondOf v w x j % w
    if o.fn.getLsbD 0 then (toBits w (readInt true w (elemOf w x.a j) / (2 ^ n : Nat)), 0)
    else (elemOf w x.a j >>> n, 0))

/-- VABS and VNEG (R324): lvl 0 to 2 floating, 3 .I, 4 .IS. -/
def vecSign (o : Opnd) (s : State) (neg : Bool) : Result :=
  let typ := o.lvl.toNat
  let f := floatFmt typ
  let w := vWidth s.cur
  vectorOp o s { width := if typ < 3 then some f.w else none } (fun x j =>
    let c := elemOf w x.a j
    if typ < 3 then
      if isNaN (decodeNum f c) then (canonNaN f, 0)
      else (if neg then c ^^^ 2 ^ (w - 1) else c % 2 ^ (w - 1), 0)
    else
      let i := readInt true w c
      let r := if neg then -i else (i.natAbs : Int)
      if typ = 4 then let y := satInt true w r; (toBits w y.1, y.2) else (toBits w r, 0))

def execVabs (o : Opnd) (s : State) : Result := vecSign o s false

def execVneg (o : Opnd) (s : State) : Result := vecSign o s true

/-- The special functions (R105, R325): type in lvl. -/
def vecFunction (o : Opnd) (s : State) (latency : Nat) (op : NumVal → NumVal × BitVec 6) : Result :=
  let f := floatFmt o.lvl.toNat
  let w := vWidth s.cur
  let m := s.cur.mode
  vectorOp o s { width := some f.w, long := true, latency := latency } (fun x j =>
    let r := op (readNum f m (elemOf w x.a j))
    let c := roundNum f m r.1
    (c.1, r.2 ||| c.2))

def execVsqrt (o : Opnd) (s : State) : Result := vecFunction o s 20 sqrtNum

def execVrsqrt (o : Opnd) (s : State) : Result := vecFunction o s 12 rsqrtNum

def execVrcp (o : Opnd) (s : State) : Result := vecFunction o s 12 rcpNum

def execVexp2 (o : Opnd) (s : State) : Result := vecFunction o s 16 exp2Num

def execVlog2 (o : Opnd) (s : State) : Result := vecFunction o s 16 log2Num

/-- A VCVT type (R326) with its element width in the register; `nf` is the NFMT value of a .NF type. -/
def vcvtType (code : Nat) (nf : BitVec 20) : ElemFmt × Nat :=
  match code with
  | 0 => (.num fmt32, 32)
  | 1 => (.num fmt16, 16)
  | 2 => (.num fmtB16, 16)
  | 3 => (.int true 8, 8)
  | 4 => (.int true 16, 16)
  | 5 => (.int true 32, 32)
  | 6 => (.int true 64, 64)
  | _ =>
    let f := narrowFmt nf
    (.num f, if f.w = 2 then 2 else if f.w = 4 then 4 else 8)

/-- VCVT (R326, R327): counted at the source width, without regard to VSHAPE. -/
def execVcvt (o : Opnd) (s : State) : Result :=
  issue s o do
    let t := s.cur
    let narrow := o.fn.toNat = 7 || o.c.toNat = 7
    let g ← if narrow then srcG t o.b o.feB else .ok 0
    let nf : BitVec 20 := g.extractLsb' 0 20
    let (ft, ws) := vcvtType o.c.toNat nf
    let (gt, wd) := vcvtType o.fn.toNat nf
    let act := predAt t o.k ws
    let ss := max 1 ((act * ws + 4095) / 4096)
    let ds := max 1 ((act * wd + 4095) / 4096)
    let a ← srcGroup t o.a ss o.feA
    needGroup [o.a] ss
    needGroup [o.d] ds
    need (ss ≤ 6 && ds ≤ 6) 0x0E
    dstGroup t o.d ds
    let rs := (List.range act).map (fun j => convertElem ft gt t.mode (o.lvl = 1) (elemOf ws a j))
    return finishV s o (mergeGroup t o.d ds wd false (rs.map (fun r => r.1)))
      (rs.foldl (fun fl r => fl ||| r.2) 0) (4 + 2 * (max ss ds - 1))

/-- A comparison of elements (R328). -/
def vecCompare (w typ cnd : Nat) (mode : BitVec 6) (p q : Nat) : Bool :=
  if typ = 3 then
    let x := readInt (decide (cnd < 4)) w p
    let y := readInt (decide (cnd < 4)) w q
    match cnd with
    | 0 => x = y
    | 1 => x ≠ y
    | 2 => x < y
    | 3 => x ≤ y
    | 4 => x < y
    | _ => x ≤ y
  else
    let f := floatFmt typ
    let x := readNum f mode p
    let y := readNum f mode q
    match cnd with
    | 0 => numCond 0 x y
    | 1 => !numCond 0 x y
    | 2 => numCond 1 x y
    | 3 => numCond 2 x y
    | _ => numCond 3 x y

/-- VCMP (R328): type in fn bits 1:0, condition in bits 4:2, lvl 1 .G. -/
def execVcmp (o : Opnd) (s : State) : Result :=
  let typ := o.fn.toNat % 4
  let v : VecForm :=
    { useB := !o.lvl.getLsbD 0, scalarB := o.lvl.getLsbD 0, width := if typ = 3 then none else some (floatFmt typ).w }
  let w := vWidth s.cur
  vectorOp o s v (fun x j =>
    (if vecCompare w typ (o.fn.toNat / 4) s.cur.mode (elemOf w x.a j) (secondOf v w x j) then 2 ^ w - 1 else 0, 0))

/-- VSEL (R329). -/
def execVsel (o : Opnd) (s : State) : Result :=
  let w := vWidth s.cur
  vectorOp o s { useB := true, useC := true, zero := o.fn.getLsbD 0 } (fun x j =>
    (if elemOf w x.c j ≠ 0 then elemOf w x.a j else elemOf w x.b j, 0))

/-- VDOT4 (R330): fn bit 0 .UA, bit 1 .UB, bit 2 .H. -/
def execVdot4 (o : Opnd) (s : State) : Result :=
  let wide := o.fn.getLsbD 2
  let w := if wide then 64 else 32
  let p := if wide then 16 else 8
  vectorOp o s { useB := true, readD := true, width := some w, latency := 4 } (fun x j =>
    let a := elemOf w x.a j
    let b := elemOf w x.b j
    let sum := (List.range 4).foldl (fun (n : Int) i =>
      n + readInt (!o.fn.getLsbD 0) p (a >>> (p * i)) * readInt (!o.fn.getLsbD 1) p (b >>> (p * i)))
      (readInt true w (elemOf w x.d j))
    let r := satInt true w sum
    (toBits w r.1, r.2))

/-! ## Shape and predicates -/

/-- VSHAPE (R313). -/
def execVshape (o : Opnd) (s : State) : Result :=
  issue s o (.ok (advance (onCur s (fun t =>
    { t with rows := o.imm16.extractLsb' 0 6, wcode := o.imm16.extractLsb' 8 2 })) o))

/-- VSHAPE.RD (R313). -/
def execVshapeRd (o : Opnd) (s : State) : Result :=
  issue s o do
    dstG s.cur o.d
    return finishG s o o.d (word (s.cur.rows.toNat + s.cur.wcode.toNat * 2 ^ 8))

/-- A predicate written (R314, R318): the count limited to 0 to 6N; k0 discards it. -/
def writeK (t : Slot) (k : BitVec 6) (x : Int) : Slot :=
  let n := (min (max x 0) (6 * vCount t)).toNat
  if k = 0 then t else { t with k := t.k.setIfInBounds k.toNat (t.wcode ++ 0#2 ++ BitVec.ofNat 12 n) }

/-- A(kn) of a predicate field (R318). -/
def countK (t : Slot) (k : BitVec 6) : Int := activeCount t (k.setWidth 3)

/-- KSET (R318). -/
def execKset (o : Opnd) (s : State) : Result :=
  issue s o do
    let x ← srcG s.cur o.a o.feA
    return advance (onCur s (fun t => writeK t o.d (x.toInt + dispOf o))) o

/-- KADD (R318). -/
def execKadd (o : Opnd) (s : State) : Result :=
  issue s o do
    let x ← srcG s.cur o.b o.feB
    return advance (onCur s (fun t => writeK t o.d (countK t o.a + x.toInt + dispOf o))) o

/-- KMIN (R318). -/
def execKmin (o : Opnd) (s : State) : Result :=
  issue s o (.ok (advance (onCur s (fun t => writeK t o.d (min (countK t o.a) (countK t o.b)))) o))

end Sys2Proof.Machine
end

