-- ==== Sys2Proof/Machine/VectorMove.lean ====
section
/-! DEFINITION. Reductions, scans, moves, random numbers and trits (R331 to R337). -/

namespace Sys2Proof.Machine

/-! ## Reductions -/

/-- A one-element tree or the first element of a scan, as a result (R102). -/
def leafResult (f : NumFmt) (mode : BitVec 6) (c : Nat) : Nat × BitVec 6 := roundNum f mode (readNum f mode c)

/-- The operation of a floating kind (R331): 0 FADD, 1 FMIN, 2 FMAX. -/
def redFloat (kind : Nat) (f : NumFmt) (mode : BitVec 6) (a b : Nat) : Nat × BitVec 6 :=
  if kind = 0 then
    let r := addNum mode (readNum f mode a) (readNum f mode b)
    let c := roundNum f mode r.1
    (c.1, r.2 ||| c.2)
  else minMaxNum f mode (kind = 2) a b

/-- The identity of a kind (R332). -/
def redIdentity (kind w : Nat) (f : NumFmt) : Nat :=
  match kind with
  | 0 => 0
  | 1 => canonNaN f
  | 2 => canonNaN f
  | 3 => 0
  | 4 => 0
  | 5 => 2 ^ (w - 1) - 1
  | _ => 2 ^ (w - 1)

/-- The exact integer fold of a kind, narrowed once (R332). -/
def redInt (kind w : Nat) (xs : List Nat) : Nat × BitVec 6 :=
  let vs := xs.map (readInt true w)
  match kind with
  | 3 => (toBits w (vs.foldl (fun a b => a + b) 0), 0)
  | 4 => let r := satInt true w (vs.foldl (fun a b => a + b) 0); (toBits w r.1, r.2)
  | 5 => (toBits w (vs.foldl min (intMax true w)), 0)
  | _ => (toBits w (vs.foldl max (intMin true w)), 0)

/-- One reduction (R102, R332). -/
def reduceOne (kind w : Nat) (f : NumFmt) (mode : BitVec 6) (xs : List Nat) : Nat × BitVec 6 :=
  match xs with
  | [] => (redIdentity kind w f, 0)
  | _ => if kind ≤ 2 then treeFold (redFloat kind f mode) (leafResult f mode) xs.length xs else redInt kind w xs

/-- The inclusive left fold (R102, R332): every prefix. -/
def scanOne (kind w : Nat) (f : NumFmt) (mode : BitVec 6) (xs : List Nat) : List (Nat × BitVec 6) :=
  if kind ≤ 2 then
    (xs.foldl (fun (p : List (Nat × BitVec 6) × Option Nat) x =>
      let r := match p.2 with
        | none => leafResult f mode x
        | some y => redFloat kind f mode y x
      (p.1 ++ [r], some r.1)) ([], none)).1
  else (List.range xs.length).map (fun i => redInt kind w (xs.take (i + 1)))

/-- The active elements of each row, or all of them (R331). -/
def redParts (rowForm : Bool) (rows cols act : Nat) : List (List Nat) :=
  if rowForm then
    (List.range rows).map (fun r => ((List.range cols).map (fun c => r * cols + c)).filter (fun j => j < act))
  else [List.range act]

/-- The latency of VRED (R320) for `n` elements reduced into one result. DESIGN CHOICE (log 112): none takes no levels, since
ceil(log2 0) has no value. -/
def redLatency (kind n : Nat) : Nat :=
  let levels := ((List.range 13).find? (fun i => n ≤ 2 ^ i)).getD 13
  if kind ≤ 2 then 4 + 4 * levels else 2 + levels

/-- The latency of VSCAN (R320). -/
def scanLatency (kind n : Nat) : Nat := if kind ≤ 2 then 4 + 4 * n else 2 + n

/-- VRED (R331, R332). -/
def execVred (o : Opnd) (s : State) : Result :=
  issue s o do
    let t := s.cur
    let kind := o.fn.toNat % 8
    let f := floatFmt (o.fn.toNat / 8)
    let w := vWidth t
    let row := o.lvl = 1
    let act := if row then activeSingle t o.k else activeCount t o.k
    let size := if row then 1 else groupSize act (vCount t)
    let a ← srcGroup t o.a size o.feA
    needGroup [o.a] size
    need (decide (2 < kind) || decide (f.w = w)) 0x0F
    let rs := (redParts row (vRows t) (vCols t) act).map (fun js => reduceOne kind w f t.mode (js.map (elemOf w a)))
    let fl := rs.foldl (fun fl r => fl ||| r.2) 0
    if row then do
      dstGroup t o.d 1
      return finishL s o [] (mergeGroup t o.d 1 w false (rs.map (fun r => r.1))) fl o.feD
        (redLatency kind (min act (vCols t)))
    else do
      dstG t o.d
      let x := (rs.headD (0, 0)).1
      return finishL s o [(o.d, if kind ≤ 2 then word x else BitVec.ofInt 64 (readInt true w x))] [] fl o.feD
        (redLatency kind act + 2 * (size - 1))

/-- VSCAN (R331, R332). -/
def execVscan (o : Opnd) (s : State) : Result :=
  issue s o do
    let t := s.cur
    let kind := o.fn.toNat % 8
    let f := floatFmt (o.fn.toNat / 8)
    let w := vWidth t
    let row := o.lvl = 1
    let act := if row then activeSingle t o.k else activeCount t o.k
    let size := if row then 1 else groupSize act (vCount t)
    let a ← srcGroup t o.a size o.feA
    needGroup [o.a, o.d] size
    need (decide (2 < kind) || decide (f.w = w)) 0x0F
    dstGroup t o.d size
    let rs := (redParts row (vRows t) (vCols t) act).flatMap (fun js => scanOne kind w f t.mode (js.map (elemOf w a)))
    return finishL s o [] (mergeGroup t o.d size w false (rs.map (fun r => r.1)))
      (rs.foldl (fun fl r => fl ||| r.2) 0) o.feD
      (scanLatency kind (if row then min act (vCols t) else act) + 2 * (size - 1))

/-! ## Moving elements -/

/-- VSHUF (R334). -/
def execVshuf (o : Opnd) (s : State) : Result :=
  let w := vWidth s.cur
  let n := vCount s.cur
  vectorOp o s { useB := true, useC := true, single := true, latency := 6 } (fun x j =>
    let i := elemOf w x.b j
    (if i < n then elemOf w x.a i else if i < 2 * n then elemOf w x.c (i - n) else 0, 0))

/-- VBCAST.G (R334): field a is a general register. -/
def execVbcastG (o : Opnd) (s : State) : Result :=
  let w := vWidth s.cur
  issue s o do
    let t := s.cur
    let act := activeCount t o.k
    let size := groupSize act (vCount t)
    let x ← srcG t o.a o.feA
    needGroup [o.d] size
    dstGroup t o.d size
    return finishV s o (mergeGroup t o.d size w false (List.replicate act (x.toNat % 2 ^ w))) 0 (2 + 2 * (size - 1))

/-- VBCAST.IMM (R334). -/
def execVbcastImm (o : Opnd) (s : State) : Result :=
  let w := vWidth s.cur
  vectorOp o s { useA := false } (fun _ _ => (toBits w (dispOf o), 0))

/-- The index of the row and column forms (R333): 0 in C32. -/
def moveIndex (o : Opnd) : Nat := o.imm16.toNat

/-- VBCAST.ROW (R334). -/
def execVbcastRow (o : Opnd) (s : State) : Result :=
  let w := vWidth s.cur
  let r := vRows s.cur
  let c := vCols s.cur
  vectorOp o s { single := true, limit := some (r * c), indexOk := moveIndex o < r } (fun x j =>
    (elemOf w x.a (moveIndex o * c + j % c), 0))

/-- VBCAST.COL (R334). -/
def execVbcastCol (o : Opnd) (s : State) : Result :=
  let w := vWidth s.cur
  let r := vRows s.cur
  let c := vCols s.cur
  vectorOp o s { single := true, limit := some (r * c), indexOk := moveIndex o < c } (fun x j =>
    (elemOf w x.a (j / c * c + moveIndex o), 0))

/-- VTRANS (R334): every element of the shape, without a predicate. -/
def execVtrans (o : Opnd) (s : State) : Result :=
  issue s o do
    let t := s.cur
    let w := vWidth t
    let r := vRows t
    let c := vCols t
    let a ← srcGroup t o.a 1 o.feA
    needGroup [o.a, o.d] 1
    dstGroup t o.d 1
    return finishL s o [] (mergeGroup t o.d 1 w false
      ((List.range (r * c)).map (fun j => elemOf w a (j % r * c + j / r)))) 0 o.feD 16

/-- VMOVE (R334): under .Z the inactive elements become 0. -/
def execVmove (o : Opnd) (s : State) : Result :=
  let w := vWidth s.cur
  vectorOp o s { zero := o.fn = 1 } (fun x j => (elemOf w x.a j, 0))

/-- VMOVE.TOG (R334). -/
def execVmoveTog (o : Opnd) (s : State) : Result :=
  issue s o do
    let t := s.cur
    let w := vWidth t
    let x ← srcV t (vreg o.a.toNat) o.feA
    need (moveIndex o < vCount t) 0x0F
    dstG t o.d
    let e := elemOf w x.toNat (moveIndex o)
    return finishG s o o.d (if o.lvl = 1 then BitVec.ofInt 64 (readInt true w e) else word e) 0 2

/-- VMOVE.FROMG (R334): d is read and then written. -/
def execVmoveFromg (o : Opnd) (s : State) : Result :=
  issue s o do
    let t := s.cur
    let w := vWidth t
    let i := moveIndex o
    let old ← srcV t (vreg o.d.toNat) o.feD
    let x ← srcG t o.a o.feA
    need (i < vCount t) 0x0F
    let vals := (List.range (vCount t)).map (fun j => if j = i then x.toNat % 2 ^ w else elemOf w old.toNat j)
    return finishV s o [(vreg o.d.toNat, BitVec.ofNat 4096 (packElems w vals))] 0 2

/-- VIDX (R334): fn 0 the element, 1 .ROW, 2 .COL. -/
def execVidx (o : Opnd) (s : State) : Result :=
  issue s o do
    let t := s.cur
    let w := vWidth t
    let c := vCols t
    let group := o.fn = 0
    let act := if group then activeCount t o.k else min (activeSingle t o.k) (vRows t * c)
    let size := if group then groupSize act (vCount t) else 1
    let x ← srcG t o.a o.feA
    let y ← srcG t o.b o.feB
    needGroup [o.d] size
    dstGroup t o.d size
    let n (j : Nat) : Nat := if o.fn = 0 then j else if o.fn = 1 then j / c else j % c
    return finishV s o (mergeGroup t o.d size w false
      ((List.range act).map (fun j => (x.toNat + n j * y.toNat) % 2 ^ w))) 0 (2 + 2 * (size - 1))

/-! ## Random numbers -/

/-- VRAND (R335). -/
def execVrand (o : Opnd) (s : State) : Result :=
  issue s o do
    let t := s.cur
    let w := vWidth t
    let act := activeCount t o.k
    let size := groupSize act (vCount t)
    let x ← srcG t o.a o.feA
    needGroup [o.d] size
    need (o.fn = 0 || w = 32) 0x0F
    dstGroup t o.d size
    let draw (j : Nat) : Nat :=
      elemOf w (philox (j * w / 128) (x.extractLsb' 0 32) (widOf t) t.seed).toNat (j % (128 / w))
    let uniform (j : Nat) : Nat := (roundNum fmt32 0 (.fin false (draw j / 2 ^ 8) (-24))).1
    return finishL s o [] (mergeGroup t o.d size w false
      ((List.range act).map (fun j => if o.fn = 1 then uniform j else draw j))) 0 o.feD (12 + 2 * (size - 1))

/-! ## Trits -/

/-- The digit of a trit (R87): 0, 1 for +1, 2 for −1. -/
def tritDigit (v : Int) : Nat := if v = 0 then 0 else if v > 0 then 1 else 2

/-- Trit `i` of a trit byte. -/
def tritOf (b i : Nat) : Int :=
  match b / 3 ^ i % 3 with
  | 0 => 0
  | 1 => 1
  | _ => -1

/-- Five digits in one byte, the first lowest (R87). -/
def tritByte (ds : List Nat) : Nat := (ds.zipIdx.foldl (fun n p => n + p.1 * 3 ^ p.2) 0)

/-- Digit `j` of the balanced-ternary expansion of an integer (R89). -/
def balancedDigit (x : Int) (j : Nat) : Int :=
  let q := (List.range j).foldl (fun (x : Int) _ => (x + 1) / 3) x
  (q + 1) % 3 - 1

/-- The registers of a trit side of `n` trits (R336). -/
def tritRegs (n : Nat) : Nat := max 1 (((n + 4) / 5 + 511) / 512)

/-- TRUNPACK (R336, R337). -/
def execTrunpack (o : Opnd) (s : State) : Result :=
  issue s o do
    let t := s.cur
    let w := vWidth t
    let act := activeCount t o.k
    let size := groupSize act (vCount t)
    let trits := tritRegs act
    let a ← srcGroup t o.a trits o.feA
    needGroup [o.a] trits
    needGroup [o.d] size
    match (List.range ((act + 4) / 5)).find? (fun i => elemOf 8 a i ≥ 243) with
    | some i => raise 0x18 0 (BitVec.ofNat 32 i)
    | none => do
      dstGroup t o.d size
      return finishV s o (mergeGroup t o.d size w false
        ((List.range act).map (fun j => toBits w (tritOf (elemOf 8 a (j / 5)) (j % 5))))) 0
        (4 + 2 * (max trits size - 1))

/-- TRPACK and TRSPLIT (R336, R337): elements to trit bytes. -/
def tritPack (o : Opnd) (s : State) (digit : Int → Int × BitVec 6) : Result :=
  issue s o do
    let t := s.cur
    let w := vWidth t
    let act := activeCount t o.k
    let size := groupSize act (vCount t)
    let trits := tritRegs act
    let a ← srcGroup t o.a size o.feA
    needGroup [o.a] size
    needGroup [o.d] trits
    dstGroup t o.d trits
    let ds := (List.range act).map (fun j => digit (readInt true w (elemOf w a j)))
    let bytes := (List.range ((act + 4) / 5)).map (fun i =>
      tritByte (((ds.drop (5 * i)).take 5).map (fun d => tritDigit d.1)))
    return finishV s o (mergeGroup t o.d trits 8 false bytes) (ds.foldl (fun fl d => fl ||| d.2) 0)
      (4 + 2 * (max trits size - 1))

def execTrpack (o : Opnd) (s : State) : Result :=
  tritPack o s (fun v => (if v > 0 then 1 else if v < 0 then -1 else 0, if v.natAbs > 1 then flagSat else 0))

def execTrsplit (o : Opnd) (s : State) : Result :=
  tritPack o s (fun v => (balancedDigit v (o.imm16.toNat % 64), 0))

end Sys2Proof.Machine
end

