-- ==== Sys2Proof/Machine/Dispatch.lean ====
section
/-! DEFINITION. One arm per constructor of Instr: a direct call of its meaning. -/

namespace Sys2Proof.Machine

def exec (i : Instr) (s : State) : Host.Outcome State Fault Refusal :=
  match i with
  | .nop o => Sys2Proof.Machine.execNop o s
  | .endCtl o => Sys2Proof.Machine.execEndCtl o s
  | .br o => Sys2Proof.Machine.execBr o s
  | .brc o => Sys2Proof.Machine.execBrc o s
  | .bri o => Sys2Proof.Machine.execBri o s
  | .call o => Sys2Proof.Machine.execCall o s
  | .ret o => Sys2Proof.Machine.execRet o s
  | .loop o => Sys2Proof.Machine.execLoop o s
  | .trap o => Sys2Proof.Machine.execTrap o s
  | .sysrd o => Sys2Proof.Machine.execSysrd o s
  | .sysrdFlags o => Sys2Proof.Machine.execSysrdFlags o s
  | .syswr o => Sys2Proof.Machine.execSyswr o s
  | .syswrMode o => Sys2Proof.Machine.execSyswrMode o s
  | .syswrBfmt o => Sys2Proof.Machine.execSyswrBfmt o s
  | .syswrFlags o => Sys2Proof.Machine.execSyswrFlags o s
  | .syswrStampb o => Sys2Proof.Machine.execSyswrStampb o s
  | .syswrTrapv o => Sys2Proof.Machine.execSyswrTrapv o s
  | .getmode o => Sys2Proof.Machine.execGetmode o s
  | .setmode o => Sys2Proof.Machine.execSetmode o s
  | .signrd o => Sys2Proof.Machine.execSignrd o s
  | .feat o => Sys2Proof.Machine.execFeat o s
  | .rdtime o => Sys2Proof.Machine.execRdtime o s
  | .stamp o => Sys2Proof.Machine.execStamp o s
  | .yield o => Sys2Proof.Machine.execYield o s
  | .launch o => Sys2Proof.Machine.execLaunch o s
  | .cancel o => Sys2Proof.Machine.execCancel o s
  | .cancelItem o => Sys2Proof.Machine.execCancelItem o s
  | .runMx o => Sys2Proof.Machine.execRunMx o s
  | .runCp o => Sys2Proof.Machine.execRunCp o s
  | .add o => Sys2Proof.Machine.execAdd o s
  | .addi o => Sys2Proof.Machine.execAddi o s
  | .sub o => Sys2Proof.Machine.execSub o s
  | .mul o => Sys2Proof.Machine.execMul o s
  | .mulh o => Sys2Proof.Machine.execMulh o s
  | .div o => Sys2Proof.Machine.execDiv o s
  | .rem o => Sys2Proof.Machine.execRem o s
  | .and o => Sys2Proof.Machine.execAnd o s
  | .or o => Sys2Proof.Machine.execOr o s
  | .xor o => Sys2Proof.Machine.execXor o s
  | .shl o => Sys2Proof.Machine.execShl o s
  | .shr o => Sys2Proof.Machine.execShr o s
  | .sar o => Sys2Proof.Machine.execSar o s
  | .rot o => Sys2Proof.Machine.execRot o s
  | .min o => Sys2Proof.Machine.execMin o s
  | .max o => Sys2Proof.Machine.execMax o s
  | .abs o => Sys2Proof.Machine.execAbs o s
  | .sel o => Sys2Proof.Machine.execSel o s
  | .cmp o => Sys2Proof.Machine.execCmp o s
  | .clz o => Sys2Proof.Machine.execClz o s
  | .popc o => Sys2Proof.Machine.execPopc o s
  | .bfx o => Sys2Proof.Machine.execBfx o s
  | .bfi o => Sys2Proof.Machine.execBfi o s
  | .li o => Sys2Proof.Machine.execLi o s
  | .mov o => Sys2Proof.Machine.execMov o s
  | .addr o => Sys2Proof.Machine.execAddr o s
  | .cvt o => Sys2Proof.Machine.execCvt o s
  | .fadd o => Sys2Proof.Machine.execFadd o s
  | .fmul o => Sys2Proof.Machine.execFmul o s
  | .ffma o => Sys2Proof.Machine.execFfma o s
  | .fmin o => Sys2Proof.Machine.execFmin o s
  | .fmax o => Sys2Proof.Machine.execFmax o s
  | .fcmp o => Sys2Proof.Machine.execFcmp o s
  | .ld o => Sys2Proof.Machine.execLd o s
  | .st o => Sys2Proof.Machine.execSt o s
  | .stT o => Sys2Proof.Machine.execStT o s
  | .ldv o => Sys2Proof.Machine.execLdv o s
  | .stv o => Sys2Proof.Machine.execStv o s
  | .ldfe o => Sys2Proof.Machine.execLdfe o s
  | .stfe o => Sys2Proof.Machine.execStfe o s
  | .feset o => Sys2Proof.Machine.execFeset o s
  | .feclr o => Sys2Proof.Machine.execFeclr o s
  | .fepeek o => Sys2Proof.Machine.execFepeek o s
  | .xlat o => Sys2Proof.Machine.execXlat o s
  | .hrel o => Sys2Proof.Machine.execHrel o s
  | .hinfo o => Sys2Proof.Machine.execHinfo o s
  | .atom o => Sys2Proof.Machine.execAtom o s
  | .cas o => Sys2Proof.Machine.execCas o s
  | .xchg o => Sys2Proof.Machine.execXchg o s
  | .mark o => Sys2Proof.Machine.execMark o s
  | .fenceAcq o => Sys2Proof.Machine.execFenceAcq o s
  | .fenceRel o => Sys2Proof.Machine.execFenceRel o s
  | .fenceAr o => Sys2Proof.Machine.execFenceAr o s
  | .fenceWack o => Sys2Proof.Machine.execFenceWack o s
  | .wait o => Sys2Proof.Machine.execWait o s
  | .qpub o => Sys2Proof.Machine.execQpub o s
  | .qpubOff o => Sys2Proof.Machine.execQpubOff o s
  | .bararr o => Sys2Proof.Machine.execBararr o s
  | .barexp o => Sys2Proof.Machine.execBarexp o s
  | .gather o => Sys2Proof.Machine.execGather o s
  | .cinv o => Sys2Proof.Machine.execCinv o s
  | .cwb o => Sys2Proof.Machine.execCwb o s
  | .pref o => Sys2Proof.Machine.execPref o s
  | .vadd o => Sys2Proof.Machine.execVadd o s
  | .vsub o => Sys2Proof.Machine.execVsub o s
  | .vmul o => Sys2Proof.Machine.execVmul o s
  | .vfma o => Sys2Proof.Machine.execVfma o s
  | .vmin o => Sys2Proof.Machine.execVmin o s
  | .vmax o => Sys2Proof.Machine.execVmax o s
  | .vabs o => Sys2Proof.Machine.execVabs o s
  | .vneg o => Sys2Proof.Machine.execVneg o s
  | .vdiv o => Sys2Proof.Machine.execVdiv o s
  | .vsqrt o => Sys2Proof.Machine.execVsqrt o s
  | .vrsqrt o => Sys2Proof.Machine.execVrsqrt o s
  | .vrcp o => Sys2Proof.Machine.execVrcp o s
  | .vexp2 o => Sys2Proof.Machine.execVexp2 o s
  | .vlog2 o => Sys2Proof.Machine.execVlog2 o s
  | .vcvt o => Sys2Proof.Machine.execVcvt o s
  | .vcmp o => Sys2Proof.Machine.execVcmp o s
  | .vsel o => Sys2Proof.Machine.execVsel o s
  | .vand o => Sys2Proof.Machine.execVand o s
  | .vor o => Sys2Proof.Machine.execVor o s
  | .vxor o => Sys2Proof.Machine.execVxor o s
  | .vshl o => Sys2Proof.Machine.execVshl o s
  | .vshr o => Sys2Proof.Machine.execVshr o s
  | .viadd o => Sys2Proof.Machine.execViadd o s
  | .visub o => Sys2Proof.Machine.execVisub o s
  | .vdot4 o => Sys2Proof.Machine.execVdot4 o s
  | .vred o => Sys2Proof.Machine.execVred o s
  | .vscan o => Sys2Proof.Machine.execVscan o s
  | .vshuf o => Sys2Proof.Machine.execVshuf o s
  | .vbcastG o => Sys2Proof.Machine.execVbcastG o s
  | .vbcastImm o => Sys2Proof.Machine.execVbcastImm o s
  | .vbcastRow o => Sys2Proof.Machine.execVbcastRow o s
  | .vbcastCol o => Sys2Proof.Machine.execVbcastCol o s
  | .vtrans o => Sys2Proof.Machine.execVtrans o s
  | .vmove o => Sys2Proof.Machine.execVmove o s
  | .vmoveTog o => Sys2Proof.Machine.execVmoveTog o s
  | .vmoveFromg o => Sys2Proof.Machine.execVmoveFromg o s
  | .vshape o => Sys2Proof.Machine.execVshape o s
  | .vshapeRd o => Sys2Proof.Machine.execVshapeRd o s
  | .kset o => Sys2Proof.Machine.execKset o s
  | .kadd o => Sys2Proof.Machine.execKadd o s
  | .kmin o => Sys2Proof.Machine.execKmin o s
  | .vidx o => Sys2Proof.Machine.execVidx o s
  | .vrand o => Sys2Proof.Machine.execVrand o s
  | .trpack o => Sys2Proof.Machine.execTrpack o s
  | .trunpack o => Sys2Proof.Machine.execTrunpack o s
  | .trsplit o => Sys2Proof.Machine.execTrsplit o s
  | .sopset o => Sys2Proof.Machine.execSopset o s
  | .scanl o => Sys2Proof.Machine.execScanl o s
  | .scan o => Sys2Proof.Machine.execScan o s
  | .sstep o => Sys2Proof.Machine.execSstep o s
  | .sld o => Sys2Proof.Machine.execSld o s
  | .sst o => Sys2Proof.Machine.execSst o s
  | .sbind o => Sys2Proof.Machine.execSbind o s
  | .sbindNew o => Sys2Proof.Machine.execSbindNew o s
  | .sspill o => Sys2Proof.Machine.execSspill o s
  | .sfill o => Sys2Proof.Machine.execSfill o s
  | .chsend o => Sys2Proof.Machine.execChsend o s
  | .chrecv o => Sys2Proof.Machine.execChrecv o s
  | .kvopen o => Sys2Proof.Machine.execKvopen o s
  | .kvclose o => Sys2Proof.Machine.execKvclose o s
  | .kvfork o => Sys2Proof.Machine.execKvfork o s
  | .kvappend o => Sys2Proof.Machine.execKvappend o s
  | .kvevict o => Sys2Proof.Machine.execKvevict o s
  | .kvcompact o => Sys2Proof.Machine.execKvcompact o s
  | .kvmap o => Sys2Proof.Machine.execKvmap o s
  | .kvmapV o => Sys2Proof.Machine.execKvmapV o s
  | .kvdraft o => Sys2Proof.Machine.execKvdraft o s
  | .kvaccept o => Sys2Proof.Machine.execKvaccept o s
  | .kvreject o => Sys2Proof.Machine.execKvreject o s
  | .kvprefixLook o => Sys2Proof.Machine.execKvprefixLook o s
  | .kvprefixIns o => Sys2Proof.Machine.execKvprefixIns o s
  | .qsend o => Sys2Proof.Machine.execQsend o s
  | .qsendReply o => Sys2Proof.Machine.execQsendReply o s
  | .adot o => Sys2Proof.Machine.execAdot o s
  | .aacc o => Sys2Proof.Machine.execAacc o s
  | .mxldw h b => Sys2Proof.Machine.execMxldw h b s
  | .mxacc h b => Sys2Proof.Machine.execMxacc h b s
  | .mxdrain h b => Sys2Proof.Machine.execMxdrain h b s
  | .mxzero h mask => Sys2Proof.Machine.execMxzero h mask s
  | .mxperm h b => Sys2Proof.Machine.execMxperm h b s
  | .mxred h b => Sys2Proof.Machine.execMxred h b s
  | .mxtrn h b => Sys2Proof.Machine.execMxtrn h b s
  | .mxsave h b => Sys2Proof.Machine.execMxsave h b s
  | .mxrest h b => Sys2Proof.Machine.execMxrest h b s
  | .mxstamp h b => Sys2Proof.Machine.execMxstamp h b s
  | .mxend h => Sys2Proof.Machine.execMxend h s
  | .cpy h b => Sys2Proof.Machine.execCpy h b s
  | .cpyind h b => Sys2Proof.Machine.execCpyind h b s
  | .cpyfifo h b => Sys2Proof.Machine.execCpyfifo h b s
  | .cpynet h b => Sys2Proof.Machine.execCpynet h b s
  | .cpyfill h b => Sys2Proof.Machine.execCpyfill h b s
  | .rcfence h => Sys2Proof.Machine.execRcfence h s
  | .cpyend h => Sys2Proof.Machine.execCpyend h s
  | .matrixIterationStart c => Sys2Proof.Machine.execMatrixIterationStart c s
  | .tileRowLand c => Sys2Proof.Machine.execTileRowLand c s
  | .recordComplete c q n => Sys2Proof.Machine.execRecordComplete c q n s
  | .deferredWrite c n => Sys2Proof.Machine.execDeferredWrite c n s
  | .streamUnblock c st => Sys2Proof.Machine.execStreamUnblock c st s
  | .waitReturn c => Sys2Proof.Machine.execWaitReturn c s
  | .waitTimeout c => Sys2Proof.Machine.execWaitTimeout c s
  | .xlatCacheHitFill c h => Sys2Proof.Machine.execXlatCacheHitFill c h s
  | .translationWalkComplete c h => Sys2Proof.Machine.execTranslationWalkComplete c h s
  | .shootdownInvalidation c tenant context vpage => Sys2Proof.Machine.execShootdownInvalidation c tenant context vpage s
  | .shootdownAck c => Sys2Proof.Machine.execShootdownAck c s
  | .homeSliceRequest n => Sys2Proof.Machine.execHomeSliceRequest n s
  | .backoffResend n => Sys2Proof.Machine.execBackoffResend n s
  | .derailleurMoveStart die bucket target => Sys2Proof.Machine.execDerailleurMoveStart die bucket target s
  | .derailleurHold die => Sys2Proof.Machine.execDerailleurHold die s
  | .derailleurFlush die => Sys2Proof.Machine.execDerailleurFlush die s
  | .derailleurRelease die => Sys2Proof.Machine.execDerailleurRelease die s
  | .gatherLineReply c q n => Sys2Proof.Machine.execGatherLineReply c q n s
  | .copyElement c q n => Sys2Proof.Machine.execCopyElement c q n s
  | .scanUnitStart c => Sys2Proof.Machine.execScanUnitStart c s
  | .scanComplete c => Sys2Proof.Machine.execScanComplete c s
  | .scanHubCombine c => Sys2Proof.Machine.execScanHubCombine c s
  | .pannierTransferComplete c q n => Sys2Proof.Machine.execPannierTransferComplete c q n s
  | .carryArrival n => Sys2Proof.Machine.execCarryArrival n s
  | .acceptancePacketArrival n => Sys2Proof.Machine.execAcceptancePacketArrival n s
  | .chainPacket link p => Sys2Proof.Machine.execChainPacket link p s
  | .kvopenAtSlice0 die n => Sys2Proof.Machine.execKvopenAtSlice0 die n s
  | .kvOperationPerform die n => Sys2Proof.Machine.execKvOperationPerform die n s
  | .deadHandleBroadcast core => Sys2Proof.Machine.execDeadHandleBroadcast core s
  | .tierMove die pbid tier loc => Sys2Proof.Machine.execTierMove die pbid tier loc s
  | .queryEntryEnqueue die n => Sys2Proof.Machine.execQueryEntryEnqueue die n s
  | .queryDelivery die queue => Sys2Proof.Machine.execQueryDelivery die queue s
  | .queryReplyArrival n => Sys2Proof.Machine.execQueryReplyArrival n s
  | .qpubForward c q => Sys2Proof.Machine.execQpubForward c q s
  | .barrierHomeUpdate n => Sys2Proof.Machine.execBarrierHomeUpdate n s
  | .barrierPhaseSignal c => Sys2Proof.Machine.execBarrierPhaseSignal c s
  | .walkerStep die => Sys2Proof.Machine.execWalkerStep die s
  | .troupeReservation die => Sys2Proof.Machine.execTroupeReservation die s
  | .reservationPreempt die => Sys2Proof.Machine.execReservationPreempt die s
  | .itemRetire c => Sys2Proof.Machine.execItemRetire c s
  | .launchCompletion queue ordinal => Sys2Proof.Machine.execLaunchCompletion queue ordinal s
  | .slotSwitch core => Sys2Proof.Machine.execSlotSwitch core s
  | .blockedSwitchTrigger core => Sys2Proof.Machine.execBlockedSwitchTrigger core s
  | .prioritySwitchTrigger core => Sys2Proof.Machine.execPrioritySwitchTrigger core s
  | .timeSliceSwitchTrigger core => Sys2Proof.Machine.execTimeSliceSwitchTrigger core s
  | .asyncEventTake c => Sys2Proof.Machine.execAsyncEventTake c s
  | .heldCompletion n => Sys2Proof.Machine.execHeldCompletion n s
  | .restore n => Sys2Proof.Machine.execRestore n s
  | .contextLost c section_ => Sys2Proof.Machine.execContextLost c section_ s
  | .scrub f => Sys2Proof.Machine.execScrub f s
  | .framePut f => Sys2Proof.Machine.execFramePut f s
  | .frameGetreq f => Sys2Proof.Machine.execFrameGetreq f s
  | .frameGetdata f => Sys2Proof.Machine.execFrameGetdata f s
  | .frameAck f => Sys2Proof.Machine.execFrameAck f s
  | .frameNak f => Sys2Proof.Machine.execFrameNak f s
  | .frameLaunch f => Sys2Proof.Machine.execFrameLaunch f s
  | .frameLresult f => Sys2Proof.Machine.execFrameLresult f s
  | .frameCancel f => Sys2Proof.Machine.execFrameCancel f s
  | .frameReport f => Sys2Proof.Machine.execFrameReport f s
  | .frameRefuse f => Sys2Proof.Machine.execFrameRefuse f s
  | .frameDamagedDrop bytes fcsError => Sys2Proof.Machine.execFrameDamagedDrop bytes fcsError s
  | .ackTimer f => Sys2Proof.Machine.execAckTimer f s
  | .retransmitTimeout f => Sys2Proof.Machine.execRetransmitTimeout f s
  | .portDown p => Sys2Proof.Machine.execPortDown p s
  | .portRetrainComplete => Sys2Proof.Machine.execPortRetrainComplete s
  | .mgmtSetDevid m dev => Sys2Proof.Machine.execMgmtSetDevid m dev s
  | .mgmtWritePseed m seed => Sys2Proof.Machine.execMgmtWritePseed m seed s
  | .mgmtTenant m tenant create weight => Sys2Proof.Machine.execMgmtTenant m tenant create weight s
  | .mgmtAssignQueue m queue tenant => Sys2Proof.Machine.execMgmtAssignQueue m queue tenant s
  | .mgmtAccessTable m target index entry => Sys2Proof.Machine.execMgmtAccessTable m target index entry s
  | .mgmtCreateContext m tenant context root saveAreas => Sys2Proof.Machine.execMgmtCreateContext m tenant context root saveAreas s
  | .mgmtPageFaultAnswer m tenant context vpage mapped => Sys2Proof.Machine.execMgmtPageFaultAnswer m tenant context vpage mapped s
  | .mgmtPreempt m queue ordinal kind => Sys2Proof.Machine.execMgmtPreempt m queue ordinal kind s
  | .mgmtLoadObject m tenant context va dest len pa kind => Sys2Proof.Machine.execMgmtLoadObject m tenant context va dest len pa kind s
  | .mgmtAttestation m nonce tenant => Sys2Proof.Machine.execMgmtAttestation m nonce tenant s
  | .mgmtPowerCap m watts => Sys2Proof.Machine.execMgmtPowerCap m watts s
  | .mgmtPackageReset m => Sys2Proof.Machine.execMgmtPackageReset m s
  | .mgmtMapPages m tenant context va entry => Sys2Proof.Machine.execMgmtMapPages m tenant context va entry s
  | .mgmtMigrate m tenant context va pa => Sys2Proof.Machine.execMgmtMigrate m tenant context va pa s
  | .mgmtQueryQueue m die queue tenant capacity => Sys2Proof.Machine.execMgmtQueryQueue m die queue tenant capacity s
  | .mgmtLinkParameters m port backoff retransmit vlan => Sys2Proof.Machine.execMgmtLinkParameters m port backoff retransmit vlan s
  | .mgmtPinPartition m ways => Sys2Proof.Machine.execMgmtPinPartition m ways s
  | .mgmtSpillGrant m grant => Sys2Proof.Machine.execMgmtSpillGrant m grant s
  | .mgmtSigningKeys m tenant keyHash enrol quota => Sys2Proof.Machine.execMgmtSigningKeys m tenant keyHash enrol quota s
  | .flitReceive link u => Sys2Proof.Machine.execFlitReceive link u s
  | .linkRetrain link succeeds => Sys2Proof.Machine.execLinkRetrain link succeeds s
  | .powerUp unit => Sys2Proof.Machine.execPowerUp unit s
  | .bootHandshake reply version image signature => Sys2Proof.Machine.execBootHandshake reply version image signature s
  | .thermalWithhold die celsius => Sys2Proof.Machine.execThermalWithhold die celsius s
  | .thermalPreempt die celsius => Sys2Proof.Machine.execThermalPreempt die celsius s
  | .thermalTrip celsius => Sys2Proof.Machine.execThermalTrip celsius s
  | .powerCapCheck watts => Sys2Proof.Machine.execPowerCapCheck watts s
  | .retranslationHitRefill c h => Sys2Proof.Machine.execRetranslationHitRefill c h s
  | .powerRemoval => Sys2Proof.Machine.execPowerRemoval s

end Sys2Proof.Machine
end

