-- ==== Sys2Proof/Machine/Auto.lean ====
section
/-! DEFINITION. The internal events that are due without any outside input, the order in which a cc performs events and
issues (R46, R47, R422), and the end of a cc (log 1, log 2). -/

namespace Sys2Proof.Machine

/-! ## The events of a slot -/

/-- A list with one entry under a condition. -/
def whenDue (b : Bool) (i : Instr) : List Instr := if b then [i] else []

/-- What the operations of a slot can do next. -/
def opEvents (s : State) (t : Slot) : List Instr :=
  t.ops.flatMap (fun o =>
    match o.q with
    | none => []
    | some q =>
      whenDue (completeReady s t o) (.recordComplete t.id q o.num) ++ whenDue (gatherReady s t o) (.gatherLineReply t.id q o.num)
        ++ whenDue (copyStep s t o).isSome (.copyElement t.id q o.num)
        ++ whenDue (pannierReady s t o) (.pannierTransferComplete t.id q o.num))

/-- The scans of a slot that can go on (R376 to R378). -/
def scanEvents (s : State) (t : Slot) : List Instr :=
  whenDue (scanNext s t).isSome (.scanUnitStart t.id) ++ whenDue (scanRunning s t).isSome (.scanComplete t.id)
    ++ whenDue (match scanMembers s t with
        | some ms => (scanFault ms).isSome || scanSources ms && scanRan s ms
        | none => false)
        (.scanHubCombine t.id)

/-- The translations of a slot that arrive (R117, R120). -/
def walkEvents (s : State) (t : Slot) : List Instr :=
  t.walks.flatMap (fun w =>
    whenDue (hitDue s t false w.h).isSome (.xlatCacheHitFill t.id w.h)
      ++ whenDue (hitDue s t true w.h).isSome (.retranslationHitRefill t.id w.h)
      ++ whenDue (match pendingWalk s t w.h with | some w => walkFinds s t w ≠ .waits | none => false)
          (.translationWalkComplete t.id w.h))

/-- The counters of a slot with a value to forward (R304). -/
def forwardEvents (s : State) (t : Slot) : List Instr :=
  (List.range 16).flatMap (fun n =>
    let q : BitVec 4 := BitVec.ofNat 4 n
    whenDue (t.q[q.toNat].bindings.any (fun b => forwardDue s t t.q[q.toNat] b)) (.qpubForward t.id q))

/-- The streams of a slot whose object has come (R215). -/
def unblockEvents (s : State) (t : Slot) : List Instr :=
  [StreamId.control, .matrix, .copy].flatMap (fun st => whenDue (unblockDue s t st) (.streamUnblock t.id st))

/-- What happens to the storage and the operations of a slot. -/
def slotEvents (s : State) (t : Slot) : List Instr :=
  (List.range t.deferred.length).flatMap (fun i => whenDue (deferredDue s t i) (.deferredWrite t.id i)) ++ whenDue (landingDue s t) (.tileRowLand t.id)
    ++ whenDue (iterationActs s t) (.matrixIterationStart t.id) ++ walkEvents s t ++ opEvents s t ++ scanEvents s t
    ++ forwardEvents s t ++ whenDue (match t.wait with | some w => w.signalled | none => false) (.barrierPhaseSignal t.id)

/-- What then happens to the streams of a slot. -/
def streamEvents (s : State) (t : Slot) : List Instr :=
  unblockEvents s t ++ whenDue (waitReturns s t) (.waitReturn t.id) ++ whenDue (waitTimesOut s t) (.waitTimeout t.id)
    ++ whenDue (eventDue s t) (.asyncEventTake t.id) ++ whenDue (retireDue s t) (.itemRetire t.id)

/-! ## The events of the package -/

/-- The numbers of the entries of a list that pass a test. -/
def indicesOf {α : Type} (xs : List α) (p : α → Bool) : List Nat :=
  (xs.zipIdx.filter (fun x => p x.1)).map (fun x => x.2)

/-- What the attention dies do (R138, R159, R164, R167, R168). -/
def kvEvents (s : State) : List Instr :=
  [false, true].flatMap (fun b =>
    let d := s.kv[if b then (1 : Fin 2) else 0]
    (List.range d.arrivals.length).flatMap (fun i => [.kvopenAtSlice0 b i, .kvOperationPerform b i])
      ++ (List.range d.queries.length).map (fun i => .queryEntryEnqueue b i)
      ++ (indicesOf d.queries (fun a => backoffOver s a.resendAt)).map (fun i => .backoffResend (.query b i))
      ++ (d.queues.filter (fun p => (headEntry p.2).isSome)).map (fun p => .queryDelivery b (BitVec.ofNat 5 p.1))
      ++ (d.blocks.filter (fun p => p.2.moving)).map (fun p => .tierMove b (BitVec.ofNat 26 p.1) p.2.target.1 p.2.target.2))

/-- Messages between agents (R76, R133, R169, R221, R383, R384, R450, R454, R461). -/
def messageEvents (s : State) : List Instr :=
  (indicesOf s.barriers (fun u => u.order.resendAt.isNone)).map (fun i => .barrierHomeUpdate i)
    ++ (indicesOf s.barriers (fun u => backoffOver s u.order.resendAt)).map (fun i => .backoffResend (.barrier i))
    ++ (s.broadcasts.flatMap (fun b => (List.range 128).filter (fun c => b.2.getLsbD c))).map
        (fun c => .deadHandleBroadcast (BitVec.ofNat 8 c))
    ++ (List.range (s.requests.length + if s.intake.isEmpty then 0 else 1)).map (fun i => .homeSliceRequest i)
    ++ (indicesOf s.requests (fun r => backoffOver s r.resendAt)).map (fun i => .backoffResend (.request i))
    ++ (List.range s.carries.length).map (fun i => .carryArrival i)
    ++ (List.range s.acceptances.length).map (fun i => .acceptancePacketArrival i)
    ++ (List.range s.replies.length).map (fun i => .queryReplyArrival i)
    ++ (s.port.tx.filter (fun x => backoffOver s x.resendAt)).map (fun x => .backoffResend (.flow x.key))
    ++ s.port.rx.map (fun x => .ackTimer x.key) ++ s.port.tx.map (fun x => .retransmitTimeout (.flow x.key))
    ++ (indicesOf s.chains.toList (fun l => backoffOver s l.resendAt)).map (fun n => .backoffResend (.chain (BitVec.ofNat 3 n)))
    ++ (indicesOf s.chains.toList (fun l => !l.window.isEmpty)).map (fun n => .retransmitTimeout (.chain (BitVec.ofNat 3 n)))

/-- Invalidations and moves in progress, and the bring-up (R68, R122, R123, R470). -/
def firmwareEvents (s : State) : List Instr :=
  s.shootdowns.flatMap (fun x =>
    x.unreached.map (fun c => .shootdownInvalidation c x.old.tenant x.old.context x.old.vpage)
      ++ x.unacked.map (fun c => .shootdownAck c))
    ++ whenDue s.moves[0].isSome (.derailleurHold false) ++ whenDue s.moves[1].isSome (.derailleurHold true)
    ++ whenDue (bootDue s) (.powerUp (s.mgmt.boot.stage + 1))

/-- The cores that hold an item, or whose switch is wanted. -/
def busyCores (s : State) : List (BitVec 8) :=
  (((allSlots s).filter (fun t => t.item.isSome)).map (fun t => t.id.core)
    ++ (s.cores.filter (fun p => p.2.wants)).map (fun p => BitVec.ofNat 8 p.1)).eraseDups

/-- Slot switches and saved items (R209, R404, R410, R424, R437, R439, R441). -/
def schedulerEvents (s : State) : List Instr :=
  let dies : List (BitVec 2) := [0, 1, 2, 3]
  (s.queues.flatMap (fun p => (p.2.launches.filter launchDone).map (fun l => (BitVec.ofNat 6 p.1, l.ordinal)))).map
      (fun x => .launchCompletion x.1 x.2)
    ++ (busyCores s).flatMap (fun c =>
      whenDue (blockedTrigger s c) (.blockedSwitchTrigger c) ++ whenDue (priorityTrigger s c) (.prioritySwitchTrigger c)
        ++ whenDue (timeSliceTrigger s c) (.timeSliceSwitchTrigger c) ++ whenDue (switchDue s c) (.slotSwitch c))
    ++ (List.range s.saved.length).map (fun i => .heldCompletion i)
    ++ dies.flatMap (fun d =>
      whenDue ((reservationNext s d.toNat).isSome) (.troupeReservation d)
        ++ whenDue ((reservationLate s d.toNat).isSome) (.reservationPreempt d))
    ++ (indicesOf s.saved (fun _ => true)).map (fun i => .restore i)

/-- The walkers, which act last in a cc, the lower-numbered die first (R408, R411). -/
def walkerEvents (s : State) : List Instr :=
  ([0, 1, 2, 3] : List (BitVec 2)).flatMap (fun d => whenDue (walkerDue s d.toNat) (.walkerStep d))

/-- Whether an event changes the state, or stops the machine. -/
def acts (s : State) (i : Instr) : Bool :=
  match exec i s with
  | .next s' => decide (s' ≠ s)
  | _ => true

/-- The events that may be due now: those of slots, the turn's slot first, then messages, then the streams, then firmware and
the scheduler. -/
def dueEvents (s : State) : List Instr :=
  (allSlots s).flatMap (slotEvents s) ++ messageEvents s ++ kvEvents s ++ firmwareEvents s
    ++ (allSlots s).flatMap (streamEvents s) ++ schedulerEvents s ++ walkerEvents s

/-! ## The order within a cc

A cc goes through ten stages (R46, R47, R422; log 69): 0 engine writes and all that reads no bank; 1 STFE to own banks, and SYSWR
of a BFMT (R41); 2 writes to the banks of other troupe members; 3 FESET and FECLR; 4 the matrix stream; 5 the copy stream and
the reads of engines; 6 the control stream; 7 reads and other accesses to the banks of troupe members; 8 retirement,
switches and restores; 9 the walkers. -/

/-- The stage of a copy operation's next step: what is read is written in stage 0 or 2 of a later cc. -/
def copyStage (o : Op) : Nat :=
  match o.work with
  | .copy fill b .. =>
    if o.staged.isSome || !copyReads fill b then (if b.dkind = 2 then 2 else 0)
    else if !fill && b.skind = 2 then 7 else 5
  | .fifo .. => 5
  | .net b .. => if !b.get && b.lkind = 1 then 5 else 0
  | _ => 0

/-- The stage in which an operation completes, by what its completion empties. -/
def completeStage (w : Work) : Nat :=
  match w with
  | .matrix .. => 4
  | .copy .. => 5
  | .fifo .. => 5
  | .net .. => 5
  | .end_ => 5
  | _ => 0

/-- The stage of an engine step that reads banks until it has what it needs. -/
def readStage (ready : Bool) : Nat := if ready then 0 else 5

/-- The operation of a slot that an event names. -/
def eventOp (s : State) (c : SlotId) (q : BitVec 4) (n : Nat) : Option (Slot × Op) :=
  (slotOf s c).bind (fun t => (opNumbered t q n).map (fun o => (t, o)))

/-- Whether the next step of a slot's scan reads no source. -/
def scanWrites (s : State) (c : SlotId) : Bool :=
  match (slotOf s c).bind (scanRunning s) with
  | some o => o.staged.isSome
  | none => true

/-- Whether the next step of a troupe's SCAN reads no source. -/
def hubWrites (s : State) (c : SlotId) : Bool :=
  match (slotOf s c).bind (scanMembers s) with
  | some ms => (scanFault ms).isSome || scanTaken ms
  | none => true

/-- Whether a KV operation that arrives has its token or hash. -/
def kvHasData (s : State) (die : Bool) (i : Nat) : Bool :=
  match ((s.kv[if die then (1 : Fin 2) else 0]).arrivals[i]?).bind (refOp s) with
  | some (_, o) => (match o.work with | .kv r _ => (kvData o r).isSome | _ => true)
  | none => true

/-- The stage of a cc in which an event comes. A stream goes on in any. -/
def eventStage (s : State) (i : Instr) : Nat :=
  match i with
  | .copyElement c q n => (match eventOp s c q n with | some x => copyStage x.2 | none => 0)
  | .recordComplete c q n => (match eventOp s c q n with | some x => completeStage x.2.work | none => 0)
  | .gatherLineReply c q n => readStage (match eventOp s c q n with | some x => (gatherNow s x.1 x.2 false).isSome | none => true)
  | .scanComplete c => readStage (scanWrites s c)
  | .scanHubCombine c => readStage (hubWrites s c)
  | .kvopenAtSlice0 d i => readStage (kvHasData s d i)
  | .kvOperationPerform d i => readStage (kvHasData s d i)
  | .queryEntryEnqueue d i =>
    readStage (match (s.kv[if d then (1 : Fin 2) else 0]).queries[i]? with | some a => a.payload.isSome | none => true)
  | .queryReplyArrival i => readStage (match s.replies[i]? with | some r => r.sent.isSome | none => true)
  | .streamUnblock .. => s.stage
  | .waitReturn _ => 6
  | .waitTimeout _ => 6
  | .asyncEventTake _ => 6
  | .itemRetire _ => 8
  | .launchCompletion .. => 8
  | .blockedSwitchTrigger _ => 8
  | .prioritySwitchTrigger _ => 8
  | .timeSliceSwitchTrigger _ => 8
  | .slotSwitch _ => 8
  | .heldCompletion _ => 8
  | .troupeReservation _ => 8
  | .reservationPreempt _ => 8
  | .restore _ => 8
  | .walkerStep _ => 9
  | _ => 0

/-! ## Issues -/

/-- The turn passed to another slot; a place without an item or a cache leaves the state. -/
def giveTurn (s : State) (t : Slot) : State :=
  let others := s.rest.filter (fun x => x.id ≠ t.id)
  { s with cur := t, rest := if keepsSlot s.cur then s.cur :: others else others }

/-- Whether a record that has been fetched breaks the rule of its op for the formats of the banks that it names (R246, cause 6):
rows of a drain nearer than their bytes (R359), packed rows that do not fill bytes (R386). -/
def recordForbidden (s : State) (i : Instr) : Bool :=
  match i with
  | .mxdrain _ b =>
    let fmt := bankFmt s.cur b.dst.toNat
    (match bankClass fmt with | .elem .. => decide (b.rstride.toNat < drainRowBytes b fmt) | _ => false)
  | .cpy _ b =>
    (b.dkind = 1 || b.dkind = 2) && (b.skind = 1 || b.skind = 2)
      && (match namedFmt s s.cur b.dkind b.doff.toNat, namedFmt s s.cur b.skind b.soff.toNat with
        | .ok fd, .ok fs => (match pairMode fd fs with
          | .ok (some m) => decide ((b.n1.toNat + 1) * m.1.2 % 8 ≠ 0 ∨ (b.n1.toNat + 1) * m.2.2 % 8 ≠ 0)
          | _ => false)
        | _, _ => false)
  | _ => false

/-- What a stream of the slot in turn issues next, or the fault of its fetch. -/
def streamInstr (s : State) (st : StreamId) : Except FaultInfo Instr :=
  match st with
  | .control => fetchCtl s
  | _ =>
    match fetchStream s (decide (st = .matrix)) with
    | .ok i => if recordForbidden s i then .error { code := 0x02, sub := 6 } else .ok i
    | .error f => .error f

/-- Whether an instruction or record uses the slot's translation cache or tests a handle (R422). -/
def testsHandle (i : Instr) : Bool :=
  match i with
  | .ld o => !memBankBase o
  | .st o => !memBankBase o
  | .stT o => !memBankBase o
  | .ldv o => !memBankBase o
  | .stv o => !memBankBase o
  | .atom o => !memBankBase o
  | .cas o => !memBankBase o
  | .xchg o => !memBankBase o
  | .cinv o => !memBankBase o
  | .cwb o => !memBankBase o
  | .pref o => !memBankBase o
  | .xlat _ => true
  | .hinfo _ => true
  | .bararr _ => true
  | .barexp _ => true
  | .gather _ => true
  | .launch _ => true
  | .sopset _ => true
  | .sspill _ => true
  | .sfill _ => true
  | .wait _ => true
  | .mxsave .. => true
  | .mxrest .. => true
  | .cpy h b => b.dkind = 0 || b.skind = 0 || h.cbv
  | .cpyfill h b => b.dkind = 0 || h.cbv
  | .cpyind _ _ => true
  | .cpynet h b => b.lkind = 0 || h.cbv
  | i => (headOf i).cbv

/-- Whether a stream of the slot in turn has lost the handle tests of this cc to another, and tries again in the next
(R422). -/
def losesTest (s : State) (st : StreamId) : Bool :=
  s.cur.tested && (match streamInstr s st with | .ok i => testsHandle i | .error _ => false)

/-- Whether an instruction of the slot in turn is a troupe request: it changes the storage of another member (R28, R47). -/
def asksMember (s : State) (i : Instr) : Bool :=
  troupeSize s.cur ≠ 0 && (match exec i s with | .next s' => s'.rest ≠ s.rest | _ => false)

/-- The stage in which the control stream of the slot in turn issues. -/
def ctlStage (s : State) : Nat :=
  match fetchCtl s with
  | .error _ => 6
  | .ok i =>
    match i with
    | .stfe _ => if asksMember s i then 2 else 1
    | .syswrBfmt _ => 1
    | .feset _ => 3
    | .feclr _ => 3
    | i => if asksMember s i then 7 else 6

/-- The stream that issues in a stage. -/
def stageStream (k : Nat) : StreamId := if k = 4 then .matrix else if k = 5 then .copy else .control

/-- Whether the slot in turn issues something in a stage. -/
def issuesAt (s : State) (k : Nat) : Bool :=
  let st := stageStream k
  mayIssue s st && !losesTest s st && (st ≠ .control || ctlStage s = k)

/-- The slots that issue something in a stage, the one in turn first. -/
def issuers (s : State) (k : Nat) : List Slot :=
  (if issuesAt s k then [s.cur] else []) ++ s.rest.filter (fun t => issuesAt (giveTurn s t) k)

/-! ## Turns -/

/-- What a step does next. -/
inductive Turn where
  /-- The next event that the agenda lists. -/
  | listed (i : Instr) (rest : List Instr)
  /-- Nothing: the package has no power. -/
  | dark
  /-- An internal event, in a stage of the cc. -/
  | event (stage : Nat) (i : Instr)
  /-- The next issue of a stream of the slot in turn, in a stage of the cc. -/
  | stream (stage : Nat) (st : StreamId)
  /-- The turn goes to another slot. -/
  | pass (t : Slot)
  /-- The cc is over. -/
  | tick
  deriving DecidableEq, Repr

/-- The first of a list by a number. -/
def leastBy {α : Type} (f : α → Nat) (xs : List α) : Option α :=
  xs.foldl (fun m x => match m with
    | some y => if f x < f y then some x else some y
    | none => some x) none

/-- The rank of the slot that an event of a copy belongs to. -/
def eventRank (s : State) (i : Instr) : Nat :=
  match i with
  | .copyElement c _ _ => (match slotOf s c with | some t => troupeRank t | none => 0)
  | _ => 0

/-- The issue of a slot in a stage: its turn comes first. -/
def issueOf (s : State) (k : Nat) (t : Slot) : Turn := if t.id = s.cur.id then .stream k (stageStream k) else .pass t

/-- What a stage of the cc still does, if anything: its events, then its issues; troupe requests in ascending rank (R47). -/
def stageTurn (s : State) (due : List Instr) (k : Nat) : Option Turn :=
  let now := due.filter (fun i => eventStage s i = k)
  if k = 2 ∨ k = 7 then
    match leastBy (eventRank s) (now.filter (acts s)), leastBy troupeRank (issuers s k) with
    | some i, some t => if eventRank s i ≤ troupeRank t then some (.event k i) else some (issueOf s k t)
    | some i, none => some (.event k i)
    | none, t => t.map (issueOf s k)
  else
    match now.find? (acts s) with
    | some i => some (.event k i)
    | none => (issuers s k).head?.map (issueOf s k)

/-- What a step does next: the agenda comes first, then the stages of the cc from the present one on. -/
def nextTurn (s : State) : Turn :=
  match s.agenda with
  | i :: rest => .listed i rest
  | [] =>
    if !s.mgmt.powered then .dark
    else
      let due := dueEvents s
      (((List.range 10).drop s.stage).findSome? (stageTurn s due)).getD .tick

/-! ## The end of a cc -/

/-- Whether every running stream of a slot is blocked (R209). -/
def allBlocked (s : State) (t : Slot) : Bool :=
  t.answer.isSome || t.saving || ((!t.ctl.running || t.ctl.blocked.isSome) && (!t.mx.running || recordStuck s t true)
    && (!t.cp.running || recordStuck s t false))

/-- A slot at the end of a cc: its streams have a turn again, latencies run, and the counts of R209 and R424 go on. -/
def slotTick (s : State) (t : Slot) : Slot :=
  let again (x : Stream) : Stream := { x with issued := false, hold := x.hold - 1 }
  let active := isActive s t.id
  { t with
    ctl := again t.ctl, mx := again t.mx, cp := again t.cp
    settling := (t.settling.map (fun x => { x with left := x.left - 1 })).filter (fun x => 0 < x.left)
    blockedFor := if active && t.item.isSome && allBlocked s t then t.blockedFor + 1 else 0
    copied := t.copied - 512, tested := false
    readyFor := if !active && slotReady s t then t.readyFor + 1 else 0 }

/-- The end of a cc: what its events end ends (R429), saves that waited are made (R437), KVCLOSE destroys its next domain (R486),
and the next cc begins with the blocks that the array units write in it (R46, R348). -/
def endCycle (s : State) : State :=
  let s := ((allSlots s).map (fun t => t.id)).foldl endSlot s
  let s := noteHolds (closeDomains (finishSaves s))
  let s := restWalkers (noteUnplaceable s)
  moveBlocks { mapSlots s (slotTick s) with cycle := s.cycle + 1, stage := 0 }

/-! ## Issuing -/

/-- A stream of the slot in turn that issues nothing in this cc. -/
def holdStream (s : State) (st : StreamId) : State := onCur s (fun t => modStream t st (fun x => { x with issued := true }))

/-- The state in which an instruction that has been fetched executes: the handle tests of the cc are taken, if it makes any
(R422). -/
def issuing (s : State) (i : Instr) : State := if testsHandle i then onCur s (fun t => { t with tested := true }) else s

/-- The site of a fault of a stream's fetch. -/
def streamSite (s : State) (st : StreamId) : Site := if st = .control then fetchSite s else recSite s (decide (st = .matrix))

/-- The offset to which a handler of a stream's fetch fault returns. -/
def streamLink (s : State) (st : StreamId) : Word := if st = .control then codeOff s else 0

/-- The next issue of a stream of the slot in turn. An instruction or record whose fetch or decode fails raises its fault
(R231, R246); one whose code line is on the move waits (R68, R232). -/
def issueStream (s : State) (st : StreamId) : Host.Outcome State Fault Refusal :=
  match fetched s st with
  | none => .next (holdStream s st)
  | some s =>
    match streamInstr s st with
    | .ok i => exec i (issuing s i)
    | .error f => .next (takeFault s (streamSite s st) f (streamLink s st))

/-- Of an issue in a cc in which the slot's launch already ends, only the events count (R429, R430). -/
def endingIssue (s : State) (st : StreamId) (r : Host.Outcome State Fault Refusal) : Host.Outcome State Fault Refusal :=
  match r with
  | .next s' =>
    .next (onCur s (fun t => modStream { t with ending := s'.cur.ending } st (fun x => { x with issued := true })))
  | r => r

/-- The issue of a stream in a stage of the cc. -/
def issueTurn (s : State) (st : StreamId) : Host.Outcome State Fault Refusal :=
  if s.cur.ending.isEmpty then issueStream s st else endingIssue s st (issueStream s st)

end Sys2Proof.Machine
end

