-- ==== Sys2Proof/Machine/Step.lean ====
section
/-! DEFINITION. One step of the package: an event, the issue of a stream, the turn passed to another slot, or the end of the
cc. -/

namespace Sys2Proof.Machine

/-- One step. -/
def step (s : State) : Host.Outcome State Fault Refusal :=
  match nextTurn s with
  | .listed i rest => exec i { s with agenda := rest }
  | .dark => .fault .unpowered
  | .event k i => exec i { s with stage := k }
  | .stream k st => issueTurn { s with stage := k } st
  | .pass t => .next (giveTurn s t)
  | .tick => .next (endCycle s)

/-- The state in which the next step fetches and runs exactly the instruction of an opcode-table row. -/
def State.withFetchWord (s : State) (nbits w : Nat) : State :=
  let record := decide (nbits ≥ 512)
  let bs := if record then bytesOf 64 w else bytesOf 12 (w % 2 ^ nbits)
  placeProgram s bs record (record && decide (w % 256 < 0x40))
    (!record && (match decodeBytes .compute bs with | .error 6 => true | _ => false))

end Sys2Proof.Machine
end

