-- ==== Sys2Proof/Safety.lean ====
section
/-! DEFINITION. What counts as a safe state, and the terms in which claims are stated: reads of one byte, and what an
instruction may have changed when it completes. -/

namespace Sys2Proof

open Machine

/-- The memory keeps its canonical form. -/
def Memory.wf (m : List Host.Cell) : Bool := swf 0 m

/-- A slot keeps its canonical forms and its hard-wired register (R234). -/
def slotSafe (t : Slot) : Bool :=
  swf 0 t.banks && swf true t.empty && swf 0 t.z && swf {} t.ztag && !t.gEmpty.getLsbD 0

/-- A safe state: memory and every slot, that of a saved item too. -/
def safe (s : State) : Bool :=
  Memory.wf s.mem && (allSlots s).all slotSafe && s.saved.all (fun x => slotSafe x.slot)

namespace Machine

/-! ## Reads of one byte -/

/-- One byte of LPDDR-5X at a package physical address (R471). -/
def memByte (s : State) (a : Nat) : Byte := sget 0 s.mem a

/-- One byte of a slot's scratchpad banks at a local address (R41). -/
def bankByte (t : Slot) (a : Nat) : Byte := sget 0 t.banks a

/-! ## What an instruction needs -/

/-- Power is on, and the destination is not the empty destination of an earlier deferred producer. -/
def writable (s : State) (o : Opnd) : Prop := s.mgmt.powered = true ∧ dstG s.cur o.d = .ok ()

/-- As `writable`, with source a full and settled: its value is `x`. -/
def reads1 (s : State) (o : Opnd) (x : Word) : Prop := writable s o ∧ srcG s.cur o.a o.feA = .ok x

/-- As `writable`, with sources a and b full and settled: their values are `x` and `y`. -/
def reads2 (s : State) (o : Opnd) (x y : Word) : Prop := reads1 s o x ∧ srcG s.cur o.b o.feB = .ok y

/-! ## What has changed -/

/-- Nothing differs but the general and vector registers with their full/empty bits, FLAGS, pending results and the
control stream of the slot that has the turn. -/
def regsOnly (s t : State) : Prop :=
  t = { s with cur := { s.cur with
    g := t.cur.g, gEmpty := t.cur.gEmpty, v := t.cur.v, vEmpty := t.cur.vEmpty, flags := t.cur.flags
    deferred := t.cur.deferred, settling := t.cur.settling, ctl := t.cur.ctl } }

/-- An instruction issues, the control stream goes on at the following instruction, and `P` holds of the state. -/
def completes (i : Instr) (s : State) (o : Opnd) (P : State → Prop) : Prop :=
  ∃ t, exec i s = .next t
    ∧ t.cur.ctl = { s.cur.ctl with
        pc := s.cur.ctl.pc + word (Fmt.bytes o.fmt), issued := true, hold := t.cur.ctl.hold }
    ∧ P t

/-- The state of a control stream that has gone on to the following instruction, with the slot as `c` has it. -/
def wentOn (s : State) (o : Opnd) (c : Slot) : State :=
  { s with cur := { c with
      ctl := { s.cur.ctl with pc := s.cur.ctl.pc + word (Fmt.bytes o.fmt), issued := true } } }

/-- The state after a fault with a code and an operand of R426 and R428 at a control-stream instruction. -/
def faults (i : Instr) (s : State) (o : Opnd) (code : BitVec 8) (operand : Word := 0) : Prop :=
  exec i s = .next (takeFault s (ctlSite s o) { code, operand } (codeOff s))

/-- General registers hold new values and are full; g0 holds 0 (R234); every other one is as it was. -/
def setsG (s t : State) (gs : List (BitVec 6 × Word)) : Prop :=
  (∀ p ∈ gs, gval t.cur p.1 = (if p.1 = 0 then 0 else p.2) ∧ gIsEmpty t.cur p.1 = false)
    ∧ ∀ r, (∀ p ∈ gs, p.1 ≠ r) → gval t.cur r = gval s.cur r ∧ gIsEmpty t.cur r = gIsEmpty s.cur r

/-- Vector registers hold new values and are full; every other one is as it was. -/
def setsV (s t : State) (vs : List (BitVec 5 × BitVec 4096)) : Prop :=
  (∀ p ∈ vs, vval t.cur p.1 = p.2 ∧ vIsEmpty t.cur p.1 = false)
    ∧ ∀ r, (∀ p ∈ vs, p.1 ≠ r) → vval t.cur r = vval s.cur r ∧ vIsEmpty t.cur r = vIsEmpty s.cur r

/-- Memory and the banks of the slot read as before. -/
def sameBytes (s t : State) : Prop :=
  (∀ a, memByte t a = memByte s a) ∧ ∀ a, bankByte t.cur a = bankByte s.cur a

/-- A byte of a metadata spill area (R64): that of a launch with a deterministic index, or of the slot's own launch. -/
def spillByte (s : State) (x : Nat) : Prop :=
  (∃ l ∈ detLaunches s, ∃ line a, launchSpill l line = some a ∧ a ≤ x ∧ x < a + 4)
    ∨ ∃ line a, inWindow s.cur line = true ∧ spillEntry s.cur line = some a ∧ a ≤ x ∧ x < a + 4

/-- Nothing differs but memory with its poison, the lines of the slices, their counters and the L1s. -/
def homeOnly (s t : State) : Prop :=
  t = { s with
    mem := t.mem, poison := t.poison, lines := t.lines, detWords := t.detWords, counters := t.counters, l1 := t.l1 }

/-- Memory reads as before, its poison too, but for conflict words that went to a spill area when their lines left a slice
(R64). -/
def sameMemory (s t : State) : Prop := t.poison = s.poison ∧ ∀ x, ¬ spillByte s x → memByte t x = memByte s x

/-- Memory holds new bytes at `pa`, where the granules covered whole lose their poison (R447), and reads as before elsewhere,
as `sameMemory` has it. -/
def storesMemory (s t : State) (pa : Nat) (bs : List Byte) : Prop :=
  t.poison = curePoison s.poison pa bs.length
    ∧ (∀ i, i < bs.length → memByte t (pa + i) = bs.getD i 0)
    ∧ ∀ x, (x < pa ∨ pa + bs.length ≤ x) → ¬ spillByte s x → memByte t x = memByte s x

/-- The bank bytes of a slot are new at `a`, where the granules covered whole lose their poison (R447), and read as before
elsewhere. -/
def storesBank (u u' : Slot) (a : Nat) (bs : List Byte) : Prop :=
  u'.poison = curePoison u.poison a bs.length ∧ ∀ x, bankByte u' x = if a ≤ x ∧ x < a + bs.length then bs.getD (x - a) 0 else bankByte u x

/-- Nothing differs but the bank bytes of some slots, with their poison, and, of every slot, the conflict words and pending
pairs. -/
def bankOnly (s t : State) (cs : List SlotId) : Prop :=
  t = { s with cur := t.cur, rest := t.rest }
    ∧ ∀ e u, slotOf s e = some u → ∃ u', slotOf t e = some u'
        ∧ u' = { u with conflict := u'.conflict, owners := u'.owners, det := u'.det, banks := u'.banks, poison := u'.poison }
        ∧ (¬ e ∈ cs → u'.banks = u.banks ∧ u'.poison = u.poison)

/-- From `s` the control stream has gone on to `t` with results in registers, which are full, and FLAGS bits raised, and
nothing else has changed. -/
def wrote (s t : State) (o : Opnd) (gs : List (BitVec 6 × Word)) (vs : List (BitVec 5 × BitVec 4096)) (fl : BitVec 6) :
    Prop :=
  t.cur.ctl = { s.cur.ctl with pc := s.cur.ctl.pc + word (Fmt.bytes o.fmt), issued := true, hold := t.cur.ctl.hold }
    ∧ regsOnly s t ∧ setsG s t gs ∧ setsV s t vs ∧ t.cur.flags = s.cur.flags ||| fl ∧ t.cur.deferred = s.cur.deferred
    ∧ sameBytes s t

/-- From `s` the control stream has gone on to `t` with the destinations empty and a producer pending that writes them
(R236), and nothing else has changed. -/
def deferredTo (s t : State) (o : Opnd) (gs : List (BitVec 6 × Word)) (vs : List (BitVec 5 × BitVec 4096))
    (fl : BitVec 6) (latency : Nat) : Prop :=
  t.cur.ctl = { s.cur.ctl with pc := s.cur.ctl.pc + word (Fmt.bytes o.fmt), issued := true }
    ∧ regsOnly s t
    ∧ (∀ r, gval t.cur r = gval s.cur r ∧ gIsEmpty t.cur r = (gIsEmpty s.cur r || gs.any (fun p => p.1 = r && r ≠ 0)))
    ∧ (∀ r, vval t.cur r = vval s.cur r ∧ vIsEmpty t.cur r = (vIsEmpty s.cur r || vs.any (fun p => p.1 = r)))
    ∧ t.cur.flags = s.cur.flags
    ∧ t.cur.deferred = s.cur.deferred ++ [{ gs := gs, vs := vs, flags := fl, due := s.cycle + latency }]
    ∧ sameBytes s t

/-- The end of an instruction marked L (R236): the results now, or under fe.d deferred. -/
def wroteLong (defer : Bool) (s t : State) (o : Opnd) (gs : List (BitVec 6 × Word))
    (vs : List (BitVec 5 × BitVec 4096)) (fl : BitVec 6) (latency : Nat) : Prop :=
  if defer then deferredTo s t o gs vs fl latency else wrote s t o gs vs fl

/-- An instruction completes with results in general registers and FLAGS bits raised, and changes nothing else. -/
def writesG (i : Instr) (s : State) (o : Opnd) (gs : List (BitVec 6 × Word)) (fl : BitVec 6 := 0) : Prop :=
  ∃ t, exec i s = .next t ∧ wrote s t o gs [] fl

/-- An instruction completes with results in vector registers and FLAGS bits raised, and changes nothing else. -/
def writesV (i : Instr) (s : State) (o : Opnd) (vs : List (BitVec 5 × BitVec 4096)) (fl : BitVec 6 := 0) : Prop :=
  ∃ t, exec i s = .next t ∧ wrote s t o [] vs fl

/-- An instruction completes with one result in general register `d`. -/
def writes1 (i : Instr) (s : State) (o : Opnd) (d : BitVec 6) (x : Word) (fl : BitVec 6 := 0) : Prop :=
  writesG i s o [(d, x)] fl

/-- An instruction marked L completes, now or deferred under fe.d, and changes nothing but its results. -/
def writesLong (i : Instr) (s : State) (o : Opnd) (gs : List (BitVec 6 × Word)) (fl : BitVec 6) (latency : Nat)
    (vs : List (BitVec 5 × BitVec 4096) := []) : Prop :=
  ∃ t, exec i s = .next t ∧ wroteLong o.feD s t o gs vs fl latency

/-! ## Vector groups -/

/-- The registers of a source group exist, are full and have settled. -/
def groupFull (s : State) (r : BitVec 6) (size : Nat) : Prop :=
  r.toNat + size ≤ 32
    ∧ ∀ i, i < size → vIsEmpty s.cur (vreg (r.toNat + i)) = false
        ∧ settled s.cur .v (vreg (r.toNat + i)).toNat = true

/-- The registers of a destination group exist, and no earlier deferred producer has still to write them. -/
def groupFree (s : State) (r : BitVec 6) (size : Nat) : Prop :=
  r.toNat + size ≤ 32 ∧ ∀ i, i < size → vIsEmpty s.cur (vreg (r.toNat + i)) = false

/-- Element `j` of width `w` of the group that starts at register `r` (R316). -/
def elemAt (s : State) (r : BitVec 6) (w j : Nat) : Nat :=
  elemOf w (vval s.cur (vreg (r.toNat + j / (4096 / w)))).toNat (j % (4096 / w))

/-- The second operand of a vector instruction: the group of b, or under .G the low bits of general register b. -/
def second (s : State) (o : Opnd) (size w : Nat) (scalar : Bool) (y : Nat → Nat) : Prop :=
  if scalar then ∃ g, srcG s.cur o.b o.feB = .ok g ∧ y = fun _ => g.toNat % 2 ^ w
  else groupFull s o.b size ∧ y = elemAt s o.b w

/-- An instruction completes with a group of `size` registers from field d written: element `j` of width `w` below `act`
takes `f j`; the others keep their values, or become 0 under .Z; the elements' flags are raised; nothing else changes. -/
def writesElems (i : Instr) (s : State) (o : Opnd) (size w act : Nat) (zero defer : Bool) (f : Nat → Nat × BitVec 6)
    (latency : Nat) : Prop :=
  ∃ t vs, exec i s = .next t
    ∧ wroteLong defer s t o [] vs ((List.range act).foldl (fun fl j => fl ||| (f j).2) 0) latency
    ∧ vs.map (fun p => p.1) = (List.range size).map (fun i => vreg (o.d.toNat + i))
    ∧ ∀ k p, vs[k]? = some p → ∀ e, e < 4096 / w →
        elemOf w p.2.toNat e = if k * (4096 / w) + e < act then (f (k * (4096 / w) + e)).1 % 2 ^ w
          else if zero then 0 else elemOf w (vval s.cur p.1).toNat e

/-! ## Engine operations -/

/-- Field c names a counter that an instruction may issue on: below nctr, and no target of a binding (R208, R304). -/
def counterFree (s : State) (o : Opnd) : Prop :=
  o.c.toNat < recNctr s.cur.record ∧ s.cur.q[(o.c.setWidth 4).toFin].boundBy = none

/-- A slot with one more operation on a counter: it takes the number after the counter's issue count (R182). -/
def withOp (t : Slot) (q : BitVec 4) (op : Op) : Slot :=
  let c := t.q[q.toFin]
  { t with q := t.q.set q.toFin { c with issued := c.issued + 1 }
           ops := t.ops ++ [{ op with id := t.nextOp, q := some q, num := c.issued.toNat + 1 }]
           nextOp := t.nextOp + 1 }

/-- The granules of some ranges of local addresses are empty, and every other granule is as it was. -/
def emptied (t : Slot) (e : Sparse Bool) (rs : List (Nat × Nat)) : Prop :=
  ∀ g, sget true e g =
    (granuleFull t g && !rs.any (fun r => decide (r.1 / 16 ≤ g) && decide (g < (r.1 + r.2 + 15) / 16)))

/-- An instruction issues an engine operation on the counter of field c and goes on; the granules of `rs` become empty;
nothing else differs from `s'`. -/
def issuesOn (s' : State) (i : Instr) (s : State) (o : Opnd) (w : Work) (rs : List (Nat × Nat)) (due : Nat := 0) : Prop :=
  ∃ e, emptied s.cur e rs
    ∧ exec i s = .next (wentOn s' o { withOp s.cur (o.c.setWidth 4)
        { id := 0, source := 3, coff := (ctlSite s o).coff, due := due, work := w } with empty := e })

/-- As `issuesOn`, where nothing outside the slot changes. -/
def issuesOp (i : Instr) (s : State) (o : Opnd) (w : Work) (rs : List (Nat × Nat)) : Prop := issuesOn s i s o w rs

/-! ## Records -/

/-- What a matrix record captures at issue (R38, R41, R119, R355). -/
def matrixCap (s : State) (i : Instr) (use : Option Capture) : RecCapture :=
  { mode := s.cur.mode
    fmts := match i with
      | .mxdrain _ b => [bankFmt s.cur b.dst.toNat]
      | _ => []
    handles := use.toList
    cs := match recFifo i with
      | some f => s.cur.fifos[f.toFin].issuedC
      | none => 0
    row := 1 }

/-- A matrix record issues in the present cc (R184, R340, R346 to R351): its target cc has come, and in a STRICT launch is
the present one; its counter, operands, unit, tiles and handles are ready, and every earlier operation of its counter has
been performed on the granules that it touches. -/
def matrixReady (s : State) (i : Instr) (bar : Option Nat) (use : Option Capture) : Prop :=
  let h := headOf i
  s.mgmt.powered = true ∧ mxTarget s.cur h ≤ s.cycle ∧ (isStrict s.cur = true → mxTarget s.cur h = s.cycle)
    ∧ h.q.toNat < recNctr s.cur.record ∧ s.cur.q[h.q.toFin].boundBy = none
    ∧ emptyOperand s s.cur i h = none ∧ mxClear s.cur i s.cycle = true ∧ mxUses s.cur i = .ok (bar, use)
    ∧ orderFree s.cur h.q (touches s.cur (.matrix i (matrixCap s i use) s.cycle 0 false)) = true

/-- The state after the slip of a late record (R351): SB moves by the lateness, and SLIPS counts one. -/
def slipped (s : State) (i : Instr) : State :=
  let n := s.cycle - mxTarget s.cur (headOf i)
  { s with cur := { s.cur with
      time := { s.cur.time with sb := s.cur.time.sb + word n }
      slips := if 0 < n ∧ s.cur.slips ≠ BitVec.allOnes 32 then s.cur.slips + 1 else s.cur.slips } }

/-- A matrix record has issued, its own effect having left `t`: one more operation on its counter, and the stream is at
the following record. -/
def issuesMatrix (i : Instr) (s t : State) (bar : Option Nat) (fl : BitVec 6) (w : Work) : Prop :=
  let u := withOp { t.cur with time := { t.cur.time with late := false, lastIssue := s.cycle } } (headOf i).q
    { id := 0, source := 1, coff := (recSite s true).coff, barrier := bar, barrierOff := 16 * (headOf i).cboff.toNat
      flags := fl, wrote := match i with
        | .mxsave .. => true
        | _ => false
      work := w }
  exec i s = .next { t with cur := { u with mx := { u.mx with issued := true, pc := u.mx.pc + 64 } } }

/-- A record raises a fault at issue (R245, R426), under the number that it has on its counter (R427). -/
def recordFaults (i : Instr) (s : State) (matrix : Bool) (f : FaultInfo) : Prop :=
  exec i s = .next (recordFault s matrix (headOf i) f)

/-- A copy record issues in the present cc (R243, R244): its stamp has come, its counter is its own, and its barrier's
handle is usable. -/
def copyReady (s : State) (h : RecHead) (bar : Option Nat) : Prop :=
  s.mgmt.powered = true ∧ (h.stv = true → (s.cur.stampb + h.stamp.setWidth 64).toNat ≤ s.cycle)
    ∧ h.q.toNat < recNctr s.cur.record ∧ s.cur.q[h.q.toFin].boundBy = none ∧ recBarrier s.cur h = .ok bar

/-- A copy record has issued, its own effect having left `t`. -/
def issuesCopy (i : Instr) (s t : State) (bar : Option Nat) (w : Work) : Prop :=
  let u := withOp t.cur (headOf i).q
    { id := 0, source := 2, coff := (recSite s false).coff, barrier := bar, barrierOff := 16 * (headOf i).cboff.toNat
      work := w }
  exec i s = .next { t with cur := { u with cp := { u.cp with issued := true, pc := u.cp.pc + 64 } } }

/-! ## The copy engine -/

/-- `n` bytes at a place. -/
def placeBytes (s : State) (p : Place) (n : Nat) : List Byte :=
  (List.range n).map (fun i => match p with
    | .mem pa _ => memByte s (pa + i)
    | .bank c a _ => (match slotOf s c with | some u => bankByte u (a + i) | none => 0))

/-- An engine of slot `t` reads `n` bytes at a place now: no wait, no refusal and no poison (R45, R68, R127, R448). Bytes of
memory are none of a metadata spill area, which another access may change. -/
def engineReads (s : State) (t : Slot) (p : Place) (n : Nat) (mem : Bool) : Prop :=
  match p with
  | .mem pa _ => needReleased s (dieOf t.id.core) (linesOf pa n) = .ok ()
      ∧ refusedByte s t pa (linesOf pa n) rightRead mem = none ∧ poisoned s pa n = false
      ∧ ∀ i, i < n → ¬ spillByte s (pa + i)
  | .bank c a _ => ∃ u, slotOf s c = some u ∧ firstEmpty u a n = none ∧ bankPoisoned u a n = false

/-- An engine of slot `t` writes `n` bytes at a place now. -/
def engineStores (s : State) (t : Slot) (p : Place) (n : Nat) (mem : Bool) : Prop :=
  match p with
  | .mem pa _ => needReleased s (dieOf t.id.core) (linesOf pa n) = .ok ()
      ∧ refusedByte s t pa (linesOf pa n) rightWrite mem = none
  | .bank .. => True

/-- Two ranges at places have no byte in common. -/
def apart (p : Place) (n : Nat) (q : Place) (m : Nat) : Prop :=
  match p, q with
  | .mem a _, .mem b _ => a + n ≤ b ∨ b + m ≤ a
  | .bank c a _, .bank e b _ => c ≠ e ∨ a + n ≤ b ∨ b + m ≤ a
  | _, _ => True

/-- Bytes have gone to a place; no other byte of memory or of a bank differs, and of the slots nothing else but granules,
operations and what the copy engine has moved in the cc. -/
def landsAt (s s' : State) (p : Place) (bs : List Byte) : Prop :=
  s' = { s with
      mem := s'.mem, poison := s'.poison, lines := s'.lines, detWords := s'.detWords, counters := s'.counters
      cur := s'.cur, rest := s'.rest }
    ∧ (match p with
       | .mem pa _ => storesMemory s s' pa bs
       | .bank .. => sameMemory s s')
    ∧ ∀ e u, slotOf s e = some u → ∃ u', slotOf s' e = some u'
        ∧ u' = { u with banks := u'.banks, poison := u'.poison, empty := u'.empty, ops := u'.ops, copied := u'.copied }
        ∧ match p with
          | .mem .. => u'.banks = u.banks ∧ u'.poison = u.poison
          | .bank c a _ => if e = c then storesBank u u' a bs else u'.banks = u.banks ∧ u'.poison = u.poison

/-- What an operation of slot `t` has become, with the bits that the engine has moved for it; no other slot's operations
differ. -/
def opBecomes (s s' : State) (t : Slot) (o o' : Op) (moved : Nat) : Prop :=
  ∀ e u, slotOf s e = some u → ∃ u', slotOf s' e = some u'
    ∧ u'.ops = (if e = t.id then u.ops.map (fun x => if x.id = o.id then o' else x) else u.ops)
    ∧ u'.copied = u.copied + (if e = t.id then moved else 0)

/-- One transfer of a copy record lands at a place: the codes `vs` of the elements from `k` on, packed from the bit at which
the first one begins (R40), the bits about them as they were; a granule becomes full with the last byte that the record writes
in it (R44, R387); what the record has read under cor is kept for its completion. -/
def transferLands (s s' : State) (t : Slot) (o : Op) (fill : Bool) (b : CpyBody) (cap : RecCapture) (cor : Bool) (k : Nat)
    (read : List Nat) (w : Staged) (vs : List Nat) (p : Place) (moved : Nat) : Prop :=
  let db := dstBits cap
  let d := cpyDst b db k w.ix
  let phase := (cpyIndex b k).1 * db % 8
  let last := phase + vs.length * db
  let len := (last + 7) / 8
  let key (g : Nat) : Nat := if b.dkind = 2 then g + 2 ^ 18 * (d.toNat / 2 ^ 22 + 1) else g
  let old : Nat := match p with
    | .mem .. => 0
    | .bank .. => leNat (placeBytes s p len)
  ∃ bs : List Byte, bs.length = len ∧ landsAt s s' p bs
    ∧ (∀ x, x < 8 * len → (leNat bs).testBit x =
        if phase ≤ x ∧ x < last then (vs.getD ((x - phase) / db) 0).testBit ((x - phase) % db) else old.testBit x)
    ∧ (∃ r, (∀ g, g ∈ r ↔ g ∈ read ∨ cor = true ∧ g ∈ w.src)
        ∧ opBecomes s s' t o { o with
            flags := o.flags ||| w.flags, wrote := o.wrote || decide (b.dkind = 0), staged := none
            work := .copy fill b cap cor (k + vs.length) r [] } moved)
    ∧ ∀ e u, slotOf s e = some u → ∃ u', slotOf s' e = some u' ∧ ∀ g, granuleFull u' g = (granuleFull u g ||
        match p with
        | .mem .. => false
        | .bank c a _ => decide (c = e) && (granulesOf a len).contains g && !writtenLater t b db (k + vs.length) (key g))

/-! ## Package events -/

/-- The state slots of `u` are those of `t` through the cipher engines, as a save enciphers and a restore deciphers them (R440): by
the tag's keys, with the item's serial and the state slot in the tweak; zero where the tag's handle is dead (R133); as they were
where the tag names no key. -/
def ciphered (s : State) (encrypt : Bool) (serial : Nat) (t u : Slot) : Prop :=
  ∀ z : BitVec 6,
    let g := zTag t z
    let raw := zRead t z 0 stateBytes
    let k := keyOf s g.kdh
    zRead u z 0 stateBytes =
      if g.state ≠ tagBound ∨ g.kdh = 0 then raw
      else if handleDead s g.kdh then List.replicate stateBytes 0
      else xtsUnits encrypt k.k1 k.k2 g.kdh (word (2 ^ 63 + 64 * serial + z.toNat)) 0 raw

/-- The tags of a slot are in canonical form, of the 64 state slots. -/
def tagsSafe (t : Slot) : Prop := swf {} t.ztag = true ∧ ∀ p ∈ t.ztag, p.1 < 64

/-- A slot whose item a pre-emption saves in the cc in which it stops it: nothing has to be finished first, and its context has a
save area. -/
def savable (s : State) (t : Slot) : Prop :=
  t.saving = false ∧ t.ending = [] ∧ t.wait = none ∧ producersDone t = true ∧ tagsSafe t
    ∧ (∀ u ∈ s.barriers, sameItem u.issuer (refOf t 0) = false) ∧ freeAreas s t ≠ 0

/-- The item of slot `t` is saved in a save area (R438 to R440), under the next serial of its die; its slot is free. -/
def savesItem (s r : State) (t : Slot) : Prop :=
  let n : Fin 2 := if dieOf t.id.core % 2 = 1 then 1 else 0
  ∃ y, r.saved = s.saved ++ [y] ∧ r.mem = s.mem
    ∧ y.since = s.cycle ∧ y.serial = s.saveSerial[n] ∧ r.saveSerial[n] = (s.saveSerial[n] + 1) % 2 ^ 48
    ∧ freeAreas r t = freeAreas s t - 1 ∧ (∀ u, slotOf r t.id = some u → u.item = none)
    ∧ ciphered s true y.serial t y.slot
    ∧ y.slot = { t with
        z := y.slot.z, ztag := y.slot.ztag, time := y.slot.time, ops := y.slot.ops, h := y.slot.h
        walks := [], cache := [], blockedFor := 0, readyFor := 0, copied := 0 }

/-- The management requests, with the frames in which they come and their codes (R458). -/
def requestOf (i : Instr) : Option (MgmtHead × BitVec 8) :=
  match i with
  | .mgmtSetDevid m _ => some (m, 0x01)
  | .mgmtWritePseed m _ => some (m, 0x02)
  | .mgmtTenant m .. => some (m, 0x03)
  | .mgmtAssignQueue m .. => some (m, 0x04)
  | .mgmtAccessTable m .. => some (m, 0x05)
  | .mgmtCreateContext m .. => some (m, 0x06)
  | .mgmtPageFaultAnswer m .. => some (m, 0x07)
  | .mgmtPreempt m .. => some (m, 0x08)
  | .mgmtLoadObject m .. => some (m, 0x09)
  | .mgmtAttestation m .. => some (m, 0x0A)
  | .mgmtPowerCap m _ => some (m, 0x0B)
  | .mgmtPackageReset m => some (m, 0x0C)
  | .mgmtMapPages m .. => some (m, 0x0D)
  | .mgmtMigrate m .. => some (m, 0x0E)
  | .mgmtQueryQueue m .. => some (m, 0x0F)
  | .mgmtLinkParameters m .. => some (m, 0x10)
  | .mgmtPinPartition m _ => some (m, 0x11)
  | .mgmtSpillGrant m _ => some (m, 0x12)
  | .mgmtSigningKeys m .. => some (m, 0x13)
  | _ => none

/-- An event changes one slot to `u`, from a state `s'`, and nothing else. -/
def slotBecomesFrom (s' : State) (i : Instr) (s : State) (c : SlotId) (u : Slot) : Prop :=
  ∃ f : Slot → Slot, exec i s = .next (modSlot s' c f) ∧ ∀ t, slotOf s' c = some t → f t = u

/-- An event changes one slot to `u`, and nothing else. -/
def slotBecomes (i : Instr) (s : State) (c : SlotId) (u : Slot) : Prop := slotBecomesFrom s i s c u

/-- As `setsG` and `setsV`, for a slot before and after. -/
def slotSets (t u : Slot) (gs : List (BitVec 6 × Word)) (vs : List (BitVec 5 × BitVec 4096)) : Prop :=
  setsG { cur := t } { cur := u } gs ∧ setsV { cur := t } { cur := u } vs

end Machine

end Sys2Proof
end

