-- ==== Sys2Proof/WellFormed.lean ====
section
/-! DEFINITION. Well-formed instructions: those that some encoding stands for (R227 to R246). Package events have no
encoding and no condition. -/

namespace Sys2Proof

/-- A field that the format does not carry holds 0 (R229). -/
def Opnd.canonical (o : Opnd) : Bool :=
  match o.fmt with
  | .c32 => o.c = 0 && o.k = 0 && !o.feD && !o.feA && !o.feB && !o.feC && o.lvl = 0 && o.imm16 = 0 && o.lit32 = 0
  | .c64 => o.lit32 = 0
  | .c96 => true

/-- Whether an instruction is one that a core of this kind decodes (R231), or a record its streams issue (R246), or an
event. -/
def Instr.wf (core : CoreKind) (i : Instr) : Bool :=
  match opcodeOf i with
  | some (op, o) => o.canonical && (match decodeFields core op o with | .ok j => decide (j = i) | .error _ => false)
  | none =>
    match encodeRecord i with
    | some _ => !recordKindBad core i && !recordMbz (headOf i) i && !recordRange i
    | none => true

end Sys2Proof
end

