-- ==== Sys2Proof/Certificates/Slice0/Obligations.lean ====
section
/-! DEFINITION. The statements that the provers are asked to prove. -/

open Sys2Proof Sys2Proof.Machine

/-! ## Scalar integer instructions (R277 to R279) -/

/-- ADD, SUB and MUL (R277): B is g(b) plus the immediate; fn 0 wraps, fn 1 (.W) computes on bits 31:0 and sign-extends,
fn 2 (.S) saturates once to the signed 64-bit range and raises FLAGS.sat. MULH: bits 127:64 of the exact product, signed,
unsigned or signed by unsigned. AND, OR and XOR: bitwise. -/
def Obligations.IntegerSumsProductsAndBitwise : Prop :=
  (∀ (o : Opnd) (s : State) (x y : Word), reads2 s o x y →
     let b := y + immOf o
     let low (z : Word) : Word := (z.extractLsb' 0 32).signExtend 64
     let sat (i : Instr) (v : Int) : Prop :=
       writes1 i s o o.d (BitVec.ofInt 64 (max (-2 ^ 63) (min (2 ^ 63 - 1) v)))
         (if -2 ^ 63 ≤ v ∧ v ≤ 2 ^ 63 - 1 then 0 else 32)
     (o.fn = 0 → writes1 (.add o) s o o.d (x + b) ∧ writes1 (.sub o) s o o.d (x - b) ∧ writes1 (.mul o) s o o.d (x * b))
     ∧ (o.fn = 1 → writes1 (.add o) s o o.d (low (x + b)) ∧ writes1 (.sub o) s o o.d (low (x - b))
         ∧ writes1 (.mul o) s o o.d (low (x * b)))
     ∧ (o.fn = 2 → sat (.add o) (x.toInt + b.toInt) ∧ sat (.sub o) (x.toInt - b.toInt) ∧ sat (.mul o) (x.toInt * b.toInt)))
  ∧ (∀ (o : Opnd) (s : State) (x y : Word), reads2 s o x y →
     let b := y + immOf o
     (o.fn = 0 → writes1 (.mulh o) s o o.d (BitVec.ofInt 64 (x.toInt * b.toInt / 2 ^ 64))
       ∧ writes1 (.and o) s o o.d (x &&& b) ∧ writes1 (.or o) s o o.d (x ||| b) ∧ writes1 (.xor o) s o o.d (x ^^^ b))
     ∧ (o.fn = 1 → writes1 (.mulh o) s o o.d (BitVec.ofNat 64 (x.toNat * b.toNat / 2 ^ 64)))
     ∧ (o.fn = 2 → writes1 (.mulh o) s o o.d (BitVec.ofInt 64 (x.toInt * b.toNat / 2 ^ 64))))

/-- SHL, SHR, SAR and ROT (R277): the amount is B mod 64; in .W (fn 1) B mod 32, on the 32-bit value, whose result is
sign-extended. MIN and MAX order signed (fn 0) or unsigned (fn 1); CMP gives 1 or 0 by the six codes of R262. -/
def Obligations.IntegerShiftsAndOrder : Prop :=
  (∀ (o : Opnd) (s : State) (x y : Word), reads2 s o x y →
     let n := (y + immOf o).toNat % 64
     let m := (y + immOf o).toNat % 32
     let w : BitVec 32 := x.extractLsb' 0 32
     (o.fn = 0 → writes1 (.shl o) s o o.d (x <<< n) ∧ writes1 (.shr o) s o o.d (x >>> n)
       ∧ writes1 (.sar o) s o o.d (x.sshiftRight n) ∧ writes1 (.rot o) s o o.d ((x >>> n) ||| (x <<< (64 - n))))
     ∧ (o.fn = 1 → writes1 (.shl o) s o o.d ((w <<< m).signExtend 64) ∧ writes1 (.shr o) s o o.d ((w >>> m).signExtend 64)
       ∧ writes1 (.sar o) s o o.d ((w.sshiftRight m).signExtend 64)
       ∧ writes1 (.rot o) s o o.d (((w >>> m) ||| (w <<< (32 - m))).signExtend 64)))
  ∧ (∀ (o : Opnd) (s : State) (x y : Word), reads2 s o x y →
     let b := y + immOf o
     let is (p : Prop) [Decidable p] : Prop := writes1 (.cmp o) s o o.d (if p then 1 else 0)
     (o.fn = 0 → writes1 (.min o) s o o.d (if x.toInt ≤ b.toInt then x else b)
       ∧ writes1 (.max o) s o o.d (if b.toInt ≤ x.toInt then x else b) ∧ is (x = b))
     ∧ (o.fn = 1 → writes1 (.min o) s o o.d (if x.toNat ≤ b.toNat then x else b)
       ∧ writes1 (.max o) s o o.d (if b.toNat ≤ x.toNat then x else b) ∧ is (x ≠ b))
     ∧ (o.fn = 2 → is (x.toInt < b.toInt)) ∧ (o.fn = 3 → is (b.toInt ≤ x.toInt))
     ∧ (o.fn = 4 → is (x.toNat < b.toNat)) ∧ (o.fn = 5 → is (b.toNat ≤ x.toNat)))

/-- DIV and REM (R278, R236): the quotient rounds toward zero and the remainder takes the sign of the dividend; a zero
divisor gives 0 and the dividend and raises FLAGS.dz. Signed, .U, .W and .WU are fn 0 to 3; .W results are sign-extended
and .WU results zero-extended. Under fe.d the destination is deferred for 34 cc, or 18 cc in .W and .WU.
The model's choices in it: log 2. -/
def Obligations.Divisions : Prop :=
  ∀ (o : Opnd) (s : State) (x y : Word), reads2 s o x y →
    let both (a b : Int) (put : Int → Word) (n : Nat) : Prop :=
      (b ≠ 0 → writesLong (.div o) s o [(o.d, put (a.tdiv b))] 0 n ∧ writesLong (.rem o) s o [(o.d, put (a.tmod b))] 0 n)
      ∧ (b = 0 → writesLong (.div o) s o [(o.d, 0)] 8 n ∧ writesLong (.rem o) s o [(o.d, put a)] 8 n)
    let w (z : Word) : BitVec 32 := z.extractLsb' 0 32
    (o.fn = 0 → both x.toInt y.toInt (BitVec.ofInt 64) 34)
    ∧ (o.fn = 1 → both x.toNat y.toNat (BitVec.ofInt 64) 34)
    ∧ (o.fn = 2 → both (w x).toInt (w y).toInt (fun v => (BitVec.ofInt 32 v).signExtend 64) 18)
    ∧ (o.fn = 3 → both (w x).toNat (w y).toNat (fun v => (BitVec.ofInt 32 v).setWidth 64) 18)

/-- ADDI, ABS, MOV, CLZ, POPC and LI (R279).
SEL, BFX and BFI (R279). Field b is pos and field c is len minus 1. BFX reads the bits above 63 as 0, or as bit 63
under .S; BFI replaces the bits from pos to min(pos + len, 64) - 1 of its destination, which it also reads. -/
def Obligations.IntegerUnarySelectAndFields : Prop :=
  (
    ∀ (o : Opnd) (s : State),
      (∀ x, reads1 s o x →
        writes1 (.addi o) s o o.d (x + immOf o * BitVec.ofNat 64 (2 ^ (16 * o.fn.toNat)))
        ∧ writes1 (.mov o) s o o.d x
        ∧ (o.fn = 0 → writes1 (.abs o) s o o.d (if x.toInt < 0 then -x else x))
        ∧ (o.fn = 1 → if x.toInt = -2 ^ 63 then writes1 (.abs o) s o o.d (BitVec.ofInt 64 (2 ^ 63 - 1)) 32
            else writes1 (.abs o) s o o.d (if x.toInt < 0 then -x else x))
        ∧ (o.lvl = 0 → (∃ n, writes1 (.clz o) s o o.d (BitVec.ofNat 64 n) ∧ n ≤ 64 ∧ x.toNat < 2 ^ (64 - n)
              ∧ (n < 64 → 2 ^ (63 - n) ≤ x.toNat))
            ∧ writes1 (.popc o) s o o.d (BitVec.ofNat 64 ((List.range 64).countP (fun i => x.getLsbD i))))
        ∧ (o.lvl = 1 → (∃ n, writes1 (.clz o) s o o.d (BitVec.ofNat 64 n) ∧ n ≤ 32 ∧ x.toNat % 2 ^ 32 < 2 ^ (32 - n)
              ∧ (n < 32 → 2 ^ (31 - n) ≤ x.toNat % 2 ^ 32))
            ∧ writes1 (.popc o) s o o.d (BitVec.ofNat 64 ((List.range 32).countP (fun i => x.getLsbD i)))))
      ∧ (writable s o →
        (o.fn = 0 → writes1 (.li o) s o o.d (immOf o))
        ∧ (o.fn = 1 → o.fmt = .c64 → writes1 (.li o) s o o.d (o.imm16.setWidth 64))
        ∧ (o.fn = 1 → o.fmt = .c96 → writes1 (.li o) s o o.d (o.lit32.setWidth 64))))
  ∧ (
    ∀ (o : Opnd) (s : State) (x : Word), reads1 s o x →
      (∀ y z, srcG s.cur o.b o.feB = .ok y → srcG s.cur o.c o.feC = .ok z →
        writes1 (.sel o) s o o.d (if z ≠ 0 then x else y))
      ∧ (let pos := o.b.toNat
         let len := o.c.toNat + 1
         (o.fn = 0 → writes1 (.bfx o) s o o.d (BitVec.ofNat 64 (x.toNat / 2 ^ pos % 2 ^ len)))
         ∧ (o.fn = 1 → writes1 (.bfx o) s o o.d (BitVec.ofInt 64 (Int.bmod (x.toInt / 2 ^ pos) (2 ^ len))))
         ∧ ∀ old, srcG s.cur o.d o.feD = .ok old → ∃ r, writes1 (.bfi o) s o o.d r
            ∧ ∀ i, i < 64 → r.getLsbD i = if pos ≤ i ∧ i < pos + len then x.getLsbD (i - pos) else old.getLsbD i))

/-- A source marked ! that is empty raises the empty-register trap, precisely and with no effect (R235, R428): the report
names the register, and an armed user handler takes it (R431) where nothing ends the launch in the same cc (R429): at once if
the control stream is drained (R430, step 3), else it is held until then and the stream waits. Stated for the integer forms
with source a.
g0 reads 0 and is full; what is written to it is discarded, an instruction completing as any other; as a deferred
destination it is not marked empty, and the producer's result is discarded (R234). -/
def Obligations.EmptySourcesAndG0 : Prop :=
  (
    ∀ (o : Opnd) (s : State) (i : Instr),
      i ∈ [Instr.add o, .sub o, .mul o, .and o, .or o, .xor o, .shl o, .shr o, .sar o, .rot o, .min o, .max o, .cmp o,
        .div o, .rem o, .addi o, .abs o, .sel o, .clz o, .popc o, .bfx o, .mov o] →
      s.mgmt.powered = true → gIsEmpty s.cur o.a = true →
      (o.feA = true → armed s.cur = true → s.cur.ending = [] → ctlDrained s s.cur = true → ∃ t, exec i s = .next t
        ∧ t.cur.ctl.pc = s.cur.trapv ∧ armed t.cur = false
        ∧ gval t.cur 60 = (report s s.cur (ctlSite s o) { code := 0x29, operand := regOperand 0 o.a.toNat }).extractLsb' 0 64
        ∧ gval t.cur 61 = ((codeOff s).extractLsb' 0 32).setWidth 64
        ∧ gval t.cur 62 = regOperand 0 o.a.toNat ∧ gval t.cur 63 = codeOff s
        ∧ (∀ r, r.toNat < 60 → gval t.cur r = gval s.cur r) ∧ t.cur.flags = s.cur.flags ∧ sameBytes s t)
      ∧ (o.feA = true → armed s.cur = true → s.cur.ending = [] → ctlDrained s s.cur = false → ∃ t e, exec i s = .next t
        ∧ e.report = report s s.cur (ctlSite s o) { code := 0x29, operand := regOperand 0 o.a.toNat }
        ∧ t.cur.events = putEvent s.cur.events e
        ∧ t.cur.ctl.blocked = some .handler ∧ t.cur.ctl.pc = word (recCodeva s.cur.record) + codeOff s
        ∧ (∀ r, gval t.cur r = gval s.cur r) ∧ t.cur.flags = s.cur.flags ∧ sameBytes s t)
      ∧ (o.feA = false → exec i s = .next { s with cur := { s.cur with
          ctl := { s.cur.ctl with blocked := some (.gReg o.a), issued := true } } }))
  ∧ (∀ t : Slot, gval t 0 = 0 ∧ gIsEmpty t 0 = false)
  ∧ (
    ∀ (o : Opnd) (s : State) (x y : Word), reads2 s o x y → o.d = 0 → o.fn = 0 →
      (∃ t, exec (.add o) s = .next t ∧ (∀ r, gval t.cur r = gval s.cur r)
        ∧ t.cur.ctl.pc = s.cur.ctl.pc + word (Fmt.bytes o.fmt))
      ∧ (o.feD = true → ∃ t d, exec (.div o) s = .next t ∧ t.cur.deferred = s.cur.deferred ++ [d]
          ∧ d.gs.map (fun p => p.1) = [0] ∧ ∀ r, gval t.cur r = gval s.cur r ∧ gIsEmpty t.cur r = gIsEmpty s.cur r))
  ∧ ∀ (s : State) (c : SlotId) (t : Slot) (i : Nat) (d : Deferred) (z : Word), s.mgmt.powered = true →
      slotOf s c = some t → t.deferred[i]? = some d → d.due ≤ s.cycle → d.gs = [(0, z)] → d.vs = [] →
      slotBecomes (.deferredWrite c i) s c { t with deferred := t.deferred.eraseIdx i, flags := t.flags ||| d.flags }

/-! ## Scalar floating instructions (R280, R281) -/

/-- FADD, FMUL and FFMA (R280): fn bits 1:0 give the format; each operand is the number in the low bits of its register
under MODE; the exact result is rounded once, written zero-extended, and its flags and those of the operation are raised.
FMIN, FMAX and FCMP (R97, R280): nothing is rounded; FCMP gives 1 or 0 and raises no flag; EQ, LT and LE do not hold of a
NaN, UN holds of it.
The model's choices in it: log 34. -/
def Obligations.FloatingArithmeticAndOrder : Prop :=
  (∀ (o : Opnd) (s : State) (x y : Word), reads2 s o x y →
     let f := floatFmt (o.fn.toNat % 4)
     let m := s.cur.mode
     let num (z : Word) : NumVal := readNum f m (z.toNat % 2 ^ f.w)
     let minus (b : Bool) (z : NumVal) : NumVal := if b then negNum z else z
     let rounded (i : Instr) (r : NumVal) (fl : BitVec 6) : Prop :=
       writes1 i s o o.d (BitVec.ofNat 64 (roundNum f m r).1) (fl ||| (roundNum f m r).2)
     (let r := addNum m (num x) (minus (o.fn.getLsbD 2) (num y))
      rounded (.fadd o) r.1 r.2)
     ∧ (let r := mulNum (num x) (num y)
        rounded (.fmul o) r.1 r.2)
     ∧ ∀ z, srcG s.cur o.c o.feC = .ok z →
         let p := mulNum (num x) (num y)
         let r := addNum m (minus (o.fn.getLsbD 2) p.1) (minus (o.fn.getLsbD 3) (num z))
         rounded (.ffma o) r.1 (p.2 ||| r.2))
  ∧ (∀ (o : Opnd) (s : State) (x y : Word), reads2 s o x y →
     let f := floatFmt (o.fn.toNat % 4)
     let m := s.cur.mode
     let code (z : Word) : Nat := z.toNat % 2 ^ f.w
     let num (z : Word) : NumVal := readNum f m (code z)
     let is (p : Bool) : Prop := writes1 (.fcmp o) s o o.d (if p then 1 else 0) 0
     writes1 (.fmin o) s o o.d (BitVec.ofNat 64 (minMaxNum f m false (code x) (code y)).1)
         (minMaxNum f m false (code x) (code y)).2
     ∧ writes1 (.fmax o) s o o.d (BitVec.ofNat 64 (minMaxNum f m true (code x) (code y)).1)
         (minMaxNum f m true (code x) (code y)).2
     ∧ (o.fn.toNat / 4 = 0 → is (eqNum (num x) (num y)))
     ∧ (o.fn.toNat / 4 = 1 → is (ltNum false (num x) (num y)))
     ∧ (o.fn.toNat / 4 = 2 → is (ltNum false (num x) (num y) || eqNum (num x) (num y)))
     ∧ (o.fn.toNat / 4 = 3 → is (isNaN (num x) || isNaN (num y)))
     ∧ (isNaN (num x) = true → eqNum (num x) (num y) = false ∧ ltNum false (num x) (num y) = false))

/-- Round (R93 to R95) of a nonzero finite value into binary32, binary16 or bfloat16, with its flags. A code of sign and
magnitude `k` up to the largest finite one stands for `k` subnormal units, or a normal number (R79, R83). An exact value
stays; of two neighbours MODE.rnd chooses, a tie to even under RNE; beyond the largest finite value a value overflows when it
rounds to the next power of two, to an infinity or as MODE.ovf and the direction have it; a tiny inexact result raises uf, and
under FOUT a tiny result becomes a zero. Zeros, infinities and NaN write the codes of R79 with no flag (R97). Reads decode the
code, a subnormal being zero under FIN; products and sums are exact, and an exact zero sum has the sign of R96. -/
def Obligations.RoundingOfExactValues : Prop :=
  ∀ (f : NumFmt) (mode : BitVec 6), f ∈ [fmt32, fmt16, fmtB16] →
    let mag (k : Nat) : Rat :=
      if k < 2 ^ f.m then k * 2 ^ (1 - f.bias - f.m)
      else (2 ^ f.m + k % 2 ^ f.m : Nat) * 2 ^ (((k / 2 ^ f.m : Nat) : Int) - f.bias - f.m)
    let value (x : NumVal) (v : Rat) : Prop := match x with
      | .fin neg m e => v = (if neg then -1 else 1) * (m * 2 ^ e)
      | _ => False
    let top := 2 ^ (f.w - 1) - 2 ^ f.m - 1
    let sign (neg : Bool) (k : Nat) : Nat := if neg then 2 ^ (f.w - 1) + k else k
    let up (neg : Bool) (x lo hi : Rat) (even : Prop) : Prop :=
      if modeRnd mode = 1 then False else if modeRnd mode = 2 then neg = false else if modeRnd mode = 3 then neg = true
      else if modeRnd mode = 4 then lo + hi ≤ 2 * x else lo + hi < 2 * x ∨ (lo + hi = 2 * x ∧ ¬ even)
    (∀ (neg : Bool) (m : Nat) (e : Int), m ≠ 0 →
      let x : Rat := m * 2 ^ e
      let least := mag (2 ^ f.m)
      let below := least - least / 2 ^ (f.m + 1)
      let tiny : Prop := x < least ∧ (x ≤ below ∨ ¬ up neg x below least False)
      let writes (r : Nat × BitVec 6) : Prop := roundNum f mode (.fin neg m e) = r
      (tiny → modeFout mode = true → writes (sign neg 0, 3))
      ∧ (¬ (tiny ∧ modeFout mode = true) →
        (∀ k, k ≤ top → mag k = x → writes (sign neg k, 0))
        ∧ (∀ k, k < top → mag k < x → x < mag (k + 1) →
          (up neg x (mag k) (mag (k + 1)) (k % 2 = 0) → (tiny → writes (sign neg (k + 1), 3)) ∧ (¬ tiny → writes (sign neg (k + 1), 1)))
          ∧ (¬ up neg x (mag k) (mag (k + 1)) (k % 2 = 0) → (tiny → writes (sign neg k, 3)) ∧ (¬ tiny → writes (sign neg k, 1))))
        ∧ (mag top < x →
          (2 * mag (top + 1 - 2 ^ f.m) ≤ x ∨ up neg x (mag top) (2 * mag (top + 1 - 2 ^ f.m)) False →
            if modeMaxf mode = true ∨ modeRnd mode = 1 ∨ (modeRnd mode = 2 ∧ neg = true) ∨ (modeRnd mode = 3 ∧ neg = false) then
              writes (sign neg top, 5)
            else writes (sign neg (top + 1), 5))
          ∧ (¬ (2 * mag (top + 1 - 2 ^ f.m) ≤ x ∨ up neg x (mag top) (2 * mag (top + 1 - 2 ^ f.m)) False) →
            writes (sign neg top, 1)))))
    ∧ (∀ (neg : Bool) (e : Int), roundNum f mode (.fin neg 0 e) = (sign neg 0, 0)
        ∧ roundNum f mode (.inf neg) = (sign neg (top + 1), 0) ∧ roundNum f mode .nan = (top + 1 + 2 ^ (f.m - 1), 0))
    ∧ (∀ (neg : Bool) (k : Nat), k < 2 ^ (f.w - 1) →
        (k ≤ top → value (readNum f mode (sign neg k))
          (if modeFin mode = true ∧ k < 2 ^ f.m then 0 else (if neg then -1 else 1) * mag k))
        ∧ (k = top + 1 → readNum f mode (sign neg k) = .inf neg) ∧ (top + 1 < k → readNum f mode (sign neg k) = .nan))
    ∧ ∀ (x y : NumVal) (v w : Rat), value x v → value y w →
        value (mulNum x y).1 (v * w) ∧ (mulNum x y).2 = 0 ∧ value (addNum mode x y).1 (v + w) ∧ (addNum mode x y).2 = 0
        ∧ (v + w = 0 → ∃ neg e, (addNum mode x y).1 = .fin neg 0 e
            ∧ (neg = true ↔ modeRnd mode = 3 ∨ ∃ a b, x = .fin true 0 a ∧ y = .fin true 0 b))

/-- CVT (R281) for every pair of types. Between integers it saturates, or under .WRAP keeps the low bits and raises no
flag; .I32 results are sign-extended and .UI32 results zero-extended. -/
def Obligations.Conversions : Prop :=
  ∀ (o : Opnd) (s : State) (x : Word), reads1 s o x →
    let m := s.cur.mode
    let src := intType o.c.toNat
    let dst := intType o.fn.toNat
    let v := readInt src.1 src.2 x.toNat
    let put (n : Int) : Word :=
      if o.fn = 1 then (BitVec.ofInt 32 n).signExtend 64 else if o.fn = 3 then (BitVec.ofInt 32 n).setWidth 64
      else BitVec.ofInt 64 n
    let ff := floatFmt (o.c.toNat - 4)
    let fd := floatFmt (o.fn.toNat - 4)
    (o.c.toNat ≤ 3 → o.fn.toNat ≤ 3 →
      if o.lvl = 1 then writes1 (.cvt o) s o o.d (put v)
      else writes1 (.cvt o) s o o.d (put (max (intMin dst.1 dst.2) (min (intMax dst.1 dst.2) v)))
        (if intMin dst.1 dst.2 ≤ v ∧ v ≤ intMax dst.1 dst.2 then 0 else 32))
    ∧ (o.c.toNat ≤ 3 → 3 < o.fn.toNat →
        writes1 (.cvt o) s o o.d (BitVec.ofNat 64 (roundNum fd m (ofInt v)).1) (roundNum fd m (ofInt v)).2)
    ∧ (3 < o.c.toNat → o.fn.toNat ≤ 3 →
        let r := toInt m dst.1 dst.2 (readNum ff m (x.toNat % 2 ^ ff.w))
        writes1 (.cvt o) s o o.d (put r.1) r.2)
    ∧ (3 < o.c.toNat → 3 < o.fn.toNat →
        let r := convertNum ff fd m (x.toNat % 2 ^ ff.w)
        writes1 (.cvt o) s o o.d (BitVec.ofNat 64 r.1) r.2)

/-! ## Control transfer, streams and traps (R213, R262 to R266, R431) -/

/-- BR, BRC, BRI, CALL, RET and LOOP (R264): the target and the link; nothing else changes but the control stream. A
transfer raises no fault; a fetch outside the code region raises the bounds fault (R206), whose report carries the address
as its instruction address, an offset from codeva (R427); its operand is 0 (R428). -/
def Obligations.ControlTransfers : Prop :=
  ∀ (o : Opnd) (s : State), s.mgmt.powered = true →
    let pc := s.cur.ctl.pc
    let base : Word := BitVec.ofNat 64 (recCodeva s.cur.record)
    let next := pc + word (Fmt.bytes o.fmt)
    let there := pc + immOf o * 4
    let goes (i : Instr) (target : Word) (gs : List (BitVec 6 × Word)) : Prop :=
      ∃ t, exec i s = .next t ∧ t.cur.ctl.pc = target ∧ t.cur.ctl.running = s.cur.ctl.running
        ∧ regsOnly s t ∧ setsG s t gs ∧ setsV s t [] ∧ t.cur.flags = s.cur.flags ∧ t.cur.deferred = s.cur.deferred
        ∧ t.cur.settling = s.cur.settling ∧ sameBytes s t
    goes (.br o) there []
    ∧ (dstG s.cur o.d = .ok () → goes (.call o) there [(o.d, next - base)])
    ∧ (∀ x, srcG s.cur o.a o.feA = .ok x →
        goes (.bri o) (base + ((x + immOf o) &&& ~~~3#64)) [] ∧ goes (.ret o) (base + (x &&& ~~~3#64)) []
        ∧ ∀ y, srcG s.cur o.b o.feB = .ok y →
          (o.fn = 0 → goes (.brc o) (if x = y then there else next) [])
          ∧ (o.fn = 1 → goes (.brc o) (if x ≠ y then there else next) [])
          ∧ (o.fn = 2 → goes (.brc o) (if x.toInt < y.toInt then there else next) [])
          ∧ (o.fn = 3 → goes (.brc o) (if y.toInt ≤ x.toInt then there else next) [])
          ∧ (o.fn = 4 → goes (.brc o) (if x.toNat < y.toNat then there else next) [])
          ∧ (o.fn = 5 → goes (.brc o) (if y.toNat ≤ x.toNat then there else next) []))
    ∧ (∀ n, srcG s.cur o.d o.feD = .ok n →
        goes (.loop o) (if n - 1 ≠ 0 then there else next) [(o.d, n - 1)])
    ∧ ((fetchSite s).coff = (pc - base).setWidth 32 ∧
        (∀ k s', nextTurn s = .stream k .control → s.cur.ending = [] → fetched { s with stage := k } .control = some s' →
          (pc.toNat < recCodeva s.cur.record ∨ recCodeva s.cur.record + recCodelen s.cur.record ≤ pc.toNat) →
          step s = .next (takeFault s' (fetchSite s') { code := 0x05 } (pc - base))))

/-- NOP only advances; END ends the control stream, after which the item can retire; neither changes anything else (R213,
R265). YIELD (R209, R265) advances; when the other slot of its core is ready the core will switch, and otherwise nothing
else happens.
RUN (R212, R266): the record offset is a multiple of 64 within the code region and the stream is idle: the stream
starts at it, and a matrix stream takes its base SB from STAMPB (R346). An offset that is no record of the code region raises
the bounds fault, with the offset as its operand (R428); a busy stream is waited for, or under ! raises the stream-busy trap.
The model's choices in it: log 29. -/
def Obligations.NopEndYieldAndRun : Prop :=
  (
    (∀ (o : Opnd) (s : State), s.mgmt.powered = true →
       writesG (.nop o) s o []
       ∧ exec (.endCtl o) s = .next { s with cur := { s.cur with
           ctl := { s.cur.ctl with running := false, issued := true }
           item := s.cur.item.map (fun i => { i with ended := true }) } })
    ∧ (∀ (o : Opnd) (s : State), s.mgmt.powered = true →
       let x := coreOf s s.cur.id.core
       completes (.yield o) s o (fun t =>
         t = { s with cur := { s.cur with ctl := t.cur.ctl }, cores := t.cores }
         ∧ if otherReady { s with cur := t.cur } ⟨s.cur.id.core, x.active⟩
           then coreOf t s.cur.id.core = { x with wants := true } else t.cores = s.cores)))
  ∧ (
    ∀ (o : Opnd) (s : State) (x : Word), s.mgmt.powered = true → srcG s.cur o.a o.feA = .ok x →
      let off : Int := if o.fmt = .c96 then x.toInt + o.lit32.toInt else x.toInt + o.imm16.toInt * 64
      let base : Word := BitVec.ofNat 64 (recCodeva s.cur.record)
      (¬ (0 ≤ off ∧ off % 64 = 0 ∧ off + 64 ≤ recCodelen s.cur.record) →
        faults (.runMx o) s o 0x05 (BitVec.ofInt 64 off) ∧ faults (.runCp o) s o 0x05 (BitVec.ofInt 64 off))
      ∧ (0 ≤ off → off % 64 = 0 → off + 64 ≤ recCodelen s.cur.record →
      (s.cur.mx.running = false → completes (.runMx o) s o (fun t =>
        t = { s with cur := { s.cur with ctl := t.cur.ctl, mx := t.cur.mx, time := t.cur.time } }
        ∧ t.cur.mx.running = true ∧ t.cur.mx.pc = base + BitVec.ofInt 64 off ∧ t.cur.time.sb = s.cur.stampb))
      ∧ (s.cur.cp.running = false → completes (.runCp o) s o (fun t =>
        t = { s with cur := { s.cur with ctl := t.cur.ctl, cp := t.cur.cp } }
        ∧ t.cur.cp.running = true ∧ t.cur.cp.pc = base + BitVec.ofInt 64 off))
      ∧ (s.cur.mx.running = true → o.lvl = 0 → exec (.runMx o) s = .next { s with cur := { s.cur with
          ctl := { s.cur.ctl with blocked := some (.stream .matrix), issued := true } } })
      ∧ (s.cur.cp.running = true → o.lvl = 0 → exec (.runCp o) s = .next { s with cur := { s.cur with
          ctl := { s.cur.ctl with blocked := some (.stream .copy), issued := true } } })
      ∧ (s.cur.mx.running = true → o.lvl = 1 → faults (.runMx o) s o 0x2D)
      ∧ (s.cur.cp.running = true → o.lvl = 1 → faults (.runCp o) s o 0x2D)))

/-- TRAP (R265, R428, R431). With an armed user handler it enters it: g60 holds bits 63:0 of the report, whose fault code is
0x2E, g61 the offset of the TRAP, g62 its code, g63 the offset of the instruction after it, and these four are full; TRAPV
is disarmed and the stream goes on at the old TRAPV after 8 cc; nothing else changes; while the control stream is not drained
(R430, step 3) the event is held and the stream waits. With no armed handler the stream stops
and the report ends the launch at the end of the cc (R429, R435).
The model's choices in it: log 95. -/
def Obligations.TrapEntersTheUserHandler : Prop :=
  ∀ (o : Opnd) (s : State), s.mgmt.powered = true → s.cur.ending = [] →
    let rep := report s s.cur (ctlSite s o) { code := 0x2E, operand := o.imm16.setWidth 64 }
    ∃ t, exec (.trap o) s = .next t
      ∧ rep.extractLsb' 0 8 = 0x2E#8 ∧ rep.extractLsb' 161 32 = (codeOff s).extractLsb' 0 32
      ∧ rep.extractLsb' 320 64 = o.imm16.setWidth 64
      ∧ (∀ r, r.toNat < 60 → gval t.cur r = gval s.cur r ∧ gIsEmpty t.cur r = gIsEmpty s.cur r)
      ∧ sameBytes s t
      ∧ (armed s.cur = true → ctlDrained s s.cur = true →
          gval t.cur 60 = rep.extractLsb' 0 64 ∧ gval t.cur 61 = ((codeOff s).extractLsb' 0 32).setWidth 64
          ∧ gval t.cur 62 = o.imm16.setWidth 64 ∧ gval t.cur 63 = codeOff s + word (Fmt.bytes o.fmt)
          ∧ (∀ r, 60 ≤ r.toNat → gIsEmpty t.cur r = false)
          ∧ t = { s with cur := { s.cur with
              g := t.cur.g, gEmpty := t.cur.gEmpty, trapv := BitVec.allOnes 64
              ctl := { s.cur.ctl with pc := s.cur.trapv, blocked := none, issued := true, hold := 8 } } })
      ∧ (armed s.cur = true → ctlDrained s s.cur = false → ∃ e : Event, e.report = rep
          ∧ t = { s with cur := { s.cur with
              events := putEvent s.cur.events e
              ctl := { s.cur.ctl with
                pc := word (recCodeva s.cur.record) + (codeOff s + word (Fmt.bytes o.fmt)), blocked := some .handler
                issued := true } } })
      ∧ (armed s.cur = false → ∃ e : Event, e.report = rep
          ∧ t = { s with cur := { s.cur with ending := [e], ctl := { s.cur.ctl with issued := true } } }
          ∧ endSlot t s.cur.id = endItem { t with cur := { t.cur with ending := [] } } s.cur.id rep)
/-! ## System registers, modes, features and time (R35, R90 to R92, R106, R271 to R276) -/

/-- SYSRD (R273, R274) of every register of the map; FLAGS waits for deferred producers and pending results (R92). GETMODE,
RDTIME, STAMP, FEAT and SIGNRD (R271, R272, R276). SYSWR of MODE, FLAGS, STAMPB, TRAPV and BFMT, and SETMODE (R38, R92, R106,
R274, R276): what is written, the format digest, and nothing else but the advance of the control stream; after BFMTn it holds
until every earlier record that names bank n has completed (R41).
A SYSRD of a number outside the map and a SYSWR of a number that no user may write raise the illegal-system-register
fault (R35), as does a TRAPV outside the code region (R274); BFMT of a bank that the launch did not declare raises the
scratchpad-ownership fault (R273); its operand, the base of the bank, is the model's choice (log 30).
The model's choices in it: log 4, log 30. -/
def Obligations.SystemRegisters : Prop :=
  ((
     (∀ (o : Opnd) (s : State), writable s o →
        let n := o.imm16.toNat % 4096
        let c := s.cur
        let is (r : Nat) (x : Word) : Prop := n = r → writes1 (.sysrd o) s o o.d x
        (∀ i, c.item = some i →
          is 0x000 i.wid ∧ is 0x003 (if i.size = 0 then 0 else word i.rank) ∧ is 0x004 (word i.size))
        ∧ is 0x001 (c.tenant.setWidth 64) ∧ is 0x002 (c.context.setWidth 64) ∧ is 0x005 c.seed ∧ is 0x006 c.trapv
        ∧ is 0x007 c.stampb ∧ is 0x008 (c.slips.setWidth 64) ∧ is 0x009 (if c.id.slot then 1 else 0)
        ∧ is 0x010 (c.mode.setWidth 64)
        ∧ (∀ i, i < 4 → is (0x018 + i) (c.sig.extractLsb' (64 * i) 64))
        ∧ (∀ i : Fin 16, (recBmask c.record).getLsbD i = true → is (0x040 + i) (c.bfmt[i].setWidth 64))
        ∧ is 0x100 (c.id.core.setWidth 64) ∧ is 0x200 (s.devid.setWidth 64) ∧ is 0x201 s.pseed
        ∧ is 0x202 (word s.cycle) ∧ is 0x203 (word (s.cycle / 16))
        ∧ (producersDone c = true → c.settling = [] → writes1 (.sysrdFlags o) s o o.d (c.flags.setWidth 64))
        ∧ (producersDone c = false → exec (.sysrdFlags o) s = .next (blockCtl s .producers)))
     ∧ (∀ (o : Opnd) (s : State), writable s o →
        writes1 (.getmode o) s o o.d (s.cur.mode.setWidth 64)
        ∧ (o.lvl = 0 → writes1 (.rdtime o) s o o.d (word s.cycle))
        ∧ (o.lvl = 1 → writes1 (.rdtime o) s o o.d (word (s.cycle / 16)))
        ∧ ∀ x, srcG s.cur o.a o.feA = .ok x →
          (let v := word s.cycle + x + o.imm16.signExtend 64
           exec (.stamp o) s = .next (wentOn s o (setG { s.cur with stampb := v } o.d v)))
          ∧ (let i := (x + o.imm16.setWidth 64).toNat
             (coreKind s.cur.id.core = some .compute → writes1 (.feat o) s o o.d
                (([0x9400010001000001, 0x3CF, 0xFFFFFFFFFFFF7FFF, 0x1F7F1FFFFFFF001F, 0xFFE, 0xFE, 0x1302101040081210,
                  0x1230081F] : List Word).getD i 0))
             ∧ (coreKind s.cur.id.core = some .attention → writes1 (.feat o) s o o.d
                (([0x9400010001000002, 0x230, 0xFFFFFFFFFFFF7FFF, 0x3F001FFFFFFF001F, 0, 0xF6, 0x1302101000001210,
                  0x81F] : List Word).getD i 0)))
          ∧ (let kept := (queueOf s (x.extractLsb' 48 6)).sigs.find? (fun p => p.1 = x.toNat % 2 ^ 48 ∧ p.2.1 = s.cur.tenant)
             (∀ p, kept = some p → exec (.signrd o) s = .next (wentOn s o (setG { s.cur with sig := p.2.2 } o.d 1)))
             ∧ (kept = none → exec (.signrd o) s = .next (wentOn s o (setG { s.cur with sig := 0 } o.d 0))))))
   ∧ (
     ∀ (o : Opnd) (s : State), s.mgmt.powered = true →
       let n := o.imm16.toNat % 4096
       let assigned : Prop := n ≤ 0x009 ∨ n = 0x010 ∨ n = 0x011 ∨ (0x018 ≤ n ∧ n ≤ 0x01B) ∨ (0x040 ≤ n ∧ n ≤ 0x04F)
         ∨ n = 0x100 ∨ (0x200 ≤ n ∧ n ≤ 0x203)
       let undeclared : Prop := 0x040 ≤ n ∧ n ≤ 0x04F ∧ (recBmask s.cur.record).getLsbD (n - 0x040) = false
       (dstG s.cur o.d = .ok () →
         (¬ assigned → faults (.sysrd o) s o 0x03)
         ∧ (undeclared → faults (.sysrd o) s o 0x08 (word ((n - 0x040) * 2 ^ 18))))
       ∧ ∀ x, srcG s.cur o.a o.feA = .ok x →
         faults (.syswr o) s o 0x03
         ∧ (undeclared → faults (.syswrBfmt o) s o 0x08 (word ((n - 0x040) * 2 ^ 18)))
         ∧ (x ≠ BitVec.allOnes 64 →
             (x.toNat % 4 ≠ 0 ∨ x.toNat < recCodeva s.cur.record
               ∨ recCodeva s.cur.record + recCodelen s.cur.record ≤ x.toNat) →
             faults (.syswrTrapv o) s o 0x03)))
  ∧ ∀ (o : Opnd) (s : State) (x : Word), s.mgmt.powered = true → srcG s.cur o.a o.feA = .ok x →
      let c := s.cur
      let goes (i : Instr) (c' : Slot) : Prop := exec i s = .next (wentOn s o c')
      let digest (reg value : Nat) : BitVec 256 :=
        sha3 (bytesOf 32 c.digest.toNat ++ bytesOf 2 reg ++ bytesOf 4 value)
      let mode (y : Word) : Slot := { c with mode := y.setWidth 6, digest := digest 0x010 (y.toNat % 64) }
      goes (.syswrMode o) (mode x)
      ∧ goes (.setmode o) (mode (x ||| o.imm16.signExtend 64))
      ∧ goes (.syswrFlags o) { c with flags := c.flags &&& ~~~(x.setWidth 6) }
      ∧ goes (.syswrStampb o) { c with stampb := x }
      ∧ ((x = BitVec.allOnes 64 ∨ (x.toNat % 4 = 0 ∧ recCodeva c.record ≤ x.toNat
          ∧ x.toNat < recCodeva c.record + recCodelen c.record)) → goes (.syswrTrapv o) { c with trapv := x })
      ∧ ∀ b : Fin 16, o.imm16.toNat % 4096 = 0x040 + b → (recBmask c.record).getLsbD b = true →
          let v : BitVec 32 := x.setWidth 32 &&& 0x0F0FFFFF#32
          let t := wentOn s o { c with bfmt := c.bfmt.set b v, digest := digest (0x040 + b) v.toNat }
          let ids := recordsNaming c b
          exec (.syswrBfmt o) s = .next (if ids = [] then t
            else { t with cur := { t.cur with ctl := { t.cur.ctl with blocked := some (.ops ids) } } })

/-! ## Launching and cancelling (R267 to R270, R400, R414) -/

/-- LAUNCH (R268, R400): a release (R193), which waits for what the item has sent; the record that the reference names goes
to the intake of queue c, and the destination takes the result word. An acceptable record is appended to its queue under the next ordinal, its seed captured from PSEED
(as it was before the present cc, R415) unless SEEDX is set (R201). The intake answers with the first status that applies (R400):
REFUSED for another tenant's queue, BADREC with the lowest offending bit, REFUSED for a dependence queue of another tenant,
CODE, WINDOW, AREA and TRACE (R200, R420). A full queue, and a walk that waits, are waited for.
The model's choices in it: log 1. -/
def Obligations.LaunchSubmitsARecord : Prop :=
  ∀ (o : Opnd) (s : State) (x : Word) (h : Capture) (pa : Nat), writable s o → srcG s.cur o.b o.feB = .ok x →
    let off := x.toInt + o.imm16.toInt
    let r := BitVec.ofNat 2048 (memNat s pa 256)
    let q := queueOf s o.c
    let done (s' : State) (w : Word) : Prop := exec (.launch o) s = .next (wentOn s' o (setG s'.cur o.d w))
    useHandle s.cur (o.a.setWidth 4) o.feA off = .ok h → off % 64 = 0 → checkPage h off 256 permRd = .ok pa →
    needReleased s (dieOf s.cur.id.core) (linesOf pa 256) = .ok () →
    refusedByte s s.cur pa (linesOf pa 256) rightRead false = none → poisoned s pa 256 = false →
    releasable s = .ok () → ∀ t, releaseCount s.cur = .ok t →
    (queueFull s o.c = true → exec (.launch o) s = .next (blockCtl s (.queueRoom o.c)))
    ∧ (queueFull s o.c = false →
      let s1 := { (homeRead s pa 256).1 with cur := t }
      (q.tenant = 0 ∨ q.tenant ≠ recTenant r ∨ s.cur.tenant ≠ recTenant r → done s1 4)
      ∧ (s.mgmt.failed = false → q.tenant = recTenant r → s.cur.tenant = recTenant r → q.tenant ≠ 0 →
        (∀ bit, badRecord r = some bit → done s1 (word (bit * 16 + 1)))
        ∧ (∀ ps, badRecord r = none →
            (∀ k, k < 4 → (recDep r k).1 = true → (queueOf s (recDep r k).2.1).tenant = recTenant r) →
            checkPins s1 r = .pins ps →
            let l : Launch :=
              { ordinal := q.accepted + 1, acceptedAt := s.cycle, pins := ps,
                record := if recSeedx r then r else putField r 512 64 (pseedNow s).toNat }
            done (setQueue s1 o.c { q with accepted := q.accepted + 1, launches := q.launches ++ [l] })
              (word ((q.accepted + 1) * 2 ^ 16)))
        ∧ (badRecord r = none →
            (∀ k, k < 4 → (recDep r k).1 = true → (queueOf s (recDep r k).2.1).tenant ≠ recTenant r → done s1 4)
            ∧ ((∀ k, k < 4 → (recDep r k).1 = true → (queueOf s (recDep r k).2.1).tenant = recTenant r) →
              (checkPins s1 r = .waits → exec (.launch o) s = .next (blockCtl s (.queueRoom o.c)))
              ∧ (checkPins s1 r ≠ .waits →
                let tenant := recTenant r
                let context := recContext r
                let code := pinPages s1 tenant context (recCodeva r) (pagesOf (recCodeva r) (recCodelen r))
                  (fun l => l.perm.getLsbD 3 && !l.perm.getLsbD 1)
                let window := pinContiguous s1 tenant context (recDwin r) (recDwlen r * 2 ^ 16) (plainLeaf 0)
                let spill := pinContiguous s1 tenant context (recMspill r) (recDwlen r * 2048) (plainLeaf 3)
                let windowOk : Prop := recDet r = true → ∃ w m, window = some w ∧ spill = some m ∧ homeDie w.pa = homeDie m.pa
                let record := pinPages s1 tenant context (recDone r) 1 (plainLeaf 2)
                let trace := pinPages s1 tenant context (recTrace r) (pagesOf (recTrace r) (recTrlen r))
                  (plainLeaf (if recTrrec r then 2 else 1))
                let areasOk : Prop := (recDone r = 0 ∨ recDone r % 64 = 0 ∧ record ≠ none)
                  ∧ (recTrrec r = false ∧ recTrbind r = false ∨ 64 + 8 * recTotal r ≤ recTrlen r ∧ trace ≠ none)
                (code = none → done s1 2)
                ∧ ∀ pins, code = some pins →
                  (sha3 (pinRead s1 pins (recCodeva r) (recCodelen r)) ≠ r.extractLsb' 0 256 → done s1 2)
                  ∧ (sha3 (pinRead s1 pins (recCodeva r) (recCodelen r)) = r.extractLsb' 0 256 →
                    (¬ windowOk → done s1 3) ∧ (windowOk → ¬ areasOk → done s1 5)
                    ∧ ∀ xs, windowOk → areasOk → recTrbind r = true → trace = some xs → traceOk s1 xs r = false →
                        done s1 6))))))

/-- CANCEL (R269, R414): the launch is no candidate any more and its reservation goes. CANCEL.ITEM (R270): the named item, and
with a troupe member every member of its troupe (R207), is removed; an item that removes itself writes no destination.
The model's choices in it: log 1. -/
def Obligations.Cancelling : Prop :=
  ∀ (o : Opnd) (s : State) (x : Word), reads1 s o x →
    (let n := x.toNat % 2 ^ 48
     (launchOf s o.c n = none → writes1 (.cancel o) s o o.d 1)
     ∧ ∀ l, launchOf s o.c n = some l →
        (recTenant l.record ≠ s.cur.tenant ∨ recContext l.record ≠ s.cur.context → writes1 (.cancel o) s o o.d 2)
        ∧ (recTenant l.record = s.cur.tenant → recContext l.record = s.cur.context →
            let free (w : Walker) : Walker := if w.reservation = some (o.c, n) then { w with reservation := none, kept := [] } else w
            let s1 := modLaunch s o.c n (fun m => { m with cancelled := true, unplaceableSince := none })
            let s2 := if fullyClaimed l ∨ l.cancelled ∨ l.failed then s else { s1 with walkers := s1.walkers.map free }
            exec (.cancel o) s = .next (wentOn s2 o (setG s.cur o.d (word (l.next * 2 ^ 16))))))
    ∧ (let c : SlotId := ⟨x.extractLsb' 0 8, x.getLsbD 8⟩
       (coreKind c.core = none → faults (.cancelItem o) s o 0x0D)
       ∧ ((coreKind c.core).isSome = true →
         ((slotOf s c).bind (fun t => t.item) = none → writes1 (.cancelItem o) s o o.d 1)
         ∧ ∀ t i, slotOf s c = some t → t.item = some i →
            (t.tenant ≠ s.cur.tenant ∨ t.context ≠ s.cur.context → writes1 (.cancelItem o) s o o.d 2)
            ∧ (t.tenant = s.cur.tenant → t.context = s.cur.context →
              let member (u : Slot) : Bool :=
                match u.item with
                | some j => j.queue = i.queue && j.ordinal = i.ordinal && decide (j.index + i.rank = i.index + j.rank)
                | none => false
              let gang := if i.size = 0 then [c] else ((allSlots s).filter member).map (fun u => u.id)
              (s.cur.id ∈ gang → exec (.cancelItem o) s = .next (gang.foldl removeItem s))
              ∧ (¬ s.cur.id ∈ gang →
                exec (.cancelItem o) s = .next (gang.foldl removeItem (wentOn s o (setG s.cur o.d 0)))))))

/-! ## Loads and stores (R57, R61, R65, R127, R239, R240, R284 to R288) -/

/-- LD (R288): the bytes at the resolved place, zero- or sign-extended, two registers for .Q. From a bank of the slot or
of a troupe member the bytes stored there, unless a granule is poisoned (R448), 4 cc away or, in a member's, 8 cc and 2 cc for each hop each way (R286); at .SL
and .MEM the bytes of memory; at .CL those of the L1's copies, and of memory where the L1 holds none (R57, R172). A load
marked L can be deferred (R236). Memory keeps its bytes, but for the conflict word of an evicted line, which goes to its
launch's spill area (R64).
The model's choices in it: log 1, log 2, log 11, log 37. -/
def Obligations.LoadsReadThePlace : Prop :=
  ∀ (o : Opnd) (s : State) (r : Word × Word), s.mgmt.powered = true → refSources s.cur o = .ok r →
    let n := 2 ^ (o.fn.toNat % 8)
    let lv := loadLevel s.cur o
    let place := resolve s o r n 1 permRd
    let gives (s1 : State) (bs : List Byte) (latency : Nat) : Prop :=
      let x := leNat bs
      let gs := if n = 16 then [(o.d, word x), (o.d + 1, word (x / 2 ^ 64))]
        else [(o.d, if o.fn.getLsbD 3 then word x else BitVec.ofInt 64 (readInt true (8 * n) x))]
      ∃ t, exec (.ld o) s = .next t ∧ wroteLong o.feD s1 t o gs [] 0 latency
    dstG s.cur o.d = .ok () → (n = 16 → dstG s.cur (o.d + 1) = .ok ()) →
    (∀ c a reg s0 u, place = .ok (.bank c a reg) →
      checkGranules s c s.cur.id (slotCode s.cur.id) .plain a n = .ok s0 → slotOf s0 c = some u →
      (bankPoisoned u a n = true → faults (.ld o) s o 0x2F)
      ∧ (bankPoisoned u a n = false → bankOnly s s0 [] ∧ gives s0 ((List.range n).map (fun i => bankByte u (a + i)))
        (if c = s.cur.id then 4 else 8 + 4 * tileHops s.cur.id.core c.core)))
    ∧ (∀ pa reg s0, place = .ok (.mem pa reg) → admitRead s s.cur pa reg n lv = .ok s0 →
      (lv ≠ .cl →
        let s1 := (homeRead s0 pa n (lv = .mem)).1
        homeOnly s s1 ∧ sameMemory s s1 ∧ gives s1 ((List.range n).map (fun i => memByte s0 (pa + i))) 1)
      ∧ (lv = .cl →
        let s1 := (l1Bytes s0 s0.cur pa n).1
        let bs := (l1Bytes s0 s0.cur pa n).2
        homeOnly s s1 ∧ sameMemory s s1 ∧ gives s1 bs (loadLatency s (.mem pa reg) n .cl)
        ∧ ((∀ l ∈ linesOf pa n, l1Has s s.cur l = false) →
            ∀ i, i < n → ¬ spillByte s (pa + i) → bs.getD i 0 = memByte s (pa + i))))

/-- LDV (R288): the active elements of one register, from the lowest byte; the others keep their values, or become 0
under .Z. With no active element nothing is read.
The model's choices in it: log 1, log 2, log 37. -/
def Obligations.VectorLoads : Prop :=
  ∀ (o : Opnd) (s : State) (r : Word × Word), s.mgmt.powered = true → refSources s.cur o = .ok r →
    let n := activeSingle s.cur o.k * (vWidth s.cur / 8)
    let d := vreg o.d.toNat
    let lv := loadLevel s.cur o
    let gives (s1 : State) (bs : List Byte) (latency : Nat) : Prop :=
      ∃ t v, exec (.ldv o) s = .next t ∧ wroteLong o.feD s1 t o [] [(d, v)] 0 latency
        ∧ ∀ i, i < 512 → v.extractLsb' (8 * i) 8
            = if i < n then bs.getD i 0 else if o.fn = 1 then 0 else (vval s.cur d).extractLsb' (8 * i) 8
    dstV s.cur d = .ok () →
    (n = 0 → (memBankBase o = true ∨ ∃ x, refTarget s.cur o r = .ok x) → gives s [] 1)
    ∧ (0 < n →
      (∀ c a reg s0 u, resolve s o r n 1 permRd = .ok (.bank c a reg) →
        checkGranules s c s.cur.id (slotCode s.cur.id) .plain a n = .ok s0 → slotOf s0 c = some u →
        (bankPoisoned u a n = true → faults (.ldv o) s o 0x2F)
        ∧ (bankPoisoned u a n = false → bankOnly s s0 [] ∧ gives s0 ((List.range n).map (fun i => bankByte u (a + i)))
          (if c = s.cur.id then 4 else 8 + 4 * tileHops s.cur.id.core c.core)))
      ∧ (∀ pa reg s0, resolve s o r n 1 permRd = .ok (.mem pa reg) → admitRead s s.cur pa reg n lv = .ok s0 → lv ≠ .cl →
        let s1 := (homeRead s0 pa n (lv = .mem)).1
        homeOnly s s1 ∧ sameMemory s s1 ∧ gives s1 ((List.range n).map (fun i => memByte s0 (pa + i))) 1)
      ∧ (∀ pa reg s0, resolve s o r n 1 permRd = .ok (.mem pa reg) → admitRead s s.cur pa reg n lv = .ok s0 → lv = .cl →
        let s1 := (l1Bytes s0 s0.cur pa n).1
        homeOnly s s1 ∧ sameMemory s s1
        ∧ gives s1 (l1Bytes s0 s0.cur pa n).2 (loadLatency s (.mem pa reg) n .cl)))

/-- ST and STV (R288): the low bytes of the data operand, or of the active elements, are stored at the resolved place.
Every byte outside the stored ones reads as before, but for the conflict word of an evicted line in its spill area (R64),
and no register changes. STV with no active element stores nothing and changes nothing but the program counter. ST.T (R285,
R288): a store within one line of memory at .CL, .SL or .MEM; its tag register becomes empty, and takes the line's sequence tag,
the next value of its bucket's counter (R65); nothing else changes. Across a line it raises the address fault; with a
scratchpad base it is an illegal instruction of cause 7 (R287).
The model's choices in it: log 1, log 11, log 37. -/
def Obligations.StoresWriteTheirBytes : Prop :=
  ((∀ (o : Opnd) (s : State) (r : Word × Word) (v : BitVec 4096), s.mgmt.powered = true → refSources s.cur o = .ok r →
      srcV s.cur (vreg o.d.toNat) o.feD = .ok v → activeSingle s.cur o.k = 0 →
      (memBankBase o = true ∨ ∃ x, refTarget s.cur o r = .ok x) →
      exec (.stv o) s = .next (wentOn s o s.cur))
   ∧ (∀ (o : Opnd) (s : State) (r : Word × Word) (i : Instr) (bs : List Byte), s.mgmt.powered = true →
      refSources s.cur o = .ok r →
      (i = .st o ∧ dataBytes s.cur o.d (2 ^ (o.fn.toNat % 8)) o.feD = .ok bs)
        ∨ (i = .stv o ∧ 0 < bs.length ∧ ∃ v, srcV s.cur (vreg o.d.toNat) o.feD = .ok v
            ∧ bs = bytesOf (activeSingle s.cur o.k * (vWidth s.cur / 8)) v.toNat) →
      let n : Nat := bs.length
      (∀ c a reg s0, resolve s o r n 1 permW = .ok (.bank c a reg) →
        checkGranules s c s.cur.id (slotCode s.cur.id) (.write 0x3F) a n = .ok s0 →
        let s1 := modSlot s0 c (fun u => bankWrite u a bs)
        exec i s = .next (advance s1 o) ∧ bankOnly s s1 [c]
        ∧ ∀ u, slotOf s c = some u → ∃ u', slotOf s1 c = some u' ∧ storesBank u u' a bs)
      ∧ (∀ pa reg s0, resolve s o r n 1 permW = .ok (.mem pa reg) →
        needReleased s (dieOf s.cur.id.core) (linesOf pa n) = .ok () →
        refusedByte s s.cur pa (linesOf pa n) rightWrite (storeLevel o = .mem) = none →
        checkLines s s.cur .write pa n (storeLevel o = .mem) = .ok s0 →
        let h := homeWrite s0 pa bs (storeLevel o = .mem)
        let s1 := l1Update h.1 h.1.cur pa bs
        exec i s = .next (advance s1 o) ∧ homeOnly s s1 ∧ storesMemory s s1 pa bs)))
  ∧ (∀ (core : CoreKind) (o : Opnd), memBankBase o = true →
      let h : Opnd := { o with c := o.c &&& 0x37#6 }
      decodeFields core 0x31 h = .ok (.stT h) → decodeFields core 0x31 o = .error 7)
    ∧ ∀ (o : Opnd) (s : State) (r : Word × Word) (bs : List Byte), s.mgmt.powered = true →
      refSources s.cur o false = .ok r → dataBytes s.cur o.d (2 ^ (o.fn.toNat % 8)) o.feD = .ok bs →
      let n : Nat := 2 ^ (o.fn.toNat % 8)
      let mem := decide (storeLevel o = .mem)
      ∀ h off, refTarget s.cur o r = .ok (.page h off) →
        (128 < off % 128 + n → faults (.stT o) s o 0x04)
        ∧ (off % 128 + n ≤ 128 → ∀ pa s0, checkPage h off n permW = .ok pa → dstG s.cur o.b = .ok () →
            needReleased s (dieOf s.cur.id.core) (linesOf pa n) = .ok () →
            refusedByte s s.cur pa (linesOf pa n) rightWrite mem = none →
            checkLines s s.cur .write pa n mem = .ok s0 →
            let tag : BitVec 16 := sget 0 s.counters (bucketKey (128 * (pa / 128))) + 1
            ∃ s1 t, exec (.stT o) s = .next t
              ∧ homeOnly s s1 ∧ storesMemory s s1 pa bs ∧ sget 0 s1.counters (bucketKey (128 * (pa / 128))) = tag
              ∧ wroteLong true s1 t o [(o.b, tag.setWidth 64)] [] 0 1)

/-- Where a reference faults (R20, R27, R29, R119 to R121, R127, R284, R285), for every instruction that makes one: with a
handle base an unbound handle, an empty one (which traps or is waited for), a misaligned offset, an offset outside the page, a
missing permission; a handle that a use finds bound and not valid is translated again (R120). With a scratchpad base a
misaligned target, an access that crosses a bank, a bank that the launch did not declare, a rank outside the troupe. An access
that its home refuses; a refused store is imprecise (R127). GATHER uses its handle at issue (R307). The machine goes on by
taking the fault.
The model's choices in it: log 11. -/
def Obligations.ReferenceFaults : Prop :=
  (∀ (o : Opnd) (s : State) (r : Word × Word) (i : Instr) (n align : Nat) (perm : BitVec 4), s.mgmt.powered = true →
    let size := 2 ^ (o.fn.toNat % 8)
    let vector := activeSingle s.cur o.k * (vWidth s.cur / 8)
    let half := if o.fn.getLsbD 3 then 8 else 4
    let indexed := refSources s.cur o = .ok r
    let plain := refSources s.cur o false = .ok r
    (i = .ld o ∧ indexed ∧ n = size ∧ align = 1 ∧ perm = permRd)
      ∨ (i = .st o ∧ indexed ∧ n = size ∧ align = 1 ∧ perm = permW ∧ ∃ bs, dataBytes s.cur o.d n o.feD = .ok bs)
      ∨ (i = .ldv o ∧ indexed ∧ n = vector ∧ 0 < n ∧ align = 1 ∧ perm = permRd)
      ∨ (i = .stv o ∧ indexed ∧ n = vector ∧ 0 < n ∧ align = 1 ∧ perm = permW ∧ ∃ v, srcV s.cur (vreg o.d.toNat) o.feD = .ok v)
      ∨ (i = .ldfe o ∧ indexed ∧ n = size ∧ align = n ∧ perm = permRd)
      ∨ (i = .stfe o ∧ indexed ∧ n = size ∧ align = n ∧ perm = permW ∧ ∃ bs, dataBytes s.cur o.d n o.feD = .ok bs)
      ∨ ((i = .atom o ∨ i = .xchg o ∨ (i = .cas o ∧ ∃ z, srcG s.cur o.d false = .ok z)) ∧ plain ∧ n = half ∧ align = n
          ∧ perm = permRwa ∧ ∃ y, srcG s.cur o.b o.feB = .ok y)
      ∨ ((i = .bararr o ∨ (i = .barexp o ∧ ∃ x, srcG s.cur o.d o.feD = .ok x)) ∧ plain ∧ n = 16 ∧ align = 16
          ∧ perm = permRwa) →
    let off := r.2.toInt * scaleOf o + dispOf o
    let hn : BitVec 4 := o.a.setWidth 4
    let h := s.cur.h[hn.toNat]
    (memBankBase o = false →
      (h.bound = false → faults i s o 0x07)
      ∧ (h.bound = true → h.full = false →
          (o.feA = true → faults i s o 0x2A (regOperand 3 hn.toNat))
          ∧ (o.feA = false → exec i s = .next (blockCtl s (.handle hn))))
      ∧ (h.bound = true → h.full = true → h.valid = true →
          (off % align ≠ 0 → faults i s o 0x04)
          ∧ (off % align = 0 →
            (off < 0 ∨ pageBytes h.size ≤ off → faults i s o 0x05 (BitVec.ofInt 64 off))
            ∧ (0 ≤ off → off < pageBytes h.size → pageBytes h.size < off + n → faults i s o 0x05 (word (pageBytes h.size)))
            ∧ (0 ≤ off → off < pageBytes h.size → off + n ≤ pageBytes h.size → (h.perm &&& perm ≠ perm ∨ h.kdh ≠ 0) →
                faults i s o 0x06 (BitVec.ofInt 64 off))))
      ∧ (h.bound = true → h.full = true → h.valid = false → s.cur.walks.any (fun w => w.h = hn && w.due.isSome) = false →
          let others := s.cur.walks.filter (fun w => w.h ≠ hn)
          (∀ l, cachedLeaf s.cur h.vpage = some l → ∃ w : Walk, w.h = hn ∧ w.due = some (s.cycle + 48) ∧ w.leaf = some l
            ∧ exec i s = .next (blockCtl { s with cur := { s.cur with walks := others ++ [w] } } (.refill hn)))
          ∧ (cachedLeaf s.cur h.vpage = none → o.feA = false → ∃ w : Walk, w.h = hn ∧ w.due = none
            ∧ exec i s = .next (blockCtl { s with cur := { s.cur with
                h := s.cur.h.set hn.toNat { h with full := false, walk := true }, walks := others ++ [w] } } (.handle hn)))))
    ∧ (∀ rank a, memBankBase o = true → bankTarget o r = .ok (.bank rank a) →
        (a % align ≠ 0 → faults i s o 0x04)
        ∧ (a % align = 0 → a / 2 ^ 18 ≠ (a + n - 1) / 2 ^ 18 → faults i s o 0x04)
        ∧ (a % align = 0 → a / 2 ^ 18 = (a + n - 1) / 2 ^ 18 →
          (rank = none → (recBmask s.cur.record).getLsbD (a / 2 ^ 18) = false → faults i s o 0x08 (word a))
          ∧ ∀ k, rank = some k → (troupeSize s.cur = 0 ∨ troupeSize s.cur ≤ k) →
              faults i s o 0x0C (word (2 ^ 32 + k * 2 ^ 22 + a))))
    ∧ (∀ pa reg b, resolve s o r n align perm = .ok (.mem pa reg) →
        let loads := homeLines s s.cur pa n (loadLevel s.cur o)
        let here := needReleased s (dieOf s.cur.id.core)
        (∀ d, ((i = .ld o ∧ d = dstRegs s.cur (dataRegs o.d n)) ∨ (i = .ldv o ∧ d = dstV s.cur (vreg o.d.toNat))) →
          d = .ok () → here loads = .ok () →
          refusedByte s s.cur pa loads rightRead (loadLevel s.cur o = .mem) = some b → faults i s o 0x25 (reg + word (b - pa)))
        ∧ (i = .st o ∨ i = .stv o → here (linesOf pa n) = .ok () →
          refusedByte s s.cur pa (linesOf pa n) rightWrite (storeLevel o = .mem) = some b →
          exec i s = .next (takeFault s (ctlSite s o)
            { code := 0x25, operand := reg + word (b - pa), imprecise := true } (codeOff s)))
        ∧ (i = .atom o ∨ i = .cas o ∨ i = .xchg o →
          dstRegs s.cur (if o.fn.getLsbD 4 then [o.d, o.d + 1] else [o.d]) = .ok () → here (linesOf pa n) = .ok () →
          refusedByte s s.cur pa (linesOf pa n) rightAtomic (o.lvl = 3) = some b → faults i s o 0x25 (reg + word (b - pa)))))
  ∧ ∀ (o : Opnd) (s : State) (dst idx : Word), s.mgmt.powered = true → srcG s.cur o.d o.feD = .ok dst →
      srcG s.cur o.b o.feB = .ok idx →
      let h := s.cur.h[(o.a.setWidth 4).toNat]
      (h.bound = false → faults (.gather o) s o 0x07)
      ∧ (h.bound = true → h.full = false →
          (o.feA = true → faults (.gather o) s o 0x2A (regOperand 3 (o.a.setWidth 4 : BitVec 4).toNat))
          ∧ (o.feA = false → exec (.gather o) s = .next (blockCtl s (.handle (o.a.setWidth 4)))))

/-! ## Full/empty granules (R44, R45, R290 to R292) -/

/-- LDFE and STFE (R291): LDFE waits for a full granule of a bank, or raises the empty-granule trap under !, reads it,
and under .CLR makes it empty; STFE stores and makes it full. FESET, FECLR and FEPEEK (R290, R291): d + 1 granules from
that of the target become full or empty, or the target's granule is read; no byte changes. Deterministic mode judges each
access first (R195), and raises the determinism trap for FEPEEK (R188). A range that leaves its bank, or lies in a bank that
the launch did not declare, raises the scratchpad-ownership fault, and no bit changes (R291).
The model's choices in it: log 1, log 32, log 72, log 96. -/
def Obligations.FullEmptyAccess : Prop :=
  (∀ (o : Opnd) (s s0 : State) (r : Word × Word) (c : SlotId) (a : Nat) (reg : Word) (u : Slot),
     s.mgmt.powered = true → refSources s.cur o = .ok r → slotOf s c = some u →
     let n : Nat := 2 ^ (o.fn.toNat % 8)
     let clr := o.fn.getLsbD 4
     (resolve s o r n n permRd = .ok (.bank c a reg) →
       (granuleFull u (a / 16) = false → o.feA = true → faults (.ldfe o) s o 0x2B reg)
       ∧ (granuleFull u (a / 16) = false → o.feA = false → ∃ obj, exec (.ldfe o) s = .next (blockCtl s obj))
       ∧ (granuleFull u (a / 16) = true → dstRegs s.cur (dataRegs o.d n) = .ok () →
           checkGranules s c s.cur.id (slotCode s.cur.id) (.waiting clr) a n = .ok s0 → bankPoisoned u a n = false →
           let s1 := if clr then modSlot s0 c (fun u => setGranule u (a / 16) false) else s0
           ∃ t, exec (.ldfe o) s = .next t
             ∧ wroteLong o.feD s1 t o
                 (loadResult o.d n (o.fn.getLsbD 3) ((List.range n).map (fun i => bankByte u (a + i)))) [] 0
                 (if c = s.cur.id then 4 else 8 + 4 * tileHops s.cur.id.core c.core)))
     ∧ (∀ bs, dataBytes s.cur o.d n o.feD = .ok bs → resolve s o r n n permW = .ok (.bank c a reg) →
         checkGranules s c s.cur.id (slotCode s.cur.id) (.write s.cur.det.rc) a n = .ok s0 →
         let t := advance (modSlot s0 c (fun u => setGranule (bankWrite u a bs) (a / 16) true)) o
         exec (.stfe o) s = .next t
         ∧ ∃ u', slotOf t c = some u' ∧ granuleFull u' (a / 16) = true
           ∧ (∀ g, g ≠ a / 16 → granuleFull u' g = granuleFull u g)
           ∧ ∀ x, bankByte u' x = if a ≤ x ∧ x < a + n then bs.getD (x - a) 0 else bankByte u x))
  ∧ (∀ (o : Opnd) (s s0 : State) (c : SlotId) (a : Nat) (reg : Word) (u : Slot), s.mgmt.powered = true →
     slotOf s c = some u →
     let n := o.d.toNat + 1
     let marks (i : Instr) (full : Bool) (k : GranAccess) : Prop :=
       checkGranules s c s.cur.id (slotCode s.cur.id) k a (16 * n) = .ok s0 →
       let t := advance (modSlot s0 c (fun u => setGranules u a (16 * n) full)) o
       exec i s = .next t
       ∧ ∃ u', slotOf t c = some u' ∧ u'.banks = u.banks ∧ u'.g = u.g
         ∧ ∀ g, granuleFull u' g = if a / 16 ≤ g ∧ g < a / 16 + n then full else granuleFull u g
     (granuleRange s o n = .ok (c, a, reg) →
       marks (.feset o) true (.publish s.cur.det.rc) ∧ marks (.feclr o) false (.write 0x3F))
     ∧ (granuleRange s o 1 = .ok (c, a, reg) → dstG s.cur o.d = .ok () →
         (isDet s.cur = false →
             ∃ t, exec (.fepeek o) s = .next t ∧ wrote s t o [(o.d, if granuleFull u (a / 16) then 1 else 0)] [] 0)
         ∧ (isDet s.cur = true → exec (.fepeek o) s = .next (takeFault s (ctlSite s o)
             { code := 0x21, operand := reg, dcheck := 6, dagent := slotCode s.cur.id } (codeOff s)))))
  ∧ ∀ (o : Opnd) (s : State) (r : Word × Word) (i : Instr) (n : Nat) (rank : Option Nat) (a : Nat), s.mgmt.powered = true →
     refSources s.cur o = .ok r → memBankBase o = true → bankTarget o r = .ok (.bank rank a) →
     (i = .feset o ∧ n = o.d.toNat + 1) ∨ (i = .feclr o ∧ n = o.d.toNat + 1) ∨ (i = .fepeek o ∧ n = 1) →
     let g := a / 16 * 16
     let refused : Prop := faults i s o 0x08 (match rank with | none => word g | some k => word (2 ^ 32 + k * 2 ^ 22 + g))
       ∧ ∃ t, exec i s = .next t ∧ ∀ c, (slotOf t c).map (fun u => u.empty) = (slotOf s c).map (fun u => u.empty)
     (g / 2 ^ 18 ≠ (g + 16 * n - 1) / 2 ^ 18 → refused)
     ∧ (g / 2 ^ 18 = (g + 16 * n - 1) / 2 ^ 18 → rank = none → (recBmask s.cur.record).getLsbD (g / 2 ^ 18) = false → refused)

/-! ## Addresses and handles (R116 to R120, R279, R294, R295) -/

/-- ADDR (R240, R279): the page offset of a handle reference, or the register form of a scratchpad target. XLAT, HREL and
HINFO (R116, R117, R118, R120, R294, R295): XLAT binds the handle, empties it, abandons any outstanding walk of it, and
asks the translation cache, which answers 32 cc later, or starts a walk. HREL unbinds. HINFO reads one half of the
handle's 128 bits.
The model's choices in it: log 2. -/
def Obligations.AddressesAndHandles : Prop :=
  (∀ (o : Opnd) (s : State) (r : Word × Word), s.mgmt.powered = true → dstG s.cur o.d = .ok () →
     refSources s.cur o = .ok r →
     (memBankBase o = false → writes1 (.addr o) s o o.d (BitVec.ofInt 64 (r.2.toInt * scaleOf o + dispOf o)))
     ∧ (∀ rank a, memBankBase o = true → bankTarget o r = .ok (.bank rank a) →
         writes1 (.addr o) s o o.d (match rank with
           | none => word a
           | some k => word (2 ^ 32 + k * 2 ^ 22 + a))))
  ∧ (∀ (o : Opnd) (s : State), s.mgmt.powered = true →
     let hd : Fin 16 := (o.d.setWidth 4).toFin
     let dropped := s.pageFaults.filter (fun f => !(sameItem f.owner (refOf s.cur 0) && f.handle = some (o.d.setWidth 4)))
     let others := s.cur.walks.filter (fun w => w.h ≠ o.d.setWidth 4)
     (∀ x, srcG s.cur o.a o.feA = .ok x →
       let va := x + o.imm16.signExtend 64
       (2 ^ 56 ≤ va.toNat → faults (.xlat o) s o 0x04)
       ∧ (va.toNat < 2 ^ 56 →
         let hit := (cachedLeaf s.cur (va.extractLsb' 16 40)).isSome
         let due := if hit then some (s.cycle + 32) else none
         let w : Walk :=
           { h := o.d.setWidth 4, va, due, since := s.cycle, leaf := cachedLeaf s.cur (va.extractLsb' 16 40)
             coff := (ctlSite s o).coff, len := (ctlSite s o).len }
         let old := s.cur.h[hd]
         let h : Handle := { old with full := false, bound := true, valid := false, vpage := va.extractLsb' 16 40, walk := !hit }
         exec (.xlat o) s = .next (wentOn { s with pageFaults := dropped } o
           { s.cur with h := s.cur.h.set hd h, walks := others ++ [w] })))
     ∧ (let old := s.cur.h[hd]
        let h : Handle := { old with full := true, bound := false, valid := false, walk := false }
        exec (.hrel o) s = .next (wentOn { s with pageFaults := dropped } o
          { s.cur with h := s.cur.h.set hd h, walks := others }))
     ∧ (dstG s.cur o.d = .ok () → (isDet s.cur = true → ∃ h, useHandle s.cur (o.a.setWidth 4) o.feA = .ok h) →
         let bits := handleBits s.cur.h[(o.a.setWidth 4).toNat]
         (o.fn = 1 → writes1 (.hinfo o) s o o.d (bits.extractLsb' 64 64))
         ∧ (o.fn ≠ 1 → writes1 (.hinfo o) s o o.d (bits.extractLsb' 0 64))))

/-! ## Atomics (R178, R296 to R298) -/

/-- ATOM, CAS and XCHG (R296, R297): one indivisible read and write of 4 or 8 bytes in memory or a bank. The destination
takes the old value, CAS stores field b only where the old value equals the destination before it, and under .T the next register
takes the sequence tag of the line (R65); with a scratchpad base .T is an illegal instruction of cause 7 (R296). Every other byte and register is as before. In deterministic mode
the conflict rule comes first, and an ATOM to g0 is a reduction (R298).
The model's choices in it: log 1, log 2, log 33, log 37, log 100. -/
def Obligations.Atomics : Prop :=
  (∀ (core : CoreKind) (op : BitVec 7) (o : Opnd) (i : Opnd → Instr), memBankBase o = true → o.fn.getLsbD 4 = true →
    (op = 0x3A ∧ i = .atom) ∨ (op = 0x3B ∧ i = .cas) ∨ (op = 0x3C ∧ i = .xchg) →
    let h : Opnd := { o with c := o.c &&& 0x37#6 }
    decodeFields core op h = .ok (i h) → decodeFields core op o = .error 7)
  ∧ ∀ (o : Opnd) (s s0 : State) (r : Word × Word) (y : Word), s.mgmt.powered = true →
    refSources s.cur o false = .ok r → srcG s.cur o.b o.feB = .ok y →
    let n : Nat := if o.fn.getLsbD 3 then 8 else 4
    let tagged := o.fn.getLsbD 4
    let mem := decide (o.lvl = 3)
    let y' := y.toNat % 2 ^ (8 * n)
    let rc := s.cur.det.rc
    let results (old : Nat) (tag : BitVec 16) : List (BitVec 6 × Word) :=
      if tagged then [(o.d, word old), (o.d + 1, tag.setWidth 64)] else [(o.d, word old)]
    let atomic (i : Instr) (reduce : Bool) (new : Nat → Nat) : Prop :=
      (∀ c a reg u, tagged = false → resolve s o r n n permRwa = .ok (.bank c a reg) →
        checkGranules s c s.cur.id (slotCode s.cur.id) (if reduce then .reduce rc else .write rc) a n = .ok s0 →
        slotOf s c = some u → bankPoisoned u a n = false →
        let old := leNat ((List.range n).map (fun i => bankByte u (a + i)))
        ∃ s1 t u', exec i s = .next t ∧ bankOnly s s1 [c] ∧ slotOf s1 c = some u'
          ∧ storesBank u u' a (bytesOf n (new old))
          ∧ wroteLong o.feD s1 t o (results old 0) [] 0
              (if c = s.cur.id then 4 else 8 + 4 * tileHops s.cur.id.core c.core))
      ∧ (∀ pa reg, resolve s o r n n permRwa = .ok (.mem pa reg) →
          needReleased s (dieOf s.cur.id.core) (linesOf pa n) = .ok () →
          refusedByte s s.cur pa (linesOf pa n) rightAtomic mem = none → poisoned s pa n = false →
          checkLines s s.cur (if reduce then .reduce else .write) pa n mem = .ok s0 →
          let old := leNat ((List.range n).map (fun i => memByte s0 (pa + i)))
          let tag : BitVec 16 := sget 0 s.counters (bucketKey (128 * (pa / 128))) + 1
          homeOnly s s0 ∧ sameMemory s s0
          ∧ ∃ s1 t, exec i s = .next t ∧ homeOnly s s1 ∧ storesMemory s s1 pa (bytesOf n (new old))
            ∧ sget 0 s1.counters (bucketKey (128 * (pa / 128))) = tag
            ∧ wroteLong o.feD s1 t o (results old tag) [] 0 1)
    dstRegs s.cur (if tagged then [o.d, o.d + 1] else [o.d]) = .ok () →
    atomic (.xchg o) false (fun _ => y')
    ∧ (∀ z, srcG s.cur o.d false = .ok z →
        atomic (.cas o) false (fun old => if old = z.toNat % 2 ^ (8 * n) then y' else old))
    ∧ (let k := o.fn.toNat % 8
       let sg (v : Nat) : Int := readInt true (8 * n) v
       atomic (.atom o) (o.d = 0) (fun old =>
         if k = 0 then (old + y') % 2 ^ (8 * n) else if k = 1 then old &&& y' else if k = 2 then old ||| y'
         else if k = 3 then old ^^^ y' else if k = 4 then (if sg y' < sg old then y' else old)
         else if k = 5 then (if sg old < sg y' then y' else old) else if k = 6 then min old y' else max old y'))
/-! ## Ordering, waiting, QPUB, barrier objects, gathers and cache control (R174 to R187, R216 to R223, R299 to R310) -/

/-- MARK and the FENCEs (R174, R179, R180, R193): they wait for the stream's barrier updates, and a release in deterministic
mode also for the writes that the engine contexts have sent; an acquire at TROUPE or wider drops the issuing L1; in
deterministic mode an acquire makes the pending pairs effective and a release counts one more, up to 61.
CINV, CWB and PREF (R309, R310): the lines from that of the target, d + 1 of them or as many as its page still has.
CINV drops their copies in the issuing L1, or in the L1s of its cluster in fused mode; CWB makes them clean at their homes;
PREF fills the issuing L1, or the home slices at .SL, and makes no L1 fill in deterministic mode. No register and no byte
changes, but for a conflict word that a line evicted by a fill leaves in a spill area (R64). A scratchpad base is an illegal
instruction of cause 7 (R309).
The model's choices in it: log 1, log 15, log 37, log 111. -/
def Obligations.FencesAndCacheControl : Prop :=
  (∀ (o : Opnd) (s : State), s.mgmt.powered = true →
     let rel (t : Slot) : Slot :=
       if isDet s.cur then { t with det := { t.det with rc := s.cur.det.rc + 1 } } else t
     let inv : State := if 2 ≤ o.lvl.toNat then l1Invalidate s s.cur.id.core else s
     let sent := isDet s.cur && engineWrites s s.cur
     (updatesPending s s.cur = true → ∀ i, i = .mark o ∨ i = .fenceAcq o ∨ i = .fenceWack o ∨
         sent = false ∧ (i = .fenceRel o ∨ i = .fenceAr o) → exec i s = .next (blockCtl s .updates))
     ∧ (sent = true → exec (.fenceRel o) s = .next (blockCtl s .sentWrites)
         ∧ exec (.fenceAr o) s = .next (blockCtl s .sentWrites))
     ∧ (updatesPending s s.cur = false →
       exec (.mark o) s = .next (wentOn s o s.cur)
       ∧ exec (.fenceWack o) s = .next (wentOn s o s.cur)
       ∧ (sent = false → (isDet s.cur = true → s.cur.det.rc.toNat + 1 < 62) →
           exec (.fenceRel o) s = .next (wentOn s o (rel s.cur)))
       ∧ (sent = false → isDet s.cur = true → 62 ≤ s.cur.det.rc.toNat + 1 → faults (.fenceRel o) s o 0x20)
       ∧ (∀ t, acquirePending s.cur = .ok t → (isDet s.cur = false → t = s.cur)
           ∧ (isDet s.cur = true → t.det.pending = [] ∧ t.det.table.length ≤ 16)
           ∧ exec (.fenceAcq o) s = .next (wentOn inv o t)
           ∧ (sent = false → (isDet s.cur = true → s.cur.det.rc.toNat + 1 < 62) → exec (.fenceAr o) s = .next (wentOn inv o (rel t)))))
     ∧ (2 ≤ o.lvl.toNat → ∀ x ∈ inv.l1, x.core ≠ s.cur.id.core)
     ∧ ∀ a, memByte inv a = memByte s a)
  ∧ (∀ (core : CoreKind) (o : Opnd) (i : Opnd → Instr), memBankBase o = true → i = .cinv ∨ i = .cwb ∨ i = .pref →
      let h : Opnd := { o with c := o.c &&& 0x37#6 }
      decodeFields core 0x44 h = .ok (i h) → decodeFields core 0x44 o = .error 7)
    ∧ ∀ (o : Opnd) (s : State) (r : Word × Word), s.mgmt.powered = true → refSources s.cur o = .ok r →
      let core := s.cur.id.core
      ∀ h off, refTarget s.cur o r = .ok (.page h off) →
        let lines (pa : Nat) : List Nat :=
          (List.range (min (o.d.toNat + 1) ((h.base + h.size) / 128 - pa / 128))).map (fun i => pa / 128 + i)
        (∀ pa, checkPage h off 1 permRd = .ok pa →
          ∃ t, exec (.cinv o) s = .next t ∧ t = { wentOn s o s.cur with l1 := t.l1 }
            ∧ ∀ x, x ∈ t.l1 ↔ x ∈ s.l1 ∧ ¬ (x.line ∈ lines pa ∧
                if isFused s core then clusterOf x.core = clusterOf core else x.core = core))
        ∧ (∀ pa, checkPage h off 1 permW = .ok pa → needReleased s (dieOf core) (lines pa) = .ok () →
          ∃ t, exec (.cwb o) s = .next t ∧ t = { wentOn s o s.cur with lines := t.lines }
            ∧ ∀ l, lineWord t l =
                if l ∈ lines pa ∧ admitMem s s.cur (128 * l) rightWrite false = true then lineWord s l &&& ~~~4#32
                else lineWord s l)
        ∧ (∀ pa, checkPage h off 1 permRd = .ok pa → needReleased s (dieOf core) (lines pa) = .ok () →
          let here (s' : State) : Prop := homeOnly s s' ∧ sameMemory s s'
          let fill (s' : State) (l : Nat) : State :=
            if admitMem s s.cur (128 * l) rightRead false = false then s'
            else if o.lvl = 2 then touchLine s' l false
            else if isDet s.cur then s' else (l1Read s' s.cur l).1
          exec (.pref o) s = .next (advance ((lines pa).foldl fill s) o)
          ∧ here ((lines pa).foldl fill s)
          ∧ ∀ s' l, here s' → l ∈ lines pa → admitMem s s.cur (128 * l) rightRead false = true →
              here (fill s' l)
              ∧ (o.lvl = 2 → (lineWord (fill s' l) l).getLsbD 0 = true ∧ (fill s' l).l1 = s'.l1)
              ∧ (o.lvl ≠ 2 → isDet s.cur = true → fill s' l = s')
              ∧ (o.lvl ≠ 2 → isDet s.cur = false → l1Has (fill s' l) s.cur l = true))

/-- WAIT (R216 to R218, R300, R301): with its condition words readable and well formed it returns in the cc of issue when
its combination holds, the destination taking a bit for each condition that holds, and blocks otherwise. Its condition
words (R301, R302): reserved bits raise the wait-format fault, a counter outside the launch the counter-ownership fault,
an undeclared bank the scratchpad-ownership fault, a troupe granule the troupe-address fault, an undeclared tile the
tile-ownership fault; a barrier word has no reserved bit. In deterministic mode the granules that it waited for are judged
before it returns (R195), and WAIT.ANY raises the determinism trap (R188).
The model's choices in it: log 31. -/
def Obligations.Waiting : Prop :=
  (∀ (o : Opnd) (s : State) (conds : List Word) (b : Word) (phases : List (Nat × BitVec 32 × BitVec 3)), writable s o →
     waitWords s.cur o = .ok conds → srcG s.cur o.b o.feB = .ok b →
     conds.foldlM (fun acc c => (checkCond s o.feA c).map (fun p => acc ++ p)) [] = .ok phases →
     let any := o.c.getLsbD 2 && conds.length > 1
     (any = true → isDet s.cur = true → exec (.wait o) s = .next (takeFault s (ctlSite s o)
       { code := 0x21, dcheck := 5, dagent := slotCode s.cur.id } (codeOff s)))
     ∧ ((any = true → isDet s.cur = false) →
     let w : WaitState :=
       { conds, any, acq := o.fn.setWidth 4, scope := o.lvl, t0 := s.cycle / 16, timeout := b + o.imm16.setWidth 64,
         dest := o.d, phases }
     let holds (i : Nat) : Bool := condHolds s.cur w i
     let met : Prop := if any then ∃ i, i < conds.length ∧ holds i = true else ∀ i, i < conds.length → holds i = true
     conds.length = o.c.toNat % 4 + 1
     ∧ (isDet s.cur = false → waitReads s s.cur.id w = .ok s)
     ∧ (met → ∀ s0, waitReads s s.cur.id w = .ok s0 → ∃ t r, exec (.wait o) s = .next t ∧ t.cur.ctl.pc = s.cur.ctl.pc + 8 ∧ t.cur.ctl.blocked = none
         ∧ t.cur.wait = none ∧ setsG s t [(o.d, r)] ∧ (∀ i, r.getLsbD i = (decide (i < conds.length) && holds i))
         ∧ setsV s t [] ∧ t.cur.flags = s.cur.flags ∧ sameBytes s t ∧ t.rest = s.rest)
     ∧ (¬ met → exec (.wait o) s = .next { s with cur := { s.cur with
         wait := some w, ctl := { s.cur.ctl with blocked := some .waiting, issued := true } } })))
  ∧ (∀ (o : Opnd) (s : State) (c b : Word), s.mgmt.powered = true → o.c.toNat % 4 = 0 → srcG s.cur o.a o.feA = .ok c →
     srcG s.cur o.b o.feB = .ok b →
     let kind := c.toNat / 2 ^ 62
     (kind = 0 → c.toNat / 2 ^ 48 % 2 ^ 10 ≠ 0 → faults (.wait o) s o 0x10)
     ∧ (kind = 0 → c.toNat / 2 ^ 48 % 2 ^ 10 = 0 → recNctr s.cur.record ≤ c.toNat / 2 ^ 58 % 16 → faults (.wait o) s o 0x0B)
     ∧ (kind = 1 → c.toNat / 2 ^ 33 % 2 ^ 29 ≠ 0 → faults (.wait o) s o 0x10)
     ∧ (kind = 1 → c.toNat / 2 ^ 33 % 2 ^ 29 = 0 → c.getLsbD 32 = false →
         ownsBank s.cur (c.toNat % 2 ^ 32) = false → faults (.wait o) s o 0x08 (word (c.toNat % 2 ^ 32)))
     ∧ (kind = 1 → c.toNat / 2 ^ 33 % 2 ^ 29 = 0 → c.getLsbD 32 = true →
         faults (.wait o) s o 0x0C (word (c.toNat % 2 ^ 33)))
     ∧ (kind = 2 → c.toNat / 2 ^ 3 % 2 ^ 59 ≠ 0 → faults (.wait o) s o 0x10)
     ∧ (kind = 2 → c.toNat / 2 ^ 3 % 2 ^ 59 = 0 → (recAmask s.cur.record).getLsbD (c.toNat % 8) = false →
         faults (.wait o) s o 0x09))

/-- QPUB and QPUB.OFF (R303, R304): status 0 binds counter c of the named slot to counter a, 1 no item there, 2 another
tenant or context, 3 four bindings already, 4 a counter that is outside the launch, bound, or used; .OFF releases the
binding of the item that the slot holds, wherever the item is. -/
def Obligations.CounterPublication : Prop :=
  ∀ (o : Opnd) (s : State) (x : Word), writable s o → srcG s.cur o.b o.feB = .ok x →
    let qa : Fin 16 := (o.a.setWidth 4).toFin
    let qc : Fin 16 := (o.c.setWidth 4).toFin
    let c : SlotId := ⟨x.extractLsb' 0 8, x.getLsbD 8⟩
    let src := s.cur.q[qa]
    (coreKind c.core = none → faults (.qpub o) s o 0x0D ∧ faults (.qpubOff o) s o 0x0D)
    ∧ ((coreKind c.core).isSome = true → recNctr s.cur.record ≤ o.a.toNat →
        faults (.qpub o) s o 0x0B ∧ faults (.qpubOff o) s o 0x0B)
    ∧ ((coreKind c.core).isSome = true → o.a.toNat < recNctr s.cur.record →
      ((slotOf s c).bind (fun t => t.item) = none → writes1 (.qpub o) s o o.d 1)
      ∧ (∀ t i, slotOf s c = some t → t.item = some i →
        let tgt := t.q[qc]
        let used : Prop := recNctr t.record ≤ qc.val ∨ tgt.boundBy.isSome ∨ tgt.issued ≠ 0
        (t.tenant ≠ s.cur.tenant ∨ t.context ≠ s.cur.context → writes1 (.qpub o) s o o.d 2)
        ∧ (t.tenant = s.cur.tenant → t.context = s.cur.context →
          (4 ≤ src.bindings.length → writes1 (.qpub o) s o o.d 3)
          ∧ (src.bindings.length < 4 → used → writes1 (.qpub o) s o o.d 4)
          ∧ (src.bindings.length < 4 → ¬ used →
            let b : Binding := { target := c, queue := i.queue, ordinal := i.ordinal, index := i.index,
                                 q := o.c.setWidth 4, scope := o.lvl, sent := BitVec.allOnes 64 }
            let bound : Counter := { tgt with boundBy := some (s.cur.id, itemKey s.cur), scope := o.lvl }
            let s1 := modSlot s c (fun t => { t with q := t.q.set qc bound })
            let mine : Counter := { s1.cur.q[qa] with bindings := s1.cur.q[qa].bindings ++ [b] }
            exec (.qpub o) s = .next (wentOn s1 o (setG { s1.cur with q := s1.cur.q.set qa mine } o.d 0)))))
      ∧ (let names := boundTo s c (o.c.setWidth 4)
         (src.bindings.find? names = none → writes1 (.qpubOff o) s o o.d 1)
         ∧ ∀ b, src.bindings.find? names = some b →
            let mine : Counter := { src with bindings := src.bindings.filter (fun y => y ≠ b) }
            let s1 := mapItems { s with cur := { s.cur with q := s.cur.q.set qa mine } } (fun t =>
              if t.item.isSome ∧ itemKey t = (b.queue.toNat, b.ordinal, b.index)
              then { t with q := t.q.set qc { t.q[qc] with boundBy := none } } else t)
            exec (.qpubOff o) s = .next (wentOn s1 o (setG s1.cur o.d 0))))

/-- BARARR (R221, R222, R306): one arrival at the 16-byte object that the reference names, the destination taking the
phase before it. When arrive reaches 0 with txn 0 the phase advances and arrive takes expect. A malformed object and a
count that would pass 0 raise their faults, with no effect. BAREXP only sends its update, numbered among those of its source
and after the one before it on the line (R76); 64 can be on their way. The phase change of a launch is stated where no deterministic launch has an epoch barrier.
The model's choices in it: log 1. -/
def Obligations.BarrierObjects : Prop :=
  ∀ (o : Opnd) (s : State) (pa : Nat) (reg : Word), s.mgmt.powered = true → barrierPlace s o = .ok (pa, reg) →
    let v := memNat s pa 16
    let phase := v / 2 ^ 96
    let expect := v / 2 ^ 80 % 2 ^ 16
    let arrive := v / 2 ^ 64 % 2 ^ 16
    let txn := v / 2 ^ 32 % 2 ^ 32
    let scope := v / 2 ^ 4 % 8
    let malformed : Prop := v / 2 ^ 7 % 2 ^ 25 ≠ 0 ∨ v % 16 ≠ 0 ∨ expect = 0 ∨ 6 ≤ scope
    needReleased s (dieOf s.cur.id.core) [pa / 128] = .ok () →
    (dstG s.cur o.d = .ok () → updatesPending s s.cur = false →
      (admitMem s s.cur pa rightAtomic false = false → faults (.bararr o) s o 0x25 reg)
      ∧ (admitMem s s.cur pa rightAtomic false = true → poisoned s pa 16 = false →
        (malformed → faults (.bararr o) s o 0x11)
        ∧ (¬ malformed → arrive = 0 → faults (.bararr o) s o 0x12)
        ∧ (¬ malformed → 0 < arrive → (∀ p ∈ s.queues, ∀ l ∈ p.2.launches, recDet l.record = true → recEbar l.record = 0) →
            completes (.bararr o) s o (fun t =>
              setsG s t [(o.d, word phase)] ∧ setsV s t [] ∧ t.cur.flags = s.cur.flags
              ∧ memNat t pa 16 = (if arrive = 1 ∧ txn = 0
                  then (phase + 1) % 2 ^ 32 * 2 ^ 96 + expect * 2 ^ 80 + expect * 2 ^ 64 + scope * 2 ^ 4
                  else phase * 2 ^ 96 + expect * 2 ^ 80 + (arrive - 1) * 2 ^ 64 + txn * 2 ^ 32 + scope * 2 ^ 4)
              ∧ (∀ a, a < pa ∨ pa + 16 ≤ a → ¬ spillByte s a → memByte t a = memByte s a) ∧ t.cur.banks = s.cur.banks))))
    ∧ (updatesPending s s.cur = true → dstG s.cur o.d = .ok () → exec (.bararr o) s = .next (blockCtl s .updates))
    ∧ ∀ x, srcG s.cur o.d o.feD = .ok x →
        let u : BarrierUpdate := { issuer := refOf s.cur 0, addr := pa, delta := (x.setWidth 32).toInt, source := 0,
                                   coff := (ctlSite s o).coff, len := (ctlSite s o).len, sent := s.cycle,
                                   offset := reg.toNat, tenant := s.cur.tenant, context := s.cur.context }
        let before := s.barriers.filter (fun u => sameItem u.issuer (refOf s.cur 0) && u.source = 0)
        let source := 1 + 32 * (slotCode s.cur.id).toNat
        let num := sget 0 s.sourceNums source
        let pred := (((before.filter (fun u => u.addr / 128 = pa / 128)).map (fun u => u.order.num)).getLast?)
        (before.length < 64 → exec (.barexp o) s = .next (wentOn { s with
            barriers := s.barriers ++ [{ u with order := { num, pred } }]
            sourceNums := sset 0 s.sourceNums source (num + 1) } o s.cur))
        ∧ (64 ≤ before.length → exec (.barexp o) s = .next (holdCtl s))

/-- GATHER (R71, R307, R308): the destination granules become empty and an engine operation on counter c is issued with
the number after the counter's issue count; overlap, a foreign bank and a counter outside the launch fault.
The model's choices in it: log 1. -/
def Obligations.GatherIsIssued : Prop :=
  ∀ (o : Opnd) (s : State) (dst idx : Word) (h : Capture), s.mgmt.powered = true → srcG s.cur o.d o.feD = .ok dst →
    srcG s.cur o.b o.feB = .ok idx → useHandle s.cur (o.a.setWidth 4) o.feA = .ok h →
    let esize := 2 ^ o.fn.toNat
    let count := o.imm16.toNat
    let foot := (count * esize + 15) / 16 * 16
    let d := dst.toNat
    let i := idx.toNat
    let q : Fin 16 := (o.c.setWidth 4).toFin
    d < 2 ^ 22 → i < 2 ^ 22 → d % 16 = 0 → i % 4 = 0 →
    (d < i + 4 * count → i < d + foot → faults (.gather o) s o 0x04)
    ∧ (¬ (d < i + 4 * count ∧ i < d + foot) →
      (recNctr s.cur.record ≤ o.c.toNat → faults (.gather o) s o 0x0B)
      ∧ (o.c.toNat < recNctr s.cur.record → o.c.toNat < 16 → s.cur.q[q].boundBy = none →
        (ownsRange s.cur d foot = false → faults (.gather o) s o 0x08 dst)
        ∧ (ownsRange s.cur d foot = true → ownsRange s.cur i (4 * count) = false → faults (.gather o) s o 0x08 idx)
        ∧ (ownsRange s.cur d foot = true → ownsRange s.cur i (4 * count) = true →
          let c := s.cur.q[q]
          let op : Op := { id := s.cur.nextOp, q := some (o.c.setWidth 4), num := c.issued.toNat + 1, source := 3,
                           coff := (ctlSite s o).coff, work := .gather d i h esize count [] [] [] }
          let t : Slot := { s.cur with q := s.cur.q.set q { c with issued := c.issued + 1 }, ops := s.cur.ops ++ [op],
                                       nextOp := s.cur.nextOp + 1, empty := (setGranules s.cur d foot false).empty }
          exec (.gather o) s = .next (wentOn s o t)
          ∧ ∀ g, granuleFull t g = (granuleFull s.cur g && !(decide (d / 16 ≤ g) && decide (g < (d + foot) / 16))))))

/-! ## Vector instructions (R312 to R337) -/

/-- VADD, VSUB, VMUL, VDIV and VFMA (R317, R319 to R322): each active element is the exact result of its operands under
MODE, rounded once, and the flags of all elements are raised; .G takes the second operand from a general register, .Z
clears the inactive elements; VDIV is marked L. -/
def Obligations.VectorFloatArithmetic : Prop :=
  ∀ (o : Opnd) (s : State), s.mgmt.powered = true →
    let w := vWidth s.cur
    let act := activeCount s.cur o.k
    let size := groupSize act (vCount s.cur)
    let f := floatFmt (o.fn.toNat % 4)
    let m := s.cur.mode
    let num (x : Nat) : NumVal := readNum f m x
    let x (j : Nat) : NumVal := num (elemAt s o.a w j)
    let rounded (i : Instr) (defer : Bool) (n : Nat) (op : Nat → NumVal × BitVec 6) : Prop :=
      writesElems i s o size w act (o.fn.getLsbD 2) defer
        (fun j => ((roundNum f m (op j).1).1, (op j).2 ||| (roundNum f m (op j).1).2)) (n + 2 * (size - 1))
    w = f.w → groupFull s o.a size → groupFree s o.d size →
    (∀ y, second s o size w (o.fn.getLsbD 3) y →
      rounded (.vadd o) false 4 (fun j => addNum m (x j) (num (y j)))
      ∧ rounded (.vsub o) false 4 (fun j => addNum m (x j) (negNum (num (y j))))
      ∧ rounded (.vmul o) false 4 (fun j => mulNum (x j) (num (y j)))
      ∧ rounded (.vdiv o) o.feD 20 (fun j => divNum (x j) (num (y j))))
    ∧ (groupFull s o.b size → groupFull s o.c size →
        rounded (.vfma o) false 4 (fun j => fusedNum m (o.fn.getLsbD 3) (o.fn.getLsbD 4) (x j) (num (elemAt s o.b w j))
          (num (elemAt s o.c w j))))

/-- VMIN and VMAX (R322) of floating or of signed elements, VABS and VNEG (R324), which change only the sign bit of a
floating number, and the special functions VSQRT, VRSQRT, VRCP, VEXP2 and VLOG2 (R105, R325), which are rounded once and
marked L.
The model's choices in it: log 34. -/
def Obligations.VectorUnaryAndOrder : Prop :=
  ∀ (o : Opnd) (s : State), s.mgmt.powered = true →
    let w := vWidth s.cur
    let act := activeCount s.cur o.k
    let size := groupSize act (vCount s.cur)
    let m := s.cur.mode
    let x (j : Nat) : Nat := elemAt s o.a w j
    groupFull s o.a size → groupFree s o.d size →
    (let typ := o.fn.toNat % 4
     ∀ y, second s o size w (o.fn.getLsbD 3) y →
      let picks (i : Instr) (g : Nat → Nat) : Prop :=
        writesElems i s o size w act (o.fn.getLsbD 2) false (fun j => (g j, 0)) (2 + 2 * (size - 1))
      (typ ≠ 3 → w = (floatFmt typ).w →
        picks (.vmin o) (fun j => (minMaxNum (floatFmt typ) m false (x j) (y j)).1)
        ∧ picks (.vmax o) (fun j => (minMaxNum (floatFmt typ) m true (x j) (y j)).1))
      ∧ (typ = 3 →
        picks (.vmin o) (fun j => if readInt true w (y j) < readInt true w (x j) then y j else x j)
        ∧ picks (.vmax o) (fun j => if readInt true w (y j) < readInt true w (x j) then x j else y j)))
    ∧ (let typ := o.lvl.toNat
       let f := floatFmt typ
       let gives (i : Instr) (g : Nat → Nat × BitVec 6) : Prop :=
         writesElems i s o size w act false false g (2 + 2 * (size - 1))
       (typ < 3 → w = f.w →
         let keep (j : Nat) (v : Nat) : Nat × BitVec 6 := (if isNaN (decodeNum f (x j)) then canonNaN f else v, 0)
         gives (.vabs o) (fun j => keep j (x j % 2 ^ (w - 1))) ∧ gives (.vneg o) (fun j => keep j (x j ^^^ 2 ^ (w - 1))))
       ∧ (typ = 3 → gives (.vabs o) (fun j => (toBits w (readInt true w (x j)).natAbs, 0))
           ∧ gives (.vneg o) (fun j => (toBits w (-readInt true w (x j)), 0)))
       ∧ (typ = 4 →
           let sat (v : Int) : Nat × BitVec 6 := (toBits w (satInt true w v).1, (satInt true w v).2)
           gives (.vabs o) (fun j => sat (readInt true w (x j)).natAbs) ∧ gives (.vneg o) (fun j => sat (-readInt true w (x j))))
       ∧ (w = f.w →
           let function (i : Instr) (n : Nat) (op : NumVal → NumVal × BitVec 6) : Prop :=
             writesElems i s o size w act false o.feD (fun j =>
               let r := op (readNum f m (x j))
               ((roundNum f m r.1).1, r.2 ||| (roundNum f m r.1).2)) (n + 2 * (size - 1))
           function (.vsqrt o) 20 sqrtNum ∧ function (.vrsqrt o) 12 rsqrtNum ∧ function (.vrcp o) 12 rcpNum
           ∧ function (.vexp2 o) 16 exp2Num ∧ function (.vlog2 o) 16 log2Num))

/-- VIADD, VISUB, VAND, VOR, VXOR, VSHL, VSHR and VDOT4 (R322, R323, R330). -/
def Obligations.VectorIntegers : Prop :=
  ∀ (o : Opnd) (s : State), s.mgmt.powered = true →
    let w := vWidth s.cur
    let act := activeCount s.cur o.k
    let size := groupSize act (vCount s.cur)
    let x (j : Nat) : Nat := elemAt s o.a w j
    let gives (i : Instr) (zero : Bool) (n : Nat) (g : Nat → Nat × BitVec 6) : Prop :=
      writesElems i s o size w act zero false g (n + 2 * (size - 1))
    groupFull s o.a size → groupFree s o.d size →
    (∀ y, second s o size w (o.fn.getLsbD 3) y →
      let typ := o.fn.toNat % 4
      let sum (i : Instr) (op : Int → Int → Int) : Prop :=
        gives i (o.fn.getLsbD 2) 2 (fun j =>
          let r := op (readInt (typ ≠ 2) w (x j)) (readInt (typ ≠ 2) w (y j))
          if typ = 0 then (toBits w r, 0) else (toBits w (satInt (typ ≠ 2) w r).1, (satInt (typ ≠ 2) w r).2))
      sum (.viadd o) (fun a b => a + b) ∧ sum (.visub o) (fun a b => a - b)
      ∧ gives (.vshl o) (o.fn.getLsbD 2) 2 (fun j => (x j * 2 ^ (y j % w) % 2 ^ w, 0))
      ∧ gives (.vshr o) (o.fn.getLsbD 2) 2 (fun j =>
          (if o.fn.getLsbD 0 then toBits w (readInt true w (x j) / 2 ^ (y j % w)) else x j / 2 ^ (y j % w), 0)))
    ∧ (∀ y, second s o size w (o.lvl.getLsbD 0) y →
        gives (.vand o) (o.lvl.getLsbD 1) 2 (fun j => (x j &&& y j, 0))
        ∧ gives (.vor o) (o.lvl.getLsbD 1) 2 (fun j => (x j ||| y j, 0))
        ∧ gives (.vxor o) (o.lvl.getLsbD 1) 2 (fun j => (x j ^^^ y j, 0)))
    ∧ (let p := if o.fn.getLsbD 2 then 16 else 8
       w = 4 * p → groupFull s o.b size → groupFull s o.d size →
       gives (.vdot4 o) false 4 (fun j =>
         let part (r : BitVec 6) (u : Bool) (i : Nat) : Int := readInt (!u) p (elemAt s r w j / 2 ^ (p * i))
         let term (i : Nat) : Int := part o.a (o.fn.getLsbD 0) i * part o.b (o.fn.getLsbD 1) i
         let r := satInt true w (readInt true w (elemAt s o.d w j) + term 0 + term 1 + term 2 + term 3)
         (toBits w r.1, r.2)))

/-- VCMP, VSEL and VCVT (R326 to R329): a comparison gives elements of all ones or 0; VSEL picks by whether the element
of c is 0; VCVT converts every active element between types, counted at the source width. -/
def Obligations.VectorCompareSelectConvert : Prop :=
  ∀ (o : Opnd) (s : State), s.mgmt.powered = true →
    let w := vWidth s.cur
    let act := activeCount s.cur o.k
    let size := groupSize act (vCount s.cur)
    let x (j : Nat) : Nat := elemAt s o.a w j
    (groupFull s o.a size → groupFree s o.d size →
      (∀ y, second s o size w (o.lvl.getLsbD 0) y →
        let typ := o.fn.toNat % 4
        let cond := o.fn.toNat / 4
        let f := floatFmt typ
        let a (j : Nat) : NumVal := readNum f s.cur.mode (x j)
        let b (j : Nat) : NumVal := readNum f s.cur.mode (y j)
        let is (p : Nat → Bool) : Prop :=
          writesElems (.vcmp o) s o size w act false false (fun j => (if p j then 2 ^ w - 1 else 0, 0)) (2 + 2 * (size - 1))
        (typ ≠ 3 → w = f.w →
          (cond = 0 → is (fun j => eqNum (a j) (b j))) ∧ (cond = 1 → is (fun j => !eqNum (a j) (b j)))
          ∧ (cond = 2 → is (fun j => ltNum false (a j) (b j)))
          ∧ (cond = 3 → is (fun j => ltNum false (a j) (b j) || eqNum (a j) (b j)))
          ∧ (cond = 4 → is (fun j => isNaN (a j) || isNaN (b j))))
        ∧ (typ = 3 →
          let sg (v : Nat) : Int := readInt true w v
          (cond = 0 → is (fun j => sg (x j) = sg (y j))) ∧ (cond = 1 → is (fun j => sg (x j) ≠ sg (y j)))
          ∧ (cond = 2 → is (fun j => sg (x j) < sg (y j))) ∧ (cond = 3 → is (fun j => sg (x j) ≤ sg (y j)))
          ∧ (cond = 4 → is (fun j => x j < y j)) ∧ (cond = 5 → is (fun j => x j ≤ y j))))
      ∧ (groupFull s o.b size → groupFull s o.c size →
          writesElems (.vsel o) s o size w act (o.fn.getLsbD 0) false
            (fun j => (if elemAt s o.c w j ≠ 0 then x j else elemAt s o.b w j, 0)) (2 + 2 * (size - 1))))
    ∧ (∀ g, o.fn.toNat ≤ 7 → o.c.toNat ≤ 7 → (o.fn.toNat = 7 ∨ o.c.toNat = 7 → srcG s.cur o.b o.feB = .ok g) →
        let from_ := vcvtType o.c.toNat (g.extractLsb' 0 20)
        let to_ := vcvtType o.fn.toNat (g.extractLsb' 0 20)
        let n := predAt s.cur o.k from_.2
        let regs (w : Nat) : Nat := max 1 ((n * w + 4095) / 4096)
        regs from_.2 ≤ 6 → regs to_.2 ≤ 6 → groupFull s o.a (regs from_.2) → groupFree s o.d (regs to_.2) →
        writesElems (.vcvt o) s o (regs to_.2) to_.2 n false false
          (fun j => convertElem from_.1 to_.1 s.cur.mode (o.lvl = 1) (elemAt s o.a from_.2 j))
          (4 + 2 * (max (regs from_.2) (regs to_.2) - 1)))

/-- VSHUF, the four VBCASTs, VTRANS, the three VMOVEs and VIDX (R312, R333, R334): where each element of the destination
comes from. -/
def Obligations.VectorMoves : Prop :=
  ∀ (o : Opnd) (s : State), s.mgmt.powered = true →
    let w := vWidth s.cur
    let n := vCount s.cur
    let rows := vRows s.cur
    let cols := vCols s.cur
    let act := activeCount s.cur o.k
    let one := activeSingle s.cur o.k
    let size := groupSize act n
    let x (j : Nat) : Nat := elemAt s o.a w j
    let i := o.imm16.toNat
    let gives (ins : Instr) (size act : Nat) (zero defer : Bool) (n : Nat) (g : Nat → Nat) : Prop :=
      writesElems ins s o size w act zero defer (fun j => (g j, 0)) n
    (groupFree s o.d 1 → groupFull s o.a 1 →
      (groupFull s o.b 1 → groupFull s o.c 1 → gives (.vshuf o) 1 one false false 6 (fun j =>
        let k := elemAt s o.b w j
        if k < n then x k else if k < 2 * n then elemAt s o.c w (k - n) else 0))
      ∧ (i < rows → gives (.vbcastRow o) 1 (min one (rows * cols)) false false 2 (fun j => x (i * cols + j % cols)))
      ∧ (i < cols → gives (.vbcastCol o) 1 (min one (rows * cols)) false false 2 (fun j => x (j / cols * cols + i)))
      ∧ gives (.vtrans o) 1 (rows * cols) false o.feD 16 (fun j => x (j % rows * cols + j / rows)))
    ∧ (groupFree s o.d size →
      (groupFull s o.a size → gives (.vmove o) size act (o.fn = 1) false (2 + 2 * (size - 1)) x)
      ∧ gives (.vbcastImm o) size act false false (2 + 2 * (size - 1)) (fun _ => toBits w (dispOf o))
      ∧ ∀ g, srcG s.cur o.a o.feA = .ok g →
          gives (.vbcastG o) size act false false (2 + 2 * (size - 1)) (fun _ => g.toNat % 2 ^ w)
          ∧ ∀ h, srcG s.cur o.b o.feB = .ok h → o.fn = 0 →
              gives (.vidx o) size act false false (2 + 2 * (size - 1)) (fun j => g.toNat + j * h.toNat))
    ∧ (groupFree s o.d 1 → ∀ g h, srcG s.cur o.a o.feA = .ok g → srcG s.cur o.b o.feB = .ok h →
        (o.fn = 1 → gives (.vidx o) 1 (min one (rows * cols)) false false 2 (fun j => g.toNat + j / cols * h.toNat))
        ∧ (o.fn = 2 → gives (.vidx o) 1 (min one (rows * cols)) false false 2 (fun j => g.toNat + j % cols * h.toNat)))
    ∧ (i < n → srcV s.cur (vreg o.a.toNat) o.feA = .ok (vval s.cur (vreg o.a.toNat)) → dstG s.cur o.d = .ok () →
        let e := elemOf w (vval s.cur (vreg o.a.toNat)).toNat i
        writes1 (.vmoveTog o) s o o.d (if o.lvl = 1 then BitVec.ofInt 64 (readInt true w e) else word e))
    ∧ (i < n → ∀ old g, srcV s.cur (vreg o.d.toNat) o.feD = .ok old → srcG s.cur o.a o.feA = .ok g →
        ∃ v, writesV (.vmoveFromg o) s o [(vreg o.d.toNat, v)]
          ∧ ∀ e, e < n → elemOf w v.toNat e = if e = i then g.toNat % 2 ^ w else elemOf w old.toNat e)

/-- VRED and VSCAN (R102, R331, R332): a floating reduction is the pairwise tree of its elements, split at the largest power
of two below their number, and a scan the left fold, each operation rounded, where a single element and the first of a
scan are results like any other; an integer one is exact and narrowed once. No element gives the kind's identity. The row
forms treat each row of the shape. The other elements of the destination keep their values, and nothing else changes. Both
are marked L: under fe.d the result is deferred for the latency of R320.
The model's choices in it: log 112. -/
def Obligations.VectorReductions : Prop :=
  ∀ (o : Opnd) (s : State), s.mgmt.powered = true →
    let w := vWidth s.cur
    let kind := o.fn.toNat % 8
    let f := floatFmt (o.fn.toNat / 8)
    let m := s.cur.mode
    let row := o.lvl = 1
    let act := if row then activeSingle s.cur o.k else activeCount s.cur o.k
    let size := if row then 1 else groupSize act (vCount s.cur)
    let parts := redParts row (vRows s.cur) (vCols s.cur) act
    let elems (js : List Nat) : List Nat := js.map (fun j => elemAt s o.a w j)
    let red (js : List Nat) : Nat × BitVec 6 := reduceOne kind w f m (elems js)
    (2 < kind ∨ f.w = w) → groupFull s o.a size →
    (row → groupFree s o.d 1 →
      writesElems (.vred o) s o 1 w (vRows s.cur) false o.feD (fun r => red (parts.getD r [])) (redLatency kind (min act (vCols s.cur))))
    ∧ (¬ row → dstG s.cur o.d = .ok () →
        let r := red (List.range act)
        writesLong (.vred o) s o [(o.d, if kind ≤ 2 then word r.1 else BitVec.ofInt 64 (readInt true w r.1))] r.2
          (redLatency kind act + 2 * (size - 1)))
    ∧ (groupFree s o.d size →
        writesElems (.vscan o) s o size w (min act (if row then vRows s.cur * vCols s.cur else act)) false o.feD
          (fun j =>
            let c := vCols s.cur
            let part := if row then (List.range act).filter (fun i => i / c = j / c) else List.range act
            (scanOne kind w f m (elems part)).getD (if row then j % c else j) (0, 0))
          (scanLatency kind (if row then min act (vCols s.cur) else act) + 2 * (size - 1)))
    ∧ (let tree := reduceOne kind w f m
       let scan (xs : List Nat) (i : Nat) : Nat × BitVec 6 := (scanOne kind w f m xs).getD i (0, 0)
       let leaf (x : Nat) : Nat × BitVec 6 := roundNum f m (readNum f m x)
       let op (x y : Nat) : Nat × BitVec 6 :=
         if kind = 0 then
           let z := addNum m (readNum f m x) (readNum f m y)
           ((roundNum f m z.1).1, z.2 ||| (roundNum f m z.1).2)
         else minMaxNum f m (kind = 2) x y
       tree [] = (if kind = 1 ∨ kind = 2 then canonNaN f else if kind = 5 then 2 ^ (w - 1) - 1 else if 6 ≤ kind then 2 ^ (w - 1)
         else 0, 0)
       ∧ (kind ≤ 2 → ∀ xs : List Nat,
           (∀ x, tree [x] = leaf x)
           ∧ (∀ e, 2 ^ e < xs.length → xs.length ≤ 2 ^ (e + 1) →
               let a := tree (xs.take (2 ^ e))
               let b := tree (xs.drop (2 ^ e))
               tree xs = ((op a.1 b.1).1, a.2 ||| b.2 ||| (op a.1 b.1).2))
           ∧ (∀ x, xs[0]? = some x → scan xs 0 = leaf x)
           ∧ ∀ i x, xs[i + 1]? = some x → scan xs (i + 1) = op (scan xs i).1 x)
       ∧ (3 ≤ kind → ∀ xs : List Nat, xs ≠ [] →
           let vs := xs.map (readInt true w)
           let sum := vs.foldl (fun a b => a + b) 0
           (kind = 3 → tree xs = (toBits w sum, 0))
           ∧ (kind = 4 → tree xs = (toBits w (max (intMin true w) (min (intMax true w) sum)),
               if intMin true w ≤ sum ∧ sum ≤ intMax true w then 0 else flagSat))
           ∧ (kind = 5 → tree xs = (toBits w (vs.foldl min (intMax true w)), 0))
           ∧ (kind = 6 → tree xs = (toBits w (vs.foldl max (intMin true w)), 0))
           ∧ ∀ i, i < xs.length → scan xs i = tree (xs.take (i + 1))))

/-- VSHAPE, VSHAPE.RD, KSET, KADD and KMIN (R313, R314, R318): a predicate holds a count between 0 and 6 N with the width
it was set at; k0 discards what is written to it. VRAND (R335): the words of Philox under the item's WID and seed, or a uniform
number below 1 in .F32. TRPACK, TRSPLIT and TRUNPACK (R87, R89, R336, R337): five balanced trits in a byte. -/
def Obligations.ShapesPredicatesRandomAndTrits : Prop :=
  (∀ (o : Opnd) (s : State), s.mgmt.powered = true →
     let n := vCount s.cur
     let sets (i : Instr) (x : Int) : Prop :=
       let count := (max 0 (min x (6 * n))).toNat
       ∃ t, exec i s = .next (wentOn s o t) ∧ t = { s.cur with k := t.k }
         ∧ ∀ k : Fin 8, t.k[k] = if k.val = o.d.toNat ∧ o.d ≠ 0 then s.cur.wcode ++ 0#2 ++ BitVec.ofNat 12 count else s.cur.k[k]
     exec (.vshape o) s = .next (wentOn s o
       { s.cur with rows := o.imm16.extractLsb' 0 6, wcode := o.imm16.extractLsb' 8 2 })
     ∧ (dstG s.cur o.d = .ok () →
         writes1 (.vshapeRd o) s o o.d (word (s.cur.rows.toNat + 256 * s.cur.wcode.toNat)))
     ∧ (∀ x, srcG s.cur o.a o.feA = .ok x → sets (.kset o) (x.toInt + dispOf o))
     ∧ (∀ x, srcG s.cur o.b o.feB = .ok x → sets (.kadd o) (activeCount s.cur (o.a.setWidth 3) + x.toInt + dispOf o))
     ∧ sets (.kmin o) (min (activeCount s.cur (o.a.setWidth 3)) (activeCount s.cur (o.b.setWidth 3))))
  ∧ ∀ (o : Opnd) (s : State), s.mgmt.powered = true →
      let w := vWidth s.cur
      let act := activeCount s.cur o.k
      let size := groupSize act (vCount s.cur)
      let trits := tritRegs act
      let x (j : Nat) : Int := readInt true w (elemAt s o.a w j)
      let digit (t : Int) : Nat := if t = 0 then 0 else if t = 1 then 1 else 2
      (groupFree s o.d size → ∀ g, srcG s.cur o.a o.feA = .ok g →
        let draw (j : Nat) : Nat :=
          elemOf w (philox (j * w / 128) (g.extractLsb' 0 32) (widOf s.cur) s.cur.seed).toNat (j % (128 / w))
        (o.fn = 0 → writesElems (.vrand o) s o size w act false o.feD (fun j => (draw j, 0)) (12 + 2 * (size - 1)))
        ∧ (o.fn = 1 → w = 32 → writesElems (.vrand o) s o size w act false o.feD
            (fun j => ((roundNum fmt32 0 (.fin false (draw j / 2 ^ 8) (-24))).1, 0)) (12 + 2 * (size - 1))))
      ∧ (groupFull s o.a size → groupFree s o.d trits →
        let packs (i : Instr) (t : Nat → Int) (fl : Nat → BitVec 6) : Prop :=
          ∃ t' vs, exec i s = .next t' ∧ wrote s t' o [] vs ((List.range act).foldl (fun a j => a ||| fl j) 0)
            ∧ vs.map (fun p => p.1) = (List.range trits).map (fun i => vreg (o.d.toNat + i))
            ∧ ∀ k p, vs[k]? = some p → ∀ e, e < 512 → k * 512 + e < (act + 4) / 5 →
                let d (i : Nat) : Nat := if 5 * (k * 512 + e) + i < act then digit (t (5 * (k * 512 + e) + i)) else 0
                elemOf 8 p.2.toNat e = d 0 + 3 * d 1 + 9 * d 2 + 27 * d 3 + 81 * d 4
        packs (.trpack o) (fun j => if 0 < x j then 1 else if x j < 0 then -1 else 0)
            (fun j => if 1 < (x j).natAbs then flagSat else 0)
        ∧ packs (.trsplit o) (fun j => balancedDigit (x j) (o.imm16.toNat % 64)) (fun _ => 0))
      ∧ (groupFull s o.a trits → o.d.toNat + size ≤ 32 →
        let b (i : Nat) : Nat := elemAt s o.a 8 i
        (∀ i, i < (act + 4) / 5 → 243 ≤ b i → (∀ k, k < i → b k < 243) →
          exec (.trunpack o) s = .next (takeFault s (ctlSite s o) { code := 0x18, elem := BitVec.ofNat 32 i } (codeOff s)))
        ∧ (groupFree s o.d size → (∀ i, i < (act + 4) / 5 → b i < 243) →
            writesElems (.trunpack o) s o size w act false false (fun j =>
              let d := b (j / 5) / 3 ^ (j % 5) % 3
              (if d = 2 then 2 ^ w - 1 else d, 0)) (4 + 2 * (max trits size - 1))))

/-- A vector group that passes v31 raises the vector-group fault, and a width other than the type's, or a row, column or
element index out of range, the vector-shape fault (R316, R317). Stated for VADD, VBCAST.ROW and VMOVE.TOG. -/
def Obligations.VectorFaults : Prop :=
  ∀ (o : Opnd) (s : State), s.mgmt.powered = true →
    let size := groupSize (activeCount s.cur o.k) (vCount s.cur)
    (∀ x y, srcGroup s.cur o.a size o.feA = .ok x → o.fn.getLsbD 3 = false → srcGroup s.cur o.b size o.feB = .ok y →
      (32 < o.d.toNat + size ∨ 32 < o.a.toNat + size ∨ 32 < o.b.toNat + size → faults (.vadd o) s o 0x0E)
      ∧ (o.d.toNat + size ≤ 32 → o.a.toNat + size ≤ 32 → o.b.toNat + size ≤ 32 →
          vWidth s.cur ≠ (floatFmt (o.fn.toNat % 4)).w → faults (.vadd o) s o 0x0F))
    ∧ (∀ x, srcGroup s.cur o.a 1 o.feA = .ok x → o.d.toNat < 32 → o.a.toNat < 32 → vRows s.cur ≤ o.imm16.toNat →
        faults (.vbcastRow o) s o 0x0F)
    ∧ (∀ x, srcV s.cur (vreg o.a.toNat) o.feA = .ok x → vCount s.cur ≤ o.imm16.toNat → faults (.vmoveTog o) s o 0x0F)

/-! ## Scans, state slots, the pannier and carries (R366 to R384) -/

/-- SOPSET (R249, R373): the checked record and the present MODE become the operator; a record with another op or a
fault of R249 raises the illegal-record fault. SCANL, SCAN and SSTEP at issue (R375, R376): the engine operation
captures the operator and nch, and its destination granules become empty; the two footprints lie each in one declared
bank and are identical or disjoint, which is not checked while nch is no legal count (log 49).
The model's choices in it: log 49. -/
def Obligations.ScansAreIssued : Prop :=
  (∀ (o : Opnd) (s : State) (h : Capture) (pa : Nat), s.mgmt.powered = true →
     let off := o.imm16.toInt
     let r := BitVec.ofNat 512 (memNat s pa 64)
     let cause (n : BitVec 8) : Prop :=
       exec (.sopset o) s = .next (takeFault s (ctlSite s o) { code := 0x02, sub := n } (codeOff s))
     useHandle s.cur (o.a.setWidth 4) o.feA off = .ok h →
     (off % 64 ≠ 0 → faults (.sopset o) s o 0x04)
     ∧ (off % 64 = 0 → checkPage h off 64 permRd = .ok pa →
        needReleased s (dieOf s.cur.id.core) (linesOf pa 64) = .ok () →
        refusedByte s s.cur pa (linesOf pa 64) rightRead false = none → poisoned s pa 64 = false →
        (r.toNat % 2 ^ 8 = 0 → cause 1)
        ∧ (2 ≤ r.toNat % 2 ^ 8 → cause 2)
        ∧ (r.toNat % 2 ^ 8 = 1 → sopBad r = true → cause 5)
        ∧ (r.toNat % 2 ^ 8 = 1 → sopBad r = false →
            let s1 := (homeRead s pa 64).1
            exec (.sopset o) s = .next (wentOn s1 o { s.cur with scanOp := some { record := r, mode := s.cur.mode } }))))
  ∧ (∀ (o : Opnd) (s : State) (x y : Word), s.mgmt.powered = true →
     srcG s.cur o.a o.feA = .ok x → srcG s.cur o.b o.feB = .ok y →
     let declared := (recZmask s.cur.record).getLsbD o.d.toNat
     let nch := leNat (sgetRange 0 s.cur.z (32768 * o.d.toNat) 64) / 2 ^ 27 % 2 ^ 12
     let legal : Prop := 0 < nch ∧ nch ≤ 2044
     let a := x.toNat
     let b := y.toNat
     let rule (i : Instr) (n : Nat) (troupe step : Bool) : Prop :=
       (declared = false → faults i s o 0x0A)
       ∧ (declared = true → recNctr s.cur.record ≤ o.c.toNat → faults i s o 0x0B)
       ∧ (declared = true → counterFree s o →
          (s.cur.scanOp = none → faults i s o 0x1B)
          ∧ ∀ op, s.cur.scanOp = some op →
            let size := 4 * ((op.record.extractLsb' 10 2).toNat + 1) * n * nch
            ((2 ^ 22 ≤ a ∨ a % 16 ≠ 0 ∨ 2 ^ 22 ≤ b ∨ b % 16 ≠ 0) → faults i s o 0x04)
            ∧ (a < 2 ^ 22 → a % 16 = 0 → b < 2 ^ 22 → b % 16 = 0 →
              (¬ legal → issuesOp i s o (.scan o.d a b n nch op troupe step false []) [])
              ∧ (legal →
              let fits : Prop := ownsRange s.cur a size = true ∧ ownsRange s.cur b size = true
                ∧ (a = b ∨ a + size ≤ b ∨ b + size ≤ a)
              (fits → issuesOp i s o (.scan o.d a b n nch op troupe step false []) [(b, size)])
              ∧ (¬ fits → faults i s o 0x04))))
     rule (.scanl o) (o.imm16.toNat + 1) false false
     ∧ rule (.scan o) (o.imm16.toNat + 1) true false
     ∧ rule (.sstep o) 1 false true)

/-- SLD and SST (R133, R380) move 512 bytes between a state slot and a vector register; SBIND and SBIND.NEW (R367, R374)
wait for the slot's operations, zero it, set nch, and give it its tag and the destination the status. -/
def Obligations.StateSlots : Prop :=
  (∀ (o : Opnd) (s : State) (x : Word) (v : BitVec 4096), s.mgmt.powered = true → srcG s.cur o.b o.feB = .ok x →
     srcV s.cur (vreg o.d.toNat) o.feD = .ok v →
     let off := x.toInt + o.imm16.toInt
     let base := 32768 * o.a.toNat
     let declared := (recZmask s.cur.record).getLsbD o.a.toNat
     let inside : Prop := 0 ≤ off ∧ off % 16 = 0 ∧ off + 512 ≤ 32768
     let tag := zTag s.cur o.a
     (declared = false → faults (.sst o) s o 0x0A)
     ∧ (declared = true → ¬ inside → faults (.sst o) s o 0x04)
     ∧ (declared = true → inside → zOps s.cur o.a = [] →
       (tag.state = 2 → faults (.sst o) s o 0x26 (tag.kdh.setWidth 64))
       ∧ (tag.state ≠ 2 → ∃ z, exec (.sst o) s = .next (wentOn s o { s.cur with z := z })
           ∧ ∀ k, sget 0 z k = if base + off.toNat ≤ k ∧ k < base + off.toNat + 512
               then v.extractLsb' (8 * (k - base - off.toNat)) 8 else sget 0 s.cur.z k)))
  ∧ (∀ (o : Opnd) (s : State) (x : Word), s.mgmt.powered = true → srcG s.cur o.b o.feB = .ok x →
     let off := x.toInt + o.imm16.toInt
     let declared := (recZmask s.cur.record).getLsbD o.a.toNat
     let inside : Prop := 0 ≤ off ∧ off % 16 = 0 ∧ off + 512 ≤ 32768
     let tag := zTag s.cur o.a
     (declared = false → faults (.sld o) s o 0x0A)
     ∧ (declared = true → ¬ inside → faults (.sld o) s o 0x04)
     ∧ (declared = true → inside → zOps s.cur o.a ≠ [] →
         exec (.sld o) s = .next (blockCtl s (.ops (zOps s.cur o.a))))
     ∧ (declared = true → inside → zOps s.cur o.a = [] →
       (tag.state = 2 → faults (.sld o) s o 0x26 (tag.kdh.setWidth 64))
       ∧ (tag.state ≠ 2 → dstV s.cur (vreg o.d.toNat) = .ok () → ∃ v : BitVec 4096,
           writesLong (.sld o) s o [] 0 8 [(vreg o.d.toNat, v)]
           ∧ ∀ k, k < 512 → v.extractLsb' (8 * k) 8 = sget 0 s.cur.z (32768 * o.a.toNat + off.toNat + k))))
  ∧ (∀ (o : Opnd) (s : State) (x : Word), s.mgmt.powered = true → srcG s.cur o.a o.feA = .ok x →
     let nch := o.imm16.toNat + 1
     let base := 32768 * o.d.toNat
     let old := zTag s.cur o.d
     let s0 := if old.fresh = true ∧ old.state = 1 then releaseDomain s old.kdh else s
     let kdh : BitVec 32 := x.setWidth 32
     let declared := (recZmask s.cur.record).getLsbD o.d.toNat
     let binds (i : Instr) (s1 : State) (tag : ZTag) (status : Word) : Prop :=
       ∃ z, exec i s = .next (wentOn s1 o (setG { s1.cur with z := z, ztag := sset {} s1.cur.ztag o.d.toNat tag } o.b status))
         ∧ ∀ k, sget 0 z k = if base ≤ k ∧ k < base + 64 then (BitVec.ofNat 512 (nch * 2 ^ 27)).extractLsb' (8 * (k - base)) 8
             else if base ≤ k ∧ k < base + 32768 then 0 else sget 0 s.cur.z k
     (declared = false → faults (.sbind o) s o 0x0A ∧ faults (.sbindNew o) s o 0x0A)
     ∧ (declared = true → 2044 < nch → faults (.sbind o) s o 0x04 ∧ faults (.sbindNew o) s o 0x04)
     ∧ (declared = true → nch ≤ 2044 → x ≠ 0 → x.toNat % 2 ^ 16 = 0 → faults (.sbind o) s o 0x1E)
     ∧ (declared = true → nch ≤ 2044 → (x = 0 ∨ x.toNat % 2 ^ 16 ≠ 0) → zOps s.cur o.d ≠ [] →
          exec (.sbind o) s = .next (blockCtl s (.ops (zOps s.cur o.d))))
     ∧ (declared = true → nch ≤ 2044 → zOps s.cur o.d ≠ [] →
          exec (.sbindNew o) s = .next (blockCtl s (.ops (zOps s.cur o.d))))
     ∧ (declared = true → nch ≤ 2044 → zOps s.cur o.d = [] → dstG s.cur o.b = .ok () →
        (x = 0 → binds (.sbind o) s0 { state := 1 } 0)
        ∧ (x.toNat % 2 ^ 16 ≠ 0 →
          let held : Prop := ∃ q ∈ (s0.kv[kdhDie kdh]).seqs, q.tenant = s.cur.tenant ∧ kdh ∈ q.doms
          (handleDead s0 kdh = true → binds (.sbind o) s0 { state := 2, kdh := kdh } 4)
          ∧ (handleDead s0 kdh = false → held → binds (.sbind o) s0 { state := 1, kdh := kdh } 0)
          ∧ (handleDead s0 kdh = false → ¬ held → binds (.sbind o) s0 {} 3))
        ∧ (∀ s1 k, newDomain s0 (if x.getLsbD 31 then 1 else 0) = some (s1, k) →
            binds (.sbindNew o) s1 { state := 1, kdh := k, fresh := true } 0)
        ∧ (newDomain s0 (if x.getLsbD 31 then 1 else 0) = none → binds (.sbindNew o) s0 {} 5)))

/-- SSPILL, SFILL, CHSEND and CHRECV at issue (R381 to R384): the checks, and the operation on counter c.
The model's choices in it: log 27. -/
def Obligations.PannierAndCarriesAreIssued : Prop :=
  ∀ (o : Opnd) (s : State), s.mgmt.powered = true →
    let declared := (recZmask s.cur.record).getLsbD o.d.toNat
    (∀ h pa, let off := o.imm16.toInt * 512
      useHandle s.cur (o.a.setWidth 4) o.feA off = .ok h →
      (declared = false → faults (.sspill o) s o 0x0A ∧ faults (.sfill o) s o 0x0A)
      ∧ (declared = true → ∀ (i : Instr) (perm : BitVec 4) (fill : Bool),
          (i = .sspill o ∧ perm = permW ∧ fill = false) ∨ (i = .sfill o ∧ perm = permRd ∧ fill = true) →
          checkPage h off 32768 perm true = .ok pa →
          (h.kdh ≠ (zTag s.cur o.d).kdh → faults i s o 0x06 (BitVec.ofInt 64 off))
          ∧ (h.kdh = (zTag s.cur o.d).kdh → recNctr s.cur.record ≤ o.c.toNat → faults i s o 0x0B)
          ∧ (h.kdh = (zTag s.cur o.d).kdh → counterFree s o → issuesOp i s o (.pannier fill o.d h off.toNat) [])))
    ∧ (declared = false → faults (.chrecv o) s o 0x0A)
    ∧ (declared = true → recNctr s.cur.record ≤ o.c.toNat → faults (.chrecv o) s o 0x0B)
    ∧ (declared = true → counterFree s o → issuesOp (.chrecv o) s o (.chrecv o.d o.imm16) [])
    ∧ ∀ w, srcG s.cur o.a o.feA = .ok w →
      let dev : BitVec 18 := w.extractLsb' 0 18
      let core : BitVec 8 := w.extractLsb' 18 8
      let form : Prop := w.toNat < 2 ^ 27 ∧ dev.toNat / 2 ^ 6 = s.devid.toNat / 2 ^ 6
      (declared = false → faults (.chsend o) s o 0x0A)
      ∧ (declared = true → ¬ form → faults (.chsend o) s o 0x04)
      ∧ (declared = true → form → 128 ≤ core.toNat → faults (.chsend o) s o 0x0D)
      ∧ (declared = true → form → core.toNat < 128 → counterFree s o →
          let c : Carry :=
            { srcDev := s.devid, source := refOf s.cur s.cur.nextOp, dstDev := dev, dstCore := core
              dstSlot := w.getLsbD 26, tag := o.imm16, tenant := s.cur.tenant, context := s.cur.context }
          issuesOn { s with carries := s.carries ++ [c] } (.chsend o) s o (.chsend o.d w o.imm16 none) [])

/-! ## KV instructions, queries and attention dots (R150 to R169, R393 to R398) -/

/-- The numbered KV instructions at issue (R138, R159, R393, R394): the status granules become empty, the request takes a
number on counter c and its place among the arrivals at its home die, behind those of earlier cc and, of the present cc,
those of lower cores and slots (R158); a counter keeps at most 64 on their way (R76). A status address or token data
outside the declared banks raises the scratchpad-ownership fault.
The model's choices in it: log 41. -/
def Obligations.KvOperationsAreIssued : Prop :=
  ∀ (o : Opnd) (s : State) (d x : Word), s.mgmt.powered = true → srcG s.cur o.d o.feD = .ok d →
    srcG s.cur o.a o.feA = .ok x → d.toNat < 2 ^ 22 → d.toNat % 16 = 0 →
    let st := d.toNat
    let imm := o.imm16.toNat
    let sent := (s.cur.ops.filter (fun p => p.q = some (o.c.setWidth 4) && isKv p.work)).length
    let first (r : OpRef) : Bool := match refOp s r with
      | some (_, p) => p.due ≠ s.cycle || 2 * r.slot.core.toNat + r.slot.slot.toNat
          ≤ 2 * s.cur.id.core.toNat + s.cur.id.slot.toNat
      | none => true
    let rule (i : Instr) (kind : KvKind) (size : Nat) (n stride : Nat) (second : Word) : Prop :=
      (ownsRange s.cur st size = false → faults i s o 0x08 d)
      ∧ (ownsRange s.cur st size = true → recNctr s.cur.record ≤ o.c.toNat → faults i s o 0x0B)
      ∧ (ownsRange s.cur st size = true → counterFree s o → 64 ≤ sent → exec i s = .next (holdCtl s))
      ∧ (ownsRange s.cur st size = true → counterFree s o → sent < 64 →
        let die : Fin 2 := if kind = .opens then (if x.getLsbD 25 then 1 else 0) else if x.getLsbD 0 then 1 else 0
        let r : KvReq := { kind := kind, seq := x.setWidth 24, word := x, second := second, n := n, stride := stride
                           shadow := o.lvl.getLsbD 0, status := st }
        let k := s.kv[die]
        let k1 := { k with arrivals := k.arrivals.takeWhile first ++ [refOf s.cur s.cur.nextOp] ++ k.arrivals.dropWhile first }
        issuesOn { s with kv := s.kv.set die k1 } i s o
          (.kv r none) [(st, size)] s.cycle)
    rule (.kvopen o) .opens 16 0 0 0
    ∧ rule (.kvclose o) .closes 16 0 0 0
    ∧ rule (.kvfork o) .fork (16 * (imm + 1)) imm 0 0
    ∧ rule (.kvaccept o) .accept 16 imm 0 0
    ∧ rule (.kvreject o) .reject 16 0 0 0
    ∧ ∀ y, srcG s.cur o.b o.feB = .ok y →
      rule (.kvevict o) .evict 16 (imm + 1) 0 y
      ∧ rule (.kvcompact o) .compact 16 0 0 y
      ∧ rule (.kvmapV o) .mapV (16 + 8 * (imm % 2 ^ 10 + 1)) (imm % 2 ^ 10 + 1) 0 y
      ∧ (y.toNat < 2 ^ 22 →
        let data (i : Instr) (kind : KvKind) (tok n stride : Nat) : Prop :=
          (ownsRange s.cur y.toNat tok = true → rule i kind 16 n stride y)
          ∧ (ownsRange s.cur st 16 = true → ownsRange s.cur y.toNat tok = false → faults i s o 0x08 y)
        data (.kvappend o) .append (32 * (imm % 2 ^ 7 + 1)) 1 (imm % 2 ^ 7 + 1)
        ∧ data (.kvdraft o) .draft (32 * (imm / 2 ^ 9 + 1) * (imm % 2 ^ 6 + 1)) (imm % 2 ^ 6 + 1) (imm / 2 ^ 9 + 1)
        ∧ data (.kvprefixLook o) .look 16 0 0
        ∧ data (.kvprefixIns o) .insert 16 0 0)

/-- Scalar KVMAP (R393, R485): unnumbered; the control stream goes on with an empty pair of destinations under fe.d, and
else is held until the pair is written. QSEND.REPLY (R169, R396): its status granule becomes empty, and the reply is on
its way. QSEND (R166, R167, R396): two operations on counter c, the send and its reply; the header is stamped with the
sender, the reply region and the status granule become empty.
The model's choices in it: log 46. -/
def Obligations.QueriesAndLookups : Prop :=
  (∀ (o : Opnd) (s : State) (x y : Word), reads2 s o x y → dstG s.cur (o.d + 1) = .ok () →
     let die : Fin 2 := if x.getLsbD 0 then 1 else 0
     let k := s.kv[die]
     let s1 := { s with kv := s.kv.set die { k with arrivals := insertArrival s k.arrivals (refOf s.cur s.cur.nextOp) } }
     let r : KvReq := { kind := .map, seq := x.setWidth 24, word := x, second := y, n := 1, shadow := o.lvl.getLsbD 0 }
     let op : Op := { id := s.cur.nextOp, source := 3, coff := (ctlSite s o).coff, due := s.cycle
                      work := .kv r (some o.d) }
     let t : Slot := { s.cur with ops := s.cur.ops ++ [op], nextOp := s.cur.nextOp + 1 }
     let t1 := wentOn s1 o t
     (o.feD = true → ∃ e, exec (.kvmap o) s = .next (wentOn s1 o { t with gEmpty := e })
        ∧ ∀ i, e.getLsbD i = (s.cur.gEmpty.getLsbD i
            || decide (i < 64) && (decide (i = o.d.toNat ∧ o.d ≠ 0) || decide (i = (o.d + 1).toNat ∧ o.d + 1 ≠ 0))))
     ∧ (o.feD = false → exec (.kvmap o) s = .next { t1 with cur := { t1.cur with
          ctl := { t1.cur.ctl with blocked := some (.ops [s.cur.nextOp]) } } }))
  ∧ (∀ (o : Opnd) (s : State) (d x y : Word), s.mgmt.powered = true → srcG s.cur o.d o.feD = .ok d →
     srcG s.cur o.a o.feA = .ok x → srcG s.cur o.b o.feB = .ok y → d.toNat < 2 ^ 22 → d.toNat % 16 = 0 →
     x.toNat < 2 ^ 22 →
     let n := (o.imm16.toNat + 1) * 16
     (ownsRange s.cur d.toNat 16 = false → faults (.qsendReply o) s o 0x08 d)
     ∧ (ownsRange s.cur d.toNat 16 = true → ownsRegion s.cur x.toNat n = false → faults (.qsendReply o) s o 0x08 x)
     ∧ (ownsRange s.cur d.toNat 16 = true → ownsRegion s.cur x.toNat n = true → counterFree s o →
        issuesOn { s with replies := s.replies ++ [{ source := refOf s.cur s.cur.nextOp }] } (.qsendReply o) s o
          (.reply x.toNat n (y.setWidth 16) d.toNat) [(d.toNat, 16)]))
  ∧ ∀ (o : Opnd) (s s0 : State) (d x : Word), s.mgmt.powered = true → srcG s.cur o.d o.feD = .ok d →
     srcG s.cur o.a o.feA = .ok x → d.toNat < 2 ^ 22 → d.toNat % 16 = 0 → x.toNat < 2 ^ 22 →
     ownsRange s.cur d.toNat 16 = true → ownsRange s.cur x.toNat 64 = true →
     (∀ g, x.toNat / 16 ≤ g → g ≤ (x.toNat + 63) / 16 → granuleFull s.cur g = true) →
     checkGranules s s.cur.id s.cur.id (slotCode s.cur.id) (.waiting false) x.toNat 64 = .ok s0 →
     (bankPoisoned s.cur x.toNat 64 = true → faults (.qsend o) s o 0x2F)
     ∧ (bankPoisoned s.cur x.toNat 64 = false →
     let h : BitVec 512 := BitVec.ofNat 512 (leNat ((List.range 64).map (fun i => bankByte s0.cur (x.toNat + i))))
     let field (lo n : Nat) : Nat := h.toNat / 2 ^ lo % 2 ^ n
     let raddr := field 385 22
     let reply := (field 407 15 + 1) * 16
     let payload := (field 422 15 + 1) * 16
     let form : Prop := field 488 24 = 0 ∧ field 0 385 = 0 ∧ raddr % 16 = 0
     (¬ form → faults (.qsend o) s o 0x04)
     ∧ (form → ownsRegion s0.cur raddr reply = false → faults (.qsend o) s o 0x08 (word raddr))
     ∧ (form → ownsRegion s0.cur raddr reply = true → ownsRegion s0.cur (x.toNat + 64) payload = false →
          faults (.qsend o) s o 0x08 (word (x.toNat + 64)))
     ∧ (form → ownsRegion s0.cur raddr reply = true → ownsRegion s0.cur (x.toNat + 64) payload = true → counterFree s0 o →
        let q : BitVec 4 := o.c.setWidth 4
        let id := s.cur.id
        let stamped := h ||| BitVec.ofNat 512 (q.toNat * 2 ^ 381 + id.slot.toNat * 2 ^ 380 + id.core.toNat * 2 ^ 372)
        let die : Fin 2 := if h.getLsbD 464 then 1 else 0
        let k := s0.kv[die]
        let entry : QueryArrival := { queue := o.imm16.setWidth 5, sender := refOf s0.cur s0.cur.nextOp }
        let coff := (ctlSite s o).coff
        let send : Op := { id := 0, source := 3, coff := coff
                           work := .query (o.imm16.setWidth 5) stamped (x.toNat + 64) payload d.toNat }
        let await : Op := { id := 0, source := 3, coff := coff, work := .awaitReply raddr reply }
        ∃ e, emptied s0.cur e [(raddr, reply), (d.toNat, 16)]
          ∧ exec (.qsend o) s = .next (wentOn { s0 with kv := s0.kv.set die { k with queries := k.queries ++ [entry] } } o
              { withOp (withOp s0.cur q send) q await with empty := e })))

/-- ADOT and AACC (R103, R397, R398): they wait for full source granules; each output element is a dot product rounded to
binary32, its granules become full, the flags are raised, and the control stream is held for the duration of R398. No
register and no other byte changes. A poisoned source granule raises the uncorrectable-error fault (R448).
The model's choices in it: log 47, log 84. -/
def Obligations.AttentionDots : Prop :=
  ∀ (o : Opnd) (s : State) (d x y w : Word) (fa fb : ElemFmt × Nat), s.mgmt.powered = true →
    srcG s.cur o.d o.feD = .ok d → srcG s.cur o.a o.feA = .ok x → srcG s.cur o.b o.feB = .ok y →
    srcG s.cur o.c o.feC = .ok w →
    (2 ^ 48 ≤ w.toNat → faults (.adot o) s o 0x04 ∧ faults (.aacc o) s o 0x04)
    ∧ (w.toNat < 2 ^ 48 → x.toNat < 2 ^ 22 → y.toNat < 2 ^ 22 → y.toNat % 16 = 0 → d.toNat < 2 ^ 22 →
      dotFormat (bankFmt s.cur x.toNat) = some fa → dotFormat (bankFmt s.cur y.toNat) = some fb →
      (bankFmt s.cur d.toNat).extractLsb' 24 4 = 1 →
      let t := s.cur
      let out := d.toNat
      let len := w.toNat % 2 ^ 16 + 1
      let cnt := w.toNat / 2 ^ 16 % 2 ^ 16 + 1
      let stride := 16 * (w.toNat / 2 ^ 32)
      let na := (len * fa.2 + 7) / 8
      let acc := o.lvl = 1
      let rule (i : Instr) (rows rowLen : Nat) (column : (Nat → Nat → NumVal) → Nat → List NumVal) : Prop :=
        let nb := (rowLen * fb.2 + 7) / 8
        let srcs := [(x.toNat, na)] ++ (List.range rows).map (fun r => (y.toNat + r * stride, nb))
          ++ (if acc then [(out, 4 * cnt)] else [])
        ownsRange t x.toNat na = true → ownsRange t y.toNat ((rows - 1) * stride + nb) = true →
        ownsRange t out (4 * cnt) = true → ownsBank t x.toNat = true → ownsBank t y.toNat = true → ownsBank t out = true →
        (∀ g, emptyIn t srcs = some g → exec i s = .next (blockCtl s (.granule none g)))
        ∧ (emptyIn t srcs = none → isDet t = false → (∃ r ∈ srcs, bankPoisoned t r.1 r.2 = true) → faults i s o 0x2F)
        ∧ (emptyIn t srcs = none → isDet t = false → (∀ r ∈ srcs, bankPoisoned t r.1 r.2 = false) →
          let elem (r j : Nat) : NumVal :=
            dotOperand t.mode fb.1 (elemOf fb.2 (leNat (bankRead t (y.toNat + r * stride) nb)) j)
          let xs := (List.range len).map (fun j =>
            dotOperand t.mode fa.1 (elemOf fa.2 (leNat (bankRead t x.toNat na)) j))
          let res (k : Nat) : Nat × BitVec 6 :=
            dotOf t.mode (isIntFmt fa.1 && isIntFmt fb.1) xs (column elem k) (if acc then some (leNat (bankRead t (out + 4 * k) 4)) else none)
          ∃ b e, exec i s = .next (holdFor ((len * cnt + 2047) / 2048 + 20) (wentOn s o { t with
              banks := b, empty := e, poison := curePoison t.poison out (4 * cnt)
              flags := t.flags ||| (List.range cnt).foldl (fun f k => f ||| (res k).2) 0 }))
            ∧ (∀ k j, k < cnt → j < 4 → sget 0 b (out + 4 * k + j) = BitVec.ofNat 8 ((res k).1 / 2 ^ (8 * j)))
            ∧ (∀ a, a < out ∨ out + 4 * cnt ≤ a → sget 0 b a = bankByte t a)
            ∧ ∀ g, sget true e g = (granuleFull t g || decide (out / 16 ≤ g) && decide (g ≤ (out + 4 * cnt - 1) / 16)))
      rule (.adot o) cnt len (fun elem k => (List.range len).map (elem k))
      ∧ rule (.aacc o) len cnt (fun elem k => (List.range len).map (fun r => elem r k)))

/-! ## Matrix and copy records (R41 to R45, R53, R243 to R246, R340 to R364, R385 to R392) -/

/-- Matrix records at issue (R346 to R364): each that is ready takes its effect on tiles, buffers, banks or memory, and
its operation goes on its counter. MXSTAMP moves SB, MXEND stops the stream, MXZERO clears its tiles, MXLDW consumes its
position, whose 256-byte chunks follow, the products run the first row of their first iteration, MXDRAIN takes the rows that
it will write and MXSAVE the tile's 106,560 bytes, and MXREST will read as many. What rows, chunks and blocks then do:
`MatrixUnits`. A record that is not ready in its target cc faults in a STRICT launch and else waits (R351); an undeclared tile faults (R49).
The model's choices in it: log 16, log 38, log 39, log 83, log 91. -/
def Obligations.MatrixRecordsIssue : Prop :=
  ∀ (h : RecHead) (s : State) (bar : Option Nat),
    let late := decide (mxTarget s.cur h < s.cycle)
    let whole (i : Instr) : Work := .matrix i (matrixCap s i none) s.cycle 0 late
    (∀ b, let i := Instr.mxstamp h b
      let u := slipped s i
      matrixReady s i bar none → issuesMatrix i s { u with cur := { u.cur with
        time := { u.cur.time with sb := (if b.abs then s.cur.stampb else u.cur.time.sb) + b.delta } } } bar 0 .none)
    ∧ (let i := Instr.mxend h
       let u := slipped s i
       let stopped : Stream := { s.cur.mx with blocked := some (.ops [s.cur.nextOp]) }
       matrixReady s i bar none → issuesMatrix i s { u with cur := { u.cur with mx := stopped } } bar 0 (whole i))
    ∧ (∀ i b, i = Instr.mxstamp h b ∨ i = Instr.mxend h → s.mgmt.powered = true → mxTarget s.cur h ≤ s.cycle →
        h.q.toNat < recNctr s.cur.record → s.cur.q[h.q.toFin].boundBy = none → emptyOperand s s.cur i h = none →
        mxClear s.cur i s.cycle = false →
        (isStrict s.cur = true → recordFaults i s true { code := 0x19 })
        ∧ (isStrict s.cur = false → exec i s = .next { s with cur := { s.cur with
            mx := { s.cur.mx with issued := true }, time := { s.cur.time with late := true } } }))
    ∧ (∀ mask : BitVec 8, let i := Instr.mxzero h mask
       let u := slipped s i
       (mask &&& ~~~(recAmask s.cur.record) = 0 → matrixReady s i bar none → ∃ t : Slot,
         let lands : List Landing := u.cur.time.lands ++ (maskTiles mask).map (fun n => ⟨n, s.cycle + 8, true⟩)
         t = { u.cur with
             acc := t.acc, accFlags := t.accFlags, tiles := t.tiles, time := { u.cur.time with lands := lands } }
         ∧ issuesMatrix i s { u with cur := t } bar 0 (whole i)
         ∧ ∀ n : Fin 8,
             t.tiles[n] = (if mask.getLsbD n then { s.cur.tiles[n] with count := 0, opened := false, qa := none }
               else s.cur.tiles[n])
             ∧ ∀ k, k < 16384 →
                 sget 0 t.acc (16384 * n + k) = (if mask.getLsbD n then 0 else sget 0 s.cur.acc (16384 * n + k))
                 ∧ sget 0 t.accFlags (16384 * n + k)
                     = (if mask.getLsbD n then 0 else sget 0 s.cur.accFlags (16384 * n + k)))
       ∧ (mask &&& ~~~(recAmask s.cur.record) ≠ 0 → s.mgmt.powered = true → mxTarget s.cur h ≤ s.cycle →
           h.q.toNat < recNctr s.cur.record → s.cur.q[h.q.toFin].boundBy = none →
           recordFaults i s true { code := 0x09 }))
    ∧ (∀ b p, let i := Instr.mxldw h b
       let u := slipped s i
       let f : BitVec 2 := if b.fsel then 3 else 2
       let cs := s.cur.fifos[f.toFin].issuedC
       let pos : Int := cs + b.start.toInt
       0 ≤ pos → (cs : Int) - 4 ≤ pos → pos < cs + 4 → matrixReady s i bar none →
       heldPosition s.cur f pos = some p → bankClass p.fmt = .trit →
       let t := consumeAt (setBuffer u.cur b.wbuf { bufferOf s.cur b.wbuf with transposed := b.t }) f b.consume.toNat
       issuesMatrix i s { u with cur := t } bar 0 (whole i))
    ∧ (∀ i b t, i = Instr.mxacc h b ∨ i = Instr.mxperm h b ∨ i = Instr.mxred h b ∨ i = Instr.mxtrn h b →
       let u := slipped s i
       let f : BitVec 2 := if b.fsel then 1 else 0
       let cs := s.cur.fifos[f.toFin].issuedC
       matrixReady s i bar none → checkNest s.cur i b = .ok () → iteration u.cur i b cs 0 s.cycle = .ok t →
       issuesMatrix i s { u with cur := consumeAt t f b.consume.toNat } bar 0
         (.matrix i (matrixCap s i none) (s.cycle + nestSpan i b) 1 late))
    ∧ (∀ b f bits s0, let i := Instr.mxdrain h b
       let u := slipped s i
       let fmt := bankFmt s.cur b.dst.toNat
       let last := s.cycle + drainSpan b fmt
       checkDrain s.cur b = .ok () → bankClass fmt = .elem f bits → matrixReady s i bar none →
       bankPoisoned s.cur b.scl.toNat (drainScaleBytes b) = false →
       checkGranules u s.cur.id s.cur.id (engineCode s.cur.id h.q) (.waiting h.cor) b.scl.toNat (drainScaleBytes b) = .ok s0 →
       let values := drainValues s.cur b f bits
       let t : Slot := { s0.cur with time := { s0.cur.time with reads := s0.cur.time.reads ++ [(b.tile, last)] } }
       bankOnly u s0 [] ∧ issuesMatrix i s { s0 with cur := if b.clr then clearTile t b.tile last else t } bar values.2
         (.matrix i { matrixCap s i none with out := values.1.flatten } s.cycle 0 late))
    ∧ (∀ b c pa, let i := Instr.mxsave h b
       let u := slipped s i
       (recAmask s.cur.record).getLsbD b.tile.toNat = true → matrixReady s i bar (some c) →
       checkPage c b.off.toNat 106560 permW = .ok pa →
       issuesMatrix i s { u with cur := addRead u.cur b.tile (s.cycle + 1665) } bar 0
         (.matrix i { matrixCap s i (some c) with out := tileBytes s.cur b.tile } s.cycle 0 late))
    ∧ (∀ b c pa, let i := Instr.mxrest h b
       (recAmask s.cur.record).getLsbD b.tile.toNat = true → matrixReady s i bar (some c) →
       checkPage c b.off.toNat 106560 permRd = .ok pa →
       issuesMatrix i s (slipped s i) bar 0 (.matrix i (matrixCap s i (some c)) s.cycle 0 late))

/-- What the units of the array do in each cc after a matrix record has issued (R348, R352, R354, R356, R360 to R363). Row j of
an iteration adds the products of row j of its position to row j of its tile, in the j-th cc after the start; a chunk of 256
bytes of a trit position goes into the weight buffer, which an illegal byte leaves all zero; a drain, a save and a restore
move blocks of 64 bytes, each judged as it goes, and the last block of a restore sets the tile.
The model's choices in it: log 16, log 91. -/
def Obligations.MatrixUnits : Prop :=
  (∀ (h : RecHead) (b : MxNest) (cs k j bits : Nat) (t : Slot) (p : Position) (f : ElemFmt) (image : Nat → Int),
      let i := Instr.mxacc h b
      let w := bufferOf t b.wbuf
      let tile := (nestTile b k).toNat
      let trit (k c : Nat) : Int := tritValue (sget 0 w.bytes (64 * c + k / 5)).toNat (k % 5)
      let term (c : Nat) : Int := (List.range 320).foldl (fun a k => a + trit k c * image k) 0
      heldPosition t (if b.fsel then 1 else 0) (nestPos b cs k) = some p → activation p.fmt = some (f, bits) →
      w.transposed = false → j ≤ b.rows.toNat →
      (∀ k, k < 320 → ∃ neg m e, image k = (if neg then -(m : Int) else m) ∧
        activationOf f (elemOf bits (leNat (sgetRange 0 p.bytes (640 * j) (rowBytesOf bits))) k) = .fin neg m e) →
      (∀ a, sget 0 (iterationRow t i b cs k j).acc a
        = sget 0 t.acc a + (if 16384 * tile + 256 * j ≤ a ∧ a < 16384 * tile + 256 * j + 256 then
            BitVec.ofInt 48 (term (a - (16384 * tile + 256 * j))) else 0))
      ∧ ∀ u y, k = 0 → j = 0 → iteration t i b cs 0 y = .ok u → ∀ a,
          let old : BitVec 48 :=
            if 16384 * tile ≤ a ∧ a < 16384 * tile + 16384 then
              (if b.opens then 0 else if b.x3 then sget 0 t.acc a * 3 else sget 0 t.acc a)
            else sget 0 t.acc a
          sget 0 u.acc a = old + (if 16384 * tile ≤ a ∧ a < 16384 * tile + 256 then BitVec.ofInt 48 (term (a - 16384 * tile)) else 0))
    ∧ ∀ (s : State) (i : Instr) (t : Slot) (o : Op) (cap : RecCapture) (start k : Nat) (late : Bool),
       slotOf s t.id = some t → o.work = .matrix i cap start k late → o.stopped = false → t.time.stoppedAt = none →
       t.answer = none →
       (∀ b, nestOf i = some b → cap.row < productRows i b → start - nestSpan i b + cap.row ≤ s.cycle →
         nextRow s t o = some (modSlot s t.id (fun _ => modOp (iterationRow t i b cap.cs (k - 1) cap.row) o.id (fun o =>
           { o with work := .matrix i { cap with row := cap.row + 1 } start k late }))))
       ∧ (∀ h b p, i = .mxldw h b → k < 64 → start + k + 1 ≤ s.cycle →
         let f : BitVec 2 := if b.fsel then 3 else 2
         heldPosition t f (cap.cs + b.start.toInt) = some p →
         ∃ s' u, nextChunk s t o = some s' ∧ slotOf s' t.id = some u
           ∧ ((∀ n, n < 256 → (sget 0 p.bytes (256 * k + n)).toNat < 243) → ∀ n,
               sget 0 (bufferOf u b.wbuf).bytes n = (if 256 * k ≤ n ∧ n < 256 * k + 256 then sget 0 p.bytes n
                 else sget 0 (bufferOf t b.wbuf).bytes n))
           ∧ ∀ n, n < 256 → 243 ≤ (sget 0 p.bytes (256 * k + n)).toNat →
               (∀ m, m < n → (sget 0 p.bytes (256 * k + m)).toNat < 243) →
               s' = opFault (modSlot s t.id (fun _ => modOp (giveBack (setBuffer t b.wbuf { bytes := [], transposed := b.t }) f
                   b.consume.toNat) o.id (fun o => { o with work := .matrix i cap start (k + 1) late }))) t.id o
                 { code := 0x18, operand := positionOperand f (cap.cs + b.start.toInt), elem := BitVec.ofNat 32 (256 * k + n) })
       ∧ ∀ off n later, (matrixBlocks i (cap.fmts.headD 0)).drop k = (off, n) :: later → blockDue i start k ≤ s.cycle →
         (∀ h b s1, i = .mxdrain h b →
           checkGranules s t.id t.id (engineCode t.id (o.q.getD 0)) (.write t.det.rc) (b.dst.toNat + off) n = .ok s1 →
           (cap.out.take n).length = n →
           ∃ s' u, nextBlock s t o = some s' ∧ slotOf s' t.id = some u ∧ storesBank t u (b.dst.toNat + off) (cap.out.take n)
             ∧ (∀ e, e ≠ t.id → slotOf s' e = slotOf s1 e)
             ∧ { s' with cur := s.cur, rest := s.rest } = s
             ∧ (later = [] → ∀ g, granuleFull u g = (granuleFull t g || (granulesOf (b.dst.toNat + off) n).contains g)))
         ∧ (∀ h b c cs s1, i = .mxsave h b → cap.handles = c :: cs →
           let pa := c.base + b.off.toNat + off
           (∀ l ∈ linesOf pa n, canSend s (dieOf t.id.core) l = true) →
           refusedByte s t pa (linesOf pa n) rightWrite false = none → checkLines s t .write pa n = .ok s1 →
           ∃ s', nextBlock s t o = some s' ∧ storesMemory s s' pa (cap.out.take n)
             ∧ { s' with mem := s.mem, poison := s.poison, lines := s.lines, detWords := s.detWords, counters := s.counters
                         l1 := s.l1, cur := s.cur, rest := s.rest } = s)
         ∧ (∀ h b c cs s1, i = .mxrest h b → cap.handles = c :: cs →
           let pa := c.base + b.off.toNat + off
           (∀ l ∈ linesOf pa n, canSend s (dieOf t.id.core) l = true) →
           refusedByte s t pa (linesOf pa n) rightRead false = none → checkLines s t .read pa n = .ok s1 →
           poisoned s1 pa n = false →
           let r := homeRead s1 pa n
           let out := r.2.reverse ++ cap.out
           ∃ s', nextBlock s t o = some s' ∧ sameMemory s s'
             ∧ (k + 1 < 1665 → s' = modSlot r.1 t.id (fun t => modOp t o.id (fun o =>
                 { o with work := .matrix i { cap with out := out } start (k + 1) late })))
             ∧ ∀ u x, k + 1 = 1665 → slotOf r.1 t.id = some u → restoreTile u b.tile out.reverse = .ok x →
                 s' = modSlot (modSlot r.1 t.id (fun _ => x)) t.id (fun t => modOp t o.id (fun o =>
                   { o with work := .matrix i { cap with out := [] } start (k + 1) late })))

/-- Copy records at issue (R41 to R45, R51, R243, R385 to R392): each that is ready captures its formats and handles, and
its operation goes on its counter. RCFENCE empties the record cache, CPYEND ends the stream, CPYIND takes its body from
the record cache or from 64 bytes of memory or of its banks, once earlier operations of its counter there are performed
(R184). A record with a stamp waits for it (R243).
The model's choices in it: log 43, log 74, log 83. -/
def Obligations.CopyRecordsIssue : Prop :=
  ∀ (h : RecHead) (s : State) (bar : Option Nat),
    (∀ i, (∃ b, i = .cpy h b ∨ i = .cpyfill h b) ∨ (∃ b, i = .cpyind h b) ∨ (∃ b, i = .cpyfifo h b)
        ∨ (∃ b, i = .cpynet h b) ∨ i = .rcfence h ∨ i = .cpyend h →
      s.mgmt.powered = true → h.stv = true → s.cycle < (s.cur.stampb + h.stamp.setWidth 64).toNat →
      exec i s = .next { s with cur := { s.cur with cp := { s.cur.cp with issued := true } } })
    ∧ (copyReady s h bar →
      issuesCopy (.rcfence h) s { s with cur := { s.cur with records := [] } } bar .none
      ∧ issuesCopy (.cpyend h) s { s with cur := { s.cur with cp := { s.cur.cp with running := false } } } bar .end_
      ∧ (∀ b cap, cpyCapture s h b false = .ok cap → issuesCopy (.cpy h b) s s bar (.copy false b cap h.cor 0 [] []))
      ∧ (∀ b cap, cpyCapture s h b true = .ok cap → issuesCopy (.cpyfill h b) s s bar (.copy true b cap h.cor 0 [] []))
      ∧ (∀ b, issuesCopy (.cpyfifo h b) s s bar (.fifo b
            { trap := h.trap
              fmts := (List.range (b.npos.toNat + 1)).map (fun (k : Nat) =>
                bankFmt s.cur ((b.src.toNat : Int) + (k : Int) * b.pstride.toInt).toNat) } h.cor 0))
      ∧ (∀ b, b.lkind ≠ 0 → issuesCopy (.cpynet h b) s s bar (.net b none h.trap h.cor none 0))
      ∧ (∀ b c, b.lkind = 0 → useHandle s.cur b.lh h.trap b.loff.toNat = .ok c →
          issuesCopy (.cpynet h b) s s bar (.net b (some c) h.trap h.cor none 0))
      ∧ (∀ b key, (b.rkind = true ∧ key = b.roff.toNat ∧ ownsRange s.cur key 64 = true)
            ∨ (b.rkind = false ∧ ∃ c, useHandle s.cur b.rh h.trap b.roff.toNat = .ok c
                ∧ checkPage c b.roff.toNat 64 permRd = .ok key) →
          let own : Option Nat := if b.rkind then some key else none
          let cached := s.cur.records.find? (fun r => r.loc = b.rkind && r.key = key)
          (∀ r cap, cached = some r → cpyCapture s h r.body false = .ok cap →
            issuesCopy (.cpyind h b) s s bar (.copy false r.body { cap with body := own } h.cor 0 [] []))
          ∧ (cached = none → earlierOn s.cur h.q b.rkind key 64 (b.rkind && h.cor) ≠ [] → exec (.cpyind h b) s
              = .next (blockRec s false (.ops (earlierOn s.cur h.q b.rkind key 64 (b.rkind && h.cor)))))
          ∧ (cached = none → earlierOn s.cur h.q b.rkind key 64 (b.rkind && h.cor) = [] →
            let entries (s1 : State) (body : CpyBody) : State :=
              let kept := if s1.cur.records.length < 8 then s1.cur.records else s1.cur.records.drop 1
              { s1 with cur := { s1.cur with records := kept ++ [{ loc := b.rkind, key := key, body := body }] } }
            (b.rkind = false → canSend s (dieOf s.cur.id.core) (key / 128) = true →
              admitMem s s.cur key rightRead false = true → poisoned s key 64 = false →
              let s1 := (homeRead s key 64).1
              let v := BitVec.ofNat 512 (memNat s key 64)
              (∀ c, fetchedBody s.cur v = .error c →
                recordFaults (.cpyind h b) s false { code := 0x02, sub := BitVec.ofNat 8 c })
              ∧ ∀ body cap, fetchedBody s.cur v = .ok body → cpyCapture s1 h body false = .ok cap →
                issuesCopy (.cpyind h b) s (entries s1 body) bar (.copy false body { cap with body := own } h.cor 0 [] []))
            ∧ (b.rkind = true → bankPoisoned s.cur key 64 = false →
              (∀ g, key / 16 ≤ g → g ≤ (key + 63) / 16 → granuleFull s.cur g = true) →
              ∀ s0 body cap, checkGranules s s.cur.id s.cur.id (engineCode s.cur.id h.q) (.waiting h.cor) key 64 = .ok s0 →
              fetchedBody s.cur (BitVec.ofNat 512 (leNat (bankRead s.cur key 64))) = .ok body →
              cpyCapture s0 h body false = .ok cap →
              issuesCopy (.cpyind h b) s (entries s0 body) bar
                (.copy false body { cap with body := own } h.cor 0 (if h.cor then granulesOf key 64 else []) [])))))

/-! ## Events of streams and operations (R71, R72, R182, R215 to R219, R236, R244, R304, R348, R349, R387, R431) -/

/-- A pending producer writes its destinations and flags (R236); a stream whose object has come is no longer blocked
(R215); a WAIT whose combination holds, or whose timeout has come, writes a bit for each condition that holds, and bit 4
on a timeout, and goes on (R217, R218), its granules judged first in deterministic mode (R195); the oldest held event enters
the armed handler once the control stream is drained (R431), and one held after END ends the launch (R433); a counter's value
reaches a bound counter (R304, R305).
The model's choices in it: log 28, log 52. -/
def Obligations.StreamEvents : Prop :=
  ∀ (s : State) (c : SlotId) (t : Slot), s.mgmt.powered = true → slotOf s c = some t →
    (∀ i d, t.deferred[i]? = some d → d.due ≤ s.cycle → (d.gs.map (fun p => p.1)).Nodup → (d.vs.map (fun p => p.1)).Nodup →
      ∃ u, slotBecomes (.deferredWrite c i) s c u ∧ slotSets t u d.gs d.vs
        ∧ u = { t with deferred := t.deferred.eraseIdx i, flags := t.flags ||| d.flags
                       g := u.g, gEmpty := u.gEmpty, v := u.v, vEmpty := u.vEmpty })
    ∧ (∀ st obj, (streamOf t st).blocked = some obj →
        let come : Prop :=
          (∃ r, obj = .gReg r ∧ gIsEmpty t r = false) ∨ (∃ r, obj = .vReg r ∧ vIsEmpty t r = false)
          ∨ (∃ h, obj = .handle h ∧ t.h[h.toFin].full = true) ∨ (∃ g, obj = .granule none g ∧ granuleFull t g = true)
          ∨ (∃ n, obj = .tile n ∧ t.tiles[n.toFin].full = true) ∨ (∃ x, obj = .stream x ∧ (streamOf t x).running = false)
          ∨ (∃ ids, obj = .ops ids ∧ ∀ o ∈ t.ops, o.id ∉ ids) ∨ (obj = .producers ∧ producersDone t = true)
          ∨ (∃ q, obj = .queueRoom q ∧ queueFull s q = false)
          ∨ (∃ r g m, obj = .granule (some r) g ∧ memberSlot s t r = some m ∧ granuleFull m g = true)
        come → slotBecomes (.streamUnblock c st) s c (modStream t st (fun x => { x with blocked := none })))
    ∧ (∀ w, t.wait = some w → ctlAwake s t = true → w.conds.length ≤ 4 →
        let ends (i : Instr) (bit4 : Bool) : Prop :=
          ∃ r u v, exec i s = .next r ∧ slotOf r c = some u ∧ u.wait = none
            ∧ u.ctl = { t.ctl with pc := t.ctl.pc + 8, blocked := none, issued := true }
            ∧ slotSets t u [(w.dest, v)] [] ∧ r.mem = s.mem ∧ u.banks = t.banks ∧ u.flags = t.flags
            ∧ ∀ i, v.getLsbD i = (decide (i < w.conds.length) && condHolds t w i || decide (i = 4) && bit4)
        (waitMet t w = true → ∀ s0, waitReads s c w = .ok s0 →
            ends (.waitReturn c) false ∧ (waitExpired s w = true → ends (.waitTimeout c) false))
        ∧ (waitMet t w = false → w.timeout ≠ BitVec.allOnes 64 → w.t0 + w.timeout.toNat + 1 ≤ s.cycle / 16 →
            (isDet t = false → ends (.waitTimeout c) true)
            ∧ (isDet t = true → ∃ f, f.code = 0x21 ∧ f.dcheck = 4
                ∧ exec (.waitTimeout c) s = .next (takeFault s (waitSite t) f (t.ctl.pc - word (recCodeva t.record))))))
    ∧ (∀ e es, t.events = e :: es → t.ending = [] →
        ((∃ i, t.item = some i ∧ i.ended = true) → exec (.asyncEventTake c) s = .next (endItem s c e.report))
        ∧ ((∀ i, t.item = some i → i.ended = false) → armed t = true → atBoundary s t = true → ctlDrained s t = true →
          e.stream ≠ some .control →
          ∃ u, slotBecomes (.asyncEventTake c) s c u ∧ u.events = es ∧ u.trapv = BitVec.allOnes 64
            ∧ u.ctl = { t.ctl with pc := t.trapv, blocked := none, issued := true, hold := 8 }
            ∧ slotSets t u [(60, e.report.extractLsb' 0 64), (61, (e.report.extractLsb' 161 32).setWidth 64),
                (62, e.report.extractLsb' 320 64), (63, t.ctl.pc - BitVec.ofNat 64 (recCodeva t.record))] []
            ∧ (e.stream = some .matrix → u.mx.running = false) ∧ (e.stream = some .copy → u.cp.running = false)
            ∧ u.banks = t.banks ∧ u.mode = t.mode ∧ u.acc = t.acc))
    ∧ (∀ (q : BitVec 4) b bs y t', let x := t.q[q.toFin]
        x.bindings.filter (fun b => forwardDue s t x b) = b :: bs → bindingSlot s b = some y → releaseCount t = .ok t' →
        let take (z : Counter) : Counter :=
          { z with value := x.value, scope := b.scope, carriedRc := t'.det.rc, firstWrite := x.firstWrite
                   boundBy := some (c, itemKey t) }
        let sent (z : Counter) : Counter :=
          { z with bindings := z.bindings.map (fun y =>
              if y = b then { y with sent := x.value } else y) }
        exec (.qpubForward c q) s = .next
          (modSlot (modSlot s y.id (fun y => { y with q := y.q.set b.q.toFin (take y.q[b.q.toFin]) })) c
            (fun u => { u with det := t'.det, q := u.q.set q.toFin (sent u.q[q.toFin]) })))

/-- An operation with nothing left completes (R182, R92), or sends its completion update first (R244); a gather fetches one
line, or writes the destination granules whose elements are all there, or reads its indices, and is over when every element is
written (R70 to R72, R171, R308); an iteration of a product starts (R349) and tile writes land (R348); an update of a barrier
object reaches its home (R221, R222) behind its source's earlier ones on that line (R76), where the reorder buffer holds it or
refuses it (R77), and a WAIT reads the phase of a signalled object again (R301).
The model's choices in it: log 1, log 82, log 88. -/
def Obligations.OperationEvents : Prop :=
  ∀ (s : State) (c : SlotId) (t : Slot), s.mgmt.powered = true → slotOf s c = some t →
    (∀ (q : BitVec 4) n o, opNumbered t q n = some o →
      (completeReady s t o = true → exec (.recordComplete c q n) s = .next (complete (completeWork s t o) c o.id))
      ∧ (opOf t o.id = some o → o.stopped = false → o.dead = [] → o.work = .none →
        (o.barrier = none → t.q[q.toFin].boundBy = none → ∃ u, slotBecomes (.recordComplete c q n) s c u
            ∧ u.ops = t.ops.filter (fun p => p.id ≠ o.id) ∧ u.flags = t.flags ||| o.flags
            ∧ u = { t with ops := u.ops, flags := u.flags, q := u.q }
            ∧ u.q[q.toFin].value = counterValue { t with ops := u.ops } q
            ∧ ∀ k : Fin 16, k ≠ q.toFin → u.q[k] = t.q[k])
        ∧ (∀ addr, o.barrier = some addr →
            let update : BarrierUpdate :=
              { issuer := refOf t o.id, addr := addr, delta := -1, source := o.source, coff := o.coff, tenant := t.tenant
                context := t.context, completes := true, len := o.len, q := q, opnum := o.num, offset := o.barrierOff }
            slotBecomesFrom (sendUpdate s update) (.recordComplete c q n) s c
              { t with ops := t.ops.map (fun p => if p.id = o.id then { p with work := .barrier, barrier := none } else p) }))
      ∧ (∀ dst idx h esize count index written lines, o.work = .gather dst idx h esize count index written lines →
        o.stopped = false → enginesRun s t = true → inOrder t o = true → isDet t = false → esize ∣ 16 →
        let leaves (s1 : State) (u : Slot) (w : Work) : Prop :=
          slotBecomesFrom s1 (.gatherLineReply c q n) s c u
            ∧ u.ops = t.ops.map (fun p => if p.id = o.id then { p with work := w } else p)
        let work (index written : List Nat) (lines : List (Nat × List Byte)) : Work :=
          .gather dst idx h esize count index written lines
        let gs := gatherGranules s h esize count index written lines
        (written.length = count → ∃ u, leaves s u .none ∧ u = { t with ops := u.ops })
        ∧ (written.length ≠ count → gs ≠ [] → ∃ u done,
            leaves s u (work index (written ++ done) lines)
            ∧ u = { t with ops := u.ops, banks := u.banks, poison := u.poison, empty := u.empty }
            ∧ (∀ k, k ∈ done ↔ ∃ g ∈ gs, k ∈ gatherOpen esize count written g)
            ∧ (∀ k ∈ done, ∃ bs, gatherBytes s h esize index lines k = some bs
                ∧ ∀ i, i < bs.length → bankByte u (dst + k * esize + i) = bs.getD i 0)
            ∧ (∀ a, dst + count * esize ≤ a → a < dst + (count * esize + 15) / 16 * 16 → (a - dst) / 16 ∈ gs → bankByte u a = 0)
            ∧ (∀ a, a < dst ∨ ¬ (a - dst) / 16 ∈ gs → bankByte u a = bankByte t a)
            ∧ ∀ g, granuleFull u g = (granuleFull t g || gs.any (fun x => dst / 16 + x = g)))
        ∧ (written.length ≠ count → gs = [] →
          (∀ j x pa, gatherMissing s h esize count index written lines = some j → index[j]? = some x →
            let line := pa / 128
            checkPage h (x * esize : Nat) esize permRd = .ok pa → poisoned s pa esize = false →
            canSend s (dieOf t.id.core) line = true → admitMem s t pa rightRead false = true →
            ∃ u, homeOnly s (touchLine s line false) ∧ sameMemory s (touchLine s line false)
              ∧ leaves (touchLine s line false) u
                  (work index written (lines ++ [(line, (List.range 128).map (fun i => memByte s (128 * line + i)))]))
              ∧ u = { t with ops := u.ops })
          ∧ (gatherMissing s h esize count index written lines = none → index.length < count →
            granuleFull t ((idx + 4 * index.length) / 16) = true → bankPoisoned t idx (4 * count) = false →
            ∃ u m, 0 < m ∧ index.length + m ≤ count
              ∧ leaves s u (work (index ++ (List.range m).map (fun i => leNat (bankRead t (idx + 4 * (index.length + i)) 4)))
                  written lines)
              ∧ u = { t with ops := u.ops }
              ∧ (∀ i, i < m → granuleFull t ((idx + 4 * (index.length + i)) / 16) = true)
              ∧ (index.length + m = count ∨ granuleFull t ((idx + 4 * (index.length + m)) / 16) = false)))))
    ∧ (∀ o i b cap start next slipped f t', iterationDue s t = some (o, i, b, cap, start, next, slipped) →
        recFifo i = some f → positionReady s t.fifos[f.toFin] (nestPos b cap.cs next) = true →
        iteration t i b cap.cs next s.cycle = .ok t' →
        let late := decide (start < s.cycle)
        let w : Work := .matrix i { cap with row := 1 } (s.cycle + nestSpan i b) (next + 1) (slipped || late)
        exec (.matrixIterationStart c) s = .next (modSlot s c (fun _ =>
          modOp (slip t' (s.cycle - start) (late && !slipped)) o.id (fun p => { p with work := w }))))
    ∧ (t.time.stoppedAt = none → ∃ u, slotBecomes (.tileRowLand c) s c u
        ∧ u = { t with tiles := u.tiles, time := u.time }
        ∧ (∀ n : Fin 8, u.tiles[n] =
            if (∃ l ∈ t.time.lands, l.tile.toFin = n ∧ l.at_ ≤ s.cycle ∧ l.fill = true) ∧ t.tiles[n].opened = false
            then { t.tiles[n] with full := true } else t.tiles[n])
        ∧ (∀ l, l ∈ u.time.lands → s.cycle ≤ l.at_)
        ∧ u.time.reads = t.time.reads.filter (fun r => s.cycle ≤ r.2) ∧ u.time.sb = t.time.sb)
    ∧ (∀ w, t.wait = some w → w.signalled = true → slotBecomes (.barrierPhaseSignal c) s c
        { t with wait := some { w with
            signalled := false
            phases := w.phases.map (fun p => (p.1, BitVec.ofNat 32 (memNat s (p.1 + 12) 4), p.2.2)) } })
    ∧ ∀ i u, s.barriers[i]? = some u → canArrive s (dieOf u.issuer.slot.core) (u.addr / 128) u.sent = true →
        u.order.resendAt = none →
        (u.order.held = true ∨ ∀ x ∈ s.barriers.take i, sameSource x u.issuer u.source u.q = true → x.order.resendAt = none) →
        let behind : Prop := ∃ x ∈ s.barriers.take i, x.addr / 128 = u.addr / 128 ∧ sameSource x u.issuer u.source u.q = true
        (behind →
          (u.order.held = true → exec (.barrierHomeUpdate i) s = .next s)
          ∧ (u.order.held = false →
            let waits (x : Sending) : Prop :=
              exec (.barrierHomeUpdate i) s = .next { s with barriers := s.barriers.set i { u with order := x } }
            (reorderRoom s u.addr = true → waits { u.order with held := true })
            ∧ (reorderRoom s u.addr = false → waits { u.order with
                refusals := u.order.refusals + 1
                resendAt := some (s.cycle
                  + backoffTime (linkBackoff s (dieOf u.issuer.slot.core) (homeDie u.addr) 0) u.order.refusals) })))
        ∧ (¬ behind → admits s (homeTarget s u.addr) u.tenant u.context rightAtomic = true →
        (∀ p ∈ s.queues, ∀ l ∈ p.2.launches, recDet l.record = true → recEbar l.record = 0) →
        let v := memNat s u.addr 16
        let phase := v / 2 ^ 96
        let expect := v / 2 ^ 80 % 2 ^ 16
        let arrive := v / 2 ^ 64 % 2 ^ 16
        let scope := v / 2 ^ 4 % 8
        let txn := (BitVec.ofNat 32 (v / 2 ^ 32)).toInt + u.delta
        v / 2 ^ 7 % 2 ^ 25 = 0 → v % 16 = 0 → expect ≠ 0 → scope < 6 → -(2 ^ 31) ≤ txn → txn < 2 ^ 31 →
        ∃ r, exec (.barrierHomeUpdate i) s = .next r ∧ r.barriers = s.barriers.eraseIdx i
          ∧ memNat r u.addr 16 = (if arrive = 0 ∧ txn = 0
              then (phase + 1) % 2 ^ 32 * 2 ^ 96 + expect * 2 ^ 80 + expect * 2 ^ 64 + scope * 2 ^ 4
              else phase * 2 ^ 96 + expect * 2 ^ 80 + arrive * 2 ^ 64 + (BitVec.ofInt 32 txn).toNat * 2 ^ 32 + scope * 2 ^ 4)
          ∧ ∀ a, a < u.addr ∨ u.addr + 16 ≤ a → ¬ spillByte s a → memByte r a = memByte s a)

/-! ## What the copy engine moves (R40, R42 to R46, R51 to R53, R171, R385 to R391) -/

/-- Which bytes a transfer of the copy engine puts where (R385 to R391). A CPY, and a CPYIND with the body that it fetched, takes
element k from its source place, converts it when the formats of the two banks differ (R42, R43), and puts it at its
destination place; a CPYFILL takes byte A mod 8 of its pattern at address A. The elements of one transfer follow one another
in a granule of a bank or in 64 bytes of memory. Between banks the engine reads in one step and writes in another (R46); a
located token is read through its block check and its cipher engine. A CPYFIFO fills a position with the rows of its footprint,
zeros above them. A CPYNET within the package moves the bytes between the local and the remote side; a PUT to another package
sends its local bytes in a PUT frame for the remote address, and a GET asks for the bytes in a GETREQ frame.
The model's choices in it: log 23, log 83, log 91. -/
def Obligations.CopyEngineMoves : Prop :=
  ∀ (s : State) (c : SlotId) (t : Slot) (q : BitVec 4) (num : Nat) (o : Op),
    s.mgmt.powered = true → slotOf s c = some t → opNumbered t q num = some o → (∀ x ∈ t.ops, x.id = o.id → x = o) →
    o.stopped = false → slotRunning t = true → isActive s c = true → inOrder t o = true → isDet t = false →
    (∀ fill b cap cor k read, o.work = .copy fill b cap cor k read [] → k < cpyTotal b → b.ind.toNat < 3 → b.dkind.toNat < 3 →
      let sb := srcBits cap
      let db := dstBits cap
      let ix : Option Nat := if b.ind = 0 then none else some (if b.skind = 3 then
        leNat (bankRead t (b.ixa.toNat + 8 * (cpyIndex b k).2.2.2) 8) else ixOf t b k)
      let m := transferLen b db k ix
      let d := cpyDst b db k ix
      let len := ((cpyIndex b k).1 * db % 8 + m * db + 7) / 8
      let entry (size : Nat) : Prop := b.ind ≠ 0 → let a := b.ixa.toNat + size * (cpyIndex b k).2.2.2
        ownsRange t a size = true ∧ firstEmpty t a size = none ∧ bankPoisoned t a size = false
      let held (size : Nat) : List Nat := if b.ind = 0 then [] else [(b.ixa.toNat + size * (cpyIndex b k).2.2.2) / 16]
      let bytes := (sb + 7) / 8
      let from_ (j : Nat) : Int := cpySrc b sb (k + j) ix
      (b.skind ≠ 3 → o.staged = none → t.copied < 512 → entry 4 → ∀ (src : Nat → Place) (p : Place),
        copyPlace s t b.dkind (cap.handles.getD 0 noCapture) d len permW = .ok p →
        engineStores s t p len (b.dlvl = 1) →
        (fill = false → ∀ j, j < m → copyPlace s t b.skind (cap.handles.getD 1 noCapture) (from_ j) bytes permRd = .ok (src j)
          ∧ engineReads s t (src j) bytes (b.slvl = 1) ∧ apart (src j) bytes p len) →
        let code (j : Nat) : Nat × BitVec 6 :=
          if fill then ((b.sstr3 ++ b.sstr2).toNat / 2 ^ (8 * (cpyDst b db (k + j) ix % 8).toNat) % 256, 0)
          else
            let v := leNat (placeBytes s (src j) bytes) / 2 ^ ((cpyIndex b (k + j)).1 * sb % 8) % 2 ^ sb
            match capMode cap with
            | some x => recodeElem x.2.1 x.1.1 cap.mode v
            | none => (v, 0)
        let vs := (List.range m).map (fun j => (code j).1)
        ∃ w : Staged, w.ix = ix ∧ w.values = vs ∧ w.flags = (List.range m).foldl (fun f j => f ||| (code j).2) 0
          ∧ (∀ g, g ∈ w.src ↔ g ∈ held 4 ∨ fill = false ∧ b.skind ≠ 0 ∧ ∃ j, j < m ∧ g ∈ granuleKeys b.skind (from_ j) bytes)
          ∧ (¬ (copyReads fill b = true ∧ copyToBanks b = true) → ∃ s', exec (.copyElement c q num) s = .next s'
              ∧ transferLands s s' t o fill b cap cor k read w vs p (m * db))
          ∧ (copyReads fill b = true → copyToBanks b = true → ∃ s1, homeOnly s s1 ∧ sameMemory s s1 ∧ (b.skind ≠ 0 → s1 = s)
              ∧ slotBecomesFrom s1 (.copyElement c q num) s c { t with
                  ops := t.ops.map (fun x => if x.id = o.id then { o with staged := some w } else x)
                  copied := t.copied + m * db }))
      ∧ (b.skind = 3 → fill = false → o.staged = none → t.copied < 512 → entry 8 → b.ind ≠ 0 → ∀ (p : Place) (kdh : BitVec 32),
        copyPlace s t b.dkind (cap.handles.getD 0 noCapture) d len permW = .ok p →
        (∀ j, j < m → locatedBlock s t (word (ix.getD 0)) (b.soff.toNat + (cpyIndex b (k + j)).1)
          (b.n1.toNat + 1 - (cpyIndex b (k + j)).1) = .ok kdh) →
        slotBecomes (.copyElement c q num) s c { t with
          ops := t.ops.map (fun x => if x.id = o.id then
            { o with staged := some { ix, values := List.replicate m 0, flags := 0, src := held 8, kdh } } else x)
          copied := t.copied + m * db })
      ∧ ∀ w p, o.staged = some w → 0 < w.values.length →
        let first := b.soff.toNat + (cpyIndex b k).1
        let loc := word (w.ix.getD 0)
        let len := ((cpyIndex b k).1 * db % 8 + w.values.length * db + 7) / 8
        copyPlace s t b.dkind (cap.handles.getD 0 noCapture) (cpyDst b db k w.ix) len permW = .ok p →
        engineStores s t p len (b.dlvl = 1) → b.ind ≠ 2 →
        ∀ vs : List Nat, (b.skind ≠ 3 → vs = w.values) →
          (b.skind = 3 → unreachable s t loc = false ∧ vs.length = w.values.length
            ∧ ∃ bs, locatedBytes s t loc w.kdh first w.values.length = .ok bs ∧ vs = bs.map (fun x => x.toNat)) →
          ∃ s', exec (.copyElement c q num) s = .next s' ∧ transferLands s s' t o fill b cap cor k read w vs p 0)
    ∧ (∀ b cap cor k, o.work = .fifo b cap cor k → k ≤ b.npos.toNat → o.staged = none → t.copied < 512 →
      let f := t.fifos[b.fifo.toFin]
      let fmt := cap.fmts.getD k 0
      let src := fifoSrc b k
      let rows := fifoRows b cap k
      f.filled < fifoC f + 4 → f.filledAt ≠ s.cycle → 0 ≤ src →
      (if isWeight b then bankClass fmt = .trit else (activation fmt).isSome = true) →
      (∀ r ∈ rows, ownsRange t r.1 r.2 = true ∧ firstEmpty t r.1 r.2 = none ∧ bankPoisoned t r.1 r.2 = false) →
      ∃ u pos, slotBecomes (.copyElement c q num) s c u
        ∧ u = { t with
            fifos := u.fifos, copied := u.copied
            ops := t.ops.map (fun x => if x.id = o.id then { o with work := .fifo b cap cor (k + 1) } else x) }
        ∧ (∀ g : Fin 4, g ≠ b.fifo.toFin → u.fifos[g] = t.fifos[g])
        ∧ u.fifos[b.fifo.toFin] = { f with filled := f.filled + 1, filledAt := s.cycle, held := u.fifos[b.fifo.toFin].held }
        ∧ pos ∈ u.fifos[b.fifo.toFin].held ∧ (∀ x ∈ f.held, fifoC f + 1 ≤ x.num + 4 → x ∈ u.fifos[b.fifo.toFin].held)
        ∧ pos.num = f.filled ∧ pos.fmt = fmt
        ∧ (isWeight b = true → ∀ x, sget 0 pos.bytes x = if x < 16384 then bankByte t (src.toNat + x) else 0)
        ∧ ∀ g bits, isWeight b = false → activation fmt = some (g, bits) → ∀ r x, r < 64 → x < 640 →
            sget 0 pos.bytes (640 * r + x) =
              if r ≤ b.rows.toNat ∧ x < 320 * bits / 8 then bankByte t (src.toNat + r * b.rstride.toNat + x) else 0)
    ∧ ∀ b h trap cor sent done, o.work = .net b h trap cor sent done → done < netLen b → o.staged = none → t.copied < 512 →
      pathUp s (dieOf c.core) 0 0 = true → egressAdmits s t = true →
      let place (n : Nat) (perm : BitVec 4) : Res Place :=
        copyPlace s t (if h.isSome then 0 else 1) (h.getD noCapture) (b.loff.toNat + done : Nat) n perm
      let pa := b.rpa.toNat + done
      (b.dev = s.devid →
        let n := netPiece b done
        let ends (s' : State) (p : Place) (wrote : Bool) : Prop :=
          opBecomes s s' t o { o with wrote := o.wrote || wrote, work := .net b h trap cor (some nearTransfer) (done + n) } (8 * n)
          ∧ ∀ e u, slotOf s e = some u → ∃ u', slotOf s' e = some u' ∧ ∀ g, granuleFull u' g = (granuleFull u g ||
              match p with
              | .mem .. => false
              | .bank e' a _ => decide (e' = e) && (granulesOf a n).contains g
                  && (decide ((a + n) % 16 = 0) || decide (done + n = netLen b)))
        (b.get = true → ∀ p, place n permW = .ok p → engineStores s t p n false → remoteAdmits s t pa rightRead = true →
          remoteAdmits s t (pa + n - 1) rightRead = true → poisoned s pa n = false → needReleased s 0 (linesOf pa n) = .ok () →
          (∀ i, i < n → ¬ spillByte s (pa + i)) → ∃ s', exec (.copyElement c q num) s = .next s'
            ∧ landsAt s s' p (placeBytes s (.mem pa 0) n) ∧ ends s' p h.isSome)
        ∧ (b.get = false → ∀ p, place n permRd = .ok p → engineReads s t p n false → remoteAdmits s t pa rightWrite = true →
          (∀ l ∈ linesOf pa n, canSend s 0 l = true) → ∃ s', exec (.copyElement c q num) s = .next s'
            ∧ landsAt s s' (.mem pa 0) (placeBytes s p n) ∧ ends s' (.mem pa 0) true))
      ∧ (b.dev ≠ s.devid → s.port.up = true →
        let frame (kind : BitVec 4) (aux : BitVec 32) (payload : List Byte) : Frame :=
          { kind, hs := false, hd := false, src := s.devid, dst := b.dev, tenant := t.tenant, context := t.context, seq := 0
            ack := 0, rpa := b.rpa + BitVec.ofNat 52 done, aux, payload }
        let sends (s1 : State) (f : Frame) (sent : Option Nat) (at_ moved : Nat) : Prop :=
          exec (.copyElement c q num) s = .next (modSlot (sendFrame s1 f (some (refOf t o.id))) c (fun u =>
            { u with ops := u.ops.map (fun x => if x.id = o.id then { o with work := .net b h trap cor sent at_ } else x)
                     copied := u.copied + moved }))
        (b.get = true → sent = none →
          let f := frame 2 (BitVec.ofNat 32 ((netLen b - done + 15) / 16 * 16)) []
          flowRoom s f = true → sends s f (some done) done 0)
        ∧ (b.get = false →
          let n := min (netLen b - done) 8192
          ∀ p, place n permRd = .ok p → engineReads s t p n false →
          let f := frame 1 0 (padFrame (placeBytes s p n))
          flowRoom s f = true → ∃ s1, homeOnly s s1 ∧ sameMemory s s1 ∧ sends s1 f sent (done + n) (8 * n)))

/-! ## Events of the scan unit, the pannier, carries, the KV store and queries (R133, R138, R159 to R169, R376 to R384, R461) -/

/-- The scan unit starts an operation that passes R376, and faults one that does not; it absorbs the source in order,
writes the results, which become full, and stores the state slot (R366, R377); the hubs combine the members of a troupe
in rank order (R378, R379), the sources being read in one step and the results written in another (R46); the pannier moves 32,768
bytes between a state slot and memory (R381). A carry leaves its state slot as a train of packets, is accepted by its receiver,
and the acceptance ends the CHSEND (R383, R384); a chain link drops a damaged packet, names a gap once, acknowledges what it
takes and what it has taken before, refuses what it has no room for, and forwards a train or answers it (R449, R453, R461,
R462).
The model's choices in it: log 1, log 18, log 49, log 82, log 85, log 92, log 105. -/
def Obligations.ScanAndCarryEvents : Prop :=
  (∀ (s : State) (c : SlotId) (t : Slot), s.mgmt.powered = true → slotOf s c = some t →
     (∀ o z src dst n nch op troupe step started read, scanNext s t = some o →
       o.work = .scan z src dst n nch op troupe step started read →
       (troupe = true → troupeSize t = 0 → exec (.scanUnitStart c) s = .next (opFault s c o { code := 0x0C }))
       ∧ ((troupe = false ∨ troupeSize t ≠ 0) →
          (∀ f, scanCheck t z n nch op step = .error (.fault f) → exec (.scanUnitStart c) s = .next (opFault s c o f))
          ∧ (scanCheck t z n nch op step = .ok () →
              let rounds := ((op.record.extractLsb' 12 3).toNat + 1) * ((n * nch + 63) / 64)
              let time := if step then 12 + rounds else 24 + (if sopFold op.record then 1 else 2) * rounds
              slotBecomes (.scanUnitStart c) s c { t with
                ops := t.ops.map (fun p => if p.id = o.id then
                  { p with due := s.cycle + time, work := .scan z src dst n nch op troupe step true [] } else p) })))
     ∧ (∀ o z src dst n nch op step read, scanRunning s t = some o →
         o.work = .scan z src dst n nch op false step true read →
         let comps := sopComps op.record
         let size := 4 * comps * n * nch
         let p := hdrP (zHeader t z)
         (∀ f, scanCheck t z n nch op step = .error (.fault f) → exec (.scanComplete c) s = .next (opFault s c o f))
         ∧ (scanCheck t z n nch op step = .ok () → isDet t = false → dst % 16 = 0 → 0 < size →
           (o.staged = none → read = [] → bankPoisoned t src size = false →
             (src = dst ∨ ∀ g, src / 16 ≤ g → g ≤ (src + size - 1) / 16 → granuleFull t g = true) →
             slotBecomes (.scanComplete c) s c { t with ops := t.ops.map (fun q => if q.id = o.id then
               { q with
                 staged := some { values := [0] }
                 work := .scan z src dst n nch op false step true (bankRead t src size) } else q) })
           ∧ (o.staged = some { values := [0] } → read.length = size →
             let r := absorbAll op p nch (channelsOf t z) (elementsOf comps read)
             let out := r.2.1.flatMap (elementBytes comps)
             ∃ u, slotBecomes (.scanComplete c) s c u
               ∧ u = { t with banks := u.banks, poison := u.poison, empty := u.empty, z := u.z
                              ops := t.ops.map (fun q => if q.id = o.id then
                                { q with work := .none, staged := none, flags := q.flags ||| r.2.2 } else q) }
               ∧ (∀ a, bankByte u a =
                   if dst ≤ a ∧ a < dst + out.length ∧ a < dst + size then out.getD (a - dst) 0 else bankByte t a)
               ∧ (∀ g, granuleFull u g = (granuleFull t g || decide (dst / 16 ≤ g) && decide (g ≤ (dst + size - 1) / 16)))
               ∧ u.z = (storeState t z op (p + n) nch r.1).z ∧ hdrP (zHeader u z) = p + n ∧ hdrNch (zHeader u z) = nch)))
     ∧ (∀ ms, scanMembers s t = some ms →
         (∀ code, scanFault ms = some code →
           exec (.scanHubCombine c) s = .next (ms.foldl (fun s m => opFault s m.1.id m.2 { code := code }) s))
         ∧ (scanFault ms = none → scanMembersOk ms = .ok () →
           (∀ s1, scanTaken ms = false → scanSources ms = true → scanRan s ms = true →
             ms.foldlM scanMemberRead s = .ok s1 → exec (.scanHubCombine c) s = .next s1)
           ∧ ∀ m rest z src dst n nch op troupe step started read s1 cs k, ms = m :: rest → scanTaken ms = true →
             m.2.work = .scan z src dst n nch op troupe step started read →
             ms.foldl (scanMember (hdrP (zHeader m.1 z)) n nch op) (.ok (s, channelsOf m.1 z, 0)) = .ok (s1, cs, k) →
             exec (.scanHubCombine c) s = .next (ms.foldl (fun s m => modSlot s m.1.id (fun u =>
               match m.2.work with
               | .scan z' .. =>
                 modOp (storeState u z' op (hdrP (zHeader m.1 z) + n * ms.length) nch cs) m.2.id
                   (fun o => { o with staged := none, work := .none })
               | _ => u)) s1)))
     ∧ (∀ (q : BitVec 4) num o fill z h off, opNumbered t q num = some o → o.work = .pannier fill z h off →
         pannierReady s t o = true → (zTag t z).state = 1 → h.kdh = 0 →
         let pa := h.base + off
         let ops := t.ops.map (fun p => if p.id = o.id then { p with work := .none, wrote := !fill } else p)
         (fill = true → refusedByte s t pa (linesOf pa 32768) rightRead false = none → poisoned s pa 32768 = false →
           needReleased s (dieOf t.id.core) (linesOf pa 32768) = .ok () →
           ∃ b, slotBecomesFrom (homeRead s pa 32768).1 (.pannierTransferComplete c q num) s c { t with z := b, ops := ops }
             ∧ ∀ k, sget 0 b k = if 32768 * z.toNat ≤ k ∧ k < 32768 * z.toNat + 32768
                 then memByte s (pa + (k - 32768 * z.toNat)) else sget 0 t.z k)
         ∧ (fill = false → refusedByte s t pa (linesOf pa 32768) rightWrite false = none →
             needReleased s (dieOf t.id.core) (linesOf pa 32768) = .ok () →
             let w := (homeWrite s pa (zRead t z 0 32768)).1
             slotBecomesFrom w (.pannierTransferComplete c q num) s c { t with ops := ops }
             ∧ ∀ k, k < 32768 → memByte w (pa + k) = sget 0 t.z (32768 * z.toNat + k))))
  ∧ (∀ (s : State) (i : Nat) (c : Carry), s.mgmt.powered = true → s.carries[i]? = some c →
     (∀ x ∈ s.carries.take i, ¬ (x.srcDev = c.srcDev ∧ x.source.slot = c.source.slot ∧ x.dstCore = c.dstCore
       ∧ x.dstSlot = c.dstSlot ∧ x.tag = c.tag)) →
     c.due ≤ s.cycle →
     (∀ t o z w tag sent, c.bytes = none → c.via = none → carrySender s c = some (t, o) → o.work = .chsend z w tag sent →
        enginesRun s t = true → o.stopped = false → zTurn t o = true → (zTag t z).state = 1 →
        let src := dieOf c.source.slot.core
        let faults (code : BitVec 8) : Prop :=
          exec (.carryArrival i) s = .next (opFault { s with carries := s.carries.eraseIdx i } t.id o { code := code })
        let leaves (s1 : State) : Prop := exec (.carryArrival i) s = .next (modSlot s1 t.id
          (fun t => modOp t o.id (fun o => { o with work := .chsend z w tag (some c.refusals) })))
        (c.dstDev = s.devid →
          (chainAdmits s (lanePorts src (dieOf c.dstCore)) c.tenant c.context = false → faults 0x25)
          ∧ (chainAdmits s (lanePorts src (dieOf c.dstCore)) c.tenant c.context = true → pathUp s src (dieOf c.dstCore) 0 = true →
            let s1 := if src = dieOf c.dstCore then s else laneSend s (trainOf c (carryBytes t z))
            leaves { s1 with carries := s.carries.set i { c with bytes := some (carryBytes t z) } }))
        ∧ (c.dstDev ≠ s.devid →
          (routeLink s src c.dstDev = none → faults 0x28)
          ∧ ∀ l, routeLink s src c.dstDev = some l →
              (chainAdmits s [l] c.tenant c.context = false → faults 0x25)
              ∧ (chainAdmits s [l] c.tenant c.context = true → sendsBefore t o w tag = false →
                linkRoom s l (trainOf c (carryBytes t z)).length = true →
                leaves ((trainOf c (carryBytes t z)).foldl (fun s p => linkSend s l p)
                  { s with carries := s.carries.eraseIdx i }))))
     ∧ (∀ bs t it, c.bytes = some bs → slotOf s ⟨c.dstCore, c.dstSlot⟩ = some t → t.item = some it → it.retired = false →
        enginesRun s t = true →
        let gone : State := { s with carries := s.carries.eraseIdx i }
        let taken : State := modSlot gone ⟨c.dstCore, c.dstSlot⟩ (fun t => { t with unmatched := t.unmatched ++ [c] })
        (c.via = none →
          (acceptsCarry t c = true → exec (.carryArrival i) s =
            .next { taken with acceptances := s.acceptances ++ [{ c with answer := .accepted }] })
          ∧ (acceptsCarry t c = false → exec (.carryArrival i) s = .next { s with
              carries := s.carries.set i { c with
                refusals := c.refusals + 1, due := s.cycle + 50 * 2 ^ min c.refusals 6 * 16 } }))
        ∧ ∀ l, c.via = some l → linkRoom s l 1 = true → exec (.carryArrival i) s = .next
            (if acceptsCarry t c then linkSend taken l (answerOf (carryPacket c) .accepted c.seqs)
             else linkSend gone l (answerOf (carryPacket c) .full c.seqs))))
  ∧ (∀ (s : State) (i : Nat) (c : Carry) (t : Slot) (o : Op), s.mgmt.powered = true → s.acceptances[i]? = some c →
     (∀ x ∈ s.saved, holdsItem x.slot c.source.item c.source.born = false) → carrySender s c = some (t, o) →
     let gone : State := { s with acceptances := s.acceptances.eraseIdx i }
     (c.answer = .accepted → exec (.acceptancePacketArrival i) s = .next (modSlot gone t.id
        (fun t => modOp t o.id (fun o => { o with work := .none }))))
     ∧ (c.answer = .undeliverable → exec (.acceptancePacketArrival i) s = .next (opFault gone t.id o { code := 0x28 }))
     ∧ (c.answer = .refused → exec (.acceptancePacketArrival i) s = .next (opFault gone t.id o { code := 0x25 })))
  ∧ ∀ (s : State) (link : BitVec 3) (p : ChainPacket), s.mgmt.powered = true →
     let n : Fin 8 := link.toFin
     let l := s.chains[n]
     let put (l : ChainLink) : State := { s with chains := s.chains.set n l }
     let becomes (r : State) : Prop := exec (.chainPacket link p) s = .next r
     let domain (d : BitVec 18) : BitVec 12 := d.extractLsb' 6 12
     let ahead := (p.seq - l.expected).toNat
     l.up = true →
     (soundPacket p = false → becomes (put { l with
        dropped := l.dropped + 1, drops := l.drops.filter (fun c => s.cycle < c + 1600000) ++ [s.cycle] }))
     ∧ (soundPacket p = true → p.form = .ack →
        let left := l.window.filter (fun x => 2 ^ 23 ≤ (p.seq - x.packet.seq).toNat)
        becomes (put { l with window := left, fulls := if left.length = l.window.length then l.fulls else 0 }))
     ∧ (soundPacket p = true → p.form = .gap →
        let left := l.window.filter (fun x => 2 ^ 23 ≤ (p.seq - 1 - x.packet.seq).toNat)
        becomes (resendLink s n { l with window := left, fulls := 0 }))
     ∧ (soundPacket p = true → p.form = .packet →
        (0 < ahead → ahead < 2 ^ 23 → l.gapSent = false → becomes (linkReply (put { l with gapSent := true }) n .gap l.expected))
        ∧ (0 < ahead → ahead < 2 ^ 23 → l.gapSent = true → becomes s)
        ∧ (2 ^ 23 ≤ ahead → becomes (linkReply s n .ack (l.expected - 1)))
        ∧ (ahead = 0 →
          let s1 := put { l with expected := l.expected + 1, gapSent := false }
          let takes (r : State) : Prop := becomes (linkReply r n .ack p.seq)
          let full : Prop := becomes (linkReply s n .full p.seq)
          (domain p.srcDev ≠ domain s.devid ∨ domain p.dstDev ≠ domain s.devid → takes s1)
          ∧ (domain p.srcDev = domain s.devid → domain p.dstDev = domain s.devid → p.count ≠ 0 →
           (p.index = 0 → chainAdmits s [link.toNat] p.tenant p.context = false →
             (linkRoom s link.toNat 1 = true → takes (linkSend s1 link.toNat
               (answerOf p .refused ((List.range p.count).map (fun i => p.seq + BitVec.ofNat 24 i)))))
             ∧ (linkRoom s link.toNat 1 = false → full))
           ∧ (chainAdmits s [link.toNat] p.tenant p.context = true →
            (∀ out, p.dstDev ≠ s.devid → routeLink s (link.toNat / 4) p.dstDev (some link.toNat) = some out →
              chainAdmits s [out] p.tenant p.context = true →
              (linkRoom s out 1 = true → takes (linkSend s1 out p)) ∧ (linkRoom s out 1 = false → full))
            ∧ (p.dstDev = s.devid → p.count = 1 → (∀ k ∈ s.chains, ∀ x ∈ k.partials, sameTrain p x = false) →
              chainAdmits s (lanePorts (link.toNat / 4) (dieOf p.core)) p.tenant p.context = true →
              let c : Carry :=
                { srcDev := p.srcDev, source := { slot := ⟨p.srcCore, p.srcSlot⟩ }, dstDev := p.dstDev, dstCore := p.core
                  dstSlot := p.slot, tag := p.tag, tenant := p.tenant, context := p.context
                  bytes := some (trimCarry p.data), via := some link.toNat, seqs := [p.seq] }
              takes { s1 with carries := s.carries ++ [c] })))))

/-- A KV operation reads its token data once that is full, and is performed at its home slice when no block that it needs is
moving and no earlier one of the same item waits, and its status follows (R138, R159, R160, R393, R394; what each
operation does: `KvOperations`); KVOPEN opens a sequence of length 0 (R153). A dead handle reaches a compute core, whose
state slots of that domain are zeroed and DEAD (R133). The tier engine starts and ends a move (R164). A query entry is read,
enqueued, delivered to the lowest serving slot and answered (R165 to R169).
The model's choices in it: log 41, log 76, log 80, log 81, log 88, log 101. -/
def Obligations.KvAndQueryEvents : Prop :=
  (∀ (s : State) (die : Bool) (k : Nat) (ref : OpRef) (t : Slot) (o : Op) (r : KvReq) (dest : Option (BitVec 6)),
     s.mgmt.powered = true →
     let dieN : Fin 2 := if die then 1 else 0
     let d := s.kv[dieN]
     let token := kvToken r
     let gone := { s with kv := s.kv.set dieN { d with arrivals := d.arrivals.eraseIdx k } }
     d.arrivals[k]? = some ref → refOp s ref = some (t, o) → slotOf s t.id = some t → o.work = .kv r dest → o.stopped = false →
     (∀ a ∈ d.arrivals.take k, sameItem ref a = false) →
     (∀ b ∈ kvNamed s r ((kvData o r).getD []), b.moving = false) → isDet t = false → o.due < s.cycle → inOrder t o = true →
     (prefixSlice s ref = none ∨ ∀ a ∈ d.arrivals.take k, prefixSlice s a ≠ prefixSlice s ref) →
     pathUp s (dieOf t.id.core) (dieN.val + 2) (kvHome r).2.toNat = true →
     let performed (i : Instr) : Prop := ∀ data, kvData o r = some data →
       let done := kvRun gone t r data
       let dead := newlyDead s done.st dieN
       (∀ g, dest = some g → exec i s = .next (modSlot done.st t.id (fun t => kvPair t o.id g done)))
       ∧ (dest = none → dead = [] → exec i s = .next (engineFinish done.st t.id o r.status (kvReply r done)))
       ∧ (dest = none → dead ≠ [] → exec i s = .next (modSlot done.st t.id (fun t =>
           modOp t o.id (fun o => { o with work := .status r.status (kvReply r done), dead := dead }))))
     (r.kind = .opens → performed (.kvopenAtSlice0 die k))
     ∧ (r.kind ≠ .opens → performed (.kvOperationPerform die k))
     ∧ (r.kind ≠ .opens → token.2 ≠ 0 → o.staged = none → firstEmpty t token.1 token.2 = none →
         bankPoisoned t token.1 token.2 = false →
         let read : Staged := { values := (bankRead t token.1 token.2).map (fun b => b.toNat) }
         exec (.kvOperationPerform die k) s = .next (modSlot s t.id (fun t => modOp t o.id (fun o =>
           { o with staged := some read }))))
     ∧ (∀ id, r.kind = .opens → r.word.getLsbD 25 = die → dest = none → r.word.toNat < 2 ^ 26 → newSeqId d dieN = some id →
         (newDomain s dieN).isSome = true → kvAdmits s dieN 0 t.tenant t.context (kvRight .opens) = true →
         ∃ s' x, exec (.kvopenAtSlice0 die k) s = .next s' ∧ x ∈ s'.kv[dieN].seqs ∧ x.id = id ∧ x.length = 0
           ∧ x.tenant = t.tenant ∧ x.context = t.context ∧ x.spans = r.word.extractLsb' 7 18
           ∧ x.stride = r.word.toNat % 2 ^ 7 + 1))
  ∧ (∀ (s : State) (core : BitVec 8) (b : BitVec 32 × BitVec 128), s.mgmt.powered = true →
     s.broadcasts.find? (fun b => core.toNat < 128 && b.2.getLsbD core.toNat) = some b →
     ∃ r, exec (.deadHandleBroadcast core) s = .next r ∧ r.mem = s.mem
       ∧ (b.2 &&& ~~~(1#128 <<< core.toNat) = 0 → r.broadcasts = s.broadcasts.filter (fun x => x ≠ b))
       ∧ ∀ c t, slotOf s c = some t → c.core = core → swf {} t.ztag = true →
         ∃ u, slotOf r c = some u ∧ u.g = t.g ∧ u.banks = t.banks ∧ ∀ z : BitVec 6,
           let hit : Prop := (zTag t z).state = 1 ∧ (zTag t z).kdh = b.1
           (hit → (zTag u z).state = 2 ∧ ∀ k, k < 32768 → sget 0 u.z (32768 * z.toNat + k) = 0)
           ∧ (¬ hit → zTag u z = zTag t z ∧ ∀ k, k < 32768 →
               sget 0 u.z (32768 * z.toNat + k) = sget 0 t.z (32768 * z.toNat + k)))
  ∧ (∀ (s : State) (die : Bool) (pbid : BitVec 26) (tier : BitVec 3) (loc : BitVec 64), s.mgmt.powered = true →
     let dieN : Fin 2 := if die then 1 else 0
     let b := blockOf s.kv[dieN] pbid.toNat
     (b.refs = 0 → exec (.tierMove die pbid tier loc) s = .next s) ∧
     -- the blocks of the die's memory are counted; nothing else differs from the block's change
     let becomes (c : Block) : Prop :=
       let u := putBlock s dieN pbid.toNat c
       ∃ pool, exec (.tierMove die pbid tier loc) s =
           .next { u with kv := u.kv.set dieN { u.kv[dieN] with pool := pool } }
         ∧ pool = s.kv[dieN].pool + (if inDieMemory b then blockBytes b.sealed_ b.stride else 0)
             - (if inDieMemory c then blockBytes b.sealed_ b.stride else 0)
     -- host memory is reached through the Ethernet port alone (R1)
     (b.refs ≠ 0 → b.moving = true →
         (s.port.up = true ∨ b.tier ≠ 3 ∧ b.target.1 ≠ 3 → becomes { b with moving := false, tier := b.target.1, loc := b.target.2 })
         ∧ (s.port.up = false → b.tier = 3 ∨ b.target.1 = 3 → exec (.tierMove die pbid tier loc) s = .next s))
     ∧ (b.refs ≠ 0 → b.moving = false → tierOk s dieN pbid.toNat tier loc = true → (s.port.up = true ∨ b.tier ≠ 3) →
         becomes { b with moving := true, target := (tier, loc) })
     ∧ (b.refs ≠ 0 → b.moving = false →
         tierOk s dieN pbid.toNat tier loc = false ∨ s.port.up = false ∧ (b.tier = 3 ∨ tier = 3) →
         exec (.tierMove die pbid tier loc) s = .next s))
  ∧ (∀ (s : State) (die : Bool) (i : Nat) (a : QueryArrival) (t : Slot) (o : Op) (queue : BitVec 5) (h : BitVec 512)
      (addr len status : Nat) (p : List Byte), s.mgmt.powered = true →
     let dieN : Fin 2 := if die then 1 else 0
     let d := s.kv[dieN]
     let x := queueAt d a.queue
     let v := judgeQuery s t dieN a.queue h
     inOrder t o = true → pathUp s (dieOf t.id.core) (dieN.val + 2) (a.queue.toNat % 16) = true →
     d.queries[i]? = some a → refOp s a.sender = some (t, o) → slotOf s t.id = some t → o.work = .query queue h addr len status → o.stopped = false →
     (∀ y ∈ d.queries.take i, ¬ (sameItem y.sender a.sender = true ∧ y.queue = a.queue)) →
     (a.payload = none → firstEmpty t addr len = none → bankPoisoned t addr len = false → isDet t = false →
       exec (.queryEntryEnqueue die i) s = .next { s with kv := s.kv.set dieN { d with
         queries := d.queries.set i { a with payload := some (bankRead t addr len) } } })
     ∧ (a.payload = some p → a.resendAt = none → v.1 = 0 → queueBytes x + 64 + p.length ≤ x.capacity →
       let e : QueryEntry :=
         { no := d.nextEntry, sender := refOf t (o.id + 1)
           header := if hdrPos h = BitVec.allOnes 27 then putHdr h 437 27 v.2 else h, payload := p }
       let d' : KvDie := { d with
         nextEntry := d.nextEntry + 1, queries := d.queries.eraseIdx i
         queues := sset {} d.queues a.queue.toNat { x with entries := x.entries ++ [e] } }
       exec (.queryEntryEnqueue die i) s = .next (engineFinish { s with kv := s.kv.set dieN d' } t.id o status
         (kvStatus 0 v.2 0 0 0)))
     ∧ (a.payload = some p → a.resendAt = none → v.1 = 0 → x.capacity < queueBytes x + 64 + p.length →
       let b := linkBackoff s (dieOf t.id.core) (dieN.val + 2) (a.queue.toNat % 16)
       exec (.queryEntryEnqueue die i) s = .next { s with kv := s.kv.set dieN { d with
         queries := d.queries.set i { a with
           payload := some p, refused := a.refused + 1, resendAt := some (s.cycle + backoffTime b a.refused) } } }))
  ∧ (∀ (s : State) (die : Bool) (queue : BitVec 5) (e : QueryEntry) (t : Slot) (k : Nat), s.mgmt.powered = true →
     let dieN : Fin 2 := if die then 1 else 0
     let d := s.kv[dieN]
     let x := queueAt d queue
     let stride := 16 * recIstride t.record
     headEntry x = some e → servingSlot s dieN queue = some (t, k) → isDet t = false →
     slotOf s t.id = some t → (∀ p ∈ t.ops, p.id ≠ t.nextOp) →
     ∃ r u, exec (.queryDelivery die queue) s = .next r ∧ slotOf r t.id = some u
       ∧ u.inbox = t.inbox ++ [⟨k, queue, e.no⟩] ∧ u.ops = t.ops ∧ r.mem = s.mem
       ∧ (∀ j, j < min stride (64 + e.payload.length) → bankByte u (recInbox t.record + stride * k + j)
           = (bytesOf 64 (putHdr e.header 356 16 k).toNat ++ e.payload).getD j 0)
       ∧ (∀ y ∈ (queueAt r.kv[dieN] queue).entries, y.no = e.no → y.delivered = true))
  ∧ ∀ (s : State) (i : Nat) (r : Reply), s.mgmt.powered = true → s.replies[i]? = some r →
     (∀ t o a n tag status b e, r.sent = none → refOp s r.source = some (t, o) → o.work = .reply a n tag status →
       o.stopped = false → inOrder t o = true → slotOf s t.id = some t → isDet t = false →
       let dieN : Fin 2 := if dieOf t.id.core = 3 then 1 else 0
       let x := queueAt s.kv[dieN] b.queue
       t.inbox.find? (fun y => y.index = tag.toNat) = some b → x.entries.find? (fun y => y.no = b.no) = some e →
       (hdrReply e.header < n → exec (.queryReplyArrival i) s = .next
         (opFault { s with replies := s.replies.eraseIdx i } t.id o { code := 0x05 }))
       ∧ (n ≤ hdrReply e.header → firstEmpty t a n = none → bankPoisoned t a n = false →
         let bs := bankRead t a n ++ List.replicate (hdrReply e.header - n) 0
         let s1 := putQueue s dieN b.queue { x with entries := x.entries.filter (fun y => y.no ≠ e.no) }
         let s2 := modSlot s1 t.id (fun t => { t with inbox := t.inbox.filter (fun y => y.index ≠ b.index) })
         exec (.queryReplyArrival i) s = .next { s2 with replies := s.replies.set i { r with sent := some (e, bs) } }))
     ∧ (∀ e bs u p raddr len t o a n tag status, r.sent = some (e, bs) →
         (∀ y ∈ s.saved, holdsItem y.slot e.sender.item e.sender.born = false) →
         pathUp s (dieOf r.source.slot.core) (dieOf e.sender.slot.core) 0 = true →
         refOp s e.sender = some (u, p) → p.work = .awaitReply raddr len → refOp s r.source = some (t, o) →
         o.work = .reply a n tag status →
         exec (.queryReplyArrival i) s = .next (engineFinish
           (engineFinish { s with replies := s.replies.eraseIdx i } u.id p raddr bs) t.id o status (kvStatus 0 0 0 0 0)))

/-- What each KV operation does to sequences, blocks and statuses once its access table and its sequence's owner admit it (R147,
R150 to R158, R489): an operation that a check stops answers the status and leaves the state as it is. KVMAP answers the
locator of R147, KVAPPEND puts a token at length into the own, a new or a copied tail, KVEVICT clears the bits of a range,
KVCOMPACT seals a span, KVDRAFT adds drafts that live reads do not see, KVACCEPT and KVREJECT take the shadow entries below the
new length, KVCLOSE frees the sequence, KVFORK gives each child the tables and a domain of its own, and KVPREFIX installs or
enters a block. The model's choices in it: log 76, log 77, log 78, log 89, log 102, log 103, log 104. -/
def Obligations.KvOperations : Prop :=
  ∀ (s : State) (t : Slot) (r : KvReq) (data : List Byte) (x : Sequence),
    let die := (kvHome r).1
    let d := s.kv[die]
    let done := kvRun s t r data
    let d' := done.st.kv[die]
    let old (e : BlockEntry) : Block := blockOf d e.pbid.toNat
    let new (e : BlockEntry) : Block := blockOf d' e.pbid.toNat
    let fails (n : Nat) : Prop := done.st = s ∧ done.status = n ∧ done.length = x.length
    let cap := (x.spans.toNat + 1) * 256
    let freed (e : BlockEntry) : Prop :=
      if (old e).refs ≤ 1 then new e = { (old e) with
        refs := 0, epoch := (old e).epoch + 1, moving := false }
      else new e = { (old e) with
        refs := (old e).refs - 1 }
    seqOf d r.seq = some x → r.seq ≠ 0 → x.tenant = t.tenant → s.port.up = true →
    kvAdmits s die (kvHome r).2 t.tenant t.context (kvRight r.kind) = true →
    (∀ p, r.second.toNat = p → r.kind = .map ∨ r.kind = .mapV →
      (2 ^ 26 ≤ p → fails 8)
      ∧ (p < 2 ^ 26 → done.st = s ∧ done.status = 0 ∧ done.length = x.length
          ∧ done.locs = (List.range (if r.kind = .map then 1 else r.n)).map (fun i => mapPosition d x r.shadow (p + i))))
    ∧ (∀ p, p < 2 ^ 26 →
        (x.length ≤ p → mapPosition d x false p = 0)
        ∧ ∀ e i, p < x.length →
            (entryAt x.entries (16 * (p / 256)) = some e ∧ e.sealed_ = true ∧ i = p % 256
              ∨ (∀ f, entryAt x.entries (16 * (p / 256)) = some f → f.sealed_ = false)
                ∧ entryAt x.entries (p / 16) = some e ∧ i = p % 16) →
            ∀ shadow, mapPosition d x shadow p = if (old e).bitmap.getLsbD i then
                locator (old e).epoch (((List.range i).filter (fun j => (old e).bitmap.getLsbD j)).length) e.pbid.toNat else 0)
    ∧ (r.kind = .append → let p := x.length
        (r.stride ≠ x.stride → fails 8) ∧ (r.stride = x.stride → 0 < x.drafts → fails 10)
        ∧ (r.stride = x.stride → x.drafts = 0 → (cap ≤ p → fails 8)
          ∧ (p < cap →
            let answers (s1 : State) (e : BlockEntry) : Prop :=
              let s2 := writeToken s1 die e.pbid.toNat (p % 16) data
              let b := blockOf s2.kv[die] e.pbid.toNat
              done.status = 0 ∧ done.length = p + 1 ∧ done.aux = p
                ∧ done.st = putSeq s2 die { x with entries := putEntry x.entries (p / 16) e, length := p + 1 }
                ∧ b.bitmap = (blockOf s1.kv[die] e.pbid.toNat).bitmap ||| 1#256 <<< (p % 16) ∧ b.fill = p % 16 + 1
            (entryAt x.entries (p / 16) = none →
              (newBlock s die false x.kdh x.tenant x.stride = none → fails 9)
              ∧ ∀ s1 n, newBlock s die false x.kdh x.tenant x.stride = some (s1, n) →
                  answers s1 { kdh := x.kdh, pbid := BitVec.ofNat 26 n, sealed_ := false })
            ∧ ∀ e, entryAt x.entries (p / 16) = some e →
                ((old e).refs ≤ 1 → e.kdh = x.kdh → answers s e)
                ∧ (1 < (old e).refs ∨ e.kdh ≠ x.kdh →
                  (copyBlock s die e.pbid.toNat x.kdh x.tenant = none → fails 9)
                  ∧ ∀ s1 n, copyBlock s die e.pbid.toNat x.kdh x.tenant = some (s1, n) →
                      answers (releaseBlock s1 die e.pbid.toNat) { e with kdh := x.kdh, pbid := BitVec.ofNat 26 n }))))
    ∧ (r.kind = .evict → let lo := r.second.toNat
        (2 ^ 26 < lo + r.n → fails 8)
        ∧ (lo + r.n ≤ 2 ^ 26 → let hi := min (lo + r.n) x.length
          (evictedEntries d x lo hi = [] → done.st.kv[die].blocks = d.blocks ∧ done.status = 0 ∧ done.length = x.length)
          ∧ ∀ k e, (x.entries.map (fun y => y.1)).Nodup → (k, e) ∈ x.entries → (old e).refs ≤ 1 →
              evictedEntries d { x with entries := [(k, e)] } lo hi = [e] →
              evictedEntries d { x with entries := x.entries.filter (fun y => y.1 ≠ k) } lo hi = [] →
              done.status = 0 ∧ done.length = x.length ∧ (new e).fill = (old e).fill ∧ (new e).refs = (old e).refs
              ∧ (new e).kdh = (old e).kdh
              ∧ ∀ i, i < 256 → let at_ := (if e.sealed_ then 256 * (k / 16) else 16 * k) + i
                  (new e).bitmap.getLsbD i = ((old e).bitmap.getLsbD i && !(decide (lo ≤ at_) && decide (at_ < hi)))))
    ∧ (r.kind = .compact → let sp := r.second.toNat
        let first := entryAt x.entries (16 * sp)
        let tails := (List.range 16).filterMap (fun j => entryAt x.entries (16 * sp + j))
        (x.spans.toNat < sp → fails 8)
        ∧ (sp ≤ x.spans.toNat →
          ((∃ e, first = some e ∧ e.sealed_ = true) → fails 0)
          ∧ ((∀ e, first = some e → e.sealed_ = false) →
            (tails.length ≠ 16 ∨ x.length < 256 * sp + 256 → fails 11)
            ∧ (tails.length = 16 → 256 * sp + 256 ≤ x.length →
              (newBlock s die true x.kdh x.tenant x.stride = none → fails 9)
              ∧ ∀ s1 n, newBlock s die true x.kdh x.tenant x.stride = some (s1, n) →
                  (tails.map (fun e => e.pbid)).Nodup → (∀ e ∈ tails, e.pbid.toNat ≠ n) →
                  done.status = 0 ∧ done.length = x.length
                  ∧ (let whole : BlockEntry := { kdh := x.kdh, pbid := BitVec.ofNat 26 n, sealed_ := true }
                     seqOf d' r.seq = some { x with
                       entries := putEntry (x.entries.filter (fun p => p.1 / 16 ≠ sp)) (16 * sp) whole })
                  ∧ (blockOf d' n).fill = 256 ∧ (blockOf d' n).refs = 1
                  ∧ (∀ j e i, tails[j]? = some e → i < 16 → (blockOf d' n).bitmap.getLsbD (16 * j + i) = (old e).bitmap.getLsbD i)
                  ∧ ∀ e ∈ tails, freed e))))
    ∧ (r.kind = .draft →
        (r.stride ≠ x.stride ∨ 64 < x.drafts + r.n ∨ cap < x.length + x.drafts + r.n → fails 8)
        ∧ (done.status = 0 → ∃ y, seqOf d' r.seq = some y ∧ y = { x with shadow := y.shadow, drafts := x.drafts + r.n }
            ∧ done.length = x.length
            ∧ ∀ j, j < r.n → (entryAt y.shadow ((x.length + x.drafts + j) / 16 - x.length / 16)).isSome = true))
    ∧ (r.kind = .accept ∨ r.kind = .reject → let m := if r.kind = .accept then r.n else 0
        (x.drafts < m → fails 8)
        ∧ (m ≤ x.drafts → (x.shadow.map (fun e => e.1)).Nodup →
          let first := x.length / 16
          ∃ y, seqOf d' r.seq = some y ∧ done.status = 0 ∧ done.length = x.length + m
            ∧ y = { x with entries := y.entries, shadow := [], length := x.length + m, drafts := 0 }
            ∧ (∀ k e, (k, e) ∈ x.shadow → 16 * (first + k) < x.length + m → entryAt y.entries (first + k) = some e)
            ∧ (∀ k, (∀ e ∈ x.shadow, 16 * (first + e.1) < x.length + m → first + e.1 ≠ k) →
                entryAt y.entries k = entryAt x.entries k)
            ∧ ∀ k e, (k, e) ∈ x.shadow → (∀ f ∈ x.entries, f.2.pbid ≠ e.pbid) →
                (∀ f ∈ x.shadow, f.2.pbid = e.pbid → f = (k, e)) →
                (x.length + m ≤ 16 * (first + k) → freed e)
                ∧ (16 * (first + k) < x.length + m → let keep := x.length + m - 16 * (first + k)
                    new e = if keep < 16 then
                        { (old e) with bitmap := (old e).bitmap &&& BitVec.ofNat 256 (2 ^ keep - 1), fill := min (old e).fill keep }
                      else old e)))
    ∧ (r.kind = .closes → done.status = 0 ∧ d'.seqs = d.seqs.filter (fun y => y.id ≠ r.seq)
        ∧ (∀ k, k ∈ d'.closing ↔ k ∈ d.closing ∨ k ∈ x.doms ∧ (keyOf s k).holders ≤ 1)
        ∧ ∀ e ∈ x.entries ++ x.shadow, (∀ f g h, x.entries ++ x.shadow = f ++ e :: g → h ∈ f ++ g → h.2.pbid ≠ e.2.pbid) →
            freed e.2)
    ∧ (r.kind = .fork →
        (x.drafts ≠ 0 → fails 10)
        ∧ (x.drafts = 0 → (freeIds d die < r.n → fails 7) ∧ (r.n ≤ freeIds d die → freeKeys d < r.n + 1 → fails 5))
        ∧ (done.status = 0 → done.children.length = r.n ∧ done.length = x.length
            ∧ (∃ y k, seqOf d' r.seq = some y ∧ y = { x with kdh := k, doms := x.doms ++ [k] } ∧ done.kdh = k)
            ∧ ∀ c ∈ done.children, ∃ y, seqOf d' c.1 = some y ∧ y.entries = x.entries ∧ y.length = x.length ∧ y.stride = x.stride
                ∧ y.spans = x.spans ∧ y.tenant = t.tenant ∧ y.context = t.context ∧ y.kdh = c.2 ∧ y.doms = x.doms ++ [c.2]))
    ∧ (r.kind = .look → let hash := BitVec.ofNat 128 (leNat data)
        (indexMatch d hash x.tenant x.stride = none → fails 14)
        ∧ ∀ e, indexMatch d hash x.tenant x.stride = some e →
            let b := blockOf d e.pbid.toNat
            let n := blockSpan b.sealed_
            (x.length % n ≠ 0 ∨ cap < x.length + n → fails 8)
            ∧ (x.length % n = 0 → x.length + n ≤ cap → b.refs + 1 < 2 ^ 32 → x.doms.contains e.kdh = true →
              done.status = 1 ∧ done.length = x.length + n ∧ (blockOf d' e.pbid.toNat).refs = b.refs + 1
              ∧ (let hit : BlockEntry := { kdh := e.kdh, pbid := e.pbid, sealed_ := b.sealed_ }
                 seqOf d' r.seq = some { x with entries := putEntry x.entries (x.length / 16) hit, length := x.length + n })))
    ∧ (r.kind = .insert → x.length ≠ 0 → ∀ k i own, entryFor x (x.length - 1) = (k, i, some own) →
        let n := blockSpan own.sealed_
        let hash := BitVec.ofNat 128 (leNat data)
        ((old own).fill < n ∨ popCount (old own).bitmap ≠ n → fails 11)
        ∧ (n ≤ (old own).fill → popCount (old own).bitmap = n →
          (∀ e, indexMatch d hash x.tenant x.stride = some e → (blockOf d e.pbid.toNat).refs + 1 < 2 ^ 32 →
            x.doms.contains e.kdh = true → e.pbid ≠ own.pbid →
            done.status = 2 ∧ done.length = x.length ∧ (blockOf d' e.pbid.toNat).refs = (blockOf d e.pbid.toNat).refs + 1
            ∧ freed own
            ∧ (let win : BlockEntry := { kdh := e.kdh, pbid := e.pbid, sealed_ := (blockOf d e.pbid.toNat).sealed_ }
               seqOf d' r.seq = some { x with entries := putEntry x.entries k win }))
          ∧ (indexMatch d hash x.tenant x.stride = none → done.status = 0 → swf {} d.blocks = true → 0 < (old own).refs →
              (∀ v ∈ d.index, 0 < (blockOf d v.pbid.toNat).refs) → ∃ e y, e ∈ d'.index ∧ e.hash = hash
              ∧ e.tenant = x.tenant ∧ e.stride = x.stride ∧ (blockOf d' e.pbid.toNat).refs = 2
              ∧ (let copy : BlockEntry := { kdh := e.kdh, pbid := e.pbid, sealed_ := own.sealed_ }
                 seqOf d' r.seq = some y ∧ y = { x with doms := x.doms ++ [e.kdh], entries := putEntry x.entries k copy }))))

/-! ## Events of translation, home slices and scheduling (R62, R67 to R69, R76, R77, R114 to R124, R203 to R214, R403 to
R424, R437 to R446) -/

/-- A translation-cache hit fills its handle, at XLAT (R117) or at a use (R120), with the leaf that the cache held when it was
asked, and where it held none a walk begins; a walk's leaf fills the handle and the cache, and a walk fault, or the
class-capacity fault (R114), at XLAT goes to firmware, which asks a host for the page once (R434), and at a use is taken by the
instruction or record, under its number (R427); an
invalidation reaches a slot, which acknowledges it (R122, R123); a home slice performs the next line of a request (R76,
R126), behind its predecessor in the reorder buffer, and what was refused there is sent again after its back-off (R77, R450);
the steps of a move of a bucket (R68).
The model's choices in it: log 2, log 21, log 22, log 24, log 37, log 60, log 86, log 88, log 93, log 98, log 99. -/
def Obligations.TranslationAndHomeEvents : Prop :=
  ∀ s : State, s.mgmt.powered = true →
    (∀ c t h w, slotOf s c = some t → t.walks.filter (fun x => x.h = h) = [w] → w.restart = false →
      let filled (l : Leaf) (cache : List Leaf) : Slot :=
        { t with
          cache := cache, walks := t.walks.filter (fun y => y.h ≠ h)
          h := t.h.set h.toFin { t.h[h.toFin] with
            vpage := pageOf l.size t.h[h.toFin].vpage, pbase := l.pbase, perm := l.perm, lat := l.lat, size := l.size
            kdh := l.kdh, walk := false, full := true, valid := true } }
      (∀ d, w.due = some d → d ≤ s.cycle →
        let i : Instr := if w.atUse then .retranslationHitRefill c h else .xlatCacheHitFill c h
        (∀ l, w.leaf = some l → slotBecomes i s c (filled l t.cache))
        ∧ (w.leaf = none → slotBecomes i s c { t with
            h := t.h.set h.toFin { t.h[h.toFin] with full := false, walk := true }
            walks := t.walks.filter (fun y => y.h ≠ h) ++ [{ w with due := none, faulted := false, restart := false }] }))
      ∧ (w.due = none → w.faulted = false → w.since + (if w.atUse then 48 else 32) < s.cycle →
        (∀ l x, walk s t.tenant t.context w.va.toNat = .leaf l x → overCapacity s l = false →
          slotBecomesFrom (loadClass s l) (.translationWalkComplete c h) s c
            (filled l ((l :: t.cache.filter (fun x =>
              x.vpage ≠ l.vpage || x.tenant ≠ l.tenant || x.context ≠ l.context)).take 256))
          ∧ ((l.lat = 1 ∨ l.lat = 2) → classLoaded s l = false → ∀ n,
              if l.pbase.toNat * 512 ≤ n ∧ n < l.pbase.toNat * 512 + pageBytes l.size / 128 then
                (lineWord (loadClass s l) n).getLsbD 0 = true ∧ (lineWord (loadClass s l) n).getLsbD 3 = true
              else lineWord (loadClass s l) n = lineWord s n)
          ∧ (loadClass s l).mem = s.mem)
        ∧ (walk s t.tenant t.context w.va.toNat = .waits → exec (.translationWalkComplete c h) s = .next s)
        ∧ (∀ (code : BitVec 8) (level : Nat), (walk s t.tenant t.context w.va.toNat = .fault code level
              ∨ ∃ l x, walk s t.tenant t.context w.va.toNat = .leaf l x ∧ overCapacity s l = true ∧ code = 0x23
                ∧ level = 4 - l.size.toNat) →
          let vpage := w.va.extractLsb' 16 40
          let f : FaultInfo := { code := code, operand := w.va, elem := BitVec.ofNat 32 level, vpage := some vpage }
          (w.atUse = false → code ≠ 0x24 →
            let rep := report s t { slot := t.id, source := 0, coff := w.coff, len := w.len } { f with handle := some h, imprecise := true }
            let told := sendFrame s (hostFrame s 9 (reportHost s) t.tenant t.context 0 (bytesOf 64 rep.toNat))
            let asked : Bool := s.pageFaults.any (fun g => g.tenant = t.tenant && g.context = t.context && g.vpage = vpage)
            ∃ r, exec (.translationWalkComplete c h) s = .next r
              ∧ r.pageFaults = s.pageFaults ++ [{
                  tenant := t.tenant, context := t.context, vpage := vpage, owner := refOf t 0, handle := some h, report := rep }]
              ∧ r.port = (if asked then told
                  else sendFrame told (hostFrame s 10 (reportHost s) t.tenant t.context 7 (bytesOf 16 vpage.toNat))).port
              ∧ slotOf r c = some { t with walks := t.walks.map (fun y => if y.h = h then { y with faulted := true } else y) }
              ∧ r.mem = s.mem)
          ∧ (w.atUse = true → ∃ b : Slot → Slot,
              b t = { t with
                h := t.h.set h.toFin { t.h[h.toFin] with full := true, walk := false }, walks := t.walks.filter (fun y => y.h ≠ h) }
              ∧ exec (.translationWalkComplete c h) s = .next (takeFault (modSlot s c b)
                { slot := c, source := w.source, coff := w.coff, len := w.len, q := w.q, opnum := w.opnum } f 0)))))
    ∧ (∀ c t x, slotOf s c = some t → s.shootdowns = [x] →
        let serves : Bool := t.tenant = x.old.tenant && t.context = x.old.context
        (∀ vpage, c ∈ x.unreached → inLeafPage x.old vpage = true →
          let y : Shootdown := { x with
            unreached := x.unreached.filter (fun d => d ≠ c), unacked := x.unacked ++ [c]
            held := if cacheHolds t x.old then x.held ++ [c] else x.held }
          slotBecomesFrom { s with shootdowns := [y] } (.shootdownInvalidation c x.old.tenant x.old.context vpage) s c
            { t with
              cache := t.cache.filter (fun e =>
                !(e.tenant = x.old.tenant && e.context = x.old.context && inLeafPage x.old e.vpage))
              h := if serves then t.h.map (fun h =>
                  if h.bound && h.full && inLeafPage x.old h.vpage then { h with valid := false } else h) else t.h
              walks := if serves then t.walks.map (fun w =>
                  if inLeafPage x.old (w.va.extractLsb' 16 40) && !w.faulted then { w with restart := true } else w)
                else t.walks })
        ∧ (c ∈ x.unacked → usesPage s t x.old = false → (∀ y ∈ s.saved, usesPage s y.slot x.old = false) →
          (x.move.isSome = true → ∀ y ∈ allSlots s, usesPage s y x.old = false) →
          let left := x.unacked.filter (fun d => d ≠ c)
          let kept := s.l1.filter (fun l => !(l.core = c.core && inLeafMemory x.old (128 * l.line)))
          (¬(x.unreached = [] ∧ left = []) →
            slotBecomesFrom { s with l1 := kept, shootdowns := [{ x with unacked := left }] } (.shootdownAck c) s c
              (if x.move.isSome then t else restartWalks s x.old t))
          ∧ (x.unreached = [] → left = [] → ∃ r, exec (.shootdownAck c) s = .next r ∧ r.shootdowns = []
              ∧ (∀ l ∈ r.l1, inLeafMemory x.old (128 * l.line) = false) ∧ (x.move = none → r.mem = s.mem)
              ∧ r.port = (sendFrame s (hostFrame s 10 x.host 0 0 (x.code.setWidth 32) (padFrame (bytesOf 4 0 ++ x.more)))).port)))
    ∧ (∀ i r, s.requests[i]? = some r →
        (∀ d, r.resendAt = some d → d ≤ s.cycle →
          exec (.backoffResend (.request i)) s = .next { s with requests := s.requests.set i { r with resendAt := none } })
        ∧ (r.resendAt = none → (r.held = true ∨ ∀ x ∈ s.requests.take i, x.source = r.source → x.resendAt = none) →
          (isMemory r.addr = true → canArrive s 0 (r.addr / 128) r.sent = true) →
          let past : State := { s with requests := s.requests.eraseIdx i }
          let admitted (right : Nat) : Prop :=
            isMemory r.addr = true ∧ admits s (homeTarget s r.addr) r.tenant r.context right = true
          (reqWaits s i r = true → r.held = false →
            (reorderRoom s r.addr = true → exec (.homeSliceRequest i) s =
              .next { s with requests := s.requests.set i { r with held := true } })
            ∧ (reorderRoom s r.addr = false → exec (.homeSliceRequest i) s = .next { s with
                requests := s.requests.set i { r with
                  refusals := r.refusals + 1
                  resendAt := some (s.cycle + (linkBackoff s 0 (homeDie r.addr) 0).toNat * 2 ^ min r.refusals 6 * 16) } }))
          ∧ (∀ bs, reqWaits s i r = false → r.kind = .write bs → admitted rightWrite →
              ∃ t, exec (.homeSliceRequest i) s = .next t ∧ homeOnly past t ∧ storesMemory past t r.addr bs)
          ∧ (∀ n f, reqWaits s i r = false → r.kind = .read n → r.reply = some f →
              (∀ x ∈ s.requests.take i, x.reply ≠ some f) → admitted rightRead →
              let bs := r.before ++ (List.range n).map (fun k => memByte s (r.addr + k))
              let whole := if r.offset + n = f.aux.toNat then bs else bs.take (bs.length / 16 * 16)
              let next (x : Request) : Request :=
                if x.reply = some f ∧ x.offset = r.offset + n then { x with before := bs.drop whole.length } else x
              ∃ t, exec (.homeSliceRequest i) s = .next t ∧ t.requests = past.requests.map next ∧ t.intake = s.intake.map next
                ∧ sameMemory s t
                ∧ t.port = if whole = [] then s.port
                    else (sendFrame s (answerFrame s f 3 f.rpa (BitVec.ofNat 32 (r.offset + n - bs.length)) (padFrame whole))).port)
          ∧ (∀ f right, reqWaits s i r = false → r.reply = some f →
              (match r.kind with
                | .write _ => right = rightWrite
                | .read _ => right = rightRead ∧ ∀ x ∈ s.requests.take i, x.reply ≠ some f
                | .perform => False) → ¬ admitted right →
              let mine (x : Request) : Bool := x.source = r.source && x.reply = some f
              (∀ x ∈ s.requests, mine x = true → r.offset ≤ x.offset) →
              let at_ := (r.lead + r.offset) % 2 ^ 24 + (if isMemory r.addr then 0 else 1) * 2 ^ 24
              ∃ t, exec (.homeSliceRequest i) s = .next t ∧ t.mem = s.mem
                ∧ t.requests = s.requests.filter (fun x => !mine x) ∧ t.intake = s.intake.filter (fun x => !mine x)
                ∧ t.port = (sendFrame s (answerFrame s f 11 0 (BitVec.ofNat 32 at_) [])).port)))
    ∧ (∀ j, s.requests = [] → s.intake = [j] → reqLen j.kind - j.offset ≤ 128 - (j.addr + j.offset) % 128 →
        0 < reqLen j.kind - j.offset →
        (isMemory (j.addr + j.offset) = true → canSend s 0 ((j.addr + j.offset) / 128) = true) →
        ∃ t r, exec (.homeSliceRequest 0) s = .next t ∧ t.intake = [] ∧ t.requests = [r] ∧ t.mem = s.mem
          ∧ r.source = j.source ∧ r.num = sget 0 s.sourceNums j.source ∧ r.pred = none ∧ r.addr = j.addr + j.offset
          ∧ sget 0 t.sourceNums j.source = r.num + 1 ∧ r.sent = s.cycle)
    ∧ (∀ k x d, txFlow s k = some x → x.resendAt = some d → d ≤ s.cycle → s.port.up = true →
        ∃ r, exec (.backoffResend (.flow k)) s = .next r
          ∧ r.port.wire = (x.window.map (fun p => p.frame)).reverse ++ s.port.wire ∧ r.mem = s.mem)
    ∧ (∀ i u d, s.barriers[i]? = some u → u.order.resendAt = some d → d ≤ s.cycle →
        exec (.backoffResend (.barrier i)) s =
          .next { s with barriers := s.barriers.set i { u with order := { u.order with resendAt := none } } })
    ∧ (∀ die i a d, (s.kv[dieFin die]).queries[i]? = some a → a.resendAt = some d → d ≤ s.cycle →
        let kv := s.kv[dieFin die]
        exec (.backoffResend (.query die i)) s = .next { s with
          kv := s.kv.set (dieFin die) { kv with queries := kv.queries.set i { a with resendAt := none } } })
    ∧ (∀ (die : Bool) (bucket : BitVec 12) (target : BitVec 6),
        let key := 4096 * die.toNat + bucket.toNat
        let slice := (tableEntry s key).extractLsb' 0 6
        let state := (tableEntry s key).extractLsb' 14 2
        let set (e : BitVec 16) : Sparse (BitVec 16) := (setTable s key e).table
        ((state = 0 ∨ state = 3) → slice ≠ target → reservedCount s die bucket = 0 → s.moves[dieFin die] = none →
          (∀ c, s.lastMove[dieFin die] = some c → c + 16000 ≤ s.cycle) →
          exec (.derailleurMoveStart die bucket target) s = .next { s with
            table := set (1#2 ++ target ++ 0#2 ++ slice)
            moves := s.moves.set (dieFin die) (some { bucket := bucket, target := target })
            lastMove := s.lastMove.set (dieFin die) (some s.cycle) })
        ∧ (∀ m, m.bucket = bucket → m.target = target → s.moves[dieFin die] = some m →
          (m.held = false → bucketBusy s key = false → exec (.derailleurHold die) s = .next { s with
            moves := s.moves.set (dieFin die) (some { m with held := true })
            agenda := [.derailleurFlush die, .derailleurRelease die] ++ s.agenda })
          ∧ (m.held = true → m.flushing = false → ∃ r, exec (.derailleurFlush die) s = .next r
              ∧ (∀ p ∈ r.lines, bucketKey (128 * p.1) ≠ key) ∧ r.table = set (2#2 ++ target ++ 0#2 ++ slice)
              ∧ r.moves = s.moves.set (dieFin die) (some { m with flushing := true }) ∧ r.counters = s.counters)
          ∧ (m.flushing = true → exec (.derailleurRelease die) s = .next { s with
              table := set (target.setWidth 16), moves := s.moves.set (dieFin die) none })))
/-- A walker dispatches a unit every 2 cc: the item takes its slot in the state of R205 (R203, R408, R409, R413); a troupe
takes the die's reservation, which pre-empts after 10,000 rt (R410, R437); an item whose end is complete retires (R214);
a launch with nothing left completes, with its record of R405; a core switches and drops triggers (R209, R423, R424);
completions are held for a saved item (R439); an item is saved and returns, its state slots through the cipher engines (R438,
R440, R441); a lost context (R444); a scrub poisons, drops and logs (R446, R448).
The model's choices in it: log 19, log 57, log 58, log 59, log 63, log 97, log 107. -/
def Obligations.SchedulingEvents : Prop :=
  ∀ s : State, s.mgmt.powered = true →
    (∀ (die : BitVec 2) level w (u : DispatchUnit) tn ds, walkerDue s die.toNat = true →
        topLevel s die.toNat = some level → s.walkers[die.toFin] = w →
        let ts := levelTenants s die.toNat level
        roundRobin s die.toNat level ts (sget 0 w.visited level) (clearDeficits w.deficits level ts) (9 * ts.length + 9)
          = some (u, tn, ds) →
        let r := u.launch.record
        ∃ z, exec (.walkerStep die) s = .next z ∧ z.walkers[die.toFin].next = s.cycle + 2
          ∧ z.walkers[die.toFin].deficits = ds ∧ sget 0 z.walkers[die.toFin].visited level = tn
          ∧ ∀ k c, u.indices = [k] → u.slots = [c] →
            let idx := itemIndices r k
            let wid := itemWid r idx
            ∃ t, slotOf z c = some t ∧ t.record = r ∧ t.pins = u.launch.pins ∧ (∀ l ∈ z.l1, l.core ≠ c.core)
              ∧ t.item = some { queue := u.queue, ordinal := u.launch.ordinal, index := k, wid := wid
                                rank := if recTroupe r = 0 then 0 else k % recTroupe r
                                size := recTroupe r, dispatched := s.cycle }
              ∧ t.ctl = { running := true, pc := word (recCodeva r + recEntry r) } ∧ t.mx = {} ∧ t.cp = {}
              ∧ (∀ i : Fin 64, t.g[i] = if i.val = 7 then wid
                  else if 1 ≤ i.val ∧ i.val ≤ 6 then word (idx.getD (i.val - 1) 0) else 0)
              ∧ t.gEmpty = 0 ∧ t.v = Vector.replicate 32 0 ∧ t.vEmpty = 0 ∧ t.banks = [] ∧ t.empty = [] ∧ t.ops = []
              ∧ t.q = Vector.replicate 16 {} ∧ t.h = Vector.replicate 16 {} ∧ t.flags = 0 ∧ t.mode = r.extractLsb' 416 6
              ∧ t.seed = r.extractLsb' 512 64 ∧ t.tenant = recTenant r ∧ t.context = recContext r
              ∧ t.trapv = (if recTrapv r = 0xFFFFFFFF then BitVec.allOnes 64 else word (recCodeva r + recTrapv r))
              ∧ t.digest = sha3 (bytesOf 4 t.mode.toNat))
    ∧ (∀ (die : BitVec 2),
        (∀ k q l kept, s.walkers[die.toFin].reservation = none → reservationNext s die.toNat = some (k, q, l, kept) →
          let w : Walker := { s.walkers[die.toFin] with reservation := some (q, l.ordinal), kept := kept, reservedAt := s.cycle }
          exec (.troupeReservation die) s = .next { s with walkers := s.walkers.set die.toFin w })
        ∧ (∀ q o l v x, s.walkers[die.toFin].reservation = some (q, o) →
          s.walkers[die.toFin].reservedAt + 160000 ≤ s.cycle → launchOf s q o = some l →
          reservationVictim s die.toNat q l = some (v, x) →
          let on (c : SlotId) : Bool := dieOf c.core = die.toNat
          exec (.reservationPreempt die) s = .next (preemptMid s v x.ordinal (.reservation q o) on)
          ∧ ∀ c t i, (launchSlots s v x.ordinal).filter on = [c] → slotOf s c = some t → t.item = some i → i.size = 0 →
            savable s t →
            ∃ r, exec (.reservationPreempt die) s = .next r ∧ savesItem s r t
              ∧ ∀ l, launchOf r v x.ordinal = some l → .reservation q o ∈ l.held))
    ∧ (∀ c t i l, slotOf s c = some t → t.item = some i → retireDue s t = true →
        launchOf s i.queue i.ordinal = some l →
        ∃ r, exec (.itemRetire c) s = .next r ∧ r.mem = s.mem
          ∧ launchOf r i.queue i.ordinal = some { l with
              acc := l.acc + sha3 (bytesOf 8 i.wid.toNat ++ bytesOf 32 t.digest.toNat)
              retired := l.retired + 1, running := l.running - 1 }
          ∧ ∀ u, slotOf r c = some u → ∀ j, u.item = some j → i.size ≠ 0 ∧ j.retired = true)
    ∧ (∀ q ord l, launchOf s q ord = some l → (l.cancelled = true ∨ l.failed = true ∨ recTotal l.record ≤ l.next) →
        l.owed = [] → l.running = 0 →
        let sig := sha3 (bytesOf 256 l.record.toNat ++ bytesOf 32 l.acc.toNat)
        let status := if l.failed then 2 else if l.cancelled then 1 else 0
        let x := queueOf s q
        ∃ r, exec (.launchCompletion q ord) s = .next r
          ∧ (queueOf r q).launches = x.launches.filter (fun y => y.ordinal ≠ ord)
          ∧ (queueOf r q).sigs.head? = some (ord, recTenant l.record, sig)
          ∧ (x.ahead = [] → (queueOf r q).completed = if ord = x.completed + 1 then ord else x.completed)
          ∧ (recDone l.record ≠ 0 → recTrrec l.record = false → ∀ pa, pinAddr l.pins (recDone l.record) = some pa →
              memNat r pa 64 = (status + l.redisp % 2 ^ 32 * 2 ^ 32 + l.retired * 2 ^ 64
                + (if l.next = 0 then 2 ^ 64 - 1 else l.next - 1) * 2 ^ 128 + q.toNat * 2 ^ 202 + ord * 2 ^ 208
                + sig.toNat * 2 ^ 256) % 2 ^ 512
              ∧ ∀ a, a < pa ∨ pa + 64 ≤ a → ¬ spillByte s a → memByte r a = memByte s a))
    ∧ (∀ core : BitVec 8,
        let x := coreOf s core
        let old : SlotId := ⟨core, x.active⟩
        (x.switchEnds ≤ s.cycle → x.wants = true →
          (otherReady s old = false → exec (.slotSwitch core) s = .next (setCore s core { x with wants := false }))
          ∧ (∀ t u, otherReady s old = true → slotOf s old = some t → slotOf s (otherSlot old) = some u →
            (∀ w, t.wait = some w → waitMet t w = false) →
            ∃ r, exec (.slotSwitch core) s = .next r ∧ slotOf r old = some (stopSlot t s.cycle)
              ∧ slotOf r (otherSlot old) = some (resumeSlot u (s.cycle + 16)) ∧ r.mem = s.mem
              ∧ coreOf r core = { active := !x.active, heldSince := s.cycle + 16, switchEnds := s.cycle + 16, wants := false }))
        ∧ (x.switchEnds ≤ s.cycle → x.wants = false → strictRunning s core = false → otherReady s old = true →
          ∀ t u, slotOf s old = some t → slotOf s (otherSlot old) = some u →
            let wants : State := setCore s core { x with wants := true }
            (64 ≤ t.blockedFor → exec (.blockedSwitchTrigger core) s = .next wants)
            ∧ (recPrio t.record < recPrio u.record → x.heldSince + 256 ≤ s.cycle →
                exec (.prioritySwitchTrigger core) s = .next wants)
            ∧ (4096 ≤ u.readyFor → x.heldSince + 4096 ≤ s.cycle →
                exec (.timeSliceSwitchTrigger core) s = .next wants)))
    ∧ (∀ x k bs, s.saved = [x] → s.carries = [k] → s.acceptances = [] → s.replies = [] → (s.kv[0]).arrivals = [] →
        (s.kv[1]).arrivals = [] → x.slot.id = ⟨k.dstCore, k.dstSlot⟩ → k.bytes = some bs → acceptsCarry x.slot k = true →
        heldBytes x + bs.length ≤ 65536 → liveSlot s x.slot.id = false → k.due ≤ s.cycle →
        (∀ n, k.via = some n → linkRoom s n 1 = true) →
        ∃ r, exec (.heldCompletion 0) s = .next r ∧ r.carries = [] ∧ r.mem = s.mem
          ∧ r.saved = [{ x with slot := { x.slot with unmatched := x.slot.unmatched ++ [k] } }]
          ∧ (k.via = none → r.acceptances = [{ k with answer := .accepted }])
          ∧ (∀ n, k.via = some n → r.chains = (linkSend s n (answerOf (carryPacket k) .accepted k.seqs)).chains))
    ∧ (∀ i x c, restoreTo s i = some [(x, c)] → x.held = [] → tagsSafe x.slot →
        (∀ o ∈ x.slot.ops, o.work ≠ .none ∧ ∀ a bs, o.work ≠ .status a bs) →
        ∃ r u, exec (.restore i) s = .next r ∧ slotOf r c = some u ∧ r.mem = s.mem
          ∧ r.saved = s.saved.filter (fun y => y.slot.id ≠ x.slot.id || itemKey y.slot ≠ itemKey x.slot)
          ∧ u.item = x.slot.item ∧ u.record = x.slot.record ∧ u.g = x.slot.g ∧ u.gEmpty = x.slot.gEmpty ∧ u.v = x.slot.v
          ∧ u.vEmpty = x.slot.vEmpty ∧ u.k = x.slot.k ∧ u.ctl = x.slot.ctl ∧ u.mx = x.slot.mx ∧ u.cp = x.slot.cp
          ∧ u.banks = x.slot.banks ∧ u.empty = x.slot.empty ∧ u.acc = x.slot.acc ∧ u.h = x.slot.h
          ∧ u.q = x.slot.q ∧ u.mode = x.slot.mode ∧ u.flags = x.slot.flags ∧ u.trapv = x.slot.trapv
          ∧ ciphered s false x.serial x.slot u)
    ∧ (∀ c n, n ≤ 6 →
        ((∀ x ∈ s.saved, x.slot.id ≠ c) → ∀ t i, slotOf s c = some t → t.item = some i →
          exec (.contextLost c n) s
            = .next (takeFault s { slot := c, source := 5, coff := 0 } { code := 0x30, elem := BitVec.ofNat 32 n } 0))
        ∧ (∀ x it l, s.saved = [x] → x.slot.id = c → x.slot.item = some it → recRepl x.slot.record = true →
            launchOf s it.queue it.ordinal = some l →
          ∃ r l', exec (.contextLost c n) s = .next r ∧ r.saved = [] ∧ r.mem = s.mem
            ∧ launchOf r it.queue it.ordinal = some l' ∧ l'.owed = l.owed ++ [(it.index, c)]
            ∧ (it.retired = true → l'.retired = l.retired - 1
                ∧ l'.acc = l.acc - sha3 (bytesOf 8 it.wid.toNat ++ bytesOf 32 x.slot.digest.toNat))))
    ∧ (∀ p : ErrorPlace,
        let die := placeDie p
        let entry (corrected : Bool) : ErrorEntry := { die := die, place := p, corrected := corrected, cycle := s.cycle }
        let mine := s.errors.filter (fun e => e.die = die)
        let logged (corrected : Bool) : List ErrorEntry :=
          s.errors.filter (fun e => e.die ≠ die) ++ mine.drop (mine.length - 255) ++ [entry corrected]
        (mine = [] → exec (.scrub ⟨p, .clean⟩) s = .next s)
        ∧ (mine ≠ [] → ∃ r bs, exec (.scrub ⟨p, .clean⟩) s = .next r ∧ r.errors = s.errors.filter (fun e => e.die ≠ die)
            ∧ r.port = (sendFrame s (hostFrame s 10 (reportHost s) 0 0 0 bs)).port)
        ∧ (match p with
           | .memory g => exec (.scrub ⟨p, .corrected⟩) s = .next { s with errors := logged true }
               ∧ exec (.scrub ⟨p, .uncorrected⟩) s = .next { s with errors := logged false, poison := sset false s.poison g true }
           | .bank c g => exec (.scrub ⟨p, .corrected⟩) s = .next { s with errors := logged true }
               ∧ ∀ t, slotOf s c = some t → slotBecomesFrom { s with errors := logged false } (.scrub ⟨p, .uncorrected⟩) s c
                   { t with poison := sset false t.poison g true }
           | .kv d b g => exec (.scrub ⟨p, .corrected⟩) s = .next { s with errors := logged true }
               ∧ let n := dieFin d
                 let x := blockOf s.kv[n] b.toNat
                 (x.refs ≠ 0 → ∃ r, exec (.scrub ⟨p, .uncorrected⟩) s = .next r ∧ r.errors = logged false
                   ∧ (blockOf r.kv[n] b.toNat).poison = sset false x.poison g true)
           | .l1 core line => ∀ k : ErrorKind, k ≠ .clean → ∃ r, exec (.scrub ⟨p, k⟩) s = .next r ∧ r.errors = logged true
               ∧ (∀ y ∈ r.l1, ¬ (y.core = core ∧ y.line = line)) ∧ r.mem = s.mem))
/-! ## Frames, flows and links (R25, R390, R414, R439, R449 to R460) -/

/-- A frame of a flow in order is handed to intake, and acknowledged at the sixteenth (R453, R454); a gap is answered once
and a duplicate acknowledged; what each kind does at intake, behind the earlier frames of its flow (R390, R454, R456); ACK and
NAK frames, the acknowledgement timer and the retransmission timeout (R449, R450, R454); a damaged or foreign frame is dropped
and counted (R451, R453); the port goes down, where an open transfer faults, and comes up (R455); a frame's bytes give the frame
again (R452).
The model's choices in it: log 23, log 53, log 54, log 92, log 93, log 106. -/
def Obligations.FramesAndFlows : Prop :=
  (∀ f : Frame, f.kind ≠ 0 → f.kind.toNat < 12 → f.payload.length ≤ 8192 → f.payload.length % 16 = 0 →
    parseFrame (frameBytes f) = some { f with tag := none })
  ∧ ∀ s : State, s.mgmt.powered = true → s.port.up = true →
    (∀ f : Frame, f.hd = false → f.dst = s.devid →
      let x := rxFlow s (flowOf f)
      let kinds : List (BitVec 4 × Instr) :=
        [(1, .framePut f), (2, .frameGetreq f), (3, .frameGetdata f), (6, .frameLaunch f), (7, .frameLresult f),
          (8, .frameCancel f), (9, .frameReport f), (11, .frameRefuse f)]
      let ahead := (f.seq - x.expected).toNat
      let fits : Prop := (f.payload.length ≤ 8192 ∧ f.payload.length % 16 = 0) ∨ (f.kind = 7 ∧ f.payload.length = 8)
      let good : Prop := f.tenant ≠ 0 ∧ fits
      (∀ p ∈ kinds, f.kind = p.1 →
        (¬ good → exec p.2 s = .next { s with port := { s.port with dropped := s.port.dropped + 1 } })
        ∧ (good → 0 < ahead → ahead < 2 ^ 23 → exec p.2 s = .next
            (if x.gapSent then s else flowReply (setRx s { x with gapSent := true }) (flowOf f) 5 x.expected 0))
        ∧ (good → 2 ^ 23 ≤ ahead → exec p.2 s = .next (sendAck s x)))
      ∧ (good → f.seq = x.expected →
        let y : RxFlow := { x with
          expected := x.expected + 1, gapSent := false, unacked := x.unacked + 1
          unackedSince := if x.unacked = 0 then s.cycle else x.unackedSince }
        let s1 := setRx s y
        let accepts (i : Instr) (P : State → Prop) : Prop :=
          ∃ t, exec i s = .next (if 16 ≤ y.unacked then sendAck t (rxFlow t y.key) else t) ∧ P t
        let asks (t : State) (flow : RxFlow) (kind : ReqKind) (lead : Nat) : Prop :=
          let j : Request :=
            { source := 0, num := 0, pred := none, tenant := f.tenant, context := f.context, addr := f.rpa.toNat
              kind := kind, reply := some f, lead := lead }
          t = sendRequests { setRx s flow with intake := s.intake ++ [j] } 64
        let answer (kind : BitVec 4) (aux : BitVec 32) (payload : List Byte) : Frame :=
          { kind := kind, hs := false, hd := f.hs, src := s.devid, dst := f.src, tenant := f.tenant, context := f.context
            seq := 0, ack := 0, rpa := 0, aux := aux, payload := payload }
        let answers (s2 : State) (w : Word) : State := sendFrame s2 (answer 7 0 (bytesOf 8 w.toNat))
        let q : BitVec 6 := f.aux.setWidth 6
        let r := BitVec.ofNat 2048 (leNat (f.payload.take 256))
        (flowBusy s f = true →
          (f.kind = 3 → heldFull s f = false → accepts (.frameGetdata f) (fun t => asks t y .perform 0))
          ∧ (f.kind = 6 → accepts (.frameLaunch f) (fun t => asks t y .perform 0))
          ∧ (f.kind = 8 → accepts (.frameCancel f) (fun t => asks t y .perform 0))
          ∧ (f.kind = 11 → accepts (.frameRefuse f) (fun t => asks t y .perform 0)))
        ∧ (intakeFull s = true → (f.kind = 1 → exec (.framePut f) s = .next (flowReply s (flowOf f) 5 x.expected 1))
          ∧ (f.kind = 2 → exec (.frameGetreq f) s = .next (flowReply s (flowOf f) 5 x.expected 1)))
        ∧ (intakeFull s = false →
          (f.kind = 1 → f.payload ≠ [] → accepts (.framePut f) (fun t =>
              asks t { y with runs := (putRun y f).2 } (.write f.payload) (f.rpa.toNat - (putRun y f).1)))
          ∧ (f.kind = 2 → accepts (.frameGetreq f) (fun t =>
              if 16 ≤ f.aux.toNat ∧ f.aux.toNat ≤ 2 ^ 24 then asks t y (.read f.aux.toNat) 0
              else t = sendFrame s1 (answer 11 (BitVec.ofNat 32 (2 ^ 24)) []))))
        ∧ (f.kind = 3 → flowBusy s f = false → heldFull s f = false → ∀ u o b trap cor sent done, netOpFor s f (getMatches f) = some (u, o) → slotOf s u.id = some u →
            o.work = .net b none trap cor sent done → f.payload.length = 16 → done + 16 ≤ netLen b → isDet u = false →
            let d := b.loff.toNat + done
            d % 16 = 0 → ownsRange u d 16 = true →
            accepts (.frameGetdata f) (fun t => ∃ v, slotOf t u.id = some v ∧ t.mem = s.mem
              ∧ (∀ a, bankByte v a = if d ≤ a ∧ a < d + 16 then f.payload.getD (a - d) 0 else bankByte u a)
              ∧ (∀ g, granuleFull v g = (granuleFull u g || g = d / 16)) ∧ v.g = u.g ∧ v.v = u.v
              ∧ v.ops = u.ops.map (fun p =>
                  if p.id = o.id then { p with work := .net b none trap cor sent (done + 16) } else p)))
        ∧ (f.kind = 6 → flowBusy s f = false →
            ((queueFull s q = true ∨ submit s q r (some f.tenant) = none) →
              exec (.frameLaunch f) s = .next (flowReply s (flowOf f) 5 x.expected 1))
            ∧ (queueFull s q = false → (submit s q r (some f.tenant)).isSome = true →
              ∀ s2 w, submit s1 q r (some f.tenant) = some (s2, w) → accepts (.frameLaunch f) (fun t => t = answers s2 w)))
        ∧ (f.kind = 7 → accepts (.frameLresult f) (fun t => t = s1))
        ∧ (f.kind = 8 → flowBusy s f = false → let r := cancelLaunch s1 q (leNat (f.payload.take 6)) f.tenant f.context
            accepts (.frameCancel f) (fun t => t = answers r.1 r.2))
        ∧ (f.kind = 9 → accepts (.frameReport f) (fun t => t = s1))
        ∧ (f.kind = 11 → flowBusy s f = false →
            ∀ u o b h trap cor sent done it, o.work = .net b h trap cor sent done → u.item = some it →
            (openTransfers s1).find? (fun x => netMatches f x.1 x.2 true || netMatches f x.1 x.2 false) = some (u, o) →
            let e : FaultInfo := { code := 0x25, operand := word (b.rpa.toNat + sent.getD 0 + f.aux.toNat % 2 ^ 24) }
            (∀ v, slotOf s1 u.id = some v → holdsItem v (itemKey u) (bornAt u) = true →
              accepts (.frameRefuse f) (fun t => t = opFault s1 u.id o e))
            ∧ ((∀ v, slotOf s1 u.id = some v → holdsItem v (itemKey u) (bornAt u) = false) →
              accepts (.frameRefuse f) (fun t =>
                t = endLaunch s1 it.queue it.ordinal u.tenant u.context (report s1 u (opSite u.id o) e)))))
      ∧ ((f.tenant = 0 ∧ f.hs = false) →
        (f.kind = 4 → exec (.frameAck f) s = .next { s with port := { s.port with dropped := s.port.dropped + 1 } })
        ∧ (f.kind = 5 → exec (.frameNak f) s = .next { s with port := { s.port with dropped := s.port.dropped + 1 } }))
      ∧ (∀ t : TxFlow, (f.tenant ≠ 0 ∨ f.hs = true) → txFlow s ⟨f.hd, f.hs, f.dst, f.src, f.tenant, f.context⟩ = some t →
        let after (ack : BitVec 24) : List SentFrame := t.window.filter (fun p => decide (2 ^ 23 ≤ (ack - p.frame.seq).toNat))
        let fulls (w : List SentFrame) : Nat := if w.length = t.window.length then t.fulls else 0
        (f.kind = 4 → let w := after f.ack
          ((∀ y ∈ s.port.tx, y.waiting = []) → exec (.frameAck f) s = .next (setTx s { t with window := w, fulls := fulls w }))
          ∧ (s.port.tx = [t] → let out := t.waiting.take (min (4096 - w.length) (65536 - w.length))
            ∃ r, exec (.frameAck f) s = .next r ∧ r.port.wire = (out.map (fun p => p.frame)).reverse ++ s.port.wire
              ∧ r.port.tx = [{ t with
                  window := w ++ out.map (fun p => { p with at_ := s.cycle }), waiting := t.waiting.drop out.length
                  fulls := fulls w }]))
        ∧ (f.kind = 5 → let w := after (f.ack - 1)
          (f.aux = 1 → exec (.frameNak f) s = .next (setTx s { t with
            window := w, fulls := fulls w + 1
            resendAt := some (s.cycle + s.port.backoff.toNat * 2 ^ min (fulls w) 6 * 16) }))
          ∧ (f.aux ≠ 1 → ∃ r, exec (.frameNak f) s = .next r ∧ r.mem = s.mem
              ∧ r.port.wire = (w.map (fun p => p.frame)).reverse ++ s.port.wire))))
    ∧ (∀ k : FlowKey, (rxFlow s k).unacked ≠ 0 → (rxFlow s k).unackedSince + 32 ≤ s.cycle →
        ∃ r a, exec (.ackTimer k) s = .next r ∧ r.port.wire = a :: s.port.wire ∧ a.kind = 4 ∧ a.seq = 0
          ∧ a.ack = (rxFlow s k).expected - 1 ∧ flowOf a = ⟨k.hd, k.hs, k.dst, k.src, k.tenant, k.context⟩
          ∧ (rxFlow r k).unacked = 0 ∧ r.mem = s.mem)
    ∧ (∀ k t p ps, txFlow s k = some t → t.window = p :: ps → t.resendAt = none →
        p.at_ + 16 * s.port.retransmit ≤ s.cycle →
        ∃ r, exec (.retransmitTimeout (.flow k)) s = .next r ∧ r.mem = s.mem
          ∧ r.port.wire = (t.window.map (fun p => p.frame)).reverse ++ s.port.wire
          ∧ txFlow r k = some { t with window :=
              { p with at_ := s.cycle, resends := p.resends + 1 } :: ps.map (fun p => { p with at_ := s.cycle }) })
    ∧ (∀ bytes fcs,
        let counted : State := { s with port := { s.port with dropped := s.port.dropped + 1 } }
        let noted : State := { s with port := { s.port with
          dropped := s.port.dropped + 1
          drops := s.port.drops.filter (fun c => s.cycle < c + 1600000) ++ [s.cycle] } }
        let tags := etherTags bytes
        let foreign : Prop := 2 ≤ tags ∨ etherWord bytes (12 + 4 * tags) ≠ 0x9A4C ∨ 8242 < bytes.length
        let bs := bytes.drop (14 + 4 * tags)
        let h := leNat (bs.take 32)
        let kind := h / 2 ^ 248 % 16
        let wrong : Prop := h / 2 ^ 252 % 16 ≠ 1 ∨ (crc32c (bytesOf 28 (h / 2 ^ 32))).toNat ≠ h % 2 ^ 32
        exec (.frameDamagedDrop bytes true) s = .next noted
        ∧ (fcs = false → etherWord bytes 12 = 0x8808 → exec (.frameDamagedDrop bytes fcs) s = .next s)
        ∧ (fcs = false → etherWord bytes 12 ≠ 0x8808 →
          (foreign → exec (.frameDamagedDrop bytes fcs) s = .next counted)
          ∧ (¬ foreign → 32 ≤ bs.length → wrong → exec (.frameDamagedDrop bytes fcs) s = .next noted)
          ∧ (¬ foreign → 32 ≤ bs.length → ¬ wrong → (kind = 0 ∨ 12 ≤ kind) →
              exec (.frameDamagedDrop bytes fcs) s = .next counted)))
    ∧ (∀ why, portFails s why = true → ∃ r, exec (.portDown ⟨.ethernet, why⟩) s = .next r ∧ r.port.up = false ∧ r.port.tx = []
        ∧ r.port.rx = [] ∧ r.port.wire = s.port.wire
        ∧ r.port.notices = s.port.notices ++ none :: (openTenants s).map some
        ∧ (openTransfers s = [] → r = { s with port := r.port })
        ∧ ∀ t o b h trap cor sent done, openTransfers s = [(t, o)] → o.work = .net b h trap cor sent done →
            slotOf s t.id = some t → holdsItem t (itemKey t) (bornAt t) = true →
            let sentFrames := s.port.tx.flatMap (fun x => x.window ++ x.waiting)
            let at_ : Nat := if b.get then b.rpa.toNat + done
              else match sentFrames.find? (fun p => p.op = some (refOf t o.id)) with
                | some p => p.frame.rpa.toNat
                | none => b.rpa.toNat + done
            r = opFault { s with port := r.port } t.id o { code := 0x25, operand := word at_ })
    ∧ exec .portRetrainComplete { s with port := { s.port with up := false } }
        = .next { s with port := { s.port with up := true, tx := [], rx := [], drops := [] } }

/-- A flit in order is accepted, its acknowledgement frees replay entries and its credits come back; any other is dropped with a
NAK that names the expected number; a NAK has the flits from there on sent again, and the sixteenth time in succession starts
retraining; no flit arrives on a link in training; retraining starts a link again, and its third failure in succession is the
failure of the package, which ends every launch; a flit that a link sends has its number, its acknowledgement, its channel and
a right CRC (R459, R460). A chain link sends again from its oldest packet after its retransmit time and after a back-off; a
link goes down and comes up, and what it kept leaves over another (R449, R450, R454, R455, R461, R462).
The model's choices in it: log 14, log 62, log 105. -/
def Obligations.LinkEvents : Prop :=
  (∀ (seq ack : BitVec 16) (vc : Nat) (payload : List Byte), vc < 256 → payload.length ≤ 240 →
    let f := flitBytes seq ack vc payload
    f.length = 256 ∧ leNat (f.take 2) = seq.toNat ∧ leNat ((f.drop 2).take 2) = ack.toNat ∧ (f.getD 4 0).toNat = vc
      ∧ (f.drop 8).take payload.length = payload ∧ (crc64 (f.take 248)).toNat = leNat (f.drop 248))
  ∧ (∀ (s : State) (link : UcieLink), s.mgmt.powered = true →
    let n := linkNum link
    let l := s.ucie[n]
    let with_ (l : UcieState) : State := { s with ucie := s.ucie.set n l }
    let after (ack : BitVec 16) : List (List Byte) :=
      let freed := (ack + 1 - (l.next - BitVec.ofNat 16 l.replay.length)).toNat
      if freed ≤ l.replay.length then l.replay.drop freed else l.replay
    (∀ bytes : List Byte, l.training = false →
      let right : Prop := bytes.length = 256 ∧ (crc64 (bytes.take 248)).toNat = leNat (bytes.drop 248)
        ∧ leNat (bytes.take 2) = l.expected.toNat
      (right →
        let left := after (BitVec.ofNat 16 (leNat ((bytes.drop 2).take 2)))
        exec (.flitReceive link (.flit bytes)) s = .next (with_ { l with
          expected := l.expected + 1, replay := left, resends := if left.length = l.replay.length then l.resends else 0
          credits := l.credits.mapIdx (fun i k => k + (bytes.getD (5 + i) 0).toNat) }))
      ∧ (¬ right → exec (.flitReceive link (.flit bytes)) s = .next (with_ { l with naks := l.expected :: l.naks })))
    ∧ (∀ k : BitVec 16, l.training = false →
      let left := after (k - 1)
      let again := if left.length = l.replay.length then l.resends + 1 else 1
      let kept := { l with replay := left, resends := again }
      exec (.flitReceive link (.nak k)) s = .next (with_ (
        if left = [] then { kept with resends := 0 }
        else if 16 ≤ again then { kept with training := true }
        else { kept with wire := left.reverse ++ l.wire })))
    ∧ (∀ u : LinkUnit, l.training = true → exec (.flitReceive link u) s = .next s)
    ∧ exec (.linkRetrain (.ucie link) true) s = .next (with_ { l with
        training := false, resends := 0, retrainFails := 0, wire := (if l.training then l.replay.reverse else []) ++ l.wire })
    ∧ (let down := with_ { l with training := true, retrainFails := l.retrainFails + 1 }
       (l.retrainFails < 2 → exec (.linkRetrain (.ucie link) false) s = .next down)
       ∧ (2 ≤ l.retrainFails → ∃ r, exec (.linkRetrain (.ucie link) false) s = .next r ∧ r.mgmt.failed = true ∧ r.mem = s.mem
          ∧ ∀ q o x, launchOf r q o = some x → x.failed = true)))
  ∧ ∀ (s : State) (k : BitVec 3), s.mgmt.powered = true →
    let n : Fin 8 := k.toFin
    let l := s.chains[n]
    let with_ (l : ChainLink) : State := { s with chains := s.chains.set n l }
    let wire := (l.window.map (fun p => p.packet)).reverse ++ l.wire
    (∀ p ps, l.up = true → l.window = p :: ps →
      let again := { p with at_ := s.cycle, resends := p.resends + 1 } :: ps.map (fun x => { x with at_ := s.cycle })
      (l.resendAt = none → p.at_ + 16 * l.retransmit ≤ s.cycle →
        exec (.retransmitTimeout (.chain k)) s = .next (with_ { l with window := again, wire := wire }))
      ∧ (∀ c, l.resendAt = some c → c ≤ s.cycle →
        exec (.backoffResend (.chain k)) s = .next (with_ { l with window := again, wire := wire, resendAt := none })))
    ∧ (∀ dev why, dev ≠ s.devid →
        exec (.portDown ⟨.chain dev k, why⟩) s
          = .next { s with ringDown := s.ringDown.filter (fun x => x ≠ (dev, k)) ++ [(dev, k)] }
        ∧ exec (.linkRetrain (.chain dev k) true) s
          = .next { s with ringDown := s.ringDown.filter (fun x => x ≠ (dev, k)) })
    ∧ (∀ why, l.up = true →
        (match why with
          | .drops => 64 ≤ (l.drops.filter (fun c => s.cycle < c + 1600000)).length
          | .resends => ∃ p ∈ l.window, 8 ≤ p.resends
          | .lockLost => True) →
        let down := with_ { l with up := false, window := [], drops := [], resendAt := none }
        (l.window = [] → exec (.portDown ⟨.chain s.devid k, why⟩) s = .next down)
        ∧ (∀ p out, l.window = [p] → routeLink down (n / 4) p.packet.dstDev = some out →
            exec (.portDown ⟨.chain s.devid k, why⟩) s = .next (linkSend down out p.packet)))
    ∧ (l.up = false → exec (.linkRetrain (.chain s.devid k) true) s = .next (with_ { l with
        up := true, next := 1, expected := 1, window := [], gapSent := false, fulls := 0, resendAt := none, drops := [] }))
/-! ## Management, power and temperature (R4, R25, R62, R108, R125, R163, R165, R400, R409, R415, R434, R437, R450, R458,
R465 to R472) -/

/-- A registered host's request comes as a frame of its flow: in order it is accepted, performed and acknowledged at the
sixteenth, and any other is answered as of every flow (R453, R454, R456). It is done where the rules allow it and answered with
status 0, and any other is answered with a status that is not 0 (R458); what each request changes. It comes over the port
while it is up, from a host that the boot has registered, to firmware that runs (R1, R468, R470).
The model's choices in it: log 6, log 24, log 25, log 60, log 92. -/
def Obligations.ManagementRequests : Prop :=
  (∀ (s : State) (i : Instr) (m : MgmtHead) (code : BitVec 8), s.mgmt.powered = true → requestOf i = some (m, code) →
    let heard : Prop := s.port.up = true ∧ 25 ≤ s.mgmt.boot.stage ∧ m.host ∈ s.mgmt.hosts
    let x := rxFlow s ⟨true, false, m.host, s.devid, m.tenant, m.context⟩
    let ahead := (m.seq - x.expected).toNat
    (¬ heard → exec i s = .next s)
    ∧ (heard → 0 < ahead → ahead < 2 ^ 23 → exec i s = .next
        (if x.gapSent then s else flowReply (setRx s { x with gapSent := true }) x.key 5 x.expected 0))
    ∧ (heard → 2 ^ 23 ≤ ahead → exec i s = .next (sendAck s x))
    ∧ (heard → ahead = 0 → flowBusy s (requestFrame s m code) = true → exec i s = .next (flowReply s x.key 5 x.expected 1)))
  ∧ (∀ (t : State) host code st more, ∃ f, mgmtAnswer t host code st more = sendFrame t f
        ∧ f.kind = 10 ∧ f.hs = false ∧ f.hd = true ∧ f.src = t.devid ∧ f.dst = host ∧ f.aux = code.setWidth 32
        ∧ f.payload.take 4 = bytesOf 4 st.toNat ∧ (f.payload.drop 4).take more.length = more ∧ f.payload.length % 16 = 0)
  ∧ ∀ (s : State) (m : MgmtHead), s.mgmt.powered = true → s.port.up = true → 25 ≤ s.mgmt.boot.stage → m.host ∈ s.mgmt.hosts →
    let key : FlowKey := ⟨true, false, m.host, s.devid, m.tenant, m.context⟩
    m.seq = (rxFlow s key).expected → (∀ r ∈ s.requests ++ s.intake, ∀ f, r.reply = some f → flowOf f ≠ key) →
    let y : RxFlow := { rxFlow s key with
      expected := (rxFlow s key).expected + 1, gapSent := false, unacked := (rxFlow s key).unacked + 1
      unackedSince := if (rxFlow s key).unacked = 0 then s.cycle else (rxFlow s key).unackedSince }
    let b := setRx s y
    let becomes (i : Instr) (t : State) : Prop := exec i s = .next (if 16 ≤ y.unacked then sendAck t (rxFlow t key) else t)
    let done (i : Instr) (code : BitVec 8) (t : State) (more : List Byte) : Prop :=
      becomes i (mgmtAnswer t m.host code 0 more)
    let refused (i : Instr) (code : BitVec 8) : Prop := ∃ x, x ≠ 0 ∧ becomes i (mgmtAnswer b m.host code x)
    let fresh : Prop := ∀ p ∈ s.queues, p.2.accepted = 0
    let quiet : Prop := (∀ d : Fin 2, s.moves[d] = none) ∧ (∀ n, lineHeld s n = false) ∧ ∀ n : Fin 5, s.ucie[n].training = false
    (∀ dev, (fresh → done (.mgmtSetDevid m dev) 0x01 { b with devid := dev } [])
        ∧ (¬fresh → refused (.mgmtSetDevid m dev) 0x01))
    ∧ (∀ seed, done (.mgmtWritePseed m seed) 0x02
        { b with pseed := seed, pseedWas := some (s.cycle, pseedNow s) } [])
    ∧ (∀ (tenant : BitVec 16) (weight : BitVec 8), tenant ≠ 0 →
        let others := s.tenants.filter (fun t => t.id ≠ tenant)
        (weight ≠ 0 → ∃ x : Tenant, x.id = tenant ∧ x.weight = weight
          ∧ (∀ y, s.tenants.find? (fun t => t.id = tenant) = some y → x.keys = y.keys ∧ x.quota = y.quota)
          ∧ done (.mgmtTenant m tenant true weight) 0x03 { b with tenants := others ++ [x] } [])
        ∧ refused (.mgmtTenant m tenant true 0) 0x03 ∧ (∀ create, refused (.mgmtTenant m 0 create weight) 0x03)
        ∧ done (.mgmtTenant m tenant false weight) 0x03
            { b with tenants := others, translator := s.translator.filter (fun e => e.tenant ≠ tenant) } [])
    ∧ (∀ q tenant, done (.mgmtAssignQueue m q tenant) 0x04 (setQueue b q { queueOf s q with tenant := tenant }) [])
    ∧ (∀ target (index : BitVec 10) (e : Word), done (.mgmtAccessTable m target index e) 0x05
        { b with
          access := sset 0 s.access (1024 * targetNum target + index.toNat) (e &&& 0xFFFFFFFF007F0001#64)
          accessWas := some (s.cycle, accessNow s) } [])
    ∧ (∀ (tenant context : BitVec 16) (root : BitVec 52) n,
        let okay : Prop := tenant ≠ 0 ∧ root.toNat % 4096 = 0 ∧ isMemory root.toNat = true ∧ contextOf s tenant context = none
        (okay → done (.mgmtCreateContext m tenant context root n) 0x06
          { b with contexts := s.contexts ++ [⟨tenant, context, root.toNat, n⟩] } [])
        ∧ (¬ okay → refused (.mgmtCreateContext m tenant context root n) 0x06))
    ∧ (∀ tenant context (vpage : BitVec 40),
        let mine (f : PageFault) : Bool := f.tenant = tenant && f.context = context && f.vpage = vpage
        (∃ r, done (.mgmtPageFaultAnswer m tenant context vpage true) 0x07 r [] ∧ r.mem = s.mem
          ∧ r.pageFaults = s.pageFaults.filter (fun f => !mine f)
          ∧ ∀ c t a, slotOf s c = some t → t.answer = some a → a.tenant = tenant → a.context = context → vpage ∈ a.pages →
            ∃ u, slotOf r c = some u ∧ u.ctl = t.ctl ∧ u.g = t.g
              ∧ u.answer = if (∀ p ∈ a.pages, p = vpage) then none
                  else some { a with pages := a.pages.filter (fun p => p ≠ vpage) })
        ∧ ∃ r, done (.mgmtPageFaultAnswer m tenant context vpage false) 0x07 r [] ∧ r.mem = s.mem
          ∧ (∀ f ∈ r.pageFaults, mine f = false)
          ∧ ∀ f ∈ s.pageFaults, mine f = true →
            let q : BitVec 6 := BitVec.ofNat 6 f.owner.item.1
            ∀ l, launchOf s q f.owner.item.2.1 = some l → ∃ l', launchOf r q f.owner.item.2.1 = some l' ∧ l'.failed = true)
    ∧ (∀ q o kind, launchOf s q o = none → refused (.mgmtPreempt m q o kind) 0x08)
    ∧ (∀ q o l, launchOf s q o = some l →
        let rest (l : Launch) : List HoldCause := l.held.filter (fun h => h ≠ .host)
        done (.mgmtPreempt m q o .boundary) 0x08 (modLaunch b q o (fun l => { l with held := rest l ++ [.host] })) []
        ∧ done (.mgmtPreempt m q o .resume) 0x08 (modLaunch b q o (fun l => { l with held := rest l })) []
        ∧ ∀ c t i, launchSlots s q o = [c] → slotOf s c = some t → slotRuns t q o = true →
            t.item = some i → i.size = 0 → savable s t →
          ∃ r, done (.mgmtPreempt m q o .midItem) 0x08 r [] ∧ savesItem s r t
            ∧ ∃ l', launchOf r q o = some l' ∧ .host ∈ l'.held)
    ∧ (quiet → ∀ tenant context (va dest : BitVec 56) len (pa : BitVec 52) kind,
        let i : Instr := .mgmtLoadObject m tenant context va dest len pa kind
        ((contextOf s tenant context = none ∨ dest.toNat % 2 ^ 16 ≠ 0 ∨ pa.toNat % 2 ^ 16 ≠ 0 ∨ isMemory pa.toNat = false
          ∨ (contextRead b tenant context va.toNat len).bind (signedObject b tenant) = none) → refused i 0x09)
        ∧ (∀ c o, contextOf s tenant context = some c → dest.toNat % 2 ^ 16 = 0 → pa.toNat % 2 ^ 16 = 0 →
          isMemory pa.toNat = true → (contextRead b tenant context va.toNat len).bind (signedObject b tenant) = some o →
          (∀ e, objectCode b tenant o kind = .error e → becomes i (mgmtAnswer b m.host 0x09 e.1 e.2))
          ∧ (∀ t0 code, objectCode b tenant o kind = .ok (t0, code) →
            match mapCode t0 c dest.toNat pa.toNat (pagesOf 0 code.length) with
            | none => refused i 0x09
            | some (t, old) =>
              let answer := bytesOf 8 dest.toNat ++ bytesOf 8 code.length ++ bytesOf 32 (sha3 code).toNat
              ∃ r, storesMemory t r pa.toNat code ∧ homeOnly t r
                ∧ (old = [] → done i 0x09 r answer)
                ∧ (old ≠ [] → itemSlots t ≠ [] → (∀ l ∈ old, classLoaded t l.1 = false) → becomes i { r with
                    shootdowns := t.shootdowns ++ old.map (fun l =>
                      { old := l.1, unreached := itemSlots t, entry := l.2, host := m.host, code := 0x09, more := answer
                        job := nextJob t }) }))))
    ∧ (∀ nonce tenant, done (.mgmtAttestation m nonce tenant) 0x0A b
        (attestReport s nonce tenant ++ Config.mldsaSign (sha3 (attestReport s nonce tenant))))
    ∧ (∀ w, (400 ≤ w → w ≤ 1250 → done (.mgmtPowerCap m w) 0x0B { b with mgmt := { s.mgmt with cap := w } } [])
        ∧ ((w < 400 ∨ 1250 < w) → refused (.mgmtPowerCap m w) 0x0B))
    ∧ (quiet → let a := mgmtAnswer b m.host 0x0C 0
       becomes (.mgmtPackageReset m) { powerGood a with port := { (powerGood a).port with wire := a.port.wire } })
    ∧ (quiet → ∀ tenant context (va : BitVec 56) (e : BitVec 128) (pa : BitVec 52), contextOf s tenant context = none →
        refused (.mgmtMapPages m tenant context va e) 0x0D ∧ refused (.mgmtMigrate m tenant context va pa) 0x0E)
    ∧ (quiet → ∀ tenant context (va : BitVec 56) (e : BitVec 128) c, contextOf s tenant context = some c →
        let levels := [0, 1, 2, 3, 4]
        let old := leafAt b tenant context va.toNat c.root levels
        let map : Instr := .mgmtMapPages m tenant context va e
        ((requestLevel e.toNat old = none ∨ ∃ level, requestLevel e.toNat old = some level
            ∧ leafWith b va.toNat level c.root levels = none) → refused map 0x0D)
        ∧ (∀ level s1 a, requestLevel e.toNat old = some level → leafWith b va.toNat level c.root levels = some (s1, a) →
          let gone := leavesOf s1 tenant context va.toNat level a
          ∃ r, homeOnly s1 r ∧ storesMemory s1 r a (bytesOf 16 e.toNat)
            ∧ let t := gone.foldl unloadClass r
              ((gone = [] ∨ itemSlots s1 = []) → done map 0x0D
                { t with l1 := t.l1.filter (fun y => !gone.any (fun l => inLeafMemory l (128 * y.line))) } [])
              ∧ (gone ≠ [] → itemSlots s1 ≠ [] → becomes map { t with
                  shootdowns := s1.shootdowns ++ gone.map (fun l =>
                    { old := l, unreached := itemSlots s1, entry := a, host := m.host, code := 0x0D, job := nextJob s1 }) }))
        ∧ (∀ pa : BitVec 52,
          let move : Instr := .mgmtMigrate m tenant context va pa
          ((old = none ∨ ∃ l at_, old = some (l, at_) ∧ (leafWith b va.toNat at_ c.root levels = none
              ∨ pa.toNat % pageBytes l.size ≠ 0 ∨ isMemory pa.toNat = false
              ∨ ∃ s1 a, leafWith b va.toNat at_ c.root levels = some (s1, a) ∧ (memNat s1 a 16).testBit 11 = true)) →
            refused move 0x0E)
          ∧ (∀ l at_ s1 a, old = some (l, at_) → leafWith b va.toNat at_ c.root levels = some (s1, a) →
              pa.toNat % pageBytes l.size = 0 → isMemory pa.toNat = true → (memNat s1 a 16).testBit 11 = false →
            ∃ r, homeOnly s1 r ∧ storesMemory s1 r a (bytesOf 16 (memNat s1 a 16 + 2 ^ 11))
              ∧ becomes move (startShootdown r
                { old := l, unreached := itemSlots s1, entry := a, move := some pa.toNat, code := 0x0E, host := m.host
                  job := nextJob s1 }))))
    ∧ (∀ (die : Bool) q tenant n, done (.mgmtQueryQueue m die q tenant n) 0x0F
        (putQueue b (dieFin die) q { queueAt s.kv[dieFin die] q with tenant := tenant, capacity := n }) [])
    ∧ (∀ port n vlan, refused (.mgmtLinkParameters m port 0 n vlan) 0x10)
    ∧ (∀ (k : BitVec 16) n vlan, k ≠ 0 →
        ((n < 100 ∨ 1000000 < n) → refused (.mgmtLinkParameters m .ethernet k n vlan) 0x10)
        ∧ (100 ≤ n → n ≤ 1000000 → done (.mgmtLinkParameters m .ethernet k n vlan) 0x10
          { b with port := { b.port with backoff := k, retransmit := n, vlan := vlan } } [])
        ∧ (∀ c : BitVec 3, let l : ChainLink := { s.chains[c.toFin] with backoff := k, retransmit := n }
            done (.mgmtLinkParameters m (.chain c) k n vlan) 0x10 { b with chains := s.chains.set c.toFin l } [])
        ∧ (∀ c : BitVec 3, 5 ≤ c.toNat → refused (.mgmtLinkParameters m (.ucie c) k n vlan) 0x10)
        ∧ (∀ c : BitVec 3, ∀ h : c.toNat < 5, let l : UcieState := { s.ucie[c.toNat] with backoff := k }
            done (.mgmtLinkParameters m (.ucie c) k n vlan) 0x10 { b with ucie := s.ucie.set c.toNat l } []))
    ∧ (∀ n, (n = 0 ∨ n = 4 ∨ n = 8) → fresh → done (.mgmtPinPartition m n) 0x11 { b with pinWays := n } [])
    ∧ (∀ n, (n ≠ 0 ∧ n ≠ 4 ∧ n ≠ 8 ∨ ¬ fresh) → refused (.mgmtPinPartition m n) 0x11)
    ∧ (∀ g, done (.mgmtSpillGrant m g) 0x12 { b with mgmt := { s.mgmt with spill := g } } [])
    ∧ (∀ tenant key enrol n, s.tenants.find? (fun t => t.id = tenant) = none →
        refused (.mgmtSigningKeys m tenant key enrol n) 0x13)
    ∧ ∀ tenant key enrol n y, s.tenants.find? (fun t => t.id = tenant) = some y →
        let change (t : Tenant) : Tenant :=
          let rest := t.keys.filter (fun k => k ≠ key)
          if t.id = tenant then { t with keys := if enrol then rest ++ [key] else rest, quota := n } else t
        done (.mgmtSigningKeys m tenant key enrol n) 0x13 { b with tenants := s.tenants.map change } []

/-- As power becomes good everything is zero, no link or port is trained, no host is registered and the intake is closed; then
units come up one after another, with their pauses; the boot ROM registers the first host that answers as host 0, and an
image that verifies and is new enough runs (R468, R470, R471); power removal keeps nothing (R4); dispatch stops at 100 °C and
goes on below 95 °C, launches are pre-empted at 110 °C, power goes at 120 °C, and an interval above the cap stops dispatch
for 1 ms (R472).
The model's choices in it: log 3, log 62, log 108. -/
def Obligations.PowerAndTemperature : Prop :=
  ∀ s : State,
    let off : State := { State.reset with agenda := s.agenda, draws := s.draws, mgmt := { State.reset.mgmt with powered := false } }
    (s.mgmt.powered = false → exec (.powerUp 0) s = .next { State.reset with
        agenda := s.agenda, draws := s.draws, port := { State.reset.port with up := false }
        chains := State.reset.chains.map (fun l => { l with up := false })
        ucie := State.reset.ucie.map (fun l => { l with training := true })
        mgmt := { State.reset.mgmt with intakeOpen := false, hosts := [], boot := { stage := 0 } } })
    ∧ (s.mgmt.powered = true →
      let boot := s.mgmt.boot
      let at_ (t : State) (n : Nat) : State :=
        let pause := if n = 1 then 32000 else if 26 ≤ n ∧ n ≤ 45 then 3200 else 1
        { t with mgmt := { t.mgmt with boot := { t.mgmt.boot with stage := n, due := s.cycle + pause } } }
      let n := boot.stage + 1
      (∀ unit, (48 ≤ boot.stage ∨ boot.stage = 24 ∨ s.cycle < boot.due ∨ unit ≠ n) → exec (.powerUp unit) s = .next s)
      ∧ (boot.stage < 48 → boot.stage ≠ 24 → boot.due ≤ s.cycle → exec (.powerUp n) s = .next (at_ (
          if 2 ≤ n ∧ n ≤ 6 then { s with ucie := s.ucie.mapIdx (fun i l => if i + 2 = n then { l with training := false } else l) }
          else if n = 23 then { s with port := { s.port with up := true } }
          else if n = 24 then { s with chains := s.chains.map (fun l => { l with up := true }) }
          else if n = 46 then { s with mem := [], poison := [] }
          else if n = 47 then { s with
            pseed := (Config.entropy s.draws).extractLsb' 0 64, draws := s.draws + 1, devid := boot.dev }
          else if n = 48 then { s with mgmt := { s.mgmt with intakeOpen := true } }
          else s) n))
      ∧ (∀ hosts dev version image sig,
          let i : Instr := .bootHandshake ⟨hosts, dev⟩ version image sig
          let listed := if s.mgmt.hosts = [] then 0 :: hosts.filter (fun h => h ≠ 0) else s.mgmt.hosts
          let runs : Prop := Config.mldsaVerify Config.ocoatuKeyHash (sha3 image) sig = true ∧ Config.minFirmware ≤ version
          ((s.port.up = false ∨ boot.stage ≠ 24) → exec i s = .next s)
          ∧ (s.port.up = true → boot.stage = 24 → ¬ runs → exec i s = .next { s with mgmt := { s.mgmt with hosts := listed } })
          ∧ (s.port.up = true → boot.stage = 24 → runs → exec i s = .next (at_ { s with mgmt := { s.mgmt with
              hosts := listed, version := version, digest := sha3 image, boot := { boot with dev := dev } } } 25)))
      ∧ exec .powerRemoval s = .next off
      ∧ (∀ (die : BitVec 2) n,
          (100 ≤ n → exec (.thermalWithhold die n) s = .next (setWithheld s die true))
          ∧ (n < 95 → exec (.thermalWithhold die n) s = .next (setWithheld s die false))
          ∧ (95 ≤ n → n < 100 → exec (.thermalWithhold die n) s = .next s)
          ∧ (110 ≤ n → ∃ r, exec (.thermalPreempt die n) s = .next r ∧ r.mgmt.withheld[die.toFin] = true
            ∧ ∀ q o l c, launchOf s q o = some l → c ∈ launchSlots s q o → dieOf c.core = die.toNat →
              ∃ l', launchOf r q o = some l' ∧ .thermal die ∈ l'.held))
      ∧ (∀ n, 120 ≤ n → exec (.thermalTrip n) s = .next off)
      ∧ ∀ w, s.mgmt.cap < w →
          exec (.powerCapCheck w) s = .next { s with mgmt := { s.mgmt with capUntil := s.cycle + 1600000 } })
/-! ## The machine as a whole (R6, R67, R129, R206, R209, R211, R227 to R246, R421, R471) -/

/-- A step performs the next event of the agenda; else the first that acts of the events and issues of the earliest stage of
the cc in which something does, in the order of R46, R47 and R422; and the end of the cc once nothing is left in it. An issue
fetches at the home of its code lines, inside the code region (R206, R227, R232), and runs the instruction or record that the
bytes decode to, or takes the fault of its fetch, the illegal-instruction or the illegal-record fault (R231, R246).
The model's choices in it: log 1, log 69. -/
def Obligations.StepRunsTheDecodedInstruction : Prop :=
  ∀ s : State,
    (∀ i rest, s.agenda = i :: rest → step s = exec i { s with agenda := rest })
    ∧ (s.agenda = [] → s.mgmt.powered = false → step s = .fault .unpowered)
    -- what a fetch reads
    ∧ (∀ va n, let base := recCodeva s.cur.record
        ((va < base ∨ base + recCodelen s.cur.record < va + n) → fetchBytes s s.cur va n = raise 0x05)
        ∧ ∀ pa, base ≤ va → va + n ≤ base + recCodelen s.cur.record → pinnedPa s.cur va n = some pa →
          fetchBytes s s.cur va n = if poisoned s pa n then raise 0x2F else .ok (memNat s pa n))
    -- an issue
    ∧ (∀ k st, nextTurn s = .stream k st → s.cur.ending = [] →
        (fetched { s with stage := k } st = none → step s = .next (holdStream { s with stage := k } st))
        ∧ ∀ t, fetched { s with stage := k } st = some t →
          let pc := t.cur.ctl.pc.toNat
          (st = .control →
            let fails (f : FaultInfo) : Prop :=
              step s = .next (takeFault t (fetchSite t) f (t.cur.ctl.pc - word (recCodeva t.cur.record)))
            let runs (w : Nat) : Prop :=
              (∀ i, decodeWord (kindOf t.cur) (BitVec.ofNat 96 w) = .ok i → step s = exec i (issuing t i))
              ∧ ∀ c, decodeWord (kindOf t.cur) (BitVec.ofNat 96 w) = .error c → fails { code := 0x01, sub := BitVec.ofNat 8 c }
            (∀ f, fetchBytes t t.cur pc 4 = .error (.fault f) → fails f)
            ∧ ∀ w0, fetchBytes t t.cur pc 4 = .ok w0 →
              (w0 % 4 < 2 → runs w0)
              ∧ (∀ f, 2 ≤ w0 % 4 → fetchBytes t t.cur (pc + 4) 4 = .error (.fault f) → fails f)
              ∧ (∀ w1, fetchBytes t t.cur (pc + 4) 4 = .ok w1 →
                (w0 % 4 = 2 → runs (w0 + w1 * 2 ^ 32))
                ∧ (w0 % 4 = 3 → (∀ f, fetchBytes t t.cur (pc + 8) 4 = .error (.fault f) → fails f)
                  ∧ ∀ w2, fetchBytes t t.cur (pc + 8) 4 = .ok w2 → runs (w0 + w1 * 2 ^ 32 + w2 * 2 ^ 64))))
          ∧ (∀ m : Bool, st = (if m then .matrix else .copy) →
            let fails (f : FaultInfo) : Prop := step s = .next (takeFault t (recSite t m) f 0)
            let at_ := fetchBytes t t.cur (if m then t.cur.mx else t.cur.cp).pc.toNat 64
            (∀ f, at_ = .error (.fault f) → fails f)
            ∧ ∀ n, at_ = .ok n →
              (∀ i, decodeRecord (kindOf t.cur) m (BitVec.ofNat 512 n) = .ok i →
                (recordForbidden t i = false → step s = exec i (issuing t i))
                ∧ (recordForbidden t i = true → fails { code := 0x02, sub := 6 }))
              ∧ ∀ c, decodeRecord (kindOf t.cur) m (BitVec.ofNat 512 n) = .error c →
                fails { code := 0x02, sub := BitVec.ofNat 8 c }))
    -- whose turn it is
    ∧ (s.agenda = [] → s.mgmt.powered = true →
        let due (k : Nat) : List Instr := (dueEvents s).filter (fun i => eventStage s i = k && acts s i)
        let idle (k : Nat) : Prop := due k = [] ∧ issuers s k = []
        let goes (k : Nat) (t : Slot) : Prop :=
          (t.id = s.cur.id → nextTurn s = .stream k (if k = 4 then .matrix else if k = 5 then .copy else .control))
          ∧ (t.id ≠ s.cur.id → step s = .next (giveTurn s t))
        ((∀ k, s.stage ≤ k → k < 10 → idle k) → step s = .next (endCycle s))
        ∧ ∀ k, s.stage ≤ k → k < 10 → (∀ j, s.stage ≤ j → j < k → idle j) →
          (k ≠ 2 → k ≠ 7 →
            (∀ i is, due k = i :: is → step s = exec i { s with stage := k })
            ∧ (due k = [] → ∀ t ts, issuers s k = t :: ts → goes k t))
          ∧ (k = 2 ∨ k = 7 →
            (∀ i, leastBy (eventRank s) (due k) = some i → (∀ t ∈ issuers s k, eventRank s i ≤ troupeRank t) →
              step s = exec i { s with stage := k })
            ∧ (∀ t, leastBy troupeRank (issuers s k) = some t → (∀ i ∈ due k, troupeRank t < eventRank s i) → goes k t)))
    -- in which stage the control stream issues
    ∧ (∀ i, fetchCtl s = .ok i →
        (∀ o, i = .stfe o → ctlStage s = if asksMember s i then 2 else 1) ∧ (∀ o, i = .syswrBfmt o → ctlStage s = 1)
        ∧ (∀ o, i = .feset o ∨ i = .feclr o → ctlStage s = 3)
        ∧ ((∀ o, i ≠ .stfe o ∧ i ≠ .syswrBfmt o ∧ i ≠ .feset o ∧ i ≠ .feclr o) → ctlStage s = if asksMember s i then 7 else 6))

/-- After the bring-up every byte, register and flow is zero or at its start (R471), an indirection-table entry names the
slice of its bucket's number (R67), key slots are FREE with generation 0, no slot holds an item, and the state is safe. The
device ID, the seed and the open intake are the model's (log 3). -/
def Obligations.ResetState : Prop :=
  let s := State.reset
  (∀ a, memByte s a = 0) ∧ (∀ a, bankByte s.cur a = 0) ∧ (∀ r, gval s.cur r = 0) ∧ (∀ r, vval s.cur r = 0)
    ∧ (∀ r, gIsEmpty s.cur r = false) ∧ (∀ g, granuleFull s.cur g = true) ∧ (∀ n : Fin 16, (s.cur.h[n]).bound = false)
    ∧ (∀ n : Fin 16, (s.cur.q[n]).value = 0) ∧ (∀ k, tableEntry s k = BitVec.ofNat 16 (k % 64))
    ∧ (∀ (d : Fin 2) n, let k := sget {} (s.kv[d]).keys n
        k.state = KeyState.free ∧ k.gen = 0 ∧ k.holders = 0 ∧ k.k1 = 0 ∧ k.k2 = 0)
    ∧ (∀ q, let x := queueOf s q
        x.tenant = 0 ∧ x.accepted = 0 ∧ x.completed = 0 ∧ x.launches = [])
    ∧ (∀ t ∈ allSlots s, t.item = none ∧ t.ops = [] ∧ t.ctl.running = false) ∧ (∀ n, lineWord s n = 0)
    ∧ s.access = [] ∧ s.port.tx = [] ∧ s.port.rx = [] ∧ s.cycle = 0 ∧ s.mgmt.powered = true ∧ safe s = true

/-- Memory keeps its canonical form over every step, so that equal memories are equal data; and so do the banks, granules, state
slots and tags of every slot and of every saved item, whose hard-wired register stays full (R234). The forms are the model's
own representation of R471's zero bytes. -/
def Obligations.StepKeepsMemoryCanonical : Prop :=
  ∀ s t : State, step s = .next t → (Memory.wf s.mem = true → Memory.wf t.mem = true) ∧ (safe s = true → safe t = true)

/-- Decoding and encoding agree (R227 to R246): every well-formed instruction and record is what its words decode to, at
every value of every operand; and what words decode to is well-formed, with those words as its encoding. -/
def Obligations.EncodingsRoundTrip : Prop :=
  (∀ core (i : Instr), i.wf core = true →
    (∀ w, encodeWord i = some w → decodeWord core w = .ok i)
    ∧ (∀ v, encodeRecord i = some v → decodeRecord core (decide (v.toNat % 256 < 0x40)) v = .ok i)
    ∧ ∀ bs, encode i = some bs → encodeRecord i = none → decodeBytes core bs = .ok (i, bs.length))
  ∧ (∀ core w i, decodeWord core w = .ok i → i.wf core = true
      ∧ encodeWord i = some (BitVec.ofNat 96 (w.toNat % 2 ^ (32 * wordsOf (w.extractLsb' 0 32)))))
  ∧ ∀ core m v i, decodeRecord core m v = .ok i → i.wf core = true ∧ encodeRecord i = some v

/-- Words written out field by field from R228, R243 and the entries of the instructions decode to the instructions that
they stand for, and the causes of R231 and R246 reject the others. -/
def Obligations.WordsDecode : Prop :=
  let c32 (fn : BitVec 5) (b a d : BitVec 6) (op : BitVec 7) : BitVec 96 := 0#64 ++ (fn ++ b ++ a ++ d ++ op ++ 0b01#2)
  let c64 (imm : BitVec 16) (lvl : BitVec 3) (fe : BitVec 4) (k : BitVec 3) (fn : BitVec 5) (c b a d : BitVec 6)
      (op : BitVec 7) : BitVec 96 := 0#32 ++ (imm ++ lvl ++ fe ++ k ++ fn ++ c ++ b ++ a ++ d ++ op ++ 0b10#2)
  -- ADD g3, g1, g2; NOP; SUB.S g3, g1, g2 + 5; LI g7, 0xDEADBEEF
  decodeWord .compute (c32 0 2 1 3 0x10) = .ok (.add { fmt := .c32, d := 3, a := 1, b := 2, fn := 0 })
  ∧ decodeWord .compute (c32 0 0 0 0 0x00) = .ok (.nop { fmt := .c32, d := 0, a := 0, b := 0, fn := 0 })
  ∧ decodeWord .compute (c64 5 0 0 0 2 0 2 1 3 0x12)
      = .ok (.sub { fmt := .c64, d := 3, a := 1, b := 2, fn := 2, imm16 := 5 })
  ∧ decodeWord .compute (0xDEADBEEF#32 ++ (0#16 ++ 0#3 ++ 0#4 ++ 0#3 ++ 0#5 ++ 0#6 ++ 0#6 ++ 0#6 ++ 7#6 ++ 0x26#7 ++ 0b11#2))
      = .ok (.li { fmt := .c96, d := 7, a := 0, b := 0, fn := 0, lit32 := 0xDEADBEEF })
  -- zeroed memory; a reserved opcode; an undefined function code; instructions of the other kind of core; a nonzero unused field
  ∧ decodeWord .compute 0 = .error 1
  ∧ decodeWord .compute (c32 0 0 0 0 0x7E) = .error 2
  ∧ decodeWord .compute (c32 9 2 1 3 0x10) = .error 3
  ∧ decodeWord .compute (c64 0 0 0 0 0 4 3 2 1 0x7D) = .error 6
  ∧ (∃ o, decodeWord .attention (c64 0 0 0 0 0 4 3 2 1 0x7D) = .ok (.adot o) ∧ o.d = 1 ∧ o.a = 2 ∧ o.b = 3 ∧ o.c = 4)
  ∧ decodeWord .attention (c64 0 0 0 0 0 0 0 2 0 0x70) = .error 6
  ∧ decodeWord .compute (c32 0 1 0 0 0x00) = .error 7
  -- MXEND on q2 with stamp 7; CPYEND on q1; op 0; a reserved op; an op of the other stream; a must-be-zero bit
  ∧ decodeRecord .compute true (0#472 ++ 7#24 ++ 2#4 ++ 0#4 ++ 0x0B#8) = .ok (.mxend { q := 2, stamp := 7 })
  ∧ decodeRecord .compute false (0#496 ++ 1#4 ++ 0#4 ++ 0x47#8) = .ok (.cpyend { q := 1 })
  ∧ decodeRecord .compute true 0 = .error 1
  ∧ decodeRecord .compute true 0x0C = .error 2
  ∧ decodeRecord .compute true 0x47 = .error 3
  ∧ decodeRecord .compute true (2 ^ 44 + 0x0B) = .error 5
end

