-- ==== Sys2Proof/Laws/Dispatch.lean ====
section
/-! SUPPORT. The meaning that the dispatch calls for each constructor of Instr. -/

namespace Sys2Proof.Machine

@[simp] theorem exec_nop {o} {s : State} : exec (.nop o) s = execNop o s := rfl
@[simp] theorem exec_endCtl {o} {s : State} : exec (.endCtl o) s = execEndCtl o s := rfl
@[simp] theorem exec_br {o} {s : State} : exec (.br o) s = execBr o s := rfl
@[simp] theorem exec_brc {o} {s : State} : exec (.brc o) s = execBrc o s := rfl
@[simp] theorem exec_bri {o} {s : State} : exec (.bri o) s = execBri o s := rfl
@[simp] theorem exec_call {o} {s : State} : exec (.call o) s = execCall o s := rfl
@[simp] theorem exec_ret {o} {s : State} : exec (.ret o) s = execRet o s := rfl
@[simp] theorem exec_loop {o} {s : State} : exec (.loop o) s = execLoop o s := rfl
@[simp] theorem exec_trap {o} {s : State} : exec (.trap o) s = execTrap o s := rfl
@[simp] theorem exec_sysrd {o} {s : State} : exec (.sysrd o) s = execSysrd o s := rfl
@[simp] theorem exec_sysrdFlags {o} {s : State} : exec (.sysrdFlags o) s = execSysrdFlags o s := rfl
@[simp] theorem exec_syswr {o} {s : State} : exec (.syswr o) s = execSyswr o s := rfl
@[simp] theorem exec_syswrMode {o} {s : State} : exec (.syswrMode o) s = execSyswrMode o s := rfl
@[simp] theorem exec_syswrBfmt {o} {s : State} : exec (.syswrBfmt o) s = execSyswrBfmt o s := rfl
@[simp] theorem exec_syswrFlags {o} {s : State} : exec (.syswrFlags o) s = execSyswrFlags o s := rfl
@[simp] theorem exec_syswrStampb {o} {s : State} : exec (.syswrStampb o) s = execSyswrStampb o s := rfl
@[simp] theorem exec_syswrTrapv {o} {s : State} : exec (.syswrTrapv o) s = execSyswrTrapv o s := rfl
@[simp] theorem exec_getmode {o} {s : State} : exec (.getmode o) s = execGetmode o s := rfl
@[simp] theorem exec_setmode {o} {s : State} : exec (.setmode o) s = execSetmode o s := rfl
@[simp] theorem exec_signrd {o} {s : State} : exec (.signrd o) s = execSignrd o s := rfl
@[simp] theorem exec_feat {o} {s : State} : exec (.feat o) s = execFeat o s := rfl
@[simp] theorem exec_rdtime {o} {s : State} : exec (.rdtime o) s = execRdtime o s := rfl
@[simp] theorem exec_stamp {o} {s : State} : exec (.stamp o) s = execStamp o s := rfl
@[simp] theorem exec_yield {o} {s : State} : exec (.yield o) s = execYield o s := rfl
@[simp] theorem exec_launch {o} {s : State} : exec (.launch o) s = execLaunch o s := rfl
@[simp] theorem exec_cancel {o} {s : State} : exec (.cancel o) s = execCancel o s := rfl
@[simp] theorem exec_cancelItem {o} {s : State} : exec (.cancelItem o) s = execCancelItem o s := rfl
@[simp] theorem exec_runMx {o} {s : State} : exec (.runMx o) s = execRunMx o s := rfl
@[simp] theorem exec_runCp {o} {s : State} : exec (.runCp o) s = execRunCp o s := rfl
@[simp] theorem exec_add {o} {s : State} : exec (.add o) s = execAdd o s := rfl
@[simp] theorem exec_addi {o} {s : State} : exec (.addi o) s = execAddi o s := rfl
@[simp] theorem exec_sub {o} {s : State} : exec (.sub o) s = execSub o s := rfl
@[simp] theorem exec_mul {o} {s : State} : exec (.mul o) s = execMul o s := rfl
@[simp] theorem exec_mulh {o} {s : State} : exec (.mulh o) s = execMulh o s := rfl
@[simp] theorem exec_div {o} {s : State} : exec (.div o) s = execDiv o s := rfl
@[simp] theorem exec_rem {o} {s : State} : exec (.rem o) s = execRem o s := rfl
@[simp] theorem exec_and {o} {s : State} : exec (.and o) s = execAnd o s := rfl
@[simp] theorem exec_or {o} {s : State} : exec (.or o) s = execOr o s := rfl
@[simp] theorem exec_xor {o} {s : State} : exec (.xor o) s = execXor o s := rfl
@[simp] theorem exec_shl {o} {s : State} : exec (.shl o) s = execShl o s := rfl
@[simp] theorem exec_shr {o} {s : State} : exec (.shr o) s = execShr o s := rfl
@[simp] theorem exec_sar {o} {s : State} : exec (.sar o) s = execSar o s := rfl
@[simp] theorem exec_rot {o} {s : State} : exec (.rot o) s = execRot o s := rfl
@[simp] theorem exec_min {o} {s : State} : exec (.min o) s = execMin o s := rfl
@[simp] theorem exec_max {o} {s : State} : exec (.max o) s = execMax o s := rfl
@[simp] theorem exec_abs {o} {s : State} : exec (.abs o) s = execAbs o s := rfl
@[simp] theorem exec_sel {o} {s : State} : exec (.sel o) s = execSel o s := rfl
@[simp] theorem exec_cmp {o} {s : State} : exec (.cmp o) s = execCmp o s := rfl
@[simp] theorem exec_clz {o} {s : State} : exec (.clz o) s = execClz o s := rfl
@[simp] theorem exec_popc {o} {s : State} : exec (.popc o) s = execPopc o s := rfl
@[simp] theorem exec_bfx {o} {s : State} : exec (.bfx o) s = execBfx o s := rfl
@[simp] theorem exec_bfi {o} {s : State} : exec (.bfi o) s = execBfi o s := rfl
@[simp] theorem exec_li {o} {s : State} : exec (.li o) s = execLi o s := rfl
@[simp] theorem exec_mov {o} {s : State} : exec (.mov o) s = execMov o s := rfl
@[simp] theorem exec_addr {o} {s : State} : exec (.addr o) s = execAddr o s := rfl
@[simp] theorem exec_cvt {o} {s : State} : exec (.cvt o) s = execCvt o s := rfl
@[simp] theorem exec_fadd {o} {s : State} : exec (.fadd o) s = execFadd o s := rfl
@[simp] theorem exec_fmul {o} {s : State} : exec (.fmul o) s = execFmul o s := rfl
@[simp] theorem exec_ffma {o} {s : State} : exec (.ffma o) s = execFfma o s := rfl
@[simp] theorem exec_fmin {o} {s : State} : exec (.fmin o) s = execFmin o s := rfl
@[simp] theorem exec_fmax {o} {s : State} : exec (.fmax o) s = execFmax o s := rfl
@[simp] theorem exec_fcmp {o} {s : State} : exec (.fcmp o) s = execFcmp o s := rfl
@[simp] theorem exec_ld {o} {s : State} : exec (.ld o) s = execLd o s := rfl
@[simp] theorem exec_st {o} {s : State} : exec (.st o) s = execSt o s := rfl
@[simp] theorem exec_stT {o} {s : State} : exec (.stT o) s = execStT o s := rfl
@[simp] theorem exec_ldv {o} {s : State} : exec (.ldv o) s = execLdv o s := rfl
@[simp] theorem exec_stv {o} {s : State} : exec (.stv o) s = execStv o s := rfl
@[simp] theorem exec_ldfe {o} {s : State} : exec (.ldfe o) s = execLdfe o s := rfl
@[simp] theorem exec_stfe {o} {s : State} : exec (.stfe o) s = execStfe o s := rfl
@[simp] theorem exec_feset {o} {s : State} : exec (.feset o) s = execFeset o s := rfl
@[simp] theorem exec_feclr {o} {s : State} : exec (.feclr o) s = execFeclr o s := rfl
@[simp] theorem exec_fepeek {o} {s : State} : exec (.fepeek o) s = execFepeek o s := rfl
@[simp] theorem exec_xlat {o} {s : State} : exec (.xlat o) s = execXlat o s := rfl
@[simp] theorem exec_hrel {o} {s : State} : exec (.hrel o) s = execHrel o s := rfl
@[simp] theorem exec_hinfo {o} {s : State} : exec (.hinfo o) s = execHinfo o s := rfl
@[simp] theorem exec_atom {o} {s : State} : exec (.atom o) s = execAtom o s := rfl
@[simp] theorem exec_cas {o} {s : State} : exec (.cas o) s = execCas o s := rfl
@[simp] theorem exec_xchg {o} {s : State} : exec (.xchg o) s = execXchg o s := rfl
@[simp] theorem exec_mark {o} {s : State} : exec (.mark o) s = execMark o s := rfl
@[simp] theorem exec_fenceAcq {o} {s : State} : exec (.fenceAcq o) s = execFenceAcq o s := rfl
@[simp] theorem exec_fenceRel {o} {s : State} : exec (.fenceRel o) s = execFenceRel o s := rfl
@[simp] theorem exec_fenceAr {o} {s : State} : exec (.fenceAr o) s = execFenceAr o s := rfl
@[simp] theorem exec_fenceWack {o} {s : State} : exec (.fenceWack o) s = execFenceWack o s := rfl
@[simp] theorem exec_wait {o} {s : State} : exec (.wait o) s = execWait o s := rfl
@[simp] theorem exec_qpub {o} {s : State} : exec (.qpub o) s = execQpub o s := rfl
@[simp] theorem exec_qpubOff {o} {s : State} : exec (.qpubOff o) s = execQpubOff o s := rfl
@[simp] theorem exec_bararr {o} {s : State} : exec (.bararr o) s = execBararr o s := rfl
@[simp] theorem exec_barexp {o} {s : State} : exec (.barexp o) s = execBarexp o s := rfl
@[simp] theorem exec_gather {o} {s : State} : exec (.gather o) s = execGather o s := rfl
@[simp] theorem exec_cinv {o} {s : State} : exec (.cinv o) s = execCinv o s := rfl
@[simp] theorem exec_cwb {o} {s : State} : exec (.cwb o) s = execCwb o s := rfl
@[simp] theorem exec_pref {o} {s : State} : exec (.pref o) s = execPref o s := rfl
@[simp] theorem exec_vadd {o} {s : State} : exec (.vadd o) s = execVadd o s := rfl
@[simp] theorem exec_vsub {o} {s : State} : exec (.vsub o) s = execVsub o s := rfl
@[simp] theorem exec_vmul {o} {s : State} : exec (.vmul o) s = execVmul o s := rfl
@[simp] theorem exec_vfma {o} {s : State} : exec (.vfma o) s = execVfma o s := rfl
@[simp] theorem exec_vmin {o} {s : State} : exec (.vmin o) s = execVmin o s := rfl
@[simp] theorem exec_vmax {o} {s : State} : exec (.vmax o) s = execVmax o s := rfl
@[simp] theorem exec_vabs {o} {s : State} : exec (.vabs o) s = execVabs o s := rfl
@[simp] theorem exec_vneg {o} {s : State} : exec (.vneg o) s = execVneg o s := rfl
@[simp] theorem exec_vdiv {o} {s : State} : exec (.vdiv o) s = execVdiv o s := rfl
@[simp] theorem exec_vsqrt {o} {s : State} : exec (.vsqrt o) s = execVsqrt o s := rfl
@[simp] theorem exec_vrsqrt {o} {s : State} : exec (.vrsqrt o) s = execVrsqrt o s := rfl
@[simp] theorem exec_vrcp {o} {s : State} : exec (.vrcp o) s = execVrcp o s := rfl
@[simp] theorem exec_vexp2 {o} {s : State} : exec (.vexp2 o) s = execVexp2 o s := rfl
@[simp] theorem exec_vlog2 {o} {s : State} : exec (.vlog2 o) s = execVlog2 o s := rfl
@[simp] theorem exec_vcvt {o} {s : State} : exec (.vcvt o) s = execVcvt o s := rfl
@[simp] theorem exec_vcmp {o} {s : State} : exec (.vcmp o) s = execVcmp o s := rfl
@[simp] theorem exec_vsel {o} {s : State} : exec (.vsel o) s = execVsel o s := rfl
@[simp] theorem exec_vand {o} {s : State} : exec (.vand o) s = execVand o s := rfl
@[simp] theorem exec_vor {o} {s : State} : exec (.vor o) s = execVor o s := rfl
@[simp] theorem exec_vxor {o} {s : State} : exec (.vxor o) s = execVxor o s := rfl
@[simp] theorem exec_vshl {o} {s : State} : exec (.vshl o) s = execVshl o s := rfl
@[simp] theorem exec_vshr {o} {s : State} : exec (.vshr o) s = execVshr o s := rfl
@[simp] theorem exec_viadd {o} {s : State} : exec (.viadd o) s = execViadd o s := rfl
@[simp] theorem exec_visub {o} {s : State} : exec (.visub o) s = execVisub o s := rfl
@[simp] theorem exec_vdot4 {o} {s : State} : exec (.vdot4 o) s = execVdot4 o s := rfl
@[simp] theorem exec_vred {o} {s : State} : exec (.vred o) s = execVred o s := rfl
@[simp] theorem exec_vscan {o} {s : State} : exec (.vscan o) s = execVscan o s := rfl
@[simp] theorem exec_vshuf {o} {s : State} : exec (.vshuf o) s = execVshuf o s := rfl
@[simp] theorem exec_vbcastG {o} {s : State} : exec (.vbcastG o) s = execVbcastG o s := rfl
@[simp] theorem exec_vbcastImm {o} {s : State} : exec (.vbcastImm o) s = execVbcastImm o s := rfl
@[simp] theorem exec_vbcastRow {o} {s : State} : exec (.vbcastRow o) s = execVbcastRow o s := rfl
@[simp] theorem exec_vbcastCol {o} {s : State} : exec (.vbcastCol o) s = execVbcastCol o s := rfl
@[simp] theorem exec_vtrans {o} {s : State} : exec (.vtrans o) s = execVtrans o s := rfl
@[simp] theorem exec_vmove {o} {s : State} : exec (.vmove o) s = execVmove o s := rfl
@[simp] theorem exec_vmoveTog {o} {s : State} : exec (.vmoveTog o) s = execVmoveTog o s := rfl
@[simp] theorem exec_vmoveFromg {o} {s : State} : exec (.vmoveFromg o) s = execVmoveFromg o s := rfl
@[simp] theorem exec_vshape {o} {s : State} : exec (.vshape o) s = execVshape o s := rfl
@[simp] theorem exec_vshapeRd {o} {s : State} : exec (.vshapeRd o) s = execVshapeRd o s := rfl
@[simp] theorem exec_kset {o} {s : State} : exec (.kset o) s = execKset o s := rfl
@[simp] theorem exec_kadd {o} {s : State} : exec (.kadd o) s = execKadd o s := rfl
@[simp] theorem exec_kmin {o} {s : State} : exec (.kmin o) s = execKmin o s := rfl
@[simp] theorem exec_vidx {o} {s : State} : exec (.vidx o) s = execVidx o s := rfl
@[simp] theorem exec_vrand {o} {s : State} : exec (.vrand o) s = execVrand o s := rfl
@[simp] theorem exec_trpack {o} {s : State} : exec (.trpack o) s = execTrpack o s := rfl
@[simp] theorem exec_trunpack {o} {s : State} : exec (.trunpack o) s = execTrunpack o s := rfl
@[simp] theorem exec_trsplit {o} {s : State} : exec (.trsplit o) s = execTrsplit o s := rfl
@[simp] theorem exec_sopset {o} {s : State} : exec (.sopset o) s = execSopset o s := rfl
@[simp] theorem exec_scanl {o} {s : State} : exec (.scanl o) s = execScanl o s := rfl
@[simp] theorem exec_scan {o} {s : State} : exec (.scan o) s = execScan o s := rfl
@[simp] theorem exec_sstep {o} {s : State} : exec (.sstep o) s = execSstep o s := rfl
@[simp] theorem exec_sld {o} {s : State} : exec (.sld o) s = execSld o s := rfl
@[simp] theorem exec_sst {o} {s : State} : exec (.sst o) s = execSst o s := rfl
@[simp] theorem exec_sbind {o} {s : State} : exec (.sbind o) s = execSbind o s := rfl
@[simp] theorem exec_sbindNew {o} {s : State} : exec (.sbindNew o) s = execSbindNew o s := rfl
@[simp] theorem exec_sspill {o} {s : State} : exec (.sspill o) s = execSspill o s := rfl
@[simp] theorem exec_sfill {o} {s : State} : exec (.sfill o) s = execSfill o s := rfl
@[simp] theorem exec_chsend {o} {s : State} : exec (.chsend o) s = execChsend o s := rfl
@[simp] theorem exec_chrecv {o} {s : State} : exec (.chrecv o) s = execChrecv o s := rfl
@[simp] theorem exec_kvopen {o} {s : State} : exec (.kvopen o) s = execKvopen o s := rfl
@[simp] theorem exec_kvclose {o} {s : State} : exec (.kvclose o) s = execKvclose o s := rfl
@[simp] theorem exec_kvfork {o} {s : State} : exec (.kvfork o) s = execKvfork o s := rfl
@[simp] theorem exec_kvappend {o} {s : State} : exec (.kvappend o) s = execKvappend o s := rfl
@[simp] theorem exec_kvevict {o} {s : State} : exec (.kvevict o) s = execKvevict o s := rfl
@[simp] theorem exec_kvcompact {o} {s : State} : exec (.kvcompact o) s = execKvcompact o s := rfl
@[simp] theorem exec_kvmap {o} {s : State} : exec (.kvmap o) s = execKvmap o s := rfl
@[simp] theorem exec_kvmapV {o} {s : State} : exec (.kvmapV o) s = execKvmapV o s := rfl
@[simp] theorem exec_kvdraft {o} {s : State} : exec (.kvdraft o) s = execKvdraft o s := rfl
@[simp] theorem exec_kvaccept {o} {s : State} : exec (.kvaccept o) s = execKvaccept o s := rfl
@[simp] theorem exec_kvreject {o} {s : State} : exec (.kvreject o) s = execKvreject o s := rfl
@[simp] theorem exec_kvprefixLook {o} {s : State} : exec (.kvprefixLook o) s = execKvprefixLook o s := rfl
@[simp] theorem exec_kvprefixIns {o} {s : State} : exec (.kvprefixIns o) s = execKvprefixIns o s := rfl
@[simp] theorem exec_qsend {o} {s : State} : exec (.qsend o) s = execQsend o s := rfl
@[simp] theorem exec_qsendReply {o} {s : State} : exec (.qsendReply o) s = execQsendReply o s := rfl
@[simp] theorem exec_adot {o} {s : State} : exec (.adot o) s = execAdot o s := rfl
@[simp] theorem exec_aacc {o} {s : State} : exec (.aacc o) s = execAacc o s := rfl
@[simp] theorem exec_mxldw {h b} {s : State} : exec (.mxldw h b) s = execMxldw h b s := rfl
@[simp] theorem exec_mxacc {h b} {s : State} : exec (.mxacc h b) s = execMxacc h b s := rfl
@[simp] theorem exec_mxdrain {h b} {s : State} : exec (.mxdrain h b) s = execMxdrain h b s := rfl
@[simp] theorem exec_mxzero {h mask} {s : State} : exec (.mxzero h mask) s = execMxzero h mask s := rfl
@[simp] theorem exec_mxperm {h b} {s : State} : exec (.mxperm h b) s = execMxperm h b s := rfl
@[simp] theorem exec_mxred {h b} {s : State} : exec (.mxred h b) s = execMxred h b s := rfl
@[simp] theorem exec_mxtrn {h b} {s : State} : exec (.mxtrn h b) s = execMxtrn h b s := rfl
@[simp] theorem exec_mxsave {h b} {s : State} : exec (.mxsave h b) s = execMxsave h b s := rfl
@[simp] theorem exec_mxrest {h b} {s : State} : exec (.mxrest h b) s = execMxrest h b s := rfl
@[simp] theorem exec_mxstamp {h b} {s : State} : exec (.mxstamp h b) s = execMxstamp h b s := rfl
@[simp] theorem exec_mxend {h} {s : State} : exec (.mxend h) s = execMxend h s := rfl
@[simp] theorem exec_cpy {h b} {s : State} : exec (.cpy h b) s = execCpy h b s := rfl
@[simp] theorem exec_cpyind {h b} {s : State} : exec (.cpyind h b) s = execCpyind h b s := rfl
@[simp] theorem exec_cpyfifo {h b} {s : State} : exec (.cpyfifo h b) s = execCpyfifo h b s := rfl
@[simp] theorem exec_cpynet {h b} {s : State} : exec (.cpynet h b) s = execCpynet h b s := rfl
@[simp] theorem exec_cpyfill {h b} {s : State} : exec (.cpyfill h b) s = execCpyfill h b s := rfl
@[simp] theorem exec_rcfence {h} {s : State} : exec (.rcfence h) s = execRcfence h s := rfl
@[simp] theorem exec_cpyend {h} {s : State} : exec (.cpyend h) s = execCpyend h s := rfl
@[simp] theorem exec_matrixIterationStart {c} {s : State} : exec (.matrixIterationStart c) s = execMatrixIterationStart c s := rfl
@[simp] theorem exec_tileRowLand {c} {s : State} : exec (.tileRowLand c) s = execTileRowLand c s := rfl
@[simp] theorem exec_recordComplete {c q n} {s : State} : exec (.recordComplete c q n) s = execRecordComplete c q n s := rfl
@[simp] theorem exec_deferredWrite {c n} {s : State} : exec (.deferredWrite c n) s = execDeferredWrite c n s := rfl
@[simp] theorem exec_streamUnblock {c st} {s : State} : exec (.streamUnblock c st) s = execStreamUnblock c st s := rfl
@[simp] theorem exec_waitReturn {c} {s : State} : exec (.waitReturn c) s = execWaitReturn c s := rfl
@[simp] theorem exec_waitTimeout {c} {s : State} : exec (.waitTimeout c) s = execWaitTimeout c s := rfl
@[simp] theorem exec_xlatCacheHitFill {c h} {s : State} : exec (.xlatCacheHitFill c h) s = execXlatCacheHitFill c h s := rfl
@[simp] theorem exec_translationWalkComplete {c h} {s : State} : exec (.translationWalkComplete c h) s = execTranslationWalkComplete c h s := rfl
@[simp] theorem exec_shootdownInvalidation {c tenant context vpage} {s : State} : exec (.shootdownInvalidation c tenant context vpage) s = execShootdownInvalidation c tenant context vpage s := rfl
@[simp] theorem exec_shootdownAck {c} {s : State} : exec (.shootdownAck c) s = execShootdownAck c s := rfl
@[simp] theorem exec_homeSliceRequest {n} {s : State} : exec (.homeSliceRequest n) s = execHomeSliceRequest n s := rfl
@[simp] theorem exec_backoffResend {n} {s : State} : exec (.backoffResend n) s = execBackoffResend n s := rfl
@[simp] theorem exec_derailleurMoveStart {die bucket target} {s : State} : exec (.derailleurMoveStart die bucket target) s = execDerailleurMoveStart die bucket target s := rfl
@[simp] theorem exec_derailleurHold {die} {s : State} : exec (.derailleurHold die) s = execDerailleurHold die s := rfl
@[simp] theorem exec_derailleurFlush {die} {s : State} : exec (.derailleurFlush die) s = execDerailleurFlush die s := rfl
@[simp] theorem exec_derailleurRelease {die} {s : State} : exec (.derailleurRelease die) s = execDerailleurRelease die s := rfl
@[simp] theorem exec_gatherLineReply {c q n} {s : State} : exec (.gatherLineReply c q n) s = execGatherLineReply c q n s := rfl
@[simp] theorem exec_copyElement {c q n} {s : State} : exec (.copyElement c q n) s = execCopyElement c q n s := rfl
@[simp] theorem exec_scanUnitStart {c} {s : State} : exec (.scanUnitStart c) s = execScanUnitStart c s := rfl
@[simp] theorem exec_scanComplete {c} {s : State} : exec (.scanComplete c) s = execScanComplete c s := rfl
@[simp] theorem exec_scanHubCombine {c} {s : State} : exec (.scanHubCombine c) s = execScanHubCombine c s := rfl
@[simp] theorem exec_pannierTransferComplete {c q n} {s : State} : exec (.pannierTransferComplete c q n) s = execPannierTransferComplete c q n s := rfl
@[simp] theorem exec_carryArrival {n} {s : State} : exec (.carryArrival n) s = execCarryArrival n s := rfl
@[simp] theorem exec_acceptancePacketArrival {n} {s : State} : exec (.acceptancePacketArrival n) s = execAcceptancePacketArrival n s := rfl
@[simp] theorem exec_chainPacket {link p} {s : State} : exec (.chainPacket link p) s = execChainPacket link p s := rfl
@[simp] theorem exec_kvopenAtSlice0 {die n} {s : State} : exec (.kvopenAtSlice0 die n) s = execKvopenAtSlice0 die n s := rfl
@[simp] theorem exec_kvOperationPerform {die n} {s : State} : exec (.kvOperationPerform die n) s = execKvOperationPerform die n s := rfl
@[simp] theorem exec_deadHandleBroadcast {core} {s : State} : exec (.deadHandleBroadcast core) s = execDeadHandleBroadcast core s := rfl
@[simp] theorem exec_tierMove {die pbid tier loc} {s : State} : exec (.tierMove die pbid tier loc) s = execTierMove die pbid tier loc s := rfl
@[simp] theorem exec_queryEntryEnqueue {die n} {s : State} : exec (.queryEntryEnqueue die n) s = execQueryEntryEnqueue die n s := rfl
@[simp] theorem exec_queryDelivery {die queue} {s : State} : exec (.queryDelivery die queue) s = execQueryDelivery die queue s := rfl
@[simp] theorem exec_queryReplyArrival {n} {s : State} : exec (.queryReplyArrival n) s = execQueryReplyArrival n s := rfl
@[simp] theorem exec_qpubForward {c q} {s : State} : exec (.qpubForward c q) s = execQpubForward c q s := rfl
@[simp] theorem exec_barrierHomeUpdate {n} {s : State} : exec (.barrierHomeUpdate n) s = execBarrierHomeUpdate n s := rfl
@[simp] theorem exec_barrierPhaseSignal {c} {s : State} : exec (.barrierPhaseSignal c) s = execBarrierPhaseSignal c s := rfl
@[simp] theorem exec_walkerStep {die} {s : State} : exec (.walkerStep die) s = execWalkerStep die s := rfl
@[simp] theorem exec_troupeReservation {die} {s : State} : exec (.troupeReservation die) s = execTroupeReservation die s := rfl
@[simp] theorem exec_reservationPreempt {die} {s : State} : exec (.reservationPreempt die) s = execReservationPreempt die s := rfl
@[simp] theorem exec_itemRetire {c} {s : State} : exec (.itemRetire c) s = execItemRetire c s := rfl
@[simp] theorem exec_launchCompletion {queue ordinal} {s : State} : exec (.launchCompletion queue ordinal) s = execLaunchCompletion queue ordinal s := rfl
@[simp] theorem exec_slotSwitch {core} {s : State} : exec (.slotSwitch core) s = execSlotSwitch core s := rfl
@[simp] theorem exec_blockedSwitchTrigger {core} {s : State} : exec (.blockedSwitchTrigger core) s = execBlockedSwitchTrigger core s := rfl
@[simp] theorem exec_prioritySwitchTrigger {core} {s : State} : exec (.prioritySwitchTrigger core) s = execPrioritySwitchTrigger core s := rfl
@[simp] theorem exec_timeSliceSwitchTrigger {core} {s : State} : exec (.timeSliceSwitchTrigger core) s = execTimeSliceSwitchTrigger core s := rfl
@[simp] theorem exec_asyncEventTake {c} {s : State} : exec (.asyncEventTake c) s = execAsyncEventTake c s := rfl
@[simp] theorem exec_heldCompletion {n} {s : State} : exec (.heldCompletion n) s = execHeldCompletion n s := rfl
@[simp] theorem exec_restore {n} {s : State} : exec (.restore n) s = execRestore n s := rfl
@[simp] theorem exec_contextLost {c section_} {s : State} : exec (.contextLost c section_) s = execContextLost c section_ s := rfl
@[simp] theorem exec_scrub {f} {s : State} : exec (.scrub f) s = execScrub f s := rfl
@[simp] theorem exec_framePut {f} {s : State} : exec (.framePut f) s = execFramePut f s := rfl
@[simp] theorem exec_frameGetreq {f} {s : State} : exec (.frameGetreq f) s = execFrameGetreq f s := rfl
@[simp] theorem exec_frameGetdata {f} {s : State} : exec (.frameGetdata f) s = execFrameGetdata f s := rfl
@[simp] theorem exec_frameAck {f} {s : State} : exec (.frameAck f) s = execFrameAck f s := rfl
@[simp] theorem exec_frameNak {f} {s : State} : exec (.frameNak f) s = execFrameNak f s := rfl
@[simp] theorem exec_frameLaunch {f} {s : State} : exec (.frameLaunch f) s = execFrameLaunch f s := rfl
@[simp] theorem exec_frameLresult {f} {s : State} : exec (.frameLresult f) s = execFrameLresult f s := rfl
@[simp] theorem exec_frameCancel {f} {s : State} : exec (.frameCancel f) s = execFrameCancel f s := rfl
@[simp] theorem exec_frameReport {f} {s : State} : exec (.frameReport f) s = execFrameReport f s := rfl
@[simp] theorem exec_frameRefuse {f} {s : State} : exec (.frameRefuse f) s = execFrameRefuse f s := rfl
@[simp] theorem exec_frameDamagedDrop {bytes fcsError} {s : State} : exec (.frameDamagedDrop bytes fcsError) s = execFrameDamagedDrop bytes fcsError s := rfl
@[simp] theorem exec_ackTimer {f} {s : State} : exec (.ackTimer f) s = execAckTimer f s := rfl
@[simp] theorem exec_retransmitTimeout {f} {s : State} : exec (.retransmitTimeout f) s = execRetransmitTimeout f s := rfl
@[simp] theorem exec_portDown {p} {s : State} : exec (.portDown p) s = execPortDown p s := rfl
@[simp] theorem exec_portRetrainComplete (s : State) : exec .portRetrainComplete s = execPortRetrainComplete s := rfl
@[simp] theorem exec_mgmtSetDevid {m dev} {s : State} : exec (.mgmtSetDevid m dev) s = execMgmtSetDevid m dev s := rfl
@[simp] theorem exec_mgmtWritePseed {m seed} {s : State} : exec (.mgmtWritePseed m seed) s = execMgmtWritePseed m seed s := rfl
@[simp] theorem exec_mgmtTenant {m tenant create weight} {s : State} : exec (.mgmtTenant m tenant create weight) s = execMgmtTenant m tenant create weight s := rfl
@[simp] theorem exec_mgmtAssignQueue {m queue tenant} {s : State} : exec (.mgmtAssignQueue m queue tenant) s = execMgmtAssignQueue m queue tenant s := rfl
@[simp] theorem exec_mgmtAccessTable {m target index entry} {s : State} : exec (.mgmtAccessTable m target index entry) s = execMgmtAccessTable m target index entry s := rfl
@[simp] theorem exec_mgmtCreateContext {m tenant context root saveAreas} {s : State} : exec (.mgmtCreateContext m tenant context root saveAreas) s = execMgmtCreateContext m tenant context root saveAreas s := rfl
@[simp] theorem exec_mgmtPageFaultAnswer {m tenant context vpage mapped} {s : State} : exec (.mgmtPageFaultAnswer m tenant context vpage mapped) s = execMgmtPageFaultAnswer m tenant context vpage mapped s := rfl
@[simp] theorem exec_mgmtPreempt {m queue ordinal kind} {s : State} : exec (.mgmtPreempt m queue ordinal kind) s = execMgmtPreempt m queue ordinal kind s := rfl
@[simp] theorem exec_mgmtLoadObject {m tenant context va dest len pa kind} {s : State} : exec (.mgmtLoadObject m tenant context va dest len pa kind) s = execMgmtLoadObject m tenant context va dest len pa kind s := rfl
@[simp] theorem exec_mgmtAttestation {m nonce tenant} {s : State} : exec (.mgmtAttestation m nonce tenant) s = execMgmtAttestation m nonce tenant s := rfl
@[simp] theorem exec_mgmtPowerCap {m watts} {s : State} : exec (.mgmtPowerCap m watts) s = execMgmtPowerCap m watts s := rfl
@[simp] theorem exec_mgmtPackageReset {m} {s : State} : exec (.mgmtPackageReset m) s = execMgmtPackageReset m s := rfl
@[simp] theorem exec_mgmtMapPages {m tenant context va entry} {s : State} : exec (.mgmtMapPages m tenant context va entry) s = execMgmtMapPages m tenant context va entry s := rfl
@[simp] theorem exec_mgmtMigrate {m tenant context va pa} {s : State} : exec (.mgmtMigrate m tenant context va pa) s = execMgmtMigrate m tenant context va pa s := rfl
@[simp] theorem exec_mgmtQueryQueue {m die queue tenant capacity} {s : State} : exec (.mgmtQueryQueue m die queue tenant capacity) s = execMgmtQueryQueue m die queue tenant capacity s := rfl
@[simp] theorem exec_mgmtLinkParameters {m port backoff retransmit vlan} {s : State} : exec (.mgmtLinkParameters m port backoff retransmit vlan) s = execMgmtLinkParameters m port backoff retransmit vlan s := rfl
@[simp] theorem exec_mgmtPinPartition {m ways} {s : State} : exec (.mgmtPinPartition m ways) s = execMgmtPinPartition m ways s := rfl
@[simp] theorem exec_mgmtSpillGrant {m grant} {s : State} : exec (.mgmtSpillGrant m grant) s = execMgmtSpillGrant m grant s := rfl
@[simp] theorem exec_mgmtSigningKeys {m tenant keyHash enrol quota} {s : State} : exec (.mgmtSigningKeys m tenant keyHash enrol quota) s = execMgmtSigningKeys m tenant keyHash enrol quota s := rfl
@[simp] theorem exec_flitReceive {link u} {s : State} : exec (.flitReceive link u) s = execFlitReceive link u s := rfl
@[simp] theorem exec_linkRetrain {link succeeds} {s : State} : exec (.linkRetrain link succeeds) s = execLinkRetrain link succeeds s := rfl
@[simp] theorem exec_powerUp {unit} {s : State} : exec (.powerUp unit) s = execPowerUp unit s := rfl
@[simp] theorem exec_bootHandshake {reply version image signature} {s : State} : exec (.bootHandshake reply version image signature) s = execBootHandshake reply version image signature s := rfl
@[simp] theorem exec_thermalWithhold {die celsius} {s : State} : exec (.thermalWithhold die celsius) s = execThermalWithhold die celsius s := rfl
@[simp] theorem exec_thermalPreempt {die celsius} {s : State} : exec (.thermalPreempt die celsius) s = execThermalPreempt die celsius s := rfl
@[simp] theorem exec_thermalTrip {celsius} {s : State} : exec (.thermalTrip celsius) s = execThermalTrip celsius s := rfl
@[simp] theorem exec_powerCapCheck {watts} {s : State} : exec (.powerCapCheck watts) s = execPowerCapCheck watts s := rfl
@[simp] theorem exec_retranslationHitRefill {c h} {s : State} : exec (.retranslationHitRefill c h) s = execRetranslationHitRefill c h s := rfl
@[simp] theorem exec_powerRemoval (s : State) : exec .powerRemoval s = execPowerRemoval s := rfl

end Sys2Proof.Machine
end

