-- ==== Sys2Proof/Laws/Sparse.lean ====
section
/-! SUPPORT. Laws of sparse data: reading after writing, and that every operation keeps the canonical form. -/

namespace Sys2Proof.Machine

variable {α : Type}

/-- The canonical form as a sorted list without default values. -/
theorem swf_iff [DecidableEq α] (d : α) (m : Sparse α) :
    swf d m = true ↔ m.Pairwise (fun p q => p.1 < q.1) ∧ ∀ p ∈ m, p.2 ≠ d := by
  induction m with
  | nil => simp [swf]
  | cons p m ih =>
    obtain ⟨k, v⟩ := p
    simp only [swf, Bool.and_eq_true, decide_eq_true_eq, List.all_eq_true, ih, List.pairwise_cons, List.mem_cons,
      forall_eq_or_imp]
    tauto

/-- Removing entries keeps the canonical form. -/
theorem swf_filter [DecidableEq α] (d : α) (m : Sparse α) (f : Nat × α → Bool) (h : swf d m = true) :
    swf d (m.filter f) = true := by
  rw [swf_iff] at *
  exact ⟨h.1.filter _, fun p hp => h.2 p (List.mem_filter.1 hp).1⟩

/-- Clearing a range keeps the canonical form. -/
theorem swf_sclear [DecidableEq α] (d : α) (m : Sparse α) (lo hi : Nat) (h : swf d m = true) :
    swf d (sclear m lo hi) = true := swf_filter d m _ h

theorem swf_sdel [DecidableEq α] (d : α) (m : Sparse α) (a : Nat) (h : swf d m = true) : swf d (sdel m a) = true :=
  swf_filter d m _ h

/-- Every entry of a put is the new one or an old one. -/
theorem mem_sput (m : Sparse α) (a : Nat) (x : α) {p : Nat × α} (h : p ∈ sput m a x) : p = (a, x) ∨ p ∈ m := by
  induction m with
  | nil => simpa [sput] using h
  | cons q m ih =>
    obtain ⟨k, v⟩ := q
    simp only [sput] at h
    split at h
    · rcases List.mem_cons.1 h with h | h
      · exact .inl h
      · exact .inr h
    · split at h
      · rcases List.mem_cons.1 h with h | h
        · exact .inl h
        · exact .inr (List.mem_cons_of_mem _ h)
      · rcases List.mem_cons.1 h with h | h
        · exact .inr (h ▸ List.mem_cons_self)
        · exact (ih h).imp id (List.mem_cons_of_mem _)

theorem swf_sput [DecidableEq α] (d : α) (m : Sparse α) (a : Nat) (x : α) (hx : x ≠ d) (h : swf d m = true) :
    swf d (sput m a x) = true := by
  induction m with
  | nil => simp [sput, swf, hx]
  | cons q m ih =>
    obtain ⟨k, v⟩ := q
    have h' := h
    simp only [swf, Bool.and_eq_true, List.all_eq_true, decide_eq_true_eq] at h
    simp only [sput]
    split
    · rename_i hak
      simp only [swf, Bool.and_eq_true, List.all_eq_true, decide_eq_true_eq, List.mem_cons, forall_eq_or_imp]
      exact ⟨⟨hx, hak, fun p hp => Nat.lt_trans hak (h.1.2 p hp)⟩, h⟩
    · split
      · rename_i _ e
        subst e
        simp only [swf, Bool.and_eq_true, List.all_eq_true, decide_eq_true_eq]
        exact ⟨⟨hx, h.1.2⟩, h.2⟩
      · simp only [swf, Bool.and_eq_true, List.all_eq_true, decide_eq_true_eq]
        refine ⟨⟨h.1.1, fun p hp => ?_⟩, ih h.2⟩
        rcases mem_sput m a x hp with rfl | hp
        · simp only; omega
        · exact h.1.2 p hp

/-- Writing a value keeps the canonical form. -/
theorem swf_sset [DecidableEq α] (d : α) (m : Sparse α) (a : Nat) (x : α) (h : swf d m = true) :
    swf d (sset d m a x) = true := by
  unfold sset
  split
  · exact swf_sdel d m a h
  · exact swf_sput d m a x ‹_› h

/-- The entries of a range are canonical and have keys in the range. -/
theorem swf_sentries [DecidableEq α] (d : α) (a : Nat) (xs : List α) :
    swf d (sentries d a xs) = true ∧ ∀ p ∈ sentries d a xs, a ≤ p.1 ∧ p.1 < a + xs.length := by
  induction xs generalizing a with
  | nil => simp [sentries, swf]
  | cons x xs ih =>
    have ⟨hw, hb⟩ := ih (a + 1)
    simp only [sentries]
    split
    · exact ⟨hw, fun p hp => by have := hb p hp; simp only [List.length_cons]; omega⟩
    · refine ⟨?_, fun p hp => ?_⟩
      · simp only [swf, Bool.and_eq_true, List.all_eq_true, decide_eq_true_eq]
        exact ⟨⟨‹_›, fun p hp => by have := hb p hp; omega⟩, hw⟩
      · rcases List.mem_cons.1 hp with rfl | hp
        · simp
        · have := hb p hp
          simp only [List.length_cons]; omega

/-- Writing a range keeps the canonical form. -/
theorem swf_ssetRange [DecidableEq α] (d : α) (m : Sparse α) (a : Nat) (xs : List α) (h : swf d m = true) :
    swf d (ssetRange d m a xs) = true := by
  have ⟨hw, hb⟩ := swf_sentries d a xs
  rw [swf_iff] at *
  unfold ssetRange
  refine ⟨List.pairwise_append.2 ⟨List.pairwise_append.2 ⟨h.1.filter _, hw.1, ?_⟩, h.1.filter _, ?_⟩, ?_⟩
  · intro p hp q hq
    have := (List.mem_filter.1 hp).2
    have := hb q hq
    simp only [decide_eq_true_eq] at *; omega
  · intro p hp q hq
    have hq := (List.mem_filter.1 hq).2
    rcases List.mem_append.1 hp with hp | hp
    · have := (List.mem_filter.1 hp).2
      simp only [decide_eq_true_eq] at *; omega
    · have := hb p hp
      simp only [decide_eq_true_eq] at *; omega
  · intro p hp
    rcases List.mem_append.1 hp with hp | hp
    · rcases List.mem_append.1 hp with hp | hp
      · exact h.2 p (List.mem_filter.1 hp).1
      · exact hw.2 p hp
    · exact h.2 p (List.mem_filter.1 hp).1

/-- Reading a key of a canonical map finds its entry. -/
theorem sget_of_mem (d : α) (m : Sparse α) (hs : m.Pairwise (fun p q => p.1 < q.1)) {a : Nat} {x : α} (h : (a, x) ∈ m) :
    sget d m a = x := by
  induction m with
  | nil => simp at h
  | cons q m ih =>
    obtain ⟨k, v⟩ := q
    rw [List.pairwise_cons] at hs
    rcases List.mem_cons.1 h with e | h
    · injection e with e1 e2; subst e1; subst e2; simp [sget]
    · have := hs.1 _ h
      have h2 : a ≠ k := by simp only at this; omega
      simp [sget, h2, ih hs.2 h]

/-- Reading a key without an entry gives the default. -/
theorem sget_of_not_mem (d : α) (m : Sparse α) {a : Nat} (h : ∀ p ∈ m, p.1 ≠ a) : sget d m a = d := by
  induction m with
  | nil => rfl
  | cons q m ih =>
    have h2 : a ≠ q.1 := fun e => h q List.mem_cons_self e.symm
    simp [sget, h2, ih (fun p hp => h p (List.mem_cons_of_mem _ hp))]

/-- Entries that a test of keys removes read as the default, and the others as before. -/
theorem sget_filter (d : α) (m : Sparse α) (f : Nat → Bool) (b : Nat) :
    sget d (m.filter (fun p => f p.1)) b = if f b then sget d m b else d := by
  induction m with
  | nil => simp [sget]
  | cons q m ih =>
    obtain ⟨k, v⟩ := q
    by_cases hk : f k = true
    · simp only [List.filter_cons, hk, if_true, sget, ih]
      by_cases hb : b = k
      · subst hb; simp [hk]
      · simp [hb]
    · simp only [List.filter_cons, hk, sget, Bool.false_eq_true, if_false]
      rw [ih]
      by_cases hb : b = k
      · subst hb; simp [hk]
      · simp [hb]

/-- Reading a key of two maps joined. -/
theorem sget_append_of_not_mem (d : α) (m n : Sparse α) (b : Nat) (h : ∀ p ∈ m, p.1 ≠ b) :
    sget d (m ++ n) b = sget d n b := by
  induction m with
  | nil => rfl
  | cons q m ih =>
    have h2 : b ≠ q.1 := fun e => h q List.mem_cons_self e.symm
    simp [sget, h2, ih (fun p hp => h p (List.mem_cons_of_mem _ hp))]

theorem sget_append_of_mem (d : α) (m n : Sparse α) (b : Nat) (h : ∃ p ∈ m, p.1 = b) :
    sget d (m ++ n) b = sget d m b := by
  induction m with
  | nil => simp at h
  | cons q m ih =>
    by_cases hb : b = q.1
    · simp [sget, hb]
    · obtain ⟨p, hp, e⟩ := h
      have hp : p ∈ m := by
        rcases List.mem_cons.1 hp with rfl | hp
        · exact absurd e.symm hb
        · exact hp
      simp [sget, hb, ih ⟨p, hp, e⟩]

/-- A map with no entry at a key on the right of another is as if it were not there. -/
theorem sget_append_not_right (d : α) (m n : Sparse α) (b : Nat) (h : ∀ p ∈ n, p.1 ≠ b) :
    sget d (m ++ n) b = sget d m b := by
  induction m with
  | nil => simpa [sget] using sget_of_not_mem d n h
  | cons q m ih => simp [sget, ih]

/-- Reading after a removal. -/
theorem sget_sdel (d : α) (m : Sparse α) (a b : Nat) : sget d (sdel m a) b = if b = a then d else sget d m b := by
  have := sget_filter d m (fun k => decide (k ≠ a)) b
  by_cases h : b = a
  · simp only [h] at this ⊢; simpa [sdel] using this
  · simpa [sdel, h] using this

/-- Reading after a put. -/
theorem sget_sput (d : α) (m : Sparse α) (a : Nat) (x : α) (b : Nat) :
    sget d (sput m a x) b = if b = a then x else sget d m b := by
  induction m with
  | nil => simp [sput, sget]
  | cons q m ih =>
    obtain ⟨k, v⟩ := q
    simp only [sput]
    by_cases h1 : a < k
    · simp only [h1, if_true, sget]
    · by_cases h2 : a = k
      · subst h2
        by_cases hb : b = a <;> simp [sget, hb]
      · simp only [h1, h2, if_false, sget, ih]
        by_cases hb : b = a
        · subst hb; simp [h2]
        · simp [hb]

/-- Reading after a write. -/
theorem sget_sset [DecidableEq α] (d : α) (m : Sparse α) (a : Nat) (x : α) (b : Nat) :
    sget d (sset d m a x) b = if b = a then x else sget d m b := by
  unfold sset
  split
  · rename_i e; subst e; exact sget_sdel x m a b
  · exact sget_sput d m a x b

/-- Reading after a range is cleared. -/
theorem sget_sclear (d : α) (m : Sparse α) (lo hi b : Nat) :
    sget d (sclear m lo hi) b = if lo ≤ b ∧ b < hi then d else sget d m b := by
  have := sget_filter d m (fun k => decide (k < lo) || decide (hi ≤ k)) b
  unfold sclear
  rw [show (fun p : Nat × α => decide (p.1 < lo) || decide (hi ≤ p.1)) = fun p => (fun k => decide (k < lo) || decide (hi ≤ k)) p.1
    from rfl, this]
  by_cases h : lo ≤ b ∧ b < hi
  · have h1 : ¬ b < lo := by omega
    have h2 : ¬ hi ≤ b := by omega
    simp [h, h1, h2]
  · by_cases h1 : b < lo
    · simp [h1, h]
    · have h2 : hi ≤ b := by omega
      simp [h1, h2, h]

/-- Reading the entries of a range. -/
theorem sget_sentries [DecidableEq α] (d : α) (a : Nat) (xs : List α) (b : Nat) :
    sget d (sentries d a xs) b = if a ≤ b ∧ b < a + xs.length then xs.getD (b - a) d else d := by
  induction xs generalizing a with
  | nil => have : ¬ (a ≤ b ∧ b < a) := by omega
           simp [sentries, sget, this]
  | cons x xs ih =>
    have step : (if a ≤ b ∧ b < a + (xs.length + 1) then (x :: xs).getD (b - a) d else d)
        = if b = a then x else sget d (sentries d (a + 1) xs) b := by
      rw [ih]
      by_cases hb : b = a
      · subst hb; simp
      · by_cases hr : a ≤ b ∧ b < a + (xs.length + 1)
        · have h2 : a + 1 ≤ b ∧ b < a + 1 + xs.length := by omega
          obtain ⟨k, hk⟩ : ∃ k, b - a = k + 1 := ⟨b - a - 1, by omega⟩
          have hk' : b - (a + 1) = k := by omega
          simp [hb, hr, h2, hk, hk']
        · have h2 : ¬ (a + 1 ≤ b ∧ b < a + 1 + xs.length) := by omega
          rw [if_neg hr, if_neg hb, if_neg h2]
    simp only [List.length_cons, step, sentries]
    split
    · rename_i e
      split
      · rename_i e2; subst e2; subst e
        exact sget_of_not_mem x _ (fun p hp => by have := (swf_sentries x (b + 1) xs).2 p hp; omega)
      · rfl
    · simp [sget]

/-- Reading after a range is written. -/
theorem sget_ssetRange [DecidableEq α] (d : α) (m : Sparse α) (a : Nat) (xs : List α) (b : Nat) :
    sget d (ssetRange d m a xs) b = if a ≤ b ∧ b < a + xs.length then xs.getD (b - a) d else sget d m b := by
  have hb := (swf_sentries d a xs).2
  have hl := sget_filter d m (fun k => decide (k < a)) b
  have hr := sget_filter d m (fun k => decide (a + xs.length ≤ k)) b
  have key (p : Nat × α) (h : p ∈ m.filter (fun p => decide (p.1 < a))) : p.1 < a := by
    simpa using (List.mem_filter.1 h).2
  have key2 (p : Nat × α) (h : p ∈ m.filter (fun p => decide (a + xs.length ≤ p.1))) : a + xs.length ≤ p.1 := by
    simpa using (List.mem_filter.1 h).2
  unfold ssetRange
  by_cases h1 : b < a
  · have h2 : ¬ (a ≤ b ∧ b < a + xs.length) := by omega
    rw [sget_append_not_right _ _ _ _ (fun p hp => by have := key2 p hp; omega),
      sget_append_not_right _ _ _ _ (fun p hp => by have := hb p hp; omega), if_neg h2]
    simpa [h1] using hl
  · rw [List.append_assoc, sget_append_of_not_mem _ _ _ _ (fun p hp => by have := key p hp; omega)]
    by_cases h2 : b < a + xs.length
    · rw [sget_append_not_right _ _ _ _ (fun p hp => by have := key2 p hp; omega), sget_sentries]
      have : a ≤ b ∧ b < a + xs.length := by omega
      simp [this]
    · rw [sget_append_of_not_mem _ _ _ _ (fun p hp => by have := hb p hp; omega)]
      have h3 : ¬ (a ≤ b ∧ b < a + xs.length) := by omega
      have h4 : a + xs.length ≤ b := by omega
      rw [if_neg h3]
      simpa [h4] using hr

/-- The dense values of a rising map are its values at each key. -/
theorem sdense_eq (d : α) (n a : Nat) (e : Sparse α) (hs : srising e = true) (ha : ∀ p ∈ e, a ≤ p.1) :
    sdense d n a e = (List.range n).map (fun i => sget d e (a + i)) := by
  induction n generalizing a e with
  | zero => cases e <;> simp [sdense]
  | succ n ih =>
    have shift : (fun i => sget d e (a + 1 + i)) = (fun i => sget d e (a + i)) ∘ Nat.succ := by
      funext i; simp only [Function.comp]; congr 1; omega
    cases e with
    | nil =>
      rw [sdense, ih (a + 1) [] rfl (by simp), List.range_succ_eq_map, List.map_cons, List.map_map, shift]
      simp [sget]
    | cons q m =>
      obtain ⟨k, v⟩ := q
      have tail : srising m = true := by cases m <;> simp_all [srising]
      have low : ∀ p ∈ m, k < p.1 := by
        clear ih shift ha
        induction m generalizing k v with
        | nil => simp
        | cons r m ih2 =>
          obtain ⟨l, w⟩ := r
          simp only [srising, Bool.and_eq_true, decide_eq_true_eq] at hs
          intro p hp
          rcases List.mem_cons.1 hp with rfl | hp
          · exact hs.1
          · have t2 : srising m = true := hs.2.2
            have := ih2 l w (by simp only [srising, Bool.and_eq_true]; exact hs.2) t2 p hp
            omega
      have hk : a ≤ k := ha (k, v) List.mem_cons_self
      rw [sdense, List.range_succ_eq_map, List.map_cons, List.map_map, ← shift]
      by_cases e : k = a
      · subst e
        rw [if_pos rfl, ih (k + 1) m tail (fun p hp => low p hp)]
        simp only [sget, Nat.add_zero, if_true, List.cons.injEq, true_and]
        apply List.map_congr_left
        intro i _
        have : k + 1 + i ≠ k := by omega
        simp [this]
      · have hlt : ∀ p ∈ (k, v) :: m, a + 1 ≤ p.1 := by
          intro p hp
          rcases List.mem_cons.1 hp with rfl | hp
          · simp only; omega
          · have := low p hp; omega
        rw [if_neg e, ih (a + 1) ((k, v) :: m) hs hlt]
        have h0 : sget d ((k, v) :: m) (a + 0) = d :=
          sget_of_not_mem d _ (fun p hp => by have := hlt p hp; omega)
        rw [h0]

/-- The values at successive keys are the values at each of them. -/
theorem sgetRange_eq (d : α) (m : Sparse α) (a n : Nat) :
    sgetRange d m a n = (List.range n).map (fun i => sget d m (a + i)) := by
  have inRange : ∀ i, i < n → sget d (m.filter (fun p => decide (a ≤ p.1) && decide (p.1 < a + n))) (a + i) = sget d m (a + i) := by
    intro i hi
    have := sget_filter d m (fun k => decide (a ≤ k) && decide (k < a + n)) (a + i)
    simpa [hi] using this
  have same : (List.range n).map (fun i => sget d (m.filter (fun p => decide (a ≤ p.1) && decide (p.1 < a + n))) (a + i))
      = (List.range n).map (fun i => sget d m (a + i)) :=
    List.map_congr_left (fun i hi => inRange i (List.mem_range.1 hi))
  unfold sgetRange
  simp only
  split
  · rename_i h
    rw [sdense_eq d n a _ h (fun p hp => by simpa using (by simpa using (List.mem_filter.1 hp).2 : a ≤ p.1 ∧ p.1 < a + n).1), same]
  · exact same

end Sys2Proof.Machine
end

