-- ==== Sys2Proof/Laws/State.lean ====
section
/-! SUPPORT. One lemma per field per update: which fields of the state and of a slot each named update leaves unchanged. -/

namespace Sys2Proof.Machine

/-! ## Updates of the current slot -/

@[simp] theorem onCur_rest (s : State) (f : Slot → Slot) : (onCur s f).rest = s.rest := rfl
@[simp] theorem onCur_agenda (s : State) (f : Slot → Slot) : (onCur s f).agenda = s.agenda := rfl
@[simp] theorem onCur_cycle (s : State) (f : Slot → Slot) : (onCur s f).cycle = s.cycle := rfl
@[simp] theorem onCur_stage (s : State) (f : Slot → Slot) : (onCur s f).stage = s.stage := rfl
@[simp] theorem onCur_mem (s : State) (f : Slot → Slot) : (onCur s f).mem = s.mem := rfl
@[simp] theorem onCur_poison (s : State) (f : Slot → Slot) : (onCur s f).poison = s.poison := rfl
@[simp] theorem onCur_lines (s : State) (f : Slot → Slot) : (onCur s f).lines = s.lines := rfl
@[simp] theorem onCur_detWords (s : State) (f : Slot → Slot) : (onCur s f).detWords = s.detWords := rfl
@[simp] theorem onCur_counters (s : State) (f : Slot → Slot) : (onCur s f).counters = s.counters := rfl
@[simp] theorem onCur_table (s : State) (f : Slot → Slot) : (onCur s f).table = s.table := rfl
@[simp] theorem onCur_classPages (s : State) (f : Slot → Slot) : (onCur s f).classPages = s.classPages := rfl
@[simp] theorem onCur_pinWays (s : State) (f : Slot → Slot) : (onCur s f).pinWays = s.pinWays := rfl
@[simp] theorem onCur_moves (s : State) (f : Slot → Slot) : (onCur s f).moves = s.moves := rfl
@[simp] theorem onCur_lastMove (s : State) (f : Slot → Slot) : (onCur s f).lastMove = s.lastMove := rfl
@[simp] theorem onCur_requests (s : State) (f : Slot → Slot) : (onCur s f).requests = s.requests := rfl
@[simp] theorem onCur_intake (s : State) (f : Slot → Slot) : (onCur s f).intake = s.intake := rfl
@[simp] theorem onCur_sourceNums (s : State) (f : Slot → Slot) : (onCur s f).sourceNums = s.sourceNums := rfl
@[simp] theorem onCur_barriers (s : State) (f : Slot → Slot) : (onCur s f).barriers = s.barriers := rfl
@[simp] theorem onCur_l1 (s : State) (f : Slot → Slot) : (onCur s f).l1 = s.l1 := rfl
@[simp] theorem onCur_fused (s : State) (f : Slot → Slot) : (onCur s f).fused = s.fused := rfl
@[simp] theorem onCur_cores (s : State) (f : Slot → Slot) : (onCur s f).cores = s.cores := rfl
@[simp] theorem onCur_access (s : State) (f : Slot → Slot) : (onCur s f).access = s.access := rfl
@[simp] theorem onCur_accessWas (s : State) (f : Slot → Slot) : (onCur s f).accessWas = s.accessWas := rfl
@[simp] theorem onCur_contexts (s : State) (f : Slot → Slot) : (onCur s f).contexts = s.contexts := rfl
@[simp] theorem onCur_tenants (s : State) (f : Slot → Slot) : (onCur s f).tenants = s.tenants := rfl
@[simp] theorem onCur_queues (s : State) (f : Slot → Slot) : (onCur s f).queues = s.queues := rfl
@[simp] theorem onCur_walkers (s : State) (f : Slot → Slot) : (onCur s f).walkers = s.walkers := rfl
@[simp] theorem onCur_kv (s : State) (f : Slot → Slot) : (onCur s f).kv = s.kv := rfl
@[simp] theorem onCur_carries (s : State) (f : Slot → Slot) : (onCur s f).carries = s.carries := rfl
@[simp] theorem onCur_acceptances (s : State) (f : Slot → Slot) : (onCur s f).acceptances = s.acceptances := rfl
@[simp] theorem onCur_replies (s : State) (f : Slot → Slot) : (onCur s f).replies = s.replies := rfl
@[simp] theorem onCur_broadcasts (s : State) (f : Slot → Slot) : (onCur s f).broadcasts = s.broadcasts := rfl
@[simp] theorem onCur_saved (s : State) (f : Slot → Slot) : (onCur s f).saved = s.saved := rfl
@[simp] theorem onCur_shootdowns (s : State) (f : Slot → Slot) : (onCur s f).shootdowns = s.shootdowns := rfl
@[simp] theorem onCur_saveSerial (s : State) (f : Slot → Slot) : (onCur s f).saveSerial = s.saveSerial := rfl
@[simp] theorem onCur_pageFaults (s : State) (f : Slot → Slot) : (onCur s f).pageFaults = s.pageFaults := rfl
@[simp] theorem onCur_pseed (s : State) (f : Slot → Slot) : (onCur s f).pseed = s.pseed := rfl
@[simp] theorem onCur_pseedWas (s : State) (f : Slot → Slot) : (onCur s f).pseedWas = s.pseedWas := rfl
@[simp] theorem onCur_devid (s : State) (f : Slot → Slot) : (onCur s f).devid = s.devid := rfl
@[simp] theorem onCur_port (s : State) (f : Slot → Slot) : (onCur s f).port = s.port := rfl
@[simp] theorem onCur_chains (s : State) (f : Slot → Slot) : (onCur s f).chains = s.chains := rfl
@[simp] theorem onCur_ringDown (s : State) (f : Slot → Slot) : (onCur s f).ringDown = s.ringDown := rfl
@[simp] theorem onCur_ucie (s : State) (f : Slot → Slot) : (onCur s f).ucie = s.ucie := rfl
@[simp] theorem onCur_translator (s : State) (f : Slot → Slot) : (onCur s f).translator = s.translator := rfl
@[simp] theorem onCur_mgmt (s : State) (f : Slot → Slot) : (onCur s f).mgmt = s.mgmt := rfl
@[simp] theorem onCur_errors (s : State) (f : Slot → Slot) : (onCur s f).errors = s.errors := rfl
@[simp] theorem onCur_draws (s : State) (f : Slot → Slot) : (onCur s f).draws = s.draws := rfl

@[simp] theorem jump_rest (s : State) (pc : Word) : (jump s pc).rest = s.rest := rfl
@[simp] theorem jump_agenda (s : State) (pc : Word) : (jump s pc).agenda = s.agenda := rfl
@[simp] theorem jump_cycle (s : State) (pc : Word) : (jump s pc).cycle = s.cycle := rfl
@[simp] theorem jump_stage (s : State) (pc : Word) : (jump s pc).stage = s.stage := rfl
@[simp] theorem jump_mem (s : State) (pc : Word) : (jump s pc).mem = s.mem := rfl
@[simp] theorem jump_poison (s : State) (pc : Word) : (jump s pc).poison = s.poison := rfl
@[simp] theorem jump_lines (s : State) (pc : Word) : (jump s pc).lines = s.lines := rfl
@[simp] theorem jump_detWords (s : State) (pc : Word) : (jump s pc).detWords = s.detWords := rfl
@[simp] theorem jump_counters (s : State) (pc : Word) : (jump s pc).counters = s.counters := rfl
@[simp] theorem jump_table (s : State) (pc : Word) : (jump s pc).table = s.table := rfl
@[simp] theorem jump_classPages (s : State) (pc : Word) : (jump s pc).classPages = s.classPages := rfl
@[simp] theorem jump_pinWays (s : State) (pc : Word) : (jump s pc).pinWays = s.pinWays := rfl
@[simp] theorem jump_moves (s : State) (pc : Word) : (jump s pc).moves = s.moves := rfl
@[simp] theorem jump_lastMove (s : State) (pc : Word) : (jump s pc).lastMove = s.lastMove := rfl
@[simp] theorem jump_requests (s : State) (pc : Word) : (jump s pc).requests = s.requests := rfl
@[simp] theorem jump_intake (s : State) (pc : Word) : (jump s pc).intake = s.intake := rfl
@[simp] theorem jump_sourceNums (s : State) (pc : Word) : (jump s pc).sourceNums = s.sourceNums := rfl
@[simp] theorem jump_barriers (s : State) (pc : Word) : (jump s pc).barriers = s.barriers := rfl
@[simp] theorem jump_l1 (s : State) (pc : Word) : (jump s pc).l1 = s.l1 := rfl
@[simp] theorem jump_fused (s : State) (pc : Word) : (jump s pc).fused = s.fused := rfl
@[simp] theorem jump_cores (s : State) (pc : Word) : (jump s pc).cores = s.cores := rfl
@[simp] theorem jump_access (s : State) (pc : Word) : (jump s pc).access = s.access := rfl
@[simp] theorem jump_accessWas (s : State) (pc : Word) : (jump s pc).accessWas = s.accessWas := rfl
@[simp] theorem jump_contexts (s : State) (pc : Word) : (jump s pc).contexts = s.contexts := rfl
@[simp] theorem jump_tenants (s : State) (pc : Word) : (jump s pc).tenants = s.tenants := rfl
@[simp] theorem jump_queues (s : State) (pc : Word) : (jump s pc).queues = s.queues := rfl
@[simp] theorem jump_walkers (s : State) (pc : Word) : (jump s pc).walkers = s.walkers := rfl
@[simp] theorem jump_kv (s : State) (pc : Word) : (jump s pc).kv = s.kv := rfl
@[simp] theorem jump_carries (s : State) (pc : Word) : (jump s pc).carries = s.carries := rfl
@[simp] theorem jump_acceptances (s : State) (pc : Word) : (jump s pc).acceptances = s.acceptances := rfl
@[simp] theorem jump_replies (s : State) (pc : Word) : (jump s pc).replies = s.replies := rfl
@[simp] theorem jump_broadcasts (s : State) (pc : Word) : (jump s pc).broadcasts = s.broadcasts := rfl
@[simp] theorem jump_saved (s : State) (pc : Word) : (jump s pc).saved = s.saved := rfl
@[simp] theorem jump_shootdowns (s : State) (pc : Word) : (jump s pc).shootdowns = s.shootdowns := rfl
@[simp] theorem jump_saveSerial (s : State) (pc : Word) : (jump s pc).saveSerial = s.saveSerial := rfl
@[simp] theorem jump_pageFaults (s : State) (pc : Word) : (jump s pc).pageFaults = s.pageFaults := rfl
@[simp] theorem jump_pseed (s : State) (pc : Word) : (jump s pc).pseed = s.pseed := rfl
@[simp] theorem jump_pseedWas (s : State) (pc : Word) : (jump s pc).pseedWas = s.pseedWas := rfl
@[simp] theorem jump_devid (s : State) (pc : Word) : (jump s pc).devid = s.devid := rfl
@[simp] theorem jump_port (s : State) (pc : Word) : (jump s pc).port = s.port := rfl
@[simp] theorem jump_chains (s : State) (pc : Word) : (jump s pc).chains = s.chains := rfl
@[simp] theorem jump_ringDown (s : State) (pc : Word) : (jump s pc).ringDown = s.ringDown := rfl
@[simp] theorem jump_ucie (s : State) (pc : Word) : (jump s pc).ucie = s.ucie := rfl
@[simp] theorem jump_translator (s : State) (pc : Word) : (jump s pc).translator = s.translator := rfl
@[simp] theorem jump_mgmt (s : State) (pc : Word) : (jump s pc).mgmt = s.mgmt := rfl
@[simp] theorem jump_errors (s : State) (pc : Word) : (jump s pc).errors = s.errors := rfl
@[simp] theorem jump_draws (s : State) (pc : Word) : (jump s pc).draws = s.draws := rfl

@[simp] theorem advance_rest (s : State) (o : Opnd) : (advance s o).rest = s.rest := rfl
@[simp] theorem advance_agenda (s : State) (o : Opnd) : (advance s o).agenda = s.agenda := rfl
@[simp] theorem advance_cycle (s : State) (o : Opnd) : (advance s o).cycle = s.cycle := rfl
@[simp] theorem advance_stage (s : State) (o : Opnd) : (advance s o).stage = s.stage := rfl
@[simp] theorem advance_mem (s : State) (o : Opnd) : (advance s o).mem = s.mem := rfl
@[simp] theorem advance_poison (s : State) (o : Opnd) : (advance s o).poison = s.poison := rfl
@[simp] theorem advance_lines (s : State) (o : Opnd) : (advance s o).lines = s.lines := rfl
@[simp] theorem advance_detWords (s : State) (o : Opnd) : (advance s o).detWords = s.detWords := rfl
@[simp] theorem advance_counters (s : State) (o : Opnd) : (advance s o).counters = s.counters := rfl
@[simp] theorem advance_table (s : State) (o : Opnd) : (advance s o).table = s.table := rfl
@[simp] theorem advance_classPages (s : State) (o : Opnd) : (advance s o).classPages = s.classPages := rfl
@[simp] theorem advance_pinWays (s : State) (o : Opnd) : (advance s o).pinWays = s.pinWays := rfl
@[simp] theorem advance_moves (s : State) (o : Opnd) : (advance s o).moves = s.moves := rfl
@[simp] theorem advance_lastMove (s : State) (o : Opnd) : (advance s o).lastMove = s.lastMove := rfl
@[simp] theorem advance_requests (s : State) (o : Opnd) : (advance s o).requests = s.requests := rfl
@[simp] theorem advance_intake (s : State) (o : Opnd) : (advance s o).intake = s.intake := rfl
@[simp] theorem advance_sourceNums (s : State) (o : Opnd) : (advance s o).sourceNums = s.sourceNums := rfl
@[simp] theorem advance_barriers (s : State) (o : Opnd) : (advance s o).barriers = s.barriers := rfl
@[simp] theorem advance_l1 (s : State) (o : Opnd) : (advance s o).l1 = s.l1 := rfl
@[simp] theorem advance_fused (s : State) (o : Opnd) : (advance s o).fused = s.fused := rfl
@[simp] theorem advance_cores (s : State) (o : Opnd) : (advance s o).cores = s.cores := rfl
@[simp] theorem advance_access (s : State) (o : Opnd) : (advance s o).access = s.access := rfl
@[simp] theorem advance_accessWas (s : State) (o : Opnd) : (advance s o).accessWas = s.accessWas := rfl
@[simp] theorem advance_contexts (s : State) (o : Opnd) : (advance s o).contexts = s.contexts := rfl
@[simp] theorem advance_tenants (s : State) (o : Opnd) : (advance s o).tenants = s.tenants := rfl
@[simp] theorem advance_queues (s : State) (o : Opnd) : (advance s o).queues = s.queues := rfl
@[simp] theorem advance_walkers (s : State) (o : Opnd) : (advance s o).walkers = s.walkers := rfl
@[simp] theorem advance_kv (s : State) (o : Opnd) : (advance s o).kv = s.kv := rfl
@[simp] theorem advance_carries (s : State) (o : Opnd) : (advance s o).carries = s.carries := rfl
@[simp] theorem advance_acceptances (s : State) (o : Opnd) : (advance s o).acceptances = s.acceptances := rfl
@[simp] theorem advance_replies (s : State) (o : Opnd) : (advance s o).replies = s.replies := rfl
@[simp] theorem advance_broadcasts (s : State) (o : Opnd) : (advance s o).broadcasts = s.broadcasts := rfl
@[simp] theorem advance_saved (s : State) (o : Opnd) : (advance s o).saved = s.saved := rfl
@[simp] theorem advance_shootdowns (s : State) (o : Opnd) : (advance s o).shootdowns = s.shootdowns := rfl
@[simp] theorem advance_saveSerial (s : State) (o : Opnd) : (advance s o).saveSerial = s.saveSerial := rfl
@[simp] theorem advance_pageFaults (s : State) (o : Opnd) : (advance s o).pageFaults = s.pageFaults := rfl
@[simp] theorem advance_pseed (s : State) (o : Opnd) : (advance s o).pseed = s.pseed := rfl
@[simp] theorem advance_pseedWas (s : State) (o : Opnd) : (advance s o).pseedWas = s.pseedWas := rfl
@[simp] theorem advance_devid (s : State) (o : Opnd) : (advance s o).devid = s.devid := rfl
@[simp] theorem advance_port (s : State) (o : Opnd) : (advance s o).port = s.port := rfl
@[simp] theorem advance_chains (s : State) (o : Opnd) : (advance s o).chains = s.chains := rfl
@[simp] theorem advance_ringDown (s : State) (o : Opnd) : (advance s o).ringDown = s.ringDown := rfl
@[simp] theorem advance_ucie (s : State) (o : Opnd) : (advance s o).ucie = s.ucie := rfl
@[simp] theorem advance_translator (s : State) (o : Opnd) : (advance s o).translator = s.translator := rfl
@[simp] theorem advance_mgmt (s : State) (o : Opnd) : (advance s o).mgmt = s.mgmt := rfl
@[simp] theorem advance_errors (s : State) (o : Opnd) : (advance s o).errors = s.errors := rfl
@[simp] theorem advance_draws (s : State) (o : Opnd) : (advance s o).draws = s.draws := rfl

@[simp] theorem blockCtl_rest (s : State) (x : Obj) : (blockCtl s x).rest = s.rest := rfl
@[simp] theorem blockCtl_agenda (s : State) (x : Obj) : (blockCtl s x).agenda = s.agenda := rfl
@[simp] theorem blockCtl_cycle (s : State) (x : Obj) : (blockCtl s x).cycle = s.cycle := rfl
@[simp] theorem blockCtl_stage (s : State) (x : Obj) : (blockCtl s x).stage = s.stage := rfl
@[simp] theorem blockCtl_mem (s : State) (x : Obj) : (blockCtl s x).mem = s.mem := rfl
@[simp] theorem blockCtl_poison (s : State) (x : Obj) : (blockCtl s x).poison = s.poison := rfl
@[simp] theorem blockCtl_lines (s : State) (x : Obj) : (blockCtl s x).lines = s.lines := rfl
@[simp] theorem blockCtl_detWords (s : State) (x : Obj) : (blockCtl s x).detWords = s.detWords := rfl
@[simp] theorem blockCtl_counters (s : State) (x : Obj) : (blockCtl s x).counters = s.counters := rfl
@[simp] theorem blockCtl_table (s : State) (x : Obj) : (blockCtl s x).table = s.table := rfl
@[simp] theorem blockCtl_classPages (s : State) (x : Obj) : (blockCtl s x).classPages = s.classPages := rfl
@[simp] theorem blockCtl_pinWays (s : State) (x : Obj) : (blockCtl s x).pinWays = s.pinWays := rfl
@[simp] theorem blockCtl_moves (s : State) (x : Obj) : (blockCtl s x).moves = s.moves := rfl
@[simp] theorem blockCtl_lastMove (s : State) (x : Obj) : (blockCtl s x).lastMove = s.lastMove := rfl
@[simp] theorem blockCtl_requests (s : State) (x : Obj) : (blockCtl s x).requests = s.requests := rfl
@[simp] theorem blockCtl_intake (s : State) (x : Obj) : (blockCtl s x).intake = s.intake := rfl
@[simp] theorem blockCtl_sourceNums (s : State) (x : Obj) : (blockCtl s x).sourceNums = s.sourceNums := rfl
@[simp] theorem blockCtl_barriers (s : State) (x : Obj) : (blockCtl s x).barriers = s.barriers := rfl
@[simp] theorem blockCtl_l1 (s : State) (x : Obj) : (blockCtl s x).l1 = s.l1 := rfl
@[simp] theorem blockCtl_fused (s : State) (x : Obj) : (blockCtl s x).fused = s.fused := rfl
@[simp] theorem blockCtl_cores (s : State) (x : Obj) : (blockCtl s x).cores = s.cores := rfl
@[simp] theorem blockCtl_access (s : State) (x : Obj) : (blockCtl s x).access = s.access := rfl
@[simp] theorem blockCtl_accessWas (s : State) (x : Obj) : (blockCtl s x).accessWas = s.accessWas := rfl
@[simp] theorem blockCtl_contexts (s : State) (x : Obj) : (blockCtl s x).contexts = s.contexts := rfl
@[simp] theorem blockCtl_tenants (s : State) (x : Obj) : (blockCtl s x).tenants = s.tenants := rfl
@[simp] theorem blockCtl_queues (s : State) (x : Obj) : (blockCtl s x).queues = s.queues := rfl
@[simp] theorem blockCtl_walkers (s : State) (x : Obj) : (blockCtl s x).walkers = s.walkers := rfl
@[simp] theorem blockCtl_kv (s : State) (x : Obj) : (blockCtl s x).kv = s.kv := rfl
@[simp] theorem blockCtl_carries (s : State) (x : Obj) : (blockCtl s x).carries = s.carries := rfl
@[simp] theorem blockCtl_acceptances (s : State) (x : Obj) : (blockCtl s x).acceptances = s.acceptances := rfl
@[simp] theorem blockCtl_replies (s : State) (x : Obj) : (blockCtl s x).replies = s.replies := rfl
@[simp] theorem blockCtl_broadcasts (s : State) (x : Obj) : (blockCtl s x).broadcasts = s.broadcasts := rfl
@[simp] theorem blockCtl_saved (s : State) (x : Obj) : (blockCtl s x).saved = s.saved := rfl
@[simp] theorem blockCtl_shootdowns (s : State) (x : Obj) : (blockCtl s x).shootdowns = s.shootdowns := rfl
@[simp] theorem blockCtl_saveSerial (s : State) (x : Obj) : (blockCtl s x).saveSerial = s.saveSerial := rfl
@[simp] theorem blockCtl_pageFaults (s : State) (x : Obj) : (blockCtl s x).pageFaults = s.pageFaults := rfl
@[simp] theorem blockCtl_pseed (s : State) (x : Obj) : (blockCtl s x).pseed = s.pseed := rfl
@[simp] theorem blockCtl_pseedWas (s : State) (x : Obj) : (blockCtl s x).pseedWas = s.pseedWas := rfl
@[simp] theorem blockCtl_devid (s : State) (x : Obj) : (blockCtl s x).devid = s.devid := rfl
@[simp] theorem blockCtl_port (s : State) (x : Obj) : (blockCtl s x).port = s.port := rfl
@[simp] theorem blockCtl_chains (s : State) (x : Obj) : (blockCtl s x).chains = s.chains := rfl
@[simp] theorem blockCtl_ringDown (s : State) (x : Obj) : (blockCtl s x).ringDown = s.ringDown := rfl
@[simp] theorem blockCtl_ucie (s : State) (x : Obj) : (blockCtl s x).ucie = s.ucie := rfl
@[simp] theorem blockCtl_translator (s : State) (x : Obj) : (blockCtl s x).translator = s.translator := rfl
@[simp] theorem blockCtl_mgmt (s : State) (x : Obj) : (blockCtl s x).mgmt = s.mgmt := rfl
@[simp] theorem blockCtl_errors (s : State) (x : Obj) : (blockCtl s x).errors = s.errors := rfl
@[simp] theorem blockCtl_draws (s : State) (x : Obj) : (blockCtl s x).draws = s.draws := rfl

@[simp] theorem holdCtl_rest (s : State) : (holdCtl s).rest = s.rest := rfl
@[simp] theorem holdCtl_agenda (s : State) : (holdCtl s).agenda = s.agenda := rfl
@[simp] theorem holdCtl_cycle (s : State) : (holdCtl s).cycle = s.cycle := rfl
@[simp] theorem holdCtl_stage (s : State) : (holdCtl s).stage = s.stage := rfl
@[simp] theorem holdCtl_mem (s : State) : (holdCtl s).mem = s.mem := rfl
@[simp] theorem holdCtl_poison (s : State) : (holdCtl s).poison = s.poison := rfl
@[simp] theorem holdCtl_lines (s : State) : (holdCtl s).lines = s.lines := rfl
@[simp] theorem holdCtl_detWords (s : State) : (holdCtl s).detWords = s.detWords := rfl
@[simp] theorem holdCtl_counters (s : State) : (holdCtl s).counters = s.counters := rfl
@[simp] theorem holdCtl_table (s : State) : (holdCtl s).table = s.table := rfl
@[simp] theorem holdCtl_classPages (s : State) : (holdCtl s).classPages = s.classPages := rfl
@[simp] theorem holdCtl_pinWays (s : State) : (holdCtl s).pinWays = s.pinWays := rfl
@[simp] theorem holdCtl_moves (s : State) : (holdCtl s).moves = s.moves := rfl
@[simp] theorem holdCtl_lastMove (s : State) : (holdCtl s).lastMove = s.lastMove := rfl
@[simp] theorem holdCtl_requests (s : State) : (holdCtl s).requests = s.requests := rfl
@[simp] theorem holdCtl_intake (s : State) : (holdCtl s).intake = s.intake := rfl
@[simp] theorem holdCtl_sourceNums (s : State) : (holdCtl s).sourceNums = s.sourceNums := rfl
@[simp] theorem holdCtl_barriers (s : State) : (holdCtl s).barriers = s.barriers := rfl
@[simp] theorem holdCtl_l1 (s : State) : (holdCtl s).l1 = s.l1 := rfl
@[simp] theorem holdCtl_fused (s : State) : (holdCtl s).fused = s.fused := rfl
@[simp] theorem holdCtl_cores (s : State) : (holdCtl s).cores = s.cores := rfl
@[simp] theorem holdCtl_access (s : State) : (holdCtl s).access = s.access := rfl
@[simp] theorem holdCtl_accessWas (s : State) : (holdCtl s).accessWas = s.accessWas := rfl
@[simp] theorem holdCtl_contexts (s : State) : (holdCtl s).contexts = s.contexts := rfl
@[simp] theorem holdCtl_tenants (s : State) : (holdCtl s).tenants = s.tenants := rfl
@[simp] theorem holdCtl_queues (s : State) : (holdCtl s).queues = s.queues := rfl
@[simp] theorem holdCtl_walkers (s : State) : (holdCtl s).walkers = s.walkers := rfl
@[simp] theorem holdCtl_kv (s : State) : (holdCtl s).kv = s.kv := rfl
@[simp] theorem holdCtl_carries (s : State) : (holdCtl s).carries = s.carries := rfl
@[simp] theorem holdCtl_acceptances (s : State) : (holdCtl s).acceptances = s.acceptances := rfl
@[simp] theorem holdCtl_replies (s : State) : (holdCtl s).replies = s.replies := rfl
@[simp] theorem holdCtl_broadcasts (s : State) : (holdCtl s).broadcasts = s.broadcasts := rfl
@[simp] theorem holdCtl_saved (s : State) : (holdCtl s).saved = s.saved := rfl
@[simp] theorem holdCtl_shootdowns (s : State) : (holdCtl s).shootdowns = s.shootdowns := rfl
@[simp] theorem holdCtl_saveSerial (s : State) : (holdCtl s).saveSerial = s.saveSerial := rfl
@[simp] theorem holdCtl_pageFaults (s : State) : (holdCtl s).pageFaults = s.pageFaults := rfl
@[simp] theorem holdCtl_pseed (s : State) : (holdCtl s).pseed = s.pseed := rfl
@[simp] theorem holdCtl_pseedWas (s : State) : (holdCtl s).pseedWas = s.pseedWas := rfl
@[simp] theorem holdCtl_devid (s : State) : (holdCtl s).devid = s.devid := rfl
@[simp] theorem holdCtl_port (s : State) : (holdCtl s).port = s.port := rfl
@[simp] theorem holdCtl_chains (s : State) : (holdCtl s).chains = s.chains := rfl
@[simp] theorem holdCtl_ringDown (s : State) : (holdCtl s).ringDown = s.ringDown := rfl
@[simp] theorem holdCtl_ucie (s : State) : (holdCtl s).ucie = s.ucie := rfl
@[simp] theorem holdCtl_translator (s : State) : (holdCtl s).translator = s.translator := rfl
@[simp] theorem holdCtl_mgmt (s : State) : (holdCtl s).mgmt = s.mgmt := rfl
@[simp] theorem holdCtl_errors (s : State) : (holdCtl s).errors = s.errors := rfl
@[simp] theorem holdCtl_draws (s : State) : (holdCtl s).draws = s.draws := rfl

@[simp] theorem holdFor_rest (n : Nat) (s : State) : (holdFor n s).rest = s.rest := rfl
@[simp] theorem holdFor_agenda (n : Nat) (s : State) : (holdFor n s).agenda = s.agenda := rfl
@[simp] theorem holdFor_cycle (n : Nat) (s : State) : (holdFor n s).cycle = s.cycle := rfl
@[simp] theorem holdFor_stage (n : Nat) (s : State) : (holdFor n s).stage = s.stage := rfl
@[simp] theorem holdFor_mem (n : Nat) (s : State) : (holdFor n s).mem = s.mem := rfl
@[simp] theorem holdFor_poison (n : Nat) (s : State) : (holdFor n s).poison = s.poison := rfl
@[simp] theorem holdFor_lines (n : Nat) (s : State) : (holdFor n s).lines = s.lines := rfl
@[simp] theorem holdFor_detWords (n : Nat) (s : State) : (holdFor n s).detWords = s.detWords := rfl
@[simp] theorem holdFor_counters (n : Nat) (s : State) : (holdFor n s).counters = s.counters := rfl
@[simp] theorem holdFor_table (n : Nat) (s : State) : (holdFor n s).table = s.table := rfl
@[simp] theorem holdFor_classPages (n : Nat) (s : State) : (holdFor n s).classPages = s.classPages := rfl
@[simp] theorem holdFor_pinWays (n : Nat) (s : State) : (holdFor n s).pinWays = s.pinWays := rfl
@[simp] theorem holdFor_moves (n : Nat) (s : State) : (holdFor n s).moves = s.moves := rfl
@[simp] theorem holdFor_lastMove (n : Nat) (s : State) : (holdFor n s).lastMove = s.lastMove := rfl
@[simp] theorem holdFor_requests (n : Nat) (s : State) : (holdFor n s).requests = s.requests := rfl
@[simp] theorem holdFor_intake (n : Nat) (s : State) : (holdFor n s).intake = s.intake := rfl
@[simp] theorem holdFor_sourceNums (n : Nat) (s : State) : (holdFor n s).sourceNums = s.sourceNums := rfl
@[simp] theorem holdFor_barriers (n : Nat) (s : State) : (holdFor n s).barriers = s.barriers := rfl
@[simp] theorem holdFor_l1 (n : Nat) (s : State) : (holdFor n s).l1 = s.l1 := rfl
@[simp] theorem holdFor_fused (n : Nat) (s : State) : (holdFor n s).fused = s.fused := rfl
@[simp] theorem holdFor_cores (n : Nat) (s : State) : (holdFor n s).cores = s.cores := rfl
@[simp] theorem holdFor_access (n : Nat) (s : State) : (holdFor n s).access = s.access := rfl
@[simp] theorem holdFor_accessWas (n : Nat) (s : State) : (holdFor n s).accessWas = s.accessWas := rfl
@[simp] theorem holdFor_contexts (n : Nat) (s : State) : (holdFor n s).contexts = s.contexts := rfl
@[simp] theorem holdFor_tenants (n : Nat) (s : State) : (holdFor n s).tenants = s.tenants := rfl
@[simp] theorem holdFor_queues (n : Nat) (s : State) : (holdFor n s).queues = s.queues := rfl
@[simp] theorem holdFor_walkers (n : Nat) (s : State) : (holdFor n s).walkers = s.walkers := rfl
@[simp] theorem holdFor_kv (n : Nat) (s : State) : (holdFor n s).kv = s.kv := rfl
@[simp] theorem holdFor_carries (n : Nat) (s : State) : (holdFor n s).carries = s.carries := rfl
@[simp] theorem holdFor_acceptances (n : Nat) (s : State) : (holdFor n s).acceptances = s.acceptances := rfl
@[simp] theorem holdFor_replies (n : Nat) (s : State) : (holdFor n s).replies = s.replies := rfl
@[simp] theorem holdFor_broadcasts (n : Nat) (s : State) : (holdFor n s).broadcasts = s.broadcasts := rfl
@[simp] theorem holdFor_saved (n : Nat) (s : State) : (holdFor n s).saved = s.saved := rfl
@[simp] theorem holdFor_shootdowns (n : Nat) (s : State) : (holdFor n s).shootdowns = s.shootdowns := rfl
@[simp] theorem holdFor_saveSerial (n : Nat) (s : State) : (holdFor n s).saveSerial = s.saveSerial := rfl
@[simp] theorem holdFor_pageFaults (n : Nat) (s : State) : (holdFor n s).pageFaults = s.pageFaults := rfl
@[simp] theorem holdFor_pseed (n : Nat) (s : State) : (holdFor n s).pseed = s.pseed := rfl
@[simp] theorem holdFor_pseedWas (n : Nat) (s : State) : (holdFor n s).pseedWas = s.pseedWas := rfl
@[simp] theorem holdFor_devid (n : Nat) (s : State) : (holdFor n s).devid = s.devid := rfl
@[simp] theorem holdFor_port (n : Nat) (s : State) : (holdFor n s).port = s.port := rfl
@[simp] theorem holdFor_chains (n : Nat) (s : State) : (holdFor n s).chains = s.chains := rfl
@[simp] theorem holdFor_ringDown (n : Nat) (s : State) : (holdFor n s).ringDown = s.ringDown := rfl
@[simp] theorem holdFor_ucie (n : Nat) (s : State) : (holdFor n s).ucie = s.ucie := rfl
@[simp] theorem holdFor_translator (n : Nat) (s : State) : (holdFor n s).translator = s.translator := rfl
@[simp] theorem holdFor_mgmt (n : Nat) (s : State) : (holdFor n s).mgmt = s.mgmt := rfl
@[simp] theorem holdFor_errors (n : Nat) (s : State) : (holdFor n s).errors = s.errors := rfl
@[simp] theorem holdFor_draws (n : Nat) (s : State) : (holdFor n s).draws = s.draws := rfl

@[simp] theorem onCur_cur (s : State) (f : Slot → Slot) : (onCur s f).cur = f s.cur := rfl
@[simp] theorem jump_cur (s : State) (pc : Word) :
    (jump s pc).cur = { s.cur with ctl := { s.cur.ctl with pc := pc, issued := true } } := rfl
@[simp] theorem advance_cur (s : State) (o : Opnd) :
    (advance s o).cur
      = { s.cur with ctl := { s.cur.ctl with pc := s.cur.ctl.pc + word (Fmt.bytes o.fmt), issued := true } } := rfl
@[simp] theorem blockCtl_cur (s : State) (x : Obj) :
    (blockCtl s x).cur = { s.cur with ctl := { s.cur.ctl with blocked := some x, issued := true } } := rfl
@[simp] theorem holdCtl_cur (s : State) :
    (holdCtl s).cur = { s.cur with ctl := { s.cur.ctl with issued := true } } := rfl
@[simp] theorem holdFor_cur (n : Nat) (s : State) :
    (holdFor n s).cur = { s.cur with ctl := { s.cur.ctl with hold := n } } := rfl

/-! ## Updates of a slot -/

@[simp] theorem setG_id (t : Slot) (r : BitVec 6) (x : Word) : (setG t r x).id = t.id := by
  unfold setG; split <;> rfl
@[simp] theorem setG_item (t : Slot) (r : BitVec 6) (x : Word) : (setG t r x).item = t.item := by
  unfold setG; split <;> rfl
@[simp] theorem setG_record (t : Slot) (r : BitVec 6) (x : Word) : (setG t r x).record = t.record := by
  unfold setG; split <;> rfl
@[simp] theorem setG_pins (t : Slot) (r : BitVec 6) (x : Word) : (setG t r x).pins = t.pins := by
  unfold setG; split <;> rfl
@[simp] theorem setG_phase (t : Slot) (r : BitVec 6) (x : Word) : (setG t r x).phase = t.phase := by
  unfold setG; split <;> rfl
@[simp] theorem setG_ctl (t : Slot) (r : BitVec 6) (x : Word) : (setG t r x).ctl = t.ctl := by
  unfold setG; split <;> rfl
@[simp] theorem setG_mx (t : Slot) (r : BitVec 6) (x : Word) : (setG t r x).mx = t.mx := by
  unfold setG; split <;> rfl
@[simp] theorem setG_cp (t : Slot) (r : BitVec 6) (x : Word) : (setG t r x).cp = t.cp := by
  unfold setG; split <;> rfl
@[simp] theorem setG_v (t : Slot) (r : BitVec 6) (x : Word) : (setG t r x).v = t.v := by
  unfold setG; split <;> rfl
@[simp] theorem setG_vEmpty (t : Slot) (r : BitVec 6) (x : Word) : (setG t r x).vEmpty = t.vEmpty := by
  unfold setG; split <;> rfl
@[simp] theorem setG_k (t : Slot) (r : BitVec 6) (x : Word) : (setG t r x).k = t.k := by
  unfold setG; split <;> rfl
@[simp] theorem setG_rows (t : Slot) (r : BitVec 6) (x : Word) : (setG t r x).rows = t.rows := by
  unfold setG; split <;> rfl
@[simp] theorem setG_wcode (t : Slot) (r : BitVec 6) (x : Word) : (setG t r x).wcode = t.wcode := by
  unfold setG; split <;> rfl
@[simp] theorem setG_h (t : Slot) (r : BitVec 6) (x : Word) : (setG t r x).h = t.h := by
  unfold setG; split <;> rfl
@[simp] theorem setG_walks (t : Slot) (r : BitVec 6) (x : Word) : (setG t r x).walks = t.walks := by
  unfold setG; split <;> rfl
@[simp] theorem setG_cache (t : Slot) (r : BitVec 6) (x : Word) : (setG t r x).cache = t.cache := by
  unfold setG; split <;> rfl
@[simp] theorem setG_q (t : Slot) (r : BitVec 6) (x : Word) : (setG t r x).q = t.q := by
  unfold setG; split <;> rfl
@[simp] theorem setG_ops (t : Slot) (r : BitVec 6) (x : Word) : (setG t r x).ops = t.ops := by
  unfold setG; split <;> rfl
@[simp] theorem setG_nextOp (t : Slot) (r : BitVec 6) (x : Word) : (setG t r x).nextOp = t.nextOp := by
  unfold setG; split <;> rfl
@[simp] theorem setG_deferred (t : Slot) (r : BitVec 6) (x : Word) : (setG t r x).deferred = t.deferred := by
  unfold setG; split <;> rfl
@[simp] theorem setG_settling (t : Slot) (r : BitVec 6) (x : Word) : (setG t r x).settling = t.settling := by
  unfold setG; split <;> rfl
@[simp] theorem setG_wait (t : Slot) (r : BitVec 6) (x : Word) : (setG t r x).wait = t.wait := by
  unfold setG; split <;> rfl
@[simp] theorem setG_mode (t : Slot) (r : BitVec 6) (x : Word) : (setG t r x).mode = t.mode := by
  unfold setG; split <;> rfl
@[simp] theorem setG_flags (t : Slot) (r : BitVec 6) (x : Word) : (setG t r x).flags = t.flags := by
  unfold setG; split <;> rfl
@[simp] theorem setG_seed (t : Slot) (r : BitVec 6) (x : Word) : (setG t r x).seed = t.seed := by
  unfold setG; split <;> rfl
@[simp] theorem setG_tenant (t : Slot) (r : BitVec 6) (x : Word) : (setG t r x).tenant = t.tenant := by
  unfold setG; split <;> rfl
@[simp] theorem setG_context (t : Slot) (r : BitVec 6) (x : Word) : (setG t r x).context = t.context := by
  unfold setG; split <;> rfl
@[simp] theorem setG_trapv (t : Slot) (r : BitVec 6) (x : Word) : (setG t r x).trapv = t.trapv := by
  unfold setG; split <;> rfl
@[simp] theorem setG_stampb (t : Slot) (r : BitVec 6) (x : Word) : (setG t r x).stampb = t.stampb := by
  unfold setG; split <;> rfl
@[simp] theorem setG_slips (t : Slot) (r : BitVec 6) (x : Word) : (setG t r x).slips = t.slips := by
  unfold setG; split <;> rfl
@[simp] theorem setG_sig (t : Slot) (r : BitVec 6) (x : Word) : (setG t r x).sig = t.sig := by
  unfold setG; split <;> rfl
@[simp] theorem setG_digest (t : Slot) (r : BitVec 6) (x : Word) : (setG t r x).digest = t.digest := by
  unfold setG; split <;> rfl
@[simp] theorem setG_bfmt (t : Slot) (r : BitVec 6) (x : Word) : (setG t r x).bfmt = t.bfmt := by
  unfold setG; split <;> rfl
@[simp] theorem setG_banks (t : Slot) (r : BitVec 6) (x : Word) : (setG t r x).banks = t.banks := by
  unfold setG; split <;> rfl
@[simp] theorem setG_empty (t : Slot) (r : BitVec 6) (x : Word) : (setG t r x).empty = t.empty := by
  unfold setG; split <;> rfl
@[simp] theorem setG_conflict (t : Slot) (r : BitVec 6) (x : Word) : (setG t r x).conflict = t.conflict := by
  unfold setG; split <;> rfl
@[simp] theorem setG_owners (t : Slot) (r : BitVec 6) (x : Word) : (setG t r x).owners = t.owners := by
  unfold setG; split <;> rfl
@[simp] theorem setG_poison (t : Slot) (r : BitVec 6) (x : Word) : (setG t r x).poison = t.poison := by
  unfold setG; split <;> rfl
@[simp] theorem setG_acc (t : Slot) (r : BitVec 6) (x : Word) : (setG t r x).acc = t.acc := by
  unfold setG; split <;> rfl
@[simp] theorem setG_accFlags (t : Slot) (r : BitVec 6) (x : Word) : (setG t r x).accFlags = t.accFlags := by
  unfold setG; split <;> rfl
@[simp] theorem setG_tiles (t : Slot) (r : BitVec 6) (x : Word) : (setG t r x).tiles = t.tiles := by
  unfold setG; split <;> rfl
@[simp] theorem setG_wbuf (t : Slot) (r : BitVec 6) (x : Word) : (setG t r x).wbuf = t.wbuf := by
  unfold setG; split <;> rfl
@[simp] theorem setG_fifos (t : Slot) (r : BitVec 6) (x : Word) : (setG t r x).fifos = t.fifos := by
  unfold setG; split <;> rfl
@[simp] theorem setG_time (t : Slot) (r : BitVec 6) (x : Word) : (setG t r x).time = t.time := by
  unfold setG; split <;> rfl
@[simp] theorem setG_z (t : Slot) (r : BitVec 6) (x : Word) : (setG t r x).z = t.z := by
  unfold setG; split <;> rfl
@[simp] theorem setG_ztag (t : Slot) (r : BitVec 6) (x : Word) : (setG t r x).ztag = t.ztag := by
  unfold setG; split <;> rfl
@[simp] theorem setG_scanOp (t : Slot) (r : BitVec 6) (x : Word) : (setG t r x).scanOp = t.scanOp := by
  unfold setG; split <;> rfl
@[simp] theorem setG_records (t : Slot) (r : BitVec 6) (x : Word) : (setG t r x).records = t.records := by
  unfold setG; split <;> rfl
@[simp] theorem setG_unmatched (t : Slot) (r : BitVec 6) (x : Word) : (setG t r x).unmatched = t.unmatched := by
  unfold setG; split <;> rfl
@[simp] theorem setG_ending (t : Slot) (r : BitVec 6) (x : Word) : (setG t r x).ending = t.ending := by
  unfold setG; split <;> rfl
@[simp] theorem setG_inbox (t : Slot) (r : BitVec 6) (x : Word) : (setG t r x).inbox = t.inbox := by
  unfold setG; split <;> rfl
@[simp] theorem setG_det (t : Slot) (r : BitVec 6) (x : Word) : (setG t r x).det = t.det := by
  unfold setG; split <;> rfl
@[simp] theorem setG_events (t : Slot) (r : BitVec 6) (x : Word) : (setG t r x).events = t.events := by
  unfold setG; split <;> rfl
@[simp] theorem setG_answer (t : Slot) (r : BitVec 6) (x : Word) : (setG t r x).answer = t.answer := by
  unfold setG; split <;> rfl
@[simp] theorem setG_saving (t : Slot) (r : BitVec 6) (x : Word) : (setG t r x).saving = t.saving := by
  unfold setG; split <;> rfl
@[simp] theorem setG_blockedFor (t : Slot) (r : BitVec 6) (x : Word) : (setG t r x).blockedFor = t.blockedFor := by
  unfold setG; split <;> rfl
@[simp] theorem setG_readyFor (t : Slot) (r : BitVec 6) (x : Word) : (setG t r x).readyFor = t.readyFor := by
  unfold setG; split <;> rfl
@[simp] theorem setG_copied (t : Slot) (r : BitVec 6) (x : Word) : (setG t r x).copied = t.copied := by
  unfold setG; split <;> rfl
@[simp] theorem setG_tested (t : Slot) (r : BitVec 6) (x : Word) : (setG t r x).tested = t.tested := by
  unfold setG; split <;> rfl

@[simp] theorem emptyG_id (t : Slot) (r : BitVec 6) : (emptyG t r).id = t.id := by
  unfold emptyG; split <;> rfl
@[simp] theorem emptyG_item (t : Slot) (r : BitVec 6) : (emptyG t r).item = t.item := by
  unfold emptyG; split <;> rfl
@[simp] theorem emptyG_record (t : Slot) (r : BitVec 6) : (emptyG t r).record = t.record := by
  unfold emptyG; split <;> rfl
@[simp] theorem emptyG_pins (t : Slot) (r : BitVec 6) : (emptyG t r).pins = t.pins := by
  unfold emptyG; split <;> rfl
@[simp] theorem emptyG_phase (t : Slot) (r : BitVec 6) : (emptyG t r).phase = t.phase := by
  unfold emptyG; split <;> rfl
@[simp] theorem emptyG_ctl (t : Slot) (r : BitVec 6) : (emptyG t r).ctl = t.ctl := by
  unfold emptyG; split <;> rfl
@[simp] theorem emptyG_mx (t : Slot) (r : BitVec 6) : (emptyG t r).mx = t.mx := by
  unfold emptyG; split <;> rfl
@[simp] theorem emptyG_cp (t : Slot) (r : BitVec 6) : (emptyG t r).cp = t.cp := by
  unfold emptyG; split <;> rfl
@[simp] theorem emptyG_g (t : Slot) (r : BitVec 6) : (emptyG t r).g = t.g := by
  unfold emptyG; split <;> rfl
@[simp] theorem emptyG_v (t : Slot) (r : BitVec 6) : (emptyG t r).v = t.v := by
  unfold emptyG; split <;> rfl
@[simp] theorem emptyG_vEmpty (t : Slot) (r : BitVec 6) : (emptyG t r).vEmpty = t.vEmpty := by
  unfold emptyG; split <;> rfl
@[simp] theorem emptyG_k (t : Slot) (r : BitVec 6) : (emptyG t r).k = t.k := by
  unfold emptyG; split <;> rfl
@[simp] theorem emptyG_rows (t : Slot) (r : BitVec 6) : (emptyG t r).rows = t.rows := by
  unfold emptyG; split <;> rfl
@[simp] theorem emptyG_wcode (t : Slot) (r : BitVec 6) : (emptyG t r).wcode = t.wcode := by
  unfold emptyG; split <;> rfl
@[simp] theorem emptyG_h (t : Slot) (r : BitVec 6) : (emptyG t r).h = t.h := by
  unfold emptyG; split <;> rfl
@[simp] theorem emptyG_walks (t : Slot) (r : BitVec 6) : (emptyG t r).walks = t.walks := by
  unfold emptyG; split <;> rfl
@[simp] theorem emptyG_cache (t : Slot) (r : BitVec 6) : (emptyG t r).cache = t.cache := by
  unfold emptyG; split <;> rfl
@[simp] theorem emptyG_q (t : Slot) (r : BitVec 6) : (emptyG t r).q = t.q := by
  unfold emptyG; split <;> rfl
@[simp] theorem emptyG_ops (t : Slot) (r : BitVec 6) : (emptyG t r).ops = t.ops := by
  unfold emptyG; split <;> rfl
@[simp] theorem emptyG_nextOp (t : Slot) (r : BitVec 6) : (emptyG t r).nextOp = t.nextOp := by
  unfold emptyG; split <;> rfl
@[simp] theorem emptyG_deferred (t : Slot) (r : BitVec 6) : (emptyG t r).deferred = t.deferred := by
  unfold emptyG; split <;> rfl
@[simp] theorem emptyG_settling (t : Slot) (r : BitVec 6) : (emptyG t r).settling = t.settling := by
  unfold emptyG; split <;> rfl
@[simp] theorem emptyG_wait (t : Slot) (r : BitVec 6) : (emptyG t r).wait = t.wait := by
  unfold emptyG; split <;> rfl
@[simp] theorem emptyG_mode (t : Slot) (r : BitVec 6) : (emptyG t r).mode = t.mode := by
  unfold emptyG; split <;> rfl
@[simp] theorem emptyG_flags (t : Slot) (r : BitVec 6) : (emptyG t r).flags = t.flags := by
  unfold emptyG; split <;> rfl
@[simp] theorem emptyG_seed (t : Slot) (r : BitVec 6) : (emptyG t r).seed = t.seed := by
  unfold emptyG; split <;> rfl
@[simp] theorem emptyG_tenant (t : Slot) (r : BitVec 6) : (emptyG t r).tenant = t.tenant := by
  unfold emptyG; split <;> rfl
@[simp] theorem emptyG_context (t : Slot) (r : BitVec 6) : (emptyG t r).context = t.context := by
  unfold emptyG; split <;> rfl
@[simp] theorem emptyG_trapv (t : Slot) (r : BitVec 6) : (emptyG t r).trapv = t.trapv := by
  unfold emptyG; split <;> rfl
@[simp] theorem emptyG_stampb (t : Slot) (r : BitVec 6) : (emptyG t r).stampb = t.stampb := by
  unfold emptyG; split <;> rfl
@[simp] theorem emptyG_slips (t : Slot) (r : BitVec 6) : (emptyG t r).slips = t.slips := by
  unfold emptyG; split <;> rfl
@[simp] theorem emptyG_sig (t : Slot) (r : BitVec 6) : (emptyG t r).sig = t.sig := by
  unfold emptyG; split <;> rfl
@[simp] theorem emptyG_digest (t : Slot) (r : BitVec 6) : (emptyG t r).digest = t.digest := by
  unfold emptyG; split <;> rfl
@[simp] theorem emptyG_bfmt (t : Slot) (r : BitVec 6) : (emptyG t r).bfmt = t.bfmt := by
  unfold emptyG; split <;> rfl
@[simp] theorem emptyG_banks (t : Slot) (r : BitVec 6) : (emptyG t r).banks = t.banks := by
  unfold emptyG; split <;> rfl
@[simp] theorem emptyG_empty (t : Slot) (r : BitVec 6) : (emptyG t r).empty = t.empty := by
  unfold emptyG; split <;> rfl
@[simp] theorem emptyG_conflict (t : Slot) (r : BitVec 6) : (emptyG t r).conflict = t.conflict := by
  unfold emptyG; split <;> rfl
@[simp] theorem emptyG_owners (t : Slot) (r : BitVec 6) : (emptyG t r).owners = t.owners := by
  unfold emptyG; split <;> rfl
@[simp] theorem emptyG_poison (t : Slot) (r : BitVec 6) : (emptyG t r).poison = t.poison := by
  unfold emptyG; split <;> rfl
@[simp] theorem emptyG_acc (t : Slot) (r : BitVec 6) : (emptyG t r).acc = t.acc := by
  unfold emptyG; split <;> rfl
@[simp] theorem emptyG_accFlags (t : Slot) (r : BitVec 6) : (emptyG t r).accFlags = t.accFlags := by
  unfold emptyG; split <;> rfl
@[simp] theorem emptyG_tiles (t : Slot) (r : BitVec 6) : (emptyG t r).tiles = t.tiles := by
  unfold emptyG; split <;> rfl
@[simp] theorem emptyG_wbuf (t : Slot) (r : BitVec 6) : (emptyG t r).wbuf = t.wbuf := by
  unfold emptyG; split <;> rfl
@[simp] theorem emptyG_fifos (t : Slot) (r : BitVec 6) : (emptyG t r).fifos = t.fifos := by
  unfold emptyG; split <;> rfl
@[simp] theorem emptyG_time (t : Slot) (r : BitVec 6) : (emptyG t r).time = t.time := by
  unfold emptyG; split <;> rfl
@[simp] theorem emptyG_z (t : Slot) (r : BitVec 6) : (emptyG t r).z = t.z := by
  unfold emptyG; split <;> rfl
@[simp] theorem emptyG_ztag (t : Slot) (r : BitVec 6) : (emptyG t r).ztag = t.ztag := by
  unfold emptyG; split <;> rfl
@[simp] theorem emptyG_scanOp (t : Slot) (r : BitVec 6) : (emptyG t r).scanOp = t.scanOp := by
  unfold emptyG; split <;> rfl
@[simp] theorem emptyG_records (t : Slot) (r : BitVec 6) : (emptyG t r).records = t.records := by
  unfold emptyG; split <;> rfl
@[simp] theorem emptyG_unmatched (t : Slot) (r : BitVec 6) : (emptyG t r).unmatched = t.unmatched := by
  unfold emptyG; split <;> rfl
@[simp] theorem emptyG_ending (t : Slot) (r : BitVec 6) : (emptyG t r).ending = t.ending := by
  unfold emptyG; split <;> rfl
@[simp] theorem emptyG_inbox (t : Slot) (r : BitVec 6) : (emptyG t r).inbox = t.inbox := by
  unfold emptyG; split <;> rfl
@[simp] theorem emptyG_det (t : Slot) (r : BitVec 6) : (emptyG t r).det = t.det := by
  unfold emptyG; split <;> rfl
@[simp] theorem emptyG_events (t : Slot) (r : BitVec 6) : (emptyG t r).events = t.events := by
  unfold emptyG; split <;> rfl
@[simp] theorem emptyG_answer (t : Slot) (r : BitVec 6) : (emptyG t r).answer = t.answer := by
  unfold emptyG; split <;> rfl
@[simp] theorem emptyG_saving (t : Slot) (r : BitVec 6) : (emptyG t r).saving = t.saving := by
  unfold emptyG; split <;> rfl
@[simp] theorem emptyG_blockedFor (t : Slot) (r : BitVec 6) : (emptyG t r).blockedFor = t.blockedFor := by
  unfold emptyG; split <;> rfl
@[simp] theorem emptyG_readyFor (t : Slot) (r : BitVec 6) : (emptyG t r).readyFor = t.readyFor := by
  unfold emptyG; split <;> rfl
@[simp] theorem emptyG_copied (t : Slot) (r : BitVec 6) : (emptyG t r).copied = t.copied := by
  unfold emptyG; split <;> rfl
@[simp] theorem emptyG_tested (t : Slot) (r : BitVec 6) : (emptyG t r).tested = t.tested := by
  unfold emptyG; split <;> rfl

@[simp] theorem settle_id (c : ResultReg) (r n : Nat) (t : Slot) : (settle c r n t).id = t.id := by
  unfold settle; split <;> rfl
@[simp] theorem settle_item (c : ResultReg) (r n : Nat) (t : Slot) : (settle c r n t).item = t.item := by
  unfold settle; split <;> rfl
@[simp] theorem settle_record (c : ResultReg) (r n : Nat) (t : Slot) : (settle c r n t).record = t.record := by
  unfold settle; split <;> rfl
@[simp] theorem settle_pins (c : ResultReg) (r n : Nat) (t : Slot) : (settle c r n t).pins = t.pins := by
  unfold settle; split <;> rfl
@[simp] theorem settle_phase (c : ResultReg) (r n : Nat) (t : Slot) : (settle c r n t).phase = t.phase := by
  unfold settle; split <;> rfl
@[simp] theorem settle_ctl (c : ResultReg) (r n : Nat) (t : Slot) : (settle c r n t).ctl = t.ctl := by
  unfold settle; split <;> rfl
@[simp] theorem settle_mx (c : ResultReg) (r n : Nat) (t : Slot) : (settle c r n t).mx = t.mx := by
  unfold settle; split <;> rfl
@[simp] theorem settle_cp (c : ResultReg) (r n : Nat) (t : Slot) : (settle c r n t).cp = t.cp := by
  unfold settle; split <;> rfl
@[simp] theorem settle_g (c : ResultReg) (r n : Nat) (t : Slot) : (settle c r n t).g = t.g := by
  unfold settle; split <;> rfl
@[simp] theorem settle_gEmpty (c : ResultReg) (r n : Nat) (t : Slot) : (settle c r n t).gEmpty = t.gEmpty := by
  unfold settle; split <;> rfl
@[simp] theorem settle_v (c : ResultReg) (r n : Nat) (t : Slot) : (settle c r n t).v = t.v := by
  unfold settle; split <;> rfl
@[simp] theorem settle_vEmpty (c : ResultReg) (r n : Nat) (t : Slot) : (settle c r n t).vEmpty = t.vEmpty := by
  unfold settle; split <;> rfl
@[simp] theorem settle_k (c : ResultReg) (r n : Nat) (t : Slot) : (settle c r n t).k = t.k := by
  unfold settle; split <;> rfl
@[simp] theorem settle_rows (c : ResultReg) (r n : Nat) (t : Slot) : (settle c r n t).rows = t.rows := by
  unfold settle; split <;> rfl
@[simp] theorem settle_wcode (c : ResultReg) (r n : Nat) (t : Slot) : (settle c r n t).wcode = t.wcode := by
  unfold settle; split <;> rfl
@[simp] theorem settle_h (c : ResultReg) (r n : Nat) (t : Slot) : (settle c r n t).h = t.h := by
  unfold settle; split <;> rfl
@[simp] theorem settle_walks (c : ResultReg) (r n : Nat) (t : Slot) : (settle c r n t).walks = t.walks := by
  unfold settle; split <;> rfl
@[simp] theorem settle_cache (c : ResultReg) (r n : Nat) (t : Slot) : (settle c r n t).cache = t.cache := by
  unfold settle; split <;> rfl
@[simp] theorem settle_q (c : ResultReg) (r n : Nat) (t : Slot) : (settle c r n t).q = t.q := by
  unfold settle; split <;> rfl
@[simp] theorem settle_ops (c : ResultReg) (r n : Nat) (t : Slot) : (settle c r n t).ops = t.ops := by
  unfold settle; split <;> rfl
@[simp] theorem settle_nextOp (c : ResultReg) (r n : Nat) (t : Slot) : (settle c r n t).nextOp = t.nextOp := by
  unfold settle; split <;> rfl
@[simp] theorem settle_deferred (c : ResultReg) (r n : Nat) (t : Slot) : (settle c r n t).deferred = t.deferred := by
  unfold settle; split <;> rfl
@[simp] theorem settle_wait (c : ResultReg) (r n : Nat) (t : Slot) : (settle c r n t).wait = t.wait := by
  unfold settle; split <;> rfl
@[simp] theorem settle_mode (c : ResultReg) (r n : Nat) (t : Slot) : (settle c r n t).mode = t.mode := by
  unfold settle; split <;> rfl
@[simp] theorem settle_flags (c : ResultReg) (r n : Nat) (t : Slot) : (settle c r n t).flags = t.flags := by
  unfold settle; split <;> rfl
@[simp] theorem settle_seed (c : ResultReg) (r n : Nat) (t : Slot) : (settle c r n t).seed = t.seed := by
  unfold settle; split <;> rfl
@[simp] theorem settle_tenant (c : ResultReg) (r n : Nat) (t : Slot) : (settle c r n t).tenant = t.tenant := by
  unfold settle; split <;> rfl
@[simp] theorem settle_context (c : ResultReg) (r n : Nat) (t : Slot) : (settle c r n t).context = t.context := by
  unfold settle; split <;> rfl
@[simp] theorem settle_trapv (c : ResultReg) (r n : Nat) (t : Slot) : (settle c r n t).trapv = t.trapv := by
  unfold settle; split <;> rfl
@[simp] theorem settle_stampb (c : ResultReg) (r n : Nat) (t : Slot) : (settle c r n t).stampb = t.stampb := by
  unfold settle; split <;> rfl
@[simp] theorem settle_slips (c : ResultReg) (r n : Nat) (t : Slot) : (settle c r n t).slips = t.slips := by
  unfold settle; split <;> rfl
@[simp] theorem settle_sig (c : ResultReg) (r n : Nat) (t : Slot) : (settle c r n t).sig = t.sig := by
  unfold settle; split <;> rfl
@[simp] theorem settle_digest (c : ResultReg) (r n : Nat) (t : Slot) : (settle c r n t).digest = t.digest := by
  unfold settle; split <;> rfl
@[simp] theorem settle_bfmt (c : ResultReg) (r n : Nat) (t : Slot) : (settle c r n t).bfmt = t.bfmt := by
  unfold settle; split <;> rfl
@[simp] theorem settle_banks (c : ResultReg) (r n : Nat) (t : Slot) : (settle c r n t).banks = t.banks := by
  unfold settle; split <;> rfl
@[simp] theorem settle_empty (c : ResultReg) (r n : Nat) (t : Slot) : (settle c r n t).empty = t.empty := by
  unfold settle; split <;> rfl
@[simp] theorem settle_conflict (c : ResultReg) (r n : Nat) (t : Slot) : (settle c r n t).conflict = t.conflict := by
  unfold settle; split <;> rfl
@[simp] theorem settle_owners (c : ResultReg) (r n : Nat) (t : Slot) : (settle c r n t).owners = t.owners := by
  unfold settle; split <;> rfl
@[simp] theorem settle_poison (c : ResultReg) (r n : Nat) (t : Slot) : (settle c r n t).poison = t.poison := by
  unfold settle; split <;> rfl
@[simp] theorem settle_acc (c : ResultReg) (r n : Nat) (t : Slot) : (settle c r n t).acc = t.acc := by
  unfold settle; split <;> rfl
@[simp] theorem settle_accFlags (c : ResultReg) (r n : Nat) (t : Slot) : (settle c r n t).accFlags = t.accFlags := by
  unfold settle; split <;> rfl
@[simp] theorem settle_tiles (c : ResultReg) (r n : Nat) (t : Slot) : (settle c r n t).tiles = t.tiles := by
  unfold settle; split <;> rfl
@[simp] theorem settle_wbuf (c : ResultReg) (r n : Nat) (t : Slot) : (settle c r n t).wbuf = t.wbuf := by
  unfold settle; split <;> rfl
@[simp] theorem settle_fifos (c : ResultReg) (r n : Nat) (t : Slot) : (settle c r n t).fifos = t.fifos := by
  unfold settle; split <;> rfl
@[simp] theorem settle_time (c : ResultReg) (r n : Nat) (t : Slot) : (settle c r n t).time = t.time := by
  unfold settle; split <;> rfl
@[simp] theorem settle_z (c : ResultReg) (r n : Nat) (t : Slot) : (settle c r n t).z = t.z := by
  unfold settle; split <;> rfl
@[simp] theorem settle_ztag (c : ResultReg) (r n : Nat) (t : Slot) : (settle c r n t).ztag = t.ztag := by
  unfold settle; split <;> rfl
@[simp] theorem settle_scanOp (c : ResultReg) (r n : Nat) (t : Slot) : (settle c r n t).scanOp = t.scanOp := by
  unfold settle; split <;> rfl
@[simp] theorem settle_records (c : ResultReg) (r n : Nat) (t : Slot) : (settle c r n t).records = t.records := by
  unfold settle; split <;> rfl
@[simp] theorem settle_unmatched (c : ResultReg) (r n : Nat) (t : Slot) : (settle c r n t).unmatched = t.unmatched := by
  unfold settle; split <;> rfl
@[simp] theorem settle_ending (c : ResultReg) (r n : Nat) (t : Slot) : (settle c r n t).ending = t.ending := by
  unfold settle; split <;> rfl
@[simp] theorem settle_inbox (c : ResultReg) (r n : Nat) (t : Slot) : (settle c r n t).inbox = t.inbox := by
  unfold settle; split <;> rfl
@[simp] theorem settle_det (c : ResultReg) (r n : Nat) (t : Slot) : (settle c r n t).det = t.det := by
  unfold settle; split <;> rfl
@[simp] theorem settle_events (c : ResultReg) (r n : Nat) (t : Slot) : (settle c r n t).events = t.events := by
  unfold settle; split <;> rfl
@[simp] theorem settle_answer (c : ResultReg) (r n : Nat) (t : Slot) : (settle c r n t).answer = t.answer := by
  unfold settle; split <;> rfl
@[simp] theorem settle_saving (c : ResultReg) (r n : Nat) (t : Slot) : (settle c r n t).saving = t.saving := by
  unfold settle; split <;> rfl
@[simp] theorem settle_blockedFor (c : ResultReg) (r n : Nat) (t : Slot) : (settle c r n t).blockedFor = t.blockedFor := by
  unfold settle; split <;> rfl
@[simp] theorem settle_readyFor (c : ResultReg) (r n : Nat) (t : Slot) : (settle c r n t).readyFor = t.readyFor := by
  unfold settle; split <;> rfl
@[simp] theorem settle_copied (c : ResultReg) (r n : Nat) (t : Slot) : (settle c r n t).copied = t.copied := by
  unfold settle; split <;> rfl
@[simp] theorem settle_tested (c : ResultReg) (r n : Nat) (t : Slot) : (settle c r n t).tested = t.tested := by
  unfold settle; split <;> rfl

@[simp] theorem setV_id (t : Slot) (r : BitVec 5) (x : BitVec 4096) : (setV t r x).id = t.id := rfl
@[simp] theorem setV_item (t : Slot) (r : BitVec 5) (x : BitVec 4096) : (setV t r x).item = t.item := rfl
@[simp] theorem setV_record (t : Slot) (r : BitVec 5) (x : BitVec 4096) : (setV t r x).record = t.record := rfl
@[simp] theorem setV_pins (t : Slot) (r : BitVec 5) (x : BitVec 4096) : (setV t r x).pins = t.pins := rfl
@[simp] theorem setV_phase (t : Slot) (r : BitVec 5) (x : BitVec 4096) : (setV t r x).phase = t.phase := rfl
@[simp] theorem setV_ctl (t : Slot) (r : BitVec 5) (x : BitVec 4096) : (setV t r x).ctl = t.ctl := rfl
@[simp] theorem setV_mx (t : Slot) (r : BitVec 5) (x : BitVec 4096) : (setV t r x).mx = t.mx := rfl
@[simp] theorem setV_cp (t : Slot) (r : BitVec 5) (x : BitVec 4096) : (setV t r x).cp = t.cp := rfl
@[simp] theorem setV_g (t : Slot) (r : BitVec 5) (x : BitVec 4096) : (setV t r x).g = t.g := rfl
@[simp] theorem setV_gEmpty (t : Slot) (r : BitVec 5) (x : BitVec 4096) : (setV t r x).gEmpty = t.gEmpty := rfl
@[simp] theorem setV_k (t : Slot) (r : BitVec 5) (x : BitVec 4096) : (setV t r x).k = t.k := rfl
@[simp] theorem setV_rows (t : Slot) (r : BitVec 5) (x : BitVec 4096) : (setV t r x).rows = t.rows := rfl
@[simp] theorem setV_wcode (t : Slot) (r : BitVec 5) (x : BitVec 4096) : (setV t r x).wcode = t.wcode := rfl
@[simp] theorem setV_h (t : Slot) (r : BitVec 5) (x : BitVec 4096) : (setV t r x).h = t.h := rfl
@[simp] theorem setV_walks (t : Slot) (r : BitVec 5) (x : BitVec 4096) : (setV t r x).walks = t.walks := rfl
@[simp] theorem setV_cache (t : Slot) (r : BitVec 5) (x : BitVec 4096) : (setV t r x).cache = t.cache := rfl
@[simp] theorem setV_q (t : Slot) (r : BitVec 5) (x : BitVec 4096) : (setV t r x).q = t.q := rfl
@[simp] theorem setV_ops (t : Slot) (r : BitVec 5) (x : BitVec 4096) : (setV t r x).ops = t.ops := rfl
@[simp] theorem setV_nextOp (t : Slot) (r : BitVec 5) (x : BitVec 4096) : (setV t r x).nextOp = t.nextOp := rfl
@[simp] theorem setV_deferred (t : Slot) (r : BitVec 5) (x : BitVec 4096) : (setV t r x).deferred = t.deferred := rfl
@[simp] theorem setV_settling (t : Slot) (r : BitVec 5) (x : BitVec 4096) : (setV t r x).settling = t.settling := rfl
@[simp] theorem setV_wait (t : Slot) (r : BitVec 5) (x : BitVec 4096) : (setV t r x).wait = t.wait := rfl
@[simp] theorem setV_mode (t : Slot) (r : BitVec 5) (x : BitVec 4096) : (setV t r x).mode = t.mode := rfl
@[simp] theorem setV_flags (t : Slot) (r : BitVec 5) (x : BitVec 4096) : (setV t r x).flags = t.flags := rfl
@[simp] theorem setV_seed (t : Slot) (r : BitVec 5) (x : BitVec 4096) : (setV t r x).seed = t.seed := rfl
@[simp] theorem setV_tenant (t : Slot) (r : BitVec 5) (x : BitVec 4096) : (setV t r x).tenant = t.tenant := rfl
@[simp] theorem setV_context (t : Slot) (r : BitVec 5) (x : BitVec 4096) : (setV t r x).context = t.context := rfl
@[simp] theorem setV_trapv (t : Slot) (r : BitVec 5) (x : BitVec 4096) : (setV t r x).trapv = t.trapv := rfl
@[simp] theorem setV_stampb (t : Slot) (r : BitVec 5) (x : BitVec 4096) : (setV t r x).stampb = t.stampb := rfl
@[simp] theorem setV_slips (t : Slot) (r : BitVec 5) (x : BitVec 4096) : (setV t r x).slips = t.slips := rfl
@[simp] theorem setV_sig (t : Slot) (r : BitVec 5) (x : BitVec 4096) : (setV t r x).sig = t.sig := rfl
@[simp] theorem setV_digest (t : Slot) (r : BitVec 5) (x : BitVec 4096) : (setV t r x).digest = t.digest := rfl
@[simp] theorem setV_bfmt (t : Slot) (r : BitVec 5) (x : BitVec 4096) : (setV t r x).bfmt = t.bfmt := rfl
@[simp] theorem setV_banks (t : Slot) (r : BitVec 5) (x : BitVec 4096) : (setV t r x).banks = t.banks := rfl
@[simp] theorem setV_empty (t : Slot) (r : BitVec 5) (x : BitVec 4096) : (setV t r x).empty = t.empty := rfl
@[simp] theorem setV_conflict (t : Slot) (r : BitVec 5) (x : BitVec 4096) : (setV t r x).conflict = t.conflict := rfl
@[simp] theorem setV_owners (t : Slot) (r : BitVec 5) (x : BitVec 4096) : (setV t r x).owners = t.owners := rfl
@[simp] theorem setV_poison (t : Slot) (r : BitVec 5) (x : BitVec 4096) : (setV t r x).poison = t.poison := rfl
@[simp] theorem setV_acc (t : Slot) (r : BitVec 5) (x : BitVec 4096) : (setV t r x).acc = t.acc := rfl
@[simp] theorem setV_accFlags (t : Slot) (r : BitVec 5) (x : BitVec 4096) : (setV t r x).accFlags = t.accFlags := rfl
@[simp] theorem setV_tiles (t : Slot) (r : BitVec 5) (x : BitVec 4096) : (setV t r x).tiles = t.tiles := rfl
@[simp] theorem setV_wbuf (t : Slot) (r : BitVec 5) (x : BitVec 4096) : (setV t r x).wbuf = t.wbuf := rfl
@[simp] theorem setV_fifos (t : Slot) (r : BitVec 5) (x : BitVec 4096) : (setV t r x).fifos = t.fifos := rfl
@[simp] theorem setV_time (t : Slot) (r : BitVec 5) (x : BitVec 4096) : (setV t r x).time = t.time := rfl
@[simp] theorem setV_z (t : Slot) (r : BitVec 5) (x : BitVec 4096) : (setV t r x).z = t.z := rfl
@[simp] theorem setV_ztag (t : Slot) (r : BitVec 5) (x : BitVec 4096) : (setV t r x).ztag = t.ztag := rfl
@[simp] theorem setV_scanOp (t : Slot) (r : BitVec 5) (x : BitVec 4096) : (setV t r x).scanOp = t.scanOp := rfl
@[simp] theorem setV_records (t : Slot) (r : BitVec 5) (x : BitVec 4096) : (setV t r x).records = t.records := rfl
@[simp] theorem setV_unmatched (t : Slot) (r : BitVec 5) (x : BitVec 4096) : (setV t r x).unmatched = t.unmatched := rfl
@[simp] theorem setV_ending (t : Slot) (r : BitVec 5) (x : BitVec 4096) : (setV t r x).ending = t.ending := rfl
@[simp] theorem setV_inbox (t : Slot) (r : BitVec 5) (x : BitVec 4096) : (setV t r x).inbox = t.inbox := rfl
@[simp] theorem setV_det (t : Slot) (r : BitVec 5) (x : BitVec 4096) : (setV t r x).det = t.det := rfl
@[simp] theorem setV_events (t : Slot) (r : BitVec 5) (x : BitVec 4096) : (setV t r x).events = t.events := rfl
@[simp] theorem setV_answer (t : Slot) (r : BitVec 5) (x : BitVec 4096) : (setV t r x).answer = t.answer := rfl
@[simp] theorem setV_saving (t : Slot) (r : BitVec 5) (x : BitVec 4096) : (setV t r x).saving = t.saving := rfl
@[simp] theorem setV_blockedFor (t : Slot) (r : BitVec 5) (x : BitVec 4096) : (setV t r x).blockedFor = t.blockedFor := rfl
@[simp] theorem setV_readyFor (t : Slot) (r : BitVec 5) (x : BitVec 4096) : (setV t r x).readyFor = t.readyFor := rfl
@[simp] theorem setV_copied (t : Slot) (r : BitVec 5) (x : BitVec 4096) : (setV t r x).copied = t.copied := rfl
@[simp] theorem setV_tested (t : Slot) (r : BitVec 5) (x : BitVec 4096) : (setV t r x).tested = t.tested := rfl

@[simp] theorem emptyV_id (t : Slot) (r : BitVec 5) : (emptyV t r).id = t.id := rfl
@[simp] theorem emptyV_item (t : Slot) (r : BitVec 5) : (emptyV t r).item = t.item := rfl
@[simp] theorem emptyV_record (t : Slot) (r : BitVec 5) : (emptyV t r).record = t.record := rfl
@[simp] theorem emptyV_pins (t : Slot) (r : BitVec 5) : (emptyV t r).pins = t.pins := rfl
@[simp] theorem emptyV_phase (t : Slot) (r : BitVec 5) : (emptyV t r).phase = t.phase := rfl
@[simp] theorem emptyV_ctl (t : Slot) (r : BitVec 5) : (emptyV t r).ctl = t.ctl := rfl
@[simp] theorem emptyV_mx (t : Slot) (r : BitVec 5) : (emptyV t r).mx = t.mx := rfl
@[simp] theorem emptyV_cp (t : Slot) (r : BitVec 5) : (emptyV t r).cp = t.cp := rfl
@[simp] theorem emptyV_g (t : Slot) (r : BitVec 5) : (emptyV t r).g = t.g := rfl
@[simp] theorem emptyV_gEmpty (t : Slot) (r : BitVec 5) : (emptyV t r).gEmpty = t.gEmpty := rfl
@[simp] theorem emptyV_v (t : Slot) (r : BitVec 5) : (emptyV t r).v = t.v := rfl
@[simp] theorem emptyV_k (t : Slot) (r : BitVec 5) : (emptyV t r).k = t.k := rfl
@[simp] theorem emptyV_rows (t : Slot) (r : BitVec 5) : (emptyV t r).rows = t.rows := rfl
@[simp] theorem emptyV_wcode (t : Slot) (r : BitVec 5) : (emptyV t r).wcode = t.wcode := rfl
@[simp] theorem emptyV_h (t : Slot) (r : BitVec 5) : (emptyV t r).h = t.h := rfl
@[simp] theorem emptyV_walks (t : Slot) (r : BitVec 5) : (emptyV t r).walks = t.walks := rfl
@[simp] theorem emptyV_cache (t : Slot) (r : BitVec 5) : (emptyV t r).cache = t.cache := rfl
@[simp] theorem emptyV_q (t : Slot) (r : BitVec 5) : (emptyV t r).q = t.q := rfl
@[simp] theorem emptyV_ops (t : Slot) (r : BitVec 5) : (emptyV t r).ops = t.ops := rfl
@[simp] theorem emptyV_nextOp (t : Slot) (r : BitVec 5) : (emptyV t r).nextOp = t.nextOp := rfl
@[simp] theorem emptyV_deferred (t : Slot) (r : BitVec 5) : (emptyV t r).deferred = t.deferred := rfl
@[simp] theorem emptyV_settling (t : Slot) (r : BitVec 5) : (emptyV t r).settling = t.settling := rfl
@[simp] theorem emptyV_wait (t : Slot) (r : BitVec 5) : (emptyV t r).wait = t.wait := rfl
@[simp] theorem emptyV_mode (t : Slot) (r : BitVec 5) : (emptyV t r).mode = t.mode := rfl
@[simp] theorem emptyV_flags (t : Slot) (r : BitVec 5) : (emptyV t r).flags = t.flags := rfl
@[simp] theorem emptyV_seed (t : Slot) (r : BitVec 5) : (emptyV t r).seed = t.seed := rfl
@[simp] theorem emptyV_tenant (t : Slot) (r : BitVec 5) : (emptyV t r).tenant = t.tenant := rfl
@[simp] theorem emptyV_context (t : Slot) (r : BitVec 5) : (emptyV t r).context = t.context := rfl
@[simp] theorem emptyV_trapv (t : Slot) (r : BitVec 5) : (emptyV t r).trapv = t.trapv := rfl
@[simp] theorem emptyV_stampb (t : Slot) (r : BitVec 5) : (emptyV t r).stampb = t.stampb := rfl
@[simp] theorem emptyV_slips (t : Slot) (r : BitVec 5) : (emptyV t r).slips = t.slips := rfl
@[simp] theorem emptyV_sig (t : Slot) (r : BitVec 5) : (emptyV t r).sig = t.sig := rfl
@[simp] theorem emptyV_digest (t : Slot) (r : BitVec 5) : (emptyV t r).digest = t.digest := rfl
@[simp] theorem emptyV_bfmt (t : Slot) (r : BitVec 5) : (emptyV t r).bfmt = t.bfmt := rfl
@[simp] theorem emptyV_banks (t : Slot) (r : BitVec 5) : (emptyV t r).banks = t.banks := rfl
@[simp] theorem emptyV_empty (t : Slot) (r : BitVec 5) : (emptyV t r).empty = t.empty := rfl
@[simp] theorem emptyV_conflict (t : Slot) (r : BitVec 5) : (emptyV t r).conflict = t.conflict := rfl
@[simp] theorem emptyV_owners (t : Slot) (r : BitVec 5) : (emptyV t r).owners = t.owners := rfl
@[simp] theorem emptyV_poison (t : Slot) (r : BitVec 5) : (emptyV t r).poison = t.poison := rfl
@[simp] theorem emptyV_acc (t : Slot) (r : BitVec 5) : (emptyV t r).acc = t.acc := rfl
@[simp] theorem emptyV_accFlags (t : Slot) (r : BitVec 5) : (emptyV t r).accFlags = t.accFlags := rfl
@[simp] theorem emptyV_tiles (t : Slot) (r : BitVec 5) : (emptyV t r).tiles = t.tiles := rfl
@[simp] theorem emptyV_wbuf (t : Slot) (r : BitVec 5) : (emptyV t r).wbuf = t.wbuf := rfl
@[simp] theorem emptyV_fifos (t : Slot) (r : BitVec 5) : (emptyV t r).fifos = t.fifos := rfl
@[simp] theorem emptyV_time (t : Slot) (r : BitVec 5) : (emptyV t r).time = t.time := rfl
@[simp] theorem emptyV_z (t : Slot) (r : BitVec 5) : (emptyV t r).z = t.z := rfl
@[simp] theorem emptyV_ztag (t : Slot) (r : BitVec 5) : (emptyV t r).ztag = t.ztag := rfl
@[simp] theorem emptyV_scanOp (t : Slot) (r : BitVec 5) : (emptyV t r).scanOp = t.scanOp := rfl
@[simp] theorem emptyV_records (t : Slot) (r : BitVec 5) : (emptyV t r).records = t.records := rfl
@[simp] theorem emptyV_unmatched (t : Slot) (r : BitVec 5) : (emptyV t r).unmatched = t.unmatched := rfl
@[simp] theorem emptyV_ending (t : Slot) (r : BitVec 5) : (emptyV t r).ending = t.ending := rfl
@[simp] theorem emptyV_inbox (t : Slot) (r : BitVec 5) : (emptyV t r).inbox = t.inbox := rfl
@[simp] theorem emptyV_det (t : Slot) (r : BitVec 5) : (emptyV t r).det = t.det := rfl
@[simp] theorem emptyV_events (t : Slot) (r : BitVec 5) : (emptyV t r).events = t.events := rfl
@[simp] theorem emptyV_answer (t : Slot) (r : BitVec 5) : (emptyV t r).answer = t.answer := rfl
@[simp] theorem emptyV_saving (t : Slot) (r : BitVec 5) : (emptyV t r).saving = t.saving := rfl
@[simp] theorem emptyV_blockedFor (t : Slot) (r : BitVec 5) : (emptyV t r).blockedFor = t.blockedFor := rfl
@[simp] theorem emptyV_readyFor (t : Slot) (r : BitVec 5) : (emptyV t r).readyFor = t.readyFor := rfl
@[simp] theorem emptyV_copied (t : Slot) (r : BitVec 5) : (emptyV t r).copied = t.copied := rfl
@[simp] theorem emptyV_tested (t : Slot) (r : BitVec 5) : (emptyV t r).tested = t.tested := rfl

@[simp] theorem addFlags_id (t : Slot) (f : BitVec 6) : (addFlags t f).id = t.id := rfl
@[simp] theorem addFlags_item (t : Slot) (f : BitVec 6) : (addFlags t f).item = t.item := rfl
@[simp] theorem addFlags_record (t : Slot) (f : BitVec 6) : (addFlags t f).record = t.record := rfl
@[simp] theorem addFlags_pins (t : Slot) (f : BitVec 6) : (addFlags t f).pins = t.pins := rfl
@[simp] theorem addFlags_phase (t : Slot) (f : BitVec 6) : (addFlags t f).phase = t.phase := rfl
@[simp] theorem addFlags_ctl (t : Slot) (f : BitVec 6) : (addFlags t f).ctl = t.ctl := rfl
@[simp] theorem addFlags_mx (t : Slot) (f : BitVec 6) : (addFlags t f).mx = t.mx := rfl
@[simp] theorem addFlags_cp (t : Slot) (f : BitVec 6) : (addFlags t f).cp = t.cp := rfl
@[simp] theorem addFlags_g (t : Slot) (f : BitVec 6) : (addFlags t f).g = t.g := rfl
@[simp] theorem addFlags_gEmpty (t : Slot) (f : BitVec 6) : (addFlags t f).gEmpty = t.gEmpty := rfl
@[simp] theorem addFlags_v (t : Slot) (f : BitVec 6) : (addFlags t f).v = t.v := rfl
@[simp] theorem addFlags_vEmpty (t : Slot) (f : BitVec 6) : (addFlags t f).vEmpty = t.vEmpty := rfl
@[simp] theorem addFlags_k (t : Slot) (f : BitVec 6) : (addFlags t f).k = t.k := rfl
@[simp] theorem addFlags_rows (t : Slot) (f : BitVec 6) : (addFlags t f).rows = t.rows := rfl
@[simp] theorem addFlags_wcode (t : Slot) (f : BitVec 6) : (addFlags t f).wcode = t.wcode := rfl
@[simp] theorem addFlags_h (t : Slot) (f : BitVec 6) : (addFlags t f).h = t.h := rfl
@[simp] theorem addFlags_walks (t : Slot) (f : BitVec 6) : (addFlags t f).walks = t.walks := rfl
@[simp] theorem addFlags_cache (t : Slot) (f : BitVec 6) : (addFlags t f).cache = t.cache := rfl
@[simp] theorem addFlags_q (t : Slot) (f : BitVec 6) : (addFlags t f).q = t.q := rfl
@[simp] theorem addFlags_ops (t : Slot) (f : BitVec 6) : (addFlags t f).ops = t.ops := rfl
@[simp] theorem addFlags_nextOp (t : Slot) (f : BitVec 6) : (addFlags t f).nextOp = t.nextOp := rfl
@[simp] theorem addFlags_deferred (t : Slot) (f : BitVec 6) : (addFlags t f).deferred = t.deferred := rfl
@[simp] theorem addFlags_settling (t : Slot) (f : BitVec 6) : (addFlags t f).settling = t.settling := rfl
@[simp] theorem addFlags_wait (t : Slot) (f : BitVec 6) : (addFlags t f).wait = t.wait := rfl
@[simp] theorem addFlags_mode (t : Slot) (f : BitVec 6) : (addFlags t f).mode = t.mode := rfl
@[simp] theorem addFlags_seed (t : Slot) (f : BitVec 6) : (addFlags t f).seed = t.seed := rfl
@[simp] theorem addFlags_tenant (t : Slot) (f : BitVec 6) : (addFlags t f).tenant = t.tenant := rfl
@[simp] theorem addFlags_context (t : Slot) (f : BitVec 6) : (addFlags t f).context = t.context := rfl
@[simp] theorem addFlags_trapv (t : Slot) (f : BitVec 6) : (addFlags t f).trapv = t.trapv := rfl
@[simp] theorem addFlags_stampb (t : Slot) (f : BitVec 6) : (addFlags t f).stampb = t.stampb := rfl
@[simp] theorem addFlags_slips (t : Slot) (f : BitVec 6) : (addFlags t f).slips = t.slips := rfl
@[simp] theorem addFlags_sig (t : Slot) (f : BitVec 6) : (addFlags t f).sig = t.sig := rfl
@[simp] theorem addFlags_digest (t : Slot) (f : BitVec 6) : (addFlags t f).digest = t.digest := rfl
@[simp] theorem addFlags_bfmt (t : Slot) (f : BitVec 6) : (addFlags t f).bfmt = t.bfmt := rfl
@[simp] theorem addFlags_banks (t : Slot) (f : BitVec 6) : (addFlags t f).banks = t.banks := rfl
@[simp] theorem addFlags_empty (t : Slot) (f : BitVec 6) : (addFlags t f).empty = t.empty := rfl
@[simp] theorem addFlags_conflict (t : Slot) (f : BitVec 6) : (addFlags t f).conflict = t.conflict := rfl
@[simp] theorem addFlags_owners (t : Slot) (f : BitVec 6) : (addFlags t f).owners = t.owners := rfl
@[simp] theorem addFlags_poison (t : Slot) (f : BitVec 6) : (addFlags t f).poison = t.poison := rfl
@[simp] theorem addFlags_acc (t : Slot) (f : BitVec 6) : (addFlags t f).acc = t.acc := rfl
@[simp] theorem addFlags_accFlags (t : Slot) (f : BitVec 6) : (addFlags t f).accFlags = t.accFlags := rfl
@[simp] theorem addFlags_tiles (t : Slot) (f : BitVec 6) : (addFlags t f).tiles = t.tiles := rfl
@[simp] theorem addFlags_wbuf (t : Slot) (f : BitVec 6) : (addFlags t f).wbuf = t.wbuf := rfl
@[simp] theorem addFlags_fifos (t : Slot) (f : BitVec 6) : (addFlags t f).fifos = t.fifos := rfl
@[simp] theorem addFlags_time (t : Slot) (f : BitVec 6) : (addFlags t f).time = t.time := rfl
@[simp] theorem addFlags_z (t : Slot) (f : BitVec 6) : (addFlags t f).z = t.z := rfl
@[simp] theorem addFlags_ztag (t : Slot) (f : BitVec 6) : (addFlags t f).ztag = t.ztag := rfl
@[simp] theorem addFlags_scanOp (t : Slot) (f : BitVec 6) : (addFlags t f).scanOp = t.scanOp := rfl
@[simp] theorem addFlags_records (t : Slot) (f : BitVec 6) : (addFlags t f).records = t.records := rfl
@[simp] theorem addFlags_unmatched (t : Slot) (f : BitVec 6) : (addFlags t f).unmatched = t.unmatched := rfl
@[simp] theorem addFlags_ending (t : Slot) (f : BitVec 6) : (addFlags t f).ending = t.ending := rfl
@[simp] theorem addFlags_inbox (t : Slot) (f : BitVec 6) : (addFlags t f).inbox = t.inbox := rfl
@[simp] theorem addFlags_det (t : Slot) (f : BitVec 6) : (addFlags t f).det = t.det := rfl
@[simp] theorem addFlags_events (t : Slot) (f : BitVec 6) : (addFlags t f).events = t.events := rfl
@[simp] theorem addFlags_answer (t : Slot) (f : BitVec 6) : (addFlags t f).answer = t.answer := rfl
@[simp] theorem addFlags_saving (t : Slot) (f : BitVec 6) : (addFlags t f).saving = t.saving := rfl
@[simp] theorem addFlags_blockedFor (t : Slot) (f : BitVec 6) : (addFlags t f).blockedFor = t.blockedFor := rfl
@[simp] theorem addFlags_readyFor (t : Slot) (f : BitVec 6) : (addFlags t f).readyFor = t.readyFor := rfl
@[simp] theorem addFlags_copied (t : Slot) (f : BitVec 6) : (addFlags t f).copied = t.copied := rfl
@[simp] theorem addFlags_tested (t : Slot) (f : BitVec 6) : (addFlags t f).tested = t.tested := rfl

@[simp] theorem addFlags_flags (t : Slot) (f : BitVec 6) : (addFlags t f).flags = t.flags ||| f := rfl

/-! ## Updates of a slot by its place -/

@[simp] theorem modSlot_agenda (s : State) (c : SlotId) (f : Slot → Slot) : (modSlot s c f).agenda = s.agenda := by
  unfold modSlot; split <;> rfl
@[simp] theorem modSlot_cycle (s : State) (c : SlotId) (f : Slot → Slot) : (modSlot s c f).cycle = s.cycle := by
  unfold modSlot; split <;> rfl
@[simp] theorem modSlot_stage (s : State) (c : SlotId) (f : Slot → Slot) : (modSlot s c f).stage = s.stage := by
  unfold modSlot; split <;> rfl
@[simp] theorem modSlot_mem (s : State) (c : SlotId) (f : Slot → Slot) : (modSlot s c f).mem = s.mem := by
  unfold modSlot; split <;> rfl
@[simp] theorem modSlot_poison (s : State) (c : SlotId) (f : Slot → Slot) : (modSlot s c f).poison = s.poison := by
  unfold modSlot; split <;> rfl
@[simp] theorem modSlot_lines (s : State) (c : SlotId) (f : Slot → Slot) : (modSlot s c f).lines = s.lines := by
  unfold modSlot; split <;> rfl
@[simp] theorem modSlot_detWords (s : State) (c : SlotId) (f : Slot → Slot) : (modSlot s c f).detWords = s.detWords := by
  unfold modSlot; split <;> rfl
@[simp] theorem modSlot_counters (s : State) (c : SlotId) (f : Slot → Slot) : (modSlot s c f).counters = s.counters := by
  unfold modSlot; split <;> rfl
@[simp] theorem modSlot_table (s : State) (c : SlotId) (f : Slot → Slot) : (modSlot s c f).table = s.table := by
  unfold modSlot; split <;> rfl
@[simp] theorem modSlot_classPages (s : State) (c : SlotId) (f : Slot → Slot) : (modSlot s c f).classPages = s.classPages := by
  unfold modSlot; split <;> rfl
@[simp] theorem modSlot_pinWays (s : State) (c : SlotId) (f : Slot → Slot) : (modSlot s c f).pinWays = s.pinWays := by
  unfold modSlot; split <;> rfl
@[simp] theorem modSlot_moves (s : State) (c : SlotId) (f : Slot → Slot) : (modSlot s c f).moves = s.moves := by
  unfold modSlot; split <;> rfl
@[simp] theorem modSlot_lastMove (s : State) (c : SlotId) (f : Slot → Slot) : (modSlot s c f).lastMove = s.lastMove := by
  unfold modSlot; split <;> rfl
@[simp] theorem modSlot_requests (s : State) (c : SlotId) (f : Slot → Slot) : (modSlot s c f).requests = s.requests := by
  unfold modSlot; split <;> rfl
@[simp] theorem modSlot_intake (s : State) (c : SlotId) (f : Slot → Slot) : (modSlot s c f).intake = s.intake := by
  unfold modSlot; split <;> rfl
@[simp] theorem modSlot_sourceNums (s : State) (c : SlotId) (f : Slot → Slot) : (modSlot s c f).sourceNums = s.sourceNums := by
  unfold modSlot; split <;> rfl
@[simp] theorem modSlot_barriers (s : State) (c : SlotId) (f : Slot → Slot) : (modSlot s c f).barriers = s.barriers := by
  unfold modSlot; split <;> rfl
@[simp] theorem modSlot_l1 (s : State) (c : SlotId) (f : Slot → Slot) : (modSlot s c f).l1 = s.l1 := by
  unfold modSlot; split <;> rfl
@[simp] theorem modSlot_fused (s : State) (c : SlotId) (f : Slot → Slot) : (modSlot s c f).fused = s.fused := by
  unfold modSlot; split <;> rfl
@[simp] theorem modSlot_cores (s : State) (c : SlotId) (f : Slot → Slot) : (modSlot s c f).cores = s.cores := by
  unfold modSlot; split <;> rfl
@[simp] theorem modSlot_access (s : State) (c : SlotId) (f : Slot → Slot) : (modSlot s c f).access = s.access := by
  unfold modSlot; split <;> rfl
@[simp] theorem modSlot_accessWas (s : State) (c : SlotId) (f : Slot → Slot) : (modSlot s c f).accessWas = s.accessWas := by
  unfold modSlot; split <;> rfl
@[simp] theorem modSlot_contexts (s : State) (c : SlotId) (f : Slot → Slot) : (modSlot s c f).contexts = s.contexts := by
  unfold modSlot; split <;> rfl
@[simp] theorem modSlot_tenants (s : State) (c : SlotId) (f : Slot → Slot) : (modSlot s c f).tenants = s.tenants := by
  unfold modSlot; split <;> rfl
@[simp] theorem modSlot_queues (s : State) (c : SlotId) (f : Slot → Slot) : (modSlot s c f).queues = s.queues := by
  unfold modSlot; split <;> rfl
@[simp] theorem modSlot_walkers (s : State) (c : SlotId) (f : Slot → Slot) : (modSlot s c f).walkers = s.walkers := by
  unfold modSlot; split <;> rfl
@[simp] theorem modSlot_kv (s : State) (c : SlotId) (f : Slot → Slot) : (modSlot s c f).kv = s.kv := by
  unfold modSlot; split <;> rfl
@[simp] theorem modSlot_carries (s : State) (c : SlotId) (f : Slot → Slot) : (modSlot s c f).carries = s.carries := by
  unfold modSlot; split <;> rfl
@[simp] theorem modSlot_acceptances (s : State) (c : SlotId) (f : Slot → Slot) : (modSlot s c f).acceptances = s.acceptances := by
  unfold modSlot; split <;> rfl
@[simp] theorem modSlot_replies (s : State) (c : SlotId) (f : Slot → Slot) : (modSlot s c f).replies = s.replies := by
  unfold modSlot; split <;> rfl
@[simp] theorem modSlot_broadcasts (s : State) (c : SlotId) (f : Slot → Slot) : (modSlot s c f).broadcasts = s.broadcasts := by
  unfold modSlot; split <;> rfl
@[simp] theorem modSlot_saved (s : State) (c : SlotId) (f : Slot → Slot) : (modSlot s c f).saved = s.saved := by
  unfold modSlot; split <;> rfl
@[simp] theorem modSlot_shootdowns (s : State) (c : SlotId) (f : Slot → Slot) : (modSlot s c f).shootdowns = s.shootdowns := by
  unfold modSlot; split <;> rfl
@[simp] theorem modSlot_saveSerial (s : State) (c : SlotId) (f : Slot → Slot) : (modSlot s c f).saveSerial = s.saveSerial := by
  unfold modSlot; split <;> rfl
@[simp] theorem modSlot_pageFaults (s : State) (c : SlotId) (f : Slot → Slot) : (modSlot s c f).pageFaults = s.pageFaults := by
  unfold modSlot; split <;> rfl
@[simp] theorem modSlot_pseed (s : State) (c : SlotId) (f : Slot → Slot) : (modSlot s c f).pseed = s.pseed := by
  unfold modSlot; split <;> rfl
@[simp] theorem modSlot_pseedWas (s : State) (c : SlotId) (f : Slot → Slot) : (modSlot s c f).pseedWas = s.pseedWas := by
  unfold modSlot; split <;> rfl
@[simp] theorem modSlot_devid (s : State) (c : SlotId) (f : Slot → Slot) : (modSlot s c f).devid = s.devid := by
  unfold modSlot; split <;> rfl
@[simp] theorem modSlot_port (s : State) (c : SlotId) (f : Slot → Slot) : (modSlot s c f).port = s.port := by
  unfold modSlot; split <;> rfl
@[simp] theorem modSlot_chains (s : State) (c : SlotId) (f : Slot → Slot) : (modSlot s c f).chains = s.chains := by
  unfold modSlot; split <;> rfl
@[simp] theorem modSlot_ringDown (s : State) (c : SlotId) (f : Slot → Slot) : (modSlot s c f).ringDown = s.ringDown := by
  unfold modSlot; split <;> rfl
@[simp] theorem modSlot_ucie (s : State) (c : SlotId) (f : Slot → Slot) : (modSlot s c f).ucie = s.ucie := by
  unfold modSlot; split <;> rfl
@[simp] theorem modSlot_translator (s : State) (c : SlotId) (f : Slot → Slot) : (modSlot s c f).translator = s.translator := by
  unfold modSlot; split <;> rfl
@[simp] theorem modSlot_mgmt (s : State) (c : SlotId) (f : Slot → Slot) : (modSlot s c f).mgmt = s.mgmt := by
  unfold modSlot; split <;> rfl
@[simp] theorem modSlot_errors (s : State) (c : SlotId) (f : Slot → Slot) : (modSlot s c f).errors = s.errors := by
  unfold modSlot; split <;> rfl
@[simp] theorem modSlot_draws (s : State) (c : SlotId) (f : Slot → Slot) : (modSlot s c f).draws = s.draws := by
  unfold modSlot; split <;> rfl

end Sys2Proof.Machine
end

