-- ==== Sys2Proof/Laws/Ops.lean ====
section
/-! SUPPORT. What the shared operations do: registers read after a write, how an instruction ends, and the states that
the shared endings answer. -/

namespace Sys2Proof.Machine

/-! ## Registers -/

/-- Another bit of a one-bit mask is 0. -/
theorem oneBit_getLsbD {w i j : Nat} (h : j ≠ i) : (1#w <<< i).getLsbD j = false := by
  simp only [BitVec.getLsbD_shiftLeft, BitVec.getLsbD_one]
  by_cases h3 : j < i
  · simp [h3]
  · have : j - i ≠ 0 := by omega
    simp [this]

theorem toNat_ne {n : Nat} {x y : BitVec n} (h : x ≠ y) : x.toNat ≠ y.toNat := fun e => h (BitVec.eq_of_toNat_eq e)

theorem gval_setG (t : Slot) (r q : BitVec 6) (x : Word) :
    gval (setG t r x) q = if q = r then (if r = 0 then 0 else x) else gval t q := by
  unfold gval setG
  by_cases hr : r = 0
  · rw [if_pos hr, if_pos hr]; subst hr; split <;> rfl
  · rw [if_neg hr, if_neg hr]
    by_cases hq : q = r
    · subst hq; rw [if_neg hr, if_pos rfl]; exact Vector.getElem_set_self _
    · rw [if_neg hq]; split
      · rfl
      · exact Vector.getElem_set_ne r.isLt q.isLt (toNat_ne (Ne.symm hq))

theorem gIsEmpty_setG (t : Slot) (r q : BitVec 6) (x : Word) :
    gIsEmpty (setG t r x) q = if q = r then false else gIsEmpty t q := by
  unfold gIsEmpty setG
  by_cases hr : r = 0
  · rw [if_pos hr]; subst hr
    by_cases h : q = 0
    · subst h; rfl
    · rw [if_neg h]
  · rw [if_neg hr]
    by_cases e : q = r
    · subst e; simp
    · have : q.toNat < 64 := q.isLt
      rw [if_neg e]
      simp only [BitVec.getLsbD_and, BitVec.getLsbD_not, oneBit_getLsbD (toNat_ne e), this, decide_true,
        Bool.not_false, Bool.and_true]

theorem gval_emptyG (t : Slot) (r q : BitVec 6) : gval (emptyG t r) q = gval t q := by
  unfold gval; simp

theorem gIsEmpty_emptyG (t : Slot) (r q : BitVec 6) :
    gIsEmpty (emptyG t r) q = (gIsEmpty t q || (decide (r = q) && decide (q ≠ 0))) := by
  unfold gIsEmpty emptyG
  by_cases hr : r = 0
  · rw [if_pos hr]; subst hr
    by_cases h : q = 0
    · subst h; rfl
    · have : ¬ (0 : BitVec 6) = q := fun e => h e.symm
      rw [decide_eq_false this]; simp
  · rw [if_neg hr]
    by_cases e : r = q
    · subst e
      have : r.toNat < 64 := r.isLt
      rw [decide_eq_true hr]; simp [this]
      exact fun h => absurd h hr
    · rw [decide_eq_false e]
      simp [oneBit_getLsbD (w := 64) (toNat_ne (Ne.symm e))]

theorem vval_setV (t : Slot) (r q : BitVec 5) (x : BitVec 4096) :
    vval (setV t r x) q = if q = r then x else vval t q := by
  unfold vval setV
  by_cases e : q = r
  · subst e; rw [if_pos rfl]; exact Vector.getElem_set_self _
  · rw [if_neg e]; exact Vector.getElem_set_ne r.isLt q.isLt (toNat_ne (Ne.symm e))

theorem vIsEmpty_setV (t : Slot) (r q : BitVec 5) (x : BitVec 4096) :
    vIsEmpty (setV t r x) q = if q = r then false else vIsEmpty t q := by
  unfold vIsEmpty setV
  by_cases e : q = r
  · subst e; simp
  · have : q.toNat < 32 := q.isLt
    rw [if_neg e]
    simp only [BitVec.getLsbD_and, BitVec.getLsbD_not, oneBit_getLsbD (toNat_ne e), this, decide_true,
      Bool.not_false, Bool.and_true]

/-- A source that is readable is full, settled, and the register's value. -/
theorem srcG_eq_ok {t : Slot} {r : BitVec 6} {fe : Bool} {x : Word} :
    srcG t r fe = .ok x ↔ gIsEmpty t r = false ∧ settled t .g r.toNat = true ∧ gval t r = x := by
  unfold srcG
  split
  · rename_i h; constructor
    · intro h'; split at h' <;> simp [raise, blockOn] at h'
    · intro h'; simp [h'.1] at h
  · rename_i h; split <;> simp_all

theorem dstG_eq_ok {t : Slot} {r : BitVec 6} {x : Unit} : dstG t r = .ok x ↔ gIsEmpty t r = false := by
  unfold dstG blockOn
  split <;> simp_all

theorem need_eq_ok {b : Bool} {c : BitVec 8} {w : Word} {x : Unit} : need b c w = .ok x ↔ b = true := by
  unfold need raise; split <;> simp_all

/-! ## Endings -/

/-- With power an instruction whose body succeeds answers its state. -/
theorem issue_ok {s t : State} {o : Opnd} (h : s.mgmt.powered = true) : issue s o (.ok t) = .next t := by
  simp [issue, h]

/-- With power an event answers its state. -/
theorem event_next {s t : State} (h : s.mgmt.powered = true) : event s t = .next t := by
  simp [event, h]

/-! ## Lists of results -/

theorem putGs_of_not_mem (gs : List (BitVec 6 × Word)) (t : Slot) (r : BitVec 6) (h : ∀ p ∈ gs, p.1 ≠ r) :
    gval (gs.foldl (fun t p => setG t p.1 p.2) t) r = gval t r
      ∧ gIsEmpty (gs.foldl (fun t p => setG t p.1 p.2) t) r = gIsEmpty t r := by
  induction gs generalizing t with
  | nil => exact ⟨rfl, rfl⟩
  | cons a gs ih =>
    have ha : ¬ r = a.1 := fun e => h a (by simp) e.symm
    have := ih (setG t a.1 a.2) (fun p hp => h p (by simp [hp]))
    simpa [gval_setG, gIsEmpty_setG, ha] using this

theorem putGs_of_mem (gs : List (BitVec 6 × Word)) (t : Slot) (hn : (gs.map Prod.fst).Nodup) (p : BitVec 6 × Word)
    (hp : p ∈ gs) :
    gval (gs.foldl (fun t p => setG t p.1 p.2) t) p.1 = (if p.1 = 0 then 0 else p.2)
      ∧ gIsEmpty (gs.foldl (fun t p => setG t p.1 p.2) t) p.1 = false := by
  induction gs generalizing t with
  | nil => simp at hp
  | cons a gs ih =>
    simp only [List.map_cons, List.nodup_cons] at hn
    rcases List.mem_cons.mp hp with rfl | hp
    · have := putGs_of_not_mem gs (setG t p.1 p.2) p.1 (fun q hq e => hn.1 (List.mem_map.mpr ⟨q, hq, e⟩))
      simpa [gval_setG, gIsEmpty_setG] using this
    · exact ih _ hn.2 hp

theorem putVs_of_not_mem (vs : List (BitVec 5 × BitVec 4096)) (t : Slot) (r : BitVec 5) (h : ∀ p ∈ vs, p.1 ≠ r) :
    vval (vs.foldl (fun t p => setV t p.1 p.2) t) r = vval t r
      ∧ vIsEmpty (vs.foldl (fun t p => setV t p.1 p.2) t) r = vIsEmpty t r := by
  induction vs generalizing t with
  | nil => exact ⟨rfl, rfl⟩
  | cons a vs ih =>
    have ha : ¬ r = a.1 := fun e => h a (by simp) e.symm
    have := ih (setV t a.1 a.2) (fun p hp => h p (by simp [hp]))
    simpa [vval_setV, vIsEmpty_setV, ha] using this

theorem putVs_of_mem (vs : List (BitVec 5 × BitVec 4096)) (t : Slot) (hn : (vs.map Prod.fst).Nodup)
    (p : BitVec 5 × BitVec 4096) (hp : p ∈ vs) :
    vval (vs.foldl (fun t p => setV t p.1 p.2) t) p.1 = p.2
      ∧ vIsEmpty (vs.foldl (fun t p => setV t p.1 p.2) t) p.1 = false := by
  induction vs generalizing t with
  | nil => simp at hp
  | cons a vs ih =>
    simp only [List.map_cons, List.nodup_cons] at hn
    rcases List.mem_cons.mp hp with rfl | hp
    · have := putVs_of_not_mem vs (setV t p.1 p.2) p.1 (fun q hq e => hn.1 (List.mem_map.mpr ⟨q, hq, e⟩))
      simpa [vval_setV, vIsEmpty_setV] using this
    · exact ih _ hn.2 hp

/-- Writing general registers changes only them. -/
theorem putGs_slot (gs : List (BitVec 6 × Word)) (t : Slot) :
    gs.foldl (fun t p => setG t p.1 p.2) t
      = { t with g := (gs.foldl (fun t p => setG t p.1 p.2) t).g, gEmpty := (gs.foldl (fun t p => setG t p.1 p.2) t).gEmpty } := by
  induction gs generalizing t with
  | nil => rfl
  | cons a gs ih =>
    simp only [List.foldl_cons]
    rw [ih]
    unfold setG
    split <;> rfl

theorem putVs_slot (vs : List (BitVec 5 × BitVec 4096)) (t : Slot) :
    vs.foldl (fun t p => setV t p.1 p.2) t
      = { t with v := (vs.foldl (fun t p => setV t p.1 p.2) t).v, vEmpty := (vs.foldl (fun t p => setV t p.1 p.2) t).vEmpty } := by
  induction vs generalizing t with
  | nil => rfl
  | cons a vs ih =>
    simp only [List.foldl_cons]
    rw [ih]
    rfl

theorem emptyGs (gs : List (BitVec 6 × Word)) (t : Slot) (r : BitVec 6) :
    gval (gs.foldl (fun t p => emptyG t p.1) t) r = gval t r
      ∧ gIsEmpty (gs.foldl (fun t p => emptyG t p.1) t) r = (gIsEmpty t r || gs.any (fun p => p.1 = r && r ≠ 0)) := by
  induction gs generalizing t with
  | nil => simp
  | cons a gs ih =>
    have := ih (emptyG t a.1)
    simp only [List.foldl_cons, List.any_cons]
    rw [this.1, this.2, gval_emptyG, gIsEmpty_emptyG, Bool.or_assoc]
    exact ⟨rfl, rfl⟩

theorem vIsEmpty_emptyV (t : Slot) (r q : BitVec 5) : vIsEmpty (emptyV t r) q = (vIsEmpty t q || decide (r = q)) := by
  unfold vIsEmpty emptyV
  by_cases e : r = q
  · subst e; have : r.toNat < 32 := r.isLt; simp [this]
  · simp [e, oneBit_getLsbD (w := 32) (toNat_ne (Ne.symm e))]

theorem emptyVs (vs : List (BitVec 5 × BitVec 4096)) (t : Slot) (r : BitVec 5) :
    vval (vs.foldl (fun t p => emptyV t p.1) t) r = vval t r
      ∧ vIsEmpty (vs.foldl (fun t p => emptyV t p.1) t) r = (vIsEmpty t r || vs.any (fun p => p.1 = r)) := by
  induction vs generalizing t with
  | nil => simp
  | cons a vs ih =>
    have := ih (emptyV t a.1)
    simp only [List.foldl_cons, List.any_cons]
    rw [this.1, this.2, vIsEmpty_emptyV, Bool.or_assoc]
    exact ⟨rfl, rfl⟩

theorem emptyGs_slot (gs : List (BitVec 6 × Word)) (t : Slot) :
    gs.foldl (fun t p => emptyG t p.1) t = { t with gEmpty := (gs.foldl (fun t p => emptyG t p.1) t).gEmpty } := by
  induction gs generalizing t with
  | nil => rfl
  | cons a gs ih =>
    simp only [List.foldl_cons]
    rw [ih]
    unfold emptyG
    split <;> rfl

theorem emptyVs_slot (vs : List (BitVec 5 × BitVec 4096)) (t : Slot) :
    vs.foldl (fun t p => emptyV t p.1) t = { t with vEmpty := (vs.foldl (fun t p => emptyV t p.1) t).vEmpty } := by
  induction vs generalizing t with
  | nil => rfl
  | cons a vs ih =>
    simp only [List.foldl_cons]
    rw [ih]
    rfl

theorem settles_slot (vs : List (BitVec 5 × BitVec 4096)) (t : Slot) (n : Nat) :
    vs.foldl (fun t p => settle .v p.1.toNat n t) t
      = { t with settling := (vs.foldl (fun t p => settle .v p.1.toNat n t) t).settling } := by
  induction vs generalizing t with
  | nil => rfl
  | cons a vs ih =>
    simp only [List.foldl_cons]
    rw [ih]
    unfold settle
    split <;> rfl

theorem settlesG_slot (gs : List (BitVec 6 × Word)) (t : Slot) (n : Nat) :
    gs.foldl (fun t p => settle .g p.1.toNat n t) t
      = { t with settling := (gs.foldl (fun t p => settle .g p.1.toNat n t) t).settling } := by
  induction gs generalizing t with
  | nil => rfl
  | cons a gs ih =>
    simp only [List.foldl_cons]
    rw [ih]
    unfold settle
    split <;> rfl

/-- What `finishL` leaves. -/
theorem wroteLong_finishL (s : State) (o : Opnd) (gs : List (BitVec 6 × Word)) (vs : List (BitVec 5 × BitVec 4096))
    (fl : BitVec 6) (b : Bool) (n : Nat) (hg : (gs.map Prod.fst).Nodup) (hv : (vs.map Prod.fst).Nodup) :
    wroteLong b s (finishL s o gs vs fl b n) o gs vs fl n := by
  unfold wroteLong finishL
  cases b
  · simp only [Bool.false_eq_true, if_false]
    have e1 := putGs_slot gs s.cur
    have e2 := putVs_slot vs (gs.foldl (fun t p => setG t p.1 p.2) s.cur)
    have e3 := settlesG_slot gs (addFlags (vs.foldl (fun t p => setV t p.1 p.2) (gs.foldl (fun t p => setG t p.1 p.2) s.cur)) fl) n
    have e4 := settles_slot vs (gs.foldl (fun t p => settle .g p.1.toNat n t)
      (addFlags (vs.foldl (fun t p => setV t p.1 p.2) (gs.foldl (fun t p => setG t p.1 p.2) s.cur)) fl)) n
    refine ⟨?_, ?_, ⟨fun p hp => ?_, fun r hr => ?_⟩, ⟨fun p hp => ?_, fun r hr => ?_⟩, ?_, ?_, ?_, ?_⟩ <;>
      simp only [holdFor, advance, jump, onCur, regsOnly, memByte, bankByte, implies_true] <;> rw [e4, e3] <;>
      simp only [addFlags] <;> rw [e2, e1]
    · have := putGs_of_mem gs s.cur hg p hp
      exact this
    · have := putGs_of_not_mem gs s.cur r hr
      exact this
    · have := putVs_of_mem vs (gs.foldl (fun t p => setG t p.1 p.2) s.cur) hv p hp
      rw [e1] at this
      exact this
    · have := putVs_of_not_mem vs (gs.foldl (fun t p => setG t p.1 p.2) s.cur) r hr
      rw [e1] at this
      exact this
    · intro _; rfl
  · simp only [if_true]
    have e1 := emptyGs_slot gs s.cur
    have e2 := emptyVs_slot vs (gs.foldl (fun t p => emptyG t p.1) s.cur)
    refine ⟨?_, ?_, fun r => ?_, fun r => ?_, ?_, ?_, ?_, ?_⟩ <;>
      simp only [advance, jump, onCur, regsOnly, memByte, bankByte, implies_true] <;> rw [e2, e1]
    · have := emptyGs gs s.cur r
      exact ⟨rfl, this.2⟩
    · have := (emptyVs vs (gs.foldl (fun t p => emptyG t p.1) s.cur) r).2
      rw [e1] at this
      exact ⟨rfl, this⟩
    · intro _; rfl

/-- What `finishV` leaves. -/
theorem wrote_finishV (s : State) (o : Opnd) (vs : List (BitVec 5 × BitVec 4096)) (fl : BitVec 6) (n : Nat)
    (hv : (vs.map Prod.fst).Nodup) : wrote s (finishV s o vs fl n) o [] vs fl := by
  have e1 := putVs_slot vs s.cur
  have e2 := settles_slot vs (addFlags (vs.foldl (fun t p => setV t p.1 p.2) s.cur) fl) n
  refine ⟨?_, ?_, ⟨fun p hp => ?_, fun r hr => ?_⟩, ⟨fun p hp => ?_, fun r hr => ?_⟩, ?_, ?_, ?_, ?_⟩ <;>
    simp only [finishV, advance, jump, onCur, regsOnly, memByte, bankByte, implies_true] <;> rw [e2, e1]
  · rfl
  · rfl
  · simp at hp
  · exact ⟨rfl, rfl⟩
  · have := putVs_of_mem vs s.cur hv p hp
    exact this
  · have := putVs_of_not_mem vs s.cur r hr
    exact this
  · rfl
  · rfl
  · intro _; rfl

/-- What `finishG` leaves: the register, FLAGS, the program counter, and nothing else. -/
theorem wrote_finishG (s : State) (o : Opnd) (d : BitVec 6) (x : Word) (fl : BitVec 6) (n : Nat) :
    wrote s (finishG s o d x fl n) o [(d, x)] [] fl := by
  refine ⟨?_, ?_, ⟨?_, ?_⟩, ⟨?_, ?_⟩, ?_, ?_, ?_, ?_⟩
  · simp [finishG]
  · simp only [regsOnly, finishG, advance, jump, onCur]
    unfold settle setG
    split <;> split <;> rfl
  · simp only [List.mem_singleton, forall_eq]
    constructor
    · have : gval (finishG s o d x fl n).cur d = gval (setG s.cur d x) d := by unfold gval; simp [finishG]
      rw [this, gval_setG]; simp
    · have : gIsEmpty (finishG s o d x fl n).cur d = gIsEmpty (setG s.cur d x) d := by unfold gIsEmpty; simp [finishG]
      rw [this, gIsEmpty_setG]; simp
  · intro r hr
    have hr : ¬ r = d := fun e => hr (d, x) (by simp) e.symm
    constructor
    · have : gval (finishG s o d x fl n).cur r = gval (setG s.cur d x) r := by unfold gval; simp [finishG]
      rw [this, gval_setG]; simp [hr]
    · have : gIsEmpty (finishG s o d x fl n).cur r = gIsEmpty (setG s.cur d x) r := by unfold gIsEmpty; simp [finishG]
      rw [this, gIsEmpty_setG]; simp [hr]
  · simp
  · intro r _; simp [vval, vIsEmpty, finishG]
  · simp [finishG]
  · simp [finishG]
  · intro a; simp [memByte, finishG]
  · intro a; simp [bankByte, finishG]

/-- An instruction that ends with `finishG` writes one register. -/
theorem finishG_writes {i : Instr} {s : State} {o : Opnd} {d : BitVec 6} {x : Word} {fl : BitVec 6} {n : Nat}
    (h : exec i s = .next (finishG s o d x fl n)) : writes1 i s o d x fl := ⟨_, h, wrote_finishG ..⟩

end Sys2Proof.Machine
end

