-- ==== Sys2Proof/Laws/PerInstr.lean ====
section
/-! SUPPORT. What holds of every instruction as syntax, made per constructor. -/

namespace Sys2Proof.Laws

/-! ## The encoding takes one, two or three words, or the 64 bytes of a record (R227, R232) -/

/-- An instruction that has an encoding has one of 4, 8 or 12 bytes, or a record of 64. -/
def EncodedLength.Statement (i : Instr) : Prop :=
  ∀ bs, encode i = some bs → bs.length ∈ [4, 8, 12, 64]

theorem bytesOf_length (n w : Nat) : (bytesOf n w).length = n := by simp [bytesOf]

/-- An instruction with an opcode is encoded in the words of its format. -/
theorem encodedLength_word {i : Instr} {op : BitVec 7} {o : Opnd} (h : opcodeOf i = some (op, o)) :
    EncodedLength.Statement i := by
  intro bs e
  unfold encode at e
  have hw : ∃ w, encodeWord i = some w := by
    unfold encodeWord
    rw [h]
    dsimp only
    split <;> exact ⟨_, rfl⟩
  obtain ⟨w, hw⟩ := hw
  rw [h, hw] at e
  simp only [Option.some.injEq] at e
  subst e
  rw [bytesOf_length]
  cases o.fmt <;> simp

/-- Anything else is a record, or has no encoding. -/
theorem encodedLength_other {i : Instr} (h : opcodeOf i = none) : EncodedLength.Statement i := by
  intro bs e
  unfold encode at e
  rw [h] at e
  have e' : (encodeRecord i).map (fun v => bytesOf 64 v.toNat) = some bs := by
    rw [← e]; cases encodeWord i <;> rfl
  obtain ⟨v, -, rfl⟩ := Option.map_eq_some_iff.1 e'
  simp [bytesOf_length]

theorem EncodedLength.nop : ∀ a0, EncodedLength.Statement (Instr.nop a0) := fun _ => encodedLength_word rfl
theorem EncodedLength.endCtl : ∀ a0, EncodedLength.Statement (Instr.endCtl a0) := fun _ => encodedLength_word rfl
theorem EncodedLength.br : ∀ a0, EncodedLength.Statement (Instr.br a0) := fun _ => encodedLength_word rfl
theorem EncodedLength.brc : ∀ a0, EncodedLength.Statement (Instr.brc a0) := fun _ => encodedLength_word rfl
theorem EncodedLength.bri : ∀ a0, EncodedLength.Statement (Instr.bri a0) := fun _ => encodedLength_word rfl
theorem EncodedLength.call : ∀ a0, EncodedLength.Statement (Instr.call a0) := fun _ => encodedLength_word rfl
theorem EncodedLength.ret : ∀ a0, EncodedLength.Statement (Instr.ret a0) := fun _ => encodedLength_word rfl
theorem EncodedLength.loop : ∀ a0, EncodedLength.Statement (Instr.loop a0) := fun _ => encodedLength_word rfl
theorem EncodedLength.trap : ∀ a0, EncodedLength.Statement (Instr.trap a0) := fun _ => encodedLength_word rfl
theorem EncodedLength.sysrd : ∀ a0, EncodedLength.Statement (Instr.sysrd a0) := fun _ => encodedLength_word rfl
theorem EncodedLength.sysrdFlags : ∀ a0, EncodedLength.Statement (Instr.sysrdFlags a0) := fun _ => encodedLength_word rfl
theorem EncodedLength.syswr : ∀ a0, EncodedLength.Statement (Instr.syswr a0) := fun _ => encodedLength_word rfl
theorem EncodedLength.syswrMode : ∀ a0, EncodedLength.Statement (Instr.syswrMode a0) := fun _ => encodedLength_word rfl
theorem EncodedLength.syswrBfmt : ∀ a0, EncodedLength.Statement (Instr.syswrBfmt a0) := fun _ => encodedLength_word rfl
theorem EncodedLength.syswrFlags : ∀ a0, EncodedLength.Statement (Instr.syswrFlags a0) := fun _ => encodedLength_word rfl
theorem EncodedLength.syswrStampb : ∀ a0, EncodedLength.Statement (Instr.syswrStampb a0) := fun _ => encodedLength_word rfl
theorem EncodedLength.syswrTrapv : ∀ a0, EncodedLength.Statement (Instr.syswrTrapv a0) := fun _ => encodedLength_word rfl
theorem EncodedLength.getmode : ∀ a0, EncodedLength.Statement (Instr.getmode a0) := fun _ => encodedLength_word rfl
theorem EncodedLength.setmode : ∀ a0, EncodedLength.Statement (Instr.setmode a0) := fun _ => encodedLength_word rfl
theorem EncodedLength.signrd : ∀ a0, EncodedLength.Statement (Instr.signrd a0) := fun _ => encodedLength_word rfl
theorem EncodedLength.feat : ∀ a0, EncodedLength.Statement (Instr.feat a0) := fun _ => encodedLength_word rfl
theorem EncodedLength.rdtime : ∀ a0, EncodedLength.Statement (Instr.rdtime a0) := fun _ => encodedLength_word rfl
theorem EncodedLength.stamp : ∀ a0, EncodedLength.Statement (Instr.stamp a0) := fun _ => encodedLength_word rfl
theorem EncodedLength.yield : ∀ a0, EncodedLength.Statement (Instr.yield a0) := fun _ => encodedLength_word rfl
theorem EncodedLength.launch : ∀ a0, EncodedLength.Statement (Instr.launch a0) := fun _ => encodedLength_word rfl
theorem EncodedLength.cancel : ∀ a0, EncodedLength.Statement (Instr.cancel a0) := fun _ => encodedLength_word rfl
theorem EncodedLength.cancelItem : ∀ a0, EncodedLength.Statement (Instr.cancelItem a0) := fun _ => encodedLength_word rfl
theorem EncodedLength.runMx : ∀ a0, EncodedLength.Statement (Instr.runMx a0) := fun _ => encodedLength_word rfl
theorem EncodedLength.runCp : ∀ a0, EncodedLength.Statement (Instr.runCp a0) := fun _ => encodedLength_word rfl
theorem EncodedLength.add : ∀ a0, EncodedLength.Statement (Instr.add a0) := fun _ => encodedLength_word rfl
theorem EncodedLength.addi : ∀ a0, EncodedLength.Statement (Instr.addi a0) := fun _ => encodedLength_word rfl
theorem EncodedLength.sub : ∀ a0, EncodedLength.Statement (Instr.sub a0) := fun _ => encodedLength_word rfl
theorem EncodedLength.mul : ∀ a0, EncodedLength.Statement (Instr.mul a0) := fun _ => encodedLength_word rfl
theorem EncodedLength.mulh : ∀ a0, EncodedLength.Statement (Instr.mulh a0) := fun _ => encodedLength_word rfl
theorem EncodedLength.div : ∀ a0, EncodedLength.Statement (Instr.div a0) := fun _ => encodedLength_word rfl
theorem EncodedLength.rem : ∀ a0, EncodedLength.Statement (Instr.rem a0) := fun _ => encodedLength_word rfl
theorem EncodedLength.and : ∀ a0, EncodedLength.Statement (Instr.and a0) := fun _ => encodedLength_word rfl
theorem EncodedLength.or : ∀ a0, EncodedLength.Statement (Instr.or a0) := fun _ => encodedLength_word rfl
theorem EncodedLength.xor : ∀ a0, EncodedLength.Statement (Instr.xor a0) := fun _ => encodedLength_word rfl
theorem EncodedLength.shl : ∀ a0, EncodedLength.Statement (Instr.shl a0) := fun _ => encodedLength_word rfl
theorem EncodedLength.shr : ∀ a0, EncodedLength.Statement (Instr.shr a0) := fun _ => encodedLength_word rfl
theorem EncodedLength.sar : ∀ a0, EncodedLength.Statement (Instr.sar a0) := fun _ => encodedLength_word rfl
theorem EncodedLength.rot : ∀ a0, EncodedLength.Statement (Instr.rot a0) := fun _ => encodedLength_word rfl
theorem EncodedLength.min : ∀ a0, EncodedLength.Statement (Instr.min a0) := fun _ => encodedLength_word rfl
theorem EncodedLength.max : ∀ a0, EncodedLength.Statement (Instr.max a0) := fun _ => encodedLength_word rfl
theorem EncodedLength.abs : ∀ a0, EncodedLength.Statement (Instr.abs a0) := fun _ => encodedLength_word rfl
theorem EncodedLength.sel : ∀ a0, EncodedLength.Statement (Instr.sel a0) := fun _ => encodedLength_word rfl
theorem EncodedLength.cmp : ∀ a0, EncodedLength.Statement (Instr.cmp a0) := fun _ => encodedLength_word rfl
theorem EncodedLength.clz : ∀ a0, EncodedLength.Statement (Instr.clz a0) := fun _ => encodedLength_word rfl
theorem EncodedLength.popc : ∀ a0, EncodedLength.Statement (Instr.popc a0) := fun _ => encodedLength_word rfl
theorem EncodedLength.bfx : ∀ a0, EncodedLength.Statement (Instr.bfx a0) := fun _ => encodedLength_word rfl
theorem EncodedLength.bfi : ∀ a0, EncodedLength.Statement (Instr.bfi a0) := fun _ => encodedLength_word rfl
theorem EncodedLength.li : ∀ a0, EncodedLength.Statement (Instr.li a0) := fun _ => encodedLength_word rfl
theorem EncodedLength.mov : ∀ a0, EncodedLength.Statement (Instr.mov a0) := fun _ => encodedLength_word rfl
theorem EncodedLength.addr : ∀ a0, EncodedLength.Statement (Instr.addr a0) := fun _ => encodedLength_word rfl
theorem EncodedLength.cvt : ∀ a0, EncodedLength.Statement (Instr.cvt a0) := fun _ => encodedLength_word rfl
theorem EncodedLength.fadd : ∀ a0, EncodedLength.Statement (Instr.fadd a0) := fun _ => encodedLength_word rfl
theorem EncodedLength.fmul : ∀ a0, EncodedLength.Statement (Instr.fmul a0) := fun _ => encodedLength_word rfl
theorem EncodedLength.ffma : ∀ a0, EncodedLength.Statement (Instr.ffma a0) := fun _ => encodedLength_word rfl
theorem EncodedLength.fmin : ∀ a0, EncodedLength.Statement (Instr.fmin a0) := fun _ => encodedLength_word rfl
theorem EncodedLength.fmax : ∀ a0, EncodedLength.Statement (Instr.fmax a0) := fun _ => encodedLength_word rfl
theorem EncodedLength.fcmp : ∀ a0, EncodedLength.Statement (Instr.fcmp a0) := fun _ => encodedLength_word rfl
theorem EncodedLength.ld : ∀ a0, EncodedLength.Statement (Instr.ld a0) := fun _ => encodedLength_word rfl
theorem EncodedLength.st : ∀ a0, EncodedLength.Statement (Instr.st a0) := fun _ => encodedLength_word rfl
theorem EncodedLength.stT : ∀ a0, EncodedLength.Statement (Instr.stT a0) := fun _ => encodedLength_word rfl
theorem EncodedLength.ldv : ∀ a0, EncodedLength.Statement (Instr.ldv a0) := fun _ => encodedLength_word rfl
theorem EncodedLength.stv : ∀ a0, EncodedLength.Statement (Instr.stv a0) := fun _ => encodedLength_word rfl
theorem EncodedLength.ldfe : ∀ a0, EncodedLength.Statement (Instr.ldfe a0) := fun _ => encodedLength_word rfl
theorem EncodedLength.stfe : ∀ a0, EncodedLength.Statement (Instr.stfe a0) := fun _ => encodedLength_word rfl
theorem EncodedLength.feset : ∀ a0, EncodedLength.Statement (Instr.feset a0) := fun _ => encodedLength_word rfl
theorem EncodedLength.feclr : ∀ a0, EncodedLength.Statement (Instr.feclr a0) := fun _ => encodedLength_word rfl
theorem EncodedLength.fepeek : ∀ a0, EncodedLength.Statement (Instr.fepeek a0) := fun _ => encodedLength_word rfl
theorem EncodedLength.xlat : ∀ a0, EncodedLength.Statement (Instr.xlat a0) := fun _ => encodedLength_word rfl
theorem EncodedLength.hrel : ∀ a0, EncodedLength.Statement (Instr.hrel a0) := fun _ => encodedLength_word rfl
theorem EncodedLength.hinfo : ∀ a0, EncodedLength.Statement (Instr.hinfo a0) := fun _ => encodedLength_word rfl
theorem EncodedLength.atom : ∀ a0, EncodedLength.Statement (Instr.atom a0) := fun _ => encodedLength_word rfl
theorem EncodedLength.cas : ∀ a0, EncodedLength.Statement (Instr.cas a0) := fun _ => encodedLength_word rfl
theorem EncodedLength.xchg : ∀ a0, EncodedLength.Statement (Instr.xchg a0) := fun _ => encodedLength_word rfl
theorem EncodedLength.mark : ∀ a0, EncodedLength.Statement (Instr.mark a0) := fun _ => encodedLength_word rfl
theorem EncodedLength.fenceAcq : ∀ a0, EncodedLength.Statement (Instr.fenceAcq a0) := fun _ => encodedLength_word rfl
theorem EncodedLength.fenceRel : ∀ a0, EncodedLength.Statement (Instr.fenceRel a0) := fun _ => encodedLength_word rfl
theorem EncodedLength.fenceAr : ∀ a0, EncodedLength.Statement (Instr.fenceAr a0) := fun _ => encodedLength_word rfl
theorem EncodedLength.fenceWack : ∀ a0, EncodedLength.Statement (Instr.fenceWack a0) := fun _ => encodedLength_word rfl
theorem EncodedLength.wait : ∀ a0, EncodedLength.Statement (Instr.wait a0) := fun _ => encodedLength_word rfl
theorem EncodedLength.qpub : ∀ a0, EncodedLength.Statement (Instr.qpub a0) := fun _ => encodedLength_word rfl
theorem EncodedLength.qpubOff : ∀ a0, EncodedLength.Statement (Instr.qpubOff a0) := fun _ => encodedLength_word rfl
theorem EncodedLength.bararr : ∀ a0, EncodedLength.Statement (Instr.bararr a0) := fun _ => encodedLength_word rfl
theorem EncodedLength.barexp : ∀ a0, EncodedLength.Statement (Instr.barexp a0) := fun _ => encodedLength_word rfl
theorem EncodedLength.gather : ∀ a0, EncodedLength.Statement (Instr.gather a0) := fun _ => encodedLength_word rfl
theorem EncodedLength.cinv : ∀ a0, EncodedLength.Statement (Instr.cinv a0) := fun _ => encodedLength_word rfl
theorem EncodedLength.cwb : ∀ a0, EncodedLength.Statement (Instr.cwb a0) := fun _ => encodedLength_word rfl
theorem EncodedLength.pref : ∀ a0, EncodedLength.Statement (Instr.pref a0) := fun _ => encodedLength_word rfl
theorem EncodedLength.vadd : ∀ a0, EncodedLength.Statement (Instr.vadd a0) := fun _ => encodedLength_word rfl
theorem EncodedLength.vsub : ∀ a0, EncodedLength.Statement (Instr.vsub a0) := fun _ => encodedLength_word rfl
theorem EncodedLength.vmul : ∀ a0, EncodedLength.Statement (Instr.vmul a0) := fun _ => encodedLength_word rfl
theorem EncodedLength.vfma : ∀ a0, EncodedLength.Statement (Instr.vfma a0) := fun _ => encodedLength_word rfl
theorem EncodedLength.vmin : ∀ a0, EncodedLength.Statement (Instr.vmin a0) := fun _ => encodedLength_word rfl
theorem EncodedLength.vmax : ∀ a0, EncodedLength.Statement (Instr.vmax a0) := fun _ => encodedLength_word rfl
theorem EncodedLength.vabs : ∀ a0, EncodedLength.Statement (Instr.vabs a0) := fun _ => encodedLength_word rfl
theorem EncodedLength.vneg : ∀ a0, EncodedLength.Statement (Instr.vneg a0) := fun _ => encodedLength_word rfl
theorem EncodedLength.vdiv : ∀ a0, EncodedLength.Statement (Instr.vdiv a0) := fun _ => encodedLength_word rfl
theorem EncodedLength.vsqrt : ∀ a0, EncodedLength.Statement (Instr.vsqrt a0) := fun _ => encodedLength_word rfl
theorem EncodedLength.vrsqrt : ∀ a0, EncodedLength.Statement (Instr.vrsqrt a0) := fun _ => encodedLength_word rfl
theorem EncodedLength.vrcp : ∀ a0, EncodedLength.Statement (Instr.vrcp a0) := fun _ => encodedLength_word rfl
theorem EncodedLength.vexp2 : ∀ a0, EncodedLength.Statement (Instr.vexp2 a0) := fun _ => encodedLength_word rfl
theorem EncodedLength.vlog2 : ∀ a0, EncodedLength.Statement (Instr.vlog2 a0) := fun _ => encodedLength_word rfl
theorem EncodedLength.vcvt : ∀ a0, EncodedLength.Statement (Instr.vcvt a0) := fun _ => encodedLength_word rfl
theorem EncodedLength.vcmp : ∀ a0, EncodedLength.Statement (Instr.vcmp a0) := fun _ => encodedLength_word rfl
theorem EncodedLength.vsel : ∀ a0, EncodedLength.Statement (Instr.vsel a0) := fun _ => encodedLength_word rfl
theorem EncodedLength.vand : ∀ a0, EncodedLength.Statement (Instr.vand a0) := fun _ => encodedLength_word rfl
theorem EncodedLength.vor : ∀ a0, EncodedLength.Statement (Instr.vor a0) := fun _ => encodedLength_word rfl
theorem EncodedLength.vxor : ∀ a0, EncodedLength.Statement (Instr.vxor a0) := fun _ => encodedLength_word rfl
theorem EncodedLength.vshl : ∀ a0, EncodedLength.Statement (Instr.vshl a0) := fun _ => encodedLength_word rfl
theorem EncodedLength.vshr : ∀ a0, EncodedLength.Statement (Instr.vshr a0) := fun _ => encodedLength_word rfl
theorem EncodedLength.viadd : ∀ a0, EncodedLength.Statement (Instr.viadd a0) := fun _ => encodedLength_word rfl
theorem EncodedLength.visub : ∀ a0, EncodedLength.Statement (Instr.visub a0) := fun _ => encodedLength_word rfl
theorem EncodedLength.vdot4 : ∀ a0, EncodedLength.Statement (Instr.vdot4 a0) := fun _ => encodedLength_word rfl
theorem EncodedLength.vred : ∀ a0, EncodedLength.Statement (Instr.vred a0) := fun _ => encodedLength_word rfl
theorem EncodedLength.vscan : ∀ a0, EncodedLength.Statement (Instr.vscan a0) := fun _ => encodedLength_word rfl
theorem EncodedLength.vshuf : ∀ a0, EncodedLength.Statement (Instr.vshuf a0) := fun _ => encodedLength_word rfl
theorem EncodedLength.vbcastG : ∀ a0, EncodedLength.Statement (Instr.vbcastG a0) := fun _ => encodedLength_word rfl
theorem EncodedLength.vbcastImm : ∀ a0, EncodedLength.Statement (Instr.vbcastImm a0) := fun _ => encodedLength_word rfl
theorem EncodedLength.vbcastRow : ∀ a0, EncodedLength.Statement (Instr.vbcastRow a0) := fun _ => encodedLength_word rfl
theorem EncodedLength.vbcastCol : ∀ a0, EncodedLength.Statement (Instr.vbcastCol a0) := fun _ => encodedLength_word rfl
theorem EncodedLength.vtrans : ∀ a0, EncodedLength.Statement (Instr.vtrans a0) := fun _ => encodedLength_word rfl
theorem EncodedLength.vmove : ∀ a0, EncodedLength.Statement (Instr.vmove a0) := fun _ => encodedLength_word rfl
theorem EncodedLength.vmoveTog : ∀ a0, EncodedLength.Statement (Instr.vmoveTog a0) := fun _ => encodedLength_word rfl
theorem EncodedLength.vmoveFromg : ∀ a0, EncodedLength.Statement (Instr.vmoveFromg a0) := fun _ => encodedLength_word rfl
theorem EncodedLength.vshape : ∀ a0, EncodedLength.Statement (Instr.vshape a0) := fun _ => encodedLength_word rfl
theorem EncodedLength.vshapeRd : ∀ a0, EncodedLength.Statement (Instr.vshapeRd a0) := fun _ => encodedLength_word rfl
theorem EncodedLength.kset : ∀ a0, EncodedLength.Statement (Instr.kset a0) := fun _ => encodedLength_word rfl
theorem EncodedLength.kadd : ∀ a0, EncodedLength.Statement (Instr.kadd a0) := fun _ => encodedLength_word rfl
theorem EncodedLength.kmin : ∀ a0, EncodedLength.Statement (Instr.kmin a0) := fun _ => encodedLength_word rfl
theorem EncodedLength.vidx : ∀ a0, EncodedLength.Statement (Instr.vidx a0) := fun _ => encodedLength_word rfl
theorem EncodedLength.vrand : ∀ a0, EncodedLength.Statement (Instr.vrand a0) := fun _ => encodedLength_word rfl
theorem EncodedLength.trpack : ∀ a0, EncodedLength.Statement (Instr.trpack a0) := fun _ => encodedLength_word rfl
theorem EncodedLength.trunpack : ∀ a0, EncodedLength.Statement (Instr.trunpack a0) := fun _ => encodedLength_word rfl
theorem EncodedLength.trsplit : ∀ a0, EncodedLength.Statement (Instr.trsplit a0) := fun _ => encodedLength_word rfl
theorem EncodedLength.sopset : ∀ a0, EncodedLength.Statement (Instr.sopset a0) := fun _ => encodedLength_word rfl
theorem EncodedLength.scanl : ∀ a0, EncodedLength.Statement (Instr.scanl a0) := fun _ => encodedLength_word rfl
theorem EncodedLength.scan : ∀ a0, EncodedLength.Statement (Instr.scan a0) := fun _ => encodedLength_word rfl
theorem EncodedLength.sstep : ∀ a0, EncodedLength.Statement (Instr.sstep a0) := fun _ => encodedLength_word rfl
theorem EncodedLength.sld : ∀ a0, EncodedLength.Statement (Instr.sld a0) := fun _ => encodedLength_word rfl
theorem EncodedLength.sst : ∀ a0, EncodedLength.Statement (Instr.sst a0) := fun _ => encodedLength_word rfl
theorem EncodedLength.sbind : ∀ a0, EncodedLength.Statement (Instr.sbind a0) := fun _ => encodedLength_word rfl
theorem EncodedLength.sbindNew : ∀ a0, EncodedLength.Statement (Instr.sbindNew a0) := fun _ => encodedLength_word rfl
theorem EncodedLength.sspill : ∀ a0, EncodedLength.Statement (Instr.sspill a0) := fun _ => encodedLength_word rfl
theorem EncodedLength.sfill : ∀ a0, EncodedLength.Statement (Instr.sfill a0) := fun _ => encodedLength_word rfl
theorem EncodedLength.chsend : ∀ a0, EncodedLength.Statement (Instr.chsend a0) := fun _ => encodedLength_word rfl
theorem EncodedLength.chrecv : ∀ a0, EncodedLength.Statement (Instr.chrecv a0) := fun _ => encodedLength_word rfl
theorem EncodedLength.kvopen : ∀ a0, EncodedLength.Statement (Instr.kvopen a0) := fun _ => encodedLength_word rfl
theorem EncodedLength.kvclose : ∀ a0, EncodedLength.Statement (Instr.kvclose a0) := fun _ => encodedLength_word rfl
theorem EncodedLength.kvfork : ∀ a0, EncodedLength.Statement (Instr.kvfork a0) := fun _ => encodedLength_word rfl
theorem EncodedLength.kvappend : ∀ a0, EncodedLength.Statement (Instr.kvappend a0) := fun _ => encodedLength_word rfl
theorem EncodedLength.kvevict : ∀ a0, EncodedLength.Statement (Instr.kvevict a0) := fun _ => encodedLength_word rfl
theorem EncodedLength.kvcompact : ∀ a0, EncodedLength.Statement (Instr.kvcompact a0) := fun _ => encodedLength_word rfl
theorem EncodedLength.kvmap : ∀ a0, EncodedLength.Statement (Instr.kvmap a0) := fun _ => encodedLength_word rfl
theorem EncodedLength.kvmapV : ∀ a0, EncodedLength.Statement (Instr.kvmapV a0) := fun _ => encodedLength_word rfl
theorem EncodedLength.kvdraft : ∀ a0, EncodedLength.Statement (Instr.kvdraft a0) := fun _ => encodedLength_word rfl
theorem EncodedLength.kvaccept : ∀ a0, EncodedLength.Statement (Instr.kvaccept a0) := fun _ => encodedLength_word rfl
theorem EncodedLength.kvreject : ∀ a0, EncodedLength.Statement (Instr.kvreject a0) := fun _ => encodedLength_word rfl
theorem EncodedLength.kvprefixLook : ∀ a0, EncodedLength.Statement (Instr.kvprefixLook a0) := fun _ => encodedLength_word rfl
theorem EncodedLength.kvprefixIns : ∀ a0, EncodedLength.Statement (Instr.kvprefixIns a0) := fun _ => encodedLength_word rfl
theorem EncodedLength.qsend : ∀ a0, EncodedLength.Statement (Instr.qsend a0) := fun _ => encodedLength_word rfl
theorem EncodedLength.qsendReply : ∀ a0, EncodedLength.Statement (Instr.qsendReply a0) := fun _ => encodedLength_word rfl
theorem EncodedLength.adot : ∀ a0, EncodedLength.Statement (Instr.adot a0) := fun _ => encodedLength_word rfl
theorem EncodedLength.aacc : ∀ a0, EncodedLength.Statement (Instr.aacc a0) := fun _ => encodedLength_word rfl
theorem EncodedLength.mxldw : ∀ a0 a1, EncodedLength.Statement (Instr.mxldw a0 a1) := fun _ _ => encodedLength_other rfl
theorem EncodedLength.mxacc : ∀ a0 a1, EncodedLength.Statement (Instr.mxacc a0 a1) := fun _ _ => encodedLength_other rfl
theorem EncodedLength.mxdrain : ∀ a0 a1, EncodedLength.Statement (Instr.mxdrain a0 a1) := fun _ _ => encodedLength_other rfl
theorem EncodedLength.mxzero : ∀ a0 a1, EncodedLength.Statement (Instr.mxzero a0 a1) := fun _ _ => encodedLength_other rfl
theorem EncodedLength.mxperm : ∀ a0 a1, EncodedLength.Statement (Instr.mxperm a0 a1) := fun _ _ => encodedLength_other rfl
theorem EncodedLength.mxred : ∀ a0 a1, EncodedLength.Statement (Instr.mxred a0 a1) := fun _ _ => encodedLength_other rfl
theorem EncodedLength.mxtrn : ∀ a0 a1, EncodedLength.Statement (Instr.mxtrn a0 a1) := fun _ _ => encodedLength_other rfl
theorem EncodedLength.mxsave : ∀ a0 a1, EncodedLength.Statement (Instr.mxsave a0 a1) := fun _ _ => encodedLength_other rfl
theorem EncodedLength.mxrest : ∀ a0 a1, EncodedLength.Statement (Instr.mxrest a0 a1) := fun _ _ => encodedLength_other rfl
theorem EncodedLength.mxstamp : ∀ a0 a1, EncodedLength.Statement (Instr.mxstamp a0 a1) := fun _ _ => encodedLength_other rfl
theorem EncodedLength.mxend : ∀ a0, EncodedLength.Statement (Instr.mxend a0) := fun _ => encodedLength_other rfl
theorem EncodedLength.cpy : ∀ a0 a1, EncodedLength.Statement (Instr.cpy a0 a1) := fun _ _ => encodedLength_other rfl
theorem EncodedLength.cpyind : ∀ a0 a1, EncodedLength.Statement (Instr.cpyind a0 a1) := fun _ _ => encodedLength_other rfl
theorem EncodedLength.cpyfifo : ∀ a0 a1, EncodedLength.Statement (Instr.cpyfifo a0 a1) := fun _ _ => encodedLength_other rfl
theorem EncodedLength.cpynet : ∀ a0 a1, EncodedLength.Statement (Instr.cpynet a0 a1) := fun _ _ => encodedLength_other rfl
theorem EncodedLength.cpyfill : ∀ a0 a1, EncodedLength.Statement (Instr.cpyfill a0 a1) := fun _ _ => encodedLength_other rfl
theorem EncodedLength.rcfence : ∀ a0, EncodedLength.Statement (Instr.rcfence a0) := fun _ => encodedLength_other rfl
theorem EncodedLength.cpyend : ∀ a0, EncodedLength.Statement (Instr.cpyend a0) := fun _ => encodedLength_other rfl
theorem EncodedLength.matrixIterationStart : ∀ a0, EncodedLength.Statement (Instr.matrixIterationStart a0) := fun _ => encodedLength_other rfl
theorem EncodedLength.tileRowLand : ∀ a0, EncodedLength.Statement (Instr.tileRowLand a0) := fun _ => encodedLength_other rfl
theorem EncodedLength.recordComplete : ∀ a0 a1 a2, EncodedLength.Statement (Instr.recordComplete a0 a1 a2) := fun _ _ _ => encodedLength_other rfl
theorem EncodedLength.deferredWrite : ∀ a0 a1, EncodedLength.Statement (Instr.deferredWrite a0 a1) := fun _ _ => encodedLength_other rfl
theorem EncodedLength.streamUnblock : ∀ a0 a1, EncodedLength.Statement (Instr.streamUnblock a0 a1) := fun _ _ => encodedLength_other rfl
theorem EncodedLength.waitReturn : ∀ a0, EncodedLength.Statement (Instr.waitReturn a0) := fun _ => encodedLength_other rfl
theorem EncodedLength.waitTimeout : ∀ a0, EncodedLength.Statement (Instr.waitTimeout a0) := fun _ => encodedLength_other rfl
theorem EncodedLength.xlatCacheHitFill : ∀ a0 a1, EncodedLength.Statement (Instr.xlatCacheHitFill a0 a1) := fun _ _ => encodedLength_other rfl
theorem EncodedLength.retranslationHitRefill : ∀ a0 a1, EncodedLength.Statement (Instr.retranslationHitRefill a0 a1) := fun _ _ => encodedLength_other rfl
theorem EncodedLength.ackTimer : ∀ a0, EncodedLength.Statement (Instr.ackTimer a0) := fun _ => encodedLength_other rfl
theorem EncodedLength.retransmitTimeout : ∀ a0, EncodedLength.Statement (Instr.retransmitTimeout a0) := fun _ => encodedLength_other rfl
theorem EncodedLength.translationWalkComplete : ∀ a0 a1, EncodedLength.Statement (Instr.translationWalkComplete a0 a1) := fun _ _ => encodedLength_other rfl
theorem EncodedLength.shootdownInvalidation : ∀ a0 a1 a2 a3, EncodedLength.Statement (Instr.shootdownInvalidation a0 a1 a2 a3) := fun _ _ _ _ => encodedLength_other rfl
theorem EncodedLength.shootdownAck : ∀ a0, EncodedLength.Statement (Instr.shootdownAck a0) := fun _ => encodedLength_other rfl
theorem EncodedLength.homeSliceRequest : ∀ a0, EncodedLength.Statement (Instr.homeSliceRequest a0) := fun _ => encodedLength_other rfl
theorem EncodedLength.backoffResend : ∀ a0, EncodedLength.Statement (Instr.backoffResend a0) := fun _ => encodedLength_other rfl
theorem EncodedLength.derailleurMoveStart : ∀ a0 a1 a2, EncodedLength.Statement (Instr.derailleurMoveStart a0 a1 a2) := fun _ _ _ => encodedLength_other rfl
theorem EncodedLength.derailleurHold : ∀ a0, EncodedLength.Statement (Instr.derailleurHold a0) := fun _ => encodedLength_other rfl
theorem EncodedLength.derailleurFlush : ∀ a0, EncodedLength.Statement (Instr.derailleurFlush a0) := fun _ => encodedLength_other rfl
theorem EncodedLength.derailleurRelease : ∀ a0, EncodedLength.Statement (Instr.derailleurRelease a0) := fun _ => encodedLength_other rfl
theorem EncodedLength.gatherLineReply : ∀ a0 a1 a2, EncodedLength.Statement (Instr.gatherLineReply a0 a1 a2) := fun _ _ _ => encodedLength_other rfl
theorem EncodedLength.copyElement : ∀ a0 a1 a2, EncodedLength.Statement (Instr.copyElement a0 a1 a2) := fun _ _ _ => encodedLength_other rfl
theorem EncodedLength.scanUnitStart : ∀ a0, EncodedLength.Statement (Instr.scanUnitStart a0) := fun _ => encodedLength_other rfl
theorem EncodedLength.scanComplete : ∀ a0, EncodedLength.Statement (Instr.scanComplete a0) := fun _ => encodedLength_other rfl
theorem EncodedLength.scanHubCombine : ∀ a0, EncodedLength.Statement (Instr.scanHubCombine a0) := fun _ => encodedLength_other rfl
theorem EncodedLength.pannierTransferComplete : ∀ a0 a1 a2, EncodedLength.Statement (Instr.pannierTransferComplete a0 a1 a2) := fun _ _ _ => encodedLength_other rfl
theorem EncodedLength.carryArrival : ∀ a0, EncodedLength.Statement (Instr.carryArrival a0) := fun _ => encodedLength_other rfl
theorem EncodedLength.acceptancePacketArrival : ∀ a0, EncodedLength.Statement (Instr.acceptancePacketArrival a0) := fun _ => encodedLength_other rfl
theorem EncodedLength.chainPacket : ∀ a0 a1, EncodedLength.Statement (Instr.chainPacket a0 a1) := fun _ _ => encodedLength_other rfl
theorem EncodedLength.kvopenAtSlice0 : ∀ a0 a1, EncodedLength.Statement (Instr.kvopenAtSlice0 a0 a1) := fun _ _ => encodedLength_other rfl
theorem EncodedLength.kvOperationPerform : ∀ a0 a1, EncodedLength.Statement (Instr.kvOperationPerform a0 a1) := fun _ _ => encodedLength_other rfl
theorem EncodedLength.deadHandleBroadcast : ∀ a0, EncodedLength.Statement (Instr.deadHandleBroadcast a0) := fun _ => encodedLength_other rfl
theorem EncodedLength.tierMove : ∀ a0 a1 a2 a3, EncodedLength.Statement (Instr.tierMove a0 a1 a2 a3) := fun _ _ _ _ => encodedLength_other rfl
theorem EncodedLength.queryEntryEnqueue : ∀ a0 a1, EncodedLength.Statement (Instr.queryEntryEnqueue a0 a1) := fun _ _ => encodedLength_other rfl
theorem EncodedLength.queryDelivery : ∀ a0 a1, EncodedLength.Statement (Instr.queryDelivery a0 a1) := fun _ _ => encodedLength_other rfl
theorem EncodedLength.queryReplyArrival : ∀ a0, EncodedLength.Statement (Instr.queryReplyArrival a0) := fun _ => encodedLength_other rfl
theorem EncodedLength.qpubForward : ∀ a0 a1, EncodedLength.Statement (Instr.qpubForward a0 a1) := fun _ _ => encodedLength_other rfl
theorem EncodedLength.barrierHomeUpdate : ∀ a0, EncodedLength.Statement (Instr.barrierHomeUpdate a0) := fun _ => encodedLength_other rfl
theorem EncodedLength.barrierPhaseSignal : ∀ a0, EncodedLength.Statement (Instr.barrierPhaseSignal a0) := fun _ => encodedLength_other rfl
theorem EncodedLength.walkerStep : ∀ a0, EncodedLength.Statement (Instr.walkerStep a0) := fun _ => encodedLength_other rfl
theorem EncodedLength.troupeReservation : ∀ a0, EncodedLength.Statement (Instr.troupeReservation a0) := fun _ => encodedLength_other rfl
theorem EncodedLength.reservationPreempt : ∀ a0, EncodedLength.Statement (Instr.reservationPreempt a0) := fun _ => encodedLength_other rfl
theorem EncodedLength.itemRetire : ∀ a0, EncodedLength.Statement (Instr.itemRetire a0) := fun _ => encodedLength_other rfl
theorem EncodedLength.launchCompletion : ∀ a0 a1, EncodedLength.Statement (Instr.launchCompletion a0 a1) := fun _ _ => encodedLength_other rfl
theorem EncodedLength.slotSwitch : ∀ a0, EncodedLength.Statement (Instr.slotSwitch a0) := fun _ => encodedLength_other rfl
theorem EncodedLength.blockedSwitchTrigger : ∀ a0, EncodedLength.Statement (Instr.blockedSwitchTrigger a0) := fun _ => encodedLength_other rfl
theorem EncodedLength.prioritySwitchTrigger : ∀ a0, EncodedLength.Statement (Instr.prioritySwitchTrigger a0) := fun _ => encodedLength_other rfl
theorem EncodedLength.timeSliceSwitchTrigger : ∀ a0, EncodedLength.Statement (Instr.timeSliceSwitchTrigger a0) := fun _ => encodedLength_other rfl
theorem EncodedLength.asyncEventTake : ∀ a0, EncodedLength.Statement (Instr.asyncEventTake a0) := fun _ => encodedLength_other rfl
theorem EncodedLength.heldCompletion : ∀ a0, EncodedLength.Statement (Instr.heldCompletion a0) := fun _ => encodedLength_other rfl
theorem EncodedLength.restore : ∀ a0, EncodedLength.Statement (Instr.restore a0) := fun _ => encodedLength_other rfl
theorem EncodedLength.powerUp : ∀ a0, EncodedLength.Statement (Instr.powerUp a0) := fun _ => encodedLength_other rfl
theorem EncodedLength.contextLost : ∀ a0 a1, EncodedLength.Statement (Instr.contextLost a0 a1) := fun _ _ => encodedLength_other rfl
theorem EncodedLength.scrub : ∀ a0, EncodedLength.Statement (Instr.scrub a0) := fun _ => encodedLength_other rfl
theorem EncodedLength.framePut : ∀ a0, EncodedLength.Statement (Instr.framePut a0) := fun _ => encodedLength_other rfl
theorem EncodedLength.frameGetreq : ∀ a0, EncodedLength.Statement (Instr.frameGetreq a0) := fun _ => encodedLength_other rfl
theorem EncodedLength.frameGetdata : ∀ a0, EncodedLength.Statement (Instr.frameGetdata a0) := fun _ => encodedLength_other rfl
theorem EncodedLength.frameAck : ∀ a0, EncodedLength.Statement (Instr.frameAck a0) := fun _ => encodedLength_other rfl
theorem EncodedLength.frameNak : ∀ a0, EncodedLength.Statement (Instr.frameNak a0) := fun _ => encodedLength_other rfl
theorem EncodedLength.frameLaunch : ∀ a0, EncodedLength.Statement (Instr.frameLaunch a0) := fun _ => encodedLength_other rfl
theorem EncodedLength.frameLresult : ∀ a0, EncodedLength.Statement (Instr.frameLresult a0) := fun _ => encodedLength_other rfl
theorem EncodedLength.frameCancel : ∀ a0, EncodedLength.Statement (Instr.frameCancel a0) := fun _ => encodedLength_other rfl
theorem EncodedLength.frameReport : ∀ a0, EncodedLength.Statement (Instr.frameReport a0) := fun _ => encodedLength_other rfl
theorem EncodedLength.frameRefuse : ∀ a0, EncodedLength.Statement (Instr.frameRefuse a0) := fun _ => encodedLength_other rfl
theorem EncodedLength.frameDamagedDrop : ∀ a0 a1, EncodedLength.Statement (Instr.frameDamagedDrop a0 a1) := fun _ _ => encodedLength_other rfl
theorem EncodedLength.portDown : ∀ a0, EncodedLength.Statement (Instr.portDown a0) := fun _ => encodedLength_other rfl
theorem EncodedLength.portRetrainComplete : EncodedLength.Statement (Instr.portRetrainComplete) := encodedLength_other rfl
theorem EncodedLength.mgmtSetDevid : ∀ a0 a1, EncodedLength.Statement (Instr.mgmtSetDevid a0 a1) := fun _ _ => encodedLength_other rfl
theorem EncodedLength.mgmtWritePseed : ∀ a0 a1, EncodedLength.Statement (Instr.mgmtWritePseed a0 a1) := fun _ _ => encodedLength_other rfl
theorem EncodedLength.mgmtTenant : ∀ a0 a1 a2 a3, EncodedLength.Statement (Instr.mgmtTenant a0 a1 a2 a3) := fun _ _ _ _ => encodedLength_other rfl
theorem EncodedLength.mgmtAssignQueue : ∀ a0 a1 a2, EncodedLength.Statement (Instr.mgmtAssignQueue a0 a1 a2) := fun _ _ _ => encodedLength_other rfl
theorem EncodedLength.mgmtAccessTable : ∀ a0 a1 a2 a3, EncodedLength.Statement (Instr.mgmtAccessTable a0 a1 a2 a3) := fun _ _ _ _ => encodedLength_other rfl
theorem EncodedLength.mgmtCreateContext : ∀ a0 a1 a2 a3 a4, EncodedLength.Statement (Instr.mgmtCreateContext a0 a1 a2 a3 a4) := fun _ _ _ _ _ => encodedLength_other rfl
theorem EncodedLength.mgmtPageFaultAnswer : ∀ a0 a1 a2 a3 a4, EncodedLength.Statement (Instr.mgmtPageFaultAnswer a0 a1 a2 a3 a4) := fun _ _ _ _ _ => encodedLength_other rfl
theorem EncodedLength.mgmtPreempt : ∀ a0 a1 a2 a3, EncodedLength.Statement (Instr.mgmtPreempt a0 a1 a2 a3) := fun _ _ _ _ => encodedLength_other rfl
theorem EncodedLength.mgmtLoadObject : ∀ a0 a1 a2 a3 a4 a5 a6 a7, EncodedLength.Statement (Instr.mgmtLoadObject a0 a1 a2 a3 a4 a5 a6 a7) := fun _ _ _ _ _ _ _ _ => encodedLength_other rfl
theorem EncodedLength.mgmtAttestation : ∀ a0 a1 a2, EncodedLength.Statement (Instr.mgmtAttestation a0 a1 a2) := fun _ _ _ => encodedLength_other rfl
theorem EncodedLength.mgmtPowerCap : ∀ a0 a1, EncodedLength.Statement (Instr.mgmtPowerCap a0 a1) := fun _ _ => encodedLength_other rfl
theorem EncodedLength.mgmtPackageReset : ∀ a0, EncodedLength.Statement (Instr.mgmtPackageReset a0) := fun _ => encodedLength_other rfl
theorem EncodedLength.mgmtMapPages : ∀ a0 a1 a2 a3 a4, EncodedLength.Statement (Instr.mgmtMapPages a0 a1 a2 a3 a4) := fun _ _ _ _ _ => encodedLength_other rfl
theorem EncodedLength.mgmtMigrate : ∀ a0 a1 a2 a3 a4, EncodedLength.Statement (Instr.mgmtMigrate a0 a1 a2 a3 a4) := fun _ _ _ _ _ => encodedLength_other rfl
theorem EncodedLength.mgmtQueryQueue : ∀ a0 a1 a2 a3 a4, EncodedLength.Statement (Instr.mgmtQueryQueue a0 a1 a2 a3 a4) := fun _ _ _ _ _ => encodedLength_other rfl
theorem EncodedLength.mgmtLinkParameters : ∀ a0 a1 a2 a3 a4, EncodedLength.Statement (Instr.mgmtLinkParameters a0 a1 a2 a3 a4) := fun _ _ _ _ _ => encodedLength_other rfl
theorem EncodedLength.mgmtPinPartition : ∀ a0 a1, EncodedLength.Statement (Instr.mgmtPinPartition a0 a1) := fun _ _ => encodedLength_other rfl
theorem EncodedLength.mgmtSpillGrant : ∀ a0 a1, EncodedLength.Statement (Instr.mgmtSpillGrant a0 a1) := fun _ _ => encodedLength_other rfl
theorem EncodedLength.mgmtSigningKeys : ∀ a0 a1 a2 a3 a4, EncodedLength.Statement (Instr.mgmtSigningKeys a0 a1 a2 a3 a4) := fun _ _ _ _ _ => encodedLength_other rfl
theorem EncodedLength.flitReceive : ∀ a0 a1, EncodedLength.Statement (Instr.flitReceive a0 a1) := fun _ _ => encodedLength_other rfl
theorem EncodedLength.linkRetrain : ∀ a0 a1, EncodedLength.Statement (Instr.linkRetrain a0 a1) := fun _ _ => encodedLength_other rfl
theorem EncodedLength.bootHandshake : ∀ a0 a1 a2 a3, EncodedLength.Statement (Instr.bootHandshake a0 a1 a2 a3) := fun _ _ _ _ => encodedLength_other rfl
theorem EncodedLength.thermalWithhold : ∀ a0 a1, EncodedLength.Statement (Instr.thermalWithhold a0 a1) := fun _ _ => encodedLength_other rfl
theorem EncodedLength.thermalPreempt : ∀ a0 a1, EncodedLength.Statement (Instr.thermalPreempt a0 a1) := fun _ _ => encodedLength_other rfl
theorem EncodedLength.thermalTrip : ∀ a0, EncodedLength.Statement (Instr.thermalTrip a0) := fun _ => encodedLength_other rfl
theorem EncodedLength.powerCapCheck : ∀ a0, EncodedLength.Statement (Instr.powerCapCheck a0) := fun _ => encodedLength_other rfl
theorem EncodedLength.powerRemoval : EncodedLength.Statement (Instr.powerRemoval) := encodedLength_other rfl

end Sys2Proof.Laws
end

