-- ==== Sys2Proof/Tests/Slice0.lean ====
section
/-! SUPPORT. Tests: the well-formedness checks refuse an ill-formed term each, words written out from the encodings decode
to their instructions, single steps give hand-calculated results, and states that meet the hypotheses of the statements. -/

namespace Sys2Proof.Tests

open Machine

set_option Elab.async false

/-! ## A small machine -/

/-- The item of the slot of the tests. -/
def item0 : Item := { queue := 0, ordinal := 1, index := 0, wid := 0, rank := 0, size := 0, dispatched := 0 }

/-- General registers with some values set. -/
def regs (gs : List (Fin 64 × Word)) : Vector Word 64 := gs.foldl (fun v p => v.set p.1 p.2) (Vector.replicate 64 0)

/-- Slot 0 of core 0 runs item 0 of a launch that declares every bank, tile, state slot and counter. Its tenant is
firmware's, which every target admits. -/
def slot0 : Slot :=
  { id := ⟨0, false⟩, item := some item0, record := probeRecord
    pins := [{ va := 0x10000, len := 0x10000, pa := 0 }]
    ctl := { running := true, pc := 0x10000 }, g := regs [(1, 5), (2, 7)], wcode := 2
    k := Vector.replicate 8 0x8080, trapv := BitVec.allOnes 64, stampb := 64 }

/-- The machine of the tests, in cc 100. -/
def st0 : State := { cur := slot0, cycle := 100 }

/-- As `st0`, with the slot changed. -/
def with0 (f : Slot → Slot) : State := { st0 with cur := f slot0 }

/-- Operands in a 64-bit format. -/
def o64 (d a b : BitVec 6) : Opnd := { fmt := .c64, d, a, b }

/-- As `st0`, with general registers set. -/
def withG (gs : List (Fin 64 × Word)) : State := with0 (fun t => { t with g := regs gs })

/-- The state after an instruction that gives a next state. -/
def after (i : Instr) (s : State) : Option State := match exec i s with | .next t => some t | _ => none

/-- A general register and FLAGS after an instruction. -/
def out (i : Instr) (s : State) (r : BitVec 6) : Option (Word × BitVec 6) :=
  (after i s).map (fun t => (gval t.cur r, t.cur.flags))

/-- What a user handler finds after an instruction (R431): the fault code in g60, and the operand in g62. -/
def trapped (i : Instr) (s : State) : Option (BitVec 8 × Word) :=
  (after i s).map (fun t => ((gval t.cur 60).extractLsb' 0 8, gval t.cur 62))

/-- An answer that is there is the answer. -/
theorem ok_of {α : Type} {x : Res α} {v : α} (h : x.toOption = some v) : x = .ok v := by
  cases x with
  | error => cases h
  | ok b => simpa [Except.toOption] using h

/-- Something is answered. -/
theorem ok_some {α : Type} {x : Res α} (h : x.toOption.isSome = true) : ∃ v, x = .ok v := by
  cases x with
  | error => cases h
  | ok b => exact ⟨b, rfl⟩

/-- An instruction that is read is the one decoded. -/
theorem dec_of {x : Except Nat Instr} {i : Instr} (h : x.toOption = some i) : x = .ok i := by
  cases x with
  | error => cases h
  | ok b => simpa [Except.toOption] using h

/-! ## Decoding -/

/-- Every control-stream word decodes to its instruction, whose encoding is the word again. -/
def wordsDecode (l : List (Nat × Nat × Instr)) : Bool :=
  l.all (fun p => decide (decodeTableWord p.1 p.2.1 = some p.2.2)
    && decide (encode p.2.2 = some (bytesOf (p.1 / 8) p.2.1)))

/-- Every 64-byte word decodes to its record, whose encoding is the word again. -/
def recordsDecode (l : List (Nat × Instr)) : Bool :=
  l.all (fun p => decide (decodeTableWord 512 p.1 = some p.2) && decide (encode p.2 = some (bytesOf 64 p.1)))

/-- Control flow: words packed by the field table of R228 with the opcodes of R241 and the entries of R264 to R266, R213. -/
theorem test_decode_control_flow :
    wordsDecode [
      (32, 0x00000001, .nop { fmt := .c32, d := 0, a := 0, b := 0 }),
      (32, 0x00000005, .endCtl { fmt := .c32, d := 0, a := 0, b := 0 }),
      (64, 0xFFFC00000000000A, .br { fmt := .c64, d := 0, a := 0, b := 0, imm16 := 0xFFFC }),
      (96, 0xDEADBEEF00000C0A047F000F,
        .brc { fmt := .c96, d := 0, a := 62, b := 35, fn := 5, feA := true, feB := true, lit32 := 0xDEADBEEF }),
      (64, 0x0040000000088012, .bri { fmt := .c64, d := 0, a := 17, b := 0, imm16 := 0x40 }),
      (96, 0x800000000000000000001217, .call { fmt := .c96, d := 9, a := 0, b := 0, lit32 := 0x80000000 }),
      (32, 0x00108019, .ret { fmt := .c32, d := 0, a := 33, b := 0 }),
      (64, 0xFFFE020000003E1E, .loop { fmt := .c64, d := 31, a := 0, b := 0, feD := true, imm16 := 0xFFFE }),
      (64, 0xABCD000000000022, .trap { fmt := .c64, d := 0, a := 0, b := 0, imm16 := 0xABCD }),
      (32, 0x00000031, .yield { fmt := .c32, d := 0, a := 0, b := 0 }),
      (96, 0x12345678000020020001003B,
        .runMx { fmt := .c96, d := 0, a := 2, b := 0, fn := 1, lvl := 1, lit32 := 0x12345678 }),
      (64, 0xFFC02404001F803A,
        .runCp { fmt := .c64, d := 0, a := 63, b := 0, fn := 2, feA := true, lvl := 1, imm16 := 0xFFC0 })] = true := by decide +kernel

/-- System: words packed by the field table of R228 with the opcodes of R241 and the entries of R267 to R276, R91, R92, R41. -/
theorem test_decode_system :
    wordsDecode [
      (64, 0x0008000000000826, .sysrd { fmt := .c64, d := 4, a := 0, b := 0, imm16 := 0x8 }),
      (64, 0x0011000000000826, .sysrdFlags { fmt := .c64, d := 4, a := 0, b := 0, imm16 := 0x11 }),
      (64, 0x0012000200028026, .syswr { fmt := .c64, d := 0, a := 5, b := 0, fn := 1, imm16 := 0x12 }),
      (64, 0x0010000200028026, .syswrMode { fmt := .c64, d := 0, a := 5, b := 0, fn := 1, imm16 := 0x10 }),
      (64, 0x004F040200028026, .syswrBfmt { fmt := .c64, d := 0, a := 5, b := 0, fn := 1, feA := true, imm16 := 0x4F }),
      (64, 0x0011000200028026, .syswrFlags { fmt := .c64, d := 0, a := 5, b := 0, fn := 1, imm16 := 0x11 }),
      (64, 0x0007000200028026, .syswrStampb { fmt := .c64, d := 0, a := 5, b := 0, fn := 1, imm16 := 0x7 }),
      (64, 0x0006000200028026, .syswrTrapv { fmt := .c64, d := 0, a := 5, b := 0, fn := 1, imm16 := 0x6 }),
      (32, 0x10007A25, .getmode { fmt := .c32, d := 61, a := 0, b := 0, fn := 2 }),
      (64, 0x003F000600060026, .setmode { fmt := .c64, d := 0, a := 12, b := 0, fn := 3, imm16 := 0x3F }),
      (32, 0x20038C25, .signrd { fmt := .c32, d := 6, a := 7, b := 0, fn := 4 }),
      (64, 0x0003000000038C2A, .feat { fmt := .c64, d := 6, a := 7, b := 0, imm16 := 0x3 }),
      (64, 0x000020000000102E, .rdtime { fmt := .c64, d := 8, a := 0, b := 0, lvl := 1 }),
      (64, 0x7FFF00020004902E, .stamp { fmt := .c64, d := 8, a := 9, b := 0, fn := 1, imm16 := 0x7FFF }),
      (64, 0x01000C01F8478236,
        .launch { fmt := .c64, d := 1, a := 15, b := 2, c := 63, feA := true, feB := true, imm16 := 0x100 }),
      (64, 0x0000000340010236, .cancel { fmt := .c64, d := 1, a := 2, b := 0, c := 40, fn := 1 }),
      (64, 0x0000200200010236, .cancelItem { fmt := .c64, d := 1, a := 2, b := 0, fn := 1, lvl := 1 })] = true := by decide +kernel

/-- Integer: words packed by the field table of R228 with the opcodes of R241 and the entries of R277 to R280. -/
theorem test_decode_integer :
    wordsDecode [
      (32, 0x0FBF7E41, .add { fmt := .c32, d := 63, a := 62, b := 61, fn := 1 }),
      (96, 0xFFFFFFFF0000000600010247, .addi { fmt := .c96, d := 1, a := 2, b := 0, fn := 3, lit32 := 0xFFFFFFFF }),
      (64, 0x00FF00040061024A, .sub { fmt := .c64, d := 1, a := 2, b := 3, fn := 2, imm16 := 0xFF }),
      (64, 0x000008040061024E, .mul { fmt := .c64, d := 1, a := 2, b := 3, fn := 2, feB := true }),
      (32, 0x13CA1451, .mulh { fmt := .c32, d := 10, a := 20, b := 30, fn := 2 }),
      (64, 0x0000020603CA1456, .div { fmt := .c64, d := 10, a := 20, b := 30, fn := 3, feD := true }),
      (64, 0x0000060603CA145A, .rem { fmt := .c64, d := 10, a := 20, b := 30, fn := 3, feD := true, feA := true }),
      (96, 0x00000002000000000001025F, .and { fmt := .c96, d := 1, a := 2, b := 0, lit32 := 0x2 }),
      (96, 0x000000020000000000A10263, .or { fmt := .c96, d := 1, a := 2, b := 5, lit32 := 0x2 }),
      (32, 0x00610265, .xor { fmt := .c32, d := 1, a := 2, b := 3 }),
      (64, 0x000700020061026A, .shl { fmt := .c64, d := 1, a := 2, b := 3, fn := 1, imm16 := 0x7 }),
      (32, 0x0861026D, .shr { fmt := .c32, d := 1, a := 2, b := 3, fn := 1 }),
      (32, 0x00610271, .sar { fmt := .c32, d := 1, a := 2, b := 3 }),
      (64, 0x0000000200610276, .rot { fmt := .c64, d := 1, a := 2, b := 3, fn := 1 }),
      (32, 0x08610279, .min { fmt := .c32, d := 1, a := 2, b := 3, fn := 1 }),
      (32, 0x0861027D, .max { fmt := .c32, d := 1, a := 2, b := 3, fn := 1 }),
      (32, 0x08010281, .abs { fmt := .c32, d := 1, a := 2, b := 0, fn := 1 }),
      (64, 0x00001001F8610286, .sel { fmt := .c64, d := 1, a := 2, b := 3, c := 63, feC := true }),
      (64, 0x0009000A0061028A, .cmp { fmt := .c64, d := 1, a := 2, b := 3, fn := 5, imm16 := 0x9 }),
      (64, 0x000020000001028E, .clz { fmt := .c64, d := 1, a := 2, b := 0, lvl := 1 }),
      (32, 0x0801028D, .popc { fmt := .c32, d := 1, a := 2, b := 0, fn := 1 }),
      (64, 0x00000002FFE10292, .bfx { fmt := .c64, d := 1, a := 2, b := 63, c := 31, fn := 1 }),
      (64, 0x00000201FC010296, .bfi { fmt := .c64, d := 1, a := 2, b := 32, c := 63, feD := true }),
      (96, 0x89ABCDEF000000020000029B, .li { fmt := .c96, d := 1, a := 0, b := 0, fn := 1, lit32 := 0x89ABCDEF }),
      (32, 0x0019509D, .mov { fmt := .c32, d := 40, a := 50, b := 0 }),
      (64, 0x80000000206782A2, .addr { fmt := .c64, d := 1, a := 15, b := 3, c := 4, imm16 := 0x8000 })] = true := by decide +kernel

/-- Float: words packed by the field table of R228 with the opcodes of R241 and the entries of R281 to R283. -/
theorem test_decode_float :
    wordsDecode [
      (64, 0x00002004180102A6, .cvt { fmt := .c64, d := 1, a := 2, b := 0, c := 3, fn := 2, lvl := 1 }),
      (32, 0x306102A9, .fadd { fmt := .c32, d := 1, a := 2, b := 3, fn := 6 }),
      (32, 0x106102AD, .fmul { fmt := .c32, d := 1, a := 2, b := 3, fn := 2 }),
      (64, 0x0000101A206102B2, .ffma { fmt := .c64, d := 1, a := 2, b := 3, c := 4, fn := 13, feC := true }),
      (32, 0x086102B5, .fmin { fmt := .c32, d := 1, a := 2, b := 3, fn := 1 }),
      (32, 0x106102B9, .fmax { fmt := .c32, d := 1, a := 2, b := 3, fn := 2 }),
      (32, 0x706102BD, .fcmp { fmt := .c32, d := 1, a := 2, b := 3, fn := 14 })] = true := by decide +kernel

/-- Memory: words packed by the field table of R228 with the opcodes of R241 and the entries of R284 to R298. -/
theorem test_decode_memory :
    wordsDecode [
      (96, 0x00000001000062082067FCC3,
        .ld { fmt := .c96, d := 62, a := 15, b := 3, c := 4, fn := 4, feD := true, lvl := 3, lit32 := 0x1 }),
      (32, 0x186384C5, .st { fmt := .c32, d := 2, a := 7, b := 3, fn := 3 }),
      (64, 0x00084016006384C6, .stT { fmt := .c64, d := 2, a := 7, b := 3, fn := 11, lvl := 2, imm16 := 0x8 }),
      (64, 0x020023420063BECA,
        .ldv { fmt := .c64, d := 31, a := 7, b := 3, fn := 1, k := 5, feD := true, lvl := 1, imm16 := 0x200 }),
      (32, 0x0063BECD, .stv { fmt := .c32, d := 31, a := 7, b := 3 }),
      (64, 0x00000426406304D2, .ldfe { fmt := .c64, d := 2, a := 6, b := 3, c := 8, fn := 19, feA := true }),
      (96, 0xFFFFFFF000000008600304D7,
        .stfe { fmt := .c96, d := 2, a := 6, b := 0, c := 12, fn := 4, lit32 := 0xFFFFFFF0 }),
      (64, 0x0000000040037EDA, .feset { fmt := .c64, d := 63, a := 6, b := 0, c := 8 }),
      (64, 0x0020000240037CDA, .feclr { fmt := .c64, d := 62, a := 6, b := 0, c := 8, fn := 1, imm16 := 0x20 }),
      (64, 0x0000000440030ADA, .fepeek { fmt := .c64, d := 5, a := 6, b := 0, c := 8, fn := 2 }),
      (64, 0x8000000000031EDE, .xlat { fmt := .c64, d := 15, a := 6, b := 0, imm16 := 0x8000 }),
      (32, 0x00001CE1, .hrel { fmt := .c32, d := 14, a := 0, b := 0 }),
      (32, 0x08070AE5, .hinfo { fmt := .c32, d := 5, a := 14, b := 0, fn := 1 }),
      (64, 0x0004600E010380EA, .atom { fmt := .c64, d := 0, a := 7, b := 8, fn := 7, lvl := 3, imm16 := 0x4 }),
      (64, 0x00004230010394EE, .cas { fmt := .c64, d := 10, a := 7, b := 8, fn := 24, feD := true, lvl := 2 }),
      (64, 0x7FF80010010394F2, .xchg { fmt := .c64, d := 10, a := 7, b := 8, fn := 8, imm16 := 0x7FF8 })] = true := by decide +kernel

/-- Ordering: words packed by the field table of R228 with the opcodes of R241 and the entries of R174, R180, R299 to R310. -/
theorem test_decode_ordering :
    wordsDecode [
      (32, 0x000000F5, .mark { fmt := .c32, d := 0, a := 0, b := 0 }),
      (64, 0x0000A000000000FA, .fenceAcq { fmt := .c64, d := 0, a := 0, b := 0, lvl := 5 }),
      (64, 0x00004002000000FA, .fenceRel { fmt := .c64, d := 0, a := 0, b := 0, fn := 1, lvl := 2 }),
      (64, 0x00008004000000FA, .fenceAr { fmt := .c64, d := 0, a := 0, b := 0, fn := 2, lvl := 4 }),
      (32, 0x180000F9, .fenceWack { fmt := .c32, d := 0, a := 0, b := 0, fn := 3 }),
      (64, 0x0010A41E385E02FE,
        .wait { fmt := .c64, d := 1, a := 60, b := 2, c := 7, fn := 15, feA := true, lvl := 5, imm16 := 0x10 }),
      (64, 0x0000600070478302, .qpub { fmt := .c64, d := 1, a := 15, b := 2, c := 14, lvl := 3 }),
      (64, 0x0000080270478302, .qpubOff { fmt := .c64, d := 1, a := 15, b := 2, c := 14, fn := 1, feB := true }),
      (32, 0x00078305, .bararr { fmt := .c32, d := 1, a := 15, b := 0 }),
      (96, 0xFFFFFFFF000002000007830B,
        .barexp { fmt := .c96, d := 1, a := 15, b := 0, feD := true, lit32 := 0xFFFFFFFF }),
      (64, 0x040000081847830E, .gather { fmt := .c64, d := 1, a := 15, b := 2, c := 3, fn := 4, imm16 := 0x400 }),
      (32, 0x0027FF11, .cinv { fmt := .c32, d := 63, a := 15, b := 1 }),
      (64, 0x000000020027FF12, .cwb { fmt := .c64, d := 63, a := 15, b := 1, fn := 1 }),
      (96, 0x00000005000040040027FF13,
        .pref { fmt := .c96, d := 63, a := 15, b := 1, fn := 2, lvl := 2, lit32 := 0x5 })] = true := by decide +kernel

/-- Vector arithmetic: words packed by the field table of R228 with the opcodes of R241 and the entries of R311 to R326. -/
theorem test_decode_vector_arithmetic :
    wordsDecode [
      (32, 0x13AF3F41, .vadd { fmt := .c32, d := 31, a := 30, b := 29, fn := 2 }),
      (64, 0x000009DC07E10346, .vsub { fmt := .c64, d := 1, a := 2, b := 63, fn := 14, k := 7, feB := true }),
      (32, 0x00610349, .vmul { fmt := .c32, d := 1, a := 2, b := 3 }),
      (64, 0x00001002F861034E, .vfma { fmt := .c64, d := 1, a := 2, b := 3, c := 31, fn := 1, feC := true }),
      (32, 0x38610351, .vmin { fmt := .c32, d := 1, a := 2, b := 3, fn := 7 }),
      (32, 0x78610355, .vmax { fmt := .c32, d := 1, a := 2, b := 3, fn := 15 }),
      (64, 0x000080000001035A, .vabs { fmt := .c64, d := 1, a := 2, b := 0, lvl := 4 }),
      (32, 0x08010359, .vneg { fmt := .c32, d := 1, a := 2, b := 0, fn := 1 }),
      (64, 0x000002080061035E, .vdiv { fmt := .c64, d := 1, a := 2, b := 3, fn := 4, feD := true }),
      (32, 0x00010361, .vsqrt { fmt := .c32, d := 1, a := 2, b := 0 }),
      (32, 0x08010361, .vrsqrt { fmt := .c32, d := 1, a := 2, b := 0, fn := 1 }),
      (64, 0x0000400400010362, .vrcp { fmt := .c64, d := 1, a := 2, b := 0, fn := 2, lvl := 2 }),
      (64, 0x000002C600010362, .vexp2 { fmt := .c64, d := 1, a := 2, b := 0, fn := 3, k := 3, feD := true }),
      (32, 0x20010361, .vlog2 { fmt := .c32, d := 1, a := 2, b := 0, fn := 4 }),
      (64, 0x0000200628010366, .vcvt { fmt := .c64, d := 1, a := 2, b := 0, c := 5, fn := 3, lvl := 1 }),
      (64, 0x0000201605010F6A, .vcmp { fmt := .c64, d := 7, a := 2, b := 40, fn := 11, lvl := 1 }),
      (64, 0x000000822061036E, .vsel { fmt := .c64, d := 1, a := 2, b := 3, c := 4, fn := 1, k := 2 }),
      (32, 0x00610371, .vand { fmt := .c32, d := 1, a := 2, b := 3 }),
      (64, 0x0000200207810372, .vor { fmt := .c64, d := 1, a := 2, b := 60, fn := 1, lvl := 1 }),
      (64, 0x0000400400610372, .vxor { fmt := .c64, d := 1, a := 2, b := 3, fn := 2, lvl := 2 }),
      (32, 0x00610375, .vshl { fmt := .c32, d := 1, a := 2, b := 3 }),
      (32, 0x08610379, .vshr { fmt := .c32, d := 1, a := 2, b := 3, fn := 1 }),
      (32, 0x1061037D, .viadd { fmt := .c32, d := 1, a := 2, b := 3, fn := 2 }),
      (32, 0x08610381, .visub { fmt := .c32, d := 1, a := 2, b := 3, fn := 1 }),
      (64, 0x0000004E00610386, .vdot4 { fmt := .c64, d := 1, a := 2, b := 3, fn := 7, k := 1 })] = true := by decide +kernel

/-- Vector movement: words packed by the field table of R228 with the opcodes of R241 and the entries of R327 to R336. -/
theorem test_decode_vector_movement :
    wordsDecode [
      (64, 0x000002500001438A, .vred { fmt := .c64, d := 33, a := 2, b := 0, fn := 8, k := 1, feD := true }),
      (32, 0x3001038D, .vscan { fmt := .c32, d := 1, a := 2, b := 0, fn := 6 }),
      (64, 0x0000000020610392, .vshuf { fmt := .c64, d := 1, a := 2, b := 3, c := 4 }),
      (32, 0x001F8395, .vbcastG { fmt := .c32, d := 1, a := 63, b := 0 }),
      (96, 0x3F8000000000000200000397,
        .vbcastImm { fmt := .c96, d := 1, a := 0, b := 0, fn := 1, lit32 := 0x3F800000 }),
      (64, 0x0007000400010396, .vbcastRow { fmt := .c64, d := 1, a := 2, b := 0, fn := 2, imm16 := 0x7 }),
      (64, 0x0009000600010396, .vbcastCol { fmt := .c64, d := 1, a := 2, b := 0, fn := 3, imm16 := 0x9 }),
      (64, 0x000002000001039A, .vtrans { fmt := .c64, d := 1, a := 2, b := 0, feD := true }),
      (32, 0x0801039D, .vmove { fmt := .c32, d := 1, a := 2, b := 0, fn := 1 }),
      (64, 0x007F00040001519E, .vmoveTog { fmt := .c64, d := 40, a := 2, b := 0, fn := 2, imm16 := 0x7F }),
      (64, 0x007F00060014039E, .vmoveFromg { fmt := .c64, d := 1, a := 40, b := 0, fn := 3, imm16 := 0x7F }),
      (64, 0x033F0000000001A2, .vshape { fmt := .c64, d := 0, a := 0, b := 0, imm16 := 0x33F }),
      (64, 0x0000000200000BA2, .vshapeRd { fmt := .c64, d := 5, a := 0, b := 0, fn := 1 }),
      (64, 0x0000040000140FA6, .kset { fmt := .c64, d := 7, a := 40, b := 0, feA := true }),
      (96, 0x800000000000000205018FA7, .kadd { fmt := .c96, d := 7, a := 3, b := 40, fn := 1, lit32 := 0x80000000 }),
      (32, 0x10A18FA5, .kmin { fmt := .c32, d := 7, a := 3, b := 5, fn := 2 }),
      (32, 0x153403A9, .vidx { fmt := .c32, d := 1, a := 40, b := 41, fn := 2 }),
      (64, 0x00000200000103AE, .vrand { fmt := .c64, d := 1, a := 2, b := 0, feD := true }),
      (32, 0x000103B1, .trpack { fmt := .c32, d := 1, a := 2, b := 0 }),
      (32, 0x080103B1, .trunpack { fmt := .c32, d := 1, a := 2, b := 0, fn := 1 }),
      (64, 0x003F0004000103B2, .trsplit { fmt := .c64, d := 1, a := 2, b := 0, fn := 2, imm16 := 0x3F })] = true := by decide +kernel

/-- Scan: words packed by the field table of R228 with the opcodes of R241 and the entries of R372 to R383. -/
theorem test_decode_scan :
    wordsDecode [
      (64, 0x80000000000201C2, .sopset { fmt := .c64, d := 0, a := 4, b := 0, imm16 := 0x8000 }),
      (64, 0x0064000078617FC6, .scanl { fmt := .c64, d := 63, a := 2, b := 3, c := 15, imm16 := 0x64 }),
      (64, 0xFFFF000270617DC6, .scan { fmt := .c64, d := 62, a := 2, b := 3, c := 14, fn := 1, imm16 := 0xFFFF }),
      (64, 0x00000000206103CA, .sstep { fmt := .c64, d := 1, a := 2, b := 3, c := 4 }),
      (64, 0xFE000200007FBFCE, .sld { fmt := .c64, d := 31, a := 63, b := 3, feD := true, imm16 := 0xFE00 }),
      (64, 0x00080002007F3DCE, .sst { fmt := .c64, d := 30, a := 62, b := 3, fn := 1, imm16 := 0x8 }),
      (64, 0x07FB000000817FD2, .sbind { fmt := .c64, d := 63, a := 2, b := 4, imm16 := 0x7FB }),
      (64, 0x00070002008103D2, .sbindNew { fmt := .c64, d := 1, a := 2, b := 4, fn := 1, imm16 := 0x7 }),
      (64, 0x80000000200783D6, .sspill { fmt := .c64, d := 1, a := 15, b := 0, c := 4, imm16 := 0x8000 }),
      (64, 0x00010002200703D6, .sfill { fmt := .c64, d := 1, a := 14, b := 0, c := 4, fn := 1, imm16 := 0x1 }),
      (64, 0xBEEF0000200103DA, .chsend { fmt := .c64, d := 1, a := 2, b := 0, c := 4, imm16 := 0xBEEF }),
      (64, 0xBEEF0002200003DA, .chrecv { fmt := .c64, d := 1, a := 0, b := 0, c := 4, fn := 1, imm16 := 0xBEEF })] = true := by decide +kernel

/-- Kv: words packed by the field table of R228 with the opcodes of R241 and the entries of R393 to R397. -/
theorem test_decode_kv :
    wordsDecode [
      (64, 0x00000000780103E2, .kvopen { fmt := .c64, d := 1, a := 2, b := 0, c := 15 }),
      (64, 0x00000002780103E2, .kvclose { fmt := .c64, d := 1, a := 2, b := 0, c := 15, fn := 1 }),
      (64, 0x000F0004780103E2, .kvfork { fmt := .c64, d := 1, a := 2, b := 0, c := 15, fn := 2, imm16 := 0xF }),
      (64, 0x007F0000786103E6, .kvappend { fmt := .c64, d := 1, a := 2, b := 3, c := 15, imm16 := 0x7F }),
      (64, 0xFFFF0002786103E6, .kvevict { fmt := .c64, d := 1, a := 2, b := 3, c := 15, fn := 1, imm16 := 0xFFFF }),
      (64, 0x00000004786103E6, .kvcompact { fmt := .c64, d := 1, a := 2, b := 3, c := 15, fn := 2 }),
      (64, 0x00002206006151E6, .kvmap { fmt := .c64, d := 40, a := 2, b := 3, fn := 3, feD := true, lvl := 1 }),
      (64, 0x03FF6006786103E6,
        .kvmapV { fmt := .c64, d := 1, a := 2, b := 3, c := 15, fn := 3, lvl := 3, imm16 := 0x3FF }),
      (64, 0xFE3F0000786103EA, .kvdraft { fmt := .c64, d := 1, a := 2, b := 3, c := 15, imm16 := 0xFE3F }),
      (64, 0x00400002780103EA, .kvaccept { fmt := .c64, d := 1, a := 2, b := 0, c := 15, fn := 1, imm16 := 0x40 }),
      (64, 0x00000004780103EA, .kvreject { fmt := .c64, d := 1, a := 2, b := 0, c := 15, fn := 2 }),
      (64, 0x00000000786103EE, .kvprefixLook { fmt := .c64, d := 1, a := 2, b := 3, c := 15 }),
      (64, 0x00002000786103EE, .kvprefixIns { fmt := .c64, d := 1, a := 2, b := 3, c := 15, lvl := 1 }),
      (64, 0x001F0000780103F2, .qsend { fmt := .c64, d := 1, a := 2, b := 0, c := 15, imm16 := 0x1F }),
      (64, 0x0FFF2000786103F2, .qsendReply { fmt := .c64, d := 1, a := 2, b := 3, c := 15, lvl := 1, imm16 := 0xFFF }),
      (64, 0x00002000206103F6, .adot { fmt := .c64, d := 1, a := 2, b := 3, c := 4, lvl := 1 }),
      (64, 0x00001003F86103F6, .aacc { fmt := .c64, d := 1, a := 2, b := 3, c := 63, fn := 1, feC := true })] = true := by decide +kernel
/-- Matrix records: words packed by the field tables of R243, R343 and R344 with the ops of R245. -/
theorem test_decode_matrix_records :
    recordsDecode [
      (0x00000000000000000000000000000000000000000000000000000000000000000000000000000000000000000000000000000000000000FC080700ABCDEFF101,
        .mxldw { q := 0xF, stamp := 0xABCDEF, trap := true }
         { t := true, fsel := true, wbuf := true, consume := 8, start := 0xFC }),
      (0x800000010000000000000000000000000000000000000000000000000000000000000000000000000001FF000180FF017F0102030403083F021F09ABCDEFF902,
        .mxacc { q := 0xF, stamp := 0xABCDEF, trap := true, cbv := true, cbh := 9, cboff := 0x80000001 }
         { opens := true, closes := true, x3 := true, fsel := true, wbuf := true, tile := 2, rows := 0x3F,
           consume := 8, start := 3, trip := 0x1020304, astride := 0x80FF017F, tstride := 0x1FF0001 }),
      (0x000000000000000000000000000000000000000000000000000000000000000000000000000000000000DEADBEEF3FFFFEFFF03FFFF0FE3E7E7F00ABCDEFF303,
        .mxdrain { q := 0xF, stamp := 0xABCDEF, trap := true, cor := true }
         { tile := 7, clr := true, adt := 3, swt := true, gsz := 2, av := 0x1F, rows := 0x3E, cols := 0xFE,
           dst := 0x3FFFF0, rstride := 0xFFF0, scl := 0x3FFFFE, sa := 0xDEADBEEF }),
      (0x00000000000000000000000000000000000000000000000000000000000000000000000000000000000000000000000000000000000000000081000000013004,
        .mxzero { q := 3, stamp := 1 } 0x81),
      (0x0000000000000000000000000000000000000000000000000000000000000000000000000000067D3F00000002000000FE00000001FD0701050900ABCDEFF105,
        .mxperm { q := 0xF, stamp := 0xABCDEF, trap := true }
         { opens := true, fsel := true, tile := 5, rows := 1, consume := 7, start := 0xFD, trip := 1,
           astride := 0xFE, tstride := 2, k0 := 0x13F, ks := 0x13E, neg := true }),
      (0x0000000000000000000000000000000000000000000000000000000000000000000000000000040140000000000000000000000000020602060200ABCDEFF106,
        .mxred { q := 0xF, stamp := 0xABCDEF, trap := true }
         { closes := true, tile := 6, rows := 2, consume := 6, start := 2, k0 := 0x140, neg := true }),
      (0x0000000000000000000000000000000000000000000000000000000000000000000000000000040100000000000000000000000000010003000200ABCDEFF107,
        .mxtrn { q := 0xF, stamp := 0xABCDEF, trap := true }
         { closes := true, tile := 0, rows := 3, consume := 0, start := 1, k0 := 0x100, neg := true }),
      (0x80000001000000000000000000000000000000000000000000000000000000000000000000000000000000000000000000000000FFFFFFC00E0509ABCDEFF908,
        .mxsave { q := 0xF, stamp := 0xABCDEF, trap := true, cbv := true, cbh := 9, cboff := 0x80000001 }
         { tile := 5, h := 0xE, off := 0xFFFFFFC0 }),
      (0x00000000000000000000000000000000000000000000000000000000000000000000000000000000000000000000000000000000000000400D0200ABCDEFF109,
        .mxrest { q := 0xF, stamp := 0xABCDEF, trap := true } { tile := 2, h := 0xD, off := 0x40 }),
      (0x000000000000000000000000000000000000000000000000000000000000000000000000000000000000000000000000008123456789ABCDEF0100000002100A,
        .mxstamp { q := 1, stamp := 2 } { abs := true, delta := 0x8123456789ABCDEF }),
      (0x8000000100000000000000000000000000000000000000000000000000000000000000000000000000000000000000000000000000000000000009000002180B,
        .mxend { q := 1, stamp := 2, cbv := true, cbh := 9, cboff := 0x80000001 })] = true := by decide +kernel

/-- Copy records: words packed by the field tables of R243, R385 and R388 to R392 with the ops of R245. -/
theorem test_decode_copy_records :
    recordsDecode [
      (0x800000010000000000800000017FFFFCFFFFFFF0003FFFFF810000018200000283000003840000048500000586000006FFF4FFF3FFF2FFF1ED5109ABCDEFFF41,
        .cpy { q := 0xF, stamp := 0xABCDEF, trap := true, stv := true, cor := true, cbv := true, cbh := 9, cboff := 0x80000001 }
         { istr := 0x80000001, ind := 1, ixa := 0x3FFFFC, doff := 0xFFFFFFF0, soff := 0x3FFFFF,
           dstr4 := 0x81000001, dstr3 := 0x82000002, dstr2 := 0x83000003, sstr4 := 0x84000004, sstr3 := 0x85000005,
           sstr2 := 0x86000006, n4 := 0xFFF4, n3 := 0xFFF3, n2 := 0xFFF2, n1 := 0xFFF1, dh := 0xE, sh := 0xD,
           dlvl := 1, slvl := 1, dkind := 0, skind := 1 }),
      (0x00000000000000000000000000000000000000000000000000000000000000000000000000000000000000000000000000000000FFFFFFC00016000000002242,
        .cpyind { q := 2, cor := true } { roff := 0xFFFFFFC0, rh := 0xB }),
      (0x0000000000000000000000000000000000000000000000000000000000000000000000000000000000000000FFFFF0008001003FFFF0003F00F100ABCDEFF743,
        .cpyfifo { q := 0xF, stamp := 0xABCDEF, trap := true, stv := true, cor := true }
         { pstride := 0xFFFFF000, rstride := 0x8001, src := 0x3FFFF0, rows := 0x3F, npos := 0xF, fifo := 1 }),
      (0x00000000000000000000000000000000000000000000000000000000000000000000000000FFFFFE000F123456789ABC0003FFFEFFFFFFFF005100ABCDEFF544,
        .cpynet { q := 0xF, stamp := 0xABCDEF, trap := true, stv := true }
         { len := 0xFFFFFE, rpa := 0xF123456789ABC, dev := 0x3FFFE, loff := 0xFFFFFFFF, lh := 0xA, lkind := 0,
           get := true }),
      (0x000000000000000000000000108001000004000000000000000000040000000300000002000000000123456789ABCDEF0004000300020001F044000000007045,
        .cpyfill { q := 7 }
         { istr := 0x10, ind := 2, ixa := 0x100, doff := 0x40000, dstr4 := 4, dstr3 := 3, dstr2 := 2,
           sstr3 := 0x1234567, sstr2 := 0x89ABCDEF, n4 := 4, n3 := 3, n2 := 2, n1 := 1, dh := 0xF, dlvl := 1,
           dkind := 1 }),
      (0x00000000000000000000000000000000000000000000000000000000000000000000000000000000000000000000000000000000000000000000000000007046,
        .rcfence { q := 7 }),
      (0x80000001000000000000000000000000000000000000000000000000000000000000000000000000000000000000000000000000000000000000090000008847,
        .cpyend { q := 8, cbv := true, cbh := 9, cboff := 0x80000001 })] = true := by decide +kernel
/-! ## Well-formed instructions: one ill-formed term for each check -/

/-- Refused: a field that C32 does not carry (R229); lit32 outside C96 (R228); a function code that the opcode does not
define (cause 3), a constructor that the function code does not select (R241), a vector register above 31 (cause 5), a
nonzero unused field and a nonzero fe bit of a non-L entry (cause 7), a reserved level (cause 9), imm16 beside lit32
(R230), an opcode of the other core kind (cause 6), C32 of a C64-only entry (cause 4). -/
theorem test_ill_formed_words :
    [Instr.wf .compute (.add { fmt := .c32, d := 1, a := 2, b := 3, imm16 := 1 }),
     Instr.wf .compute (.add { fmt := .c64, d := 1, a := 2, b := 3, lit32 := 1 }),
     Instr.wf .compute (.add { fmt := .c64, d := 1, a := 2, b := 3, fn := 3 }),
     Instr.wf .compute (.clz { fmt := .c64, d := 1, a := 2, b := 0, fn := 1 }),
     Instr.wf .compute (.vadd { fmt := .c64, d := 32, a := 2, b := 3 }),
     Instr.wf .compute (.nop { fmt := .c64, d := 1, a := 0, b := 0 }),
     Instr.wf .compute (.add { fmt := .c64, d := 1, a := 2, b := 3, feD := true }),
     Instr.wf .compute (.rdtime { fmt := .c64, d := 1, a := 0, b := 0, lvl := 2 }),
     Instr.wf .compute (.addi { fmt := .c96, d := 1, a := 2, b := 0, imm16 := 1 }),
     Instr.wf .attention (.sopset { fmt := .c64, d := 0, a := 4, b := 0 }),
     Instr.wf .compute (.adot { fmt := .c64, d := 1, a := 2, b := 3, c := 4 }),
     Instr.wf .compute (.sel { fmt := .c32, d := 1, a := 2, b := 3 })]
      = List.replicate 12 false := by decide +kernel

/-- Refused: a record of a unit that the core lacks (cause 4); a must-be-zero bit (cause 5): stv of a matrix record, cbh
without cbv, the stamp of a copy record without stv; a value out of range (cause 6). -/
theorem test_ill_formed_records :
    [Instr.wf .attention (.cpyfifo {} {}),
     Instr.wf .compute (.cpy {} { skind := 3, ind := 1 }),
     Instr.wf .compute (.mxend { stv := true }),
     Instr.wf .compute (.mxend { cbh := 1 }),
     Instr.wf .compute (.rcfence { stamp := 1 }),
     Instr.wf .compute (.mxacc {} { neg := true }),
     Instr.wf .compute (.mxzero {} 0),
     Instr.wf .compute (.mxsave {} { off := 32 }),
     Instr.wf .compute (.mxacc {} { tile := 7, trip := 1, tstride := 1 })] = List.replicate 9 false := by decide +kernel

/-- Well-formed: the same without the flaw, and an event. -/
theorem test_well_formed :
    [Instr.wf .compute (.add { fmt := .c32, d := 1, a := 2, b := 3 }),
     Instr.wf .compute (.sopset { fmt := .c64, d := 0, a := 4, b := 0 }),
     Instr.wf .compute (.cpyfifo {} {}),
     Instr.wf .compute (.mxend {}),
     Instr.wf .compute (.mxacc {} { tile := 6, trip := 1, tstride := 1 }),
     Instr.wf .compute (.powerUp 0)] = List.replicate 6 true := by decide +kernel

/-! ## Scalar instructions (R277 to R281) -/

/-- The largest and the least signed numbers. -/
def maxW : Word := 0x7FFFFFFFFFFFFFFF
def minW : Word := 0x8000000000000000

/-- Sources at the ends of their ranges. -/
def ends : State := withG [(1, maxW), (2, minW), (3, BitVec.allOnes 64), (4, 1), (5, 0)]

/-- Wrapping, 32-bit and saturating sums (R277): max + 1 wraps to min; 0x7FFF_FFFF + 1 in .W sign-extends; max + 1 in .S
stays max and raises sat (bit 5); min - 1 in .S stays min. -/
theorem test_sums :
    [out (.add { o64 6 1 4 with fn := 0 }) ends 6, out (.add { o64 6 1 0 with fn := 1, imm16 := 0 }) ends 6,
     out (.add { o64 6 1 4 with fn := 2 }) ends 6, out (.sub { o64 6 2 4 with fn := 2 }) ends 6,
     out (.sub { o64 6 5 4 with fn := 0 }) ends 6, out (.addi { o64 6 4 0 with fn := 2, imm16 := 0xFFFF }) ends 6]
      = [some (minW, 0), some (BitVec.allOnes 64, 0), some (maxW, 32), some (minW, 32), some (BitVec.allOnes 64, 0),
         some (0xFFFFFFFF00000001, 0)] := by decide +kernel

/-- Products (R277): (-1) × (-1) low, .S of min × (-1); the high halves of (-1) × (-1): signed 0, unsigned 2^64 - 2,
mixed -1. -/
theorem test_products :
    [out (.mul (o64 6 3 3)) ends 6, out (.mul { o64 6 2 3 with fn := 2 }) ends 6, out (.mulh (o64 6 3 3)) ends 6,
     out (.mulh { o64 6 3 3 with fn := 1 }) ends 6, out (.mulh { o64 6 3 3 with fn := 2 }) ends 6]
      = [some (1, 0), some (maxW, 32), some (0, 0), some (0xFFFFFFFFFFFFFFFE, 0), some (BitVec.allOnes 64, 0)] := by
  decide +kernel

/-- Bitwise forms and g0 as a destination, which reads 0 (R234). -/
theorem test_bitwise :
    [out (.and { o64 6 3 5 with imm16 := 0x8001 }) ends 6, out (.or (o64 6 2 4)) ends 6, out (.xor (o64 6 1 3)) ends 6,
     out (.or (o64 0 2 4)) ends 0]
      = [some (0xFFFFFFFFFFFF8001, 0), some (0x8000000000000001, 0), some (minW, 0), some (0, 0)] := by decide +kernel

/-- Shift amounts are taken modulo 64, or 32 in .W (R277). -/
theorem test_shifts :
    [out (.shl { o64 6 4 5 with imm16 := 65 }) ends 6, out (.shr { o64 6 2 5 with imm16 := 63 }) ends 6,
     out (.sar { o64 6 2 5 with imm16 := 62 }) ends 6, out (.rot { o64 6 4 5 with imm16 := 1 }) ends 6,
     out (.shl { o64 6 4 5 with fn := 1, imm16 := 63 }) ends 6, out (.rot { o64 6 4 5 with fn := 1, imm16 := 1 }) ends 6]
      = [some (2, 0), some (1, 0), some (0xFFFFFFFFFFFFFFFE, 0), some (minW, 0), some (0xFFFFFFFF80000000, 0),
         some (0xFFFFFFFF80000000, 0)] := by decide +kernel

/-- Order: signed and unsigned minimum and maximum, and the six comparisons (R262, R277) of min with 1. -/
theorem test_order :
    [out (.min (o64 6 2 4)) ends 6, out (.min { o64 6 2 4 with fn := 1 }) ends 6, out (.max (o64 6 2 4)) ends 6,
     out (.max { o64 6 2 4 with fn := 1 }) ends 6]
      = [some (minW, 0), some (1, 0), some (1, 0), some (minW, 0)]
    ∧ [0, 1, 2, 3, 4, 5].map (fun fn => out (.cmp { o64 6 2 4 with fn := fn }) ends 6)
      = [some (0, 0), some (1, 0), some (1, 0), some (0, 0), some (0, 0), some (1, 0)] := by decide +kernel

/-- -7 by 2 (R278): the quotient -3 and the remainder -1; a zero divisor gives 0 and the dividend and raises dz (bit 3);
min by -1 wraps with no flag; the quotient of a deferred DIV does not arrive. -/
theorem test_divisions :
    let s := withG [(1, BitVec.ofInt 64 (-7)), (2, 2), (3, minW), (4, BitVec.allOnes 64)]
    [out (.div (o64 6 1 2)) s 6, out (.rem (o64 6 1 2)) s 6, out (.div (o64 6 1 5)) s 6, out (.rem (o64 6 1 5)) s 6,
     out (.div (o64 6 3 4)) s 6, out (.div { o64 6 1 2 with fn := 3 }) s 6, out (.div { o64 6 1 2 with feD := true }) s 6]
      = [some (BitVec.ofInt 64 (-3), 0), some (BitVec.allOnes 64, 0), some (0, 8), some (BitVec.ofInt 64 (-7), 8),
         some (minW, 0), some (0x7FFFFFFC, 0), some (0, 0)] := by decide +kernel

/-- Unary forms (R279): ABS of min wraps, and in .S saturates; CLZ of 0 and of 1 in .W; POPC. -/
theorem test_unary :
    [out (.abs (o64 6 2 0)) ends 6, out (.abs { o64 6 2 0 with fn := 1 }) ends 6, out (.clz (o64 6 5 0)) ends 6,
     out (.clz { o64 6 4 0 with lvl := 1 }) ends 6, out (.popc (o64 6 3 0)) ends 6, out (.mov (o64 6 1 0)) ends 6,
     out (.li { o64 6 0 0 with imm16 := 0x8000 }) ends 6, out (.li { o64 6 0 0 with fn := 1, imm16 := 0x8000 }) ends 6]
      = [some (minW, 0), some (maxW, 32), some (64, 0), some (31, 0), some (64, 0), some (maxW, 0),
         some (0xFFFFFFFFFFFF8000, 0), some (0x8000, 0)] := by decide +kernel

/-- The example of R279: BFX and BFX.S of 0xABCD at 4, 8 bits, and BFI of 0xF at 62, 4 bits. -/
theorem test_fields :
    let s := withG [(5, 0xABCD), (7, 0xF), (8, 1)]
    [out (.bfx { o64 4 5 4 with c := 7 }) s 4, out (.bfx { o64 4 5 4 with c := 7, fn := 1 }) s 4,
     out (.bfi { o64 4 7 62 with c := 3 }) s 4, out (.sel { o64 4 5 7 with c := 8 }) s 4,
     out (.sel { o64 4 5 7 with c := 0 }) s 4]
      = [some (0xBC, 0), some (0xFFFFFFFFFFFFFFBC, 0), some (0xC000000000000000, 0), some (0xABCD, 0), some (0xF, 0)] := by
  decide +kernel

/-- The example of R280: 1.0 + 2^-11 in binary16 under RNE and RUP, both raising nx; 2 × 2;
the fused 1 × 1 - 1; minimum and maximum; and 2^-11 < 1. -/
theorem test_float :
    let s := withG [(1, 0x3C00), (2, 0x1000), (3, 0x4000)]
    let up := with0 (fun t => { t with g := regs [(1, 0x3C00), (2, 0x1000)], mode := 2 })
    [out (.fadd { o64 6 1 2 with fn := 1 }) s 6, out (.fadd { o64 6 1 2 with fn := 1 }) up 6,
     out (.fmul { o64 6 3 3 with fn := 1 }) s 6, out (.ffma { o64 6 1 1 with fn := 9, c := 1 }) s 6,
     out (.fmin { o64 6 1 2 with fn := 1 }) s 6, out (.fmax { o64 6 1 2 with fn := 1 }) s 6,
     out (.fcmp { o64 6 2 1 with fn := 5 }) s 6]
      = [some (0x3C00, 1), some (0x3C01, 1), some (0x4400, 0), some (0, 0), some (0x1000, 0), some (0x3C00, 0),
         some (1, 0)] := by decide +kernel

/-- The examples of R281: 2.5 to I32 under RNE and RNA raising nx, -3.0 × 10^9 raising nv (bit 4), and .WRAP. -/
theorem test_conversions :
    let s := withG [(1, 0x40200000), (2, 0xCF32D05E), (3, 0x100000005)]
    let rna := with0 (fun t => { t with g := regs [(1, 0x40200000)], mode := 4 })
    [out (.cvt { o64 6 1 0 with c := 4, fn := 1 }) s 6, out (.cvt { o64 6 1 0 with c := 4, fn := 1 }) rna 6,
     out (.cvt { o64 6 2 0 with c := 4, fn := 1 }) s 6, out (.cvt { o64 6 3 0 with c := 0, fn := 3, lvl := 1 }) s 6]
      = [some (2, 1), some (3, 1), some (0xFFFFFFFF80000000, 16), some (5, 0)] := by decide +kernel

/-! ## Control transfer and system registers (R264 to R276) -/

/-- The program counter after an instruction. -/
def pcAfter (i : Instr) (s : State) : Option Word := (after i s).map (fun t => t.cur.ctl.pc)

/-- Targets (R264): a branch counts words from its own address; BRI and RET ignore bits 1:0; LOOP falls through at 0; CALL
links the offset of the following instruction. -/
theorem test_transfers :
    let s := withG [(1, 0x43), (2, 1), (3, minW)]
    [pcAfter (.br { o64 0 0 0 with imm16 := 0xFFFE }) s, pcAfter (.bri { o64 0 1 0 with imm16 := 1 }) s,
     pcAfter (.ret { o64 0 1 0 with fmt := .c32 }) s, pcAfter (.loop { o64 2 0 0 with imm16 := 4 }) s,
     pcAfter (.loop { o64 1 0 0 with imm16 := 4 }) s, pcAfter (.brc { o64 0 3 2 with fn := 2, imm16 := 4 }) s,
     pcAfter (.brc { o64 0 3 2 with fn := 4, imm16 := 4 }) s]
      = [some 0xFFF8, some 0x10044, some 0x10040, some 0x10008, some 0x10010, some 0x10010, some 0x10008]
    ∧ out (.call { o64 6 0 0 with fmt := .c96, lit32 := 16 }) s 6 = some (12, 0) := by decide +kernel

/-- A state with an armed user handler at codeva + 0x40. -/
def handled (f : Slot → Slot) : State := with0 (fun t => f { t with trapv := 0x10040 })

/-- TRAP (code 0x2E) and an empty register under ! (0x29, R235) enter the user handler with their operands; a SYSRD outside
the map and a BFMT of a bank that the launch does not declare end the item with the cc (R426, R429). -/
theorem test_traps :
    [trapped (.trap { o64 0 0 0 with imm16 := 0xBEEF }) (handled id),
     trapped (.mov { o64 6 1 0 with feA := true }) (handled (fun t => { t with gEmpty := 2 }))]
      = [some (0x2E, 0xBEEF), some (0x29, 1)]
    ∧ pcAfter (.trap (o64 0 0 0)) (handled id) = some 0x10040
    ∧ [after (.sysrd { o64 6 0 0 with imm16 := 0x0FF }) (handled id),
       after (.sysrd { o64 6 0 0 with imm16 := 0x042 })
         (handled (fun t => { t with record := probeRecord &&& ~~~(1#2048 <<< 1130) }))].map
      (fun x => x.map (fun t => (t.cur.ending.length, (endSlot t t.cur.id).cur.item))) = [some (1, none), some (1, none)] := by
  decide +kernel

/-- SYSRD of the slot's identity and the clocks (R273): 100 cc are 6 rt. -/
theorem test_system_reads :
    let s := with0 (fun t => { t with tenant := 9, context := 11, mode := 0x15, flags := 0x2A, stampb := 77 })
    [out (.sysrd { o64 6 0 0 with imm16 := 0x001 }) s 6, out (.sysrd { o64 6 0 0 with imm16 := 0x002 }) s 6,
     out (.sysrd { o64 6 0 0 with imm16 := 0x203 }) s 6, out (.sysrdFlags { o64 6 0 0 with imm16 := 0x011 }) s 6,
     out (.getmode { o64 6 0 0 with fn := 2 }) s 6, out (.rdtime (o64 6 0 0)) s 6,
     out (.rdtime { o64 6 0 0 with lvl := 1 }) s 6, out (.stamp { o64 6 0 0 with fn := 1, imm16 := 28 }) s 6]
      = [some (9, 0x2A), some (11, 0x2A), some (6, 0x2A), some (0x2A, 0x2A), some (0x15, 0x2A), some (100, 0x2A),
         some (6, 0x2A), some (128, 0x2A)] := by decide +kernel

/-- SYSWR (R274): FLAGS clears the bits written as 1; MODE takes bits 5:0; TRAPV takes an address of the code region. -/
theorem test_system_writes :
    let s := with0 (fun t => { t with g := regs [(1, 0x21), (2, 0x10040)], flags := 0x2B })
    (after (.syswrFlags { o64 0 1 0 with fn := 1, imm16 := 0x011 }) s).map (fun t => t.cur.flags) = some 0x0A
    ∧ (after (.syswrMode { o64 0 1 0 with fn := 1, imm16 := 0x010 }) s).map (fun t => t.cur.mode) = some 0x21
    ∧ (after (.setmode { o64 0 1 0 with fn := 3, imm16 := 4 }) s).map (fun t => t.cur.mode) = some 0x25
    ∧ (after (.syswrTrapv { o64 0 2 0 with fn := 1, imm16 := 0x006 }) s).map (fun t => t.cur.trapv) = some 0x10040
    ∧ (after (.syswrStampb { o64 0 1 0 with fn := 1, imm16 := 0x007 }) s).map (fun t => t.cur.stampb) = some 0x21 := by
  decide +kernel

/-- END ends the control stream (R213), and RUN starts the record streams at an offset of 64-byte units (R266). -/
theorem test_streams :
    (after (.endCtl { o64 0 0 0 with fmt := .c32 }) st0).map (fun t => t.cur.ctl.running) = some false
    ∧ (after (.runMx { o64 0 0 0 with fn := 1, imm16 := 2 }) st0).map (fun t => (t.cur.mx.running, t.cur.mx.pc, t.cur.time.sb))
        = some (true, 0x10080, 64)
    ∧ (after (.runCp { o64 0 0 0 with fn := 2, imm16 := 1 }) st0).map (fun t => (t.cur.cp.running, t.cur.cp.pc))
        = some (true, 0x10040) := by decide +kernel
/-! ## States that meet the hypotheses of the statements: scalar and system instructions

Each theorem names a statement of Certificates/Slice0/Obligations.lean, and shows a state and operands that meet the
hypotheses of its clauses together, at values where a result changes. -/

/-- For IntegerSumsProductsAndBitwise, IntegerShiftsAndOrder, Divisions and FloatingArithmeticAndOrder: sources at the ends of
the signed range, for each function code; and a third source. -/
theorem witness_two_sources :
    (∀ fn : BitVec 5, reads2 ends { o64 6 1 2 with fn } maxW minW ∧ reads2 ends { o64 6 2 3 with fn } minW (BitVec.allOnes 64))
    ∧ reads2 ends (o64 6 1 5) maxW 0 ∧ srcG ends.cur ({ o64 6 1 2 with c := 4 } : Opnd).c false = .ok 1 :=
  have h1 : srcG ends.cur 1 false = .ok maxW := ok_of (by decide +kernel)
  have h2 : srcG ends.cur 2 false = .ok minW := ok_of (by decide +kernel)
  have h3 : srcG ends.cur 3 false = .ok (BitVec.allOnes 64) := ok_of (by decide +kernel)
  have h6 : dstG ends.cur 6 = .ok () := rfl
  ⟨fun _ => ⟨⟨⟨⟨rfl, h6⟩, h1⟩, h2⟩, ⟨⟨⟨rfl, h6⟩, h2⟩, h3⟩⟩, ⟨⟨⟨rfl, rfl⟩, h1⟩, rfl⟩, rfl⟩

/-- For IntegerUnarySelectAndFields and Conversions: the least number, zero and one as sources, with the source of a
select and the old value of BFI's destination. -/
theorem witness_one_source :
    (∀ fn : BitVec 5, ∀ c : BitVec 6, reads1 ends { o64 1 2 63 with fn, c } minW) ∧ reads1 ends (o64 1 5 0) 0
    ∧ srcG ends.cur (o64 1 2 4).b false = .ok 1 ∧ srcG ends.cur (o64 1 2 4).d false = .ok maxW :=
  have h1 : srcG ends.cur 1 false = .ok maxW := ok_of (by decide +kernel)
  have h2 : srcG ends.cur 2 false = .ok minW := ok_of (by decide +kernel)
  have h0 : dstG ends.cur 1 = .ok () := rfl
  ⟨fun _ _ => ⟨⟨rfl, h0⟩, h2⟩, ⟨⟨rfl, rfl⟩, rfl⟩, rfl, h1⟩

/-- For EmptySourcesAndG0: an empty source under ! with an armed handler, and without !; g0 as the destination of
instructions whose sources are full; and a deferred result for g0 that is due. -/
theorem witness_empty_sources :
    let s := handled (fun t => { t with gEmpty := 2 })
    let d : Deferred := { gs := [(0, 7)], due := 100 }
    let p := with0 (fun t => { t with deferred := [d] })
    (s.mgmt.powered = true ∧ gIsEmpty s.cur 1 = true ∧ armed s.cur = true ∧ s.cur.ending = [])
    ∧ reads2 ends { o64 0 1 4 with feD := true } maxW 1
    ∧ (p.mgmt.powered = true ∧ slotOf p ⟨0, false⟩ = some p.cur ∧ p.cur.deferred[0]? = some d ∧ d.due ≤ p.cycle) := by
  refine ⟨by decide +kernel, ⟨⟨⟨rfl, rfl⟩, rfl⟩, rfl⟩, rfl, rfl, rfl, by decide⟩

/-- For ControlTransfers: sources of BRC, BRI, RET and LOOP, a counter at 1 and at 0; and a stream that may issue at the first
byte after its code region. -/
theorem witness_transfers :
    let s := withG [(1, 0x43), (2, 1)]
    let p : State := { with0 (fun t => { t with ctl := { running := true, pc := 0x20000 } }) with stage := 6 }
    (s.mgmt.powered = true ∧ dstG s.cur 6 = .ok () ∧ srcG s.cur 1 false = .ok 0x43 ∧ srcG s.cur 2 false = .ok 1
      ∧ srcG s.cur 0 false = .ok 0)
    ∧ nextTurn p = .stream 6 .control ∧ p.cur.ending = [] ∧ fetched { p with stage := 6 } .control = some p
    ∧ recCodeva p.cur.record + recCodelen p.cur.record ≤ p.cur.ctl.pc.toNat := by
  refine ⟨⟨rfl, rfl, rfl, rfl, rfl⟩, by decide +kernel, rfl, by decide +kernel, by decide +kernel⟩

/-- For RoundingOfExactValues, in binary16: 2049 between 2048 and 2050, a tie, of an even code and an odd one, rounded towards minus infinity and
not; 65520 half-way from the largest finite value to 2^16, and 2^18; 2^-25 half-way to the least subnormal; codes of the largest value, of infinity and
of a NaN. -/
theorem witness_rounding :
    let mag (k : Nat) : Rat :=
      if k < 2 ^ fmt16.m then k * 2 ^ (1 - fmt16.bias - fmt16.m)
      else (2 ^ fmt16.m + k % 2 ^ fmt16.m : Nat) * 2 ^ (((k / 2 ^ fmt16.m : Nat) : Int) - fmt16.bias - fmt16.m)
    fmt16 ∈ [fmt32, fmt16, fmtB16]
    ∧ (mag 0x6800 = 2048 ∧ mag 0x6801 = 2050 ∧ ((2049 : Nat) : Rat) * 2 ^ (0 : Int) = 2049 ∧ mag (2 ^ fmt16.m) < 2049)
    ∧ (modeRnd 0 = 0 ∧ modeRnd 3 = 3 ∧ 0x6800 % 2 = 0 ∧ 0x6801 < 0x7BFF)
    ∧ (2 ^ (fmt16.w - 1) - 2 ^ fmt16.m - 1 = 0x7BFF ∧ mag 0x7BFF = 65504 ∧ 2 * mag (0x7BFF + 1 - 2 ^ fmt16.m) = 65536)
    ∧ ((1 : Nat) : Rat) * 2 ^ (-25 : Int) < mag 1 ∧ mag 0 < ((1 : Nat) : Rat) * 2 ^ (-25 : Int)
    ∧ (∃ k, k < 2 ^ (fmt16.w - 1) ∧ k = 0x7BFF) ∧ (∃ k, k < 2 ^ (fmt16.w - 1) ∧ k = 0x7BFF + 1)
    ∧ ∃ k, k < 2 ^ (fmt16.w - 1) ∧ 0x7BFF + 1 < k := by
  refine ⟨?_, ?_, ?_, ?_, ?_, ?_, ⟨0x7BFF, ?_, rfl⟩, ⟨0x7C00, ?_, rfl⟩, ⟨0x7C01, ?_, ?_⟩⟩ <;> decide +kernel

/-- Values that binary16 rounds (R94 to R97), worked by hand: the ties 2049 and 2051 to even, 65520 to infinity and under MODE.ovf to
the largest value, 2^-25 to zero and, rounded up, to the least subnormal. -/
theorem test_rounding :
    ([2049, 2051, 65520].map (fun m => roundNum fmt16 0 (.fin false m 0))) = [(0x6800, 1), (0x6802, 1), (0x7C00, 5)]
    ∧ roundNum fmt16 32 (.fin true 65520 0) = (0xFBFF, 5)
    ∧ ([0, 2].map (fun m => roundNum fmt16 m (.fin false 1 (-25)))) = [(0, 3), (1, 3)] := by decide +kernel

/-- For NopEndYieldAndRun: a slot whose neighbour is ready; a record offset at the last 64 bytes of the code region, with
idle streams and with running ones; an offset past it and one between records. -/
theorem witness_run :
    let s : State := { withG [(1, 0xFFC0)] with rest := [{ slot0 with id := ⟨0, true⟩ }] }
    let r := with0 (fun t => { t with mx := { t.mx with running := true }, cp := { t.cp with running := true } })
    otherReady s ⟨0, false⟩ = true ∧ s.mgmt.powered = true ∧ srcG s.cur 1 false = .ok 0xFFC0
    ∧ (0xFFC0 : Int) + 64 ≤ recCodelen s.cur.record ∧ s.cur.mx.running = false ∧ s.cur.cp.running = false
    ∧ (r.mgmt.powered = true ∧ srcG r.cur 0 false = .ok 0 ∧ r.cur.mx.running = true ∧ r.cur.cp.running = true)
    ∧ ¬ (0 ≤ (0x10000 : Int) ∧ (0x10000 : Int) % 64 = 0 ∧ (0x10000 : Int) + 64 ≤ recCodelen s.cur.record)
    ∧ ¬ (0 ≤ (4 : Int) ∧ (4 : Int) % 64 = 0 ∧ (4 : Int) + 64 ≤ recCodelen s.cur.record) := by
  refine ⟨by decide +kernel, rfl, rfl, by decide +kernel, rfl, rfl, ⟨rfl, rfl, rfl, rfl⟩, by decide +kernel, by decide +kernel⟩

/-- For TrapEntersTheUserHandler: an armed user handler, drained and not, and a slot without one. -/
theorem witness_armed :
    (handled id).mgmt.powered = true ∧ armed (handled id).cur = true ∧ (handled id).cur.ending = []
    ∧ ctlDrained (handled id) (handled id).cur = true
    ∧ (let p := handled (fun t => { t with deferred := [{}] })
       armed p.cur = true ∧ ctlDrained p p.cur = false ∧ p.cur.ending = [])
    ∧ armed st0.cur = false ∧ st0.cur.ending = [] := by decide +kernel

/-- For SystemRegisters: an item, a declared bank and an undeclared one, a pending producer, a number outside the map, a
TRAPV at the end of the code region, and both kinds of core with a signature that is kept. -/
theorem witness_system :
    let s := withG [(1, 0x20000), (2, 5)]
    let u := with0 (fun t => { t with record := probeRecord &&& ~~~(1#2048 <<< 1130) })
    let d := with0 (fun t => { t with deferred := [{}] })
    let a := with0 (fun t => { t with id := ⟨0x80, false⟩ })
    let q : State := { s with queues := sset {} [] 0 { tenant := 1, sigs := [(5, 0, 0xABC)] } }
    writable s (o64 6 1 0) ∧ s.cur.item = some item0 ∧ (recBmask s.cur.record).getLsbD 15 = true
    ∧ (recBmask u.cur.record).getLsbD 2 = false ∧ (producersDone s.cur = true ∧ s.cur.settling = []) ∧ producersDone d.cur = false
    ∧ srcG s.cur 1 false = .ok 0x20000 ∧ recCodeva s.cur.record + recCodelen s.cur.record ≤ 0x20000
    ∧ coreKind s.cur.id.core = some .compute ∧ coreKind a.cur.id.core = some .attention
    ∧ (queueOf q 0).sigs.find? (fun p => p.1 = 5 ∧ p.2.1 = q.cur.tenant) = some (5, 0, 0xABC)
    ∧ (queueOf s 0).sigs.find? (fun p => p.1 = 5 ∧ p.2.1 = s.cur.tenant) = none := by
  refine ⟨⟨rfl, rfl⟩, rfl, ?_, ?_, ⟨by decide +kernel, rfl⟩, ?_, rfl, ?_, ?_, ?_, ?_, ?_⟩ <;> decide +kernel

/-- For SystemRegisters: the last word of the code region as a TRAPV, and BFMT of the last bank while a record that names
it has not completed. -/
theorem witness_system_writes :
    let s := with0 (fun t =>
      { t with g := regs [(1, 0x1FFFC)], ops := [{ id := 0, source := 2, work := .copy true { dkind := 1, doff := 0x3C0000 } {} false 0 [] [] }] })
    s.mgmt.powered = true ∧ srcG s.cur 1 false = .ok 0x1FFFC ∧ recCodeva s.cur.record ≤ 0x1FFFC
    ∧ 0x1FFFC < recCodeva s.cur.record + recCodelen s.cur.record ∧ (recBmask s.cur.record).getLsbD 15 = true
    ∧ recordsNaming s.cur 15 ≠ [] ∧ recordsNaming s.cur 0 = [] := by
  refine ⟨rfl, rfl, ?_, ?_, ?_, ?_, ?_⟩ <;> decide +kernel
/-! ## Launching and cancelling -/

/-- A launch record (R198): tenant 5, context 6, one word of code at 0x1_0000 (END), one level of width 1 and trip 2, core 0. Its
digest is the SHA3-256 of the bytes 05 00 00 00. -/
def goodRecord : BitVec 2048 :=
  BitVec.ofNat 2048 (0xffff7414f52a9a15e255212cd465d78139420e759a87079da6508ae7f3459afb
    + 0x10000 * 2 ^ 256 + 4 * 2 ^ 320 + 0xFFFFFFFF * 2 ^ 384 + 5 * 2 ^ 448 + 6 * 2 ^ 464 + 2 ^ 704 + 2 ^ 707
    + 2 ^ 743 + 2 * 2 ^ 768 + 2 ^ 960 + 2 ^ 1128 + 2 ^ 1216)

/-- A pointer of a translation table, and a leaf of a 64 KiB page with permission X (R109, R110). -/
def tablePointer (pa : Nat) : List Byte := bytesOf 16 (1 + pa)
def tableLeaf (pa perm : Nat) : List Byte := bytesOf 16 (2 + perm * 16 + pa)

/-- Memory with five tables that map 0x1_0000 onto itself, executable, code there, and the record at 0x2_0000. -/
def launchMem : List Host.Cell :=
  [(0x10000, [0x05]), (0x20000, bytesOf 256 goodRecord.toNat), (0x40000, tablePointer 0x42000),
   (0x42000, tablePointer 0x44000), (0x44000, tablePointer 0x46000), (0x46000, tablePointer 0x48000),
   (0x48010, tableLeaf 0x10000 8), (0x48020, tableLeaf 0x20000 3)].foldl (fun m p => ssetRange 0 m p.1 p.2) []

/-- An access-table entry of tenant 5, context 6 with every right (R125). -/
def rights : Word := 5 * 2 ^ 48 + 6 * 2 ^ 32 + 0x7F * 2 ^ 16 + 1

/-- A page of memory at 0x2_0000 that handle 3 holds. -/
def page3 : Handle := { perm := 7, pbase := 2, bound := true, valid := true }

/-- Tenant 5 owns queue 7, and the slot runs an item of it. -/
def launchState : State :=
  { with0 (fun t => { t with tenant := 5, context := 6, h := t.h.set 3 page3 }) with
    mem := launchMem, contexts := [⟨5, 6, 0x40000, 0⟩]
    access := [(1024 * targetNum (homeTarget {} 0x20000), rights), (1024 * targetNum (homeTarget {} 0x20080), rights)]
    queues := sset {} [] 7 { tenant := 5, accepted := 3 } }

def launchOpnd : Opnd := { o64 6 3 0 with c := 7 }

/-- For LaunchSubmitsARecord: a record in a page that the slot may read, which the intake accepts; a full queue; a queue
without a tenant; and a record with bit 511 set. -/
theorem witness_launch :
    let s := launchState
    let r := goodRecord
    writable s launchOpnd ∧ srcG s.cur launchOpnd.b false = .ok 0
    ∧ useHandle s.cur 3 false 0 = .ok (capture page3) ∧ checkPage (capture page3) 0 256 permRd = .ok 0x20000
    ∧ refusedByte s s.cur 0x20000 (linesOf 0x20000 256) rightRead false = none ∧ poisoned s 0x20000 256 = false
    ∧ needReleased s 0 (linesOf 0x20000 256) = .ok () ∧ releasable s = .ok ()
    ∧ BitVec.ofNat 2048 (memNat s 0x20000 256) = r ∧ queueFull s 7 = false ∧ releaseCount s.cur = .ok s.cur
    ∧ (s.mgmt.failed = false ∧ (queueOf s 7).tenant = recTenant r ∧ s.cur.tenant = recTenant r ∧ (queueOf s 7).tenant ≠ 0)
    ∧ badRecord r = none ∧ (∀ k, k < 4 → (recDep r k).1 = false)
    ∧ checkPins { (homeRead s 0x20000 256).1 with cur := s.cur } r = .pins [⟨0x10000, 0x10000, 0x10000⟩]
    ∧ badRecord (r ||| 1#2048 <<< 511) = some 511 ∧ (queueOf s 8).tenant = 0
    ∧ queueFull { s with mgmt := { s.mgmt with intakeOpen := false } } 7 = true := by
  refine ⟨⟨rfl, rfl⟩, rfl, rfl, ok_of ?_, ?_, ?_, ok_of ?_, ok_of ?_, ?_, ?_, ok_of ?_, ?_, ?_, ?_, ?_, ?_, ?_, ?_⟩
    <;> decide +kernel

/-- The record with one thing wrong that its status names: code that is not mapped, another digest; a window that is not mapped; a
completion record between 64-byte lines; a trace that is not its own; a dependence on a queue of no tenant. -/
def wrongRecords : List (BitVec 2048 × Word) :=
  [(goodRecord + (0x20000#2048 <<< 256), 2), (goodRecord + 1, 2),
   (goodRecord + (1#2048 <<< 484) + (0x30000#2048 <<< 1536) + (1#2048 <<< 1600) + (0x40000#2048 <<< 1664), 3),
   (goodRecord + (8#2048 <<< 1792), 5),
   (goodRecord + (0x21#2048 <<< 484) + (0x20000#2048 <<< 1536) + (1#2048 <<< 1600) + (0x20000#2048 <<< 1664) + (0x21000#2048 <<< 1856)
     + (80#2048 <<< 1920), 6),
   (goodRecord + (1#2048 <<< 1343) + (8#2048 <<< 1328), 4)]

/-- As `launchState`, with another record. -/
def launchWith (r : BitVec 2048) : State := { launchState with mem := ssetRange 0 launchMem 0x20000 (bytesOf 256 r.toNat) }

/-- For LaunchSubmitsARecord: every one of those records passes the format checks, and the walks of its pages end; code that is being
migrated is waited for. -/
theorem witness_launch_statuses :
    wrongRecords.all (fun p => decide (badRecord p.1 = none ∧ BitVec.ofNat 2048 (memNat (launchWith p.1) 0x20000 256) = p.1
      ∧ checkPins (launchWith p.1) p.1 ≠ .waits)) = true
    ∧ checkPins { launchState with mem := ssetRange 0 launchMem 0x48011 [0x08] } goodRecord = .waits := by
  refine ⟨?_, ?_⟩ <;> decide +kernel

/-- The statuses of R268 and R400, by hand, and the wait. -/
theorem test_launch_statuses :
    wrongRecords.all (fun p => decide (out (.launch launchOpnd) (launchWith p.1) 6 = some (p.2, 0))) = true := by decide +kernel

/-- LAUNCH of that record answers OK with ordinal 4 (R268). -/
theorem test_launch : out (.launch launchOpnd) launchState 6 = some (0x40000, 0) := by decide +kernel

/-- A launch of tenant 5 with both indices unclaimed, and with both claimed. -/
def cancelState (next : Nat) : State :=
  { withG [(1, 1), (2, 0x180), (3, 0x01)] with
    cur := { (withG [(1, 1), (2, 0x180), (3, 0x01)]).cur with tenant := 5, context := 6 }
    rest := [{ slot0 with id := ⟨0x80, true⟩, tenant := 5, context := 6, item := some { item0 with queue := 7, index := 1 } },
             { slot0 with id := ⟨1, false⟩ }]
    queues := sset {} [] 7 { tenant := 5, accepted := 1, launches := [{ ordinal := 1, record := goodRecord, acceptedAt := 0, next }] } }

/-- For Cancelling: a launch of the issuer's tenant and context, unclaimed and fully claimed, and one that the queue does not
hold; an item of the issuer's tenant and context that is in no troupe and one with a partner, one of another tenant, an empty slot, a core number
that names no core, and the slot itself. -/
theorem witness_cancelling :
    let s := cancelState 1
    let f := cancelState 2
    (∀ n : Fin 4, n.val ≤ 3 → ∃ x, reads1 s { o64 6 (BitVec.ofNat 6 n) 0 with c := 7 } x)
    ∧ ((launchOf s 7 1).isSome = true ∧ launchOf s 8 1 = none ∧ recTenant goodRecord = s.cur.tenant
        ∧ recContext goodRecord = s.cur.context)
    ∧ (launchOf s 7 1).any (fun l => !decide (fullyClaimed l)) = true
    ∧ (launchOf f 7 1).any (fun l => decide (fullyClaimed l)) = true
    ∧ (coreKind 0xFF = none ∧ (coreKind 0x80).isSome = true ∧ slotOf s ⟨0x40, false⟩ = none)
    ∧ (slotOf s ⟨0x80, true⟩).bind (fun t => t.item) = some { item0 with queue := 7, index := 1 }
    ∧ (slotOf s ⟨1, false⟩).any (fun t => t.tenant != s.cur.tenant) = true
    ∧ s.cur.item.any (fun i => i.size = 0) = true
    ∧ (let i : Item := { item0 with queue := 7, size := 2 }
       let pair : State := { cancelState 1 with rest := [
         { slot0 with id := ⟨0x80, true⟩, tenant := 5, context := 6, item := some i },
         { slot0 with id := ⟨0x81, false⟩, tenant := 5, context := 6, item := some { i with index := 1, rank := 1 } }] }
       (slotOf pair ⟨0x80, true⟩).bind (fun t => t.item) = some i
       ∧ ((after (.cancelItem (o64 6 2 0)) pair).map (fun t => (gval t.cur 6, t.rest.filterMap (fun u => u.item)))) = some (0, [])) := by
  refine ⟨?_, ?_, ?_, ?_, ?_, ?_, ?_, ?_, ?_⟩
  all_goals try decide +kernel
  intro n _
  match n with
  | 0 => exact ⟨_, ⟨rfl, rfl⟩, rfl⟩
  | 1 => exact ⟨_, ⟨rfl, rfl⟩, rfl⟩
  | 2 => exact ⟨_, ⟨rfl, rfl⟩, rfl⟩
  | 3 => exact ⟨_, ⟨rfl, rfl⟩, rfl⟩
/-! ## Memory, ordering and waiting -/

/-- A deterministic launch (R188): a window of one unit at 0x2_0000 and its metadata spill area at 0x3_0000. -/
def detRecord : BitVec 2048 :=
  probeRecord ||| 1#2048 <<< 484 ||| 0x20000#2048 <<< 1536 ||| 1#2048 <<< 1600 ||| 0x30000#2048 <<< 1664

/-- The pins of that launch. -/
def detPins : List Pin :=
  [⟨0x10000, 0x10000, 0⟩, ⟨0x20000, 0x10000, 0x20000⟩, ⟨0x30000, 0x10000, 0x30000⟩]

/-- For FencesAndCacheControl: an update of a barrier object on its way; in deterministic mode, pending pairs that merge into the
table, with the release count at 60 and at 61, and a KV operation that an engine context has sent, and none; an L1 line of the
core. -/
theorem witness_fences :
    let d (rc : BitVec 6) := with0 (fun t =>
      { t with record := detRecord, pins := detPins, det := { rc, table := [(3, 4)], pending := [(3, 9), (11, 1)] } })
    let u : BarrierUpdate := { issuer := refOf slot0 0, addr := 0x20000, delta := 1, tenant := 0, context := 0 }
    let k : KvDie := { arrivals := [refOf slot0 5] }
    let e : State := { d 60 with kv := (d 60).kv.set 0 k }
    (updatesPending { st0 with barriers := [u] } slot0 = true ∧ updatesPending (d 60) (d 60).cur = false)
    ∧ (engineWrites e e.cur = true ∧ updatesPending e e.cur = false ∧ engineWrites (d 60) (d 60).cur = false)
    ∧ (isDet (d 60).cur = true ∧ (d 60).cur.det.rc.toNat + 1 < 62 ∧ 62 ≤ (d 61).cur.det.rc.toNat + 1)
    ∧ (∃ t, acquirePending (d 60).cur = .ok t)
    ∧ isDet st0.cur = false ∧ acquirePending st0.cur = .ok st0.cur := by
  refine ⟨?_, ?_, ?_, ok_some ?_, ?_, ok_of ?_⟩ <;> decide +kernel

/-- Condition words (R301): q2 ≥ 7, the granule of 0x4_0110, tile 3, and phase 5 of the object of handle 3 at 0x20; then flawed
ones. -/
def waitGs : List (Fin 64 × Word) :=
  [(20, 0x0800000000000007), (21, 0x4000000000040110), (22, 0x8000000000000003), (23, 0xCC00000200000005),
   (24, 0x0001000000000000), (25, 0x2400000000000000), (26, 0x4000000200000000), (27, 0x4000000000040000),
   (28, 0x8000000000000002), (29, 0x8000000000000008), (30, 0x4000000100040000)]

/-- A barrier object (R220): phase, expect, arrive, txn, scope. -/
def object (phase expect arrive txn scope : Nat) : List Byte :=
  bytesOf 16 (phase * 2 ^ 96 + expect * 2 ^ 80 + arrive * 2 ^ 64 + txn * 2 ^ 32 + scope * 2 ^ 4)

/-- A slot that waits, with q2 at a value and its object in phase 5. -/
def waitState (v : Word) : State :=
  { with0 (fun t =>
      { t with g := regs waitGs, h := t.h.set 3 page3, q := t.q.set 2 { t.q[2] with value := v, issued := v } }) with
    mem := ssetRange 0 [] 0x20020 (object 5 3 2 0 4) }

/-- The same slot in a deterministic launch. -/
def waitDet (v : Word) : State :=
  { waitState v with cur := { (waitState v).cur with record := detRecord, pins := detPins } }

/-- The check of the condition words of a WAIT, as the statement has it. -/
def waitPhases (s : State) (o : Opnd) (conds : List Word) : Res (List (Nat × BitVec 32 × BitVec 3)) :=
  conds.foldlM (fun acc c => (checkCond s o.feA c).map (fun p => acc ++ p)) []

/-- For Waiting: four readable, well-formed conditions of the four kinds, of which the counter's holds at 7 and not at 6, and
in a deterministic launch as well, where WAIT.ALL of one granule is judged; and, in a launch of 9 counters without bank 1 and
tile 2, the flawed condition words of each clause. -/
theorem witness_waiting :
    let o : Opnd := { o64 9 20 0 with c := 7, fn := 15, lvl := 5 }
    let conds : List Word := [0x0800000000000007, 0x4000000000040110, 0x8000000000000003, 0xCC00000200000005]
    let w : WaitState := { conds, any := true, acq := 15, scope := 5, t0 := 6, timeout := 0, dest := 9, phases := [(0x20020, 5, 4)] }
    let u := with0 (fun t =>
      { t with g := regs waitGs
               record := (probeRecord &&& ~~~(2#2048 <<< 1128 ||| 4#2048 <<< 1144 ||| 31#2048 <<< 1216)) ||| 9#2048 <<< 1216 })
    (∀ v : Word, v = 6 ∨ v = 7 → writable (waitState v) o)
    ∧ waitWords (waitState 7).cur o = .ok conds ∧ srcG (waitState 7).cur 0 false = .ok 0
    ∧ waitPhases (waitState 7) o conds = .ok [(0x20020, 5, 4)]
    ∧ (isDet (waitState 7).cur = false ∧ (waitReads (waitState 7) (waitState 7).cur.id w).toOption.isSome = true)
    ∧ (condHolds (waitState 7).cur w 0 = true ∧ condHolds (waitState 6).cur w 0 = false
        ∧ condHolds (waitState 7).cur w 3 = false)
    ∧ recNctr u.cur.record = 9 ∧ ownsBank u.cur 0x40000 = false ∧ (recAmask u.cur.record).getLsbD 2 = false
    ∧ (srcG u.cur 24 false = .ok 0x0001000000000000 ∧ srcG u.cur 25 false = .ok 0x2400000000000000
        ∧ srcG u.cur 26 false = .ok 0x4000000200000000 ∧ srcG u.cur 27 false = .ok 0x4000000000040000
        ∧ srcG u.cur 28 false = .ok 0x8000000000000002 ∧ srcG u.cur 29 false = .ok 0x8000000000000008
        ∧ srcG u.cur 30 false = .ok 0x4000000100040000)
    ∧ (isDet (waitDet 0).cur = true ∧ waitWords (waitDet 0).cur o = .ok conds ∧ waitPhases (waitDet 0) o conds = .ok [(0x20020, 5, 4)])
    ∧ (waitWords (waitDet 0).cur (o64 9 21 0) = .ok [0x4000000000040110] ∧ waitPhases (waitDet 0) (o64 9 21 0) [0x4000000000040110] = .ok []
        ∧ (waitReads (waitDet 0) (waitDet 0).cur.id { w with conds := [0x4000000000040110], any := false }).toOption.isSome = true) := by
  refine ⟨?each, ok_of ?_, rfl, ok_of ?_, ?_, ?_, ?_, ?_, ?_, ⟨ok_of ?_, ok_of ?_, ok_of ?_, ok_of ?_, ok_of ?_, ok_of ?_, ok_of ?_⟩,
    ⟨?_, ok_of ?_, ok_of ?_⟩, ok_of ?_, ok_of ?_, ?_⟩
  case each => rintro _ (rfl | rfl) <;> exact ⟨rfl, rfl⟩
  all_goals decide +kernel

/-- The example of R302: with q2 at 7 and tile 3 full, WAIT.ALL of both returns 3; with q2 at 6 it blocks. -/
theorem test_wait :
    let o : Opnd := { o64 9 20 0 with c := 1, fn := 1, imm16 := 100 }
    let s (v : Word) : State := { waitState v with cur := { (waitState v).cur with g := regs [(20, 0x0800000000000007), (21, 0x8000000000000003)] } }
    out (.wait o) (s 7) 9 = some (3, 0)
    ∧ (after (.wait o) (s 6)).map (fun t => (t.cur.ctl.blocked, t.cur.wait.map (fun w => w.timeout))) = some (some .waiting, some 100) := by
  decide +kernel

/-- For CounterPublication: a counter with three bindings, of which one is to be found, and one with four; an item with a free
counter, a bound one and a used one; an item of another tenant, a slot without an item, and core numbers that name none. -/
theorem witness_publication :
    let b (i : Nat) : Binding := ⟨⟨5, false⟩, 0, 1, i, BitVec.ofNat 4 i, 1, 0⟩
    let q : Vector Counter 16 := slot0.q
    let u : Slot := { slot0 with id := ⟨1, false⟩, q := (q.set 2 { q[2] with boundBy := some (⟨7, false⟩, 0, 1, 1) }).set 5 { q[5] with issued := 1 } }
    let s : State := { with0 (fun t =>
        { t with g := regs [(2, 1)], q := (t.q.set 3 { t.q[3] with bindings := [b 0, b 1, b 2] }).set 4 { t.q[4] with bindings := [b 0, b 1, b 2, b 3] } })
        with rest := [u, { u with id := ⟨0x80, true⟩, tenant := 7 }, { u with id := ⟨2, false⟩, item := none }] }
    writable s (o64 9 3 2) ∧ srcG s.cur 2 false = .ok 1 ∧ coreKind 1 = some .compute ∧ coreKind 0xFF = none
    ∧ recNctr s.cur.record = 16 ∧ slotOf s ⟨1, false⟩ = some u ∧ u.item = some item0
    ∧ (u.q[0].boundBy = none ∧ u.q[0].issued = 0 ∧ u.q[2].boundBy.isSome = true ∧ u.q[5].issued ≠ 0)
    ∧ (s.cur.q[3].bindings.length < 4 ∧ 4 ≤ s.cur.q[4].bindings.length)
    ∧ (slotOf s ⟨0x80, true⟩).any (fun t => t.tenant != s.cur.tenant) = true
    ∧ (slotOf s ⟨2, false⟩).bind (fun t => t.item) = none
    ∧ s.cur.q[3].bindings.find? (boundTo s ⟨5, false⟩ 1) = some (b 1)
    ∧ s.cur.q[0].bindings.find? (boundTo s ⟨5, false⟩ 1) = none := by
  refine ⟨⟨rfl, rfl⟩, ok_of ?_, ?_, ?_, ?_, ?_, rfl, ?_, ?_, ?_, ?_, ?_, ?_⟩ <;> decide +kernel

/-- A slot whose handle 3 maps memory that holds 16 bytes at 0x2_0020. -/
def objectState (bs : List Byte) : State :=
  { with0 (fun t => { t with h := t.h.set 3 page3, g := regs [(9, 0xFFFFFFFF80000001)] }) with mem := ssetRange 0 [] 0x20020 bs }

def objectOpnd : Opnd := { o64 9 3 0 with imm16 := 0x20 }

/-- For BarrierObjects: a last arrival, with no transfer owed; an object whose arrivals are used up, one of scope 6, one of a
tenant that the home refuses; a slot with an update on its way. -/
theorem witness_objects :
    let s := objectState (object 0xFFFFFFFF 3 1 0 5)
    let r : State := { s with cur := { s.cur with tenant := 9 } }
    (∀ e : Nat, e = 0 ∨ e = 1 → ∃ x, barrierPlace (objectState (object 5 3 e 0 4)) objectOpnd = .ok (0x20020, x))
    ∧ (s.mgmt.powered = true ∧ barrierPlace s objectOpnd = .ok (0x20020, 0x20) ∧ dstG s.cur 9 = .ok ()
        ∧ updatesPending s s.cur = false ∧ needReleased s 0 [0x20020 / 128] = .ok () ∧ admitMem s s.cur 0x20020 rightAtomic false = true ∧ poisoned s 0x20020 16 = false)
    ∧ memNat s 0x20020 16 = 0xFFFFFFFF * 2 ^ 96 + 3 * 2 ^ 80 + 2 ^ 64 + 5 * 2 ^ 4 ∧ (∀ p ∈ s.queues, ∀ l ∈ p.2.launches, recDet l.record = false)
    ∧ memNat (objectState (object 5 3 2 0 6)) 0x20020 16 / 2 ^ 4 % 8 = 6
    ∧ admitMem r r.cur 0x20020 rightAtomic false = false
    ∧ (let u : BarrierUpdate := { issuer := refOf s.cur 0, addr := 0x20000, delta := 1, tenant := 0, context := 0 };
        updatesPending { s with barriers := [u] } s.cur = true ∧
          64 ≤ ((List.replicate 64 u).filter (fun u => sameItem u.issuer (refOf s.cur 0) && u.source = 0)).length)
    ∧ srcG s.cur 9 false = .ok 0xFFFFFFFF80000001 := by
  refine ⟨?_, ⟨rfl, ok_of (by decide +kernel), rfl, rfl, ok_of (by decide +kernel), by decide +kernel, rfl⟩, by decide +kernel,
    ?_, by decide +kernel, by decide +kernel, by decide +kernel, ok_of (by decide +kernel)⟩
  · rintro _ (rfl | rfl) <;> exact ⟨0x20, ok_of (by decide +kernel)⟩
  · intro p h
    exact absurd h (by simp [objectState, with0, st0])

/-- The arrivals of R221: the last one advances the phase, which wraps, and takes expect; one that is not the last counts down. -/
theorem test_arrivals :
    (after (.bararr objectOpnd) (objectState (object 0xFFFFFFFF 3 1 0 5))).map (fun t => (gval t.cur 9, memNat t 0x20020 16))
        = some (0xFFFFFFFF, 3 * 2 ^ 80 + 3 * 2 ^ 64 + 5 * 2 ^ 4)
    ∧ (after (.bararr objectOpnd) (objectState (object 5 3 2 7 4))).map (fun t => (gval t.cur 9, memNat t 0x20020 16))
        = some (5, 5 * 2 ^ 96 + 3 * 2 ^ 80 + 2 ^ 64 + 7 * 2 ^ 32 + 4 * 2 ^ 4) := by decide +kernel

/-- A slot without bank 1 that may gather through handle 3: destinations in bank 6, and over the index vector. -/
def gatherState : State :=
  with0 (fun t => { t with h := t.h.set 3 page3, record := (probeRecord &&& ~~~(2#2048 <<< 1128 ||| 31#2048 <<< 1216)) ||| 9#2048 <<< 1216
                           g := regs [(12, 0x140000), (13, 0x180100), (14, 0x13FFF0), (15, 0x40000)] })

/-- For GatherIsIssued: the operands of R308's example; a destination that ends at the index vector's first byte and one that
overlaps it; a counter outside the launch; a destination and an index vector in a bank that the launch did not declare. -/
theorem witness_gather :
    let s := gatherState
    (s.mgmt.powered = true ∧ srcG s.cur 13 false = .ok 0x180100 ∧ srcG s.cur 14 false = .ok 0x13FFF0
      ∧ srcG s.cur 15 false = .ok 0x40000 ∧ srcG s.cur 12 false = .ok 0x140000)
    ∧ useHandle s.cur 3 false = .ok (capture page3) ∧ recNctr s.cur.record = 9 ∧ s.cur.q[3].boundBy = none
    ∧ (ownsRange s.cur 0x180100 48 = true ∧ ownsRange s.cur 0x140000 40 = true ∧ ownsRange s.cur 0x40000 48 = false)
    ∧ (0x13FFF0 + 16 = 0x140000 ∧ 0x140000 < 0x13FFF0 + 32) := by
  refine ⟨⟨rfl, ok_of ?_, ok_of ?_, ok_of ?_, ok_of ?_⟩, rfl, ?_, rfl, ?_, by decide⟩ <;> decide +kernel

/-- The example of R308: ten words gathered into bank 6 empty its granules 0x10 to 0x12 and no other, and the operation takes
number 1 on q3. -/
theorem test_gather :
    (after (.gather { o64 13 3 12 with c := 3, fn := 2, imm16 := 10 }) gatherState).map (fun t =>
      ([0x1800F, 0x18010, 0x18011, 0x18012, 0x18013].map (granuleFull t.cur), t.cur.q[3].issued, t.cur.ops.map (fun o => (o.q, o.num))))
        = some ([true, false, false, false, true], 1, [(some 3, 1)]) := by decide +kernel

/-- For FencesAndCacheControl: a reference to the last line of its page, with every permission; an L1 and a home that hold the
line, in a deterministic launch as well; the words of the three instructions with a handle base, and with a scratchpad base. -/
theorem witness_cache :
    let s : State := { with0 (fun t => { t with h := t.h.set 3 page3, g := regs [(2, 0xFF80), (6, 0x40000)] }) with
      l1 := [⟨0, 0x5FF, 0, []⟩], lines := [(0x5FF, 5)] }
    (∃ r, refSources s.cur { o64 1 3 2 with fn := 1 } = .ok r ∧ refTarget s.cur (o64 1 3 2) r = .ok (.page (capture page3) 0xFF80))
    ∧ checkPage (capture page3) 0xFF80 1 permRd = .ok 0x2FF80 ∧ checkPage (capture page3) 0xFF80 1 permW = .ok 0x2FF80
    ∧ needReleased s 0 [0x5FF] = .ok ()
    ∧ (admitMem s s.cur (128 * 0x5FF) rightWrite false = true ∧ lineWord s 0x5FF = 5 ∧ isDet s.cur = false)
    ∧ (isDet (waitDet 0).cur = true ∧ checkPage (capture page3) 0xFF80 1 permRd = .ok 0x2FF80)
    ∧ ([Instr.cinv, .cwb, .pref] : List (Opnd → Instr)).zipIdx.all (fun p =>
        let o : Opnd := { o64 0 3 0 with fn := BitVec.ofNat 5 p.2 }
        decide ((decodeFields .compute 0x44 o).toOption = some (p.1 o))
          && decide ((decodeFields .compute 0x44 { o with c := 8 }).toOption = none) && memBankBase { o with c := 8 }) = true := by
  refine ⟨⟨(0, 0xFF80), ok_of ?_, ok_of ?_⟩, ok_of ?_, ok_of ?_, ok_of ?_, ?_, ⟨?_, ok_of ?_⟩, ?_⟩ <;> decide +kernel
/-! ## Memory references -/

/-- A slot whose handle 3 maps 64 KiB of memory at 0x2_0000, handle 4 is unbound and handle 5 has no permission; its bank 1
and the memory hold rising bytes, and a neighbour of its troupe holds granules. -/
def memState : State :=
  { with0 (fun t =>
      { t with h := ((t.h.set 3 page3).set 4 {}).set 5 { page3 with perm := 0 }
               g := regs [(1, 0x1122334455667788), (2, 0x10), (6, 0x40110), (7, 0xFFF8), (8, 0x100040110), (9, 0x7FFFC),
                 (10, 0x80), (11, 0x10000)]
               v := Vector.replicate 32 (BitVec.ofNat 4096 0x0807060504030201)
               k := t.k.set 2 0x8002
               item := some { item0 with size := 2 }
               banks := ssetRange 0 [] 0x40100 (bytesOf 32 0x1F1E1D1C1B1A191817161514131211100F0E0D0C0B0A09080706050403020100)
               empty := [(0x4012, false)] }) with
    mem := ssetRange 0 [] 0x20000 (bytesOf 32 0x807F7E7D7C7B7A797877767574737271706F6E6D6C6B6A696867666564636261)
    rest := [{ slot0 with id := ⟨1, false⟩, item := some { item0 with index := 1, rank := 1, size := 2 } }] }

/-- The same slot in a deterministic launch. -/
def detMemState : State :=
  { memState with
    cur := { memState.cur with record := detRecord, pins := detPins }
    queues := sset {} [] 0 { tenant := 1, launches := [{ ordinal := 1, record := detRecord, acceptedAt := 0, detIndex := 1, running := 2 }] } }

/-- The place of a reference. -/
def placeOf (s : State) (o : Opnd) (n align : Nat) (perm : BitVec 4) : Option Place :=
  (refSources s.cur o).toOption.bind (fun r => (resolve s o r n align perm).toOption)

/-- For LoadsReadThePlace and VectorLoads: the last 8 bytes of a page and 16 bytes of a bank, free destinations, at .CL and at .SL,
in a deterministic launch as well; a poisoned granule of a bank; two active elements, and none. -/
theorem witness_loads :
    let s := memState
    let o : Opnd := { o64 12 3 7 with fn := 3, lvl := 2 }
    let ob : Opnd := { o64 12 6 0 with fn := 4, c := 8 }
    (s.mgmt.powered = true ∧ dstG s.cur 12 = .ok () ∧ dstG s.cur 13 = .ok () ∧ dstV s.cur 4 = .ok ())
    ∧ refSources s.cur o = .ok (0, 0xFFF8) ∧ refSources s.cur ob = .ok (0x40110, 0)
    ∧ placeOf s o 8 1 permRd = some (.mem 0x2FFF8 0xFFF8) ∧ placeOf s ob 16 1 permRd = some (.bank ⟨0, false⟩ 0x40110 0x40110)
    ∧ (∃ s0, admitRead s s.cur 0x2FFF8 0xFFF8 8 (loadLevel s.cur o) = .ok s0)
    ∧ (loadLevel s.cur o = .sl ∧ loadLevel s.cur { o with lvl := 0 } = .cl)
    ∧ (∃ s0, checkGranules s ⟨0, false⟩ s.cur.id (slotCode s.cur.id) .plain 0x40110 16 = .ok s0
        ∧ (slotOf s0 ⟨0, false⟩).isSome = true)
    ∧ (bankPoisoned s.cur 0x40110 16 = false ∧ bankPoisoned { s.cur with poison := [(0x4011, true)] } 0x40110 16 = true)
    ∧ (∃ s0, admitRead detMemState detMemState.cur 0x20000 0 8 .sl = .ok s0)
    ∧ (∀ l ∈ linesOf 0x2FFF8 8, l1Has s s.cur l = false)
    ∧ activeSingle s.cur 2 * (vWidth s.cur / 8) = 8 ∧ activeSingle { s.cur with k := s.cur.k.set 2 0x8000 } 2 = 0 := by
  refine ⟨⟨rfl, rfl, rfl, rfl⟩, ok_of ?_, ok_of ?_, ?_, ?_, ok_some ?_, ?_, ⟨memState, ok_of ?_, ?_⟩, ?_, ok_some ?_, ?_, ?_, ?_⟩ <;> decide +kernel

/-- Loads (R288): a byte with bit 7 set is sign-extended, and zero-extended under .U; .Q fills two registers; a bank is read at
its own address; a vector load of two active elements keeps the others. -/
theorem test_loads :
    let s := memState
    [out (.ld { o64 12 3 0 with imm16 := 31 }) s 12, out (.ld { o64 12 3 0 with fn := 8, imm16 := 31 }) s 12,
     out (.ld { o64 12 3 0 with fn := 4, imm16 := 8 }) s 13, out (.ld { o64 12 6 0 with fn := 2, c := 8, imm16 := 0xFFF0 }) s 12]
      = [some (0xFFFFFFFFFFFFFF80, 0), some (0x80, 0), some (0x7877767574737271, 0), some (0x03020100, 0)]
    ∧ (after (.ldv { o64 4 3 0 with k := 2 }) s).map (fun t => (vval t.cur 4).extractLsb' 0 96)
      = some 0x000000006867666564636261 := by decide +kernel

/-- For StoresWriteTheirBytes: data for the last bytes of a page and for a bank, in a deterministic launch as
well; vector data of two active elements, and of none; a tagged store at the end of a line, and one that crosses it; the words of a tagged store
with a handle base and with a scratchpad base. -/
theorem witness_stores :
    let s := memState
    let o : Opnd := { o64 1 3 7 with fn := 3 }
    let ob : Opnd := { o64 1 6 0 with fn := 3, c := 8 }
    let ot : Opnd := { o64 1 3 12 with fn := 11, imm16 := 0x78 }
    refSources s.cur o = .ok (0, 0xFFF8) ∧ dataBytes s.cur 1 8 false = .ok (bytesOf 8 0x1122334455667788)
    ∧ placeOf s o 8 1 permW = some (.mem 0x2FFF8 0xFFF8) ∧ placeOf s ob 8 1 permW = some (.bank ⟨0, false⟩ 0x40110 0x40110)
    ∧ needReleased s 0 (linesOf 0x2FFF8 8) = .ok () ∧ needReleased s 0 (linesOf 0x20078 8) = .ok ()
    ∧ (refusedByte s s.cur 0x2FFF8 (linesOf 0x2FFF8 8) rightWrite false = none ∧ checkLines s s.cur .write 0x2FFF8 8 = .ok s)
    ∧ checkGranules s ⟨0, false⟩ s.cur.id (slotCode s.cur.id) (.write 0x3F) 0x40110 8 = .ok s
    ∧ (∃ s0, checkLines detMemState detMemState.cur .write 0x20000 8 = .ok s0)
    ∧ (∃ s0, checkGranules detMemState ⟨0, false⟩ detMemState.cur.id (slotCode detMemState.cur.id) (.write 0x3F) 0x40110 8 = .ok s0)
    ∧ (∃ v, srcV s.cur (vreg 1) false = .ok v) ∧ activeSingle s.cur 2 = 2 ∧ activeSingle { s.cur with k := s.cur.k.set 2 0x8000 } 2 = 0
    ∧ refSources s.cur ot false = .ok (0, 0) ∧ refTarget s.cur ot (0, 0) = .ok (.page (capture page3) 0x78)
    ∧ refTarget s.cur { ot with imm16 := 0x79 } (0, 0) = .ok (.page (capture page3) 0x79)
    ∧ checkPage (capture page3) 0x78 8 permW = .ok 0x20078 ∧ dstG s.cur 12 = .ok ()
    ∧ (memBankBase { ot with c := 8 } = true ∧ decodeFields .compute 0x31 { ot with c := 8 &&& 0x37#6 } = .ok (.stT { ot with c := 8 &&& 0x37#6 })) := by
  refine ⟨ok_of ?_, ok_of ?_, ?_, ?_, ok_of ?_, ok_of ?_, ⟨?_, ok_of ?_⟩, ok_of ?_, ok_some ?_, ok_some ?_, ok_some ?_, ?_, ?_,
    ok_of ?_, ok_of ?_, ok_of ?_, ok_of ?_, rfl, ⟨?_, dec_of ?_⟩⟩ <;> decide +kernel

/-- Stores (R288): the low half-word at an odd address and nothing beside it; the last doubleword of a bank; a tagged store
empties its tag register. -/
theorem test_stores :
    let s := memState
    (after (.st { o64 1 3 0 with fn := 1, imm16 := 1 }) s).map (fun t => [0x20000, 0x20001, 0x20002, 0x20003].map (memByte t))
      = some [0x61, 0x88, 0x77, 0x64]
    ∧ (after (.st { o64 1 6 0 with fn := 3, c := 8, imm16 := 0xFFE8 }) s).map (fun t => [0x400F7, 0x400F8, 0x400FF, 0x40100].map (bankByte t.cur))
      = some [0, 0x88, 0x11, 0]
    ∧ (after (.stT { o64 1 3 12 with fn := 11 }) s).map (fun t => (memByte t 0x20007, gIsEmpty t.cur 12)) = some (0x11, true)
    ∧ (after (.stv { o64 4 3 0 with k := 2, imm16 := 4 }) s).map (fun t => [0x20003, 0x20004, 0x2000B, 0x2000C].map (memByte t))
      = some [0x64, 0x01, 0x08, 0x6D] := by decide +kernel

/-- For ReferenceFaults: an unbound handle; offsets just below and at the end of a page, and an access across it; a page without
permission; an access across two banks, and one to a bank that the launch did not declare; a home that refuses. -/
theorem witness_references :
    let s := memState
    let u := { s.cur with record := probeRecord &&& ~~~(2#2048 <<< 1128) }
    let r : State := { s with cur := { s.cur with tenant := 9 } }
    (refSources s.cur (o64 1 4 0) = .ok (0, 0) ∧ s.cur.h[4].bound = false)
    ∧ (s.cur.h[3].bound = true ∧ s.cur.h[3].full = true ∧ s.cur.h[3].valid = true ∧ s.cur.h[5].perm = 0 ∧ s.cur.h[5].bound = true)
    ∧ refSources s.cur { o64 1 3 11 with imm16 := 0xFFFF } = .ok (0, 0x10000)
    ∧ dispOf { o64 1 3 0 with imm16 := 0xFFFF } = -1 ∧ pageBytes s.cur.h[3].size = 0x10000
    ∧ refSources s.cur { o64 1 9 0 with c := 8 } = .ok (0x7FFFC, 0)
    ∧ bankTarget { o64 1 9 0 with c := 8 } (0x7FFFC, 0) = .ok (.bank none 0x7FFFC) ∧ 0x7FFFC / 2 ^ 18 ≠ (0x7FFFC + 8 - 1) / 2 ^ 18
    ∧ (recBmask u.record).getLsbD (0x40110 / 2 ^ 18) = false
    ∧ placeOf r { o64 1 3 2 with fn := 3 } 8 1 permRd = some (.mem 0x20010 0x10)
    ∧ refusedByte r r.cur 0x20010 (homeLines r r.cur 0x20010 8 .cl) rightRead false = some 0x20010
    ∧ dataBytes s.cur 1 8 false = .ok (bytesOf 8 0x1122334455667788) ∧ dstRegs s.cur (dataRegs 1 8) = .ok () := by
  refine ⟨⟨ok_of (by decide +kernel), rfl⟩, ⟨rfl, rfl, rfl, rfl, rfl⟩, ok_of (by decide +kernel), by decide +kernel, by decide +kernel,
    ok_of (by decide +kernel), ok_of (by decide +kernel), by decide, by decide +kernel, by decide +kernel, by decide +kernel, ok_of (by decide +kernel),
    ok_of (by decide +kernel)⟩

/-- For ReferenceFaults: the operands of every form, and the place of an 8-byte reference of memory with each permission; an empty handle; a
handle that a use finds not valid, with its page in the cache and not; an offset and a bank address that are not aligned; a rank
outside the troupe; a home that refuses a store and an atomic. -/
theorem witness_reference_forms :
    let s := memState
    let o : Opnd := { o64 1 3 2 with fn := 3 }
    let e : State := { s with cur := { s.cur with h := (s.cur.h.set 3 { page3 with full := false }).set 5 { page3 with valid := false } } }
    let c : State := { e with cur := { e.cur with cache := [⟨0, 0, 0, 0, 9, 3, 0, 0⟩] } }
    let r : State := { s with cur := { s.cur with tenant := 9 } }
    (refSources s.cur o = .ok (0, 16) ∧ refSources s.cur { o with b := 0 } false = .ok (0, 0)
        ∧ activeSingle s.cur 2 * (vWidth s.cur / 8) = 8)
    ∧ (dataBytes s.cur 1 (2 ^ (o.fn.toNat % 8)) o.feD = .ok (bytesOf 8 0x1122334455667788) ∧ (∃ v, srcV s.cur (vreg 1) o.feD = .ok v)
        ∧ srcG s.cur 1 false = .ok 0x1122334455667788 ∧ srcG s.cur 2 o.feB = .ok 0x10)
    ∧ (e.cur.h[3].bound = true ∧ e.cur.h[3].full = false ∧ e.cur.h[5].full = true ∧ e.cur.h[5].valid = false
        ∧ (cachedLeaf c.cur e.cur.h[5].vpage).isSome = true ∧ cachedLeaf e.cur e.cur.h[5].vpage = none ∧ e.cur.walks = [])
    ∧ (((16 : Int) + 4) % 8 ≠ 0 ∧ bankTarget { o64 1 8 0 with c := 8, imm16 := 4 } (0x100040110, 0) = .ok (.bank (some 0) 0x40114) ∧ 0x40114 % 8 ≠ 0)
    ∧ (bankTarget { o64 1 8 0 with c := 8 } (0x100840110, 0) = .ok (.bank (some 2) 0x40110) ∧ troupeSize s.cur ≤ 2 ∧ 0x40110 % 8 = 0
        ∧ 0x40110 / 2 ^ 18 = (0x40110 + 8 - 1) / 2 ^ 18)
    ∧ (refusedByte r r.cur 0x20010 (linesOf 0x20010 8) rightWrite false = some 0x20010
        ∧ refusedByte r r.cur 0x20010 (linesOf 0x20010 8) rightAtomic false = some 0x20010
        ∧ placeOf r o 8 8 permRwa = some (.mem 0x20010 0x10) ∧ needReleased r 0 (linesOf 0x20010 8) = .ok ())
    ∧ s.cur.h[4].bound = false := by
  refine ⟨⟨ok_of ?_, ok_of ?_, ?_⟩, ⟨ok_of ?_, ok_some ?_, ok_of ?_, ok_of ?_⟩, ?_, ⟨?_, ok_of ?_, ?_⟩, ⟨ok_of ?_, ?_⟩, ⟨?_, ?_, ?_, ok_of ?_⟩, rfl⟩
    <;> decide +kernel

/-- For FullEmptyAccess: a full granule and an empty one, of the slot and of a troupe member, with and without deterministic
mode; one granule and 64; a range that leaves its bank, and one in a bank that the launch did not declare. -/
theorem witness_granules :
    let s := memState
    let o : Opnd := { o64 12 6 0 with fn := 3, c := 8 }
    let ot : Opnd := { o64 12 8 0 with fn := 19, c := 8 }
    refSources s.cur o = .ok (0x40110, 0) ∧ slotOf s ⟨0, false⟩ = some s.cur
    ∧ placeOf s o 8 8 permRd = some (.bank ⟨0, false⟩ 0x40110 0x40110) ∧ placeOf s ot 8 8 permW = some (.bank ⟨0, false⟩ 0x40110 0x100040110)
    ∧ (granuleFull s.cur 0x4011 = true ∧ granuleFull s.cur 0x4012 = false)
    ∧ (∀ clr : Bool, checkGranules s ⟨0, false⟩ s.cur.id (slotCode s.cur.id) (.waiting clr) 0x40110 8 = .ok s)
    ∧ (∃ s0, checkGranules detMemState ⟨0, false⟩ s.cur.id (slotCode s.cur.id) (.waiting true) 0x40110 8 = .ok s0)
    ∧ (∃ s0, checkGranules detMemState ⟨0, false⟩ s.cur.id (slotCode s.cur.id) (.write 0) 0x40110 8 = .ok s0)
    ∧ granuleRange s { o64 63 6 0 with c := 8 } 64 = .ok (⟨0, false⟩, 0x40110, 0x40110)
    ∧ granuleRange s { o64 0 6 0 with c := 8 } 1 = .ok (⟨0, false⟩, 0x40110, 0x40110)
    ∧ (∃ s0, checkGranules detMemState ⟨0, false⟩ s.cur.id (slotCode s.cur.id) (.publish 0) 0x40110 1024 = .ok s0)
    ∧ (isDet s.cur = false ∧ isDet detMemState.cur = true) ∧ dstRegs s.cur (dataRegs 12 8) = .ok ()
    ∧ bankPoisoned s.cur 0x40110 8 = false
    ∧ (bankTarget { o64 1 9 0 with c := 8 } (0x7FFFC, 0) = .ok (.bank none 0x7FFFC) ∧ 0x7FFF0 / 2 ^ 18 ≠ (0x7FFF0 + 16 * 2 - 1) / 2 ^ 18
        ∧ 0x7FFF0 / 2 ^ 18 = (0x7FFF0 + 16 * 1 - 1) / 2 ^ 18 ∧ (recBmask (probeRecord &&& ~~~(2#2048 <<< 1128))).getLsbD (0x7FFF0 / 2 ^ 18) = false) := by
  refine ⟨ok_of ?_, rfl, ?_, ?_, ?_, ?waiting, ok_some ?_, ok_some ?_, ok_of ?_, ok_of ?_, ok_some ?_, ?_, ok_of ?_, ?_, ok_of ?_, ?_⟩
  case waiting => intro clr; cases clr <;> exact ok_of (by decide +kernel)
  all_goals decide +kernel

/-- Full/empty granules (R291): LDFE of an empty granule raises its trap under !, .CLR empties the granule that it reads, STFE
fills one, FECLR empties two, and FEPEEK reads 0 of an empty one. -/
theorem test_granules :
    let s := memState
    let h : State := { s with cur := { s.cur with trapv := 0x10040 } }
    let g (i : Instr) := (after i s).map (fun t => [0x4010, 0x4011, 0x4012, 0x4013].map (granuleFull t.cur))
    trapped (.ldfe { o64 12 6 0 with c := 8, imm16 := 16, feA := true }) h = some (0x2B, 0x40120)
    ∧ g (.ldfe { o64 12 6 0 with c := 8, fn := 16 }) = some [true, false, false, true]
    ∧ g (.stfe { o64 1 6 0 with c := 8, imm16 := 16 }) = some [true, true, true, true]
    ∧ g (.feclr { o64 1 6 0 with c := 8, fn := 1, imm16 := 0xFFF0 }) = some [false, false, false, true]
    ∧ g (.feset { o64 0 6 0 with c := 8, imm16 := 16 }) = some [true, true, true, true]
    ∧ out (.fepeek { o64 12 6 0 with c := 8, fn := 2, imm16 := 16 }) s 12 = some (0, 0)
    ∧ out (.fepeek { o64 12 6 0 with c := 8, fn := 2 }) s 12 = some (1, 0) := by decide +kernel

/-- For AddressesAndHandles: a handle reference and the two forms of a bank's; virtual addresses below and at 2^56, of which one
page is in the translation cache; a handle that HINFO may read. -/
theorem witness_handles :
    let s := memState
    let c : State := { s with cur := { s.cur with cache := [⟨0, 0, 1, 0, 9, 3, 0, 0⟩] } }
    let e : State := { s with cur := { s.cur with g := regs [(1, 0x00FFFFFFFFFFFFFF)] } }
    (dstG s.cur 12 = .ok () ∧ refSources s.cur (o64 12 3 2) = .ok (0, 16))
    ∧ bankTarget { o64 12 8 0 with c := 8 } (0x100040110, 0) = .ok (.bank (some 0) 0x40110)
    ∧ bankTarget { o64 12 6 0 with c := 8 } (0x40110, 0) = .ok (.bank none 0x40110)
    ∧ srcG e.cur 1 false = .ok 0x00FFFFFFFFFFFFFF
    ∧ ((0x00FFFFFFFFFFFFFF : Word).toNat < 2 ^ 56 ∧ 2 ^ 56 ≤ ((0x00FFFFFFFFFFFFFF : Word) + (1 : BitVec 16).signExtend 64).toNat)
    ∧ (cachedLeaf c.cur 1).isSome = true ∧ (cachedLeaf s.cur 1).isSome = false
    ∧ useHandle detMemState.cur 3 false = .ok (capture page3) := by
  refine ⟨⟨rfl, ok_of ?_⟩, ok_of ?_, ok_of ?_, ok_of ?_, ?_, ?_, ?_, ok_of ?_⟩ <;> decide +kernel

/-- ADDR of a handle reference, of a local and of a troupe address (R279); HREL unbinds; XLAT empties a handle and starts a
walk; HINFO reads the low half of R116's layout. -/
theorem test_handles :
    let s := memState
    [out (.addr { o64 12 3 2 with c := 2, imm16 := 0xFFFF }) s 12, out (.addr { o64 12 6 2 with c := 8 }) s 12,
     out (.addr { o64 12 8 0 with c := 8, imm16 := 1 }) s 12]
      = [some (0x3F, 0), some (0x40120, 0), some (0x100040111, 0)]
    ∧ (after (.hrel { o64 3 0 0 with fmt := .c32 }) s).map (fun t => t.cur.h[3].bound) = some false
    ∧ (after (.xlat { o64 4 2 0 with }) s).map (fun t => (t.cur.h[4].bound, t.cur.h[4].full, t.cur.walks.length)) = some (true, false, 1)
    ∧ out (.hinfo (o64 12 3 0)) s 12 = some (0x0070000000020007, 0) := by decide +kernel

/-- For Atomics: 8 bytes of memory and of a bank, and in a deterministic launch, with free destinations and a comparand; the words of tagged
ones with a handle base and with a scratchpad base. -/
theorem witness_atomics :
    let s := memState
    let o : Opnd := { o64 10 3 1 with fn := 24 }
    let ob : Opnd := { o64 10 6 1 with fn := 8, c := 8 }
    (refSources s.cur o false = .ok (0, 0) ∧ srcG s.cur 1 false = .ok 0x1122334455667788 ∧ srcG s.cur 10 false = .ok 0x80)
    ∧ ((resolve s o (0, 0) 8 8 permRwa).toOption = some (.mem 0x20000 0)
        ∧ (resolve s ob (0x40110, 0) 8 8 permRwa).toOption = some (.bank ⟨0, false⟩ 0x40110 0x40110))
    ∧ (refusedByte s s.cur 0x20000 (linesOf 0x20000 8) rightAtomic false = none ∧ poisoned s 0x20000 8 = false
        ∧ needReleased s 0 (linesOf 0x20000 8) = .ok ())
    ∧ (checkLines s s.cur .write 0x20000 8 = .ok s ∧ ∃ s0, checkLines detMemState detMemState.cur .reduce 0x20000 8 = .ok s0)
    ∧ (checkGranules s ⟨0, false⟩ s.cur.id (slotCode s.cur.id) (.write 0) 0x40110 8 = .ok s
        ∧ ∃ s0, checkGranules detMemState ⟨0, false⟩ s.cur.id (slotCode s.cur.id) (.reduce 0) 0x40110 8 = .ok s0)
    ∧ dstRegs s.cur [10, 11] = .ok () ∧ dstRegs s.cur [0] = .ok () ∧ bankPoisoned s.cur 0x40110 8 = false
    ∧ ([(0x3A, Instr.atom), (0x3B, Instr.cas), (0x3C, Instr.xchg)] : List (BitVec 7 × (Opnd → Instr))).all (fun p =>
        decide ((decodeFields .compute p.1 { ob with fn := 24, c := 0 }).toOption = some (p.2 { ob with fn := 24, c := 0 }))
          && memBankBase { ob with fn := 24 }) = true := by
  refine ⟨⟨ok_of ?_, ok_of ?_, ok_of ?_⟩, ?_, ⟨?_, ?_, ok_of ?_⟩, ⟨ok_of ?_, ok_some ?_⟩, ⟨ok_of ?_, ok_some ?_⟩, ok_of ?_, ok_of ?_, ?_, ?_⟩
    <;> decide +kernel

/-- Atomics (R297): the old word is returned, and memory takes the sum, the signed minimum, the swapped value; a CAS whose
comparand differs leaves it. -/
theorem test_atomics :
    let s : State := { memState with mem := ssetRange 0 [] 0x20000 (bytesOf 8 0xFFFFFFFF00000005) }
    let m (i : Instr) := (after i s).map (fun t => (gval t.cur 10, memNat t 0x20000 8))
    m (.atom { o64 10 3 2 with fn := 0 }) = some (5, 0xFFFFFFFF00000015)
    ∧ m (.atom { o64 10 3 2 with fn := 12 }) = some (0xFFFFFFFF00000005, 0xFFFFFFFF00000005)
    ∧ m (.xchg { o64 10 3 1 with fn := 8 }) = some (0xFFFFFFFF00000005, 0x1122334455667788)
    ∧ m (.cas { o64 10 3 1 with fn := 8 }) = some (0xFFFFFFFF00000005, 0xFFFFFFFF00000005)
    ∧ m (.cas { o64 10 3 1 with fn := 0, imm16 := 4 }) = some (0xFFFFFFFF, 0xFFFFFFFF00000005) := by decide +kernel
/-! ## Vector instructions -/

/-- A register of elements of width `w`. -/
def elems (w : Nat) (xs : List Nat) : BitVec 4096 := BitVec.ofNat 4096 ((xs.zipIdx.map (fun p => p.1 * 2 ^ (w * p.2))).foldl (· + ·) 0)

/-- A slot with a width code, a count of active elements in k2, and some vector registers. -/
def vecState (wc : BitVec 2) (count : BitVec 12) (vs : List (Fin 32 × BitVec 4096)) : State :=
  with0 (fun t =>
    { t with wcode := wc, rows := 3, k := t.k.set 2 (wc ++ 0#2 ++ count), g := regs [(3, 0x3F800000), (4, 2), (5, 5)]
             v := vs.foldl (fun v p => v.set p.1 p.2) (Vector.replicate 32 0) })

/-- The elements of a vector register after an instruction, and FLAGS. -/
def outV (i : Instr) (s : State) (r : BitVec 5) (w n : Nat) : Option (List Nat × BitVec 6) :=
  (after i s).map (fun t => ((List.range n).map (elemOf w (vval t.cur r).toNat), t.cur.flags))

/-- Operands of a vector instruction under k2. -/
def ov (d a b : BitVec 6) : Opnd := { fmt := .c64, d, a, b, k := 2 }

/-- For VectorFloatArithmetic, VectorUnaryAndOrder, VectorIntegers, VectorCompareSelectConvert, VectorMoves, VectorReductions,
ShapesPredicatesRandomAndTrits: groups of two registers that end at v31, full and free; the scalar second operand of .G; every width. -/
theorem witness_vector_groups :
    let s (wc : BitVec 2) (count : BitVec 12) := vecState wc count []
    let f := s 2 130
    f.mgmt.powered = true ∧ vWidth f.cur = (floatFmt 0).w ∧ vWidth (s 1 0).cur = (floatFmt 1).w ∧ vWidth (s 1 0).cur = (floatFmt 2).w
    ∧ (activeCount f.cur 2 = 130 ∧ groupSize 130 (vCount f.cur) = 2 ∧ activeCount (s 2 0).cur 2 = 0 ∧ groupSize 0 128 = 1)
    ∧ groupFull f 30 2 ∧ groupFull f 0 2 ∧ groupFree f 30 2 ∧ groupFull f 31 1 ∧ groupFree f 31 1
    ∧ second f (ov 30 0 8) 2 32 false (elemAt f 8 32) ∧ second f (ov 30 0 3) 2 32 true (fun _ => 0x3F800000) := by
  refine ⟨rfl, ?_, ?_, ?_, ?_, ?_, ?_, ?_, ?_, ?_, ⟨?_, rfl⟩, ⟨0x3F800000, ok_of ?_, ?_⟩⟩
  all_goals first | decide +kernel | (unfold groupFull; decide +kernel) | (unfold groupFree; decide +kernel) | (funext j; decide +kernel)

/-- For VectorIntegers, VectorCompareSelectConvert and VectorFaults: the width that VDOT4 needs; type codes of VCVT whose groups
have at most six registers; a source group that stays within v0 to v31, one that does not, and indices at the end of a row. -/
theorem witness_vector_forms :
    let f := vecState 2 130 []
    let b := vecState 0 512 []
    vWidth f.cur = 4 * 8 ∧ vWidth (vecState 3 1 []).cur = 4 * 16
    ∧ (predAt b.cur 2 (vcvtType 3 0).2 = 512 ∧ (512 * (vcvtType 6 0).2 + 4095) / 4096 = 8 ∧ (512 * (vcvtType 5 0).2 + 4095) / 4096 = 4)
    ∧ (∃ x, srcGroup f.cur 0 2 false = .ok x) ∧ (32 < (31 : BitVec 6).toNat + 2)
    ∧ (vRows f.cur = 4 ∧ vCols f.cur = 32 ∧ vCount f.cur = 128) ∧ vWidth f.cur ≠ (floatFmt 1).w
    ∧ (∃ x, srcV f.cur (vreg 31) false = .ok x) ∧ dstG f.cur 6 = .ok () := by
  refine ⟨?_, ?_, ?_, ok_some ?_, by decide, ?_, ?_, ok_some ?_, rfl⟩ <;> decide +kernel

/-- For ShapesPredicatesRandomAndTrits: bytes below 243, and one of 243 after a good one. -/
theorem witness_trits :
    let s := vecState 0 10 [(1, elems 8 [242, 243])]
    let g := vecState 0 10 [(1, elems 8 [242, 0])]
    (tritRegs 10 = 1 ∧ elemAt s 1 8 0 < 243 ∧ 243 ≤ elemAt s 1 8 1) ∧ (∀ i, i < (10 + 4) / 5 → elemAt g 1 8 i < 243)
    ∧ groupFull s 1 1 ∧ groupFree s 2 1 ∧ srcG s.cur 5 false = .ok 5 := by
  refine ⟨by decide +kernel, by decide +kernel, by unfold groupFull; decide +kernel, by unfold groupFree; decide +kernel, ok_of (by decide +kernel)⟩

/-- For ShapesPredicatesRandomAndTrits: sources of KSET and KADD, below and above the range of a count. -/
theorem witness_predicates :
    let s := withG [(1, BitVec.allOnes 64), (2, 1000)]
    s.mgmt.powered = true ∧ srcG s.cur 1 false = .ok (BitVec.allOnes 64) ∧ srcG s.cur 2 false = .ok 1000 ∧ dstG s.cur 3 = .ok () :=
  ⟨rfl, ok_of (by decide +kernel), ok_of (by decide +kernel), rfl⟩

/-- Floating elements (R322): 1 + 1, 1 - 2 and 2 × 2 in binary32, 1 / 0 raising dz (bit 3); the inactive fourth element keeps its
value, and is cleared under .Z. -/
theorem test_vector_float :
    let s := vecState 2 3 [(1, elems 32 [0x3F800000, 0x3F800000, 0x40000000, 7]), (2, elems 32 [0x3F800000, 0x40000000, 0x40000000, 7]),
      (4, elems 32 [9, 9, 9, 9])]
    outV (.vadd (ov 4 1 2)) s 4 32 4 = some ([0x40000000, 0x40400000, 0x40800000, 9], 0)
    ∧ outV (.vsub { ov 4 1 2 with fn := 4 }) s 4 32 4 = some ([0, 0xBF800000, 0, 0], 0)
    ∧ outV (.vmul (ov 4 1 2)) s 4 32 4 = some ([0x3F800000, 0x40000000, 0x40800000, 9], 0)
    ∧ outV (.vfma { ov 4 1 2 with c := 2 }) s 4 32 4 = some ([0x40000000, 0x40800000, 0x40C00000, 9], 0)
    ∧ outV (.vdiv (ov 4 1 5)) s 4 32 3 = some ([0x7F800000, 0x7F800000, 0x7F800000], 8)
    ∧ outV (.vadd { ov 4 1 3 with fn := 8 }) s 4 32 3 = some ([0x40000000, 0x40000000, 0x40400000], 0) := by decide +kernel

/-- Special functions of 4 and 1 (R325): exact results. -/
theorem test_special_functions :
    let s := vecState 2 2 [(1, elems 32 [0x40800000, 0x3F800000])]
    outV (.vsqrt (ov 4 1 0)) s 4 32 2 = some ([0x40000000, 0x3F800000], 0)
    ∧ outV (.vrsqrt (ov 4 1 0)) s 4 32 2 = some ([0x3F000000, 0x3F800000], 0)
    ∧ outV (.vrcp (ov 4 1 0)) s 4 32 2 = some ([0x3E800000, 0x3F800000], 0)
    ∧ outV (.vexp2 (ov 4 1 0)) s 4 32 2 = some ([0x41800000, 0x40000000], 0)
    ∧ outV (.vlog2 (ov 4 1 0)) s 4 32 2 = some ([0x40000000, 0], 0) := by decide +kernel

/-- Integer elements of width 8 (R322, R323): saturation, .U, a shift amount modulo 8, the arithmetic shift, the bitwise forms. -/
theorem test_vector_integer :
    let s := vecState 0 2 [(1, elems 8 [0x7F, 0x80]), (2, elems 8 [1, 0xFF])]
    outV (.viadd (ov 4 1 2)) s 4 8 3 = some ([0x80, 0x7F, 0], 0)
    ∧ outV (.viadd { ov 4 1 2 with fn := 1 }) s 4 8 2 = some ([0x7F, 0x80], 32)
    ∧ outV (.visub { ov 4 2 1 with fn := 2 }) s 4 8 2 = some ([0, 0x7F], 32)
    ∧ outV (.vshl (ov 4 1 2)) s 4 8 2 = some ([0xFE, 0], 0)
    ∧ outV (.vshr { ov 4 1 2 with fn := 1 }) s 4 8 2 = some ([0x3F, 0xFF], 0)
    ∧ outV (.vand (ov 4 1 2)) s 4 8 2 = some ([1, 0x80], 0) ∧ outV (.vor (ov 4 1 2)) s 4 8 2 = some ([0x7F, 0xFF], 0)
    ∧ outV (.vxor (ov 4 1 2)) s 4 8 2 = some ([0x7E, 0x7F], 0) := by decide +kernel

/-- Order and sign of signed elements of width 8 (R322, R324): -128 is the least, and its absolute value saturates. -/
theorem test_vector_sign :
    let s := vecState 0 2 [(1, elems 8 [0x7F, 0x80]), (2, elems 8 [1, 0xFF])]
    outV (.vmin { ov 4 1 2 with fn := 3 }) s 4 8 2 = some ([1, 0x80], 0)
    ∧ outV (.vmax { ov 4 1 2 with fn := 3 }) s 4 8 2 = some ([0x7F, 0xFF], 0)
    ∧ outV (.vabs { ov 4 1 0 with lvl := 4 }) s 4 8 2 = some ([0x7F, 0x7F], 32)
    ∧ outV (.vneg { ov 4 1 0 with fn := 1, lvl := 3 }) s 4 8 2 = some ([0x81, 0x80], 0) := by decide +kernel

/-- The examples of R330: a saturated sum, an exact one, and the same with unsigned parts of a. -/
theorem test_dot :
    let s := vecState 2 2 [(1, elems 32 [0x7F7F7F7F, 0x00008080]), (2, elems 32 [0xFF00017F, 0x00007F80]), (4, elems 32 [2147483000, 5])]
    outV (.vdot4 (ov 4 1 2)) s 4 32 2 = some ([0x7FFFFFFF, 133], 32)
    ∧ outV (.vdot4 { ov 4 1 2 with fn := 1 }) s 4 32 2 = some ([0x7FFFFFFF, 2 ^ 32 - 123], 32) := by decide +kernel

/-- Comparison, selection and conversion (R326 to R329): 1 < 2, an ordered test of a NaN, selection by c, and -1 as a float. -/
theorem test_vector_compare :
    let s := vecState 2 2 [(1, elems 32 [0x3F800000, 0x7FC00000]), (2, elems 32 [0x40000000, 0x40000000]), (3, elems 32 [0xFFFFFFFF, 5])]
    outV (.vcmp { ov 4 1 2 with fn := 8 }) s 4 32 3 = some ([0xFFFFFFFF, 0, 0], 0)
    ∧ outV (.vcmp { ov 4 1 2 with fn := 16 }) s 4 32 2 = some ([0, 0xFFFFFFFF], 0)
    ∧ outV (.vsel { ov 4 1 2 with c := 5 }) s 4 32 2 = some ([0x40000000, 0x40000000], 0)
    ∧ outV (.vcvt { ov 4 3 0 with c := 5, fn := 0 }) s 4 32 2 = some ([0xBF800000, 0x40A00000], 0) := by decide +kernel

/-- Moves (R333, R334) over four rows of 32: a shuffle, row and column broadcasts, an index ramp, one element out and in, and a
transpose, whose second element is that of the second row. -/
theorem test_vector_moves :
    let s := vecState 2 3 [(1, elems 32 ((List.range 128).map (fun j => 100 + j))), (2, elems 32 [127, 128, 1000]), (3, elems 32 [55])]
    outV (.vshuf { ov 4 1 2 with c := 3 }) s 4 32 4 = some ([227, 55, 0, 0], 0)
    ∧ outV (.vbcastRow { ov 4 1 0 with fn := 2, imm16 := 1 }) s 4 32 4 = some ([132, 133, 134, 0], 0)
    ∧ outV (.vbcastCol { ov 4 1 0 with fn := 3, imm16 := 31 }) s 4 32 4 = some ([131, 131, 131, 0], 0)
    ∧ outV (.vbcastG { ov 4 5 0 with fn := 0 }) s 4 32 4 = some ([5, 5, 5, 0], 0)
    ∧ outV (.vbcastImm { ov 4 0 0 with fn := 1, imm16 := 0xFFFF }) s 4 32 1 = some ([0xFFFFFFFF], 0)
    ∧ outV (.vmove (ov 4 1 0)) s 4 32 4 = some ([100, 101, 102, 0], 0)
    ∧ outV (.vidx (ov 4 5 4)) s 4 32 4 = some ([5, 7, 9, 0], 0)
    ∧ out (.vmoveTog { ov 6 1 0 with fn := 2, k := 0, imm16 := 127 }) s 6 = some (227, 0)
    ∧ outV (.vmoveFromg { ov 1 5 0 with fn := 3, k := 0, imm16 := 2 }) s 1 32 4 = some ([100, 101, 5, 103], 0)
    ∧ outV (.vtrans { ov 4 1 0 with k := 0 }) s 4 32 5 = some ([100, 132, 164, 196, 101], 0) := by decide +kernel

/-- The example of R332: the tree of six binary32 elements, and the fold, each raising nx. -/
theorem test_vector_reductions :
    let s := vecState 2 6 [(1, elems 32 [0x3F800000, 0x33800000, 0x33800000, 0x33800000, 0x33800000, 0])]
    out (.vred (ov 6 1 0)) s 6 = some (0x3F800002, 1)
    ∧ outV (.vscan (ov 4 1 0)) s 4 32 6 = some (List.replicate 6 0x3F800000, 1)
    ∧ out (.vred { ov 6 1 0 with fn := 3 }) (vecState 0 2 [(1, elems 8 [0x80, 0xFF])]) 6 = some (0x7F, 0) := by decide +kernel

/-- Shapes and predicates (R313, R318): a count is held within 0 and 6 N, and k0 discards it. -/
theorem test_predicates :
    let s := withG [(1, BitVec.allOnes 64), (2, 1000)]
    let k (i : Instr) (n : Fin 8) := (after i s).map (fun t => t.cur.k[n])
    k (.kset { o64 3 1 0 with }) 3 = some 0x8000 ∧ k (.kset (o64 3 2 0)) 3 = some (0x8000 + 768) ∧ k (.kset (o64 0 2 0)) 0 = some 0x8080
    ∧ k (.kadd { o64 3 4 1 with fn := 1 }) 3 = some (0x8000 + 127) ∧ k (.kmin { o64 3 4 0 with fn := 2 }) 3 = some 0x8080
    ∧ (after (.vshape { o64 0 0 0 with imm16 := 0x33F }) s).map (fun t => (t.cur.rows, t.cur.wcode)) = some (63, 3)
    ∧ out (.vshapeRd { o64 6 0 0 with fn := 1 }) s 6 = some (0x200, 0) := by decide +kernel

/-- Trits (R337's example): the elements -100, 7, 0, 13, -1 pack to the signs -, +, 0, +, -, whose digits 2, 1, 0, 1, 2 make
2 + 3 + 27 + 162; they unpack again. -/
theorem test_trits :
    let s := vecState 0 5 [(1, elems 8 [156, 7, 0, 13, 255]), (2, elems 8 [194])]
    outV (.trpack (ov 4 1 0)) s 4 8 1 = some ([194], 32)
    ∧ outV (.trunpack { ov 4 2 0 with fn := 1 }) s 4 8 6 = some ([255, 1, 0, 1, 255, 0], 0)
    ∧ outV (.trsplit { ov 4 1 0 with fn := 2 }) s 4 8 1 = some ([2 + 3 + 27 + 162], 0) := by decide +kernel
/-! ## Scans, state slots, the pannier and carries -/

/-- A scan operator of one component (R247): a left fold by addition. -/
def addOperator : BitVec 512 := BitVec.ofNat 512 (1 + 2 ^ 8 + (4 * 2 ^ 12) * 2 ^ 192)

/-- Channels, positions and a tag for state slot 5, an operator, and ranges that a scan may name. -/
def scanState (nch : Nat) : State :=
  { with0 (fun t =>
      { t with h := (t.h.set 3 page3).set 4 { page3 with kdh := 0x20003 }
               g := regs [(1, 0x40000), (2, 0x40010), (3, 0x40008), (4, 0x04000085), (5, 0x10000), (6, 0x80020003), (7, 0x7E00)]
               z := ssetRange 0 [] (32768 * 5) (bytesOf 64 (nch * 2 ^ 27))
               ztag := [(5, { state := 1, kdh := 0x20003, fresh := true })]
               scanOp := some { record := addOperator, mode := 0 }
               record := (probeRecord &&& ~~~(31#2048 <<< 1216 ||| 1#2048 <<< (1152 + 63))) ||| 9#2048 <<< 1216 }) with
    mem := ssetRange 0 [] 0x20000 (bytesOf 64 addOperator.toNat) }

/-- For ScansAreIssued: the operator's record in a page that the slot may read, and records of each cause; a state slot of two
channels whose footprints of 16 bytes lie side by side, one that overlaps, an address that is not aligned; no channels, the
largest number, and one more; an undeclared state slot and counter. -/
theorem witness_scans :
    let s := scanState 2
    let nch (n : Nat) := leNat (sgetRange 0 (scanState n).cur.z (32768 * 5) 64) / 2 ^ 27 % 2 ^ 12
    (s.mgmt.powered = true ∧ useHandle s.cur 3 false 0 = .ok (capture page3) ∧ checkPage (capture page3) 0 64 permRd = .ok 0x20000
      ∧ refusedByte s s.cur 0x20000 (linesOf 0x20000 64) rightRead false = none ∧ poisoned s 0x20000 64 = false
      ∧ needReleased s (dieOf s.cur.id.core) (linesOf 0x20000 64) = .ok ())
    ∧ (BitVec.ofNat 512 (memNat s 0x20000 64) = addOperator ∧ addOperator.toNat % 2 ^ 8 = 1 ∧ sopBad addOperator = false)
    ∧ (sopBad (addOperator ||| 1#512 <<< 20) = true)
    ∧ (nch 2 = 2 ∧ nch 0 = 0 ∧ nch 2044 = 2044 ∧ nch 2045 = 2045)
    ∧ ((recZmask s.cur.record).getLsbD 5 = true ∧ (recZmask s.cur.record).getLsbD 63 = false ∧ recNctr s.cur.record = 9)
    ∧ counterFree s { o64 5 1 2 with c := 8 }
    ∧ (srcG s.cur 1 false = .ok 0x40000 ∧ srcG s.cur 2 false = .ok 0x40010 ∧ srcG s.cur 3 false = .ok 0x40008)
    ∧ (ownsRange s.cur 0x40000 16 = true ∧ ownsRange s.cur 0x40010 16 = true ∧ 0x40000 + 16 ≤ 0x40010)
    ∧ s.cur.scanOp = some { record := addOperator, mode := 0 } := by
  refine ⟨⟨rfl, rfl, ok_of ?_, ?_, rfl, ok_of ?_⟩, ?_, ?_, ?_, ?_, ⟨?_, rfl⟩, ⟨ok_of ?_, ok_of ?_, ok_of ?_⟩, ?_, rfl⟩
    <;> decide +kernel

/-- For StateSlots: the last 512 bytes of a state slot and an offset past them; a slot with an operation on it, and a DEAD one;
a tag of SBIND that is zero, malformed, dead, and held by a sequence of the tenant; a free key and none. -/
theorem witness_state_slots :
    let s := scanState 2
    let b : State := { s with cur := { s.cur with ops := [{ id := 7, work := .chrecv 5 3 }] } }
    let d : State := { s with cur := { s.cur with ztag := [(5, { state := 2, kdh := 0x20003 })] } }
    let q : Sequence := { id := 1, tenant := 0, context := 0, kdh := 0x20003, doms := [0x20003], spans := 1, stride := 16 }
    let k : KvDie := { seqs := [q], keys := sset {} [] 3 { gen := 2, holders := 2, state := .shared } }
    let h : State := { s with kv := s.kv.set 0 k }
    (s.mgmt.powered = true ∧ srcG s.cur 7 false = .ok 0x7E00 ∧ (∃ v, srcV s.cur (vreg 9) false = .ok v) ∧ dstV s.cur (vreg 9) = .ok ()
      ∧ dstG s.cur 9 = .ok ())
    ∧ ((0x7E00 : Int) + 512 = 32768 ∧ (recZmask s.cur.record).getLsbD 5 = true ∧ zOps s.cur 5 = [] ∧ zOps b.cur 5 ≠ [])
    ∧ ((zTag s.cur 5).state = 1 ∧ (zTag d.cur 5).state = 2 ∧ (zTag s.cur 5).fresh = true)
    ∧ (srcG s.cur 0 false = .ok 0 ∧ srcG s.cur 5 false = .ok 0x10000 ∧ srcG s.cur 6 false = .ok 0x80020003)
    ∧ handleDead s 0x80020003 = true ∧ (handleDead h 0x20003 = false ∧ ∃ x ∈ (h.kv[kdhDie 0x20003]).seqs, x.tenant = h.cur.tenant ∧ 0x20003 ∈ x.doms)
    ∧ (newDomain s 0).isSome = true ∧ (newDomain s 1).isSome = true := by
  refine ⟨⟨rfl, ok_of ?_, ok_some ?_, rfl, rfl⟩, ?_, ?_, ⟨rfl, ok_of ?_, ok_of ?_⟩, ?_, ⟨?_, ?holder⟩, ?_, ?_⟩
  case holder => exact ⟨_, List.mem_singleton.mpr rfl, rfl, List.mem_singleton.mpr rfl⟩
  all_goals decide +kernel

/-- For PannierAndCarriesAreIssued: 32,768 bytes that end at the end of a page under the slot's domain, a page under another
domain, a counter outside the launch, and destinations of a carry: a core of the same board, core 128, another board. -/
theorem witness_pannier :
    let s : State := { scanState 2 with devid := 0x40 }
    let p : Handle := { page3 with kdh := 0x20003 }
    (s.mgmt.powered = true ∧ useHandle s.cur 4 false (64 * 512) = .ok (capture p) ∧ checkPage (capture p) 0x8000 32768 permW true = .ok 0x28000
      ∧ checkPage (capture p) 0x8000 32768 permRd true = .ok 0x28000)
    ∧ ((capture p).kdh = (zTag s.cur 5).kdh ∧ (capture page3).kdh ≠ (zTag s.cur 5).kdh ∧ useHandle s.cur 3 false (64 * 512) = .ok (capture page3))
    ∧ counterFree s { o64 5 4 0 with c := 8 } ∧ recNctr s.cur.record ≤ 9
    ∧ srcG s.cur 4 false = .ok 0x04000085
    ∧ ((0x04000085 : Nat) < 2 ^ 27 ∧ (0x85 / 2 ^ 6 ≠ 0x40 / 2 ^ 6) ∧ (0x45 / 2 ^ 6 = 0x40 / 2 ^ 6))
    ∧ (128 : BitVec 8).toNat = 128 := by
  refine ⟨⟨rfl, rfl, ok_of ?_, ok_of ?_⟩, ⟨rfl, ?_, rfl⟩, ⟨?_, rfl⟩, ?_, ok_of ?_, by decide, rfl⟩ <;> decide +kernel

/-- SCANL empties its destination granules and takes number 1 on q8 (R376); SST and SLD move the 512 bytes at an offset; SBIND
writes the header's nch (R366) and releases what SBIND.NEW bound. -/
theorem test_state_slots :
    let s := scanState 2
    (after (.scanl { o64 5 1 2 with c := 8, imm16 := 1 }) s).map (fun t =>
      ([0x4000, 0x4001, 0x4002].map (granuleFull t.cur), t.cur.q[8].issued)) = some ([true, false, true], 1)
    ∧ (after (.sst { o64 9 5 7 with fn := 1 }) { s with cur := { s.cur with v := s.cur.v.set 9 0xAB } }).map (fun t =>
        [0x7DFF, 0x7E00, 0x7E01].map (fun k => sget 0 t.cur.z (32768 * 5 + k))) = some [0, 0xAB, 0]
    ∧ (after (.sbind { o64 5 0 9 with imm16 := 2043 }) s).map (fun t =>
        (gval t.cur 9, (zTag t.cur 5).state, (zTag t.cur 5).kdh, leNat (zRead t.cur 5 0 8) / 2 ^ 27)) = some (0, 1, 0, 2044) := by
  refine ⟨?_, ?_, ?_⟩ <;> decide +kernel
/-! ## KV instructions, queries and attention dots -/

/-- A launch of nine counters without bank 3; status and data addresses at the ends of banks, and words of a sequence. -/
def kvState : State :=
  with0 (fun t =>
    { t with g := regs [(1, 0xBFFF0), (2, 0x2123456), (3, 0x7FFF0), (4, 0xC0000), (5, 0x40000), (6, 0x7FF80), (7, 0x100000),
               (8, 0x300020004), (9, 0x1000000000000)]
             record := (probeRecord &&& ~~~(31#2048 <<< 1216) &&& ~~~(8#2048 <<< 1128)) ||| 9#2048 <<< 1216
             bfmt := ((t.bfmt.set 1 0x2000000).set 2 0x1000000).set 4 0x5000000
             nextOp := 4 })

/-- A KVOPEN of stride 3 and one span on die 2 (R153). -/
def kvOpenReq : KvReq := { kind := .opens, word := 0x82, status := 0x40000 }

/-- For KvOperationsAreIssued: a status granule at the end of bank 2, one in the undeclared bank 3, a region of locators that
crosses the end of the bank; hash data at the end of bank 1, token data that crosses it; the last counter and one past it; none
and 64 operations on their way. -/
theorem witness_kv :
    let s := kvState
    (s.mgmt.powered = true ∧ srcG s.cur 1 false = .ok 0xBFFF0 ∧ srcG s.cur 2 false = .ok 0x2123456 ∧ srcG s.cur 3 false = .ok 0x7FFF0
      ∧ srcG s.cur 4 false = .ok 0xC0000)
    ∧ (ownsRange s.cur 0xBFFF0 16 = true ∧ ownsRange s.cur 0xBFFF0 24 = false ∧ ownsRange s.cur 0xC0000 16 = false)
    ∧ (ownsRange s.cur 0x7FFF0 16 = true ∧ ownsRange s.cur 0x7FFF0 32 = false)
    ∧ (recNctr s.cur.record = 9 ∧ counterFree s { o64 1 2 3 with c := 8 })
    ∧ ([0, 64].map (fun n => ((List.replicate n { id := 7, q := some 8, work := .kv kvOpenReq none : Op }).filter
        (fun p => p.q = some ((8 : BitVec 6).setWidth 4) && isKv p.work)).length)) = [0, 64] := by
  refine ⟨⟨rfl, ok_of ?_, ok_of ?_, ok_of ?_, ok_of ?_⟩, ?_, ?_, ⟨?_, ?_, rfl⟩, ?_⟩ <;> decide +kernel

/-- A query header (R166): reply region of 16 bytes at an address, one payload unit of 16 bytes. -/
def queryHeader (raddr : Nat) : Nat := raddr * 2 ^ 385 + 5 * 2 ^ 437 + 7 * 2 ^ 464

/-- The slot with bytes of a header at 0x4_0000. -/
def queryState (h : Nat) : State :=
  { kvState with cur := { kvState.cur with banks := ssetRange 0 [] 0x40000 (bytesOf 64 h) } }

/-- For QueriesAndLookups: KVMAP's pair; a status granule of QSEND.REPLY owned and not, with a payload that crosses a bank; a
header whose granules are full, of which one is poisoned or none, its form good and bad, its reply region and its payload owned and not. -/
theorem witness_queries :
    let s := queryState (queryHeader 0x80000)
    let h := leNat ((List.range 64).map (fun i => bankByte s.cur (0x40000 + i)))
    (reads2 s (o64 62 2 3) 0x2123456 0x7FFF0 ∧ dstG s.cur 63 = .ok ())
    ∧ (ownsRegion s.cur 0x7FFF0 32 = true ∧ ownsRegion s.cur 0xBFFF0 32 = false)
    ∧ (srcG s.cur 5 false = .ok 0x40000 ∧ ownsRange s.cur 0x40000 64 = true
        ∧ ∀ g, 0x40000 / 16 ≤ g → g ≤ (0x40000 + 63) / 16 → granuleFull s.cur g = true)
    ∧ checkGranules s s.cur.id s.cur.id (slotCode s.cur.id) (.waiting false) 0x40000 64 = .ok s
    ∧ (h = queryHeader 0x80000 ∧ h / 2 ^ 488 % 2 ^ 24 = 0 ∧ h % 2 ^ 385 = 0 ∧ h / 2 ^ 385 % 2 ^ 22 = 0x80000)
    ∧ (ownsRegion s.cur 0x80000 16 = true ∧ ownsRegion s.cur (0x40000 + 64) 16 = true ∧ ownsRegion s.cur 0xC0000 16 = false)
    ∧ leNat (sgetRange 0 (queryState (queryHeader 0x80008)).cur.banks 0x40000 64) / 2 ^ 385 % 2 ^ 22 % 16 = 8
    ∧ (bankPoisoned s.cur 0x40000 64 = false ∧ bankPoisoned { s.cur with poison := [(0x4003, true)] } 0x40000 64 = true)
    ∧ counterFree s { o64 1 5 0 with c := 8 } := by
  refine ⟨⟨⟨⟨⟨rfl, rfl⟩, ok_of ?_⟩, ok_of ?_⟩, rfl⟩, ?_, ⟨ok_of ?_, ?_, fun _ _ _ => rfl⟩, ok_of ?_, ?_, ?_, ?_, ?_, ?_, rfl⟩
    <;> decide +kernel

/-- For AttentionDots: five binary16 elements, three rows of int16 with 48 bytes between them, an output of binary32; the same
with an empty source granule, and with a poisoned one; a shape word with bit 48 set. -/
theorem witness_dots :
    let s := kvState
    let e : Slot := { s.cur with empty := [(0x10003, false)] }
    let srcs := [(0x40000, 10)] ++ (List.range 3).map (fun r => (0x100000 + r * 48, 10))
    (srcG s.cur 1 false = .ok 0xBFFF0 ∧ srcG s.cur 5 false = .ok 0x40000 ∧ srcG s.cur 7 false = .ok 0x100000
      ∧ srcG s.cur 8 false = .ok 0x300020004 ∧ srcG s.cur 9 false = .ok 0x1000000000000)
    ∧ (dotFormat (bankFmt s.cur 0x40000) = some (.num fmt16, 16) ∧ dotFormat (bankFmt s.cur 0x100000) = some (.int true 16, 16)
        ∧ (bankFmt s.cur 0xBFFF0).extractLsb' 24 4 = 1)
    ∧ (ownsRange s.cur 0x40000 10 = true ∧ ownsRange s.cur 0x100000 (2 * 48 + 10) = true ∧ ownsRange s.cur 0xBFFF0 12 = true)
    ∧ (ownsBank s.cur 0x40000 = true ∧ ownsBank s.cur 0x100000 = true ∧ ownsBank s.cur 0xBFFF0 = true)
    ∧ (srcs.all (fun r => !bankPoisoned s.cur r.1 r.2) = true
        ∧ srcs.any (fun r => bankPoisoned { s.cur with poison := [(0x10003, true)] } r.1 r.2) = true)
    ∧ (emptyIn s.cur srcs = none ∧ emptyIn e srcs = some 0x10003 ∧ isDet s.cur = false)
    ∧ (0x300020004 % 2 ^ 16 + 1 = 5 ∧ 0x300020004 / 2 ^ 16 % 2 ^ 16 + 1 = 3 ∧ 16 * (0x300020004 / 2 ^ 32) = 48) := by
  refine ⟨⟨ok_of ?_, ok_of ?_, ok_of ?_, ok_of ?_, ok_of ?_⟩, ?_, ?_, ?_, ?_, ?_, ?_⟩ <;> decide +kernel

/-- R398's arithmetic on small values: A = 1.0, 2.0 in binary16, B = one row 3, 4 in int16: ADOT gives 11.0, and under .ACC 1.0
more; one granule becomes full, and the stream is held for 21 cc. -/
theorem test_adot :
    let s (acc : Nat) : State := { kvState with cur := { kvState.cur with
      g := regs [(1, 0x80000), (5, 0x40000), (7, 0x100000), (8, 1)]
      banks := ssetRange 0 (ssetRange 0 (ssetRange 0 [] 0x40000 (bytesOf 4 0x40003C00)) 0x80000 (bytesOf 4 acc)) 0x100000 (bytesOf 4 0x00040003) } }
    let o : Opnd := { o64 1 5 7 with c := 8 }
    (after (.adot o) (s 0)).map (fun t => (leNat (bankRead t.cur 0x80000 4), t.cur.ctl.hold)) = some (0x41300000, 21)
    ∧ (after (.adot { o with lvl := 1 }) (s 0x3F800000)).map (fun t => leNat (bankRead t.cur 0x80000 4)) = some 0x41400000 := by
  decide +kernel

/-- KVAPPEND empties its status granule, takes number 1 on q8 and its place at its home die, 0 for an even sequence (R138, R394);
QSEND takes two numbers (R396). -/
theorem test_kv_issue :
    (after (.kvappend { o64 1 2 5 with c := 8 }) kvState).map (fun t =>
      (granuleFull t.cur 0xBFFF, t.cur.q[8].issued, t.kv[0].arrivals.length, t.kv[1].arrivals.length)) = some (false, 1, 1, 0)
    ∧ (after (.qsend { o64 1 5 0 with c := 8 }) (queryState (queryHeader 0x80000))).map (fun t =>
      (granuleFull t.cur 0xBFFF, granuleFull t.cur 0x8000, t.cur.q[8].issued, t.kv[1].queries.length)) = some (false, false, 2, 1) := by
  decide +kernel
/-! ## Matrix and copy records -/

/-- An int8 position of two rows, 1, 2, 3, … and −1, −2, −3, …; a trit position of the bytes 1, 2 and 242. -/
def position8 : Position :=
  { num := 0, fmt := 0x4000000, src := 0, rstride := 320, rows := 2
    bytes := (ssetRange 0 [] 0 [1, 2, 3]) ++ ssetRange 0 [] 640 [0xFF, 0xFE, 0xFD] }
def positionTrits : Position :=
  { num := 2, fmt := 0x8000000, src := 0, rstride := 320, rows := 2, bytes := [(0, 1), (64, 2), (16383, 242)] }

/-- A slot in cc 100 whose matrix stream has SB and started in cc 10, with those positions in f0 and f2, tile 2 open with element
(0, 0) at 10, tile 7 undeclared, a row of scales 1.0 in bank 2, bank 1 of binary32, and a page of 1 MiB in handle 3. -/
def mxState (sb : Nat) (strict : Bool) : State :=
  let r := (probeRecord &&& ~~~(31#2048 <<< 1216) &&& ~~~(128#2048 <<< 1144)) ||| 9#2048 <<< 1216
  let f : Vector Fifo 4 := Vector.replicate 4 {}
  with0 (fun t =>
    { t with record := if strict then r ||| 1#2048 <<< 485 else r
             time := { sb := word sb, started := 10, lastIssue := 20 }
             mx := { running := true, pc := 0x10400 }, stampb := 30
             fifos := (f.set 0 { filled := 1, held := [position8] }).set 2 { filled := 3, consumed := 2, issuedC := 2, held := [positionTrits] }
             wbuf := #v[{ bytes := [(0, 1), (64, 2)] }, {}]
             acc := [(32768, 10)]
             tiles := t.tiles.set 2 { count := 5, qa := some 0 }
             bfmt := (t.bfmt.set 1 0x1000000).set 2 0x2000000
             banks := ssetRange 0 [] 0x80000 (bytesOf 4 0x3C003C00)
             h := t.h.set 3 { page3 with size := 1 } })

def mxHead : RecHead := { q := 8 }
def nest2 : MxNest := { closes := true, tile := 2, rows := 1, consume := 1 }

/-- For MatrixRecordsIssue: records that are ready in their target cc, in a STRICT launch as well, and late in another; one that
is not clear; masks of declared tiles and of tile 7; a trit position in its FIFO; a product on tile 2; a drain of
two elements; a tile saved to and restored from a page. -/
theorem witness_matrix :
    let s := mxState 100 true
    let u := mxState 95 false
    let b := mxState 97 false
    let v : State := { u with cur := { u.cur with time := { u.cur.time with lastIssue := 97 } } }
    let drain : MxDrainBody := { tile := 2, cols := 1, dst := 0x40000, rstride := 16, scl := 0x80000, sa := 0x3F800000 }
    let ready (s : State) (i : Instr) (use : Option Capture) : Prop := mxUses s.cur i = .ok (none, use) →
      matrixReady s i none use
    let c : Capture := capture { page3 with size := 1 }
    (ready s (.mxend mxHead) none ∧ ready u (.mxend mxHead) none ∧ isStrict s.cur = true ∧ isStrict u.cur = false)
    ∧ (mxUses s.cur (.mxend mxHead) = .ok (none, none) ∧ mxUses u.cur (.mxsave mxHead { tile := 2, h := 3 }) = .ok (none, some c)
        ∧ mxTarget b.cur mxHead = 97 ∧ mxClear v.cur (.mxend mxHead) 100 = false)
    ∧ ((0x7F &&& ~~~(recAmask s.cur.record) : BitVec 8) = 0 ∧ (0x80 &&& ~~~(recAmask s.cur.record) : BitVec 8) ≠ 0)
    ∧ (heldPosition s.cur 2 2 = some positionTrits ∧ bankClass positionTrits.fmt = .trit)
    ∧ (checkNest s.cur (.mxacc mxHead nest2) nest2 = .ok () ∧ ∃ t, iteration s.cur (.mxacc mxHead nest2) nest2 0 0 100 = .ok t)
    ∧ (checkDrain s.cur drain = .ok () ∧ bankClass (bankFmt s.cur 0x40000) = .elem (.num fmt32) 32
        ∧ bankPoisoned s.cur 0x80000 (drainScaleBytes drain) = false
        ∧ checkGranules u s.cur.id s.cur.id (engineCode s.cur.id 8) (.waiting false) 0x80000 (drainScaleBytes drain) = .ok u)
    ∧ (ready s (.mxldw mxHead {}) none ∧ ready s (.mxacc mxHead nest2) none ∧ ready s (.mxdrain mxHead drain) none
        ∧ ready s (.mxzero mxHead 0x7F) none ∧ ready s (.mxsave mxHead { tile := 2, h := 3 }) (some c)
        ∧ ready s (.mxrest mxHead { tile := 2, h := 3 }) (some c) ∧ ready s (.mxstamp mxHead {}) none)
    ∧ ((recAmask s.cur.record).getLsbD 2 = true ∧ ∀ perm, perm = permW ∨ perm = permRd → checkPage c 0 106560 perm = .ok 0x20000) := by
  have r : ∀ (s : State) i use, (s.mgmt.powered && decide (mxTarget s.cur (headOf i) ≤ s.cycle)
      && (!isStrict s.cur || decide (mxTarget s.cur (headOf i) = s.cycle)) && decide ((headOf i).q.toNat < recNctr s.cur.record)
      && (s.cur.q[(headOf i).q.toFin].boundBy).isNone && (emptyOperand s s.cur i (headOf i)).isNone && mxClear s.cur i s.cycle
      && orderFree s.cur (headOf i).q (touches s.cur (.matrix i (matrixCap s i use) s.cycle 0 false))) = true →
      mxUses s.cur i = .ok (none, use) → matrixReady s i none use := by
    intro s i use h e
    simp only [Bool.and_eq_true, Bool.or_eq_true, Bool.not_eq_true', decide_eq_true_eq, Option.isNone_iff_eq_none] at h
    obtain ⟨⟨⟨⟨⟨⟨⟨h1, h2⟩, h3⟩, h4⟩, h5⟩, h6⟩, h7⟩, h8⟩ := h
    exact ⟨h1, h2, fun hs => by simpa [hs] using h3, h4, h5, h6, h7, e, h8⟩
  refine ⟨⟨r _ _ _ ?_, r _ _ _ ?_, ?_, ?_⟩, ⟨ok_of ?_, ok_of ?_, ?_, ?_⟩, ?_, ?_, ⟨ok_of ?_, ok_some ?_⟩, ⟨ok_of ?_, ?_, ?_, ok_of ?_⟩,
    ⟨r _ _ _ ?_, r _ _ _ ?_, r _ _ _ ?_, r _ _ _ ?_, r _ _ _ ?_, r _ _ _ ?_, r _ _ _ ?_⟩, ?_, ?pages⟩
  case pages => rintro perm (rfl | rfl) <;> exact ok_of (by decide +kernel)
  all_goals decide +kernel

/-- The slot in cc 100 with one operation of the array on its way, and its positions; position 3 of f2 has an illegal byte. -/
def unitSlot (w : Work) : Slot :=
  let t := (mxState 100 false).cur
  { t with ops := [{ id := 7, q := some 8, work := w }]
           fifos := t.fifos.set 2 { filled := 4, consumed := 2, issuedC := 2
                                    held := [positionTrits, { positionTrits with num := 3, bytes := [(300, 242), (301, 243)] }] } }

/-- The integer that a finite number is, when its exponent is 0. -/
def imageOfNum (v : NumVal) : Int := match v with | .fin neg m _ => if neg then -(m : Int) else m | _ => 0

/-- A number that is finite has its parts. -/
theorem fin_of {v : NumVal} (h : (match v with | .fin .. => true | _ => false) = true) :
    ∃ neg m e, imageOfNum v = (if neg then -(m : Int) else m) ∧ v = .fin neg m e := by
  cases v with
  | fin neg m e => exact ⟨neg, m, e, rfl, rfl⟩
  | _ => cases h

/-- For MatrixUnits: two rows of small integers for an array whose buffer is not transposed. -/
theorem witness_rows_of_products :
    let s : State := { st0 with cur := unitSlot .none }
    (heldPosition s.cur 0 (nestPos nest2 0 0) = some position8 ∧ activation position8.fmt = some (.int true 8, 8)
        ∧ (bufferOf s.cur nest2.wbuf).transposed = false)
    ∧ (∃ u, iteration s.cur (.mxacc mxHead nest2) nest2 0 0 100 = .ok u)
    ∧ ∀ j ≤ nest2.rows.toNat, ∃ image : Nat → Int, ∀ k, k < 320 → ∃ neg m e, image k = (if neg then -(m : Int) else m) ∧
        activationOf (.int true 8) (elemOf 8 (leNat (sgetRange 0 position8.bytes (640 * j) (rowBytesOf 8))) k) = .fin neg m e := by
  refine ⟨by decide +kernel, ok_some (by decide +kernel), fun j hj => ⟨fun k => imageOfNum (activationOf (.int true 8)
    (elemOf 8 (leNat (sgetRange 0 position8.bytes (640 * j) (rowBytesOf 8))) k)), fun k hk => fin_of ?_⟩⟩
  have h : (List.range 2).all (fun j => (List.range 320).all (fun k =>
      match activationOf (.int true 8) (elemOf 8 (leNat (sgetRange 0 position8.bytes (640 * j) (rowBytesOf 8))) k) with
      | .fin .. => true | _ => false)) = true := by decide +kernel
  exact List.all_eq_true.mp (List.all_eq_true.mp h j (List.mem_range.mpr (Nat.lt_succ_of_le hj))) k (List.mem_range.mpr hk)

def unitCap : RecCapture := { cs := 2, fmts := [0x1000000], handles := [capture { page3 with size := 1 }], out := bytesOf 64 5 }
def unitDrain : MxDrainBody := { tile := 2, cols := 1, dst := 0x40000, rstride := 16, scl := 0x80000, sa := 0x3F800000 }
def unitSave : MxSaveBody := { tile := 2, h := 3 }

/-- For MatrixUnits: the second row of a product, the last chunk of a weight position and one with an illegal byte, and the
last block of a drain, each in its cc. -/
theorem witness_matrix_units :
    let s : State := { st0 with cur := unitSlot .none }
    (s.cur.time.stoppedAt = none ∧ s.cur.answer = none ∧ (slotOf s s.cur.id).isSome = true)
    ∧ (nestOf (.mxacc mxHead nest2) = some nest2 ∧ 1 < productRows (.mxacc mxHead nest2) nest2
        ∧ 101 - nestSpan (.mxacc mxHead nest2) nest2 + 1 ≤ s.cycle)
    ∧ (heldPosition s.cur 2 (unitCap.cs + 0) = some positionTrits ∧ 36 + 63 + 1 ≤ s.cycle
        ∧ (List.range 256).all (fun n => (sget 0 positionTrits.bytes (256 * 63 + n)).toNat < 243) = true
        ∧ heldPosition s.cur 2 (unitCap.cs + 1) = some { positionTrits with num := 3, bytes := [(300, 242), (301, 243)] })
    ∧ ((matrixBlocks (.mxdrain mxHead unitDrain) 0x1000000).drop 0 = [(0, 8)] ∧ blockDue (.mxdrain mxHead unitDrain) 84 0 ≤ s.cycle
        ∧ checkGranules s s.cur.id s.cur.id (engineCode s.cur.id 8) (.write s.cur.det.rc) 0x40000 8 = .ok s
        ∧ (unitCap.out.take 8).length = 8) := by
  refine ⟨by decide +kernel, by decide +kernel, by decide +kernel, by decide +kernel, by decide +kernel, ok_of (by decide +kernel),
    by decide +kernel⟩

/-- Bytes of zero are the number 0. -/
theorem leNat_zeros (n : Nat) : leNat (List.replicate n 0#8) = 0 := by
  induction n with
  | zero => rfl
  | succ n ih => simp [List.replicate_succ, leNat, ih]

/-- Six bytes of zero each are elements of 0. -/
theorem sixes_zeros (n m : Nat) : sixes n (List.replicate m 0#8) = List.replicate n 0#48 := by
  induction n generalizing m with
  | zero => rfl
  | succ n ih => simp [sixes, List.replicate_succ, List.take_replicate, List.drop_replicate, leNat_zeros, ih]

/-- A tile of zeros can be restored. -/
theorem zeros_restore (t : Slot) (tile : BitVec 3) (n : Nat) : ∃ x, restoreTile t tile (List.replicate n 0#8) = .ok x := by
  have h : (leNat ((List.replicate n 0#8).take 64)) = 0 := by simp [List.take_replicate, leNat_zeros]
  unfold restoreTile
  rw [h, if_neg]
  · exact ⟨_, rfl⟩
  · rw [List.drop_replicate, List.drop_replicate, sixes_zeros, List.flatMap_replicate]
    simp [-List.reduceReplicate]
/-- For MatrixUnits: the first and the last block of a save and of a restore, and a restored tile of zeros. -/
theorem witness_tile_blocks :
    let s : State := { st0 with cur := unitSlot .none }
    ([0, 1664].all (fun k => decide (((matrixBlocks (.mxsave mxHead unitSave) 0).drop k).head? = some (64 * k, 64))
          && decide (((matrixBlocks (.mxrest mxHead unitSave) 0).drop k).head? = some (64 * k, 64))
          && (linesOf (0x20000 + 64 * k) 64).all (fun l => canSend s 0 l)
          && (refusedByte s s.cur (0x20000 + 64 * k) (linesOf (0x20000 + 64 * k) 64) rightWrite false).isNone
          && (refusedByte s s.cur (0x20000 + 64 * k) (linesOf (0x20000 + 64 * k) 64) rightRead false).isNone
          && !poisoned s (0x20000 + 64 * k) 64) = true)
    ∧ (∀ k, k = 0 ∨ k = 1664 → ∀ x : Access, x = .write ∨ x = .read → checkLines s s.cur x (0x20000 + 64 * k) 64 = .ok s)
    ∧ ∃ x, restoreTile s.cur 2 (List.replicate 106560 0#8) = .ok x := by
  refine ⟨by decide +kernel, ?_, zeros_restore _ _ _⟩
  rintro _ (rfl | rfl) _ (rfl | rfl) <;> exact ok_of (by decide +kernel)

def accsOf (t : State) : List Int := [32768, 32769, 33024].map (fun k => (sget 0 t.cur.acc k).toInt)

/-- MXPERM (R358) with k0 = 0 and ks = 1 adds element k of a row to column k: (0, 0) goes from 10 to 11, (0, 1) takes 2, and a cc
later (1, 0) takes −1 (R348); one term more is counted, and Cs advances by 1. A record 5 cc late moves SB and counts a slip (R351). -/
theorem test_mxperm :
    let r := after (.mxperm mxHead { nest2 with ks := 1 }) (mxState 95 false)
    r.map (fun t => (accsOf t, accsOf (moveBlocks { t with cycle := 101 }))) = some ([11, 2, 0], [11, 2, -1])
    ∧ r.map (fun t => ((t.cur.tiles[2]).count, (t.cur.fifos[0]).issuedC, t.cur.time.sb, t.cur.slips, t.cur.q[8].issued))
        = some (6, 1, 100, 1, 1) := by decide +kernel

/-- MXDRAIN (R359, R101) of the elements 10 and 0 with scales 1.0 takes 10.0 and 0.0 in binary32 at issue, and its one block
stands in its bank 16 cc later (R348). -/
theorem test_mxdrain :
    ((after (.mxdrain mxHead { tile := 2, cols := 1, dst := 0x40000, rstride := 16, scl := 0x80000, sa := 0x3F800000 })
      (mxState 100 true)).map (fun t => ((moveBlocks { t with cycle := 115 }).cur, (moveBlocks { t with cycle := 116 }).cur))).map
      (fun p => (leNat (bankRead p.1 0x40000 8), leNat (bankRead p.2 0x40000 8))) = some (0, 0x41200000) := by decide +kernel

/-- A copy slot in cc 100 with a record at 0x4_0010 of bank 1 and at 0x2_0000 of memory. -/
def copyState (cached : List CachedRecord) : State :=
  let v := ((encodeRecord (.cpy {} { n1 := 15, dkind := 1, skind := 1, doff := 0x40200, soff := 0x80000 })).getD 0).toNat
  { with0 (fun t =>
      { t with records := cached, cp := { running := true, pc := 0x10800 }, stampb := 60, h := t.h.set 3 page3
               banks := ssetRange 0 [] 0x40010 (bytesOf 64 v) }) with mem := ssetRange 0 [] 0x20000 (bytesOf 64 v) }

def copyBody : CpyBody := { n1 := 15, dkind := 1, skind := 1, doff := 0x40200, soff := 0x80000 }

/-- A CPYIND with cor on q0 that fetched the record at 0x4_0010 and is not complete. -/
def fetchedOp : Op := { id := 7, q := some 0, num := 1, source := 2, work := .copy false copyBody {} true 0 (granulesOf 0x40010 64) [] }

/-- For CopyRecordsIssue: a stamp that has come and one that has not; captures of a copy; the record of CPYIND in the cache, in
memory and in a bank without poison, with an earlier fetch of it and without; eight entries of the cache. -/
theorem witness_copies :
    let s := copyState []
    let e (k : Nat) : CachedRecord := { loc := true, key := 0x40010 + 64 * k, body := copyBody }
    (copyReady s { q := 15, stv := true, stamp := 40 } none ∧ s.cycle < (s.cur.stampb + (41#24).setWidth 64).toNat)
    ∧ ((∃ cap, cpyCapture s {} copyBody false = .ok cap) ∧ ∃ cap, cpyCapture s {} copyBody true = .ok cap)
    ∧ useHandle s.cur 3 false 0 = .ok (capture page3)
    ∧ (checkPage (capture page3) 0 64 permRd = .ok 0x20000 ∧ admitMem s s.cur 0x20000 rightRead false = true
        ∧ poisoned s 0x20000 64 = false)
    ∧ (fetchedBody s.cur (BitVec.ofNat 512 (memNat s 0x20000 64)) = .ok copyBody
        ∧ fetchedBody s.cur (BitVec.ofNat 512 (leNat (bankRead s.cur 0x40010 64))) = .ok copyBody
        ∧ fetchedBody s.cur 0 = .error 1)
    ∧ (ownsRange s.cur 0x40010 64 = true ∧ bankPoisoned s.cur 0x40010 64 = false ∧ checkGranules s s.cur.id s.cur.id (engineCode s.cur.id 0) (.waiting false) 0x40010 64 = .ok s)
    ∧ ((copyState [e 1, e 0]).cur.records.find? (fun r => r.loc = true && r.key = 0x40010) = some (e 0)
        ∧ (copyState ((List.range 8).map (fun k => e (k + 1)))).cur.records.find? (fun r => r.loc = true && r.key = 0x40010) = none
        ∧ earlierOn s.cur 0 true 0x40010 64 true = [] ∧ earlierOn { s.cur with ops := [fetchedOp] } 0 true 0x40010 64 false = [7]
        ∧ earlierOn { s.cur with ops := [fetchedOp] } 1 true 0x40010 64 false = []) := by
  refine ⟨⟨⟨rfl, fun _ => ?_, ?_, rfl, rfl⟩, ?_⟩, ⟨ok_some ?_, ok_some ?_⟩, rfl, ⟨ok_of ?_, ?_, rfl⟩, ?g, ⟨?_, ?_, ok_of ?_⟩, ?_⟩
  case g =>
   have e : ∀ {x : Except Nat CpyBody} {v}, (match x with | .ok y => decide (y = v) | .error _ => false) = true → x = .ok v := by
     intro x v h; cases x with
     | error => simp at h
     | ok y => simp at h; rw [h]
   have f : ∀ {x : Except Nat CpyBody} {n}, (match x with | .ok _ => false | .error m => decide (m = n)) = true → x = .error n := by
     intro x n h; cases x with
     | error => simp at h; rw [h]
     | ok => simp at h
   exact ⟨e (by decide +kernel), e (by decide +kernel), f (by decide +kernel)⟩
  all_goals decide +kernel

/-- A CPYIND waits for an earlier one of its counter that fetched the same granules under cor (R184, R391). -/
theorem test_cpyind_waits :
    (after (.cpyind {} { rkind := true, roff := 0x40010 }) { copyState [] with cur := { (copyState []).cur with ops := [fetchedOp] } }).map
      (fun t => (t.cur.cp.blocked, t.cur.ops.length)) = some (some (.ops [7]), 1) := by decide +kernel
/-! ## Events of streams and operations -/

/-- The slot with an engine operation, numbered 1 on q3. -/
def withWork (w : Work) (f : Slot → Slot) : State :=
  with0 (fun t => f { t with
    q := t.q.set 3 { t.q[3] with issued := 1 }, ops := [{ id := 7, q := some 3, num := 1, source := 3, work := w }], nextOp := 8 })

/-- The report of a fault with a code and an operand. -/
def someReport : BitVec 512 := BitVec.ofNat 512 (0x10 + 0x44 * 2 ^ 161 + 0x55 * 2 ^ 320)

/-- A WAIT on q2 ≥ 7 with a timeout of 3 rt since tick 2, which has come in cc 100, with q2 at a value. -/
def waitingState (v : Word) (det : Bool) : State :=
  with0 (fun t =>
    { t with q := t.q.set 2 { t.q[2] with value := v, issued := v }
             wait := some { conds := [0x0800000000000007], any := false, acq := 0, scope := 0, t0 := 2, timeout := 3, dest := 9 }
             record := if det then detRecord else t.record
             ctl := { t.ctl with blocked := some .waiting } })

/-- For StreamEvents: a producer of g0, g5 and v3 that can write in cc 100; blocked streams whose objects have come; a WAIT that is
met, and one whose timeout has come, in deterministic mode as well; an event held at a boundary with nothing to drain and one after END; a
binding with a value to forward. -/
theorem witness_stream_events :
    let d : Deferred := { gs := [(0, 1), (5, 6)], vs := [(3, 7)], flags := 2, due := 100 }
    let s := with0 (fun t => { t with deferred := [d], gEmpty := 1#64 <<< 5, vEmpty := 8, ctl := { t.ctl with blocked := some (.gReg 6) } })
    let e : Event := { report := someReport, disp := 2, rank := 3, op := none, stream := some .copy }
    let h (ended : Bool) := with0 (fun t => { t with events := [e], trapv := 0x10100, item := some { item0 with ended } })
    let b : Binding := ⟨⟨1, false⟩, 0, 1, 1, 4, 1, 0⟩
    let u : Slot := { slot0 with id := ⟨1, false⟩, item := some { item0 with index := 1 } }
    let f : State := { with0 (fun t => { t with q := t.q.set 3 { t.q[3] with value := 5, bindings := [b] } }) with rest := [u] }
    let w (v : Word) := (waitingState v false).cur.wait
    (s.mgmt.powered = true ∧ slotOf s ⟨0, false⟩ = some s.cur)
    ∧ (s.cur.deferred[0]? = some d ∧ d.due ≤ s.cycle ∧ (d.gs.map (fun p => p.1)).Nodup ∧ (d.vs.map (fun p => p.1)).Nodup)
    ∧ ((streamOf s.cur .control).blocked = some (.gReg 6) ∧ gIsEmpty s.cur 6 = false)
    ∧ ((w 7).any (fun x => waitMet (waitingState 7 false).cur x) = true ∧ (w 6).any (fun x => waitMet (waitingState 6 false).cur x) = false
        ∧ ctlAwake s s.cur = true ∧ 2 + 3 + 1 ≤ s.cycle / 16 ∧ isDet (waitingState 6 true).cur = true)
    ∧ ((h true).cur.item.any (fun i => i.ended) = true ∧ armed (h false).cur = true ∧ atBoundary (h false) (h false).cur = true
        ∧ ctlDrained (h false) (h false).cur = true ∧ (h false).cur.ending = [] ∧ (h true).cur.ending = [])
    ∧ (f.cur.q[3].bindings.filter (fun b => forwardDue f f.cur f.cur.q[3] b) = [b] ∧ bindingSlot f b = some u ∧ releaseCount f.cur = .ok f.cur) := by
  refine ⟨⟨rfl, rfl⟩, ?_, ?_, ?_, ?_, ?_, ?_, ok_of ?_⟩ <;> decide +kernel

/-- What those events leave: registers 5 and 3 full with their values, flags raised; bit 0 of a WAIT that holds, bit 4 of one that
times out; the handler's registers, its address and 8 cc; the value in the counter of the other item. -/
theorem test_stream_events :
    let d : Deferred := { gs := [(0, 1), (5, 6)], vs := [(3, 7)], flags := 2, due := 100 }
    let s := with0 (fun t => { t with deferred := [d], gEmpty := 1#64 <<< 5, vEmpty := 8 })
    let e : Event := { report := someReport, disp := 2, rank := 3, op := none, stream := some .copy }
    let h := with0 (fun t => { t with events := [e], trapv := 0x10100, cp := { running := true } })
    let b : Binding := ⟨⟨1, false⟩, 0, 1, 1, 4, 1, 0⟩
    let f : State := { with0 (fun t => { t with q := t.q.set 3 { t.q[3] with value := 5, bindings := [b] } }) with
      rest := [{ slot0 with id := ⟨1, false⟩, item := some { item0 with index := 1 } }] }
    (after (.deferredWrite ⟨0, false⟩ 0) s).map (fun t => (gval t.cur 0, gval t.cur 5, gIsEmpty t.cur 5, vval t.cur 3, t.cur.flags))
        = some (0, 6, false, 7, 2)
    ∧ (after (.waitReturn ⟨0, false⟩) (waitingState 7 false)).map (fun t => (gval t.cur 9, t.cur.ctl.pc)) = some (1, 0x10008)
    ∧ (after (.waitTimeout ⟨0, false⟩) (waitingState 6 false)).map (fun t => (gval t.cur 9, t.cur.wait.isSome)) = some (16, false)
    ∧ (after (.asyncEventTake ⟨0, false⟩) h).map (fun t => ([60, 61, 62, 63].map (gval t.cur), t.cur.ctl.pc, t.cur.ctl.hold, t.cur.cp.running))
        = some ([0x10, 0x44, 0x55, 0], 0x10100, 8, false)
    ∧ (after (.qpubForward ⟨0, false⟩ 3) f).map (fun t => (t.rest.map (fun u => u.q[4].value), t.cur.q[3].bindings.map (fun b => b.sent)))
        = some ([5], [5]) := by decide +kernel

/-- A gather of two words through handle 3 to bank 6, whose granule is empty, by the indices 3 and 0 at 0x4_0000, as far as it
has come. -/
def gatherRunning (index written : List Nat) (lines : List (Nat × List Byte)) : State :=
  { withWork (.gather 0x180000 0x40000 (capture page3) 4 2 index written lines)
      (fun t => { t with banks := ssetRange 0 [] 0x40000 [3], empty := [(0x18000, false)] }) with
    mem := ssetRange 0 [] 0x20000 (bytesOf 16 0x44444444333333332222222211111111) }

/-- The line that it reads. -/
def gatherLine : Nat × List Byte := (0x400, bytesOf 128 0x44444444333333332222222211111111)

/-- For OperationEvents: an operation with nothing left, with a completion barrier and without; a gather that has to read its
indices, to fetch a line, to write a granule, and that is over. -/
theorem witness_operation_events :
    let s := withWork .none id
    let b : State := { s with cur := { s.cur with ops := s.cur.ops.map (fun o => { o with barrier := some 0x20020 }) } }
    let g0 := gatherRunning [] [] []
    let g1 := gatherRunning [3, 0] [] []
    let g2 := gatherRunning [3, 0] [] [gatherLine]
    (s.mgmt.powered = true ∧ (opNumbered s.cur 3 1).isSome = true
        ∧ (opOf s.cur 7).any (fun o => o.work = .none && o.barrier = none && !o.stopped && o.dead = []) = true
        ∧ (opOf b.cur 7).any (fun o => o.work = .none && o.barrier = some 0x20020) = true
        ∧ (opNumbered s.cur 3 1).any (fun o => completeReady s s.cur o) = true)
    ∧ (enginesRun g0 g0.cur = true ∧ g0.cur.ops.all (fun o => inOrder g0.cur o && !o.stopped) = true ∧ isDet g0.cur = false)
    ∧ (gatherMissing g0 (capture page3) 4 2 [] [] [] = none ∧ granuleFull g0.cur 0x4000 = true ∧ bankPoisoned g0.cur 0x40000 8 = false)
    ∧ (gatherGranules g1 (capture page3) 4 2 [3, 0] [] [] = [] ∧ gatherMissing g1 (capture page3) 4 2 [3, 0] [] [] = some 0
        ∧ checkPage (capture page3) (3 * 4) 4 permRd = .ok 0x2000C ∧ poisoned g1 0x2000C 4 = false
        ∧ canSend g1 0 0x400 = true ∧ admitMem g1 g1.cur 0x2000C rightRead false = true)
    ∧ gatherGranules g2 (capture page3) 4 2 [3, 0] [] [gatherLine] = [0] := by
  refine ⟨?_, ?_, ?_, ⟨?_, ?_, ok_of ?_, ?_, ?_, ?_⟩, ?_⟩ <;> decide +kernel

/-- For OperationEvents: a product's second iteration; a write that lands; a signalled WAIT; an update that reaches its object, and
one behind an earlier one of its source on the line that the reorder buffer takes, holds, or refuses. -/
theorem witness_array_and_barriers :
    let n : MxNest := { tile := 2, trip := 1 }
    let m : State := { mxState 90 false with cur := { (mxState 90 false).cur with
      ops := [{ id := 7, q := some 3, num := 1, source := 1, work := .matrix (.mxperm {} n) {} 100 1 false }] } }
    let l := with0 (fun t => { t with time := { t.time with lands := [⟨2, 100, true⟩, ⟨3, 101, true⟩] }, tiles := t.tiles.set 2 { full := false } })
    let w : WaitState := { conds := [0x0800000000000007], any := false, acq := 0, scope := 0, t0 := 2, timeout := 3, dest := 9, signalled := true }
    let z := with0 (fun t => { t with wait := some w })
    let u : BarrierUpdate := { issuer := refOf slot0 7, addr := 0x20020, delta := -1, tenant := 0, context := 0, completes := true }
    let o : State := { objectState (object 5 3 0 1 4) with barriers := [u] }
    let o2 : State := { o with barriers := [u, u] }
    let held : BarrierUpdate := { u with order := { held := true } }
    let full : State := { o with barriers := [u, u] ++ List.replicate 32 { held with issuer := refOf slot0 9 } }
    ((iterationDue m m.cur).map (fun x => (x.2.1, x.2.2.2.2.1, x.2.2.2.2.2.1)) = some (.mxperm {} n, 100, 1)
        ∧ nestPos n 0 1 = 0 ∧ positionReady m m.cur.fifos[0] 0 = true ∧ ∃ t, iteration m.cur (.mxperm {} n) n 0 1 100 = .ok t)
    ∧ (l.cur.time.stoppedAt = none ∧ (l.cur.tiles[2]).opened = false)
    ∧ (z.cur.wait = some w ∧ w.signalled = true)
    ∧ (o.barriers[0]? = some u ∧ canArrive o 0 (0x20020 / 128) u.sent = true ∧ u.order.resendAt = none
        ∧ admits o (homeTarget o 0x20020) 0 0 rightAtomic = true ∧ memNat o 0x20020 16 = 5 * 2 ^ 96 + 3 * 2 ^ 80 + 2 ^ 32 + 4 * 2 ^ 4)
    ∧ (sameSource u u.issuer u.source u.q = true ∧ reorderRoom o2 u.addr = true ∧ reorderRoom full u.addr = false) := by
  refine ⟨⟨?_, ?_, ?_, ok_some ?_⟩, ?_, ?_, ?_, ?_⟩ <;> decide +kernel

/-- What those events leave: the counter at 1; the indices, then the line, then both words of the granule, full; tile 2
full and tile 3 still to land; phase 6 with three arrivals to come (R221). -/
theorem test_operation_events :
    let works (s : State) : Option (List Work) := (after (.gatherLineReply ⟨0, false⟩ 3 1) s).map (fun t => t.cur.ops.map (fun o => o.work))
    let work (index : List Nat) (lines : List (Nat × List Byte)) : Work :=
      .gather 0x180000 0x40000 (capture page3) 4 2 index [] lines
    let l := with0 (fun t => { t with time := { t.time with lands := [⟨2, 100, true⟩, ⟨3, 101, true⟩] }, tiles := t.tiles.set 2 { full := false } })
    let u : BarrierUpdate := { issuer := refOf slot0 7, addr := 0x20020, delta := -1, tenant := 0, context := 0, completes := true }
    (after (.recordComplete ⟨0, false⟩ 3 1) (withWork .none id)).map (fun t => (t.cur.q[3].value, t.cur.ops)) = some (1, [])
    ∧ works (gatherRunning [] [] []) = some [work [3, 0] []] ∧ works (gatherRunning [3, 0] [] []) = some [work [3, 0] [gatherLine]]
    ∧ (after (.gatherLineReply ⟨0, false⟩ 3 1) (gatherRunning [3, 0] [] [gatherLine])).map (fun t =>
        (leNat (bankRead t.cur 0x180000 8), granuleFull t.cur 0x18000)) = some (0x1111111144444444, true)
    ∧ (after (.tileRowLand ⟨0, false⟩) l).map (fun t => ((t.cur.tiles[2]).full, t.cur.time.lands.map (fun x => x.at_))) = some (true, [100, 101])
    ∧ (after (.barrierHomeUpdate 0) { objectState (object 5 3 0 1 4) with barriers := [u] }).map (fun t => (memNat t 0x20020 16, t.barriers))
        = some (6 * 2 ^ 96 + 3 * 2 ^ 80 + 3 * 2 ^ 64 + 4 * 2 ^ 4, []) := by decide +kernel
/-! ## What the copy engine moves -/

/-- A slot with an operation of the copy engine numbered 1 on q3, in cc 100: block 6 of die 2 holds a token of 32 bytes, the index
granule 0x4_0100 its locator, 0x4_0000 and 0x8_0000 and the page of handle 3 some bytes. -/
def moveState (w : Work) (st : Option Staged) (f : Fifo) : State :=
  let s := withWork w (fun t =>
    { t with h := t.h.set 3 page3, ops := t.ops.map (fun o => { o with staged := st }), fifos := t.fifos.set 0 f
             banks := ssetRange 0 (ssetRange 0 (ssetRange 0 [] 0x40000 (bytesOf 8 0x0807060504030201)) 0x40100
               (bytesOf 8 0x8000000000000006)) 0x80000 (bytesOf 8 0x1112131415161718) })
  let k : KvDie := { blocks := [(6, { refs := 1, stride := 1, data := ssetRange 0 [] 0 (bytesOf 4 0xA3A2A1A0) })] }
  { s with mem := ssetRange 0 [] 0x20000 (bytesOf 8 0x2827262524232221), kv := s.kv.set 0 k }

def fillBody : CpyBody := { dkind := 1, doff := 0x40009, sstr2 := 0x44332211, sstr3 := 0x88776655, n1 := 3 }
def loadBody : CpyBody := { dkind := 1, skind := 0, sh := 3, doff := 0x40204, n1 := 3 }
def bankBody : CpyBody := { dkind := 1, skind := 1, doff := 0x40204, soff := 0x80000, n1 := 3 }
def indexBody : CpyBody := { bankBody with ind := 1, ixa := 0x40100 }
def tokenBody : CpyBody := { dkind := 1, skind := 3, ind := 1, doff := 0x40204, ixa := 0x40100, n1 := 3 }
def moveCap : RecCapture := { handles := [noCapture, capture page3] }
def moveWork (fill : Bool) (b : CpyBody) : Work := .copy fill b moveCap false 0 [] []
def bankStaged : Staged := { values := [0x18, 0x17, 0x16, 0x15], flags := 0 }
def tokenStaged : Staged := { ix := some 0x8000000000000006, values := [0, 0, 0, 0], flags := 0 }

/-- No byte of a machine without launches is one of a spill area, when its slot's record pins no window. -/
theorem no_spill {s : State} (hq : s.queues = []) (hp : pinBase s.cur (recDwin s.cur.record) = none) (a : Nat) : ¬ spillByte s a := by
  rintro (⟨l, hl, _⟩ | ⟨line, _, hw, _⟩)
  · simp [detLaunches, hq] at hl
  · simp [inWindow, hp] at hw

/-- Four cases. -/
theorem below4 {P : Nat → Prop} (h0 : P 0) (h1 : P 1) (h2 : P 2) (h3 : P 3) : ∀ j < 4, P j := fun j h =>
  match j, h with
  | 0, _ => h0
  | 1, _ => h1
  | 2, _ => h2
  | 3, _ => h3

/-- The general premises of CopyEngineMoves. -/
def engineFree (s : State) : Bool :=
  s.mgmt.powered && (slotOf s ⟨0, false⟩).isSome && s.cur.ops.length = 1 && slotRunning s.cur && isActive s ⟨0, false⟩ && !isDet s.cur
    && (opNumbered s.cur 3 1).any (fun o => !o.stopped && inOrder s.cur o && decide (o.wrote = false)) && decide (s.cur.copied < 512)

/-- For CopyEngineMoves: a CPYFILL, a CPY from memory, one from a bank without an index and with one, a copy of a located token, and
what the last two have staged: where each transfer of four bytes goes and what it needs. -/
theorem witness_moves :
    let s := moveState (moveWork false bankBody) (some bankStaged) {}
    let z := moveState (moveWork false tokenBody) (some tokenStaged) {}
    ([moveState (moveWork true fillBody) none {}, moveState (moveWork false loadBody) none {}, moveState (moveWork false bankBody) none {},
        moveState (moveWork false indexBody) none {}, moveState (moveWork false tokenBody) none {}, s, z].all engineFree = true)
    ∧ ([fillBody, loadBody, bankBody, tokenBody].all (fun b => decide (transferLen b 8 0 (if b.ind = 0 then none else some 6) = 4)
        && decide (0 < cpyTotal b)) = true)
    ∧ (copyPlace s s.cur 1 noCapture (cpyDst fillBody 8 0 none) 4 permW = .ok (.bank ⟨0, false⟩ 0x40009 0x40009)
        ∧ copyPlace s s.cur 1 noCapture (cpyDst bankBody 8 0 none) 4 permW = .ok (.bank ⟨0, false⟩ 0x40204 0x40204)
        ∧ copyPlace z z.cur 1 noCapture (cpyDst tokenBody 8 0 tokenStaged.ix) 4 permW = .ok (.bank ⟨0, false⟩ 0x40204 0x40204))
    ∧ (∀ j < 4, copyPlace s s.cur 0 (capture page3) (cpySrc loadBody 8 j none) 1 permRd = .ok (.mem (0x20000 + j) (word j)))
    ∧ (∀ j < 4, copyPlace s s.cur 1 noCapture (cpySrc bankBody 8 j none) 1 permRd = .ok (.bank ⟨0, false⟩ (0x80000 + j) (word (0x80000 + j))))
    ∧ (∀ j < 4, engineReads s s.cur (.mem (0x20000 + j) (word j)) 1 false)
    ∧ (∀ j < 4, engineReads s s.cur (.bank ⟨0, false⟩ (0x80000 + j) (word (0x80000 + j))) 1 false)
    ∧ (copyReads true fillBody = false ∧ copyReads false loadBody = false ∧ copyReads false bankBody = true ∧ copyToBanks bankBody = true)
    ∧ ([4, 8].all (fun n => ownsRange s.cur 0x40100 n && (firstEmpty s.cur 0x40100 n).isNone && !bankPoisoned s.cur 0x40100 n) = true
        ∧ leNat (bankRead s.cur 0x40100 8) = 0x8000000000000006 ∧ ixOf s.cur indexBody 0 = 6)
    ∧ (∀ j < 4, locatedBlock z z.cur 0x8000000000000006 (0 + (cpyIndex tokenBody j).1) (4 - (cpyIndex tokenBody j).1) = .ok 0)
    ∧ (unreachable z z.cur 0x8000000000000006 = false
        ∧ ∃ bs, locatedBytes z z.cur 0x8000000000000006 0 0 4 = .ok bs) := by
  refine ⟨by decide +kernel, by decide +kernel, ⟨ok_of (by decide +kernel), ok_of (by decide +kernel), ok_of (by decide +kernel)⟩,
    ?loads, ?banks, ?mems, ?reads, by decide +kernel, by decide +kernel, ?locates, by decide +kernel, ok_some (by decide +kernel)⟩
  case loads => exact below4 (ok_of (by decide +kernel)) (ok_of (by decide +kernel)) (ok_of (by decide +kernel)) (ok_of (by decide +kernel))
  case banks => exact below4 (ok_of (by decide +kernel)) (ok_of (by decide +kernel)) (ok_of (by decide +kernel)) (ok_of (by decide +kernel))
  case locates => exact below4 (ok_of (by decide +kernel)) (ok_of (by decide +kernel)) (ok_of (by decide +kernel)) (ok_of (by decide +kernel))
  case mems =>
    refine below4 ?_ ?_ ?_ ?_ <;>
      exact ⟨ok_of (by decide +kernel), by decide +kernel, by decide +kernel, fun i _ => no_spill rfl (by decide +kernel) _⟩
  case reads => refine below4 ?_ ?_ ?_ ?_ <;> exact ⟨_, rfl, by decide +kernel, by decide +kernel⟩

def rowsBody : CpyFifoBody := { src := 0x40000, rows := 1, rstride := 0x140, fifo := 0 }
def trits : CpyFifoBody := { src := 0x40000, fifo := 2 }
def fifoWork (b : CpyFifoBody) (fmt : BitVec 32) : Work := .fifo b { fmts := [fmt] } false 0

/-- For CopyEngineMoves: a position of two rows of int8, and one of weights, each with room in its FIFO. -/
theorem witness_positions :
    let s := moveState (fifoWork rowsBody 0x4000000) none {}
    (engineFree s = true ∧ engineFree (moveState (fifoWork trits 0x8000000) none {}) = true)
    ∧ ((s.cur.fifos[0]).filled < fifoC s.cur.fifos[0] + 4 ∧ (s.cur.fifos[0]).filledAt ≠ s.cycle ∧ 0 ≤ fifoSrc rowsBody 0)
    ∧ (isWeight rowsBody = false ∧ (activation 0x4000000).isSome = true ∧ isWeight trits = true ∧ bankClass 0x8000000 = .trit)
    ∧ (fifoRows rowsBody { fmts := [0x4000000] } 0 = [(0x40000, 320), (0x40140, 320)] ∧ fifoRows trits { fmts := [0x8000000] } 0 = [(0x40000, 16384)])
    ∧ ([(0x40000, 320), (0x40140, 320), (0x40000, 16384)].all (fun r => ownsRange s.cur r.1 r.2 && (firstEmpty s.cur r.1 r.2).isNone
        && !bankPoisoned s.cur r.1 r.2) = true) := by
  refine ⟨?_, ?_, ?_, ?_, ?_⟩ <;> decide +kernel

def netBody (dev : BitVec 18) (get : Bool) : CpyNetBody :=
  { len := 9, rpa := 0x20008, dev, loff := 0x40004, lkind := 1, get }

/-- For CopyEngineMoves: ten bytes between 0x4_0004 and an address of the own package, of which a PUT first moves the eight up to the
end of a granule, and a GET ten; the same with another package, whose flow has room. -/
theorem witness_net_transfers :
    let s := moveState (.net (netBody 0 false) none false false none 0) none {}
    (engineFree s = true ∧ pathUp s 0 0 0 = true ∧ egressAdmits s s.cur = true ∧ s.port.up = true ∧ (1 : BitVec 18) ≠ s.devid)
    ∧ (netPiece (netBody 0 false) 0 = 8 ∧ netPiece (netBody 0 true) 0 = 10 ∧ 0 < netLen (netBody 0 false))
    ∧ (copyPlace s s.cur 1 noCapture 0x40004 8 permRd = .ok (.bank ⟨0, false⟩ 0x40004 0x40004)
        ∧ copyPlace s s.cur 1 noCapture 0x40004 10 permW = .ok (.bank ⟨0, false⟩ 0x40004 0x40004)
        ∧ copyPlace s s.cur 1 noCapture 0x40004 10 permRd = .ok (.bank ⟨0, false⟩ 0x40004 0x40004))
    ∧ (∀ n, n = 8 ∨ n = 10 → engineReads s s.cur (.bank ⟨0, false⟩ 0x40004 0x40004) n false)
    ∧ (remoteAdmits s s.cur 0x20008 rightRead = true ∧ remoteAdmits s s.cur 0x20011 rightRead = true ∧ remoteAdmits s s.cur 0x20008 rightWrite = true
        ∧ poisoned s 0x20008 10 = false ∧ needReleased s 0 (linesOf 0x20008 10) = .ok () ∧ ∀ a, ¬ spillByte s a)
    ∧ ([(2, (16 : BitVec 32), []), (1, 0, padFrame (placeBytes s (.bank ⟨0, false⟩ 0x40004 0x40004) 10))].all (fun x =>
        flowRoom s (netFrame s s.cur (netBody 1 true) x.1 0 x.2.1 x.2.2)) = true) := by
  refine ⟨by decide +kernel, by decide +kernel, ⟨ok_of (by decide +kernel), ok_of (by decide +kernel), ok_of (by decide +kernel)⟩, ?reads,
    ⟨by decide +kernel, by decide +kernel, by decide +kernel, by decide +kernel, ok_of (by decide +kernel), no_spill rfl (by decide +kernel)⟩,
    by decide +kernel⟩
  rintro _ (rfl | rfl) <;> exact ⟨_, rfl, by decide +kernel, by decide +kernel⟩

/-- What an event of the copy engine leaves at a place. -/
def movedTo (s : State) (a : Nat) : Option (List Byte) := (after (.copyElement ⟨0, false⟩ 3 1) s).map (fun t => bankRead t.cur a 4)

/-- The pattern of a CPYFILL by its address modulo 8 (R385), but not after 64 bytes in one cc; a CPY from memory; one between
banks in its second step (R46). -/
theorem test_moves :
    let full := moveState (moveWork true fillBody) none {}
    movedTo (moveState (moveWork true fillBody) none {}) 0x40009 = some [0x22, 0x33, 0x44, 0x55]
    ∧ movedTo { full with cur := { full.cur with copied := 512 } } 0x40009 = some [0, 0, 0, 0]
    ∧ movedTo (moveState (moveWork false loadBody) none {}) 0x40204 = some [0x21, 0x22, 0x23, 0x24]
    ∧ movedTo (moveState (moveWork false bankBody) none {}) 0x40204 = some [0, 0, 0, 0]
    ∧ movedTo (moveState (moveWork false bankBody) (some bankStaged) {}) 0x40204 = some [0x18, 0x17, 0x16, 0x15] := by decide +kernel

/-- A PUT within the package (R390), and the frame of one to another package. -/
theorem test_net_transfers :
    (after (.copyElement ⟨0, false⟩ 3 1) (moveState (.net (netBody 0 false) none false false none 0) none {})).map (fun t => memNat t 0x20008 4)
        = some 0x08070605
    ∧ (after (.copyElement ⟨0, false⟩ 3 1) (moveState (.net (netBody 1 false) none false false none 0) none {})).map (fun t =>
        t.port.tx.map (fun f => f.window.map (fun x => (x.frame.rpa, x.frame.payload.length)))) = some [[(0x20008, 16)]] := by decide +kernel
/-! ## Events of the scan unit, the pannier, carries, the KV store and queries -/

/-- State slot 5 of two channels, bound, with an operation, numbered 1 on q3, on it; 16 bytes of source at 0x4_0000. -/
def engineState (w : Work) (f : Slot → Slot) : State :=
  { withWork w (fun t => f { t with
      z := ssetRange 0 [] (32768 * 5) (bytesOf 64 (2 * 2 ^ 27)), ztag := [(5, { state := 1 })]
      banks := ssetRange 0 [] 0x40000 (bytesOf 16 0x40000000400000003F8000003F800000) }) with
    mem := ssetRange 0 [] 0x20000 [7, 8, 9] }

def foldOperator : ScanOp := { record := addOperator, mode := 0 }

/-- A packet that the hop before has sealed is sound. -/
theorem sealed_sound (p : ChainPacket) : soundPacket (sealPacket p) = true := by
  simp [soundPacket, sealPacket, headCrc, wholeCrc, chainHead]

/-- For ScanAndCarryEvents: a scan to start and one that runs, in place and from full granules, before and after its source is read;
one in an item without a troupe; a slot that is UNBOUND; pannier transfers. -/
theorem witness_engines :
    let scan (troupe started : Bool) (read : List Byte) : Work := .scan 5 0x40000 0x80000 2 2 foldOperator troupe false started read
    let s := engineState (scan false false []) id
    let r := engineState (scan false true []) id
    let d := engineState (scan false true (List.replicate 16 0)) (fun t => { t with ops := t.ops.map (fun o => { o with staged := some { values := [0] } }) })
    let n := engineState (scan false false []) (fun t => { t with ztag := [] })
    let p := engineState (.pannier true 5 (capture page3) 0x8000) id
    (s.mgmt.powered = true ∧ (scanNext s s.cur).any (fun o => o.work = scan false false []) = true
        ∧ scanCheck s.cur 5 2 2 foldOperator false = .ok () ∧ troupeSize s.cur = 0 ∧ (scanNext n n.cur).isSome = true ∧ (zTag n.cur 5).state = 0)
    ∧ ((scanRunning r r.cur).any (fun o => o.work = scan false true [] && o.staged.isNone) = true ∧ isDet r.cur = false
        ∧ scanCheck r.cur 5 2 2 foldOperator false = .ok () ∧ (firstEmpty r.cur 0x40000 16).isNone = true ∧ bankPoisoned r.cur 0x40000 16 = false
        ∧ (scanRunning d d.cur).any (fun o => o.work = scan false true (List.replicate 16 0)) = true)
    ∧ ((opNumbered p.cur 3 1).any (fun o => pannierReady p p.cur o) = true ∧ (zTag p.cur 5).state = 1 ∧ (capture page3).kdh = 0
        ∧ refusedByte p p.cur (0x20000 + 0x8000) (linesOf (0x20000 + 0x8000) 32768) rightRead false = none
        ∧ refusedByte p p.cur (0x20000 + 0x8000) (linesOf (0x20000 + 0x8000) 32768) rightWrite false = none
        ∧ needReleased p 0 (linesOf (0x20000 + 0x8000) 32768) = .ok () ∧ poisoned p (0x20000 + 0x8000) 32768 = false) := by
  refine ⟨⟨rfl, ?_, ok_of ?_, ?_, ?_, ?_⟩, ⟨?_, ?_, ok_of ?_, ?_, ?_, ?_⟩, ?_, ?_, rfl, ?_, ?_, ok_of ?_, ?_⟩ <;> decide +kernel

/-- A troupe of two whose members have started a SCAN of two positions, and read its sources or not. -/
def hubState (op : ScanOp) (taken : Bool) : State :=
  let s := engineState (.scan 5 0x40000 0x80000 2 2 op true false true []) (fun t =>
    { t with item := some { item0 with size := 2 }
             ops := t.ops.map (fun o => if taken then { o with staged := some { values := List.replicate 16 0 } } else o) })
  { s with rest := [{ s.cur with id := ⟨1, false⟩, item := some { item0 with size := 2, rank := 1, index := 1 } }] }

def treeOperator : ScanOp := { record := addOperator - 2 ^ 8, mode := 0 }

/-- For ScanAndCarryEvents: the members of a SCAN whose operator folds, and of one that the hubs combine, before and after the
sources are read. -/
theorem witness_hubs :
    let s := hubState treeOperator false
    let d := hubState treeOperator true
    let f := hubState foldOperator false
    let members (s : State) : List (Slot × Op) := (scanMembers s s.cur).getD []
    ((members s).length = 2 ∧ (members d).length = 2 ∧ (members f).length = 2 ∧ scanFault (members f) = some 0x1B
        ∧ scanFault (members s) = none ∧ scanFault (members d) = none)
    ∧ (scanMembersOk (members s) = .ok () ∧ scanMembersOk (members d) = .ok ())
    ∧ (scanTaken (members s) = false ∧ scanSources (members s) = true ∧ scanRan s (members s) = true ∧ scanTaken (members d) = true)
    ∧ (∃ s1, (members s).foldlM scanMemberRead s = .ok s1)
    ∧ ∃ x, (members d).foldl (scanMember 0 2 2 treeOperator) (.ok (d, channelsOf d.cur 5, 0)) = .ok x := by
  refine ⟨?_, ⟨ok_of ?_, ok_of ?_⟩, ?_, ok_some ?_, ok_some ?_⟩ <;> decide +kernel

def carryState : State := { engineState (.chsend 5 0x40000 3 none) id with rest := [{ slot0 with id := ⟨1, false⟩ }] }
def carry0 : Carry :=
  { srcDev := 0, source := refOf carryState.cur 7, dstDev := 0, dstCore := 1, dstSlot := false, tag := 3, tenant := 0, context := 0 }
def packet0 : ChainPacket :=
  { srcDev := 1, dstDev := 0, srcCore := 0, srcSlot := false, core := 1, slot := false, tag := 3, tenant := 0, context := 0
    seq := 1, index := 0, count := 1, data := List.replicate 512 0 }

/-- For ScanAndCarryEvents: a carry to send within the package, to a device that a port leads to, and to one that none leads to; one
to accept, and one to refuse; one to the other die that its lane port refuses. -/
theorem witness_carries :
    let cs := carryState
    let o := cs.cur.ops.headD { id := 0 }
    let down : State := { cs with chains := cs.chains.map (fun l => { l with up := false }) }
    (carrySender cs carry0 = some (cs.cur, o) ∧ zTurn cs.cur o = true ∧ (zTag cs.cur 5).state = 1 ∧ o.stopped = false
        ∧ enginesRun cs cs.cur = true ∧ chainAdmits cs (lanePorts 0 (dieOf carry0.dstCore)) 0 0 = true ∧ carry0.due ≤ cs.cycle
        ∧ pathUp cs 0 (dieOf carry0.dstCore) 0 = true
        ∧ carrySender cs { carry0 with tenant := 9, dstCore := 0x40 } = carrySender cs carry0 ∧ chainAdmits cs (lanePorts 0 (dieOf 0x40)) 9 0 = false)
    ∧ (routeLink cs 0 1 = some 0 ∧ chainAdmits cs [0] 0 0 = true ∧ chainAdmits cs [0] 9 0 = false
        ∧ sendsBefore cs.cur o 0x40000 3 = false ∧ linkRoom cs 0 (trainOf carry0 (carryBytes cs.cur 5)).length = true
        ∧ routeLink down 0 1 = none)
    ∧ ((slotOf cs ⟨1, false⟩).any (fun t => enginesRun cs t && acceptsCarry t carry0 && t.item.any (fun i => !i.retired)
          && !acceptsCarry { t with unmatched := List.replicate 4 { carry0 with dstCore := 9 } } carry0) = true
        ∧ linkRoom cs 2 1 = true)
    ∧ ({ carry0 with answer := .accepted } : Carry).answer = .accepted := by
  refine ⟨?_, ?_, ?_, rfl⟩ <;> decide +kernel

/-- For ScanAndCarryEvents: at a link that expects number 1, a packet with that number and sound, one that is damaged, one ahead and
one behind, an acknowledgement and a NAK; for this package and for another of the board, and of a package of another domain; of a
tenant that the access table does not name, with room in the replay window and without. -/
theorem witness_packets :
    let cs := carryState
    let l := cs.chains[2]
    let full : State := { cs with chains := cs.chains.map (fun l => { l with window := List.replicate 64 { packet := packet0, at_ := 0 } }) }
    ((∀ f, soundPacket (sealPacket { packet0 with form := f }) = true)
        ∧ ∀ x, x ≠ headCrc packet0 → soundPacket { sealPacket packet0 with hcrc := x } = false)
    ∧ (l.up = true ∧ l.gapSent = false ∧ packet0.form = .packet ∧ (packet0.seq - l.expected).toNat = 0
        ∧ 0 < ((3 : BitVec 24) - l.expected).toNat ∧ ((3 : BitVec 24) - l.expected).toNat < 2 ^ 23
        ∧ 2 ^ 23 ≤ ((0 : BitVec 24) - l.expected).toNat)
    ∧ (packet0.srcDev.extractLsb' 6 12 = cs.devid.extractLsb' 6 12 ∧ (64 : BitVec 18).extractLsb' 6 12 ≠ cs.devid.extractLsb' 6 12)
    ∧ (chainAdmits cs [2] 0 0 = true ∧ chainAdmits cs [2] 9 0 = false ∧ linkRoom cs 2 1 = true ∧ linkRoom full 2 1 = false)
    ∧ (routeLink cs 0 2 (some 2) = some 0 ∧ chainAdmits cs [0] 0 0 = true ∧ linkRoom cs 0 1 = true ∧ linkRoom full 0 1 = false)
    ∧ (packet0.dstDev = cs.devid ∧ packet0.count = 1 ∧ (∀ k ∈ cs.chains, ∀ x ∈ k.partials, sameTrain packet0 x = false)
        ∧ chainAdmits cs (lanePorts (2 / 4) (dieOf packet0.core)) 0 0 = true) := by
  refine ⟨⟨fun f => sealed_sound _, fun x h => ?_⟩, ?_, ?_, ?_, ?_, ?_⟩
  · have e : headCrc { sealPacket packet0 with hcrc := x } = headCrc packet0 := rfl
    simp [soundPacket, e, h]
  all_goals decide +kernel

/-- SCANL by addition of 1.0, 1.0, 2.0, 2.0 over two channels (R377), its source read and then its results written: 1.0, 1.0, 3.0,
3.0 are full, P is 2 and the order FOLD, after 25 cc; the carry goes and is accepted. -/
theorem test_engines :
    let c (b : Option (List Byte)) : Carry := { carry0 with bytes := b }
    let scan (started : Bool) : State := engineState (.scan 5 0x40000 0x80000 2 2 foldOperator false false started []) id
    (after (.scanUnitStart ⟨0, false⟩) (scan false)).map (fun t => t.cur.ops.map (fun o => o.due)) = some [125]
    ∧ ((after (.scanComplete ⟨0, false⟩) (scan true)).bind (after (.scanComplete ⟨0, false⟩))).map (fun t =>
        (leNat (bankRead t.cur 0x80000 16), zHeader t.cur 5, t.cur.ops.map (fun o => o.work)))
      = some (0x40400000404000003F8000003F800000, 2 + 2 * 2 ^ 27 + 2 * 2 ^ 41, [.none])
    ∧ (after (.carryArrival 0) { carryState with carries := [c none] }).map (fun t => t.carries.map (fun x => x.bytes.map List.length)) = some [some 96]
    ∧ (after (.carryArrival 0) { carryState with carries := [c (some [])] }).map (fun t =>
        (t.carries.length, t.acceptances.length, t.rest.map (fun u => u.unmatched.length))) = some (0, 1, [1])
    ∧ (after (.acceptancePacketArrival 0) { carryState with acceptances := [{ c (some []) with answer := .accepted }] }).map (fun t =>
        t.cur.ops.map (fun o => o.work)) = some [.none] := by
  refine ⟨?_, ?_, ?_, ?_, ?_⟩ <;> decide +kernel

/-- That KVOPEN at the head of its queue, and a device with a key slot of generation 0. -/
def openState : State :=
  let s := withWork (.kv kvOpenReq none) id
  let k : KvDie := { arrivals := [refOf s.cur 7] }
  { s with kv := s.kv.set 0 k }

/-- A KVAPPEND to sequence 8 at the head of its queue, with its token at 0x4_0100 read or not. -/
def appendState (read : Option (List Nat)) : State :=
  let r : KvReq := { kind := .append, seq := 8, word := 8, second := 0x40100, n := 1, stride := 1, status := 0x40000 }
  let s := withWork (.kv r none) (fun t => { t with ops := t.ops.map (fun o => { o with staged := read.map (fun v => { values := v }) }) })
  let x : Sequence := { id := 8, tenant := 0, context := 0, kdh := 0x20003, doms := [0x20003], spans := 1, stride := 1 }
  let k : KvDie := { arrivals := [refOf s.cur 7], seqs := [x] }
  { s with kv := s.kv.set 0 k }

/-- A query entry of a payload of 16 bytes at the queue engine of die 2, whose queue 4 has room for some bytes. -/
def queueState (capacity : Nat) (payload : Option (List Byte)) : State :=
  let s := withWork (.query 4 (BitVec.ofNat 512 (queryHeader 0x80000 + 2 ^ 464)) 0x40040 16 0x40000) id
  let x : Sequence := { id := 8, tenant := 0, context := 0, kdh := 0x20003, doms := [0x20003], spans := 1, stride := 16, length := 5 }
  let q : QueryQueue := { tenant := 5, capacity := capacity }
  let k : KvDie := { queries := [{ queue := 4, sender := refOf s.cur 7, payload }], queues := [(4, q)], seqs := [{ x with tenant := 5 }] }
  { s with cur := { s.cur with tenant := 5, context := 6 }, kv := s.kv.set 0 k, access := [(1024 * targetNum (.kvSlice false 4), rights)] }

/-- A serving slot of core 0x80 of queue 4 of die 2 with two inbox slots of 128 bytes at 0x4_0000, of which entries stand. -/
def serveState (inbox : List InboxEntry) (w : Work) : State :=
  let e : QueryEntry := { no := 9, sender := { slot := ⟨0, false⟩ }, header := BitVec.ofNat 512 (queryHeader 0x80000), payload := [1, 2, 3] }
  let s := withWork w (fun t => { t with
    id := ⟨0x80, false⟩, inbox
    record := probeRecord ||| BitVec.ofNat 2048 (2 ^ 490 + 4 * 2 ^ 1221 + 2 ^ 1226 + 8 * 2 ^ 1237 + 0x40000 * 2 ^ 1249) })
  let q : QueryQueue := { tenant := 1, capacity := 4096, entries := [e] }
  let k : KvDie := { queues := [(4, q)] }
  { s with kv := s.kv.set 0 k, replies := [{ source := refOf s.cur 7 }] }

/-- A slot that awaits a reply, and whose own reply goes to it. -/
def replyState : State :=
  let e : QueryEntry := { no := 9, sender := refOf slot0 7, header := 0, payload := [] }
  { withWork (.awaitReply 0x40000 16) (fun t => { t with ops := t.ops ++ [{ id := 8, work := .reply 0x40000 16 0 0x40040 }] }) with
    replies := [{ source := refOf slot0 8, sent := some (e, [1]) }] }

/-- For KvAndQueryEvents: a KVOPEN that a die can perform, and a KVAPPEND before and after its token is read. -/
theorem witness_kv_performs :
    let s := openState
    let a := appendState none
    let b := appendState (some (List.replicate 32 5))
    (s.mgmt.powered = true ∧ (refOp s (refOf s.cur 7)).any (fun x => decide (x.1 = s.cur ∧ x.2.work = .kv kvOpenReq none)) = true
        ∧ (newSeqId s.kv[0] 0).isSome = true ∧ (newDomain s 0).isSome = true ∧ kvAdmits s 0 0 0 0 (kvRight .opens) = true
        ∧ kvOpenReq.word.getLsbD 25 = false ∧ kvOpenReq.word.toNat < 2 ^ 26)
    ∧ ([s, a, b].all (fun s => !isDet s.cur && s.cur.ops.all (fun o => decide (o.due < s.cycle) && inOrder s.cur o && !o.stopped
          && (match o.work with
              | .kv r _ => (kvNamed s r ((kvData o r).getD [])).all (fun b => !b.moving) && pathUp s 0 2 (kvHome r).2.toNat
              | _ => false))
        && (prefixSlice s (refOf s.cur 7)).isNone && decide (s.kv[0].arrivals[0]? = some (refOf s.cur 7))) = true)
    ∧ (b.cur.ops.all (fun o => match o.work with | .kv r _ => (kvData o r).isSome && decide (r.kind = .append) | _ => false) = true
        ∧ s.cur.ops.all (fun o => decide (kvData o kvOpenReq = some [])) = true)
    ∧ (a.cur.ops.all (fun o => o.staged.isNone) = true ∧ firstEmpty a.cur 0x40100 32 = none ∧ bankPoisoned a.cur 0x40100 32 = false) := by
  refine ⟨?_, ?_, ?_, ?_⟩ <;> decide +kernel

/-- For KvAndQueryEvents: a dead handle that core 0 has to acknowledge; a block without references, one to move and one that moves,
with the port up and down; an entry to read, one that its queue has room for, to the byte, and one that it has not. -/
theorem witness_kv_events :
    let b : State := { engineState .none (fun t => { t with ztag := [(5, { state := 1, kdh := 0x20003 })] }) with broadcasts := [(0x20003, 1)] }
    let blk : Block := { refs := 1, stride := 1 }
    let k : KvDie := { blocks := [(6, blk), (7, { blk with moving := true, target := (2, 3) }), (8, { blk with tier := 3 })] }
    let t : State := { st0 with kv := st0.kv.set 1 k }
    let h : BitVec 512 := BitVec.ofNat 512 (queryHeader 0x80000 + 2 ^ 464)
    let q := queueState 80 none
    (b.broadcasts.find? (fun x => (0 : BitVec 8).toNat < 128 && x.2.getLsbD 0) = some (0x20003, 1) ∧ swf {} b.cur.ztag = true)
    ∧ ((blockOf t.kv[1] 5).refs = 0 ∧ (blockOf t.kv[1] 6).moving = false ∧ (blockOf t.kv[1] 7).moving = true ∧ (blockOf t.kv[1] 7).refs ≠ 0
        ∧ (blockOf t.kv[1] 8).tier = 3 ∧ tierOk t 1 6 2 0x10000 = true ∧ tierOk t 1 6 7 0 = false
        ∧ t.port.up = true ∧ ({ t.port with up := false } : Port).up = false)
    ∧ ([none, some (List.replicate 16 (0 : Byte))].all (fun p => let q := queueState 80 p
        decide (judgeQuery q q.cur 0 4 h = (0, 5)) && decide (queueBytes (queueAt q.kv[0] 4) + 64 + 16 = 80)
          && q.cur.ops.all (fun o => inOrder q.cur o) && pathUp q 0 2 4 && (q.kv[0].queries.all (fun a => a.resendAt.isNone))) = true)
    ∧ (firstEmpty q.cur 0x40040 16 = none ∧ bankPoisoned q.cur 0x40040 16 = false ∧ isDet q.cur = false) := by
  refine ⟨?_, ?_, ?_, ?_⟩ <;> decide +kernel

/-- For KvAndQueryEvents: a serving slot; a reply to read, whose request leaves room and does not, and one to deliver. -/
theorem witness_replies :
    let s := serveState [] .none
    let r := serveState [⟨0, 4, 9⟩] (.reply 0x40000 16 0 0x40040)
    let rs := replyState
    let e : QueryEntry := { no := 9, sender := refOf slot0 7, header := 0, payload := [] }
    ((servingSlot s 0 4).map (fun x => x.2) = some 0 ∧ (headEntry (queueAt s.kv[0] 4)).map (fun e => e.no) = some 9
        ∧ isDet s.cur = false ∧ (∀ p ∈ s.cur.ops, p.id ≠ s.cur.nextOp))
    ∧ ((refOp r (refOf r.cur 7)).any (fun x => x.2.work = .reply 0x40000 16 0 0x40040 && !x.2.stopped && inOrder r.cur x.2) = true
        ∧ r.cur.inbox.find? (fun y => y.index = 0) = some ⟨0, 4, 9⟩ ∧ (headEntry (queueAt r.kv[0] 4)).map (fun e => hdrReply e.header) = some 16
        ∧ firstEmpty r.cur 0x40000 16 = none ∧ bankPoisoned r.cur 0x40000 16 = false ∧ hdrReply (BitVec.ofNat 512 (queryHeader 0x80000)) < 17)
    ∧ ((refOp rs e.sender).any (fun x => x.2.work = .awaitReply 0x40000 16) = true
        ∧ (refOp rs (refOf slot0 8)).any (fun x => x.2.work = .reply 0x40000 16 0 0x40040) = true ∧ rs.saved = [] ∧ pathUp rs 0 0 0 = true) := by
  refine ⟨?_, ?_, ?_⟩ <;> decide +kernel

/-- KVOPEN opens sequence 2, of length 0 and stride 3 (R138, R153), and the status names it; the dead handle zeroes the state slot and
marks it DEAD (R133); a move ends at its target (R164); an entry of 80 bytes fits its queue and one byte less refuses it (R165); a
delivery writes the header with inbox index 0 and the payload (R168); a reply fills the region and the status (R169). -/
theorem test_kv_events :
    let b : State := { engineState .none (fun t => { t with ztag := [(5, { state := 1, kdh := 0x20003 })] }) with broadcasts := [(0x20003, 1)] }
    let k : KvDie := { blocks := [(7, { refs := 1, stride := 1, moving := true, target := (2, 3) })] }
    let enqueue (n : Nat) (p : Option (List Byte)) := after (.queryEntryEnqueue false 0) (queueState n p)
    (after (.kvopenAtSlice0 false 0) openState).map (fun t => (t.kv[0].seqs.map (fun x => (x.id, x.stride, x.spans, x.length)),
        leNat (bankRead t.cur 0x40000 8) / 2 ^ 40, t.kv[0].arrivals)) = some ([(2, 3, 1, 0)], 2, [])
    ∧ (after (.deadHandleBroadcast 0) b).map (fun t => ((zTag t.cur 5).state, zHeader t.cur 5, t.broadcasts)) = some (2, 0, [])
    ∧ (after (.tierMove true 7 0 0) { st0 with kv := st0.kv.set 1 k }).map (fun t =>
        ((blockOf t.kv[1] 7).tier, (blockOf t.kv[1] 7).loc, (blockOf t.kv[1] 7).moving)) = some (2, 3, false)
    ∧ ((enqueue 80 none).map (fun t => t.kv[0].queries.map (fun a => a.payload)) = some [some (List.replicate 16 0)]
        ∧ [80, 79].map (fun n => (enqueue n (some (List.replicate 16 0))).map (fun t =>
            ((queueAt t.kv[0] 4).entries.length, t.kv[0].queries.map (fun a => a.refused)))) = [some (1, []), some (0, [1])])
    ∧ (after (.queryDelivery false 4) (serveState [] .none)).map (fun t => (bankRead t.cur 0x40040 4, t.cur.inbox.map (fun x => x.no)))
        = some ([1, 2, 3, 0], [9])
    ∧ (after (.queryReplyArrival 0) replyState).map (fun t => (bankRead t.cur 0x40000 2, t.cur.ops.map (fun o => o.work), t.replies))
        = some ([1, 0], [.none, .none], []) := by
  refine ⟨?_, ?_, ?_, ?_, ?_, ?_⟩ <;> decide +kernel
/-! ## KV operations -/

/-- A table entry of a tail, or of a sealed block, and a block with references, the first positions in use. -/
def tail (n : Nat) (whole : Bool := false) : BlockEntry := { kdh := 0x20003, pbid := BitVec.ofNat 26 n, sealed_ := whole }
def block (refs fill : Nat) : Block :=
  { refs, kdh := 0x20003, stride := 1, fill, bitmap := BitVec.ofNat 256 (2 ^ fill - 1), tier := 1, sealed_ := 16 < fill }

/-- A sequence of 20 tokens with two tails. -/
def seq20 : Sequence :=
  { id := 8, tenant := 0, context := 0, kdh := 0x20003, doms := [0x20003], spans := 1, stride := 1, length := 20
    entries := [(0, tail 3), (1, tail 4)] }

/-- A die with that sequence, its blocks, a block with two references, and one that the prefix index names by hash 7. -/
def storeKv (x : Sequence) : KvDie :=
  { seqs := [x]
    blocks := [(3, block 1 16), (4, block 1 4), (5, block 2 4), (6, block 1 16), (7, block 1 8), (8, block 1 256), (9, block 1 16)]
      ++ (List.range 16).map (fun i => (10 + i, block 1 16))
    index := [{ set := 0, way := 0, hash := 7, tenant := 0, stride := 1, pbid := 9, kdh := 0x20003, lastHit := 0 }] }
def storeOf (x : Sequence) (f : KvDie → KvDie := id) : State := { st0 with kv := st0.kv.set 0 (f (storeKv x)) }

def req (kind : KvKind) (second : Word := 0) (n stride : Nat := 1) : KvReq :=
  { kind, seq := 8, word := 8, second, n, stride, status := 0x40000 }

/-- The general premises of KvOperations. -/
def kvGood (s : State) (r : KvReq) (x : Sequence) : Bool :=
  decide (seqOf s.kv[(kvHome r).1] r.seq = some x) && decide (r.seq ≠ 0) && decide (x.tenant = s.cur.tenant) && s.port.up
    && kvAdmits s (kvHome r).1 (kvHome r).2 s.cur.tenant s.cur.context (kvRight r.kind)

/-- Every position of the store is within reach of each kind of operation. -/
theorem witness_kv_premises :
    [KvKind.append, .evict, .compact, .map, .mapV, .draft, .accept, .reject, .closes, .fork, .look, .insert].all (fun k =>
      kvGood (storeOf seq20) (req k) seq20) = true := by decide +kernel

/-- For KvOperations: positions of a tail and of a sealed block, present ones and one past the length. -/
theorem witness_map :
    let whole : Sequence := { seq20 with length := 256, entries := [(0, tail 8 true)] }
    (seq20.length ≤ 20 ∧ (2 ^ 26 ≤ (2 ^ 26 : Nat)))
    ∧ ((entryAt seq20.entries (16 * (19 / 256))).any (fun f => !f.sealed_) = true ∧ entryAt seq20.entries (19 / 16) = some (tail 4)
        ∧ (blockOf (storeKv seq20) 4).bitmap.getLsbD (19 % 16) = true)
    ∧ (entryAt whole.entries (16 * (255 / 256)) = some (tail 8 true) ∧ (tail 8 true).sealed_ = true
        ∧ (blockOf (storeKv whole) 8).bitmap.getLsbD 255 = true) := by decide +kernel

/-- For KvOperations: an append into its own tail, into a new one, and into one that others hold, with memory left and without; one
of another stride, one with drafts, one past the capacity. -/
theorem witness_append :
    let x32 : Sequence := { seq20 with length := 32 }
    let shared : Sequence := { seq20 with entries := [(0, tail 3), (1, tail 5)] }
    let none_ (s : State) : State := { s with kv := s.kv.set 0 { s.kv[0] with pool := 0 } }
    ((req .append).stride = seq20.stride ∧ (req .append 0 1 2).stride ≠ seq20.stride ∧ seq20.drafts = 0
        ∧ 0 < ({ seq20 with drafts := 1 } : Sequence).drafts ∧ (seq20.spans.toNat + 1) * 256 = 512)
    ∧ (entryAt x32.entries (32 / 16) = none ∧ (newBlock (storeOf x32) 0 false x32.kdh x32.tenant x32.stride).isSome = true
        ∧ (newBlock (none_ (storeOf x32)) 0 false x32.kdh x32.tenant x32.stride).isNone = true)
    ∧ (entryAt seq20.entries (20 / 16) = some (tail 4) ∧ (blockOf (storeKv seq20) 4).refs ≤ 1 ∧ (tail 4).kdh = seq20.kdh)
    ∧ (entryAt shared.entries (20 / 16) = some (tail 5) ∧ 1 < (blockOf (storeKv shared) 5).refs
        ∧ (copyBlock (storeOf shared) 0 5 shared.kdh shared.tenant).isSome = true
        ∧ (copyBlock (none_ (storeOf shared)) 0 5 shared.kdh shared.tenant).isNone = true) := by decide +kernel

/-- For KvOperations: an eviction of positions 2 to 9 of the first tail alone, of none, and past the end. -/
theorem witness_evict :
    let d := storeKv seq20
    ((seq20.entries.map (fun y => y.1)).Nodup ∧ (0, tail 3) ∈ seq20.entries ∧ (blockOf d 3).refs ≤ 1 ∧ 2 + 8 ≤ 2 ^ 26)
    ∧ (evictedEntries d { seq20 with entries := [(0, tail 3)] } 2 10 = [tail 3]
        ∧ evictedEntries d { seq20 with entries := seq20.entries.filter (fun y => y.1 ≠ 0) } 2 10 = [])
    ∧ (evictedEntries d seq20 20 20 = [] ∧ (2 ^ 26 : Nat) < 2 ^ 26 + 1) := by decide +kernel

/-- For KvOperations: a span to seal, one that is sealed, one that is too short, and one past the last. -/
theorem witness_compact :
    let x : Sequence := { seq20 with length := 256, entries := (List.range 16).map (fun i => (i, tail (10 + i))) }
    let whole : Sequence := { seq20 with length := 256, entries := [(0, tail 8 true)] }
    let tails := (List.range 16).filterMap (fun j => entryAt x.entries (16 * 0 + j))
    (tails.length = 16 ∧ 256 * 0 + 256 ≤ x.length ∧ (∀ e ∈ (entryAt x.entries 0).toList, e.sealed_ = false)
        ∧ (newBlock (storeOf x) 0 true x.kdh x.tenant x.stride).any (fun r => tails.all (fun e => e.pbid.toNat ≠ r.2)) = true
        ∧ (tails.map (fun e => e.pbid)).Nodup
        ∧ (newBlock (storeOf x (fun d => { d with pool := 0 })) 0 true x.kdh x.tenant x.stride).isNone = true)
    ∧ ((entryAt whole.entries (16 * 0)).any (fun e => e.sealed_) = true)
    ∧ (((List.range 16).filterMap (fun j => entryAt seq20.entries (16 * 0 + j))).length ≠ 16 ∧ seq20.spans.toNat < 2 ∧ 0 ≤ seq20.spans.toNat) := by
  decide +kernel

/-- A sequence of 20 tokens with 20 drafts. -/
def drafted : Sequence := { seq20 with drafts := 20, shadow := [(0, tail 6), (1, tail 7)] }

/-- For KvOperations: drafts that fit, and more than 64; an acceptance of five drafts, which keeps the first shadow tail in part and
frees the second, and of all twenty; one of more than there are. -/
theorem witness_drafts :
    ((kvRun (storeOf seq20) st0.cur (req .draft 0 2) (List.replicate 64 1)).status = 0 ∧ 64 < seq20.drafts + 65)
    ∧ (5 ≤ drafted.drafts ∧ drafted.drafts < 21 ∧ (drafted.shadow.map (fun e => e.1)).Nodup ∧ drafted.length / 16 = 1)
    ∧ ((0, tail 6) ∈ drafted.shadow ∧ (1, tail 7) ∈ drafted.shadow ∧ (∀ f ∈ drafted.entries, f.2.pbid ≠ (tail 6).pbid ∧ f.2.pbid ≠ (tail 7).pbid)
        ∧ (∀ f ∈ drafted.shadow, f.2.pbid = (tail 6).pbid → f = (0, tail 6)) ∧ (∀ f ∈ drafted.shadow, f.2.pbid = (tail 7).pbid → f = (1, tail 7)))
    ∧ (20 + 5 ≤ 16 * (1 + 1) ∧ 16 * (1 + 0) < 20 + 5 ∧ 20 + 5 - 16 * (1 + 0) < 16 ∧ 16 * (1 + 1) < 20 + 20) := by decide +kernel

/-- A die with any number of sequences more. -/
theorem ids_left (n : Nat) : ∃ d : KvDie, freeIds d 0 = 2 ^ 23 - 1 - (n + 1) ∧ seqOf d 8 = some seq20 :=
  ⟨{ storeKv seq20 with seqs := seq20 :: List.replicate n seq20 }, by simp [freeIds], rfl⟩

/-- For KvOperations: a close of a sequence that names its blocks once each and whose domain has one holder; a fork of one child, and
of one that finds no number. -/
theorem witness_closes_and_forks :
    let s := storeOf seq20
    ((∀ f g h, ∀ e, seq20.entries ++ seq20.shadow = f ++ e :: g → h ∈ f ++ g → h.2.pbid ≠ e.2.pbid) ∧ (keyOf s 0x20003).holders ≤ 1)
    ∧ ((kvRun s st0.cur (req .fork) []).status = 0 ∧ 1 ≤ freeIds (storeKv seq20) 0)
    ∧ (∃ d : KvDie, freeIds d 0 < 1 ∧ seqOf d 8 = some seq20) := by
  obtain ⟨d, hd, h8⟩ := ids_left 8388608
  refine ⟨⟨?_, by decide +kernel⟩, by decide +kernel, d, by omega, h8⟩
  intro f g h e eq hm
  have two : f ++ e :: g = [(0, tail 3), (1, tail 4)] := eq.symm
  rcases f with _ | ⟨a, _ | ⟨b, f⟩⟩
  · simp at two
    obtain ⟨rfl, rfl⟩ := two
    simp at hm
    subst hm
    decide
  · simp at two
    obtain ⟨rfl, rfl, rfl⟩ := two
    simp at hm
    subst hm
    decide
  · simp at two

/-- For KvOperations: a KVPREFIX.LOOK that hits at a block boundary, one off it, one that misses; a KVPREFIX.INS of a full tail whose hash
stands in the index and whose hash does not, and of one that is not full. -/
theorem witness_prefixes :
    let x16 : Sequence := { seq20 with length := 16, entries := [(0, tail 3)] }
    let d := storeKv x16
    ((indexMatch d 7 0 1).map (fun e => (e.pbid, e.kdh)) = some (9, 0x20003) ∧ (indexMatch d 8 0 1).isNone = true
        ∧ x16.length % blockSpan (blockOf d 9).sealed_ = 0 ∧ seq20.length % blockSpan (blockOf d 9).sealed_ ≠ 0
        ∧ (blockOf d 9).refs + 1 < 2 ^ 32 ∧ x16.doms.contains 0x20003 = true)
    ∧ (entryFor x16 (x16.length - 1) = (0, 15, some (tail 3)) ∧ (blockOf d 3).fill = 16 ∧ popCount (blockOf d 3).bitmap = 16
        ∧ (9 : BitVec 26) ≠ (tail 3).pbid ∧ entryFor seq20 (seq20.length - 1) = (1, 3, some (tail 4)) ∧ (blockOf d 4).fill < 16)
    ∧ ((kvRun (storeOf x16) st0.cur (req .insert) (bytesOf 16 8)).status = 0 ∧ swf {} d.blocks = true ∧ 0 < (blockOf d 3).refs
        ∧ (∀ v ∈ d.index, 0 < (blockOf d v.pbid.toNat).refs)) := by decide +kernel

/-- What operations answer (R147, R150, R151, R153, R155, R156): the locator of position 19 is the third survivor of block 4; an
append puts the token at 20; evicting position 18 moves the locator of 19 down by one slot; a draft leaves the length. -/
theorem test_kv_operations :
    let run (r : KvReq) (data : List Byte) := kvRun (storeOf seq20) st0.cur r data
    (run (req .map 19) []).locs = [0x8000000C00000004]
    ∧ ((run (req .append) (List.replicate 32 1)).length, (run (req .append) (List.replicate 32 1)).aux) = (21, 20)
    ∧ mapPosition (run (req .evict 18) []).st.kv[0] seq20 false 19 = 0x8000000800000004
    ∧ ((run (req .draft 0 2) (List.replicate 64 1)).length, (run (req .draft 0 2) (List.replicate 64 1)).status) = (20, 0) := by
  decide +kernel
/-! ## Events of translation, of home slices and of moves -/

/-- The leaf of the page of handle 3, and a slot with a lookup of its handle since cc 10; tables map 0x1_0000 onto itself. -/
def leaf3 (lat : BitVec 3) : Leaf :=
  { tenant := 5, context := 6, vpage := 1, size := 0, pbase := 1, perm := 8, lat, kdh := 0 }

def walkState (due : Option Nat) (va : Word) (atUse : Bool) (leaf : Option Leaf) : State :=
  with0 (fun t => { t with
    tenant := 5, context := 6, h := t.h.set 3 { bound := true, walk := true, vpage := va.extractLsb' 16 40 }
    walks := [{ h := 3, va, due, atUse, since := 10, leaf }] })

/-- Tables of tenant 5, context 6 that map 0x1_0000 onto itself with a latency class and the mig bit. -/
def mapped (s : State) (lat mig : Nat) : State :=
  { s with
    mem := ssetRange 0 launchMem 0x48010 (tableLeaf 0x10000 (8 + lat * 16 + mig * 128)), contexts := [⟨5, 6, 0x40000, 0⟩], pinWays := 8 }

/-- An invalidation of that page, at one slot. -/
def shooting (unreached unacked : List SlotId) (f : Slot → Slot) : State :=
  { with0 (fun t => f { t with tenant := 5, context := 6, h := t.h.set 3 { page3 with vpage := 1 }, cache := [leaf3 0] }) with
    l1 := [⟨0, 0x200, 5, []⟩, ⟨1, 0x200, 5, []⟩]
    shootdowns := [{ old := leaf3 0, unreached, unacked, entry := 0x48010, host := 9 }] }

/-- A request of a package at the end of a line. -/
def requestState (kind : ReqKind) (addr : Nat) : State :=
  { st0 with requests := [{ source := 1, num := 0, pred := none, tenant := 0, context := 0, addr, kind }] }

/-- A bucket on the move from slice 5 to slice 9 (R68). -/
def movingState (held flushing : Bool) : State :=
  { st0 with
    lines := [(5, 1), (6, 1)], table := [(5, 1#2 ++ 9#6 ++ 0#2 ++ 5#6)]
    moves := st0.moves.set 0 (some { bucket := 5, target := 9, held, flushing }) }

/-- For TranslationAndHomeEvents: a cache hit that has come, with its line and without; walks that find a leaf, of class 0 and of class 1,
a leaf that is being moved, and nothing; an invalidation that reaches a slot, and acknowledgements, the last and another; a
request whose back-off ends, a write and a read at the end of a line, and an address that is no memory; a request behind its
predecessor, with room and without; a frame for the end of a line; a flow to send again; a move to start, to hold, to flush
and to end. -/
theorem witness_translation :
    let hit (leaf : Option Leaf) := walkState (some 100) 0x10000 false leaf
    let miss (va : Word) := walkState none va false none
    let behind (n : Nat) : State :=
      let r : Request := { source := 1, num := 0, pred := none, tenant := 0, context := 0, addr := 0x20000, kind := .read 16, held := true }
      { st0 with requests := List.replicate n r ++ [{ r with num := 1, pred := some 0, held := false }] }
    let waits (n : Nat) := (behind n).requests[n]?.map (fun r =>
      (reqWaits (behind n) n r, r.held, reorderRoom (behind n) r.addr, canArrive (behind n) 0 (0x20000 / 128) r.sent))
    let found (s : State) (va : Nat) := walk s 5 6 va
    (st0.mgmt.powered = true ∧ (hit none).cur.walks.filter (fun x => x.h = 3) = (hit none).cur.walks
        ∧ [none, some (leaf3 0)].map (fun l => (hit l).cur.walks.map (fun w => (w.due, w.restart, w.leaf)))
          = [[(some 100, false, none)], [(some 100, false, some (leaf3 0))]])
    ∧ ((miss 0x10000).cur.walks.map (fun w => (w.due, w.faulted, decide (w.since + 32 < 100))) = [(none, false, true)]
        ∧ found (mapped (miss 0x10000) 0 0) 0x10000 = .leaf (leaf3 0) true ∧ overCapacity (mapped (miss 0x10000) 0 0) (leaf3 0) = false
        ∧ found (mapped (miss 0x10000) 1 0) 0x10000 = .leaf (leaf3 1) true ∧ overCapacity (mapped (miss 0x10000) 1 0) (leaf3 1) = false
        ∧ classLoaded (mapped (miss 0x10000) 1 0) (leaf3 1) = false
        ∧ found (mapped (miss 0x10000) 0 1) 0x10000 = .waits ∧ found (mapped (miss 0x70000) 0 0) 0x70000 = .fault 0x22 4)
    ∧ ((shooting [⟨0, false⟩] [] id).shootdowns.length = 1 ∧ inLeafPage (leaf3 0) 1 = true
        ∧ usesPage (shooting [] [⟨0, false⟩] id) (shooting [] [⟨0, false⟩] id).cur (leaf3 0) = false)
    ∧ (∀ kind ∈ [ReqKind.write (List.replicate 16 7), .read 16],
        let s := requestState kind 0x20070
        s.requests.map (fun r => (r.resendAt, reqWaits s 0 r)) = [(none, false)] ∧ isMemory 0x20070 = true
        ∧ canArrive s 0 (0x20070 / 128) 0 = true ∧ admits s (homeTarget s 0x20070) 0 0 rightWrite = true
        ∧ admits s (homeTarget s 0x20070) 0 0 rightRead = true)
    ∧ [1, 28].map waits = [some (true, false, true, true), some (true, false, false, true)]
    ∧ (16 ≤ 128 - 0x20070 % 128 ∧ canSend st0 0 (0x20070 / 128) = true)
    ∧ (isMemory (2 ^ 46) = false ∧ isMemory (2 ^ 45) = false ∧ isMemory (2 ^ 44 + 2 ^ 38 - 1) = true)
    ∧ (((tableEntry st0 5).extractLsb' 14 2 = 0 ∧ (tableEntry st0 5).extractLsb' 0 6 = 5 ∧ reservedCount st0 false 5 = 0
          ∧ st0.moves[dieFin false] = none ∧ st0.lastMove[dieFin false] = none)
        ∧ bucketBusy (movingState false false) 5 = false) := by
  refine ⟨?_, ?_, ?_, ?_, ?_, ?_, ?_, ?_⟩ <;> decide +kernel

/-- A hit fills the handle and a walk also the cache; a fault at XLAT goes to the host (R434); an
invalidated handle is not valid (R122); the last acknowledgement ends the shootdown and answers the host; the intake engine
sends a request for each line of a frame, and its slice performs it; the bucket's lines go, and its entry names the target. -/
theorem test_translation :
    let c : SlotId := ⟨0, false⟩
    let h (t : State) := ((t.cur.h[3]).full, (t.cur.h[3]).walk, (t.cur.h[3]).valid, (t.cur.h[3]).pbase)
    (after (.xlatCacheHitFill c 3) (walkState (some 100) 0x10000 false (some (leaf3 0)))).map h = some (true, false, true, 1)
    ∧ (after (.retranslationHitRefill c 3) (walkState (some 100) 0x10000 true none)).map h = some (false, true, false, 0)
    ∧ (after (.translationWalkComplete c 3) (mapped (walkState none 0x10000 true none) 0 0)).map (fun t => (h t, t.cur.cache))
        = some ((true, false, true, 1), [leaf3 0])
    ∧ (after (.translationWalkComplete c 3) (mapped (walkState none 0x70000 false none) 0 0)).map (fun t =>
        (t.pageFaults.map (fun f => f.vpage), t.cur.walks.map (fun w => w.faulted), t.port.wire.map (fun f => f.kind))) = some ([7], [true], [10, 9])
    ∧ (after (.shootdownInvalidation c 5 6 1) (shooting [c] [] id)).map (fun t =>
        ((t.cur.h[3]).valid, t.cur.cache, t.shootdowns.map (fun x => (x.unreached, x.unacked)))) = some (false, [], [([], [c])])
    ∧ (after (.shootdownAck c) (shooting [] [c] id)).map (fun t =>
        (t.shootdowns.length, t.l1.length, t.port.wire.map (fun f => (f.kind, f.dst)))) = some (0, 0, [(10, 9)])
    ∧ (after (.homeSliceRequest 0) { st0 with intake := (requestState (.write (List.replicate 16 7)) 0x20078).requests }).map (fun t =>
        (t.requests.map (fun r => (r.addr, reqLen r.kind, r.num)), t.intake.length, memByte t 0x2007F))
          = some ([(0x20078, 8, 0), (0x20080, 8, 1)], 0, 0)
    ∧ (after (.homeSliceRequest 0) (requestState (.write (List.replicate 8 7)) 0x20078)).map (fun t =>
        (memByte t 0x20077, memByte t 0x2007F, memByte t 0x20080, t.requests.length)) = some (0, 7, 0, 0)
    ∧ (after (.derailleurFlush false) (movingState true false)).map (fun t => (t.lines, tableEntry t 5))
        = some ([(6, 1)], 2#2 ++ 9#6 ++ 0#2 ++ 5#6)
    ∧ (after (.derailleurRelease false) (movingState true true)).map (fun t => (tableEntry t 5, t.moves[0])) = some (9, none) := by
  refine ⟨?_, ?_, ?_, ?_, ?_, ?_, ?_, ?_, ?_, ?_⟩ <;> decide +kernel

/-- For TranslationAndHomeEvents: a leaf of a class without room, at XLAT and at a use; back-offs that have ended, of a request, a flow,
a barrier update and a query entry; a read that a GETREQ asks for and one that the home refuses. -/
theorem witness_resends :
    let full (atUse : Bool) : State := { mapped (walkState none 0x10000 atUse none) 1 0 with pinWays := 0 }
    let u : BarrierUpdate :=
      { issuer := refOf slot0 7, addr := 0x20020, delta := 1, tenant := 0, context := 0, order := { resendAt := some 90 } }
    let k : KvDie := { queries := [{ queue := 4, sender := refOf slot0 7, resendAt := some 90 }] }
    let key : FlowKey := ⟨false, true, 0, 1, 5, 6⟩
    let f : Frame :=
      { kind := 2, hs := false, hd := false, src := 1, dst := 0, tenant := 5, context := 6, seq := 1, ack := 0, rpa := 0, aux := 16
        payload := [] }
    let r : Request := { source := 0, num := 0, pred := none, tenant := 5, context := 6, addr := 0x20000, kind := .read 16, reply := some f }
    let s : State := { st0 with
      barriers := [u], kv := st0.kv.set 0 k, requests := [{ r with resendAt := some 90 }]
      port := { tx := [{ key := key, resendAt := some 90 }] } }
    let reads (rights : Sparse Word) : State := { st0 with requests := [r], access := rights }
    ([false, true].all (fun b => overCapacity (full b) (leaf3 1)) = true ∧ walk (full true) 5 6 0x10000 = .leaf (leaf3 1) true
        ∧ (full true).cur.walks.map (fun w => (w.due, w.faulted, decide (w.since + 48 < (full true).cycle))) = [(none, false, true)]
        ∧ walk (mapped (walkState none 0x70000 true none) 0 0) 5 6 0x70000 = .fault 0x22 4)
    ∧ (s.barriers.map (fun u => u.order.resendAt) = [some 90] ∧ s.kv[0].queries.map (fun a => a.resendAt) = [some 90]
        ∧ s.requests.map (fun r => r.resendAt) = [some 90] ∧ (txFlow s key).map (fun x => x.resendAt) = some (some 90) ∧ s.port.up = true
        ∧ 90 ≤ s.cycle)
    ∧ ((let q := reads [(1024 * targetNum (homeTarget {} 0x20000), rights)]
        admits q (homeTarget q 0x20000) 5 6 rightRead = true ∧ reqWaits q 0 r = false ∧ canArrive q 0 0x400 0 = true)
        ∧ admits (reads []) (homeTarget (reads []) 0x20000) 5 6 rightRead = false) := by
  refine ⟨?_, ?_, ?_⟩ <;> decide +kernel
/-! ## Events of scheduling -/

/-- Queue 7 with a launch of tenant 5 that has claimed and retired some items; every slot is free. -/
def queue7 (ls : List Launch) : Sparse Queue := sset {} [] 7 { tenant := 5, accepted := ls.length, launches := ls }

def queued (l : Launch) : State :=
  { cur := { id := ⟨0, false⟩ }, cycle := 1000000, contexts := [⟨5, 6, 0x40000, 2⟩], queues := queue7 [l] }

def launch1 : Launch := { ordinal := 1, record := goodRecord, acceptedAt := 0, pins := [⟨0x10000, 0x10000, 0x10000⟩] }

/-- A launch like it that asks for a troupe of 2 and completes at 0x1_0080, with a priority. -/
def troupeRecord : BitVec 2048 := goodRecord ||| 2#2048 <<< 1120 ||| 3#2048 <<< 960 ||| 4#2048 <<< 480

/-- An item of queue 7 in slot 0 of core 0. -/
def item7 : Item := { item0 with queue := 7, size := 0 }

def running7 (l : Launch) (f : Slot → Slot) : State :=
  { queued l with cur := f { slot0 with item := some item7, record := goodRecord, tenant := 5, context := 6 } }

/-- Two slots of core 0 with items, the other one of a higher priority and ready for 4,096 cc. -/
def twoSlots (wants : Bool) : State :=
  let t : Slot := { slot0 with blockedFor := 64 }
  let u : Slot := { slot0 with id := ⟨0, true⟩, record := probeRecord ||| 1#2048 <<< 480, readyFor := 4096 }
  setCore { cur := t, rest := [u], cycle := 5000 } 0 { wants }

/-- For SchedulingEvents: a launch whose first unit a walker can place; a troupe to reserve for, and what its reservation pre-empts;
an item that retires; a launch that completes with a record; a core that switches, one that drops its trigger, one that
three triggers switch; a carry for a saved item; a saved item to restore; contexts to lose. -/
theorem witness_scheduling :
    let w := queued launch1
    let p := queued { launch1 with record := troupeRecord, unplaceableSince := some 984000 }
    let v : State := { running7 launch1 id with
      queues := queue7 [launch1, { launch1 with ordinal := 2, record := troupeRecord }]
      walkers := p.walkers.set 0 { reservation := some (7, 2), reservedAt := 840000 } }
    let e := running7 { launch1 with next := 1, running := 1 } (fun t => { t with item := some { item7 with ended := true }, ctl := {} })
    let d := queued { launch1 with record := goodRecord ||| 0x10080#2048 <<< 1792, next := 2, retired := 2 }
    let x : Saved := { slot := { slot0 with item := some item7, record := goodRecord, tenant := 5, context := 6 }, since := 0 }
    let b : Saved := { x with slot := { x.slot with record := goodRecord ||| 1#2048 <<< 483 } }
    let k : Carry :=
      { srcDev := 0, source := refOf slot0 7, dstDev := 0, dstCore := 0, dstSlot := false, tag := 0, tenant := 5, context := 6, bytes := some [1] }
    let held : State := { queued { launch1 with next := 1 } with saved := [x], carries := [k] }
    (w.mgmt.powered = true ∧ walkerDue w 0 = true ∧ topLevel w 0 = some 0
        ∧ (roundRobin w 0 0 (levelTenants w 0 0) 0 (clearDeficits [] 0 (levelTenants w 0 0)) 18).map (fun r => (r.1.indices, r.1.slots, r.2.1))
          = some ([0], [⟨0, false⟩], 5))
    ∧ ((reservationNext p 0).map (fun r => r.2.1) = some 7 ∧ p.walkers[0].reservation = none
        ∧ (v.walkers[0]).reservedAt + 160000 ≤ v.cycle
        ∧ ((launchOf v 7 2).bind (fun l => reservationVictim v 0 7 l)).map (fun r => r.2.ordinal) = some 1)
    ∧ (retireDue e e.cur = true ∧ (launchOf e 7 1).isSome = true)
    ∧ ((launchOf d 7 1).map (fun l => (decide (recTotal l.record ≤ l.next), l.running, pinAddr l.pins (recDone l.record)))
        = some (true, 0, some 0x10080))
    ∧ (otherReady (twoSlots true) ⟨0, false⟩ = true ∧ (coreOf (twoSlots true) 0).wants = true ∧ otherReady { st0 with cycle := 1 } ⟨0, false⟩ = false)
    ∧ ((coreOf (twoSlots false) 0).wants = false ∧ strictRunning (twoSlots false) 0 = false
        ∧ recPrio (twoSlots false).cur.record < recPrio (probeRecord ||| 1#2048 <<< 480) ∧ (coreOf (twoSlots false) 0).heldSince + 4096 ≤ 5000)
    ∧ (acceptsCarry x.slot k = true ∧ heldBytes x + 1 ≤ 65536 ∧ liveSlot held x.slot.id = false)
    ∧ ((restoreTo held 0).map (fun l => l.map (fun r => (decide (r.1 = x), r.2))) = some [(true, ⟨0, false⟩)] ∧ x.held = [])
    ∧ (recRepl b.slot.record = true ∧ (launchOf { held with saved := [b] } 7 1).isSome = true)
    ∧ ((running7 launch1 id).saved = [] ∧ item7.retired = false) := by
  refine ⟨?_, ?_, ?_, ?_, ?_, ?_, ?_, ?_, ?_, ?_⟩ <;> decide +kernel

/-- The item's slot as R205 gives it; a switch takes 16 cc, and each trigger asks for one; the saved item takes the
carry, and comes back to its slot; the item owed a re-dispatch. -/
theorem test_scheduling :
    let x : Saved := { slot := { slot0 with item := some item7, record := goodRecord ||| 1#2048 <<< 483, tenant := 5, context := 6 }, since := 0 }
    let k : Carry :=
      { srcDev := 0, source := refOf slot0 7, dstDev := 0, dstCore := 0, dstSlot := false, tag := 0, tenant := 5, context := 6, bytes := some [1] }
    let held : State := { queued { launch1 with next := 1, running := 1 } with saved := [x], carries := [k] }
    let wants (t : State) := (coreOf t 0).wants
    (after (.walkerStep 0) (queued launch1)).map (fun t => (t.cur.item.map (fun i => (i.queue, i.index)), t.cur.ctl.pc, t.cur.g[1], t.walkers[0].next))
        = some (some (7, 0), 0x10000, 0, 1000002)
    ∧ (after (.slotSwitch 0) (twoSlots true)).map (fun t => ((coreOf t 0).active, (coreOf t 0).switchEnds, wants t)) = some (true, 5016, false)
    ∧ ([Instr.blockedSwitchTrigger 0, .prioritySwitchTrigger 0, .timeSliceSwitchTrigger 0].map (fun i =>
        (after i (twoSlots false)).map wants)) = [some true, some true, some true]
    ∧ (after (.heldCompletion 0) held).map (fun t => (t.saved.map (fun y => y.slot.unmatched.length), t.carries, t.acceptances.length))
        = some ([1], [], 1)
    ∧ (after (.restore 0) { held with carries := [] }).map (fun t => (t.cur.item, t.saved.length)) = some (some item7, 0)
    ∧ (after (.contextLost ⟨0, false⟩ 6) held).map (fun t => ((launchOf t 7 1).map (fun l => (l.owed, l.running)), t.saved.length))
        = some (some ([(0, ⟨0, false⟩)], 0), 0)
    ∧ (after (.contextLost ⟨0, false⟩ 7) held).map (fun t => t.saved.length) = some 1 := by
  refine ⟨?_, ?_, ?_, ?_, ?_, ?_, ?_⟩ <;> decide +kernel

/-- For SchedulingEvents: a victim's slot that can be saved at once; a saved item whose tags are in order and that has nothing to
finish; a carry for it by a link with room; a die whose log of errors is empty, and one that has an entry; a KV block to poison. -/
theorem witness_saves_and_errors :
    let v : State := { running7 launch1 id with
      queues := queue7 [launch1, { launch1 with ordinal := 2, record := troupeRecord }]
      walkers := (queued launch1).walkers.set 0 { reservation := some (7, 2), reservedAt := 840000 } }
    let e : ErrorEntry := { die := 0, place := .memory 5, corrected := true, cycle := 1 }
    savable v v.cur ∧ tagsSafe slot0 ∧ slot0.ops = []
    ∧ ((reservationVictim v 0 7 ((launchOf v 7 2).getD launch1)).map (fun r => r.1) = some 7
        ∧ (launchSlots v 7 1).filter (fun c => decide (dieOf c.core = 0)) = [⟨0, false⟩] ∧ item7.size = 0)
    ∧ linkRoom v 2 1 = true
    ∧ (placeDie (.memory 5) = 0 ∧ st0.errors.filter (fun x => x.die = 0) = [] ∧ [e].filter (fun x => x.die = placeDie (.memory 5)) ≠ [])
    ∧ (blockOf (storeKv seq20) 3).refs ≠ 0 := by
  refine ⟨⟨rfl, rfl, rfl, ?_, ⟨?_, ?_⟩, ?_, ?_⟩, ⟨?_, ?_⟩, rfl, ?_, ?_, ?_, ?_⟩
  · decide +kernel
  · decide +kernel
  · decide +kernel
  · intro u h
    cases h
  all_goals decide +kernel
/-! ## Frames, flows and links -/

/-- A frame of a kind from package 5 to this one, of tenant 5, the first of its flow. -/
def frame (kind : BitVec 4) (seq aux : Nat) (payload : List Byte) : Frame :=
  { kind, hs := false, hd := false, src := 5, dst := 0, tenant := 5, context := 6, seq := BitVec.ofNat 24 seq, ack := BitVec.ofNat 24 seq
    rpa := 0x20000, aux := BitVec.ofNat 32 aux, payload }

/-- The slot with a GET from package 5 of 32 bytes to 0x4_0000, of which the first 16 come next, or 16 have come. -/
def getState (done : Nat) : State :=
  let b : CpyNetBody := { get := true, loff := 0x40000, len := 31, dev := 5, rpa := 0x20000 }
  withWork (.net b none false false (some 0) done) (fun t => { t with tenant := 5, context := 6, empty := [(0x4000, false), (0x4001, false)] })

/-- Two frames of a flow to package 5 sent in cc 10, numbered 1 and 2. -/
def sentState (resendAt : Option Nat) : State :=
  let g (n : BitVec 24) : SentFrame := { frame := { frame 1 0 0 [] with src := 0, dst := 5, seq := n }, at_ := 10 }
  { st0 with
    cycle := 40000
    port := { tx := [{ key := ⟨false, false, 0, 5, 5, 6⟩, next := 3, window := [g 1, g 2], resendAt }] } }

/-- A flow to package 5 whose window is full of what is sent, and which keeps a frame back. -/
def sent1 : SentFrame := { frame := { frame 1 0 0 [] with src := 0, dst := 5, seq := 1 }, at_ := 10 }
def keptState : State :=
  let f : TxFlow := { key := ⟨false, false, 0, 5, 5, 6⟩, next := 3, window := [sent1], waiting := [{ sent1 with frame := { sent1.frame with seq := 2 } }] }
  { st0 with port := { tx := [f] } }

/-- A request of the flow of the frames, before intake and behind 63 others. -/
def flowRequest : Request :=
  { source := 0, num := 0, pred := none, tenant := 5, context := 6, addr := 0, kind := .read 1, reply := some (frame 2 0 0 []) }
def busyState : State := { st0 with requests := [flowRequest] }
def fullState : State := { st0 with requests := List.replicate 64 { flowRequest with reply := none } }

/-- The saved item of `getState`. -/
def savedGet (held : List (Nat × List Byte)) : State := { st0 with saved := [{ slot := (getState 16).cur, held, since := 0 }] }

def launchFrame : Frame := frame 6 1 7 (bytesOf 256 goodRecord.toNat)

/-- A frame as it stands on the wire, after 12 bytes of addresses. -/
def onWire (f : Frame) : List Byte := List.replicate 12 0 ++ etherBytes f

def pay : List Byte := List.replicate 16 7

/-- For FramesAndFlows: frames of one tag or none whose payloads fill them; a frame in order, one after a gap, a duplicate, one
of tenant 0, one with an odd length; a result of 8 bytes; a flow with a request ahead and without; an intake with room and without. -/
theorem witness_frames :
    let s := st0
    let f := frame 1 1 0 pay
    let x := rxFlow s (flowOf f)
    ((f.kind ≠ 0 ∧ f.kind.toNat < 12 ∧ f.payload.length % 16 = 0) ∧ (frame 1 1 0 (List.replicate 8192 0)).payload.length ≤ 8192)
    ∧ (s.mgmt.powered = true ∧ s.port.up = true ∧ f.hd = false ∧ f.dst = s.devid ∧ f.tenant ≠ 0 ∧ f.seq = x.expected
        ∧ (frame 1 2 0 []).seq - x.expected = 1 ∧ 2 ^ 23 ≤ ((frame 1 0 0 []).seq - x.expected).toNat)
    ∧ ((frame 1 1 0 [1]).payload.length % 16 ≠ 0 ∧ (frame 7 1 0 (List.replicate 8 0)).payload.length = 8
        ∧ { f with tenant := 0 }.tenant = 0 ∧ { f with tenant := 0 }.hs = false)
    ∧ (flowBusy s f = false ∧ flowBusy busyState f = true ∧ heldFull s (frame 3 1 0 pay) = false
        ∧ heldFull (savedGet [(7, List.replicate 65536 0)]) { frame 3 1 (16 + 65536) pay with rpa := 0x20000 } = true)
    ∧ (intakeFull s = false ∧ intakeFull fullState = true)
    ∧ (16 ≤ (frame 2 1 (2 ^ 24) []).aux.toNat ∧ (frame 2 1 (2 ^ 24) []).aux.toNat ≤ 2 ^ 24 ∧ (frame 2 1 15 []).aux.toNat < 16) := by
  refine ⟨?_, ?_, ?_, ?_, ?_, ?_⟩ <;> decide +kernel

/-- For FramesAndFlows: data for a GET; a launch that a queue accepts, one whose queue is full; a transfer that is refused, resident
and saved; a flow with frames to acknowledge and to send again, and with frames kept back; an acknowledgement that is due, at the
boundary. -/
theorem witness_frame_effects :
    let g := getState 0
    let f := frame 3 1 0 pay
    let e := frame 11 1 9 []
    let l := launchState
    let due (n : Nat) : State := { st0 with port := { rx := [{ key := flowOf f, expected := 2, unacked := 1, unackedSince := n }] } }
    ((netOpFor g f (getMatches f)).isSome = true ∧ slotOf g g.cur.id = some g.cur ∧ isDet g.cur = false
        ∧ ownsRange g.cur 0x40000 16 = true ∧ f.payload.length = 16)
    ∧ (queueFull l 7 = false ∧ (submit l 7 goodRecord (some 5)).isSome = true
        ∧ queueFull { l with mgmt := { l.mgmt with intakeOpen := false } } 7 = true
        ∧ submit { l with mem := ssetRange 0 launchMem 0x48011 [0x08] } 7 goodRecord (some 5) = none)
    ∧ (((openTransfers (getState 16)).find? (fun x => netMatches e x.1 x.2 true || netMatches e x.1 x.2 false)).isSome = true
        ∧ holdsItem (getState 16).cur (itemKey (getState 16).cur) (bornAt (getState 16).cur) = true
        ∧ ((openTransfers (savedGet [])).find? (fun x => netMatches e x.1 x.2 true || netMatches e x.1 x.2 false)).isSome = true
        ∧ (getState 16).cur.item.isSome = true)
    ∧ ((txFlow (sentState none) ⟨false, false, 0, 5, 5, 6⟩).map (fun t => t.window.length) = some 2
        ∧ ((sentState none).port.tx.all (fun y => y.waiting.isEmpty)) = true ∧ keptState.port.tx.length = 1
        ∧ 10 + 16 * (sentState none).port.retransmit ≤ 40000)
    ∧ ((rxFlow (due 68) (flowOf f)).unacked ≠ 0 ∧ (rxFlow (due 68) (flowOf f)).unackedSince + 32 ≤ st0.cycle) := by
  refine ⟨?_, ?_, ?_, ?_, ?_⟩ <;> decide +kernel

/-- For FramesAndFlows: frames of flow control, of another EtherType and with two tags, with a wrong version, and of a reserved kind
with a right CRC; a port that fails, with 64 drops and not with 63, with an open transfer and without. -/
theorem witness_damage :
    let flow : List Byte := List.replicate 12 0 ++ [0x88, 0x08]
    let tagged : List Byte := List.replicate 12 0 ++ [0x81, 0, 0, 1, 0x81, 0, 0, 1, 0x9A, 0x4C]
    let wrong : List Byte := List.replicate 12 0 ++ [0x9A, 0x4C] ++ List.replicate 32 0
    let kind12 := onWire (frame 12 1 0 [])
    let h := leNat ((kind12.drop 14).take 32)
    let drops (n : Nat) : State := { st0 with port := { drops := List.replicate n 100 } }
    (etherWord flow 12 = 0x8808 ∧ etherTags tagged = 2 ∧ etherWord tagged 12 ≠ 0x8808)
    ∧ (etherTags wrong = 0 ∧ etherWord wrong 12 = 0x9A4C ∧ wrong.length ≤ 8242 ∧ 32 ≤ (wrong.drop 14).length
        ∧ leNat ((wrong.drop 14).take 32) / 2 ^ 252 % 16 ≠ 1)
    ∧ (etherTags kind12 = 0 ∧ etherWord kind12 12 = 0x9A4C ∧ h / 2 ^ 252 % 16 = 1 ∧ h / 2 ^ 248 % 16 = 12
        ∧ (crc32c (bytesOf 28 (h / 2 ^ 32))).toNat = h % 2 ^ 32)
    ∧ (portFails (drops 64) .drops = true ∧ portFails (drops 63) .drops = false ∧ portFails st0 .lockLost = true)
    ∧ (openTransfers st0 = [] ∧ (openTransfers (getState 16)).map (fun x => (x.1.id, x.2.id)) = [(⟨0, false⟩, 7)]
        ∧ slotOf (getState 16) ⟨0, false⟩ = some (getState 16).cur) := by
  refine ⟨?_, ?_, ?_, ?_, ?_⟩ <;> decide +kernel

/-- A PUT is a request and waits for its acknowledgement, which the sixteenth frame sends; a gap and a full intake answer NAK, and
a duplicate ACK; an odd length is dropped; the data of a GET lands; an ACK frees the frames up to its number and sends what was
kept back, and a NAK for FULL waits 50 rt; a frame that is due goes again; the port goes down. -/
theorem test_frames :
    let run (i : Instr) (s : State) := (after i s).map (fun t => t.port.wire.map (fun f => (f.kind, f.ack, f.aux)))
    let k : FlowKey := ⟨false, false, 0, 5, 5, 6⟩
    let many : State := { st0 with port := { rx := [{ key := flowOf (frame 1 1 0 []), unacked := 15 }] } }
    let ack (seq : Nat) (kind : BitVec 4) : Frame := frame kind seq 1 []
    (after (.framePut (frame 1 1 0 pay)) st0).map (fun t => (t.requests.map (fun r => (r.addr, r.kind)), t.port.wire))
        = some ([(0x20000, .write pay)], [])
    ∧ run (.framePut (frame 1 1 0 pay)) many = some [(4, 1, 0)]
    ∧ run (.framePut (frame 1 2 0 pay)) st0 = some [(5, 1, 0)]
    ∧ run (.framePut (frame 1 1 0 pay)) fullState = some [(5, 1, 1)]
    ∧ run (.framePut (frame 1 0 0 pay)) st0 = some [(4, 0, 0)]
    ∧ (after (.framePut (frame 1 1 0 [1])) st0).map (fun t => (t.requests.length, t.port.dropped)) = some (0, 1)
    ∧ (after (.frameGetdata (frame 3 1 0 pay)) (getState 0)).map (fun t =>
        (bankByte t.cur 0x4000F, bankByte t.cur 0x40010, granuleFull t.cur 0x4000, granuleFull t.cur 0x4001)) = some (7, 0, true, false)
    ∧ (after (.frameAck (ack 1 4)) (sentState none)).map (fun t => t.port.tx.map (fun x => x.window.map (fun p => p.frame.seq))) = some [[2]]
    ∧ (after (.frameAck (ack 1 4)) keptState).map (fun t => t.port.wire.map (fun f => f.seq)) = some [2]
    ∧ (after (.frameNak (ack 1 5)) (sentState none)).map (fun t => t.port.tx.map (fun x => (x.fulls, x.resendAt))) = some [(1, some 40800)]
    ∧ (after (.retransmitTimeout (.flow k)) (sentState none)).map (fun t => t.port.wire.map (fun f => f.seq)) = some [2, 1]
    ∧ (after (.portDown ⟨.ethernet, .lockLost⟩) (sentState none)).map (fun t => (t.port.up, t.port.tx, t.port.notices))
        = some (false, [], [none, some 5]) := by
  refine ⟨?_, ?_, ?_, ?_, ?_, ?_, ?_, ?_, ?_, ?_, ?_, ?_⟩ <;> decide +kernel

/-- A frame reads back from its bytes, and an LRESULT answers a LAUNCH frame (R456). -/
theorem test_frame_bytes :
    (parseFrame (frameBytes (frame 1 7 9 pay))).map (fun f => (f.seq, f.aux, f.payload)) = some (7, 9, pay)
    ∧ (after (.frameLaunch launchFrame) launchState).map (fun t => t.port.wire.map (fun f => (f.kind, f.dst, leNat f.payload)))
        = some [(7, 5, 0x40000)] := by
  refine ⟨?_, ?_⟩ <;> decide +kernel

/-- The CRC of zeros is zero. -/
theorem crc64_zeros (n : Nat) : crc64 (List.replicate n 0) = 0 := by
  unfold crc64
  induction n with
  | zero => rfl
  | succ n ih =>
    rw [List.replicate_succ, List.foldl_cons]
    exact ih

/-- For LinkEvents: a link that is not in training and expects number 0, a flit of zeros with its CRC, and one without; a NAK
that leaves flits to send, the sixteenth in succession and the first, and one that leaves none; a link in training. -/
theorem witness_links :
    let l : UcieState := { expected := 0 }
    let good : List Byte := List.replicate 256 0
    let r : UcieState := { next := 2, replay := [good, good], resends := 15 }
    (l.training = false ∧ (crc64 (good.take 248)).toNat = leNat (good.drop 248) ∧ good.length = 256
      ∧ l.expected.toNat = leNat (good.take 2) ∧ ([] : List Byte).length ≠ 256 ∧ l.retrainFails < 2)
    ∧ ((0#16 + 1 - 1 - (r.next - BitVec.ofNat 16 r.replay.length)).toNat = 0 ∧ 16 ≤ r.resends + 1
      ∧ (2#16 - 1 + 1 - (r.next - BitVec.ofNat 16 r.replay.length)).toNat = 2 ∧ { r with training := true }.training = true) := by
  refine ⟨⟨rfl, ?_, by decide +kernel, by decide +kernel, by decide +kernel, by decide +kernel⟩, by decide +kernel⟩
  have h : (List.replicate 256 (0 : Byte)).take 248 = List.replicate 248 0 := by decide +kernel
  simp only [h, crc64_zeros]
  decide +kernel

/-- A chain link 0 to package 2 with a packet in its window, sent in cc 10. -/
def packet1 : ChainPacket :=
  { srcDev := 0, dstDev := 2, srcCore := 0, srcSlot := false, core := 0, slot := false, tag := 0, tenant := 5, context := 6, seq := 1, index := 0
    count := 1, data := [] }
def chainState (l : ChainLink) : State := { st0 with devid := 0x10000, cycle := 40000, chains := st0.chains.set 0 l }
def sentLink (resends : Nat) : ChainLink := { window := [{ packet := packet1, at_ := 10, resends }], next := 2 }

/-- For LinkEvents: a link with a packet that is due, in its back-off and not; links that go down by their drops, by their resends, by
their lock, with a window that another link takes and with none; a link that comes up; a link of another package. -/
theorem witness_chain_links :
    let s := chainState (sentLink 0)
    let l := s.chains[(0 : Fin 8)]
    let down (l : ChainLink) : State := chainState { l with up := false, window := [], drops := [], resendAt := none }
    (s.mgmt.powered = true ∧ l.up = true ∧ l.window.length = 1 ∧ l.resendAt = none ∧ 10 + 16 * l.retransmit ≤ s.cycle)
    ∧ (({ sentLink 0 with resendAt := some 40000 } : ChainLink).resendAt = some 40000)
    ∧ ((5 : BitVec 18) ≠ s.devid)
    ∧ (64 ≤ ((List.replicate 64 39999).filter (fun c => s.cycle < c + 1600000)).length
        ∧ ((sentLink 8).window.any (fun p => decide (8 ≤ p.resends))) = true)
    ∧ (({} : ChainLink).window = [] ∧ (routeLink (down (sentLink 0)) 0 packet1.dstDev).isSome = true)
    ∧ ({ ({} : ChainLink) with up := false }.up = false) := by decide +kernel

/-- A retraining that fails is counted, and the third failure in succession is the package's. -/
theorem test_links :
    let s (n : Nat) : State := { queued launch1 with ucie := st0.ucie.set 0 { retrainFails := n } }
    ([1, 2].map (fun n => (after (.linkRetrain (.ucie .compute) false) (s n)).map (fun t =>
      (t.mgmt.failed, (launchOf t 7 1).map (fun l => l.failed))))) = [some (false, some false), some (true, some true)] := by decide +kernel
/-! ## Management, power and temperature -/

/-- A host registered; tenant 5 with a context whose tables map 0x1_0000; an item of queue 7 that waits for the answers on two pages. -/
def managed : State :=
  let s := running7 { launch1 with next := 1, running := 1 } (fun t => { t with answer := some ⟨5, 6, [4, 9], 90⟩ })
  { s with
    mem := launchMem, tenants := [{ id := 5, keys := [0] }], table := []
    pageFaults := [{ tenant := 5, context := 6, vpage := 4, owner := refOf s.cur 0, handle := none }] }

/-- A request of host 0, and one of host 3. -/
def mgmt0 : MgmtHead := { host := 0 }
def mgmt3 : MgmtHead := { host := 3 }

/-- No bucket of a table as it is at reset is on the move. -/
theorem still_buckets (s : State) (h : s.table = []) (n : Nat) : lineHeld s n = false := by
  have small (k : Nat) : (BitVec.ofNat 16 (k % 64)).extractLsb' 14 2 = 0 := by
    apply BitVec.eq_of_toNat_eq
    rw [BitVec.extractLsb'_toNat, BitVec.toNat_ofNat, Nat.shiftRight_eq_div_pow]
    show _ = 0
    omega
  unfold lineHeld tableEntry
  rw [h]
  simp only [sget, small]
  decide

/-- For ManagementRequests: a host that is registered and one that is not, before the boot is done and after, over a port that is down; a
request in order, one ahead, a duplicate, one behind a frame of its flow; nothing on the move. -/
theorem witness_management_heads :
    let s := managed
    let x := rxFlow s ⟨true, false, 0, s.devid, 0, 0⟩
    let busy : State := { s with requests := [{ flowRequest with reply := some (requestFrame s mgmt0 1) }] }
    (requestOf (.mgmtSetDevid mgmt0 7) = some (mgmt0, 0x01) ∧ s.mgmt.powered = true ∧ mgmt0.host ∈ s.mgmt.hosts ∧ mgmt3.host ∉ s.mgmt.hosts
        ∧ s.port.up = true ∧ 25 ≤ s.mgmt.boot.stage ∧ { s.port with up := false }.up = false)
    ∧ (mgmt0.seq = x.expected ∧ (2 - x.expected).toNat = 1 ∧ 2 ^ 23 ≤ (0 - x.expected).toNat ∧ flowBusy busy (requestFrame s mgmt0 1) = true
        ∧ s.requests ++ s.intake = [])
    ∧ ((∀ d : Fin 2, s.moves[d] = none) ∧ (∀ n, lineHeld s n = false) ∧ ∀ n : Fin 5, s.ucie[n].training = false) := by
  refine ⟨by decide +kernel, by decide +kernel, by decide +kernel, still_buckets _ rfl, by decide +kernel⟩

/-- For ManagementRequests: queues before the first launch and after; a context that is there and one that is not; faults to
answer; a launch whose one item can be saved; a range to read an object from, to a page in use and to a free one; an entry to map and one to replace or to
move; a tenant with keys. -/
theorem witness_management :
    let s := managed
    let entry : Nat := leNat (tableLeaf 0x70000 8)
    let levels := [0, 1, 2, 3, 4]
    ((∀ p ∈ st0.queues, p.2.accepted = 0) ∧ ¬ (∀ p ∈ s.queues, p.2.accepted = 0))
    ∧ ((contextOf s 5 6).map (fun c => c.root) = some 0x40000 ∧ contextOf s 5 7 = none ∧ (0x50000 : BitVec 52).toNat % 4096 = 0
        ∧ isMemory 0x50000 = true)
    ∧ (slotOf s ⟨0, false⟩ = some s.cur ∧ s.cur.answer.map (fun a => (a.tenant, a.context, a.pages)) = some (5, 6, [4, 9])
        ∧ s.pageFaults.length = 1 ∧ (launchOf s 7 1).isSome = true)
    ∧ (launchSlots s 7 1 = [⟨0, false⟩] ∧ slotRuns s.cur 7 1 = true ∧ s.cur.item = some item7 ∧ launchOf s 7 2 = none)
    ∧ ((contextRead s 5 6 0x10000 16).isSome = true ∧ (itemSlots s).length = 1
        ∧ [0x10000, 0x70000].map (fun dest => (mapCode s ⟨5, 6, 0x40000, 2⟩ dest 0x30000 1).map (fun t =>
          (t.2.length, t.2.all (fun l => !classLoaded t.1 l.1)))) = [some (1, true), some (0, true)])
    ∧ (leafAt s 5 6 0x70000 0x40000 levels = none ∧ requestLevel entry none = some 4
        ∧ (leafWith s 0x70000 4 0x40000 levels).map (fun r => (r.2, leavesOf r.1 5 6 0x70000 4 r.2)) = some (0x48070, []))
    ∧ ((leafAt s 5 6 0x10000 0x40000 levels).map (fun r => (r.1.size, r.2)) = some (0, 4)
        ∧ (leafAt s 5 6 0x10000 0x40000 levels).bind (fun r => requestLevel 0 (some r)) = some 4
        ∧ (leafWith s 0x10000 4 0x40000 levels).map (fun r => (r.2, (memNat r.1 r.2 16).testBit 11, (leavesOf r.1 5 6 0x10000 4 r.2).length))
            = some (0x48010, false, 1)
        ∧ (0x30000 : BitVec 52).toNat % pageBytes 0 = 0 ∧ isMemory 0x30000 = true ∧ requestLevel 5 none = none)
    ∧ ((s.tenants.find? (fun t => t.id = 5)).isSome = true ∧ s.tenants.find? (fun t => t.id = 6) = none) := by
  refine ⟨?_, ?_, ?_, ?_, ?_, ?_, ?_, ?_⟩ <;> decide +kernel

/-- For ManagementRequests: the item of the launch can be saved. -/
theorem witness_preempt : savable managed managed.cur := by
  refine ⟨rfl, rfl, rfl, ?_, ⟨?_, ?_⟩, ?_, ?_⟩
  · decide +kernel
  · decide +kernel
  · decide +kernel
  · intro u h
    cases h
  · decide +kernel

/-- For ManagementRequests: where a signature verifies and an object's bytes have a layout that R463 admits, the object is there. -/
theorem witness_object
    (hl : Config.objectLayout (List.replicate 2484 0) = { magic := 0x424F4B53, version := 1, count := 0, length := 2484, table := (0, 0)
                                                          entries := [], lpf := (0, 0), lpfDigest := sha3 [], signature := 0 })
    (hv : Config.mldsaVerify 0 (sha3 []) (List.replicate 2420 0) = true) :
    (signedObject managed 5 (List.replicate 2484 0)).isSome = true := by
  have e1 : sectionBytes (List.replicate 2484 0) (0, 2420) = List.replicate 2420 0 := by decide +kernel
  have e2 : sectionBytes (List.replicate 2484 0) (2420, 32) = List.replicate 32 0 := by decide +kernel
  have e3 : sectionBytes (List.replicate 2484 0) (0, 0) = [] := rfl
  have e4 : (sectionBytes (List.replicate 2484 (0 : Byte)) (2452, 32)).all (fun b => b = 0) = true := by decide +kernel
  have e5 : leNat (List.replicate 32 0) = 0 := by decide +kernel
  have e6 : ((managed.tenants.find? (fun t => t.id = 5)).map (fun t => t.keys)) = some [0] := by decide +kernel
  have e7 : (List.replicate 2484 (0 : Byte)).length = 2484 := List.length_replicate
  revert hl hv e1 e2 e3 e4 e5 e6 e7
  generalize List.replicate 2484 (0 : Byte) = bs
  generalize List.replicate 2420 (0 : Byte) = sig
  generalize List.replicate 32 (0 : Byte) = zeros
  intro hl hv e1 e2 e3 e4 e5 e6 e7
  have ok : parseObject bs = some { variants := [], lpf := [], signedLen := 0, signature := sig, keyHash := 0 } := by
    simp only [parseObject, objectOk, hl, e3, e1, e2, e4, e5]
    simp [sectionOk, signatureBytes, e7]
  rw [signedObject, ok]
  cases h : managed.tenants.find? (fun t => t.id = 5) with
  | none => rw [h] at e6; cases e6
  | some t =>
    rw [h] at e6
    have k : t.keys = [0] := by simpa using e6
    simp [Option.filter, k]
    exact hv

/-- For PowerAndTemperature: a package with power and without; one in the boot at a stage that is due, at the handshake, and at the
end; an image that runs where its signature verifies, and one that does not; an interval above the cap. -/
theorem witness_power :
    let booting (n due : Nat) : State := { st0 with mgmt := { st0.mgmt with boot := { stage := n, due } } }
    ({ st0 with mgmt := { powered := false } } : State).mgmt.powered = false ∧ st0.mgmt.powered = true
    ∧ ((booting 5 100).mgmt.boot.stage < 48 ∧ (booting 5 100).mgmt.boot.due ≤ st0.cycle ∧ st0.cycle < (booting 5 101).mgmt.boot.due
        ∧ (booting 24 0).mgmt.boot.stage = 24 ∧ 48 ≤ st0.mgmt.boot.stage)
    ∧ (st0.port.up = true ∧ Config.minFirmware ≤ Config.minFirmware)
    ∧ (launchOf managed 7 1).isSome = true ∧ ⟨0, false⟩ ∈ launchSlots managed 7 1 ∧ managed.mgmt.cap < 1251 := by
  refine ⟨?_, ?_, ?_, ⟨?_, BitVec.le_refl _⟩, ?_, ?_, ?_⟩ <;> decide +kernel

/-- The device ID changes before the first launch alone (R458); an answered page leaves the other to be answered, and a declined
one ends the launch (R434); the item is saved; an entry is written; a mapping that goes is invalidated; a cap below 400 W is
refused, and 400 W is not; no power keeps nothing; 100 °C, 95 °C and 94 °C at a die (R472). -/
theorem test_management :
    let s := managed
    let m := mgmt0
    (after (.mgmtSetDevid m 7) st0).map (fun t => (t.devid, t.port.wire.length)) = some (7, 1)
    ∧ (after (.mgmtSetDevid mgmt3 7) st0).map (fun t => (t.devid, t.port.wire.length)) = some (0, 0)
    ∧ (after (.mgmtSetDevid m 7) s).map (fun t => t.devid) = some 0
    ∧ (after (.mgmtPageFaultAnswer m 5 6 4 true) s).map (fun t => (t.cur.answer.map (fun a => a.pages), t.pageFaults)) = some (some [9], [])
    ∧ (after (.mgmtPageFaultAnswer m 5 6 4 false) s).map (fun t => (launchOf t 7 1).map (fun l => l.failed)) = some (some true)
    ∧ (after (.mgmtPreempt m 7 1 .midItem) s).map (fun t => (t.saved.length, t.cur.item, t.contexts.map (fun c => c.areas))) = some (1, none, [1])
    ∧ (after (.mgmtMapPages m 5 6 0x70000 (BitVec.ofNat 128 (leNat (tableLeaf 0x70000 8)))) s).map (fun t =>
        walk t 5 6 0x70000) = some (.leaf { tenant := 5, context := 6, vpage := 7, size := 0, pbase := 7, perm := 8, lat := 0, kdh := 0 } true)
    ∧ (after (.mgmtMapPages m 5 6 0x10000 0) s).map (fun t => (t.shootdowns.map (fun x => x.unreached), walk t 5 6 0x10000))
        = some ([[⟨0, false⟩]], .fault 0x22 4)
    ∧ ([399, 400, 1250, 1251].map (fun w => (after (.mgmtPowerCap m w) s).map (fun t => t.mgmt.cap)))
        = [some 1250, some 400, some 1250, some 1250]
    ∧ (after .powerRemoval s).map (fun t => (t.mem, t.mgmt.powered)) = some ([], false)
    ∧ ([100, 99, 95, 94].map (fun n => (after (.thermalWithhold 1 n) (setWithheld s 1 true)).map (fun t => t.mgmt.withheld[1])))
        = [some true, some true, some true, some false] := by
  refine ⟨?_, ?_, ?_, ?_, ?_, ?_, ?_, ?_, ?_, ?_, ?_⟩ <;> decide +kernel

/-- Each boot stage in its turn, the port at its own, and the handshake waits at stage 24 (R470). -/
theorem test_boot :
    let booting (n : Nat) : State := { st0 with port := { up := false }, mgmt := { st0.mgmt with boot := { stage := n, due := 0 } } }
    ([0, 22, 24, 47].map (fun n => (after (.powerUp (n + 1)) (booting n)).map (fun t => (t.mgmt.boot.stage, t.mgmt.boot.due, t.port.up))))
      = [some (1, 32100, false), some (23, 101, true), some (24, 0, false), some (48, 101, false)] := by decide +kernel

/-! ## The machine as a whole -/

/-- A program at the start of the code region. -/
def program (bs : List Byte) (f : Slot → Slot := id) : State := { with0 f with mem := ssetRange 0 [] 0 bs }

def addWord : Nat := leNat (bytesOf 4 (1 + 0x10 * 4 + 3 * 2 ^ 9 + 1 * 2 ^ 15 + 2 * 2 ^ 21))

/-- The word of an instruction of 64 bits, and a record, as bytes. -/
def wordBytes (i : Instr) : List Byte := bytesOf 8 ((encodeWord i).getD 0).toNat
def recordBytes (i : Instr) : List Byte := bytesOf 64 ((encodeRecord i).getD 0).toNat

/-- A slot whose matrix or copy stream runs a record. -/
def matrixProgram (bs : List Byte) : State := program bs (fun t => { t with ctl := {}, mx := { running := true, pc := 0x10000 } })
def copyProgram (bs : List Byte) : State := program bs (fun t => { t with ctl := {}, cp := { running := true, pc := 0x10000 } })

/-- What words or a record decode to, or the cause with which they are rejected. -/
def decoded (x : Except Nat Instr) : Option Instr × Nat := match x with | .ok i => (some i, 0) | .error c => (none, c)

/-- A machine in which nothing is due and nothing issues, and one in which another core's slot has something to issue. -/
def idleState : State := with0 (fun t => { t with ctl := {} })
def otherState : State := { program (bytesOf 4 addWord) with cur := idleState.cur, rest := [{ slot0 with id := ⟨1, false⟩ }] }

/-- Two members of a troupe that store to one another. -/
def memberOf (rank : Nat) (at_ : Word) : Slot :=
  { slot0 with id := ⟨BitVec.ofNat 8 rank, false⟩, item := some { item0 with index := rank, rank, size := 2 }, g := regs [(1, 5), (6, at_)] }
def troupeState (turn : Bool) : State :=
  let bs := wordBytes (.stfe { o64 1 6 0 with c := 8 })
  let a := memberOf 0 0x100440110
  let b := memberOf 1 0x100040110
  { program bs with cur := if turn then b else a, rest := [if turn then a else b] }

/-- For StepRunsTheDecodedInstruction: an event on the agenda, and a package without power; a fetch in the code region, past its
end and of a poisoned granule; code of which the line is on the move. -/
theorem witness_fetches :
    let s := program (bytesOf 4 addWord)
    let base := recCodeva s.cur.record
    ({ s with agenda := [.walkerStep 0] }.agenda = [.walkerStep 0] ∧ s.agenda = [] ∧ { s.mgmt with powered := false }.powered = false)
    ∧ (base ≤ 0x10000 ∧ 0x10000 + 4 ≤ base + recCodelen s.cur.record ∧ pinnedPa s.cur 0x10000 4 = some 0
        ∧ base + recCodelen s.cur.record < base + recCodelen s.cur.record + 1 ∧ base - 1 < base
        ∧ poisoned s 0 4 = false ∧ poisoned { s with poison := [(0, true)] } 0 4 = true)
    ∧ (nextTurn s = .stream 6 .control ∧ s.cur.ending = [] ∧ (fetched s .control).isSome = true
        ∧ (fetched (setTable s (bucketKey 0) 0x4000) .control).isNone = true) := by
  refine ⟨?_, ?_, ?_⟩ <;> decide +kernel

/-- For StepRunsTheDecodedInstruction: a word that decodes and one that does not, of one word, of two and of three; one at the end of
the code region, of which the second word or the third cannot be fetched. -/
theorem witness_words :
    let s := program (bytesOf 4 addWord)
    let two := program (bytesOf 8 (2 + 0x10 * 4))
    let three := program (bytesOf 12 (3 + 0x26 * 4))
    let last (n : Nat) : Nat := 0x10000 + recCodelen probeRecord - n
    let fetch (s : State) (n : Nat) := (fetchBytes s s.cur 0x10000 n).toOption
    (fetch s 4 = some addWord ∧ addWord % 4 < 2)
    ∧ (decoded (decodeWord (kindOf s.cur) (BitVec.ofNat 96 addWord)) = (some (.add { fmt := .c32, d := 3, a := 1, b := 2, fn := 0 }), 0)
        ∧ decoded (decodeWord (kindOf s.cur) 0) = (none, 1))
    ∧ ((fetch two 4).map (fun w => w % 4) = some 2 ∧ (fetch three 4).map (fun w => w % 4) = some 3
        ∧ (fetch two 8).isSome = true ∧ (fetch three 12).isSome = true)
    ∧ ((fetchBytes s s.cur (last 4) 4).toOption.isSome = true ∧ (fetchBytes s s.cur (last 4 + 4) 4).toOption.isNone = true
        ∧ (fetchBytes s s.cur (last 8 + 8) 4).toOption.isNone = true) := by
  refine ⟨?_, ?_, ?_, ?_⟩ <;> decide +kernel

/-- For StepRunsTheDecodedInstruction: records of the two streams that decode, one that does not, and one that the format of its bank
forbids. -/
theorem witness_streams :
    let mx := matrixProgram (bytesOf 64 0x0B)
    let cp := copyProgram (bytesOf 64 0x47)
    (nextTurn mx = .stream 4 .matrix ∧ nextTurn cp = .stream 5 .copy)
    ∧ ((fetchBytes mx mx.cur 0x10000 64).toOption = some 0x0B
        ∧ decoded (decodeRecord (kindOf mx.cur) true 0x0B) = (some (.mxend { q := 0, stamp := 0 }), 0)
        ∧ decoded (decodeRecord (kindOf mx.cur) true 0) = (none, 1) ∧ recordForbidden mx (.mxend { q := 0, stamp := 0 }) = false)
    ∧ decoded (decodeRecord (kindOf cp.cur) false 0x47) = (some (.cpyend { q := 0 }), 0)
    ∧ recordForbidden (with0 (fun t => { t with bfmt := t.bfmt.set 1 0x4000000 })) (.mxdrain {} { dst := 0x40000 }) = true := by
  refine ⟨?_, ?_, ?_, ?_⟩ <;> decide +kernel

/-- For StepRunsTheDecodedInstruction: a cc in which nothing is left; an event of the first stage; an issue of another slot; the
walkers after everything else; SYSWR of a BFMT, STFE, FESET and FECLR in their stages; two members of a troupe that store to
one another, of which the lower rank goes first, in its own turn and in the other's; a copy to a member's bank. -/
theorem witness_turns :
    let w := withWork .none id
    let q := queued launch1
    let first (i : Instr) := program (wordBytes i)
    let o : Opnd := { o64 0 1 0 with c := 8 }
    let due (s : State) (k : Nat) : List Instr := (dueEvents s).filter (fun i => eventStage s i = k && acts s i)
    ((List.range 10).all (fun k => (due idleState k).isEmpty && (issuers idleState k).isEmpty) = true)
    ∧ (due w 0 = [.recordComplete ⟨0, false⟩ 3 1] ∧ nextTurn w = .event 0 (.recordComplete ⟨0, false⟩ 3 1))
    ∧ ((issuers otherState 6).map (fun t => t.id) = [⟨1, false⟩] ∧ due otherState 6 = [])
    ∧ (due q 9 = [.walkerStep 0] ∧ nextTurn q = .event 9 (.walkerStep 0))
    ∧ [Instr.syswrBfmt { o64 0 1 0 with fn := 1, imm16 := 0x41 }, .stfe { o64 2 1 0 with c := 8 }, .feset o, .feclr { o with fn := 1 }, .nop (o64 0 0 0)].map
        (fun i => (decoded ((fetchCtl (first i)).mapError (fun _ => 0)), ctlStage (first i)))
        = [((some (.syswrBfmt { o64 0 1 0 with fn := 1, imm16 := 0x41 }), 0), 1), ((some (.stfe { o64 2 1 0 with c := 8 }), 0), 1), ((some (.feset o), 0), 3),
            ((some (.feclr { o with fn := 1 }), 0), 3), ((some (.nop (o64 0 0 0)), 0), 6)] := by
  refine ⟨?_, ?_, ?_, ?_, ?_⟩ <;> decide +kernel

theorem witness_troupe_turns :
    let a := troupeState false
    let b := troupeState true
    let copied := moveState (moveWork false { bankBody with dkind := 2 }) (some bankStaged) {}
    ((issuers a 2).map (fun t => t.id) = [⟨0, false⟩, ⟨1, false⟩] ∧ nextTurn a = .stream 2 .control)
    ∧ ((leastBy troupeRank (issuers b 2)).map (fun t => t.id) = some ⟨0, false⟩ ∧ (nextTurn b matches .pass _))
    ∧ leastBy (eventRank copied) ((dueEvents copied).filter (fun i => eventStage copied i = 2 && acts copied i)) = some (.copyElement ⟨0, false⟩ 3 1) := by
  refine ⟨?_, ?_, ?_⟩ <;> decide +kernel

/-- For StepKeepsMemoryCanonical and EncodingsRoundTrip: canonical memory and a safe state that steps; a well-formed instruction and a
record with their encodings. -/
theorem witness_machine :
    let s := program (bytesOf 4 addWord)
    (Memory.wf s.mem = true ∧ (step s matches .next _))
    ∧ ((Instr.add { fmt := .c32, d := 3, a := 1, b := 2, fn := 0 }).wf .compute = true
        ∧ encodeWord (.add { fmt := .c32, d := 3, a := 1, b := 2, fn := 0 }) = some (BitVec.ofNat 96 addWord)
        ∧ (encodeRecord (.mxend { q := 2, stamp := 7 })).isSome = true)
    ∧ safe st0 = true := by
  refine ⟨?_, ?_, ?_⟩ <;> decide +kernel

end Sys2Proof.Tests
end

section
/-! SUPPORT. Empty sources and g0 (R234, R235, R428 to R431): an empty source stops an instruction where it reads the
source; a user trap with an armed handler enters the handler, or is held until the control stream is drained; g0 takes
no part in writes and deferred destinations. -/

namespace Sys2Proof.Machine

/-! ## g0 (R234) -/

@[simp] theorem gval_zero (t : Slot) : gval t 0#6 = 0 := rfl

@[simp] theorem gIsEmpty_zero (t : Slot) : gIsEmpty t 0#6 = false := rfl

@[simp] theorem setG_zero (t : Slot) (x : Word) : setG t 0#6 x = t := rfl

/-- A single result, which is for g0, changes the value of no register. -/
theorem gval_of_setsG_zero {s t : State} {z : Word} (h : setsG s t [(0, z)]) (r : BitVec 6) :
    gval t.cur r = gval s.cur r := by
  obtain ⟨-, hkept⟩ := h
  by_cases hr : r = 0
  · subst hr; simp
  · exact (hkept r (by simpa using Ne.symm hr)).1

/-- A producer whose single destination is g0 empties no register and changes no value. -/
theorem deferredTo_zero_keeps {s t : State} {o : Opnd} {z : Word} {fl : BitVec 6} {n : Nat}
    (h : deferredTo s t o [(0, z)] [] fl n) (r : BitVec 6) :
    gval t.cur r = gval s.cur r ∧ gIsEmpty t.cur r = gIsEmpty s.cur r := by
  obtain ⟨-, -, hg, -⟩ := h
  refine ⟨(hg r).1, ?_⟩
  by_cases hr : r = 0#6
  · subst hr; simp
  · simpa [Ne.symm hr] using (hg r).2

/-! ## The slot that has the turn -/

@[simp] theorem slotOf_cur (s : State) : slotOf s s.cur.id = some s.cur := if_pos rfl

@[simp] theorem modSlot_cur (s : State) (f : Slot → Slot) : modSlot s s.cur.id f = onCur s f := if_pos rfl

/-- An update of the slot that has the turn that keeps its banks changes no byte. -/
theorem sameBytes_onCur {s : State} {f : Slot → Slot} (h : (f s.cur).banks = s.cur.banks) : sameBytes s (onCur s f) :=
  ⟨fun _ => rfl, fun a => congrArg (sget 0 · a) h⟩

/-! ## How a source ends an instruction (R235) -/

/-- The empty-register trap of a general register (R428). -/
def emptyRegTrap (r : BitVec 6) : FaultInfo := { code := 0x29, operand := regOperand 0 r.toNat }

theorem srcG_empty_trap {t : Slot} {r : BitVec 6} (h : gIsEmpty t r = true) :
    srcG t r true = .error (.fault (emptyRegTrap r)) := by
  simp [srcG, h, raise, emptyRegTrap]

theorem srcG_empty_block {t : Slot} {r : BitVec 6} (h : gIsEmpty t r = true) :
    srcG t r false = .error (.block (.gReg r)) := by
  simp [srcG, h, blockOn]

theorem issue_fault {s : State} {o : Opnd} {f : FaultInfo} (h : s.mgmt.powered = true) :
    issue s o (.error (.fault f)) = .next (takeFault s (ctlSite s o) f (codeOff s)) := by
  simp [issue, h]

theorem issue_block {s : State} {o : Opnd} {x : Obj} (h : s.mgmt.powered = true) :
    issue s o (.error (.block x)) = .next (blockCtl s x) := by
  simp [issue, h]

/-- An instruction whose first act is to read source a. -/
def readsAFirst (i : Instr) (o : Opnd) : Prop :=
  ∀ s, ∃ k : Word → Res State, exec i s = issue s o (srcG s.cur o.a o.feA >>= k)

theorem readsAFirst.exec_trap {i : Instr} {o : Opnd} {s : State} (hi : readsAFirst i o) (hp : s.mgmt.powered = true)
    (he : gIsEmpty s.cur o.a = true) (hfe : o.feA = true) :
    exec i s = .next (takeFault s (ctlSite s o) (emptyRegTrap o.a) (codeOff s)) := by
  obtain ⟨k, hk⟩ := hi s
  rw [hk, hfe, srcG_empty_trap he]
  exact issue_fault hp

theorem readsAFirst.exec_block {i : Instr} {o : Opnd} {s : State} (hi : readsAFirst i o) (hp : s.mgmt.powered = true)
    (he : gIsEmpty s.cur o.a = true) (hfe : o.feA = false) :
    exec i s = .next (blockCtl s (.gReg o.a)) := by
  obtain ⟨k, hk⟩ := hi s
  rw [hk, hfe, srcG_empty_block he]
  exact issue_block hp

/-- The integer forms with source a (R277 to R279). -/
def integerForms (o : Opnd) : List Instr :=
  [.add o, .sub o, .mul o, .and o, .or o, .xor o, .shl o, .shr o, .sar o, .rot o, .min o, .max o, .cmp o,
    .div o, .rem o, .addi o, .abs o, .sel o, .clz o, .popc o, .bfx o, .mov o]

theorem readsAFirst_of_mem_integerForms {o : Opnd} : ∀ i ∈ integerForms o, readsAFirst i o := by
  simp only [integerForms, List.forall_mem_cons, List.not_mem_nil, false_implies, implies_true, and_true]
  and_intros <;> exact fun _ => ⟨_, rfl⟩

theorem binaryOp_of_reads2 {s : State} {o : Opnd} {x y : Word} (h : reads2 s o x y) (f : Word → Word → Word × BitVec 6)
    (n : Nat) :
    binaryOp s o f n = .next (finishG s o o.d (f x (y + immOf o)).1 (f x (y + immOf o)).2 n) := by
  obtain ⟨⟨⟨hp, hd⟩, hx⟩, hy⟩ := h
  rw [binaryOp, hx, hy, hd]
  exact issue_ok hp

theorem execDiv_of_reads2 {s : State} {o : Opnd} {x y : Word} (h : reads2 s o x y) :
    execDiv o s = .next (finishL s o [(o.d, (divide o.fn x y).1)] [] (divide o.fn x y).2.2 o.feD (divLatency o.fn)) := by
  obtain ⟨⟨⟨hp, hd⟩, hx⟩, hy⟩ := h
  rw [execDiv, hx, hy, hd]
  exact issue_ok hp

/-! ## The fields of a report (R427) -/

theorem report_coff (s : State) (t : Slot) (w : Site) (f : FaultInfo) :
    (report s t w f).extractLsb' 161 32 = w.coff := by
  unfold report
  simp (disch := decide) only [BitVec.extractLsb'_append_eq_of_le]
  exact BitVec.extractLsb'_append_eq_right

theorem report_operand (s : State) (t : Slot) (w : Site) (f : FaultInfo) :
    (report s t w f).extractLsb' 320 64 = f.operand := by
  unfold report
  simp (disch := decide) only [BitVec.extractLsb'_append_eq_of_le]
  exact BitVec.extractLsb'_append_eq_right

theorem ctlSite_coff (s : State) (o : Opnd) : (ctlSite s o).coff = (codeOff s).extractLsb' 0 32 :=
  BitVec.setWidth_eq_extractLsb' (x := codeOff s) (by decide)

/-! ## Entry to the user handler (R431) -/

/-- Registers g60 to g63 on entry to the handler; every other one is as it was. -/
theorem gval_enterHandler (t : Slot) (rep : BitVec 512) (link : Word) (r : BitVec 6) :
    gval (enterHandler t rep link) r =
      if r = 63 then link else if r = 62 then rep.extractLsb' 320 64
      else if r = 61 then zx (rep.extractLsb' 161 32) else if r = 60 then rep.extractLsb' 0 64 else gval t r := by
  change gval (setG (setG (setG (setG t _ _) _ _) _ _) _ _) r = _
  simp [gval_setG]

theorem gval_enterHandler_of_lt (t : Slot) (rep : BitVec 512) (link : Word) {r : BitVec 6} (hr : r.toNat < 60) :
    gval (enterHandler t rep link) r = gval t r := by
  have hne (n : BitVec 6) (hn : 60 ≤ n.toNat) : r ≠ n := fun h => by subst h; omega
  rw [gval_enterHandler, if_neg (hne 63 (by decide)), if_neg (hne 62 (by decide)), if_neg (hne 61 (by decide)),
    if_neg (hne 60 (by decide))]

@[simp] theorem enterHandler_pc (t : Slot) (rep : BitVec 512) (link : Word) :
    (enterHandler t rep link).ctl.pc = t.trapv := rfl

@[simp] theorem armed_enterHandler (t : Slot) (rep : BitVec 512) (link : Word) :
    armed (enterHandler t rep link) = false := by simp [armed, enterHandler]

@[simp] theorem enterHandler_flags (t : Slot) (rep : BitVec 512) (link : Word) :
    (enterHandler t rep link).flags = t.flags := by simp [enterHandler]

@[simp] theorem enterHandler_banks (t : Slot) (rep : BitVec 512) (link : Word) :
    (enterHandler t rep link).banks = t.banks := by simp [enterHandler]

/-! ## A user trap of the control stream with an armed handler (R429, R430) -/

/-- The event of a user trap of the control stream. -/
def userEvent (s : State) (w : Site) (f : FaultInfo) : Event :=
  { report := report s s.cur w f, disp := 2, rank := 0, op := w.op, stream := some .control }

/-- A user trap of the control stream is the armed handler's, where nothing ends the launch in the cc. -/
theorem takeFault_armed {s : State} {w : Site} {f : FaultInfo} {link : Word} (hslot : w.slot = s.cur.id)
    (hsrc : w.source = 0) (hu : disposition f.code = 2) (ha : armed s.cur = true) (hend : s.cur.ending = []) :
    takeFault s w f link = takeHandled s s.cur (userEvent s w f) link := by
  simp [takeFault, hslot, hsrc, hu, ha, hend, userEvent, sourceStream]

theorem takeHandled_drained {s : State} {e : Event} {link : Word} (h : ctlDrained s s.cur = true) :
    takeHandled s s.cur e link = onCur s (fun t => enterHandler t e.report link) := by
  simp [takeHandled, h]

/-- The slot that holds a trap for its handler until the control stream is drained. -/
def holdTrap (t : Slot) (e : Event) (link : Word) : Slot :=
  { t with
    events := putEvent t.events e
    ctl := { t.ctl with pc := word (recCodeva t.record) + link, blocked := some .handler, issued := true } }

theorem takeHandled_not_drained {s : State} {e : Event} {link : Word} (h : ctlDrained s s.cur = false) :
    takeHandled s s.cur e link = onCur s (fun t => holdTrap t { e with stream := none } link) := by
  simp [takeHandled, h, holdTrap]

section
variable {i : Instr} {o : Opnd} {s : State} (hi : readsAFirst i o) (hp : s.mgmt.powered = true)
  (he : gIsEmpty s.cur o.a = true) (hfe : o.feA = true) (ha : armed s.cur = true) (hend : s.cur.ending = [])
include hi hp he hfe ha hend

/-- With an armed handler an empty source marked ! is the handler's. -/
theorem readsAFirst.exec_trap_armed :
    exec i s = .next (takeHandled s s.cur (userEvent s (ctlSite s o) (emptyRegTrap o.a)) (codeOff s)) := by
  rw [hi.exec_trap hp he hfe, takeFault_armed rfl rfl rfl ha hend]

theorem readsAFirst.enters_handler (hdr : ctlDrained s s.cur = true) : ∃ t, exec i s = .next t
    ∧ t.cur.ctl.pc = s.cur.trapv ∧ armed t.cur = false
    ∧ gval t.cur 60 = (report s s.cur (ctlSite s o) (emptyRegTrap o.a)).extractLsb' 0 64
    ∧ gval t.cur 61 = ((codeOff s).extractLsb' 0 32).setWidth 64
    ∧ gval t.cur 62 = regOperand 0 o.a.toNat ∧ gval t.cur 63 = codeOff s
    ∧ (∀ r, r.toNat < 60 → gval t.cur r = gval s.cur r) ∧ t.cur.flags = s.cur.flags ∧ sameBytes s t := by
  refine ⟨_, (hi.exec_trap_armed hp he hfe ha hend).trans (congrArg _ (takeHandled_drained hdr)),
    enterHandler_pc .., armed_enterHandler .., gval_enterHandler .., ?_, ?_, gval_enterHandler ..,
    fun r => gval_enterHandler_of_lt _ _ _, enterHandler_flags .., sameBytes_onCur (enterHandler_banks ..)⟩
  · rw [← ctlSite_coff s o, ← report_coff s s.cur (ctlSite s o) (emptyRegTrap o.a)]
    exact gval_enterHandler ..
  · exact (gval_enterHandler ..).trans (report_operand ..)

theorem readsAFirst.holds_trap (hdr : ctlDrained s s.cur = false) : ∃ t e, exec i s = .next t
    ∧ e.report = report s s.cur (ctlSite s o) (emptyRegTrap o.a)
    ∧ t.cur.events = putEvent s.cur.events e
    ∧ t.cur.ctl.blocked = some .handler ∧ t.cur.ctl.pc = word (recCodeva s.cur.record) + codeOff s
    ∧ (∀ r, gval t.cur r = gval s.cur r) ∧ t.cur.flags = s.cur.flags ∧ sameBytes s t :=
  ⟨_, _, (hi.exec_trap_armed hp he hfe ha hend).trans (congrArg _ (takeHandled_not_drained hdr)),
    rfl, rfl, rfl, rfl, fun _ => rfl, rfl, sameBytes_onCur rfl⟩

end

/-! ## Results for g0 (R234, R236) -/

theorem add_zero_discards {s : State} {o : Opnd} {x y : Word} (h : reads2 s o x y) (hd : o.d = 0) :
    ∃ t, exec (.add o) s = .next t ∧ (∀ r, gval t.cur r = gval s.cur r)
      ∧ t.cur.ctl.pc = s.cur.ctl.pc + word (Fmt.bytes o.fmt) := by
  obtain ⟨t, ht, hctl, -, hg, -⟩ := finishG_writes (i := .add o) (binaryOp_of_reads2 h _ _)
  rw [hd] at hg
  exact ⟨t, ht, gval_of_setsG_zero hg, by rw [hctl]⟩

theorem div_zero_defers {s : State} {o : Opnd} {x y : Word} (h : reads2 s o x y) (hd : o.d = 0) (hfe : o.feD = true) :
    ∃ t d, exec (.div o) s = .next t ∧ t.cur.deferred = s.cur.deferred ++ [d] ∧ d.gs.map (fun p => p.1) = [0]
      ∧ ∀ r, gval t.cur r = gval s.cur r ∧ gIsEmpty t.cur r = gIsEmpty s.cur r := by
  have hw : deferredTo s _ o _ _ _ _ := wroteLong_finishL s o [(0, (divide o.fn x y).1)] [] (divide o.fn x y).2.2 true
    (divLatency o.fn) (List.nodup_singleton _) List.nodup_nil
  have hexec := execDiv_of_reads2 h
  rw [hd, hfe] at hexec
  have hkeeps := deferredTo_zero_keeps hw
  obtain ⟨-, -, -, -, -, hdef, -⟩ := hw
  exact ⟨_, _, hexec, hdef, rfl, hkeeps⟩

theorem deferredDue_of_le {s : State} {t : Slot} {i : Nat} {d : Deferred} (hd : t.deferred[i]? = some d)
    (hdue : d.due ≤ s.cycle) : deferredDue s t i = true := by
  simp [deferredDue, hd, hdue]

/-- The event of a due deferred result writes it in its slot, and changes nothing else. -/
theorem deferredWrite_slotBecomes {s : State} {c : SlotId} {t : Slot} {i : Nat} {d : Deferred}
    (hp : s.mgmt.powered = true) (ht : slotOf s c = some t) (hd : t.deferred[i]? = some d) (hdue : d.due ≤ s.cycle) :
    slotBecomes (.deferredWrite c i) s c (writeDeferred t i) := by
  refine ⟨_, event_next hp, fun u hu => ?_⟩
  obtain rfl : t = u := Option.some.inj (ht.symm.trans hu)
  exact if_pos (deferredDue_of_le hd hdue)

/-- A deferred result for g0 alone leaves its FLAGS bits and no other trace. -/
theorem writeDeferred_zero {t : Slot} {i : Nat} {d : Deferred} {z : Word} (hd : t.deferred[i]? = some d)
    (hgs : d.gs = [(0, z)]) (hvs : d.vs = []) :
    writeDeferred t i = { t with deferred := t.deferred.eraseIdx i, flags := t.flags ||| d.flags } := by
  simp [writeDeferred, hd, hgs, hvs, addFlags]

/-! ## The obligation -/

/-- Settles O5: the clause of empty sources by the traps and waits of an instruction that reads source a first, the
clauses of g0 by what a result for g0 leaves. -/
theorem emptySourcesAndG0 : Obligations.EmptySourcesAndG0 := by
  unfold Obligations.EmptySourcesAndG0
  refine ⟨fun o s i hi hp he => ?_, fun t => ⟨gval_zero t, gIsEmpty_zero t⟩,
    fun o s x y h hd _ => ⟨add_zero_discards h hd, div_zero_defers h hd⟩,
    fun s c t i d z hp ht hd hdue hgs hvs => ?_⟩
  · have hr := readsAFirst_of_mem_integerForms i hi
    exact ⟨hr.enters_handler hp he, hr.holds_trap hp he, hr.exec_block hp he⟩
  · rw [← writeDeferred_zero hd hgs hvs]
    exact deferredWrite_slotBecomes hp ht hd hdue

/-- A slot with an armed handler, g1 empty and a deferred producer pending. -/
def pendingTrapState : State :=
  { cur := { id := ⟨0, false⟩, trapv := 0x10040, gEmpty := 2, deferred := [{ gs := [(1, 7)], due := 9 }] } }

/-- The clause of O5 in which the trap is held: its hypotheses hold of `pendingTrapState`, where MOV of the empty g1
under ! leaves one event with the trap's code and operand, and the stream waits. -/
theorem witness_held_trap :
    let s := pendingTrapState
    let o : Opnd := { fmt := .c64, d := 6, a := 1, b := 0, feA := true }
    (s.mgmt.powered = true ∧ gIsEmpty s.cur o.a = true ∧ armed s.cur = true ∧ s.cur.ending = []
      ∧ ctlDrained s s.cur = false)
    ∧ ∃ t, exec (.mov o) s = .next t ∧ t.cur.ctl.blocked = some .handler
      ∧ t.cur.events.map (fun e => (e.report.extractLsb' 0 8, e.report.extractLsb' 320 64)) = [(0x29, 1)] := by
  refine ⟨by decide +kernel, _, rfl, ?_, ?_⟩ <;> decide +kernel

end Sys2Proof.Machine
end

section
/-! SUPPORT. Control transfers (R206, R264): the one state that a transfer leaves, by its register results and its control
stream; and the fetch outside the code region, which leaves the slot alone and raises the bounds fault. -/

namespace Sys2Proof.Machine

/-! ## The state after a transfer -/

/-- A slot with results in general registers. -/
def putGs (t : Slot) (gs : List (BitVec 6 × Word)) : Slot := gs.foldl (fun t p => setG t p.1 p.2) t

/-- The state after a transfer: results in general registers, and the control stream. -/
def transferred (s : State) (gs : List (BitVec 6 × Word)) (c : Stream) : State :=
  onCur s (fun t => { t with g := (putGs t gs).g, gEmpty := (putGs t gs).gEmpty, ctl := c })

/-- The control stream after a taken transfer: its target issues after the 2 cc of R261. -/
def takenCtl (s : State) (pc : Word) : Stream := { s.cur.ctl with pc := pc, issued := true, hold := 2 }

/-- The control stream at the following instruction. -/
def followingCtl (s : State) (o : Opnd) : Stream :=
  { s.cur.ctl with pc := s.cur.ctl.pc + word (Fmt.bytes o.fmt), issued := true }

theorem onCur_putGs (s : State) (gs : List (BitVec 6 × Word)) :
    onCur s (putGs · gs) = transferred s gs s.cur.ctl :=
  (congrArg (fun t => { s with cur := t }) (putGs_slot gs s.cur) :)

theorem branch_putGs (s : State) (gs : List (BitVec 6 × Word)) (o : Opnd) :
    branch (onCur s (putGs · gs)) o = transferred s gs (takenCtl s (s.cur.ctl.pc + immOf o * 4)) := by
  rw [onCur_putGs]; rfl

theorem advance_putGs (s : State) (gs : List (BitVec 6 × Word)) (o : Opnd) :
    advance (onCur s (putGs · gs)) o = transferred s gs (followingCtl s o) := by
  rw [onCur_putGs]; rfl

theorem transferred_setsG (s : State) {gs : List (BitVec 6 × Word)} (c : Stream) (hn : (gs.map Prod.fst).Nodup) :
    setsG s (transferred s gs c) gs :=
  ⟨putGs_of_mem gs s.cur hn, putGs_of_not_mem gs s.cur⟩

/-- An instruction goes to a target with results in general registers, and changes nothing else but the control stream. -/
def transfersTo (i : Instr) (s : State) (target : Word) (gs : List (BitVec 6 × Word)) : Prop :=
  ∃ t, exec i s = .next t ∧ t.cur.ctl.pc = target ∧ t.cur.ctl.running = s.cur.ctl.running
    ∧ regsOnly s t ∧ setsG s t gs ∧ setsV s t [] ∧ t.cur.flags = s.cur.flags ∧ t.cur.deferred = s.cur.deferred
    ∧ t.cur.settling = s.cur.settling ∧ sameBytes s t

theorem transfersTo_of_exec {i : Instr} {s : State} {gs : List (BitVec 6 × Word)} {c : Stream}
    (h : exec i s = .next (transferred s gs c)) (hn : (gs.map Prod.fst).Nodup)
    (hrun : c.running = s.cur.ctl.running) : transfersTo i s c.pc gs :=
  ⟨_, h, rfl, hrun, rfl, transferred_setsG s c hn, ⟨fun _ hp => absurd hp List.not_mem_nil, fun _ _ => ⟨rfl, rfl⟩⟩,
    rfl, rfl, rfl, sameBytes_onCur rfl⟩

/-! ## The six instructions (R264) -/

section
variable {o : Opnd} {s : State} (hp : s.mgmt.powered = true)
include hp

theorem transfersTo_br : transfersTo (.br o) s (s.cur.ctl.pc + immOf o * 4) [] :=
  transfersTo_of_exec (c := takenCtl s _) (issue_ok (o := o) hp) List.nodup_nil rfl

theorem transfersTo_call (hd : dstG s.cur o.d = .ok ()) :
    transfersTo (.call o) s (s.cur.ctl.pc + immOf o * 4)
      [(o.d, s.cur.ctl.pc + word (Fmt.bytes o.fmt) - codeBase s.cur)] := by
  refine transfersTo_of_exec (c := takenCtl s _) ?_ (List.nodup_singleton _) rfl
  rw [exec_call, execCall, hd, ← branch_putGs]
  exact issue_ok hp

theorem transfersTo_bri {x : Word} (hx : srcG s.cur o.a o.feA = .ok x) :
    transfersTo (.bri o) s (codeTarget s.cur (x + immOf o)) [] := by
  refine transfersTo_of_exec (c := takenCtl s _) ?_ List.nodup_nil rfl
  rw [exec_bri, execBri, hx]
  exact issue_ok hp

theorem transfersTo_ret {x : Word} (hx : srcG s.cur o.a o.feA = .ok x) :
    transfersTo (.ret o) s (codeTarget s.cur x) [] := by
  refine transfersTo_of_exec (c := takenCtl s _) ?_ List.nodup_nil rfl
  rw [exec_ret, execRet, hx]
  exact issue_ok hp

/-- An instruction that takes a branch under a condition `p`, and else goes on. -/
theorem transfersTo_ite {i : Instr} {gs : List (BitVec 6 × Word)} {p : Prop} [Decidable p]
    (hn : (gs.map Prod.fst).Nodup)
    (h : exec i s = issue s o (.ok (if p then branch (onCur s (putGs · gs)) o else advance (onCur s (putGs · gs)) o))) :
    transfersTo i s (if p then s.cur.ctl.pc + immOf o * 4 else s.cur.ctl.pc + word (Fmt.bytes o.fmt)) gs := by
  rw [issue_ok hp, branch_putGs, advance_putGs] at h
  split
  · next hc => exact transfersTo_of_exec (c := takenCtl s _) (by rw [h, if_pos hc]) hn rfl
  · next hc => exact transfersTo_of_exec (c := followingCtl s o) (by rw [h, if_neg hc]) hn rfl

/-- BRC under the condition `p` that its function code names (R262). -/
theorem transfersTo_brc {x y : Word} (hx : srcG s.cur o.a o.feA = .ok x) (hy : srcG s.cur o.b o.feB = .ok y)
    {p : Prop} [Decidable p] (hc : compares o.fn x y = true ↔ p) :
    transfersTo (.brc o) s (if p then s.cur.ctl.pc + immOf o * 4 else s.cur.ctl.pc + word (Fmt.bytes o.fmt)) [] := by
  refine transfersTo_ite hp List.nodup_nil ?_
  rw [exec_brc, execBrc, hx, hy, ← if_congr hc rfl rfl]
  rfl

theorem transfersTo_loop {n : Word} (hx : srcG s.cur o.d o.feD = .ok n) :
    transfersTo (.loop o) s
      (if n - 1 ≠ 0 then s.cur.ctl.pc + immOf o * 4 else s.cur.ctl.pc + word (Fmt.bytes o.fmt)) [(o.d, n - 1)] := by
  refine transfersTo_ite hp (List.nodup_singleton _) ?_
  rw [exec_loop, execLoop, hx, ite_not]
  rfl

end

/-! ## The conditions of BRC (R262) -/

section
variable {fn : BitVec 5} (x y : Word)

theorem compares_eq (h : fn = 0) : compares fn x y = true ↔ x = y := by subst h; exact beq_iff_eq

theorem compares_ne (h : fn = 1) : compares fn x y = true ↔ x ≠ y := by subst h; exact bne_iff_ne

theorem compares_slt (h : fn = 2) : compares fn x y = true ↔ x.toInt < y.toInt := by
  subst h; exact BitVec.slt_iff_toInt_lt

theorem compares_sge (h : fn = 3) : compares fn x y = true ↔ y.toInt ≤ x.toInt := by
  subst h; simp [compares, BitVec.slt]

theorem compares_ult (h : fn = 4) : compares fn x y = true ↔ x.toNat < y.toNat := by
  subst h; exact BitVec.ult_iff_lt

theorem compares_uge (h : fn = 5) : compares fn x y = true ↔ y.toNat ≤ x.toNat := by
  subst h; simp [compares, BitVec.ult]

end

/-! ## The homes of fetched lines leave the slot (R232) -/

@[simp] theorem evictLine_cur (s : State) (l : Nat) : (evictLine s l).cur = s.cur := by
  unfold evictLine
  split
  · split
    · dsimp only; split <;> rfl
    · rfl
  · rfl

@[simp] theorem makeRoom_cur (s : State) (l : Nat) : (makeRoom s l).cur = s.cur := by
  unfold makeRoom
  dsimp only
  split
  · rfl
  · exact evictLine_cur ..

@[simp] theorem reloadLine_cur (s : State) (l : Nat) : (reloadLine s l).cur = s.cur := by
  unfold reloadLine; split <;> rfl

@[simp] theorem bringLine_cur (s : State) (l : Nat) : (bringLine s l).cur = s.cur := by
  unfold bringLine
  split
  · rfl
  · exact (reloadLine_cur ..).trans (makeRoom_cur ..)

@[simp] theorem touchLine_cur (s : State) (l : Nat) (mem : Bool) : (touchLine s l mem).cur = s.cur := by
  unfold touchLine
  split
  · rfl
  · exact bringLine_cur ..

theorem touchLines_cur (s : State) (ls : List Nat) (mem : Bool) :
    (ls.foldl (fun s l => touchLine s l mem) s).cur = s.cur := by
  induction ls generalizing s with
  | nil => rfl
  | cons l ls ih => rw [List.foldl_cons, ih, touchLine_cur]

theorem fetched_cur {s s' : State} {st : StreamId} (h : fetched s st = some s') : s'.cur = s.cur := by
  unfold fetched at h
  dsimp only at h
  split at h
  · rw [Option.some.inj h]
  · split at h
    · rw [← Option.some.inj h, touchLines_cur]
    · cases h

/-! ## A fetch outside the code region (R206, R427, R428) -/

/-- The program counter of the control stream names no byte of the code region. -/
def pcOutside (t : Slot) : Prop :=
  t.ctl.pc.toNat < recCodeva t.record ∨ recCodeva t.record + recCodelen t.record ≤ t.ctl.pc.toNat

theorem fetchBytes_outside {s : State} {t : Slot} (h : pcOutside t) : fetchBytes s t t.ctl.pc.toNat 4 = raise 0x05 :=
  if_pos (h.imp id fun hle => by omega)

theorem fetchCtl_outside {s : State} (h : pcOutside s.cur) : fetchCtl s = .error { code := 0x05 } := by
  simp [fetchCtl, fetchWords, fetchBytes_outside h, raise]

theorem issueStream_outside {s s' : State} (hf : fetched s .control = some s') (h : pcOutside s.cur) :
    issueStream s .control = .next (takeFault s' (fetchSite s') { code := 0x05 } (codeOff s)) := by
  have hcur := fetched_cur hf
  have hi : streamInstr s' .control = .error { code := 0x05 } := fetchCtl_outside (hcur ▸ h)
  have hoff : codeOff s' = codeOff s := by rw [codeOff, codeOff, hcur]
  rw [issueStream, hf, ← hoff]
  simp [hi, streamSite, streamLink]

/-- The step of a control stream whose program counter is outside the code region raises the bounds fault. -/
theorem step_outside {s s' : State} {k : Nat} (ht : nextTurn s = .stream k .control) (he : s.cur.ending = [])
    (hf : fetched { s with stage := k } .control = some s') (h : pcOutside s.cur) :
    step s = .next (takeFault s' (fetchSite s') { code := 0x05 } (codeOff s)) := by
  have hi : issueTurn { s with stage := k } .control = issueStream { s with stage := k } .control :=
    if_pos (List.isEmpty_iff.2 he)
  rw [step, ht]
  exact hi.trans (issueStream_outside hf h)

/-! ## The obligation -/

/-- Settles O9: each transfer by the state that it leaves, the fetch outside the code region by the step that raises its
fault. -/
theorem controlTransfers : Obligations.ControlTransfers := by
  unfold Obligations.ControlTransfers
  intro o s hp
  refine ⟨transfersTo_br hp, transfersTo_call hp, fun x hx => ⟨transfersTo_bri hp hx, transfersTo_ret hp hx, fun y hy => ?_⟩,
    fun n => transfersTo_loop hp, rfl, fun k s' => step_outside⟩
  exact ⟨fun h => transfersTo_brc hp hx hy (compares_eq x y h), fun h => transfersTo_brc hp hx hy (compares_ne x y h),
    fun h => transfersTo_brc hp hx hy (compares_slt x y h), fun h => transfersTo_brc hp hx hy (compares_sge x y h),
    fun h => transfersTo_brc hp hx hy (compares_ult x y h), fun h => transfersTo_brc hp hx hy (compares_uge x y h)⟩

end Sys2Proof.Machine
end

section
/-! SUPPORT. Decoding and encoding (R227 to R246): the entry that an opcode selects makes an instruction of that opcode; the
fields of the words and of a record read back what was written, and the fields of a word write that word again. -/

namespace Sys2Proof

/-! ## Entries -/

/-- The entry that an opcode and its fields select makes an instruction of that opcode and those fields (R241). -/
theorem ruleOf_make (op : BitVec 7) (o : Opnd) :
    (ruleOf op o).map (fun r => opcodeOf (r.make o)) = (ruleOf op o).map (fun _ => some (BitVec.ofNat 7 op.toNat, o)) := by
  unfold ruleOf ifFn
  dsimp only
  generalize op.toNat = n
  split
  all_goals (repeat' split)
  all_goals rfl

theorem ofBool_getLsbD {w : Nat} (x : BitVec w) (i : Nat) : BitVec.ofBool (x.getLsbD i) = x.extractLsb' i 1 := by
  ext j hj
  obtain rfl : j = 0 := by omega
  simp [BitVec.getLsbD]

theorem getLsbD_zero_ofBool (b : Bool) : (BitVec.ofBool b).getLsbD 0 = b := by simp

theorem fields32_word32 (op : BitVec 7) (o : Opnd) (hf : o.fmt = .c32) (h : o.canonical = true) :
    fields32 (word32 op o) = o := by
  obtain ⟨fmt, d, a, b, c, fn, k, feD, feA, feB, feC, lvl, imm, lit⟩ := o
  obtain rfl : fmt = .c32 := hf
  simp [Opnd.canonical] at h
  obtain ⟨⟨⟨⟨⟨⟨⟨⟨rfl,rfl⟩,rfl⟩,rfl⟩,rfl⟩,rfl⟩,rfl⟩,rfl⟩,rfl⟩ := h
  simp (disch := decide) only [fields32, word32, BitVec.extractLsb'_append_eq_of_le, BitVec.extractLsb'_append_eq_right,
    BitVec.extractLsb'_eq_self, Nat.reduceSub]
  rfl

theorem fields64_word64 (len : BitVec 2) (op : BitVec 7) (o : Opnd) :
    fields64 o.fmt o.lit32 (word64 len op o) = o := by
  simp (disch := decide) only [fields64, word64, BitVec.extractLsb'_append_eq_of_le, BitVec.extractLsb'_append_eq_right,
    BitVec.extractLsb'_eq_self, Nat.reduceSub, BitVec.getLsbD_append, getLsbD_zero_ofBool, Nat.reduceLT, if_true, if_false]

theorem word32_fields32 (w : BitVec 32) (h : w.extractLsb' 0 2 = 1#2) : word32 (w.extractLsb' 2 7) (fields32 w) = w := by
  rw [word32, fields32, ← h]
  simp only [BitVec.extractLsb'_append_extractLsb'_eq_extractLsb']
  exact BitVec.extractLsb'_eq_self

theorem word64_fields64 (fmt : Fmt) (lit : BitVec 32) (w : BitVec 64) :
    word64 (w.extractLsb' 0 2) (w.extractLsb' 2 7) (fields64 fmt lit w) = w := by
  simp only [word64, fields64, ofBool_getLsbD, BitVec.extractLsb'_append_extractLsb'_eq_extractLsb']
  exact BitVec.extractLsb'_eq_self

/-! ## Records -/

theorem recHead_recWord (op : BitVec 8) (h : RecHead) (body : BitVec 432) : recHead (recWord op h body) = h := by
  simp (disch := decide) only [recHead, recWord, BitVec.extractLsb'_append_eq_of_le, BitVec.extractLsb'_append_eq_right,
    BitVec.extractLsb'_eq_self, Nat.reduceSub, BitVec.getLsbD_append, getLsbD_zero_ofBool, Nat.reduceLT, if_true,
    if_false]

theorem recWord_op (op : BitVec 8) (h : RecHead) (body : BitVec 432) : (recWord op h body).extractLsb' 0 8 = op := by
  unfold recWord
  exact BitVec.extractLsb'_append_eq_right

/-- A field of the body of a record (R243). -/
theorem recWord_field (op : BitVec 8) (h : RecHead) (body : BitVec 432) {i n : Nat} (hi : 48 ≤ i) (hn : i - 48 + n ≤ 432) :
    (recWord op h body).extractLsb' i n = body.extractLsb' (i - 48) n := by
  simp (disch := omega) only [recWord, BitVec.extractLsb'_append_eq_of_le, Nat.sub_sub]
  exact BitVec.extractLsb'_append_eq_of_add_le hn

theorem recWord_bit (op : BitVec 8) (h : RecHead) (body : BitVec 432) {i : Nat} (hi : 48 ≤ i) (hn : i < 480) :
    (recWord op h body).getLsbD i = body.getLsbD (i - 48) := by
  have e := congrArg (·.getLsbD 0) (recWord_field op h body (n := 1) hi (by omega))
  simpa only [BitVec.getLsbD_extractLsb', Nat.lt_one_iff, decide_true, Bool.true_and, Nat.add_zero] using e

theorem body_recWord (op : BitVec 8) (h : RecHead) :
    (∀ b, nestBody (recWord op h (nestBits b)) = b) ∧ (∀ b, ldwBody (recWord op h (ldwBits b)) = b)
      ∧ (∀ b, drainBody (recWord op h (drainBits b)) = b) ∧ (∀ b, saveBody (recWord op h (saveBits b)) = b)
      ∧ (∀ b, stampBody (recWord op h (stampBits b)) = b) ∧ (∀ b, cpyBody (recWord op h (cpyBits b)) = b)
      ∧ (∀ b, fifoBody (recWord op h (fifoBits b)) = b) ∧ (∀ b, netBody (recWord op h (netBits b)) = b)
      ∧ (∀ b, indBody (recWord op h (indBits b)) = b) ∧ ∀ m, (recWord op h (zeroBits m)).extractLsb' 48 8 = m := by
  refine ⟨?_, ?_, ?_, ?_, ?_, ?_, ?_, ?_, ?_, ?_⟩ <;> intro b <;>
    simp (disch := decide) only [nestBody, nestBits, ldwBody, ldwBits, drainBody, drainBits, saveBody, saveBits, stampBody,
      stampBits, cpyBody, cpyBits, fifoBody, fifoBits, netBody, netBits, indBody, indBits, zeroBits, recWord_field, recWord_bit,
      BitVec.extractLsb'_append_eq_of_le, BitVec.extractLsb'_append_eq_right, BitVec.getLsbD_append, getLsbD_zero_ofBool,
      Nat.reduceSub, Nat.reduceLT, if_true, if_false]

theorem readRecord_encodeRecord {i : Instr} {v : BitVec 512} (h : encodeRecord i = some v) : readRecord v = some i := by
  unfold encodeRecord at h
  split at h
  all_goals
    cases h <;>
      (simp only [readRecord, recWord_op, recHead_recWord, body_recWord]
       rfl)

/-- The op of a record is one of the matrix stream or one of the copy stream (R245). -/
theorem encodeRecord_op {i : Instr} {v : BitVec 512} (h : encodeRecord i = some v) :
    0 < (v.extractLsb' 0 8).toNat ∧ (v.extractLsb' 0 8).toNat < 0x0C
      ∨ 0x40 < (v.extractLsb' 0 8).toNat ∧ (v.extractLsb' 0 8).toNat < 0x48 := by
  unfold encodeRecord at h
  split at h
  all_goals
    cases h <;> (rw [recWord_op]; decide)

theorem decodeRecord_encodeRecord {core : CoreKind} {i : Instr} {v : BitVec 512} (h : encodeRecord i = some v)
    (hk : recordKindBad core i = false) (hz : recordMbz (headOf i) i = false) (hr : recordRange i = false) :
    decodeRecord core (decide (v.toNat % 256 < 0x40)) v = .ok i := by
  have hop : v.toNat % 256 = (v.extractLsb' 0 8).toNat := by simp [BitVec.extractLsb'_toNat]
  have hrange := encodeRecord_op h
  unfold decodeRecord
  rw [hop, readRecord_encodeRecord h]
  generalize (v.extractLsb' 0 8).toNat = n at hrange
  dsimp only
  rw [if_neg (by omega), if_neg (by simp only [decide_eq_true_eq]; omega), if_neg, hk, hz, hr, h]
  · simp
  · rw [decide_eq_decide]; omega

theorem decodeRecord_ok {core : CoreKind} {m : Bool} {v : BitVec 512} {i : Instr} (h : decodeRecord core m v = .ok i) :
    (recordKindBad core i = false ∧ recordMbz (headOf i) i = false ∧ recordRange i = false) ∧ encodeRecord i = some v := by
  unfold decodeRecord at h
  dsimp only at h
  split_ifs at h
  cases hr : readRecord v with
  | none => simp [hr] at h
  | some j =>
    rw [hr] at h
    dsimp only at h
    split_ifs at h with h1 h2 h3
    cases h
    simp_all

/-! ## Control-stream words -/

theorem ruleOf_opcode {op : BitVec 7} {o : Opnd} {r : Rule} (h : ruleOf op o = .ok r) :
    opcodeOf (r.make o) = some (op, o) := by
  have e := ruleOf_make op o
  rw [h] at e
  simpa [Except.map] using e

theorem decodeFields_opcode {core : CoreKind} {op : BitVec 7} {o : Opnd} {i : Instr}
    (h : decodeFields core op o = .ok i) : opcodeOf i = some (op, o) := by
  unfold decodeFields at h
  split at h
  · cases h
  · next r hr =>
    split at h
    · cases h
    · exact Except.ok.inj h ▸ ruleOf_opcode hr

theorem wf_of_opcode {core : CoreKind} {i : Instr} {op : BitVec 7} {o : Opnd} (h : opcodeOf i = some (op, o)) :
    i.wf core = true ↔ o.canonical = true ∧ decodeFields core op o = .ok i := by
  unfold Instr.wf
  rw [h]
  dsimp only
  rw [Bool.and_eq_true]
  refine and_congr_right fun _ => ?_
  cases decodeFields core op o <;> simp

theorem word32_low (op : BitVec 7) (o : Opnd) :
    (word32 op o).extractLsb' 0 2 = 1#2 ∧ (word32 op o).extractLsb' 2 7 = op := by
  simp (disch := decide) only [word32, BitVec.extractLsb'_append_eq_of_le, BitVec.extractLsb'_append_eq_right, Nat.reduceSub, and_self]

theorem word64_low (len : BitVec 2) (op : BitVec 7) (o : Opnd) :
    (word64 len op o).extractLsb' 0 2 = len ∧ (word64 len op o).extractLsb' 2 7 = op := by
  simp (disch := decide) only [word64, BitVec.extractLsb'_append_eq_of_le, BitVec.extractLsb'_append_eq_right, Nat.reduceSub, and_self]

theorem wordsOf_append {n : Nat} (hi : BitVec n) (w : BitVec 32) : wordsOf ((hi ++ w).extractLsb' 0 32) = wordsOf w := by
  rw [BitVec.extractLsb'_append_eq_right]

theorem decodeWord_32 {core : CoreKind} {w : BitVec 96} (h : wordsOf (w.extractLsb' 0 32) = 1) :
    decodeWord core w = decodeFields core (w.extractLsb' 2 7) (fields32 (w.extractLsb' 0 32)) := by
  unfold decodeWord
  simp only [h]

theorem decodeWord_64 {core : CoreKind} {w : BitVec 96} (h : wordsOf (w.extractLsb' 0 32) = 2) :
    decodeWord core w = decodeFields core (w.extractLsb' 2 7) (fields64 .c64 0 (w.extractLsb' 0 64)) := by
  unfold decodeWord
  simp only [h]

theorem decodeWord_96 {core : CoreKind} {w : BitVec 96} (h : wordsOf (w.extractLsb' 0 32) = 3) :
    decodeWord core w = decodeFields core (w.extractLsb' 2 7) (fields64 .c96 (w.extractLsb' 64 32) (w.extractLsb' 0 64)) := by
  unfold decodeWord
  simp only [h]

theorem wordsOf_low (w : BitVec 96) : wordsOf (w.extractLsb' 0 32) = (w.extractLsb' 0 2).toNat := by
  simp [wordsOf, BitVec.extractLsb'_toNat]

/-- The words of an instruction's format. -/
def formatWords (o : Opnd) : Nat := match o.fmt with | .c32 => 1 | .c64 => 2 | .c96 => 3

theorem decodeWord_encode {core : CoreKind} {i : Instr} {op : BitVec 7} {o : Opnd} {w : BitVec 96} (hop : opcodeOf i = some (op, o))
    (hc : o.canonical = true) (hw : encodeWord i = some w) :
    wordsOf (w.extractLsb' 0 32) = formatWords o ∧ decodeWord core w = decodeFields core op o := by
  unfold encodeWord at hw
  rw [hop] at hw
  dsimp only at hw
  have o64 (len : BitVec 2) (lit : BitVec 32) : wordsOf ((lit ++ word64 len op o).extractLsb' 0 32) = len.toNat
      ∧ (lit ++ word64 len op o).extractLsb' 2 7 = op := by
    rw [wordsOf_low, BitVec.extractLsb'_append_eq_of_add_le (by decide), BitVec.extractLsb'_append_eq_of_add_le (by decide),
      (word64_low ..).1, (word64_low ..).2]
    exact ⟨rfl, rfl⟩
  split at hw
  · next hf =>
    cases hw
    have e : wordsOf (((0#64 ++ word32 op o) : BitVec 96).extractLsb' 0 32) = 1 := by
      rw [wordsOf_append, wordsOf, (word32_low ..).1]; rfl
    rw [decodeWord_32 e, BitVec.extractLsb'_append_eq_right, BitVec.extractLsb'_append_eq_of_add_le (by decide), (word32_low ..).2,
      fields32_word32 op o hf hc]
    exact ⟨by rw [wordsOf, (word32_low ..).1, formatWords, hf]; rfl, rfl⟩
  · next hf =>
    cases hw
    have hl : o.lit32 = 0 := by simpa [Opnd.canonical, hf] using hc
    have f := fields64_word64 2 op o
    rw [hf, hl] at f
    rw [decodeWord_64 (o64 ..).1, (o64 ..).1, (o64 ..).2, BitVec.extractLsb'_append_eq_right, f]
    exact ⟨by rw [formatWords, hf]; rfl, rfl⟩
  · next hf =>
    cases hw
    have f := fields64_word64 3 op o
    rw [hf] at f
    rw [decodeWord_96 (o64 ..).1, (o64 ..).1, (o64 ..).2, BitVec.extractLsb'_append_eq_left, BitVec.extractLsb'_append_eq_right, f]
    exact ⟨by rw [formatWords, hf]; rfl, rfl⟩

theorem zeros_append_low (w : BitVec 96) (m k : Nat) : (0#m ++ w.extractLsb' 0 k).toNat = w.toNat % 2 ^ k := by
  simp [BitVec.toNat_append, BitVec.extractLsb'_toNat]

theorem zeros_append_32 (w : BitVec 96) : 0#64 ++ w.extractLsb' 0 32 = BitVec.ofNat 96 (w.toNat % 2 ^ (32 * 1)) := by
  apply BitVec.eq_of_toNat_eq
  refine (zeros_append_low w 64 32).trans (Nat.mod_eq_of_lt ?_).symm
  omega

theorem zeros_append_64 (w : BitVec 96) : 0#32 ++ w.extractLsb' 0 64 = BitVec.ofNat 96 (w.toNat % 2 ^ (32 * 2)) := by
  apply BitVec.eq_of_toNat_eq
  refine (zeros_append_low w 32 64).trans (Nat.mod_eq_of_lt ?_).symm
  omega

theorem words_append_96 (w : BitVec 96) : w.extractLsb' 64 32 ++ w.extractLsb' 0 64 = BitVec.ofNat 96 (w.toNat % 2 ^ (32 * 3)) := by
  rw [Nat.mod_eq_of_lt w.isLt, BitVec.ofNat_toNat, BitVec.setWidth_eq]
  exact BitVec.extractLsb'_append_extractLsb'

theorem extract_low {n : Nat} (w : BitVec 96) (i len : Nat) (h : i + len ≤ n) : (w.extractLsb' 0 n).extractLsb' i len = w.extractLsb' i len := by
  ext j hj
  simp [BitVec.getElem_extractLsb']
  omega

theorem encodeWord_decode {core : CoreKind} {w : BitVec 96} {i : Instr} (h : decodeWord core w = .ok i) :
    i.wf core = true ∧ encodeWord i = some (BitVec.ofNat 96 (w.toNat % 2 ^ (32 * wordsOf (w.extractLsb' 0 32)))) := by
  have hlt : wordsOf (w.extractLsb' 0 32) < 4 := by rw [wordsOf_low]; exact (w.extractLsb' 0 2).isLt
  have len (n : Nat) (hn : wordsOf (w.extractLsb' 0 32) = n) : w.extractLsb' 0 2 = BitVec.ofNat 2 n := by
    rw [wordsOf_low] at hn
    rw [← hn, BitVec.ofNat_toNat, BitVec.setWidth_eq]
  have w64 (fmt : Fmt) (lit : BitVec 32) := word64_fields64 fmt lit (w.extractLsb' 0 64)
  simp only [extract_low w _ _ (by decide : 0 + 2 ≤ 64), extract_low w _ _ (by decide : 2 + 7 ≤ 64)] at w64
  obtain hn | hn | hn | hn : wordsOf (w.extractLsb' 0 32) = 0 ∨ wordsOf (w.extractLsb' 0 32) = 1
      ∨ wordsOf (w.extractLsb' 0 32) = 2 ∨ wordsOf (w.extractLsb' 0 32) = 3 := by omega
  · simp [decodeWord, hn] at h
  · rw [decodeWord_32 hn] at h
    have hop := decodeFields_opcode h
    refine ⟨(wf_of_opcode hop).2 ⟨rfl, h⟩, ?_⟩
    have e := word32_fields32 (w.extractLsb' 0 32) (by rw [extract_low w _ _ (by decide)]; exact len 1 hn)
    rw [extract_low w _ _ (by decide)] at e
    rw [hn, ← zeros_append_32, encodeWord, hop]
    exact congrArg (fun x => some (0#64 ++ x)) e
  · rw [decodeWord_64 hn] at h
    have hop := decodeFields_opcode h
    refine ⟨(wf_of_opcode hop).2 ⟨rfl, h⟩, ?_⟩
    have e := w64 .c64 0
    rw [len 2 hn] at e
    rw [hn, ← zeros_append_64, encodeWord, hop]
    exact congrArg (fun x => some (0#32 ++ x)) e
  · rw [decodeWord_96 hn] at h
    have hop := decodeFields_opcode h
    refine ⟨(wf_of_opcode hop).2 ⟨rfl, h⟩, ?_⟩
    have e := w64 .c96 (w.extractLsb' 64 32)
    rw [len 3 hn] at e
    rw [hn, ← words_append_96, encodeWord, hop]
    exact congrArg (fun x => some (w.extractLsb' 64 32 ++ x)) e

/-! ## Bytes -/

theorem leNat_bytesOf (n w : Nat) : leNat (bytesOf n w) = w % 2 ^ (8 * n) := by
  unfold bytesOf
  induction n generalizing w with
  | zero => simp [leNat, Nat.mod_one]
  | succ n ih =>
    have := ih (w / 256)
    rw [List.range_succ_eq_map, List.map_cons, List.map_map, leNat]
    have e : (fun i => BitVec.ofNat 8 (w >>> (8 * i))) ∘ Nat.succ = fun i => BitVec.ofNat 8 ((w / 256) >>> (8 * i)) := by
      funext i
      simp only [Function.comp, Nat.shiftRight_eq_div_pow, Nat.div_div_eq_div_mul]
      congr 2
      rw [Nat.succ_eq_add_one, Nat.mul_add, Nat.pow_add]; ring
    rw [e, this]
    simp only [Nat.mul_zero, Nat.shiftRight_zero, BitVec.toNat_ofNat]
    rw [show 2 ^ (8 * (n + 1)) = 256 * 2 ^ (8 * n) by rw [Nat.mul_add, Nat.pow_add]; ring, Nat.mod_mul]

theorem decodeBytes_encode {core : CoreKind} {i : Instr} {bs : List Byte} (hwf : i.wf core = true) (h : encode i = some bs)
    (hr : encodeRecord i = none) : decodeBytes core bs = .ok (i, bs.length) := by
  unfold encode at h
  split at h
  · next w op o hw hop =>
    obtain ⟨hc, hd⟩ := (wf_of_opcode hop).1 hwf
    obtain ⟨hn, hdec⟩ := decodeWord_encode (core := core) hop hc hw
    have hlen : bs.length = 4 * formatWords o := by
      cases h
      unfold formatWords bytesOf
      cases o.fmt <;> simp
    have hval : BitVec.ofNat 96 (leNat (bs.take 12)) = w := by
      have hw' := (encodeWord_decode (hdec.trans hd)).2
      rw [hw, hn] at hw'
      rw [List.take_of_length_le (by rw [hlen]; unfold formatWords; cases o.fmt <;> decide)]
      refine Eq.trans ?_ (Option.some.inj hw').symm
      cases h
      rw [leNat_bytesOf]
      unfold formatWords
      cases o.fmt <;> rfl
    unfold decodeBytes
    simp only [hval, hdec, hd, hn, hlen]
  · rw [hr] at h; cases h

theorem opcodeOf_of_record {i : Instr} {v : BitVec 512} (h : encodeRecord i = some v) : opcodeOf i = none := by
  unfold encodeRecord at h
  split at h
  all_goals (cases h <;> rfl)

theorem wf_of_record {core : CoreKind} {i : Instr} {v : BitVec 512} (h : encodeRecord i = some v) :
    i.wf core = true ↔ recordKindBad core i = false ∧ recordMbz (headOf i) i = false ∧ recordRange i = false := by
  simp [Instr.wf, opcodeOf_of_record h, h, and_assoc]

/-- Settles O59, a format and a kind of record at a time. -/
theorem encodingsRoundTrip : Obligations.EncodingsRoundTrip := by
  unfold Obligations.EncodingsRoundTrip
  refine ⟨fun core i hwf => ⟨fun w hw => ?_, fun v hv => ?_, fun bs => decodeBytes_encode hwf⟩, fun core w i => encodeWord_decode,
    fun core m v i h => ?_⟩
  · obtain ⟨⟨op, o⟩, hop⟩ : ∃ p, opcodeOf i = some p := by
      unfold encodeWord at hw
      cases h : opcodeOf i with
      | none => rw [h] at hw; cases hw
      | some p => exact ⟨p, rfl⟩
    obtain ⟨hc, hd⟩ := (wf_of_opcode hop).1 hwf
    exact (decodeWord_encode hop hc hw).2.trans hd
  · rw [wf_of_record hv] at hwf
    exact decodeRecord_encodeRecord hv hwf.1 hwf.2.1 hwf.2.2
  · obtain ⟨hwf, he⟩ := decodeRecord_ok h
    exact ⟨(wf_of_record he).2 hwf, he⟩

end Sys2Proof
end

section
/-! SUPPORT. Scalar integer instructions (R277 to R279): the state that each form leaves, and its results as numbers. -/

namespace Sys2Proof.Machine

/-! ## The shapes of scalar integer instructions (R277, R279) -/

theorem writes1_binaryOp {i : Instr} {s : State} {o : Opnd} {x y : Word} {f : Word → Word → Word × BitVec 6} {n : Nat}
    (hi : exec i s = binaryOp s o f n) (h : reads2 s o x y) {r : Word} {fl : BitVec 6} (hf : f x (y + immOf o) = (r, fl)) :
    writes1 i s o o.d r fl := by
  rw [binaryOp_of_reads2 h, hf] at hi
  exact finishG_writes hi

theorem writes1_unaryOp {i : Instr} {s : State} {o : Opnd} {x : Word} {f : Word → Word × BitVec 6} {n : Nat}
    (hi : exec i s = unaryOp s o f n) (h : reads1 s o x) {r : Word} {fl : BitVec 6} (hf : f x = (r, fl)) :
    writes1 i s o o.d r fl := by
  obtain ⟨⟨hp, hd⟩, hx⟩ := h
  rw [unaryOp, hx, hd] at hi
  refine finishG_writes (n := n) (hi.trans ((issue_ok hp).trans ?_))
  rw [hf]

/-! ## Sums, products and bitwise results -/

theorem arith_wrap {fn : BitVec 5} (h : fn = 0) (f : Int → Int → Int) (x y : Word) :
    arith fn f x y = (BitVec.ofInt 64 (f x.toInt y.toInt), 0) := by
  subst h; rfl

theorem arith_word {fn : BitVec 5} (h : fn = 1) (f : Int → Int → Int) (x y : Word) :
    arith fn f x y = (((BitVec.ofInt 64 (f x.toInt y.toInt)).extractLsb' 0 32).signExtend 64, 0) := by
  subst h; rfl

theorem satInt_signed (v : Int) :
    satInt true 64 v = (max (-2 ^ 63) (min (2 ^ 63 - 1) v), if -2 ^ 63 ≤ v ∧ v ≤ 2 ^ 63 - 1 then 0 else 32) := by
  unfold satInt intMin intMax
  simp only [if_true]
  split
  · rw [if_neg (by omega)]; simp only [Prod.mk.injEq, and_true]; omega
  · split
    · rw [if_neg (by omega)]; simp only [Prod.mk.injEq, and_true]; omega
    · rw [if_pos (by omega)]; simp only [Prod.mk.injEq, and_true]; omega

theorem arith_sat {fn : BitVec 5} (h : fn = 2) (f : Int → Int → Int) (x y : Word) :
    arith fn f x y = (BitVec.ofInt 64 (max (-2 ^ 63) (min (2 ^ 63 - 1) (f x.toInt y.toInt))),
      if -2 ^ 63 ≤ f x.toInt y.toInt ∧ f x.toInt y.toInt ≤ 2 ^ 63 - 1 then 0 else 32) := by
  subst h
  unfold arith
  rw [if_neg (by decide), if_pos rfl, satInt_signed]

theorem ofInt_add_toInt (x y : Word) : BitVec.ofInt 64 (x.toInt + y.toInt) = x + y := by
  rw [BitVec.ofInt_add, BitVec.ofInt_toInt, BitVec.ofInt_toInt]

theorem ofInt_sub_toInt (x y : Word) : BitVec.ofInt 64 (x.toInt - y.toInt) = x - y := by
  rw [Int.sub_eq_add_neg, BitVec.ofInt_add, BitVec.ofInt_neg, BitVec.ofInt_toInt, BitVec.ofInt_toInt, BitVec.sub_eq_add_neg]

theorem ofInt_mul_toInt (x y : Word) : BitVec.ofInt 64 (x.toInt * y.toInt) = x * y := by
  rw [BitVec.ofInt_mul, BitVec.ofInt_toInt, BitVec.ofInt_toInt]

theorem mulHigh_signed {fn : BitVec 5} (h : fn = 0) (x y : Word) :
    mulHigh fn x y = BitVec.ofInt 64 (x.toInt * y.toInt / 2 ^ 64) := by
  subst h
  simp only [mulHigh, Nat.cast_pow, Nat.cast_ofNat, if_true]
  rw [if_neg (by decide)]

theorem mulHigh_unsigned {fn : BitVec 5} (h : fn = 1) (x y : Word) :
    mulHigh fn x y = BitVec.ofNat 64 (x.toNat * y.toNat / 2 ^ 64) := by
  subst h
  simp only [mulHigh, Nat.cast_pow, Nat.cast_ofNat, if_true]
  rw [if_neg (by decide), ← BitVec.ofInt_natCast]
  push_cast
  rfl

theorem mulHigh_mixed {fn : BitVec 5} (h : fn = 2) (x y : Word) :
    mulHigh fn x y = BitVec.ofInt 64 (x.toInt * y.toNat / 2 ^ 64) := by
  subst h
  simp only [mulHigh, Nat.cast_pow, Nat.cast_ofNat]
  rw [if_neg (by decide), if_neg (by decide)]

/-- Settles O1, by the wrapped, .W and saturated forms of the exact result. -/
theorem integerSumsProductsAndBitwise : Obligations.IntegerSumsProductsAndBitwise := by
  unfold Obligations.IntegerSumsProductsAndBitwise
  dsimp only
  refine ⟨fun o s x y h => ⟨fun hf => ⟨?_, ?_, ?_⟩, fun hf => ⟨?_, ?_, ?_⟩, fun hf => ⟨?_, ?_, ?_⟩⟩,
    fun o s x y h => ⟨fun hf => ⟨?_, ?_, ?_, ?_⟩, fun hf => ?_, fun hf => ?_⟩⟩
  · exact writes1_binaryOp exec_add h ((arith_wrap hf ..).trans (by rw [ofInt_add_toInt]))
  · exact writes1_binaryOp exec_sub h ((arith_wrap hf ..).trans (by rw [ofInt_sub_toInt]))
  · exact writes1_binaryOp exec_mul h ((arith_wrap hf ..).trans (by rw [ofInt_mul_toInt]))
  · exact writes1_binaryOp exec_add h ((arith_word hf ..).trans (by rw [ofInt_add_toInt]))
  · exact writes1_binaryOp exec_sub h ((arith_word hf ..).trans (by rw [ofInt_sub_toInt]))
  · exact writes1_binaryOp exec_mul h ((arith_word hf ..).trans (by rw [ofInt_mul_toInt]))
  · exact writes1_binaryOp exec_add h (arith_sat hf ..)
  · exact writes1_binaryOp exec_sub h (arith_sat hf ..)
  · exact writes1_binaryOp exec_mul h (arith_sat hf ..)
  · exact writes1_binaryOp exec_mulh h (congrArg (·, 0) (mulHigh_signed hf ..))
  · exact writes1_binaryOp exec_and h rfl
  · exact writes1_binaryOp exec_or h rfl
  · exact writes1_binaryOp exec_xor h rfl
  · exact writes1_binaryOp exec_mulh h (congrArg (·, 0) (mulHigh_unsigned hf ..))
  · exact writes1_binaryOp exec_mulh h (congrArg (·, 0) (mulHigh_mixed hf ..))

/-! ## Shifts and order -/

theorem shiftOp_double {fn : BitVec 5} (h : fn = 0) (f g : _) (x y : Word) : shiftOp fn f g x y = (f x (y.toNat % 64), 0) := by
  subst h; rfl

theorem shiftOp_word {fn : BitVec 5} (h : fn = 1) (f g : _) (x y : Word) :
    shiftOp fn f g x y = ((g (x.extractLsb' 0 32) (y.toNat % 32)).signExtend 64, 0) := by
  subst h; rfl

theorem rotateRight_of_lt {w : Nat} (x : BitVec w) {n : Nat} (h : n < w) : x.rotateRight n = (x >>> n) ||| (x <<< (w - n)) := by
  rw [BitVec.rotateRight, Nat.mod_eq_of_lt h, BitVec.rotateRightAux]

theorem lessThan_signed {fn : BitVec 5} (h : fn = 0) (x y : Word) : lessThan fn x y = true ↔ x.toInt < y.toInt := by
  subst h; exact BitVec.slt_iff_toInt_lt

theorem lessThan_unsigned {fn : BitVec 5} (h : fn = 1) (x y : Word) : lessThan fn x y = true ↔ x.toNat < y.toNat := by
  subst h; exact BitVec.ult_iff_lt

theorem writes1_cmp {s : State} {o : Opnd} {x y : Word} (h : reads2 s o x y) {p : Prop} [Decidable p]
    (hp : compares o.fn x (y + immOf o) = true ↔ p) : writes1 (.cmp o) s o o.d (if p then 1 else 0) := by
  refine writes1_binaryOp exec_cmp h ?_
  rw [ofBool, if_congr hp rfl rfl]

/-- Settles O2, by the shift amount, the order of each function code and the conditions of R262. -/
theorem integerShiftsAndOrder : Obligations.IntegerShiftsAndOrder := by
  unfold Obligations.IntegerShiftsAndOrder
  dsimp only
  refine ⟨fun o s x y h => ⟨fun hf => ⟨?_, ?_, ?_, ?_⟩, fun hf => ⟨?_, ?_, ?_, ?_⟩⟩, fun o s x y h => ⟨fun hf => ⟨?_, ?_, ?_⟩,
    fun hf => ⟨?_, ?_, ?_⟩, fun hf => writes1_cmp h (compares_slt _ _ hf), fun hf => writes1_cmp h (compares_sge _ _ hf),
    fun hf => writes1_cmp h (compares_ult _ _ hf), fun hf => writes1_cmp h (compares_uge _ _ hf)⟩⟩
  · exact writes1_binaryOp exec_shl h (shiftOp_double hf ..)
  · exact writes1_binaryOp exec_shr h (shiftOp_double hf ..)
  · exact writes1_binaryOp exec_sar h (shiftOp_double hf ..)
  · refine writes1_binaryOp exec_rot h ((shiftOp_double hf ..).trans ?_)
    rw [rotateRight_of_lt _ (Nat.mod_lt _ (by decide))]
  · exact writes1_binaryOp exec_shl h (shiftOp_word hf ..)
  · exact writes1_binaryOp exec_shr h (shiftOp_word hf ..)
  · exact writes1_binaryOp exec_sar h (shiftOp_word hf ..)
  · refine writes1_binaryOp exec_rot h ((shiftOp_word hf ..).trans ?_)
    rw [rotateRight_of_lt _ (Nat.mod_lt _ (by decide))]
  · refine writes1_binaryOp exec_min h ?_
    rw [if_congr ((lessThan_signed hf ..).trans Int.not_le.symm) rfl rfl, ite_not]
  · refine writes1_binaryOp exec_max h ?_
    rw [if_congr ((lessThan_signed hf ..).trans Int.not_le.symm) rfl rfl, ite_not]
  · exact writes1_cmp h (compares_eq _ _ hf)
  · refine writes1_binaryOp exec_min h ?_
    rw [if_congr ((lessThan_unsigned hf ..).trans Nat.not_le.symm) rfl rfl, ite_not]
  · refine writes1_binaryOp exec_max h ?_
    rw [if_congr ((lessThan_unsigned hf ..).trans Nat.not_le.symm) rfl rfl, ite_not]
  · exact writes1_cmp h (compares_ne _ _ hf)

/-! ## Division -/

theorem writesLong_finishL {i : Instr} {s : State} {o : Opnd} {gs : List (BitVec 6 × Word)} {vs : List (BitVec 5 × BitVec 4096)}
    {fl : BitVec 6} {n : Nat} (h : exec i s = .next (finishL s o gs vs fl o.feD n)) (hg : (gs.map Prod.fst).Nodup)
    (hv : (vs.map Prod.fst).Nodup) : writesLong i s o gs fl n vs :=
  ⟨_, h, wroteLong_finishL s o gs vs fl o.feD n hg hv⟩

theorem execRem_of_reads2 {s : State} {o : Opnd} {x y : Word} (h : reads2 s o x y) :
    execRem o s = .next (finishL s o [(o.d, (divide o.fn x y).2.1)] [] (divide o.fn x y).2.2 o.feD (divLatency o.fn)) := by
  obtain ⟨⟨⟨hp, hd⟩, hx⟩, hy⟩ := h
  rw [execRem, hx, hy, hd]
  exact issue_ok hp

/-- What DIV and REM write, of the operands, the form of the result and the latency of a function code (R278, R236). -/
theorem divisions_of_form {s : State} {o : Opnd} {x y : Word} (h : reads2 s o x y) {a b : Int} {put : Int → Word} {n : Nat}
    (ha : divOperand o.fn x = a) (hb : divOperand o.fn y = b) (hput : ∀ v, divResult o.fn v = put v)
    (hn : divLatency o.fn = n) :
    (b ≠ 0 → writesLong (.div o) s o [(o.d, put (a.tdiv b))] 0 n ∧ writesLong (.rem o) s o [(o.d, put (a.tmod b))] 0 n)
      ∧ (b = 0 → writesLong (.div o) s o [(o.d, 0)] 8 n ∧ writesLong (.rem o) s o [(o.d, put a)] 8 n) := by
  have hdiv := execDiv_of_reads2 h
  have hrem := execRem_of_reads2 h
  rw [divide, ha, hb, hn] at hdiv hrem
  simp only [hput] at hdiv hrem
  refine ⟨fun h0 => ?_, fun h0 => ?_⟩
  · rw [if_neg h0] at hdiv hrem
    exact ⟨writesLong_finishL hdiv (List.nodup_singleton _) List.nodup_nil, writesLong_finishL hrem (List.nodup_singleton _) List.nodup_nil⟩
  · rw [if_pos h0] at hdiv hrem
    exact ⟨writesLong_finishL hdiv (List.nodup_singleton _) List.nodup_nil, writesLong_finishL hrem (List.nodup_singleton _) List.nodup_nil⟩

theorem extract_ofInt (v : Int) : (BitVec.ofInt 64 v).extractLsb' 0 32 = BitVec.ofInt 32 v := by
  apply BitVec.eq_of_toNat_eq
  simp [BitVec.extractLsb'_toNat, BitVec.toNat_ofInt]
  omega

/-- Settles O3, a function code at a time. -/
theorem divisions : Obligations.Divisions := by
  unfold Obligations.Divisions
  dsimp only
  intro o s x y h
  refine ⟨fun hf => ?_, fun hf => ?_, fun hf => ?_, fun hf => ?_⟩
  · exact divisions_of_form h (by rw [hf]; rfl) (by rw [hf]; rfl) (fun v => by rw [hf]; rfl) (by rw [hf]; rfl)
  · exact divisions_of_form h (by rw [hf]; rfl) (by rw [hf]; rfl) (fun v => by rw [hf]; rfl) (by rw [hf]; rfl)
  · exact divisions_of_form (put := fun v => (BitVec.ofInt 32 v).signExtend 64) h (by rw [hf]; rfl) (by rw [hf]; rfl)
      (fun v => by rw [hf, ← extract_ofInt]; rfl) (by rw [hf]; rfl)
  · exact divisions_of_form (put := fun v => (BitVec.ofInt 32 v).setWidth 64) h (by rw [hf]; rfl) (by rw [hf]; rfl)
      (fun v => by rw [hf, ← extract_ofInt]; rfl) (by rw [hf]; rfl)

/-! ## One source, selection and fields -/

theorem shiftLeft_eq_mul_pow (x : Word) (n : Nat) : x <<< n = x * BitVec.ofNat 64 (2 ^ n) := by
  rw [BitVec.shiftLeft_eq_mul_twoPow]
  congr 1
  apply BitVec.eq_of_toNat_eq
  rw [BitVec.toNat_twoPow, BitVec.toNat_ofNat]

theorem word_natAbs (x : Word) : word x.toInt.natAbs = if x.toInt < 0 then -x else x := by
  unfold word
  rw [← BitVec.ofInt_natCast]
  split
  · next h => rw [Int.ofNat_natAbs_of_nonpos (by omega), BitVec.ofInt_neg, BitVec.ofInt_toInt]
  · next h => rw [Int.natAbs_of_nonneg (by omega), BitVec.ofInt_toInt]

theorem leadingZeros_bounds {w n : Nat} (hn : n < 2 ^ w) :
    leadingZeros w n ≤ w ∧ n < 2 ^ (w - leadingZeros w n) ∧ (leadingZeros w n < w → 2 ^ (w - 1 - leadingZeros w n) ≤ n) := by
  unfold leadingZeros
  split
  · next h => subst h; simp
  · next h =>
    have hlog : n.log2 < w := (Nat.log2_lt h).2 hn
    refine ⟨by omega, ?_, fun _ => ?_⟩
    · rw [show w - (w - 1 - n.log2) = n.log2 + 1 by omega]; exact Nat.lt_log2_self
    · rw [show w - 1 - (w - 1 - n.log2) = n.log2 by omega]; exact Nat.log2_self_le h

theorem popCount_eq_countP {n : Nat} (x : BitVec n) : popCount x = (List.range n).countP (fun i => x.getLsbD i) := by
  unfold popCount
  have key (l : List Nat) (c : Nat) :
      l.foldl (fun c i => if x.getLsbD i then c + 1 else c) c = c + l.countP (fun i => x.getLsbD i) := by
    induction l generalizing c with
    | nil => rfl
    | cons a l ih => rw [List.foldl_cons, ih, List.countP_cons]; split <;> omega
  rw [key, Nat.zero_add]

theorem popCount_low (x : Word) : popCount (x.extractLsb' 0 32) = (List.range 32).countP (fun i => x.getLsbD i) := by
  rw [popCount_eq_countP]
  refine List.countP_congr fun i hi => ?_
  simp [List.mem_range.1 hi]

theorem bitField_zero (pos len : Nat) (x : Word) : bitField false pos len x = BitVec.ofNat 64 (x.toNat / 2 ^ pos % 2 ^ len) := by
  have h : x.toNat < 2 ^ 128 := by omega
  simp only [bitField, BitVec.toNat_ushiftRight, BitVec.toNat_setWidth, Nat.mod_eq_of_lt h, Nat.shiftRight_eq_div_pow, Bool.false_eq_true, if_false]

theorem readInt_eq_bmod {len : Nat} (hlen : 0 < len) (x : Nat) : readInt true len x = Int.bmod x (2 ^ len) := by
  obtain ⟨k, rfl⟩ : ∃ k, len = k + 1 := ⟨len - 1, by omega⟩
  unfold readInt Int.bmod
  simp only [Bool.true_and, decide_eq_true_eq, Nat.add_sub_cancel]
  have hpow : 2 ^ (k + 1) = 2 * 2 ^ k := by rw [Nat.pow_succ]; omega
  rw [hpow]
  generalize 2 ^ k = p
  split_ifs <;> omega

theorem bitField_sign {pos len : Nat} (hpos : pos < 64) (hlen : len ≤ 64) (h0 : 0 < len) (x : Word) :
    bitField true pos len x = BitVec.ofInt 64 (Int.bmod (x.toInt / 2 ^ pos) (2 ^ len)) := by
  simp only [bitField, if_true]
  have hsign : (x.signExtend 128).toInt = x.toInt := BitVec.toInt_signExtend_of_le (by decide)
  obtain ⟨c, hc⟩ : ∃ c : Int, ((x.signExtend 128).toNat : Int) = x.toInt + c * 2 ^ 128 := by
    rw [← hsign, BitVec.toInt_eq_toNat_cond]
    split
    · exact ⟨0, by ring⟩
    · exact ⟨1, by push_cast; ring⟩
  have hpow : (2 : Int) ^ 128 = 2 ^ len * 2 ^ (128 - pos - len) * 2 ^ pos := by
    rw [← pow_add, ← pow_add]; congr 1; omega
  rw [readInt_eq_bmod h0, BitVec.toNat_ushiftRight, Nat.shiftRight_eq_div_pow]
  push_cast
  rw [hc, hpow, ← mul_assoc, Int.add_mul_ediv_right _ _ (by positivity), mul_left_comm]
  exact congrArg _ (mod_cast Int.add_mul_bmod_self_left _ (2 ^ len) _)

theorem insertField_getLsbD {pos len : Nat} (hlen : len ≤ 64) (old new : Word) {i : Nat} (hi : i < 64) :
    (insertField pos len old new).getLsbD i = if pos ≤ i ∧ i < pos + len then new.getLsbD (i - pos) else old.getLsbD i := by
  have hmask : (word (2 ^ len - 1) <<< pos).getLsbD i = (decide (pos ≤ i) && decide (i < pos + len)) := by
    rw [BitVec.getLsbD_shiftLeft, BitVec.getLsbD_ofNat, Nat.testBit_two_pow_sub_one]
    have hlow : pos ≤ i → (i - pos < len ↔ i < pos + len) := by omega
    grind
  rw [insertField, BitVec.getLsbD_or, BitVec.getLsbD_and, BitVec.getLsbD_and, BitVec.getLsbD_not, hmask, BitVec.getLsbD_shiftLeft]
  by_cases h1 : pos ≤ i
  · by_cases h2 : i < pos + len <;> simp [h1, h2, hi]
  · simp [h1, hi]

theorem writes1_of_body {i : Instr} {s : State} {o : Opnd} {body : Res State} {d : BitVec 6} {r : Word} {fl : BitVec 6} {n : Nat}
    (hi : exec i s = issue s o body) (hp : s.mgmt.powered = true) (hb : body = .ok (finishG s o d r fl n)) :
    writes1 i s o d r fl :=
  finishG_writes (hi.trans (hb ▸ issue_ok hp))

/-- The absolute value under .S, with its flag (R279). -/
def absSat (x : Word) : Word × BitVec 6 :=
  let r := satInt true 64 (x.toInt.natAbs : Int)
  (BitVec.ofInt 64 r.1, r.2)

theorem absSat_least {x : Word} (h : x.toInt = -2 ^ 63) : absSat x = (BitVec.ofInt 64 (2 ^ 63 - 1), 32) := by
  rw [absSat, h]; rfl

theorem absSat_other {x : Word} (h : x.toInt ≠ -2 ^ 63) : absSat x = (if x.toInt < 0 then -x else x, 0) := by
  have hlo := BitVec.le_toInt x
  have hhi := BitVec.toInt_lt (x := x)
  rw [absSat, satInt_signed, if_pos (by omega), max_eq_right (by omega), min_eq_right (by omega), ← word_natAbs,
    BitVec.ofInt_natCast]

/-- Settles O4, the forms with one source, then LI, SEL and the fields. -/
theorem integerUnarySelectAndFields : Obligations.IntegerUnarySelectAndFields := by
  unfold Obligations.IntegerUnarySelectAndFields
  dsimp only
  refine ⟨fun o s => ⟨fun x h => ⟨?_, ?_, fun hf => ?_, fun hf => ?_, fun hl => ⟨⟨leadingZeros 64 x.toNat, ?_, ?_⟩, ?_⟩,
    fun hl => ⟨⟨leadingZeros 32 (x.extractLsb' 0 32).toNat, ?_, ?_⟩, ?_⟩⟩,
    fun h => ⟨fun hf => ?_, fun hf hc => ?_, fun hf hc => ?_⟩⟩, fun o s x h => ⟨fun y z hy hz => ?_, fun hf => ?_, fun hf => ?_,
    fun old hold => ⟨insertField o.b.toNat (o.c.toNat + 1) old x, ?_, ?_⟩⟩⟩
  · exact writes1_unaryOp exec_addi h (by rw [shiftLeft_eq_mul_pow])
  · exact writes1_unaryOp exec_mov h rfl
  · refine writes1_unaryOp exec_abs h ?_
    rw [if_neg (by rw [hf]; decide), word_natAbs]
  · have e (r : Word) (fl : BitVec 6) (hs : absSat x = (r, fl)) : writes1 (.abs o) s o o.d r fl :=
      writes1_unaryOp exec_abs h ((if_pos hf).trans hs)
    split
    · next hx => exact e _ _ (absSat_least hx)
    · next hx => exact e _ _ (absSat_other hx)
  · refine writes1_unaryOp exec_clz h ?_
    rw [if_neg (by rw [hl]; decide)]
  · exact leadingZeros_bounds x.isLt
  · refine writes1_unaryOp exec_popc h ?_
    rw [if_neg (by rw [hl]; decide), popCount_eq_countP]
  · refine writes1_unaryOp exec_clz h ?_
    rw [if_pos hl]
  · simpa [BitVec.extractLsb'_toNat] using leadingZeros_bounds (x.extractLsb' 0 32).isLt
  · refine writes1_unaryOp exec_popc h ?_
    rw [if_pos hl, popCount_low]
  · refine writes1_of_body (n := 1) exec_li h.1 ?_
    rw [h.2, if_neg (by rw [hf]; decide)]
    rfl
  · refine writes1_of_body (n := 1) exec_li h.1 ?_
    rw [h.2, if_pos hf, if_neg (by rw [hc]; decide)]
    rfl
  · refine writes1_of_body (n := 1) exec_li h.1 ?_
    rw [h.2, if_pos hf, if_pos hc]
    rfl
  · refine writes1_of_body (n := 1) exec_sel h.1.1 ?_
    rw [h.2, hy, hz, h.1.2, ite_not]
    rfl
  · refine writes1_unaryOp exec_bfx h ?_
    rw [hf]
    exact congrArg (·, 0) (bitField_zero ..)
  · refine writes1_unaryOp exec_bfx h ?_
    rw [hf]
    exact congrArg (·, 0) (bitField_sign o.b.isLt o.c.isLt (Nat.succ_pos _) x)
  · refine writes1_of_body (n := 1) exec_bfi h.1.1 ?_
    rw [h.2, hold]
    rfl
  · exact fun i hi => insertField_getLsbD o.c.isLt old x hi

end Sys2Proof.Machine
end

section
/-! SUPPORT. The scalar floating instructions and the conversions: O6 and O8. -/

namespace Sys2Proof.Machine

/-! ## Scalar floating instructions (R280) -/

theorem writes1_floatOp {i : Instr} {s : State} {o : Opnd} {x y : Word} {f : Word → Word → Word × BitVec 6} {n : Nat}
    (hi : exec i s = floatOp s o n f) (h : reads2 s o x y) : writes1 i s o o.d (f x y).1 (f x y).2 := by
  obtain ⟨⟨⟨hp, hd⟩, hx⟩, hy⟩ := h
  rw [floatOp, hx, hy, hd] at hi
  exact writes1_of_body (n := n) hi hp rfl

theorem eqNum_of_isNaN {x y : NumVal} (h : isNaN x = true) : eqNum x y = false ∧ ltNum false x y = false := by
  obtain rfl : x = .nan := by simpa [isNaN] using h
  simp [eqNum, ltNum, isNaN]

theorem writes1_fcmp {s : State} {o : Opnd} {x y : Word} (h : reads2 s o x y) {n : Nat} (hn : o.fn.toNat / 4 = n) :
    let f := floatFmt (o.fn.toNat % 4)
    writes1 (.fcmp o) s o o.d
      (if numCond n (floatOperand f s.cur.mode x) (floatOperand f s.cur.mode y) then 1 else 0) 0 := by
  subst hn
  exact writes1_floatOp exec_fcmp h

/-- Settles O6, by the exact result of each operation, rounded once. -/
theorem floatingArithmeticAndOrder : Obligations.FloatingArithmeticAndOrder := by
  unfold Obligations.FloatingArithmeticAndOrder
  refine ⟨fun o s x y h => ⟨writes1_floatOp exec_fadd h, writes1_floatOp exec_fmul h, fun z hz => ?_⟩,
    fun o s x y h => ⟨writes1_floatOp exec_fmin h, writes1_floatOp exec_fmax h, writes1_fcmp h, writes1_fcmp h, writes1_fcmp h,
      writes1_fcmp h, eqNum_of_isNaN⟩⟩
  obtain ⟨⟨⟨hp, hd⟩, hx⟩, hy⟩ := h
  refine writes1_of_body (n := 4) exec_ffma hp ?_
  rw [hx, hy, hz, hd]
  rfl

/-! ## Conversions (R281) -/

theorem intWord_eq (code : Nat) (v : Int) : intWord code v =
    if code = 1 then (BitVec.ofInt 32 v).signExtend 64 else if code = 3 then (BitVec.ofInt 32 v).setWidth 64 else BitVec.ofInt 64 v := by
  rw [intWord, sx32, zx32, extract_ofInt]

theorem satInt_eq {sg : Bool} {w : Nat} (v : Int) (h : intMin sg w ≤ intMax sg w) : satInt sg w v =
    (max (intMin sg w) (min (intMax sg w) v), if intMin sg w ≤ v ∧ v ≤ intMax sg w then 0 else 32) := by
  unfold satInt
  split
  · rw [if_neg (by omega)]; simp only [Prod.mk.injEq, and_true]; omega
  · split
    · rw [if_neg (by omega)]; simp only [Prod.mk.injEq, and_true]; omega
    · rw [if_pos (by omega)]; simp only [Prod.mk.injEq, and_true]; omega

theorem intMin_le_intMax (code : Nat) : intMin (intType code).1 (intType code).2 ≤ intMax (intType code).1 (intType code).2 := by
  unfold intType
  split <;> decide

theorem writes1_cvt {s : State} {o : Opnd} {x : Word} (h : reads1 s o x) {r : Word} {fl : BitVec 6}
    (hc : convert s.cur.mode o.fn.toNat o.c.toNat (o.lvl = 1) x = (r, fl)) : writes1 (.cvt o) s o o.d r fl :=
  writes1_unaryOp exec_cvt h hc

theorem intWord_toNat (c : BitVec 5) (v : Int) : intWord c.toNat v =
    if c = 1 then (BitVec.ofInt 32 v).signExtend 64 else if c = 3 then (BitVec.ofInt 32 v).setWidth 64
      else BitVec.ofInt 64 v := by
  have code (n : Nat) (hn : n < 32) : c.toNat = n ↔ c = BitVec.ofNat 5 n := by
    rw [← BitVec.toNat_inj, BitVec.toNat_ofNat, Nat.mod_eq_of_lt (by omega)]
  rw [intWord_eq]
  exact if_congr (code 1 (by decide)) rfl (if_congr (code 3 (by decide)) rfl rfl)

theorem convert_int {mode : BitVec 6} {d c : Nat} (x : Word) (hc : c ≤ 3) (hd : d ≤ 3) (wrap : Bool) :
    let v := readInt (intType c).1 (intType c).2 x.toNat
    let lo := intMin (intType d).1 (intType d).2
    let hi := intMax (intType d).1 (intType d).2
    convert mode d c wrap x = if wrap then (intWord d v, 0)
      else (intWord d (max lo (min hi v)), if lo ≤ v ∧ v ≤ hi then 0 else 32) := by
  dsimp only
  rw [convert, if_pos hc]
  dsimp only
  rw [if_pos hd, satInt_eq _ (intMin_le_intMax d)]

/-- Settles O8, a pair of kinds of types at a time. -/
theorem conversions : Obligations.Conversions := by
  unfold Obligations.Conversions
  dsimp only
  intro o s x h
  simp only [← intWord_toNat]
  refine ⟨fun hc hf => ?_, fun hc hf => ?_, fun hc hf => ?_, fun hc hf => ?_⟩
  · have hr := convert_int (mode := s.cur.mode) x hc hf (decide (o.lvl = 1))
    split
    · next hl => exact writes1_cvt h (hr.trans (if_pos (decide_eq_true hl)))
    · next hl => exact writes1_cvt h (hr.trans (if_neg (fun hw => hl (of_decide_eq_true hw))))
  · exact writes1_cvt h (by rw [convert, if_pos hc]; dsimp only; rw [if_neg (by omega)])
  · exact writes1_cvt h (by rw [convert, if_neg (by omega)]; dsimp only; rw [if_pos hf]; rfl)
  · exact writes1_cvt h (by rw [convert, if_neg (by omega)]; dsimp only; rw [if_neg (by omega)])

end Sys2Proof.Machine
end

section
/-! SUPPORT. The reset state and the words written out: O57 and O60. -/

namespace Sys2Proof

open Machine
/-- Settles O60: each word is decoded by evaluation. -/
theorem wordsDecode : Obligations.WordsDecode := by
  unfold Obligations.WordsDecode
  dsimp only
  refine ⟨by decide, by decide, by decide, by decide, by decide, by decide, by decide, by decide, ⟨_, rfl, by decide⟩,
    by decide, by decide, by decide, by decide, by decide, by decide, by decide, by decide⟩

theorem mem_allSlots_reset {t : Slot} (ht : t ∈ allSlots State.reset) : t = State.reset.cur :=
  List.mem_singleton.1 ht

/-- Settles O57: the fields of the reset state are their defaults. -/
theorem resetState : Obligations.ResetState := by
  unfold Obligations.ResetState
  dsimp only
  refine ⟨fun a => rfl, fun a => rfl, fun r => ?_, fun r => ?_, fun r => ?_, fun g => rfl, fun n => ?_, fun n => ?_, fun k => rfl,
    fun d n => ?_, fun q => ⟨rfl, rfl, rfl, rfl⟩, fun t ht => ?_, fun n => rfl, rfl, rfl, rfl, rfl, rfl, by decide⟩
  · unfold gval
    split
    · rfl
    · exact Vector.getElem_replicate ..
  · exact Vector.getElem_replicate ..
  · simp [gIsEmpty, State.reset]
  · simp [State.reset]
  · simp [State.reset]
  · fin_cases d <;> exact ⟨rfl, rfl, rfl, rfl, rfl⟩
  · rw [mem_allSlots_reset ht]
    exact ⟨rfl, rfl, rfl⟩

end Sys2Proof
end

section
/-! SUPPORT. TRAP and the user handler: O11. -/

namespace Sys2Proof.Machine

/-! ## TRAP (R265, R428 to R431) -/

theorem report_code (s : State) (t : Slot) (w : Site) (f : FaultInfo) :
    (report s t w f).extractLsb' 0 8 = f.code := by
  unfold report
  exact BitVec.extractLsb'_append_eq_right

/-- Empty registers of g60 to g63 are full in the handler. -/
theorem gIsEmpty_enterHandler (t : Slot) (rep : BitVec 512) (link : Word) (r : BitVec 6) :
    gIsEmpty (enterHandler t rep link) r =
      if r = 63 ∨ r = 62 ∨ r = 61 ∨ r = 60 then false else gIsEmpty t r := by
  change gIsEmpty (setG (setG (setG (setG t _ _) _ _) _ _) _ _) r = _
  simp only [gIsEmpty_setG]
  grind

theorem gIsEmpty_enterHandler_of_lt (t : Slot) (rep : BitVec 512) (link : Word) {r : BitVec 6} (hr : r.toNat < 60) :
    gIsEmpty (enterHandler t rep link) r = gIsEmpty t r := by
  rw [gIsEmpty_enterHandler, if_neg]
  bv_omega

theorem gIsEmpty_enterHandler_of_le (t : Slot) (rep : BitVec 512) (link : Word) {r : BitVec 6} (hr : 60 ≤ r.toNat) :
    gIsEmpty (enterHandler t rep link) r = false := by
  rw [gIsEmpty_enterHandler, if_pos]
  bv_omega

/-- What entry to the handler changes of a slot. -/
theorem enterHandler_eq (t : Slot) (rep : BitVec 512) (link : Word) :
    enterHandler t rep link = { t with
      g := (enterHandler t rep link).g, gEmpty := (enterHandler t rep link).gEmpty, trapv := BitVec.allOnes 64
      ctl := { t.ctl with pc := t.trapv, blocked := none, issued := true, hold := 8 } } := by
  simp [enterHandler, setG]

/-- The stop of a control stream whose event ends the launch at the end of the cc. -/
def stopFor (t : Slot) (e : Event) : Slot := { t with ending := [e], ctl := { t.ctl with issued := true } }

/-- A user trap of the control stream ends the launch where no handler is armed. -/
theorem takeFault_unarmed {s : State} {w : Site} {f : FaultInfo} {link : Word} (hslot : w.slot = s.cur.id)
    (hsrc : w.source = 0) (hu : disposition f.code = 2) (ha : armed s.cur = false) (hend : s.cur.ending = []) :
    takeFault s w f link = onCur s (stopFor · (userEvent s w f)) := by
  simp [takeFault, hslot, hsrc, hu, ha, hend, userEvent, sourceStream, modStream, onCur, endLater, modSlot, putEvent, stopFor]

/-- At the end of the cc such an event ends the launch of the item. -/
theorem endSlot_stopFor (s : State) {e : Event} (he : e.disp = 2) :
    let t := onCur s (stopFor · e)
    endSlot t s.cur.id = endItem { t with cur := { t.cur with ending := [] } } s.cur.id e.report := by
  simp [endSlot, onCur, slotOf, stopFor, he, modSlot]

/-- Settles O11, with an armed handler on a drained and on an undrained stream, and without. -/
theorem trapEntersTheUserHandler : Obligations.TrapEntersTheUserHandler := by
  unfold Obligations.TrapEntersTheUserHandler
  dsimp only
  intro o s hp hend
  set f : FaultInfo := { code := 0x2E, operand := o.imm16.setWidth 64 }
  have hexec : exec (.trap o) s = .next (takeFault s (ctlSite s o) f (codeOff s + word (Fmt.bytes o.fmt))) := by
    rw [exec_trap, execTrap, issueTrap, hp]
    rfl
  have hcode := report_code s s.cur (ctlSite s o) f
  have hcoff := (report_coff s s.cur (ctlSite s o) f).trans (ctlSite_coff s o)
  have hop := report_operand s s.cur (ctlSite s o) f
  cases ha : armed s.cur with
  | false =>
    rw [takeFault_unarmed rfl rfl rfl ha hend] at hexec
    exact ⟨_, hexec, hcode, hcoff, hop, fun r _ => ⟨rfl, rfl⟩, sameBytes_onCur rfl, nofun, nofun,
      fun _ => ⟨_, rfl, rfl, endSlot_stopFor s rfl⟩⟩
  | true =>
    rw [takeFault_armed rfl rfl rfl ha hend] at hexec
    cases hdr : ctlDrained s s.cur with
    | false =>
      rw [takeHandled_not_drained hdr] at hexec
      exact ⟨_, hexec, hcode, hcoff, hop, fun r _ => ⟨rfl, rfl⟩, sameBytes_onCur rfl, nofun,
        fun _ _ => ⟨_, rfl, rfl⟩, nofun⟩
    | true =>
      rw [takeHandled_drained hdr] at hexec
      refine ⟨_, hexec, hcode, hcoff, hop, fun r hr => ⟨gval_enterHandler_of_lt _ _ _ hr, gIsEmpty_enterHandler_of_lt _ _ _ hr⟩,
        sameBytes_onCur (enterHandler_banks ..), fun _ _ => ⟨gval_enterHandler .., ?_, ?_, gval_enterHandler ..,
        fun r hr => gIsEmpty_enterHandler_of_le _ _ _ hr, ?_⟩, nofun, nofun⟩
      · exact (gval_enterHandler ..).trans (congrArg zx hcoff)
      · exact (gval_enterHandler ..).trans hop
      · exact congrArg (fun c => { s with cur := c }) (enterHandler_eq ..)

end Sys2Proof.Machine
end

section
/-! SUPPORT. System registers, modes, features and time: O12, with the rules of checks and of instructions without a result. -/

namespace Sys2Proof.Machine

/-! ## The checks of an instruction, one after another -/

@[simp] theorem res_ok_bind {α β : Type} (x : α) (f : α → Res β) : (Except.ok x >>= f) = f x := rfl

@[simp] theorem res_error_bind {α β : Type} (e : Stop) (f : α → Res β) : ((Except.error e : Res α) >>= f) = Except.error e := rfl

@[simp] theorem res_ok_map {α β : Type} (x : α) (f : α → β) : (f <$> (Except.ok x : Res α)) = Except.ok (f x) := rfl

@[simp] theorem res_pure {α : Type} (x : α) : (pure x : Res α) = Except.ok x := rfl

@[simp] theorem need_true (code : BitVec 8) (operand : Word) : need true code operand = .ok () := rfl

@[simp] theorem need_false (code : BitVec 8) (operand : Word) : need false code operand = raise code operand := rfl

@[simp] theorem raise_bind {α β : Type} (code : BitVec 8) (operand : Word) (elem : BitVec 32) (f : α → Res β) :
    ((raise code operand elem : Res α) >>= f) = raise code operand elem := rfl

/-! ## Instructions that go on without a result, and that fault at issue -/

theorem advance_onCur {s : State} {o : Opnd} {f : Slot → Slot} (h : (f s.cur).ctl = s.cur.ctl) :
    advance (onCur s f) o = wentOn s o (f s.cur) := by
  simp [advance, jump, onCur, wentOn, h]

theorem wentOn_of_body {i : Instr} {s : State} {o : Opnd} {body : Res State} {f : Slot → Slot}
    (hi : exec i s = issue s o body) (hp : s.mgmt.powered = true) (hb : body = .ok (advance (onCur s f) o))
    (hf : (f s.cur).ctl = s.cur.ctl) : exec i s = .next (wentOn s o (f s.cur)) := by
  rw [hi, hb, issue_ok hp, advance_onCur hf]

theorem finishG_onCur {s : State} {o : Opnd} {f : Slot → Slot} (d : BitVec 6) (x : Word) (h : (f s.cur).ctl = s.cur.ctl) :
    finishG (onCur s f) o d x = wentOn s o (setG (f s.cur) d x) := by
  have hflags (t : Slot) : addFlags t 0 = t := congrArg (fun fl => { t with flags := fl }) BitVec.or_zero
  have hset (t : Slot) : settle .g d.toNat 1 t = t := if_pos (Or.inl (Nat.le_refl 1))
  simp only [finishG, hflags, hset]
  exact advance_onCur (f := fun _ => setG (f s.cur) d x) ((setG_ctl ..).trans h)

theorem faults_of_body {i : Instr} {s : State} {o : Opnd} {body : Res State} {code : BitVec 8} {operand : Word}
    (hi : exec i s = issue s o body) (hp : s.mgmt.powered = true) (hb : body = raise code operand) :
    faults i s o code operand := by
  rw [faults, hi, hb]
  exact issue_fault hp

/-! ## System registers (R272 to R276) -/

theorem sysReg_bfmt {s : State} {t : Slot} (i : Fin 16) : sysReg s t (0x040 + i) = some (t.bfmt[i].setWidth 64) := by
  unfold sysReg
  rw [if_pos (by omega), Nat.add_sub_cancel_left]
  exact congrArg (fun b => some (zx b)) (by simp)

theorem sysReg_sig {s : State} {t : Slot} {i : Nat} (h : i < 4) :
    sysReg s t (0x018 + i) = some (t.sig.extractLsb' (64 * i) 64) := by
  unfold sysReg
  rw [if_neg (by omega), if_pos (by omega), Nat.add_sub_cancel_left]

/-- A number outside the map names no register. -/
theorem sysReg_eq_none {s : State} {t : Slot} {n : Nat} (h : ¬ (n ≤ 0x009 ∨ n = 0x010 ∨ n = 0x011
    ∨ (0x018 ≤ n ∧ n ≤ 0x01B) ∨ (0x040 ≤ n ∧ n ≤ 0x04F) ∨ n = 0x100 ∨ (0x200 ≤ n ∧ n ≤ 0x203))) :
    sysReg s t n = none := by
  unfold sysReg
  rw [if_neg (by omega), if_neg (by omega)]
  split
  case h_18 => rfl
  all_goals omega

theorem checkBfmt_declared {t : Slot} {i : Nat} (hi : i < 16) (hd : (recBmask t.record).getLsbD i = true) :
    checkBfmt t (0x040 + i) = .ok () := by
  rw [checkBfmt, if_pos (by omega), Nat.add_sub_cancel_left, hd]
  rfl

theorem checkBfmt_undeclared {t : Slot} {n : Nat} (h : 0x040 ≤ n ∧ n ≤ 0x04F)
    (hd : (recBmask t.record).getLsbD (n - 0x040) = false) :
    checkBfmt t n = raise 0x08 (word ((n - 0x040) * 2 ^ 18)) := by
  rw [checkBfmt, if_pos h, hd]
  rfl

theorem checkBfmt_other {t : Slot} {n : Nat} (h : ¬ (0x040 ≤ n ∧ n ≤ 0x04F)) : checkBfmt t n = .ok () := if_neg h

theorem writes1_sysrd {o : Opnd} {s : State} {x : Word} {r : Nat} (h : writable s o) (hr : sysReg s s.cur r = some x)
    (hb : checkBfmt s.cur r = .ok ()) (hn : o.imm16.toNat % 4096 = r) : writes1 (.sysrd o) s o o.d x := by
  obtain ⟨hp, hd⟩ := h
  obtain rfl : sysNumber o = r := hn
  refine writes1_of_body (n := 1) exec_sysrd hp ?_
  rw [hd, hb, hr]
  rfl

theorem sysrdReads {o : Opnd} {s : State} (h : writable s o) :
    let n := o.imm16.toNat % 4096
    let c := s.cur
    let is (r : Nat) (x : Word) : Prop := n = r → writes1 (.sysrd o) s o o.d x
    (∀ i, c.item = some i →
      is 0x000 i.wid ∧ is 0x003 (if i.size = 0 then 0 else word i.rank) ∧ is 0x004 (word i.size))
    ∧ is 0x001 (c.tenant.setWidth 64) ∧ is 0x002 (c.context.setWidth 64) ∧ is 0x005 c.seed ∧ is 0x006 c.trapv
    ∧ is 0x007 c.stampb ∧ is 0x008 (c.slips.setWidth 64) ∧ is 0x009 (if c.id.slot then 1 else 0)
    ∧ is 0x010 (c.mode.setWidth 64)
    ∧ (∀ i, i < 4 → is (0x018 + i) (c.sig.extractLsb' (64 * i) 64))
    ∧ (∀ i : Fin 16, (recBmask c.record).getLsbD i = true → is (0x040 + i) (c.bfmt[i].setWidth 64))
    ∧ is 0x100 (c.id.core.setWidth 64) ∧ is 0x200 (s.devid.setWidth 64) ∧ is 0x201 s.pseed
    ∧ is 0x202 (word s.cycle) ∧ is 0x203 (word (s.cycle / 16)) := by
  have plain {r : Nat} {x : Word} (hr : sysReg s s.cur r = some x) (hn : ¬ (0x040 ≤ r ∧ r ≤ 0x04F)) :=
    writes1_sysrd h hr (checkBfmt_other hn)
  refine ⟨fun i hi => ⟨plain ?_ (by decide), plain ?_ (by decide), plain ?_ (by decide)⟩, plain rfl (by decide),
    plain rfl (by decide), plain rfl (by decide), plain rfl (by decide), plain rfl (by decide), plain rfl (by decide),
    plain rfl (by decide), plain rfl (by decide), fun i hi => plain (sysReg_sig hi) (by omega),
    fun i hi => writes1_sysrd h (sysReg_bfmt i) (checkBfmt_declared i.isLt hi), plain rfl (by decide), plain rfl (by decide),
    plain rfl (by decide), plain rfl (by decide), plain rfl (by decide)⟩
  · simp [sysReg, widOf, hi]
  · exact congrArg some (by rw [troupeRank, hi]; dsimp only; split <;> rfl)
  · simp [sysReg, troupeSize, hi]

theorem sysrdFlagsReads {o : Opnd} {s : State} (h : writable s o) :
    (producersDone s.cur = true → s.cur.settling = [] → writes1 (.sysrdFlags o) s o o.d (s.cur.flags.setWidth 64))
    ∧ (producersDone s.cur = false → exec (.sysrdFlags o) s = .next (blockCtl s .producers)) := by
  obtain ⟨hp, hd⟩ := h
  refine ⟨fun hdone hset => writes1_of_body (n := 1) exec_sysrdFlags hp ?_, fun hdone => ?_⟩
  · rw [hdone, hset, hd]
    rfl
  · rw [exec_sysrdFlags, execSysrdFlags, hdone]
    exact issue_block hp

theorem featWord_compute (i : Nat) : featWord .compute i =
    ([0x9400010001000001, 0x3CF, 0xFFFFFFFFFFFF7FFF, 0x1F7F1FFFFFFF001F, 0xFFE, 0xFE, 0x1302101040081210,
      0x1230081F] : List Word).getD i 0 := by
  match i with
  | 0 | 1 | 2 | 3 | 4 | 5 | 6 | 7 => rfl
  | n + 8 => rfl

theorem featWord_attention (i : Nat) : featWord .attention i =
    ([0x9400010001000002, 0x230, 0xFFFFFFFFFFFF7FFF, 0x3F001FFFFFFF001F, 0, 0xF6, 0x1302101000001210,
      0x81F] : List Word).getD i 0 := by
  match i with
  | 0 | 1 | 2 | 3 | 4 | 5 | 6 | 7 => rfl
  | n + 8 => rfl

theorem writes1_feat {o : Opnd} {s : State} {x : Word} {k : CoreKind} (h : reads1 s o x) (hk : coreKind s.cur.id.core = some k) :
    writes1 (.feat o) s o o.d (featWord k (x + o.imm16.setWidth 64).toNat) :=
  writes1_unaryOp exec_feat h (by rw [kindOf, hk]; rfl)

/-- The SIG of the first kept completion that the word names. -/
theorem keptSig_eq (s : State) (x : Word) (tenant : BitVec 16) : keptSig s x tenant =
    ((queueOf s (x.extractLsb' 48 6)).sigs.find? (fun p => p.1 = x.toNat % 2 ^ 48 ∧ p.2.1 = tenant)).map
      (fun p => p.2.2) := by
  simp [keptSig]

theorem exec_signrd_kept {o : Opnd} {s : State} {x : Word} (h : reads1 s o x) {r : Option (BitVec 256)}
    (hr : keptSig s x s.cur.tenant = r) :
    exec (.signrd o) s = .next (wentOn s o (setG { s.cur with sig := r.getD 0 } o.d (ofBool r.isSome))) := by
  obtain ⟨⟨hp, hd⟩, hx⟩ := h
  rw [exec_signrd, execSignrd, hx, hd]
  subst hr
  exact (issue_ok hp).trans (congrArg _ (finishG_onCur (f := fun t => { t with sig := _ }) _ _ rfl))

theorem exec_stamp_reads {o : Opnd} {s : State} {x : Word} (h : reads1 s o x) :
    let v := word s.cycle + x + o.imm16.signExtend 64
    exec (.stamp o) s = .next (wentOn s o (setG { s.cur with stampb := v } o.d v)) := by
  obtain ⟨⟨hp, hd⟩, hx⟩ := h
  rw [exec_stamp, execStamp, hx, hd]
  exact (issue_ok hp).trans (congrArg _ (finishG_onCur (f := fun t => { t with stampb := _ }) _ _ rfl))

theorem modesTimeAndFeatures {o : Opnd} {s : State} (h : writable s o) :
    writes1 (.getmode o) s o o.d (s.cur.mode.setWidth 64)
    ∧ (o.lvl = 0 → writes1 (.rdtime o) s o o.d (word s.cycle))
    ∧ (o.lvl = 1 → writes1 (.rdtime o) s o o.d (word (s.cycle / 16))) := by
  obtain ⟨hp, hd⟩ := h
  refine ⟨writes1_of_body (n := 1) exec_getmode hp (by rw [hd]; rfl),
    fun hl => writes1_of_body (n := 1) exec_rdtime hp (by rw [hd, hl]; rfl),
    fun hl => writes1_of_body (n := 1) exec_rdtime hp (by rw [hd, hl]; rfl)⟩

/-! ## The faults of SYSRD and SYSWR (R35, R273, R274) -/

theorem sysrd_faults {o : Opnd} {s : State} (h : writable s o) {code : BitVec 8} {operand : Word}
    (hn : (checkBfmt s.cur (sysNumber o) = raise code operand)
      ∨ (checkBfmt s.cur (sysNumber o) = .ok () ∧ sysReg s s.cur (sysNumber o) = none ∧ code = 0x03 ∧ operand = 0)) :
    faults (.sysrd o) s o code operand := by
  obtain ⟨hp, hd⟩ := h
  refine faults_of_body exec_sysrd hp ?_
  rw [hd]
  rcases hn with hb | ⟨hb, hr, rfl, rfl⟩
  · rw [hb]; rfl
  · rw [hb, hr]; rfl

/-- A value that no TRAPV may take. -/
theorem trapvOk_eq_false {t : Slot} {x : Word} (h1 : x ≠ BitVec.allOnes 64) (h : x.toNat % 4 ≠ 0 ∨ x.toNat < recCodeva t.record
    ∨ recCodeva t.record + recCodelen t.record ≤ x.toNat) : trapvOk t x = false := by
  simp only [trapvOk, Bool.or_eq_false_iff, decide_eq_false_iff_not, Bool.and_eq_false_iff]
  exact ⟨h1, by omega⟩

theorem trapvOk_eq_true {t : Slot} {x : Word} (h : x = BitVec.allOnes 64 ∨ (x.toNat % 4 = 0 ∧ recCodeva t.record ≤ x.toNat
    ∧ x.toNat < recCodeva t.record + recCodelen t.record)) : trapvOk t x = true := by
  simpa [trapvOk, and_assoc] using h

/-! ## The writes of SYSWR and SETMODE (R38, R92, R106, R274, R276) -/

/-- MODE written, with its entry in the format digest. -/
theorem writeMode_eq (t : Slot) (x : Word) : writeMode t x = { t with
    mode := x.setWidth 6
    digest := sha3 (bytesOf 32 t.digest.toNat ++ bytesOf 2 0x010 ++ bytesOf 4 (x.toNat % 64)) } := by
  have hm : x.extractLsb' 0 6 = x.setWidth 6 := (BitVec.setWidth_eq_extractLsb' (by decide)).symm
  have hb : ((x.setWidth 6).setWidth 32 : BitVec 32).toNat = x.toNat % 64 := by
    rw [BitVec.toNat_setWidth, BitVec.toNat_setWidth]
    omega
  rw [writeMode, hm, digestWrite, hb]

/-- Format register `b` written, with its entry in the format digest. -/
def writeBfmt (t : Slot) (b : Fin 16) (v : BitVec 32) : Slot :=
  { t with
    bfmt := t.bfmt.set b v
    digest := sha3 (bytesOf 32 t.digest.toNat ++ bytesOf 2 (0x040 + b) ++ bytesOf 4 v.toNat) }

theorem digestWrite_bfmt (t : Slot) (b : Fin 16) (v : BitVec 32) :
    digestWrite { t with bfmt := t.bfmt.setIfInBounds b v } (0x040 + b) v = writeBfmt t b v := by
  have hset : t.bfmt.setIfInBounds b v = t.bfmt.set b v :=
    Vector.ext fun i hi => by rw [Vector.getElem_setIfInBounds, Vector.getElem_set]
  simp [digestWrite, writeBfmt, hset]

theorem exec_syswrBfmt_reads {o : Opnd} {s : State} {x : Word} (hp : s.mgmt.powered = true)
    (hx : srcG s.cur o.a o.feA = .ok x) {b : Fin 16} (hn : o.imm16.toNat % 4096 = 0x040 + b)
    (hb : (recBmask s.cur.record).getLsbD b = true) :
    let t := wentOn s o (writeBfmt s.cur b (x.setWidth 32 &&& 0x0F0FFFFF#32))
    let ids := recordsNaming s.cur b
    exec (.syswrBfmt o) s = .next (if ids = [] then t
      else { t with cur := { t.cur with ctl := { t.cur.ctl with blocked := some (.ops ids) } } }) := by
  replace hn : sysNumber o = 0x040 + b := hn
  have hv : x.extractLsb' 0 32 = x.setWidth 32 := (BitVec.setWidth_eq_extractLsb' (by decide)).symm
  dsimp only
  rw [exec_syswrBfmt, execSyswrBfmt, hx, hn, checkBfmt_declared b.isLt hb, Nat.add_sub_cancel_left, ← hv]
  simp only [digestWrite_bfmt]
  refine (issue_ok hp).trans (congrArg _ ?_)
  rw [advance_onCur (f := fun t => writeBfmt t b _) rfl]
  cases recordsNaming s.cur b <;> rfl

theorem syswrAndSetmode {o : Opnd} {s : State} {x : Word} (hp : s.mgmt.powered = true) (hx : srcG s.cur o.a o.feA = .ok x) :
    let c := s.cur
    let goes (i : Instr) (c' : Slot) : Prop := exec i s = .next (wentOn s o c')
    let digest (reg value : Nat) : BitVec 256 :=
      sha3 (bytesOf 32 c.digest.toNat ++ bytesOf 2 reg ++ bytesOf 4 value)
    let mode (y : Word) : Slot := { c with mode := y.setWidth 6, digest := digest 0x010 (y.toNat % 64) }
    goes (.syswrMode o) (mode x)
    ∧ goes (.setmode o) (mode (x ||| o.imm16.signExtend 64))
    ∧ goes (.syswrFlags o) { c with flags := c.flags &&& ~~~(x.setWidth 6) }
    ∧ goes (.syswrStampb o) { c with stampb := x }
    ∧ ((x = BitVec.allOnes 64 ∨ (x.toNat % 4 = 0 ∧ recCodeva c.record ≤ x.toNat
        ∧ x.toNat < recCodeva c.record + recCodelen c.record)) → goes (.syswrTrapv o) { c with trapv := x }) := by
  dsimp only
  refine ⟨?_, ?_, ?_, ?_, fun hok => ?_⟩
  · rw [← writeMode_eq]
    exact wentOn_of_body (f := fun t => writeMode t x) exec_syswrMode hp (by rw [hx]; rfl) rfl
  · rw [← writeMode_eq]
    exact wentOn_of_body (f := fun t => writeMode t _) exec_setmode hp (by rw [hx]; rfl) rfl
  · have hv : x.extractLsb' 0 6 = x.setWidth 6 := (BitVec.setWidth_eq_extractLsb' (by decide)).symm
    rw [← hv]
    exact wentOn_of_body (f := fun t => { t with flags := t.flags &&& ~~~(x.extractLsb' 0 6) }) exec_syswrFlags hp
      (by rw [hx]; rfl) rfl
  · exact wentOn_of_body (f := fun t => { t with stampb := x }) exec_syswrStampb hp (by rw [hx]; rfl) rfl
  · exact wentOn_of_body (f := fun t => { t with trapv := x }) exec_syswrTrapv hp
      (by simp only [hx, res_ok_bind, trapvOk_eq_true hok, need_true, res_pure]) rfl

/-- Settles O12: the registers read, what else reads a register, the faults, and the writes. -/
theorem systemRegisters : Obligations.SystemRegisters := by
  unfold Obligations.SystemRegisters
  dsimp only
  refine ⟨⟨⟨fun o s h => ?_, fun o s h => ?_⟩, fun o s hp => ⟨fun hd => ⟨fun hn => ?_, fun hu => ?_⟩,
    fun x hx => ⟨?_, fun hu => ?_, fun h1 h2 => ?_⟩⟩⟩, fun o s x hp hx => ?_⟩
  · obtain ⟨hitem, htenant, hcontext, hseed, htrapv, hstampb, hslips, hslot, hmode, hsig, hbfmt, hcore, hdevid, hpseed, hcc,
      hrt⟩ := sysrdReads h
    exact ⟨hitem, htenant, hcontext, hseed, htrapv, hstampb, hslips, hslot, hmode, hsig, hbfmt, hcore, hdevid, hpseed, hcc,
      hrt, sysrdFlagsReads h⟩
  · obtain ⟨hm, ht0, ht1⟩ := modesTimeAndFeatures h
    refine ⟨hm, ht0, ht1, fun x hx => ⟨exec_stamp_reads ⟨h, hx⟩, ⟨fun hk => ?_, fun hk => ?_⟩, fun p hkept => ?_,
      fun hkept => ?_⟩⟩
    · exact featWord_compute _ ▸ writes1_feat ⟨h, hx⟩ hk
    · exact featWord_attention _ ▸ writes1_feat ⟨h, hx⟩ hk
    · exact exec_signrd_kept ⟨h, hx⟩ ((keptSig_eq ..).trans (congrArg _ hkept))
    · exact exec_signrd_kept ⟨h, hx⟩ ((keptSig_eq ..).trans (congrArg _ hkept))
  · exact sysrd_faults ⟨hp, hd⟩ (.inr ⟨checkBfmt_other fun hb => hn (by unfold sysNumber at hb; omega), sysReg_eq_none hn, rfl, rfl⟩)
  · exact sysrd_faults ⟨hp, hd⟩ (.inl (checkBfmt_undeclared ⟨hu.1, hu.2.1⟩ hu.2.2))
  · exact faults_of_body exec_syswr hp (by rw [hx]; rfl)
  · exact faults_of_body exec_syswrBfmt hp
      (by simp only [hx, res_ok_bind, checkBfmt_undeclared (n := sysNumber o) ⟨hu.1, hu.2.1⟩ hu.2.2, raise_bind]; rfl)
  · exact faults_of_body exec_syswrTrapv hp
      (by simp only [hx, res_ok_bind, trapvOk_eq_false h1 h2, need_false, raise_bind])
  · obtain ⟨hm, hsm, hf, hb, ht⟩ := syswrAndSetmode hp hx
    exact ⟨hm, hsm, hf, hb, ht, fun b hn hb => exec_syswrBfmt_reads hp hx hn hb⟩

end Sys2Proof.Machine
end

section
/-! SUPPORT. CANCEL and CANCEL.ITEM: O14. -/

namespace Sys2Proof.Machine

/-! ## CANCEL and CANCEL.ITEM (R269, R270, R414) -/

theorem finishG_eq_wentOn (s : State) (o : Opnd) (d : BitVec 6) (x : Word) : finishG s o d x = wentOn s o (setG s.cur d x) :=
  finishG_onCur (f := fun t => t) d x rfl

/-- A slot of the launch of item `i`, and of its troupe (R207). -/
def troupeMember (i : Item) (u : Slot) : Bool :=
  match u.item with
  | some j => j.queue = i.queue && j.ordinal = i.ordinal && decide (j.index + i.rank = i.index + j.rank)
  | none => false

/-- The slots whose items CANCEL.ITEM removes with that of slot `c`. -/
def cancelGang (s : State) (c : SlotId) (i : Item) : List SlotId :=
  if i.size = 0 then [c] else ((allSlots s).filter (troupeMember i)).map (fun u => u.id)

/-- The walker without a reservation for a launch. -/
def unreserve (q : BitVec 6) (n : Nat) (w : Walker) : Walker :=
  if w.reservation = some (q, n) then { w with reservation := none, kept := [] } else w

/-- What CANCEL of a launch of the issuer's context changes. -/
theorem cancelLaunch_own {s : State} {q : BitVec 6} {n : Nat} {tenant context : BitVec 16} {l : Launch}
    (hl : launchOf s q n = some l) (ht : recTenant l.record = tenant) (hc : recContext l.record = context) :
    let s1 := modLaunch s q n (fun m => { m with cancelled := true, unplaceableSince := none })
    cancelLaunch s q n tenant context = (if fullyClaimed l ∨ l.cancelled ∨ l.failed then s
      else { s1 with walkers := s1.walkers.map (unreserve q n) }, word (l.next * 2 ^ 16)) := by
  have hown : ¬ (recTenant l.record ≠ tenant ∨ recContext l.record ≠ context) := by simp [ht, hc]
  rw [cancelLaunch, hl]
  dsimp only
  rw [if_neg hown]
  split <;> rfl

theorem cancelLaunch_cur (s : State) (q : BitVec 6) (n : Nat) (tenant context : BitVec 16) :
    (cancelLaunch s q n tenant context).1.cur = s.cur := by
  unfold cancelLaunch
  split
  · rfl
  · split
    · rfl
    · dsimp only
      split <;> rfl

theorem ne_none_of_isSome {α : Type} {x : Option α} (h : x.isSome = true) : ¬ x.isNone = true := by
  cases x <;> simp_all

section
variable {o : Opnd} {s : State} {x : Word} (h : reads1 s o x)
include h

theorem exec_cancel_reads {s' : State} {w : Word}
    (hc : cancelLaunch s o.c (x.toNat % 2 ^ 48) s.cur.tenant s.cur.context = (s', w)) :
    exec (.cancel o) s = .next (finishG s' o o.d w) := by
  obtain ⟨⟨hp, hd⟩, hx⟩ := h
  have hn : (x.extractLsb' 0 48).toNat = x.toNat % 2 ^ 48 := by simp
  rw [exec_cancel, execCancel, hx, hd]
  simp only [res_ok_bind, hn, hc, res_pure]
  exact issue_ok hp

theorem cancelReads : let n := x.toNat % 2 ^ 48
    (launchOf s o.c n = none → writes1 (.cancel o) s o o.d 1)
    ∧ ∀ l, launchOf s o.c n = some l →
      (recTenant l.record ≠ s.cur.tenant ∨ recContext l.record ≠ s.cur.context → writes1 (.cancel o) s o o.d 2)
      ∧ (recTenant l.record = s.cur.tenant → recContext l.record = s.cur.context →
          let s1 := modLaunch s o.c n (fun m => { m with cancelled := true, unplaceableSince := none })
          let s2 := if fullyClaimed l ∨ l.cancelled ∨ l.failed then s
            else { s1 with walkers := s1.walkers.map (unreserve o.c n) }
          exec (.cancel o) s = .next (wentOn s2 o (setG s.cur o.d (word (l.next * 2 ^ 16))))) := by
  dsimp only
  refine ⟨fun hl => finishG_writes (exec_cancel_reads h (by rw [cancelLaunch, hl])), fun l hl =>
    ⟨fun hne => finishG_writes (exec_cancel_reads h (by rw [cancelLaunch, hl]; exact if_pos hne)), fun ht hc => ?_⟩⟩
  have hown := cancelLaunch_own hl ht hc
  have hcur := cancelLaunch_cur s o.c (x.toNat % 2 ^ 48) s.cur.tenant s.cur.context
  rw [hown] at hcur
  rw [exec_cancel_reads h hown, finishG_eq_wentOn, hcur]

theorem cancelItem_stops {c : SlotId} (hc : (⟨x.extractLsb' 0 8, x.getLsbD 8⟩ : SlotId) = c) :
    (coreKind c.core = none → faults (.cancelItem o) s o 0x0D)
    ∧ ((coreKind c.core).isSome = true →
      ((slotOf s c).bind (fun t => t.item) = none → writes1 (.cancelItem o) s o o.d 1)
      ∧ ∀ t i, slotOf s c = some t → t.item = some i →
        t.tenant ≠ s.cur.tenant ∨ t.context ≠ s.cur.context → writes1 (.cancelItem o) s o o.d 2) := by
  obtain ⟨⟨hp, hd⟩, hx⟩ := h
  subst hc
  dsimp only
  refine ⟨fun hk => faults_of_body exec_cancelItem hp ?_, fun hk => ⟨fun hi => ?_, fun t i ht hi hne => ?_⟩⟩
  · simp only [hx, hd, res_ok_bind, hk]
    rfl
  all_goals
    refine writes1_of_body (n := 1) exec_cancelItem hp ?_
    simp only [hx, hd, res_ok_bind, if_neg (ne_none_of_isSome hk)]
  · rw [Option.bind_eq_none_iff] at hi
    cases ht : slotOf s ⟨x.extractLsb' 0 8, x.getLsbD 8⟩ with
    | none => rfl
    | some t =>
      simp only [hi t ht]
      rfl
  · simp only [ht, hi]
    exact if_pos hne

theorem exec_cancelItem_own {c : SlotId} (hc : (⟨x.extractLsb' 0 8, x.getLsbD 8⟩ : SlotId) = c)
    (hk : (coreKind c.core).isSome = true) {t : Slot} {i : Item} (ht : slotOf s c = some t) (hi : t.item = some i)
    (htenant : t.tenant = s.cur.tenant) (hcontext : t.context = s.cur.context) :
    exec (.cancelItem o) s = .next (if s.cur.id ∈ cancelGang s c i then (cancelGang s c i).foldl removeItem s
      else (cancelGang s c i).foldl removeItem (wentOn s o (setG s.cur o.d 0))) := by
  obtain ⟨⟨hp, hd⟩, hx⟩ := h
  have hown : ¬ (t.tenant ≠ s.cur.tenant ∨ t.context ≠ s.cur.context) := by simp [htenant, hcontext]
  subst hc
  rw [exec_cancelItem, execCancelItem, hx, hd]
  simp only [res_ok_bind, if_neg (ne_none_of_isSome hk), ht, hi, if_neg hown]
  rw [List.filter_congr (q := troupeMember i), finishG_eq_wentOn]
  · generalize hg : cancelGang s _ i = gang
    change issue s o (if (cancelGang s _ i).contains s.cur.id then .ok ((cancelGang s _ i).foldl removeItem s)
      else .ok ((cancelGang s _ i).foldl removeItem (wentOn s o (setG s.cur o.d 0)))) = _
    simp only [hg, List.contains_iff_mem]
    split <;> exact issue_ok hp
  · intro u _
    cases hu : u.item <;> simp [slotRuns, troupeMember, hu]
end

/-- Settles O14, by the launch or the item that the operand names. -/
theorem cancelling : Obligations.Cancelling := by
  unfold Obligations.Cancelling
  refine fun o s x h => ⟨cancelReads h, ?_⟩
  obtain ⟨hnone, hsome⟩ := cancelItem_stops h rfl
  refine ⟨hnone, fun hk => ⟨(hsome hk).1, fun t i ht hi => ⟨(hsome hk).2 t i ht hi, fun htenant hcontext => ?_⟩⟩⟩
  have hown := exec_cancelItem_own h rfl hk ht hi htenant hcontext
  exact ⟨fun hg => hown.trans (congrArg _ (if_pos hg)), fun hg => hown.trans (congrArg _ (if_neg hg))⟩

end Sys2Proof.Machine
end

section
/-! SUPPORT. The elements of a vector group, and the common course of vector instructions. -/

namespace Sys2Proof.Machine

/-! ## Elements of packed bits (R312, R316) -/

theorem elemOf_eq_div (w x j : Nat) : elemOf w x j = x / 2 ^ (w * j) % 2 ^ w := by
  rw [elemOf, Nat.shiftRight_eq_div_pow]

theorem elemOf_lt (w x j : Nat) : elemOf w x j < 2 ^ w := Nat.mod_lt _ (by positivity)

/-- The first element of bits put together, and the others. -/
theorem elemOf_cons_zero (w x y : Nat) : elemOf w (x % 2 ^ w + 2 ^ w * y) 0 = x % 2 ^ w := by
  rw [elemOf_eq_div, Nat.mul_zero, Nat.pow_zero, Nat.div_one, Nat.add_mul_mod_self_left, Nat.mod_mod]

theorem elemOf_cons_succ (w x y e : Nat) : elemOf w (x % 2 ^ w + 2 ^ w * y) (e + 1) = elemOf w y e := by
  rw [elemOf_eq_div, elemOf_eq_div, show w * (e + 1) = w + w * e by ring, Nat.pow_add, ← Nat.div_div_eq_div_mul,
    Nat.add_mul_div_left _ _ (by positivity), Nat.div_eq_of_lt (Nat.mod_lt _ (by positivity)), Nat.zero_add]

theorem elemOf_packElems (w : Nat) (xs : List Nat) (h e : Nat) :
    elemOf w (packElems w xs + h * 2 ^ (xs.length * w)) e =
      if e < xs.length then xs.getD e 0 % 2 ^ w else elemOf w h (e - xs.length) := by
  induction xs generalizing e with
  | nil => simp [packElems]
  | cons x xs ih =>
    have hsplit : packElems w (x :: xs) + h * 2 ^ ((x :: xs).length * w)
        = x % 2 ^ w + 2 ^ w * (packElems w xs + h * 2 ^ (xs.length * w)) := by
      rw [packElems, List.length_cons, Nat.add_mul, Nat.one_mul, Nat.pow_add]
      ring
    rw [hsplit]
    cases e with
    | zero => rw [elemOf_cons_zero]; simp
    | succ e => rw [elemOf_cons_succ, ih e]; simp

theorem elemOf_shiftRight (w x k e : Nat) : elemOf w (x >>> (k * w)) e = elemOf w x (k + e) := by
  rw [elemOf, elemOf, ← Nat.shiftRight_add]
  congr 2
  ring

/-- An element that lies below a bound reads the same with the bits above it cut. -/
theorem elemOf_mod {w e n : Nat} (x : Nat) (h : w * (e + 1) ≤ n) : elemOf w (x % 2 ^ n) e = elemOf w x e := by
  obtain ⟨m, rfl⟩ := Nat.exists_eq_add_of_le h
  rw [elemOf_eq_div, elemOf_eq_div, show w * (e + 1) + m = w * e + (w + m) by ring, Nat.pow_add,
    Nat.mod_mul_right_div_self, Nat.pow_add, Nat.mod_mul_right_mod]

theorem elemOf_ofNat {w e : Nat} (x : Nat) (hw : w ∣ 4096) (he : e < 4096 / w) :
    elemOf w (BitVec.ofNat 4096 x).toNat e = elemOf w x e := by
  rw [BitVec.toNat_ofNat]
  exact elemOf_mod x ((Nat.mul_le_mul_left w he).trans_eq (Nat.mul_div_cancel' hw))

/-! ## Widths, counts and shapes (R312 to R316) -/

theorem vWidth_dvd (t : Slot) : vWidth t ∣ 4096 := by
  have h : ∀ c : BitVec 2, 8 * 2 ^ c.toNat ∣ 4096 := by decide
  exact h t.wcode

theorem vWidth_pos (t : Slot) : 0 < vWidth t := Nat.pos_of_dvd_of_pos (vWidth_dvd t) (by decide)

theorem vCount_ge (t : Slot) : 64 ≤ vCount t := by
  have h : ∀ c : BitVec 2, 64 ≤ 4096 / (8 * 2 ^ c.toNat) := by decide
  exact h t.wcode

theorem vCols_pos (t : Slot) : 0 < vCols t := by
  have hrows : vRows t ≤ 64 := t.rows.isLt
  exact Nat.div_pos (hrows.trans (vCount_ge t)) (Nat.succ_pos _)

theorem shape_le_vCount (t : Slot) : vRows t * vCols t ≤ vCount t := Nat.mul_div_le ..

theorem le_groupSize_mul (a : Nat) {n : Nat} (hn : 0 < n) : a ≤ groupSize a n * n := by
  have hceil : a ≤ (a + n - 1) / n * n := by
    have := Nat.div_add_mod (a + n - 1) n
    have := Nat.mod_lt (a + n - 1) hn
    rw [Nat.mul_comm]
    omega
  exact hceil.trans (Nat.mul_le_mul_right n (Nat.le_max_right ..))

/-! ## Source and destination groups (R316, R319) -/

theorem vreg_toNat {n : Nat} (h : n < 32) : (vreg n).toNat = n := by
  rw [vreg, BitVec.toNat_ofNat, Nat.mod_eq_of_lt h]

theorem srcV_eq_ok {t : Slot} {r : BitVec 5} (fe : Bool) (he : vIsEmpty t r = false) (hs : settled t .v r.toNat = true) :
    srcV t r fe = .ok (vval t r) := by
  simp [srcV, he, hs]

/-- The bits of the first `n` registers of a group. -/
def groupBits (t : Slot) (r n : Nat) : Nat :=
  (List.range n).foldl (fun acc i => acc + (vval t (vreg (r + i))).toNat * 2 ^ (4096 * i)) 0

theorem foldlM_res_ok {α β : Type} (f : β → α → Res β) (g : β → α → β) (xs : List α) (b : β)
    (h : ∀ b, ∀ x ∈ xs, f b x = .ok (g b x)) : xs.foldlM f b = .ok (xs.foldl g b) := by
  induction xs generalizing b with
  | nil => rfl
  | cons x xs ih =>
    rw [List.foldlM_cons, h b x List.mem_cons_self, List.foldl_cons]
    exact ih _ fun b y hy => h b y (List.mem_cons_of_mem _ hy)

theorem srcGroup_of_groupFull {s : State} {r : BitVec 6} {size : Nat} (fe : Bool) (h : groupFull s r size) :
    srcGroup s.cur r size fe = .ok (groupBits s.cur r.toNat size) := by
  obtain ⟨hle, hfull⟩ := h
  have hall : (List.range size).filter (fun i => r.toNat + i < 32) = List.range size := by
    rw [List.filter_eq_self]
    intro i hi
    have := List.mem_range.1 hi
    simp only [decide_eq_true_eq]
    omega
  rw [srcGroup, hall]
  refine foldlM_res_ok _ _ _ _ fun acc i hi => ?_
  obtain ⟨he, hs⟩ := hfull i (List.mem_range.1 hi)
  rw [srcV_eq_ok fe he hs]
  rfl

theorem dstGroup_of_groupFree {s : State} {r : BitVec 6} {size : Nat} (h : groupFree s r size) :
    dstGroup s.cur r size = .ok () := by
  refine foldlM_res_ok _ (fun _ _ => ()) _ _ fun _ i hi => ?_
  rw [dstV, h.2 i (List.mem_range.1 hi)]
  rfl

theorem groupBits_succ (t : Slot) (r n : Nat) :
    groupBits t r (n + 1) = groupBits t r n + (vval t (vreg (r + n))).toNat * 2 ^ (4096 * n) := by
  rw [groupBits, List.range_succ, List.foldl_append]
  rfl

theorem groupBits_lt (t : Slot) (r n : Nat) : groupBits t r n < 2 ^ (4096 * n) := by
  induction n with
  | zero => exact Nat.one_pos
  | succ n ih =>
    have hv := (vval t (vreg (r + n))).isLt
    rw [groupBits_succ, Nat.mul_succ, Nat.pow_add]
    nlinarith

/-- Register `k` of a group's bits. -/
theorem groupBits_div_mod (t : Slot) (r : Nat) {n k : Nat} (h : k < n) :
    groupBits t r n / 2 ^ (4096 * k) % 2 ^ 4096 = (vval t (vreg (r + k))).toNat := by
  induction n with
  | zero => omega
  | succ n ih =>
    rw [groupBits_succ]
    obtain rfl | hk := Nat.eq_or_lt_of_le (Nat.le_of_lt_succ h)
    · rw [Nat.add_mul_div_right _ _ (by positivity), Nat.div_eq_of_lt (groupBits_lt ..), Nat.zero_add,
        Nat.mod_eq_of_lt (vval t _).isLt]
    · obtain ⟨m, rfl⟩ := Nat.exists_eq_add_of_lt hk
      rw [show 4096 * (k + m + 1) = 4096 * m + 4096 + 4096 * k by ring, Nat.pow_add _ _ (4096 * k), ← Nat.mul_assoc,
        Nat.add_mul_div_right _ _ (by positivity), Nat.pow_add _ _ 4096, ← Nat.mul_assoc, Nat.add_mul_mod_self_right]
      exact ih (by omega)

/-- An element of a group's bits is that of its register. -/
theorem elemOf_groupBits {s : State} {r : BitVec 6} {w size j : Nat} (hw : w ∣ 4096) (hj : j < size * (4096 / w)) :
    elemOf w (groupBits s.cur r.toNat size) j = elemAt s r w j := by
  set per := 4096 / w with hper
  have hpos : 0 < per := Nat.pos_of_mul_pos_left (Nat.zero_lt_of_lt hj)
  have hbits : w * per = 4096 := Nat.mul_div_cancel' hw
  have hk : j / per < size := Nat.div_lt_of_lt_mul (by rwa [Nat.mul_comm])
  have he : j % per < per := Nat.mod_lt _ hpos
  have hsplit : w * j = 4096 * (j / per) + w * (j % per) := by
    rw [← hbits, Nat.mul_assoc, ← Nat.mul_add, Nat.div_add_mod]
  rw [elemAt, ← groupBits_div_mod s.cur r.toNat hk, elemOf_mod _ ((Nat.mul_le_mul_left w he).trans_eq hbits),
    elemOf_eq_div, elemOf_eq_div, hsplit, Nat.pow_add, Nat.div_div_eq_div_mul]


/-! ## The destination group (R317) -/

theorem mergeGroup_regs (t : Slot) (d : BitVec 6) (size w : Nat) (z : Bool) (vals : List Nat) :
    (mergeGroup t d size w z vals).map (fun p => p.1) = (List.range size).map (fun i => vreg (d.toNat + i)) := by
  simp [mergeGroup]

theorem vregs_nodup {d size : Nat} (h : d + size ≤ 32) : ((List.range size).map (fun i => vreg (d + i))).Nodup := by
  refine (List.nodup_map_iff_inj_on List.nodup_range).2 fun i hi j hj hij => ?_
  rw [List.mem_range] at hi hj
  have := congrArg BitVec.toNat hij
  rw [vreg_toNat (by omega), vreg_toNat (by omega)] at this
  omega

/-- An element of a register of a group that takes new values from its first element on. -/
theorem elemOf_mergeGroup {t : Slot} {d : BitVec 6} {size w : Nat} {z : Bool} {vals : List Nat} {k : Nat}
    {p : BitVec 5 × BitVec 4096} (hp : (mergeGroup t d size w z vals)[k]? = some p) (hw : w ∣ 4096) {e : Nat}
    (he : e < 4096 / w) :
    elemOf w p.2.toNat e = if k * (4096 / w) + e < vals.length then vals.getD (k * (4096 / w) + e) 0 % 2 ^ w
      else if z then 0 else elemOf w (vval t p.1).toNat e := by
  have hk : k < size := by simpa [mergeGroup] using (List.getElem?_eq_some_iff.1 hp).1
  rw [mergeGroup, List.getElem?_map, List.getElem?_range hk, Option.map_some, Option.some.injEq] at hp
  subst hp
  set per := 4096 / w
  have hlen : ((vals.drop (k * per)).take per).length = min per (vals.length - k * per) := by simp
  dsimp only
  rw [elemOf_ofNat _ hw he, elemOf_packElems]
  by_cases hin : k * per + e < vals.length
  · rw [if_pos hin, if_pos (by omega), List.getD_eq_getElem?_getD, List.getElem?_take_of_lt he, List.getElem?_drop,
      List.getD_eq_getElem?_getD]
  · rw [if_neg hin, if_neg (by omega), elemOf_shiftRight, Nat.add_sub_cancel' (by omega)]
    cases z with
    | false => rfl
    | true => simp [elemOf]

section
variable {i : Instr} {s : State} {o : Opnd} {size w n latency : Nat} {zero : Bool} {g : Nat → Nat × BitVec 6} {rs : List (Nat × BitVec 6)}
  (hrs : rs = (List.range n).map g) (hw : w ∣ 4096)
include hrs hw

theorem writesElems_of_wroteLong {defer : Bool} {t : State} (hexec : exec i s = .next t)
    (hwrote : wroteLong defer s t o [] (mergeGroup s.cur o.d size w zero (rs.map (fun r => r.1)))
      (rs.foldl (fun fl r => fl ||| r.2) 0) latency) : writesElems i s o size w n zero defer g latency := by
  subst hrs
  rw [List.foldl_map] at hwrote
  refine ⟨t, _, hexec, hwrote, mergeGroup_regs .., fun k p hp e he => ?_⟩
  rw [elemOf_mergeGroup hp hw he, List.length_map, List.length_map, List.length_range]
  split
  · next hin => simp [hin]
  · rfl

theorem writesElems_of_finishL {defer : Bool} (hd : o.d.toNat + size ≤ 32) (hexec : exec i s = .next (finishL s o []
    (mergeGroup s.cur o.d size w zero (rs.map (fun r => r.1))) (rs.foldl (fun fl r => fl ||| r.2) 0) defer latency)) :
    writesElems i s o size w n zero defer g latency :=
  writesElems_of_wroteLong hrs hw hexec (wroteLong_finishL _ _ _ _ _ _ _ List.nodup_nil
    ((mergeGroup_regs ..).symm ▸ vregs_nodup hd))

theorem writesElems_of_finishV (hd : o.d.toNat + size ≤ 32) (hexec : exec i s = .next (finishV s o
    (mergeGroup s.cur o.d size w zero (rs.map (fun r => r.1))) (rs.foldl (fun fl r => fl ||| r.2) 0) latency)) :
    writesElems i s o size w n zero false g latency :=
  writesElems_of_wroteLong hrs hw hexec (wrote_finishV _ _ _ _ _ ((mergeGroup_regs ..).symm ▸ vregs_nodup hd))

end

/-! ## The common course of a vector instruction (R316, R317, R319) -/

/-- The elements and the registers that a vector instruction computes. -/
def VecForm.act (v : VecForm) (s : State) (o : Opnd) : Nat := if v.single then activeSingle s.cur o.k else activeCount s.cur o.k

def VecForm.size (v : VecForm) (s : State) (o : Opnd) : Nat :=
  if v.single then 1 else groupSize (activeCount s.cur o.k) (vCount s.cur)

/-- The source bits `x` of a group give its elements. -/
def readsElems (s : State) (r : BitVec 6) (size x : Nat) : Prop :=
  ∀ j, j < size * vCount s.cur → elemOf (vWidth s.cur) x j = elemAt s r (vWidth s.cur) j

theorem readsElems_groupBits (s : State) (r : BitVec 6) (size : Nat) : readsElems s r size (groupBits s.cur r.toNat size) :=
  fun _ hj => elemOf_groupBits (vWidth_dvd _) hj

/-- The sources that a form names are there, and the destination is free. -/
structure VecForm.Ready (v : VecForm) (s : State) (o : Opnd) (g : Word) : Prop where
  powered : s.mgmt.powered = true
  a : v.useA = true → groupFull s o.a (v.size s o)
  b : v.useB = true → groupFull s o.b (v.size s o)
  c : v.useC = true → groupFull s o.c (v.size s o)
  d : v.readD = true → groupFull s o.d (v.size s o)
  g : v.scalarB = true → srcG s.cur o.b o.feB = .ok g
  free : groupFree s o.d (v.size s o)
  width : v.width.getD (vWidth s.cur) = vWidth s.cur
  index : v.indexOk = true

/-- The sources are those that the form names. -/
structure VecForm.Sources (v : VecForm) (s : State) (o : Opnd) (g : Word) (x : VecSrc) : Prop where
  a : v.useA = true → readsElems s o.a (v.size s o) x.a
  b : v.useB = true → readsElems s o.b (v.size s o) x.b
  c : v.useC = true → readsElems s o.c (v.size s o) x.c
  d : v.readD = true → readsElems s o.d (v.size s o) x.d
  g : v.scalarB = true → x.g = g

theorem act_le_size (v : VecForm) (s : State) (o : Opnd) : v.act s o ≤ v.size s o * vCount s.cur := by
  unfold VecForm.act VecForm.size
  split
  · rw [Nat.one_mul]
    exact Nat.min_le_right ..
  · exact le_groupSize_mul _ (Nat.zero_lt_of_lt (vCount_ge s.cur))

/-- A source that is read only where the form names it. -/
theorem optional_bind {α β : Type} {b : Bool} {r : Res α} {x z : α} (h : b = true → r = .ok x) (k : α → Res β) :
    (if b then r >>= k else k z) = k (if b then x else z) := by
  cases b with
  | false => rfl
  | true => rw [h rfl]; rfl

/-- The sources as `vectorOp` reads them. -/
def VecForm.read (v : VecForm) (s : State) (o : Opnd) (g : Word) : VecSrc :=
  let bits (b : Bool) (r : BitVec 6) : Nat := if b then groupBits s.cur r.toNat (v.size s o) else 0
  { a := bits v.useA o.a, b := bits v.useB o.b, c := bits v.useC o.c, d := bits v.readD o.d
    g := if v.scalarB then g else 0 }

theorem VecForm.sources_read (v : VecForm) (s : State) (o : Opnd) (g : Word) : v.Sources s o g (v.read s o g) := by
  have hbits {b : Bool} {r : BitVec 6} (hb : b = true) :
      readsElems s r (v.size s o) (if b then groupBits s.cur r.toNat (v.size s o) else 0) := by
    rw [if_pos hb]
    exact readsElems_groupBits _ _ _
  exact ⟨hbits, hbits, hbits, hbits, fun h => if_pos h⟩

theorem needGroup_of_le {rs : List (BitVec 6)} {size : Nat} (h : ∀ r ∈ rs, r.toNat + size ≤ 32) : needGroup rs size = .ok () := by
  rw [needGroup, need_eq_ok, List.all_eq_true]
  simpa using h

/-- The registers that a form names lie in their groups. -/
theorem VecForm.Ready.needGroup {v : VecForm} {s : State} {o : Opnd} {g : Word} (h : v.Ready s o g) :
    needGroup ([o.d] ++ (if v.useA then [o.a] else []) ++ (if v.useB then [o.b] else [])
      ++ (if v.useC then [o.c] else [])) (v.size s o) = .ok () := by
  refine needGroup_of_le fun r hr => ?_
  simp only [List.mem_append, List.mem_ite_nil_right, List.mem_singleton] at hr
  obtain ((rfl | ⟨hb, rfl⟩) | ⟨hb, rfl⟩) | ⟨hb, rfl⟩ := hr
  exacts [h.free.1, (h.a hb).1, (h.b hb).1, (h.c hb).1]

theorem vectorOp_of_ready {o : Opnd} {s : State} {v : VecForm} {f : VecSrc → Nat → Nat × BitVec 6} {g : Word}
    (h : v.Ready s o g) :
    let rs := (List.range (min (v.act s o) (v.limit.getD (v.act s o)))).map (f (v.read s o g))
    let vs := mergeGroup s.cur o.d (v.size s o) (vWidth s.cur) v.zero (rs.map (fun r => r.1))
    let fl := rs.foldl (fun fl r => fl ||| r.2) 0
    let latency := v.latency + 2 * (v.size s o - 1)
    vectorOp o s v f = .next (if v.long then finishL s o [] vs fl o.feD latency else finishV s o vs fl latency) := by
  have group {b : Bool} {r : BitVec 6} (fe : Bool) (hb : b = true → groupFull s r (v.size s o)) :=
    fun hu => srcGroup_of_groupFull fe (hb hu)
  have hsize : v.size s o = if v.single then 1 else groupSize (v.act s o) (vCount s.cur) := by
    unfold VecForm.size VecForm.act
    split <;> rfl
  have ha := group o.feA h.a
  have hb := group o.feB h.b
  have hc := group o.feC h.c
  have hd := group o.feD h.d
  have hact : (if v.single = true then activeSingle s.cur o.k else activeCount s.cur o.k) = v.act s o := rfl
  rw [vectorOp]
  simp only [hact, ← hsize, res_ok_bind]
  rw [optional_bind ha, optional_bind h.g, optional_bind hb, optional_bind hc, optional_bind hd]
  simp only [h.needGroup, dstGroup_of_groupFree h.free, res_ok_bind, h.width, h.index, decide_true, Bool.and_self, need_true]
  exact issue_ok h.powered

theorem writesElems_vectorOp {i : Instr} {o : Opnd} {s : State} {v : VecForm} {f : VecSrc → Nat → Nat × BitVec 6}
    {y : Word} {g : Nat → Nat × BitVec 6} {n : Nat} (hi : exec i s = vectorOp o s v f) (h : v.Ready s o y)
    (hn : n = min (v.act s o) (v.limit.getD (v.act s o)))
    (hf : ∀ x, v.Sources s o y x → ∀ j, j < n → f x j = g j) :
    writesElems i s o (v.size s o) (vWidth s.cur) n v.zero (v.long && o.feD) g (v.latency + 2 * (v.size s o - 1)) := by
  subst hn
  have hrs := List.map_congr_left fun j hj => hf _ (v.sources_read s o y) j (List.mem_range.1 hj)
  have hexec := hi.trans (vectorOp_of_ready h)
  cases hl : v.long with
  | true => exact writesElems_of_finishL hrs (vWidth_dvd _) h.free.1 (by rw [hexec, hl]; rfl)
  | false => exact writesElems_of_finishV hrs (vWidth_dvd _) h.free.1 (by rw [hexec, hl]; rfl)

end Sys2Proof.Machine
end

section
/-! SUPPORT. Element-wise vector arithmetic: O27, O28 and O29. -/

namespace Sys2Proof.Machine

/-! ## Vector instructions of one and of two operands -/

/-- The forms that read a, and the group of b or general register b. -/
def VecForm.Binary (v : VecForm) : Prop :=
  v = { v with useA := true, useB := !v.scalarB, useC := false, readD := false, single := false, limit := none, indexOk := true }

/-- The forms that read a alone. -/
def VecForm.Unary (v : VecForm) : Prop :=
  v = { v with
    useA := true, useB := false, scalarB := false, useC := false, readD := false, single := false, limit := none, indexOk := true }

/-- The second operand of a two-operand form that is ready. -/
theorem second_source {s : State} {o : Opnd} {size : Nat} {v : VecForm} {y : Nat → Nat} (hv : v.Binary)
    (hsize : v.size s o = size) (h : second s o size (vWidth s.cur) v.scalarB y) :
    ∃ g, (v.scalarB = true → srcG s.cur o.b o.feB = .ok g) ∧ (v.useB = true → groupFull s o.b size)
      ∧ ∀ x, v.Sources s o g x → ∀ j, j < size * vCount s.cur → secondOf v (vWidth s.cur) x j = y j := by
  have hb : v.useB = !v.scalarB := congrArg VecForm.useB hv
  unfold second at h
  cases hg : v.scalarB with
  | true =>
    rw [hg, if_pos rfl] at h
    obtain ⟨g, hsrc, rfl⟩ := h
    refine ⟨g, fun _ => hsrc, fun hu => ?_, fun x hx j hj => ?_⟩
    · rw [hb, hg] at hu
      exact absurd hu (by decide)
    · rw [secondOf, if_pos hg, hx.g hg]
  | false =>
    rw [hg, if_neg (by decide)] at h
    obtain ⟨hfull, rfl⟩ := h
    refine ⟨0, nofun, fun _ => hfull, fun x hx j hj => ?_⟩
    rw [secondOf, if_neg (by simp [hg])]
    exact hx.b (by rw [hb, hg]; rfl) j (hsize ▸ hj)

section
variable {i : Instr} {o : Opnd} {s : State} {v : VecForm} (hp : s.mgmt.powered = true)
  (ha : groupFull s o.a (groupSize (activeCount s.cur o.k) (vCount s.cur)))
  (hd : groupFree s o.d (groupSize (activeCount s.cur o.k) (vCount s.cur)))
  (hw : v.width.getD (vWidth s.cur) = vWidth s.cur)
include hp ha hd hw

theorem writesElems_binary {F : Nat → Nat → Nat × BitVec 6} {y : Nat → Nat} (hv : v.Binary)
    (hi : exec i s = vectorOp o s v (fun x j => F (elemOf (vWidth s.cur) x.a j) (secondOf v (vWidth s.cur) x j)))
    (hy : second s o (groupSize (activeCount s.cur o.k) (vCount s.cur)) (vWidth s.cur) v.scalarB y) :
    writesElems i s o (groupSize (activeCount s.cur o.k) (vCount s.cur)) (vWidth s.cur) (activeCount s.cur o.k) v.zero
      (v.long && o.feD) (fun j => F (elemAt s o.a (vWidth s.cur) j) (y j))
      (v.latency + 2 * (groupSize (activeCount s.cur o.k) (vCount s.cur) - 1)) := by
  have hsize : v.size s o = groupSize (activeCount s.cur o.k) (vCount s.cur) := by rw [hv]; rfl
  have hact : v.act s o = activeCount s.cur o.k := by rw [hv]; rfl
  have hle := act_le_size v s o
  rw [← hsize] at ha hd hy ⊢
  obtain ⟨g, hg, hb, hsnd⟩ := second_source hv rfl hy
  rw [← hact]
  refine writesElems_vectorOp hi ⟨hp, fun _ => ha, hb, ?_, ?_, hg, hd, hw, ?_⟩ ?_ fun x hx j hj => ?_
  · rw [hv]; nofun
  · rw [hv]; nofun
  · rw [hv]
  · rw [show v.limit = none by rw [hv]]; exact (Nat.min_self _).symm
  · rw [hx.a (by rw [hv]) j (hj.trans_le hle), hsnd x hx j (hj.trans_le hle)]

theorem writesElems_unary {F : Nat → Nat × BitVec 6} (hv : v.Unary)
    (hi : exec i s = vectorOp o s v (fun x j => F (elemOf (vWidth s.cur) x.a j))) :
    writesElems i s o (groupSize (activeCount s.cur o.k) (vCount s.cur)) (vWidth s.cur) (activeCount s.cur o.k) v.zero
      (v.long && o.feD) (fun j => F (elemAt s o.a (vWidth s.cur) j))
      (v.latency + 2 * (groupSize (activeCount s.cur o.k) (vCount s.cur) - 1)) := by
  have hsize : v.size s o = groupSize (activeCount s.cur o.k) (vCount s.cur) := by rw [hv]; rfl
  have hact : v.act s o = activeCount s.cur o.k := by rw [hv]; rfl
  have hle := act_le_size v s o
  rw [← hsize] at ha hd ⊢
  rw [← hact]
  refine writesElems_vectorOp (y := 0) hi ⟨hp, fun _ => ha, ?_, ?_, ?_, ?_, hd, hw, ?_⟩ ?_ fun x hx j hj => ?_
  · rw [hv]; nofun
  · rw [hv]; nofun
  · rw [hv]; nofun
  · rw [hv]; nofun
  · rw [hv]
  · rw [show v.limit = none by rw [hv]]; exact (Nat.min_self _).symm
  · rw [hx.a (by rw [hv]) j (hj.trans_le hle)]

end

/-! ## Floating arithmetic (R317, R319 to R322) -/

/-- The result of a floating operation on an element, rounded once, with its flags. -/
def roundedElem (f : NumFmt) (m : BitVec 6) (r : NumVal × BitVec 6) : Nat × BitVec 6 :=
  ((roundNum f m r.1).1, r.2 ||| (roundNum f m r.1).2)

theorem writesElems_vecFloat {i : Instr} {o : Opnd} {s : State} {op : BitVec 6 → NumVal → NumVal → NumVal × BitVec 6}
    {long : Bool} {y : Nat → Nat} (hi : exec i s = vecFloat o s long op) (hp : s.mgmt.powered = true)
    (hw : vWidth s.cur = (floatFmt (o.fn.toNat % 4)).w)
    (ha : groupFull s o.a (groupSize (activeCount s.cur o.k) (vCount s.cur)))
    (hd : groupFree s o.d (groupSize (activeCount s.cur o.k) (vCount s.cur)))
    (hy : second s o (groupSize (activeCount s.cur o.k) (vCount s.cur)) (vWidth s.cur) (o.fn.getLsbD 3) y) :
    let f := floatFmt (o.fn.toNat % 4)
    let m := s.cur.mode
    writesElems i s o (groupSize (activeCount s.cur o.k) (vCount s.cur)) (vWidth s.cur) (activeCount s.cur o.k)
      (o.fn.getLsbD 2) (long && o.feD)
      (fun j => roundedElem f m (op m (readNum f m (elemAt s o.a (vWidth s.cur) j)) (readNum f m (y j))))
      ((if long then 20 else 4) + 2 * (groupSize (activeCount s.cur o.k) (vCount s.cur) - 1)) :=
  writesElems_binary (v := binaryForm o (some (floatFmt (o.fn.toNat % 4)).w) long (if long then 20 else 4))
    (F := fun p q => roundedElem _ _ (op _ (readNum _ _ p) (readNum _ _ q))) hp ha hd hw.symm rfl hi hy

theorem writesElems_vfma {o : Opnd} {s : State} (hp : s.mgmt.powered = true)
    (hw : vWidth s.cur = (floatFmt (o.fn.toNat % 4)).w)
    (ha : groupFull s o.a (groupSize (activeCount s.cur o.k) (vCount s.cur)))
    (hb : groupFull s o.b (groupSize (activeCount s.cur o.k) (vCount s.cur)))
    (hc : groupFull s o.c (groupSize (activeCount s.cur o.k) (vCount s.cur)))
    (hd : groupFree s o.d (groupSize (activeCount s.cur o.k) (vCount s.cur))) :
    let f := floatFmt (o.fn.toNat % 4)
    let m := s.cur.mode
    let num (r : BitVec 6) (j : Nat) : NumVal := readNum f m (elemAt s r (vWidth s.cur) j)
    writesElems (.vfma o) s o (groupSize (activeCount s.cur o.k) (vCount s.cur)) (vWidth s.cur) (activeCount s.cur o.k)
      (o.fn.getLsbD 2) false
      (fun j => roundedElem f m (fusedNum m (o.fn.getLsbD 3) (o.fn.getLsbD 4) (num o.a j) (num o.b j) (num o.c j)))
      (4 + 2 * (groupSize (activeCount s.cur o.k) (vCount s.cur) - 1)) := by
  intro f m num
  let v : VecForm := { useB := true, useC := true, zero := o.fn.getLsbD 2, width := some f.w, latency := 4 }
  have hready : v.Ready s o 0 := ⟨hp, fun _ => ha, fun _ => hb, fun _ => hc, nofun, nofun, hd, hw.symm, rfl⟩
  refine writesElems_vectorOp (v := v) (f := fun x j => roundedElem f m (fusedNum m (o.fn.getLsbD 3) (o.fn.getLsbD 4)
    (readNum f m (elemOf (vWidth s.cur) x.a j)) (readNum f m (elemOf (vWidth s.cur) x.b j))
    (readNum f m (elemOf (vWidth s.cur) x.c j)))) exec_vfma hready (Nat.min_self _).symm fun x hx j hj => ?_
  have hlt := hj.trans_le (act_le_size v s o)
  rw [hx.a rfl j hlt, hx.b rfl j hlt, hx.c rfl j hlt]

/-- Settles O27, by the common course of a two-operand vector instruction. -/
theorem vectorFloatArithmetic : Obligations.VectorFloatArithmetic := by
  unfold Obligations.VectorFloatArithmetic
  intro o s hp
  dsimp only
  refine fun hw ha hd => ⟨fun y hy => ⟨?_, ?_, ?_, ?_⟩, fun hb hc => writesElems_vfma hp hw ha hb hc hd⟩
  · exact writesElems_vecFloat exec_vadd hp hw ha hd hy
  · exact writesElems_vecFloat exec_vsub hp hw ha hd hy
  · exact writesElems_vecFloat exec_vmul hp hw ha hd hy
  · exact writesElems_vecFloat exec_vdiv hp hw ha hd hy

/-! ## Order, sign and the special functions (R105, R322, R324, R325) -/

/-- The function of a vector instruction, in another form. -/
theorem vectorOp_congr {o : Opnd} {s : State} {v : VecForm} {f g : VecSrc → Nat → Nat × BitVec 6} (h : ∀ x j, f x j = g x j) :
    vectorOp o s v f = vectorOp o s v g := congrArg (vectorOp o s v) (funext fun x => funext (h x))

section
variable {i : Instr} {o : Opnd} {s : State} (hp : s.mgmt.powered = true)
  (ha : groupFull s o.a (groupSize (activeCount s.cur o.k) (vCount s.cur)))
  (hd : groupFree s o.d (groupSize (activeCount s.cur o.k) (vCount s.cur)))
include hp ha hd

theorem writesElems_minMax_float {isMax : Bool} {y : Nat → Nat} (hi : exec i s = vecMinMax o s isMax)
    (ht : o.fn.toNat % 4 ≠ 3) (hw : vWidth s.cur = (floatFmt (o.fn.toNat % 4)).w)
    (hy : second s o (groupSize (activeCount s.cur o.k) (vCount s.cur)) (vWidth s.cur) (o.fn.getLsbD 3) y) :
    writesElems i s o (groupSize (activeCount s.cur o.k) (vCount s.cur)) (vWidth s.cur) (activeCount s.cur o.k)
      (o.fn.getLsbD 2) false
      (fun j => ((minMaxNum (floatFmt (o.fn.toNat % 4)) s.cur.mode isMax (elemAt s o.a (vWidth s.cur) j) (y j)).1, 0))
      (2 + 2 * (groupSize (activeCount s.cur o.k) (vCount s.cur) - 1)) := by
  rw [vecMinMax, if_neg ht] at hi
  exact writesElems_binary (v := binaryForm o (some (floatFmt (o.fn.toNat % 4)).w))
    (F := fun p q => ((minMaxNum (floatFmt (o.fn.toNat % 4)) s.cur.mode isMax p q).1, 0)) hp ha hd hw.symm rfl
    (hi.trans (vectorOp_congr fun x j => if_neg ht)) hy

theorem writesElems_minMax_int {isMax : Bool} {y : Nat → Nat} (hi : exec i s = vecMinMax o s isMax)
    (ht : o.fn.toNat % 4 = 3)
    (hy : second s o (groupSize (activeCount s.cur o.k) (vCount s.cur)) (vWidth s.cur) (o.fn.getLsbD 3) y) :
    let w := vWidth s.cur
    let x := elemAt s o.a w
    writesElems i s o (groupSize (activeCount s.cur o.k) (vCount s.cur)) w (activeCount s.cur o.k) (o.fn.getLsbD 2) false
      (fun j => (if decide (readInt true w (y j) < readInt true w (x j)) = isMax then x j else y j, 0))
      (2 + 2 * (groupSize (activeCount s.cur o.k) (vCount s.cur) - 1)) := by
  rw [vecMinMax, if_pos ht] at hi
  exact writesElems_binary (v := binaryForm o none)
    (F := fun p q => (if decide (readInt true (vWidth s.cur) q < readInt true (vWidth s.cur) p) = isMax then p else q, 0))
    hp ha hd rfl rfl (hi.trans (vectorOp_congr fun x j => if_pos ht)) hy

/-- VABS and VNEG of floating elements change the sign bit alone. -/
theorem writesElems_sign_float {neg : Bool} (hi : exec i s = vecSign o s neg) (ht : o.lvl.toNat < 3)
    (hw : vWidth s.cur = (floatFmt o.lvl.toNat).w) :
    let w := vWidth s.cur
    let f := floatFmt o.lvl.toNat
    let x := elemAt s o.a w
    writesElems i s o (groupSize (activeCount s.cur o.k) (vCount s.cur)) w (activeCount s.cur o.k) false false
      (fun j => (if isNaN (decodeNum f (x j)) then canonNaN f else if neg then x j ^^^ 2 ^ (w - 1) else x j % 2 ^ (w - 1), 0))
      (2 + 2 * (groupSize (activeCount s.cur o.k) (vCount s.cur) - 1)) := by
  rw [vecSign, if_pos ht] at hi
  refine writesElems_unary (v := { width := some (floatFmt o.lvl.toNat).w })
    (F := fun c => (if isNaN (decodeNum (floatFmt o.lvl.toNat) c) then canonNaN (floatFmt o.lvl.toNat)
      else if neg then c ^^^ 2 ^ (vWidth s.cur - 1) else c % 2 ^ (vWidth s.cur - 1), 0)) hp ha hd hw.symm rfl
    (hi.trans (vectorOp_congr fun x j => (if_pos ht).trans ?_))
  split <;> rfl

/-- VABS and VNEG of integers: `.I` wraps, `.IS` saturates. -/
theorem writesElems_sign_int {neg : Bool} (hi : exec i s = vecSign o s neg) (ht : ¬ o.lvl.toNat < 3) :
    let w := vWidth s.cur
    let x (j : Nat) : Int := readInt true w (elemAt s o.a w j)
    writesElems i s o (groupSize (activeCount s.cur o.k) (vCount s.cur)) w (activeCount s.cur o.k) false false
      (fun j => let r := if neg then -x j else ((x j).natAbs : Int)
        if o.lvl.toNat = 4 then (toBits w (satInt true w r).1, (satInt true w r).2) else (toBits w r, 0))
      (2 + 2 * (groupSize (activeCount s.cur o.k) (vCount s.cur) - 1)) := by
  rw [vecSign, if_neg ht] at hi
  exact writesElems_unary (v := { width := none })
    (F := fun c => let r := if neg then -readInt true (vWidth s.cur) c else ((readInt true (vWidth s.cur) c).natAbs : Int)
      if o.lvl.toNat = 4 then (toBits (vWidth s.cur) (satInt true (vWidth s.cur) r).1, (satInt true (vWidth s.cur) r).2)
      else (toBits (vWidth s.cur) r, 0)) hp ha hd rfl rfl (hi.trans (vectorOp_congr fun x j => if_neg ht))

theorem writesElems_function {n : Nat} {op : NumVal → NumVal × BitVec 6} (hi : exec i s = vecFunction o s n op)
    (hw : vWidth s.cur = (floatFmt o.lvl.toNat).w) :
    writesElems i s o (groupSize (activeCount s.cur o.k) (vCount s.cur)) (vWidth s.cur) (activeCount s.cur o.k) false o.feD
      (fun j => roundedElem (floatFmt o.lvl.toNat) s.cur.mode
        (op (readNum (floatFmt o.lvl.toNat) s.cur.mode (elemAt s o.a (vWidth s.cur) j))))
      (n + 2 * (groupSize (activeCount s.cur o.k) (vCount s.cur) - 1)) :=
  writesElems_unary (v := { width := some (floatFmt o.lvl.toNat).w, long := true, latency := n })
    (F := fun p => roundedElem _ _ (op (readNum _ _ p))) hp ha hd hw.symm rfl hi

end

/-- Settles O28, by the common course of one- and two-operand vector instructions. -/
theorem vectorUnaryAndOrder : Obligations.VectorUnaryAndOrder := by
  unfold Obligations.VectorUnaryAndOrder
  intro o s hp
  dsimp only
  refine fun ha hd => ⟨fun y hy => ⟨fun ht hw => ⟨writesElems_minMax_float hp ha hd exec_vmin ht hw hy,
    writesElems_minMax_float hp ha hd exec_vmax ht hw hy⟩, fun ht => ⟨?_, ?_⟩⟩,
    fun ht hw => ⟨writesElems_sign_float hp ha hd exec_vabs ht hw, writesElems_sign_float hp ha hd exec_vneg ht hw⟩,
    fun ht => ⟨?_, ?_⟩, fun ht => ⟨?_, ?_⟩,
    fun hw => ⟨writesElems_function hp ha hd exec_vsqrt hw, writesElems_function hp ha hd exec_vrsqrt hw,
      writesElems_function hp ha hd exec_vrcp hw, writesElems_function hp ha hd exec_vexp2 hw,
      writesElems_function hp ha hd exec_vlog2 hw⟩⟩
  · have h := writesElems_minMax_int hp ha hd exec_vmin ht hy
    simpa only [decide_eq_false_iff_not, ite_not] using h
  · have h := writesElems_minMax_int hp ha hd exec_vmax ht hy
    simpa only [decide_eq_true_eq] using h
  · have h := writesElems_sign_int hp ha hd exec_vabs (by omega)
    simpa only [ht, Nat.reduceEqDiff, if_false, Bool.false_eq_true] using h
  · have h := writesElems_sign_int hp ha hd exec_vneg (by omega)
    simpa only [ht, Nat.reduceEqDiff, if_false, if_true] using h
  · have h := writesElems_sign_int hp ha hd exec_vabs (by omega)
    simpa only [ht, if_false, if_true, Bool.false_eq_true] using h
  · have h := writesElems_sign_int hp ha hd exec_vneg (by omega)
    simpa only [ht, if_true] using h

/-! ## Integer elements (R322, R323, R330) -/

section
variable {i : Instr} {o : Opnd} {s : State} (hp : s.mgmt.powered = true)
  (ha : groupFull s o.a (groupSize (activeCount s.cur o.k) (vCount s.cur)))
  (hd : groupFree s o.d (groupSize (activeCount s.cur o.k) (vCount s.cur)))
include hp ha hd

theorem writesElems_vecInt {op : Int → Int → Int} {y : Nat → Nat} (hi : exec i s = vecInt o s op)
    (hy : second s o (groupSize (activeCount s.cur o.k) (vCount s.cur)) (vWidth s.cur) (o.fn.getLsbD 3) y) :
    let w := vWidth s.cur
    let typ := o.fn.toNat % 4
    writesElems i s o (groupSize (activeCount s.cur o.k) (vCount s.cur)) w (activeCount s.cur o.k) (o.fn.getLsbD 2) false
      (fun j => let r := op (readInt (typ ≠ 2) w (elemAt s o.a w j)) (readInt (typ ≠ 2) w (y j))
        if typ = 0 then (toBits w r, 0) else (toBits w (satInt (typ ≠ 2) w r).1, (satInt (typ ≠ 2) w r).2))
      (2 + 2 * (groupSize (activeCount s.cur o.k) (vCount s.cur) - 1)) :=
  writesElems_binary (v := binaryForm o none)
    (F := fun p q => let r := op (readInt (o.fn.toNat % 4 ≠ 2) (vWidth s.cur) p) (readInt (o.fn.toNat % 4 ≠ 2) (vWidth s.cur) q)
      if o.fn.toNat % 4 = 0 then (toBits (vWidth s.cur) r, 0)
      else (toBits (vWidth s.cur) (satInt (o.fn.toNat % 4 ≠ 2) (vWidth s.cur) r).1,
        (satInt (o.fn.toNat % 4 ≠ 2) (vWidth s.cur) r).2)) hp ha hd rfl rfl hi hy

theorem writesElems_vecBits {op : Nat → Nat → Nat} {y : Nat → Nat} (hi : exec i s = vecBits o s op)
    (hy : second s o (groupSize (activeCount s.cur o.k) (vCount s.cur)) (vWidth s.cur) (o.lvl.getLsbD 0) y) :
    writesElems i s o (groupSize (activeCount s.cur o.k) (vCount s.cur)) (vWidth s.cur) (activeCount s.cur o.k)
      (o.lvl.getLsbD 1) false (fun j => (op (elemAt s o.a (vWidth s.cur) j) (y j), 0))
      (2 + 2 * (groupSize (activeCount s.cur o.k) (vCount s.cur) - 1)) :=
  writesElems_binary (v := { useB := !o.lvl.getLsbD 0, scalarB := o.lvl.getLsbD 0, zero := o.lvl.getLsbD 1 })
    (F := fun p q => (op p q, 0)) hp ha hd rfl rfl hi hy

theorem writesElems_vshl {y : Nat → Nat}
    (hy : second s o (groupSize (activeCount s.cur o.k) (vCount s.cur)) (vWidth s.cur) (o.fn.getLsbD 3) y) :
    let w := vWidth s.cur
    writesElems (.vshl o) s o (groupSize (activeCount s.cur o.k) (vCount s.cur)) w (activeCount s.cur o.k)
      (o.fn.getLsbD 2) false (fun j => (elemAt s o.a w j * 2 ^ (y j % w) % 2 ^ w, 0))
      (2 + 2 * (groupSize (activeCount s.cur o.k) (vCount s.cur) - 1)) := by
  have hi := exec_vshl (o := o) (s := s)
  rw [execVshl] at hi
  simp only [Nat.shiftLeft_eq] at hi
  exact writesElems_binary (v := binaryForm o none) (F := fun p q => (p * 2 ^ (q % vWidth s.cur) % 2 ^ vWidth s.cur, 0))
    hp ha hd rfl rfl hi hy

theorem writesElems_vshr {y : Nat → Nat}
    (hy : second s o (groupSize (activeCount s.cur o.k) (vCount s.cur)) (vWidth s.cur) (o.fn.getLsbD 3) y) :
    let w := vWidth s.cur
    let x := elemAt s o.a w
    writesElems (.vshr o) s o (groupSize (activeCount s.cur o.k) (vCount s.cur)) w (activeCount s.cur o.k)
      (o.fn.getLsbD 2) false
      (fun j => (if o.fn.getLsbD 0 then toBits w (readInt true w (x j) / 2 ^ (y j % w)) else x j / 2 ^ (y j % w), 0))
      (2 + 2 * (groupSize (activeCount s.cur o.k) (vCount s.cur) - 1)) := by
  have hi := exec_vshr (o := o) (s := s)
  rw [execVshr] at hi
  simp only [Nat.shiftRight_eq_div_pow, Nat.cast_pow, Nat.cast_ofNat] at hi
  refine writesElems_binary (v := binaryForm o none)
    (F := fun p q => (if o.fn.getLsbD 0 then toBits (vWidth s.cur) (readInt true (vWidth s.cur) p / 2 ^ (q % vWidth s.cur))
      else p / 2 ^ (q % vWidth s.cur), 0)) hp ha hd rfl rfl (hi.trans (vectorOp_congr fun x j => ?_)) hy
  split <;> rfl

theorem writesElems_vdot4 {p : Nat} (hq : (if o.fn.getLsbD 2 then 16 else 8) = p) (hw : vWidth s.cur = 4 * p)
    (hb : groupFull s o.b (groupSize (activeCount s.cur o.k) (vCount s.cur)))
    (hdf : groupFull s o.d (groupSize (activeCount s.cur o.k) (vCount s.cur))) :
    let w := vWidth s.cur
    let part (r : BitVec 6) (u : Bool) (j i : Nat) : Int := readInt (!u) p (elemAt s r w j / 2 ^ (p * i))
    let term (j i : Nat) : Int := part o.a (o.fn.getLsbD 0) j i * part o.b (o.fn.getLsbD 1) j i
    let sum (j : Nat) : Int := readInt true w (elemAt s o.d w j) + term j 0 + term j 1 + term j 2 + term j 3
    writesElems (.vdot4 o) s o (groupSize (activeCount s.cur o.k) (vCount s.cur)) w (activeCount s.cur o.k) false false
      (fun j => (toBits w (satInt true w (sum j)).1, (satInt true w (sum j)).2))
      (4 + 2 * (groupSize (activeCount s.cur o.k) (vCount s.cur) - 1)) := by
  intro w part term sum
  have hwide : (if o.fn.getLsbD 2 then 64 else 32) = w := by
    rw [show w = 4 * p from hw, ← hq]
    split <;> rfl
  let v : VecForm := { useB := true, readD := true, width := some w, latency := 4 }
  have hready : v.Ready s o 0 := ⟨hp, fun _ => ha, fun _ => hb, nofun, fun _ => hdf, nofun, hd, rfl, rfl⟩
  have hi := exec_vdot4 (o := o) (s := s)
  rw [execVdot4] at hi
  simp only [hwide, hq] at hi
  refine writesElems_vectorOp (v := v) hi hready (Nat.min_self _).symm fun x hx j hj => ?_
  have hlt := hj.trans_le (act_le_size v s o)
  rw [hx.a rfl j hlt, hx.b rfl j hlt, hx.d rfl j hlt]
  simp only [Nat.shiftRight_eq_div_pow]
  rfl

end

/-- Settles O29, by the common course of two-operand vector instructions. -/
theorem vectorIntegers : Obligations.VectorIntegers := by
  unfold Obligations.VectorIntegers
  intro o s hp
  dsimp only
  exact fun ha hd => ⟨fun y hy => ⟨writesElems_vecInt hp ha hd exec_viadd hy, writesElems_vecInt hp ha hd exec_visub hy,
      writesElems_vshl hp ha hd hy, writesElems_vshr hp ha hd hy⟩,
    fun y hy => ⟨writesElems_vecBits hp ha hd exec_vand hy, writesElems_vecBits hp ha hd exec_vor hy,
      writesElems_vecBits hp ha hd exec_vxor hy⟩,
    fun hw hb hdf => writesElems_vdot4 hp ha hd rfl hw hb hdf⟩

end Sys2Proof.Machine
end

section
/-! SUPPORT. Vector comparison, selection and conversion: O30. -/

namespace Sys2Proof.Machine

/-! ## Comparison, selection and conversion (R326 to R329) -/

theorem elemAt_lt (s : State) (r : BitVec 6) (w j : Nat) : elemAt s r w j < 2 ^ w := elemOf_lt ..

theorem second_lt {s : State} {o : Opnd} {size w : Nat} {b : Bool} {y : Nat → Nat} (h : second s o size w b y) (j : Nat) :
    y j < 2 ^ w := by
  cases b with
  | false => obtain ⟨-, rfl⟩ := h; exact elemAt_lt ..
  | true => obtain ⟨g, -, rfl⟩ := h; exact Nat.mod_lt _ (by positivity)

theorem readInt_false {w x : Nat} (h : x < 2 ^ w) : readInt false w x = x := by
  simp [readInt, Nat.mod_eq_of_lt h]

section
variable {o : Opnd} {s : State} (hp : s.mgmt.powered = true)
  (ha : groupFull s o.a (groupSize (activeCount s.cur o.k) (vCount s.cur)))
  (hd : groupFree s o.d (groupSize (activeCount s.cur o.k) (vCount s.cur)))
include hp ha hd

theorem writesElems_vcmp {y : Nat → Nat}
    (hw : o.fn.toNat % 4 ≠ 3 → vWidth s.cur = (floatFmt (o.fn.toNat % 4)).w)
    (hy : second s o (groupSize (activeCount s.cur o.k) (vCount s.cur)) (vWidth s.cur) (o.lvl.getLsbD 0) y) {p : Nat → Bool}
    (hc : ∀ j, vecCompare (vWidth s.cur) (o.fn.toNat % 4) (o.fn.toNat / 4) s.cur.mode (elemAt s o.a (vWidth s.cur) j) (y j) = p j) :
    writesElems (.vcmp o) s o (groupSize (activeCount s.cur o.k) (vCount s.cur)) (vWidth s.cur) (activeCount s.cur o.k)
      false false (fun j => (if p j then 2 ^ vWidth s.cur - 1 else 0, 0))
      (2 + 2 * (groupSize (activeCount s.cur o.k) (vCount s.cur) - 1)) := by
  obtain rfl : _ = p := funext hc
  have hi := exec_vcmp (o := o) (s := s)
  rw [execVcmp] at hi
  refine writesElems_binary (v := { useB := !o.lvl.getLsbD 0, scalarB := o.lvl.getLsbD 0, width := _ }) hp ha hd ?_ rfl
    (F := fun a b => (if vecCompare (vWidth s.cur) (o.fn.toNat % 4) (o.fn.toNat / 4) s.cur.mode a b then 2 ^ vWidth s.cur - 1 else 0, 0)) hi hy
  dsimp only
  split
  · rfl
  · next ht => exact (hw ht).symm

theorem writesElems_vsel (hb : groupFull s o.b (groupSize (activeCount s.cur o.k) (vCount s.cur)))
    (hc : groupFull s o.c (groupSize (activeCount s.cur o.k) (vCount s.cur))) :
    let w := vWidth s.cur
    writesElems (.vsel o) s o (groupSize (activeCount s.cur o.k) (vCount s.cur)) w (activeCount s.cur o.k) (o.fn.getLsbD 0) false
      (fun j => (if elemAt s o.c w j ≠ 0 then elemAt s o.a w j else elemAt s o.b w j, 0))
      (2 + 2 * (groupSize (activeCount s.cur o.k) (vCount s.cur) - 1)) := by
  let v : VecForm := { useB := true, useC := true, zero := o.fn.getLsbD 0 }
  have hready : v.Ready s o 0 := ⟨hp, fun _ => ha, fun _ => hb, fun _ => hc, nofun, nofun, hd, rfl, rfl⟩
  have hi := exec_vsel (o := o) (s := s)
  rw [execVsel] at hi
  refine writesElems_vectorOp (v := v) hi hready (Nat.min_self _).symm fun x hx j hj => ?_
  have hlt := hj.trans_le (act_le_size v s o)
  rw [hx.a rfl j hlt, hx.b rfl j hlt, hx.c rfl j hlt]

end

/-! ### VCVT -/

/-- The registers that `n` elements of width `w` take. -/
def regsFor (n w : Nat) : Nat := max 1 ((n * w + 4095) / 4096)

theorem le_regsFor {n w : Nat} (hw : w ∣ 4096) (hpos : 0 < w) : n ≤ regsFor n w * (4096 / w) := by
  have hbits : n * w ≤ regsFor n w * 4096 := by unfold regsFor; omega
  rw [← Nat.mul_div_assoc _ hw]
  exact (Nat.le_div_iff_mul_le hpos).2 hbits

/-- The widths of the types of VCVT. -/
theorem vcvtType_width (c : Nat) (nf : BitVec 20) : (vcvtType c nf).2 ∣ 4096 ∧ 0 < (vcvtType c nf).2 := by
  have hnarrow (w : Nat) : (if w = 2 then 2 else if w = 4 then 4 else 8) ∣ 4096 ∧ 0 < (if w = 2 then 2 else if w = 4 then 4 else 8) := by
    split
    · decide
    · split <;> decide
  unfold vcvtType
  split
  case h_8 => exact hnarrow _
  all_goals decide

/-- Only a .NF type reads the NFMT value. -/
theorem vcvtType_congr {c : Nat} (nf nf' : BitVec 20) (h : c < 7) : vcvtType c nf = vcvtType c nf' := by
  interval_cases c <;> rfl

theorem writesElems_vcvt {o : Opnd} {s : State} {g : Word} (hp : s.mgmt.powered = true)
    (hg : o.fn.toNat = 7 ∨ o.c.toNat = 7 → srcG s.cur o.b o.feB = .ok g) (hfn : o.fn.toNat ≤ 7) (hc : o.c.toNat ≤ 7) :
    let src := vcvtType o.c.toNat (g.extractLsb' 0 20)
    let dst := vcvtType o.fn.toNat (g.extractLsb' 0 20)
    let n := predAt s.cur o.k src.2
    regsFor n src.2 ≤ 6 → regsFor n dst.2 ≤ 6 → groupFull s o.a (regsFor n src.2) → groupFree s o.d (regsFor n dst.2) →
    writesElems (.vcvt o) s o (regsFor n dst.2) dst.2 n false false
      (fun j => convertElem src.1 dst.1 s.cur.mode (o.lvl = 1) (elemAt s o.a src.2 j))
      (4 + 2 * (max (regsFor n src.2) (regsFor n dst.2) - 1)) := by
  intro src dst n hs6 hd6 ha hd
  have hnarrow : (decide (o.fn.toNat = 7) || decide (o.c.toNat = 7)) = true → srcG s.cur o.b o.feB = .ok g := by simpa using hg
  set g' := if (decide (o.fn.toNat = 7) || decide (o.c.toNat = 7)) = true then g else 0 with hg'
  have htype {c : Nat} (hc : c ≤ 7) (h7 : c = 7 → o.fn.toNat = 7 ∨ o.c.toNat = 7) :
      vcvtType c (g'.extractLsb' 0 20) = vcvtType c (g.extractLsb' 0 20) := by
    obtain rfl | hlt := Nat.eq_or_lt_of_le hc
    · rw [hg', if_pos (by simpa using h7 rfl)]
    · exact vcvtType_congr _ _ hlt
  set rs := (List.range n).map (fun j => convertElem src.1 dst.1 s.cur.mode (o.lvl = 1)
    (elemOf src.2 (groupBits s.cur o.a.toNat (regsFor n src.2)) j)) with hrs
  have hexec : exec (.vcvt o) s = .next (finishV s o (mergeGroup s.cur o.d (regsFor n dst.2) dst.2 false (rs.map (fun r => r.1)))
      (rs.foldl (fun fl r => fl ||| r.2) 0) (4 + 2 * (max (regsFor n src.2) (regsFor n dst.2) - 1))) := by
    rw [exec_vcvt, execVcvt]
    simp only [res_ok_bind]
    rw [optional_bind hnarrow, ← hg', htype hc .inr, htype hfn .inl]
    change issue s o (srcGroup s.cur o.a (regsFor n src.2) o.feA >>= fun a => needGroup [o.a] (regsFor n src.2) >>= fun _ =>
      needGroup [o.d] (regsFor n dst.2) >>= fun _ =>
      need (decide (regsFor n src.2 ≤ 6) && decide (regsFor n dst.2 ≤ 6)) 0x0E >>= fun _ => _) = _
    rw [srcGroup_of_groupFull o.feA ha, needGroup_of_le (by simpa using ha.1), needGroup_of_le (by simpa using hd.1)]
    simp only [hs6, hd6, decide_true, Bool.and_self, need_true, res_ok_bind]
    change issue s o (dstGroup s.cur o.d (regsFor n dst.2) >>= fun _ => _) = _
    rw [dstGroup_of_groupFree hd]
    exact issue_ok hp
  refine writesElems_of_finishV (List.map_congr_left fun j hj => ?_) (vcvtType_width ..).1 hd.1 hexec
  obtain ⟨hdvd, hpos⟩ := vcvtType_width o.c.toNat (g.extractLsb' 0 20)
  rw [elemOf_groupBits hdvd ((List.mem_range.1 hj).trans_le (le_regsFor hdvd hpos))]

/-- Settles O30, by the common course of vector instructions, and for VCVT by the registers of each width. -/
theorem vectorCompareSelectConvert : Obligations.VectorCompareSelectConvert := by
  unfold Obligations.VectorCompareSelectConvert
  intro o s hp
  dsimp only
  refine ⟨fun ha hd => ⟨fun y hy => ⟨fun ht hw => ?_, fun ht => ?_⟩, fun hb hc => writesElems_vsel hp ha hd hb hc⟩,
    fun g hfn hc hg hs6 hd6 ha hd => writesElems_vcvt hp hg hfn hc hs6 hd6 ha hd⟩
  · have gives {p : Nat → Bool} := writesElems_vcmp hp ha hd (fun _ => hw) hy (p := p)
    refine ⟨fun hc => gives fun j => ?_, fun hc => gives fun j => ?_, fun hc => gives fun j => ?_, fun hc => gives fun j => ?_,
      fun hc => gives fun j => ?_⟩
    all_goals rw [vecCompare, if_neg ht, hc]; rfl
  · have gives {p : Nat → Bool} := writesElems_vcmp hp ha hd (fun h => absurd ht h) hy (p := p)
    have hx (j : Nat) := readInt_false (elemAt_lt s o.a (vWidth s.cur) j)
    have hy' (j : Nat) := readInt_false (second_lt hy j)
    refine ⟨fun hc => gives fun j => ?_, fun hc => gives fun j => ?_, fun hc => gives fun j => ?_, fun hc => gives fun j => ?_,
      fun hc => gives fun j => ?_, fun hc => gives fun j => ?_⟩
    all_goals rw [vecCompare, if_pos ht, hc]
    all_goals simp [hx, hy']

end Sys2Proof.Machine
end

section
/-! SUPPORT. Moving elements: O31. -/

namespace Sys2Proof.Machine

/-! ## Vector results that raise no flag -/

theorem foldl_no_flags {α : Type} (xs : List α) : xs.foldl (fun (fl : BitVec 6) _ => fl ||| 0) 0 = 0 := by
  induction xs with
  | nil => rfl
  | cons x xs ih => exact ih

section
variable {i : Instr} {s : State} {o : Opnd} {size w n latency : Nat} {zero : Bool} {g : Nat → Nat} {vals : List Nat}
  (hv : vals = (List.range n).map g) (hw : w ∣ 4096) (hd : o.d.toNat + size ≤ 32)
include hv hw hd

theorem writesElems_valuesL {defer : Bool}
    (hexec : exec i s = .next (finishL s o [] (mergeGroup s.cur o.d size w zero vals) 0 defer latency)) :
    writesElems i s o size w n zero defer (fun j => (g j, 0)) latency := by
  refine writesElems_of_finishL rfl hw hd ?_
  rw [hexec, hv, List.map_map, List.foldl_map, foldl_no_flags]
  rfl

theorem writesElems_valuesV
    (hexec : exec i s = .next (finishV s o (mergeGroup s.cur o.d size w zero vals) 0 latency)) :
    writesElems i s o size w n zero false (fun j => (g j, 0)) latency := by
  refine writesElems_of_finishV rfl hw hd ?_
  rw [hexec, hv, List.map_map, List.foldl_map, foldl_no_flags]
  rfl

end

/-! ## Moving elements (R333, R334) -/

theorem activeSingle_le (t : Slot) (k : BitVec 3) : activeSingle t k ≤ vCount t := Nat.min_le_right ..

/-- An element of a source group of one register. -/
theorem elemOf_source {s : State} {r : BitVec 6} {x j : Nat} (h : readsElems s r 1 x) (hj : j < vCount s.cur) :
    elemOf (vWidth s.cur) x j = elemAt s r (vWidth s.cur) j := h j (by rwa [Nat.one_mul])

theorem groupBits_one {s : State} {r : BitVec 6} {j : Nat} (hj : j < vCount s.cur) :
    elemOf (vWidth s.cur) (groupBits s.cur r.toNat 1) j = elemAt s r (vWidth s.cur) j :=
  elemOf_source (readsElems_groupBits _ _ _) hj

/-- An element of the shape lies in its register. -/
theorem row_mul_add_lt {s : State} {r c : Nat} (hr : r < vRows s.cur) (hc : c < vCols s.cur) :
    r * vCols s.cur + c < vCount s.cur := by
  have hle : (r + 1) * vCols s.cur ≤ vRows s.cur * vCols s.cur := Nat.mul_le_mul_right _ hr
  have := shape_le_vCount s.cur
  rw [Nat.add_mul] at hle
  omega

section
variable {o : Opnd} {s : State} (hp : s.mgmt.powered = true)
include hp

theorem writesElems_vshuf (ha : groupFull s o.a 1) (hb : groupFull s o.b 1) (hc : groupFull s o.c 1) (hd : groupFree s o.d 1) :
    let w := vWidth s.cur
    let n := vCount s.cur
    writesElems (.vshuf o) s o 1 w (activeSingle s.cur o.k) false false (fun j =>
      let k := elemAt s o.b w j
      (if k < n then elemAt s o.a w k else if k < 2 * n then elemAt s o.c w (k - n) else 0, 0)) 6 := by
  intro w n
  let v : VecForm := { useB := true, useC := true, single := true, latency := 6 }
  have hready : v.Ready s o 0 := ⟨hp, fun _ => ha, fun _ => hb, fun _ => hc, nofun, nofun, hd, rfl, rfl⟩
  have hi := exec_vshuf (o := o) (s := s)
  rw [execVshuf] at hi
  refine writesElems_vectorOp (v := v) hi hready (Nat.min_self _).symm fun x hx j hj => ?_
  rw [elemOf_source (hx.b rfl) (hj.trans_le (activeSingle_le ..))]
  refine congrArg (fun e => (e, (0 : BitVec 6))) (ite_congr rfl (fun hk => ?_) fun _ => ite_congr rfl (fun hk => ?_) fun _ => rfl)
  · exact elemOf_source (hx.a rfl) hk
  · replace hk : elemAt s o.b (vWidth s.cur) j < 2 * vCount s.cur := hk
    exact elemOf_source (hx.c rfl) (by omega)

/-- VBCAST.ROW and VBCAST.COL: an element of the source for each of the shape. -/
theorem writesElems_shape {i : Instr} (index : Nat → Nat) (ha : groupFull s o.a 1) (hd : groupFree s o.d 1)
    (hi : exec i s = vectorOp o s { single := true, limit := some (vRows s.cur * vCols s.cur), indexOk := true }
      (fun x j => (elemOf (vWidth s.cur) x.a (index j), 0)))
    (hix : ∀ j, j < vRows s.cur * vCols s.cur → index j < vCount s.cur) :
    writesElems i s o 1 (vWidth s.cur) (min (activeSingle s.cur o.k) (vRows s.cur * vCols s.cur)) false false
      (fun j => (elemAt s o.a (vWidth s.cur) (index j), 0)) 2 := by
  let v : VecForm := { single := true, limit := some (vRows s.cur * vCols s.cur), indexOk := true }
  have hready : v.Ready s o 0 := ⟨hp, fun _ => ha, nofun, nofun, nofun, nofun, hd, rfl, rfl⟩
  refine writesElems_vectorOp (v := v) hi hready rfl fun x hx j hj => ?_
  rw [elemOf_source (hx.a rfl) (hix j (hj.trans_le (Nat.min_le_right ..)))]

theorem writesElems_vtrans (ha : groupFull s o.a 1) (hd : groupFree s o.d 1) :
    let rows := vRows s.cur
    let cols := vCols s.cur
    writesElems (.vtrans o) s o 1 (vWidth s.cur) (rows * cols) false o.feD
      (fun j => (elemAt s o.a (vWidth s.cur) (j % rows * cols + j / rows), 0)) 16 := by
  intro rows cols
  have hexec : exec (.vtrans o) s = .next (finishL s o [] (mergeGroup s.cur o.d 1 (vWidth s.cur) false
      ((List.range (rows * cols)).map (fun j => elemOf (vWidth s.cur) (groupBits s.cur o.a.toNat 1) (j % rows * cols + j / rows))))
      0 o.feD 16) := by
    rw [exec_vtrans, execVtrans]
    simp only [srcGroup_of_groupFull o.feA ha, res_ok_bind]
    rw [needGroup_of_le (by simpa using ⟨ha.1, hd.1⟩)]
    simp only [dstGroup_of_groupFree hd, res_ok_bind]
    exact issue_ok hp
  refine writesElems_valuesL (List.map_congr_left fun j hj => groupBits_one ?_) (vWidth_dvd _) hd.1 hexec
  replace hj : j < rows * cols := List.mem_range.1 hj
  have hrow : j / rows < cols := Nat.div_lt_of_lt_mul hj
  exact row_mul_add_lt (Nat.mod_lt j (Nat.succ_pos _)) hrow

section
variable (hd : groupFree s o.d (groupSize (activeCount s.cur o.k) (vCount s.cur)))
include hd

theorem writesElems_vmove (ha : groupFull s o.a (groupSize (activeCount s.cur o.k) (vCount s.cur))) :
    writesElems (.vmove o) s o (groupSize (activeCount s.cur o.k) (vCount s.cur)) (vWidth s.cur) (activeCount s.cur o.k)
      (o.fn = 1) false (fun j => (elemAt s o.a (vWidth s.cur) j, 0))
      (2 + 2 * (groupSize (activeCount s.cur o.k) (vCount s.cur) - 1)) :=
  writesElems_unary (v := { zero := o.fn = 1 }) (F := fun c => (c, 0)) hp ha hd rfl rfl exec_vmove

theorem writesElems_vbcastImm :
    writesElems (.vbcastImm o) s o (groupSize (activeCount s.cur o.k) (vCount s.cur)) (vWidth s.cur) (activeCount s.cur o.k)
      false false (fun _ => (toBits (vWidth s.cur) (dispOf o), 0))
      (2 + 2 * (groupSize (activeCount s.cur o.k) (vCount s.cur) - 1)) :=
  writesElems_vectorOp (v := { useA := false }) (y := 0) (f := fun _ _ => (toBits (vWidth s.cur) (dispOf o), 0)) exec_vbcastImm
    ⟨hp, nofun, nofun, nofun, nofun, nofun, hd, rfl, rfl⟩ (Nat.min_self _).symm fun _ _ _ _ => rfl

theorem writesElems_vbcastG {g : Word} (hg : srcG s.cur o.a o.feA = .ok g) :
    writesElems (.vbcastG o) s o (groupSize (activeCount s.cur o.k) (vCount s.cur)) (vWidth s.cur) (activeCount s.cur o.k)
      false false (fun _ => (g.toNat % 2 ^ vWidth s.cur, 0))
      (2 + 2 * (groupSize (activeCount s.cur o.k) (vCount s.cur) - 1)) := by
  refine writesElems_valuesV (vals := List.replicate (activeCount s.cur o.k) (g.toNat % 2 ^ vWidth s.cur)) ?_ (vWidth_dvd _)
    hd.1 ?_
  · rw [List.map_const', List.length_range]
  · rw [exec_vbcastG, execVbcastG]
    simp only [hg, res_ok_bind]
    rw [needGroup_of_le (by simpa using hd.1), dstGroup_of_groupFree hd]
    exact issue_ok hp

end

/-- The index that VIDX multiplies (R334). -/
def idxNumber (o : Opnd) (s : State) (j : Nat) : Nat :=
  if o.fn = 0 then j else if o.fn = 1 then j / vCols s.cur else j % vCols s.cur

theorem writesElems_vidx {g h : Word} (hg : srcG s.cur o.a o.feA = .ok g) (hh : srcG s.cur o.b o.feB = .ok h) {act size : Nat}
    (hact : (if o.fn = 0 then activeCount s.cur o.k else min (activeSingle s.cur o.k) (vRows s.cur * vCols s.cur)) = act)
    (hsize : (if o.fn = 0 then groupSize act (vCount s.cur) else 1) = size) (hd : groupFree s o.d size) :
    writesElems (.vidx o) s o size (vWidth s.cur) act false false
      (fun j => ((g.toNat + idxNumber o s j * h.toNat) % 2 ^ vWidth s.cur, 0)) (2 + 2 * (size - 1)) := by
  refine writesElems_valuesV rfl (vWidth_dvd _) hd.1 ?_
  rw [exec_vidx, execVidx]
  simp only [hact, hsize, hg, hh, res_ok_bind]
  rw [needGroup_of_le (by simpa using hd.1), dstGroup_of_groupFree hd]
  exact issue_ok hp

theorem writes1_vmoveTog (hi : o.imm16.toNat < vCount s.cur) {x : BitVec 4096} (hx : srcV s.cur (vreg o.a.toNat) o.feA = .ok x)
    (hd : dstG s.cur o.d = .ok ()) :
    let e := elemOf (vWidth s.cur) x.toNat o.imm16.toNat
    writes1 (.vmoveTog o) s o o.d (if o.lvl = 1 then BitVec.ofInt 64 (readInt true (vWidth s.cur) e) else word e) := by
  refine writes1_of_body (n := 2) exec_vmoveTog hp ?_
  simp only [hx, hd, res_ok_bind, moveIndex, hi, decide_true, need_true]
  rfl

theorem writesV_vmoveFromg (hi : o.imm16.toNat < vCount s.cur) {old : BitVec 4096} {g : Word}
    (hold : srcV s.cur (vreg o.d.toNat) o.feD = .ok old) (hg : srcG s.cur o.a o.feA = .ok g) :
    ∃ v, writesV (.vmoveFromg o) s o [(vreg o.d.toNat, v)]
      ∧ ∀ e, e < vCount s.cur → elemOf (vWidth s.cur) v.toNat e =
        if e = o.imm16.toNat then g.toNat % 2 ^ vWidth s.cur else elemOf (vWidth s.cur) old.toNat e := by
  set vals := (List.range (vCount s.cur)).map (fun j =>
    if j = o.imm16.toNat then g.toNat % 2 ^ vWidth s.cur else elemOf (vWidth s.cur) old.toNat j) with hvals
  refine ⟨BitVec.ofNat 4096 (packElems (vWidth s.cur) vals), ⟨_, ?_, wrote_finishV s o _ 0 2 (List.nodup_singleton _)⟩,
    fun e he => ?_⟩
  · rw [exec_vmoveFromg, execVmoveFromg]
    simp only [hold, hg, res_ok_bind, moveIndex, hi, decide_true, need_true]
    exact issue_ok hp
  · have hpack := elemOf_packElems (vWidth s.cur) vals 0 e
    rw [Nat.zero_mul, Nat.add_zero, if_pos (by simpa [hvals] using he)] at hpack
    rw [elemOf_ofNat _ (vWidth_dvd _) he, hpack, hvals]
    simp only [List.getD_eq_getElem?_getD, List.getElem?_map, List.getElem?_range he, Option.map_some, Option.getD_some]
    split
    · exact Nat.mod_mod ..
    · exact Nat.mod_eq_of_lt (elemOf_lt ..)

end

/-- The packed elements of a result are its values cut to the width. -/
theorem writesElems_mod {i : Instr} {s : State} {o : Opnd} {size w n latency : Nat} {zero defer : Bool} {g : Nat → Nat}
    (h : writesElems i s o size w n zero defer (fun j => (g j % 2 ^ w, 0)) latency) :
    writesElems i s o size w n zero defer (fun j => (g j, 0)) latency := by
  simpa only [writesElems, Nat.mod_mod] using h

/-- Settles O31, a kind of move at a time. -/
theorem vectorMoves : Obligations.VectorMoves := by
  unfold Obligations.VectorMoves
  intro o s hp
  dsimp only
  refine ⟨fun hd ha => ⟨fun hb hc => writesElems_vshuf hp ha hb hc hd, fun hi => ?_, fun hi => ?_, writesElems_vtrans hp ha hd⟩,
    fun hd => ⟨fun ha => writesElems_vmove hp hd ha, writesElems_vbcastImm hp hd, fun g hg => ⟨writesElems_vbcastG hp hd hg,
      fun h hh hfn => ?_⟩⟩, fun hd g h hg hh => ⟨fun hfn => ?_, fun hfn => ?_⟩, fun hi hx hd => writes1_vmoveTog hp hi hx hd,
    fun hi old g hold hg => writesV_vmoveFromg hp hi hold hg⟩
  · have hexec := exec_vbcastRow (o := o) (s := s)
    rw [execVbcastRow] at hexec
    simp only [moveIndex, hi, decide_true] at hexec
    exact writesElems_shape hp _ ha hd hexec fun j _ => row_mul_add_lt hi (Nat.mod_lt j (vCols_pos s.cur))
  · have hexec := exec_vbcastCol (o := o) (s := s)
    rw [execVbcastCol] at hexec
    simp only [moveIndex, hi, decide_true] at hexec
    exact writesElems_shape hp _ ha hd hexec fun j hj =>
      row_mul_add_lt (Nat.div_lt_of_lt_mul (by rwa [Nat.mul_comm])) hi
  · have hv := writesElems_vidx hp hg hh (if_pos hfn) (if_pos hfn) hd
    simpa only [idxNumber, if_pos hfn] using writesElems_mod hv
  · have hne : o.fn ≠ 0 := by rw [hfn]; decide
    have hv := writesElems_vidx hp hg hh (if_neg hne) (if_neg hne) hd
    simpa only [idxNumber, if_neg hne, if_pos hfn] using writesElems_mod hv
  · have hne : o.fn ≠ 0 := by rw [hfn]; decide
    have hne1 : o.fn ≠ 1 := by rw [hfn]; decide
    have hv := writesElems_vidx hp hg hh (if_neg hne) (if_neg hne) hd
    simpa only [idxNumber, if_neg hne, if_neg hne1] using writesElems_mod hv

end Sys2Proof.Machine
end

section
/-! SUPPORT. Vector faults, predicates, random numbers and trits: O33 and O34. -/

namespace Sys2Proof.Machine

/-! ## Faults of vector groups and shapes (R316, R317) -/

theorem needGroup_fails {rs : List (BitVec 6)} {size : Nat} (h : ∃ r ∈ rs, 32 < r.toNat + size) :
    needGroup rs size = raise 0x0E := by
  obtain ⟨r, hr, hlt⟩ := h
  have hall : (rs.all fun r => r.toNat + size ≤ 32) = false := by
    rw [List.all_eq_false]
    exact ⟨r, hr, by simpa using hlt⟩
  rw [needGroup, hall]
  rfl

/-- The registers whose groups a form checks (R316). -/
def VecForm.regs (v : VecForm) (o : Opnd) : List (BitVec 6) :=
  [o.d] ++ (if v.useA then [o.a] else []) ++ (if v.useB then [o.b] else []) ++ (if v.useC then [o.c] else [])

/-- A form of the sources a and b whose checks fail. -/
theorem faults_vectorOp {i : Instr} {o : Opnd} {s : State} {v : VecForm} {f : VecSrc → Nat → Nat × BitVec 6} {x y : Nat}
    {code : BitVec 8} (hi : exec i s = vectorOp o s v f) (hp : s.mgmt.powered = true)
    (hv : v = { v with scalarB := false, useC := false, readD := false })
    (ha : v.useA = true → srcGroup s.cur o.a (v.size s o) o.feA = .ok x)
    (hb : v.useB = true → srcGroup s.cur o.b (v.size s o) o.feB = .ok y)
    (hcheck : (needGroup (v.regs o) (v.size s o) >>= fun _ =>
      need (decide (v.width.getD (vWidth s.cur) = vWidth s.cur) && v.indexOk) 0x0F) = raise code) : faults i s o code := by
  have hsize : v.size s o = if v.single then 1 else groupSize (v.act s o) (vCount s.cur) := by
    unfold VecForm.size VecForm.act
    split <;> rfl
  have hact : (if v.single = true then activeSingle s.cur o.k else activeCount s.cur o.k) = v.act s o := rfl
  have hg : v.scalarB = false := by rw [hv]
  have hc : v.useC = false := by rw [hv]
  have hr : v.readD = false := by rw [hv]
  have hregs : [o.d] ++ (if v.useA then [o.a] else []) ++ (if v.useB then [o.b] else []) = v.regs o := by
    simp [VecForm.regs, hc]
  rw [vectorOp] at hi
  simp only [hact, ← hsize, hg, hc, hr, res_ok_bind, Bool.false_eq_true, if_false, List.append_nil, hregs] at hi
  rw [optional_bind ha, optional_bind hb] at hi
  refine faults_of_body hi hp ?_
  cases hn : needGroup (v.regs o) (v.size s o) with
  | error e =>
    rw [hn] at hcheck
    exact congrArg Except.error (Except.error.inj hcheck)
  | ok u =>
    rw [hn, res_ok_bind] at hcheck
    rw [res_ok_bind, hcheck, raise_bind]

/-- Settles O34: each fault is raised before the destination is looked at. -/
theorem vectorFaults : Obligations.VectorFaults := by
  unfold Obligations.VectorFaults
  intro o s hp
  dsimp only
  refine ⟨fun x y hx hg hy => ?_, fun x hx hd ha hrow => ?_, fun x hx hi => ?_⟩
  · let v : VecForm := binaryForm o (some (floatFmt (o.fn.toNat % 4)).w) false 4
    have hv : v = { v with scalarB := false, useC := false, readD := false } := by
      unfold v binaryForm
      rw [hg]
    have hregs : v.regs o = [o.d, o.a, o.b] := by
      unfold VecForm.regs v binaryForm
      rw [hg]
      rfl
    have hexec := exec_vadd (o := o) (s := s)
    rw [execVadd, vecFloat] at hexec
    have fails {code : BitVec 8} := faults_vectorOp (v := v) (code := code) hexec hp hv (fun _ => hx) (fun _ => hy)
    refine ⟨fun hlt => fails ?_, fun hd ha hb hw => fails ?_⟩
    · rw [needGroup_fails, raise_bind]
      rw [hregs]
      obtain h | h | h := hlt
      exacts [⟨_, by simp, h⟩, ⟨_, by simp, h⟩, ⟨_, by simp, h⟩]
    · rw [needGroup_of_le (by rw [hregs]; simpa using ⟨hd, ha, hb⟩), res_ok_bind, need, if_neg]
      simpa [v, binaryForm] using hw.symm
  · let v : VecForm := { single := true, limit := some (vRows s.cur * vCols s.cur), indexOk := moveIndex o < vRows s.cur }
    have hexec := exec_vbcastRow (o := o) (s := s)
    rw [execVbcastRow] at hexec
    refine faults_vectorOp (v := v) (y := 0) hexec hp rfl (fun _ => hx) nofun ?_
    rw [needGroup_of_le (by simpa [VecForm.regs, v] using ⟨hd, ha⟩), res_ok_bind, need, if_neg]
    have hfalse : v.indexOk = false := decide_eq_false (Nat.not_lt.2 hrow)
    rw [hfalse, Bool.and_false]
    decide
  · refine faults_of_body exec_vmoveTog hp ?_
    simp only [hx, res_ok_bind, moveIndex, Nat.not_lt.2 hi, decide_false, need_false]
    rfl

/-! ## Shapes and predicates (R313, R314, R318) -/

/-- The predicates of a slot after a write (R314): the count is limited to 0 to 6N; k0 discards it. -/
def writtenK (t : Slot) (k : BitVec 6) (x : Int) : Vector (BitVec 16) 8 :=
  if k = 0 then t.k
  else t.k.setIfInBounds k.toNat (t.wcode ++ 0#2 ++ BitVec.ofNat 12 (max 0 (min x (6 * vCount t))).toNat)

theorem writeK_eq (t : Slot) (k : BitVec 6) (x : Int) : writeK t k x = { t with k := writtenK t k x } := by
  have hcount : (min (max x 0) (6 * vCount t : Int)).toNat = (max 0 (min x (6 * vCount t))).toNat := by omega
  simp only [writeK, writtenK, hcount]
  split <;> rfl

theorem writtenK_getElem (t : Slot) (d : BitVec 6) (x : Int) (k : Fin 8) : (writtenK t d x)[k] =
    if k.val = d.toNat ∧ d ≠ 0 then t.wcode ++ 0#2 ++ BitVec.ofNat 12 (max 0 (min x (6 * vCount t))).toNat else t.k[k] := by
  unfold writtenK
  split
  · next h0 => exact (if_neg fun h => h.2 h0).symm
  · next h0 =>
    rw [Fin.getElem_fin, Vector.getElem_setIfInBounds]
    exact if_congr (by rw [eq_comm]; exact ⟨fun h => ⟨h, h0⟩, fun h => h.1⟩) rfl rfl

theorem exec_sets_predicate {i : Instr} {o : Opnd} {s : State} {x : Int} (hp : s.mgmt.powered = true)
    (hi : exec i s = issue s o (.ok (advance (onCur s (fun t => writeK t o.d x)) o))) :
    let count := (max 0 (min x (6 * vCount s.cur))).toNat
    ∃ t, exec i s = .next (wentOn s o t) ∧ t = { s.cur with k := t.k }
      ∧ ∀ k : Fin 8, t.k[k] = if k.val = o.d.toNat ∧ o.d ≠ 0 then s.cur.wcode ++ 0#2 ++ BitVec.ofNat 12 count
        else s.cur.k[k] := by
  have hexec : exec i s = .next (wentOn s o (writeK s.cur o.d x)) := by
    rw [hi, issue_ok hp, advance_onCur (f := fun t => writeK t o.d x) (by rw [writeK_eq])]
  rw [writeK_eq] at hexec
  exact ⟨_, hexec, rfl, writtenK_getElem s.cur o.d x⟩

theorem shapesAndPredicates {o : Opnd} {s : State} (hp : s.mgmt.powered = true) :
    let n := vCount s.cur
    let sets (i : Instr) (x : Int) : Prop :=
      let count := (max 0 (min x (6 * n))).toNat
      ∃ t, exec i s = .next (wentOn s o t) ∧ t = { s.cur with k := t.k }
        ∧ ∀ k : Fin 8, t.k[k] = if k.val = o.d.toNat ∧ o.d ≠ 0 then s.cur.wcode ++ 0#2 ++ BitVec.ofNat 12 count else s.cur.k[k]
    exec (.vshape o) s = .next (wentOn s o
      { s.cur with rows := o.imm16.extractLsb' 0 6, wcode := o.imm16.extractLsb' 8 2 })
    ∧ (dstG s.cur o.d = .ok () →
        writes1 (.vshapeRd o) s o o.d (word (s.cur.rows.toNat + 256 * s.cur.wcode.toNat)))
    ∧ (∀ x, srcG s.cur o.a o.feA = .ok x → sets (.kset o) (x.toInt + dispOf o))
    ∧ (∀ x, srcG s.cur o.b o.feB = .ok x → sets (.kadd o) (activeCount s.cur (o.a.setWidth 3) + x.toInt + dispOf o))
    ∧ sets (.kmin o) (min (activeCount s.cur (o.a.setWidth 3)) (activeCount s.cur (o.b.setWidth 3))) := by
  refine ⟨?_, fun hd => ?_, fun x hx => exec_sets_predicate hp ?_, fun x hx => exec_sets_predicate hp ?_,
    exec_sets_predicate hp ?_⟩
  · exact wentOn_of_body (f := fun t => { t with rows := o.imm16.extractLsb' 0 6, wcode := o.imm16.extractLsb' 8 2 })
      exec_vshape hp rfl rfl
  · refine writes1_of_body (n := 1) exec_vshapeRd hp ?_
    rw [hd, Nat.mul_comm 256]
    rfl
  · rw [exec_kset, execKset, hx]
    rfl
  · rw [exec_kadd, execKadd, hx]
    rfl
  · rw [exec_kmin, execKmin]
    rfl

theorem vWidth_ge (t : Slot) : 8 ≤ vWidth t := by
  have h : ∀ c : BitVec 2, 8 ≤ 8 * 2 ^ c.toNat := by decide
  exact h t.wcode

/-! ## Random numbers (R335) -/

theorem writesElems_vrand {o : Opnd} {s : State} {g : Word} {size : Nat} (hp : s.mgmt.powered = true)
    (hsize : groupSize (activeCount s.cur o.k) (vCount s.cur) = size) (hd : groupFree s o.d size)
    (hg : srcG s.cur o.a o.feA = .ok g) (hw : (decide (o.fn = 0) || decide (vWidth s.cur = 32)) = true) :
    let w := vWidth s.cur
    let draw (j : Nat) : Nat :=
      elemOf w (philox (j * w / 128) (g.extractLsb' 0 32) (widOf s.cur) s.cur.seed).toNat (j % (128 / w))
    writesElems (.vrand o) s o size w (activeCount s.cur o.k) false o.feD
      (fun j => (if o.fn = 1 then (roundNum fmt32 0 (.fin false (draw j / 2 ^ 8) (-24))).1 else draw j, 0))
      (12 + 2 * (size - 1)) := by
  intro w draw
  subst hsize
  refine writesElems_valuesL rfl (vWidth_dvd _) hd.1 ?_
  rw [exec_vrand, execVrand]
  simp only [hg, res_ok_bind]
  rw [needGroup_of_le (by simpa using hd.1), dstGroup_of_groupFree hd, hw]
  exact issue_ok hp

/-! ## Trits (R87, R89, R336, R337) -/

theorem balancedDigit_bounds (x : Int) (j : Nat) : -1 ≤ balancedDigit x j ∧ balancedDigit x j ≤ 1 := by
  unfold balancedDigit
  dsimp only
  omega

theorem tritByte_eq {l : List Nat} (h : l.length ≤ 5) :
    tritByte l = l.getD 0 0 + 3 * l.getD 1 0 + 9 * l.getD 2 0 + 27 * l.getD 3 0 + 81 * l.getD 4 0 := by
  match l, h with
  | [], _ => rfl
  | [a], _ => simp [tritByte]
  | [a, b], _ => simp [tritByte]; ring
  | [a, b, c], _ => simp [tritByte]; ring
  | [a, b, c, d], _ => simp [tritByte]; ring
  | [a, b, c, d, e], _ => simp [tritByte]; ring
  | _ :: _ :: _ :: _ :: _ :: _ :: _, h => simp only [List.length_cons] at h; omega

theorem tritDigit_lt (v : Int) : tritDigit v < 3 := by
  unfold tritDigit
  split
  · decide
  · split <;> decide

/-- Five digits of a list of trits from a place on. -/
theorem digits_getD (ds : List (Int × BitVec 6)) (i k : Nat) (hk : k < 5) :
    (((ds.drop (5 * i)).take 5).map (fun d => tritDigit d.1)).getD k 0 =
      if 5 * i + k < ds.length then tritDigit (ds.getD (5 * i + k) (0, 0)).1 else 0 := by
  rw [List.getD_eq_getElem?_getD, List.getElem?_map, List.getElem?_take_of_lt hk, List.getElem?_drop]
  split
  · next h => simp [h]
  · next h => rw [List.getElem?_eq_none (Nat.not_lt.1 h)]; rfl

theorem tritByte_lt {l : List Nat} (h : l.length ≤ 5) (hl : ∀ k, l.getD k 0 < 3) : tritByte l < 2 ^ 8 := by
  have h0 := hl 0
  have h1 := hl 1
  have h2 := hl 2
  have h3 := hl 3
  have h4 := hl 4
  rw [tritByte_eq h]
  omega

/-- Whether the bytes of `n` trits lie in their registers. -/
theorem trit_bytes_le (n : Nat) : (n + 4) / 5 ≤ tritRegs n * 512 := by
  unfold tritRegs
  omega

theorem elemOf_trit {o : Opnd} {s : State} {act j : Nat} (hj : j < (act + 4) / 5) :
    elemOf 8 (groupBits s.cur o.a.toNat (tritRegs act)) j = elemAt s o.a 8 j :=
  elemOf_groupBits (by decide) (hj.trans_le (trit_bytes_le act))

/-- The digit of a trit (R87): 0, 1 for +1, 2 for −1. -/
theorem tritDigit_eq {t : Int} (h : -1 ≤ t ∧ t ≤ 1) : tritDigit t = if t = 0 then 0 else if t = 1 then 1 else 2 := by
  unfold tritDigit
  obtain rfl | rfl | rfl : t = -1 ∨ t = 0 ∨ t = 1 := by omega
  all_goals rfl

theorem toBits_tritOf {w : Nat} (hw : 8 ≤ w) (b i : Nat) :
    toBits w (tritOf b i) = if b / 3 ^ i % 3 = 2 then 2 ^ w - 1 else b / 3 ^ i % 3 := by
  have hlt : b / 3 ^ i % 3 < 3 := Nat.mod_lt _ (by decide)
  have hpow : 2 ^ 8 ≤ 2 ^ w := Nat.pow_le_pow_right (by decide) hw
  unfold toBits tritOf
  generalize 2 ^ w = m at *
  interval_cases b / 3 ^ i % 3
  · rfl
  · have hone : (1 : Int) % (m : Int) = 1 := Int.emod_eq_of_lt (by decide) (by omega)
    exact congrArg Int.toNat hone
  · rw [if_pos rfl]
    have hneg : (-1 : Int) % (m : Int) = m - 1 := by
      rw [← Int.add_emod_right, Int.emod_eq_of_lt] <;> omega
    refine (congrArg Int.toNat hneg).trans ?_
    omega

section
variable {o : Opnd} {s : State} {act size : Nat} (hp : s.mgmt.powered = true) (hact : activeCount s.cur o.k = act)
  (hsize : groupSize act (vCount s.cur) = size)
include hp hact hsize

theorem exec_tritPack {i : Instr} {digit : Int → Int × BitVec 6} (hi : exec i s = tritPack o s digit)
    (ha : groupFull s o.a size) (hd : groupFree s o.d (tritRegs act)) :
    let x (j : Nat) : Int := readInt true (vWidth s.cur) (elemAt s o.a (vWidth s.cur) j)
    let ds := (List.range act).map (fun j => digit (x j))
    let bytes := (List.range ((act + 4) / 5)).map (fun i => tritByte (((ds.drop (5 * i)).take 5).map (fun d => tritDigit d.1)))
    exec i s = .next (finishV s o (mergeGroup s.cur o.d (tritRegs act) 8 false bytes) (ds.foldl (fun fl d => fl ||| d.2) 0)
      (4 + 2 * (max (tritRegs act) size - 1))) := by
  intro x ds bytes
  have hds : (List.range act).map (fun j => digit (readInt true (vWidth s.cur)
      (elemOf (vWidth s.cur) (groupBits s.cur o.a.toNat size) j))) = ds := by
    refine List.map_congr_left fun j hj => ?_
    have hj' := (List.mem_range.1 hj).trans_le (le_groupSize_mul act (Nat.zero_lt_of_lt (vCount_ge s.cur)))
    rw [readsElems_groupBits s o.a size j (hsize ▸ hj')]
  rw [hi, tritPack]
  simp only [hact, hsize, srcGroup_of_groupFull o.feA ha, res_ok_bind]
  rw [needGroup_of_le (by simpa using ha.1), needGroup_of_le (by simpa using hd.1)]
  simp only [dstGroup_of_groupFree hd, res_ok_bind, hds]
  exact issue_ok hp

/-- TRPACK and TRSPLIT: five digits in each byte (R87), with the flags of the elements. -/
theorem packs_tritPack {i : Instr} {digit : Int → Int × BitVec 6} (hi : exec i s = tritPack o s digit)
    (hdig : ∀ v, -1 ≤ (digit v).1 ∧ (digit v).1 ≤ 1) (ha : groupFull s o.a size) (hd : groupFree s o.d (tritRegs act)) :
    let x (j : Nat) : Int := readInt true (vWidth s.cur) (elemAt s o.a (vWidth s.cur) j)
    let code (t : Int) : Nat := if t = 0 then 0 else if t = 1 then 1 else 2
    ∃ t' vs, exec i s = .next t' ∧ wrote s t' o [] vs ((List.range act).foldl (fun a j => a ||| (digit (x j)).2) 0)
      ∧ vs.map (fun p => p.1) = (List.range (tritRegs act)).map (fun i => vreg (o.d.toNat + i))
      ∧ ∀ k p, vs[k]? = some p → ∀ e, e < 512 → k * 512 + e < (act + 4) / 5 →
        let d (i : Nat) : Nat := if 5 * (k * 512 + e) + i < act then code (digit (x (5 * (k * 512 + e) + i))).1 else 0
        elemOf 8 p.2.toNat e = d 0 + 3 * d 1 + 9 * d 2 + 27 * d 3 + 81 * d 4 := by
  intro x code
  have hcode (v : Int) : tritDigit (digit v).1 = code (digit v).1 := tritDigit_eq (hdig v)
  have hexec := exec_tritPack hp hact hsize hi ha hd
  set ds := (List.range act).map (fun j => digit (x j)) with hds
  dsimp only at hexec
  rw [← hds, show ds.foldl (fun fl d => fl ||| d.2) 0 = (List.range act).foldl (fun a j => a ||| (digit (x j)).2) 0 from
    List.foldl_map ..] at hexec
  have hnodup (vals : List Nat) : ((mergeGroup s.cur o.d (tritRegs act) 8 false vals).map Prod.fst).Nodup :=
    (mergeGroup_regs ..).symm ▸ vregs_nodup hd.1
  refine ⟨_, _, hexec, wrote_finishV _ _ _ _ _ (hnodup _), mergeGroup_regs .., fun k p hk e he hlt => ?_⟩
  intro d
  rw [elemOf_mergeGroup hk (by decide) he, if_pos (by simpa using hlt)]
  have hget (m : Nat) (hm : m < 5) :
      (((ds.drop (5 * (k * 512 + e))).take 5).map (fun d => tritDigit d.1)).getD m 0 = d m := by
    rw [digits_getD _ _ _ hm]
    simp only [hds, List.length_map, List.length_range, d]
    split
    · next h => simp [h, hcode]
    · rfl
  have hlen : (((ds.drop (5 * (k * 512 + e))).take 5).map (fun d => tritDigit d.1)).length ≤ 5 := by
    rw [List.length_map]
    exact List.length_take_le ..
  have hd3 (m : Nat) : d m < 3 := by
    unfold d
    split
    · exact hcode _ ▸ tritDigit_lt _
    · decide
  have hbyte := tritByte_eq hlen
  rw [hget 0 (by decide), hget 1 (by decide), hget 2 (by decide), hget 3 (by decide), hget 4 (by decide)] at hbyte
  have hidx : k * (4096 / 8) + e = k * 512 + e := rfl
  rw [hidx, List.getD_eq_getElem?_getD, List.getElem?_map, List.getElem?_range hlt, Option.map_some, Option.getD_some, hbyte]
  have h0 := hd3 0
  have h1 := hd3 1
  have h2 := hd3 2
  have h3 := hd3 3
  have h4 := hd3 4
  omega

theorem exec_trunpack_illegal (ha : groupFull s o.a (tritRegs act)) (hd : o.d.toNat + size ≤ 32) {i : Nat}
    (hi : i < (act + 4) / 5) (hbad : 243 ≤ elemAt s o.a 8 i) (hfirst : ∀ k, k < i → elemAt s o.a 8 k < 243) :
    exec (.trunpack o) s = .next (takeFault s (ctlSite s o) { code := 0x18, elem := BitVec.ofNat 32 i } (codeOff s)) := by
  have hfind : (List.range ((act + 4) / 5)).find? (fun i => decide (elemOf 8 (groupBits s.cur o.a.toNat (tritRegs act)) i ≥ 243))
      = some i := by
    rw [List.find?_range_eq_some]
    refine ⟨?_, List.mem_range.2 hi, fun j hj => ?_⟩
    · simpa [elemOf_trit hi] using hbad
    · simpa [elemOf_trit (hj.trans hi)] using hfirst j hj
  rw [exec_trunpack, execTrunpack]
  simp only [hact, hsize, srcGroup_of_groupFull o.feA ha, res_ok_bind]
  rw [needGroup_of_le (by simpa using ha.1), needGroup_of_le (by simpa using hd), hfind]
  exact issue_fault hp

theorem writesElems_trunpack (ha : groupFull s o.a (tritRegs act)) (hd : groupFree s o.d size)
    (hok : ∀ i, i < (act + 4) / 5 → elemAt s o.a 8 i < 243) :
    let w := vWidth s.cur
    writesElems (.trunpack o) s o size w act false false (fun j =>
      let d := elemAt s o.a 8 (j / 5) / 3 ^ (j % 5) % 3
      (if d = 2 then 2 ^ w - 1 else d, 0)) (4 + 2 * (max (tritRegs act) size - 1)) := by
  intro w
  have hfind : (List.range ((act + 4) / 5)).find? (fun i => decide (elemOf 8 (groupBits s.cur o.a.toNat (tritRegs act)) i ≥ 243))
      = none := by
    rw [List.find?_eq_none]
    intro j hj
    rw [List.mem_range] at hj
    simpa [elemOf_trit hj] using hok j hj
  refine writesElems_valuesV (List.map_congr_left fun j hj => ?_) (vWidth_dvd _) hd.1 (vals := (List.range act).map (fun j =>
    toBits w (tritOf (elemOf 8 (groupBits s.cur o.a.toNat (tritRegs act)) (j / 5)) (j % 5)))) ?_
  · rw [List.mem_range] at hj
    rw [elemOf_trit (by omega), toBits_tritOf (vWidth_ge _)]
  · rw [exec_trunpack, execTrunpack]
    simp only [hact, hsize, srcGroup_of_groupFull o.feA ha, res_ok_bind]
    rw [needGroup_of_le (by simpa using ha.1), needGroup_of_le (by simpa using hd.1), hfind]
    simp only [dstGroup_of_groupFree hd, res_ok_bind]
    exact issue_ok hp

end

/-- Settles O33, a kind of instruction at a time. -/
theorem shapesPredicatesRandomAndTrits : Obligations.ShapesPredicatesRandomAndTrits := by
  unfold Obligations.ShapesPredicatesRandomAndTrits
  refine ⟨fun o s hp => shapesAndPredicates hp, fun o s hp => ?_⟩
  dsimp only
  refine ⟨fun hd g hg => ⟨fun hfn => ?_, fun hfn hw => ?_⟩, fun ha hd => ⟨?_, ?_⟩,
    fun ha hle => ⟨fun i hi hbad hfirst => exec_trunpack_illegal hp rfl rfl ha hle hi hbad hfirst,
      fun hd hok => writesElems_trunpack hp rfl rfl ha hd hok⟩⟩
  · have hne : o.fn ≠ 1 := by rw [hfn]; decide
    simpa only [if_neg hne] using writesElems_vrand hp rfl hd hg (by simp [hfn])
  · simpa only [if_pos hfn] using writesElems_vrand hp rfl hd hg (by simp [hw])
  · have hpack := packs_tritPack hp rfl rfl (exec_trpack (o := o) (s := s)) (fun v => by dsimp only; split <;> [decide; (split <;> decide)])
      ha hd
    simpa only [gt_iff_lt] using hpack
  · exact packs_tritPack hp rfl rfl (exec_trsplit (o := o) (s := s)) (fun v => balancedDigit_bounds v _) ha hd

end Sys2Proof.Machine
end

section
/-! SUPPORT. Reductions and scans of vector elements: O32. -/

namespace Sys2Proof.Machine

/-! ## Reductions and scans (R102, R331, R332) -/

theorem treeFold_one (op : Nat → Nat → Nat × BitVec 6) (leaf : Nat → Nat × BitVec 6) (n x : Nat) :
    treeFold op leaf n [x] = leaf x := by
  cases n <;> rfl

/-- The tree of two elements or more: split at the largest power of two below their number. -/
theorem treeFold_split (op : Nat → Nat → Nat × BitVec 6) (leaf : Nat → Nat × BitVec 6) (n : Nat) {xs : List Nat}
    (h : 1 < xs.length) :
    let k := 2 ^ (xs.length - 1).log2
    let a := treeFold op leaf n (xs.take k)
    let b := treeFold op leaf n (xs.drop k)
    treeFold op leaf (n + 1) xs = ((op a.1 b.1).1, a.2 ||| b.2 ||| (op a.1 b.1).2) := by
  match xs, h with
  | _ :: _ :: _, _ => rfl

theorem pow_log2_lt {n : Nat} (h : 1 < n) : 0 < 2 ^ (n - 1).log2 ∧ 2 ^ (n - 1).log2 < n := by
  have := Nat.log2_self_le (n := n - 1) (by omega)
  exact ⟨by positivity, by omega⟩

theorem log2_of_between {e n : Nat} (h1 : 2 ^ e < n) (h2 : n ≤ 2 ^ (e + 1)) : (n - 1).log2 = e := by
  rw [Nat.log2_eq_iff (by omega)]
  omega

/-- The tree of a list is the same with any fuel that its length allows. -/
theorem treeFold_fuel (op : Nat → Nat → Nat × BitVec 6) (leaf : Nat → Nat × BitVec 6) (n m : Nat) (xs : List Nat)
    (h0 : xs ≠ []) (hn : xs.length ≤ n) (hm : xs.length ≤ m) : treeFold op leaf n xs = treeFold op leaf m xs := by
  induction n generalizing m xs with
  | zero => exact absurd (List.length_eq_zero_iff.1 (Nat.le_zero.1 hn)) h0
  | succ n ih =>
    have hpos := List.length_pos_iff.2 h0
    obtain h1 | h1 := Nat.eq_or_lt_of_le (Nat.succ_le_of_lt hpos)
    · obtain ⟨x, rfl⟩ := List.length_eq_one_iff.1 h1.symm
      rw [treeFold_one, treeFold_one]
    · obtain ⟨m, rfl⟩ := Nat.exists_eq_succ_of_ne_zero (show m ≠ 0 by omega)
      obtain ⟨hk, hlt⟩ := pow_log2_lt h1
      have htake := ih m (xs.take (2 ^ (xs.length - 1).log2)) (List.ne_nil_of_length_pos (by simp; omega))
        (by simp; omega) (by simp; omega)
      have hdrop := ih m (xs.drop (2 ^ (xs.length - 1).log2)) (List.ne_nil_of_length_pos (by simp; omega))
        (by simp; omega) (by simp; omega)
      rw [treeFold_split _ _ _ h1, treeFold_split _ _ _ h1, htake, hdrop]

section
variable (w : Nat) (f : NumFmt) (m : BitVec 6)

theorem reduceOne_float {kind : Nat} (hk : kind ≤ 2) {xs : List Nat} (h0 : xs ≠ []) :
    reduceOne kind w f m xs = treeFold (redFloat kind f m) (leafResult f m) xs.length xs := by
  cases xs with
  | nil => exact absurd rfl h0
  | cons x xs => exact if_pos hk

theorem reduceOne_int {kind : Nat} (hk : 3 ≤ kind) {xs : List Nat} (h0 : xs ≠ []) :
    reduceOne kind w f m xs = redInt kind w xs := by
  cases xs with
  | nil => exact absurd rfl h0
  | cons x xs => exact if_neg (by omega)

theorem reduceOne_one {kind : Nat} (hk : kind ≤ 2) (x : Nat) : reduceOne kind w f m [x] = leafResult f m x :=
  (reduceOne_float w f m hk (List.cons_ne_nil x [])).trans (treeFold_one ..)

theorem redIdentity_eq (kind : Nat) : redIdentity kind w f =
    if kind = 1 ∨ kind = 2 then canonNaN f else if kind = 5 then 2 ^ (w - 1) - 1 else if 6 ≤ kind then 2 ^ (w - 1) else 0 := by
  match kind with
  | 0 | 1 | 2 | 3 | 4 | 5 => rfl
  | n + 6 => simp [redIdentity]

/-- A floating reduction splits at a power of two (R102). -/
theorem reduceOne_split {kind e : Nat} (hk : kind ≤ 2) {xs : List Nat} (h1 : 2 ^ e < xs.length) (h2 : xs.length ≤ 2 ^ (e + 1)) :
    let a := reduceOne kind w f m (xs.take (2 ^ e))
    let b := reduceOne kind w f m (xs.drop (2 ^ e))
    reduceOne kind w f m xs = ((redFloat kind f m a.1 b.1).1, a.2 ||| b.2 ||| (redFloat kind f m a.1 b.1).2) := by
  have hpos : 0 < 2 ^ e := by positivity
  have htake : xs.take (2 ^ e) ≠ [] := List.ne_nil_of_length_pos (by simp; omega)
  have hdrop : xs.drop (2 ^ e) ≠ [] := List.ne_nil_of_length_pos (by simp; omega)
  obtain ⟨n, hn⟩ := Nat.exists_eq_succ_of_ne_zero (show xs.length ≠ 0 by omega)
  intro a b
  rw [reduceOne_float w f m hk (List.ne_nil_of_length_pos (by omega)), hn, treeFold_split _ _ _ (by omega),
    log2_of_between h1 h2]
  simp only [a, b, reduceOne_float w f m hk htake, reduceOne_float w f m hk hdrop]
  rw [treeFold_fuel _ _ n _ _ htake (by simp; omega) (Nat.le_refl _), treeFold_fuel _ _ n _ _ hdrop (by simp; omega) (Nat.le_refl _)]

/-- The floating scan from a value on (R102). -/
def scanFrom (kind : Nat) (f : NumFmt) (m : BitVec 6) : Option Nat → List Nat → List (Nat × BitVec 6)
  | _, [] => []
  | prev, x :: xs =>
    let r := match prev with
      | none => leafResult f m x
      | some y => redFloat kind f m y x
    r :: scanFrom kind f m (some r.1) xs

theorem scanOne_float {kind : Nat} (hk : kind ≤ 2) (xs : List Nat) : scanOne kind w f m xs = scanFrom kind f m none xs := by
  have hfold (xs : List Nat) (acc : List (Nat × BitVec 6)) (prev : Option Nat) :
      (xs.foldl (fun (p : List (Nat × BitVec 6) × Option Nat) x =>
        let r := match p.2 with
          | none => leafResult f m x
          | some y => redFloat kind f m y x
        (p.1 ++ [r], some r.1)) (acc, prev)).1 = acc ++ scanFrom kind f m prev xs := by
    induction xs generalizing acc prev with
    | nil => exact (List.append_nil acc).symm
    | cons x xs ih => rw [List.foldl_cons, ih, List.append_assoc]; rfl
  rw [scanOne, if_pos hk]
  exact hfold xs [] none

theorem scanFrom_length (kind : Nat) (prev : Option Nat) (xs : List Nat) : (scanFrom kind f m prev xs).length = xs.length := by
  induction xs generalizing prev with
  | nil => rfl
  | cons x xs ih => exact congrArg (· + 1) (ih _)

theorem scanOne_length (kind : Nat) (xs : List Nat) : (scanOne kind w f m xs).length = xs.length := by
  by_cases hk : kind ≤ 2
  · rw [scanOne_float w f m hk, scanFrom_length]
  · rw [scanOne, if_neg hk, List.length_map, List.length_range]

theorem scanFrom_succ (kind : Nat) (prev : Option Nat) {xs : List Nat} {i x : Nat} (hx : xs[i + 1]? = some x) :
    (scanFrom kind f m prev xs).getD (i + 1) (0, 0) =
      redFloat kind f m ((scanFrom kind f m prev xs).getD i (0, 0)).1 x := by
  induction xs generalizing prev i with
  | nil => simp at hx
  | cons y ys ih =>
    cases i with
    | zero =>
      cases ys with
      | nil => simp at hx
      | cons z zs => obtain rfl : z = x := by simpa using hx
                     rfl
    | succ i => exact ih _ (by simpa using hx)

theorem scanOne_zero {kind : Nat} (hk : kind ≤ 2) {xs : List Nat} {x : Nat} (hx : xs[0]? = some x) :
    (scanOne kind w f m xs).getD 0 (0, 0) = leafResult f m x := by
  rw [scanOne_float w f m hk]
  cases xs with
  | nil => simp at hx
  | cons y ys => obtain rfl : y = x := by simpa using hx
                 rfl

theorem scanOne_int {kind i : Nat} (hk : 3 ≤ kind) {xs : List Nat} (hi : i < xs.length) :
    (scanOne kind w f m xs).getD i (0, 0) = reduceOne kind w f m (xs.take (i + 1)) := by
  have htake : xs.take (i + 1) ≠ [] := List.ne_nil_of_length_pos (by simp; omega)
  rw [scanOne, if_neg (by omega), reduceOne_int w f m hk htake]
  simp [hi]

end

/-! ### The rows of a reduction (R331) -/

/-- The active elements of row `r`. -/
theorem row_filter {cols act r : Nat} (hc : 0 < cols) :
    ((List.range cols).map (fun c => r * cols + c)).filter (fun j => j < act) =
      (List.range act).filter (fun i => decide (i / cols = r)) := by
  have hsorted {p : Nat → Bool} {l : List Nat} (h : l.Pairwise (· < ·)) : (l.filter p).Pairwise (· < ·) := h.filter p
  refine (hsorted (List.pairwise_map.2 (List.pairwise_lt_range.imp fun h => ?_))).eq_of_mem_iff (hsorted List.pairwise_lt_range)
    fun j => ?_
  · omega
  · simp only [List.mem_filter, List.mem_map, List.mem_range, decide_eq_true_eq]
    constructor
    · rintro ⟨⟨c, hlt, rfl⟩, hact⟩
      exact ⟨hact, by rw [Nat.add_comm, Nat.add_mul_div_right _ _ hc, Nat.div_eq_of_lt hlt, Nat.zero_add]⟩
    · rintro ⟨hact, rfl⟩
      exact ⟨⟨j % cols, Nat.mod_lt _ hc, by rw [Nat.mul_comm]; exact Nat.div_add_mod j cols⟩, hact⟩

theorem row_length {cols act r : Nat} :
    (((List.range cols).map (fun c => r * cols + c)).filter (fun j => j < act)).length = min cols (act - r * cols) := by
  have hcount (n : Nat) : ((List.range n).filter (fun c => decide (r * cols + c < act))).length = min n (act - r * cols) := by
    induction n with
    | zero => simp
    | succ n ih =>
      rw [List.range_succ, List.filter_append, List.length_append, ih]
      by_cases h : r * cols + n < act
      · simp [h]; omega
      · simp [h]; omega
  rw [List.filter_map, List.length_map]
  exact hcount cols

/-- Rows of results put one after another. -/
theorem flatMap_rows {α : Type} (d : α) (rows cols act : Nat) (L : Nat → List α) (hc : 0 < cols)
    (hL : ∀ r, r < rows → (L r).length = min cols (act - r * cols)) :
    (List.range rows).flatMap L = (List.range (min act (rows * cols))).map (fun j => (L (j / cols)).getD (j % cols) d) := by
  induction rows with
  | zero => simp
  | succ k ih =>
    have hlen := hL k (Nat.lt_succ_self k)
    have hsplit : min act ((k + 1) * cols) = min act (k * cols) + min cols (act - k * cols) := by
      rw [Nat.add_mul, Nat.one_mul]
      omega
    rw [List.range_succ, List.flatMap_append, ih fun r hr => hL r (hr.trans (Nat.lt_succ_self k)), hsplit, List.range_add,
      List.map_append, List.map_map]
    congr 1
    simp only [List.flatMap_cons, List.flatMap_nil, List.append_nil]
    refine List.ext_getElem (by simp [hlen]) fun i h1 h2 => ?_
    have hi : i < min cols (act - k * cols) := hlen ▸ h1
    have hmin : min act (k * cols) = k * cols := by omega
    have hlt : i < cols := by omega
    simp only [List.getElem_map, List.getElem_range, Function.comp_apply, hmin]
    rw [Nat.add_comm, Nat.add_mul_div_right _ _ hc, Nat.div_eq_of_lt hlt, Nat.zero_add, Nat.add_mul_mod_self_right,
      Nat.mod_eq_of_lt hlt, List.getD_eq_getElem?_getD, List.getElem?_eq_getElem h1, Option.getD_some]

/-- The elements that a reduction reads: a Single row form under lvl 1. -/
structure RedSource (s : State) (o : Opnd) (n size : Nat) : Prop where
  powered : s.mgmt.powered = true
  count : (if o.lvl = 1 then activeSingle s.cur o.k else activeCount s.cur o.k) = n
  regs : (if o.lvl = 1 then 1 else groupSize n (vCount s.cur)) = size
  full : groupFull s o.a size
  width : (decide (2 < o.fn.toNat % 8) || decide ((floatFmt (o.fn.toNat / 8)).w = vWidth s.cur)) = true

theorem RedSource.count_le {s : State} {o : Opnd} {n size : Nat} (h : RedSource s o n size) : n ≤ size * vCount s.cur := by
  have hcount := h.count
  have hregs := h.regs
  split at hregs
  · next hr =>
    rw [if_pos hr] at hcount
    rw [← hregs, Nat.one_mul, ← hcount]
    exact activeSingle_le ..
  · rw [← hregs]
    exact le_groupSize_mul _ (Nat.zero_lt_of_lt (vCount_ge s.cur))

theorem redParts_lt {row : Bool} {rows cols act : Nat} {js : List Nat} (h : js ∈ redParts row rows cols act) {j : Nat}
    (hj : j ∈ js) : j < act := by
  cases row with
  | false =>
    rw [show js = List.range act from List.mem_singleton.1 h] at hj
    exact List.mem_range.1 hj
  | true =>
    obtain ⟨r, -, rfl⟩ := List.mem_map.1 h
    simpa using (List.mem_filter.1 hj).2

/-- The parts of a reduction, from the source group. -/
theorem RedSource.parts {s : State} {o : Opnd} {n size : Nat} (h : RedSource s o n size) {row : Bool} {rows cols : Nat} {α : Type}
    (F : List Nat → α) :
    (redParts row rows cols n).map (fun js => F (js.map (elemOf (vWidth s.cur) (groupBits s.cur o.a.toNat size)))) =
      (redParts row rows cols n).map (fun js => F (js.map (fun j => elemAt s o.a (vWidth s.cur) j))) :=
  List.map_congr_left fun _ hjs => congrArg F (List.map_congr_left fun j hj =>
    readsElems_groupBits s o.a size j ((redParts_lt hjs hj).trans_le h.count_le))

section
variable {o : Opnd} {s : State} {n size : Nat} (h : RedSource s o n size)
include h

theorem exec_vred_reads : exec (.vred o) s = issue s o (do
    let t := s.cur
    let kind := o.fn.toNat % 8
    let w := vWidth t
    let rs := (redParts (o.lvl = 1) (vRows t) (vCols t) n).map (fun js =>
      reduceOne kind w (floatFmt (o.fn.toNat / 8)) t.mode (js.map (fun j => elemAt s o.a w j)))
    let fl := rs.foldl (fun fl r => fl ||| r.2) 0
    if o.lvl = 1 then do
      dstGroup t o.d 1
      return finishL s o [] (mergeGroup t o.d 1 w false (rs.map (fun r => r.1))) fl o.feD
        (redLatency kind (min n (vCols t)))
    else do
      dstG t o.d
      let x := (rs.headD (0, 0)).1
      return finishL s o [(o.d, if kind ≤ 2 then word x else BitVec.ofInt 64 (readInt true w x))] [] fl o.feD
        (redLatency kind n + 2 * (size - 1))) := by
  have hparts := h.parts (row := o.lvl = 1) (rows := vRows s.cur) (cols := vCols s.cur)
    (reduceOne (o.fn.toNat % 8) (vWidth s.cur) (floatFmt (o.fn.toNat / 8)) s.cur.mode)
  rw [exec_vred, execVred]
  simp only [h.count, h.regs, srcGroup_of_groupFull o.feA h.full, res_ok_bind, hparts]
  rw [needGroup_of_le (by simpa using h.full.1), h.width]
  rfl

theorem writesElems_vred (hrow : o.lvl = 1) (hd : groupFree s o.d 1) :
    let kind := o.fn.toNat % 8
    let w := vWidth s.cur
    let parts := redParts (o.lvl = 1) (vRows s.cur) (vCols s.cur) n
    let red (js : List Nat) : Nat × BitVec 6 :=
      reduceOne kind w (floatFmt (o.fn.toNat / 8)) s.cur.mode (js.map (fun j => elemAt s o.a w j))
    writesElems (.vred o) s o 1 w (vRows s.cur) false o.feD (fun r => red (parts.getD r []))
      (redLatency kind (min n (vCols s.cur))) := by
  intro kind w parts red
  have hexec := exec_vred_reads h
  simp only [if_pos hrow, dstGroup_of_groupFree hd, res_ok_bind] at hexec
  refine writesElems_of_finishL ?_ (vWidth_dvd _) hd.1 (hexec.trans (issue_ok h.powered))
  have hlen : parts.length = vRows s.cur := by simp [parts, redParts, hrow]
  refine List.ext_getElem (by rw [List.length_map, List.length_map, List.length_range]; exact hlen) fun i h1 h2 => ?_
  rw [List.length_map] at h1
  simp only [List.getElem_map, List.getElem_range]
  rw [List.getD_eq_getElem?_getD, show parts[i]? = some _ from List.getElem?_eq_getElem h1, Option.getD_some]

theorem writesLong_vred (hrow : ¬ o.lvl = 1) (hd : dstG s.cur o.d = .ok ()) :
    let kind := o.fn.toNat % 8
    let w := vWidth s.cur
    let r := reduceOne kind w (floatFmt (o.fn.toNat / 8)) s.cur.mode ((List.range n).map (fun j => elemAt s o.a w j))
    writesLong (.vred o) s o [(o.d, if kind ≤ 2 then word r.1 else BitVec.ofInt 64 (readInt true w r.1))] r.2
      (redLatency kind n + 2 * (size - 1)) := by
  intro kind w r
  have hexec := exec_vred_reads h
  simp only [hd, res_ok_bind, redParts, hrow, decide_false, Bool.false_eq_true, if_false, List.map_cons, List.map_nil,
    List.foldl_cons, List.foldl_nil, List.headD_cons, show ∀ x : BitVec 6, 0 ||| x = x from fun _ => BitVec.zero_or] at hexec
  exact ⟨_, hexec.trans (issue_ok h.powered), wroteLong_finishL _ _ _ _ _ _ _ (by simp) List.nodup_nil⟩

theorem writesElems_vscan (hd : groupFree s o.d size) :
    let kind := o.fn.toNat % 8
    let w := vWidth s.cur
    let c := vCols s.cur
    let part (j : Nat) : List Nat :=
      if o.lvl = 1 then (List.range n).filter (fun i => i / c = j / c) else List.range n
    writesElems (.vscan o) s o size w (min n (if o.lvl = 1 then vRows s.cur * c else n)) false o.feD
      (fun j => (scanOne kind w (floatFmt (o.fn.toNat / 8)) s.cur.mode ((part j).map (fun j => elemAt s o.a w j))).getD
        (if o.lvl = 1 then j % c else j) (0, 0))
      (scanLatency kind (if o.lvl = 1 then min n c else n) + 2 * (size - 1)) := by
  intro kind w c part
  have hexec : exec (.vscan o) s = .next (let rs := (redParts (o.lvl = 1) (vRows s.cur) c n).flatMap (fun js =>
        scanOne kind w (floatFmt (o.fn.toNat / 8)) s.cur.mode (js.map (fun j => elemAt s o.a w j)))
      finishL s o [] (mergeGroup s.cur o.d size w false (rs.map (fun r => r.1))) (rs.foldl (fun fl r => fl ||| r.2) 0) o.feD
        (scanLatency kind (if o.lvl = 1 then min n c else n) + 2 * (size - 1))) := by
    have hparts := h.parts (row := o.lvl = 1) (rows := vRows s.cur) (cols := vCols s.cur)
      (scanOne (o.fn.toNat % 8) (vWidth s.cur) (floatFmt (o.fn.toNat / 8)) s.cur.mode)
    rw [exec_vscan, execVscan]
    simp only [h.count, h.regs, srcGroup_of_groupFull o.feA h.full, res_ok_bind]
    rw [needGroup_of_le (by simpa using ⟨h.full.1, hd.1⟩), h.width]
    simp only [dstGroup_of_groupFree hd, res_ok_bind, need_true, List.flatMap_def, hparts]
    exact issue_ok h.powered
  refine writesElems_of_finishL ?_ (vWidth_dvd _) hd.1 hexec
  have hc : 0 < c := vCols_pos s.cur
  by_cases hrow : o.lvl = 1
  · simp only [redParts, hrow, decide_true, if_true, List.flatMap_map, part]
    refine (flatMap_rows (0, 0) _ c n _ hc fun r _ => ?_).trans (List.map_congr_left fun j _ => ?_)
    · rw [scanOne_length, List.length_map, row_length]
    · rw [row_filter hc]
  · simp only [redParts, hrow, decide_false, Bool.false_eq_true, if_false, List.flatMap_cons, List.flatMap_nil, List.append_nil,
      part, Nat.min_self]
    refine List.ext_getElem (by simp [scanOne_length]) fun i h1 h2 => ?_
    simp only [List.getElem_map, List.getElem_range]
    rw [List.getD_eq_getElem?_getD, List.getElem?_eq_getElem h1, Option.getD_some]

end

/-- Settles O32: what is written, and the tree, the fold and the integer forms that give it. -/
theorem vectorReductions : Obligations.VectorReductions := by
  unfold Obligations.VectorReductions
  intro o s hp
  dsimp only
  intro hw ha
  have h : RedSource s o _ _ := ⟨hp, rfl, rfl, ha, by simpa using hw⟩
  refine ⟨fun hrow hd => ?_, fun hrow hd => ?_, fun hd => writesElems_vscan h hd, ?_, fun hk xs => ⟨fun x => ?_, ?_, ?_, ?_⟩,
    fun hk xs h0 => ⟨fun hk3 => ?_, fun hk4 => ?_, fun hk5 => ?_, fun hk6 => ?_, fun i hi => scanOne_int _ _ _ hk hi⟩⟩
  · exact writesElems_vred h hrow hd
  · exact writesLong_vred h hrow hd
  · exact Prod.ext (redIdentity_eq ..) rfl
  · exact reduceOne_one _ _ _ hk x
  · exact fun e h1 h2 => reduceOne_split _ _ _ hk h1 h2
  · exact fun x hx => scanOne_zero _ _ _ hk hx
  · intro i x hx
    rw [scanOne_float _ _ _ hk]
    exact scanFrom_succ _ _ _ _ hx
  · rw [reduceOne_int _ _ _ hk h0, hk3]
    rfl
  · rw [reduceOne_int _ _ _ hk h0, hk4]
    have hle : intMin true (vWidth s.cur) ≤ intMax true (vWidth s.cur) := by
      have : 0 < 2 ^ (vWidth s.cur - 1) := by positivity
      simp only [intMin, intMax, if_true]
      omega
    have hsat := satInt_eq ((xs.map (readInt true (vWidth s.cur))).foldl (fun a b => a + b) 0) hle
    exact Prod.ext (congrArg (fun r : Int × BitVec 6 => toBits (vWidth s.cur) r.1) hsat) (congrArg (fun r : Int × BitVec 6 => r.2) hsat)
  · rw [reduceOne_int _ _ _ hk h0, hk5]
    rfl
  · rw [reduceOne_int _ _ _ hk h0, hk6]
    rfl

end Sys2Proof.Machine
end

section
/-! SUPPORT. What an access at a home leaves unchanged: other state than homes, and the bytes of memory outside spill areas (R57, R60 to R65, R194). -/

namespace Sys2Proof.Machine

/-! ## What an access at a home changes (R57, R60 to R65, R194) -/

theorem homeOnly_refl (s : State) : homeOnly s s := rfl

theorem homeOnly_trans {s t u : State} (h1 : homeOnly s t) (h2 : homeOnly t u) : homeOnly s u := by
  unfold homeOnly at *
  rw [h2, h1]

theorem homeOnly.cur {s t : State} (h : homeOnly s t) : t.cur = s.cur := by rw [h]

theorem homeOnly.queues {s t : State} (h : homeOnly s t) : t.queues = s.queues := by rw [h]

theorem homeOnly.slotOf {s t : State} (h : homeOnly s t) (c : SlotId) : slotOf t c = slotOf s c := by rw [h]; rfl

/-- The spill areas are those of the launches, which no access changes. -/
theorem homeOnly.spillByte {s t : State} (h : homeOnly s t) (x : Nat) : spillByte t x ↔ spillByte s x := by
  have hd : detLaunches t = detLaunches s := by rw [detLaunches, h.queues]; rfl
  rw [Machine.spillByte, Machine.spillByte, hd, h.cur]

/-- An access that changes nothing but homes, where memory reads as before. -/
def Quiet (s t : State) : Prop := homeOnly s t ∧ sameMemory s t

theorem Quiet.refl (s : State) : Quiet s s := ⟨rfl, rfl, fun _ _ => rfl⟩

theorem Quiet.trans {s t u : State} (h1 : Quiet s t) (h2 : Quiet t u) : Quiet s u := by
  obtain ⟨ho1, hp1, hm1⟩ := h1
  obtain ⟨ho2, hp2, hm2⟩ := h2
  exact ⟨homeOnly_trans ho1 ho2, hp2.trans hp1, fun x hx => (hm2 x ((ho1.spillByte x).not.2 hx)).trans (hm1 x hx)⟩

/-- Lines, determinism words, counters and L1s alone. -/
theorem quiet_of_lines {s t : State} (h : t = { s with
    lines := t.lines, detWords := t.detWords, counters := t.counters, l1 := t.l1 }) : Quiet s t := by
  have hmem : t.mem = s.mem := by rw [h]
  have hpoison : t.poison = s.poison := by rw [h]
  refine ⟨?_, hpoison, fun x _ => by rw [memByte, memByte, hmem]⟩
  unfold homeOnly
  rw [hmem, hpoison]
  exact h

theorem memByte_write (s : State) (a : Nat) (bs : List Byte) (x : Nat) :
    memByte { s with mem := ssetRange 0 s.mem a bs } x =
      if a ≤ x ∧ x < a + bs.length then bs.getD (x - a) 0 else memByte s x :=
  sget_ssetRange ..

/-- A conflict word written to a spill area. -/
theorem quiet_spill {s t : State} {a : Nat} (w : BitVec 32) (ha : ∀ x, a ≤ x → x < a + 4 → spillByte s x)
    (h : t = { s with
      mem := ssetRange 0 s.mem a (bytesOf 4 w.toNat)
      lines := t.lines, detWords := t.detWords, counters := t.counters, l1 := t.l1 }) : Quiet s t := by
  have hpoison : t.poison = s.poison := by rw [h]
  have hmem (x : Nat) : memByte t x = memByte { s with mem := ssetRange 0 s.mem a (bytesOf 4 w.toNat) } x := by
    rw [memByte, memByte, show t.mem = _ from congrArg State.mem h]
  refine ⟨?_, hpoison, fun x hx => ?_⟩
  · unfold homeOnly
    rw [hpoison]
    have hm : t.mem = ssetRange 0 s.mem a (bytesOf 4 w.toNat) := congrArg State.mem h
    rw [hm]
    exact h
  · rw [hmem, memByte_write, if_neg]
    rintro ⟨h1, h2⟩
    rw [Laws.bytesOf_length] at h2
    exact hx (ha x h1 h2)

/-- A quiet access that leaves the counters and the L1s as they are. -/
structure Touched (s t : State) : Prop where
  quiet : Quiet s t
  counters : t.counters = s.counters
  l1 : t.l1 = s.l1

theorem Touched.refl (s : State) : Touched s s := ⟨.refl s, rfl, rfl⟩

theorem Touched.trans {s t u : State} (h1 : Touched s t) (h2 : Touched t u) : Touched s u :=
  ⟨h1.quiet.trans h2.quiet, h2.counters.trans h1.counters, h2.l1.trans h1.l1⟩

theorem touched_of_lines (s : State) (lines detWords : Sparse (BitVec 32)) :
    Touched s { s with lines := lines, detWords := detWords } := ⟨quiet_of_lines rfl, rfl, rfl⟩

theorem touched_evictLine (s : State) (line : Nat) : Touched s (evictLine s line) := by
  unfold evictLine
  dsimp only
  split
  · next l hl =>
    split
    · next a ha =>
      split
      · exact ⟨quiet_spill _ (fun x h1 h2 => .inl ⟨l, List.mem_of_find?_eq_some hl, line, a, ha, h1, h2⟩) rfl, rfl, rfl⟩
      · exact touched_of_lines ..
    · exact touched_of_lines ..
  · exact touched_of_lines ..

theorem touched_makeRoom (s : State) (line : Nat) : Touched s (makeRoom s line) := by
  unfold makeRoom
  dsimp only
  split
  · exact .refl s
  · exact touched_evictLine ..

theorem touched_reloadLine (s : State) (line : Nat) : Touched s (reloadLine s line) := by
  unfold reloadLine
  split
  · exact touched_of_lines ..
  · exact .refl s

theorem touched_setLine (s : State) (line : Nat) (w : BitVec 32) : Touched s (setLine s line w) := touched_of_lines ..

theorem touched_bringLine (s : State) (line : Nat) : Touched s (bringLine s line) := by
  unfold bringLine
  split
  · exact .refl s
  · exact ((touched_makeRoom s line).trans (touched_reloadLine ..)).trans (touched_setLine ..)

theorem touched_touchLine (s : State) (line : Nat) (mem : Bool) : Touched s (touchLine s line mem) := by
  unfold touchLine
  split
  · exact .refl s
  · exact touched_bringLine ..

theorem touched_homeRead (s : State) (pa n : Nat) (mem : Bool) : Touched s (homeRead s pa n mem).1 := by
  have hfold (ls : List Nat) (s : State) : Touched s (ls.foldl (fun s line => touchLine s line mem) s) := by
    induction ls generalizing s with
    | nil => exact .refl s
    | cons l ls ih => exact (touched_touchLine s l mem).trans (ih _)
  exact hfold _ s

theorem touched_keepWord {s : State} {line : Nat} (w : BitVec 32) (hin : inWindow s.cur line = true) :
    Touched s (keepWord s s.cur line w) := by
  unfold keepWord
  dsimp only
  split
  · exact touched_of_lines ..
  · split
    · next a ha => exact ⟨quiet_spill w (fun x h1 h2 => .inr ⟨line, a, hin, ha, h1, h2⟩) rfl, rfl, rfl⟩
    · exact .refl s

theorem touched_checkLine {s s' : State} {k : Access} {mem : Bool} {line : Nat} (h : checkLine s s.cur k mem line = .ok s') :
    Touched s s' := by
  unfold checkLine at h
  split at h
  · cases h
  · next hin =>
    have hcur : (touchLine s line mem).cur = s.cur := touchLine_cur ..
    dsimp only at h
    split at h
    · cases h
    · obtain rfl := Except.ok.inj h
      have hin' : inWindow (touchLine s line mem).cur line = true := by rw [hcur]; simpa using hin
      exact (touched_touchLine s line mem).trans (hcur ▸ touched_keepWord _ hin')

theorem touched_checkLines {s s' : State} {k : Access} {pa n : Nat} {mem : Bool} (h : checkLines s s.cur k pa n mem = .ok s') :
    Touched s s' := by
  have hfold (ls : List Nat) (s : State) (t : Slot) (ht : t = s.cur)
      (h : ls.foldlM (fun s line => checkLine s t k mem line) s = .ok s') : Touched s s' := by
    induction ls generalizing s with
    | nil => obtain rfl := Except.ok.inj h; exact .refl s
    | cons l ls ih =>
      rw [List.foldlM_cons] at h
      cases hl : checkLine s t k mem l with
      | error e => rw [hl] at h; cases h
      | ok s1 =>
        rw [hl] at h
        subst ht
        have hq := touched_checkLine hl
        exact hq.trans (ih s1 hq.quiet.1.cur.symm h)
  unfold checkLines at h
  split at h
  · exact hfold _ s s.cur rfl h
  · obtain rfl := Except.ok.inj h; exact .refl s

/-- A check that passes, and the rest that passes with its result. -/
theorem res_bind_eq_ok {α β : Type} {x : Res α} {f : α → Res β} {r : β} : (x >>= f) = .ok r ↔ ∃ a, x = .ok a ∧ f a = .ok r := by
  cases x with
  | error e => exact ⟨nofun, nofun⟩
  | ok a => exact ⟨fun h => ⟨a, rfl, h⟩, fun ⟨b, hb, h⟩ => Except.ok.inj hb ▸ h⟩

theorem admitRead_eq_ok {s s' : State} {t : Slot} {pa n : Nat} {reg : Word} {lv : Level}
    (h : admitRead s t pa reg n lv = .ok s') : checkLines s t .read pa n (lv = .mem) = .ok s' := by
  unfold admitRead at h
  obtain ⟨-, -, h⟩ := res_bind_eq_ok.1 h
  split at h
  · cases h
  · obtain ⟨s1, h1, h⟩ := res_bind_eq_ok.1 h
    split at h
    · cases h
    · exact h1.trans h

theorem touched_admitRead {s s' : State} {pa n : Nat} {reg : Word} {lv : Level} (h : admitRead s s.cur pa reg n lv = .ok s') :
    Touched s s' := touched_checkLines (admitRead_eq_ok h)

/-! ### Reads through the L1 (R57) -/

theorem quiet_l1 (s : State) (l1 : List L1Line) : Quiet s { s with l1 := l1 } := quiet_of_lines rfl

theorem quiet_l1Read (s : State) (t : Slot) (line : Nat) : Quiet s (l1Read s t line).1 := by
  unfold l1Read
  dsimp only
  split
  · exact quiet_l1 ..
  · exact (touched_touchLine s line false).quiet.trans (quiet_l1 ..)

/-- The bytes of a line that an access of `n` bytes at `pa` takes. -/
def lineSlice (pa n line : Nat) (bs : List Byte) : List Byte :=
  let lo := if 128 * line < pa then pa - 128 * line else 0
  let hi := if pa + n < 128 * line + 128 then pa + n - 128 * line else 128
  (bs.drop lo).take (hi - lo)

/-- One line more of an access at .CL. -/
def l1Step (t : Slot) (pa n : Nat) (x : State × List Byte) (line : Nat) : State × List Byte :=
  ((l1Read x.1 t line).1, x.2 ++ lineSlice pa n line (l1Read x.1 t line).2)

theorem l1Bytes_eq (s : State) (t : Slot) (pa n : Nat) : l1Bytes s t pa n = (linesOf pa n).foldl (l1Step t pa n) (s, []) := rfl

theorem quiet_l1Bytes (s : State) (t : Slot) (pa n : Nat) : Quiet s (l1Bytes s t pa n).1 := by
  have hfold (ls : List Nat) (x : State × List Byte) : Quiet x.1 (ls.foldl (l1Step t pa n) x).1 := by
    induction ls generalizing x with
    | nil => exact .refl x.1
    | cons l ls ih => exact (quiet_l1Read x.1 t l).trans (ih _)
  exact hfold _ (s, [])

/-! ### Writes at a home (R65) -/

theorem quiet_tagWrite (s : State) (line : Nat) (mem : Bool) : Quiet s (tagWrite s line mem).1 := by
  have htouch (k : Sparse (BitVec 16)) : Quiet s (touchLine { s with counters := k } line mem) :=
    (quiet_of_lines rfl).trans (touched_touchLine ..).quiet
  unfold tagWrite
  dsimp only
  split
  · exact htouch _
  · exact (htouch _).trans (touched_setLine ..).quiet

/-- The tag of a write is the next value of its bucket's counter. -/
theorem tagWrite_counter (s : State) (line : Nat) (mem : Bool) :
    (tagWrite s line mem).2 = sget 0 s.counters (bucketKey (128 * line)) + 1
      ∧ sget 0 (tagWrite s line mem).1.counters (bucketKey (128 * line)) = (tagWrite s line mem).2 := by
  have hset (k : Nat) (v : BitVec 16) :
      sget 0 (touchLine { s with counters := sset 0 s.counters k v } line mem).counters k = v := by
    rw [(touched_touchLine ..).counters]
    exact (sget_sset ..).trans (if_pos rfl)
  unfold tagWrite
  dsimp only
  split
  · exact ⟨rfl, hset _ _⟩
  · exact ⟨rfl, hset _ _⟩

/-- The state and the tag of the first line after the lines of a write are tagged. -/
def tagStep (mem : Bool) (x : State × Option (BitVec 16)) (line : Nat) : State × Option (BitVec 16) :=
  ((tagWrite x.1 line mem).1, some (x.2.getD (tagWrite x.1 line mem).2))

theorem homeWrite_eq (s : State) (pa : Nat) (bs : List Byte) (mem : Bool) : homeWrite s pa bs mem =
    (writeMem ((linesOf pa bs.length).foldl (tagStep mem) (s, none)).1 pa bs,
      ((linesOf pa bs.length).foldl (tagStep mem) (s, none)).2.getD 0) := rfl

theorem quiet_tagSteps (mem : Bool) (ls : List Nat) (x : State × Option (BitVec 16)) :
    Quiet x.1 (ls.foldl (tagStep mem) x).1 := by
  induction ls generalizing x with
  | nil => exact .refl x.1
  | cons l ls ih => exact (quiet_tagWrite x.1 l mem).trans (ih _)

theorem storesMemory_writeMem {s s1 : State} (h : Quiet s s1) (pa : Nat) (bs : List Byte) :
    homeOnly s (writeMem s1 pa bs) ∧ storesMemory s (writeMem s1 pa bs) pa bs := by
  obtain ⟨ho, hp, hm⟩ := h
  have hbyte (x : Nat) := memByte_write s1 pa bs x
  refine ⟨homeOnly_trans ho rfl, ?_, fun i hi => ?_, fun x hx hs => ?_⟩
  · rw [← hp]; rfl
  · refine (hbyte _).trans ?_
    rw [if_pos (by omega), Nat.add_sub_cancel_left]
  · refine (hbyte x).trans ?_
    rw [if_neg (by omega), hm x hs]

/-- A write at the homes of its lines, with the copies in the L1. -/
theorem storesMemory_homeWrite {s s0 : State} (h : Quiet s s0) (t : Slot) (pa : Nat) (bs : List Byte) (mem : Bool) :
    homeOnly s (l1Update (homeWrite s0 pa bs mem).1 t pa bs)
      ∧ storesMemory s (l1Update (homeWrite s0 pa bs mem).1 t pa bs) pa bs := by
  obtain ⟨ho, hs⟩ := storesMemory_writeMem (h.trans (quiet_tagSteps mem (linesOf pa bs.length) (s0, none))) pa bs
  exact ⟨homeOnly_trans ho rfl, hs⟩

theorem homeWrite_cur (s : State) (pa : Nat) (bs : List Byte) (mem : Bool) : (homeWrite s pa bs mem).1.cur = s.cur :=
  (quiet_tagSteps mem _ (s, none)).1.cur

/-- The tag of a write within one line. -/
theorem homeWrite_tag {s : State} {pa : Nat} {bs : List Byte} (mem : Bool) (h : linesOf pa bs.length = [pa / 128]) :
    (homeWrite s pa bs mem).2 = sget 0 s.counters (bucketKey (128 * (pa / 128))) + 1
      ∧ sget 0 (homeWrite s pa bs mem).1.counters (bucketKey (128 * (pa / 128))) = (homeWrite s pa bs mem).2 := by
  rw [homeWrite_eq, h]
  exact tagWrite_counter s (pa / 128) mem

end Sys2Proof.Machine
end

section
/-! SUPPORT. One slot changed, and what an access to a scratchpad bank leaves unchanged (R195, R447). -/

namespace Sys2Proof.Machine

/-! ## One slot changed -/

theorem slotOf_id {s : State} {c : SlotId} {u : Slot} (h : slotOf s c = some u) : u.id = c := by
  unfold slotOf at h
  split at h
  · next hc => exact Option.some.inj h ▸ hc
  · simpa using List.find?_some h

theorem slotOf_modSlot {f : Slot → Slot} (hf : ∀ u, (f u).id = u.id) (s : State) (c e : SlotId) :
    slotOf (modSlot s c f) e = if e = c then (slotOf s e).map f else slotOf s e := by
  have hfind (l : List Slot) : (l.map (fun t => if t.id = c then f t else t)).find? (fun t => t.id = e)
      = (l.find? (fun t => t.id = e)).map (fun t => if t.id = c then f t else t) := by
    rw [List.find?_map]
    congr 2
    funext t
    by_cases h : t.id = c <;> simp [h, hf]
  unfold modSlot slotOf
  by_cases hc : s.cur.id = c
  · subst hc
    by_cases he : s.cur.id = e
    · subst he; simp [hf]
    · simp [hf, he, Ne.symm he]
  · rw [if_neg hc]
    by_cases he : s.cur.id = e
    · subst he; simp [hc]
    · simp only [if_neg he, hfind]
      cases h : s.rest.find? (fun t => t.id = e) with
      | none => simp
      | some u =>
        have hu : u.id = e := by simpa using List.find?_some h
        simp [hu]
        split <;> rfl

/-! ## Banks of slots: what an access to a scratchpad changes (R195, R447) -/

theorem bankOnly_refl (s : State) (cs : List SlotId) : bankOnly s s cs := ⟨rfl, fun _ u h => ⟨u, h, rfl, fun _ => ⟨rfl, rfl⟩⟩⟩

theorem bankOnly_trans {s t u : State} {cs : List SlotId} (h1 : bankOnly s t cs) (h2 : bankOnly t u cs) : bankOnly s u cs := by
  obtain ⟨hs1, hc1⟩ := h1
  obtain ⟨hs2, hc2⟩ := h2
  refine ⟨by rw [hs2, hs1], fun e a ha => ?_⟩
  obtain ⟨b, hb, hab, hkab⟩ := hc1 e a ha
  obtain ⟨d, hd, hbd, hkbd⟩ := hc2 e b hb
  refine ⟨d, hd, by rw [hbd, hab], fun he => ?_⟩
  obtain ⟨hb1, hb2⟩ := hkab he
  obtain ⟨hd1, hd2⟩ := hkbd he
  exact ⟨hd1.trans hb1, hd2.trans hb2⟩

theorem bankOnly_mono {s t : State} {cs ds : List SlotId} (h : bankOnly s t cs) (hsub : ∀ c ∈ cs, c ∈ ds) : bankOnly s t ds := by
  obtain ⟨hs, hc⟩ := h
  refine ⟨hs, fun e u hu => ?_⟩
  obtain ⟨u', hu', hf, hk⟩ := hc e u hu
  exact ⟨u', hu', hf, fun he => hk (fun h => he (hsub e h))⟩

/-- The changes of a slot that `bankOnly` leaves open. -/
def bankChange (f : Slot → Slot) : Prop := ∀ u, f u = { u with
  conflict := (f u).conflict, owners := (f u).owners, det := (f u).det, banks := (f u).banks, poison := (f u).poison }

theorem bankOnly_modSlot {f : Slot → Slot} (hf : bankChange f) {c : SlotId} {cs : List SlotId}
    (hk : c ∈ cs ∨ ∀ u, (f u).banks = u.banks ∧ (f u).poison = u.poison) (s : State) : bankOnly s (modSlot s c f) cs := by
  have hid (u : Slot) : (f u).id = u.id := by rw [hf u]
  refine ⟨?_, fun e u hu => ?_⟩
  · unfold modSlot
    split <;> rfl
  · rw [slotOf_modSlot hid, hu]
    by_cases he : e = c
    · subst he
      exact ⟨f u, if_pos rfl, hf u, fun hn => hk.elim (fun h => absurd h hn) (fun h => h u)⟩
    · exact ⟨u, if_neg he, rfl, fun _ => ⟨rfl, rfl⟩⟩

theorem bankChange_addPending (wd : BitVec 32) (a : GranAccess) : bankChange (fun u => addPending u wd a) := by
  intro u
  dsimp only
  unfold addPending
  split
  · split
    · dsimp only
      split <;> rfl
    · rfl
  · rfl

theorem addPending_banks (u : Slot) (wd : BitVec 32) (a : GranAccess) :
    (addPending u wd a).banks = u.banks ∧ (addPending u wd a).poison = u.poison := by
  unfold addPending
  split
  · split
    · dsimp only
      split <;> exact ⟨rfl, rfl⟩
    · exact ⟨rfl, rfl⟩
  · exact ⟨rfl, rfl⟩

theorem bankOnly_checkGranule {s s' : State} {c d : SlotId} {x : BitVec 9} {a : GranAccess} {g : Nat}
    (h : checkGranule s c d x a g = .ok s') : bankOnly s s' [] := by
  unfold checkGranule at h
  split at h
  · obtain rfl := Except.ok.inj h
    exact bankOnly_refl ..
  · dsimp only at h
    split at h
    · cases h
    · split at h
      · cases h
      · obtain rfl := Except.ok.inj h
        refine bankOnly_trans ?_ (bankOnly_modSlot (bankChange_addPending _ a) (.inr fun u => addPending_banks u _ a) _)
        refine bankOnly_modSlot ?_ (.inr ?_) s
        · exact fun _ => rfl
        · exact fun _ => ⟨rfl, rfl⟩

theorem bankOnly_checkGranules {s s' : State} {c d : SlotId} {x : BitVec 9} {a : GranAccess} {addr n : Nat}
    (h : checkGranules s c d x a addr n = .ok s') : bankOnly s s' [] := by
  have hfold (gs : List Nat) (s : State) (h : gs.foldlM (fun s g => checkGranule s c d x a g) s = .ok s') : bankOnly s s' [] := by
    induction gs generalizing s with
    | nil => obtain rfl := Except.ok.inj h; exact bankOnly_refl ..
    | cons g gs ih =>
      rw [List.foldlM_cons] at h
      obtain ⟨s1, h1, h⟩ := res_bind_eq_ok.1 h
      exact bankOnly_trans (bankOnly_checkGranule h1) (ih s1 h)
  unfold checkGranules at h
  split at h
  · split at h
    · exact hfold _ s h
    · obtain rfl := Except.ok.inj h; exact bankOnly_refl ..
  · obtain rfl := Except.ok.inj h; exact bankOnly_refl ..

/-- The slot that has the turn keeps it, with its registers and streams. -/
theorem bankOnly_cur {s t : State} {cs : List SlotId} (h : bankOnly s t cs) (hid : t.cur.id = s.cur.id) :
    t.cur = { s.cur with conflict := t.cur.conflict, owners := t.cur.owners, det := t.cur.det, banks := t.cur.banks, poison := t.cur.poison } := by
  obtain ⟨u, hu, hf, -⟩ := h.2 s.cur.id s.cur (slotOf_cur s)
  rw [← hid, slotOf_cur] at hu
  obtain rfl := Option.some.inj hu
  exact hf

end Sys2Proof.Machine
end

section
/-! SUPPORT. Loads (R57, R288). -/

namespace Sys2Proof.Machine

/-! ## The bytes of a read at .CL that misses in every line (R57) -/

theorem readMem_eq_map (s : State) (a n : Nat) : readMem s a n = (List.range n).map (fun i => memByte s (a + i)) :=
  sgetRange_eq ..

theorem getD_readMem {s : State} {a n j : Nat} (h : j < n) : (readMem s a n).getD j 0 = memByte s (a + j) := by
  rw [readMem_eq_map, List.getD_eq_getElem?_getD, List.getElem?_map, List.getElem?_range h]
  rfl

theorem l1Has_eq_false {s : State} {t : Slot} {line : Nat} : l1Has s t line = false ↔
    ∀ x ∈ s.l1, (x.core = l1Holder s t.id.core line && x.line = line && x.tenant = t.tenant) = false := by
  simp [l1Has]

/-- A line that the L1 does not hold is filled from its home; the others that it does not hold stay away. -/
theorem l1Read_miss {s : State} {t : Slot} {line : Nat} (h : l1Has s t line = false) :
    (l1Read s t line).2 = readMem (touchLine s line false) (128 * line) 128
      ∧ ∀ x ∈ (l1Read s t line).1.l1, x.line = line ∨ x ∈ s.l1 := by
  have hl1 : (touchLine s line false).l1 = s.l1 := (touched_touchLine ..).l1
  have hnone (x : L1Line) : s.l1.find? (fun x => x.core = l1Holder s t.id.core line && x.line = line && x.tenant = t.tenant)
      ≠ some x := fun hx => by
    simpa [List.find?_some hx] using l1Has_eq_false.1 h x (List.mem_of_find?_eq_some hx)
  unfold l1Read
  dsimp only
  split
  · next x hx => exact absurd hx (hnone x)
  · refine ⟨rfl, fun x hx => ?_⟩
    rcases List.mem_cons.1 hx with rfl | hx
    · exact .inl rfl
    · right
      rw [hl1] at hx
      split at hx
      · split at hx
        · exact (List.mem_filter.1 hx).1
        · exact hx
      · exact hx

theorem homeOnly.l1Holder {s t : State} (h : homeOnly s t) (core : BitVec 8) (line : Nat) :
    l1Holder t core line = l1Holder s core line := by rw [h]; rfl

theorem l1Has_l1Read_miss {s : State} {t : Slot} {line l : Nat} (h : l1Has s t line = false) (hl : l1Has s t l = false)
    (hne : l ≠ line) : l1Has (l1Read s t line).1 t l = false := by
  refine l1Has_eq_false.2 fun x hx => ?_
  rw [(quiet_l1Read s t line).1.l1Holder]
  rcases (l1Read_miss h).2 x hx with rfl | hx
  · simp [hne.symm]
  · exact l1Has_eq_false.1 hl x hx

/-- What is known when the lines below `l` of an access at .CL have been read: no further line is in the L1, and the bytes
so far are those of memory. -/
structure CopiesOf (s : State) (t : Slot) (pa n l : Nat) (x : State × List Byte) : Prop where
  quiet : Quiet s x.1
  absent : ∀ l', l ≤ l' → l' ∈ linesOf pa n → l1Has x.1 t l' = false
  length : x.2.length = min (max (128 * l) pa) (pa + n) - pa
  bytes : ∀ i, i < x.2.length → ¬ spillByte s (pa + i) → x.2.getD i 0 = memByte s (pa + i)

theorem mem_linesOf {pa n l : Nat} : l ∈ linesOf pa n ↔ 0 < n ∧ pa / 128 ≤ l ∧ l ≤ (pa + n - 1) / 128 := by
  unfold linesOf
  split
  · next h => simp [h]
  · next h =>
    simp only [List.mem_map, List.mem_range]
    constructor
    · rintro ⟨i, hi, rfl⟩
      omega
    · intro hl
      exact ⟨l - pa / 128, by omega, by omega⟩

theorem lineSlice_readMem {pa n l : Nat} (u : State) (hl : l ∈ linesOf pa n) : lineSlice pa n l (readMem u (128 * l) 128) =
    (List.range (min (128 * l + 128) (pa + n) - max (128 * l) pa)).map (fun i => memByte u (max (128 * l) pa + i)) := by
  obtain ⟨hn, hlo, hhi⟩ := mem_linesOf.1 hl
  have hcut {lo k : Nat} (h : lo + k ≤ 128) : ((readMem u (128 * l) 128).drop lo).take k
      = (List.range k).map (fun i => memByte u (128 * l + lo + i)) := by
    rw [readMem_eq_map]
    refine List.ext_getElem (by simp; omega) fun i h1 h2 => ?_
    simp [Nat.add_assoc]
  unfold lineSlice
  rw [hcut (by split <;> split <;> omega)]
  refine congrArg₂ (fun k f => (List.range k).map f) ?_ (funext fun i => congrArg (memByte u) ?_)
  · split <;> split <;> omega
  · split <;> omega

theorem copiesOf_l1Step {s : State} {t : Slot} {pa n l : Nat} {x : State × List Byte} (h : CopiesOf s t pa n l x)
    (hl : l ∈ linesOf pa n) : CopiesOf s t pa n (l + 1) (l1Step t pa n x l) := by
  have hmiss := h.absent l (Nat.le_refl l) hl
  have htouch := h.quiet.trans (touched_touchLine x.1 l false).quiet
  obtain ⟨hn, hlo, hhi⟩ := mem_linesOf.1 hl
  have hlen := h.length
  have hbytes : (l1Step t pa n x l).2 = x.2 ++ (List.range (min (128 * l + 128) (pa + n) - max (128 * l) pa)).map
      (fun i => memByte (touchLine x.1 l false) (max (128 * l) pa + i)) := by
    rw [l1Step, (l1Read_miss hmiss).1, lineSlice_readMem _ hl]
  refine ⟨h.quiet.trans (quiet_l1Read x.1 t l), fun l' hl' hmem => ?_, ?_, ?_⟩
  · exact l1Has_l1Read_miss hmiss (h.absent l' (by omega) hmem) (by omega)
  · rw [hbytes, List.length_append, List.length_map, List.length_range]
    omega
  · rw [hbytes]
    intro i hi hs
    rw [List.length_append, List.length_map, List.length_range] at hi
    by_cases hlt : i < x.2.length
    · rw [List.getD_append _ _ _ _ hlt]
      exact h.bytes i hlt hs
    · rw [List.getD_append_right _ _ _ _ (by omega), List.getD_eq_getElem?_getD, List.getElem?_map,
        List.getElem?_range (by omega)]
      refine Eq.trans (congrArg (memByte _) ?_) (htouch.2.2 (pa + i) hs)
      omega

/-- A read at .CL that the L1 holds no line of gives the bytes of memory. -/
theorem l1Bytes_miss {s : State} {t : Slot} {pa n i : Nat} (h : ∀ l ∈ linesOf pa n, l1Has s t l = false) (hi : i < n)
    (hs : ¬ spillByte s (pa + i)) : (l1Bytes s t pa n).2.getD i 0 = memByte s (pa + i) := by
  have hfold (k l : Nat) (x : State × List Byte) (hx : CopiesOf s t pa n l x) (hk : ∀ j, l ≤ j → j < l + k → j ∈ linesOf pa n) :
      CopiesOf s t pa n (l + k) ((List.range' l k).foldl (l1Step t pa n) x) := by
    induction k generalizing l x with
    | zero => exact hx
    | succ k ih =>
      rw [List.range'_succ, List.foldl_cons, ← Nat.add_assoc, Nat.add_right_comm]
      exact ih (l + 1) _ (copiesOf_l1Step hx (hk l (Nat.le_refl l) (by omega))) fun j h1 h2 => hk j (by omega) (by omega)
  have hlines : linesOf pa n = List.range' (pa / 128) ((pa + n - 1) / 128 + 1 - pa / 128) := by
    rw [linesOf, if_neg (by omega), List.range'_eq_map_range]
  have hall := hfold ((pa + n - 1) / 128 + 1 - pa / 128) (pa / 128) (s, [])
    ⟨.refl s, fun l _ hl => h l hl, by simp; omega, fun i hi => absurd hi (Nat.not_lt_zero i)⟩
    fun j h1 h2 => mem_linesOf.2 (by omega)
  rw [l1Bytes_eq, hlines]
  refine hall.bytes i ?_ hs
  rw [hall.length]
  omega

/-! ## Loads (R288) -/

theorem dstRegs_dataRegs {t : Slot} {d : BitVec 6} {n : Nat} (h1 : dstG t d = .ok ()) (h2 : n = 16 → dstG t (d + 1) = .ok ()) :
    dstRegs t (dataRegs d n) = .ok () := by
  unfold dstRegs dataRegs
  split
  · next hn => rw [List.foldlM_cons, h1, res_ok_bind, List.foldlM_cons, h2 hn]; rfl
  · rw [List.foldlM_cons, h1]; rfl

theorem loadResult_regs (d : BitVec 6) (n : Nat) (zero : Bool) (bs : List Byte) :
    ((loadResult d n zero bs).map Prod.fst).Nodup := by
  unfold loadResult
  dsimp only
  split <;> simp

/-- The bytes of a bank, unless a granule of them is poisoned (R448). -/
theorem loadAt_bank {s s0 : State} {c : SlotId} {u : Slot} {a n : Nat} {reg : Word} {g : GranAccess} {lv : Level}
    (hc : checkGranules s c s.cur.id (slotCode s.cur.id) g a n = .ok s0) (hu : slotOf s0 c = some u) :
    loadAt s (.bank c a reg) n lv g =
      if bankPoisoned u a n then raise 0x2F else .ok (s0, (List.range n).map (fun i => bankByte u (a + i))) := by
  have hread : bankRead u a n = (List.range n).map (fun i => bankByte u (a + i)) := sgetRange_eq ..
  rw [loadAt, hc, res_ok_bind, bankData, hu]
  dsimp only
  split
  · rfl
  · rw [hread]; rfl

/-- The bytes of memory at their homes. -/
theorem loadAt_home {s s0 : State} {pa n : Nat} {reg : Word} {g : GranAccess} {lv : Level}
    (ha : admitRead s s.cur pa reg n lv = .ok s0) (hlv : lv ≠ .cl) : loadAt s (.mem pa reg) n lv g =
      .ok ((homeRead s0 pa n (lv = .mem)).1, (List.range n).map (fun i => memByte s0 (pa + i))) := by
  have hread : (homeRead s0 pa n (lv = .mem)).2 = (List.range n).map (fun i => memByte s0 (pa + i)) := readMem_eq_map ..
  rw [loadAt, ha, res_ok_bind, ← hread]
  cases lv with
  | cl => exact absurd rfl hlv
  | sl => rfl
  | mem => rfl

theorem loadAt_cl {s s0 : State} {pa n : Nat} {reg : Word} {g : GranAccess} (ha : admitRead s s.cur pa reg n .cl = .ok s0) :
    loadAt s (.mem pa reg) n .cl g = .ok (l1Bytes s0 s0.cur pa n) := by
  rw [loadAt, ha, res_ok_bind]; rfl

theorem loadLatency_home {s : State} {pa n : Nat} {reg : Word} {lv : Level} (h : lv ≠ .cl) : loadLatency s (.mem pa reg) n lv = 1 := by
  simp [loadLatency, h]

/-- An access of memory that has passed its checks, with the reads that follow, is quiet. -/
theorem quiet_loadHome {s s0 : State} {pa n : Nat} {reg : Word} {lv : Level} (ha : admitRead s s.cur pa reg n lv = .ok s0)
    (mem : Bool) : Quiet s (homeRead s0 pa n mem).1 := ((touched_admitRead ha).trans (touched_homeRead ..)).quiet

theorem quiet_loadCl {s s0 : State} {pa n : Nat} {reg : Word} {lv : Level} (ha : admitRead s s.cur pa reg n lv = .ok s0)
    (t : Slot) : Quiet s (l1Bytes s0 t pa n).1 := (touched_admitRead ha).quiet.trans (quiet_l1Bytes ..)

/-- A load at .CL is not deterministic, and its checks change nothing. -/
theorem eq_of_admitRead_cl {s s0 : State} {o : Opnd} {pa n : Nat} {reg : Word} (hlv : loadLevel s.cur o = .cl)
    (ha : admitRead s s.cur pa reg n (loadLevel s.cur o) = .ok s0) : s0 = s := by
  have hdet : isDet s.cur = false := by
    unfold loadLevel at hlv
    split at hlv
    · cases hlv
    · split at hlv
      · cases hlv
      · next h => simp_all
  have hcheck := admitRead_eq_ok ha
  rw [checkLines, if_neg (by simp [hdet])] at hcheck
  exact (Except.ok.inj hcheck).symm

section
variable {o : Opnd} {s : State} {r : Word × Word}

/-- LD once its place is known: the load decides. -/
theorem exec_ld_resolved (hr : refSources s.cur o = .ok r) {p : Place} (hp : resolve s o r (2 ^ (o.fn.toNat % 8)) 1 permRd = .ok p)
    (hd : dstRegs s.cur (dataRegs o.d (2 ^ (o.fn.toNat % 8))) = .ok ()) :
    exec (.ld o) s = issue s o (do
      let x ← loadAt s p (2 ^ (o.fn.toNat % 8)) (loadLevel s.cur o)
      return finishL x.1 o (loadResult o.d (2 ^ (o.fn.toNat % 8)) (o.fn.getLsbD 3) x.2) [] 0 o.feD
        (loadLatency s p (2 ^ (o.fn.toNat % 8)) (loadLevel s.cur o))) := by
  rw [exec_ld, execLd]
  dsimp only [sizeOf_]
  rw [hr, res_ok_bind, hp, res_ok_bind, hd, res_ok_bind]

end

/-- Settles O15: the place is resolved once, and each kind of place gives its bytes. -/
theorem loadsReadThePlace : Obligations.LoadsReadThePlace := by
  unfold Obligations.LoadsReadThePlace
  intro o s r hpow hr
  dsimp only
  intro h1 h2
  have hgives {s1 : State} {bs : List Byte} {p : Place} (hp : resolve s o r (2 ^ (o.fn.toNat % 8)) 1 permRd = .ok p)
      (hx : loadAt s p (2 ^ (o.fn.toNat % 8)) (loadLevel s.cur o) = .ok (s1, bs)) :
      ∃ t, exec (.ld o) s = .next t
        ∧ wroteLong o.feD s1 t o (loadResult o.d (2 ^ (o.fn.toNat % 8)) (o.fn.getLsbD 3) bs) [] 0
          (loadLatency s p (2 ^ (o.fn.toNat % 8)) (loadLevel s.cur o)) := by
    refine ⟨_, ?_, wroteLong_finishL _ _ _ _ _ _ _ (loadResult_regs ..) List.nodup_nil⟩
    rw [exec_ld_resolved hr hp (dstRegs_dataRegs h1 h2), hx]
    exact issue_ok hpow
  refine ⟨fun c a reg s0 u hp hc hu => ⟨fun hbad => ?_, fun hgood => ⟨bankOnly_checkGranules hc, hgives hp ?_⟩⟩,
    fun pa reg s0 hp ha => ⟨fun hlv => ?_, fun hlv => ?_⟩⟩
  · refine faults_of_body (exec_ld_resolved hr hp (dstRegs_dataRegs h1 h2)) hpow ?_
    rw [loadAt_bank hc hu, if_pos hbad]
    rfl
  · rw [loadAt_bank hc hu, hgood]
    rfl
  · obtain ⟨ho, hm⟩ := quiet_loadHome ha (decide (loadLevel s.cur o = .mem))
    exact ⟨ho, hm, loadLatency_home hlv ▸ hgives hp (loadAt_home ha hlv)⟩
  · obtain ⟨ho, hm⟩ := quiet_loadCl ha s0.cur
    obtain rfl := eq_of_admitRead_cl hlv ha
    rw [hlv] at ha
    have hcl := hgives hp (hlv ▸ loadAt_cl ha)
    exact ⟨ho, hm, hlv ▸ hcl, fun hmiss i hi hs => l1Bytes_miss hmiss hi hs⟩

end Sys2Proof.Machine
end

section
/-! SUPPORT. A vector load whose L1 copy is too short (R57, R288). -/

namespace Sys2Proof.Machine

open Tests

/-! ## A vector load from a copy that is too short (R57, R288) -/

/-- The slot of `memState`, whose L1 holds an empty copy of the line that a vector load of two elements reads. -/
def shortCopyState : State := { memState with l1 := [⟨0, 0x400, 0, []⟩] }

/-- LDV of v4 under k2 at offset 0 of handle 3, at .CL. -/
def shortLoad : Opnd := { o64 4 3 0 with k := 2 }

/-- Refutes O16: a state may hold an L1 copy of fewer than 128 bytes. The load then gives no bytes for the active elements,
which keep their values, where the statement reads the missing bytes as 0. -/
theorem not_vectorLoads : ¬ Obligations.VectorLoads := by
  unfold Obligations.VectorLoads
  intro h
  obtain ⟨-, h⟩ := h shortLoad shortCopyState (0, 0) rfl (ok_of (by decide +kernel)) rfl
  obtain ⟨-, -, h⟩ := h (by decide +kernel)
  obtain ⟨-, -, t, v, hexec, hwrote, hv⟩ := h 0x20000 0 shortCopyState (ok_of (by decide +kernel))
    (ok_of (by decide +kernel)) (by decide +kernel)
  have hbyte : v.extractLsb' 0 8 = 0 := by
    refine (hv 0 (by decide)).trans ((if_pos (by decide +kernel)).trans ?_)
    decide +kernel
  have hreg : vval t.cur 4 = v := (hwrote.2.2.2.1.1 (4, v) List.mem_cons_self).1
  have hkept : (after (.ldv shortLoad) shortCopyState).map (fun t => (vval t.cur 4).extractLsb' 0 8) = some 1 := by decide +kernel
  rw [after, hexec, Option.map_some, hreg, hbyte] at hkept
  exact absurd hkept (by decide)

end Sys2Proof.Machine
end

section
/-! SUPPORT. Stores (R65, R285, R288). -/

namespace Sys2Proof.Machine

/-! ## Stores (R285, R288) -/

/-- A store in a bank writes there and nowhere else. -/
theorem storesBank_modSlot {s s0 : State} {c : SlotId} (h : bankOnly s s0 []) (a : Nat) (bs : List Byte) :
    bankOnly s (modSlot s0 c (fun u => bankWrite u a bs)) [c]
      ∧ ∀ u, slotOf s c = some u → ∃ u', slotOf (modSlot s0 c (fun u => bankWrite u a bs)) c = some u' ∧ storesBank u u' a bs := by
  refine ⟨bankOnly_trans (bankOnly_mono h nofun) (bankOnly_modSlot ?_ (.inl (List.mem_singleton.2 rfl)) s0), fun u hu => ?_⟩
  · exact fun _ => rfl
  · obtain ⟨u0, hu0, -, hkeep⟩ := h.2 c u hu
    obtain ⟨hbanks, hpoison⟩ := hkeep List.not_mem_nil
    refine ⟨bankWrite u0 a bs, ?_, by rw [← hpoison]; rfl, fun x => ?_⟩
    · refine (slotOf_modSlot ?_ s0 c c).trans ?_
      · exact fun _ => rfl
      · rw [if_pos rfl, hu0]
        rfl
    · rw [bankByte, bankByte, ← hbanks]
      exact sget_ssetRange ..

theorem storeAt_bank {s s0 : State} {c : SlotId} {a : Nat} {reg : Word} {bs : List Byte} {lv : Level} {g : GranAccess}
    (hc : checkGranules s c s.cur.id (slotCode s.cur.id) g a bs.length = .ok s0) :
    storeAt s (.bank c a reg) bs lv g = .ok (modSlot s0 c (fun t => bankWrite t a bs), 0) := by
  rw [storeAt, hc, res_ok_bind]
  rfl

theorem storeAt_mem {s s0 : State} {pa : Nat} {reg : Word} {bs : List Byte} {lv : Level} {g : GranAccess}
    (hn : needReleased s (dieOf s.cur.id.core) (linesOf pa bs.length) = .ok ())
    (hr : refusedByte s s.cur pa (linesOf pa bs.length) rightWrite (lv = .mem) = none)
    (hc : checkLines s s.cur .write pa bs.length (lv = .mem) = .ok s0) :
    storeAt s (.mem pa reg) bs lv g = .ok (l1Update (homeWrite s0 pa bs (lv = .mem)).1 (homeWrite s0 pa bs (lv = .mem)).1.cur pa bs,
      (homeWrite s0 pa bs (lv = .mem)).2) := by
  rw [storeAt, hn, res_ok_bind, hr]
  dsimp only
  rw [hc, res_ok_bind]
  rfl

/-- Data that ST or STV stores, once its register is read. -/
def storeData (i : Instr) (s : State) (o : Opnd) (bs : List Byte) : Prop :=
  (i = .st o ∧ dataBytes s.cur o.d (2 ^ (o.fn.toNat % 8)) o.feD = .ok bs)
    ∨ (i = .stv o ∧ 0 < bs.length ∧ ∃ v, srcV s.cur (vreg o.d.toNat) o.feD = .ok v
        ∧ bs = bytesOf (activeSingle s.cur o.k * (vWidth s.cur / 8)) v.toNat)

theorem dataBytes_length {t : Slot} {d : BitVec 6} {n : Nat} {fe : Bool} {bs : List Byte} (h : dataBytes t d n fe = .ok bs) :
    bs.length = n := by
  unfold dataBytes at h
  obtain ⟨x, -, h⟩ := res_bind_eq_ok.1 h
  split at h
  · obtain ⟨y, -, h⟩ := res_bind_eq_ok.1 h
    obtain rfl := Except.ok.inj h
    exact Laws.bytesOf_length ..
  · obtain rfl := Except.ok.inj h
    exact Laws.bytesOf_length ..

/-- A store once its data and its place are known. -/
theorem exec_store_resolved {i : Instr} {s : State} {o : Opnd} {r : Word × Word} {bs : List Byte} {p : Place}
    (hr : refSources s.cur o = .ok r) (hd : storeData i s o bs) (hp : resolve s o r bs.length 1 permW = .ok p) :
    exec i s = issue s o (do
      let x ← storeAt s p bs (storeLevel o)
      return advance x.1 o) := by
  rcases hd with ⟨rfl, hbs⟩ | ⟨rfl, hpos, v, hv, hbs⟩
  · rw [dataBytes_length hbs] at hp
    rw [exec_st, execSt]
    dsimp only [sizeOf_]
    rw [hr, res_ok_bind, hbs, res_ok_bind, hp, res_ok_bind]
  · obtain ⟨x, hx, hplace⟩ := res_bind_eq_ok.1 hp
    have hlen : bs.length = activeSingle s.cur o.k * (vWidth s.cur / 8) := by rw [hbs]; exact Laws.bytesOf_length ..
    have hn : activeSingle s.cur o.k * (vWidth s.cur / 8) ≠ 0 := by omega
    rw [hlen] at hplace
    rw [exec_stv, execStv]
    dsimp only
    rw [hr, res_ok_bind, hv, res_ok_bind, if_neg (by simp [hn]), hx, res_ok_bind, if_neg hn, hplace, res_ok_bind, ← hbs]

/-- STV without an active element. -/
theorem exec_stv_none {s : State} {o : Opnd} {r : Word × Word} {v : BitVec 4096} (hp : s.mgmt.powered = true)
    (hr : refSources s.cur o = .ok r) (hv : srcV s.cur (vreg o.d.toNat) o.feD = .ok v) (hn : activeSingle s.cur o.k = 0)
    (ht : memBankBase o = true ∨ ∃ x, refTarget s.cur o r = .ok x) : exec (.stv o) s = .next (wentOn s o s.cur) := by
  rw [exec_stv, execStv]
  dsimp only
  simp only [hr, hv, hn, Nat.zero_mul, res_ok_bind, decide_true, Bool.true_and, if_true]
  cases hb : memBankBase o with
  | true => exact issue_ok hp
  | false =>
    obtain ⟨x, hx⟩ := ht.resolve_left (by simp [hb])
    rw [hx]
    exact issue_ok hp

/-! ### Tagged stores (R65, R285) -/

theorem lowestCause_eq {vs : List (Nat × Bool)} {c : Nat} (hc : c ∈ [4, 5, 6, 7, 8, 9]) (hin : (c, true) ∈ vs)
    (hlow : ∀ p ∈ vs, p.2 = true → c ≤ p.1) : lowestCause vs = some c := by
  have hany {k : Nat} (hk : k < c) : vs.any (fun p => p.1 == k && p.2) = false := by
    rw [List.any_eq_false]
    intro p hp hb
    rw [Bool.and_eq_true, beq_iff_eq] at hb
    have := hlow p hp hb.2
    omega
  have hself : vs.any (fun p => p.1 == c && p.2) = true := List.any_eq_true.2 ⟨_, hin, by simp⟩
  rw [lowestCause]
  fin_cases hc
  · simp [hself]
  · simp [hself, hany]
  · simp [hself, hany]
  · simp [hself, hany]
  · simp [hself, hany]
  · simp [hself, hany]

theorem of_lowestCause_none {vs : List (Nat × Bool)} (h : lowestCause vs = none) {c : Nat} {b : Bool} (hin : (c, b) ∈ vs)
    (hc : c ∈ [4, 5, 6, 7, 8, 9]) : b = false := by
  cases b with
  | false => rfl
  | true =>
    have := List.find?_eq_none.1 h c hc
    exact absurd (List.any_eq_true.2 ⟨_, hin, by simp⟩) this

/-- A form that needs a handle base is cause 7 with a scratchpad base, where nothing else is wrong (R239). -/
theorem lowestCause_bank {r : Rule} {core : CoreKind} {o : Opnd} (hm : r.mem = .handle) (hmore : r.more = [])
    (hl : r.lvlCause = 9) (hb : memBankBase o = true)
    (hnone : lowestCause (violations r core { o with c := o.c &&& 0x37#6 }) = none) :
    lowestCause (violations r core o) = some 7 := by
  refine lowestCause_eq (by decide) ?_ fun p hp hp2 => ?_
  · simp [violations, hm, hb]
  · have hclean {c : Nat} {b : Bool} := of_lowestCause_none (c := c) (b := b) hnone
    have h4 := hclean (List.mem_append_left _ List.mem_cons_self) (by decide)
    have h5 := hclean (List.mem_append_left _ (List.mem_cons_of_mem _ List.mem_cons_self)) (by decide)
    have h6 := hclean (List.mem_append_left _ (List.mem_cons_of_mem _ (List.mem_cons_of_mem _ List.mem_cons_self))) (by decide)
    simp only [violations, List.mem_append, List.mem_cons] at hp
    rcases hp with (rfl | rfl | rfl | rfl | rfl | rfl | rfl | hp) | hp
    · exact absurd hp2 (by rw [Bool.not_eq_true]; exact h4)
    · simp_all [outOfClass]
    · exact absurd hp2 (by rw [Bool.not_eq_true]; exact h6)
    · exact Nat.le_refl 7
    · exact Nat.le_of_ble_eq_true rfl
    · exact Nat.le_of_ble_eq_true rfl
    · simp [hm, hb, hl]
    · cases hp
    · rw [hmore] at hp
      cases hp

theorem decode_bank {op : BitVec 7} {r : Rule} {core : CoreKind} {o : Opnd} {i : Instr} (hrule : ruleOf op o = .ok r)
    (hrule' : ruleOf op { o with c := o.c &&& 0x37#6 } = .ok r) (hm : r.mem = .handle) (hmore : r.more = [])
    (hl : r.lvlCause = 9) (hb : memBankBase o = true) (h : decodeFields core op { o with c := o.c &&& 0x37#6 } = .ok i) :
    decodeFields core op o = .error 7 := by
  have hnone : lowestCause (violations r core { o with c := o.c &&& 0x37#6 }) = none := by
    unfold decodeFields at h
    rw [hrule'] at h
    dsimp only at h
    split at h
    · cases h
    · assumption
  unfold decodeFields
  rw [hrule]
  dsimp only
  rw [lowestCause_bank hm hmore hl hb hnone]

/-- What ST.T decodes by. -/
def taggedRule (o : Opnd) : Rule := { memRule .stT (sizeReg o.fn .source) long2 with mem := .handle, b := useD }

theorem ruleOf_stT {core : CoreKind} {o : Opnd} {o' : Opnd} (h : decodeFields core 0x31 o = .ok (.stT o')) :
    ruleOf 0x31 o = .ok (taggedRule o) := by
  have hrule : ruleOf 0x31 o = ifFn ((o.fn &&& 7).toNat ≤ 4 && o.fn.toNat ≤ 15)
      (if o.fn.getLsbD 3 then taggedRule o else memRule .st (sizeReg o.fn .source)) := rfl
  unfold decodeFields at h
  rw [hrule] at h ⊢
  unfold ifFn at h ⊢
  split at h
  · cases h
  · next r hr =>
    split at hr
    · next hfn =>
      obtain rfl := Except.ok.inj hr
      rw [if_pos hfn]
      split at h
      · cases h
      · next hnone =>
        cases hb : o.fn.getLsbD 3 with
        | true => simp only [hb, if_true] at hnone; rfl
        | false => simp only [hb] at h; cases h
    · cases hr

/-- A scratchpad base is cause 7 for ST.T (R287). -/
theorem decode_stT_bank {core : CoreKind} {o : Opnd} (hb : memBankBase o = true)
    (h : decodeFields core 0x31 { o with c := o.c &&& 0x37#6 } = .ok (.stT { o with c := o.c &&& 0x37#6 })) :
    decodeFields core 0x31 o = .error 7 :=
  have hrule := ruleOf_stT h
  decode_bank hrule hrule rfl rfl rfl hb h

/-- A write within a line touches that line alone. -/
theorem linesOf_within {pa n : Nat} (hn : 0 < n) (h : pa % 128 + n ≤ 128) : linesOf pa n = [pa / 128] := by
  have hlast : (pa + n - 1) / 128 = pa / 128 := by omega
  rw [linesOf, if_neg (by omega), hlast, Nat.add_sub_cancel_left]
  rfl

theorem checkPage_eq_ok {c : Capture} {off : Int} {n : Nat} {perm : BitVec 4} {pa : Nat} (h : checkPage c off n perm = .ok pa) :
    0 ≤ off ∧ pa = c.base + off.toNat := by
  unfold checkPage at h
  split at h
  · cases h
  · next hoff =>
    split at h
    · cases h
    · split at h
      · cases h
      · exact ⟨by simp at hoff; omega, (Except.ok.inj h).symm⟩

/-- The base of a page is a multiple of 64 KiB (R116). -/
theorem base_of_refTarget {t : Slot} {o : Opnd} {r : Word × Word} {h : Capture} {off : Int}
    (ht : refTarget t o r = .ok (.page h off)) : 65536 ∣ h.base := by
  unfold refTarget at ht
  split at ht
  · unfold bankTarget at ht
    split at ht
    · cases ht
    · dsimp only at ht
      split at ht <;> cases ht
  · obtain ⟨c, hc, ht⟩ := res_bind_eq_ok.1 ht
    have hpage := Except.ok.inj ht
    injection hpage with hcap _
    subst hcap
    unfold useHandle at hc
    dsimp only at hc
    split at hc
    · cases hc
    · split at hc
      · split at hc <;> cases hc
      · split at hc
        · cases hc
        · rw [← Except.ok.inj hc]
          exact Dvd.intro_left _ rfl

section
variable {o : Opnd} {s : State} {r : Word × Word} {bs : List Byte} {h : Capture} {off : Int} {n : Nat}

/-- ST.T once its target is known. -/
theorem exec_stT_target (hn : 2 ^ (o.fn.toNat % 8) = n) (hr : refSources s.cur o false = .ok r)
    (hbs : dataBytes s.cur o.d n o.feD = .ok bs) (ht : refTarget s.cur o r = .ok (.page h off)) : exec (.stT o) s = issue s o
      (if off % 128 + n > 128 then raise 0x04
      else do
        let p ← resolveRef s s.cur (.page h off) n 1 permW
        dstG s.cur o.b
        let x ← storeAt s p bs (storeLevel o)
        return finishL x.1 o [(o.b, zx x.2)] [] 0 true) := by
  rw [exec_stT, execStT]
  dsimp only [sizeOf_]
  rw [hn, hr, res_ok_bind, hbs, res_ok_bind, ht, res_ok_bind]

end

/-- Settles O17: a store goes through its place, at the homes of its lines or in a bank. -/
theorem storesWriteTheirBytes : Obligations.StoresWriteTheirBytes := by
  unfold Obligations.StoresWriteTheirBytes
  refine ⟨⟨fun o s r v hp hr hv hn ht => exec_stv_none hp hr hv hn ht, fun o s r i bs hp hr hd => ?_⟩,
    fun core o hb h => decode_stT_bank hb h, ?_⟩
  · refine ⟨fun c a reg s0 hplace hc => ?_, fun pa reg s0 hplace hn href hc => ?_⟩
    · obtain ⟨honly, hbytes⟩ := storesBank_modSlot (bankOnly_checkGranules hc) (c := c) a bs
      refine ⟨?_, honly, hbytes⟩
      rw [exec_store_resolved hr hd hplace, storeAt_bank hc]
      exact issue_ok hp
    · obtain ⟨honly, hbytes⟩ := storesMemory_homeWrite (touched_checkLines hc).quiet
        (homeWrite s0 pa bs (storeLevel o = .mem)).1.cur pa bs (storeLevel o = .mem)
      refine ⟨?_, honly, hbytes⟩
      rw [exec_store_resolved hr hd hplace, storeAt_mem hn href hc]
      exact issue_ok hp
  · dsimp only
    intro o s r bs hp hr hbs h off ht
    generalize hn : 2 ^ (o.fn.toNat % 8) = n at *
    have hlen : bs.length = n := dataBytes_length hbs
    have hexec := exec_stT_target hn hr hbs ht
    refine ⟨fun hcross => ?_, fun hin pa s0 hpage hdst hrel href hc => ?_⟩
    · rw [if_pos hcross] at hexec
      exact faults_of_body hexec hp rfl
    · have hq := touched_checkLines hc
      obtain ⟨hoff, rfl⟩ := checkPage_eq_ok hpage
      obtain ⟨k, hk⟩ := base_of_refTarget ht
      have hpos : 0 < n := hn ▸ Nat.two_pow_pos _
      have hline : linesOf (h.base + off.toNat) bs.length = [(h.base + off.toNat) / 128] :=
        linesOf_within (hlen ▸ hpos) (by omega)
      rw [← hlen] at hrel href hc
      obtain ⟨honly, hbytes⟩ := storesMemory_homeWrite hq.quiet
        (homeWrite s0 (h.base + off.toNat) bs (storeLevel o = .mem)).1.cur (h.base + off.toNat) bs (storeLevel o = .mem)
      obtain ⟨htag, hcounter⟩ := homeWrite_tag (s := s0) (storeLevel o = .mem) hline
      rw [hq.counters] at htag
      have hplace : resolveRef s s.cur (.page h off) n 1 permW = .ok (.mem (h.base + off.toNat) (BitVec.ofInt 64 off)) := by
        rw [resolveRef, if_neg (by simp), hpage]
        rfl
      refine ⟨_, _, ?_, honly, hbytes, hcounter.trans htag, wroteLong_finishL _ _ _ _ _ _ _ (by simp) List.nodup_nil⟩
      rw [hexec, if_neg (by omega), hplace, res_ok_bind, hdst, res_ok_bind, storeAt_mem hrel href hc, ← htag]
      exact issue_ok hp

end Sys2Proof.Machine
end

section
/-! SUPPORT. Where a memory reference faults (R20, R27, R119 to R121, R127, R284, R285). -/

namespace Sys2Proof.Machine

/-! ## Where a reference faults (R20, R27, R119 to R121, R127, R284, R285) -/

/-- An instruction that makes a reference of `n` bytes, with the sources that it reads before it (R284). -/
def RefForm (s : State) (o : Opnd) (r : Word × Word) (i : Instr) (n align : Nat) (perm : BitVec 4) : Prop :=
  let size := 2 ^ (o.fn.toNat % 8)
  let vector := activeSingle s.cur o.k * (vWidth s.cur / 8)
  let half := if o.fn.getLsbD 3 then 8 else 4
  let indexed := refSources s.cur o = .ok r
  let plain := refSources s.cur o false = .ok r
  (i = .ld o ∧ indexed ∧ n = size ∧ align = 1 ∧ perm = permRd)
    ∨ (i = .st o ∧ indexed ∧ n = size ∧ align = 1 ∧ perm = permW ∧ ∃ bs, dataBytes s.cur o.d n o.feD = .ok bs)
    ∨ (i = .ldv o ∧ indexed ∧ n = vector ∧ 0 < n ∧ align = 1 ∧ perm = permRd)
    ∨ (i = .stv o ∧ indexed ∧ n = vector ∧ 0 < n ∧ align = 1 ∧ perm = permW ∧ ∃ v, srcV s.cur (vreg o.d.toNat) o.feD = .ok v)
    ∨ (i = .ldfe o ∧ indexed ∧ n = size ∧ align = n ∧ perm = permRd)
    ∨ (i = .stfe o ∧ indexed ∧ n = size ∧ align = n ∧ perm = permW ∧ ∃ bs, dataBytes s.cur o.d n o.feD = .ok bs)
    ∨ ((i = .atom o ∨ i = .xchg o ∨ (i = .cas o ∧ ∃ z, srcG s.cur o.d false = .ok z)) ∧ plain ∧ n = half ∧ align = n
        ∧ perm = permRwa ∧ ∃ y, srcG s.cur o.b o.feB = .ok y)
    ∨ ((i = .bararr o ∨ (i = .barexp o ∧ ∃ x, srcG s.cur o.d o.feD = .ok x)) ∧ plain ∧ n = 16 ∧ align = 16
        ∧ perm = permRwa)

section
variable {o : Opnd} {s : State} {r : Word × Word} {i : Instr} {n align : Nat} {perm : BitVec 4}

theorem res_bind_assoc {α β γ : Type} (x : Res α) (f : α → Res β) (g : β → Res γ) :
    (x >>= f) >>= g = x >>= fun a => f a >>= g := by cases x <;> rfl

theorem resolve_bind (k : Place → Res State) : (resolve s o r n align perm >>= k) =
    refTarget s.cur o r >>= fun x => resolveRef s s.cur x n align perm >>= k := res_bind_assoc ..

/-- An atomic once its sources are read. -/
theorem atomic_sources {reduce compare : Bool} {f : Nat → Nat → Nat → Nat} {y z : Word} (hr : refSources s.cur o false = .ok r)
    (hy : srcG s.cur o.b o.feB = .ok y) (hz : compare = true → srcG s.cur o.d false = .ok z) :
    let n := if o.fn.getLsbD 3 then 8 else 4
    let c := if compare then z else 0
    atomic o s reduce f compare = issue s o (do
      let p ← resolve s o r n n permRwa
      dstRegs s.cur (if o.fn.getLsbD 4 then [o.d, o.d + 1] else [o.d])
      let x ← atomicAt s p n (o.lvl = 3) reduce (fun old => f (c.toNat % 2 ^ (8 * n)) (y.toNat % 2 ^ (8 * n)) old)
      return finishL x.1 o ([(o.d, word x.2.1)] ++ if o.fn.getLsbD 4 then [(o.d + 1, zx x.2.2)] else []) [] 0 o.feD
        (match p with | .bank c _ _ => bankLatency s c | .mem .. => 1)) := by
  intro n c
  rw [atomic]
  dsimp only
  rw [hr, res_ok_bind, hy, res_ok_bind]
  cases compare with
  | false => rfl
  | true => rw [if_pos rfl, hz rfl, res_ok_bind]; rfl

/-- Once its other sources are read, an instruction resolves its reference. -/
def Refers (s : State) (o : Opnd) (r : Word × Word) (i : Instr) (n align : Nat) (perm : BitVec 4) : Prop :=
  ∃ k : Ref → Place → Res State,
    exec i s = issue s o (refTarget s.cur o r >>= fun x => resolveRef s s.cur x n align perm >>= k x)

theorem refers_of_resolve {k : Place → Res State} (h : exec i s = issue s o (resolve s o r n align perm >>= k)) :
    Refers s o r i n align perm := ⟨fun _ => k, resolve_bind k ▸ h⟩

theorem refers_ld (hr : refSources s.cur o = .ok r) : Refers s o r (.ld o) (2 ^ (o.fn.toNat % 8)) 1 permRd := by
  refine refers_of_resolve (k := fun p => do
    dstRegs s.cur (dataRegs o.d (2 ^ (o.fn.toNat % 8)))
    let x ← loadAt s p (2 ^ (o.fn.toNat % 8)) (loadLevel s.cur o)
    return finishL x.1 o (loadResult o.d (2 ^ (o.fn.toNat % 8)) (o.fn.getLsbD 3) x.2) [] 0 o.feD
      (loadLatency s p (2 ^ (o.fn.toNat % 8)) (loadLevel s.cur o))) ?_
  rw [exec_ld, execLd]
  dsimp only [sizeOf_]
  rw [hr, res_ok_bind]

theorem refers_st {bs : List Byte} (hr : refSources s.cur o = .ok r) (hbs : dataBytes s.cur o.d (2 ^ (o.fn.toNat % 8)) o.feD = .ok bs) :
    Refers s o r (.st o) (2 ^ (o.fn.toNat % 8)) 1 permW := by
  refine refers_of_resolve (k := fun p => do
    let x ← storeAt s p bs (storeLevel o)
    return advance x.1 o) ?_
  rw [exec_st, execSt]
  dsimp only [sizeOf_]
  rw [hr, res_ok_bind, hbs, res_ok_bind]

theorem refers_ldv (hr : refSources s.cur o = .ok r) (hn : 0 < activeSingle s.cur o.k * (vWidth s.cur / 8)) :
    Refers s o r (.ldv o) (activeSingle s.cur o.k * (vWidth s.cur / 8)) 1 permRd := by
  have hne : activeSingle s.cur o.k * (vWidth s.cur / 8) ≠ 0 := by omega
  rw [Refers, exec_ldv, execLdv]
  dsimp only
  rw [hr, res_ok_bind, if_neg (by simp [hne])]
  simp only [if_neg hne]
  exact ⟨fun _ p => _, rfl⟩

theorem refers_stv {v : BitVec 4096} (hr : refSources s.cur o = .ok r) (hv : srcV s.cur (vreg o.d.toNat) o.feD = .ok v)
    (hn : 0 < activeSingle s.cur o.k * (vWidth s.cur / 8)) :
    Refers s o r (.stv o) (activeSingle s.cur o.k * (vWidth s.cur / 8)) 1 permW := by
  have hne : activeSingle s.cur o.k * (vWidth s.cur / 8) ≠ 0 := by omega
  rw [Refers, exec_stv, execStv]
  dsimp only
  rw [hr, res_ok_bind, hv, res_ok_bind, if_neg (by simp [hne])]
  simp only [if_neg hne]
  exact ⟨fun _ p => _, rfl⟩

theorem refers_ldfe (hr : refSources s.cur o = .ok r) :
    Refers s o r (.ldfe o) (2 ^ (o.fn.toNat % 8)) (2 ^ (o.fn.toNat % 8)) permRd := by
  rw [Refers, exec_ldfe, execLdfe]
  dsimp only [sizeOf_]
  rw [hr, res_ok_bind]
  exact ⟨fun x p => _, rfl⟩

theorem refers_stfe {bs : List Byte} (hr : refSources s.cur o = .ok r)
    (hbs : dataBytes s.cur o.d (2 ^ (o.fn.toNat % 8)) o.feD = .ok bs) :
    Refers s o r (.stfe o) (2 ^ (o.fn.toNat % 8)) (2 ^ (o.fn.toNat % 8)) permW := by
  refine refers_of_resolve (k := fun p => do
    let x ← storeAt s p bs .sl (.write s.cur.det.rc)
    return advance (markPlace x.1 p true) o) ?_
  rw [exec_stfe, execStfe]
  dsimp only [sizeOf_]
  rw [hr, res_ok_bind, hbs, res_ok_bind]

theorem refers_atomic {reduce compare : Bool} {f : Nat → Nat → Nat → Nat} {y z : Word} (hi : exec i s = atomic o s reduce f compare)
    (hr : refSources s.cur o false = .ok r) (hy : srcG s.cur o.b o.feB = .ok y)
    (hz : compare = true → srcG s.cur o.d false = .ok z) :
    Refers s o r i (if o.fn.getLsbD 3 then 8 else 4) (if o.fn.getLsbD 3 then 8 else 4) permRwa :=
  refers_of_resolve (hi.trans (atomic_sources hr hy hz))

theorem refers_barrierPlace {k : Nat × Word → Res State} (hi : exec i s = issue s o (barrierPlace s o >>= k))
    (hr : refSources s.cur o false = .ok r) : Refers s o r i 16 16 permRwa := by
  refine refers_of_resolve (k := fun p => (match p with
    | .mem pa reg => .ok (pa, reg)
    | .bank .. => raise 0x04) >>= k) ?_
  rw [hi, barrierPlace, hr, res_ok_bind]
  exact congrArg _ (res_bind_assoc ..)

/-- Every instruction that makes a reference resolves it. -/
theorem refers_of_refForm (h : RefForm s o r i n align perm) : Refers s o r i n align perm := by
  rcases h with ⟨rfl, hr, rfl, rfl, rfl⟩ | ⟨rfl, hr, rfl, rfl, rfl, bs, hbs⟩ | ⟨rfl, hr, rfl, hn, rfl, rfl⟩
    | ⟨rfl, hr, rfl, hn, rfl, rfl, v, hv⟩ | ⟨rfl, hr, rfl, rfl, rfl⟩ | ⟨rfl, hr, rfl, rfl, rfl, bs, hbs⟩
    | ⟨hi, hr, rfl, rfl, rfl, y, hy⟩ | ⟨hi, hr, rfl, rfl, rfl⟩
  · exact refers_ld hr
  · exact refers_st hr hbs
  · exact refers_ldv hr hn
  · exact refers_stv hr hv hn
  · exact refers_ldfe hr
  · exact refers_stfe hr hbs
  · rcases hi with rfl | rfl | ⟨rfl, z, hz⟩
    · exact refers_atomic (z := 0) (exec_atom ..) hr hy nofun
    · exact refers_atomic (z := 0) (exec_xchg ..) hr hy nofun
    · exact refers_atomic (exec_cas ..) hr hy fun _ => hz
  · rcases hi with rfl | ⟨rfl, x, hx⟩
    · exact refers_barrierPlace (exec_bararr ..) hr
    · have hplace : ∃ k, exec (.barexp o) s = issue s o (barrierPlace s o >>= k) := by
        rw [exec_barexp, execBarexp, hx, res_ok_bind]
        exact ⟨_, rfl⟩
      obtain ⟨k, hi⟩ := hplace
      exact refers_barrierPlace hi hr

theorem Refers.stops {e : Stop} (h : Refers s o r i n align perm) (he : resolve s o r n align perm = .error e) :
    exec i s = issue s o (.error e) := by
  obtain ⟨k, hk⟩ := h
  rw [hk]
  unfold resolve at he
  cases ht : refTarget s.cur o r with
  | error e' =>
    rw [ht] at he
    obtain rfl := Except.error.inj he
    rfl
  | ok x =>
    rw [ht, res_ok_bind] at he
    rw [res_ok_bind, he]
    rfl

theorem Refers.faults {code : BitVec 8} {operand : Word} (h : Refers s o r i n align perm) (hp : s.mgmt.powered = true)
    (he : resolve s o r n align perm = raise code operand) : faults i s o code operand :=
  faults_of_body (h.stops he) hp rfl

/-! ### Through a handle -/

section
variable (hb : memBankBase o = false)
include hb

theorem resolve_handle : resolve s o r n align perm =
    useHandle s.cur (o.a.setWidth 4) o.feA (r.2.toInt * scaleOf o + dispOf o) >>= fun c =>
      resolveRef s s.cur (.page c (r.2.toInt * scaleOf o + dispOf o)) n align perm := by
  rw [resolve, refTarget, hb]
  exact res_bind_assoc ..

theorem resolve_unusable {e : Stop}
    (h : useHandle s.cur (o.a.setWidth 4) o.feA (r.2.toInt * scaleOf o + dispOf o) = .error e) :
    resolve s o r n align perm = .error e := by rw [resolve_handle hb, h]; rfl

theorem resolve_usable {c : Capture} (h : useHandle s.cur (o.a.setWidth 4) o.feA (r.2.toInt * scaleOf o + dispOf o) = .ok c) :
    resolve s o r n align perm = resolveRef s s.cur (.page c (r.2.toInt * scaleOf o + dispOf o)) n align perm := by
  rw [resolve_handle hb, h, res_ok_bind]

end

theorem useHandle_unbound {t : Slot} {h : BitVec 4} {trap : Bool} {off : Int} (hbound : t.h[h.toNat].bound = false) :
    useHandle t h trap off = raise 0x07 := by simp [useHandle, hbound]

theorem useHandle_empty {t : Slot} {h : BitVec 4} {trap : Bool} {off : Int} (hbound : t.h[h.toNat].bound = true)
    (hfull : t.h[h.toNat].full = false) :
    useHandle t h trap off = if trap then raise 0x2A (regOperand 3 h.toNat) else blockOn (.handle h) := by
  simp [useHandle, hbound, hfull]

theorem useHandle_invalid {t : Slot} {h : BitVec 4} {trap : Bool} {off : Int} (hbound : t.h[h.toNat].bound = true)
    (hfull : t.h[h.toNat].full = true) (hvalid : t.h[h.toNat].valid = false) :
    useHandle t h trap off = .error (.retranslate h trap off) := by simp [useHandle, hbound, hfull, hvalid]

theorem useHandle_valid {t : Slot} {h : BitVec 4} {trap : Bool} {off : Int} (hbound : t.h[h.toNat].bound = true)
    (hfull : t.h[h.toNat].full = true) (hvalid : t.h[h.toNat].valid = true) :
    useHandle t h trap off = .ok (capture t.h[h.toNat]) := by simp [useHandle, hbound, hfull, hvalid]

theorem resolveRef_misaligned {c : Capture} {off : Int} (h : off % align ≠ 0) :
    resolveRef s s.cur (.page c off) n align perm = raise 0x04 := if_pos h

theorem resolveRef_aligned {c : Capture} {off : Int} (h : off % align = 0) : resolveRef s s.cur (.page c off) n align perm =
    checkPage c off n perm >>= fun pa => .ok (.mem pa (BitVec.ofInt 64 off)) := if_neg (not_not.2 h)

theorem checkPage_outside {c : Capture} {off : Int} (h : off < 0 ∨ (c.size : Int) ≤ off) :
    checkPage c off n perm = raise 0x05 (BitVec.ofInt 64 off) := by
  unfold checkPage
  rw [if_pos (by simpa using h)]

theorem checkPage_over {c : Capture} {off : Int} (h0 : 0 ≤ off) (h1 : off < c.size) (h2 : (c.size : Int) < off + n) :
    checkPage c off n perm = raise 0x05 (word c.size) := by
  unfold checkPage
  rw [if_neg (by simp; omega), if_pos h2]

theorem checkPage_forbidden {c : Capture} {off : Int} (h0 : 0 ≤ off) (h1 : off < c.size) (h2 : off + n ≤ (c.size : Int))
    (h : c.perm &&& perm ≠ perm ∨ c.kdh ≠ 0) : checkPage c off n perm = raise 0x06 (BitVec.ofInt 64 off) := by
  unfold checkPage
  rw [if_neg (by simp; omega), if_neg (by omega), if_pos (by simpa using h)]

/-! ### In a scratchpad -/

theorem resolve_bank {rank : Option Nat} {a : Nat} (hb : memBankBase o = true) (ht : bankTarget o r = .ok (.bank rank a)) :
    resolve s o r n align perm = if a % align ≠ 0 then raise 0x04 else bankPlace s s.cur rank a n := by
  rw [resolve, refTarget, hb, if_pos rfl, ht, res_ok_bind, resolveRef]

theorem bankPlace_crossing {t : Slot} {rank : Option Nat} {a : Nat} (hn : 0 < n) (h : a / 2 ^ 18 ≠ (a + n - 1) / 2 ^ 18) :
    bankPlace s t rank a n = raise 0x04 := if_pos ⟨Nat.ne_of_gt hn, h⟩

theorem bankPlace_undeclared {t : Slot} {a : Nat} (h : a / 2 ^ 18 = (a + n - 1) / 2 ^ 18)
    (hm : (recBmask t.record).getLsbD (a / 2 ^ 18) = false) : bankPlace s t none a n = raise 0x08 (word a) := by
  have hown : ownsRange t a n = false := by rw [ownsRange, ownsBank, hm, Bool.and_false, Bool.false_and]
  unfold bankPlace
  dsimp only
  rw [if_neg (fun h' => h'.2 h), if_neg (by simp [hown])]
  rfl

theorem bankPlace_outsideTroupe {t : Slot} {a k : Nat} (h : a / 2 ^ 18 = (a + n - 1) / 2 ^ 18)
    (hk : troupeSize t = 0 ∨ troupeSize t ≤ k) : bankPlace s t (some k) a n = raise 0x0C (word (2 ^ 32 + k * 2 ^ 22 + a)) := by
  unfold bankPlace
  dsimp only
  rw [if_neg (fun h' => h'.2 h)]
  exact if_pos hk

/-! ### A handle that is not valid (R120) -/

theorem issue_retranslate_hit {h : BitVec 4} {trap : Bool} {off : Int} {l : Leaf} (hp : s.mgmt.powered = true)
    (hw : s.cur.walks.any (fun w => w.h = h && w.due.isSome) = false) (hl : cachedLeaf s.cur s.cur.h[h.toNat].vpage = some l) :
    ∃ w : Walk, w.h = h ∧ w.due = some (s.cycle + 48) ∧ w.leaf = some l
      ∧ issue s o (.error (.retranslate h trap off)) = .next (blockCtl { s with
          cur := { s.cur with walks := s.cur.walks.filter (fun w => w.h ≠ h) ++ [w] } } (.refill h)) := by
  have hissue : issue s o (.error (.retranslate h trap off)) = match retranslate s s.cur.id h trap off (ctlSite s o) with
      | (s', some obj) => .next (blockCtl s' obj)
      | (s', none) => .next (takeFault s' (ctlSite s o) { code := 0x2A, operand := regOperand 3 h.toNat } (codeOff s)) := by
    rw [issue, hp]
    rfl
  rw [hissue, retranslate, slotOf_cur]
  simp only [hw, hl, modSlot_cur]
  exact ⟨_, rfl, rfl, rfl, rfl⟩

theorem issue_retranslate_miss {h : BitVec 4} {off : Int} (hp : s.mgmt.powered = true)
    (hw : s.cur.walks.any (fun w => w.h = h && w.due.isSome) = false) (hl : cachedLeaf s.cur s.cur.h[h.toNat].vpage = none) :
    ∃ w : Walk, w.h = h ∧ w.due = none
      ∧ issue s o (.error (.retranslate h false off)) = .next (blockCtl { s with cur := { s.cur with
          h := s.cur.h.set h.toNat { s.cur.h[h.toNat] with full := false, walk := true }
          walks := s.cur.walks.filter (fun w => w.h ≠ h) ++ [w] } } (.handle h)) := by
  have hissue : issue s o (.error (.retranslate h false off)) = match retranslate s s.cur.id h false off (ctlSite s o) with
      | (s', some obj) => .next (blockCtl s' obj)
      | (s', none) => .next (takeFault s' (ctlSite s o) { code := 0x2A, operand := regOperand 3 h.toNat } (codeOff s)) := by
    rw [issue, hp]
    rfl
  rw [hissue, retranslate, slotOf_cur]
  simp only [hw, hl, modSlot_cur]
  exact ⟨_, rfl, rfl, rfl⟩

/-! ### Homes that refuse (R127) -/

theorem admitRead_refused {t : Slot} {pa b : Nat} {reg : Word} {lv : Level}
    (hn : needReleased s (dieOf t.id.core) (homeLines s t pa n lv) = .ok ())
    (hb : refusedByte s t pa (homeLines s t pa n lv) rightRead (lv = .mem) = some b) :
    admitRead s t pa reg n lv = raise 0x25 (reg + word (b - pa)) := by
  rw [admitRead, hn, res_ok_bind, hb]

theorem refForm_pos (h : RefForm s o r i n align perm) : 0 < n := by
  rcases h with ⟨-, -, rfl, -⟩ | ⟨-, -, rfl, -⟩ | ⟨-, -, -, hn, -⟩ | ⟨-, -, -, hn, -⟩ | ⟨-, -, rfl, -⟩ | ⟨-, -, rfl, -⟩
    | ⟨-, -, rfl, -⟩ | ⟨-, -, rfl, -⟩
  · exact Nat.two_pow_pos _
  · exact Nat.two_pow_pos _
  · exact hn
  · exact hn
  · exact Nat.two_pow_pos _
  · exact Nat.two_pow_pos _
  · split <;> decide
  · decide

theorem refForm_ld (h : RefForm s o r (.ld o) n align perm) :
    refSources s.cur o = .ok r ∧ n = 2 ^ (o.fn.toNat % 8) ∧ align = 1 ∧ perm = permRd := by
  simpa [RefForm] using h

theorem refForm_ldv (h : RefForm s o r (.ldv o) n align perm) : refSources s.cur o = .ok r
    ∧ n = activeSingle s.cur o.k * (vWidth s.cur / 8) ∧ 0 < n ∧ align = 1 ∧ perm = permRd := by
  simpa [RefForm] using h

end

/-- The instruction of a load that a home refuses. -/
theorem faults_refused_load {s : State} {o : Opnd} {r : Word × Word} {i : Instr} {n align : Nat} {perm : BitVec 4} {pa b : Nat}
    {reg : Word} {d : Res Unit} (hp : s.mgmt.powered = true) (hf : RefForm s o r i n align perm)
    (hplace : resolve s o r n align perm = .ok (.mem pa reg))
    (hi : (i = .ld o ∧ d = dstRegs s.cur (dataRegs o.d n)) ∨ (i = .ldv o ∧ d = dstV s.cur (vreg o.d.toNat))) (hd : d = .ok ())
    (hn : needReleased s (dieOf s.cur.id.core) (homeLines s s.cur pa n (loadLevel s.cur o)) = .ok ())
    (hb : refusedByte s s.cur pa (homeLines s s.cur pa n (loadLevel s.cur o)) rightRead (loadLevel s.cur o = .mem) = some b) :
    faults i s o 0x25 (reg + word (b - pa)) := by
  have hload : loadAt s (.mem pa reg) n (loadLevel s.cur o) = raise 0x25 (reg + word (b - pa)) := by
    rw [loadAt, admitRead_refused hn hb]
    rfl
  subst hd
  rcases hi with ⟨rfl, hd⟩ | ⟨rfl, hd⟩
  · obtain ⟨hr, rfl, rfl, rfl⟩ := refForm_ld hf
    refine faults_of_body (exec_ld_resolved hr hplace hd.symm) hp ?_
    rw [hload]
    rfl
  · obtain ⟨hr, rfl, hpos, rfl, rfl⟩ := refForm_ldv hf
    have hne : activeSingle s.cur o.k * (vWidth s.cur / 8) ≠ 0 := by omega
    obtain ⟨x, hx, hplace⟩ := res_bind_eq_ok.1 hplace
    rw [faults, exec_ldv, execLdv]
    dsimp only
    rw [hr, res_ok_bind, if_neg (by simp [hne]), hx, res_ok_bind, if_neg hne, hplace, res_ok_bind, ← hd, res_ok_bind, hload]
    exact issue_fault hp

theorem refForm_storeData {s : State} {o : Opnd} {r : Word × Word} {i : Instr} {n align : Nat} {perm : BitVec 4}
    (h : RefForm s o r i n align perm) (hi : i = .st o ∨ i = .stv o) :
    ∃ bs, refSources s.cur o = .ok r ∧ storeData i s o bs ∧ bs.length = n ∧ align = 1 ∧ perm = permW := by
  rcases hi with rfl | rfl
  · obtain ⟨hr, rfl, rfl, rfl, bs, hbs⟩ : refSources s.cur o = .ok r ∧ n = 2 ^ (o.fn.toNat % 8) ∧ align = 1 ∧ perm = permW
        ∧ ∃ bs, dataBytes s.cur o.d n o.feD = .ok bs := by simpa [RefForm] using h
    exact ⟨bs, hr, .inl ⟨rfl, hbs⟩, dataBytes_length hbs, rfl, rfl⟩
  · obtain ⟨hr, rfl, hn, rfl, rfl, v, hv⟩ : refSources s.cur o = .ok r ∧ n = activeSingle s.cur o.k * (vWidth s.cur / 8)
        ∧ 0 < n ∧ align = 1 ∧ perm = permW ∧ ∃ v, srcV s.cur (vreg o.d.toNat) o.feD = .ok v := by simpa [RefForm] using h
    have hlen := Laws.bytesOf_length (activeSingle s.cur o.k * (vWidth s.cur / 8)) v.toNat
    exact ⟨_, hr, .inr ⟨rfl, hn.trans_eq hlen.symm, v, hv, rfl⟩, hlen, rfl, rfl⟩

theorem storeAt_refused {s : State} {pa b : Nat} {reg : Word} {bs : List Byte} {lv : Level} {g : GranAccess}
    (hn : needReleased s (dieOf s.cur.id.core) (linesOf pa bs.length) = .ok ())
    (hb : refusedByte s s.cur pa (linesOf pa bs.length) rightWrite (lv = .mem) = some b) :
    storeAt s (.mem pa reg) bs lv g = .error (.fault { code := 0x25, operand := reg + word (b - pa), imprecise := true }) := by
  rw [storeAt, hn, res_ok_bind, hb]

theorem atomicAt_refused {s : State} {pa b n : Nat} {reg : Word} {mem reduce : Bool} {f : Nat → Nat}
    (hn : needReleased s (dieOf s.cur.id.core) (linesOf pa n) = .ok ())
    (hb : refusedByte s s.cur pa (linesOf pa n) rightAtomic mem = some b) :
    atomicAt s (.mem pa reg) n mem reduce f = raise 0x25 (reg + word (b - pa)) := by
  rw [atomicAt, admitAtomic, hn, res_ok_bind, hb]
  rfl

theorem refForm_atomic {s : State} {o : Opnd} {r : Word × Word} {i : Instr} {n align : Nat} {perm : BitVec 4}
    (h : RefForm s o r i n align perm) (hi : i = .atom o ∨ i = .cas o ∨ i = .xchg o) :
    ∃ reduce compare f y z, exec i s = atomic o s reduce f compare ∧ refSources s.cur o false = .ok r
      ∧ srcG s.cur o.b o.feB = .ok y ∧ (compare = true → srcG s.cur o.d false = .ok z)
      ∧ n = (if o.fn.getLsbD 3 then 8 else 4) ∧ align = n ∧ perm = permRwa := by
  rcases hi with rfl | rfl | rfl
  · obtain ⟨hr, hn, ha, hp, y, hy⟩ : refSources s.cur o false = .ok r ∧ n = (if o.fn.getLsbD 3 then 8 else 4) ∧ align = n
        ∧ perm = permRwa ∧ ∃ y, srcG s.cur o.b o.feB = .ok y := by simpa [RefForm] using h
    exact ⟨_, _, _, y, 0, exec_atom .., hr, hy, nofun, hn, ha, hp⟩
  · obtain ⟨⟨z, hz⟩, hr, hn, ha, hp, y, hy⟩ : (∃ z, srcG s.cur o.d false = .ok z) ∧ refSources s.cur o false = .ok r
        ∧ n = (if o.fn.getLsbD 3 then 8 else 4) ∧ align = n ∧ perm = permRwa ∧ ∃ y, srcG s.cur o.b o.feB = .ok y := by
      simpa [RefForm] using h
    exact ⟨_, _, _, y, z, exec_cas .., hr, hy, fun _ => hz, hn, ha, hp⟩
  · obtain ⟨hr, hn, ha, hp, y, hy⟩ : refSources s.cur o false = .ok r ∧ n = (if o.fn.getLsbD 3 then 8 else 4) ∧ align = n
        ∧ perm = permRwa ∧ ∃ y, srcG s.cur o.b o.feB = .ok y := by simpa [RefForm] using h
    exact ⟨_, _, _, y, 0, exec_xchg .., hr, hy, nofun, hn, ha, hp⟩

theorem faults_refused_atomic {s : State} {o : Opnd} {r : Word × Word} {i : Instr} {n align : Nat} {perm : BitVec 4} {pa b : Nat}
    {reg : Word} (hp : s.mgmt.powered = true) (hf : RefForm s o r i n align perm)
    (hplace : resolve s o r n align perm = .ok (.mem pa reg)) (hi : i = .atom o ∨ i = .cas o ∨ i = .xchg o)
    (hd : dstRegs s.cur (if o.fn.getLsbD 4 then [o.d, o.d + 1] else [o.d]) = .ok ())
    (hn : needReleased s (dieOf s.cur.id.core) (linesOf pa n) = .ok ())
    (hb : refusedByte s s.cur pa (linesOf pa n) rightAtomic (o.lvl = 3) = some b) :
    faults i s o 0x25 (reg + word (b - pa)) := by
  obtain ⟨reduce, compare, f, y, z, hexec, hr, hy, hz, rfl, rfl, rfl⟩ := refForm_atomic hf hi
  refine faults_of_body (hexec.trans (atomic_sources hr hy hz)) hp ?_
  rw [hplace, res_ok_bind, hd, res_ok_bind, atomicAt_refused hn hb]
  rfl

theorem exec_refused_store {s : State} {o : Opnd} {r : Word × Word} {i : Instr} {n align : Nat} {perm : BitVec 4} {pa b : Nat}
    {reg : Word} (hp : s.mgmt.powered = true) (hf : RefForm s o r i n align perm)
    (hplace : resolve s o r n align perm = .ok (.mem pa reg)) (hi : i = .st o ∨ i = .stv o)
    (hn : needReleased s (dieOf s.cur.id.core) (linesOf pa n) = .ok ())
    (hb : refusedByte s s.cur pa (linesOf pa n) rightWrite (storeLevel o = .mem) = some b) :
    exec i s = .next (takeFault s (ctlSite s o) { code := 0x25, operand := reg + word (b - pa), imprecise := true }
      (codeOff s)) := by
  obtain ⟨bs, hr, hdata, rfl, rfl, rfl⟩ := refForm_storeData hf hi
  rw [exec_store_resolved hr hdata hplace, storeAt_refused hn hb]
  exact issue_fault hp

/-- GATHER uses its handle once its registers are read (R307). -/
theorem exec_gather_unusable {s : State} {o : Opnd} {dst idx : Word} {e : Stop} (hd : srcG s.cur o.d o.feD = .ok dst)
    (hi : srcG s.cur o.b o.feB = .ok idx) (he : useHandle s.cur (o.a.setWidth 4) o.feA = .error e) :
    exec (.gather o) s = issue s o (.error e) := by
  rw [exec_gather, execGather, hd, res_ok_bind, hi, res_ok_bind, he]
  rfl

/-- Settles O18: each instruction resolves its reference, and each condition stops that in its step of R284. -/
theorem referenceFaults : Obligations.ReferenceFaults := by
  unfold Obligations.ReferenceFaults
  refine ⟨fun o s r i n align perm hp => ?_, fun o s dst idx hp hd hi => ⟨fun hb => ?_, fun hb hf => ⟨fun ht => ?_, fun ht => ?_⟩⟩⟩
  · dsimp only
    intro (hform : RefForm s o r i n align perm)
    have href := refers_of_refForm hform
    refine ⟨fun hbank => ⟨fun hb => ?_, fun hb hf => ⟨fun ht => ?_, fun ht => ?_⟩, fun hb hf hv => ⟨fun ha => ?_, fun ha => ?_⟩,
      fun hb hf hv hw => ⟨fun l hl => ?_, fun hl ht => ?_⟩⟩, fun rank a hbank ht => ⟨fun ha => ?_, fun ha hx => ?_, fun ha hx => ?_⟩,
      fun pa reg b hplace => ⟨fun d hi hd hn hb => ?_, fun hi hn hb => ?_, fun hi hd hn hb => ?_⟩⟩
    · exact href.faults hp (resolve_unusable hbank (useHandle_unbound hb))
    · exact href.faults hp (resolve_unusable hbank ((useHandle_empty hb hf).trans (if_pos ht)))
    · rw [href.stops (resolve_unusable hbank ((useHandle_empty hb hf).trans (if_neg (by simp [ht]))))]
      exact issue_block hp
    · exact href.faults hp ((resolve_usable hbank (useHandle_valid hb hf hv)).trans (resolveRef_misaligned ha))
    · have hpage {e : Stop} (h : checkPage (capture s.cur.h[(o.a.setWidth 4 : BitVec 4).toNat]) (r.2.toInt * scaleOf o + dispOf o) n perm
          = .error e) : resolve s o r n align perm = .error e := by
        rw [resolve_usable hbank (useHandle_valid hb hf hv), resolveRef_aligned ha, h]
        rfl
      exact ⟨fun h => href.faults hp (hpage (checkPage_outside h)), fun h0 h1 h2 => href.faults hp (hpage (checkPage_over h0 h1 h2)),
        fun h0 h1 h2 h => href.faults hp (hpage (checkPage_forbidden h0 h1 h2 h))⟩
    · rw [href.stops (resolve_unusable hbank (useHandle_invalid hb hf hv))]
      exact issue_retranslate_hit hp hw hl
    · rw [href.stops (resolve_unusable hbank (useHandle_invalid hb hf hv)), ht]
      exact issue_retranslate_miss hp hw hl
    · exact href.faults hp ((resolve_bank hbank ht).trans (if_pos ha))
    · exact href.faults hp (((resolve_bank hbank ht).trans (if_neg (not_not.2 ha))).trans (bankPlace_crossing (refForm_pos hform) hx))
    · have hplace := (resolve_bank (s := s) hbank ht (n := n) (perm := perm)).trans (if_neg (not_not.2 ha))
      refine ⟨fun hrank hm => ?_, fun k hrank hk => ?_⟩
      · subst hrank
        exact href.faults hp (hplace.trans (bankPlace_undeclared hx hm))
      · subst hrank
        exact href.faults hp (hplace.trans (bankPlace_outsideTroupe hx hk))
    · exact faults_refused_load hp hform hplace hi hd hn hb
    · exact exec_refused_store hp hform hplace hi hn hb
    · exact faults_refused_atomic hp hform hplace hi hd hn hb
  · exact faults_of_body (exec_gather_unusable hd hi (useHandle_unbound hb)) hp rfl
  · exact faults_of_body (exec_gather_unusable hd hi ((useHandle_empty hb hf).trans (if_pos ht))) hp rfl
  · rw [exec_gather_unusable hd hi ((useHandle_empty hb hf).trans (if_neg (by simp [ht])))]
    exact issue_block hp

end Sys2Proof.Machine
end

section
/-! SUPPORT. Full/empty granules (R44). -/

namespace Sys2Proof.Machine

/-! ## Full/empty granules (R44) -/

theorem granuleFull_setGranule (t : Slot) (g : Nat) (full : Bool) (g' : Nat) :
    granuleFull (setGranule t g full) g' = if g' = g then full else granuleFull t g' := sget_sset ..

theorem mem_granulesOf {a n g : Nat} : g ∈ granulesOf a n ↔ 0 < n ∧ a / 16 ≤ g ∧ g ≤ (a + n - 1) / 16 := by
  unfold granulesOf
  split
  · next h => simp [h]
  · next h =>
    simp only [List.mem_map, List.mem_range]
    constructor
    · rintro ⟨i, hi, rfl⟩
      omega
    · intro hg
      exact ⟨g - a / 16, by omega, by omega⟩

theorem granuleFull_foldl (gs : List Nat) (full : Bool) (t : Slot) (g : Nat) :
    granuleFull (gs.foldl (fun t g => setGranule t g full) t) g = if g ∈ gs then full else granuleFull t g := by
  induction gs generalizing t with
  | nil => rfl
  | cons x xs ih =>
    rw [List.foldl_cons, ih, granuleFull_setGranule]
    by_cases hx : g = x
    · subst hx; simp
    · simp [hx]

theorem granuleFull_setGranules (t : Slot) (a n : Nat) (full : Bool) (g : Nat) :
    granuleFull (setGranules t a n full) g = if g ∈ granulesOf a n then full else granuleFull t g := granuleFull_foldl ..

/-- Only the full/empty bits change. -/
theorem setGranules_eq (t : Slot) (a n : Nat) (full : Bool) :
    setGranules t a n full = { t with empty := (setGranules t a n full).empty } := by
  have hfold (gs : List Nat) (t : Slot) : gs.foldl (fun t g => setGranule t g full) t
      = { t with empty := (gs.foldl (fun t g => setGranule t g full) t).empty } := by
    induction gs generalizing t with
    | nil => rfl
    | cons g gs ih =>
      rw [List.foldl_cons, ih]
      rfl
  exact hfold ..

/-- The bits of the granules of a range alone. -/
theorem granuleFull_empty {t u : Slot} (h : u.empty = t.empty) (g : Nat) : granuleFull u g = granuleFull t g := by
  rw [granuleFull, granuleFull, h]

theorem modSlot_modSlot {f g : Slot → Slot} (hf : ∀ u, (f u).id = u.id) (s : State) (c : SlotId) :
    modSlot (modSlot s c f) c g = modSlot s c (fun u => g (f u)) := by
  unfold modSlot
  by_cases hc : s.cur.id = c
  · simp [hc, hf]
  · rw [if_neg hc, if_neg hc, if_neg hc, List.map_map]
    refine congrArg (fun r => { s with rest := r }) (List.map_congr_left fun t _ => ?_)
    by_cases ht : t.id = c <;> simp [ht, hf]

theorem slotOf_advance (s : State) (o : Opnd) (c : SlotId) : slotOf (advance s o) c =
    if c = s.cur.id then (slotOf s c).map (fun u => (advance { s with cur := u } o).cur) else slotOf s c := by
  have h := slotOf_modSlot (f := fun u => (advance { s with cur := u } o).cur) (fun _ => rfl) s s.cur.id c
  rwa [modSlot_cur] at h

/-- A slot after the control stream of the present one has gone on. -/
theorem slotOf_advance_some {s : State} {c : SlotId} {u : Slot} (o : Opnd) (h : slotOf s c = some u) :
    ∃ u', slotOf (advance s o) c = some u' ∧ u' = { u with ctl := u'.ctl } := by
  rw [slotOf_advance, h]
  split
  · exact ⟨_, rfl, rfl⟩
  · exact ⟨u, rfl, rfl⟩

end Sys2Proof.Machine
end

section
/-! SUPPORT. LDFE, STFE, FESET, FECLR and FEPEEK (R290 to R292). -/

namespace Sys2Proof.Machine

/-! ## LDFE, STFE, FESET, FECLR and FEPEEK (R290 to R292) -/

section
variable {o : Opnd} {s : State} {r : Word × Word} {c : SlotId} {a : Nat} {reg : Word} {u : Slot}

/-- LDFE at a bank: the granule decides first. -/
theorem exec_ldfe_bank (hr : refSources s.cur o = .ok r)
    (hp : resolve s o r (2 ^ (o.fn.toNat % 8)) (2 ^ (o.fn.toNat % 8)) permRd = .ok (.bank c a reg)) :
    ∃ ref, exec (.ldfe o) s = issue s o (do
      waitGranule s ref (.bank c a reg) o.feA
      dstRegs s.cur (dataRegs o.d (2 ^ (o.fn.toNat % 8)))
      let x ← loadAt s (.bank c a reg) (2 ^ (o.fn.toNat % 8)) .sl (.waiting (o.fn.getLsbD 4))
      return finishL (if o.fn.getLsbD 4 then markPlace x.1 (.bank c a reg) false else x.1) o
        (loadResult o.d (2 ^ (o.fn.toNat % 8)) (o.fn.getLsbD 3) x.2) [] 0 o.feD (bankLatency s c)) := by
  obtain ⟨x, hx, hp⟩ := res_bind_eq_ok.1 hp
  refine ⟨x, ?_⟩
  rw [exec_ldfe, execLdfe]
  dsimp only [sizeOf_]
  rw [hr, res_ok_bind, hx, res_ok_bind, hp, res_ok_bind]
  rfl

theorem waitGranule_bank (hu : slotOf s c = some u) (ref : Ref) (trap : Bool) : waitGranule s ref (.bank c a reg) trap =
    if granuleFull u (a / 16) then .ok () else if trap then raise 0x2B reg else blockOn (granuleObj s ref c a) := by
  rw [waitGranule, hu]

/-- The slot that a bank access reads has the bytes that it had before the conflict rule. -/
theorem slotOf_checked {s0 : State} (h : bankOnly s s0 []) (hu : slotOf s c = some u) :
    ∃ u0, slotOf s0 c = some u0 ∧ u0 = { u with conflict := u0.conflict, owners := u0.owners, det := u0.det } := by
  obtain ⟨u0, hu0, heq, hkeep⟩ := h.2 c u hu
  obtain ⟨hbanks, hpoison⟩ := hkeep List.not_mem_nil
  refine ⟨u0, hu0, heq.trans ?_⟩
  rw [hbanks, hpoison]

/-- A read of a bank gives the bytes of its slot. -/
theorem loadAt_bank_bytes {s0 : State} {n : Nat} {g : GranAccess} {lv : Level}
    (hc : checkGranules s c s.cur.id (slotCode s.cur.id) g a n = .ok s0) (hu : slotOf s c = some u)
    (hp : bankPoisoned u a n = false) :
    loadAt s (.bank c a reg) n lv g = .ok (s0, (List.range n).map (fun i => bankByte u (a + i))) := by
  obtain ⟨u0, hu0, heq⟩ := slotOf_checked (bankOnly_checkGranules hc) hu
  have hbytes : u0.banks = u.banks := by rw [heq]
  have hpoison : bankPoisoned u0 a n = bankPoisoned u a n := by rw [heq]; rfl
  rw [loadAt_bank hc hu0, hpoison, hp]
  simp only [bankByte, hbytes]
  rfl

theorem ldfe_reads {s0 : State} (hpow : s.mgmt.powered = true) (hr : refSources s.cur o = .ok r) (hu : slotOf s c = some u)
    (hp : resolve s o r (2 ^ (o.fn.toNat % 8)) (2 ^ (o.fn.toNat % 8)) permRd = .ok (.bank c a reg))
    (hfull : granuleFull u (a / 16) = true) (hd : dstRegs s.cur (dataRegs o.d (2 ^ (o.fn.toNat % 8))) = .ok ())
    (hc : checkGranules s c s.cur.id (slotCode s.cur.id) (.waiting (o.fn.getLsbD 4)) a (2 ^ (o.fn.toNat % 8)) = .ok s0)
    (hgood : bankPoisoned u a (2 ^ (o.fn.toNat % 8)) = false) :
    ∃ t, exec (.ldfe o) s = .next t
      ∧ wroteLong o.feD (if o.fn.getLsbD 4 then modSlot s0 c (fun u => setGranule u (a / 16) false) else s0) t o
        (loadResult o.d (2 ^ (o.fn.toNat % 8)) (o.fn.getLsbD 3)
          ((List.range (2 ^ (o.fn.toNat % 8))).map (fun i => bankByte u (a + i)))) [] 0 (bankLatency s c) := by
  obtain ⟨ref, hexec⟩ := exec_ldfe_bank hr hp
  refine ⟨_, ?_, wroteLong_finishL _ _ _ _ _ _ _ (loadResult_regs ..) List.nodup_nil⟩
  rw [hexec, waitGranule_bank hu, if_pos hfull, res_ok_bind, hd, res_ok_bind, loadAt_bank_bytes hc hu hgood, res_ok_bind]
  exact issue_ok hpow

/-- STFE at a bank. -/
theorem exec_stfe_bank {s0 : State} {bs : List Byte} (hpow : s.mgmt.powered = true) (hr : refSources s.cur o = .ok r)
    (hbs : dataBytes s.cur o.d (2 ^ (o.fn.toNat % 8)) o.feD = .ok bs)
    (hp : resolve s o r (2 ^ (o.fn.toNat % 8)) (2 ^ (o.fn.toNat % 8)) permW = .ok (.bank c a reg))
    (hc : checkGranules s c s.cur.id (slotCode s.cur.id) (.write s.cur.det.rc) a (2 ^ (o.fn.toNat % 8)) = .ok s0) :
    exec (.stfe o) s = .next (advance (modSlot s0 c (fun u => setGranule (bankWrite u a bs) (a / 16) true)) o) := by
  have hlen := dataBytes_length hbs
  rw [← hlen] at hc
  rw [exec_stfe, execStfe]
  dsimp only [sizeOf_]
  rw [hr, res_ok_bind, hbs, res_ok_bind, hp, res_ok_bind, storeAt_bank hc, res_ok_bind,
    ← modSlot_modSlot (f := fun u => bankWrite u a bs) (g := fun u => setGranule u (a / 16) true) fun _ => rfl]
  exact issue_ok hpow

/-- What STFE leaves in the slot. -/
theorem slotOf_stfe {s0 : State} {bs : List Byte} (h : bankOnly s s0 []) (hu : slotOf s c = some u) :
    ∃ u', slotOf (advance (modSlot s0 c (fun u => setGranule (bankWrite u a bs) (a / 16) true)) o) c = some u'
      ∧ granuleFull u' (a / 16) = true ∧ (∀ g, g ≠ a / 16 → granuleFull u' g = granuleFull u g)
      ∧ ∀ x, bankByte u' x = if a ≤ x ∧ x < a + bs.length then bs.getD (x - a) 0 else bankByte u x := by
  obtain ⟨u0, hu0, heq⟩ := slotOf_checked h hu
  have hmod := slotOf_modSlot (f := fun u => setGranule (bankWrite u a bs) (a / 16) true) (fun _ => rfl) s0 c c
  rw [if_pos rfl, hu0] at hmod
  obtain ⟨u', hu', heq'⟩ := slotOf_advance_some o hmod
  have hempty : u'.empty = (setGranule u (a / 16) true).empty := by rw [heq', heq]; rfl
  have hbanks : u'.banks = ssetRange 0 u.banks a bs := by rw [heq', heq]; rfl
  have hgran (g : Nat) : granuleFull u' g = if g = a / 16 then true else granuleFull u g :=
    (granuleFull_empty hempty g).trans (granuleFull_setGranule ..)
  refine ⟨u', hu', by simp [hgran], fun g hg => by simp [hgran, hg], fun x => ?_⟩
  rw [bankByte, bankByte, hbanks]
  exact sget_ssetRange ..

/-- The range of FESET, FECLR and FEPEEK begins at a granule. -/
theorem granuleRange_aligned {n : Nat} (h : granuleRange s o n = .ok (c, a, reg)) : a % 16 = 0 := by
  unfold granuleRange at h
  obtain ⟨r, -, h⟩ := res_bind_eq_ok.1 h
  obtain ⟨x, -, h⟩ := res_bind_eq_ok.1 h
  split at h
  · cases h
  · next rank b =>
    dsimp only at h
    split at h
    · cases h
    · obtain ⟨p, hp, h⟩ := res_bind_eq_ok.1 h
      have ha : ∀ c' a' reg', p = .bank c' a' reg' → a' = b / 16 * 16 := by
        rintro c' a' reg' rfl
        unfold bankPlace at hp
        grind [raise, blockOn]
      split at h
      · cases h
        rw [ha _ _ _ rfl]
        omega
      · cases h

theorem mem_granulesOf_aligned {n g : Nat} (ha : a % 16 = 0) (hn : 0 < n) :
    g ∈ granulesOf a (16 * n) ↔ a / 16 ≤ g ∧ g < a / 16 + n := by
  rw [mem_granulesOf]
  omega

/-- FESET and FECLR leave a range full or empty, and nothing else. -/
theorem slotOf_marked {s0 : State} {n : Nat} (full : Bool) (h : bankOnly s s0 []) (hu : slotOf s c = some u) (ha : a % 16 = 0)
    (hn : 0 < n) :
    ∃ u', slotOf (advance (modSlot s0 c (fun u => setGranules u a (16 * n) full)) o) c = some u' ∧ u'.banks = u.banks
      ∧ u'.g = u.g ∧ ∀ g, granuleFull u' g = if a / 16 ≤ g ∧ g < a / 16 + n then full else granuleFull u g := by
  obtain ⟨u0, hu0, heq⟩ := slotOf_checked h hu
  have hid (u : Slot) : (setGranules u a (16 * n) full).id = u.id := by rw [setGranules_eq]
  have hmod := slotOf_modSlot (f := fun u => setGranules u a (16 * n) full) hid s0 c c
  rw [if_pos rfl, hu0, Option.map_some, setGranules_eq] at hmod
  obtain ⟨u', hu', heq'⟩ := slotOf_advance_some o hmod
  have hempty : u'.empty = (setGranules u0 a (16 * n) full).empty := by rw [heq']
  have hold : u0.empty = u.empty := by rw [heq]
  refine ⟨u', hu', by rw [heq', heq], by rw [heq', heq], fun g => ?_⟩
  rw [granuleFull_empty hempty, granuleFull_setGranules, granuleFull_empty hold]
  exact if_congr (mem_granulesOf_aligned ha hn) rfl rfl

/-! ### The ranges that they refuse -/

/-- A fault of disposition L only stops the stream and waits for the end of the cc: no granule changes (R429). -/
theorem empty_takeFault {w : Site} {f : FaultInfo} {link : Word} (hd : disposition f.code = 0) (hsrc : w.source = 0) (e : SlotId) :
    (slotOf (takeFault s w f link) e).map (fun u => u.empty) = (slotOf s e).map (fun u => u.empty) := by
  have hkeep {f : Slot → Slot} (hid : ∀ u, (f u).id = u.id) (he : ∀ u, (f u).empty = u.empty) (s : State) (c : SlotId) :
      (slotOf (modSlot s c f) e).map (fun u => u.empty) = (slotOf s e).map (fun u => u.empty) := by
    rw [slotOf_modSlot hid]
    split
    · rw [Option.map_map]
      exact congrArg (fun g => (slotOf s e).map g) (funext he)
    · rfl
  unfold takeFault
  split
  · rfl
  · dsimp only
    rw [hd, hsrc]
    refine (hkeep ?_ ?_ _ _).trans (hkeep ?_ ?_ _ _)
    · exact fun _ => rfl
    · exact fun _ => rfl
    · exact fun _ => rfl
    · exact fun _ => rfl

theorem granuleRange_bank {rank : Option Nat} {n : Nat} (hr : refSources s.cur o = .ok r) (hb : memBankBase o = true)
    (ht : bankTarget o r = .ok (.bank rank a)) : granuleRange s o n =
      if a / 16 * 16 / 2 ^ 18 ≠ (a / 16 * 16 + 16 * n - 1) / 2 ^ 18 then raise 0x08 (scratchReg rank (a / 16 * 16))
      else (do
        let p ← bankPlace s s.cur rank (a / 16 * 16) (16 * n)
        match p with
        | .bank c a reg => return (c, a, reg)
        | .mem _ reg => raise 0x08 reg) := by
  rw [granuleRange, hr, res_ok_bind, refTarget, hb, if_pos rfl, ht]
  rfl

/-- A range that is refused stops each of the three. -/
theorem exec_range_refused {i : Instr} {n : Nat} {e : Stop}
    (hi : (i = .feset o ∧ n = o.d.toNat + 1) ∨ (i = .feclr o ∧ n = o.d.toNat + 1) ∨ (i = .fepeek o ∧ n = 1))
    (h : granuleRange s o n = .error e) : exec i s = issue s o (.error e) := by
  rcases hi with ⟨rfl, rfl⟩ | ⟨rfl, rfl⟩ | ⟨rfl, rfl⟩
  · rw [exec_feset, execFeset]
    dsimp only
    rw [h]
    rfl
  · rw [exec_feclr, execFeclr]
    dsimp only
    rw [h]
    rfl
  · rw [exec_fepeek, execFepeek, h]
    rfl

end

theorem exec_marks {o : Opnd} {s s0 : State} {c : SlotId} {a : Nat} {reg : Word} (hpow : s.mgmt.powered = true)
    (hr : granuleRange s o (o.d.toNat + 1) = .ok (c, a, reg)) :
    (checkGranules s c s.cur.id (slotCode s.cur.id) (.publish s.cur.det.rc) a (16 * (o.d.toNat + 1)) = .ok s0 →
      exec (.feset o) s = .next (advance (modSlot s0 c (fun u => setGranules u a (16 * (o.d.toNat + 1)) true)) o))
    ∧ (checkGranules s c s.cur.id (slotCode s.cur.id) (.write 0x3F) a (16 * (o.d.toNat + 1)) = .ok s0 →
      exec (.feclr o) s = .next (advance (modSlot s0 c (fun u => setGranules u a (16 * (o.d.toNat + 1)) false)) o)) := by
  refine ⟨fun hc => ?_, fun hc => ?_⟩
  · rw [exec_feset, execFeset]
    dsimp only
    rw [hr, res_ok_bind, hc]
    exact issue_ok hpow
  · rw [exec_feclr, execFeclr]
    dsimp only
    rw [hr, res_ok_bind, hc]
    exact issue_ok hpow

/-- Settles O19: the granule decides, then the access; the marks change granules alone. -/
theorem fullEmptyAccess : Obligations.FullEmptyAccess := by
  unfold Obligations.FullEmptyAccess
  refine ⟨fun o s s0 r c a reg u hpow hr hu => ?_, fun o s s0 c a reg u hpow hu => ?_,
    fun o s r i n rank a hpow hr hb ht hi => ?_⟩
  · dsimp only
    refine ⟨fun hp => ⟨fun he htrap => ?_, fun he htrap => ?_, fun hf hd hc hg => ldfe_reads hpow hr hu hp hf hd hc hg⟩,
      fun bs hbs hp hc => ⟨exec_stfe_bank hpow hr hbs hp hc, ?_⟩⟩
    · obtain ⟨ref, hexec⟩ := exec_ldfe_bank hr hp
      refine faults_of_body hexec hpow ?_
      rw [waitGranule_bank hu, he, htrap]
      rfl
    · obtain ⟨ref, hexec⟩ := exec_ldfe_bank hr hp
      refine ⟨granuleObj s ref c a, ?_⟩
      rw [hexec, waitGranule_bank hu, he, htrap]
      exact issue_block hpow
    · rw [← dataBytes_length hbs]
      exact slotOf_stfe (bankOnly_checkGranules hc) hu
  · dsimp only
    refine ⟨fun hr => ⟨fun hc => ⟨(exec_marks hpow hr).1 hc, ?_⟩, fun hc => ⟨(exec_marks hpow hr).2 hc, ?_⟩⟩, fun hr hd => ?_⟩
    · exact slotOf_marked true (bankOnly_checkGranules hc) hu (granuleRange_aligned hr) (Nat.succ_pos _)
    · exact slotOf_marked false (bankOnly_checkGranules hc) hu (granuleRange_aligned hr) (Nat.succ_pos _)
    · refine ⟨fun hdet => ⟨_, ?_, wrote_finishG s o o.d (if granuleFull u (a / 16) then 1 else 0) 0 (bankLatency s c)⟩, fun hdet => ?_⟩
      · rw [exec_fepeek, execFepeek, hr, res_ok_bind, hd, res_ok_bind, hdet]
        dsimp only
        rw [hu]
        exact issue_ok hpow
      · rw [exec_fepeek, execFepeek, hr, res_ok_bind, hd, res_ok_bind, hdet]
        exact issue_fault hpow
  · dsimp only
    have hrefused (h : granuleRange s o n = raise 0x08 (scratchReg rank (a / 16 * 16))) :
        faults i s o 0x08 (scratchReg rank (a / 16 * 16)) ∧ ∃ t, exec i s = .next t
          ∧ ∀ c, (slotOf t c).map (fun u => u.empty) = (slotOf s c).map (fun u => u.empty) := by
      have hfault : faults i s o 0x08 (scratchReg rank (a / 16 * 16)) := faults_of_body (exec_range_refused hi h) hpow rfl
      exact ⟨hfault, _, hfault, fun c => empty_takeFault rfl rfl c⟩
    have hrange := granuleRange_bank (n := n) hr hb ht
    refine ⟨fun hx => hrefused (hrange.trans (if_pos hx)), fun hx hrank hm => hrefused ?_⟩
    subst hrank
    rw [hrange, if_neg (not_not.2 hx), bankPlace_undeclared hx hm]
    rfl

end Sys2Proof.Machine
end

section
/-! SUPPORT. ADDR, XLAT, HREL and HINFO (R116 to R120, R279, R294, R295). -/

namespace Sys2Proof.Machine

/-! ## ADDR, XLAT, HREL and HINFO (R116 to R120, R240, R279, R294, R295) -/

theorem addr_handle {o : Opnd} {s : State} {r : Word × Word} (hp : s.mgmt.powered = true) (hd : dstG s.cur o.d = .ok ())
    (hr : refSources s.cur o = .ok r) (hb : memBankBase o = false) :
    writes1 (.addr o) s o o.d (BitVec.ofInt 64 (r.2.toInt * scaleOf o + dispOf o)) := by
  refine ⟨_, ?_, wrote_finishG s o o.d _ 0 1⟩
  rw [exec_addr, execAddr, hr, res_ok_bind, hd, res_ok_bind, hb]
  exact issue_ok hp

theorem addr_bank {o : Opnd} {s : State} {r : Word × Word} {rank : Option Nat} {a : Nat} (hp : s.mgmt.powered = true)
    (hd : dstG s.cur o.d = .ok ()) (hr : refSources s.cur o = .ok r) (hb : memBankBase o = true)
    (ht : bankTarget o r = .ok (.bank rank a)) : writes1 (.addr o) s o o.d (scratchReg rank a) := by
  refine ⟨_, ?_, wrote_finishG s o o.d _ 0 1⟩
  rw [exec_addr, execAddr, hr, res_ok_bind, hd, res_ok_bind, if_pos hb, ht]
  exact issue_ok hp

/-- The walks and page faults of a handle are gone; a slot update leaves the control stream as it is (R118, R120). -/
theorem advance_dropWalk {s : State} {o : Opnd} {h : BitVec 4} {f : Slot → Slot} (hf : ∀ u, (f u).ctl = u.ctl) :
    advance (onCur (dropWalk s h) f) o = wentOn { s with
        pageFaults := s.pageFaults.filter (fun p => !(sameItem p.owner (refOf s.cur 0) && p.handle = some h)) } o
      (f { s.cur with walks := s.cur.walks.filter (fun w => w.h ≠ h) }) :=
  advance_onCur (hf _)

theorem xlat_outside {o : Opnd} {s : State} {x : Word} (hp : s.mgmt.powered = true) (hx : srcG s.cur o.a o.feA = .ok x)
    (h : 2 ^ 56 ≤ (x + o.imm16.signExtend 64).toNat) : faults (.xlat o) s o 0x04 := by
  have hbits : bits (x + o.imm16.signExtend 64) 63 56 ≠ 0 := by
    have := (x + o.imm16.signExtend 64).isLt
    rw [bits, Nat.shiftRight_eq_div_pow, Nat.mod_eq_of_lt (by omega)]
    omega
  rw [faults, exec_xlat, execXlat, hx, res_ok_bind]
  exact (congrArg (issue s o) (if_pos hbits)).trans (issue_fault hp)

theorem xlat_inside {o : Opnd} {s : State} {x : Word} (hp : s.mgmt.powered = true) (hx : srcG s.cur o.a o.feA = .ok x)
    (h : (x + o.imm16.signExtend 64).toNat < 2 ^ 56) :
    let va := x + o.imm16.signExtend 64
    let found := cachedLeaf s.cur (va.extractLsb' 16 40)
    let w : Walk :=
      { h := o.d.setWidth 4, va, due := if found.isSome then some (s.cycle + 32) else none, since := s.cycle, leaf := found
        coff := (ctlSite s o).coff, len := (ctlSite s o).len }
    exec (.xlat o) s = .next (advance (onCur (dropWalk s (o.d.setWidth 4)) (fun t =>
      { t with
        h := t.h.set (o.d.setWidth 4 : BitVec 4).toNat { t.h[(o.d.setWidth 4 : BitVec 4).toNat] with
          full := false, bound := true, valid := false, vpage := va.extractLsb' 16 40, walk := !found.isSome }
        walks := t.walks ++ [w] })) o) := by
  have hbits : ¬ bits (x + o.imm16.signExtend 64) 63 56 ≠ 0 := by
    rw [bits, Nat.shiftRight_eq_div_pow, Nat.div_eq_of_lt h]
    simp
  rw [exec_xlat, execXlat, hx, res_ok_bind]
  exact (congrArg (issue s o) (if_neg hbits)).trans (issue_ok hp)

theorem hinfo_of_bits {o : Opnd} {s : State} (hp : s.mgmt.powered = true) (hd : dstG s.cur o.d = .ok ())
    (hu : isDet s.cur = true → ∃ h, useHandle s.cur (o.a.setWidth 4) o.feA = .ok h) :
    writes1 (.hinfo o) s o o.d (if o.fn = 1 then (handleBits s.cur.h[(o.a.setWidth 4 : BitVec 4).toNat]).extractLsb' 64 64
      else (handleBits s.cur.h[(o.a.setWidth 4 : BitVec 4).toNat]).extractLsb' 0 64) := by
  refine ⟨_, ?_, wrote_finishG s o o.d _ 0 1⟩
  rw [exec_hinfo, execHinfo]
  dsimp only
  cases hdet : isDet s.cur with
  | false =>
    rw [if_neg Bool.false_ne_true, res_ok_bind, hd, res_ok_bind]
    exact issue_ok hp
  | true =>
    obtain ⟨h, hh⟩ := hu hdet
    rw [if_pos rfl, hh, Except.map, res_ok_bind, hd, res_ok_bind]
    exact issue_ok hp

/-- Settles O20. -/
theorem addressesAndHandles : Obligations.AddressesAndHandles := by
  unfold Obligations.AddressesAndHandles
  refine ⟨fun o s r hp hd hr => ⟨addr_handle hp hd hr, fun rank a hb ht => ?_⟩, fun o s hp => ?_⟩
  · have h := addr_bank hp hd hr hb ht
    cases rank <;> exact h
  · dsimp only
    refine ⟨fun x hx => ⟨xlat_outside hp hx, fun h => ?_⟩, ?_, fun hd hu => ?_⟩
    · exact (xlat_inside hp hx h).trans (congrArg _ (advance_dropWalk fun _ => rfl))
    · rw [exec_hrel, execHrel]
      exact (issue_ok hp).trans (congrArg _ (advance_dropWalk fun _ => rfl))
    · have h := hinfo_of_bits hp hd hu
      exact ⟨fun hf => by rwa [if_pos hf] at h, fun hf => by rwa [if_neg hf] at h⟩

end Sys2Proof.Machine
end

section
/-! SUPPORT. ATOM, CAS and XCHG (R178, R296 to R298). -/

namespace Sys2Proof.Machine

/-! ## ATOM, CAS and XCHG (R178, R296 to R298) -/

theorem decode_atomic_bank {core : CoreKind} {op : BitVec 7} {o : Opnd} {i : Opnd → Instr} (hb : memBankBase o = true)
    (ht : o.fn.getLsbD 4 = true) (hi : (op = 0x3A ∧ i = .atom) ∨ (op = 0x3B ∧ i = .cas) ∨ (op = 0x3C ∧ i = .xchg))
    (h : decodeFields core op { o with c := o.c &&& 0x37#6 } = .ok (i { o with c := o.c &&& 0x37#6 })) :
    decodeFields core op o = .error 7 := by
  have hmem (make : Opnd → Instr) (role : Role) : (atomRule make o.fn role).mem = .handle := if_pos ht
  have hfn {r : Rule} {i : Instr} (hrule : ruleOf op { o with c := o.c &&& 0x37#6 } = ifFn ((o.fn &&& 7) = 0) r)
      (h : decodeFields core op { o with c := o.c &&& 0x37#6 } = .ok i) : (o.fn &&& 7) = 0 := by
    by_contra hne
    unfold decodeFields at h
    rw [hrule, ifFn, if_neg (by simpa using hne)] at h
    cases h
  rcases hi with ⟨rfl, rfl⟩ | ⟨rfl, rfl⟩ | ⟨rfl, rfl⟩
  · exact decode_bank rfl rfl (hmem .atom .dest) rfl rfl hb h
  · have hrule : ifFn ((o.fn &&& 7) = 0) (atomRule .cas o.fn .both) = .ok (atomRule .cas o.fn .both) := by
      rw [hfn rfl h]
      rfl
    exact decode_bank hrule hrule (hmem .cas .both) rfl rfl hb h
  · have hrule : ifFn ((o.fn &&& 7) = 0) (atomRule .xchg o.fn .dest) = .ok (atomRule .xchg o.fn .dest) := by
      rw [hfn rfl h]
      rfl
    exact decode_bank hrule hrule (hmem .xchg .dest) rfl rfl hb h

section
variable {o : Opnd} {s s0 : State} {r : Word × Word} {i : Instr} {reduce : Bool} {f : Nat → Nat}

/-- The bytes of an atomic. -/
def atomBytes (o : Opnd) : Nat := if o.fn.getLsbD 3 then 8 else 4

/-- What an atomic writes: the old value, and under .T the tag (R296). -/
def atomResults (o : Opnd) (old : Nat) (tag : BitVec 16) : List (BitVec 6 × Word) :=
  if o.fn.getLsbD 4 then [(o.d, word old), (o.d + 1, tag.setWidth 64)] else [(o.d, word old)]

/-- The latency of an atomic at a place (R286). -/
def atomLatency (s : State) (p : Place) : Nat := match p with | .bank c _ _ => bankLatency s c | .mem .. => 1

/-- An instruction that is an atomic with a function of the old value, once its sources are read (R297). -/
def AtomicForm (s : State) (o : Opnd) (r : Word × Word) (i : Instr) (reduce : Bool) (f : Nat → Nat) : Prop :=
  exec i s = issue s o (do
    let p ← resolve s o r (atomBytes o) (atomBytes o) permRwa
    dstRegs s.cur (if o.fn.getLsbD 4 then [o.d, o.d + 1] else [o.d])
    let x ← atomicAt s p (atomBytes o) (o.lvl = 3) reduce f
    return finishL x.1 o ([(o.d, word x.2.1)] ++ if o.fn.getLsbD 4 then [(o.d + 1, zx x.2.2)] else []) [] 0 o.feD (atomLatency s p))

theorem atomResults_eq (old : Nat) (tag : BitVec 16) :
    [(o.d, word old)] ++ (if o.fn.getLsbD 4 then [(o.d + 1, zx tag)] else []) = atomResults o old tag := by
  unfold atomResults
  split <;> rfl

theorem atomResults_regs (old : Nat) (tag : BitVec 16) : ((atomResults o old tag).map Prod.fst).Nodup := by
  unfold atomResults
  split <;> simp

/-- An atomic once its place is read and written. -/
theorem AtomicForm.exec_eq {p : Place} {x : State × Nat × BitVec 16} (h : AtomicForm s o r i reduce f)
    (hp : s.mgmt.powered = true) (hplace : resolve s o r (atomBytes o) (atomBytes o) permRwa = .ok p)
    (hd : dstRegs s.cur (if o.fn.getLsbD 4 then [o.d, o.d + 1] else [o.d]) = .ok ())
    (hx : atomicAt s p (atomBytes o) (o.lvl = 3) reduce f = .ok x) :
    ∃ t, exec i s = .next t ∧ wroteLong o.feD x.1 t o (atomResults o x.2.1 x.2.2) [] 0 (atomLatency s p) := by
  refine ⟨_, ?_, wroteLong_finishL _ _ _ _ _ _ _ (atomResults_regs ..) List.nodup_nil⟩
  rw [h, hplace, res_ok_bind, hd, res_ok_bind, hx, res_ok_bind, atomResults_eq]
  exact issue_ok hp

theorem atomicAt_bank {c : SlotId} {a n : Nat} {reg : Word} {u : Slot} {mem : Bool}
    (hc : checkGranules s c s.cur.id (slotCode s.cur.id) (if reduce then .reduce s.cur.det.rc else .write s.cur.det.rc) a n
      = .ok s0) (hu : slotOf s c = some u) (hg : bankPoisoned u a n = false) :
    let old := leNat ((List.range n).map (fun i => bankByte u (a + i)))
    atomicAt s (.bank c a reg) n mem reduce f = .ok (modSlot s0 c (fun t => bankWrite t a (bytesOf n (f old))), old, 0) := by
  have hload := loadAt_bank_bytes (reg := reg) (lv := .sl) hc hu hg
  rw [loadAt, hc, res_ok_bind] at hload
  rw [atomicAt, hc, res_ok_bind]
  cases hdata : bankData s0 c a n with
  | error e => rw [hdata] at hload; cases hload
  | ok bs =>
    rw [hdata] at hload
    obtain rfl : bs = (List.range n).map (fun i => bankByte u (a + i)) := congrArg Prod.snd (Except.ok.inj hload)
    rfl

theorem atomicAt_mem {pa n : Nat} {reg : Word} {mem : Bool} (hn : needReleased s (dieOf s.cur.id.core) (linesOf pa n) = .ok ())
    (hr : refusedByte s s.cur pa (linesOf pa n) rightAtomic mem = none) (hg : poisoned s pa n = false)
    (hc : checkLines s s.cur (if reduce then .reduce else .write) pa n mem = .ok s0) :
    let old := leNat ((List.range n).map (fun i => memByte s0 (pa + i)))
    let h := homeWrite s0 pa (bytesOf n (f old)) mem
    atomicAt s (.mem pa reg) n mem reduce f = .ok (l1Update h.1 h.1.cur pa (bytesOf n (f old)), old, h.2) := by
  have hadmit : admitAtomic s pa reg n mem reduce = .ok s0 := by
    rw [admitAtomic, hn, res_ok_bind, hr]
    dsimp only
    rw [hc, res_ok_bind, hg]
    rfl
  rw [atomicAt, hadmit, res_ok_bind, memNat, readMem_eq_map]
  rfl

theorem resolve_mem_aligned {n pa : Nat} {perm : BitVec 4} {reg : Word} (hn : n ∣ 128) (h : resolve s o r n n perm = .ok (.mem pa reg)) :
    n ∣ pa := by
  obtain ⟨x, hx, h⟩ := res_bind_eq_ok.1 h
  unfold resolveRef at h
  split at h
  · next c off =>
    split at h
    · cases h
    · next halign =>
      obtain ⟨pa', hpage, h⟩ := res_bind_eq_ok.1 h
      obtain ⟨h0, rfl⟩ := checkPage_eq_ok hpage
      obtain rfl : c.base + off.toNat = pa := (Place.mem.inj (Except.ok.inj h)).1
      have hbase : n ∣ c.base := (hn.trans (by decide)).trans (base_of_refTarget hx)
      have hoff : (n : Int) ∣ off := Int.dvd_of_emod_eq_zero (not_not.1 halign)
      exact Nat.dvd_add hbase (by rwa [← Int.natCast_dvd_natCast, Int.toNat_of_nonneg h0])
  · split at h
    · cases h
    · unfold bankPlace at h
      grind [raise, blockOn]

theorem AtomicForm.bank (h : AtomicForm s o r i reduce f) (hp : s.mgmt.powered = true)
    (hd : dstRegs s.cur (if o.fn.getLsbD 4 then [o.d, o.d + 1] else [o.d]) = .ok ())
    {c : SlotId} {a : Nat} {reg : Word} {u : Slot}
    (hplace : resolve s o r (atomBytes o) (atomBytes o) permRwa = .ok (.bank c a reg))
    (hc : checkGranules s c s.cur.id (slotCode s.cur.id) (if reduce then .reduce s.cur.det.rc else .write s.cur.det.rc) a
      (atomBytes o) = .ok s0) (hu : slotOf s c = some u) (hg : bankPoisoned u a (atomBytes o) = false) :
    let old := leNat ((List.range (atomBytes o)).map (fun i => bankByte u (a + i)))
    ∃ s1 t u', exec i s = .next t ∧ bankOnly s s1 [c] ∧ slotOf s1 c = some u'
      ∧ storesBank u u' a (bytesOf (atomBytes o) (f old))
      ∧ wroteLong o.feD s1 t o (atomResults o old 0) [] 0 (bankLatency s c) := by
  intro old
  obtain ⟨t, hexec, hwrote⟩ := h.exec_eq hp hplace hd (atomicAt_bank hc hu hg)
  obtain ⟨honly, hbytes⟩ := storesBank_modSlot (c := c) (bankOnly_checkGranules hc) a (bytesOf (atomBytes o) (f old))
  obtain ⟨u', hu', hs⟩ := hbytes u hu
  exact ⟨_, t, u', hexec, honly, hu', hs, hwrote⟩

theorem AtomicForm.mem (h : AtomicForm s o r i reduce f) (hp : s.mgmt.powered = true)
    (hd : dstRegs s.cur (if o.fn.getLsbD 4 then [o.d, o.d + 1] else [o.d]) = .ok ()) {pa : Nat} {reg : Word}
    (hplace : resolve s o r (atomBytes o) (atomBytes o) permRwa = .ok (.mem pa reg))
    (hn : needReleased s (dieOf s.cur.id.core) (linesOf pa (atomBytes o)) = .ok ())
    (hr : refusedByte s s.cur pa (linesOf pa (atomBytes o)) rightAtomic (o.lvl = 3) = none)
    (hg : poisoned s pa (atomBytes o) = false)
    (hc : checkLines s s.cur (if reduce then .reduce else .write) pa (atomBytes o) (o.lvl = 3) = .ok s0) :
    let old := leNat ((List.range (atomBytes o)).map (fun i => memByte s0 (pa + i)))
    let tag : BitVec 16 := sget 0 s.counters (bucketKey (128 * (pa / 128))) + 1
    homeOnly s s0 ∧ sameMemory s s0
    ∧ ∃ s1 t, exec i s = .next t ∧ homeOnly s s1 ∧ storesMemory s s1 pa (bytesOf (atomBytes o) (f old))
      ∧ sget 0 s1.counters (bucketKey (128 * (pa / 128))) = tag
      ∧ wroteLong o.feD s1 t o (atomResults o old tag) [] 0 1 := by
  intro old tag
  have htouched := touched_checkLines hc
  have hbytes : atomBytes o ∣ 128 ∧ 0 < atomBytes o := by
    unfold atomBytes
    split <;> decide
  obtain ⟨k, hk⟩ := resolve_mem_aligned hbytes.1 hplace
  have hline : linesOf pa (bytesOf (atomBytes o) (f old)).length = [pa / 128] := by
    rw [Laws.bytesOf_length]
    refine linesOf_within hbytes.2 ?_
    have hsize : atomBytes o = 8 ∨ atomBytes o = 4 := by unfold atomBytes; split <;> simp
    rcases hsize with hsize | hsize <;> rw [hsize] at hk ⊢ <;> omega
  obtain ⟨honly, hstored⟩ := storesMemory_homeWrite htouched.quiet
    (homeWrite s0 pa (bytesOf (atomBytes o) (f old)) (o.lvl = 3)).1.cur pa (bytesOf (atomBytes o) (f old)) (o.lvl = 3)
  obtain ⟨htag, hcounter⟩ := homeWrite_tag (s := s0) (o.lvl = 3) hline
  rw [htouched.counters] at htag
  obtain ⟨t, hexec, hwrote⟩ := h.exec_eq hp hplace hd (atomicAt_mem hn hr hg hc)
  dsimp only at hwrote
  rw [htag] at hwrote
  exact ⟨htouched.quiet.1, htouched.quiet.2, _, t, hexec, honly, hstored, hcounter.trans htag, hwrote⟩

end

theorem atomicForm_of_sources {o : Opnd} {s : State} {r : Word × Word} {i : Instr} {reduce compare : Bool}
    {f : Nat → Nat → Nat → Nat} {y z : Word} (hi : exec i s = atomic o s reduce f compare)
    (hr : refSources s.cur o false = .ok r) (hy : srcG s.cur o.b o.feB = .ok y)
    (hz : compare = true → srcG s.cur o.d false = .ok z) : AtomicForm s o r i reduce
      (f ((if compare then z else 0 : Word).toNat % 2 ^ (8 * atomBytes o)) (y.toNat % 2 ^ (8 * atomBytes o))) :=
  hi.trans (atomic_sources hr hy hz)

theorem atomNew_eq (k n old y : Nat) : atomNew k n old y =
    if k = 0 then (old + y) % 2 ^ (8 * n) else if k = 1 then old &&& y else if k = 2 then old ||| y
    else if k = 3 then old ^^^ y
    else if k = 4 then (if readInt true (8 * n) y < readInt true (8 * n) old then y else old)
    else if k = 5 then (if readInt true (8 * n) old < readInt true (8 * n) y then y else old)
    else if k = 6 then min old y else max old y := by
  unfold atomNew
  dsimp only
  split <;> simp_all

/-- Settles O21: each atomic is one read and one write at its place, with its function of the old value. -/
theorem atomics : Obligations.Atomics := by
  unfold Obligations.Atomics
  refine ⟨fun core op o i hb ht hi h => decode_atomic_bank hb ht hi h, ?_⟩
  dsimp only
  intro o s s0 r y hp hr hy hd
  have hatomic {i : Instr} {reduce : Bool} {f : Nat → Nat} (h : AtomicForm s o r i reduce f) :=
    And.intro (fun c a reg u (ht : o.fn.getLsbD 4 = false) hplace hc hu hg =>
        (h.bank (s0 := s0) (c := c) (a := a) (reg := reg) (u := u) hp hd hplace hc hu hg))
      (fun pa reg hplace hn hr hg hc => h.mem (s0 := s0) (pa := pa) (reg := reg) hp hd hplace hn hr hg hc)
  have hxchg := hatomic (atomicForm_of_sources (z := 0) (exec_xchg (o := o) (s := s)) hr hy nofun)
  have hatom := atomicForm_of_sources (z := 0) (exec_atom (o := o) (s := s)) hr hy nofun
  simp only [atomNew_eq] at hatom
  have hatom := hatomic hatom
  refine ⟨hxchg, fun z hz => ?_, hatom⟩
  have hcas := hatomic (atomicForm_of_sources (exec_cas (o := o) (s := s)) hr hy fun _ => hz)
  exact hcas

end Sys2Proof.Machine
end

section
/-! SUPPORT. Fences and cache control (R174, R179, R180, R193, R309, R310). -/

namespace Sys2Proof.Machine

/-! ## MARK and FENCE (R174, R179, R180, R193) -/

theorem performed_of_pending {s : State} (h : updatesPending s s.cur = true) : performed s = blockOn .updates := if_pos h

theorem performed_of_none {s : State} (h : updatesPending s s.cur = false) : performed s = .ok () := if_neg (by simp [h])

theorem releasable_of_sent {s : State} (h : (isDet s.cur && engineWrites s s.cur) = true) : releasable s = blockOn .sentWrites :=
  if_pos h

theorem releasable_of_none {s : State} (h : (isDet s.cur && engineWrites s s.cur) = false) : releasable s = performed s :=
  if_neg (by simp [h])

/-- The slot after a release (R193). -/
def released (s : State) (t : Slot) : Slot :=
  if isDet s.cur then { t with det := { t.det with rc := s.cur.det.rc + 1 } } else t

theorem releaseCount_eq {s : State} {t : Slot} (hrec : t.record = s.cur.record) (hrc : t.det.rc = s.cur.det.rc)
    (h : isDet s.cur = true → s.cur.det.rc.toNat + 1 < 62) : releaseCount t = .ok (released s t) := by
  have hdet : isDet t = isDet s.cur := by rw [isDet, hrec]; rfl
  unfold releaseCount released
  rw [hdet, hrc]
  split
  · next hd => rw [if_neg (by have := h hd; omega)]
  · rfl

theorem releaseCount_full {t : Slot} (hd : isDet t = true) (h : 62 ≤ t.det.rc.toNat + 1) : releaseCount t = raise 0x20 := by
  rw [releaseCount, if_pos hd, if_pos h]

/-- What an acquire makes of a slot: only its table and its pending pairs differ. -/
theorem acquirePending_eq_ok {t t' : Slot} (h : acquirePending t = .ok t') :
    t' = { t with det := { t.det with table := t'.det.table, pending := t'.det.pending } }
      ∧ (isDet t = false → t' = t) ∧ (isDet t = true → t'.det.pending = [] ∧ t'.det.table.length ≤ 16) := by
  unfold acquirePending at h
  dsimp only at h
  split at h
  · next hd =>
    split at h
    · cases h
    · next hlen =>
      obtain rfl := Except.ok.inj h
      exact ⟨rfl, fun hn => absurd hd (by simp [hn]), fun _ => ⟨rfl, Nat.le_of_not_gt hlen⟩⟩
  · next hd =>
    obtain rfl := Except.ok.inj h
    exact ⟨rfl, fun _ => rfl, fun hn => absurd hn hd⟩

/-- The state once the L1 has dropped what an acquire of a scope drops (R179). -/
def acquired (s : State) (o : Opnd) : State := if 2 ≤ o.lvl.toNat then l1Invalidate s s.cur.id.core else s

theorem advance_acquired {s : State} {o : Opnd} {t : Slot} (h : t.ctl = s.cur.ctl) :
    advance (scopeInvalidate (onCur s (fun _ => t)) s.cur.id.core o.lvl) o = wentOn (acquired s o) o t := by
  unfold scopeInvalidate acquired
  split
  · exact advance_onCur (s := l1Invalidate s s.cur.id.core) (f := fun _ => t) h
  · exact advance_onCur (f := fun _ => t) h

theorem core_of_mem_l1Invalidate {s : State} {core : BitVec 8} {x : L1Line} (h : x ∈ (l1Invalidate s core).l1) : x.core ≠ core := by
  have hkept := (List.mem_filter.1 h).2
  rintro rfl
  split at hkept <;> simp at hkept

section
variable {o : Opnd} {s : State}

/-- A fence whose stream has updates on their way. -/
theorem exec_fence_pending (hp : s.mgmt.powered = true) (h : updatesPending s s.cur = true) {i : Instr}
    (hi : i = .mark o ∨ i = .fenceAcq o ∨ i = .fenceWack o
      ∨ (isDet s.cur && engineWrites s s.cur) = false ∧ (i = .fenceRel o ∨ i = .fenceAr o)) :
    exec i s = .next (blockCtl s .updates) := by
  have hperf := performed_of_pending h
  rcases hi with rfl | rfl | rfl | ⟨hs, rfl | rfl⟩
  · rw [exec_mark, execMark, hperf]
    exact issue_block hp
  · rw [exec_fenceAcq, execFenceAcq, hperf]
    exact issue_block hp
  · rw [exec_fenceWack, execFenceWack, hperf]
    exact issue_block hp
  · rw [exec_fenceRel, execFenceRel, releasable_of_none hs, hperf]
    exact issue_block hp
  · rw [exec_fenceAr, execFenceAr, releasable_of_none hs, hperf]
    exact issue_block hp

theorem exec_release_sent (hp : s.mgmt.powered = true) (h : (isDet s.cur && engineWrites s s.cur) = true) :
    exec (.fenceRel o) s = .next (blockCtl s .sentWrites) ∧ exec (.fenceAr o) s = .next (blockCtl s .sentWrites) := by
  rw [exec_fenceRel, execFenceRel, exec_fenceAr, execFenceAr, releasable_of_sent h]
  exact ⟨issue_block hp, issue_block hp⟩

variable (hp : s.mgmt.powered = true) (h : updatesPending s s.cur = false)
include hp h

theorem exec_mark_done : exec (.mark o) s = .next (wentOn s o s.cur) ∧ exec (.fenceWack o) s = .next (wentOn s o s.cur) := by
  rw [exec_mark, execMark, exec_fenceWack, execFenceWack, performed_of_none h]
  exact ⟨issue_ok hp, issue_ok hp⟩

theorem exec_fenceRel_done (hs : (isDet s.cur && engineWrites s s.cur) = false)
    (hrc : isDet s.cur = true → s.cur.det.rc.toNat + 1 < 62) : exec (.fenceRel o) s = .next (wentOn s o (released s s.cur)) := by
  have hctl : (released s s.cur).ctl = s.cur.ctl := by unfold released; split <;> rfl
  rw [exec_fenceRel, execFenceRel, releasable_of_none hs, performed_of_none h, res_ok_bind, releaseCount_eq rfl rfl hrc,
    res_ok_bind]
  exact (issue_ok hp).trans (congrArg _ (advance_onCur (f := fun _ => released s s.cur) hctl))

theorem fenceRel_full (hs : (isDet s.cur && engineWrites s s.cur) = false) (hd : isDet s.cur = true)
    (hrc : 62 ≤ s.cur.det.rc.toNat + 1) : faults (.fenceRel o) s o 0x20 := by
  rw [faults, exec_fenceRel, execFenceRel, releasable_of_none hs, performed_of_none h, res_ok_bind, releaseCount_full hd hrc]
  exact issue_fault hp

theorem exec_fenceAcq_done {t : Slot} (ht : acquirePending s.cur = .ok t) :
    exec (.fenceAcq o) s = .next (wentOn (acquired s o) o t) := by
  have hctl : t.ctl = s.cur.ctl := by rw [(acquirePending_eq_ok ht).1]
  rw [exec_fenceAcq, execFenceAcq, performed_of_none h, res_ok_bind, ht, res_ok_bind]
  exact (issue_ok hp).trans (congrArg _ (advance_acquired hctl))

theorem exec_fenceAr_done {t : Slot} (ht : acquirePending s.cur = .ok t) (hs : (isDet s.cur && engineWrites s s.cur) = false)
    (hrc : isDet s.cur = true → s.cur.det.rc.toNat + 1 < 62) :
    exec (.fenceAr o) s = .next (wentOn (acquired s o) o (released s t)) := by
  have heq := (acquirePending_eq_ok ht).1
  have hctl : (released s t).ctl = s.cur.ctl := by
    rw [released, heq]
    split <;> rfl
  rw [exec_fenceAr, execFenceAr, releasable_of_none hs, performed_of_none h, res_ok_bind, ht, res_ok_bind,
    releaseCount_eq (by rw [heq]) (by rw [heq]) hrc, res_ok_bind]
  exact (issue_ok hp).trans (congrArg _ (advance_acquired hctl))

end

/-! ## CINV, CWB and PREF (R309, R310) -/

theorem decode_cache_bank {core : CoreKind} {o : Opnd} {i : Opnd → Instr} (hb : memBankBase o = true)
    (h : decodeFields core 0x44 { o with c := o.c &&& 0x37#6 } = .ok (i { o with c := o.c &&& 0x37#6 })) :
    decodeFields core 0x44 o = .error 7 := by
  have hrule : ∃ r, ruleOf 0x44 o = .ok r ∧ ruleOf 0x44 { o with c := o.c &&& 0x37#6 } = .ok r ∧ r.mem = .handle
      ∧ r.more = [] ∧ r.lvlCause = 9 := by
    have hsame : ruleOf 0x44 { o with c := o.c &&& 0x37#6 } = ruleOf 0x44 o := rfl
    cases hr : ruleOf 0x44 o with
    | error e =>
      unfold decodeFields at h
      rw [hsame, hr] at h
      cases h
    | ok r =>
      refine ⟨r, rfl, hsame.trans hr, ?_⟩
      have hrule : ruleOf 0x44 o = match o.fn.toNat with
        | 0 => .ok { memRule .cinv useU6 with mem := .handle, lvls := [0] }
        | 1 => .ok { memRule .cwb useU6 with mem := .handle, lvls := [0] }
        | 2 => .ok { memRule .pref useU6 with mem := .handle, lvls := [0, 1, 2] }
        | _ => .error 3 := rfl
      rw [hrule] at hr
      split at hr
      · obtain rfl := Except.ok.inj hr; exact ⟨rfl, rfl, rfl⟩
      · obtain rfl := Except.ok.inj hr; exact ⟨rfl, rfl, rfl⟩
      · obtain rfl := Except.ok.inj hr; exact ⟨rfl, rfl, rfl⟩
      · cases hr
  obtain ⟨r, h1, h2, hm, hmore, hl⟩ := hrule
  exact decode_bank h1 h2 hm hmore hl hb h

/-- The lines from that of an address, as many as field d asks for or as its page still has. -/
def pageLines (o : Opnd) (h : Capture) (pa : Nat) : List Nat :=
  (List.range (min (o.d.toNat + 1) ((h.base + h.size) / 128 - pa / 128))).map (fun i => pa / 128 + i)

theorem cacheLines_eq {s : State} {o : Opnd} {r : Word × Word} {h : Capture} {off : Int} {perm : BitVec 4} {pa : Nat}
    (hr : refSources s.cur o = .ok r) (ht : refTarget s.cur o r = .ok (.page h off)) (hp : checkPage h off 1 perm = .ok pa) :
    cacheLines s o perm = .ok (pageLines o h pa) := by
  rw [cacheLines, hr, res_ok_bind, ht, res_ok_bind]
  dsimp only
  rw [hp]
  rfl

/-- Successive lines are those of a range. -/
theorem mem_pageLines {o : Opnd} {h : Capture} {pa l : Nat} : l ∈ pageLines o h pa ↔
    (pageLines o h pa).headD 0 ≤ l ∧ l < (pageLines o h pa).headD 0 + (pageLines o h pa).length := by
  have hhead (n : Nat) : 0 < n → ((List.range n).map (fun i => pa / 128 + i)).headD 0 = pa / 128 := by
    cases n with
    | zero => exact fun h => absurd h (Nat.lt_irrefl 0)
    | succ n => exact fun _ => by rw [List.range_succ_eq_map]; rfl
  unfold pageLines
  generalize min (o.d.toNat + 1) ((h.base + h.size) / 128 - pa / 128) = n
  rw [List.mem_map, List.length_map, List.length_range]
  constructor
  · rintro ⟨i, hi, rfl⟩
    rw [List.mem_range] at hi
    rw [hhead n (by omega)]
    omega
  · rintro ⟨h1, h2⟩
    obtain rfl | hn := Nat.eq_zero_or_pos n
    · exact absurd h2 (Nat.not_lt_zero l)
    rw [hhead n hn] at h1 h2
    exact ⟨l - pa / 128, List.mem_range.2 (by omega), by omega⟩

theorem mem_l1Drop {s : State} {core : BitVec 8} {lo hi : Nat} {x : L1Line} : x ∈ (l1Drop s core lo hi).l1 ↔
    x ∈ s.l1 ∧ ¬ ((lo ≤ x.line ∧ x.line < hi) ∧ if isFused s core then clusterOf x.core = clusterOf core else x.core = core) := by
  unfold l1Drop
  rw [List.mem_filter]
  refine and_congr_right fun _ => ?_
  rw [Bool.not_eq_true', ← Bool.not_eq_true]
  refine not_congr ?_
  rw [Bool.and_eq_true, Bool.and_eq_true, decide_eq_true_eq, decide_eq_true_eq, and_assoc, and_comm]
  refine and_congr_right fun _ => ?_
  split <;> exact decide_eq_true_iff

/-- CWB on one line (log 15). -/
def cleanLine (s : State) (s' : State) (l : Nat) : State :=
  if admitMem s s.cur (128 * l) rightWrite false then setLine s' l (lineWord s' l &&& ~~~4#32) else s'

theorem lineWord_setLine (s : State) (l : Nat) (w : BitVec 32) (x : Nat) :
    lineWord (setLine s l w) x = if x = l then w else lineWord s x := sget_sset ..

theorem lineWord_cleanLine (s s' : State) (l x : Nat) : lineWord (cleanLine s s' l) x =
    if x = l ∧ admitMem s s.cur (128 * l) rightWrite false = true then lineWord s' x &&& ~~~4#32 else lineWord s' x := by
  unfold cleanLine
  split
  · next h =>
    rw [lineWord_setLine]
    by_cases hx : x = l
    · subst hx; simp [h]
    · simp [hx]
  · next h => simp [h]

theorem cleanLine_lines (s s' : State) (l : Nat) : cleanLine s s' l = { s' with lines := (cleanLine s s' l).lines } := by
  unfold cleanLine
  split <;> rfl

/-- CWB on some lines: only their words differ, each clean where its home admits the request. -/
theorem foldl_cleanLine (s : State) (ls : List Nat) (s' : State) :
    ls.foldl (cleanLine s) s' = { s' with lines := (ls.foldl (cleanLine s) s').lines }
    ∧ ∀ x, lineWord (ls.foldl (cleanLine s) s') x =
        if x ∈ ls ∧ admitMem s s.cur (128 * x) rightWrite false = true then lineWord s' x &&& ~~~4#32 else lineWord s' x := by
  induction ls generalizing s' with
  | nil => exact ⟨rfl, fun x => by simp⟩
  | cons l ls ih =>
    obtain ⟨hlines, hword⟩ := ih (cleanLine s s' l)
    refine ⟨?_, fun x => ?_⟩
    · rw [List.foldl_cons, hlines, cleanLine_lines]
    · rw [List.foldl_cons, hword, lineWord_cleanLine]
      by_cases hx : x = l
      · subst hx
        by_cases ha : admitMem s s.cur (128 * x) rightWrite false = true <;> simp [ha, BitVec.and_assoc]
      · simp [hx]

/-- PREF on one line. -/
def prefLine (s : State) (o : Opnd) (s' : State) (l : Nat) : State :=
  if admitMem s s.cur (128 * l) rightRead false = false then s'
  else if o.lvl = 2 then touchLine s' l false
  else if isDet s.cur then s' else (l1Read s' s.cur l).1

theorem quiet_prefLine (s : State) (o : Opnd) (s' : State) (l : Nat) : Quiet s' (prefLine s o s' l) := by
  unfold prefLine
  split
  · exact .refl s'
  · split
    · exact (touched_touchLine ..).quiet
    · split
      · exact .refl s'
      · exact quiet_l1Read ..

theorem quiet_foldl_prefLine (s : State) (o : Opnd) (ls : List Nat) (s' : State) : Quiet s' (ls.foldl (prefLine s o) s') := by
  induction ls generalizing s' with
  | nil => exact .refl s'
  | cons l ls ih => exact (quiet_prefLine s o s' l).trans (ih _)

/-- A line that was brought to its slice is there (R60). -/
theorem present_touchLine (s : State) (l : Nat) : (lineWord (touchLine s l false) l).getLsbD 0 = true := by
  rw [touchLine, if_neg Bool.false_ne_true]
  unfold bringLine
  split
  · assumption
  · rw [lineWord_setLine, if_pos rfl]
    simp

/-- A read at .CL leaves a copy of its line in the L1 (R57). -/
theorem l1Has_l1Read (s : State) (t : Slot) (l : Nat) : l1Has (l1Read s t l).1 t l = true := by
  have hholder := (quiet_l1Read s t l).1.l1Holder t.id.core l
  have hmem : ∃ x ∈ (l1Read s t l).1.l1, (x.core = l1Holder s t.id.core l && x.line = l && x.tenant = t.tenant) = true := by
    unfold l1Read
    dsimp only
    split
    · next x hx =>
      have hmine := List.find?_some hx
      exact ⟨x, List.mem_cons_self, hmine⟩
    · exact ⟨_, List.mem_cons_self, by simp⟩
  rw [l1Has, hholder]
  exact List.any_eq_true.2 hmem

section
variable {o : Opnd} {s : State} {r : Word × Word} {h : Capture} {off : Int} {pa : Nat}
variable (hp : s.mgmt.powered = true) (hr : refSources s.cur o = .ok r) (ht : refTarget s.cur o r = .ok (.page h off))
include hp hr ht

theorem exec_cinv_lines (hpage : checkPage h off 1 permRd = .ok pa) : exec (.cinv o) s = .next (advance
    (l1Drop s s.cur.id.core ((pageLines o h pa).headD 0) ((pageLines o h pa).headD 0 + (pageLines o h pa).length)) o) := by
  rw [exec_cinv, execCinv, cacheLines_eq hr ht hpage]
  exact issue_ok hp

theorem exec_cwb_lines (hpage : checkPage h off 1 permW = .ok pa)
    (hn : needReleased s (dieOf s.cur.id.core) (pageLines o h pa) = .ok ()) :
    exec (.cwb o) s = .next (advance ((pageLines o h pa).foldl (cleanLine s) s) o) := by
  rw [exec_cwb, execCwb, cacheLines_eq hr ht hpage, res_ok_bind, hn]
  exact issue_ok hp

theorem exec_pref_lines (hpage : checkPage h off 1 permRd = .ok pa)
    (hn : needReleased s (dieOf s.cur.id.core) (pageLines o h pa) = .ok ()) :
    exec (.pref o) s = .next (advance ((pageLines o h pa).foldl (prefLine s o) s) o) := by
  have hline (s' : State) (l : Nat) : (if !admitMem s s.cur (128 * l) rightRead false then s'
      else if o.lvl = 2 then touchLine s' l false else if isDet s.cur then s' else (l1Read s' s.cur l).1) = prefLine s o s' l := by
    rw [prefLine]
    cases admitMem s s.cur (128 * l) rightRead false <;> rfl
  rw [exec_pref, execPref, cacheLines_eq hr ht hpage, res_ok_bind, hn]
  simp only [hline]
  exact issue_ok hp

end

/-- Settles O22: fences on a stream with and without updates on their way; each cache instruction line by line. -/
theorem fencesAndCacheControl : Obligations.FencesAndCacheControl := by
  unfold Obligations.FencesAndCacheControl
  refine ⟨fun o s hp => ?_, fun core o i hb _ h => decode_cache_bank hb h, fun o s r hp hr => ?_⟩
  · refine ⟨fun h i hi => exec_fence_pending hp h hi, exec_release_sent hp, fun h => ⟨?_, ?_, exec_fenceRel_done hp h,
      fenceRel_full hp h, fun t ht => ?_⟩, fun hl x hx => ?_, fun a => ?_⟩
    · exact (exec_mark_done hp h).1
    · exact (exec_mark_done hp h).2
    · obtain ⟨-, hplain, hdet⟩ := acquirePending_eq_ok ht
      exact ⟨hplain, hdet, exec_fenceAcq_done hp h ht, exec_fenceAr_done hp h ht⟩
    · rw [if_pos hl] at hx
      exact core_of_mem_l1Invalidate hx
    · split <;> rfl
  · dsimp only
    intro h off ht
    refine ⟨fun pa hpage => ⟨_, exec_cinv_lines hp hr ht hpage, rfl, fun x => ?_⟩,
      fun pa hpage hn => ⟨_, exec_cwb_lines hp hr ht hpage hn, ?_, fun l => ?_⟩, fun pa hpage hn => ?_⟩
    · refine mem_l1Drop.trans ?_
      rw [← mem_pageLines]
      rfl
    · rw [(foldl_cleanLine s (pageLines o h pa) s).1]
      rfl
    · exact (foldl_cleanLine s (pageLines o h pa) s).2 l
    · have hquiet := quiet_foldl_prefLine s o (pageLines o h pa) s
      refine ⟨exec_pref_lines hp hr ht hpage hn, hquiet, fun s' l hs' _ ha => ⟨?_, fun hl => ?_, fun hl hd => ?_, fun hl hd => ?_⟩⟩
      · exact Quiet.trans hs' (quiet_prefLine s o s' l)
      · rw [if_neg (by simp [ha]), if_pos hl]
        exact ⟨present_touchLine s' l, (touched_touchLine s' l false).l1⟩
      · rw [if_neg (by simp [ha]), if_neg hl, if_pos hd]
      · rw [if_neg (by simp [ha]), if_neg hl, if_neg (by simp [hd])]
        exact l1Has_l1Read s' s.cur l

end Sys2Proof.Machine
end

section
/-! SUPPORT. WAIT (R216 to R218, R300 to R302). -/

namespace Sys2Proof.Machine

/-! ## The conditions of a WAIT (R216 to R218, R301, R302) -/

/-- The sum of the bits of the conditions below `n` that hold. -/
def bitSum (f : Nat → Bool) (n : Nat) : Nat := (List.range n).foldl (fun b i => if f i then b + 2 ^ i else b) 0

theorem bitSum_succ (f : Nat → Bool) (n : Nat) : bitSum f (n + 1) = if f n then bitSum f n + 2 ^ n else bitSum f n := by
  rw [bitSum, List.range_succ, List.foldl_append]
  rfl

theorem bitSum_lt (f : Nat → Bool) (n : Nat) : bitSum f n < 2 ^ n := by
  induction n with
  | zero => exact Nat.one_pos
  | succ n ih =>
    rw [bitSum_succ, Nat.pow_succ]
    split <;> omega

theorem testBit_bitSum (f : Nat → Bool) (n i : Nat) : (bitSum f n).testBit i = (decide (i < n) && f i) := by
  induction n with
  | zero => simp [bitSum]
  | succ n ih =>
    have hlt := bitSum_lt f n
    rw [bitSum_succ]
    obtain hi | rfl | hi := Nat.lt_trichotomy i n
    · have hbit : (bitSum f n + 2 ^ n).testBit i = (bitSum f n).testBit i := by
        rw [Nat.add_comm, Nat.testBit_two_pow_add_gt hi]
      rw [apply_ite (Nat.testBit · i), hbit, ite_self, ih]
      simp [hi, Nat.lt_succ_of_lt hi]
    · cases hf : f i with
      | false => simp [ih]
      | true => simp [Nat.add_comm (bitSum f i), Nat.testBit_two_pow_add_eq, Nat.testBit_lt_two_pow hlt]
    · have hout {x : Nat} (hx : x < 2 ^ (n + 1)) : x.testBit i = false :=
        Nat.testBit_lt_two_pow (hx.trans_le (Nat.pow_le_pow_right (by decide) hi))
      rw [apply_ite (Nat.testBit · i), hout (by rw [Nat.pow_succ]; omega), hout (by rw [Nat.pow_succ]; omega), ite_self]
      simp [Nat.not_lt.2 (Nat.succ_le_of_lt hi)]

theorem bitSum_ne_zero {f : Nat → Bool} {n : Nat} : bitSum f n ≠ 0 ↔ ∃ i, i < n ∧ f i = true := by
  constructor
  · intro h
    obtain ⟨i, hi⟩ := Nat.exists_testBit_of_ne_zero h
    rw [testBit_bitSum, Bool.and_eq_true, decide_eq_true_eq] at hi
    exact ⟨i, hi⟩
  · rintro ⟨i, hi, hf⟩ h0
    have := testBit_bitSum f n i
    simp [h0, hi, hf] at this

theorem bitSum_full {f : Nat → Bool} {n : Nat} : bitSum f n + 1 = 2 ^ n ↔ ∀ i, i < n → f i = true := by
  have hpos := Nat.two_pow_pos n
  constructor
  · intro h i hi
    have hbit := testBit_bitSum f n i
    rw [show bitSum f n = 2 ^ n - 1 by omega, Nat.testBit_two_pow_sub_one] at hbit
    simpa [hi] using hbit.symm
  · intro h
    have heq : bitSum f n = 2 ^ n - 1 := by
      refine Nat.eq_of_testBit_eq fun i => ?_
      rw [testBit_bitSum, Nat.testBit_two_pow_sub_one]
      by_cases hi : i < n
      · simp [hi, h i hi]
      · simp [hi]
    omega

theorem waitMet_iff (t : Slot) (w : WaitState) : waitMet t w = true ↔ if w.any then ∃ i, i < w.conds.length ∧ condHolds t w i = true
    else ∀ i, i < w.conds.length → condHolds t w i = true := by
  have hheld : heldBits t w = bitSum (condHolds t w) w.conds.length := rfl
  unfold waitMet
  rw [hheld]
  split
  · exact decide_eq_true_iff.trans bitSum_ne_zero
  · exact decide_eq_true_iff.trans bitSum_full

theorem getLsbD_heldBits (t : Slot) (w : WaitState) (h : w.conds.length ≤ 64) (i : Nat) :
    (word (heldBits t w)).getLsbD i = (decide (i < w.conds.length) && condHolds t w i) := by
  have hheld : heldBits t w = bitSum (condHolds t w) w.conds.length := rfl
  rw [hheld, word, BitVec.getLsbD_ofNat, testBit_bitSum]
  by_cases hi : i < w.conds.length
  · simp [hi, hi.trans_le h]
  · simp [hi]

/-! ### What a WAIT that returns changes -/

theorem addPending_det (t : Slot) (wd : BitVec 32) (a : GranAccess) : addPending t wd a = { t with det := (addPending t wd a).det } := by
  unfold addPending
  split
  · split
    · dsimp only
      split <;> rfl
    · rfl
  · rfl

/-- The conflict rule of the present slot on its own granules changes its words and pairs alone. -/
def Judged (s t : State) : Prop :=
  t = { s with cur := { s.cur with conflict := t.cur.conflict, owners := t.cur.owners, det := t.cur.det } }

theorem Judged.refl (s : State) : Judged s s := rfl

theorem Judged.trans {s t u : State} (h1 : Judged s t) (h2 : Judged t u) : Judged s u := by
  unfold Judged at *
  rw [h2, h1]

theorem Judged.cur_id {s t : State} (h : Judged s t) : t.cur.id = s.cur.id := by rw [h]

theorem judged_checkGranule {s t : State} {x : BitVec 9} {a : GranAccess} {g : Nat}
    (h : checkGranule s s.cur.id s.cur.id x a g = .ok t) : Judged s t := by
  have hadd {s : State} (wd : BitVec 32) (f : Slot → Slot) (hid : (f s.cur).id = s.cur.id) :
      modSlot (modSlot s s.cur.id f) s.cur.id (fun t => addPending t wd a) = onCur s (fun t => addPending (f t) wd a) := by
    rw [modSlot_cur]
    exact if_pos hid
  unfold checkGranule at h
  rw [slotOf_cur] at h
  dsimp only at h
  split at h
  · cases h
  · split at h
    · cases h
    · obtain rfl := Except.ok.inj h
      rw [hadd _ _ rfl]
      unfold Judged onCur
      dsimp only
      rw [addPending_det]

theorem judged_checkGranules {s t : State} {x : BitVec 9} {a : GranAccess} {addr n : Nat}
    (h : checkGranules s s.cur.id s.cur.id x a addr n = .ok t) : Judged s t := by
  have hfold (gs : List Nat) (u : State) (hu : Judged s u)
      (h : gs.foldlM (fun u g => checkGranule u s.cur.id s.cur.id x a g) u = .ok t) : Judged s t := by
    induction gs generalizing u with
    | nil => obtain rfl := Except.ok.inj h; exact hu
    | cons g gs ih =>
      rw [List.foldlM_cons] at h
      obtain ⟨u', h1, h⟩ := res_bind_eq_ok.1 h
      rw [← hu.cur_id] at h1
      exact ih u' (hu.trans (judged_checkGranule h1)) h
  unfold checkGranules at h
  rw [slotOf_cur] at h
  dsimp only at h
  split at h
  · exact hfold _ s (.refl s) h
  · obtain rfl := Except.ok.inj h; exact .refl s

/-- The step of `waitReads` for one condition. -/
def waitRead (c : SlotId) (w : WaitState) (s : State) (i : Nat) : Res State :=
  match slotOf s c with
  | none => .ok s
  | some t =>
    if condKind (w.conds.getD i 0) = 1 && condHolds t w i
    then checkGranules s c c (slotCode c) (.waiting false) (bits (w.conds.getD i 0) 21 0 / 16 * 16) 16 else .ok s

theorem waitReads_eq (s : State) (c : SlotId) (w : WaitState) :
    waitReads s c w = (List.range w.conds.length).foldlM (waitRead c w) s := rfl

theorem judged_waitReads {s t : State} {w : WaitState} (h : waitReads s s.cur.id w = .ok t) : Judged s t := by
  have hfold (is : List Nat) (u : State) (hu : Judged s u) (h : is.foldlM (waitRead s.cur.id w) u = .ok t) : Judged s t := by
    induction is generalizing u with
    | nil => obtain rfl := Except.ok.inj h; exact hu
    | cons i is ih =>
      rw [List.foldlM_cons] at h
      obtain ⟨u', h1, h⟩ := res_bind_eq_ok.1 h
      rw [← hu.cur_id, waitRead, slotOf_cur] at h1
      refine ih u' (hu.trans ?_) h
      dsimp only at h1
      split at h1
      · exact judged_checkGranules h1
      · obtain rfl := Except.ok.inj h1; exact .refl _
  exact hfold _ s (.refl s) h

theorem waitReads_plain {s : State} {w : WaitState} (h : isDet s.cur = false) : waitReads s s.cur.id w = .ok s := by
  have hread (i : Nat) : waitRead s.cur.id w s i = .ok s := by
    rw [waitRead, slotOf_cur]
    dsimp only
    split
    · rw [checkGranules, slotOf_cur]
      exact if_neg (by simp [h])
    · rfl
  have hfold (is : List Nat) : is.foldlM (waitRead s.cur.id w) s = .ok s := by
    induction is with
    | nil => rfl
    | cons i is ih => rw [List.foldlM_cons, hread, res_ok_bind, ih]
  exact hfold _

/-- What a condition that held acquires: counters, pairs and the L1. -/
def Acquires (s t : State) : Prop := t = { s with cur := { s.cur with q := t.cur.q, det := t.cur.det }, l1 := t.l1 }

theorem Acquires.trans {s t u : State} (h1 : Acquires s t) (h2 : Acquires t u) : Acquires s u := by
  unfold Acquires at *
  rw [h2, h1]

theorem Acquires.cur_id {s t : State} (h : Acquires s t) : t.cur.id = s.cur.id := by rw [h]

theorem acquires_acquireCond (s : State) (w : WaitState) (i : Nat) : Acquires s (acquireCond s s.cur.id w i) := by
  unfold acquireCond
  rw [slotOf_cur]
  dsimp only
  split
  · rfl
  · split
    · rw [modSlot_cur]
      split_ifs <;> rfl
    · unfold scopeInvalidate
      split <;> rfl
    · rfl

theorem acquires_fold (s : State) (w : WaitState) (is : List Nat) :
    Acquires s (is.foldl (fun u i => acquireCond u s.cur.id w i) s) := by
  have hfold (u : State) (hu : Acquires s u) : Acquires s (is.foldl (fun u i => acquireCond u s.cur.id w i) u) := by
    induction is generalizing u with
    | nil => exact hu
    | cons i is ih => exact ih _ (hu.trans (hu.cur_id ▸ acquires_acquireCond u w i))
  exact hfold s rfl

/-- What a WAIT that returns leaves: its destination and the control stream beside what it has acquired. -/
theorem waitFinish_eq {s : State} {w : WaitState} : ∃ u, Acquires s u ∧ waitFinish s s.cur.id w false
    = { u with cur := { setG u.cur w.dest (word (heldBits s.cur w)) with
          wait := none, ctl := { s.cur.ctl with pc := s.cur.ctl.pc + 8, blocked := none, issued := true } } } := by
  have hu := acquires_fold s w (List.range w.conds.length)
  refine ⟨_, hu, ?_⟩
  have hctl : ((List.range w.conds.length).foldl (fun u i => acquireCond u s.cur.id w i) s).cur.ctl = s.cur.ctl := by rw [hu]
  unfold waitFinish
  rw [slotOf_cur]
  dsimp only
  rw [modSlot, if_pos hu.cur_id, hctl]
  rfl

/-! ### WAIT at issue -/

theorem srcGs_length {t : Slot} {fe : Bool} {f : Nat → BitVec 6} {is : List Nat} {xs : List Word}
    (h : is.mapM (fun i => srcG t (f i) fe) = .ok xs) : xs.length = is.length := by
  induction is generalizing xs with
  | nil =>
    rw [List.mapM_nil] at h
    exact congrArg List.length (Except.ok.inj h).symm
  | cons i is ih =>
    rw [List.mapM_cons] at h
    obtain ⟨x, -, h⟩ := res_bind_eq_ok.1 h
    obtain ⟨ys, hys, h⟩ := res_bind_eq_ok.1 h
    rw [← Except.ok.inj h, List.length_cons, List.length_cons, ih hys]

theorem waitWords_length {t : Slot} {o : Opnd} {conds : List Word} (h : waitWords t o = .ok conds) :
    conds.length = o.c.toNat % 4 + 1 := (srcGs_length h).trans List.length_range

/-- The WAIT that an instruction asks for (R300). -/
def waitOf (s : State) (o : Opnd) (conds : List Word) (b : Word) (phases : List (Nat × BitVec 32 × BitVec 3)) : WaitState :=
  { conds, any := o.c.getLsbD 2 && conds.length > 1, acq := o.fn.setWidth 4, scope := o.lvl, t0 := s.cycle / 16
    timeout := b + zx o.imm16, dest := o.d, phases }

section
variable {o : Opnd} {s : State} {conds : List Word} {b : Word} {phases : List (Nat × BitVec 32 × BitVec 3)}
variable (hw : writable s o) (hc : waitWords s.cur o = .ok conds) (hb : srcG s.cur o.b o.feB = .ok b)
  (hp : conds.foldlM (fun acc c => (checkCond s o.feA c).map (fun p => acc ++ p)) [] = .ok phases)
include hw hc hb hp

theorem exec_wait_checked : exec (.wait o) s = issue s o
    (if (o.c.getLsbD 2 && conds.length > 1) && isDet s.cur then
      .error (.fault { code := 0x21, dcheck := 5, dagent := slotCode s.cur.id })
    else if waitMet s.cur (waitOf s o conds b phases) then
      waitReads s s.cur.id (waitOf s o conds b phases) >>= fun s0 =>
        .ok (waitFinish s0 s0.cur.id (waitOf s o conds b phases) false)
    else .ok (onCur s (fun t => { t with
      wait := some (waitOf s o conds b phases), ctl := { t.ctl with blocked := some .waiting, issued := true } }))) := by
  rw [exec_wait, execWait, hc, res_ok_bind, hb, res_ok_bind, hp, res_ok_bind, hw.2, res_ok_bind]
  rfl

theorem exec_wait_any (ha : (o.c.getLsbD 2 && decide (conds.length > 1)) = true) (hd : isDet s.cur = true) :
    exec (.wait o) s = .next (takeFault s (ctlSite s o) { code := 0x21, dcheck := 5, dagent := slotCode s.cur.id } (codeOff s)) := by
  rw [exec_wait_checked hw hc hb hp, if_pos (by rw [ha, hd]; rfl)]
  exact issue_fault hw.1

variable (hany : (o.c.getLsbD 2 && decide (conds.length > 1)) = true → isDet s.cur = false)
include hany

theorem exec_wait_unmet (hm : waitMet s.cur (waitOf s o conds b phases) = false) : exec (.wait o) s = .next
    { s with cur := { s.cur with
        wait := some (waitOf s o conds b phases), ctl := { s.cur.ctl with blocked := some .waiting, issued := true } } } := by
  rw [exec_wait_checked hw hc hb hp, if_neg (by rw [Bool.and_eq_true]; exact fun h => by simp [hany h.1] at h), hm]
  exact issue_ok hw.1

theorem exec_wait_met {s0 : State} (hm : waitMet s.cur (waitOf s o conds b phases) = true)
    (h0 : waitReads s s.cur.id (waitOf s o conds b phases) = .ok s0) :
    exec (.wait o) s = .next (waitFinish s0 s0.cur.id (waitOf s o conds b phases) false) := by
  rw [exec_wait_checked hw hc hb hp, if_neg (by rw [Bool.and_eq_true]; exact fun h => by simp [hany h.1] at h), if_pos hm, h0,
    res_ok_bind]
  exact issue_ok hw.1

end

/-- What a WAIT that returns gives. -/
theorem waitFinish_result {s s0 : State} {w : WaitState} (h : Judged s s0) (hlen : w.conds.length ≤ 64) :
    ∃ r, (waitFinish s0 s0.cur.id w false).cur.ctl.pc = s.cur.ctl.pc + 8
      ∧ (waitFinish s0 s0.cur.id w false).cur.ctl.blocked = none ∧ (waitFinish s0 s0.cur.id w false).cur.wait = none
      ∧ setsG s (waitFinish s0 s0.cur.id w false) [(w.dest, r)]
      ∧ (∀ i, r.getLsbD i = (decide (i < w.conds.length) && condHolds s.cur w i))
      ∧ setsV s (waitFinish s0 s0.cur.id w false) [] ∧ (waitFinish s0 s0.cur.id w false).cur.flags = s.cur.flags
      ∧ sameBytes s (waitFinish s0 s0.cur.id w false) ∧ (waitFinish s0 s0.cur.id w false).rest = s.rest := by
  obtain ⟨u, hu, heq⟩ := waitFinish_eq (s := s0) (w := w)
  have hcur : u.cur = { s0.cur with q := u.cur.q, det := u.cur.det } := congrArg State.cur hu
  have hcur0 : s0.cur = { s.cur with conflict := s0.cur.conflict, owners := s0.cur.owners, det := s0.cur.det } :=
    congrArg State.cur h
  have hheld : heldBits s0.cur w = heldBits s.cur w := by rw [hcur0]; rfl
  have hslot : u.cur = { s.cur with
      q := u.cur.q, det := u.cur.det, conflict := s0.cur.conflict, owners := s0.cur.owners } :=
    hcur.trans (congrArg (fun x : Slot => { x with q := u.cur.q, det := u.cur.det }) hcur0)
  have hmem0 : s0.mem = s.mem := by rw [h]
  have hmem : u.mem = s0.mem := by rw [hu]
  have hrest0 : s0.rest = s.rest := by rw [h]
  have hrest : u.rest = s0.rest := by rw [hu]
  rw [heq, hheld]
  refine ⟨word (heldBits s.cur w), ?_, rfl, rfl, ⟨?_, fun r hr => ?_⟩, fun i => ?_, ⟨fun p hp => absurd hp List.not_mem_nil, fun r _ => ?_⟩, ?_, ⟨fun a => ?_, fun a => ?_⟩, ?_⟩
  · rw [hcur0]
  · intro p hp
    obtain rfl := List.mem_singleton.1 hp
    exact ⟨(gval_setG ..).trans (if_pos rfl), (gIsEmpty_setG ..).trans (if_pos rfl)⟩
  · have hne : r ≠ w.dest := fun h => hr _ (List.mem_singleton.2 rfl) h.symm
    refine ⟨(gval_setG ..).trans ((if_neg hne).trans ?_), (gIsEmpty_setG ..).trans ((if_neg hne).trans ?_)⟩
    · rw [hslot]; rfl
    · rw [hslot]; rfl
  · exact getLsbD_heldBits s.cur w hlen i
  · refine ⟨?_, ?_⟩
    · refine (congrArg (·[r.toNat]) (setG_v ..)).trans ?_
      rw [hslot]; rfl
    · refine (congrArg (·.getLsbD r.toNat) (setG_vEmpty ..)).trans ?_
      rw [hslot]; rfl
  · refine (setG_flags ..).trans ?_
    rw [hslot]
  · rw [memByte, memByte, ← hmem0, ← hmem]
  · rw [bankByte, bankByte]
    refine congrArg (sget 0 · a) ((setG_banks ..).trans ?_)
    rw [hslot]
  · exact hrest.trans hrest0

/-! ### Condition words that fault (R302) -/

theorem waitWords_single {t : Slot} {o : Opnd} {c : Word} (h : o.c.toNat % 4 = 0) (hc : srcG t o.a o.feA = .ok c) :
    waitWords t o = .ok [c] := by
  have hfirst : srcG t (o.a + BitVec.ofNat 6 0) o.feA = .ok c := by rwa [BitVec.add_zero]
  rw [waitWords, h]
  change List.mapM (fun i => srcG t (o.a + BitVec.ofNat 6 i) o.feA) [0] = _
  rw [List.mapM_cons, hfirst]
  rfl

theorem faults_condition {o : Opnd} {s : State} {c b : Word} {code : BitVec 8} {operand : Word} (hp : s.mgmt.powered = true)
    (h : o.c.toNat % 4 = 0) (hc : srcG s.cur o.a o.feA = .ok c) (hb : srcG s.cur o.b o.feB = .ok b)
    (he : checkCond s o.feA c = raise code operand) : faults (.wait o) s o code operand := by
  rw [faults, exec_wait, execWait, waitWords_single h hc, res_ok_bind, hb, res_ok_bind, List.foldlM_cons, he]
  exact issue_fault hp

theorem bits_eq (w : Word) (hi lo : Nat) : bits w hi lo = w.toNat / 2 ^ lo % 2 ^ (hi + 1 - lo) := by
  rw [bits, Nat.shiftRight_eq_div_pow]

theorem condKind_eq (c : Word) : condKind c = c.toNat / 2 ^ 62 := by
  have := c.isLt
  rw [condKind, bits_eq, Nat.mod_eq_of_lt (by omega)]

section
variable {s : State} {trap : Bool} {c : Word}

theorem condMbz_counter (hk : condKind c = 0) : condMbz c = decide (c.toNat / 2 ^ 48 % 2 ^ 10 ≠ 0) := by
  rw [condMbz, hk]
  exact congrArg (fun n => decide (n ≠ 0)) (bits_eq ..)

theorem condMbz_granule (hk : condKind c = 1) : condMbz c = decide (c.toNat / 2 ^ 33 % 2 ^ 29 ≠ 0) := by
  rw [condMbz, hk]
  exact congrArg (fun n => decide (n ≠ 0)) (bits_eq ..)

theorem condMbz_tile (hk : condKind c = 2) : condMbz c = decide (c.toNat / 2 ^ 3 % 2 ^ 59 ≠ 0) := by
  rw [condMbz, hk]
  exact congrArg (fun n => decide (n ≠ 0)) (bits_eq ..)

theorem checkCond_reserved (hm : condMbz c = true) : checkCond s trap c = raise 0x10 := by rw [checkCond, if_pos hm]

theorem checkCond_counter (hk : condKind c = 0) (hm : condMbz c = false) (h : recNctr s.cur.record ≤ (condCounter c).1.toNat) :
    checkCond s trap c = raise 0x0B := by
  rw [checkCond, hm, if_neg Bool.false_ne_true, hk]
  exact if_neg (Nat.not_lt.2 h)

theorem checkCond_granule (hk : condKind c = 1) (hm : condMbz c = false) : checkCond s trap c =
    if c.getLsbD 32 then raise 0x0C (word (bits c 32 0))
    else if ownsBank s.cur (bits c 32 0) then .ok [] else raise 0x08 (word (bits c 32 0)) := by
  rw [checkCond, hm, if_neg Bool.false_ne_true, hk]
  rfl

theorem checkCond_tile (hk : condKind c = 2) (hm : condMbz c = false) (h : (recAmask s.cur.record).getLsbD (bits c 2 0) = false) :
    checkCond s trap c = raise 0x09 := by
  rw [checkCond, hm, if_neg Bool.false_ne_true, hk]
  exact if_neg (by simp [h])

end

/-- Settles O23: what the conditions' bits add up to decides; each condition word is checked first. -/
theorem waiting : Obligations.Waiting := by
  unfold Obligations.Waiting
  refine ⟨fun o s conds b phases hw hc hb hp => ⟨exec_wait_any hw hc hb hp, fun hany => ?_⟩, fun o s c b hp h hc hb => ?_⟩
  · have hlen := waitWords_length hc
    have hmet := waitMet_iff s.cur (waitOf s o conds b phases)
    refine ⟨hlen, waitReads_plain, fun hm s0 h0 => ?_, fun hm => ?_⟩
    · obtain ⟨r, hr⟩ := waitFinish_result (w := waitOf s o conds b phases) (judged_waitReads h0) (by
        change conds.length ≤ 64
        omega)
      exact ⟨_, r, exec_wait_met hw hc hb hp hany (hmet.2 hm) h0, hr⟩
    · exact exec_wait_unmet hw hc hb hp hany (Bool.not_eq_true _ ▸ fun h => hm (hmet.1 h))
  · dsimp only
    have hfault {code : BitVec 8} {operand : Word} (he : checkCond s o.feA c = raise code operand) :=
      faults_condition hp h hc hb he
    have hlow (hbit : c.getLsbD 32 = false) : c.toNat % 2 ^ 33 = c.toNat % 2 ^ 32 := by
      have hz : c.toNat / 2 ^ 32 % 2 = 0 := by
        have := hbit
        rw [BitVec.getLsbD, Nat.testBit_eq_decide_div_mod_eq] at this
        have hne := of_decide_eq_false this
        omega
      omega
    have hgran : bits c 32 0 = c.toNat % 2 ^ 33 := by rw [bits_eq, Nat.pow_zero, Nat.div_one]
    simp only [← condKind_eq]
    refine ⟨fun hk hz => hfault (checkCond_reserved ((condMbz_counter hk).trans (decide_eq_true hz))),
      fun hk hz hn => hfault (checkCond_counter hk ((condMbz_counter hk).trans (decide_eq_false (not_not.2 hz))) ?_),
      fun hk hz => hfault (checkCond_reserved ((condMbz_granule hk).trans (decide_eq_true hz))),
      fun hk hz hbit ho => hfault ?_, fun hk hz hbit => hfault ?_,
      fun hk hz => hfault (checkCond_reserved ((condMbz_tile hk).trans (decide_eq_true hz))),
      fun hk hz ha => hfault (checkCond_tile hk ((condMbz_tile hk).trans (decide_eq_false (not_not.2 hz))) ?_)⟩
    · refine hn.trans_eq ?_
      rw [condCounter, BitVec.extractLsb'_toNat, Nat.shiftRight_eq_div_pow]
    · rw [checkCond_granule hk ((condMbz_granule hk).trans (decide_eq_false (not_not.2 hz))), hgran, hlow hbit, hbit, ho]
      rfl
    · rw [checkCond_granule hk ((condMbz_granule hk).trans (decide_eq_false (not_not.2 hz))), hgran, hbit]
      rfl
    · rw [bits_eq, Nat.pow_zero, Nat.div_one]; exact ha

end Sys2Proof.Machine
end

section
/-! SUPPORT. SUPPORT. Counter publication (R303, R304). -/

namespace Sys2Proof.Machine

/-! ## QPUB and QPUB.OFF (R303, R304) -/

section
variable {o : Opnd} {s : State} {x : Word}

/-- The slot that a publication names. -/
def pubSlot (x : Word) : SlotId := ⟨x.extractLsb' 0 8, x.getLsbD 8⟩

/-- The binding that a publication makes. -/
def pubBinding (o : Opnd) (x : Word) (i : Item) : Binding :=
  { target := pubSlot x, queue := i.queue, ordinal := i.ordinal, index := i.index, q := o.c.setWidth 4, scope := o.lvl
    sent := BitVec.allOnes 64 }

/-- The counters of fields a and c. -/
def srcCounter (o : Opnd) : BitVec 4 := o.a.setWidth 4
def tgtCounter (o : Opnd) : BitVec 4 := o.c.setWidth 4

/-- A counter of a slot changed. -/
def modCounter (q : BitVec 4) (f : Counter → Counter) (t : Slot) : Slot := { t with q := t.q.set q.toNat (f t.q[q.toNat]) }

/-- The state once the named slot's counter is bound. -/
def pubBound (s : State) (o : Opnd) (x : Word) (t : Slot) : State :=
  modSlot s (pubSlot x) (modCounter (tgtCounter o) (fun _ =>
    { t.q[(tgtCounter o).toNat] with boundBy := some (s.cur.id, itemKey s.cur), scope := o.lvl }))

/-- A counter with one binding more, and with one less. -/
def addBinding (b : Binding) (x : Counter) : Counter := { x with bindings := x.bindings ++ [b] }
def dropBinding (b : Binding) (x : Counter) : Counter := { x with bindings := x.bindings.filter (fun y => y ≠ b) }

/-- The decision of a publication whose core and counter are right. -/
def pubResult (s : State) (o : Opnd) (x : Word) : Res State :=
  match slotOf s (pubSlot x) with
  | none => .ok (finishG s o o.d 1)
  | some t =>
    match t.item with
    | none => .ok (finishG s o o.d 1)
    | some i =>
      if t.tenant ≠ s.cur.tenant ∨ t.context ≠ s.cur.context then .ok (finishG s o o.d 2)
      else if s.cur.q[(srcCounter o).toNat].bindings.length ≥ 4 then .ok (finishG s o o.d 3)
      else if recNctr t.record ≤ (tgtCounter o).toNat ∨ t.q[(tgtCounter o).toNat].boundBy.isSome
          ∨ t.q[(tgtCounter o).toNat].issued ≠ 0 then .ok (finishG s o o.d 4)
      else .ok (finishG (onCur (pubBound s o x t) (modCounter (srcCounter o) (addBinding (pubBinding o x i)))) o o.d 0)

theorem pubResult_item {s : State} {o : Opnd} {x : Word} {t : Slot} {i : Item} (ht : slotOf s (pubSlot x) = some t)
    (hi : t.item = some i) : pubResult s o x =
      if t.tenant ≠ s.cur.tenant ∨ t.context ≠ s.cur.context then .ok (finishG s o o.d 2)
      else if s.cur.q[(srcCounter o).toNat].bindings.length ≥ 4 then .ok (finishG s o o.d 3)
      else if recNctr t.record ≤ (tgtCounter o).toNat ∨ t.q[(tgtCounter o).toNat].boundBy.isSome
          ∨ t.q[(tgtCounter o).toNat].issued ≠ 0 then .ok (finishG s o o.d 4)
      else .ok (finishG (onCur (pubBound s o x t) (modCounter (srcCounter o) (addBinding (pubBinding o x i)))) o o.d 0) := by
  rw [pubResult, ht]
  dsimp only
  rw [hi]

/-- A slot whose item a binding names gives the counter free. -/
def unbind (o : Opnd) (b : Binding) (t : Slot) : Slot :=
  if t.item.isSome ∧ itemKey t = (b.queue.toNat, b.ordinal, b.index)
  then modCounter (tgtCounter o) (fun x => { x with boundBy := none }) t else t

/-- The state after QPUB.OFF. -/
def offResult (s : State) (o : Opnd) (c : SlotId) : Res State :=
  match s.cur.q[(srcCounter o).toNat].bindings.find? (boundTo s c (tgtCounter o)) with
  | none => .ok (finishG s o o.d 1)
  | some b => .ok (finishG (mapItems (onCur s (modCounter (srcCounter o) (dropBinding b))) (unbind o b)) o o.d 0)

theorem qpub_no_core (hw : writable s o) (hx : srcG s.cur o.b o.feB = .ok x) (hc : coreKind (pubSlot x).core = none) :
    faults (.qpub o) s o 0x0D ∧ faults (.qpubOff o) s o 0x0D := by
  have hnone : (coreKind (x.extractLsb' 0 8)).isNone = true := by rw [show coreKind (x.extractLsb' 0 8) = none from hc]; rfl
  rw [faults, faults, exec_qpub, execQpub, exec_qpubOff, execQpubOff, hx, res_ok_bind, hw.2, res_ok_bind]
  dsimp only
  rw [if_pos hnone, res_ok_bind, if_pos hnone]
  exact ⟨issue_fault hw.1, issue_fault hw.1⟩

variable (hw : writable s o) (hx : srcG s.cur o.b o.feB = .ok x) (hc : (coreKind (pubSlot x).core).isSome = true)
include hw hx hc

theorem qpub_no_counter (ha : recNctr s.cur.record ≤ o.a.toNat) : faults (.qpub o) s o 0x0B ∧ faults (.qpubOff o) s o 0x0B := by
  have hsome : ¬ (coreKind (x.extractLsb' 0 8)).isNone = true := by
    rw [Option.isNone_iff_eq_none]
    exact fun h => by rw [pubSlot, h] at hc; cases hc
  rw [faults, faults, exec_qpub, execQpub, exec_qpubOff, execQpubOff, hx, res_ok_bind, hw.2, res_ok_bind]
  dsimp only
  rw [if_neg hsome, if_pos ha, res_ok_bind, if_neg hsome, if_pos ha]
  exact ⟨issue_fault hw.1, issue_fault hw.1⟩

variable (ha : o.a.toNat < recNctr s.cur.record)
include ha

theorem exec_qpub_checked : exec (.qpub o) s = issue s o (pubResult s o x) := by
  have hsome : ¬ (coreKind (x.extractLsb' 0 8)).isNone = true := by
    rw [Option.isNone_iff_eq_none]
    exact fun h => by rw [pubSlot, h] at hc; cases hc
  rw [exec_qpub, execQpub, hx, res_ok_bind, hw.2, res_ok_bind]
  dsimp only
  rw [if_neg hsome, if_neg (Nat.not_le.2 ha)]
  rfl

theorem exec_qpubOff_checked : exec (.qpubOff o) s = issue s o (offResult s o (pubSlot x)) := by
  have hsome : ¬ (coreKind (x.extractLsb' 0 8)).isNone = true := by
    rw [Option.isNone_iff_eq_none]
    exact fun h => by rw [pubSlot, h] at hc; cases hc
  rw [exec_qpubOff, execQpubOff, hx, res_ok_bind, hw.2, res_ok_bind]
  dsimp only
  rw [if_neg hsome, if_neg (Nat.not_le.2 ha)]
  rfl

theorem qpub_refused {n : Word} (h : pubResult s o x = .ok (finishG s o o.d n)) : writes1 (.qpub o) s o o.d n := by
  refine ⟨_, ?_, wrote_finishG s o o.d n 0 1⟩
  rw [exec_qpub_checked hw hx hc ha, h]
  exact issue_ok hw.1

end

/-- Settles O24: the checks in their order, and the binding. -/
theorem counterPublication : Obligations.CounterPublication := by
  unfold Obligations.CounterPublication
  intro o s x hw hx
  dsimp only
  refine ⟨qpub_no_core hw hx, fun hc ha => qpub_no_counter hw hx hc ha, fun hc ha => ⟨fun hi => qpub_refused hw hx hc ha ?_,
    fun t i ht hi => ⟨fun hne => qpub_refused hw hx hc ha ?_, fun htn hcx => ⟨fun hfull => qpub_refused hw hx hc ha ?_,
      fun hroom hused => qpub_refused hw hx hc ha ?_, fun hroom hfree => ?_⟩⟩, fun hnone => ?_, fun b hb => ?_⟩⟩
  · unfold pubResult
    cases ht : slotOf s (pubSlot x) with
    | none => rfl
    | some t =>
      have hitem : t.item = none := by
        have hi : (slotOf s (pubSlot x)).bind (fun t => t.item) = none := hi
        rwa [ht] at hi
      dsimp only
      rw [hitem]
  · rw [pubResult_item ht hi, if_pos hne]
  · have hfull : s.cur.q[(srcCounter o).toNat].bindings.length ≥ 4 := hfull
    rw [pubResult_item ht hi, if_neg (by simp [htn, hcx]), if_pos hfull]
  · have hroom : ¬ s.cur.q[(srcCounter o).toNat].bindings.length ≥ 4 := Nat.not_le.2 hroom
    rw [pubResult_item ht hi, if_neg (by simp [htn, hcx]), if_neg hroom]
    exact if_pos hused
  · have hroom : ¬ s.cur.q[(srcCounter o).toNat].bindings.length ≥ 4 := Nat.not_le.2 hroom
    rw [exec_qpub_checked hw hx hc ha, pubResult_item ht hi, if_neg (by simp [htn, hcx]), if_neg hroom]
    refine (congrArg (issue s o) (if_neg hfree)).trans ((issue_ok hw.1).trans (congrArg _ (finishG_onCur _ _ rfl)))
  · refine ⟨_, ?_, wrote_finishG s o o.d 1 0 1⟩
    rw [exec_qpubOff_checked hw hx hc ha, offResult]
    have hnone : s.cur.q[(srcCounter o).toNat].bindings.find? (boundTo s (pubSlot x) (tgtCounter o)) = none := hnone
    rw [hnone]
    exact issue_ok hw.1
  · rw [exec_qpubOff_checked hw hx hc ha, offResult]
    have hb : s.cur.q[(srcCounter o).toNat].bindings.find? (boundTo s (pubSlot x) (tgtCounter o)) = some b := hb
    rw [hb]
    exact (issue_ok hw.1).trans (congrArg _ (finishG_eq_wentOn ..))

end Sys2Proof.Machine
end

section
/-! SUPPORT. SUPPORT. Barrier objects (R221, R222, R306). -/

namespace Sys2Proof.Machine

theorem issue_hold {s : State} {o : Opnd} (h : s.mgmt.powered = true) : issue s o (.error .hold) = .next (holdCtl s) := by
  simp [issue, h]

/-! ## Barrier objects: BARARR and BAREXP (R221, R222, R306) -/

theorem leNat_lt (bs : List Byte) : leNat bs < 2 ^ (8 * bs.length) := by
  induction bs with
  | nil => exact Nat.one_pos
  | cons b bs ih =>
    have hb := b.isLt
    rw [leNat, List.length_cons, Nat.mul_add, Nat.pow_add]
    omega

theorem memNat_lt (s : State) (a n : Nat) : memNat s a n < 2 ^ (8 * n) := by
  rw [memNat, readMem_eq_map]
  exact (leNat_lt _).trans_eq (by rw [List.length_map, List.length_range])

/-- What memory holds once a number is stored. -/
theorem memNat_of_stores {s t : State} {pa n w : Nat} (h : storesMemory s t pa (bytesOf n w)) :
    memNat t pa n = w % 2 ^ (8 * n) := by
  have hlen := Laws.bytesOf_length n w
  have hbytes : readMem t pa n = bytesOf n w := by
    rw [readMem_eq_map]
    refine List.ext_getElem (by rw [List.length_map, List.length_range, hlen]) fun i hi _ => ?_
    rw [List.length_map, List.length_range] at hi
    rw [List.getElem_map, List.getElem_range, h.2.1 i (by omega), List.getD_eq_getElem _ _ (by omega)]
  rw [memNat, hbytes, leNat_bytesOf]

theorem toBits_readInt (x : Nat) : toBits 32 (readInt true 32 x) = x % 2 ^ 32 := by
  unfold toBits readInt
  simp only [Bool.true_and, decide_eq_true_eq]
  split
  · rw [Int.sub_emod_right]
    omega
  · omega

theorem readInt_range (x : Nat) : intMin true 32 ≤ readInt true 32 x ∧ readInt true 32 x ≤ intMax true 32 := by
  unfold readInt intMin intMax
  dsimp only
  simp only [Bool.true_and, decide_eq_true_eq, if_true]
  split <;> omega

theorem readInt_eq_zero (x : Nat) : readInt true 32 x = 0 ↔ x % 2 ^ 32 = 0 := by
  unfold readInt
  simp only [Bool.true_and, decide_eq_true_eq]
  split <;> omega

/-- The fields of a barrier object (R221). -/
def barPhase (v : Nat) : Nat := v / 2 ^ 96
def barExpect (v : Nat) : Nat := v / 2 ^ 80 % 2 ^ 16
def barArrive (v : Nat) : Nat := v / 2 ^ 64 % 2 ^ 16
def barTxn (v : Nat) : Nat := v / 2 ^ 32 % 2 ^ 32
def barScope (v : Nat) : Nat := v / 2 ^ 4 % 8
def barMalformed (v : Nat) : Prop := v / 2 ^ 7 % 2 ^ 25 ≠ 0 ∨ v % 16 ≠ 0 ∨ barExpect v = 0 ∨ 6 ≤ barScope v

/-- An object after an arrival. -/
def barArrived (v : Nat) : Nat :=
  if barArrive v = 1 ∧ barTxn v = 0 then
    (barPhase v + 1) % 2 ^ 32 * 2 ^ 96 + barExpect v * 2 ^ 80 + barExpect v * 2 ^ 64 + barScope v * 2 ^ 4
  else barPhase v * 2 ^ 96 + barExpect v * 2 ^ 80 + (barArrive v - 1) * 2 ^ 64 + barTxn v * 2 ^ 32 + barScope v * 2 ^ 4

theorem barArrived_done {v : Nat} (h : barArrive v = 1 ∧ barTxn v = 0) : barArrived v =
    (barPhase v + 1) % 2 ^ 32 * 2 ^ 96 + barExpect v * 2 ^ 80 + barExpect v * 2 ^ 64 + barTxn v * 2 ^ 32 + barScope v * 16 := by
  rw [barArrived, if_pos h, h.2]
  omega

theorem barArrived_open {v : Nat} (h : ¬ (barArrive v = 1 ∧ barTxn v = 0)) (hlt : v < 2 ^ 128) : barArrived v =
    barPhase v % 2 ^ 32 * 2 ^ 96 + barExpect v * 2 ^ 80 + (barArrive v - 1) * 2 ^ 64 + barTxn v * 2 ^ 32 + barScope v * 16 := by
  have hphase : barPhase v % 2 ^ 32 = barPhase v := Nat.mod_eq_of_lt (by unfold barPhase; omega)
  rw [barArrived, if_neg h, hphase]
  omega

theorem barArrived_lt {v : Nat} (h : v < 2 ^ 128) : barArrived v < 2 ^ 128 := by
  unfold barArrived barPhase barExpect barArrive barTxn barScope
  split <;> omega

/-- The waits on an object that learn of its phase. -/
def signalWait (addr : Nat) (t : Slot) : Slot :=
  { t with wait := t.wait.map (fun w => if w.phases.any (fun p => p.1 = addr) then { w with signalled := true } else w) }

theorem epochLaunches_eq_nil {s : State} {addr : Nat}
    (h : ∀ p ∈ s.queues, ∀ l ∈ p.2.launches, recDet l.record = true → recEbar l.record = 0) : epochLaunches s addr = [] := by
  unfold epochLaunches
  rw [List.flatMap_eq_nil_iff]
  intro p hp
  rw [List.map_eq_nil_iff, List.filter_eq_nil_iff]
  intro l hl hcond
  simp only [Bool.and_eq_true, decide_eq_true_eq] at hcond
  exact hcond.1.2 (h p hp l hl hcond.1.1)

section
variable {s : State} {pa : Nat}

theorem barrierUpdate_malformed (h : barMalformed (memNat s pa 16)) : barrierUpdate s pa true 0 = .error 0x11 := if_pos h

variable (hm : ¬ barMalformed (memNat s pa 16))
include hm

theorem barrierUpdate_used (h : barArrive (memNat s pa 16) = 0) : barrierUpdate s pa true 0 = .error 0x12 :=
  (if_neg hm).trans (if_pos (Or.inl ⟨rfl, h⟩))

/-- An arrival at a well-formed object stores the object anew, and nothing else but the state of waits differs. -/
theorem barrierUpdate_arrives (h : 0 < barArrive (memNat s pa 16))
    (he : ∀ p ∈ s.queues, ∀ l ∈ p.2.launches, recDet l.record = true → recEbar l.record = 0) :
    ∃ u : State, barrierUpdate s pa true 0 = .ok (u, BitVec.ofNat 32 (barPhase (memNat s pa 16)))
      ∧ u.mem = (homeWrite s pa (bytesOf 16 (barArrived (memNat s pa 16)))).1.mem
      ∧ ∃ w, u.cur = { s.cur with wait := w } := by
  generalize hv : memNat s pa 16 = v at hm h
  have hlt : v < 2 ^ 128 := hv ▸ memNat_lt s pa 16
  have hrange := readInt_range (v / 2 ^ 32)
  have hcount : ¬ ((true = true ∧ barArrive v = 0) ∨ readInt true 32 (v / 2 ^ 32) + 0 < intMin true 32
      ∨ intMax true 32 < readInt true 32 (v / 2 ^ 32) + 0) := by
    omega
  have hzero : readInt true 32 (v / 2 ^ 32) + 0 = 0 ↔ barTxn v = 0 := by rw [Int.add_zero]; exact readInt_eq_zero _
  have hbits : toBits 32 (readInt true 32 (v / 2 ^ 32) + 0) = barTxn v := by rw [Int.add_zero]; exact toBits_readInt _
  have hqueues (bs : List Byte) : (homeWrite s pa bs).1.queues = s.queues :=
    (storesMemory_homeWrite (.refl s) s.cur pa bs false).1.queues
  have hnil (bs : List Byte) : epochLaunches (homeWrite s pa bs).1 pa = [] :=
    epochLaunches_eq_nil (by rwa [hqueues])
  unfold barrierUpdate
  dsimp only
  rw [hv]
  by_cases hdone : barArrive v = 1 ∧ barTxn v = 0
  · have hcond : barArrive v - 1 = 0 ∧ readInt true 32 (v / 2 ^ 32) + 0 = 0 := ⟨by omega, hzero.2 hdone.2⟩
    refine ⟨_, (if_neg hm).trans ((if_neg hcount).trans (if_pos hcond)), ?_⟩
    rw [hnil, barArrived_done hdone, hbits]
    exact ⟨rfl, _, congrArg (signalWait pa) (homeWrite_cur ..)⟩
  · have hcond : ¬ (barArrive v - 1 = 0 ∧ readInt true 32 (v / 2 ^ 32) + 0 = 0) :=
      fun hc => hdone ⟨by omega, hzero.1 hc.2⟩
    refine ⟨_, (if_neg hm).trans ((if_neg hcount).trans (if_neg hcond)), ?_⟩
    rw [barArrived_open hdone hlt, hbits]
    exact ⟨rfl, _, homeWrite_cur ..⟩

end

section
variable {o : Opnd} {s : State} {pa : Nat} {reg : Word} (hp : s.mgmt.powered = true) (hplace : barrierPlace s o = .ok (pa, reg))
  (hn : needReleased s (dieOf s.cur.id.core) [pa / 128] = .ok ())
include hplace

include hp in
theorem exec_bararr_pending (h : updatesPending s s.cur = true) (hd : dstG s.cur o.d = .ok ()) :
    exec (.bararr o) s = .next (blockCtl s .updates) := by
  rw [exec_bararr, execBararr, hplace, res_ok_bind, hd, res_ok_bind, performed_of_pending h]
  exact issue_block hp

include hn

/-- An arrival is judged at the home of its object and then performed there. -/
theorem exec_bararr_eq (hd : dstG s.cur o.d = .ok ()) (hu : updatesPending s s.cur = false) :
    exec (.bararr o) s = issue s o (if admitMem s s.cur pa rightAtomic false = false then raise 0x25 reg
      else if poisoned s pa 16 then raise 0x2F
      else match barrierUpdate s pa true 0 with
        | .error c => raise c
        | .ok (s', phase) => .ok (finishG s' o o.d (zx phase))) := by
  rw [exec_bararr, execBararr, hplace, res_ok_bind, hd, res_ok_bind, performed_of_none hu, res_ok_bind, hn, res_ok_bind]
  simp only [Bool.not_eq_true']
  rfl

/-- BAREXP only sends its update. -/
theorem exec_barexp_sends {x : Word} (hx : srcG s.cur o.d o.feD = .ok x) :
    let u : BarrierUpdate := { issuer := refOf s.cur 0, addr := pa, delta := (x.setWidth 32).toInt, source := 0,
                               coff := (ctlSite s o).coff, len := (ctlSite s o).len, sent := s.cycle,
                               offset := reg.toNat, tenant := s.cur.tenant, context := s.cur.context }
    exec (.barexp o) s = issue s o (if 64 ≤ (sourceUpdates s u).length then .error .hold
      else .ok (advance (sendUpdate s u) o)) := by
  rw [exec_barexp, execBarexp, hx, res_ok_bind, hplace, res_ok_bind]
  dsimp only
  rw [hn, res_ok_bind]
  rfl

end

/-- Settles O25: an arrival is judged and performed at the home of the object, and an update is sent. -/
theorem barrierObjects : Obligations.BarrierObjects := by
  unfold Obligations.BarrierObjects
  intro o s pa reg hp hplace
  dsimp only
  refine fun hn => ⟨fun hd hu => ?_, fun hu hd => exec_bararr_pending hp hplace hu hd, fun x hx => ?_⟩
  · have hexec := exec_bararr_eq hplace hn hd hu
    refine ⟨fun ha => ?_, fun ha hg => ⟨fun hm => ?_, fun hm h0 => ?_, fun hm h0 he => ?_⟩⟩
    · rw [faults, hexec, if_pos ha]
      exact issue_fault hp
    all_goals rw [if_neg (by simp [ha]), if_neg (by simp [hg])] at hexec
    · rw [faults, hexec, barrierUpdate_malformed hm]
      exact issue_fault hp
    · rw [faults, hexec, barrierUpdate_used hm h0]
      exact issue_fault hp
    · obtain ⟨u, hupdate, hmem, w, hcur⟩ := barrierUpdate_arrives hm h0 he
      rw [hupdate] at hexec
      obtain ⟨-, hstores⟩ := storesMemory_homeWrite (.refl s) s.cur pa (bytesOf 16 (barArrived (memNat s pa 16))) false
      have hphase : zx (BitVec.ofNat 32 (barPhase (memNat s pa 16))) = word (barPhase (memNat s pa 16)) := by
        refine BitVec.eq_of_toNat_eq ?_
        have hlt : barPhase (memNat s pa 16) < 2 ^ 32 := Nat.div_lt_of_lt_mul (memNat_lt s pa 16)
        simp only [zx, word, BitVec.toNat_setWidth, BitVec.toNat_ofNat]
        omega
      have hexec := hexec.trans ((issue_ok hp).trans (congrArg (fun x => Host.Outcome.next (finishG u o o.d x)) hphase))
      obtain ⟨hctl, -, hsetsG, hsetsV, hflags, -, -, -⟩ := wrote_finishG u o o.d (word (barPhase (memNat s pa 16))) 0 1
      rw [hcur] at hctl hflags
      rw [setsG, hcur] at hsetsG
      rw [setsV, hcur] at hsetsV
      refine ⟨_, hexec, hctl, hsetsG, hsetsV, hflags.trans BitVec.or_zero, ?_, fun a ha hs => ?_, ?_⟩
      · refine (congrArg (fun m => leNat (sgetRange 0 m pa 16)) hmem).trans ((memNat_of_stores hstores).trans ?_)
        exact Nat.mod_eq_of_lt (barArrived_lt (memNat_lt s pa 16))
      · refine (congrArg (fun m => sget 0 m a) hmem).trans (hstores.2.2 a ?_ hs)
        rwa [Laws.bytesOf_length]
      · rw [finishG_eq_wentOn, wentOn, setG_banks, hcur]
  · have hsource (y : BarrierUpdate) : sameSource y (refOf s.cur 0) 0 0 =
        (sameItem y.issuer (refOf s.cur 0) && decide (y.source = 0)) := by
      simp [sameSource]
    rw [exec_barexp_sends hplace hn hx, sendUpdate, sourceUpdates]
    dsimp only
    rw [List.filter_congr fun y _ => hsource y]
    refine ⟨fun hroom => ?_, fun hfull => ?_⟩
    · rw [if_neg (Nat.not_le.2 hroom)]
      refine (issue_ok hp).trans (congrArg _ ?_)
      rw [← List.getLast?_map]
      rfl
    · rw [if_pos hfull]
      exact issue_hold hp

end Sys2Proof.Machine
end

section
/-! SUPPORT. SUPPORT. GATHER at issue, and what engine operations share there (R71, R307, R308). -/

namespace Sys2Proof.Machine

/-! ## Local addresses, counters and engine operations at issue -/

/-- A register below 4 MiB is the local scratchpad address that it holds. -/
theorem localAddr_of_lt {B : Word} {align : Nat} (h : B.toNat < 2 ^ 22) (ha : B.toNat % align = 0) :
    localAddr B align = .ok B.toNat := by
  have hbit : B.getLsbD 32 = false := Nat.testBit_lt_two_pow (h.trans (by decide))
  have hhigh : ¬ bits B 63 22 ≠ 0 := by rw [bits_eq]; omega
  have hlow : bits B 21 0 = B.toNat := by rw [bits_eq]; omega
  have hparse : parseScratch B = .ok (none, B.toNat) := by rw [parseScratch, hbit, if_neg Bool.false_ne_true, if_neg hhigh, hlow]
  rw [localAddr, hparse]
  exact if_pos ha

theorem checkCounter_ok {t : Slot} {c : BitVec 6} (hc : c.toNat < recNctr t.record) (hb : t.q[(c.setWidth 4).toNat].boundBy = none) :
    checkCounter t c = .ok (c.setWidth 4) := by
  rw [checkCounter, if_pos (by rw [hb]; simp [hc])]

theorem checkCounter_outside {t : Slot} {c : BitVec 6} (hc : recNctr t.record ≤ c.toNat) : checkCounter t c = raise 0x0B := by
  rw [checkCounter, if_neg (by simp [hc])]

theorem pushOp_some (t : Slot) (q : BitVec 4) (op : Op) : pushOp t (some q) op = withOp t q op := rfl

/-- An operation whose footprint becomes empty or full at issue. -/
theorem pushOp_setGranules (t : Slot) (a n : Nat) (full : Bool) (q : BitVec 4) (op : Op) :
    pushOp (setGranules t a n full) (some q) op = { withOp t q op with empty := (setGranules t a n full).empty } := by
  rw [pushOp_some, setGranules_eq]
  rfl

/-- The granules of a footprint become empty, and no other changes. -/
theorem granuleFull_emptied (t : Slot) {d foot : Nat} (hd : d % 16 = 0) (hf : foot % 16 = 0) (g : Nat) :
    granuleFull (setGranules t d foot false) g = (granuleFull t g && !(decide (d / 16 ≤ g) && decide (g < (d + foot) / 16))) := by
  have hmem : g ∈ granulesOf d foot ↔ d / 16 ≤ g ∧ g < (d + foot) / 16 := by
    rw [mem_granulesOf]
    omega
  rw [granuleFull_setGranules]
  by_cases h : d / 16 ≤ g ∧ g < (d + foot) / 16
  · rw [if_pos (hmem.2 h), decide_eq_true h.1, decide_eq_true h.2]
    simp
  · rw [if_neg (mt hmem.1 h)]
    rw [not_and_or] at h
    rcases h with h | h <;> simp [h]

/-- The operation of a GATHER. -/
def gatherOp (s : State) (o : Opnd) (d i : Nat) (h : Capture) : Op :=
  { id := 0, source := 3, coff := (ctlSite s o).coff, work := .gather d i h (2 ^ o.fn.toNat) o.imm16.toNat [] [] [] }

/-- The footprint of a GATHER. -/
def gatherFoot (o : Opnd) : Nat := (o.imm16.toNat * 2 ^ o.fn.toNat + 15) / 16 * 16

/-- A GATHER whose operands are settled is its checks and its operation. -/
theorem exec_gather_eq {o : Opnd} {s : State} {dst idx : Word} {h : Capture} (hdst : srcG s.cur o.d o.feD = .ok dst)
    (hidx : srcG s.cur o.b o.feB = .ok idx) (hh : useHandle s.cur (o.a.setWidth 4) o.feA = .ok h) (hd : dst.toNat < 2 ^ 22)
    (hi : idx.toNat < 2 ^ 22) (hd16 : dst.toNat % 16 = 0) (hi4 : idx.toNat % 4 = 0) : exec (.gather o) s = issue s o
      (if dst.toNat < idx.toNat + 4 * o.imm16.toNat ∧ idx.toNat < dst.toNat + gatherFoot o then raise 0x04
        else do
          let q ← checkCounter s.cur o.c
          if !ownsRange s.cur dst.toNat (gatherFoot o) then raise 0x08 dst
          else if !ownsRange s.cur idx.toNat (4 * o.imm16.toNat) then raise 0x08 idx
          else .ok (advance (onCur s (fun t => pushOp (setGranules t dst.toNat (gatherFoot o) false) (some q)
            (gatherOp s o dst.toNat idx.toNat h))) o)) := by
  rw [exec_gather, execGather, hdst, res_ok_bind, hidx, res_ok_bind, hh, res_ok_bind]
  dsimp only
  rw [localAddr_of_lt hd hd16, res_ok_bind, localAddr_of_lt hi hi4]
  rfl

/-- Settles O26: the checks, the emptied granules and the operation. -/
theorem gatherIsIssued : Obligations.GatherIsIssued := by
  unfold Obligations.GatherIsIssued
  intro o s dst idx h hp hdst hidx hh
  dsimp only
  intro hd hi hd16 hi4
  have hexec := exec_gather_eq hdst hidx hh hd hi hd16 hi4
  refine ⟨fun h1 h2 => ?_, fun hover => ?_⟩
  · rw [faults, hexec, if_pos ⟨h1, h2⟩]
    exact issue_fault hp
  have hover : ¬ (dst.toNat < idx.toNat + 4 * o.imm16.toNat ∧ idx.toNat < dst.toNat + gatherFoot o) := hover
  rw [if_neg hover] at hexec
  refine ⟨fun hc => ?_, fun hc _ hb => ?_⟩
  · rw [faults, hexec, checkCounter_outside hc]
    exact issue_fault hp
  rw [checkCounter_ok hc hb, res_ok_bind] at hexec
  refine ⟨fun ho => ?_, fun ho hoi => ?_, fun ho hoi => ⟨?_, fun g => ?_⟩⟩
  · have ho : (!ownsRange s.cur dst.toNat (gatherFoot o)) = true := by rw [Bool.not_eq_true']; exact ho
    rw [faults, hexec, if_pos ho]
    exact issue_fault hp
  · have ho : ¬ (!ownsRange s.cur dst.toNat (gatherFoot o)) = true := fun hn => by simp_all [gatherFoot]
    rw [faults, hexec, if_neg ho, if_pos (by rw [Bool.not_eq_true']; exact hoi)]
    exact issue_fault hp
  · have ho : ¬ (!ownsRange s.cur dst.toNat (gatherFoot o)) = true := fun hn => by simp_all [gatherFoot]
    rw [if_neg ho, if_neg (by simp [hoi])] at hexec
    refine hexec.trans ((issue_ok hp).trans (congrArg _ ?_))
    have hctl := congrArg Slot.ctl (setGranules_eq s.cur dst.toNat (gatherFoot o) false)
    rw [advance_onCur (f := fun t => pushOp (setGranules t dst.toNat (gatherFoot o) false) (some (o.c.setWidth 4)) _) hctl,
      pushOp_setGranules]
    rfl
  · exact granuleFull_emptied s.cur hd16 (foot := gatherFoot o) (Nat.mul_mod_left ..) g

end Sys2Proof.Machine
end

section
/-! SUPPORT. SUPPORT. LAUNCH and the decision of the intake (R200, R268, R400, R420). -/

namespace Sys2Proof.Machine

/-! ## LAUNCH (R200, R268, R400, R420) -/

section
variable (s : State) (r : BitVec 2048)

/-- The pinned ranges of a record's code, window and areas, where its context maps them (R200, R420). -/
def codePins : Option (List Pin) :=
  pinPages s (recTenant r) (recContext r) (recCodeva r) (pagesOf (recCodeva r) (recCodelen r))
    (fun l => l.perm.getLsbD 3 && !l.perm.getLsbD 1)
def windowPin : Option Pin :=
  pinContiguous s (recTenant r) (recContext r) (recDwin r) (recDwlen r * 2 ^ 16) (plainLeaf 0)
def spillPin : Option Pin :=
  pinContiguous s (recTenant r) (recContext r) (recMspill r) (recDwlen r * 2048) (plainLeaf 3)
def donePins : Option (List Pin) := pinPages s (recTenant r) (recContext r) (recDone r) 1 (plainLeaf 2)
def tracePins : Option (List Pin) :=
  pinPages s (recTenant r) (recContext r) (recTrace r) (pagesOf (recTrace r) (recTrlen r))
    (plainLeaf (if recTrrec r then 2 else 1))

/-- The window with its spill area: none needed, both on one die, or refused. -/
def windowChecked : Option (List Pin) :=
  if recDet r then
    (match windowPin s r, spillPin s r with
     | some w, some m => if homeDie w.pa = homeDie m.pa then some [w, m] else none
     | _, _ => none)
  else some []

/-- The completion record, and the trace. -/
def doneChecked : Option (List Pin) :=
  if recDone r = 0 then some [] else if recDone r % 64 ≠ 0 then none else donePins s r
def traceChecked : Option (List Pin) :=
  if recTrrec r || recTrbind r then (if recTrlen r < 64 + 8 * recTotal r then none else tracePins s r) else some []

/-- The checks of R200 and R420 once no walk waits. -/
def pinDecision : PinResult :=
  match codePins s r with
  | none => .refused 2
  | some code =>
    if sha3 (pinRead s code (recCodeva r) (recCodelen r)) ≠ r.extractLsb' 0 256 then .refused 2
    else
      match windowChecked s r with
      | none => .refused 3
      | some win =>
        match doneChecked s r, traceChecked s r with
        | some d, some x => if recTrbind r && !traceOk s x r then .refused 6 else .pins (code ++ win ++ d ++ x)
        | _, _ => .refused 5

variable {s r}

theorem checkPins_of_settled (h : checkPins s r ≠ .waits) : checkPins s r = pinDecision s r := by
  unfold checkPins at h ⊢
  dsimp only at h ⊢
  split at h
  · exact absurd rfl h
  · next hw =>
    rw [if_neg hw]
    rfl

variable (h : checkPins s r ≠ .waits)
include h

theorem checkPins_no_code (hc : codePins s r = none) : checkPins s r = .refused 2 := by
  rw [checkPins_of_settled h, pinDecision, hc]

variable {code : List Pin} (hc : codePins s r = some code)
include hc

theorem checkPins_digest (hd : sha3 (pinRead s code (recCodeva r) (recCodelen r)) ≠ r.extractLsb' 0 256) :
    checkPins s r = .refused 2 := by
  rw [checkPins_of_settled h, pinDecision, hc]
  exact if_pos hd

variable (hd : sha3 (pinRead s code (recCodeva r) (recCodelen r)) = r.extractLsb' 0 256)
include hd

theorem checkPins_no_window (hw : windowChecked s r = none) : checkPins s r = .refused 3 := by
  rw [checkPins_of_settled h, pinDecision, hc]
  refine (if_neg (not_not.2 hd)).trans ?_
  rw [hw]

variable {win : List Pin} (hw : windowChecked s r = some win)
include hw

theorem checkPins_no_area (ha : doneChecked s r = none ∨ traceChecked s r = none) : checkPins s r = .refused 5 := by
  rw [checkPins_of_settled h, pinDecision, hc]
  refine (if_neg (not_not.2 hd)).trans ?_
  rw [hw]
  dsimp only
  rcases ha with ha | ha
  · rw [ha]
  · rw [ha]
    cases doneChecked s r <;> rfl

theorem checkPins_bad_trace {d x : List Pin} (hdone : doneChecked s r = some d) (htrace : traceChecked s r = some x)
    (hb : recTrbind r = true) (hx : traceOk s x r = false) : checkPins s r = .refused 6 := by
  rw [checkPins_of_settled h, pinDecision, hc]
  refine (if_neg (not_not.2 hd)).trans ?_
  rw [hw]
  dsimp only
  rw [hdone, htrace]
  exact if_pos (by rw [hb, hx]; rfl)

end

theorem windowChecked_isSome {s : State} {r : BitVec 2048} : (∃ win, windowChecked s r = some win) ↔
    (recDet r = true → ∃ w m, windowPin s r = some w ∧ spillPin s r = some m ∧ homeDie w.pa = homeDie m.pa) := by
  unfold windowChecked
  cases recDet r with
  | false => simp
  | true =>
    rw [if_pos rfl]
    cases windowPin s r <;> cases spillPin s r <;> simp

theorem doneChecked_isSome {s : State} {r : BitVec 2048} : (∃ d, doneChecked s r = some d) ↔
    (recDone r = 0 ∨ recDone r % 64 = 0 ∧ donePins s r ≠ none) := by
  unfold doneChecked
  by_cases h0 : recDone r = 0
  · simp [h0]
  · by_cases h64 : recDone r % 64 = 0 <;> simp [h0, h64, Option.ne_none_iff_exists']

theorem traceChecked_isSome {s : State} {r : BitVec 2048} : (∃ x, traceChecked s r = some x) ↔
    (recTrrec r = false ∧ recTrbind r = false ∨ 64 + 8 * recTotal r ≤ recTrlen r ∧ tracePins s r ≠ none) := by
  unfold traceChecked
  by_cases ht : (recTrrec r || recTrbind r) = true
  · have hne : ¬ (recTrrec r = false ∧ recTrbind r = false) := by rintro ⟨h1, h2⟩; simp [h1, h2] at ht
    by_cases hl : recTrlen r < 64 + 8 * recTotal r
    · simp [ht, hl, hne, Nat.not_le.2 hl]
    · simp [ht, hl, hne, Nat.not_lt.1 hl, Option.ne_none_iff_exists']
  · rw [if_neg ht]
    simpa using Or.inl ht

section
variable {s : State} {q : BitVec 6} {r : BitVec 2048} {tenant : BitVec 16}

theorem submit_foreign (h : (queueOf s q).tenant = 0 ∨ (queueOf s q).tenant ≠ recTenant r ∨ tenant ≠ recTenant r) :
    submit s q r (some tenant) = some (s, word 4) := by
  unfold submit
  exact if_pos (Or.inr h)

variable (hf : s.mgmt.failed = false) (hq : (queueOf s q).tenant = recTenant r) (ht : tenant = recTenant r)
  (h0 : (queueOf s q).tenant ≠ 0)
include hf hq ht h0

theorem submit_admits : ¬ (s.mgmt.failed ∨ (queueOf s q).tenant = 0 ∨ (queueOf s q).tenant ≠ recTenant r
    ∨ tenant ≠ recTenant r) := by
  rw [hf]
  rintro (h | h | h | h)
  · exact Bool.false_ne_true h
  · exact h0 h
  · exact h hq
  · exact h ht

theorem submit_bad {bit : Nat} (hb : badRecord r = some bit) :
    submit s q r (some tenant) = some (s, word (bit * 16 + 1)) := by
  unfold submit
  refine (if_neg (submit_admits hf hq ht h0)).trans ?_
  simp [hb, launchResult]

variable (hb : badRecord r = none)
include hb

theorem submit_foreign_dep {k : Nat} (hk : k < 4) (hv : (recDep r k).1 = true)
    (hd : (queueOf s (recDep r k).2.1).tenant ≠ recTenant r) : submit s q r (some tenant) = some (s, word 4) := by
  unfold submit
  refine (if_neg (submit_admits hf hq ht h0)).trans ?_
  rw [hb]
  refine if_pos (List.any_eq_true.2 ⟨k, List.mem_range.2 hk, ?_⟩)
  simp [hv, hd]

variable (hd : ∀ k, k < 4 → (recDep r k).1 = true → (queueOf s (recDep r k).2.1).tenant = recTenant r)
include hd

/-- The launch that the intake accepts. -/
def acceptedLaunch (s : State) (q : BitVec 6) (r : BitVec 2048) (ps : List Pin) : Launch :=
  { ordinal := (queueOf s q).accepted + 1, acceptedAt := s.cycle, pins := ps
    record := if recSeedx r then r else putField r 512 64 (pseedNow s).toNat }

/-- A record that passes its own checks is decided by its translations. -/
theorem submit_checked : submit s q r (some tenant) = (match checkPins s r with
    | .waits => none
    | .refused st => some (s, launchResult 0 0 st)
    | .pins ps => some (setQueue s q { queueOf s q with
        accepted := (queueOf s q).accepted + 1, launches := (queueOf s q).launches ++ [acceptedLaunch s q r ps] },
        launchResult ((queueOf s q).accepted + 1) 0 0)) := by
  unfold submit
  refine (if_neg (submit_admits hf hq ht h0)).trans ?_
  rw [hb]
  refine (if_neg ?_).trans rfl
  rw [List.any_eq_true]
  rintro ⟨k, hk, hany⟩
  rw [Bool.and_eq_true, decide_eq_true_eq] at hany
  exact hany.2 (hd k (List.mem_range.1 hk) hany.1)

theorem submit_refused {st : Nat} (hst : checkPins s r = .refused st) : submit s q r (some tenant) = some (s, word st) := by
  rw [submit_checked hf hq ht h0 hb hd, hst]
  simp [launchResult]

end

section
variable {o : Opnd} {s t : State} {x : Word} {h : Capture} {pa : Nat}

/-- The intake's decision as LAUNCH reports it. -/
def launchAnswer (o : Opnd) (a : Option (State × Word)) : Res State :=
  match a with
  | none => blockOn (.queueRoom o.c)
  | some (s', w) => .ok (finishG s' o o.d w)

theorem exec_launch_eq {t : Slot} (hd : dstG s.cur o.d = .ok ()) (hx : srcG s.cur o.b o.feB = .ok x)
    (hh : useHandle s.cur (o.a.setWidth 4) o.feA (x.toInt + o.imm16.toInt) = .ok h)
    (halign : (x.toInt + o.imm16.toInt) % 64 = 0) (hpage : checkPage h (x.toInt + o.imm16.toInt) 256 permRd = .ok pa)
    (hn : needReleased s (dieOf s.cur.id.core) (linesOf pa 256) = .ok ())
    (hr : refusedByte s s.cur pa (linesOf pa 256) rightRead false = none) (hg : poisoned s pa 256 = false)
    (hrel : releasable s = .ok ()) (ht : releaseCount s.cur = .ok t) :
    exec (.launch o) s = issue s o (if queueFull s o.c then blockOn (.queueRoom o.c)
      else launchAnswer o (submit { (homeRead s pa 256).1 with cur := t } o.c (BitVec.ofNat 2048 (memNat s pa 256))
        (some s.cur.tenant))) := by
  have hoff : (sx o.imm16).toInt = o.imm16.toInt := BitVec.toInt_signExtend_of_le (by decide)
  rw [exec_launch, execLaunch, hx, res_ok_bind]
  dsimp only
  rw [hoff, hrel, res_ok_bind, ht, res_ok_bind, hh, res_ok_bind, hd, res_ok_bind, if_neg (not_not.2 halign), hpage,
    res_ok_bind, hn, res_ok_bind, hr]
  dsimp only
  rw [hg]
  rfl

end

/-- Settles O13: the release and the read of the record, and then the intake's decision. -/
theorem launchSubmitsARecord : Obligations.LaunchSubmitsARecord := by
  unfold Obligations.LaunchSubmitsARecord
  intro o s x h pa hw hx
  dsimp only
  intro hh halign hpage hn hr hg hrel t ht
  have hexec := exec_launch_eq hw.2 hx hh halign hpage hn hr hg hrel ht
  refine ⟨fun hfull => ?_, fun hroom => ?_⟩
  · rw [hexec, if_pos hfull]
    exact issue_block hw.1
  rw [if_neg (by simp [hroom])] at hexec
  have hread : homeOnly s (homeRead s pa 256).1 := (touched_homeRead s pa 256 false).quiet.1
  generalize hs1 : { (homeRead s pa 256).1 with cur := t } = s1 at hexec
  generalize BitVec.ofNat 2048 (memNat s pa 256) = r at hexec
  have hqueues (q : BitVec 6) : queueOf s q = queueOf s1 q := by rw [queueOf, queueOf, ← hread.queues, ← hs1]
  have hmgmt : s.mgmt = s1.mgmt := by rw [← hs1, hread]
  have hcycle : s.cycle = s1.cycle := by rw [← hs1, hread]
  have hseed : pseedNow s = pseedNow s1 := by rw [← hs1, hread]; rfl
  have hcur : s1.cur = t := by rw [← hs1]
  have hdone {s' : State} {w : Word} (h : submit s1 o.c r (some s.cur.tenant) = some (s', w)) (hcur : s'.cur = t) :
      exec (.launch o) s = .next (wentOn s' o (setG t o.d w)) := by
    rw [hexec, h, ← hcur]
    exact (issue_ok hw.1).trans (congrArg _ (finishG_eq_wentOn ..))
  rw [hqueues, hmgmt, hcycle, hseed]
  simp only [hqueues]
  refine ⟨fun hforeign => hdone (submit_foreign hforeign) hcur, fun hf hq htn h0 => ⟨fun bit hb => hdone (submit_bad hf hq htn h0 hb) hcur,
    fun ps hb hdep hps => ?_, fun hb => ⟨fun k hk hv hdep => hdone (submit_foreign_dep hf hq htn h0 hb hk hv hdep) hcur,
      fun hdep => ⟨fun hwait => ?_, fun hset => ?_⟩⟩⟩⟩
  · rw [hexec, submit_checked hf hq htn h0 hb hdep, hps]
    refine (issue_ok hw.1).trans (congrArg _ ((finishG_eq_wentOn ..).trans ?_))
    simp [launchResult, acceptedLaunch]
  · rw [hexec, submit_checked hf hq htn h0 hb hdep, hwait]
    exact issue_block hw.1
  have hrefused {st : Nat} (h : checkPins s1 r = .refused st) := hdone (submit_refused hf hq htn h0 hb hdep h) hcur
  refine ⟨fun hc => hrefused (checkPins_no_code hset hc), fun pins hc => ⟨fun hd => hrefused (checkPins_digest hset hc hd),
    fun hd => ⟨fun hwin => hrefused (checkPins_no_window hset hc hd ?_), fun hwin harea => ?_,
      fun xs hwin harea hbind htrace hbad => ?_⟩⟩⟩
  · exact Option.eq_none_iff_forall_ne_some.2 fun win h => hwin fun hdet => windowChecked_isSome.1 ⟨win, h⟩ hdet
  · obtain ⟨win, hwin⟩ := windowChecked_isSome.2 hwin
    refine hrefused (checkPins_no_area hset hc hd hwin ?_)
    rw [← not_not (a := doneChecked s1 r = none ∨ traceChecked s1 r = none), not_or, ← ne_eq, ← ne_eq,
      Option.ne_none_iff_exists', Option.ne_none_iff_exists', doneChecked_isSome, traceChecked_isSome]
    exact harea
  · obtain ⟨win, hwin⟩ := windowChecked_isSome.2 hwin
    obtain ⟨d, hdn⟩ := doneChecked_isSome.2 harea.1
    obtain ⟨-, hnone⟩ | ⟨hlen, -⟩ := harea.2
    · exact absurd (hbind.symm.trans hnone) nofun
    · refine hrefused (checkPins_bad_trace hset hc hd hwin hdn (x := xs) ?_ hbind hbad)
      rw [traceChecked, if_pos (by simp [hbind]), if_neg (Nat.not_lt.2 hlen)]
      exact htrace

end Sys2Proof.Machine
end

section
/-! SUPPORT. SUPPORT. Engine operations at issue, and SOPSET, SCANL, SCAN and SSTEP (R249, R373 to R376). -/

namespace Sys2Proof.Machine

/-! ## Engine operations at issue (R182, R375) -/

theorem emptied_nil (t : Slot) : emptied t t.empty [] := fun _ => by
  simp [granuleFull]

theorem emptied_setGranules (t : Slot) {a : Nat} (n : Nat) (ha : a % 16 = 0) :
    emptied t (setGranules t a n false).empty [(a, n)] := fun g => by
  have hmem : g ∈ granulesOf a n ↔ a / 16 ≤ g ∧ g < (a + n + 15) / 16 := by
    rw [mem_granulesOf]
    omega
  refine (granuleFull_setGranules t a n false g).trans ?_
  simp only [hmem, List.any_cons, List.any_nil, Bool.or_false]
  by_cases h : a / 16 ≤ g ∧ g < (a + n + 15) / 16
  · simp [h]
  · rw [if_neg h]
    rw [not_and_or] at h
    rcases h with h | h <;> simp [h]

section
variable {i : Instr} {s s' : State} {o : Opnd} {w : Work} {due : Nat} (hp : s.mgmt.powered = true) (hc : s'.cur = s.cur)
include hp hc

/-- The operation that an instruction issues. -/
def issuedOp (s : State) (o : Opnd) (w : Work) (due : Nat) : Op :=
  { id := 0, source := 3, coff := (ctlSite s o).coff, due := due, work := w }

/-- An instruction that ends by issuing one operation. -/
theorem issuesOn_plain (h : exec i s = issue s o (.ok (advance (onCur s' (fun t =>
    pushOp t (some (o.c.setWidth 4)) (issuedOp s o w due))) o))) : issuesOn s' i s o w [] due := by
  refine ⟨s.cur.empty, emptied_nil _, h.trans ((issue_ok hp).trans (congrArg _ ?_))⟩
  rw [advance_onCur (f := fun t => pushOp t _ _) rfl, hc]
  rfl

/-- An instruction that ends by issuing one operation, whose footprint becomes empty. -/
theorem issuesOn_footprint {a n : Nat} (ha : a % 16 = 0) (h : exec i s = issue s o (.ok (advance (onCur s' (fun t =>
    pushOp (setGranules t a n false) (some (o.c.setWidth 4)) (issuedOp s o w due))) o))) :
    issuesOn s' i s o w [(a, n)] due := by
  refine ⟨_, emptied_setGranules _ n ha, h.trans ((issue_ok hp).trans (congrArg _ ?_))⟩
  have hctl := congrArg Slot.ctl (setGranules_eq s'.cur a n false)
  rw [advance_onCur (f := fun t => pushOp (setGranules t a n false) (some (o.c.setWidth 4)) _) hctl, hc, pushOp_setGranules]
  rfl

end

theorem localAddr_misplaced {B : Word} {align : Nat} (h : 2 ^ 22 ≤ B.toNat ∨ B.toNat % align ≠ 0) :
    localAddr B align = raise 0x04 := by
  unfold localAddr parseScratch
  by_cases h32 : B.getLsbD 32 = true
  · rw [if_pos h32]
    split_ifs <;> rfl
  · rw [if_neg h32]
    by_cases hhigh : bits B 63 22 ≠ 0
    · rw [if_pos hhigh]
      rfl
    · rw [if_neg hhigh]
      rw [bits_eq] at hhigh
      have hlow : bits B 21 0 = B.toNat := by rw [bits_eq]; omega
      dsimp only
      rw [hlow]
      exact if_neg (by omega)

theorem plainRead_ok {s : State} {pa n : Nat} {reg : Word} (hn : needReleased s (dieOf s.cur.id.core) (linesOf pa n) = .ok ())
    (hr : refusedByte s s.cur pa (linesOf pa n) rightRead false = none) (hg : poisoned s pa n = false) :
    plainRead s pa n reg = .ok (homeRead s pa n) := by
  rw [plainRead, hn, res_ok_bind, hr]
  exact if_neg (by simp [hg])

/-! ## SOPSET, SCANL, SCAN and SSTEP (R249, R373, R375, R376) -/

section
variable {o : Opnd} {s : State} {h : Capture} {pa : Nat}
  (hh : useHandle s.cur (o.a.setWidth 4) o.feA o.imm16.toInt = .ok h)
include hh

theorem sopset_misaligned (hp : s.mgmt.powered = true) (ha : o.imm16.toInt % 64 ≠ 0) : faults (.sopset o) s o 0x04 := by
  have hoff : (sx o.imm16).toInt = o.imm16.toInt := BitVec.toInt_signExtend_of_le (by decide)
  rw [faults, exec_sopset, execSopset]
  dsimp only
  rw [hoff, hh, res_ok_bind, if_pos ha]
  exact issue_fault hp

/-- The record that SOPSET reads. -/
def sopRecord (s : State) (pa : Nat) : BitVec 512 := BitVec.ofNat 512 (memNat s pa 64)

theorem exec_sopset_eq (ha : o.imm16.toInt % 64 = 0) (hpage : checkPage h o.imm16.toInt 64 permRd = .ok pa)
    (hn : needReleased s (dieOf s.cur.id.core) (linesOf pa 64) = .ok ())
    (hr : refusedByte s s.cur pa (linesOf pa 64) rightRead false = none) (hg : poisoned s pa 64 = false) :
    exec (.sopset o) s = issue s o (if (sopRecord s pa).extractLsb' 0 8 ≠ 1 then
        .error (.fault { code := 0x02, sub := if (sopRecord s pa).extractLsb' 0 8 = 0 then 1 else 2 })
      else if sopBad (sopRecord s pa) then .error (.fault { code := 0x02, sub := 5 })
      else .ok (advance (onCur (homeRead s pa 64).1 (fun t =>
        { t with scanOp := some { record := sopRecord s pa, mode := t.mode } })) o)) := by
  have hoff : (sx o.imm16).toInt = o.imm16.toInt := BitVec.toInt_signExtend_of_le (by decide)
  rw [exec_sopset, execSopset]
  dsimp only
  rw [hoff, hh, res_ok_bind, if_neg (not_not.2 ha), hpage, res_ok_bind, plainRead_ok hn hr hg, res_ok_bind]
  rfl

theorem sopset_reads (hp : s.mgmt.powered = true) (ha : o.imm16.toInt % 64 = 0)
    (hpage : checkPage h o.imm16.toInt 64 permRd = .ok pa)
    (hn : needReleased s (dieOf s.cur.id.core) (linesOf pa 64) = .ok ())
    (hr : refusedByte s s.cur pa (linesOf pa 64) rightRead false = none) (hg : poisoned s pa 64 = false) :
    let r := sopRecord s pa
    let cause (n : BitVec 8) : Prop :=
      exec (.sopset o) s = .next (takeFault s (ctlSite s o) { code := 0x02, sub := n } (codeOff s))
    (r.toNat % 2 ^ 8 = 0 → cause 1) ∧ (2 ≤ r.toNat % 2 ^ 8 → cause 2) ∧ (r.toNat % 2 ^ 8 = 1 → sopBad r = true → cause 5)
    ∧ (r.toNat % 2 ^ 8 = 1 → sopBad r = false →
        exec (.sopset o) s = .next (wentOn (homeRead s pa 64).1 o
          { s.cur with scanOp := some { record := r, mode := s.cur.mode } })) := by
  have hexec := exec_sopset_eq hh ha hpage hn hr hg
  generalize hr : sopRecord s pa = r at hexec
  dsimp only
  have hop (n : Nat) (hn : n < 2 ^ 8) : r.extractLsb' 0 8 = BitVec.ofNat 8 n ↔ r.toNat % 2 ^ 8 = n := by
    rw [← BitVec.toNat_inj, BitVec.extractLsb'_toNat, Nat.shiftRight_zero, BitVec.toNat_ofNat, Nat.mod_eq_of_lt hn]
  have h0 : r.extractLsb' 0 8 = 0 ↔ r.toNat % 2 ^ 8 = 0 := hop 0 (by decide)
  have h1 : r.extractLsb' 0 8 = 1 ↔ r.toNat % 2 ^ 8 = 1 := hop 1 (by decide)
  refine ⟨fun h => ?_, fun h => ?_, fun h hb => ?_, fun h hb => ?_⟩
  · rw [hexec, if_pos (fun hc => by have := h1.1 hc; omega), if_pos (h0.2 h)]
    exact issue_fault hp
  · rw [hexec, if_pos (fun hc => by have := h1.1 hc; omega), if_neg (fun hc => by have := h0.1 hc; omega)]
    exact issue_fault hp
  · rw [hexec, if_neg (not_not.2 (h1.2 h)), if_pos hb]
    exact issue_fault hp
  · rw [hexec, if_neg (not_not.2 (h1.2 h)), if_neg (by simp [hb])]
    refine (issue_ok hp).trans (congrArg _ ?_)
    have hcur := (touched_homeRead s pa 64 false).quiet.1.cur
    rw [advance_onCur (f := fun t => { t with scanOp := some { record := r, mode := t.mode } }) rfl, hcur]

end

section
variable {o : Opnd} {s : State} {x y : Word} (hp : s.mgmt.powered = true) (hx : srcG s.cur o.a o.feA = .ok x)
  (hy : srcG s.cur o.b o.feB = .ok y)

/-- The channel count of a state slot, and the footprint of a scan of `n` elements. -/
def stateNch (s : State) (z : BitVec 6) : Nat := hdrNch (zHeader s.cur z)
def scanSize (s : State) (z : BitVec 6) (op : ScanOp) (n : Nat) : Nat :=
  if stateNch s z = 0 ∨ 2044 < stateNch s z then 0 else 4 * sopComps op.record * n * stateNch s z

theorem scanPlace_misplaced {t : Slot} {B : Word} {n : Nat} (h : 2 ^ 22 ≤ B.toNat ∨ B.toNat % 16 ≠ 0) :
    scanPlace t B n = raise 0x04 := by
  rw [scanPlace, localAddr_misplaced h]
  rfl

theorem scanPlace_eq {t : Slot} {B : Word} {n : Nat} (h : B.toNat < 2 ^ 22) (h16 : B.toNat % 16 = 0) :
    scanPlace t B n = if n = 0 ∨ ownsRange t B.toNat n = true then .ok B.toNat else raise 0x04 := by
  rw [scanPlace, localAddr_of_lt h h16, res_ok_bind]
  simp only [Bool.or_eq_true, decide_eq_true_eq]
  rfl

/-- A place that is no place of a footprint makes the same fault as one past it. -/
theorem scanPlace_fails {t : Slot} {B : Word} {n : Nat} {a : Res Nat} (h : scanPlace t B n = a) :
    a = .ok B.toNat ∨ a = raise 0x04 := by
  by_cases hm : 2 ^ 22 ≤ B.toNat ∨ B.toNat % 16 ≠ 0
  · exact Or.inr (h.symm.trans (scanPlace_misplaced hm))
  · rw [scanPlace_eq (by omega) (by omega)] at h
    subst h
    split
    · exact Or.inl rfl
    · exact Or.inr rfl

include hx hy

theorem scanIssue_eq (n : Nat) (troupe step : Bool) (hz : (recZmask s.cur.record).getLsbD o.d.toNat = true) :
    scanIssue o s n troupe step = issue s o (do
      let q ← checkCounter s.cur o.c
      match s.cur.scanOp with
      | none => raise 0x1B
      | some op => do
        let a ← scanPlace s.cur x (scanSize s o.d op n)
        let b ← scanPlace s.cur y (scanSize s o.d op n)
        if a ≠ b ∧ a < b + scanSize s o.d op n ∧ b < a + scanSize s o.d op n then raise 0x04
        else .ok (advance (onCur s (fun t => pushOp (setGranules t b (scanSize s o.d op n) false) (some q)
          (issuedOp s o (.scan o.d a b n (stateNch s o.d) op troupe step false []) 0))) o)) := by
  rw [scanIssue, hx, res_ok_bind, hy, res_ok_bind, needZ, hz, need_true, res_ok_bind]
  rfl

/-- The footprints of a scan, and what follows them. -/
def scanBody (s : State) (o : Opnd) (x y : Word) (n : Nat) (troupe step : Bool) (op : ScanOp) : Res State := do
  let a ← scanPlace s.cur x (scanSize s o.d op n)
  let b ← scanPlace s.cur y (scanSize s o.d op n)
  if a ≠ b ∧ a < b + scanSize s o.d op n ∧ b < a + scanSize s o.d op n then raise 0x04
  else .ok (advance (onCur s (fun t => pushOp (setGranules t b (scanSize s o.d op n) false) (some (o.c.setWidth 4))
    (issuedOp s o (.scan o.d a b n (stateNch s o.d) op troupe step false []) 0))) o)

omit hx hy in
theorem scanBody_fails {n : Nat} {troupe step : Bool} {op : ScanOp}
    (h : scanPlace s.cur x (scanSize s o.d op n) = raise 0x04 ∨ scanPlace s.cur y (scanSize s o.d op n) = raise 0x04
      ∨ x.toNat ≠ y.toNat ∧ x.toNat < y.toNat + scanSize s o.d op n ∧ y.toNat < x.toNat + scanSize s o.d op n) :
    scanBody s o x y n troupe step op = raise 0x04 := by
  rw [scanBody]
  obtain ha | ha := scanPlace_fails (rfl : scanPlace s.cur x (scanSize s o.d op n) = _)
  · rw [ha] at h
    rw [ha, res_ok_bind]
    obtain hb | hb := scanPlace_fails (rfl : scanPlace s.cur y (scanSize s o.d op n) = _)
    · rw [hb] at h
      rw [hb, res_ok_bind]
      exact if_pos (h.resolve_left nofun |>.resolve_left nofun)
    · rw [hb]
      rfl
  · rw [ha]
    rfl

omit hx hy in
theorem scanBody_ok {n : Nat} {troupe step : Bool} {op : ScanOp} (hx : x.toNat < 2 ^ 22) (hx16 : x.toNat % 16 = 0)
    (hy : y.toNat < 2 ^ 22) (hy16 : y.toNat % 16 = 0)
    (ha : scanSize s o.d op n = 0 ∨ ownsRange s.cur x.toNat (scanSize s o.d op n) = true)
    (hb : scanSize s o.d op n = 0 ∨ ownsRange s.cur y.toNat (scanSize s o.d op n) = true)
    (h : ¬ (x.toNat ≠ y.toNat ∧ x.toNat < y.toNat + scanSize s o.d op n ∧ y.toNat < x.toNat + scanSize s o.d op n)) :
    scanBody s o x y n troupe step op = .ok (advance (onCur s (fun t =>
      pushOp (setGranules t y.toNat (scanSize s o.d op n) false) (some (o.c.setWidth 4))
        (issuedOp s o (.scan o.d x.toNat y.toNat n (stateNch s o.d) op troupe step false []) 0))) o) := by
  rw [scanBody, scanPlace_eq hx hx16, if_pos ha, res_ok_bind, scanPlace_eq hy hy16, if_pos hb, res_ok_bind, if_neg h]

variable {i : Instr} {n : Nat} {troupe step : Bool} (hi : exec i s = scanIssue o s n troupe step)
include hi hp

theorem scan_undeclared (hz : (recZmask s.cur.record).getLsbD o.d.toNat = false) : faults i s o 0x0A := by
  rw [faults, hi, scanIssue, hx, res_ok_bind, hy, res_ok_bind, needZ, hz, need_false]
  exact issue_fault hp

variable (hz : (recZmask s.cur.record).getLsbD o.d.toNat = true)
include hz

theorem scan_no_counter (hc : recNctr s.cur.record ≤ o.c.toNat) : faults i s o 0x0B := by
  rw [faults, hi, scanIssue_eq hx hy n troupe step hz, checkCounter_outside hc]
  exact issue_fault hp

variable (hc : counterFree s o)
include hc

theorem scan_no_operator (hop : s.cur.scanOp = none) : faults i s o 0x1B := by
  rw [faults, hi, scanIssue_eq hx hy n troupe step hz, checkCounter_ok hc.1 hc.2, res_ok_bind, hop]
  exact issue_fault hp

variable {op : ScanOp} (hop : s.cur.scanOp = some op)
include hop

omit hp in
theorem exec_scan_eq : exec i s = issue s o (scanBody s o x y n troupe step op) := by
  rw [hi, scanIssue_eq hx hy n troupe step hz, checkCounter_ok hc.1 hc.2, res_ok_bind, hop]
  rfl

theorem scan_faults (h : scanPlace s.cur x (scanSize s o.d op n) = raise 0x04 ∨ scanPlace s.cur y (scanSize s o.d op n) = raise 0x04
    ∨ x.toNat ≠ y.toNat ∧ x.toNat < y.toNat + scanSize s o.d op n ∧ y.toNat < x.toNat + scanSize s o.d op n) :
    faults i s o 0x04 := by
  rw [faults, exec_scan_eq hx hy hi hz hc hop, scanBody_fails h]
  exact issue_fault hp

theorem scan_issues (hx22 : x.toNat < 2 ^ 22) (hx16 : x.toNat % 16 = 0) (hy22 : y.toNat < 2 ^ 22) (hy16 : y.toNat % 16 = 0)
    (ha : scanSize s o.d op n = 0 ∨ ownsRange s.cur x.toNat (scanSize s o.d op n) = true)
    (hb : scanSize s o.d op n = 0 ∨ ownsRange s.cur y.toNat (scanSize s o.d op n) = true)
    (h : ¬ (x.toNat ≠ y.toNat ∧ x.toNat < y.toNat + scanSize s o.d op n ∧ y.toNat < x.toNat + scanSize s o.d op n)) :
    issuesOp i s o (.scan o.d x.toNat y.toNat n (stateNch s o.d) op troupe step false []) [(y.toNat, scanSize s o.d op n)] := by
  refine issuesOn_footprint hp rfl hy16 ?_
  rw [exec_scan_eq hx hy hi hz hc hop, scanBody_ok hx22 hx16 hy22 hy16 ha hb h]

/-- The footprints of a scan: they are judged once the channel count is legal. -/
theorem scan_footprints (hn : 0 < n) :
    let nch := stateNch s o.d
    let legal : Prop := 0 < nch ∧ nch ≤ 2044
    let a := x.toNat
    let b := y.toNat
    let size := 4 * ((op.record.extractLsb' 10 2).toNat + 1) * n * nch
    ((2 ^ 22 ≤ a ∨ a % 16 ≠ 0 ∨ 2 ^ 22 ≤ b ∨ b % 16 ≠ 0) → faults i s o 0x04)
    ∧ (a < 2 ^ 22 → a % 16 = 0 → b < 2 ^ 22 → b % 16 = 0 →
      (¬ legal → issuesOp i s o (.scan o.d a b n nch op troupe step false []) [])
      ∧ (legal →
        let fits : Prop := ownsRange s.cur a size = true ∧ ownsRange s.cur b size = true
          ∧ (a = b ∨ a + size ≤ b ∨ b + size ≤ a)
        (fits → issuesOp i s o (.scan o.d a b n nch op troupe step false []) [(b, size)])
        ∧ (¬ fits → faults i s o 0x04))) := by
  dsimp only
  refine ⟨fun hbad => scan_faults hp hx hy hi hz hc hop ?_, fun ha ha16 hb hb16 => ⟨fun hn => ?_, fun hl => ?_⟩⟩
  · have hbad : (2 ^ 22 ≤ x.toNat ∨ x.toNat % 16 ≠ 0) ∨ (2 ^ 22 ≤ y.toNat ∨ y.toNat % 16 ≠ 0) := by omega
    exact hbad.imp scanPlace_misplaced fun h => Or.inl (scanPlace_misplaced h)
  · have hsize : scanSize s o.d op n = 0 := if_pos (by omega)
    obtain ⟨e, he, hexec⟩ := scan_issues hp hx hy hi hz hc hop ha ha16 hb hb16 (Or.inl hsize) (Or.inl hsize) (by omega)
    refine ⟨e, fun g => (he g).trans ?_, hexec⟩
    simp only [hsize, List.any_cons, List.any_nil, Bool.or_false]
    have hout : ¬ (y.toNat / 16 ≤ g ∧ g < (y.toNat + 0 + 15) / 16) := by omega
    rw [← Bool.decide_and, decide_eq_false hout]
  · have hsize : scanSize s o.d op n = 4 * ((op.record.extractLsb' 10 2).toNat + 1) * n * stateNch s o.d :=
      if_neg (by omega)
    have hpos : scanSize s o.d op n ≠ 0 := by
      rw [hsize]
      exact Nat.mul_ne_zero (by positivity) (by omega)
    rw [← hsize]
    refine ⟨fun ⟨h1, h2, h3⟩ => scan_issues hp hx hy hi hz hc hop ha ha16 hb hb16 (Or.inr h1) (Or.inr h2) (by omega),
      fun hfits => scan_faults hp hx hy hi hz hc hop ?_⟩
    rw [scanPlace_eq ha ha16, scanPlace_eq hb hb16]
    simp only [hpos, false_or]
    by_cases h1 : ownsRange s.cur x.toNat (scanSize s o.d op n) = true
    · by_cases h2 : ownsRange s.cur y.toNat (scanSize s o.d op n) = true
      · exact Or.inr (Or.inr (by by_contra h; exact hfits ⟨h1, h2, by omega⟩))
      · exact Or.inr (Or.inl (if_neg h2))
    · exact Or.inl (if_neg h1)

end

/-- Settles O35: the checked record, and the checks and the operation of a scan. -/
theorem scansAreIssued : Obligations.ScansAreIssued := by
  unfold Obligations.ScansAreIssued
  dsimp only
  refine ⟨fun o s h pa hp hh => ⟨sopset_misaligned hh hp, fun ha hpage hn hr hg => sopset_reads hh hp ha hpage hn hr hg⟩,
    fun o s x y hp hx hy => ?_⟩
  have rule {i : Instr} {n : Nat} {troupe step : Bool} (hi : exec i s = scanIssue o s n troupe step) (hn : 0 < n) :=
    And.intro (scan_undeclared hp hx hy hi) (And.intro (scan_no_counter hp hx hy hi) fun hz hc =>
      And.intro (scan_no_operator hp hx hy hi hz hc) fun op hop => scan_footprints (op := op) hp hx hy hi hz hc hop hn)
  exact ⟨rule exec_scanl (Nat.succ_pos _), rule exec_scan (Nat.succ_pos _), rule exec_sstep Nat.one_pos⟩

end Sys2Proof.Machine
end

section
/-! SUPPORT. SUPPORT. State slots: SLD, SST, SBIND and SBIND.NEW (R133, R366 to R380). -/

namespace Sys2Proof.Machine

/-! ## Bytes of a number -/

theorem leNat_byte (bs : List Byte) (k : Nat) : leNat bs / 2 ^ (8 * k) % 2 ^ 8 = (bs.getD k 0).toNat := by
  induction bs generalizing k with
  | nil => simp [leNat]
  | cons b bs ih =>
    have hb := b.isLt
    cases k with
    | zero => simp only [leNat, List.getD_cons_zero]; omega
    | succ k =>
      rw [leNat, Nat.mul_succ, Nat.add_comm (8 * k), Nat.pow_add, ← Nat.div_div_eq_div_mul, List.getD_cons_succ, ← ih]
      congr 2
      omega

theorem extractLsb'_leNat {w k : Nat} (bs : List Byte) (h : 8 * k + 8 ≤ w) :
    (BitVec.ofNat w (leNat bs)).extractLsb' (8 * k) 8 = bs.getD k 0 := by
  refine BitVec.eq_of_getLsbD_eq fun i hi => ?_
  have hbyte : (bs.getD k 0).getLsbD i = (leNat bs / 2 ^ (8 * k) % 2 ^ 8).testBit i := by rw [leNat_byte]; rfl
  rw [hbyte, BitVec.getLsbD_extractLsb', BitVec.getLsbD_ofNat, Nat.testBit_mod_two_pow, Nat.testBit_div_two_pow]
  rw [decide_eq_true hi, decide_eq_true (by omega : 8 * k + i < w), Bool.true_and, Bool.true_and, Bool.true_and, Nat.add_comm]

/-- A byte of a number. -/
theorem getD_bytesOf {n k : Nat} (x : Nat) (h : k < n) : (bytesOf n x).getD k 0 = BitVec.ofNat 8 (x >>> (8 * k)) := by
  unfold bytesOf
  rw [List.getD_eq_getElem _ _ (by rw [List.length_map, List.length_range]; exact h), List.getElem_map, List.getElem_range]

theorem getD_bytesOf_toNat {w n k : Nat} (x : BitVec w) (h : k < n) : (bytesOf n x.toNat).getD k 0 = x.extractLsb' (8 * k) 8 :=
  getD_bytesOf x.toNat h

theorem getD_bytesOf_ofNat {n k : Nat} (x : Nat) (h : k < n) :
    (bytesOf n x).getD k 0 = (BitVec.ofNat (8 * n) x).extractLsb' (8 * k) 8 := by
  rw [← extractLsb'_leNat (w := 8 * n) _ (by omega), leNat_bytesOf]
  congr 1
  exact BitVec.eq_of_toNat_eq (by simp)

/-! ## SLD and SST (R133, R380) -/

section
variable {o : Opnd} {s : State} {x : Word} (hx : srcG s.cur o.b o.feB = .ok x)

/-- The offset of SLD and SST lies in the state slot. -/
def zInside (o : Opnd) (x : Word) : Prop :=
  0 ≤ x.toInt + o.imm16.toInt ∧ (x.toInt + o.imm16.toInt) % 16 = 0 ∧ x.toInt + o.imm16.toInt + 512 ≤ 32768

theorem zOffset_inside (h : zInside o x) : zOffset o x = .ok (x.toInt + o.imm16.toInt).toNat := by
  have hoff : (sx o.imm16).toInt = o.imm16.toInt := BitVec.toInt_signExtend_of_le (by decide)
  obtain ⟨h0, h16, h512⟩ := h
  rw [zOffset, hoff]
  exact if_neg (by push_cast [stateBytes]; omega)

theorem zOffset_outside (h : ¬ zInside o x) : zOffset o x = raise 0x04 := by
  have hoff : (sx o.imm16).toInt = o.imm16.toInt := BitVec.toInt_signExtend_of_le (by decide)
  rw [zOffset, hoff]
  unfold zInside at h
  exact if_pos (by push_cast [stateBytes]; omega)

theorem needLive_dead {t : Slot} {z : BitVec 6} (h : (zTag t z).state = 2) : needLive t z = raise 0x26 ((zTag t z).kdh.setWidth 64) :=
  if_pos h

theorem needLive_ok {t : Slot} {z : BitVec 6} (h : (zTag t z).state ≠ 2) : needLive t z = .ok () := if_neg h

theorem zIdle_ok {t : Slot} {z : BitVec 6} (h : zOps t z = []) : zIdle t z = .ok () := by rw [zIdle, h]; rfl

theorem zIdle_blocks {t : Slot} {z : BitVec 6} (h : zOps t z ≠ []) : zIdle t z = blockOn (.ops (zOps t z)) := by
  rw [zIdle, if_neg (by simpa using h)]

include hx

theorem exec_sld_eq : exec (.sld o) s = issue s o (do
    need ((recZmask s.cur.record).getLsbD o.a.toNat) 0x0A
    let off ← zOffset o x
    zIdle s.cur o.a
    needLive s.cur o.a
    dstV s.cur (vreg o.d.toNat)
    .ok (finishL s o [] [(vreg o.d.toNat, BitVec.ofNat 4096 (leNat (zRead s.cur o.a off 512)))] (latency := 8))) := by
  rw [exec_sld, execSld, hx, res_ok_bind]
  rfl

theorem exec_sst_eq {v : BitVec 4096} (hv : srcV s.cur (vreg o.d.toNat) o.feD = .ok v) : exec (.sst o) s = issue s o (do
    need ((recZmask s.cur.record).getLsbD o.a.toNat) 0x0A
    let off ← zOffset o x
    zIdle s.cur o.a
    needLive s.cur o.a
    .ok (advance (onCur s (fun t => zWrite t o.a off (bytesOf 512 v.toNat))) o)) := by
  rw [exec_sst, execSst, hx, res_ok_bind, hv, res_ok_bind]
  rfl

variable (hp : s.mgmt.powered = true)
include hp

theorem sld_faults : ((recZmask s.cur.record).getLsbD o.a.toNat = false → faults (.sld o) s o 0x0A)
    ∧ ((recZmask s.cur.record).getLsbD o.a.toNat = true → ¬ zInside o x → faults (.sld o) s o 0x04)
    ∧ ((recZmask s.cur.record).getLsbD o.a.toNat = true → zInside o x → zOps s.cur o.a ≠ [] →
        exec (.sld o) s = .next (blockCtl s (.ops (zOps s.cur o.a)))) := by
  rw [faults, faults, exec_sld_eq hx]
  refine ⟨fun hz => ?_, fun hz hi => ?_, fun hz hi hops => ?_⟩ <;> rw [hz]
  · exact issue_fault hp
  · rw [need_true, res_ok_bind, zOffset_outside hi]
    exact issue_fault hp
  · rw [need_true, res_ok_bind, zOffset_inside hi, res_ok_bind, zIdle_blocks hops]
    exact issue_block hp

variable (hz : (recZmask s.cur.record).getLsbD o.a.toNat = true) (hi : zInside o x) (hops : zOps s.cur o.a = [])
include hz hi hops

theorem sld_dead (h : (zTag s.cur o.a).state = 2) : faults (.sld o) s o 0x26 ((zTag s.cur o.a).kdh.setWidth 64) := by
  rw [faults, exec_sld_eq hx, hz, need_true, res_ok_bind, zOffset_inside hi, res_ok_bind, zIdle_ok hops, res_ok_bind,
    needLive_dead h]
  exact issue_fault hp

theorem sld_reads (h : (zTag s.cur o.a).state ≠ 2) (hd : dstV s.cur (vreg o.d.toNat) = .ok ()) : ∃ v : BitVec 4096,
    writesLong (.sld o) s o [] 0 8 [(vreg o.d.toNat, v)]
    ∧ ∀ k, k < 512 → v.extractLsb' (8 * k) 8
        = sget 0 s.cur.z (32768 * o.a.toNat + (x.toInt + o.imm16.toInt).toNat + k) := by
  have hexec : exec (.sld o) s = .next (finishL s o []
      [(vreg o.d.toNat, BitVec.ofNat 4096 (leNat (zRead s.cur o.a (x.toInt + o.imm16.toInt).toNat 512)))] (latency := 8)) := by
    rw [exec_sld_eq hx, hz, need_true, res_ok_bind, zOffset_inside hi, res_ok_bind, zIdle_ok hops, res_ok_bind,
      needLive_ok h, res_ok_bind, hd, res_ok_bind]
    exact issue_ok hp
  refine ⟨_, ⟨_, hexec, wroteLong_finishL _ _ _ _ _ _ _ List.nodup_nil (List.nodup_singleton _)⟩, fun k hk => ?_⟩
  rw [extractLsb'_leNat _ (by omega), zRead, sgetRange_eq, List.getD_eq_getElem _ _ (by simpa using hk), List.getElem_map,
    List.getElem_range]

end

section
variable {o : Opnd} {s : State} {x : Word} {v : BitVec 4096} (hx : srcG s.cur o.b o.feB = .ok x)
  (hv : srcV s.cur (vreg o.d.toNat) o.feD = .ok v) (hp : s.mgmt.powered = true)
include hx hv hp

theorem sst_faults : ((recZmask s.cur.record).getLsbD o.a.toNat = false → faults (.sst o) s o 0x0A)
    ∧ ((recZmask s.cur.record).getLsbD o.a.toNat = true → ¬ zInside o x → faults (.sst o) s o 0x04) := by
  rw [faults, faults, exec_sst_eq hx hv]
  refine ⟨fun hz => ?_, fun hz hi => ?_⟩ <;> rw [hz]
  · exact issue_fault hp
  · rw [need_true, res_ok_bind, zOffset_outside hi]
    exact issue_fault hp

variable (hz : (recZmask s.cur.record).getLsbD o.a.toNat = true) (hi : zInside o x) (hops : zOps s.cur o.a = [])
include hz hi hops

theorem sst_dead (h : (zTag s.cur o.a).state = 2) : faults (.sst o) s o 0x26 ((zTag s.cur o.a).kdh.setWidth 64) := by
  rw [faults, exec_sst_eq hx hv, hz, need_true, res_ok_bind, zOffset_inside hi, res_ok_bind, zIdle_ok hops, res_ok_bind,
    needLive_dead h]
  exact issue_fault hp

theorem sst_writes (h : (zTag s.cur o.a).state ≠ 2) :
    let base := 32768 * o.a.toNat
    let off := (x.toInt + o.imm16.toInt).toNat
    ∃ z, exec (.sst o) s = .next (wentOn s o { s.cur with z := z })
      ∧ ∀ k, sget 0 z k = if base + off ≤ k ∧ k < base + off + 512
          then v.extractLsb' (8 * (k - base - off)) 8 else sget 0 s.cur.z k := by
  refine ⟨(zWrite s.cur o.a (x.toInt + o.imm16.toInt).toNat (bytesOf 512 v.toNat)).z, ?_, fun k => ?_⟩
  · rw [exec_sst_eq hx hv, hz, need_true, res_ok_bind, zOffset_inside hi, res_ok_bind, zIdle_ok hops, res_ok_bind,
      needLive_ok h, res_ok_bind]
    exact (issue_ok hp).trans (congrArg _ (advance_onCur (f := fun t => zWrite t _ _ _) rfl))
  · refine (sget_ssetRange ..).trans ?_
    rw [Laws.bytesOf_length]
    split
    · next hk =>
      rw [Nat.sub_sub, getD_bytesOf_toNat v (by omega)]
    · rfl

end

/-! ## SBIND and SBIND.NEW (R367, R374) -/

/-- A state slot zeroed under a header of `nch` channels. -/
def zeroed (z : BitVec 6) (nch : Nat) (t : Slot) : Slot :=
  zWrite { t with z := sclear t.z (stateBytes * z.toNat) (stateBytes * z.toNat + stateBytes) } z 0 (bytesOf 64 (nch * 2 ^ 27))

/-- The state once the domain that a state slot holds alone is released. -/
def unheld (s : State) (z : BitVec 6) : State :=
  if (zTag s.cur z).fresh = true ∧ (zTag s.cur z).state = 1 then releaseDomain s (zTag s.cur z).kdh else s

theorem rebind_eq (s : State) (z : BitVec 6) (nch : Nat) : rebind s z nch = onCur (unheld s z) (zeroed z nch) := by
  rw [rebind, unheld]
  simp only [Bool.and_eq_true, decide_eq_true_eq]
  rfl

theorem sget_zeroed (z : BitVec 6) (nch : Nat) (t : Slot) (k : Nat) :
    let base := 32768 * z.toNat
    sget 0 (zeroed z nch t).z k =
      if base ≤ k ∧ k < base + 64 then (BitVec.ofNat 512 (nch * 2 ^ 27)).extractLsb' (8 * (k - base)) 8
      else if base ≤ k ∧ k < base + 32768 then 0 else sget 0 t.z k := by
  refine (sget_ssetRange ..).trans ?_
  rw [Laws.bytesOf_length, sget_sclear, Nat.add_zero]
  split
  · exact getD_bytesOf_ofNat _ (by omega)
  · rfl

theorem releaseDomain_cur (s : State) (kdh : BitVec 32) : (releaseDomain s kdh).cur = s.cur := by
  unfold releaseDomain
  simp only [apply_ite State.cur, ite_self]

theorem unheld_cur (s : State) (z : BitVec 6) : (unheld s z).cur = s.cur := by
  unfold unheld
  split
  · exact releaseDomain_cur ..
  · rfl

theorem newDomain_onCur (s : State) (f : Slot → Slot) (die : Fin 2) :
    newDomain (onCur s f) die = (newDomain s die).map (fun r => (onCur r.1 f, r.2)) := by
  by_cases h : 65535 < lowestFree 1 (usedKeys s.kv[die])
  · have hs : newDomain s die = none := if_pos h
    rw [hs]
    exact if_pos h
  · have hs : newDomain s die = some _ := if_neg h
    rw [hs]
    exact if_neg h

theorem newDomain_cur {s s1 : State} {die : Fin 2} {kdh : BitVec 32} (h : newDomain s die = some (s1, kdh)) : s1.cur = s.cur := by
  unfold newDomain at h
  dsimp only at h
  split at h
  · cases h
  · obtain ⟨rfl, -⟩ := Prod.mk.inj (Option.some.inj h)
    rfl

section
variable {o : Opnd} {s : State} {x : Word} (hp : s.mgmt.powered = true) (hx : srcG s.cur o.a o.feA = .ok x)
include hx

theorem bindState_eq (malformed : Word → Bool) (tag : State → Word → State × ZTag × Nat) :
    bindState o s malformed tag = issue s o (do
      need ((recZmask s.cur.record).getLsbD o.d.toNat) 0x0A
      if 2044 < o.imm16.toNat + 1 then raise 0x04
      else if malformed x then raise 0x1E
      else do
        zIdle s.cur o.d
        dstG s.cur o.b
        .ok (finishG (onCur (tag (rebind s o.d (o.imm16.toNat + 1)) x).1 (fun t =>
          setZTag t o.d (tag (rebind s o.d (o.imm16.toNat + 1)) x).2.1)) o o.b
          (word (tag (rebind s o.d (o.imm16.toNat + 1)) x).2.2))) := by
  rw [bindState, hx, res_ok_bind]
  rfl

variable {i : Instr} {malformed : Word → Bool} {tag : State → Word → State × ZTag × Nat} (hi : exec i s = bindState o s malformed tag)
include hp hi

theorem bind_undeclared (hz : (recZmask s.cur.record).getLsbD o.d.toNat = false) : faults i s o 0x0A := by
  rw [faults, hi, bindState_eq hx, hz]
  exact issue_fault hp

variable (hz : (recZmask s.cur.record).getLsbD o.d.toNat = true)
include hz

theorem bind_oversized (hn : 2044 < o.imm16.toNat + 1) : faults i s o 0x04 := by
  rw [faults, hi, bindState_eq hx, hz, need_true, res_ok_bind, if_pos hn]
  exact issue_fault hp

variable (hn : o.imm16.toNat + 1 ≤ 2044)
include hn

theorem bind_malformed (hm : malformed x = true) : faults i s o 0x1E := by
  rw [faults, hi, bindState_eq hx, hz, need_true, res_ok_bind, if_neg (by omega), if_pos hm]
  exact issue_fault hp

variable (hm : malformed x = false)
include hm

theorem bind_waits (hops : zOps s.cur o.d ≠ []) : exec i s = .next (blockCtl s (.ops (zOps s.cur o.d))) := by
  rw [hi, bindState_eq hx, hz, need_true, res_ok_bind, if_neg (by omega), if_neg (by simp [hm]), zIdle_blocks hops]
  exact issue_block hp

/-- The state slot takes its tag, and the destination the status. -/
theorem bind_binds (hops : zOps s.cur o.d = []) (hd : dstG s.cur o.b = .ok ()) {s1 : State} {g : ZTag} {status : Nat}
    (hcur : s1.cur = s.cur)
    (ht : tag (onCur (unheld s o.d) (zeroed o.d (o.imm16.toNat + 1))) x = (onCur s1 (zeroed o.d (o.imm16.toNat + 1)), g, status)) :
    let nch := o.imm16.toNat + 1
    let base := 32768 * o.d.toNat
    ∃ z, exec i s = .next (wentOn s1 o (setG { s1.cur with z := z, ztag := sset {} s1.cur.ztag o.d.toNat g } o.b (word status)))
      ∧ ∀ k, sget 0 z k = if base ≤ k ∧ k < base + 64 then (BitVec.ofNat 512 (nch * 2 ^ 27)).extractLsb' (8 * (k - base)) 8
          else if base ≤ k ∧ k < base + 32768 then 0 else sget 0 s.cur.z k := by
  refine ⟨(zeroed o.d (o.imm16.toNat + 1) s1.cur).z, ?_, fun k => ?_⟩
  · rw [hi, bindState_eq hx, hz, need_true, res_ok_bind, if_neg (by omega), if_neg (by simp [hm]), zIdle_ok hops, res_ok_bind,
      hd, res_ok_bind, rebind_eq, ht]
    exact (issue_ok hp).trans (congrArg _ (finishG_onCur (s := s1)
      (f := fun t => setZTag (zeroed o.d (o.imm16.toNat + 1) t) o.d g) _ _ rfl))
  · rw [hcur]
    exact sget_zeroed ..

end

theorem bindTag_onCur (s : State) (f : Slot → Slot) (t : Slot) (x : Word) : bindTag (onCur s f) t x = bindTag s t x := rfl

section
variable {s : State} {t : Slot} {x : Word}

theorem bindTag_tenant {u : Slot} (h : t.tenant = u.tenant) : bindTag s t x = bindTag s u x := by
  rw [bindTag, bindTag, h]

theorem bindTag_none : bindTag s t 0 = ({ state := 1 }, 0) := by
  rw [bindTag]
  exact if_pos rfl

theorem bindTag_dead (hx : x ≠ 0) (hd : handleDead s (x.setWidth 32) = true) :
    bindTag s t x = ({ state := 2, kdh := x.setWidth 32 }, 4) := by
  rw [bindTag]
  exact (if_neg hx).trans (if_pos hd)

theorem bindMalformed_iff : (decide (x ≠ 0) && decide (bits x 15 0 = 0)) = true ↔ x ≠ 0 ∧ x.toNat % 2 ^ 16 = 0 := by
  simp [bits_eq]

/-- A sequence of the tenant holds the domain. -/
def domainHeld (s : State) (t : Slot) (kdh : BitVec 32) : Prop :=
  ∃ q ∈ (s.kv[kdhDie kdh]).seqs, q.tenant = t.tenant ∧ kdh ∈ q.doms

theorem bindTag_live (hx : x ≠ 0) (hd : handleDead s (x.setWidth 32) = false) :
    (domainHeld s t (x.setWidth 32) → bindTag s t x = ({ state := 1, kdh := x.setWidth 32 }, 0))
    ∧ (¬ domainHeld s t (x.setWidth 32) → bindTag s t x = ({}, 3)) := by
  have hheld : ((s.kv[kdhDie (x.setWidth 32)]).seqs.any (fun q => q.tenant = t.tenant && q.doms.contains (x.setWidth 32))) = true
      ↔ domainHeld s t (x.setWidth 32) := by
    simp [domainHeld]
  have hdead : ¬ handleDead s (x.setWidth 32) = true := by simp [hd]
  rw [bindTag]
  exact ⟨fun h => (if_neg hx).trans ((if_neg hdead).trans (if_pos (hheld.2 h))),
    fun h => (if_neg hx).trans ((if_neg hdead).trans (if_neg (mt hheld.1 h)))⟩

end

/-- Settles O36: the moves between a state slot and a vector register, and the binding of a state slot. -/
theorem stateSlots : Obligations.StateSlots := by
  unfold Obligations.StateSlots
  dsimp only
  refine ⟨fun o s x v hp hx hv => ⟨(sst_faults hx hv hp).1, (sst_faults hx hv hp).2, fun hz hi hops =>
      ⟨sst_dead hx hv hp hz hi hops, sst_writes hx hv hp hz hi hops⟩⟩,
    fun o s x hp hx => ⟨(sld_faults hx hp).1, (sld_faults hx hp).2.1, (sld_faults hx hp).2.2, fun hz hi hops =>
      ⟨sld_dead hx hp hz hi hops, sld_reads hx hp hz hi hops⟩⟩,
    fun o s x hp hx => ⟨fun hz => ⟨bind_undeclared hp hx exec_sbind hz, bind_undeclared hp hx exec_sbindNew hz⟩,
      fun hz hn => ⟨bind_oversized hp hx exec_sbind hz hn, bind_oversized hp hx exec_sbindNew hz hn⟩,
      fun hz hn h0 hm => ?_, fun hz hn hm hops => ?_, fun hz hn hops => ?_, fun hz hn hops hd => ?_⟩⟩
  · refine bind_malformed hp hx exec_sbind hz hn ?_
    exact bindMalformed_iff.2 ⟨h0, hm⟩
  · refine bind_waits hp hx exec_sbind hz hn ?_ hops
    exact Bool.eq_false_iff.2 fun h => hm.elim (bindMalformed_iff.1 h).1 fun hlow => hlow (bindMalformed_iff.1 h).2
  · exact bind_waits hp hx exec_sbindNew hz hn rfl hops
  have hcur := unheld_cur s o.d
  have hbinds {i : Instr} {malformed : Word → Bool} {tag : State → Word → State × ZTag × Nat}
      (hi : exec i s = bindState o s malformed tag) (hm : malformed x = false) {s1 : State} {g : ZTag} {status : Nat} :=
    bind_binds hp hx hi hz hn hm hops hd (s1 := s1) (g := g) (status := status)
  refine ⟨?_, fun hlow => ?_, fun s1 k hk => ?_, fun hk => ?_⟩
  · rintro rfl
    exact hbinds exec_sbind rfl hcur (by rw [bindTag_none]; rfl)
  · have h0 : x ≠ 0 := by rintro rfl; exact hlow rfl
    have hm : (decide (x ≠ 0) && decide (bits x 15 0 = 0)) = false :=
      Bool.eq_false_iff.2 fun h => hlow (bindMalformed_iff.1 h).2
    have htag : bindTag (onCur (unheld s o.d) (zeroed o.d (o.imm16.toNat + 1)))
        (onCur (unheld s o.d) (zeroed o.d (o.imm16.toNat + 1))).cur x = bindTag (unheld s o.d) s.cur x :=
      (bindTag_onCur ..).trans (bindTag_tenant (congrArg (fun t => (zeroed o.d (o.imm16.toNat + 1) t).tenant) hcur))
    refine ⟨fun hdead => hbinds exec_sbind hm hcur ?_, fun hlive hheld => hbinds exec_sbind hm hcur ?_,
      fun hlive hheld => hbinds exec_sbind hm hcur ?_⟩
    · have hdead : handleDead (unheld s o.d) (x.setWidth 32) = true := hdead
      rw [htag, bindTag_dead h0 hdead]
      rfl
    · rw [htag, (bindTag_live (s := unheld s o.d) h0 hlive).1 hheld]
      rfl
    · rw [htag, (bindTag_live (s := unheld s o.d) h0 hlive).2 hheld]
      rfl
  · refine hbinds exec_sbindNew rfl ((newDomain_cur hk).trans hcur) ?_
    have hk : newDomain (unheld s o.d) (if x.getLsbD 31 then 1 else 0) = some (s1, k) := hk
    rw [newDomain_onCur, hk]
    rfl
  · refine hbinds exec_sbindNew rfl hcur ?_
    have hk : newDomain (unheld s o.d) (if x.getLsbD 31 then 1 else 0) = none := hk
    rw [newDomain_onCur, hk]
    rfl

end Sys2Proof.Machine
end

section
/-! SUPPORT. SUPPORT. SSPILL, SFILL, CHSEND and CHRECV at issue (R381 to R384). -/

namespace Sys2Proof.Machine

/-! ## SSPILL, SFILL, CHSEND and CHRECV at issue (R381 to R384) -/

section
variable {o : Opnd} {s : State} (hp : s.mgmt.powered = true)

section
variable {h : Capture} {pa : Nat} (hh : useHandle s.cur (o.a.setWidth 4) o.feA (o.imm16.toInt * 512) = .ok h)
include hh

theorem pannierIssue_eq (fill : Bool) : pannierIssue o s fill = issue s o (do
    need ((recZmask s.cur.record).getLsbD o.d.toNat) 0x0A
    let _ ← checkPage h (o.imm16.toInt * 512) 32768 (if fill then permRd else permW) true
    if h.kdh ≠ (zTag s.cur o.d).kdh then raise 0x06 (BitVec.ofInt 64 (o.imm16.toInt * 512))
    else do
      let q ← checkCounter s.cur o.c
      .ok (advance (onCur s (fun t => pushOp t (some q)
        (issuedOp s o (.pannier fill o.d h (o.imm16.toInt * 512).toNat) 0))) o)) := by
  have hoff : (sx o.imm16).toInt = o.imm16.toInt := BitVec.toInt_signExtend_of_le (by decide)
  rw [pannierIssue]
  dsimp only
  rw [hoff, hh, res_ok_bind]
  rfl

include hp

theorem pannier_undeclared {i : Instr} {fill : Bool} (hi : exec i s = pannierIssue o s fill)
    (hz : (recZmask s.cur.record).getLsbD o.d.toNat = false) : faults i s o 0x0A := by
  rw [faults, hi, pannierIssue_eq hh, hz]
  exact issue_fault hp

/-- The page must hold the data of the state slot's key domain. -/
theorem pannier_issues {i : Instr} {fill : Bool} (hi : exec i s = pannierIssue o s fill)
    (hz : (recZmask s.cur.record).getLsbD o.d.toNat = true)
    (hpage : checkPage h (o.imm16.toInt * 512) 32768 (if fill then permRd else permW) true = .ok pa) :
    (h.kdh ≠ (zTag s.cur o.d).kdh → faults i s o 0x06 (BitVec.ofInt 64 (o.imm16.toInt * 512)))
    ∧ (h.kdh = (zTag s.cur o.d).kdh → recNctr s.cur.record ≤ o.c.toNat → faults i s o 0x0B)
    ∧ (h.kdh = (zTag s.cur o.d).kdh → counterFree s o →
        issuesOp i s o (.pannier fill o.d h (o.imm16.toInt * 512).toNat) []) := by
  have hexec := hi.trans (pannierIssue_eq hh fill)
  rw [hz, need_true, res_ok_bind, hpage, res_ok_bind] at hexec
  refine ⟨fun hk => ?_, fun hk hc => ?_, fun hk hc => issuesOn_plain hp rfl ?_⟩
  · rw [faults, hexec, if_pos hk]
    exact issue_fault hp
  · rw [faults, hexec, if_neg (not_not.2 hk), checkCounter_outside hc]
    exact issue_fault hp
  · rw [hexec, if_neg (not_not.2 hk), checkCounter_ok hc.1 hc.2, res_ok_bind]

end

include hp

theorem chrecv_undeclared (hz : (recZmask s.cur.record).getLsbD o.d.toNat = false) : faults (.chrecv o) s o 0x0A := by
  rw [faults, exec_chrecv, execChrecv, needZ, hz]
  exact issue_fault hp

theorem chrecv_issues (hz : (recZmask s.cur.record).getLsbD o.d.toNat = true) :
    (recNctr s.cur.record ≤ o.c.toNat → faults (.chrecv o) s o 0x0B)
    ∧ (counterFree s o → issuesOp (.chrecv o) s o (.chrecv o.d o.imm16) []) := by
  refine ⟨fun hc => ?_, fun hc => issuesOn_plain hp rfl ?_⟩
  · rw [faults, exec_chrecv, execChrecv, needZ, hz, need_true, res_ok_bind, checkCounter_outside hc]
    exact issue_fault hp
  · rw [exec_chrecv, execChrecv, needZ, hz, need_true, res_ok_bind, checkCounter_ok hc.1 hc.2, res_ok_bind]
    rfl

variable {w : Word} (hw : srcG s.cur o.a o.feA = .ok w)
include hw

theorem chsend_undeclared (hz : (recZmask s.cur.record).getLsbD o.d.toNat = false) : faults (.chsend o) s o 0x0A := by
  rw [faults, exec_chsend, execChsend, hw, res_ok_bind, needZ, hz]
  exact issue_fault hp

/-- A destination of the form of R382, on a device of the own node. -/
def carryForm (s : State) (w : Word) : Prop := w.toNat < 2 ^ 27 ∧ (destDev w).toNat / 2 ^ 6 = s.devid.toNat / 2 ^ 6

omit hp hw in
theorem carryForm_iff : ¬ carryForm s w ↔ bits w 63 27 ≠ 0 ∨ (destDev w).extractLsb' 6 12 ≠ s.devid.extractLsb' 6 12 := by
  have hdev (x : BitVec 18) : (x.extractLsb' 6 12).toNat = x.toNat / 2 ^ 6 := by
    rw [BitVec.extractLsb'_toNat, Nat.shiftRight_eq_div_pow]
    omega
  rw [carryForm, not_and_or, bits_eq, ← BitVec.toNat_inj.ne, hdev, hdev]
  omega

theorem chsend_stops (hz : (recZmask s.cur.record).getLsbD o.d.toNat = true) :
    (¬ carryForm s w → faults (.chsend o) s o 0x04)
    ∧ (carryForm s w → 128 ≤ (destCore w).toNat → faults (.chsend o) s o 0x0D) := by
  refine ⟨fun hf => ?_, fun hf hcore => ?_⟩ <;> rw [faults, exec_chsend, execChsend, hw, res_ok_bind, needZ, hz, need_true, res_ok_bind]
  · rw [if_pos (carryForm_iff.1 hf)]
    exact issue_fault hp
  · rw [if_neg (mt carryForm_iff.2 (not_not.2 hf)), if_pos hcore]
    exact issue_fault hp

theorem chsend_issues (hz : (recZmask s.cur.record).getLsbD o.d.toNat = true) (hf : carryForm s w)
    (hcore : (destCore w).toNat < 128) (hc : counterFree s o) :
    let c : Carry := { srcDev := s.devid, source := refOf s.cur s.cur.nextOp, dstDev := destDev w, dstCore := destCore w
                       dstSlot := destSlot w, tag := o.imm16, tenant := s.cur.tenant, context := s.cur.context }
    issuesOn { s with carries := s.carries ++ [c] } (.chsend o) s o (.chsend o.d w o.imm16 none) [] := by
  refine issuesOn_plain hp rfl ?_
  rw [exec_chsend, execChsend, hw, res_ok_bind, needZ, hz, need_true, res_ok_bind,
    if_neg (mt carryForm_iff.2 (not_not.2 hf)), if_neg (Nat.not_le.2 hcore), checkCounter_ok hc.1 hc.2, res_ok_bind]
  rfl

end

/-- Settles O37: the checks of each, and its operation. -/
theorem pannierAndCarriesAreIssued : Obligations.PannierAndCarriesAreIssued := by
  unfold Obligations.PannierAndCarriesAreIssued
  dsimp only
  refine fun o s hp => ⟨fun h pa hh => ⟨fun hz => ⟨pannier_undeclared hp hh exec_sspill hz, pannier_undeclared hp hh exec_sfill hz⟩,
      fun hz i perm fill hi hpage => ?_⟩,
    chrecv_undeclared hp, fun hz => (chrecv_issues hp hz).1, fun hz => (chrecv_issues hp hz).2, fun w hw =>
      ⟨chsend_undeclared hp hw, fun hz => (chsend_stops hp hw hz).1, fun hz => (chsend_stops hp hw hz).2, chsend_issues hp hw⟩⟩
  obtain ⟨rfl, rfl, rfl⟩ | ⟨rfl, rfl, rfl⟩ := hi
  · exact pannier_issues hp hh exec_sspill hz hpage
  · exact pannier_issues hp hh exec_sfill hz hpage

end Sys2Proof.Machine
end

section
/-! SUPPORT. SUPPORT. The numbered KV instructions at issue (R158, R393, R394). -/

namespace Sys2Proof.Machine

/-! ## The numbered KV instructions at issue (R158, R393, R394) -/

/-- What a reference names does not depend on the granules of the slot. -/
theorem refOp_onCur {s : State} {f : Slot → Slot} (hi : (f s.cur).item = s.cur.item) (ho : (f s.cur).ops = s.cur.ops) (r : OpRef) :
    (refOp (onCur s f) r).map Prod.snd = (refOp s r).map Prod.snd := by
  have hh : holdsItem (f s.cur) r.item r.born = holdsItem s.cur r.item r.born := by
    rw [holdsItem, holdsItem, itemKey, itemKey, hi]
  have hfind (u : Slot) : (u :: s.rest).find? (fun t => holdsItem t r.item r.born) =
      if holdsItem u r.item r.born then some u else s.rest.find? (fun t => holdsItem t r.item r.born) := by
    rw [List.find?_cons]
    cases holdsItem u r.item r.born <;> rfl
  have hslots : allSlots (onCur s f) = f s.cur :: s.rest := rfl
  rw [refOp, refOp, refSlot, refSlot, hslots, allSlots, hfind, hfind, hh]
  split
  · simp only [Option.bind_some, Option.map_map, opOf, ho]
    rfl
  · rfl

/-- Whether an arrival stands before a request sent in the present cc by slot `c` (R158). -/
def arrivedBefore (s : State) (c : SlotId) (r : OpRef) : Bool :=
  match refOp s r with
  | some (_, p) => p.due ≠ s.cycle || 2 * r.slot.core.toNat + r.slot.slot.toNat ≤ 2 * c.core.toNat + c.slot.toNat
  | none => true

theorem insertArrival_eq (s : State) (xs : List OpRef) (me : OpRef) : insertArrival s xs me =
    xs.takeWhile (arrivedBefore s me.slot) ++ [me] ++ xs.dropWhile (arrivedBefore s me.slot) := rfl

theorem arrivedBefore_onCur {s : State} {f : Slot → Slot} (hi : (f s.cur).item = s.cur.item) (ho : (f s.cur).ops = s.cur.ops)
    (c : SlotId) : arrivedBefore (onCur s f) c = arrivedBefore s c := by
  funext r
  have h := refOp_onCur hi ho r
  unfold arrivedBefore
  cases h1 : refOp (onCur s f) r with
  | none =>
    rw [h1] at h
    rw [Option.map_eq_none_iff.1 h.symm]
  | some a =>
    rw [h1] at h
    obtain ⟨b, hb, hab⟩ := Option.map_eq_some_iff.1 h.symm
    rw [hb]
    dsimp only
    rw [hab]
    rfl

/-- The home die of a request (R138, R153). -/
def reqDie (kind : KvKind) (x : Word) : Fin 2 :=
  if kind = .opens then (if x.getLsbD 25 then 1 else 0) else if x.getLsbD 0 then 1 else 0

theorem kvHome_die (r : KvReq) (h : r.seq = r.word.setWidth 24) : (kvHome r).1 = reqDie r.kind r.word := by
  unfold kvHome reqDie
  split
  · next hk => rw [hk, if_pos rfl]
  · next hk => rw [if_neg hk, seqDie, h]; simp

/-- The state once a request of the slot that has the turn stands among the arrivals of a die. -/
def arrived (s : State) (die : Fin 2) : State :=
  let k := s.kv[die]
  let me := refOf s.cur s.cur.nextOp
  { s with kv := s.kv.set die { k with
      arrivals := k.arrivals.takeWhile (arrivedBefore s s.cur.id) ++ [me] ++ k.arrivals.dropWhile (arrivedBefore s s.cur.id) } }

/-- A request sent while the granules of the slot that has the turn change: its place among the arrivals is the same. -/
theorem sendKv_setGranules (s : State) (a n : Nat) (full : Bool) (q : Option (BitVec 4)) (coff : BitVec 32) (r : KvReq)
    (dest : Option (BitVec 6)) : sendKv (onCur s (fun t => setGranules t a n full)) q coff r dest =
      onCur (arrived s (kvHome r).1) (fun t => pushOp (setGranules t a n full) q
        { id := 0, source := 3, coff := coff, due := s.cycle, work := .kv r dest }) := by
  have hset := setGranules_eq s.cur a n full
  have hitem : (setGranules s.cur a n full).item = s.cur.item := by rw [hset]
  have hops : (setGranules s.cur a n full).ops = s.cur.ops := by rw [hset]
  have hbefore (c : SlotId) : arrivedBefore (onCur s (fun t => setGranules t a n full)) c = arrivedBefore s c :=
    arrivedBefore_onCur (f := fun t => setGranules t a n full) hitem hops c
  have hme : refOf (setGranules s.cur a n full) (setGranules s.cur a n full).nextOp = refOf s.cur s.cur.nextOp := by
    rw [hset]
    rfl
  have harrive (die : Fin 2) : insertArrival (onCur s (fun t => setGranules t a n full)) (s.kv[die]).arrivals
      (refOf (setGranules s.cur a n full) (setGranules s.cur a n full).nextOp) =
      (s.kv[die]).arrivals.takeWhile (arrivedBefore s s.cur.id) ++ [refOf s.cur s.cur.nextOp]
        ++ (s.kv[die]).arrivals.dropWhile (arrivedBefore s s.cur.id) := by
    rw [hme, insertArrival_eq, hbefore]
    rfl
  exact congrArg (fun xs => onCur (setDie (onCur s (fun t => setGranules t a n full)) (kvHome r).1
    { s.kv[(kvHome r).1] with arrivals := xs }) (fun t => pushOp t q
      { id := 0, source := 3, coff := coff, due := s.cycle, work := .kv r dest })) (harrive (kvHome r).1)

section
variable {o : Opnd} {s : State} {d x y : Word} {kind : KvKind} {size tok n stride : Nat} {second : Bool}
  (hp : s.mgmt.powered = true) (hd : srcG s.cur o.d o.feD = .ok d) (hx : srcG s.cur o.a o.feA = .ok x)
  (hd22 : d.toNat < 2 ^ 22) (hd16 : d.toNat % 16 = 0)
  (hy : (if second then srcG s.cur o.b o.feB else .ok 0) = .ok y) (ha : tok ≠ 0 → y.toNat < 2 ^ 22)

/-- The request of a numbered KV instruction. -/
def issuedReq (o : Opnd) (kind : KvKind) (x y : Word) (n stride status : Nat) : KvReq :=
  { kind := kind, seq := x.setWidth 24, word := x, second := y, n := n, stride := stride
    shadow := o.lvl.getLsbD 0, status := status }

/-- The KV operations on a counter that are on their way. -/
def kvSent (s : State) (q : BitVec 4) : Nat := (s.cur.ops.filter (fun p => p.q = some q && isKv p.work)).length

include hd hx hd22 hd16 hy ha

theorem kvIssue_eq : kvIssue s o kind size tok n stride second = issue s o (
    if ownsRange s.cur d.toNat size = false then raise 0x08 d
    else if tok ≠ 0 ∧ ownsRange s.cur y.toNat tok = false then raise 0x08 y
    else do
      let q ← checkCounter s.cur o.c
      if 64 ≤ kvSent s q then .error .hold
      else .ok (advance (onCur (arrived s (reqDie kind x)) (fun t => pushOp (setGranules t d.toNat size false) (some q)
        (issuedOp s o (.kv (issuedReq o kind x y n stride d.toNat) none) s.cycle))) o)) := by
  have hsecond (f : Word → Res State) : (if second then (srcG s.cur o.b o.feB >>= fun y => f y)
      else ((.ok 0 : Res Word) >>= fun y => f y)) = f y := by
    cases second
    · exact congrArg f (Except.ok.inj hy)
    · exact (congrArg (fun r => r >>= f) hy : _)
  have hplace (f : Nat → Res State) : (if tok = 0 then ((.ok 0 : Res Nat) >>= fun a => f a)
      else (localAddr y 1 >>= fun a => f a)) = f (if tok = 0 then 0 else y.toNat) := by
    split
    · rfl
    · next h => rw [localAddr_of_lt (ha h) (Nat.mod_one _), res_ok_bind]
  have hword : (if tok = 0 then y else word (if tok = 0 then 0 else y.toNat)) = y := by
    split
    · rfl
    · exact BitVec.ofNat_toNat ..|>.trans (BitVec.setWidth_eq y)
  rw [kvIssue, hd, res_ok_bind, hx, res_ok_bind]
  dsimp only
  rw [hsecond, localAddr_of_lt hd22 hd16, res_ok_bind, hplace, hword]
  simp only [sendKv_setGranules, Bool.not_eq_true', Bool.and_eq_true, decide_eq_true_eq]
  have hseq : x.extractLsb' 0 24 = x.setWidth 24 := BitVec.eq_of_toNat_eq (by simp)
  have howns : (tok ≠ 0 ∧ ownsRange s.cur (if tok = 0 then 0 else y.toNat) tok = false)
      = (tok ≠ 0 ∧ ownsRange s.cur y.toNat tok = false) := propext (and_congr_right fun h => by rw [if_neg h])
  have hsite : ctlSite (onCur s (fun t => setGranules t d.toNat size false)) o = ctlSite s o :=
    (congrArg (fun u => ctlSite { s with cur := u } o) (setGranules_eq s.cur d.toNat size false)).trans rfl
  rw [hseq, kvHome_die _ rfl, hsite]
  simp only [howns]
  rfl

variable {i : Instr} (hi : exec i s = kvIssue s o kind size tok n stride second)
include hp hi

theorem kv_status_fault (h : ownsRange s.cur d.toNat size = false) : faults i s o 0x08 d := by
  rw [faults, hi, kvIssue_eq hd hx hd22 hd16 hy ha, if_pos h]
  exact issue_fault hp

theorem kv_data_fault (h : ownsRange s.cur d.toNat size = true) (htok : tok ≠ 0) (hdata : ownsRange s.cur y.toNat tok = false) :
    faults i s o 0x08 y := by
  rw [faults, hi, kvIssue_eq hd hx hd22 hd16 hy ha, if_neg (by simp [h]), if_pos ⟨htok, hdata⟩]
  exact issue_fault hp

variable (hdata : tok ≠ 0 → ownsRange s.cur y.toNat tok = true)
include hdata

/-- A numbered KV instruction whose data lies in a declared bank. -/
theorem kv_issues :
    (ownsRange s.cur d.toNat size = false → faults i s o 0x08 d)
    ∧ (ownsRange s.cur d.toNat size = true → recNctr s.cur.record ≤ o.c.toNat → faults i s o 0x0B)
    ∧ (ownsRange s.cur d.toNat size = true → counterFree s o → 64 ≤ kvSent s (o.c.setWidth 4) → exec i s = .next (holdCtl s))
    ∧ (ownsRange s.cur d.toNat size = true → counterFree s o → kvSent s (o.c.setWidth 4) < 64 →
        issuesOn (arrived s (reqDie kind x)) i s o (.kv (issuedReq o kind x y n stride d.toNat) none) [(d.toNat, size)] s.cycle) := by
  have hexec := hi.trans (kvIssue_eq (size := size) (n := n) (stride := stride) (kind := kind) hd hx hd22 hd16 hy ha)
  have hfits : ¬ (tok ≠ 0 ∧ ownsRange s.cur y.toNat tok = false) := fun ⟨h1, h2⟩ => Bool.false_ne_true (h2.symm.trans (hdata h1))
  refine ⟨kv_status_fault hp hd hx hd22 hd16 hy ha hi, fun h hc => ?_, fun h hc hsent => ?_, fun h hc hsent => ?_⟩ <;>
    rw [if_neg (by simp [h]), if_neg hfits] at hexec
  · rw [faults, hexec, checkCounter_outside hc]
    exact issue_fault hp
  · rw [hexec, checkCounter_ok hc.1 hc.2, res_ok_bind, if_pos hsent]
    exact issue_hold hp
  · rw [checkCounter_ok hc.1 hc.2, res_ok_bind, if_neg (Nat.not_le.2 hsent)] at hexec
    exact issuesOn_footprint (s' := arrived s (reqDie kind x)) hp rfl hd16 hexec

end

/-- Settles O38: each numbered instruction is one use of the common issue. -/
theorem kvOperationsAreIssued : Obligations.KvOperationsAreIssued := by
  unfold Obligations.KvOperationsAreIssued
  dsimp only
  intro o s d x hp hd hx hd22 hd16
  have rule0 {i : Instr} {kind : KvKind} {size n : Nat} (hi : exec i s = kvIssue s o kind size 0 n 0 false) :=
    kv_issues (second := false) (y := 0) hp hd hx hd22 hd16 rfl nofun hi nofun
  refine ⟨rule0 exec_kvopen, rule0 exec_kvclose, rule0 exec_kvfork, rule0 exec_kvaccept, rule0 exec_kvreject, fun y hy => ?_⟩
  have rule1 {i : Instr} {kind : KvKind} {size n : Nat} (hi : exec i s = kvIssue s o kind size 0 n 0 true) :=
    kv_issues (second := true) hp hd hx hd22 hd16 hy nofun hi nofun
  refine ⟨rule1 exec_kvevict, rule1 exec_kvcompact, rule1 exec_kvmapV, fun hy22 => ?_⟩
  have data {i : Instr} {kind : KvKind} {tok n stride : Nat} (hi : exec i s = kvIssue s o kind 16 tok n stride true)
      (htok : tok ≠ 0) := And.intro
    (fun hown => kv_issues (second := true) hp hd hx hd22 hd16 hy (fun _ => hy22) hi fun _ => hown)
    (fun h hdata => kv_data_fault (second := true) hp hd hx hd22 hd16 hy (fun _ => hy22) hi h htok hdata)
  exact ⟨data exec_kvappend (by omega), data exec_kvdraft (by positivity), data exec_kvprefixLook (by decide),
    data exec_kvprefixIns (by decide)⟩

end Sys2Proof.Machine
end

section
/-! SUPPORT. SUPPORT. Scalar KVMAP, QSEND and QSEND.REPLY at issue (R166 to R169, R393, R396). -/

namespace Sys2Proof.Machine

/-! ## Scalar KVMAP (R393, R485) -/

section
variable {o : Opnd} {s : State} {x y : Word}

/-- The request of a scalar KVMAP, its operation, and the slot once it is sent. -/
def mapReq (o : Opnd) (x y : Word) : KvReq :=
  { kind := .map, seq := x.setWidth 24, word := x, second := y, n := 1, shadow := o.lvl.getLsbD 0 }

def mapOp (o : Opnd) (s : State) (x y : Word) : Op :=
  { id := s.cur.nextOp, source := 3, coff := (ctlSite s o).coff, due := s.cycle, work := .kv (mapReq o x y) (some o.d) }

def mapSlot (o : Opnd) (s : State) (x y : Word) : Slot :=
  { s.cur with ops := s.cur.ops ++ [mapOp o s x y], nextOp := s.cur.nextOp + 1 }

theorem exec_kvmap_eq (h : reads2 s o x y) (hd : dstG s.cur (o.d + 1) = .ok ()) :
    exec (.kvmap o) s = .next (if o.feD then onCur (wentOn (arrived s (reqDie .map x)) o (mapSlot o s x y)) (fun t => emptyG (emptyG t o.d) (o.d + 1))
      else onCur (wentOn (arrived s (reqDie .map x)) o (mapSlot o s x y)) (fun t =>
        { t with ctl := { t.ctl with blocked := some (.ops [s.cur.nextOp]) } })) := by
  obtain ⟨⟨⟨hp, hd0⟩, hx⟩, hy⟩ := h
  have hseq : x.extractLsb' 0 24 = x.setWidth 24 := BitVec.eq_of_toNat_eq (by simp)
  have hsent : advance (sendKv s none (ctlSite s o).coff (mapReq o x y) (some o.d)) o = wentOn (arrived s (reqDie .map x)) o (mapSlot o s x y) := by
    have hsend : sendKv s none (ctlSite s o).coff (mapReq o x y) (some o.d) = onCur (arrived s (kvHome (mapReq o x y)).1)
        (fun t => pushOp t none { id := 0, source := 3, coff := (ctlSite s o).coff, due := s.cycle
                                  work := .kv (mapReq o x y) (some o.d) }) := rfl
    rw [hsend, kvHome_die _ rfl]
    rfl
  rw [exec_kvmap, execKvmap, hx, res_ok_bind, hy, res_ok_bind, hd0, res_ok_bind, hd, res_ok_bind]
  dsimp only
  rw [hseq]
  refine (congrArg (fun u => issue s o (if o.feD = true then
    .ok (onCur u (fun t => emptyG (emptyG t o.d) (o.d + 1))) else .ok (onCur u (fun t =>
      { t with ctl := { t.ctl with blocked := some (.ops [s.cur.nextOp]) } })))) hsent).trans ?_
  split <;> exact issue_ok hp

theorem getLsbD_emptied_pair (t : Slot) (r : BitVec 6) (i : Nat) : (emptyG (emptyG t r) (r + 1)).gEmpty.getLsbD i =
    (t.gEmpty.getLsbD i || decide (i < 64) && (decide (i = r.toNat ∧ r ≠ 0) || decide (i = (r + 1).toNat ∧ r + 1 ≠ 0))) := by
  have hone (t : Slot) (r : BitVec 6) : (emptyG t r).gEmpty.getLsbD i =
      (t.gEmpty.getLsbD i || decide (i < 64) && decide (i = r.toNat ∧ r ≠ 0)) := by
    unfold emptyG
    split
    · next h => simp [h]
    · next h =>
      have hbit : (1#64 <<< r.toNat).getLsbD i = (decide (i < 64) && decide (i = r.toNat ∧ r ≠ 0)) := by
        rw [BitVec.getLsbD_shiftLeft, BitVec.getLsbD_one, Bool.eq_iff_iff]
        simp only [Bool.and_eq_true, decide_eq_true_eq, Bool.not_eq_true', decide_eq_false_iff_not, ne_eq, h,
          not_false_eq_true, and_true]
        have := r.isLt
        omega
      exact (BitVec.getLsbD_or ..).trans (by rw [hbit])
  rw [hone, hone, Bool.or_assoc, Bool.and_or_distrib_left]

theorem emptyG_pair (t : Slot) (r q : BitVec 6) :
    emptyG (emptyG t r) q = { t with gEmpty := (emptyG (emptyG t r) q).gEmpty } := by
  unfold emptyG
  split <;> split <;> rfl

/-- A deferred KVMAP leaves its pair empty, and another holds the stream. -/
theorem kvmap_sent (h : reads2 s o x y) (hd : dstG s.cur (o.d + 1) = .ok ()) :
    (o.feD = true → ∃ e, exec (.kvmap o) s = .next (wentOn (arrived s (reqDie .map x)) o { mapSlot o s x y with gEmpty := e })
      ∧ ∀ i, e.getLsbD i = (s.cur.gEmpty.getLsbD i
          || decide (i < 64) && (decide (i = o.d.toNat ∧ o.d ≠ 0) || decide (i = (o.d + 1).toNat ∧ o.d + 1 ≠ 0))))
    ∧ (o.feD = false → exec (.kvmap o) s = .next (onCur (wentOn (arrived s (reqDie .map x)) o (mapSlot o s x y)) (fun t =>
        { t with ctl := { t.ctl with blocked := some (.ops [s.cur.nextOp]) } }))) := by
  have hexec := exec_kvmap_eq h hd
  refine ⟨fun hf => ⟨_, ?_, getLsbD_emptied_pair s.cur o.d⟩, fun hf => ?_⟩
  · rw [hexec, if_pos hf, onCur, emptyG_pair]
    have hbits (u : Slot) (hu : u.gEmpty = s.cur.gEmpty) :
        (emptyG (emptyG u o.d) (o.d + 1)).gEmpty = (emptyG (emptyG s.cur o.d) (o.d + 1)).gEmpty := by
      refine BitVec.eq_of_getLsbD_eq fun i _ => ?_
      rw [getLsbD_emptied_pair, getLsbD_emptied_pair, hu]
    rw [hbits (wentOn (arrived s (reqDie .map x)) o (mapSlot o s x y)).cur rfl]
    rfl
  · rw [hexec, if_neg (by simp [hf])]

end

/-! ## QSEND and QSEND.REPLY (R166, R167, R169, R396) -/

section
variable {t : Slot} {d : Word}

theorem statusPlace_ok (hd : d.toNat < 2 ^ 22) (hd16 : d.toNat % 16 = 0) (ho : ownsRange t d.toNat 16 = true) :
    statusPlace t d = .ok d.toNat := by
  rw [statusPlace, localAddr_of_lt hd hd16, res_ok_bind]
  exact if_pos ho

theorem statusPlace_foreign (hd : d.toNat < 2 ^ 22) (hd16 : d.toNat % 16 = 0) (ho : ownsRange t d.toNat 16 = false) :
    statusPlace t d = raise 0x08 d := by
  rw [statusPlace, localAddr_of_lt hd hd16, res_ok_bind]
  exact if_neg (by simp [ho])

end

section
variable {o : Opnd} {s : State} {d x y : Word} (hp : s.mgmt.powered = true) (hd : srcG s.cur o.d o.feD = .ok d)
  (hx : srcG s.cur o.a o.feA = .ok x) (hd22 : d.toNat < 2 ^ 22) (hd16 : d.toNat % 16 = 0) (hx22 : x.toNat < 2 ^ 22)
include hp hd hx hd22 hd16 hx22

theorem qsendReply_issues (hy : srcG s.cur o.b o.feB = .ok y) :
    let n := (o.imm16.toNat + 1) * 16
    (ownsRange s.cur d.toNat 16 = false → faults (.qsendReply o) s o 0x08 d)
    ∧ (ownsRange s.cur d.toNat 16 = true → ownsRegion s.cur x.toNat n = false → faults (.qsendReply o) s o 0x08 x)
    ∧ (ownsRange s.cur d.toNat 16 = true → ownsRegion s.cur x.toNat n = true → counterFree s o →
      issuesOn { s with replies := s.replies ++ [{ source := refOf s.cur s.cur.nextOp }] } (.qsendReply o) s o
        (.reply x.toNat n (y.setWidth 16) d.toNat) [(d.toNat, 16)]) := by
  dsimp only
  refine ⟨fun ho => ?_, fun ho hr => ?_, fun ho hr hc => issuesOn_footprint
    (s' := { s with replies := s.replies ++ [{ source := refOf s.cur s.cur.nextOp }] }) hp rfl hd16 ?_⟩
  · rw [faults, exec_qsendReply, execQsendReply, hd, res_ok_bind, hx, res_ok_bind, hy, res_ok_bind,
      statusPlace_foreign hd22 hd16 ho]
    exact issue_fault hp
  · rw [faults, exec_qsendReply, execQsendReply, hd, res_ok_bind, hx, res_ok_bind, hy, res_ok_bind,
      statusPlace_ok hd22 hd16 ho, res_ok_bind, localAddr_of_lt hx22 (Nat.mod_one _), res_ok_bind]
    dsimp only
    rw [if_pos (by simp [hr])]
    exact issue_fault hp
  · have htag : y.extractLsb' 0 16 = y.setWidth 16 := BitVec.eq_of_toNat_eq (by simp)
    rw [exec_qsendReply, execQsendReply, hd, res_ok_bind, hx, res_ok_bind, hy, res_ok_bind,
      statusPlace_ok hd22 hd16 ho, res_ok_bind, localAddr_of_lt hx22 (Nat.mod_one _), res_ok_bind]
    dsimp only
    rw [if_neg (by simp [hr]), checkCounter_ok hc.1 hc.2, res_ok_bind, htag]
    rfl

end

/-! ### The header of a query (R166) -/

theorem getLsbD_putHdr {h : BitVec 512} {lo n v i : Nat} (hfit : lo + n ≤ 512) :
    (putHdr h lo n v).getLsbD i = if lo ≤ i ∧ i < lo + n then v.testBit (i - lo) else h.getLsbD i := by
  by_cases hi : i < 512
  · have hmask : ((2 ^ n - 1) * 2 ^ lo).testBit i = (decide (lo ≤ i) && decide (i - lo < n)) := by
      rw [Nat.testBit_mul_two_pow, Nat.testBit_two_pow_sub_one]
    have hval : (v % 2 ^ n * 2 ^ lo).testBit i = (decide (lo ≤ i) && (decide (i - lo < n) && v.testBit (i - lo))) := by
      rw [Nat.testBit_mul_two_pow, Nat.testBit_mod_two_pow]
    rw [putHdr, BitVec.getLsbD_or, BitVec.getLsbD_and, BitVec.getLsbD_not, BitVec.getLsbD_ofNat, BitVec.getLsbD_ofNat, hmask, hval]
    by_cases hin : lo ≤ i ∧ i < lo + n
    · have hn : i - lo < n := by omega
      simp [hin, hn, hi]
    · rw [if_neg hin]
      by_cases hlo : lo ≤ i
      · have hn : ¬ i - lo < n := by omega
        simp [hn, hi]
      · simp [hlo, hi]
  · rw [BitVec.getLsbD_of_ge _ _ (by omega), if_neg (by omega), BitVec.getLsbD_of_ge _ _ (by omega)]

theorem extract_putHdr {h : BitVec 512} {lo n v lo' n' : Nat} (hfit : lo + n ≤ lo') (hfit' : lo + n ≤ 512) :
    (putHdr h lo n v).extractLsb' lo' n' = h.extractLsb' lo' n' := by
  refine BitVec.eq_of_getLsbD_eq fun i hi => ?_
  rw [BitVec.getLsbD_extractLsb', BitVec.getLsbD_extractLsb', getLsbD_putHdr hfit', if_neg (by omega)]

/-- The header with the sender's counter, slot and core. -/
def stampHdr (h : BitVec 512) (q : BitVec 4) (c : SlotId) : BitVec 512 :=
  putHdr (putHdr (putHdr h 381 4 q.toNat) 380 1 c.slot.toNat) 372 8 c.core.toNat

theorem extract_stampHdr (h : BitVec 512) (q : BitVec 4) (c : SlotId) {lo n : Nat} (hlo : 385 ≤ lo) :
    (stampHdr h q c).extractLsb' lo n = h.extractLsb' lo n := by
  rw [stampHdr, extract_putHdr (by omega) (by omega), extract_putHdr (by omega) (by omega), extract_putHdr (by omega) (by omega)]

/-- Over bits that are zero the stamp is a sum. -/
theorem stampHdr_eq {h : BitVec 512} (q : BitVec 4) (c : SlotId) (h0 : h.extractLsb' 0 385 = 0) :
    stampHdr h q c = h ||| BitVec.ofNat 512 (q.toNat * 2 ^ 381 + c.slot.toNat * 2 ^ 380 + c.core.toNat * 2 ^ 372) := by
  refine BitVec.eq_of_getLsbD_eq fun i hi => ?_
  have hzero (hlt : i < 385) : h.getLsbD i = false := by
    have hbit : (h.extractLsb' 0 385).getLsbD i = false := by rw [h0]; exact BitVec.getLsbD_zero
    rwa [BitVec.getLsbD_extractLsb', decide_eq_true hlt, Bool.true_and, Nat.zero_add] at hbit
  have hcore := c.core.isLt
  have hslot : c.slot.toNat < 2 ^ 1 := Bool.toNat_lt c.slot
  have hsum : q.toNat * 2 ^ 381 + c.slot.toNat * 2 ^ 380 + c.core.toNat * 2 ^ 372
      = (2 ^ 8 * (2 ^ 1 * q.toNat + c.slot.toNat) + c.core.toNat) * 2 ^ 372 := by
    rw [show 381 = 9 + 372 from rfl, show 380 = 8 + 372 from rfl, Nat.pow_add, Nat.pow_add]
    ring
  rw [BitVec.getLsbD_or, BitVec.getLsbD_ofNat, hsum, Nat.testBit_mul_two_pow, Nat.testBit_two_pow_mul_add _ hcore,
    Nat.testBit_two_pow_mul_add _ hslot, stampHdr, getLsbD_putHdr (by omega), getLsbD_putHdr (by omega), getLsbD_putHdr (by omega)]
  have hq (h385 : 385 ≤ i) : q.toNat.testBit (i - 372 - 8 - 1) = false :=
    Nat.testBit_lt_two_pow (q.isLt.trans_le (Nat.pow_le_pow_right (by decide) (by omega)))
  by_cases h1 : 372 ≤ i ∧ i < 380
  · rw [if_pos h1, hzero (by omega), if_pos (by omega)]
    simp [h1, hi]
  rw [if_neg h1]
  by_cases h2 : 380 ≤ i ∧ i < 380 + 1
  · obtain rfl : i = 380 := by omega
    rw [if_pos h2, hzero (by omega)]
    simp
  rw [if_neg h2]
  by_cases h3 : 381 ≤ i ∧ i < 381 + 4
  · rw [if_pos h3, hzero (by omega), if_neg (by omega), if_neg (by omega)]
    simp [show 372 ≤ i by omega, hi, show i - 372 - 8 - 1 = i - 381 by omega]
  rw [if_neg h3]
  by_cases h4 : i < 372
  · simp [h4]
  · rw [if_neg (by omega), if_neg (by omega), hq (by omega)]
    simp

/-- A field of a header. -/
def hdrField (h : BitVec 512) (lo n : Nat) : Nat := h.toNat / 2 ^ lo % 2 ^ n

theorem extract_toNat (h : BitVec 512) (lo n : Nat) : (h.extractLsb' lo n).toNat = hdrField h lo n := by
  rw [BitVec.extractLsb'_toNat, Nat.shiftRight_eq_div_pow, hdrField]

theorem hdrRaddr_eq (h : BitVec 512) : hdrRaddr h = hdrField h 385 22 := extract_toNat ..
theorem hdrReply_eq (h : BitVec 512) : hdrReply h = (hdrField h 407 15 + 1) * 16 :=
  congrArg (fun n => (n + 1) * 16) (extract_toNat ..)
theorem hdrPayload_eq (h : BitVec 512) : hdrPayload h = (hdrField h 422 15 + 1) * 16 :=
  congrArg (fun n => (n + 1) * 16) (extract_toNat ..)

/-- The form of a header (R166). -/
def hdrForm (h : BitVec 512) : Prop := hdrField h 488 24 = 0 ∧ hdrField h 0 385 = 0 ∧ hdrField h 385 22 % 16 = 0

theorem hdrForm_iff (h : BitVec 512) :
    ¬ hdrForm h ↔ h.extractLsb' 488 24 ≠ 0 ∨ h.extractLsb' 0 385 ≠ 0 ∨ hdrRaddr h % 16 ≠ 0 := by
  rw [hdrForm, hdrRaddr_eq, not_and_or, not_and_or, ← extract_toNat, ← extract_toNat h 0 385, Ne, Ne, ← BitVec.toNat_inj,
    ← BitVec.toNat_inj]
  rfl

theorem firstEmpty_full {t : Slot} {a n : Nat} (h : ∀ g, a / 16 ≤ g → g ≤ (a + n - 1) / 16 → granuleFull t g = true) :
    firstEmpty t a n = none := by
  refine List.find?_eq_none.2 fun g hg => ?_
  obtain ⟨-, h1, h2⟩ := mem_granulesOf.1 hg
  simp [h g h1 h2]

theorem setGranules_setGranules_eq (t : Slot) (a n : Nat) (f : Bool) (b m : Nat) (g : Bool) :
    setGranules (setGranules t a n f) b m g = { t with empty := (setGranules (setGranules t a n f) b m g).empty } :=
  (setGranules_eq ..).trans (congrArg (fun u : Slot => { u with empty := (setGranules (setGranules t a n f) b m g).empty })
    (setGranules_eq t a n f))

theorem pushOps_setGranules (t : Slot) (a n b m : Nat) (f g : Bool) (q : BitVec 4) (op op' : Op) :
    pushOp (pushOp (setGranules (setGranules t a n f) b m g) (some q) op) (some q) op' =
      { withOp (withOp t q op) q op' with empty := (setGranules (setGranules t a n f) b m g).empty } := by
  rw [setGranules_setGranules_eq]
  rfl

theorem emptied_two (t : Slot) {a n b m : Nat} (ha : a % 16 = 0) (hb : b % 16 = 0) :
    emptied t (setGranules (setGranules t a n false) b m false).empty [(a, n), (b, m)] := fun g => by
  have h1 := emptied_setGranules t n ha g
  have h2 := emptied_setGranules (setGranules t a n false) m hb g
  refine h2.trans ?_
  have hfull : granuleFull (setGranules t a n false) g = _ := h1
  rw [hfull]
  simp [Bool.and_assoc]

/-- The header that QSEND reads. -/
def queryHdr (s0 : State) (x : Word) : BitVec 512 :=
  BitVec.ofNat 512 (leNat ((List.range 64).map (fun i => bankByte s0.cur (x.toNat + i))))

/-- The two operations of a QSEND, and its arrival at the home die. -/
def querySend (s0 : State) (o : Opnd) (x d : Word) (h : BitVec 512) : Op :=
  { id := 0, source := 3, coff := (ctlSite s0 o).coff
    work := .query (o.imm16.setWidth 5) h (x.toNat + 64) (hdrPayload h) d.toNat }

def queryAwait (s0 : State) (o : Opnd) (h : BitVec 512) : Op :=
  { id := 0, source := 3, coff := (ctlSite s0 o).coff, work := .awaitReply (hdrRaddr h) (hdrReply h) }

def queryArrived (s0 : State) (o : Opnd) (die : Fin 2) : State :=
  let k := s0.kv[die]
  let entry : QueryArrival := { queue := o.imm16.setWidth 5, sender := refOf s0.cur s0.cur.nextOp }
  setDie s0 die { k with queries := k.queries ++ [entry] }

/-- QSEND once its header is read. -/
def querySent (s0 : State) (o : Opnd) (x d : Word) (c : SlotId) (h : BitVec 512) : Res State :=
  if h.extractLsb' 488 24 ≠ 0 ∨ h.extractLsb' 0 385 ≠ 0 ∨ hdrRaddr h % 16 ≠ 0 then raise 0x04
  else if !ownsRegion s0.cur (hdrRaddr h) (hdrReply h) then raise 0x08 (word (hdrRaddr h))
  else if !ownsRegion s0.cur (x.toNat + 64) (hdrPayload h) then raise 0x08 (word (x.toNat + 64))
  else do
    let q ← checkCounter s0.cur o.c
    let h := stampHdr h q c
    .ok (advance (onCur (queryArrived s0 o (seqDie (hdrSeq h))) (fun t =>
      pushOp (pushOp (setGranules (setGranules t (hdrRaddr h) (hdrReply h) false) d.toNat 16 false) (some q)
        (querySend s0 o x d h)) (some q) (queryAwait s0 o h))) o)

section
variable {o : Opnd} {s s0 : State} {d x : Word} (hp : s.mgmt.powered = true) (hd : srcG s.cur o.d o.feD = .ok d)
  (hx : srcG s.cur o.a o.feA = .ok x) (hd22 : d.toNat < 2 ^ 22) (hd16 : d.toNat % 16 = 0) (hx22 : x.toNat < 2 ^ 22)
  (ho : ownsRange s.cur d.toNat 16 = true) (hx64 : ownsRange s.cur x.toNat 64 = true)
  (hfull : ∀ g, x.toNat / 16 ≤ g → g ≤ (x.toNat + 63) / 16 → granuleFull s.cur g = true)
  (hc : checkGranules s s.cur.id s.cur.id (slotCode s.cur.id) (.waiting false) x.toNat 64 = .ok s0)

include hd hx hd22 hd16 hx22 ho hx64 hfull hc

theorem exec_qsend_eq : exec (.qsend o) s = issue s o (bankData s0 s.cur.id x.toNat 64 >>= fun bs =>
    querySent s0 o x d s.cur.id (BitVec.ofNat 512 (leNat bs))) := by
  rw [exec_qsend, execQsend, hd, res_ok_bind, hx, res_ok_bind, statusPlace_ok hd22 hd16 ho, res_ok_bind,
    localAddr_of_lt hx22 (Nat.mod_one _), res_ok_bind, if_neg (by simp [hx64]), firstEmpty_full hfull]
  dsimp only
  rw [hc, res_ok_bind]
  rfl

include hp

theorem qsend_poisoned (hg : bankPoisoned s.cur x.toNat 64 = true) : faults (.qsend o) s o 0x2F := by
  have hj := judged_checkGranules hc
  have hpoison : bankPoisoned s0.cur x.toNat 64 = true := by
    rw [bankPoisoned, show s0.cur.poison = s.cur.poison by rw [hj]]
    exact hg
  rw [faults, exec_qsend_eq hd hx hd22 hd16 hx22 ho hx64 hfull hc, ← hj.cur_id, bankData, slotOf_cur]
  dsimp only
  rw [if_pos hpoison]
  exact issue_fault hp

omit hp in
theorem exec_qsend_sound (hg : bankPoisoned s.cur x.toNat 64 = false) :
    exec (.qsend o) s = issue s o (querySent s0 o x d s.cur.id (queryHdr s0 x)) := by
  have hj := judged_checkGranules hc
  have hpoison : bankPoisoned s0.cur x.toNat 64 = false := by
    rw [bankPoisoned, show s0.cur.poison = s.cur.poison by rw [hj]]
    exact hg
  have hdata : bankData s0 s.cur.id x.toNat 64 = .ok ((List.range 64).map (fun i => bankByte s0.cur (x.toNat + i))) := by
    rw [← hj.cur_id, bankData, slotOf_cur]
    dsimp only
    rw [if_neg (by simp [hpoison]), bankRead, sgetRange_eq]
    rfl
  rw [exec_qsend_eq hd hx hd22 hd16 hx22 ho hx64 hfull hc, hdata, res_ok_bind, queryHdr]

end

section
variable {o : Opnd} {s s0 : State} {d x : Word} {h : BitVec 512} (hp : s.mgmt.powered = true)
  (hexec : exec (.qsend o) s = issue s o (querySent s0 o x d s.cur.id h))
include hp hexec

theorem qsend_malformed (hf : ¬ hdrForm h) : faults (.qsend o) s o 0x04 := by
  rw [faults, hexec, querySent, if_pos ((hdrForm_iff h).1 hf)]
  exact issue_fault hp

variable (hf : hdrForm h)
include hf

theorem qsend_reply_foreign (hr : ownsRegion s0.cur (hdrField h 385 22) ((hdrField h 407 15 + 1) * 16) = false) :
    faults (.qsend o) s o 0x08 (word (hdrField h 385 22)) := by
  rw [faults, hexec, querySent, if_neg (mt (hdrForm_iff h).2 (not_not.2 hf)), hdrRaddr_eq, hdrReply_eq, if_pos (by simp [hr])]
  exact issue_fault hp

variable (hr : ownsRegion s0.cur (hdrField h 385 22) ((hdrField h 407 15 + 1) * 16) = true)
include hr

theorem qsend_payload_foreign (hy : ownsRegion s0.cur (x.toNat + 64) ((hdrField h 422 15 + 1) * 16) = false) :
    faults (.qsend o) s o 0x08 (word (x.toNat + 64)) := by
  rw [faults, hexec, querySent, if_neg (mt (hdrForm_iff h).2 (not_not.2 hf)), hdrRaddr_eq, hdrReply_eq, if_neg (by simp [hr]),
    hdrPayload_eq, if_pos (by simp [hy])]
  exact issue_fault hp

/-- The two operations of a query that is sent. -/
theorem qsend_sends (hy : ownsRegion s0.cur (x.toNat + 64) ((hdrField h 422 15 + 1) * 16) = true) (hc : counterFree s0 o)
    (hd16 : d.toNat % 16 = 0) (hsite : (ctlSite s0 o).coff = (ctlSite s o).coff) :
    let q : BitVec 4 := o.c.setWidth 4
    let id := s.cur.id
    let stamped := h ||| BitVec.ofNat 512 (q.toNat * 2 ^ 381 + id.slot.toNat * 2 ^ 380 + id.core.toNat * 2 ^ 372)
    let raddr := hdrField h 385 22
    let reply := (hdrField h 407 15 + 1) * 16
    let payload := (hdrField h 422 15 + 1) * 16
    let die : Fin 2 := if h.getLsbD 464 then 1 else 0
    let k := s0.kv[die]
    let entry : QueryArrival := { queue := o.imm16.setWidth 5, sender := refOf s0.cur s0.cur.nextOp }
    let coff := (ctlSite s o).coff
    let send : Op := { id := 0, source := 3, coff := coff
                       work := .query (o.imm16.setWidth 5) stamped (x.toNat + 64) payload d.toNat }
    let await : Op := { id := 0, source := 3, coff := coff, work := .awaitReply raddr reply }
    ∃ e, emptied s0.cur e [(raddr, reply), (d.toNat, 16)]
      ∧ exec (.qsend o) s = .next (wentOn { s0 with kv := s0.kv.set die { k with queries := k.queries ++ [entry] } } o
          { withOp (withOp s0.cur q send) q await with empty := e }) := by
  dsimp only
  have hzero : h.extractLsb' 0 385 = 0 := BitVec.eq_of_toNat_eq ((extract_toNat h 0 385).trans hf.2.1)
  have hstamp := stampHdr_eq (o.c.setWidth 4) s.cur.id hzero
  have hraddr : hdrRaddr (stampHdr h (o.c.setWidth 4) s.cur.id) = hdrField h 385 22 := by
    rw [hdrRaddr, extract_stampHdr _ _ _ (by decide), extract_toNat]
  have hreply : hdrReply (stampHdr h (o.c.setWidth 4) s.cur.id) = (hdrField h 407 15 + 1) * 16 := by
    rw [hdrReply, extract_stampHdr _ _ _ (by decide), extract_toNat]
  have hpayload : hdrPayload (stampHdr h (o.c.setWidth 4) s.cur.id) = (hdrField h 422 15 + 1) * 16 := by
    rw [hdrPayload, extract_stampHdr _ _ _ (by decide), extract_toNat]
  have hdie : seqDie (hdrSeq (stampHdr h (o.c.setWidth 4) s.cur.id)) = if h.getLsbD 464 then 1 else 0 := by
    rw [hdrSeq, extract_stampHdr _ _ _ (by decide), seqDie, BitVec.getLsbD_extractLsb']
    rfl
  refine ⟨_, emptied_two s0.cur hf.2.2 hd16, ?_⟩
  rw [hexec, querySent, if_neg (mt (hdrForm_iff h).2 (not_not.2 hf)), hdrRaddr_eq, hdrReply_eq, if_neg (by simp [hr]),
    hdrPayload_eq, if_neg (by simp [hy]), checkCounter_ok hc.1 hc.2, res_ok_bind]
  refine (issue_ok hp).trans (congrArg _ ?_)
  simp only [querySend, queryAwait, hraddr, hreply, hpayload, hdie, hsite]
  rw [hstamp]
  rw [onCur, pushOps_setGranules]
  rfl

end

/-- Settles O39: a look-up and a query as they are sent. -/
theorem queriesAndLookups : Obligations.QueriesAndLookups := by
  unfold Obligations.QueriesAndLookups
  dsimp only
  refine ⟨fun o s x y h hd => kvmap_sent h hd, fun o s d x y hp hd hx hy hd22 hd16 hx22 =>
    qsendReply_issues hp hd hx hd22 hd16 hx22 hy, ?_⟩
  intro o s s0 d x hp hd hx hd22 hd16 hx22 ho hx64 hfull hc
  refine ⟨qsend_poisoned hp hd hx hd22 hd16 hx22 ho hx64 hfull hc, fun hg => ?_⟩
  have hexec := exec_qsend_sound hd hx hd22 hd16 hx22 ho hx64 hfull hc hg
  have hsite : (ctlSite s0 o).coff = (ctlSite s o).coff := by rw [judged_checkGranules hc]; rfl
  exact ⟨qsend_malformed hp hexec, qsend_reply_foreign hp hexec, qsend_payload_foreign hp hexec,
    fun hf hr hy hcf => qsend_sends hp hexec hf hr hy hcf hd16 hsite⟩

end Sys2Proof.Machine
end

section
/-! SUPPORT. ADOT and AACC: the sources read, the results and their granules (R397, R398). -/

namespace Sys2Proof.Machine

/-! ## ADOT and AACC (R103, R397, R398) -/

/-- The sources of a dot instruction: its row, its rows or columns, and with .ACC its destination. -/
def dotSources (a na b rows stride nb out cnt : Nat) (acc : Prop) [Decidable acc] : List (Nat × Nat) :=
  [(a, na)] ++ (List.range rows).map (fun r => (b + r * stride, nb)) ++ (if acc then [(out, 4 * cnt)] else [])

/-- One element of a source range. -/
def dotElem (t : Slot) (f : ElemFmt × Nat) (a n j : Nat) : NumVal :=
  dotOperand t.mode f.1 (elemOf f.2 (leNat (bankRead t a n)) j)

theorem bankElems_map (t : Slot) (f : ElemFmt × Nat) (a n : Nat) : (bankElems t a n f.2).map (dotOperand t.mode f.1) =
    (List.range n).map (dotElem t f a ((n * f.2 + 7) / 8)) := List.map_map ..

/-- The bytes that a dot instruction stores. -/
def dotBytes (res : Nat → Nat × BitVec 6) (cnt : Nat) : List Byte :=
  ((List.range cnt).map res).flatMap (fun r => bytesOf 4 r.1)

theorem dotBytes_succ (res : Nat → Nat × BitVec 6) (cnt : Nat) :
    dotBytes res (cnt + 1) = dotBytes res cnt ++ bytesOf 4 (res cnt).1 := by
  simp [dotBytes, List.range_succ]

theorem length_dotBytes (res : Nat → Nat × BitVec 6) (cnt : Nat) : (dotBytes res cnt).length = 4 * cnt := by
  induction cnt with
  | zero => rfl
  | succ n ih => rw [dotBytes_succ, List.length_append, ih, Laws.bytesOf_length]; rfl

theorem getD_dotBytes (res : Nat → Nat × BitVec 6) {cnt k j : Nat} (hk : k < cnt) (hj : j < 4) :
    (dotBytes res cnt).getD (4 * k + j) 0 = BitVec.ofNat 8 ((res k).1 / 2 ^ (8 * j)) := by
  induction cnt with
  | zero => omega
  | succ n ih =>
    have hlen := length_dotBytes res n
    rw [dotBytes_succ]
    by_cases hlt : k < n
    · rw [List.getD_append _ _ _ _ (by omega), ih hlt]
    · obtain rfl : k = n := by omega
      rw [List.getD_append_right _ _ _ _ (by omega), hlen, Nat.add_sub_cancel_left, getD_bytesOf _ hj,
        Nat.shiftRight_eq_div_pow]

/-- The slot after a dot instruction has stored its results. -/
def dotStored (t : Slot) (res : Nat → Nat × BitVec 6) (out cnt : Nat) : Slot :=
  addFlags (setGranules (bankWrite t out (dotBytes res cnt)) out (4 * cnt) true)
    ((List.range cnt).foldl (fun f k => f ||| (res k).2) 0)

/-- What a dot instruction with checked operands does. -/
def dotBody (o : Opnd) (s : State) (srcs : List (Nat × Nat)) (res : Nat → Nat × BitVec 6) (out len cnt : Nat) : Res State :=
  match emptyIn s.cur srcs with
  | some g => blockOn (.granule none g)
  | none => do
    let s1 ← srcs.foldlM
      (fun u r => checkGranules u s.cur.id s.cur.id (slotCode s.cur.id) (.waiting false) r.1 r.2) s
    need (!srcs.any (fun r => bankPoisoned s.cur r.1 r.2)) 0x2F
    let s2 ← checkGranules s1 s.cur.id s.cur.id (slotCode s.cur.id) (.write s.cur.det.rc) out (4 * cnt)
    .ok (holdFor ((len * cnt + 2047) / 2048 + 20) (advance (onCur s2 (fun t => dotStored t res out cnt)) o))

theorem checkGranules_plain {s : State} (hn : isDet s.cur = false) (c : SlotId) (x : BitVec 9) (g : GranAccess) (a n : Nat) :
    checkGranules s c s.cur.id x g a n = .ok s := by
  rw [checkGranules, slotOf_cur]
  exact if_neg (by simp [hn])

section
variable {o : Opnd} {s : State} {srcs : List (Nat × Nat)} {res : Nat → Nat × BitVec 6} {out len cnt : Nat}

theorem dotBody_empty {g : Nat} (he : emptyIn s.cur srcs = some g) :
    dotBody o s srcs res out len cnt = blockOn (.granule none g) := by
  rw [dotBody, he]

theorem dotBody_full (he : emptyIn s.cur srcs = none) (hn : isDet s.cur = false) : dotBody o s srcs res out len cnt =
    (need (!srcs.any (fun r => bankPoisoned s.cur r.1 r.2)) 0x2F).bind (fun _ =>
      .ok (holdFor ((len * cnt + 2047) / 2048 + 20) (advance (onCur s (fun t => dotStored t res out cnt)) o))) := by
  have hfold (rs : List (Nat × Nat)) : rs.foldlM
      (fun u r => checkGranules u s.cur.id s.cur.id (slotCode s.cur.id) (.waiting false) r.1 r.2) s = .ok s := by
    induction rs with
    | nil => rfl
    | cons r rs ih => rw [List.foldlM_cons, checkGranules_plain hn, res_ok_bind, ih]
  rw [dotBody, he]
  dsimp only
  rw [hfold, res_ok_bind, checkGranules_plain hn, res_ok_bind]
  rfl

/-- What the results of a dot instruction leave of the slot (R397). -/
theorem dotStored_eq (t : Slot) (hc : 0 < cnt) : ∃ b e, dotStored t res out cnt = { t with
      banks := b, empty := e, poison := curePoison t.poison out (4 * cnt)
      flags := t.flags ||| (List.range cnt).foldl (fun f k => f ||| (res k).2) 0 }
    ∧ (∀ k j, k < cnt → j < 4 → sget 0 b (out + 4 * k + j) = BitVec.ofNat 8 ((res k).1 / 2 ^ (8 * j)))
    ∧ (∀ a, a < out ∨ out + 4 * cnt ≤ a → sget 0 b a = bankByte t a)
    ∧ ∀ g, sget true e g = (granuleFull t g || decide (out / 16 ≤ g) && decide (g ≤ (out + 4 * cnt - 1) / 16)) := by
  have hlen := length_dotBytes res cnt
  refine ⟨ssetRange 0 t.banks out (dotBytes res cnt), (setGranules (bankWrite t out (dotBytes res cnt)) out (4 * cnt) true).empty, ?_, fun k j hk hj => ?_,
    fun a ha => ?_, fun g => ?_⟩
  · rw [dotStored, setGranules_eq, ← hlen]
    rfl
  · rw [sget_ssetRange, if_pos (by omega), Nat.add_assoc, Nat.add_sub_cancel_left, getD_dotBytes res hk hj]
  · rw [sget_ssetRange, if_neg (by omega)]
    rfl
  · have h := granuleFull_setGranules (bankWrite t out (dotBytes res cnt)) out (4 * cnt) true g
    refine h.trans ?_
    change (if _ then true else granuleFull t g) = _
    simp only [mem_granulesOf]
    split
    · next hg => simp [hg]
    · next hg =>
      have hout : (decide (out / 16 ≤ g) && decide (g ≤ (out + 4 * cnt - 1) / 16)) = false := by
        simp only [Bool.and_eq_false_iff, decide_eq_false_iff_not]
        omega
      rw [hout, Bool.or_false]

end

section
variable {o : Opnd} {s : State} {d x y w : Word} {fa fb : ElemFmt × Nat} (hp : s.mgmt.powered = true)
  (hd : srcG s.cur o.d o.feD = .ok d) (hx : srcG s.cur o.a o.feA = .ok x) (hy : srcG s.cur o.b o.feB = .ok y)
  (hw : srcG s.cur o.c o.feC = .ok w) (columns : Bool)
include hd hx hy hw

theorem attentionDot_wide (hwide : 2 ^ 48 ≤ w.toNat) : attentionDot o s columns = issue s o (raise 0x04) := by
  have hbits : bits w 63 48 ≠ 0 := by rw [bits_eq]; have := w.isLt; omega
  rw [attentionDot]
  dsimp only
  rw [hd, res_ok_bind, hx, res_ok_bind, hy, res_ok_bind, hw, res_ok_bind, if_pos hbits]

/-- The result `k` of a dot instruction. -/
def dotResult (t : Slot) (fa fb : ElemFmt × Nat) (a len b rowLen stride : Nat) (acc : Prop) [Decidable acc]
    (columns : Bool) (out k : Nat) : Nat × BitVec 6 :=
  dotOf t.mode (isIntFmt fa.1 && isIntFmt fb.1) ((List.range len).map (dotElem t fa a ((len * fa.2 + 7) / 8)))
    ((List.range len).map (fun j => if columns then dotElem t fb (b + j * stride) ((rowLen * fb.2 + 7) / 8) k
      else dotElem t fb (b + k * stride) ((rowLen * fb.2 + 7) / 8) j))
    (if acc then some (leNat (bankRead t (out + 4 * k) 4)) else none)

/-- The second operand list of result `i`: a column of the rows read, or row `i`. -/
def dotColumn (t : Slot) (fb : ElemFmt × Nat) (b nb rowLen stride rows : Nat) (columns : Bool) (i : Nat) : List NumVal :=
  if columns then
    (((List.range rows).map (fun r => (b + r * stride, nb))).map (fun r => (List.range rowLen).map (dotElem t fb r.1 nb))).map
      (fun r => r.getD i .nan)
  else
    (((List.range rows).map (fun r => (b + r * stride, nb))).map (fun r => (List.range rowLen).map (dotElem t fb r.1 nb))).getD i []

omit hd hx hy hw in
theorem dotColumn_eq (t : Slot) (fb : ElemFmt × Nat) (b nb stride : Nat) {len cnt rows rowLen i : Nat}
    (hrows : rows = if columns then len else cnt) (hrowLen : rowLen = if columns then cnt else len) (hi : i < cnt) :
    dotColumn t fb b nb rowLen stride rows columns i = (List.range len).map (fun j =>
      if columns then dotElem t fb (b + j * stride) nb i else dotElem t fb (b + i * stride) nb j) := by
  subst hrows hrowLen
  cases columns with
  | false => simp [dotColumn, hi]
  | true => simp [dotColumn, hi, Function.comp_def]

variable (hw48 : w.toNat < 2 ^ 48) (hx22 : x.toNat < 2 ^ 22) (hy22 : y.toNat < 2 ^ 22) (hy16 : y.toNat % 16 = 0)
  (hd22 : d.toNat < 2 ^ 22) (hfa : dotFormat (bankFmt s.cur x.toNat) = some fa)
  (hfb : dotFormat (bankFmt s.cur y.toNat) = some fb) (hfd : (bankFmt s.cur d.toNat).extractLsb' 24 4 = 1)
  {len cnt stride rows rowLen : Nat} (hlen : len = w.toNat % 2 ^ 16 + 1) (hcnt : cnt = w.toNat / 2 ^ 16 % 2 ^ 16 + 1)
  (hstride : stride = 16 * (w.toNat / 2 ^ 32)) (hrows : rows = if columns then len else cnt)
  (hrowLen : rowLen = if columns then cnt else len)
  (hxb : ownsBank s.cur x.toNat = true) (hyb : ownsBank s.cur y.toNat = true) (hdb : ownsBank s.cur d.toNat = true)
  (hxo : ownsRange s.cur x.toNat ((len * fa.2 + 7) / 8) = true)
  (hyo : ownsRange s.cur y.toNat ((rows - 1) * stride + (rowLen * fb.2 + 7) / 8) = true)
  (hdo : ownsRange s.cur d.toNat (4 * cnt) = true)
include hw48 hx22 hy22 hy16 hd22 hfa hfb hfd hlen hcnt hstride hrows hrowLen hxb hyb hdb hxo hyo hdo

theorem attentionDot_eq : attentionDot o s columns = issue s o (dotBody o s
    (dotSources x.toNat ((len * fa.2 + 7) / 8) y.toNat rows stride ((rowLen * fb.2 + 7) / 8) d.toNat cnt (o.lvl = 1))
    (dotResult s.cur fa fb x.toNat len y.toNat rowLen stride (o.lvl = 1) columns d.toNat) d.toNat len cnt) := by
  have hone {t : Slot} {a : Nat} (h : ownsBank t a = true) : ¬ (!ownsRange t a 1) = true := by
    simp [ownsRange, h]
  have hbits : ¬ bits w 63 48 ≠ 0 := by rw [bits_eq]; omega
  have hlen' : bits w 15 0 + 1 = len := by rw [bits_eq, hlen]; simp
  have hcnt' : bits w 31 16 + 1 = cnt := by rw [bits_eq, hcnt]
  have hstride' : 16 * bits w 47 32 = stride := by rw [bits_eq, hstride]; omega
  replace hfd : (bankFmt s.cur d.toNat).extractLsb' 24 4 = 1#4 := hfd
  obtain ⟨fa, wa⟩ := fa
  obtain ⟨fb, wb⟩ := fb
  rw [attentionDot]
  dsimp only
  rw [hd, res_ok_bind, hx, res_ok_bind, hy, res_ok_bind, hw, res_ok_bind, if_neg hbits, localAddr_of_lt hx22 (Nat.mod_one _),
    res_ok_bind, localAddr_of_lt hy22 hy16, res_ok_bind, localAddr_of_lt hd22 (Nat.mod_one _), res_ok_bind, if_neg (hone hxb),
    if_neg (hone hyb), if_neg (hone hdb), hfa, hfb, hfd, hlen', hcnt', hstride', ← hrows, ← hrowLen]
  dsimp only at hxo hyo
  simp only [hxo, hyo, hdo, Bool.not_true, Bool.false_eq_true, if_false, bankElems_map _ (fa, wa), bankElems_map _ (fb, wb)]
  have hres := List.map_congr_left (l := List.range cnt) (fun i hi => congrArg
    (fun ys => dotOf s.cur.mode (isIntFmt fa && isIntFmt fb)
      ((List.range len).map (dotElem s.cur (fa, wa) x.toNat ((len * wa + 7) / 8))) ys
      (if o.lvl = 1 then some (leNat (bankRead s.cur (d.toNat + 4 * i) 4)) else none))
    (dotColumn_eq columns s.cur (fb, wb) y.toNat ((rowLen * wb + 7) / 8) stride hrows hrowLen (List.mem_range.1 hi)))
  simp only [dotColumn] at hres
  rw [hres, List.foldl_map]
  rfl


end

theorem dotBody_rule {s : State} {o : Opnd} {srcs : List (Nat × Nat)} {res : Nat → Nat × BitVec 6} {out len cnt : Nat}
    {q : Result} (hp : s.mgmt.powered = true) (hc : 0 < cnt) (hq : q = issue s o (dotBody o s srcs res out len cnt)) :
    (∀ g, emptyIn s.cur srcs = some g → q = .next (blockCtl s (.granule none g)))
    ∧ (emptyIn s.cur srcs = none → isDet s.cur = false → (∃ r ∈ srcs, bankPoisoned s.cur r.1 r.2 = true) →
      q = .next (takeFault s (ctlSite s o) { code := 0x2F, operand := 0 } (codeOff s)))
    ∧ (emptyIn s.cur srcs = none → isDet s.cur = false → (∀ r ∈ srcs, bankPoisoned s.cur r.1 r.2 = false) →
      ∃ b e, q = .next (holdFor ((len * cnt + 2047) / 2048 + 20) (wentOn s o { s.cur with
          banks := b, empty := e, poison := curePoison s.cur.poison out (4 * cnt)
          flags := s.cur.flags ||| (List.range cnt).foldl (fun f k => f ||| (res k).2) 0 }))
        ∧ (∀ k j, k < cnt → j < 4 → sget 0 b (out + 4 * k + j) = BitVec.ofNat 8 ((res k).1 / 2 ^ (8 * j)))
        ∧ (∀ a, a < out ∨ out + 4 * cnt ≤ a → sget 0 b a = bankByte s.cur a)
        ∧ ∀ g, sget true e g = (granuleFull s.cur g || decide (out / 16 ≤ g) && decide (g ≤ (out + 4 * cnt - 1) / 16))) := by
  subst hq
  refine ⟨fun g he => ?_, fun he hn hbad => ?_, fun he hn hgood => ?_⟩
  · rw [dotBody_empty he]
    exact issue_block hp
  · rw [dotBody_full he hn, List.any_eq_true.2 hbad]
    exact issue_fault hp
  · obtain ⟨b, e, hslot, hbytes, hframe, hfull⟩ := dotStored_eq (res := res) (out := out) s.cur hc
    have hany : srcs.any (fun r => bankPoisoned s.cur r.1 r.2) = false := List.any_eq_false.2 (by simpa using hgood)
    refine ⟨b, e, ?_, hbytes, hframe, hfull⟩
    rw [dotBody_full he hn, hany]
    refine (issue_ok hp).trans ?_
    have hctl : (dotStored s.cur res out cnt).ctl = s.cur.ctl := by rw [hslot]
    rw [advance_onCur hctl, hslot]

/-- Settles O40: both forms are one body (`attentionDot_eq`), which waits for its sources, is stopped by a poisoned granule,
or stores its results in bytes of their own. -/
theorem attentionDots : Obligations.AttentionDots := by
  unfold Obligations.AttentionDots
  intro o s d x y w fa fb hp hd hx hy hw
  refine ⟨fun hwide => ⟨?_, ?_⟩, fun hw48 hx22 hy22 hy16 hd22 hfa hfb hfd => ?_⟩
  · exact (attentionDot_wide hd hx hy hw false hwide).trans (issue_fault hp)
  · exact (attentionDot_wide hd hx hy hw true hwide).trans (issue_fault hp)
  · dsimp only
    refine ⟨fun hxo hyo hdo hxb hyb hdb => ?_, fun hxo hyo hdo hxb hyb hdb => ?_⟩
    · exact dotBody_rule hp (Nat.succ_pos _) (attentionDot_eq hd hx hy hw false hw48 hx22 hy22 hy16 hd22 hfa hfb hfd rfl rfl
        rfl rfl rfl hxb hyb hdb hxo hyo hdo)
    · exact dotBody_rule hp (Nat.succ_pos _) (attentionDot_eq hd hx hy hw true hw48 hx22 hy22 hy16 hd22 hfa hfb hfd rfl rfl
        rfl rfl rfl hxb hyb hdb hxo hyo hdo)

end Sys2Proof.Machine
end

section
/-! SUPPORT. Matrix records at issue: readiness, the check, the record's own effect and its operation (R346 to R364). -/

namespace Sys2Proof.Machine

/-! ## Matrix records at issue (R346 to R364) -/

/-- The work of a matrix record that has issued. -/
def mxWork (s : State) (i : Instr) (cap : RecCapture) : Work :=
  let late := decide (mxTarget s.cur (headOf i) < s.cycle)
  match i with
  | .mxstamp .. => .none
  | i => match nestOf i with
    | some b => .matrix i cap (s.cycle + nestSpan i b) 1 late
    | none => .matrix i cap s.cycle 0 late

/-- The operation of a matrix record that has issued. -/
def mxOp (s : State) (i : Instr) (bar : Option Nat) (fl : BitVec 6) (w : Work) : Op :=
  { id := 0, source := 1, coff := (recSite s true).coff, barrier := bar, barrierOff := 16 * (headOf i).cboff.toNat
    flags := fl, wrote := match i with | .mxsave .. => true | _ => false
    work := w }

/-- The state after a matrix record has issued, its own effect having left `t`. -/
def mxIssued (i : Instr) (s t : State) (bar : Option Nat) (fl : BitVec 6) (w : Work) : State :=
  let u := withOp { t.cur with time := { t.cur.time with late := false, lastIssue := s.cycle } } (headOf i).q
    (mxOp s i bar fl w)
  { t with cur := { u with mx := { u.mx with issued := true, pc := u.mx.pc + 64 } } }

section
variable {s s' : State} {matrix : Bool} {h : RecHead}

theorem issueRec_ok (hp : s.mgmt.powered = true) : issueRec s matrix h (.ok s') = .next s' := by
  simp [issueRec, hp]

theorem issueRec_fault {f : FaultInfo} (hp : s.mgmt.powered = true) :
    issueRec s matrix h (.error (.fault f)) = .next (recordFault s matrix h f) := by
  simp [issueRec, hp]

end

theorem recCounter_ok {t : Slot} {h : RecHead} (hq : h.q.toNat < recNctr t.record) (hb : t.q[h.q.toFin].boundBy = none) :
    recCounter t h = .ok h.q := by
  have hw : (h.q.setWidth 6).setWidth 4 = h.q := by simp
  have hb' : t.q[((h.q.setWidth 6).setWidth 4).toNat].boundBy = none := by
    rw [getElem_congr_idx (congrArg BitVec.toNat hw)]
    exact hb
  rw [recCounter, checkCounter_ok (by simpa using (by omega : h.q.toNat % 64 < recNctr t.record)) hb', hw]

theorem slip_slipped (s : State) (i : Instr) :
    onCur s (fun t => slip t (s.cycle - mxTarget s.cur (headOf i)) (decide (mxTarget s.cur (headOf i) < s.cycle)))
      = slipped s i := by
  have hpos : decide (mxTarget s.cur (headOf i) < s.cycle) = decide (0 < s.cycle - mxTarget s.cur (headOf i)) :=
    decide_eq_decide.2 (by omega)
  rw [hpos, slipped, onCur]
  simp [slip]

section
variable {s : State} {i : Instr} {check : Slot → Res Unit} {perform : State → Option Capture → Res (State × BitVec 6 × List Byte)}

theorem mxIssue_ready {bar : Option Nat} {use : Option Capture} {t : State} {fl : BitVec 6} {out : List Byte}
    (hr : matrixReady s i bar use) (hcheck : check s.cur = .ok ()) (hperf : perform (slipped s i) use = .ok (t, fl, out)) :
    mxIssue s i check perform = .next (mxIssued i s t bar fl (mxWork s i { matrixCap s i use with out := out })) := by
  obtain ⟨hp, hcome, hstrict, hq, hb, hempty, hclear, huses, hord⟩ := hr
  have hlt : ¬ s.cycle < mxTarget s.cur (headOf i) := by omega
  have hready : ¬ (!mxClear s.cur i s.cycle || (isStrict s.cur && decide (mxTarget s.cur (headOf i) < s.cycle))) = true := by
    rw [hclear]
    cases hs : isStrict s.cur with
    | false => simp
    | true => simp [hstrict hs]
  unfold mxIssue
  dsimp only
  rw [if_neg hlt, recCounter_ok hq hb, res_ok_bind, hcheck, res_ok_bind, hempty]
  dsimp only
  rw [if_neg hready, huses]
  dsimp only
  have hfree : ¬ (!orderFree s.cur (headOf i).q (touches s.cur (.matrix i (matrixCap s i use) s.cycle 0 false))) = true := by
    simp [hord]
  refine (congrArg (issueRec s true (headOf i)) (if_neg hfree)).trans ?_
  rw [slip_slipped, hperf, res_ok_bind]
  exact issueRec_ok hp

/-- A record whose check fails at issue. -/
theorem mxIssue_check_fault {f : FaultInfo} (hp : s.mgmt.powered = true) (hcome : mxTarget s.cur (headOf i) ≤ s.cycle)
    (hq : (headOf i).q.toNat < recNctr s.cur.record) (hb : s.cur.q[(headOf i).q.toFin].boundBy = none)
    (hcheck : check s.cur = .error (.fault f)) : mxIssue s i check perform = .next (recordFault s true (headOf i) f) := by
  unfold mxIssue
  dsimp only
  rw [if_neg (by omega), recCounter_ok hq hb, res_ok_bind, hcheck, res_error_bind, issueRec_fault hp]

/-- A record that is not clear in its target cc (R351). -/
theorem mxIssue_unclear (hcome : mxTarget s.cur (headOf i) ≤ s.cycle)
    (hq : (headOf i).q.toNat < recNctr s.cur.record) (hb : s.cur.q[(headOf i).q.toFin].boundBy = none)
    (hcheck : check s.cur = .ok ()) (hempty : emptyOperand s s.cur i (headOf i) = none)
    (hclear : mxClear s.cur i s.cycle = false) :
    mxIssue s i check perform = issueRec s true (headOf i) (mxLate s) := by
  unfold mxIssue
  dsimp only
  rw [if_neg (by omega), recCounter_ok hq hb, res_ok_bind, hcheck, res_ok_bind, hempty]
  dsimp only
  rw [if_pos (by simp [hclear])]

theorem mxLate_strict (hp : s.mgmt.powered = true) {h : RecHead} (hs : isStrict s.cur = true) :
    issueRec s true h (mxLate s) = .next (recordFault s true h { code := 0x19 }) := by
  rw [mxLate, if_pos hs]
  exact issueRec_fault hp

theorem mxLate_waits (hp : s.mgmt.powered = true) {h : RecHead} (hs : isStrict s.cur = false) :
    issueRec s true h (mxLate s) = .next { s with cur := { s.cur with
      mx := { s.cur.mx with issued := true }, time := { s.cur.time with late := true } } } := by
  rw [mxLate, if_neg (by simp [hs])]
  exact issueRec_ok hp

end

/-! ### The records' own effects -/

theorem mem_maskTiles {mask : BitVec 8} {n : BitVec 3} : n ∈ maskTiles mask ↔ mask.getLsbD n.toNat = true := by
  simp only [maskTiles, List.mem_map, List.mem_filter, List.mem_range]
  constructor
  · rintro ⟨m, ⟨hm, hbit⟩, rfl⟩
    rwa [BitVec.toNat_ofNat, Nat.mod_eq_of_lt hm]
  · exact fun hbit => ⟨n.toNat, ⟨n.isLt, hbit⟩, by simp⟩

theorem mask_declared {mask amask : BitVec 8} :
    mask &&& ~~~amask = 0 ↔ ∀ n ∈ maskTiles mask, amask.getLsbD n.toNat = true := by
  constructor
  · intro h n hn
    have hbit := congrArg (fun x : BitVec 8 => x.getLsbD n.toNat) h
    have hlt := n.isLt
    simpa [mem_maskTiles.1 hn, show n.toNat < 8 from hlt] using hbit
  · intro h
    apply BitVec.eq_of_getLsbD_eq
    intro k hk
    have hn := h (BitVec.ofNat 3 k)
    rw [mem_maskTiles, BitVec.toNat_ofNat, Nat.mod_eq_of_lt hk] at hn
    simpa [hk] using hn

theorem maskTiles_declared {t : Slot} {ns : List (BitVec 3)}
    (hm : ∀ n ∈ ns, (recAmask t.record).getLsbD n.toNat = true) : ns.foldlM (fun _ n => needTile t n) () = Except.ok () := by
  induction ns with
  | nil => rfl
  | cons n ns ih =>
    rw [List.foldlM_cons, needTile, if_pos (hm n List.mem_cons_self), res_ok_bind]
    exact ih (fun m h => hm m (List.mem_cons_of_mem _ h))

theorem maskTiles_undeclared {t : Slot} {ns : List (BitVec 3)}
    (hm : ¬ ∀ n ∈ ns, (recAmask t.record).getLsbD n.toNat = true) :
    ns.foldlM (fun _ n => needTile t n) () = Except.error (.fault { code := 0x09 }) := by
  induction ns with
  | nil => exact absurd (fun n h => absurd h List.not_mem_nil) hm
  | cons n ns ih =>
    rw [List.foldlM_cons, needTile]
    by_cases hn : (recAmask t.record).getLsbD n.toNat = true
    · rw [if_pos hn, res_ok_bind]
      exact ih (fun h => hm (List.forall_mem_cons.2 ⟨hn, h⟩))
    · rw [if_neg hn]
      rfl

/-- Tiles zeroed one after another, all landing in one cc (R361). -/
def clearTiles (t : Slot) (ns : List (BitVec 3)) (lands : Nat) : Slot := ns.foldl (fun t n => clearTile t n lands) t

/-- A cleared tile. -/
def clearedTile (x : Tile) : Tile := { x with count := 0, opened := false, qa := none }

theorem tiles_clearTile (t : Slot) (m : BitVec 3) (lands : Nat) (n : Fin 8) :
    (clearTile t m lands).tiles[n] = if m.toNat = n then clearedTile t.tiles[n] else t.tiles[n] := by
  have hset : (clearTile t m lands).tiles = t.tiles.set m.toNat (clearedTile t.tiles[m.toNat]) := rfl
  rw [hset]
  by_cases h : m.toNat = n
  · rw [if_pos h]
    simp [h]
  · rw [if_neg h]
    simp [h]

theorem acc_clearTile (t : Slot) (m : BitVec 3) (lands n k : Nat) (hk : k < 16384) :
    sget 0 (clearTile t m lands).acc (16384 * n + k) = (if m.toNat = n then 0 else sget 0 t.acc (16384 * n + k))
    ∧ sget 0 (clearTile t m lands).accFlags (16384 * n + k)
      = (if m.toNat = n then 0 else sget 0 t.accFlags (16384 * n + k)) := by
  have hacc : (clearTile t m lands).acc = sclear t.acc (accKey m 0 0) (accKey m 64 0) := rfl
  have hflags : (clearTile t m lands).accFlags = sclear t.accFlags (accKey m 0 0) (accKey m 64 0) := rfl
  have hkey : (accKey m 0 0 ≤ 16384 * n + k ∧ 16384 * n + k < accKey m 64 0) ↔ m.toNat = n := by
    unfold accKey
    omega
  rw [hacc, hflags, sget_sclear, sget_sclear]
  simp only [hkey, and_self]

theorem clearTiles_frame (ns : List (BitVec 3)) (t : Slot) (lands : Nat) : clearTiles t ns lands = { t with
    acc := (clearTiles t ns lands).acc, accFlags := (clearTiles t ns lands).accFlags, tiles := (clearTiles t ns lands).tiles
    time := { t.time with lands := t.time.lands ++ ns.map (fun n => ⟨n, lands, true⟩) } } := by
  induction ns generalizing t with
  | nil => simp [clearTiles]
  | cons n ns ih =>
    have hstep : clearTiles t (n :: ns) lands = clearTiles (clearTile t n lands) ns lands := rfl
    rw [hstep, ih]
    simp [clearTile, addLanding, setTile, zeroTile]

theorem tiles_clearTiles (ns : List (BitVec 3)) (t : Slot) (lands : Nat) (n : Fin 8) :
    (clearTiles t ns lands).tiles[n] = (if BitVec.ofNat 3 n ∈ ns then clearedTile t.tiles[n] else t.tiles[n])
    ∧ ∀ k, k < 16384 →
      sget 0 (clearTiles t ns lands).acc (16384 * n + k)
        = (if BitVec.ofNat 3 n ∈ ns then 0 else sget 0 t.acc (16384 * n + k))
      ∧ sget 0 (clearTiles t ns lands).accFlags (16384 * n + k)
        = (if BitVec.ofNat 3 n ∈ ns then 0 else sget 0 t.accFlags (16384 * n + k)) := by
  induction ns generalizing t with
  | nil => exact ⟨rfl, fun k _ => ⟨rfl, rfl⟩⟩
  | cons m ns ih =>
    have hstep : clearTiles t (m :: ns) lands = clearTiles (clearTile t m lands) ns lands := rfl
    have hm : m.toNat = n ↔ BitVec.ofNat 3 n = m := by
      constructor
      · rintro h
        rw [← h, BitVec.ofNat_toNat, BitVec.setWidth_eq]
      · rintro rfl
        rw [BitVec.toNat_ofNat, Nat.mod_eq_of_lt n.isLt]
    obtain ⟨htiles, hkeys⟩ := ih (clearTile t m lands)
    rw [hstep]
    refine ⟨?_, fun k hk => ?_⟩
    · rw [htiles, tiles_clearTile]
      by_cases h : BitVec.ofNat 3 n = m <;> by_cases h' : BitVec.ofNat 3 n ∈ ns <;>
        simp only [hm, List.mem_cons, h, h', if_true, if_false, true_or, or_true, or_self, ite_self, clearedTile]
    · obtain ⟨hacc, hflags⟩ := hkeys k hk
      obtain ⟨hacc', hflags'⟩ := acc_clearTile t m lands n k hk
      rw [hacc, hflags, hacc', hflags']
      by_cases h : BitVec.ofNat 3 n = m <;> by_cases h' : BitVec.ofNat 3 n ∈ ns <;>
        simp only [hm, List.mem_cons, h, h', if_true, if_false, true_or, or_true, or_self, ite_self, and_self]

/-- A compute-pipe product that is ready (R356, R358). -/
theorem mxProduct_ready {s : State} {i : Instr} {b : MxNest} {f : BitVec 2} {t : Slot} {bar : Option Nat}
    (hf : recFifo i = some f) (hr : matrixReady s i bar none) (hcheck : checkNest s.cur i b = .ok ())
    (hit : iteration (slipped s i).cur i b s.cur.fifos[f.toFin].issuedC 0 s.cycle = .ok t) :
    mxProduct s i b = .next (mxIssued i s { slipped s i with cur := consumeAt t f b.consume.toNat } bar 0
      (mxWork s i { matrixCap s i none with out := [] })) := by
  rw [mxProduct]
  refine mxIssue_ready (t := { slipped s i with cur := consumeAt t f b.consume.toNat }) (fl := 0) (out := []) hr hcheck ?_
  have hit' : iteration (slipped s i).cur i b (slipped s i).cur.fifos[f.toNat].issuedC 0 (slipped s i).cycle = .ok t := hit
  dsimp only
  rw [hf]
  dsimp only
  rw [hit', res_ok_bind]
  rfl

/-- What a drain leaves of the tile that it reads until `last` (R348, R360). -/
def drainIssued (t : Slot) (b : MxDrainBody) (last : Nat) : Slot :=
  if b.clr then clearTile (addRead t b.tile last) b.tile last else addRead t b.tile last

/-- Settles O41: every record issues through `mxIssue`, and what is left is its check and its own effect. -/
theorem matrixRecordsIssue : Obligations.MatrixRecordsIssue := by
  unfold Obligations.MatrixRecordsIssue
  intro h s bar
  dsimp only
  refine ⟨fun b hr => ?_, fun hr => ?_, fun i b hi hp hcome hq hb hempty hclear => ?_, fun mask => ⟨fun hm hr => ?_,
    fun hm hp hcome hq hb => ?_⟩, fun b p hpos hlo hhi hr hheld htrit => ?_, fun i b t hi hr hcheck hit => ?_,
    fun b f bits s0 hcheck hcls hr hpois hgran => ?_, fun b c pa htile hr hpage => ?_, fun b c pa htile hr hpage => ?_⟩
  · unfold issuesMatrix
    rw [exec_mxstamp, execMxstamp]
    exact mxIssue_ready hr rfl rfl
  · unfold issuesMatrix
    rw [exec_mxend, execMxend]
    exact mxIssue_ready hr rfl rfl
  · obtain ⟨check, perform, hi', hh, hc⟩ : ∃ check perform, exec i s = mxIssue s i check perform ∧ headOf i = h
        ∧ check s.cur = .ok () := by
      rcases hi with rfl | rfl
      · exact ⟨_, _, by rw [exec_mxstamp, execMxstamp], rfl, rfl⟩
      · exact ⟨_, _, by rw [exec_mxend, execMxend], rfl, rfl⟩
    subst hh
    have hlate := hi'.trans (mxIssue_unclear hcome hq hb hc hempty hclear)
    exact ⟨fun hs => hlate.trans (mxLate_strict hp hs), fun hs => hlate.trans (mxLate_waits hp hs)⟩
  · have hmem (n : Fin 8) : BitVec.ofNat 3 n ∈ maskTiles mask ↔ mask.getLsbD n = true := by
      rw [mem_maskTiles, BitVec.toNat_ofNat, Nat.mod_eq_of_lt n.isLt]
    refine ⟨clearTiles (slipped s (.mxzero h mask)).cur (maskTiles mask) (s.cycle + 8), clearTiles_frame .., ?_,
      fun n => ?_⟩
    · unfold issuesMatrix
      rw [exec_mxzero, execMxzero]
      exact mxIssue_ready hr (maskTiles_declared (mask_declared.1 hm)) rfl
    · obtain ⟨htiles, hkeys⟩ := tiles_clearTiles (maskTiles mask) (slipped s (.mxzero h mask)).cur (s.cycle + 8) n
      refine ⟨htiles.trans (if_congr (hmem n) rfl rfl), fun k hk => ?_⟩
      obtain ⟨hacc, hflags⟩ := hkeys k hk
      exact ⟨hacc.trans (if_congr (hmem n) rfl rfl), hflags.trans (if_congr (hmem n) rfl rfl)⟩
  · rw [recordFaults, exec_mxzero, execMxzero]
    exact mxIssue_check_fault hp hcome hq hb (maskTiles_undeclared (mt mask_declared.2 hm))
  · unfold issuesMatrix
    rw [exec_mxldw, execMxldw]
    have hwindow : ¬ ((s.cur.fifos[(if b.fsel then 3 else 2 : BitVec 2).toNat].issuedC : Int) + b.start.toInt
          < max 0 ((s.cur.fifos[(if b.fsel then 3 else 2 : BitVec 2).toNat].issuedC : Int) - 4)
        ∨ (s.cur.fifos[(if b.fsel then 3 else 2 : BitVec 2).toNat].issuedC : Int) + 4
          ≤ s.cur.fifos[(if b.fsel then 3 else 2 : BitVec 2).toNat].issuedC + b.start.toInt) := by
      have h0 : 0 ≤ (s.cur.fifos[(if b.fsel then 3 else 2 : BitVec 2).toNat].issuedC : Int) + b.start.toInt := hpos
      have h1 : (s.cur.fifos[(if b.fsel then 3 else 2 : BitVec 2).toNat].issuedC : Int) - 4
        ≤ s.cur.fifos[(if b.fsel then 3 else 2 : BitVec 2).toNat].issuedC + b.start.toInt := hlo
      have h2 : (s.cur.fifos[(if b.fsel then 3 else 2 : BitVec 2).toNat].issuedC : Int) + b.start.toInt
        < s.cur.fifos[(if b.fsel then 3 else 2 : BitVec 2).toNat].issuedC + 4 := hhi
      omega
    refine mxIssue_ready hr (if_neg hwindow) ?_
    have hpos' : heldPosition (slipped s (.mxldw h b)).cur (if b.fsel then 3 else 2)
        ((slipped s (.mxldw h b)).cur.fifos[(if b.fsel then 3 else 2 : BitVec 2).toNat].issuedC + b.start.toInt) = some p := hheld
    dsimp only
    rw [hpos']
    dsimp only
    rw [if_neg (not_not.2 htrit)]
    rfl
  · rcases hi with rfl | rfl | rfl | rfl
    · exact mxProduct_ready (i := .mxacc h b) rfl hr hcheck hit
    · exact mxProduct_ready (i := .mxperm h b) rfl hr hcheck hit
    · exact mxProduct_ready (i := .mxred h b) rfl hr hcheck hit
    · exact mxProduct_ready (i := .mxtrn h b) rfl hr hcheck hit
  · refine ⟨bankOnly_checkGranules hgran, ?_⟩
    unfold issuesMatrix
    rw [exec_mxdrain, execMxdrain]
    refine mxIssue_ready (t := { s0 with cur := drainIssued s0.cur b (s.cycle + drainSpan b (bankFmt s.cur b.dst.toNat)) })
      (fl := (drainValues s.cur b f bits).2) (out := (drainValues s.cur b f bits).1.flatten) hr hcheck ?_
    have hj := judged_checkGranules hgran
    have hcls' : bankClass (bankFmt (slipped s (.mxdrain h b)).cur b.dst.toNat) = .elem f bits := hcls
    dsimp only
    rw [hcls']
    dsimp only
    have hgran' : checkGranules (slipped s (.mxdrain h b)) (slipped s (.mxdrain h b)).cur.id (slipped s (.mxdrain h b)).cur.id
        (engineCode (slipped s (.mxdrain h b)).cur.id h.q) (.waiting h.cor) b.scl.toNat (drainScaleBytes b) = .ok s0 := hgran
    have hslot : slotOf s0 (slipped s (.mxdrain h b)).cur.id = some s0.cur := by
      rw [← hj.cur_id]
      exact slotOf_cur s0
    have hpoison : s0.cur.poison = s.cur.poison := by rw [hj]; rfl
    have hclean : ¬ bankPoisoned s0.cur b.scl.toNat (drainScaleBytes b) = true := by
      rw [bankPoisoned, hpoison]
      exact Bool.eq_false_iff.1 hpois
    have hvalues : drainValues s0.cur b f bits = drainValues s.cur b f bits := by rw [hj]; rfl
    have hcycle : s0.cycle = s.cycle := by rw [hj]; rfl
    rw [hgran', res_ok_bind, bankData, hslot]
    dsimp only
    rw [if_neg hclean, res_ok_bind, hvalues, ← hcycle]
    rfl
  · unfold issuesMatrix
    rw [exec_mxsave, execMxsave]
    refine mxIssue_ready hr (if_pos htile) ?_
    dsimp only
    rw [hpage]
    rfl
  · unfold issuesMatrix
    rw [exec_mxrest, execMxrest]
    refine mxIssue_ready hr (if_pos htile) ?_
    dsimp only
    rw [hpage]
    rfl

end Sys2Proof.Machine
end

section
/-! SUPPORT. A CPYNET to the own package at issue (R24, R390). -/

namespace Sys2Proof.Machine

open Tests

/-! ## A transfer to the own package at issue (R24, R390) -/

/-- A transfer of one byte at offset 0 of bank 0 to the package's own memory. -/
def nearBody : CpyNetBody := { lkind := 1, dev := (copyState []).devid }

/-- Whether some operation of the slot is a transfer whose frames are already accounted for, as one within the package is. -/
def netSent (t : Slot) : Bool :=
  t.ops.any (fun o => match o.work with
    | .net _ _ _ _ sent _ => sent.isSome
    | _ => false)

/-- Refutes O43: a CPYNET that names the package's own device ID issues with its operation marked as a transfer within the
package, where the statement has every CPYNET issue unmarked. -/
theorem not_copyRecordsIssue : ¬ Obligations.CopyRecordsIssue := by
  unfold Obligations.CopyRecordsIssue
  intro h
  obtain ⟨-, h⟩ := h {} (copyState []) none
  have hready : copyReady (copyState []) {} none := ⟨rfl, fun hs => absurd hs Bool.false_ne_true, by decide +kernel, rfl, rfl⟩
  obtain ⟨-, -, -, -, -, hnet, -, -⟩ := h hready
  have hexec := hnet nearBody (by decide)
  have hmarked : (after (.cpynet {} nearBody) (copyState [])).map (fun t => netSent t.cur) = some true := by decide +kernel
  unfold issuesCopy at hexec
  rw [after, hexec] at hmarked
  exact absurd hmarked (by decide +kernel)

end Sys2Proof.Machine
end

section
/-! SUPPORT. Events of a slot: deferred writes, unblocking, the end of a WAIT, held events, forwards (R215 to R218, R236, R304, R431). -/

namespace Sys2Proof.Machine

/-! ## Events of a slot (R215 to R218, R236, R304, R305, R431, R433) -/

/-- Registers that hold the results of a producer, of a slot `a` for the general and `b` for the vector ones. -/
theorem slotSets_put {t a b u : Slot} {gs : List (BitVec 6 × Word)} {vs : List (BitVec 5 × BitVec 4096)}
    (hg : (gs.map (fun p => p.1)).Nodup) (hv : (vs.map (fun p => p.1)).Nodup)
    (ha : ∀ r, gval a r = gval t r ∧ gIsEmpty a r = gIsEmpty t r) (hb : ∀ r, vval b r = vval t r ∧ vIsEmpty b r = vIsEmpty t r)
    (hug : ∀ r, gval u r = gval (gs.foldl (fun t p => setG t p.1 p.2) a) r
      ∧ gIsEmpty u r = gIsEmpty (gs.foldl (fun t p => setG t p.1 p.2) a) r)
    (huv : ∀ r, vval u r = vval (vs.foldl (fun t p => setV t p.1 p.2) b) r
      ∧ vIsEmpty u r = vIsEmpty (vs.foldl (fun t p => setV t p.1 p.2) b) r) : slotSets t u gs vs := by
  refine ⟨⟨fun p hp => ?_, fun r hr => ?_⟩, fun p hp => ?_, fun r hr => ?_⟩
  · rw [(hug p.1).1, (hug p.1).2]
    exact putGs_of_mem gs a hg p hp
  · rw [(hug r).1, (hug r).2, ← (ha r).1, ← (ha r).2]
    exact putGs_of_not_mem gs a r hr
  · rw [(huv p.1).1, (huv p.1).2]
    exact putVs_of_mem vs b hv p hp
  · rw [(huv r).1, (huv r).2, ← (hb r).1, ← (hb r).2]
    exact putVs_of_not_mem vs b r hr

/-- What a pending producer leaves (R236). -/
theorem writeDeferred_eq {t : Slot} {i : Nat} {d : Deferred} (hd : t.deferred[i]? = some d)
    (hg : (d.gs.map (fun p => p.1)).Nodup) (hv : (d.vs.map (fun p => p.1)).Nodup) :
    slotSets t (writeDeferred t i) d.gs d.vs
    ∧ writeDeferred t i = { t with
        deferred := t.deferred.eraseIdx i, flags := t.flags ||| d.flags
        g := (writeDeferred t i).g, gEmpty := (writeDeferred t i).gEmpty
        v := (writeDeferred t i).v, vEmpty := (writeDeferred t i).vEmpty } := by
  obtain ⟨a, ha⟩ : ∃ a : Slot, a = { t with deferred := t.deferred.eraseIdx i } := ⟨_, rfl⟩
  obtain ⟨b, hb⟩ : ∃ b, b = d.gs.foldl (fun t p => setG t p.1 p.2) a := ⟨_, rfl⟩
  have hgs : b = { a with g := b.g, gEmpty := b.gEmpty } := hb ▸ putGs_slot d.gs a
  have hvs := putVs_slot d.vs b
  have heq : writeDeferred t i = addFlags (d.vs.foldl (fun t p => setV t p.1 p.2) b) d.flags := by
    rw [writeDeferred, hd, hb, ha]
  refine ⟨slotSets_put (a := a) (b := b) hg hv (fun r => ?_) (fun r => ?_) (fun r => ?_) (fun r => ?_), ?_⟩
  · rw [ha]
    exact ⟨rfl, rfl⟩
  · rw [hgs, ha]
    exact ⟨rfl, rfl⟩
  · rw [heq, hvs, ← hb]
    exact ⟨rfl, rfl⟩
  · rw [heq]
    exact ⟨rfl, rfl⟩
  · rw [heq, hvs, hgs, ha]
    rfl

section
variable {s : State} {c : SlotId} {t : Slot} (hp : s.mgmt.powered = true) (hs : slotOf s c = some t)
include hp hs

theorem slotBecomes_deferredWrite {i : Nat} {d : Deferred} (hd : t.deferred[i]? = some d) (hdue : d.due ≤ s.cycle) :
    slotBecomes (.deferredWrite c i) s c (writeDeferred t i) := by
  refine ⟨_, (exec_deferredWrite ..).trans (event_next hp), fun u hu => ?_⟩
  obtain rfl := Option.some.inj (hs.symm.trans hu)
  refine if_pos ?_
  rw [deferredDue, hd]
  exact decide_eq_true hdue

theorem slotBecomes_streamUnblock {st : StreamId} (hdue : unblockDue s t st = true) :
    slotBecomes (.streamUnblock c st) s c (modStream t st (fun x => { x with blocked := none })) := by
  have hexec : exec (.streamUnblock c st) s = .next (modSlot s c (fun t => modStream t st (fun x => { x with blocked := none }))) := by
    rw [exec_streamUnblock, execStreamUnblock, event_next hp, hs]
    dsimp only
    rw [if_pos hdue]
  exact ⟨_, hexec, fun u hu => by rw [Option.some.inj (hs.symm.trans hu)]⟩

end

/-! ### WAIT -/

/-- What a condition that held acquires: counters and pairs of slots, and L1 copies. -/
def AcquiresOf (s t : State) : Prop :=
  t = { s with cur := t.cur, rest := t.rest, l1 := t.l1 }
    ∧ ∀ e u, slotOf s e = some u → ∃ u', slotOf t e = some u' ∧ u' = { u with q := u'.q, det := u'.det }

theorem AcquiresOf.refl (s : State) : AcquiresOf s s := ⟨rfl, fun _ u hu => ⟨u, hu, rfl⟩⟩

theorem AcquiresOf.trans {s t u : State} (h1 : AcquiresOf s t) (h2 : AcquiresOf t u) : AcquiresOf s u := by
  obtain ⟨hs1, hc1⟩ := h1
  obtain ⟨hs2, hc2⟩ := h2
  refine ⟨by rw [hs2, hs1], fun e a ha => ?_⟩
  obtain ⟨b, hb, hab⟩ := hc1 e a ha
  obtain ⟨d, hd, hbd⟩ := hc2 e b hb
  exact ⟨d, hd, by rw [hbd, hab]⟩

theorem AcquiresOf.modSlot {f : Slot → Slot} (hf : ∀ u, f u = { u with q := (f u).q, det := (f u).det }) (s : State) (c : SlotId) :
    AcquiresOf s (modSlot s c f) := by
  have hid (u : Slot) : (f u).id = u.id := by rw [hf u]
  refine ⟨?_, fun e u hu => ?_⟩
  · unfold Machine.modSlot
    split <;> rfl
  · rw [slotOf_modSlot hid, hu]
    by_cases he : e = c
    · exact ⟨f u, if_pos he, hf u⟩
    · exact ⟨u, if_neg he, rfl⟩

theorem acquiresOf_l1 (s : State) (l : List L1Line) : AcquiresOf s { s with l1 := l } := ⟨rfl, fun _ u hu => ⟨u, hu, rfl⟩⟩

theorem AcquiresOf.ite {s a b : State} {p : Prop} [Decidable p] (ha : AcquiresOf s a) (hb : AcquiresOf s b) :
    AcquiresOf s (if p then a else b) := by
  split
  · exact ha
  · exact hb

theorem acquiresOf_acquireCond (s : State) (c : SlotId) (w : WaitState) (i : Nat) : AcquiresOf s (acquireCond s c w i) := by
  unfold acquireCond
  split
  · exact .refl s
  · dsimp only
    split
    · exact .refl s
    · split
      · exact .ite (.ite (.trans (AcquiresOf.modSlot (fun _ => rfl) ..) (acquiresOf_l1 ..)) (AcquiresOf.modSlot (fun _ => rfl) ..))
          (.refl s)
      · unfold scopeInvalidate
        split
        · exact acquiresOf_l1 ..
        · exact .refl s
      · exact .refl s

theorem acquiresOf_fold (s : State) (c : SlotId) (w : WaitState) (is : List Nat) :
    AcquiresOf s (is.foldl (fun u i => acquireCond u c w i) s) := by
  induction is generalizing s with
  | nil => exact .refl s
  | cons i is ih => exact (acquiresOf_acquireCond s c w i).trans (ih _)

theorem bankOnly_waitReads {s t : State} {c : SlotId} {w : WaitState} (h : waitReads s c w = .ok t) : bankOnly s t [] := by
  have hfold (is : List Nat) (s : State) (h : is.foldlM (waitRead c w) s = .ok t) : bankOnly s t [] := by
    induction is generalizing s with
    | nil => obtain rfl := Except.ok.inj h; exact bankOnly_refl ..
    | cons i is ih =>
      rw [List.foldlM_cons] at h
      obtain ⟨s1, h1, h⟩ := res_bind_eq_ok.1 h
      refine bankOnly_trans ?_ (ih s1 h)
      unfold waitRead at h1
      split at h1
      · obtain rfl := Except.ok.inj h1; exact bankOnly_refl ..
      · split at h1
        · exact bankOnly_checkGranules h1
        · obtain rfl := Except.ok.inj h1; exact bankOnly_refl ..
  exact hfold _ s h

/-- What the end of a WAIT leaves of its slot. -/
def waitLeft (w : WaitState) (v : Word) (t : Slot) : Slot :=
  { setG t w.dest v with wait := none, ctl := { t.ctl with pc := t.ctl.pc + 8, blocked := none, issued := true } }

theorem waitLeft_id (w : WaitState) (v : Word) (t : Slot) : (waitLeft w v t).id = t.id := setG_id ..

theorem slotSets_waitLeft {t u : Slot} {w : WaitState} {v : Word} (hg : ∀ r, gval u r = gval t r ∧ gIsEmpty u r = gIsEmpty t r)
    (hv : ∀ r, vval u r = vval t r ∧ vIsEmpty u r = vIsEmpty t r) : slotSets t (waitLeft w v u) [(w.dest, v)] [] := by
  refine slotSets_put (a := u) (b := u) (List.nodup_singleton _) List.nodup_nil hg hv (fun r => ⟨rfl, rfl⟩) (fun r => ?_)
  rw [vval, vIsEmpty, waitLeft]
  dsimp only
  rw [setG_v, setG_vEmpty]
  exact ⟨rfl, rfl⟩

/-- The destination of a WAIT (R218). -/
theorem getLsbD_waitResult (t : Slot) (w : WaitState) (hlen : w.conds.length ≤ 4) (b : Bool) (i : Nat) :
    (word (heldBits t w + if b then 16 else 0)).getLsbD i
      = (decide (i < w.conds.length) && condHolds t w i || decide (i = 4) && b) := by
  have hheld : heldBits t w = bitSum (condHolds t w) w.conds.length := rfl
  have hlt : bitSum (condHolds t w) w.conds.length < 2 ^ 4 :=
    (bitSum_lt _ _).trans_le (Nat.pow_le_pow_right (by decide) hlen)
  cases b with
  | false =>
    rw [if_neg Bool.false_ne_true, Nat.add_zero, getLsbD_heldBits t w (by omega), Bool.and_false, Bool.or_false]
  | true =>
    rw [if_pos rfl, hheld, Nat.add_comm, word, BitVec.getLsbD_ofNat, Bool.and_true]
    have hor : 16 + bitSum (condHolds t w) w.conds.length = 2 ^ 4 * 1 ||| bitSum (condHolds t w) w.conds.length :=
      Nat.two_pow_add_eq_or_of_lt hlt 1
    rw [hor, Nat.testBit_or, testBit_bitSum, Bool.or_comm]
    by_cases hi : i < 64
    · have hbit : (2 ^ 4 * 1).testBit i = decide (i = 4) := by
        rw [Nat.mul_one, Nat.testBit_two_pow]
        exact decide_eq_decide.2 eq_comm
      rw [hbit, decide_eq_true hi, Bool.true_and]
    · have hi4 : i ≠ 4 := by omega
      have hil : ¬ i < w.conds.length := by omega
      simp [hi, hi4, hil]

/-- A WAIT that ends (R217, R218): bit 4 of the destination says that its combination did not hold at its timeout. -/
def waitEnds (s : State) (c : SlotId) (t : Slot) (w : WaitState) (i : Instr) (bit4 : Bool) : Prop :=
  ∃ r u v, exec i s = .next r ∧ slotOf r c = some u ∧ u.wait = none
    ∧ u.ctl = { t.ctl with pc := t.ctl.pc + 8, blocked := none, issued := true }
    ∧ slotSets t u [(w.dest, v)] [] ∧ r.mem = s.mem ∧ u.banks = t.banks ∧ u.flags = t.flags
    ∧ ∀ i, v.getLsbD i = (decide (i < w.conds.length) && condHolds t w i || decide (i = 4) && bit4)

section
variable {s s0 : State} {c : SlotId} {t : Slot} {w : WaitState} {i : Instr} (hs : slotOf s c = some t)
  (hlen : w.conds.length ≤ 4) (h0 : waitReads s c w = .ok s0)
include hs hlen h0

theorem waitEnds_of_finish (timeout : Bool) (hexec : exec i s = .next (waitFinish s0 c w timeout)) :
    waitEnds s c t w i (timeout && !waitMet t w) := by
  obtain ⟨hframe0, hslots0⟩ := bankOnly_waitReads h0
  obtain ⟨t0, ht0, hsame0, hbanks0⟩ := hslots0 c t hs
  have hbanks := (hbanks0 List.not_mem_nil).1
  have hheld : heldBits t0 w = heldBits t w := by rw [hsame0]; rfl
  have hmet : waitMet t0 w = waitMet t w := by rw [hsame0]; rfl
  obtain ⟨hframe1, hslots1⟩ := acquiresOf_fold s0 c w (List.range w.conds.length)
  obtain ⟨t1, ht1, hsame1⟩ := hslots1 c t0 ht0
  have hfin : waitFinish s0 c w timeout = modSlot ((List.range w.conds.length).foldl (fun s i => acquireCond s c w i) s0) c
      (waitLeft w (word (heldBits t w + if timeout && !waitMet t w then 16 else 0))) := by
    rw [waitFinish, ht0, ← hheld, ← hmet]
    rfl
  have hslot : t1 = { t with
      q := t1.q, det := t1.det, conflict := t0.conflict, owners := t0.owners, banks := t0.banks, poison := t0.poison } :=
    hsame1.trans (congrArg (fun x : Slot => { x with q := t1.q, det := t1.det }) hsame0)
  have hmem : ((List.range w.conds.length).foldl (fun s i => acquireCond s c w i) s0).mem = s.mem := by rw [hframe1, hframe0]
  refine ⟨_, waitLeft w (word (heldBits t w + if timeout && !waitMet t w then 16 else 0)) t1, _, hexec.trans (by rw [hfin]), ?_,
    rfl, ?_, slotSets_waitLeft (fun r => ?_) (fun r => ?_), ?_, ?_, ?_, getLsbD_waitResult t w hlen _⟩
  · rw [slotOf_modSlot (waitLeft_id w _), if_pos rfl, ht1]
    rfl
  · rw [waitLeft, hslot]
  · rw [hslot]
    exact ⟨rfl, rfl⟩
  · rw [hslot]
    exact ⟨rfl, rfl⟩
  · refine Eq.trans ?_ hmem
    unfold Machine.modSlot
    split <;> rfl
  · refine (setG_banks ..).trans ?_
    rw [hslot, hbanks]
  · refine (setG_flags ..).trans ?_
    rw [hslot]

end

section
variable {s : State} {c : SlotId} {t : Slot} {w : WaitState} (hp : s.mgmt.powered = true) (hs : slotOf s c = some t)
  (hw : t.wait = some w) (hawake : ctlAwake s t = true)
include hp hs hw hawake

theorem exec_waitReturn_met {s0 : State} (hmet : waitMet t w = true) (h0 : waitReads s c w = .ok s0) :
    exec (.waitReturn c) s = .next (waitFinish s0 c w false) := by
  have hret : waitReturns s t = true := by
    rw [waitReturns, hawake, hw]
    exact hmet
  rw [exec_waitReturn, execWaitReturn, event_next hp, hs]
  dsimp only
  rw [hw]
  dsimp only
  rw [if_pos hret, waitEnd, slotOf_id hs, h0]

theorem exec_waitTimeout_ok {s0 : State} (hexp : waitExpired s w = true) (hdet : (isDet t && !waitMet t w) = false)
    (h0 : waitReads s c w = .ok s0) : exec (.waitTimeout c) s = .next (waitFinish s0 c w true) := by
  have hout : waitTimesOut s t = true := by
    rw [waitTimesOut, hawake, hw]
    exact hexp
  rw [exec_waitTimeout, execWaitTimeout, event_next hp, hs]
  dsimp only
  rw [hw]
  dsimp only
  rw [hout, hdet, waitEnd, slotOf_id hs, h0]
  rfl

theorem exec_waitTimeout_trap (hexp : waitExpired s w = true) (hdet : isDet t = true) (hmet : waitMet t w = false) :
    exec (.waitTimeout c) s = .next (waitFault s t { code := 0x21, dcheck := 4, dagent := slotCode c }) := by
  have hout : waitTimesOut s t = true := by
    rw [waitTimesOut, hawake, hw]
    exact hexp
  rw [exec_waitTimeout, execWaitTimeout, event_next hp, hs]
  dsimp only
  rw [hw]
  dsimp only
  rw [hout, hdet, hmet]
  rfl

omit hp hw hawake in
theorem waitReads_other_plain (hdet : isDet t = false) : waitReads s c w = .ok s := by
  have hread (i : Nat) : waitRead c w s i = .ok s := by
    rw [waitRead, hs]
    dsimp only
    split
    · rw [checkGranules, hs]
      exact if_neg (by simp [hdet])
    · rfl
  have hfold (is : List Nat) : is.foldlM (waitRead c w) s = .ok s := by
    induction is with
    | nil => rfl
    | cons i is ih => rw [List.foldlM_cons, hread, res_ok_bind, ih]
  exact hfold _

end

/-! ### Held events (R431, R433) -/

theorem countConsumed_eq (t : Slot) (i : Instr) : ∃ f, countConsumed t i = { t with fifos := f } := by
  unfold countConsumed
  dsimp only
  split <;> exact ⟨_, rfl⟩

theorem finishOp_eq (t : Slot) (id : Nat) : ∃ o q flags, finishOp t id = { t with ops := o, q := q, flags := flags } := by
  unfold finishOp
  split
  · exact ⟨_, _, _, rfl⟩
  · dsimp only
    split
    · exact ⟨_, _, _, rfl⟩
    · split <;> exact ⟨_, _, _, rfl⟩

/-- What closes with an operation of a held event leaves the registers, the streams and the storage. -/
theorem closed_eq (t : Slot) (w : Option Work) (id : Nat) : ∃ f o q flags,
    finishOp (closeWork t w) id = { t with fifos := f, ops := o, q := q, flags := flags } := by
  obtain ⟨f, hf⟩ : ∃ f, closeWork t w = { t with fifos := f } := by
    unfold closeWork
    split
    · exact countConsumed_eq ..
    · exact ⟨_, rfl⟩
  obtain ⟨o, q, flags, ho⟩ := finishOp_eq (closeWork t w) id
  exact ⟨f, o, q, flags, by rw [ho, hf]⟩

/-- The stream of a held event stopped. -/
def eventStops (t : Slot) (e : Event) : Slot :=
  match e.stream with
  | some st => modStream t st (fun x => { x with running := false, blocked := none })
  | none => t

/-- The operation of a held event closed. -/
def eventCloses (t : Slot) (e : Event) : Slot :=
  match e.op with
  | some id => finishOp (closeWork t ((opOf t id).map (fun o => o.work))) id
  | none => t

/-- What the handler finds of a slot whose event it takes. -/
theorem takeEvent_eq (t : Slot) (e : Event) (he : e.stream ≠ some .control) : ∃ u f o q flags mx cp,
    takeEvent t e = enterHandler u e.report (t.ctl.pc - word (recCodeva t.record))
    ∧ u = { t with events := t.events.drop 1, fifos := f, ops := o, q := q, flags := flags, mx := mx, cp := cp }
    ∧ (e.stream = some .matrix → mx.running = false) ∧ (e.stream = some .copy → cp.running = false) := by
  obtain ⟨a, ha⟩ : ∃ a : Slot, a = { t with events := t.events.drop 1 } := ⟨_, rfl⟩
  obtain ⟨mx, cp, hb, hmx, hcp⟩ : ∃ mx cp, eventStops a e = { a with mx := mx, cp := cp }
      ∧ (e.stream = some .matrix → mx.running = false) ∧ (e.stream = some .copy → cp.running = false) := by
    unfold eventStops
    cases hst : e.stream with
    | none => exact ⟨_, _, rfl, nofun, nofun⟩
    | some st =>
      cases st with
      | control => exact absurd hst he
      | matrix => exact ⟨_, _, rfl, fun _ => rfl, nofun⟩
      | copy => exact ⟨_, _, rfl, nofun, fun _ => rfl⟩
  obtain ⟨f, o, q, flags, hc⟩ : ∃ f o q flags, eventCloses (eventStops a e) e
      = { eventStops a e with fifos := f, ops := o, q := q, flags := flags } := by
    unfold eventCloses
    cases e.op with
    | none => exact ⟨_, _, _, _, rfl⟩
    | some id => exact closed_eq ..
  have htake : takeEvent t e = enterHandler (eventCloses (eventStops a e) e) e.report
      ((eventCloses (eventStops a e) e).ctl.pc - word (recCodeva (eventCloses (eventStops a e) e).record)) := by
    rw [ha]
    rfl
  refine ⟨eventCloses (eventStops a e) e, f, o, q, flags, mx, cp, htake.trans ?_, by rw [hc, hb, ha], hmx, hcp⟩
  have hctl : (eventCloses (eventStops a e) e).ctl = t.ctl := by rw [hc, hb, ha]
  have hrec : (eventCloses (eventStops a e) e).record = t.record := by rw [hc, hb, ha]
  rw [hctl, hrec]

section
variable {s : State} {c : SlotId} {t : Slot} {e : Event} {es : List Event} (hp : s.mgmt.powered = true)
  (hs : slotOf s c = some t) (hev : t.events = e :: es) (hend : t.ending = [])
include hp hs hev hend

theorem exec_asyncEventTake_ended {i : Item} (hi : t.item = some i) (hended : i.ended = true) :
    exec (.asyncEventTake c) s = .next (endItem s c e.report) := by
  have hdue : eventDue s t = true := by
    simp [eventDue, hev, hend, hi, hended]
  rw [exec_asyncEventTake, execAsyncEventTake, event_next hp, hs]
  dsimp only
  rw [hdue, hev, hi]
  dsimp only
  rw [if_pos hended]
  rfl

theorem exec_asyncEventTake_taken (hi : ∀ i, t.item = some i → i.ended = false) (ha : armed t = true)
    (hb : atBoundary s t = true) (hd : ctlDrained s t = true) :
    exec (.asyncEventTake c) s = .next (modSlot s c (fun t => takeEvent t e)) := by
  have hdue : eventDue s t = true := by
    simp [eventDue, hev, hend, ha, hb, hd]
  have hlive : (match t.item with | some i => i.ended | none => false) = false := by
    cases h : t.item with
    | none => rfl
    | some i => exact hi i h
  rw [exec_asyncEventTake, execAsyncEventTake, event_next hp, hs]
  dsimp only
  rw [hdue, hev]
  dsimp only
  rw [if_neg (by simp)]
  exact congrArg Host.Outcome.next (if_neg (fun h => Bool.false_ne_true (hlive.symm.trans h)))

end

/-- Settles O44, clause by clause: the two slot events, the end of a WAIT (`waitEnds_of_finish`), the held event
(`takeEvent_eq`) and the forward. -/
theorem streamEvents_hold : Obligations.StreamEvents := by
  unfold Obligations.StreamEvents
  intro s c t hp hs
  refine ⟨fun i d hd hdue hg hv => ?_, fun st obj hobj come => ?_, fun w hw hawake hlen => ?_, fun e es hev hend => ⟨?_, ?_⟩,
    fun q b bs y t' => ?_⟩
  · obtain ⟨hsets, heq⟩ := writeDeferred_eq hd hg hv
    exact ⟨_, slotBecomes_deferredWrite hp hs hd hdue, hsets, heq⟩
  · refine slotBecomes_streamUnblock hp hs ?_
    rw [unblockDue, hobj]
    dsimp only
    rcases come with ⟨r, rfl, h⟩ | ⟨r, rfl, h⟩ | ⟨x, rfl, h⟩ | ⟨g, rfl, h⟩ | ⟨n, rfl, h⟩ | ⟨x, rfl, h⟩ | ⟨ids, rfl, h⟩ | ⟨rfl, h⟩
      | ⟨q, rfl, h⟩ | ⟨r, g, m, rfl, hm, h⟩
    · simp [objReady, h]
    · simp [objReady, h]
    · exact h
    · exact h
    · exact h
    · simp [objReady, h]
    · simpa [objReady] using h
    · exact h
    · simp [objReady, h]
    · simp [objReady, hm, h]
  · dsimp only
    refine ⟨fun hmet s0 h0 => ⟨?_, fun hexp => ?_⟩, fun hmet hall hexp => ⟨fun hdet => ?_, fun hdet => ?_⟩⟩
    · exact waitEnds_of_finish hs hlen h0 false (exec_waitReturn_met hp hs hw hawake hmet h0)
    · have h := waitEnds_of_finish hs hlen h0 true (exec_waitTimeout_ok hp hs hw hawake hexp (by simp [hmet]) h0)
      rwa [hmet] at h
    · have h0 := waitReads_other_plain (w := w) hs hdet
      have hout : waitExpired s w = true := by
        rw [waitExpired, decide_eq_true hexp, Bool.and_true]
        exact decide_eq_true hall
      have h := waitEnds_of_finish hs hlen h0 true (exec_waitTimeout_ok hp hs hw hawake hout (by simp [hdet]) h0)
      rwa [hmet] at h
    · have hout : waitExpired s w = true := by
        rw [waitExpired, decide_eq_true hexp, Bool.and_true]
        exact decide_eq_true hall
      exact ⟨_, rfl, rfl, exec_waitTimeout_trap hp hs hw hawake hout hdet hmet⟩
  · rintro ⟨i, hi, hended⟩
    exact exec_asyncEventTake_ended hp hs hev hend hi hended
  · intro hi ha hb hd hst
    obtain ⟨u, f, o, q, flags, mx, cp, htake, hu, hmx, hcp⟩ := takeEvent_eq t e hst
    have hev' : t.events.drop 1 = es := by rw [hev]; rfl
    refine ⟨takeEvent t e, ⟨_, exec_asyncEventTake_taken hp hs hev hend hi ha hb hd, fun v hv => ?_⟩, ?_, ?_, ?_, ?_,
      ?_, ?_, ?_, ?_, ?_⟩
    · rw [Option.some.inj (hs.symm.trans hv)]
    · rw [htake, enterHandler_eq, hu]
      exact hev'
    · rw [htake, enterHandler_eq]
    · rw [htake, enterHandler_eq, hu]
    · rw [htake]
      have hnodup : ([60, 61, 62, 63] : List (BitVec 6)).Nodup := by decide
      refine slotSets_put (a := u) (b := u) hnodup List.nodup_nil (fun r => ?_) (fun r => ?_) (fun r => ⟨rfl, rfl⟩) (fun r => ?_)
      · rw [hu]
        exact ⟨rfl, rfl⟩
      · rw [hu]
        exact ⟨rfl, rfl⟩
      · rw [enterHandler_eq]
        exact ⟨rfl, rfl⟩
    · rw [htake, enterHandler_eq, hu]
      exact hmx
    · rw [htake, enterHandler_eq, hu]
      exact hcp
    · rw [htake, enterHandler_eq, hu]
    · rw [htake, enterHandler_eq, hu]
    · rw [htake, enterHandler_eq, hu]
  · dsimp only
    intro hfilter hy hrel
    have hid := slotOf_id hs
    subst hid
    have hf : t.q[q.toNat].bindings.filter (fun b => forwardDue s t t.q[q.toNat] b) = b :: bs := hfilter
    rw [exec_qpubForward, execQpubForward, event_next hp, hs]
    dsimp only
    rw [hf]
    dsimp only
    rw [forwardTo, hy]
    dsimp only
    rw [hrel]
    rfl

end Sys2Proof.Machine
end

section
/-! SUPPORT. Completion, gathers, landings and barrier updates: R70 to R72, R92, R182, R221, R222, R244, R301, R308, R348, R349; O45. -/

namespace Sys2Proof.Machine

/-! ## Completion (R92, R182, R244) -/

section
variable {s : State} {c : SlotId} {t : Slot} {q : BitVec 4} {n : Nat} {o : Op} (hp : s.mgmt.powered = true)
  (hs : slotOf s c = some t) (ho : opNumbered t q n = some o)
include hp hs ho

theorem exec_recordComplete_ready (hr : completeReady s t o = true) :
    exec (.recordComplete c q n) s = .next (complete (completeWork s t o) c o.id) := by
  rw [exec_recordComplete, execRecordComplete, event_next hp, hs]
  dsimp only
  rw [ho]
  dsimp only
  rw [if_pos hr]

omit hp hs in
theorem opNumbered_q : o.q = some q := by
  have h := List.find?_some ho
  exact (of_decide_eq_true (Bool.and_eq_true_iff.1 h).1)

variable (hid : opOf t o.id = some o) (hrun : o.stopped = false) (hdead : o.dead = []) (hwork : o.work = .none)
include hid hrun hdead hwork

/-- An operation with nothing left completes, or sends its update first. -/
theorem exec_recordComplete_done : exec (.recordComplete c q n) s = .next (match o.barrier with
    | none => modSlot s c (fun t => finishOp t o.id)
    | some addr => modSlot (sendUpdate s
        { issuer := refOf t o.id, addr := addr, delta := -1, source := o.source, coff := o.coff, tenant := t.tenant
          context := t.context, completes := true, len := o.len, q := q, opnum := o.num, offset := o.barrierOff }) c
        (fun t => modOp t o.id (fun o => { o with work := .barrier, barrier := none }))) := by
  have hready : completeReady s t o = true := by
    simp [completeReady, hrun, hdead, hwork]
  have hsame : completeWork s t o = s := by
    rw [completeWork, hwork]
  have hq := opNumbered_q ho
  rw [exec_recordComplete_ready hp hs ho hready, hsame, complete, hs]
  dsimp only
  rw [hid]
  dsimp only
  rw [if_neg (by simp [hwork, hrun]), hq]
  cases o.barrier <;> rfl

end

/-- What the completion of an operation on a counter that no binding holds leaves (R92, R182). -/
theorem finishOp_free {t : Slot} {q : BitVec 4} {o : Op} (hid : opOf t o.id = some o) (hq : o.q = some q)
    (hb : t.q[q.toFin].boundBy = none) :
    (finishOp t o.id).ops = t.ops.filter (fun p => p.id ≠ o.id) ∧ (finishOp t o.id).flags = t.flags ||| o.flags
      ∧ finishOp t o.id = { t with ops := (finishOp t o.id).ops, flags := (finishOp t o.id).flags, q := (finishOp t o.id).q }
      ∧ (finishOp t o.id).q[q.toFin].value = counterValue { t with ops := (finishOp t o.id).ops } q
      ∧ ∀ k : Fin 16, k ≠ q.toFin → (finishOp t o.id).q[k] = t.q[k] := by
  have hid' : t.ops.find? (fun p => p.id = o.id) = some o := hid
  have hb' : ¬ t.q[q.toNat].boundBy.isSome = true := by
    rw [show t.q[q.toNat].boundBy = none from hb]
    exact Bool.false_ne_true
  have heq : finishOp t o.id = { addFlags t o.flags with
      ops := t.ops.filter (fun p => p.id ≠ o.id)
      q := t.q.set q.toNat { t.q[q.toNat] with
        value := counterValue { t with ops := t.ops.filter (fun p => p.id ≠ o.id) } q
        firstWrite := if o.wrote && (t.q[q.toNat].firstWrite = 0 || o.num < t.q[q.toNat].firstWrite) then o.num
          else t.q[q.toNat].firstWrite } } := by
    rw [finishOp, hid']
    dsimp only
    rw [hq]
    dsimp only
    exact if_neg hb'
  rw [heq]
  refine ⟨rfl, rfl, rfl, ?_, fun k hk => ?_⟩
  · simp
  · have hne : q.toNat ≠ k := fun h => hk (Fin.ext h.symm)
    simp [hne]

/-! ## The array (R348, R349, R356) -/

theorem exec_matrixIterationStart_runs {s : State} {c : SlotId} {t t' : Slot} {o : Op} {i : Instr} {b : MxNest} {cap : RecCapture}
    {start next : Nat} {slipped : Bool} {f : BitVec 2} (hp : s.mgmt.powered = true) (hs : slotOf s c = some t)
    (hdue : iterationDue s t = some (o, i, b, cap, start, next, slipped)) (hf : recFifo i = some f)
    (hready : positionReady s t.fifos[f.toFin] (nestPos b cap.cs next) = true)
    (hit : iteration t i b cap.cs next s.cycle = .ok t') :
    exec (.matrixIterationStart c) s = .next (modSlot s c (fun _ =>
      modOp (slip t' (s.cycle - start) (decide (start < s.cycle) && !slipped)) o.id (fun p => { p with
        work := .matrix i { cap with row := 1 } (s.cycle + nestSpan i b) (next + 1) (slipped || decide (start < s.cycle)) }))) := by
  have hfill : ¬ (!positionReady s t.fifos[f.toNat] (nestPos b cap.cs next)) = true := by
    rw [show positionReady s t.fifos[f.toNat] (nestPos b cap.cs next) = true from hready]
    exact Bool.false_ne_true
  rw [exec_matrixIterationStart, execMatrixIterationStart, event_next hp, hs]
  dsimp only
  rw [hdue]
  dsimp only
  rw [hf]
  dsimp only
  rw [if_neg hfill, hit]

/-- Tiles whose group is closed set full by their landings. -/
def fillTiles (t : Slot) (ls : List Landing) : Slot :=
  ls.foldl (fun t l => if t.tiles[l.tile.toNat].opened then t else setTile t l.tile { t.tiles[l.tile.toNat] with full := true }) t

theorem tiles_setTile (t : Slot) (m : BitVec 3) (x : Tile) (n : Fin 8) :
    (setTile t m x).tiles[n] = if m.toFin = n then x else t.tiles[n] := by
  have hset : (setTile t m x).tiles = t.tiles.set m.toNat x := rfl
  rw [hset]
  by_cases h : m.toFin = n
  · subst h
    simp
  · have hne : m.toNat ≠ n := fun he => h (Fin.ext he)
    simp [h, hne]

theorem fillTiles_eq (ls : List Landing) (t : Slot) : fillTiles t ls = { t with tiles := (fillTiles t ls).tiles } := by
  induction ls generalizing t with
  | nil => rfl
  | cons l ls ih =>
    rw [fillTiles, List.foldl_cons]
    refine (ih _).trans ?_
    split <;> rfl

theorem tiles_fillTiles (ls : List Landing) (t : Slot) (n : Fin 8) : (fillTiles t ls).tiles[n] =
    if (∃ l ∈ ls, l.tile.toFin = n) ∧ t.tiles[n].opened = false then { t.tiles[n] with full := true } else t.tiles[n] := by
  induction ls generalizing t with
  | nil => simp [fillTiles]
  | cons l ls ih =>
    rw [fillTiles, List.foldl_cons]
    refine (ih _).trans ?_
    by_cases hn : l.tile.toFin = n
    · have hcur : t.tiles[l.tile.toNat] = t.tiles[n] := by subst hn; rfl
      rw [hcur]
      cases ho : t.tiles[n].opened with
      | true =>
        rw [if_pos rfl, ho, if_neg (by simp), if_neg (by simp)]
      | false =>
        rw [if_neg Bool.false_ne_true, tiles_setTile, if_pos hn, ite_eq_right_iff.2 (fun _ => rfl),
          if_pos ⟨⟨l, List.mem_cons_self, hn⟩, rfl⟩]
    · have hsame : (if t.tiles[l.tile.toNat].opened then t
          else setTile t l.tile { t.tiles[l.tile.toNat] with full := true }).tiles[n] = t.tiles[n] := by
        split
        · rfl
        · rw [tiles_setTile, if_neg hn]
      have hmem : (∃ x ∈ l :: ls, x.tile.toFin = n) ↔ ∃ x ∈ ls, x.tile.toFin = n := by
        simp [hn]
      rw [hsame]
      simp only [hmem]

/-- The landings and reads that are still to come after cc `cycle`. -/
def landedTime (cycle : Nat) (x : MatrixTime) : MatrixTime :=
  { x with
    lands := (x.lands.filter (fun l => cycle ≤ l.at_)).map (fun l => if l.at_ ≤ cycle then { l with fill := false } else l)
    reads := x.reads.filter (fun r => cycle ≤ r.2) }

/-- What TILE_ROW_LAND leaves of its slot. -/
def tilesLanded (cycle : Nat) (t : Slot) : Slot :=
  { fillTiles t (t.time.lands.filter (fun l => l.at_ ≤ cycle && l.fill)) with time := landedTime cycle t.time }

theorem slotBecomes_tileRowLand {s : State} {c : SlotId} {t : Slot} (hp : s.mgmt.powered = true) (hs : slotOf s c = some t)
    (hrun : t.time.stoppedAt = none) : slotBecomes (.tileRowLand c) s c (tilesLanded s.cycle t) := by
  refine ⟨_, (exec_tileRowLand ..).trans (event_next hp), fun u hu => ?_⟩
  obtain rfl := Option.some.inj (hs.symm.trans hu)
  refine (if_neg (by simp [hrun])).trans ?_
  have hframe := fillTiles_eq (t.time.lands.filter (fun l => l.at_ ≤ s.cycle && l.fill)) t
  have htime : (fillTiles t (t.time.lands.filter (fun l => l.at_ ≤ s.cycle && l.fill))).time = t.time := by rw [hframe]
  exact congrArg (fun x => { fillTiles t (t.time.lands.filter (fun l => l.at_ ≤ s.cycle && l.fill)) with
    time := landedTime s.cycle x }) htime

/-! ## Barrier objects at their homes (R76, R77, R221, R222, R301) -/

theorem slotBecomes_barrierPhaseSignal {s : State} {c : SlotId} {t : Slot} {w : WaitState} (hp : s.mgmt.powered = true)
    (hs : slotOf s c = some t) (hw : t.wait = some w) (hsig : w.signalled = true) :
    slotBecomes (.barrierPhaseSignal c) s c { t with wait := some { w with
      signalled := false, phases := w.phases.map (fun p => (p.1, BitVec.ofNat 32 (memNat s (p.1 + 12) 4), p.2.2)) } } := by
  refine ⟨_, (exec_barrierPhaseSignal ..).trans (event_next hp), fun u hu => ?_⟩
  obtain rfl := Option.some.inj (hs.symm.trans hu)
  rw [hw, Option.map_some, if_pos hsig]

/-- An object after an update that is no arrival, with its new transaction count. -/
def barUpdated (v : Nat) (txn : Int) : Nat :=
  if barArrive v = 0 ∧ txn = 0 then
    (barPhase v + 1) % 2 ^ 32 * 2 ^ 96 + barExpect v * 2 ^ 80 + barExpect v * 2 ^ 64 + barScope v * 2 ^ 4
  else barPhase v * 2 ^ 96 + barExpect v * 2 ^ 80 + barArrive v * 2 ^ 64 + (BitVec.ofInt 32 txn).toNat * 2 ^ 32 + barScope v * 2 ^ 4

theorem barUpdated_lt {v : Nat} (txn : Int) (h : v < 2 ^ 128) : barUpdated v txn < 2 ^ 128 := by
  have := (BitVec.ofInt 32 txn).isLt
  unfold barUpdated barPhase barExpect barArrive barScope
  split <;> omega

theorem toBits_eq_ofInt (txn : Int) : toBits 32 txn = (BitVec.ofInt 32 txn).toNat := by
  rw [BitVec.toNat_ofInt]
  rfl

/-- An update that is no arrival, at a well-formed object, stores the object anew. -/
theorem barrierUpdate_sent {s : State} {pa : Nat} {delta : Int} (hm : ¬ barMalformed (memNat s pa 16))
    (hlo : -(2 ^ 31) ≤ (BitVec.ofNat 32 (memNat s pa 16 / 2 ^ 32)).toInt + delta)
    (hhi : (BitVec.ofNat 32 (memNat s pa 16 / 2 ^ 32)).toInt + delta < 2 ^ 31)
    (he : ∀ p ∈ s.queues, ∀ l ∈ p.2.launches, recDet l.record = true → recEbar l.record = 0) :
    ∃ (u : State) (ph : BitVec 32), barrierUpdate s pa false delta = .ok (u, ph) ∧ u.barriers = s.barriers
      ∧ u.mem = (homeWrite s pa (bytesOf 16 (barUpdated (memNat s pa 16)
          ((BitVec.ofNat 32 (memNat s pa 16 / 2 ^ 32)).toInt + delta)))).1.mem := by
  generalize hv : memNat s pa 16 = v at hm hlo hhi
  have hlt : v < 2 ^ 128 := hv ▸ memNat_lt s pa 16
  have hread : readInt true 32 (v / 2 ^ 32) = (BitVec.ofNat 32 (v / 2 ^ 32)).toInt := by
    rw [readInt_eq_bmod (by decide), BitVec.toInt_ofNat']
  generalize htxn : (BitVec.ofNat 32 (v / 2 ^ 32)).toInt + delta = txn at hlo hhi
  have hcount : ¬ ((false = true ∧ barArrive v = 0) ∨ txn < intMin true 32 ∨ intMax true 32 < txn) := by
    have hmin : intMin true 32 = -(2 ^ 31) := rfl
    have hmax : intMax true 32 = 2 ^ 31 - 1 := rfl
    rw [hmin, hmax]
    rintro (⟨h, -⟩ | h | h)
    · cases h
    · omega
    · omega
  have hframe (bs : List Byte) := (storesMemory_homeWrite (.refl s) s.cur pa bs false).1
  have hqueues (bs : List Byte) : (homeWrite s pa bs).1.queues = s.queues := (hframe bs).queues
  have hnil (bs : List Byte) : epochLaunches (homeWrite s pa bs).1 pa = [] := epochLaunches_eq_nil (by rwa [hqueues])
  have hbarriers (bs : List Byte) : (homeWrite s pa bs).1.barriers = s.barriers := by
    have h := congrArg State.barriers (hframe bs)
    exact h
  unfold barrierUpdate
  dsimp only
  rw [hv, hread, htxn]
  by_cases hdone : barArrive v = 0 ∧ txn = 0
  · refine ⟨_, _, (if_neg hm).trans ((if_neg hcount).trans (if_pos hdone)), ?_⟩
    have hnew : barUpdated v txn
        = (barPhase v + 1) % 2 ^ 32 * 2 ^ 96 + barExpect v * 2 ^ 80 + barExpect v * 2 ^ 64 + toBits 32 txn * 2 ^ 32 + barScope v * 16 := by
      rw [barUpdated, if_pos hdone, hdone.2, toBits_eq_ofInt]
      simp
    rw [hnil, hnew]
    exact ⟨hbarriers _, rfl⟩
  · refine ⟨_, _, (if_neg hm).trans ((if_neg hcount).trans (if_neg hdone)), ?_⟩
    have hphase : barPhase v % 2 ^ 32 = barPhase v := Nat.mod_eq_of_lt (by unfold barPhase; omega)
    have hnew : barUpdated v txn
        = barPhase v % 2 ^ 32 * 2 ^ 96 + barExpect v * 2 ^ 80 + barArrive v * 2 ^ 64 + toBits 32 txn * 2 ^ 32 + barScope v * 16 := by
      rw [barUpdated, if_neg hdone, hphase, toBits_eq_ofInt]
      rfl
    rw [hnew]
    exact ⟨hbarriers _, rfl⟩

section
variable {s : State} {i : Nat} {u : BarrierUpdate} (hi : s.barriers[i]? = some u)
  (harr : canArrive s (dieOf u.issuer.slot.core) (u.addr / 128) u.sent = true) (hsend : u.order.resendAt = none)
  (hfirst : u.order.held = true ∨ ∀ x ∈ s.barriers.take i, sameSource x u.issuer u.source u.q = true → x.order.resendAt = none)
include hi harr hsend hfirst

omit hi in
theorem not_stopped : ¬ (u.order.resendAt.isSome
    || (!u.order.held && ((s.barriers.take i).filter (fun x => sameSource x u.issuer u.source u.q)).any (fun x => x.order.resendAt.isSome))
    || !canArrive s (dieOf u.issuer.slot.core) (u.addr / 128) u.sent) = true := by
  rw [hsend, harr]
  cases hheld : u.order.held with
  | true => simp
  | false =>
    have hnone := hfirst.resolve_left (by simp [hheld])
    simp only [Option.isSome_none, Bool.not_false, Bool.true_and, Bool.false_or, Bool.not_true, Bool.or_false,
      List.any_eq_true, List.mem_filter, not_exists, not_and]
    intro x hx
    rw [hnone x hx.1 hx.2]
    exact Bool.false_ne_true

theorem barrierArrive_behind (hb : ∃ x ∈ s.barriers.take i, x.addr / 128 = u.addr / 128 ∧ sameSource x u.issuer u.source u.q = true) :
    barrierArrive s i =
      { s with barriers := s.barriers.set i { u with order := queueBehind s (dieOf u.issuer.slot.core) u.addr u.order } } := by
  have hany : ((s.barriers.take i).filter (fun x => sameSource x u.issuer u.source u.q)).any
      (fun x => x.addr / 128 = u.addr / 128) = true := by
    obtain ⟨x, hx, haddr, hsrc⟩ := hb
    exact List.any_eq_true.2 ⟨x, List.mem_filter.2 ⟨hx, hsrc⟩, decide_eq_true haddr⟩
  rw [barrierArrive, hi]
  dsimp only
  rw [if_neg (not_stopped harr hsend hfirst), if_pos hany]

theorem barrierArrive_first (hb : ¬ ∃ x ∈ s.barriers.take i, x.addr / 128 = u.addr / 128 ∧ sameSource x u.issuer u.source u.q = true)
    (ha : admits s (homeTarget s u.addr) u.tenant u.context rightAtomic = true) {s' : State} {ph : BitVec 32}
    (hu : barrierUpdate { s with barriers := s.barriers.eraseIdx i } u.addr false u.delta = .ok (s', ph)) :
    barrierArrive s i = updateDone s' u := by
  have hany : ¬ ((s.barriers.take i).filter (fun x => sameSource x u.issuer u.source u.q)).any
      (fun x => x.addr / 128 = u.addr / 128) = true := by
    intro h
    obtain ⟨x, hx, haddr⟩ := List.any_eq_true.1 h
    obtain ⟨hx, hsrc⟩ := List.mem_filter.1 hx
    exact hb ⟨x, hx, of_decide_eq_true haddr, hsrc⟩
  have hadm : ¬ (!admits { s with barriers := s.barriers.eraseIdx i }
      (homeTarget { s with barriers := s.barriers.eraseIdx i } u.addr) u.tenant u.context rightAtomic) = true := by
    rw [show admits { s with barriers := s.barriers.eraseIdx i } (homeTarget { s with barriers := s.barriers.eraseIdx i } u.addr)
      u.tenant u.context rightAtomic = true from ha]
    exact Bool.false_ne_true
  rw [barrierArrive, hi]
  dsimp only
  rw [if_neg (not_stopped harr hsend hfirst), if_neg hany, if_neg hadm, hu]

end

theorem updateDone_storage (s : State) (u : BarrierUpdate) :
    (updateDone s u).mem = s.mem ∧ (updateDone s u).barriers = s.barriers := by
  have hmod (c : SlotId) (f : Slot → Slot) : (modSlot s c f).mem = s.mem ∧ (modSlot s c f).barriers = s.barriers := by
    unfold modSlot
    split <;> exact ⟨rfl, rfl⟩
  unfold updateDone
  split
  · exact hmod ..
  · exact ⟨rfl, rfl⟩

/-! ## Gathers (R70 to R72, R171, R308) -/

/-- A slot with the bytes of some gather elements written. -/
def gatherPut (t : Slot) (dst esize : Nat) (bytes : Nat → List Byte) (ks : List Nat) : Slot :=
  ks.foldl (fun t k => bankWrite t (dst + k * esize) (bytes k)) t

/-- A slot with some destination granules padded behind `total` bytes, and full. -/
def gatherPad (t : Slot) (dst total : Nat) (gs : List Nat) : Slot :=
  gs.foldl (fun t g =>
    let used := total - 16 * g
    let t := if used < 16 then bankWrite t (dst + 16 * g + used) (List.replicate (16 - used) 0) else t
    setGranule t (dst / 16 + g) true) t

theorem gatherPut_eq (dst esize : Nat) (bytes : Nat → List Byte) (ks : List Nat) (t : Slot) : gatherPut t dst esize bytes ks
    = { t with banks := (gatherPut t dst esize bytes ks).banks, poison := (gatherPut t dst esize bytes ks).poison } := by
  induction ks generalizing t with
  | nil => rfl
  | cons k ks ih =>
    rw [gatherPut, List.foldl_cons]
    exact ih (bankWrite t (dst + k * esize) (bytes k))

theorem bankByte_bankWrite (t : Slot) (a : Nat) (bs : List Byte) (x : Nat) :
    bankByte (bankWrite t a bs) x = if a ≤ x ∧ x < a + bs.length then bs.getD (x - a) 0 else bankByte t x :=
  sget_ssetRange ..

section
variable {dst esize : Nat} {bytes : Nat → List Byte}

/-- A byte outside the elements keeps its value. -/
theorem bankByte_gatherPut_of_not_mem {ks : List Nat} (t : Slot) {x : Nat}
    (hx : ∀ k ∈ ks, ¬ (dst + k * esize ≤ x ∧ x < dst + k * esize + (bytes k).length)) :
    bankByte (gatherPut t dst esize bytes ks) x = bankByte t x := by
  induction ks generalizing t with
  | nil => rfl
  | cons k ks ih =>
    rw [gatherPut, List.foldl_cons]
    refine (ih _ (fun j hj => hx j (List.mem_cons_of_mem _ hj))).trans ?_
    rw [bankByte_bankWrite, if_neg (hx k List.mem_cons_self)]

/-- A byte of an element is the element's. -/
theorem bankByte_gatherPut_of_mem (hlen : ∀ k, (bytes k).length ≤ esize) {ks : List Nat} (t : Slot) {k i : Nat} (hk : k ∈ ks)
    (hi : i < (bytes k).length) : bankByte (gatherPut t dst esize bytes ks) (dst + k * esize + i) = (bytes k).getD i 0 := by
  induction ks generalizing t with
  | nil => exact absurd hk List.not_mem_nil
  | cons j ks ih =>
    rw [gatherPut, List.foldl_cons]
    by_cases hmem : k ∈ ks
    · exact ih _ hmem
    · obtain rfl : k = j := (List.mem_cons.1 hk).resolve_right hmem
      refine (bankByte_gatherPut_of_not_mem _ fun m hm hx => hmem ?_).trans ?_
      · have h1 := hlen k
        have h2 := hlen m
        have hle : m ≤ k := Nat.le_of_lt_succ (Nat.lt_of_mul_lt_mul_right (a := esize) (by rw [Nat.succ_mul]; omega))
        have hge : k ≤ m := Nat.le_of_lt_succ (Nat.lt_of_mul_lt_mul_right (a := esize) (by rw [Nat.succ_mul]; omega))
        rwa [← Nat.le_antisymm hle hge]
      · rw [bankByte_bankWrite, if_pos ⟨by omega, by omega⟩, Nat.add_sub_cancel_left]

end

theorem gatherPad_eq (dst total : Nat) (gs : List Nat) (t : Slot) : gatherPad t dst total gs = { t with
    banks := (gatherPad t dst total gs).banks, poison := (gatherPad t dst total gs).poison
    empty := (gatherPad t dst total gs).empty } := by
  induction gs generalizing t with
  | nil => rfl
  | cons g gs ih =>
    rw [gatherPad, List.foldl_cons]
    refine (ih _).trans ?_
    dsimp only
    split <;> rfl

/-- The bytes that the padding of a granule takes. -/
def padByte (dst total g x : Nat) : Prop := dst + 16 * g + (total - 16 * g) ≤ x ∧ x < dst + 16 * g + 16

theorem bankByte_padOne (t : Slot) (dst total g x : Nat) (full : Bool) :
    bankByte (setGranule (if total - 16 * g < 16 then
        bankWrite t (dst + 16 * g + (total - 16 * g)) (List.replicate (16 - (total - 16 * g)) 0) else t) (dst / 16 + g) full) x
      = if dst + 16 * g + (total - 16 * g) ≤ x ∧ x < dst + 16 * g + 16 then 0 else bankByte t x := by
  have hset (u : Slot) : bankByte (setGranule u (dst / 16 + g) full) x = bankByte u x := rfl
  rw [hset]
  by_cases hused : total - 16 * g < 16
  · have hend : dst + 16 * g + (total - 16 * g) + (16 - (total - 16 * g)) = dst + 16 * g + 16 := by omega
    rw [if_pos hused, bankByte_bankWrite, List.length_replicate, hend]
    refine if_congr Iff.rfl ?_ rfl
    rw [List.getD_eq_getElem?_getD, List.getElem?_replicate]
    split <;> rfl
  · rw [if_neg hused, if_neg (by omega)]

/-- A byte of the padding is 0. -/
theorem bankByte_gatherPad_of_mem {dst total x : Nat} {gs : List Nat} (t : Slot) (h : (∃ g ∈ gs, padByte dst total g x) ∨ bankByte t x = 0) :
    bankByte (gatherPad t dst total gs) x = 0 := by
  induction gs generalizing t with
  | nil => exact h.resolve_left (by simp)
  | cons k gs ih =>
    rw [gatherPad, List.foldl_cons]
    refine ih _ ?_
    by_cases hk : padByte dst total k x
    · exact .inr ((bankByte_padOne ..).trans (if_pos hk))
    · refine h.imp (fun ⟨g, hg, hpad⟩ => ⟨g, ?_, hpad⟩) (fun h0 => (bankByte_padOne ..).trans ((if_neg hk).trans h0))
      exact (List.mem_cons.1 hg).resolve_left (fun he => hk (he ▸ hpad))

/-- A byte outside the padding keeps its value. -/
theorem bankByte_gatherPad_of_not_mem {dst total x : Nat} {gs : List Nat} (t : Slot) (h : ∀ g ∈ gs, ¬ padByte dst total g x) :
    bankByte (gatherPad t dst total gs) x = bankByte t x := by
  induction gs generalizing t with
  | nil => rfl
  | cons k gs ih =>
    rw [gatherPad, List.foldl_cons]
    refine (ih _ (fun g hg => h g (List.mem_cons_of_mem _ hg))).trans ((bankByte_padOne ..).trans (if_neg ?_))
    exact h k List.mem_cons_self

theorem granuleFull_gatherPad (dst total : Nat) (gs : List Nat) (t : Slot) (g : Nat) :
    granuleFull (gatherPad t dst total gs) g = (granuleFull t g || gs.any (fun x => dst / 16 + x = g)) := by
  induction gs generalizing t with
  | nil => simp [gatherPad]
  | cons k gs ih =>
    rw [gatherPad, List.foldl_cons]
    refine (ih _).trans ?_
    dsimp only
    rw [granuleFull_setGranule, List.any_cons]
    have hkeep : granuleFull (if total - 16 * k < 16 then bankWrite t (dst + 16 * k + (total - 16 * k))
        (List.replicate (16 - (total - 16 * k)) 0) else t) g = granuleFull t g := by
      split <;> rfl
    rw [hkeep]
    by_cases hg : g = dst / 16 + k
    · simp [hg]
    · simp [hg, Ne.symm hg]

/-! ### One step of a gather -/

/-- What a gather takes in a pass: its element bytes once they are fetched. -/
def gatherElem (s : State) (h : Capture) (esize : Nat) (index : List Nat) (lines : List (Nat × List Byte)) (k : Nat) : List Byte :=
  (gatherBytes s h esize index lines k).getD []

theorem length_gatherElem (s : State) (h : Capture) (esize : Nat) (index : List Nat) (lines : List (Nat × List Byte)) (k : Nat) :
    (gatherElem s h esize index lines k).length ≤ esize := by
  unfold gatherElem gatherBytes
  cases gatherOffset index esize k with
  | none => exact Nat.zero_le _
  | some off =>
    rw [Option.bind_some]
    dsimp only
    split
    · exact Nat.zero_le _
    · cases lines.find? (fun l => l.1 = (h.base + off) / 128) with
      | none => exact Nat.zero_le _
      | some l => exact List.length_take_le ..

theorem mem_gatherOpen {esize count g k : Nat} {written : List Nat} : k ∈ gatherOpen esize count written g ↔
    k < count ∧ k * esize / 16 = g ∧ k ∉ written := by
  simp only [gatherOpen, gatherElems, List.mem_filter, List.mem_range, decide_eq_true_eq, Bool.not_eq_true', List.contains_eq_mem,
    decide_eq_false_iff_not, and_assoc]

/-- The bytes of an element lie in its granule. -/
theorem gatherElem_granule {esize i : Nat} (k : Nat) (he : esize ∣ 16) (hi : i < esize) : (k * esize + i) / 16 = k * esize / 16 := by
  obtain ⟨m, hm⟩ := he
  have hpos : 0 < esize := by omega
  rw [hm, ← Nat.div_div_eq_div_mul, ← Nat.div_div_eq_div_mul, Nat.mul_div_cancel _ hpos, Nat.mul_comm k esize,
    Nat.mul_add_div hpos, Nat.div_eq_of_lt hi, Nat.add_zero]

section
variable {s : State} {c : SlotId} {t : Slot} {q : BitVec 4} {n : Nat} {o : Op} {dst idx esize count : Nat} {h : Capture}
  {index written : List Nat} {lines : List (Nat × List Byte)} (hp : s.mgmt.powered = true)
  (hs : slotOf s c = some t) (ho : opNumbered t q n = some o)
  (hwork : o.work = .gather dst idx h esize count index written lines) (hrun : o.stopped = false)
  (heng : enginesRun s t = true) (hord : inOrder t o = true)

include hwork hrun heng hord in
theorem gatherNow_ok {reads : Bool} {s' : State} (hr : gatherStep s t o dst idx h esize count index written lines reads = .ok s') :
    gatherNow s t o reads = some (.ok s') := by
  rw [gatherNow, hwork]
  dsimp only
  rw [hrun, heng, hord, hr]
  rfl

include hwork hrun heng hord in
theorem gatherNow_hold {reads : Bool} (hr : gatherStep s t o dst idx h esize count index written lines reads = .error .hold) :
    gatherNow s t o reads = none := by
  rw [gatherNow, hwork]
  dsimp only
  rw [hrun, heng, hord, hr]
  rfl

include hp hs ho

theorem exec_gatherLineReply_ok {s' : State} (hturn : gatherTurn s t o = some (.ok s')) :
    exec (.gatherLineReply c q n) s = .next s' := by
  rw [exec_gatherLineReply, execGatherLineReply, event_next hp, hs]
  dsimp only
  rw [ho]
  dsimp only
  rw [hturn]

include hwork hrun heng hord

/-- A step that fetches, writes or ends. -/
theorem exec_gatherLineReply_moves {s' : State}
    (hr : gatherStep s t o dst idx h esize count index written lines false = .ok s') :
    exec (.gatherLineReply c q n) s = .next s' := by
  refine exec_gatherLineReply_ok hp hs ho ?_
  rw [gatherTurn, gatherNow_ok hwork hrun heng hord hr]
  rfl

/-- A step that reads indices. -/
theorem exec_gatherLineReply_reads {s' : State}
    (hf : gatherStep s t o dst idx h esize count index written lines false = .error .hold)
    (hr : gatherStep s t o dst idx h esize count index written lines true = .ok s') :
    exec (.gatherLineReply c q n) s = .next s' := by
  refine exec_gatherLineReply_ok hp hs ho ?_
  rw [gatherTurn, gatherNow_hold hwork hrun heng hord hf, gatherNow_ok hwork hrun heng hord hr]
  rfl

end

/-- A slot after a step of a gather. -/
def gatherLeaves (s s1 : State) (c : SlotId) (t : Slot) (q : BitVec 4) (n : Nat) (o : Op) (u : Slot) (w : Work) : Prop :=
  slotBecomesFrom s1 (.gatherLineReply c q n) s c u ∧ u.ops = t.ops.map (fun p => if p.id = o.id then { p with work := w } else p)

theorem gatherLeaves_modSlot {s s1 : State} {c : SlotId} {t : Slot} {q : BitVec 4} {n : Nat} {o : Op} {w : Work} {f : Slot → Slot}
    (hexec : exec (.gatherLineReply c q n) s = .next (modSlot s1 c (fun t => modOp (f t) o.id (fun o => { o with work := w }))))
    (hs1 : slotOf s1 c = some t) (hops : (f t).ops = t.ops) :
    gatherLeaves s s1 c t q n o (modOp (f t) o.id (fun o => { o with work := w })) w := by
  refine ⟨⟨_, hexec, fun u hu => ?_⟩, ?_⟩
  · rw [Option.some.inj (hs1.symm.trans hu)]
  · rw [modOp, hops]

/-- Indices read as far as their granules are full (R71, R308). -/
theorem gatherIndices_plain {s : State} {t : Slot} {o : Op} {idx : Nat} (hs : slotOf s t.id = some t) (hn : isDet t = false)
    (fuel : Nat) (index : List Nat) (hpois : ∀ i, i < fuel → bankPoisoned t (idx + 4 * (index.length + i)) 4 = false) :
    ∃ m, m ≤ fuel ∧ gatherIndices s t o idx index fuel
        = .ok (s, index ++ (List.range m).map (fun i => leNat (bankRead t (idx + 4 * (index.length + i)) 4)))
      ∧ (∀ i, i < m → granuleFull t ((idx + 4 * (index.length + i)) / 16) = true)
      ∧ (m = fuel ∨ granuleFull t ((idx + 4 * (index.length + m)) / 16) = false) := by
  induction fuel generalizing index with
  | zero => exact ⟨0, Nat.le_refl 0, by simp [gatherIndices], fun i hi => absurd hi (Nat.not_lt_zero i), .inl rfl⟩
  | succ fuel ih =>
    cases hfull : granuleFull t ((idx + 4 * index.length) / 16) with
    | false =>
      exact ⟨0, Nat.zero_le _, by simp [gatherIndices, hfull], fun i hi => absurd hi (Nat.not_lt_zero i), .inr hfull⟩
    | true =>
      have hlen : (index ++ [leNat (bankRead t (idx + 4 * index.length) 4)]).length = index.length + 1 := by simp
      have hshift (i : Nat) : index.length + 1 + i = index.length + (i + 1) := by omega
      obtain ⟨m, hm, heq, hall, hend⟩ := ih (index ++ [leNat (bankRead t (idx + 4 * index.length) 4)]) (fun i hi => by
        rw [hlen, hshift]
        exact hpois (i + 1) (by omega))
      rw [hlen] at heq hall hend
      refine ⟨m + 1, by omega, ?_, fun i hi => ?_, ?_⟩
      · have hcheck : checkGranules s t.id t.id (engineCode t.id (o.q.getD 0)) (.waiting false) ((idx + 4 * index.length) / 16 * 16) 16
            = .ok s := by
          rw [checkGranules, hs]
          exact if_neg (by simp [hn])
        have hjoin (f : State → Res (State × List Nat)) : (if index ≠ [] && (idx + 4 * index.length) % 16 ≠ 0 then f s
            else checkGranules s t.id t.id (engineCode t.id (o.q.getD 0)) (.waiting false)
              ((idx + 4 * index.length) / 16 * 16) 16 >>= f) = f s := by
          rw [hcheck, res_ok_bind]
          exact ite_self _
        have hread : bankData s t.id (idx + 4 * index.length) 4 = .ok (bankRead t (idx + 4 * index.length) 4) := by
          rw [bankData, hs]
          exact if_neg (Bool.eq_false_iff.1 (hpois 0 (Nat.succ_pos _)))
        rw [gatherIndices]
        dsimp only
        rw [hfull, if_neg (by simp)]
        refine (hjoin _).trans ?_
        rw [hread, res_ok_bind, heq, List.range_succ_eq_map, List.map_cons, List.map_map, List.append_assoc]
        simp only [hshift]
        rfl
      · cases i with
        | zero => exact hfull
        | succ i =>
          rw [← hshift]
          exact hall i (by omega)
      · rw [← hshift]
        exact hend.imp (congrArg Nat.succ) id

theorem hasPoison_mono {m : Sparse Bool} {a n b k : Nat} (h : hasPoison m a n = false) (hlo : a ≤ b) (hhi : b + k ≤ a + n) :
    hasPoison m b k = false := by
  rw [hasPoison, List.any_eq_false] at h ⊢
  intro p hp hc
  refine h p hp ?_
  simp only [Bool.and_eq_true, decide_eq_true_eq] at hc ⊢
  obtain ⟨⟨hv, h1⟩, h2⟩ := hc
  exact ⟨⟨hv, by omega⟩, by omega⟩

/-- A slot with some gather elements and the padding of their granules written, which are full. -/
def gatherWritten (t : Slot) (dst esize count : Nat) (bytes : Nat → List Byte) (ks gs : List Nat) : Slot :=
  gatherPad (gatherPut t dst esize bytes ks) dst (count * esize) gs

theorem gatherWritten_eq (t : Slot) (dst esize count : Nat) (bytes : Nat → List Byte) (ks gs : List Nat) :
    gatherWritten t dst esize count bytes ks gs = { t with
      banks := (gatherWritten t dst esize count bytes ks gs).banks
      poison := (gatherWritten t dst esize count bytes ks gs).poison
      empty := (gatherWritten t dst esize count bytes ks gs).empty } := by
  have hpad := gatherPad_eq dst (count * esize) gs (gatherPut t dst esize bytes ks)
  exact hpad.trans (congrArg (fun v : Slot => { v with
    banks := (gatherWritten t dst esize count bytes ks gs).banks
    poison := (gatherWritten t dst esize count bytes ks gs).poison
    empty := (gatherWritten t dst esize count bytes ks gs).empty }) (gatherPut_eq dst esize bytes ks t))

theorem gatherStep_writes {s : State} {t : Slot} {o : Op} {dst idx esize count : Nat} {h : Capture} {index written : List Nat}
    {lines : List (Nat × List Byte)} (hmore : written.length ≠ count)
    (hgs : gatherGranules s h esize count index written lines ≠ []) :
    gatherStep s t o dst idx h esize count index written lines false
      = gatherWrite s t o dst idx h esize count index written lines (gatherGranules s h esize count index written lines) := by
  rw [gatherStep]
  dsimp only
  rw [if_neg hmore, if_neg Bool.false_ne_true]
  cases hcase : gatherGranules s h esize count index written lines with
  | nil => exact absurd hcase hgs
  | cons g gs => rfl

section
variable {s : State} {c : SlotId} {t : Slot} {q : BitVec 4} {n : Nat} {o : Op} {dst idx esize count : Nat} {h : Capture}
  {index written : List Nat} {lines : List (Nat × List Byte)} (hp : s.mgmt.powered = true)
  (hs : slotOf s c = some t) (ho : opNumbered t q n = some o)
  (hwork : o.work = .gather dst idx h esize count index written lines) (hrun : o.stopped = false)
  (heng : enginesRun s t = true) (hord : inOrder t o = true) (hdet : isDet t = false)
include hp hs ho hwork hrun heng hord

theorem gather_ends (hall : written.length = count) :
    ∃ u, gatherLeaves s s c t q n o u .none ∧ u = { t with ops := u.ops } := by
  have hid := slotOf_id hs
  have hstep : gatherStep s t o dst idx h esize count index written lines false
      = .ok (modSlot s c (fun t => modOp t o.id (fun o => { o with work := .none }))) := by
    rw [gatherStep]
    dsimp only
    rw [if_pos hall, hid]
    rfl
  exact ⟨_, gatherLeaves_modSlot (exec_gatherLineReply_moves hp hs ho hwork hrun heng hord hstep) hs rfl, rfl⟩

include hdet

theorem gather_fetches {j x pa : Nat} (hmore : written.length ≠ count)
    (hgs : gatherGranules s h esize count index written lines = [])
    (hj : gatherMissing s h esize count index written lines = some j) (hx : index[j]? = some x)
    (hpage : checkPage h (x * esize : Nat) esize permRd = .ok pa) (hclean : poisoned s pa esize = false)
    (hsend : canSend s (dieOf t.id.core) (pa / 128) = true) (hadm : admitMem s t pa rightRead false = true) :
    ∃ u, homeOnly s (touchLine s (pa / 128) false) ∧ sameMemory s (touchLine s (pa / 128) false)
      ∧ gatherLeaves s (touchLine s (pa / 128) false) c t q n o u (.gather dst idx h esize count index written
          (lines ++ [(pa / 128, (List.range 128).map (fun i => memByte s (128 * (pa / 128) + i)))]))
      ∧ u = { t with ops := u.ops } := by
  obtain ⟨honly, hsame⟩ := (touched_touchLine s (pa / 128) false).quiet
  have hid := slotOf_id hs
  have hfetch : gatherFetch s t h (index.getD j 0 * esize) esize = .ok (touchLine s (pa / 128) false, pa / 128,
      (List.range 128).map (fun i => memByte s (128 * (pa / 128) + i))) := by
    have hgetD : index.getD j 0 = x := by rw [List.getD_eq_getElem?_getD, hx]; rfl
    have hrel : needReleased s (dieOf t.id.core) [pa / 128] = .ok () := by
      rw [needReleased, if_pos (by simp [hsend])]
    have hlines : checkLines s t .read pa esize = .ok s := if_neg (by simp [hdet])
    rw [gatherFetch, hgetD, hpage, res_ok_bind, hrel, res_ok_bind, if_neg (by simp [hadm]), if_neg (by simp [hclean]), hlines,
      res_ok_bind, readMem_eq_map, Nat.mul_comm]
    rfl
  have hstep : gatherStep s t o dst idx h esize count index written lines false
      = .ok (modSlot (touchLine s (pa / 128) false) c (fun t => modOp t o.id (fun o => { o with
          work := .gather dst idx h esize count index written
            (lines ++ [(pa / 128, (List.range 128).map (fun i => memByte s (128 * (pa / 128) + i)))]) }))) := by
    rw [gatherStep]
    dsimp only
    rw [if_neg hmore, hgs, hj]
    dsimp only
    rw [hfetch, hid]
    rfl
  exact ⟨_, honly, hsame, gatherLeaves_modSlot (exec_gatherLineReply_moves hp hs ho hwork hrun heng hord hstep)
    ((honly.slotOf c).trans hs) rfl, rfl⟩

theorem gather_reads (hmore : written.length ≠ count)
    (hgs : gatherGranules s h esize count index written lines = [])
    (hj : gatherMissing s h esize count index written lines = none) (hlen : index.length < count)
    (hfull : granuleFull t ((idx + 4 * index.length) / 16) = true) (hclean : bankPoisoned t idx (4 * count) = false) :
    ∃ u m, 0 < m ∧ index.length + m ≤ count
      ∧ gatherLeaves s s c t q n o u (.gather dst idx h esize count
          (index ++ (List.range m).map (fun i => leNat (bankRead t (idx + 4 * (index.length + i)) 4))) written lines)
      ∧ u = { t with ops := u.ops }
      ∧ (∀ i, i < m → granuleFull t ((idx + 4 * (index.length + i)) / 16) = true)
      ∧ (index.length + m = count ∨ granuleFull t ((idx + 4 * (index.length + m)) / 16) = false) := by
  have hid := slotOf_id hs
  subst hid
  obtain ⟨m, hm, heq, hall, hend⟩ := gatherIndices_plain (o := o) (idx := idx) hs hdet (count - index.length) index
    (fun i hi => hasPoison_mono hclean (by omega) (by omega))
  have hpos : 0 < m := by
    rcases Nat.eq_zero_or_pos m with rfl | h0
    · refine absurd hfull (Bool.eq_false_iff.1 (hend.resolve_left ?_))
      omega
    · exact h0
  have hstop : gatherStep s t o dst idx h esize count index written lines false = .error .hold := by
    rw [gatherStep]
    dsimp only
    rw [if_neg hmore, hgs, hj]
    rfl
  have hready : gatherIndexReady t idx count index = true := by
    rw [gatherIndexReady, hfull, decide_eq_true hlen]
    rfl
  have hstep : gatherStep s t o dst idx h esize count index written lines true
      = .ok (modSlot s t.id (fun t' => modOp t' o.id (fun o => { o with
          work := .gather dst idx h esize count
            (index ++ (List.range m).map (fun i => leNat (bankRead t (idx + 4 * (index.length + i)) 4))) written lines }))) := by
    rw [gatherStep]
    dsimp only
    rw [if_neg hmore, if_pos rfl, hready, heq]
    rfl
  refine ⟨_, m, hpos, by omega, gatherLeaves_modSlot (f := fun t => t)
    (exec_gatherLineReply_reads hp hs ho hwork hrun heng hord hstop hstep) hs rfl, rfl, hall, hend.imp (fun h => by omega) id⟩

theorem gather_writes (hmore : written.length ≠ count) (he : esize ∣ 16)
    (hgs : gatherGranules s h esize count index written lines ≠ []) :
    let gs := gatherGranules s h esize count index written lines
    ∃ u done, gatherLeaves s s c t q n o u (.gather dst idx h esize count index (written ++ done) lines)
      ∧ u = { t with ops := u.ops, banks := u.banks, poison := u.poison, empty := u.empty }
      ∧ (∀ k, k ∈ done ↔ ∃ g ∈ gs, k ∈ gatherOpen esize count written g)
      ∧ (∀ k ∈ done, ∃ bs, gatherBytes s h esize index lines k = some bs
          ∧ ∀ i, i < bs.length → bankByte u (dst + k * esize + i) = bs.getD i 0)
      ∧ (∀ a, dst + count * esize ≤ a → a < dst + (count * esize + 15) / 16 * 16 → (a - dst) / 16 ∈ gs → bankByte u a = 0)
      ∧ (∀ a, a < dst ∨ ¬ (a - dst) / 16 ∈ gs → bankByte u a = bankByte t a)
      ∧ ∀ g, granuleFull u g = (granuleFull t g || gs.any (fun x => dst / 16 + x = g)) := by
  intro gs
  have hid := slotOf_id hs
  generalize hdone : gs.flatMap (gatherOpen esize count written) = done
  have hmem (k : Nat) : k ∈ done ↔ ∃ g ∈ gs, k ∈ gatherOpen esize count written g := by
    rw [← hdone, List.mem_flatMap]
  have hstep : gatherStep s t o dst idx h esize count index written lines false
      = .ok (modSlot s c (fun t => modOp (gatherWritten t dst esize count (gatherElem s h esize index lines) done gs) o.id
          (fun o => { o with work := .gather dst idx h esize count index (written ++ done) lines }))) := by
    rw [gatherStep_writes hmore hgs, gatherWrite, if_neg (by simp [hdet]), ← hdone, hid]
    rfl
  have hframe := gatherWritten_eq t dst esize count (gatherElem s h esize index lines) done gs
  obtain ⟨u, hu⟩ : ∃ u, u = gatherWritten t dst esize count (gatherElem s h esize index lines) done gs := ⟨_, rfl⟩
  rw [← hu] at hframe
  have hfetched {k : Nat} (hk : k ∈ done) : k < count ∧ k * esize / 16 ∈ gs ∧ (gatherBytes s h esize index lines k).isSome = true := by
    obtain ⟨g, hg, hopen⟩ := (hmem k).1 hk
    obtain ⟨hlt, rfl, -⟩ := mem_gatherOpen.1 hopen
    have hall := (Bool.and_eq_true_iff.1 (List.mem_filter.1 hg).2).2
    exact ⟨hlt, hg, List.all_eq_true.1 hall k hopen⟩
  have hinside {k i : Nat} (hk : k < count) (hi : i < esize) : k * esize + i < count * esize := by
    have := Nat.mul_le_mul_right esize (Nat.succ_le_of_lt hk)
    rw [Nat.succ_mul] at this
    omega
  have hleaves := gatherLeaves_modSlot (f := fun t => gatherWritten t dst esize count (gatherElem s h esize index lines) done gs)
    (exec_gatherLineReply_moves hp hs ho hwork hrun heng hord hstep) hs (by rw [← hu, hframe])
  rw [← hu] at hleaves
  have hbyte (x : Nat) : bankByte (modOp u o.id (fun o => { o with
      work := .gather dst idx h esize count index (written ++ done) lines })) x = bankByte u x := rfl
  refine ⟨_, done, hleaves, congrArg (fun v : Slot => { v with ops := (modOp u o.id (fun o => { o with
      work := .gather dst idx h esize count index (written ++ done) lines })).ops }) hframe, hmem, fun k hk => ?_, fun a ha hb hg => ?_,
    fun a ha => ?_, fun g => ?_⟩
  · obtain ⟨hlt, -, hsome⟩ := hfetched hk
    obtain ⟨bs, hbs⟩ := Option.isSome_iff_exists.1 hsome
    have hel : gatherElem s h esize index lines k = bs := by rw [gatherElem, hbs]; rfl
    refine ⟨bs, hbs, fun i hi => ?_⟩
    have hsize := length_gatherElem s h esize index lines k
    rw [hel] at hsize
    have hin := hinside hlt (hi.trans_le hsize)
    rw [hbyte, hu, gatherWritten, bankByte_gatherPad_of_not_mem _ (fun g _ hpad => by unfold padByte at hpad; omega),
      bankByte_gatherPut_of_mem (length_gatherElem s h esize index lines) t hk (by rwa [hel]), hel]
  · rw [hbyte, hu, gatherWritten]
    exact bankByte_gatherPad_of_mem _ (.inl ⟨_, hg, by unfold padByte; omega⟩)
  · have hgran (g : Nat) (hg : g ∈ gs) : ¬ (dst + 16 * g ≤ a ∧ a < dst + 16 * g + 16) := by
      rintro ⟨h1, h2⟩
      refine ha.elim (fun h => by omega) (fun h => h ?_)
      rwa [show (a - dst) / 16 = g by omega]
    rw [hbyte, hu, gatherWritten, bankByte_gatherPad_of_not_mem _ (fun g hg hpad => hgran g hg (by unfold padByte at hpad; omega))]
    refine bankByte_gatherPut_of_not_mem t (fun k hk hx => ?_)
    obtain ⟨-, hg, -⟩ := hfetched hk
    have hsize := length_gatherElem s h esize index lines k
    have hsame := gatherElem_granule (i := a - (dst + k * esize)) k he (by omega)
    rw [show k * esize + (a - (dst + k * esize)) = a - dst by omega] at hsame
    exact hgran _ hg (by omega)
  · have hfull : granuleFull (modOp u o.id (fun o => { o with
        work := .gather dst idx h esize count index (written ++ done) lines })) g = granuleFull u g := rfl
    have hput := gatherPut_eq dst esize (gatherElem s h esize index lines) done t
    rw [hfull, hu, gatherWritten, granuleFull_gatherPad, granuleFull_empty (t := t) (by rw [hput])]

end

/-- The updates of barrier objects at their homes. -/
theorem barrierHomeUpdates {s : State} (hp : s.mgmt.powered = true) {i : Nat} {u : BarrierUpdate} (hi : s.barriers[i]? = some u)
    (harr : canArrive s (dieOf u.issuer.slot.core) (u.addr / 128) u.sent = true) (hsend : u.order.resendAt = none)
    (hfirst : u.order.held = true ∨ ∀ x ∈ s.barriers.take i, sameSource x u.issuer u.source u.q = true → x.order.resendAt = none) :
    ((∃ x ∈ s.barriers.take i, x.addr / 128 = u.addr / 128 ∧ sameSource x u.issuer u.source u.q = true) →
      exec (.barrierHomeUpdate i) s = .next
        { s with barriers := s.barriers.set i { u with order := queueBehind s (dieOf u.issuer.slot.core) u.addr u.order } })
    ∧ (¬ (∃ x ∈ s.barriers.take i, x.addr / 128 = u.addr / 128 ∧ sameSource x u.issuer u.source u.q = true) →
      admits s (homeTarget s u.addr) u.tenant u.context rightAtomic = true →
      (∀ p ∈ s.queues, ∀ l ∈ p.2.launches, recDet l.record = true → recEbar l.record = 0) →
      ¬ barMalformed (memNat s u.addr 16) →
      -(2 ^ 31) ≤ (BitVec.ofNat 32 (memNat s u.addr 16 / 2 ^ 32)).toInt + u.delta →
      (BitVec.ofNat 32 (memNat s u.addr 16 / 2 ^ 32)).toInt + u.delta < 2 ^ 31 →
      ∃ r, exec (.barrierHomeUpdate i) s = .next r ∧ r.barriers = s.barriers.eraseIdx i
        ∧ memNat r u.addr 16 = barUpdated (memNat s u.addr 16) ((BitVec.ofNat 32 (memNat s u.addr 16 / 2 ^ 32)).toInt + u.delta)
        ∧ ∀ a, a < u.addr ∨ u.addr + 16 ≤ a → ¬ spillByte s a → memByte r a = memByte s a) := by
  have hexec : exec (.barrierHomeUpdate i) s = .next (barrierArrive s i) := (exec_barrierHomeUpdate ..).trans (event_next hp)
  refine ⟨fun hb => hexec.trans (congrArg _ (barrierArrive_behind hi harr hsend hfirst hb)), fun hb ha he hm hlo hhi => ?_⟩
  have hsame : memNat { s with barriers := s.barriers.eraseIdx i } u.addr 16 = memNat s u.addr 16 := rfl
  obtain ⟨s', ph, hu, hbar, hmem⟩ := barrierUpdate_sent (s := { s with barriers := s.barriers.eraseIdx i }) hm hlo hhi he
  rw [hsame] at hmem
  obtain ⟨hdone, hdoneBar⟩ := updateDone_storage s' u
  generalize (BitVec.ofNat 32 (memNat s u.addr 16 / 2 ^ 32)).toInt + u.delta = txn at hmem hlo hhi ⊢
  have hlt := barUpdated_lt txn (memNat_lt s u.addr 16)
  obtain ⟨w, hw⟩ : ∃ w, w = barUpdated (memNat s u.addr 16) txn := ⟨_, rfl⟩
  rw [← hw] at hlt ⊢
  obtain ⟨-, hstores⟩ := storesMemory_homeWrite (.refl { s with barriers := s.barriers.eraseIdx i }) s.cur u.addr (bytesOf 16 w) false
  obtain ⟨s1, hs1⟩ : ∃ s1, s1 = (homeWrite { s with barriers := s.barriers.eraseIdx i } u.addr (bytesOf 16 w)).1 := ⟨_, rfl⟩
  have hrmem : (updateDone s' u).mem = s1.mem := by
    rw [hdone, hmem, hs1, hw]
  have hnat : memNat s1 u.addr 16 = w % 2 ^ (8 * 16) := hs1 ▸ memNat_of_stores hstores
  have hkeep (a : Nat) (ha : a < u.addr ∨ u.addr + 16 ≤ a) (h : ¬ spillByte s a) : memByte s1 a = memByte s a := by
    subst hs1
    exact hstores.2.2 a (by rwa [Laws.bytesOf_length]) h
  refine ⟨_, hexec.trans (congrArg _ (barrierArrive_first hi harr hsend hfirst hb ha hu)), hdoneBar.trans hbar, ?_, fun a ha hs => ?_⟩
  · exact (congrArg (fun m => leNat (sgetRange 0 m u.addr 16)) hrmem).trans (hnat.trans (Nat.mod_eq_of_lt hlt))
  · exact (congrArg (fun m => sget 0 m a) hrmem).trans (hkeep a ha hs)

theorem not_barMalformed {v : Nat} (h1 : v / 2 ^ 7 % 2 ^ 25 = 0) (h2 : v % 16 = 0) (h3 : v / 2 ^ 80 % 2 ^ 16 ≠ 0)
    (h4 : v / 2 ^ 4 % 8 < 6) : ¬ barMalformed v := by
  unfold barMalformed barExpect barScope
  omega

/-- Settles O45: each event by the step of its unit. -/
theorem operationEvents : Obligations.OperationEvents := by
  unfold Obligations.OperationEvents
  intro s c t hp hs
  dsimp only
  refine ⟨fun q n o ho => ⟨exec_recordComplete_ready hp hs ho, fun hid hrun hdead hwork => ⟨fun hbar hfree => ?_, fun addr hbar => ?_⟩,
      fun dst idx h esize count index written lines hwork hrun heng hord hdet he => ⟨fun hall => ?_, fun hmore hgs => ?_,
        fun hmore hgs => ⟨fun j x pa hj hx hpage hclean hsend hadm => ?_, fun hj hlen hfull hclean => ?_⟩⟩⟩,
    fun o i b cap start next slipped f t' hdue hf hready hit => exec_matrixIterationStart_runs hp hs hdue hf hready hit,
    fun hrun => ?_, fun w hw hsig => slotBecomes_barrierPhaseSignal hp hs hw hsig, fun i u hi harr hsend hfirst => ?_⟩
  · have hexec := exec_recordComplete_done hp hs ho hid hrun hdead hwork
    rw [hbar] at hexec
    obtain ⟨hops, hflags, hframe, hvalue, hothers⟩ := finishOp_free hid (opNumbered_q ho) hfree
    exact ⟨_, ⟨_, hexec, fun u hu => by rw [Option.some.inj (hs.symm.trans hu)]⟩, hops, hflags, hframe, hops ▸ hvalue, hothers⟩
  · have hexec := exec_recordComplete_done hp hs ho hid hrun hdead hwork
    rw [hbar] at hexec
    exact ⟨_, hexec, fun u hu => by rw [Option.some.inj (hs.symm.trans hu)]; rfl⟩
  · obtain ⟨u, hleaves, hframe⟩ := gather_ends hp hs ho hwork hrun heng hord hall
    exact ⟨u, hleaves, hframe⟩
  · exact gather_writes hp hs ho hwork hrun heng hord hdet hmore he hgs
  · exact gather_fetches hp hs ho hwork hrun heng hord hdet hmore hgs hj hx hpage hclean hsend hadm
  · exact gather_reads hp hs ho hwork hrun heng hord hdet hmore hgs hj hlen hfull hclean
  · refine ⟨_, slotBecomes_tileRowLand hp hs hrun, ?_, fun n => ?_, fun l hl => ?_, rfl, rfl⟩
    · exact congrArg (fun v : Slot => { v with time := landedTime s.cycle t.time }) (fillTiles_eq _ t)
    · refine (tiles_fillTiles _ t n).trans (if_congr (and_congr_left fun _ => ?_) rfl rfl)
      refine exists_congr fun l => ?_
      rw [List.mem_filter, Bool.and_eq_true, decide_eq_true_eq, and_assoc]
      exact and_congr_right fun _ => ⟨fun ⟨⟨h1, h2⟩, h3⟩ => ⟨h3, h1, h2⟩, fun ⟨h3, h1, h2⟩ => ⟨⟨h1, h2⟩, h3⟩⟩
    · obtain ⟨x, hx, rfl⟩ := List.mem_map.1 hl
      have hle := of_decide_eq_true (List.mem_filter.1 hx).2
      split <;> exact hle
  · obtain ⟨hbehind, hhome⟩ := barrierHomeUpdates hp hi harr hsend hfirst
    refine ⟨fun hb => ⟨fun hheld => ?_, fun hheld => ⟨fun hroom => ?_, fun hroom => ?_⟩⟩,
      fun hb ha he h1 h2 h3 h4 hlo hhi => hhome hb ha he (not_barMalformed h1 h2 h3 h4) hlo hhi⟩
    · have hset : s.barriers.set i u = s.barriers := by
        obtain ⟨hlt, rfl⟩ := List.getElem?_eq_some_iff.1 hi
        exact List.set_getElem_self hlt
      rw [hbehind hb, queueBehind, if_pos hheld]
      exact congrArg (fun x => Host.Outcome.next { s with barriers := x }) hset
    · rw [hbehind hb, queueBehind, if_neg (by simp [hheld]), if_pos hroom]
    · rw [hbehind hb, queueBehind, if_neg (by simp [hheld]), if_neg (by simp [hroom])]

end Sys2Proof.Machine
end

section
/-! SUPPORT. Whose turn it is and what an issue runs: R46, R47, R206, R227, R231, R232, R246, R422; O56. -/

namespace Sys2Proof.Machine

/-! ## What a fetch reads (R206, R231, R232, R448) -/

theorem fetchBytes_outsideCode {s : State} {va n : Nat}
    (h : va < recCodeva s.cur.record ∨ recCodeva s.cur.record + recCodelen s.cur.record < va + n) :
    fetchBytes s s.cur va n = raise 0x05 := if_pos h

theorem fetchBytes_inside {s : State} {va n pa : Nat} (h1 : recCodeva s.cur.record ≤ va)
    (h2 : va + n ≤ recCodeva s.cur.record + recCodelen s.cur.record) (hpa : pinnedPa s.cur va n = some pa) :
    fetchBytes s s.cur va n = if poisoned s pa n then raise 0x2F else .ok (memNat s pa n) := by
  rw [fetchBytes, if_neg (by omega), hpa]

theorem wordsOf_ofNat (w : Nat) : wordsOf (BitVec.ofNat 32 w) = w % 4 := by
  simp only [wordsOf, BitVec.extractLsb'_toNat, BitVec.toNat_ofNat, Nat.shiftRight_zero]
  omega

section
variable {t : State}

theorem fetchWords_first_fails {e : Stop} (h : fetchBytes t t.cur t.cur.ctl.pc.toNat 4 = .error e) :
    fetchWords t t.cur = .error e := by
  rw [fetchWords, h]

variable {w0 : Nat} (h0 : fetchBytes t t.cur t.cur.ctl.pc.toNat 4 = .ok w0)
include h0

theorem fetchWords_short (h : w0 % 4 < 2) : fetchWords t t.cur = .ok (BitVec.ofNat 96 w0) := by
  rw [fetchWords, h0]
  dsimp only
  rw [wordsOf_ofNat]
  split
  · omega
  · omega
  · rfl

theorem fetchWords_second_fails {e : Stop} (h : 2 ≤ w0 % 4) (h1 : fetchBytes t t.cur (t.cur.ctl.pc.toNat + 4) 4 = .error e) :
    fetchWords t t.cur = .error e := by
  rw [fetchWords, h0]
  dsimp only
  rw [wordsOf_ofNat, h1]
  rcases (by omega : w0 % 4 = 2 ∨ w0 % 4 = 3) with h | h
  · rw [h]
    rfl
  · rw [h]
    rfl

variable {w1 : Nat} (h1 : fetchBytes t t.cur (t.cur.ctl.pc.toNat + 4) 4 = .ok w1)
include h1

theorem fetchWords_two (h : w0 % 4 = 2) : fetchWords t t.cur = .ok (BitVec.ofNat 96 (w0 + w1 * 2 ^ 32)) := by
  rw [fetchWords, h0]
  dsimp only
  rw [wordsOf_ofNat, h, h1]
  rfl

theorem fetchWords_third_fails {e : Stop} (h : w0 % 4 = 3) (h2 : fetchBytes t t.cur (t.cur.ctl.pc.toNat + 8) 4 = .error e) :
    fetchWords t t.cur = .error e := by
  rw [fetchWords, h0]
  dsimp only
  rw [wordsOf_ofNat, h, h1, h2]
  rfl

theorem fetchWords_three {w2 : Nat} (h : w0 % 4 = 3) (h2 : fetchBytes t t.cur (t.cur.ctl.pc.toNat + 8) 4 = .ok w2) :
    fetchWords t t.cur = .ok (BitVec.ofNat 96 (w0 + w1 * 2 ^ 32 + w2 * 2 ^ 64)) := by
  rw [fetchWords, h0]
  dsimp only
  rw [wordsOf_ofNat, h, h1, h2]
  rfl

end

/-! ## An issue (R231, R246) -/

/-- What a slot's step does with the instruction of a fetch, or with its fault. -/
def issueFetched (t : State) (st : StreamId) : Host.Outcome State Fault Refusal :=
  match streamInstr t st with
  | .ok i => exec i (issuing t i)
  | .error f => .next (takeFault t (streamSite t st) f (streamLink t st))

theorem step_stream {s : State} {k : Nat} {st : StreamId} (hturn : nextTurn s = .stream k st) (hend : s.cur.ending = []) :
    step s = match fetched { s with stage := k } st with
      | none => .next (holdStream { s with stage := k } st)
      | some t => issueFetched t st := by
  have hnone : ({ s with stage := k } : State).cur.ending.isEmpty = true := List.isEmpty_iff.2 hend
  rw [step, hturn]
  dsimp only
  rw [issueTurn, if_pos hnone]
  rfl

theorem issueFetched_fault {t : State} {st : StreamId} {f : FaultInfo} (h : streamInstr t st = .error f) :
    issueFetched t st = .next (takeFault t (streamSite t st) f (streamLink t st)) := by
  rw [issueFetched, h]

theorem issueFetched_runs {t : State} {st : StreamId} {i : Instr} (h : streamInstr t st = .ok i) :
    issueFetched t st = exec i (issuing t i) := by
  rw [issueFetched, h]

/-! ### The control stream -/

theorem fetchCtl_fails {t : State} {f : FaultInfo} (h : fetchWords t t.cur = .error (.fault f)) :
    streamInstr t .control = .error f := by
  rw [streamInstr, fetchCtl, h]

theorem fetchCtl_runs {t : State} {w : BitVec 96} {i : Instr} (h : fetchWords t t.cur = .ok w) (hd : decodeWord (kindOf t.cur) w = .ok i) :
    streamInstr t .control = .ok i := by
  rw [streamInstr, fetchCtl, h]
  dsimp only
  rw [hd]

theorem fetchCtl_illegal {t : State} {w : BitVec 96} {c : Nat} (h : fetchWords t t.cur = .ok w)
    (hd : decodeWord (kindOf t.cur) w = .error c) :
    streamInstr t .control = .error { code := 0x01, sub := BitVec.ofNat 8 c } := by
  rw [streamInstr, fetchCtl, h]
  dsimp only
  rw [hd]

/-! ### Records -/

section
variable {t : State} {m : Bool}

theorem streamInstr_record : streamInstr t (if m then .matrix else .copy) = (match fetchStream t m with
    | .ok i => if recordForbidden t i then .error { code := 0x02, sub := 6 } else .ok i
    | .error f => .error f) := by
  cases m <;> rfl

theorem fetchStream_fails {f : FaultInfo} (h : fetchBytes t t.cur (if m then t.cur.mx else t.cur.cp).pc.toNat 64 = .error (.fault f)) :
    fetchStream t m = .error f := by
  rw [fetchStream, fetchRecord, h]
  rfl

variable {n : Nat} (h : fetchBytes t t.cur (if m then t.cur.mx else t.cur.cp).pc.toNat 64 = .ok n)
include h

theorem fetchStream_runs {i : Instr} (hd : decodeRecord (kindOf t.cur) m (BitVec.ofNat 512 n) = .ok i) :
    fetchStream t m = .ok i := by
  rw [fetchStream, fetchRecord, h, Except.map]
  dsimp only
  rw [hd]

theorem fetchStream_illegal {c : Nat} (hd : decodeRecord (kindOf t.cur) m (BitVec.ofNat 512 n) = .error c) :
    fetchStream t m = .error { code := 0x02, sub := BitVec.ofNat 8 c } := by
  rw [fetchStream, fetchRecord, h, Except.map]
  dsimp only
  rw [hd]

end

/-! ## Whose turn it is (R46, R47, R422) -/

theorem leastBy_eq_some {α : Type} {f : α → Nat} {xs : List α} {x : α} (h : leastBy f xs = some x) : x ∈ xs := by
  have hfold (xs : List α) (m : Option α) (h : xs.foldl (fun m x => match m with
      | some y => if f x < f y then some x else some y
      | none => some x) m = some x) : m = some x ∨ x ∈ xs := by
    induction xs generalizing m with
    | nil => exact .inl h
    | cons a as ih =>
      rcases ih _ h with hm | hm
      · cases m with
        | none => exact .inr (Option.some.inj hm ▸ List.mem_cons_self)
        | some y =>
          dsimp only at hm
          split at hm
          · exact .inr (Option.some.inj hm ▸ List.mem_cons_self)
          · exact .inl hm
      · exact .inr (List.mem_cons_of_mem _ hm)
  exact (hfold xs none h).resolve_left (by simp)

/-- The events of a stage that act. -/
def actsIn (s : State) (k : Nat) : List Instr := (dueEvents s).filter (fun i => eventStage s i = k && acts s i)

theorem filter_acts (s : State) (k : Nat) : ((dueEvents s).filter (fun i => eventStage s i = k)).filter (acts s) = actsIn s k := by
  rw [List.filter_filter]
  exact List.filter_congr fun i _ => Bool.and_comm ..

section
variable {s : State} {k : Nat}

theorem stageTurn_first_event (h2 : k ≠ 2) (h7 : k ≠ 7) {i : Instr} {is : List Instr} (hev : actsIn s k = i :: is) :
    stageTurn s (dueEvents s) k = some (.event k i) := by
  rw [stageTurn, if_neg (by omega), ← List.head?_filter, filter_acts, hev, List.head?_cons]

theorem stageTurn_first_issue (h2 : k ≠ 2) (h7 : k ≠ 7) (hev : actsIn s k = []) :
    stageTurn s (dueEvents s) k = (issuers s k).head?.map (issueOf s k) := by
  rw [stageTurn, if_neg (by omega), ← List.head?_filter, filter_acts, hev, List.head?_nil]

theorem stageTurn_least_event (h : k = 2 ∨ k = 7) {i : Instr} (hi : leastBy (eventRank s) (actsIn s k) = some i)
    (hall : ∀ t ∈ issuers s k, eventRank s i ≤ troupeRank t) : stageTurn s (dueEvents s) k = some (.event k i) := by
  rw [stageTurn, if_pos h, filter_acts, hi]
  cases ht : leastBy troupeRank (issuers s k) with
  | none => rfl
  | some t => exact if_pos (hall t (leastBy_eq_some ht))

theorem stageTurn_least_issue (h : k = 2 ∨ k = 7) {t : Slot} (ht : leastBy troupeRank (issuers s k) = some t)
    (hall : ∀ i ∈ actsIn s k, troupeRank t < eventRank s i) : stageTurn s (dueEvents s) k = some (issueOf s k t) := by
  rw [stageTurn, if_pos h, filter_acts, ht]
  cases hi : leastBy (eventRank s) (actsIn s k) with
  | none => rfl
  | some i => exact if_neg (Nat.not_le.2 (hall i (leastBy_eq_some hi)))

theorem stageTurn_none (h : k = 2 ∨ k = 7) (hev : actsIn s k = []) (his : issuers s k = []) :
    stageTurn s (dueEvents s) k = none := by
  rw [stageTurn, if_pos h, filter_acts, hev, his]
  rfl

end

/-- Nothing acts and nothing issues in a stage. -/
def idleStage (s : State) (k : Nat) : Prop := actsIn s k = [] ∧ issuers s k = []

theorem stageTurn_idle {s : State} {k : Nat} (h : idleStage s k) : stageTurn s (dueEvents s) k = none := by
  obtain ⟨hev, his⟩ := h
  by_cases hk : k = 2 ∨ k = 7
  · exact stageTurn_none hk hev his
  · rw [stageTurn_first_issue (by omega) (by omega) hev, his]
    rfl

section
variable {s : State} (hag : s.agenda = []) (hpow : s.mgmt.powered = true)
include hag hpow

theorem nextTurn_stages : nextTurn s = (((List.range 10).drop s.stage).findSome? (stageTurn s (dueEvents s))).getD .tick := by
  rw [nextTurn, hag]
  dsimp only
  rw [hpow]
  rfl

theorem nextTurn_tick (hidle : ∀ k, s.stage ≤ k → k < 10 → idleStage s k) : nextTurn s = .tick := by
  rw [nextTurn_stages hag hpow, List.findSome?_eq_none_iff.2 fun k hk => ?_]
  · rfl
  · obtain ⟨j, hj, rfl⟩ := List.getElem_of_mem hk
    rw [List.length_drop, List.length_range] at hj
    rw [List.getElem_drop, List.getElem_range]
    exact stageTurn_idle (hidle _ (by omega) (by omega))

theorem nextTurn_first {k : Nat} {r : Turn} (hk : s.stage ≤ k) (hlt : k < 10) (hidle : ∀ j, s.stage ≤ j → j < k → idleStage s j)
    (hr : stageTurn s (dueEvents s) k = some r) : nextTurn s = r := by
  have hsplit : (List.range 10).drop s.stage = ((List.range 10).drop s.stage).take (k - s.stage) ++ k :: (List.range 10).drop (k + 1) := by
    have hdrop : ((List.range 10).drop s.stage).drop (k - s.stage) = k :: (List.range 10).drop (k + 1) := by
      rw [List.drop_drop, show s.stage + (k - s.stage) = k by omega,
        List.drop_eq_getElem_cons (by rw [List.length_range]; exact hlt), List.getElem_range]
    rw [← hdrop, List.take_append_drop]
  have hnone : (((List.range 10).drop s.stage).take (k - s.stage)).findSome? (stageTurn s (dueEvents s)) = none := by
    refine List.findSome?_eq_none_iff.2 fun j hj => ?_
    obtain ⟨i, hi, rfl⟩ := List.getElem_of_mem hj
    rw [List.length_take, List.length_drop, List.length_range] at hi
    rw [List.getElem_take, List.getElem_drop, List.getElem_range]
    exact stageTurn_idle (hidle _ (by omega) (by omega))
  rw [nextTurn_stages hag hpow, hsplit, List.findSome?_append, hnone, List.findSome?_cons, hr]
  rfl

end

theorem step_event {s : State} {k : Nat} {i : Instr} (h : nextTurn s = .event k i) : step s = exec i { s with stage := k } := by
  rw [step, h]

/-- The turn that a slot's issue asks for. -/
theorem goes_of_issueOf {s : State} {k : Nat} {t : Slot} (h : nextTurn s = issueOf s k t) :
    (t.id = s.cur.id → nextTurn s = .stream k (if k = 4 then .matrix else if k = 5 then .copy else .control))
      ∧ (t.id ≠ s.cur.id → step s = .next (giveTurn s t)) := by
  refine ⟨fun hid => h.trans (if_pos hid), fun hid => ?_⟩
  rw [step, h.trans (if_neg hid)]

theorem ctlStage_of_fetch {s : State} {i : Instr} (h : fetchCtl s = .ok i) :
    (∀ o, i = .stfe o → ctlStage s = if asksMember s i then 2 else 1) ∧ (∀ o, i = .syswrBfmt o → ctlStage s = 1)
      ∧ (∀ o, i = .feset o ∨ i = .feclr o → ctlStage s = 3)
      ∧ ((∀ o, i ≠ .stfe o ∧ i ≠ .syswrBfmt o ∧ i ≠ .feset o ∧ i ≠ .feclr o) → ctlStage s = if asksMember s i then 7 else 6) := by
  rw [ctlStage, h]
  refine ⟨fun o hi => hi ▸ rfl, fun o hi => hi ▸ rfl, fun o hi => hi.elim (fun hi => hi ▸ rfl) (fun hi => hi ▸ rfl), fun hi => ?_⟩
  dsimp only
  split
  · exact absurd rfl (hi _).1
  · exact absurd rfl (hi _).2.1
  · exact absurd rfl (hi _).2.2.1
  · exact absurd rfl (hi _).2.2.2
  · rfl

/-- Settles O56: the turn by the stages, the issue by its fetch and its decode. -/
theorem stepRunsTheDecodedInstruction : Obligations.StepRunsTheDecodedInstruction := by
  unfold Obligations.StepRunsTheDecodedInstruction
  intro s
  dsimp only
  refine ⟨fun i rest hag => ?_, fun hag hpow => ?_, fun va n => ⟨fetchBytes_outsideCode, fun pa h1 h2 hpa => fetchBytes_inside h1 h2 hpa⟩,
    fun k st hturn hend => ?_, fun hag hpow => ⟨fun hidle => ?_, fun k hk hlt hidle => ?_⟩, fun i hi => ctlStage_of_fetch hi⟩
  · rw [step, nextTurn, hag]
  · rw [step, nextTurn, hag]
    dsimp only
    rw [hpow]
    rfl
  · have hstep := step_stream hturn hend
    refine ⟨fun hnone => by rw [hstep, hnone], fun t ht => ?_⟩
    rw [ht] at hstep
    refine ⟨?_, fun m => ?_⟩
    · rintro rfl
      have hfails {e : FaultInfo} (h : fetchWords t t.cur = .error (.fault e)) :=
        hstep.trans (issueFetched_fault (fetchCtl_fails h))
      have hruns {w : BitVec 96} (h : fetchWords t t.cur = .ok w) :
          (∀ i, decodeWord (kindOf t.cur) w = .ok i → step s = exec i (issuing t i))
            ∧ ∀ c, decodeWord (kindOf t.cur) w = .error c → step s = .next (takeFault t (fetchSite t)
              { code := 0x01, sub := BitVec.ofNat 8 c } (t.cur.ctl.pc - word (recCodeva t.cur.record))) :=
        ⟨fun i hd => hstep.trans (issueFetched_runs (fetchCtl_runs h hd)),
          fun c hd => hstep.trans (issueFetched_fault (fetchCtl_illegal h hd))⟩
      exact ⟨fun f hf => hfails (fetchWords_first_fails hf), fun w0 h0 => ⟨fun h => hruns (fetchWords_short h0 h),
        fun f h hf => hfails (fetchWords_second_fails h0 h hf), fun w1 h1 => ⟨fun h => hruns (fetchWords_two h0 h1 h),
          fun h => ⟨fun f hf => hfails (fetchWords_third_fails h0 h1 h hf), fun w2 h2 => hruns (fetchWords_three h0 h1 h h2)⟩⟩⟩⟩
    · rintro rfl
      have hsite : streamSite t (if m = true then .matrix else .copy) = recSite t m := by cases m <;> rfl
      have hlink : streamLink t (if m = true then .matrix else .copy) = 0 := by cases m <;> rfl
      have hfails {f : FaultInfo} (h : streamInstr t (if m = true then .matrix else .copy) = .error f) :
          step s = .next (takeFault t (recSite t m) f 0) := by
        rw [hstep]
        exact (issueFetched_fault h).trans (by rw [hsite, hlink])
      refine ⟨fun f hf => hfails ?_, fun n hn => ⟨fun i hd => ⟨fun hok => hstep.trans (issueFetched_runs ?_), fun hbad => hfails ?_⟩,
        fun c hd => hfails ?_⟩⟩
      · rw [streamInstr_record, fetchStream_fails hf]
      · rw [streamInstr_record, fetchStream_runs hn hd]
        exact if_neg (by simp [hok])
      · rw [streamInstr_record, fetchStream_runs hn hd]
        exact if_pos hbad
      · rw [streamInstr_record, fetchStream_illegal hn hd]
  · rw [step, nextTurn_tick hag hpow hidle]
  · have hturn {r : Turn} (hr : stageTurn s (dueEvents s) k = some r) := nextTurn_first hag hpow hk hlt hidle hr
    refine ⟨fun h2 h7 => ⟨fun i is hdue => ?_, fun hdue t ts his => ?_⟩, fun hrank => ⟨fun i hi hall => ?_, fun t ht hall => ?_⟩⟩
    · exact step_event (hturn (stageTurn_first_event h2 h7 hdue))
    · refine goes_of_issueOf (hturn ((stageTurn_first_issue h2 h7 hdue).trans ?_))
      rw [his]
      rfl
    · exact step_event (hturn (stageTurn_least_event hrank hi hall))
    · exact goes_of_issueOf (hturn (stageTurn_least_issue hrank ht hall))

end Sys2Proof.Machine
end

section
/-! SUPPORT. Power, the boot and the temperature: R4, R437, R468, R470 to R472; O55. -/

namespace Sys2Proof.Machine

/-! ## Launches that stay, with what holds them (R437)

What a save does to its slots and to the barrier objects on their way drops no launch and ends no hold. -/

/-- The queues and what firmware keeps are as they were. -/
def Steady (s t : State) : Prop := t.queues = s.queues ∧ t.mgmt = s.mgmt

theorem Steady.refl (s : State) : Steady s s := ⟨rfl, rfl⟩

theorem Steady.trans {s t u : State} (h1 : Steady s t) (h2 : Steady t u) : Steady s u := ⟨h2.1.trans h1.1, h2.2.trans h1.2⟩

theorem Steady.after {s t u : State} (h2 : Steady t u) (h1 : Steady s t) : Steady s u := h1.trans h2

/-- Every launch stays, with at least the causes that hold it, and what firmware keeps is as it was. -/
def LaunchesKept (s t : State) : Prop := t.mgmt = s.mgmt ∧ ∀ q n l, launchOf s q n = some l →
  ∃ l', launchOf t q n = some l' ∧ ∀ h ∈ l.held, h ∈ l'.held

namespace LaunchesKept

theorem refl (s : State) : LaunchesKept s s := ⟨rfl, fun _ _ l hl => ⟨l, hl, fun _ h => h⟩⟩

theorem trans {s t u : State} (h1 : LaunchesKept s t) (h2 : LaunchesKept t u) : LaunchesKept s u := by
  refine ⟨h2.1.trans h1.1, fun q n l hl => ?_⟩
  obtain ⟨l1, hl1, hh1⟩ := h1.2 q n l hl
  obtain ⟨l2, hl2, hh2⟩ := h2.2 q n l1 hl1
  exact ⟨l2, hl2, fun h hh => hh2 h (hh1 h hh)⟩

theorem of_steady {s t : State} (h : Steady s t) : LaunchesKept s t :=
  ⟨h.2, fun q n l hl => ⟨l, by rwa [launchOf, queueOf, h.1], fun _ hh => hh⟩⟩

theorem foldl {α : Type} {f : State → α → State} (hf : ∀ s a, LaunchesKept s (f s a)) (xs : List α) (s : State) :
    LaunchesKept s (xs.foldl f s) := by
  induction xs generalizing s with
  | nil => exact refl s
  | cons x xs ih => exact (hf s x).trans (ih _)

end LaunchesKept

theorem launchOf_modLaunch {f : Launch → Launch} (hf : ∀ l, (f l).ordinal = l.ordinal) (s : State) (q : BitVec 6) (n : Nat)
    (q' : BitVec 6) (n' : Nat) :
    launchOf (modLaunch s q n f) q' n' = (launchOf s q' n').map (fun l => if q' = q ∧ l.ordinal = n then f l else l) := by
  have hget : queueOf (modLaunch s q n f) q' = if q' = q then { queueOf s q with
      launches := (queueOf s q).launches.map (fun l => if l.ordinal = n then f l else l) } else queueOf s q' := by
    refine (sget_sset ..).trans (if_congr ?_ rfl rfl)
    exact ⟨fun h => BitVec.eq_of_toNat_eq h, fun h => congrArg BitVec.toNat h⟩
  rw [launchOf, launchOf, hget]
  by_cases hq : q' = q
  · subst hq
    rw [if_pos rfl, List.find?_map]
    have hsame : ((fun l : Launch => decide (l.ordinal = n')) ∘ fun l => if l.ordinal = n then f l else l)
        = fun l => decide (l.ordinal = n') := by
      funext l
      dsimp only [Function.comp]
      split
      · rw [hf]
      · rfl
    rw [hsame]
    exact congrArg (fun g => Option.map g _) (funext fun l => if_congr (by simp) rfl rfl)
  · rw [if_neg hq]
    simp [hq]

theorem launchesKept_modLaunch {f : Launch → Launch} (hf : ∀ l, (f l).ordinal = l.ordinal) (hh : ∀ l, ∀ h ∈ l.held, h ∈ (f l).held)
    (s : State) (q : BitVec 6) (n : Nat) : LaunchesKept s (modLaunch s q n f) := by
  refine ⟨rfl, fun q' n' l hl => ⟨_, by rw [launchOf_modLaunch hf, hl, Option.map_some], ?_⟩⟩
  split
  · exact hh l
  · exact fun h hm => hm

theorem launchesKept_holdLaunch (s : State) (q : BitVec 6) (n : Nat) (why : HoldCause) : LaunchesKept s (holdLaunch s q n why) :=
  launchesKept_modLaunch (f := fun l => { l with held := l.held.filter (fun h => h ≠ why) ++ [why] }) (fun _ => rfl) (fun l h hm => by
    by_cases he : h = why
    · exact List.mem_append_right _ (List.mem_singleton.2 he)
    · exact List.mem_append_left _ (List.mem_filter.2 ⟨hm, decide_eq_true he⟩)) s q n

theorem holdLaunch_held {s : State} {q : BitVec 6} {n : Nat} {l : Launch} (why : HoldCause) (h : launchOf s q n = some l) :
    ∃ l', launchOf (holdLaunch s q n why) q n = some l' ∧ why ∈ l'.held := by
  have hn : l.ordinal = n := of_decide_eq_true (List.find?_some (p := fun l : Launch => decide (l.ordinal = n)) h)
  refine ⟨_, by
    rw [holdLaunch, launchOf_modLaunch (f := fun l => { l with held := l.held.filter (fun h => h ≠ why) ++ [why] }) (fun _ => rfl), h,
      Option.map_some], ?_⟩
  rw [if_pos ⟨rfl, hn⟩]
  exact List.mem_append_right _ (List.mem_singleton.2 rfl)

/-! ### What leaves the queues as they are -/

theorem steady_modSlot (s : State) (c : SlotId) (f : Slot → Slot) : Steady s (modSlot s c f) :=
  ⟨modSlot_queues s c f, modSlot_mgmt s c f⟩

theorem steady_wantSwitch (s : State) (c : SlotId) : Steady s (wantSwitch s c) := by
  unfold wantSwitch
  dsimp only
  split <;> exact ⟨rfl, rfl⟩

theorem steady_freeSlot (s : State) (c : SlotId) : Steady s (freeSlot s c) := steady_modSlot s c emptySlot

theorem steady_sendFrame (s : State) (f : Frame) (op : Option OpRef) : Steady s (sendFrame s f op) := by
  unfold sendFrame
  dsimp only
  split
  · exact ⟨rfl, rfl⟩
  · split
    · exact ⟨rfl, rfl⟩
    · split <;> exact ⟨rfl, rfl⟩

theorem steady_askHost (s : State) (t : Slot) (v : BitVec 40) (h : Option (BitVec 4)) (r : BitVec 512) :
    Steady s (askHost s t v h r) := by
  unfold askHost
  dsimp only
  split
  · exact .after (steady_sendFrame ..) ⟨rfl, rfl⟩
  · exact .after (steady_sendFrame ..) (.after (steady_sendFrame ..) ⟨rfl, rfl⟩)

theorem steady_endLater (s : State) (c : SlotId) (e : Event) : Steady s (endLater s c e) := steady_modSlot ..

theorem steady_holdEvent (s : State) (c : SlotId) (e : Event) : Steady s (holdEvent s c e) := by
  unfold holdEvent
  split
  · exact ⟨rfl, rfl⟩
  · split
    · exact steady_endLater ..
    · exact steady_modSlot ..

theorem steady_takeHandled (s : State) (t : Slot) (e : Event) (link : Word) : Steady s (takeHandled s t e link) := by
  unfold takeHandled
  split <;> exact steady_modSlot ..

theorem steady_takeFault (s : State) (w : Site) (f : FaultInfo) (link : Word) : Steady s (takeFault s w f link) := by
  unfold takeFault
  split
  · exact ⟨rfl, rfl⟩
  · dsimp only
    split
    · exact .after (steady_askHost ..) (.after (steady_wantSwitch ..) (steady_modSlot ..))
    · split
      · split
        · exact (steady_modSlot ..).trans (steady_endLater ..)
        · split
          · exact steady_takeHandled ..
          · exact steady_modSlot ..
      · exact (steady_modSlot ..).trans (steady_holdEvent ..)
    · exact (steady_modSlot ..).trans (steady_endLater ..)

/-! ### What a save finishes -/

theorem steady_waitFinish (s : State) (c : SlotId) (w : WaitState) (timeout : Bool) : Steady s (waitFinish s c w timeout) := by
  unfold waitFinish
  split
  · exact ⟨rfl, rfl⟩
  · have hfold := (acquiresOf_fold s c w (List.range w.conds.length)).1
    have hsteady : Steady s ((List.range w.conds.length).foldl (fun s i => acquireCond s c w i) s) := ⟨by rw [hfold], by rw [hfold]⟩
    exact hsteady.trans (steady_modSlot ..)

theorem steady_waitEnd (s : State) (t : Slot) (w : WaitState) (timeout : Bool) : Steady s (waitEnd s t w timeout) := by
  unfold waitEnd
  split
  · next s' h =>
    have hframe := (bankOnly_waitReads h).1
    exact .trans ⟨by rw [hframe], by rw [hframe]⟩ (steady_waitFinish ..)
  · exact steady_takeFault ..
  · exact ⟨rfl, rfl⟩

theorem steady_latchWait (s : State) (c : SlotId) : Steady s (latchWait s c) := by
  unfold latchWait
  split
  · split
    · split
      · exact steady_waitEnd ..
      · exact ⟨rfl, rfl⟩
    · exact ⟨rfl, rfl⟩
  · exact ⟨rfl, rfl⟩

theorem steady_clearMem (s : State) (lo hi : Nat) : Steady s (clearMem s lo hi) := ⟨rfl, rfl⟩

theorem launchesKept_phaseChange (s : State) (q : BitVec 6) (l : Launch) : LaunchesKept s (phaseChange s q l) := by
  unfold phaseChange
  dsimp only
  refine .trans (.of_steady (t := if _ then clearWindow (zeroSpill s l) l else s) ?_) (.trans (launchesKept_modLaunch ?_ ?_ _ q l.ordinal) (.of_steady ⟨rfl, rfl⟩))
  · unfold clearWindow zeroSpill
    split
    · split <;> split <;> exact ⟨rfl, rfl⟩
    · exact ⟨rfl, rfl⟩
  · exact fun _ => rfl
  · exact fun _ _ h => h

/-- The slot with its WAIT told of a phase of a barrier object. -/
def signalPhase (addr : Nat) (t : Slot) : Slot :=
  { t with wait := t.wait.map (fun w => if w.phases.any (fun p => p.1 = addr) then { w with signalled := true } else w) }

/-- The state after an update of a barrier object: the object is written, and with its phase over the launches and waits that it
concerns are told. -/
theorem barrierUpdate_eq_ok {s s' : State} {addr : Nat} {arrival : Bool} {delta : Int} {ph : BitVec 32}
    (h : barrierUpdate s addr arrival delta = .ok (s', ph)) : ∃ v, s' = (homeWrite s addr (bytesOf 16 v)).1
      ∨ s' = mapItems ((epochLaunches (homeWrite s addr (bytesOf 16 v)).1 addr).foldl (fun s p => phaseChange s p.1 p.2)
          (homeWrite s addr (bytesOf 16 v)).1) (signalPhase addr) := by
  unfold barrierUpdate at h
  dsimp only at h
  split at h
  · cases h
  · split at h
    · cases h
    · generalize (if arrival = true then _ else _) = arrive at h
      split at h
      · obtain ⟨rfl, -⟩ := Prod.mk.inj (Except.ok.inj h)
        exact ⟨_, .inr rfl⟩
      · obtain ⟨rfl, -⟩ := Prod.mk.inj (Except.ok.inj h)
        exact ⟨_, .inl rfl⟩

theorem homeOnly.mgmt {s t : State} (h : homeOnly s t) : t.mgmt = s.mgmt := by rw [h]

theorem launchesKept_barrierUpdate {s s' : State} {addr : Nat} {arrival : Bool} {delta : Int} {ph : BitVec 32}
    (h : barrierUpdate s addr arrival delta = .ok (s', ph)) : LaunchesKept s s' := by
  obtain ⟨v, hs'⟩ := barrierUpdate_eq_ok h
  have hframe := (storesMemory_homeWrite (.refl s) s.cur addr (bytesOf 16 v) false).1
  have hsteady : Steady s (homeWrite s addr (bytesOf 16 v)).1 := ⟨hframe.queues, hframe.mgmt⟩
  obtain ⟨s1, hs1⟩ : ∃ s1, s1 = (homeWrite s addr (bytesOf 16 v)).1 := ⟨_, rfl⟩
  rw [← hs1] at hs' hsteady
  rcases hs' with rfl | rfl
  · exact .of_steady hsteady
  · have hphase := LaunchesKept.foldl (fun s (p : BitVec 6 × Launch) => launchesKept_phaseChange s p.1 p.2) (epochLaunches s1 addr) s1
    exact .trans (.of_steady hsteady) (hphase.trans (.of_steady ⟨rfl, rfl⟩))

theorem steady_updateDone (s : State) (u : BarrierUpdate) : Steady s (updateDone s u) := by
  unfold updateDone
  split
  · exact steady_modSlot ..
  · exact ⟨rfl, rfl⟩

theorem launchesKept_barrierArrive (s : State) (i : Nat) : LaunchesKept s (barrierArrive s i) := by
  unfold barrierArrive
  split
  · exact .refl s
  · next u hu =>
    have hfail (f : FaultInfo) : LaunchesKept s (match refSlot { s with barriers := s.barriers.eraseIdx i } u.issuer with
        | some t => takeFault (updateDone { s with barriers := s.barriers.eraseIdx i } u)
          { slot := t.id, source := u.source, coff := u.coff, len := u.len, q := u.q, opnum := u.opnum } f 0
        | none => { s with barriers := s.barriers.eraseIdx i }) := by
      split
      · exact .of_steady (.after (steady_takeFault ..) (.after (steady_updateDone ..) ⟨rfl, rfl⟩))
      · exact .of_steady ⟨rfl, rfl⟩
    dsimp only
    split
    · exact .refl s
    · split
      · exact .of_steady ⟨rfl, rfl⟩
      · split
        · exact hfail _
        · split
          · exact hfail _
          · next s' ph h =>
            have hkept := launchesKept_barrierUpdate h
            exact .trans (.of_steady (t := { s with barriers := s.barriers.eraseIdx i }) ⟨rfl, rfl⟩) (hkept.trans (.of_steady (steady_updateDone ..)))

theorem launchesKept_drainBarriers (r : OpRef) (fuel : Nat) (s : State) : LaunchesKept s (drainBarriers s r fuel) := by
  induction fuel generalizing s with
  | zero => exact .refl s
  | succ fuel ih =>
    rw [drainBarriers]
    split
    · exact .trans (launchesKept_barrierArrive ..) (ih _)
    · exact .refl s

theorem launchesKept_stopForSave (s : State) (t : Slot) : LaunchesKept s (stopForSave s t) :=
  .trans (.of_steady (steady_latchWait s t.id)) (.trans (launchesKept_drainBarriers ..)
    (.of_steady ((steady_modSlot ..).trans (steady_modSlot ..))))

theorem steady_saveSlot (s : State) (c : SlotId) : Steady s (saveSlot s c) := by
  unfold saveSlot
  split
  · exact ⟨rfl, rfl⟩
  · exact .after (steady_freeSlot ..) (.after (steady_wantSwitch ..) ⟨rfl, rfl⟩)

theorem launchesKept_finishSave (s : State) (c : SlotId) : LaunchesKept s (finishSave s c) := by
  unfold finishSave
  split
  · exact .refl s
  · dsimp only
    split
    · exact .foldl (fun s c => .of_steady (steady_saveSlot s c)) _ s
    · exact .refl s

theorem launchesKept_saveUnit (s : State) (t : Slot) : LaunchesKept s (saveUnit s t) := by
  unfold saveUnit
  dsimp only
  split
  · exact .refl s
  · exact .trans (.foldl launchesKept_stopForSave _ s) (launchesKept_finishSave ..)

theorem launchesKept_saves (q : BitVec 6) (n : Nat) (cs : List SlotId) (s : State) : LaunchesKept s (cs.foldl (fun s c =>
    match slotOf s c with
    | some t => if slotRuns t q n && !t.saving then saveUnit s t else s
    | none => s) s) := by
  refine .foldl (fun s c => ?_) cs s
  split
  · split
    · exact launchesKept_saveUnit ..
    · exact .refl s
  · exact .refl s

theorem launchesKept_preemptMid (s : State) (q : BitVec 6) (n : Nat) (why : HoldCause) (on : SlotId → Bool) :
    LaunchesKept s (preemptMid s q n why on) :=
  .trans (launchesKept_holdLaunch s q n why) (launchesKept_saves ..)

theorem preemptMid_held {s : State} {q : BitVec 6} {n : Nat} {l : Launch} (why : HoldCause) (on : SlotId → Bool)
    (h : launchOf s q n = some l) : ∃ l', launchOf (preemptMid s q n why on) q n = some l' ∧ why ∈ l'.held := by
  obtain ⟨l1, hl1, hh1⟩ := holdLaunch_held why h
  obtain ⟨l2, hl2, hh2⟩ := launchesKept_saves q n ((launchSlots (holdLaunch s q n why) q n).filter on) (holdLaunch s q n why) |>.2 q n l1 hl1
  exact ⟨l2, hl2, hh2 why hh1⟩

/-- Every launch of a list that a fold pre-empts is held. -/
theorem foldl_preemptMid_held {q : BitVec 6} {n : Nat} (why : HoldCause) (on : SlotId → Bool) (xs : List (BitVec 6 × Nat)) (s : State)
    {l : Launch} (h : launchOf s q n = some l) (hmem : (q, n) ∈ xs ∨ why ∈ l.held) :
    ∃ l', launchOf (xs.foldl (fun s x => preemptMid s x.1 x.2 why on) s) q n = some l' ∧ why ∈ l'.held := by
  induction xs generalizing s l with
  | nil => exact ⟨l, h, hmem.resolve_left List.not_mem_nil⟩
  | cons x xs ih =>
    rw [List.foldl_cons]
    by_cases hx : (q, n) = x
    · subst hx
      obtain ⟨l', hl', hh⟩ := preemptMid_held why on h
      exact ih _ hl' (.inr hh)
    · obtain ⟨l', hl', hh⟩ := (launchesKept_preemptMid s x.1 x.2 why on).2 q n l h
      exact ih _ hl' (hmem.imp (fun hm => (List.mem_cons.1 hm).resolve_left hx) (hh why))

/-! ## Power, the boot and the temperature (R4, R468, R470 to R472) -/

theorem bootTo_eq (s : State) (n : Nat) : bootTo s n = { bootUnit s n with mgmt := { (bootUnit s n).mgmt with
    boot := { (bootUnit s n).mgmt.boot with stage := n, due := s.cycle + bootPause n } } } := by
  have hcycle : (bootUnit s n).cycle = s.cycle := by
    unfold bootUnit
    repeat' split
    all_goals rfl
  rw [bootTo]
  dsimp only
  rw [hcycle]

theorem mem_of_sget_ne {α : Type} {d : α} {m : Sparse α} {a : Nat} (h : sget d m a ≠ d) : (a, sget d m a) ∈ m := by
  induction m with
  | nil => exact absurd rfl h
  | cons p m ih =>
    rw [sget] at h ⊢
    split at h
    · next ha => rw [if_pos ha, ha]; exact List.mem_cons_self
    · next ha => rw [if_neg ha]; exact List.mem_cons_of_mem _ (ih h)

theorem queued_of_launchOf {s : State} {q : BitVec 6} {n : Nat} {l : Launch} (h : launchOf s q n = some l) :
    (q, n) ∈ s.queues.flatMap (fun p => p.2.launches.map (fun l => ((BitVec.ofNat 6 p.1 : BitVec 6), l.ordinal))) := by
  have hn : l.ordinal = n := of_decide_eq_true (List.find?_some (p := fun l : Launch => decide (l.ordinal = n)) h)
  have hl : l ∈ (queueOf s q).launches := List.mem_of_find?_eq_some h
  have hq : queueOf s q ≠ {} := fun hd => by
    rw [hd] at hl
    exact absurd hl List.not_mem_nil
  refine List.mem_flatMap.2 ⟨_, mem_of_sget_ne hq, List.mem_map.2 ⟨l, hl, ?_⟩⟩
  rw [hn, BitVec.ofNat_toNat, BitVec.setWidth_eq]

theorem foldl_preemptMid_mgmt (why : HoldCause) (on : SlotId → Bool) (xs : List (BitVec 6 × Nat)) (s : State) :
    (xs.foldl (fun s x => preemptMid s x.1 x.2 why on) s).mgmt = s.mgmt :=
  (LaunchesKept.foldl (fun s (x : BitVec 6 × Nat) => launchesKept_preemptMid s x.1 x.2 why on) xs s).1

theorem exec_thermalPreempt_hot {s : State} (hp : s.mgmt.powered = true) {die : BitVec 2} {n : Nat} (hn : 110 ≤ n) :
    ∃ r, exec (.thermalPreempt die n) s = .next r ∧ r.mgmt.withheld[die.toFin] = true
      ∧ ∀ q o l c, launchOf s q o = some l → c ∈ launchSlots s q o → dieOf c.core = die.toNat →
        ∃ l', launchOf r q o = some l' ∧ .thermal die ∈ l'.held := by
  refine ⟨_, (exec_thermalPreempt ..).trans ((event_next hp).trans (congrArg _ (if_neg (by omega)))), ?_, fun q o l c hl hc hd => ?_⟩
  · rw [foldl_preemptMid_mgmt]
    exact Vector.getElem_set_self ..
  · refine foldl_preemptMid_held (.thermal die) _ _ (setWithheld s die true) hl (.inl (List.mem_filter.2 ⟨queued_of_launchOf hl, ?_⟩))
    exact List.any_eq_true.2 ⟨c, hc, decide_eq_true hd⟩

theorem exec_powerUp_next {s : State} (hp : s.mgmt.powered = true) (h48 : s.mgmt.boot.stage < 48) (h24 : s.mgmt.boot.stage ≠ 24)
    (hdue : s.mgmt.boot.due ≤ s.cycle) :
    exec (.powerUp (s.mgmt.boot.stage + 1)) s = .next (bootTo s (s.mgmt.boot.stage + 1)) := by
  have hnow : bootDue s = true := by
    rw [bootDue, decide_eq_true h48, decide_eq_true hdue, Bool.and_true, Bool.true_and]
    exact decide_eq_true h24
  rw [exec_powerUp, execPowerUp, if_neg (by simp [hp]), hnow, if_pos (by simp)]

theorem exec_powerUp_waits {s : State} (hp : s.mgmt.powered = true) {unit : Nat} (h : 48 ≤ s.mgmt.boot.stage ∨ s.mgmt.boot.stage = 24
    ∨ s.cycle < s.mgmt.boot.due ∨ unit ≠ s.mgmt.boot.stage + 1) : exec (.powerUp unit) s = .next s := by
  rw [exec_powerUp, execPowerUp, if_neg (by simp [hp]), if_neg]
  intro hc
  simp only [bootDue, Bool.and_eq_true, decide_eq_true_eq] at hc
  obtain ⟨⟨⟨h48, h24⟩, hdue⟩, hunit⟩ := hc
  rcases h with h | h | h | h
  · omega
  · exact h24 h
  · omega
  · exact h hunit

/-- The hosts that the boot ROM has registered once one has answered. -/
def registered (s : State) (hosts : List (BitVec 18)) : List (BitVec 18) :=
  if s.mgmt.hosts = [] then 0 :: hosts.filter (fun h => h ≠ 0) else s.mgmt.hosts

theorem execBootHandshake_eq (s : State) (hp : s.mgmt.powered = true) (hosts : List (BitVec 18)) (dev : BitVec 18) (version : BitVec 32)
    (image sig : List Byte) : exec (.bootHandshake ⟨hosts, dev⟩ version image sig) s = .next (
      if !s.port.up || s.mgmt.boot.stage ≠ handshakeStage then s
      else if Config.mldsaVerify Config.ocoatuKeyHash (sha3 image) sig && Config.minFirmware ≤ version then
        bootTo { s with mgmt := { s.mgmt with
          hosts := registered s hosts, version := version, digest := sha3 image, boot := { s.mgmt.boot with dev := dev } } } 25
      else { s with mgmt := { s.mgmt with hosts := registered s hosts } }) := by
  have hlist : (if s.mgmt.hosts.isEmpty then 0 :: hosts.filter (fun h => h ≠ 0) else s.mgmt.hosts) = registered s hosts :=
    if_congr List.isEmpty_iff rfl rfl
  rw [exec_bootHandshake, execBootHandshake, event_next hp]
  dsimp only
  rw [hlist]

/-- Settles O55: each event by its definition, and what a thermal pre-emption holds by `foldl_preemptMid_held`. -/
theorem powerAndTemperature : Obligations.PowerAndTemperature := by
  unfold Obligations.PowerAndTemperature
  intro s
  dsimp only
  refine ⟨fun hoff => ?_, fun hp => ⟨fun unit => exec_powerUp_waits hp, fun h48 h24 hdue => ?_,
    fun hosts dev version image sig => ⟨fun h => ?_, fun hup h24 hbad => ?_, fun hup h24 hok => ?_⟩, event_next hp,
    fun die n => ⟨fun h => ?_, fun h => ?_, fun h1 h2 => ?_, exec_thermalPreempt_hot hp⟩, fun n h => ?_, fun w h => ?_⟩⟩
  · rw [exec_powerUp, execPowerUp, if_pos (by simp [hoff]), if_pos rfl]
    rfl
  · rw [exec_powerUp_next hp h48 h24 hdue, bootTo_eq]
    rfl
  · rw [execBootHandshake_eq s hp, if_pos]
    simpa [or_iff_not_imp_left] using h
  · rw [execBootHandshake_eq s hp, if_neg (by simp [hup, h24]), if_neg (by simpa using hbad)]
    rfl
  · rw [execBootHandshake_eq s hp, if_neg (by simp [hup, h24]), if_pos (by simpa using hok), bootTo_eq]
    rfl
  · exact (exec_thermalWithhold ..).trans ((event_next hp).trans (congrArg _ (if_pos h)))
  · exact (exec_thermalWithhold ..).trans ((event_next hp).trans (congrArg _ ((if_neg (by omega)).trans (if_pos h))))
  · exact (exec_thermalWithhold ..).trans ((event_next hp).trans (congrArg _ ((if_neg (by omega)).trans (if_neg (by omega)))))
  · exact (exec_thermalTrip ..).trans ((event_next hp).trans (congrArg _ (if_pos h)))
  · exact (exec_powerCapCheck ..).trans ((event_next hp).trans (congrArg _ (if_pos h)))

end Sys2Proof.Machine
end

section
/-! SUPPORT. UCIe flits, retraining and the failure of the package, chain links: R449, R450, R454, R455, R459 to R462; O53. -/

namespace Sys2Proof.Machine

/-! ## A flit's bytes (R459) -/

section
variable (seq ack : BitVec 16) (vc : Nat) (payload : List Byte)

/-- The bytes of a flit before its CRC. -/
def flitBody : List Byte :=
  bytesOf 2 seq.toNat ++ bytesOf 2 ack.toNat ++ bytesOf 4 vc ++ payload ++ List.replicate (240 - payload.length) 0

theorem flitBytes_eq : flitBytes seq ack vc payload
    = flitBody seq ack vc payload ++ bytesOf 8 (crc64 (flitBody seq ack vc payload)).toNat := rfl

theorem flitBody_eq : flitBody seq ack vc payload = bytesOf 2 seq.toNat ++ (bytesOf 2 ack.toNat ++ (bytesOf 4 vc
    ++ (payload ++ List.replicate (240 - payload.length) 0))) := by
  simp only [flitBody, List.append_assoc]

variable {payload} (hlen : payload.length ≤ 240)
include hlen

theorem length_flitBody : (flitBody seq ack vc payload).length = 248 := by
  simp only [flitBody, List.length_append, Laws.bytesOf_length, List.length_replicate]
  omega

theorem flitBytes_take {n : Nat} (h : n ≤ 248) : (flitBytes seq ack vc payload).take n = (flitBody seq ack vc payload).take n := by
  rw [flitBytes_eq, List.take_append_of_le_length (by rw [length_flitBody seq ack vc hlen]; exact h)]

theorem flitBytes_crc : (flitBytes seq ack vc payload).drop 248 = bytesOf 8 (crc64 ((flitBytes seq ack vc payload).take 248)).toNat := by
  have hbody := length_flitBody seq ack vc hlen
  rw [flitBytes_take seq ack vc hlen (Nat.le_refl _), flitBytes_eq, ← hbody, List.drop_left, List.take_length]

end

/-- The flit that a link sends carries its numbers, its channel and its payload under a right CRC. -/
theorem flitBytes_fields (seq ack : BitVec 16) {vc : Nat} {payload : List Byte} (hvc : vc < 256) (hlen : payload.length ≤ 240) :
    let f := flitBytes seq ack vc payload
    f.length = 256 ∧ leNat (f.take 2) = seq.toNat ∧ leNat ((f.drop 2).take 2) = ack.toNat ∧ (f.getD 4 0).toNat = vc
      ∧ (f.drop 8).take payload.length = payload ∧ (crc64 (f.take 248)).toNat = leNat (f.drop 248) := by
  intro f
  have hf : f = bytesOf 2 seq.toNat ++ (bytesOf 2 ack.toNat ++ (bytesOf 4 vc ++ (payload ++ (List.replicate (240 - payload.length) 0
      ++ bytesOf 8 (crc64 (flitBody seq ack vc payload)).toNat)))) := by
    rw [show f = _ from flitBytes_eq seq ack vc payload]
    simp only [flitBody, List.append_assoc]
  have h2 (x : Nat) : (bytesOf 2 x).length = 2 := Laws.bytesOf_length 2 x
  have h4 : (bytesOf 4 vc).length = 4 := Laws.bytesOf_length 4 vc
  have hcrc : f.drop 248 = bytesOf 8 (crc64 (f.take 248)).toNat := flitBytes_crc seq ack vc hlen
  have hdrop2 : f.drop 2 = bytesOf 2 ack.toNat ++ (bytesOf 4 vc ++ (payload ++ (List.replicate (240 - payload.length) 0
      ++ bytesOf 8 (crc64 (flitBody seq ack vc payload)).toNat))) := by
    rw [hf]
    exact List.drop_left' (h2 _)
  have hdrop4 : f.drop 4 = bytesOf 4 vc ++ (payload ++ (List.replicate (240 - payload.length) 0
      ++ bytesOf 8 (crc64 (flitBody seq ack vc payload)).toNat)) := by
    rw [show f.drop 4 = (f.drop 2).drop 2 by rw [List.drop_drop], hdrop2]
    exact List.drop_left' (h2 _)
  have hdrop8 : f.drop 8 = payload ++ (List.replicate (240 - payload.length) 0
      ++ bytesOf 8 (crc64 (flitBody seq ack vc payload)).toNat) := by
    rw [show f.drop 8 = (f.drop 4).drop 4 by rw [List.drop_drop], hdrop4]
    exact List.drop_left' h4
  refine ⟨?_, ?_, ?_, ?_, ?_, ?_⟩
  · rw [show f = _ from flitBytes_eq seq ack vc payload, List.length_append, length_flitBody seq ack vc hlen, Laws.bytesOf_length]
  · rw [hf, List.take_left' (h2 _), leNat_bytesOf]
    exact Nat.mod_eq_of_lt seq.isLt
  · rw [hdrop2, List.take_left' (h2 _), leNat_bytesOf]
    exact Nat.mod_eq_of_lt ack.isLt
  · rw [show f.getD 4 0 = (f.drop 4).getD 0 0 by rw [List.getD_eq_getElem?_getD, List.getD_eq_getElem?_getD, List.getElem?_drop],
      hdrop4, List.getD_append _ _ _ _ (by rw [h4]; decide), getD_bytesOf vc (by decide)]
    simpa using hvc
  · rw [hdrop8, List.take_left]
  · rw [hcrc, leNat_bytesOf]
    exact (Nat.mod_eq_of_lt (crc64 _).isLt).symm

/-! ## UCIe links (R459, R460) -/

/-- A link with a NAK that names the number it expects. -/
def addNak (l : UcieState) : UcieState := { l with naks := l.expected :: l.naks }

section
variable {s : State} (hp : s.mgmt.powered = true) (link : UcieLink)
include hp

theorem exec_flitReceive_training (u : LinkUnit) (h : s.ucie[linkNum link].training = true) : exec (.flitReceive link u) s = .next s := by
  rw [exec_flitReceive, execFlitReceive, event_next hp]
  dsimp only
  rw [if_pos h]

variable (h : s.ucie[linkNum link].training = false)
include h

theorem exec_flitReceive_nak (k : BitVec 16) : exec (.flitReceive link (.nak k)) s = .next
    { s with ucie := s.ucie.set (linkNum link) (resendFlits s.ucie[linkNum link] k) } := by
  rw [exec_flitReceive, execFlitReceive, event_next hp]
  dsimp only
  rw [if_neg (Bool.eq_false_iff.1 h)]

theorem exec_flitReceive_right {bs : List Byte} (hlen : bs.length = 256) (hcrc : (crc64 (bs.take 248)).toNat = leNat (bs.drop 248))
    (hnum : leNat (bs.take 2) = s.ucie[linkNum link].expected.toNat) : exec (.flitReceive link (.flit bs)) s = .next
      { s with ucie := s.ucie.set (linkNum link) (takeFlit s.ucie[linkNum link] bs) } := by
  have hok : (flitOk bs && BitVec.ofNat 16 (leNat (bs.take 2)) = s.ucie[linkNum link].expected) = true := by
    simp [flitOk, hlen, hcrc, hnum]
  rw [exec_flitReceive, execFlitReceive, event_next hp]
  dsimp only
  rw [if_neg (Bool.eq_false_iff.1 h), if_pos hok]

theorem exec_flitReceive_wrong {bs : List Byte} (hbad : ¬ (bs.length = 256 ∧ (crc64 (bs.take 248)).toNat = leNat (bs.drop 248)
    ∧ leNat (bs.take 2) = s.ucie[linkNum link].expected.toNat)) : exec (.flitReceive link (.flit bs)) s = .next
      { s with ucie := s.ucie.set (linkNum link) (addNak s.ucie[linkNum link]) } := by
  have hno : ¬ (flitOk bs && BitVec.ofNat 16 (leNat (bs.take 2)) = s.ucie[linkNum link].expected) = true := by
    intro hok
    simp only [flitOk, Bool.and_eq_true, decide_eq_true_eq] at hok
    obtain ⟨⟨hlen, hcrc⟩, hnum⟩ := hok
    refine hbad ⟨hlen, hcrc, ?_⟩
    have hlt := leNat_lt (bs.take 2)
    rw [List.length_take, hlen] at hlt
    rw [← hnum, BitVec.toNat_ofNat]
    exact (Nat.mod_eq_of_lt hlt).symm
  rw [exec_flitReceive, execFlitReceive, event_next hp]
  dsimp only
  rw [if_neg (Bool.eq_false_iff.1 h), if_neg hno]
  rfl

end

theorem resendFlits_eq (l : UcieState) (k : BitVec 16) : resendFlits l k =
    let left := replayAfter l (k - 1)
    let again := if left.length = l.replay.length then l.resends + 1 else 1
    let kept := { l with replay := left, resends := again }
    if left = [] then { kept with resends := 0 }
    else if 16 ≤ again then { kept with training := true }
    else { kept with wire := left.reverse ++ l.wire } :=
  if_congr List.isEmpty_iff rfl rfl

/-! ## Launches that fail (R435, R460) -/

/-- Memory stays, and every launch is one that was there, and has failed if that had. -/
def LaunchesFail (s t : State) : Prop := t.mem = s.mem ∧ ∀ q n x, launchOf t q n = some x →
  ∃ l, launchOf s q n = some l ∧ (l.failed = true → x.failed = true)

namespace LaunchesFail

theorem refl (s : State) : LaunchesFail s s := ⟨rfl, fun _ _ x hx => ⟨x, hx, id⟩⟩

theorem trans {s t u : State} (h1 : LaunchesFail s t) (h2 : LaunchesFail t u) : LaunchesFail s u := by
  refine ⟨h2.1.trans h1.1, fun q n x hx => ?_⟩
  obtain ⟨l2, hl2, hf2⟩ := h2.2 q n x hx
  obtain ⟨l1, hl1, hf1⟩ := h1.2 q n l2 hl2
  exact ⟨l1, hl1, fun h => hf2 (hf1 h)⟩

theorem after {s t u : State} (h2 : LaunchesFail t u) (h1 : LaunchesFail s t) : LaunchesFail s u := h1.trans h2

theorem of_eq {s t : State} (hm : t.mem = s.mem) (hq : t.queues = s.queues) : LaunchesFail s t :=
  ⟨hm, fun q n x hx => ⟨x, by rwa [launchOf, queueOf, hq] at hx, id⟩⟩

theorem foldl {α : Type} {f : State → α → State} (hf : ∀ s a, LaunchesFail s (f s a)) (xs : List α) (s : State) :
    LaunchesFail s (xs.foldl f s) := by
  induction xs generalizing s with
  | nil => exact refl s
  | cons x xs ih => exact (hf s x).trans (ih _)

theorem modLaunch {f : Launch → Launch} (hf : ∀ l, (f l).ordinal = l.ordinal) (hh : ∀ l, l.failed = true → (f l).failed = true)
    (s : State) (q : BitVec 6) (n : Nat) : LaunchesFail s (modLaunch s q n f) := by
  refine ⟨rfl, fun q' n' x hx => ?_⟩
  rw [launchOf_modLaunch hf] at hx
  obtain ⟨l, hl, rfl⟩ := Option.map_eq_some_iff.1 hx
  refine ⟨l, hl, ?_⟩
  split
  · exact hh l
  · exact id

theorem modSlot (s : State) (c : SlotId) (f : Slot → Slot) : LaunchesFail s (modSlot s c f) := of_eq (modSlot_mem ..) (modSlot_queues ..)

theorem sendFrame (s : State) (f : Frame) (op : Option OpRef) : LaunchesFail s (sendFrame s f op) := by
  refine of_eq ?_ (steady_sendFrame ..).1
  unfold Machine.sendFrame
  dsimp only
  split
  · rfl
  · split
    · rfl
    · split <;> rfl

theorem wantSwitch (s : State) (c : SlotId) : LaunchesFail s (wantSwitch s c) := by
  refine of_eq ?_ (steady_wantSwitch ..).1
  unfold Machine.wantSwitch
  dsimp only
  split <;> rfl

theorem releaseDomain (s : State) (kdh : BitVec 32) : LaunchesFail s (releaseDomain s kdh) := by
  refine of_eq ?_ ?_
  · simp only [Machine.releaseDomain, apply_ite State.mem, ite_self]
  · simp only [Machine.releaseDomain, apply_ite State.queues, ite_self]

theorem returnEntries (s : State) (t : Slot) : LaunchesFail s (returnEntries s t) := by
  unfold Machine.returnEntries
  refine foldl (fun s e => ?_) t.inbox s
  exact of_eq rfl rfl

theorem dropWork (s : State) (t : Slot) : LaunchesFail s (dropWork s t) := by
  unfold Machine.dropWork
  dsimp only
  have hfold := foldl (fun s (p : Nat × ZTag) => releaseDomain s p.2.kdh) (t.ztag.filter (fun p => p.2.fresh && p.2.state = 1)) s
  have hlapse := hfold.trans (.trans (returnEntries _ t) (of_eq (t := lapse (Machine.returnEntries _ t) (itemKey t)) rfl rfl))
  split
  · next it _ =>
    split
    · exact hlapse.trans (of_eq rfl rfl)
    · have hmark := modLaunch (f := fun l => { l with running := l.running - 1 }) (fun _ => rfl) (fun _ h => h)
        (lapse (Machine.returnEntries ((t.ztag.filter (fun p => p.2.fresh && p.2.state = 1)).foldl
          (fun s p => Machine.releaseDomain s p.2.kdh) s) t) (itemKey t)) it.queue it.ordinal
      exact hlapse.trans (hmark.trans (of_eq rfl rfl))
  · exact hlapse.trans (of_eq rfl rfl)

theorem freeSlot (s : State) (c : SlotId) : LaunchesFail s (freeSlot s c) := of_eq (modSlot_mem s c emptySlot) (modSlot_queues s c emptySlot)

theorem removeItem (s : State) (c : SlotId) : LaunchesFail s (removeItem s c) := by
  unfold Machine.removeItem
  split
  · exact refl s
  · split
    · exact refl s
    · exact .after (freeSlot ..) (.after (wantSwitch ..) (dropWork ..))

theorem dropSaved (s : State) (x : Saved) : LaunchesFail s (dropSaved s x) := .trans (dropWork s x.slot) (of_eq rfl rfl)

end LaunchesFail

theorem failed_modLaunch {f : Launch → Launch} (hf : ∀ l, (f l).ordinal = l.ordinal) (hfail : ∀ l, (f l).failed = true) {s : State}
    {q : BitVec 6} {n : Nat} {x : Launch} (h : launchOf (modLaunch s q n f) q n = some x) : x.failed = true := by
  rw [launchOf_modLaunch hf] at h
  obtain ⟨l, hl, rfl⟩ := Option.map_eq_some_iff.1 h
  have hn : l.ordinal = n := of_decide_eq_true (List.find?_some (p := fun l : Launch => decide (l.ordinal = n)) hl)
  rw [if_pos ⟨rfl, hn⟩]
  exact hfail l

/-- The end of a launch: it has failed, and so have those that had. -/
theorem endLaunch_fails (s : State) (q : BitVec 6) (n : Nat) (tenant context : BitVec 16) (rep : BitVec 512) :
    LaunchesFail s (endLaunch s q n tenant context rep)
      ∧ ∀ x, launchOf (endLaunch s q n tenant context rep) q n = some x → x.failed = true := by
  have hmark : LaunchesFail s (modLaunch s q n (fun l => { l with failed := true, owed := [], unplaceableSince := none })) :=
    .modLaunch (f := fun l => { l with failed := true, owed := [], unplaceableSince := none }) (fun _ => rfl) (fun _ _ => rfl) s q n
  have hrest : LaunchesFail (modLaunch s q n (fun l => { l with failed := true, owed := [], unplaceableSince := none }))
      (endLaunch s q n tenant context rep) := by
    unfold endLaunch
    exact .after (.sendFrame ..) (.after (.foldl LaunchesFail.dropSaved _ _) (.after (.foldl LaunchesFail.removeItem _ _) (.of_eq rfl rfl)))
  refine ⟨hmark.trans hrest, fun x hx => ?_⟩
  obtain ⟨l, hl, hf⟩ := hrest.2 q n x hx
  exact hf (failed_modLaunch (f := fun l => { l with failed := true, owed := [], unplaceableSince := none }) (fun _ => rfl) (fun _ => rfl) hl)


/-! ## Retraining (R455, R460) -/

/-- The launches of the queues, which a failure of the package ends. -/
def queuedLaunches (s : State) : List (BitVec 6 × Launch) :=
  s.queues.flatMap (fun p => p.2.launches.map (fun l => ((BitVec.ofNat 6 p.1 : BitVec 6), l)))

/-- The report of a launch's end by a failure of the package. -/
def failReport (s : State) (x : BitVec 6 × Launch) : BitVec 512 :=
  let it : Item := { queue := x.1, ordinal := x.2.ordinal, index := 0, wid := 0, rank := 0, size := 0, dispatched := 0 }
  let t : Slot := { id := ⟨0, false⟩, item := some it, tenant := recTenant x.2.record, context := recContext x.2.record }
  report s t { slot := t.id, source := 5, coff := 0 } { code := 0x30 }

/-- The launches of a list ended, with reports of what the state was. -/
def endLaunches (s : State) (xs : List (BitVec 6 × Launch)) : State :=
  xs.foldl (fun s x => endLaunch s x.1 x.2.ordinal (recTenant x.2.record) (recContext x.2.record) (failReport s x)) s

theorem packageFails_eq (s : State) : packageFails s =
    { endLaunches s (queuedLaunches s) with mgmt := { (endLaunches s (queuedLaunches s)).mgmt with failed := true } } := rfl

theorem endLaunches_fails (xs : List (BitVec 6 × Launch)) (s : State) : LaunchesFail s (endLaunches s xs)
    ∧ ∀ q n, (∃ l, (q, l) ∈ xs ∧ l.ordinal = n) → ∀ x, launchOf (endLaunches s xs) q n = some x → x.failed = true := by
  induction xs generalizing s with
  | nil => exact ⟨.refl s, fun q n ⟨l, hl, _⟩ => absurd hl List.not_mem_nil⟩
  | cons y ys ih =>
    obtain ⟨hone, hfail⟩ := endLaunch_fails s y.1 y.2.ordinal (recTenant y.2.record) (recContext y.2.record) (failReport s y)
    obtain ⟨hrest, hall⟩ := ih (endLaunch s y.1 y.2.ordinal (recTenant y.2.record) (recContext y.2.record) (failReport s y))
    refine ⟨hone.trans hrest, fun q n ⟨l, hl, hn⟩ x hx => ?_⟩
    rcases List.mem_cons.1 hl with rfl | hl
    · subst hn
      obtain ⟨z, hz, hf⟩ := hrest.2 _ _ x hx
      exact hf (hfail z hz)
    · exact hall q n ⟨l, hl, hn⟩ x hx

theorem packageFails_fails (s : State) : (packageFails s).mgmt.failed = true ∧ (packageFails s).mem = s.mem
    ∧ ∀ q n x, launchOf (packageFails s) q n = some x → x.failed = true := by
  obtain ⟨hends, hall⟩ := endLaunches_fails (queuedLaunches s) s
  rw [packageFails_eq]
  refine ⟨rfl, hends.1, fun q n x hx => ?_⟩
  obtain ⟨l, hl, -⟩ := hends.2 q n x hx
  refine hall q n ?_ x hx
  have hq := queued_of_launchOf hl
  obtain ⟨p, hp, hm⟩ := List.mem_flatMap.1 hq
  obtain ⟨l', hl', he⟩ := List.mem_map.1 hm
  obtain ⟨rfl, rfl⟩ := Prod.mk.inj he
  exact ⟨l', List.mem_flatMap.2 ⟨p, hp, List.mem_map.2 ⟨l', hl', rfl⟩⟩, rfl⟩

/-! ## Chain links (R449, R450, R454, R455, R461, R462) -/

section
variable {s : State} (hp : s.mgmt.powered = true) (k : BitVec 3)

/-- The oldest packet of a link sent once more, with those behind it. -/
theorem resendLink_eq {l : ChainLink} {p : SentPacket} {ps : List SentPacket} (hw : l.window = p :: ps) (n : Fin 8) :
    resendLink s n l = { s with chains := s.chains.set n { l with
      window := { p with at_ := s.cycle, resends := p.resends + 1 } :: ps.map (fun x => { x with at_ := s.cycle })
      resendAt := none, wire := (l.window.map (fun p => p.packet)).reverse ++ l.wire } } := by
  have hlater (xs : List SentPacket) (i : Nat) : (xs.zipIdx (i + 1)).map (fun p : SentPacket × Nat =>
      { p.1 with at_ := s.cycle, resends := if p.2 = 0 then p.1.resends + 1 else p.1.resends })
        = xs.map (fun x => { x with at_ := s.cycle }) := by
    induction xs generalizing i with
    | nil => rfl
    | cons x xs ih =>
      rw [List.zipIdx_cons, List.map_cons, List.map_cons, ih, if_neg (Nat.succ_ne_zero i)]
  rw [resendLink, setChain]
  dsimp only
  rw [hw, List.zipIdx_cons, List.map_cons, hlater, if_pos rfl]

include hp

section
variable {p : SentPacket} {ps : List SentPacket} (hup : s.chains[k.toFin].up = true) (hw : s.chains[k.toFin].window = p :: ps)
include hup hw

theorem exec_retransmitTimeout_chain (hno : s.chains[k.toFin].resendAt = none)
    (hlate : p.at_ + 16 * s.chains[k.toFin].retransmit ≤ s.cycle) :
    exec (.retransmitTimeout (.chain k)) s = .next (resendLink s k.toFin s.chains[k.toFin]) := by
  rw [exec_retransmitTimeout, execRetransmitTimeout, event_next hp]
  rw [linkTimeout, hw]
  dsimp only
  rw [hup, hno, decide_eq_true hlate]
  rfl

omit hw in
theorem exec_backoffResend_chain {c : Nat} (hat : s.chains[k.toFin].resendAt = some c) (hover : c ≤ s.cycle) :
    exec (.backoffResend (.chain k)) s = .next (resendLink s k.toFin s.chains[k.toFin]) := by
  rw [exec_backoffResend, execBackoffResend, event_next hp]
  rw [linkBackoffEnds, hat]
  dsimp only
  rw [hup, decide_eq_true hover]
  rfl

end

theorem exec_portDown_chain {why : PortFailure} (hup : s.chains[k.toFin].up = true)
    (hfail : linkFails s.chains[k.toFin] s.cycle why = true) :
    exec (.portDown ⟨.chain s.devid k, why⟩) s = .next (s.chains[k.toFin].window.foldl (fun s p => reroute s (k.toFin / 4) p.packet)
      { s with chains := s.chains.set k.toFin { s.chains[k.toFin] with up := false, window := [], drops := [], resendAt := none } }) := by
  rw [exec_portDown, execPortDown, event_next hp]
  dsimp only
  rw [chainDown, if_neg (fun h => h rfl)]
  dsimp only
  rw [hup, hfail]
  rfl

end

theorem linkFails_of {l : ChainLink} {cycle : Nat} {why : PortFailure} (h : match why with
    | .drops => 64 ≤ (l.drops.filter (fun c => cycle < c + 1600000)).length
    | .resends => ∃ p ∈ l.window, 8 ≤ p.resends
    | .lockLost => True) : linkFails l cycle why = true := by
  cases why with
  | drops => exact decide_eq_true h
  | resends =>
    obtain ⟨p, hp, h8⟩ := h
    exact List.any_eq_true.2 ⟨p, hp, decide_eq_true h8⟩
  | lockLost => rfl

/-- Settles O53: a flit by its bytes, a link by each of its events, a failure of the package by `packageFails_fails`. -/
theorem linkEvents : Obligations.LinkEvents := by
  unfold Obligations.LinkEvents
  refine ⟨fun seq ack vc payload hvc hlen => flitBytes_fields seq ack hvc hlen, fun s link hp => ?_, fun s k hp => ?_⟩
  · dsimp only
    refine ⟨fun bs h => ⟨fun ⟨hlen, hcrc, hnum⟩ => exec_flitReceive_right hp link h hlen hcrc hnum, exec_flitReceive_wrong hp link h⟩,
      fun k h => ?_, fun u h => exec_flitReceive_training hp link u h, ?_, fun hfew => ?_, fun hmany => ?_⟩
    · rw [exec_flitReceive_nak hp link h k, resendFlits_eq]
      rfl
    · rw [exec_linkRetrain, execLinkRetrain, event_next hp]
      rfl
    · rw [exec_linkRetrain, execLinkRetrain, event_next hp]
      exact congrArg _ (if_neg (by omega))
    · obtain ⟨hfailed, hmem, hall⟩ := packageFails_fails { s with ucie := s.ucie.set (linkNum link) { s.ucie[linkNum link] with
        training := true, retrainFails := s.ucie[linkNum link].retrainFails + 1 } }
      refine ⟨_, ?_, hfailed, hmem, hall⟩
      rw [exec_linkRetrain, execLinkRetrain, event_next hp]
      exact congrArg _ (if_pos (by omega))
  · dsimp only
    refine ⟨fun p ps hup hw => ⟨fun hno hlate => ?_, fun c hat hover => ?_⟩, fun dev why hdev => ⟨?_, ?_⟩, fun why hup hwhy => ⟨fun hw => ?_,
      fun p out hw hroute => ?_⟩, fun hdown => ?_⟩
    · rw [exec_retransmitTimeout_chain hp k hup hw hno hlate, resendLink_eq hw, ← hno]
    · rw [exec_backoffResend_chain hp k hup hat hover, resendLink_eq hw]
    · rw [exec_portDown, execPortDown, event_next hp]
      exact congrArg _ (if_pos hdev)
    · rw [exec_linkRetrain, execLinkRetrain, event_next hp]
      exact congrArg _ (if_pos hdev)
    · rw [exec_portDown_chain hp k hup (linkFails_of hwhy), hw]
      rfl
    · rw [exec_portDown_chain hp k hup (linkFails_of hwhy), hw, List.foldl_cons, List.foldl_nil, reroute, hroute]
    · rw [exec_linkRetrain, execLinkRetrain, event_next hp]
      have hup : chainUp s s.devid k = if s.chains[k.toFin].up = true then s else setChain s k.toFin { s.chains[k.toFin] with
          up := true, next := 1, expected := 1, window := [], gapSent := false, fulls := 0, resendAt := none, drops := [] } :=
        if_neg (fun h => h rfl)
      exact congrArg _ (hup.trans (if_neg (Bool.eq_false_iff.1 hdown)))

end Sys2Proof.Machine
end

section
/-! SUPPORT. Frames, flows, timers and the Ethernet port: R390, R439, R449 to R457; O52. -/

namespace Sys2Proof.Machine

/-! ## A frame's bytes (R452) -/

/-- The fields of a header above its CRC, from the lowest. -/
def headerWord (aux rpa len ack seq context tenant dst src hd hs kind : Nat) : Nat :=
  aux + 2 ^ 32 * (rpa + 2 ^ 52 * (len + 2 ^ 14 * (ack + 2 ^ 24 * (seq + 2 ^ 24 * (context + 2 ^ 16 * (tenant + 2 ^ 16 * (dst
    + 2 ^ 18 * (src + 2 ^ 18 * (hd + 2 * (hs + 2 * (kind + 2 ^ 4)))))))))))

theorem headerFields_eq (f : Frame) : headerFields f = 2 ^ 32 * headerWord f.aux.toNat f.rpa.toNat ((f.payload.length + 15) / 16)
    f.ack.toNat f.seq.toNat f.context.toNat f.tenant.toNat f.dst.toNat f.src.toNat f.hd.toNat f.hs.toNat f.kind.toNat := by
  unfold headerFields headerWord
  omega

section
variable {aux rpa len ack seq context tenant dst src hd hs kind crc : Nat} (haux : aux < 2 ^ 32) (hrpa : rpa < 2 ^ 52) (hlen : len < 2 ^ 14)
  (hack : ack < 2 ^ 24) (hseq : seq < 2 ^ 24) (hcontext : context < 2 ^ 16) (htenant : tenant < 2 ^ 16) (hdst : dst < 2 ^ 18)
  (hsrc : src < 2 ^ 18) (hhd : hd < 2) (hhs : hs < 2) (hkind : kind < 2 ^ 4) (hcrc : crc < 2 ^ 32)

include haux hrpa hlen hack hseq hcontext htenant hdst hsrc hhd hhs hkind hcrc

theorem headerWord_lt : 2 ^ 32 * headerWord aux rpa len ack seq context tenant dst src hd hs kind + crc < 2 ^ 256 := by
  unfold headerWord
  omega

theorem headerWord_fields : let h := 2 ^ 32 * headerWord aux rpa len ack seq context tenant dst src hd hs kind + crc
    headerField h 255 252 = 1 ∧ headerField h 251 248 = kind ∧ h / 2 ^ 247 % 2 = hs ∧ h / 2 ^ 246 % 2 = hd
      ∧ headerField h 245 228 = src ∧ headerField h 227 210 = dst ∧ headerField h 209 194 = tenant ∧ headerField h 193 178 = context
      ∧ headerField h 177 154 = seq ∧ headerField h 153 130 = ack ∧ headerField h 129 116 = len ∧ headerField h 115 64 = rpa
      ∧ headerField h 63 32 = aux ∧ headerField h 31 0 = crc
      ∧ h / 2 ^ 32 = headerWord aux rpa len ack seq context tenant dst src hd hs kind := by
  unfold headerWord headerField
  refine ⟨?_, ?_, ?_, ?_, ?_, ?_, ?_, ?_, ?_, ?_, ?_, ?_, ?_, ?_, ?_⟩ <;> omega

end

theorem testBit_of_div {h i : Nat} {b : Bool} (hb : h / 2 ^ i % 2 = b.toNat) : h.testBit i = b := by
  rw [Nat.testBit_eq_decide_div_mod_eq, hb]
  cases b <;> rfl

/-- A frame's bytes give the frame again, but for its tag. -/
theorem parseFrame_frameBytes {f : Frame} (hk : f.kind ≠ 0) (hk' : f.kind.toNat < 12) (hlen : f.payload.length ≤ 8192)
    (hpad : f.payload.length % 16 = 0) : parseFrame (frameBytes f) = some { f with tag := none } := by
  obtain ⟨crc, hcrc⟩ : ∃ crc, crc = headerCrc (headerFields f) := ⟨_, rfl⟩
  have hcrclt : crc < 2 ^ 32 := hcrc ▸ (crc32c _).isLt
  obtain ⟨h, hh⟩ : ∃ h, h = headerFields f + crc := ⟨_, rfl⟩
  have hword := headerFields_eq f
  have hlt : h < 2 ^ 256 := by
    rw [hh, hword]
    exact headerWord_lt f.aux.isLt f.rpa.isLt (by omega) f.ack.isLt f.seq.isLt f.context.isLt f.tenant.isLt f.dst.isLt f.src.isLt
      f.hd.toNat_lt f.hs.toNat_lt f.kind.isLt hcrclt
  have hfields := headerWord_fields f.aux.isLt f.rpa.isLt (len := (f.payload.length + 15) / 16) (by omega) f.ack.isLt f.seq.isLt
    f.context.isLt f.tenant.isLt f.dst.isLt f.src.isLt f.hd.toNat_lt f.hs.toNat_lt f.kind.isLt hcrclt
  rw [← hword, ← hh] at hfields
  obtain ⟨hver, hkind, hhs, hhd, hsrc, hdst, hten, hctx, hseq, hack, hblocks, hrpa, haux, hlow, hhigh⟩ := hfields
  have hbytes : frameBytes f = bytesOf 32 h ++ f.payload := by rw [frameBytes, ← hcrc, ← hh]
  have hhead : (bytesOf 32 h).length = 32 := Laws.bytesOf_length 32 h
  have htake : leNat ((frameBytes f).take 32) = h := by
    rw [hbytes, List.take_left' hhead, leNat_bytesOf]
    exact Nat.mod_eq_of_lt hlt
  have hsize : (frameBytes f).length = 32 + f.payload.length := by rw [hbytes, List.length_append, hhead]
  have hsum : headerCrc h = crc := by
    rw [hcrc, headerCrc, headerCrc, hhigh]
    have hdiv : headerFields f / 2 ^ 32 = headerWord f.aux.toNat f.rpa.toNat ((f.payload.length + 15) / 16) f.ack.toNat f.seq.toNat
        f.context.toNat f.tenant.toNat f.dst.toNat f.src.toNat f.hd.toNat f.hs.toNat f.kind.toNat := by
      rw [hword]
      exact Nat.mul_div_cancel_left _ (by decide)
    rw [hdiv]
  have hkind0 : f.kind.toNat ≠ 0 := fun h0 => hk (BitVec.eq_of_toNat_eq h0)
  have hsound : damagedHeader (frameBytes f) = false := by
    rw [damagedHeader, htake, hsize, hver, hkind, hsum, hlow]
    simp [hkind0, hk']
  have hn : 16 * headerField h 129 116 = f.payload.length := by rw [hblocks]; omega
  rw [parseFrame, htake, hsound, hn, hsize, if_neg (by simp [hlen]), hkind, testBit_of_div hhs, testBit_of_div hhd, hsrc, hdst, hten, hctx, hseq,
    hack, hrpa, haux, hbytes, List.drop_left' hhead, List.take_length]
  simp only [BitVec.ofNat_toNat, BitVec.setWidth_eq]

/-! ## Flows (R453, R454) -/

theorem rxFlow_key (s : State) (k : FlowKey) : (rxFlow s k).key = k := by
  rw [rxFlow]
  cases h : s.port.rx.find? (fun x => x.key = k) with
  | none => rfl
  | some x => exact of_decide_eq_true (List.find?_some (p := fun x : RxFlow => decide (x.key = k)) h)

theorem rxFlow_setRx (s : State) (x : RxFlow) : rxFlow (setRx s x) x.key = x := by
  rw [rxFlow]
  have hfind : (setRx s x).port.rx.find? (fun y => y.key = x.key) = some x := List.find?_cons_of_pos (decide_eq_true rfl)
  rw [hfind]
  rfl

theorem setRx_setRx {x y : RxFlow} (h : y.key = x.key) (s : State) : setRx (setRx s x) y = setRx s y := by
  have hrx : (setRx s x).port.rx.filter (fun z => z.key ≠ y.key) = s.port.rx.filter (fun z => z.key ≠ y.key) := by
    refine (List.filter_cons_of_neg (by simp [h])).trans ?_
    rw [List.filter_filter, h]
    simp
  unfold setRx
  rw [show ({ s with port := { s.port with rx := x :: s.port.rx.filter (fun z => z.key ≠ x.key) } } : State).port.rx.filter
    (fun z => z.key ≠ y.key) = _ from hrx]

/-- A flow that has taken the frame that comes next. -/
def takenFlow (cycle : Nat) (x : RxFlow) : RxFlow :=
  { x with
    expected := x.expected + 1, gapSent := false, unacked := x.unacked + 1
    unackedSince := if x.unacked = 0 then cycle else x.unackedSince }

section
variable {s : State} {f : Frame} {kind : BitVec 4} {full : Bool} {intake : State → State}

section
variable (hfor : forUs s f = true) (hkind : f.kind = kind)
include hfor hkind

theorem receive_bad (h : ¬ (tenantOk f = true ∧ payloadOk f = true)) : receive s f kind full intake = countDrop s := by
  rw [receive, hfor, if_neg (by simp [hkind]), if_pos]
  rw [← Bool.not_and, Bool.not_eq_true', Bool.eq_false_iff]
  exact fun hc => h (Bool.and_eq_true_iff.1 hc)

variable (hten : tenantOk f = true) (hpay : payloadOk f = true)
include hten hpay

theorem receive_good : receive s f kind full intake =
    if (f.seq - (rxFlow s (flowOf f)).expected).toNat = 0 then
      if full then flowReply s (flowOf f) 5 (rxFlow s (flowOf f)).expected 1
      else if 16 ≤ (takenFlow s.cycle (rxFlow s (flowOf f))).unacked
        then sendAck (intake (setRx s (takenFlow s.cycle (rxFlow s (flowOf f)))))
          (rxFlow (intake (setRx s (takenFlow s.cycle (rxFlow s (flowOf f))))) (takenFlow s.cycle (rxFlow s (flowOf f))).key)
        else intake (setRx s (takenFlow s.cycle (rxFlow s (flowOf f))))
    else if (f.seq - (rxFlow s (flowOf f)).expected).toNat < 2 ^ 23 then
      if (rxFlow s (flowOf f)).gapSent then s
      else flowReply (setRx s { rxFlow s (flowOf f) with gapSent := true }) (flowOf f) 5 (rxFlow s (flowOf f)).expected 0
    else sendAck s (rxFlow s (flowOf f)) := by
  have hkey := rxFlow_key s (flowOf f)
  rw [receive, hfor, if_neg (by simp [hkind]), hten, hpay, if_neg (by decide)]
  dsimp only [takenFlow]
  rw [hkey]
  rfl

theorem receive_gap (h0 : 0 < (f.seq - (rxFlow s (flowOf f)).expected).toNat)
    (h1 : (f.seq - (rxFlow s (flowOf f)).expected).toNat < 2 ^ 23) : receive s f kind full intake =
      if (rxFlow s (flowOf f)).gapSent then s
      else flowReply (setRx s { rxFlow s (flowOf f) with gapSent := true }) (flowOf f) 5 (rxFlow s (flowOf f)).expected 0 := by
  rw [receive_good hfor hkind hten hpay, if_neg (by omega), if_pos h1]

theorem receive_old (h : 2 ^ 23 ≤ (f.seq - (rxFlow s (flowOf f)).expected).toNat) : receive s f kind full intake =
    sendAck s (rxFlow s (flowOf f)) := by
  rw [receive_good hfor hkind hten hpay, if_neg (by omega), if_neg (by omega)]

variable (hseq : f.seq = (rxFlow s (flowOf f)).expected)
include hseq

theorem receive_full : receive s f kind true intake = flowReply s (flowOf f) 5 (rxFlow s (flowOf f)).expected 1 := by
  rw [receive_good hfor hkind hten hpay, if_pos (by rw [hseq, BitVec.sub_self]; rfl), if_pos rfl]

theorem receive_next : receive s f kind false intake =
    if 16 ≤ (takenFlow s.cycle (rxFlow s (flowOf f))).unacked
      then sendAck (intake (setRx s (takenFlow s.cycle (rxFlow s (flowOf f)))))
        (rxFlow (intake (setRx s (takenFlow s.cycle (rxFlow s (flowOf f))))) (takenFlow s.cycle (rxFlow s (flowOf f))).key)
      else intake (setRx s (takenFlow s.cycle (rxFlow s (flowOf f)))) := by
  rw [receive_good hfor hkind hten hpay, if_pos (by rw [hseq, BitVec.sub_self]; rfl), if_neg Bool.false_ne_true]

end
end

/-! ### What frames do in their turn (R456) -/

section
variable {s : State} {f : Frame}

theorem performNext_busy (h : flowBusy s f = true) : performNext s f = pushRequest s f .perform := if_pos h

theorem performNext_now {t : State} (h : flowBusy s f = false) (hp : performFrame s f = some t) : performNext s f = t := by
  rw [performNext, if_neg (Bool.eq_false_iff.1 h), hp]
  rfl

theorem performFrame_data (h : f.kind = 3) : performFrame s f = some (performData s f) := by
  rw [performFrame, h]
  rfl

theorem performFrame_launch (h : f.kind = 6) : performFrame s f = performLaunch s f := by
  rw [performFrame, h]
  rfl

theorem performFrame_cancel (h : f.kind = 8) : performFrame s f = some (performCancel s f) := by
  rw [performFrame, h]
  rfl

theorem performFrame_refuse (h : f.kind = 11) : performFrame s f = some (performRefuse s f) := by
  rw [performFrame, h]
  rfl

theorem pushPut_eq {x : RxFlow} (hkey : x.key = flowOf f) (hpay : f.payload ≠ []) : pushPut (setRx s x) f =
    pushRequest (setRx s { x with runs := (putRun x f).2 }) f (.write f.payload) (f.rpa.toNat - (putRun x f).1) := by
  have hx : rxFlow (setRx s x) (flowOf f) = x := hkey ▸ rxFlow_setRx s x
  rw [pushPut, hx, if_neg (by simp [hpay])]
  have hset : setRx (setRx s x) { x with runs := (putRun x f).2 } = setRx s { x with runs := (putRun x f).2 } :=
    setRx_setRx (x := x) (y := { x with runs := (putRun x f).2 }) rfl s
  rw [hset]

end

/-! ### GETDATA (R390) -/

theorem checkGranules_of_plain {s : State} {c d : SlotId} {u : Slot} (hu : slotOf s d = some u) (hn : isDet u = false) (x : BitVec 9)
    (g : GranAccess) (a n : Nat) : checkGranules s c d x g a n = .ok s := by
  rw [checkGranules, hu]
  exact if_neg (by simp [hn])

theorem modSlot_fill (s : State) (c : SlotId) (a g : Nat) (bs : List Byte) :
    modSlot (modSlot s c (fun m => bankWrite m a bs)) c (fun t => setGranule t g true)
      = modSlot s c (fun m => setGranule (bankWrite m a bs) g true) :=
  modSlot_modSlot (f := fun m => bankWrite m a bs) (fun _ => rfl) s c

section
variable {s : State} {u : Slot} {o : Op} {b : CpyNetBody} {done : Nat} (hu : slotOf s u.id = some u) (hdet : isDet u = false)
  (halign : (b.loff.toNat + done) % 16 = 0) (howns : ownsRange u (b.loff.toNat + done) 16 = true)
include hu hdet halign howns

theorem netWrite_granule {bs : List Byte} (hlen : bs.length = 16) : netWrite s u o b none done bs =
    .ok (modSlot s u.id (fun m => setGranule (bankWrite m (b.loff.toNat + done) bs) ((b.loff.toNat + done) / 16) true)) := by
  obtain ⟨d, hd⟩ : ∃ d, d = b.loff.toNat + done := ⟨_, rfl⟩
  have hrange : d < 2 ^ 22 ∧ d / 2 ^ 18 = (d + 16 - 1) / 2 ^ 18 := by
    rw [← hd] at howns
    simp only [ownsRange, ownsBank, Bool.and_eq_true, Bool.or_eq_true, decide_eq_true_eq] at howns
    obtain ⟨⟨hlt, -⟩, h⟩ := howns
    exact ⟨hlt, (h.resolve_left (by decide)).2⟩
  have hplace : netPlace s u b none done 16 permW = .ok (.bank u.id d (scratchReg none d)) := by
    have hbank : bankPlace s u none d 16 = .ok (.bank u.id d (scratchReg none d)) := by
      unfold bankPlace
      dsimp only
      rw [if_neg (fun h => h.2 hrange.2), if_pos (hd ▸ howns)]
    have hpos : ¬ ((d : Int) < 0 ∨ ((2 ^ 22 : Nat) : Int) ≤ (d : Int)) := by omega
    rw [netPlace, copyPlace, if_neg (by decide), if_pos (by decide), ← hd, if_neg hpos, Int.toNat_natCast, hbank]
  have hkeys : granulesOf d 16 = [d / 16] := by
    rw [granulesOf, show (d + 16 - 1) / 16 = d / 16 by omega]
    simp
  have hwhole : (d + 16) % 16 = 0 := by omega
  have hset (s : State) : setKeys s u [d / 16] true = modSlot s u.id (fun t => setGranule t (d / 16) true) := by
    have hsmall : d / 16 % 2 ^ 18 = d / 16 := by omega
    rw [setKeys, List.foldl_cons, List.foldl_nil, hsmall, if_pos (.inl (by omega))]
  have hwrite (s1 : State) : (if (none : Option Capture).isNone && (decide ((d + 16) % 16 = 0) || decide (done + 16 = netLen b))
      then setKeys s1 u (granulesOf d 16) true else s1) = modSlot s1 u.id (fun t => setGranule t (d / 16) true) := by
    rw [hwhole, hkeys, ← hset]
    rfl
  rw [netWrite, hlen, hplace, res_ok_bind, engineWrite, checkGranules_of_plain hu hdet, res_ok_bind, ← hd]
  dsimp only
  rw [res_pure, res_ok_bind, res_pure, hwrite, modSlot_fill]

end

section
variable {s : State} {f : Frame} {u : Slot} {o : Op} {b : CpyNetBody} {trap cor : Bool} {sent : Option Nat} {done : Nat}

/-- The slot of a GET after 16 bytes of it have come for a granule of its bank. -/
def getFilled (o : Op) (b : CpyNetBody) (trap cor : Bool) (sent : Option Nat) (done : Nat) (bs : List Byte) (t : Slot) : Slot :=
  modOp (setGranule (bankWrite t (b.loff.toNat + done) bs) ((b.loff.toNat + done) / 16) true) o.id
    (fun o => { o with work := .net b none trap cor sent (done + 16) })

theorem performData_granule (hop : netOpFor s f (getMatches f) = some (u, o)) (hu : slotOf s u.id = some u)
    (hwork : o.work = .net b none trap cor sent done) (hlen : f.payload.length = 16) (hroom : done + 16 ≤ netLen b) (hdet : isDet u = false)
    (halign : (b.loff.toNat + done) % 16 = 0) (howns : ownsRange u (b.loff.toNat + done) 16 = true) :
    performData s f = modSlot s u.id (getFilled o b trap cor sent done f.payload) := by
  have htake : f.payload.take (netLen b - done) = f.payload := List.take_of_length_le (by omega)
  have hpiece : min (16 - (b.loff.toNat + done) % 16) f.payload.length = 16 := by omega
  have hfill : netFill s u.id o b none done f.payload 513 = .ok (modSlot s u.id (fun m =>
      setGranule (bankWrite m (b.loff.toNat + done) f.payload) ((b.loff.toNat + done) / 16) true)) := by
    have hwhole : f.payload.take 16 = f.payload := List.take_of_length_le (by omega)
    have hnone : f.payload.drop 16 = [] := List.drop_eq_nil_of_le (by omega)
    have hne : f.payload ≠ [] := fun h => by
      rw [h] at hlen
      cases hlen
    rw [netFill, hpiece, hu]
    · dsimp only
      rw [hwhole, netWrite_granule hu hdet halign howns hlen]
      dsimp only
      rw [hnone]
      rfl
    · exact hne
  rw [performData, hop]
  dsimp only
  rw [hwork]
  dsimp only
  rw [htake, hfill]
  dsimp only
  rw [netAdvance, hlen]
  exact modSlot_modSlot (f := fun m => setGranule (bankWrite m (b.loff.toNat + done) f.payload) ((b.loff.toNat + done) / 16) true)
    (fun _ => rfl) s u.id

end

/-! ### Acknowledgements and retransmission (R449, R450, R453, R454) -/

theorem pumpFlow_idle {s : State} {x : TxFlow} (h : ∀ y ∈ s.port.tx, y.waiting = []) : pumpFlow s x = s := by
  unfold pumpFlow
  cases hy : s.port.tx.find? (fun y => y.key = x.key) with
  | none => rfl
  | some y =>
    dsimp only
    rw [h y (List.mem_of_find?_eq_some hy), List.take_nil]
    rfl

theorem pumpFlows_idle {s : State} (h : ∀ y ∈ s.port.tx, y.waiting = []) : pumpFlows s = s := by
  have hfold (xs : List TxFlow) : xs.foldl pumpFlow s = s := by
    induction xs with
    | nil => rfl
    | cons x xs ih => rw [List.foldl_cons, pumpFlow_idle h, ih]
  exact hfold s.port.tx

section
variable {s : State} {f : Frame} {t : TxFlow} (hp : s.mgmt.powered = true) (hfor : forUs s f = true)
include hp hfor

theorem exec_frameAck_bad (hkind : f.kind = 4) (hten : tenantOk f = false) : exec (.frameAck f) s = .next (countDrop s) := by
  rw [exec_frameAck, execFrameAck, event_next hp, hfor, hkind, hten]
  rfl

theorem exec_frameNak_bad (hkind : f.kind = 5) (hten : tenantOk f = false) : exec (.frameNak f) s = .next (countDrop s) := by
  rw [exec_frameNak, execFrameNak, event_next hp, hfor, hkind, hten]
  rfl

variable (hten : tenantOk f = true) (ht : txFlow s (reverseFlow (flowOf f)) = some t)
include hten ht

/-- What an acknowledgement leaves of a flow's window. -/
def leftOf (ack : BitVec 24) (w : List SentFrame) : List SentFrame := w.filter (fun p => decide (2 ^ 23 ≤ (ack - p.frame.seq).toNat))

omit hp hfor hten ht in
theorem filter_acked (ack : BitVec 24) (w : List SentFrame) : w.filter (fun p => !acked ack p) = leftOf ack w :=
  List.filter_congr fun _ _ => decide_not.symm.trans (decide_eq_decide.2 Nat.not_lt)

/-- A flow whose window is now `w`. -/
def ackedFlow (t : TxFlow) (w : List SentFrame) : TxFlow :=
  { t with window := w, fulls := if w.length = t.window.length then t.fulls else 0 }

theorem exec_frameAck_good (hkind : f.kind = 4) :
    exec (.frameAck f) s = .next (pumpFlows (setTx s (ackedFlow t (leftOf f.ack t.window)))) := by
  rw [exec_frameAck, execFrameAck, event_next hp, hfor, hkind, hten, ht, if_neg (by decide), if_neg (by decide)]
  dsimp only
  rw [filter_acked]
  rfl

theorem exec_frameNak_full (hkind : f.kind = 5) (haux : f.aux = 1) : exec (.frameNak f) s = .next (setTx s
    { ackedFlow t (leftOf (f.ack - 1) t.window) with
      fulls := (ackedFlow t (leftOf (f.ack - 1) t.window)).fulls + 1
      resendAt := some (s.cycle + backoffTime s.port.backoff (ackedFlow t (leftOf (f.ack - 1) t.window)).fulls) }) := by
  rw [exec_frameNak, execFrameNak, event_next hp, hfor, hkind, hten, ht, if_neg (by decide), if_neg (by decide)]
  dsimp only
  rw [filter_acked, if_pos haux]
  rfl

theorem exec_frameNak_gap (hkind : f.kind = 5) (haux : f.aux ≠ 1) :
    exec (.frameNak f) s = .next (resendFlow s { t with window := leftOf (f.ack - 1) t.window, fulls := 0 }) := by
  rw [exec_frameNak, execFrameNak, event_next hp, hfor, hkind, hten, ht, if_neg (by decide), if_neg (by decide)]
  dsimp only
  rw [filter_acked, if_neg haux]

end

/-- The only flow of the port sends what its window has room for. -/
theorem pumpFlows_single {s : State} {t : TxFlow} (h : s.port.tx = [t]) :
    let out := t.waiting.take (min (4096 - t.window.length) (65536 - t.window.length))
    (pumpFlows s).port.wire = (out.map (fun p => p.frame)).reverse ++ s.port.wire
      ∧ (pumpFlows s).port.tx = [{ t with
        window := t.window ++ out.map (fun p => { p with at_ := s.cycle }), waiting := t.waiting.drop out.length }] := by
  have hleft : windowLeft s.port t = min (4096 - t.window.length) (65536 - t.window.length) := by
    rw [windowLeft, portUnacked, h, List.foldl_cons, List.foldl_nil, Nat.zero_add]
  generalize min (4096 - t.window.length) (65536 - t.window.length) = n at hleft
  have hfind : s.port.tx.find? (fun y => y.key = t.key) = some t := by
    rw [h]
    exact List.find?_cons_of_pos (decide_eq_true rfl)
  have hdrop : t.waiting.drop (t.waiting.take n).length = t.waiting.drop n := by
    rw [List.length_take]
    rcases Nat.le_total n t.waiting.length with hn | hn
    · rw [Nat.min_eq_left hn]
    · rw [Nat.min_eq_right hn, List.drop_length, List.drop_eq_nil_of_le hn]
  have hpump : pumpFlows s = pumpFlow s t := by rw [pumpFlows, h]; rfl
  have hframes : ((t.waiting.take n).map (fun p => { p with at_ := s.cycle })).map (fun p : SentFrame => p.frame)
      = (t.waiting.take n).map (fun p => p.frame) := List.map_map ..
  dsimp only
  rw [hpump, pumpFlow, hfind, hdrop]
  dsimp only
  rw [hleft, hframes]
  by_cases hout : t.waiting.take n = []
  · rw [if_pos (by rw [hout]; rfl), hout, h]
    refine ⟨rfl, ?_⟩
    have hwait : t.waiting.drop n = t.waiting := by
      rw [← hdrop, hout]
      rfl
    rw [hwait, List.map_nil, List.append_nil]
  · rw [if_neg (by simpa using hout)]
    refine ⟨rfl, ?_⟩
    dsimp only
    rw [h, List.map_cons, List.map_nil, if_pos rfl]

/-- What a flow's replay sends (R454). -/
theorem resendFlow_eq (s : State) {x : TxFlow} {p : SentFrame} {ps : List SentFrame} (hw : x.window = p :: ps) :
    (resendFlow s x).port.wire = (x.window.map (fun p => p.frame)).reverse ++ s.port.wire
      ∧ txFlow (resendFlow s x) x.key = some { x with
          resendAt := none
          window := { p with at_ := s.cycle, resends := p.resends + 1 } :: ps.map (fun p => { p with at_ := s.cycle }) } := by
  have hlater (xs : List SentFrame) (i : Nat) : (xs.zipIdx (i + 1)).map (fun p : SentFrame × Nat =>
      { p.1 with at_ := s.cycle, resends := if p.2 = 0 then p.1.resends + 1 else p.1.resends })
        = xs.map (fun x => { x with at_ := s.cycle }) := by
    induction xs generalizing i with
    | nil => rfl
    | cons x xs ih => rw [List.zipIdx_cons, List.map_cons, List.map_cons, ih, if_neg (Nat.succ_ne_zero i)]
  have hwindow : x.window.zipIdx.map (fun p : SentFrame × Nat =>
      { p.1 with at_ := s.cycle, resends := if p.2 = 0 then p.1.resends + 1 else p.1.resends })
        = { p with at_ := s.cycle, resends := p.resends + 1 } :: ps.map (fun p => { p with at_ := s.cycle }) := by
    rw [hw, List.zipIdx_cons, List.map_cons, hlater, if_pos rfl]
  rw [resendFlow, hwindow]
  exact ⟨rfl, List.find?_cons_of_pos (decide_eq_true rfl)⟩

section
variable {s : State} (hp : s.mgmt.powered = true) (hup : s.port.up = true)
include hp hup

theorem exec_ackTimer_due {k : FlowKey} (hun : (rxFlow s k).unacked ≠ 0) (hdue : (rxFlow s k).unackedSince + 32 ≤ s.cycle) :
    exec (.ackTimer k) s = .next (sendAck s (rxFlow s k)) := by
  rw [exec_ackTimer, execAckTimer, event_next hp]
  exact congrArg _ (if_pos (by simp [hup, hun, hdue]))

theorem exec_retransmitTimeout_flow {k : FlowKey} {t : TxFlow} {p : SentFrame} {ps : List SentFrame} (ht : txFlow s k = some t)
    (hw : t.window = p :: ps) (hno : t.resendAt = none) (hlate : p.at_ + 16 * s.port.retransmit ≤ s.cycle) :
    exec (.retransmitTimeout (.flow k)) s = .next (resendFlow s t) := by
  rw [exec_retransmitTimeout, execRetransmitTimeout, event_next hp, flowTimeout, ht]
  dsimp only
  rw [hw]
  exact congrArg _ (if_pos (by simp [hup, hno, hlate]))

omit hp in
/-- The acknowledgement of a flow goes out at once, on a port that is up. -/
theorem sendAck_eq (x : RxFlow) : sendAck s x = { setRx s { x with unacked := 0 } with
    port := { (setRx s { x with unacked := 0 }).port with
      wire := { kind := 4, hs := x.key.hd, hd := x.key.hs, src := x.key.dst, dst := x.key.src, tenant := x.key.tenant
                context := x.key.context, seq := 0, ack := x.expected - 1, rpa := 0, aux := 0, payload := []
                tag := s.port.vlan } :: s.port.wire } } := by
  have hnotdown : ¬ (!(setRx s { x with unacked := 0 }).port.up) = true := by
    rw [show (setRx s { x with unacked := 0 }).port.up = true from hup]
    exact Bool.false_ne_true
  rw [sendAck, flowReply, sendFrame]
  exact (if_neg hnotdown).trans (if_pos (.inl rfl))

/-! ### Frames that are dropped (R451, R453, R455) -/

theorem exec_frameDamagedDrop_up (bytes : List Byte) (fcs : Bool) : exec (.frameDamagedDrop bytes fcs) s = .next (
    if fcs then noteDrop s
    else if pauseFrame bytes then s
    else if foreignFrame bytes then countDrop s
    else if countedDamage (transportOf bytes) then noteDrop s
    else if (parseFrame (transportOf bytes)).isNone then countDrop s
    else s) := by
  rw [exec_frameDamagedDrop, execFrameDamagedDrop, event_next hp, hup]
  rfl

end

theorem foreignFrame_iff (bytes : List Byte) : foreignFrame bytes = true ↔
    2 ≤ etherTags bytes ∨ etherWord bytes (12 + 4 * etherTags bytes) ≠ 0x9A4C ∨ 8242 < bytes.length := by
  simp only [foreignFrame, Bool.or_eq_true, decide_eq_true_eq, or_assoc]

theorem countedDamage_iff (bs : List Byte) : countedDamage bs = true ↔
    32 ≤ bs.length ∧ (leNat (bs.take 32) / 2 ^ 252 % 16 ≠ 1
      ∨ (crc32c (bytesOf 28 (leNat (bs.take 32) / 2 ^ 32))).toNat ≠ leNat (bs.take 32) % 2 ^ 32) := by
  have hlow (h : Nat) : headerField h 31 0 = h % 2 ^ 32 := by rw [headerField, Nat.pow_zero, Nat.div_one]
  simp only [countedDamage, hlow, Bool.and_eq_true, Bool.or_eq_true, decide_eq_true_eq]
  rfl

theorem parseFrame_reserved {bs : List Byte} (h : leNat (bs.take 32) / 2 ^ 248 % 16 = 0 ∨ 12 ≤ leNat (bs.take 32) / 2 ^ 248 % 16) :
    parseFrame bs = none := by
  have hdam : damagedHeader bs = true := by
    have hfield : headerField (leNat (bs.take 32)) 251 248 = leNat (bs.take 32) / 2 ^ 248 % 16 := rfl
    rw [damagedHeader, hfield]
    simp only [Bool.or_eq_true, decide_eq_true_eq]
    exact h.elim (fun h => .inl (.inl (.inr h))) (fun h => .inl (.inr h))
  rw [parseFrame, hdam]
  rfl

/-! ### A port that is down sends nothing (R455) -/

theorem sendFrame_down {s : State} (h : s.port.up = false) (f : Frame) (op : Option OpRef) : sendFrame s f op = s := by
  rw [sendFrame]
  exact if_pos (by simp [h])

theorem port_foldl {α : Type} {f : State → α → State} (hf : ∀ s a, (f s a).port = s.port) (xs : List α) (s : State) :
    (xs.foldl f s).port = s.port := by
  induction xs generalizing s with
  | nil => rfl
  | cons x xs ih => exact (ih _).trans (hf s x)

theorem port_wantSwitch (s : State) (c : SlotId) : (wantSwitch s c).port = s.port := by
  simp only [wantSwitch, apply_ite State.port, ite_self]

theorem port_releaseDomain (s : State) (kdh : BitVec 32) : (releaseDomain s kdh).port = s.port := by
  simp only [releaseDomain, apply_ite State.port, ite_self]

theorem port_returnEntries (s : State) (t : Slot) : (returnEntries s t).port = s.port := by
  unfold returnEntries
  refine port_foldl (fun s e => ?_) t.inbox s
  rfl

theorem port_dropWork (s : State) (t : Slot) : (dropWork s t).port = s.port := by
  have hfold := port_foldl (fun s (p : Nat × ZTag) => port_releaseDomain s p.2.kdh) (t.ztag.filter (fun p => p.2.fresh && p.2.state = 1)) s
  have hlapse := (port_returnEntries _ t).trans hfold
  unfold dropWork
  dsimp only
  split
  · split
    · exact hlapse
    · exact hlapse
  · exact hlapse

theorem port_removeItem (s : State) (c : SlotId) : (removeItem s c).port = s.port := by
  unfold removeItem
  split
  · rfl
  · split
    · rfl
    · exact (modSlot_port ..).trans ((port_wantSwitch ..).trans (port_dropWork ..))

theorem port_dropSaved (s : State) (x : Saved) : (dropSaved s x).port = s.port := port_dropWork s x.slot

section
variable {s0 s : State} (hdown : s0.port.up = false) (hsame : s.port = s0.port)
include hdown hsame

theorem port_sendFrame_down (f : Frame) (op : Option OpRef) : (sendFrame s f op).port = s0.port := by
  rw [sendFrame_down (by rw [hsame, hdown])]
  exact hsame

theorem port_endLaunch_down (q : BitVec 6) (n : Nat) (tenant context : BitVec 16) (rep : BitVec 512) :
    (endLaunch s q n tenant context rep).port = s0.port := by
  unfold endLaunch
  dsimp only
  refine port_sendFrame_down hdown ?_ ..
  refine (port_foldl port_dropSaved ..).trans ((port_foldl port_removeItem ..).trans ?_)
  exact hsame

theorem port_askHost_down (t : Slot) (v : BitVec 40) (h : Option (BitVec 4)) (r : BitVec 512) :
    (askHost s t v h r).port = s0.port := by
  have hone (f : Frame) (faults : List PageFault) := port_sendFrame_down (s := { s with pageFaults := faults }) hdown hsame f none
  unfold askHost
  dsimp only
  split
  · exact hone ..
  · exact port_sendFrame_down hdown (hone ..) ..

end

theorem port_endLater (s : State) (c : SlotId) (e : Event) : (endLater s c e).port = s.port := modSlot_port ..

theorem port_holdEvent (s : State) (c : SlotId) (e : Event) : (holdEvent s c e).port = s.port := by
  unfold holdEvent
  split
  · rfl
  · split
    · exact port_endLater ..
    · exact modSlot_port ..

theorem port_takeHandled (s : State) (t : Slot) (e : Event) (link : Word) : (takeHandled s t e link).port = s.port := by
  unfold takeHandled
  split <;> exact modSlot_port ..

theorem port_takeFault_down {s : State} (hdown : s.port.up = false) (w : Site) (f : FaultInfo) (link : Word) :
    (takeFault s w f link).port = s.port := by
  unfold takeFault
  split
  · rfl
  · dsimp only
    split
    · exact port_askHost_down hdown ((port_wantSwitch ..).trans (modSlot_port ..)) ..
    · split
      · split
        · exact (port_endLater ..).trans (modSlot_port ..)
        · split
          · exact port_takeHandled ..
          · exact modSlot_port ..
      · exact (port_holdEvent ..).trans (modSlot_port ..)
    · exact (port_endLater ..).trans (modSlot_port ..)

theorem port_netRefuse_down {s : State} (hdown : s.port.up = false) (t : Slot) (o : Op) (a : Nat) :
    (netRefuse s t o a).port = s.port := by
  unfold netRefuse
  dsimp only
  split
  · have hmod (c : SlotId) (f : Slot → Slot) : (modSlot s c f).port = s.port := modSlot_port ..
    exact (port_takeFault_down (by rw [hmod, hdown]) ..).trans (hmod ..)
  · split
    · exact port_endLaunch_down hdown rfl ..
    · rfl

theorem port_netRefuses_down {s : State} (hdown : s.port.up = false) (xs : List (Slot × Op × Nat)) :
    (xs.foldl (fun s x => netRefuse s x.1 x.2.1 x.2.2) s).port = s.port := by
  induction xs generalizing s with
  | nil => rfl
  | cons x xs ih =>
    have hone := port_netRefuse_down hdown x.1 x.2.1 x.2.2
    exact (ih (by rw [hone, hdown])).trans hone

/-- The port as it goes down. -/
def downPort (s : State) : Port :=
  { s.port with up := false, tx := [], rx := [], drops := [], notices := s.port.notices ++ none :: (openTenants s).map some }

/-- The faults of the open transfers of the port. -/
def openFaults (s : State) : List (Slot × Op × Nat) :=
  (openTransfers s).filterMap (fun x => match x.2.work with
    | .net b _ _ _ _ done => some (x.1, x.2, netFirst s x.1 x.2 b done)
    | _ => none)

theorem exec_portDown_ethernet {s : State} (hp : s.mgmt.powered = true) (hup : s.port.up = true) {why : PortFailure}
    (hfail : portFails s why = true) : exec (.portDown ⟨.ethernet, why⟩) s = .next
      ((openFaults s).foldl (fun s x => netRefuse s x.1 x.2.1 x.2.2) { s with port := downPort s }) := by
  rw [exec_portDown, execPortDown, event_next hp]
  dsimp only
  rw [portDown, hup, hfail]
  rfl

theorem netRefuse_live {s : State} {t : Slot} {o : Op} {a : Nat} (ht : slotOf s t.id = some t)
    (h : holdsItem t (itemKey t) (bornAt t) = true) :
    netRefuse s t o a = opFault s t.id o { code := 0x25, operand := word a } := by
  rw [netRefuse, ht, Option.filter_some, if_pos h]

/-! ### The frames of a flow -/

theorem payloadOk_iff (f : Frame) : payloadOk f = true ↔
    (f.payload.length ≤ 8192 ∧ f.payload.length % 16 = 0) ∨ (f.kind = 7 ∧ f.payload.length = 8) := by
  simp only [payloadOk, Bool.or_eq_true, Bool.and_eq_true, decide_eq_true_eq]

theorem tenantOk_of_tenant {f : Frame} (h : f.tenant ≠ 0) : tenantOk f = true := Bool.or_eq_true_iff.2 (.inl (decide_eq_true h))

section
variable {s : State} {f : Frame} (hp : s.mgmt.powered = true)
include hp

/-- Every one of them is received as a numbered frame, which tenant 0 sends none of. -/
theorem exec_numbered {p : BitVec 4 × Instr} (h : p ∈ ([(1, .framePut f), (2, .frameGetreq f), (3, .frameGetdata f), (6, .frameLaunch f),
      (7, .frameLresult f), (8, .frameCancel f), (9, .frameReport f), (11, .frameRefuse f)] : List (BitVec 4 × Instr))) :
    (∃ full intake, exec p.2 s = .next (receive s f p.1 full intake)) ∧ (f.kind = p.1 → tenantOk f = true → f.tenant ≠ 0) := by
  have hzero {k : BitVec 4} (hk : k ≠ 10 ∧ k ≠ 4 ∧ k ≠ 5) (he : f.kind = k) (hok : tenantOk f = true) : f.tenant ≠ 0 := by
    obtain ⟨h1, h2, h3⟩ := hk
    refine (Bool.or_eq_true_iff.1 hok).elim of_decide_eq_true (fun hmgmt => ?_)
    rw [he, decide_eq_false h1, decide_eq_false h2, decide_eq_false h3, Bool.or_false, Bool.or_false, Bool.and_false] at hmgmt
    exact absurd hmgmt Bool.false_ne_true
  simp only [List.mem_cons, List.not_mem_nil, or_false] at h
  obtain rfl | rfl | rfl | rfl | rfl | rfl | rfl | rfl := h
  · exact ⟨⟨_, _, (exec_framePut ..).trans (event_next hp)⟩, hzero (k := 1) (by decide)⟩
  · exact ⟨⟨_, _, (exec_frameGetreq ..).trans (event_next hp)⟩, hzero (k := 2) (by decide)⟩
  · exact ⟨⟨_, _, (exec_frameGetdata ..).trans (event_next hp)⟩, hzero (k := 3) (by decide)⟩
  · exact ⟨⟨_, _, (exec_frameLaunch ..).trans (event_next hp)⟩, hzero (k := 6) (by decide)⟩
  · exact ⟨⟨_, _, (exec_frameLresult ..).trans (event_next hp)⟩, hzero (k := 7) (by decide)⟩
  · exact ⟨⟨_, _, (exec_frameCancel ..).trans (event_next hp)⟩, hzero (k := 8) (by decide)⟩
  · exact ⟨⟨_, _, (exec_frameReport ..).trans (event_next hp)⟩, hzero (k := 9) (by decide)⟩
  · exact ⟨⟨_, _, (exec_frameRefuse ..).trans (event_next hp)⟩, hzero (k := 11) (by decide)⟩

variable (hfor : forUs s f = true) (hten : tenantOk f = true) (hpay : payloadOk f = true)
  (hseq : f.seq = (rxFlow s (flowOf f)).expected)

/-- What a frame that is taken does: its effect on the state with its flow advanced, and the acknowledgement at the sixteenth. -/
def takesFrame (s : State) (f : Frame) (i : Instr) (t : State) : Prop :=
  exec i s = .next (if 16 ≤ (takenFlow s.cycle (rxFlow s (flowOf f))).unacked
    then sendAck t (rxFlow t (takenFlow s.cycle (rxFlow s (flowOf f))).key) else t)

omit hp in
include hfor hten hpay hseq in
theorem takesFrame_of_receive {i : Instr} {kind : BitVec 4} {intake : State → State} (hkind : f.kind = kind)
    (hexec : exec i s = .next (receive s f kind false intake)) :
    takesFrame s f i (intake (setRx s (takenFlow s.cycle (rxFlow s (flowOf f))))) :=
  hexec.trans (congrArg _ (receive_next hfor hkind hten hpay hseq))

include hfor hten hpay hseq

theorem frameGetdata_takes (hkind : f.kind = 3) (hroom : heldFull s f = false) :
    takesFrame s f (.frameGetdata f) (performNext (setRx s (takenFlow s.cycle (rxFlow s (flowOf f)))) f) := by
  refine takesFrame_of_receive (intake := fun s => performNext s f) hfor hten hpay hseq hkind ?_
  rw [exec_frameGetdata, execFrameGetdata, event_next hp, hroom]

theorem frameCancel_takes (hkind : f.kind = 8) :
    takesFrame s f (.frameCancel f) (performNext (setRx s (takenFlow s.cycle (rxFlow s (flowOf f)))) f) :=
  takesFrame_of_receive (intake := fun s => performNext s f) hfor hten hpay hseq hkind ((exec_frameCancel ..).trans (event_next hp))

theorem frameRefuse_takes (hkind : f.kind = 11) :
    takesFrame s f (.frameRefuse f) (performNext (setRx s (takenFlow s.cycle (rxFlow s (flowOf f)))) f) :=
  takesFrame_of_receive (intake := fun s => performNext s f) hfor hten hpay hseq hkind ((exec_frameRefuse ..).trans (event_next hp))

theorem frameLaunch_takes (hkind : f.kind = 6) (hroom : (!flowBusy s f && (performLaunch s f).isNone) = false) :
    takesFrame s f (.frameLaunch f) (performNext (setRx s (takenFlow s.cycle (rxFlow s (flowOf f)))) f) := by
  refine takesFrame_of_receive (intake := fun s => performNext s f) hfor hten hpay hseq hkind ?_
  rw [exec_frameLaunch, execFrameLaunch, event_next hp, hroom]

theorem framePut_takes (hkind : f.kind = 1) (hroom : intakeFull s = false) :
    takesFrame s f (.framePut f) (pushPut (setRx s (takenFlow s.cycle (rxFlow s (flowOf f)))) f) := by
  refine takesFrame_of_receive (intake := fun s => pushPut s f) hfor hten hpay hseq hkind ?_
  rw [exec_framePut, execFramePut, event_next hp, hroom]

theorem frameGetreq_takes (hkind : f.kind = 2) (hroom : intakeFull s = false) :
    takesFrame s f (.frameGetreq f) (
      if f.aux.toNat < 16 ∨ 2 ^ 24 < f.aux.toNat then
        sendFrame (setRx s (takenFlow s.cycle (rxFlow s (flowOf f))))
          (answerFrame (setRx s (takenFlow s.cycle (rxFlow s (flowOf f)))) f 11 0 (BitVec.ofNat 32 (2 ^ 24)) [])
      else pushRequest (setRx s (takenFlow s.cycle (rxFlow s (flowOf f)))) f (.read f.aux.toNat)) := by
  refine takesFrame_of_receive (intake := fun s => if f.aux.toNat < 16 ∨ 2 ^ 24 < f.aux.toNat then
    sendFrame s (answerFrame s f 11 0 (BitVec.ofNat 32 (2 ^ 24)) []) else pushRequest s f (.read f.aux.toNat))
    hfor hten hpay hseq hkind ?_
  rw [exec_frameGetreq, execFrameGetreq, event_next hp, hroom]

theorem frameLaunch_full (hkind : f.kind = 6) (hfull : (!flowBusy s f && (performLaunch s f).isNone) = true) :
    exec (.frameLaunch f) s = .next (flowReply s (flowOf f) 5 (rxFlow s (flowOf f)).expected 1) := by
  rw [exec_frameLaunch, execFrameLaunch, event_next hp, hfull, receive_full hfor hkind hten hpay hseq]

theorem framePut_full (hkind : f.kind = 1) (hfull : intakeFull s = true) :
    exec (.framePut f) s = .next (flowReply s (flowOf f) 5 (rxFlow s (flowOf f)).expected 1) := by
  rw [exec_framePut, execFramePut, event_next hp, hfull, receive_full hfor hkind hten hpay hseq]

theorem frameGetreq_full (hkind : f.kind = 2) (hfull : intakeFull s = true) :
    exec (.frameGetreq f) s = .next (flowReply s (flowOf f) 5 (rxFlow s (flowOf f)).expected 1) := by
  rw [exec_frameGetreq, execFrameGetreq, event_next hp, hfull, receive_full hfor hkind hten hpay hseq]

end

/-! ### What the frames that need no request do -/

section
variable {s : State} {f : Frame}

theorem performLaunch_eq {q : BitVec 6} {r : BitVec 2048} (hq : q = f.aux.setWidth 6) (hr : r = BitVec.ofNat 2048 (leNat (f.payload.take 256)))
    (hroom : queueFull s q = false) : performLaunch s f = (submit s q r (some f.tenant)).map (fun x =>
      sendFrame x.1 (answerFrame s f 7 0 0 (bytesOf 8 x.2.toNat))) := by
  subst hq hr
  exact if_neg (Bool.eq_false_iff.1 hroom)

theorem performLaunch_full (h : queueFull s (f.aux.setWidth 6) = true) : performLaunch s f = none := if_pos h

variable {u : Slot} {o : Op} {b : CpyNetBody} {h : Option Capture} {trap cor : Bool} {sent : Option Nat} {done : Nat}
  (hfind : (openTransfers s).find? (fun x => netMatches f x.1 x.2 true || netMatches f x.1 x.2 false) = some (u, o))
  (hwork : o.work = .net b h trap cor sent done)
include hfind hwork

theorem performRefuse_eq : performRefuse s f = netRefuse s u o (b.rpa.toNat + sent.getD 0 + f.aux.toNat % 2 ^ 24) := by
  have hbits : bits (zx f.aux) 23 0 = f.aux.toNat % 2 ^ 24 := by
    have hlt := f.aux.isLt
    simp only [bits, zx, BitVec.toNat_setWidth, Nat.shiftRight_zero]
    omega
  rw [performRefuse, hfind]
  dsimp only
  rw [hwork, ← hbits]

theorem performRefuse_live {v : Slot} (hv : slotOf s u.id = some v) (hold : holdsItem v (itemKey u) (bornAt u) = true) :
    performRefuse s f = opFault s u.id o { code := 0x25, operand := word (b.rpa.toNat + sent.getD 0 + f.aux.toNat % 2 ^ 24) } := by
  rw [performRefuse_eq hfind hwork, netRefuse, hv, Option.filter_some, if_pos hold]
  exact congrArg (fun c => opFault s c o _) (slotOf_id hv)

theorem performRefuse_gone {it : Item} (hit : u.item = some it)
    (hold : ∀ v, slotOf s u.id = some v → holdsItem v (itemKey u) (bornAt u) = false) :
    performRefuse s f = endLaunch s it.queue it.ordinal u.tenant u.context (report s u (opSite u.id o)
      { code := 0x25, operand := word (b.rpa.toNat + sent.getD 0 + f.aux.toNat % 2 ^ 24) }) := by
  have hnone : (slotOf s u.id).filter (fun v => holdsItem v (itemKey u) (bornAt u)) = none := by
    cases hv : slotOf s u.id with
    | none => rfl
    | some v => rw [Option.filter_some, if_neg (Bool.eq_false_iff.1 (hold v hv))]
  rw [performRefuse_eq hfind hwork, netRefuse, hnone]
  dsimp only
  rw [hit]

end

/-- Settles O52: the bytes of a frame by `parseFrame_frameBytes`, a numbered frame by `receive`, and each kind by what it does at
intake. -/
theorem framesAndFlows : Obligations.FramesAndFlows := by
  unfold Obligations.FramesAndFlows
  refine ⟨fun f hk hk' hlen hpad => parseFrame_frameBytes hk hk' hlen hpad, fun s hp hup => ?_⟩
  dsimp only
  refine ⟨fun f hhd hdst => ⟨fun p hmem hkind => ?_, fun hgood hseq => ?_, fun hbad => ?_, fun t hten ht => ?_⟩,
    fun k hun hdue => ?_, fun k t p ps ht hw hno hlate => ?_, fun bytes fcs => ?_, fun why hfail => ?_, ?_⟩
  · have hfor : forUs s f = true := by simp [forUs, hup, hhd, hdst]
    obtain ⟨⟨full, intake, hexec⟩, hnonzero⟩ := exec_numbered hp hmem
    refine ⟨fun hbad => hexec.trans (congrArg _ (receive_bad hfor hkind ?_)),
      fun ⟨hten, hfits⟩ h0 h1 => hexec.trans (congrArg _ (receive_gap hfor hkind (tenantOk_of_tenant hten) ((payloadOk_iff f).2 hfits) h0 h1)),
      fun ⟨hten, hfits⟩ h => hexec.trans (congrArg _ (receive_old hfor hkind (tenantOk_of_tenant hten) ((payloadOk_iff f).2 hfits) h))⟩
    exact fun ⟨hten, hpay⟩ => hbad ⟨hnonzero hkind hten, (payloadOk_iff f).1 hpay⟩
  · have hfor : forUs s f = true := by simp [forUs, hup, hhd, hdst]
    have hten := tenantOk_of_tenant hgood.1
    have hpay := (payloadOk_iff f).2 hgood.2
    have hkey : (takenFlow s.cycle (rxFlow s (flowOf f))).key = flowOf f := rxFlow_key s (flowOf f)
    have hfree (h : flowBusy s f = false) : flowBusy (setRx s (takenFlow s.cycle (rxFlow s (flowOf f)))) f = false := h
    refine ⟨fun hbusy => ⟨fun hk hroom => ⟨_, frameGetdata_takes hp hfor hten hpay hseq hk hroom, performNext_busy hbusy⟩,
        fun hk => ⟨_, frameLaunch_takes hp hfor hten hpay hseq hk (by rw [hbusy]; rfl), performNext_busy hbusy⟩,
        fun hk => ⟨_, frameCancel_takes hp hfor hten hpay hseq hk, performNext_busy hbusy⟩,
        fun hk => ⟨_, frameRefuse_takes hp hfor hten hpay hseq hk, performNext_busy hbusy⟩⟩,
      fun hfull => ⟨fun hk => framePut_full hp hfor hten hpay hseq hk hfull, fun hk => frameGetreq_full hp hfor hten hpay hseq hk hfull⟩,
      fun hroom => ⟨fun hk hne => ⟨_, framePut_takes hp hfor hten hpay hseq hk hroom, pushPut_eq hkey hne⟩,
        fun hk => ⟨_, frameGetreq_takes hp hfor hten hpay hseq hk hroom, ?_⟩⟩,
      fun hk hbusy hroom u o b trap cor sent done hop hu hwork hlen hnet hdet halign howns =>
        ⟨_, frameGetdata_takes hp hfor hten hpay hseq hk hroom, ?_⟩,
      fun hk hbusy => ⟨fun hfull => frameLaunch_full hp hfor hten hpay hseq hk ?_, fun hroom hsome s2 w hsub =>
        ⟨_, frameLaunch_takes hp hfor hten hpay hseq hk ?_, ?_⟩⟩,
      fun hk => ⟨_, takesFrame_of_receive (intake := fun s => s) hfor hten hpay hseq hk ((exec_frameLresult ..).trans (event_next hp)), rfl⟩,
      fun hk hbusy => ⟨_, frameCancel_takes hp hfor hten hpay hseq hk, performNext_now (hfree hbusy) (performFrame_cancel hk)⟩,
      fun hk => ⟨_, takesFrame_of_receive (intake := fun s => s) hfor hten hpay hseq hk ((exec_frameReport ..).trans (event_next hp)), rfl⟩,
      fun hk hbusy u o b h trap cor sent done it hwork hit hfind => ⟨fun v hv hold =>
          ⟨_, frameRefuse_takes hp hfor hten hpay hseq hk, (performNext_now (hfree hbusy) (performFrame_refuse hk)).trans
            (performRefuse_live hfind hwork hv hold)⟩,
        fun hold => ⟨_, frameRefuse_takes hp hfor hten hpay hseq hk, (performNext_now (hfree hbusy) (performFrame_refuse hk)).trans
            (performRefuse_gone hfind hwork hit hold)⟩⟩⟩
    · by_cases haux : 16 ≤ f.aux.toNat ∧ f.aux.toNat ≤ 2 ^ 24
      · rw [if_pos haux]
        exact if_neg (by omega)
      · rw [if_neg haux]
        exact if_pos (by omega)
    · obtain ⟨r, hr⟩ : ∃ r, r = setRx s (takenFlow s.cycle (rxFlow s (flowOf f))) := ⟨_, rfl⟩
      have hop1 : netOpFor r f (getMatches f) = some (u, o) := hr ▸ hop
      have hu1 : slotOf r u.id = some u := hr ▸ hu
      have hdata := performData_granule hop1 hu1 hwork hlen hnet hdet halign howns
      rw [← hr, performNext_now (t := performData r f) (hr ▸ hbusy) (performFrame_data hk), hdata]
      have hmem : (modSlot r u.id (getFilled o b trap cor sent done f.payload)).mem = s.mem := by rw [modSlot_mem, hr]; rfl
      refine ⟨getFilled o b trap cor sent done f.payload u, ?_, hmem, fun a => ?_, fun g => ?_, rfl, rfl, rfl⟩
      · rw [slotOf_modSlot (f := getFilled o b trap cor sent done f.payload) (fun _ => rfl), if_pos rfl, hu1]
        rfl
      · exact (bankByte_bankWrite ..).trans (by rw [hlen])
      · refine (granuleFull_setGranule (bankWrite u (b.loff.toNat + done) f.payload) ((b.loff.toNat + done) / 16) true g).trans ?_
        by_cases hg : g = (b.loff.toNat + done) / 16
        · simp [hg]
        · rw [if_neg hg, decide_eq_false hg, Bool.or_false]
          rfl
    · rw [hbusy]
      rcases hfull with hfull | hfull
      · rw [performLaunch_full hfull]
        rfl
      · cases hq : queueFull s (f.aux.setWidth 6) with
        | true =>
          rw [performLaunch_full hq]
          rfl
        | false =>
          rw [performLaunch_eq rfl rfl hq, hfull]
          rfl
    · rw [performLaunch_eq rfl rfl hroom, Option.isNone_map, Option.isNone_eq_false_iff.2 hsome, Bool.and_false]
    · have hroom1 : queueFull (setRx s (takenFlow s.cycle (rxFlow s (flowOf f)))) (f.aux.setWidth 6) = false := hroom
      refine performNext_now (hfree hbusy) ((performFrame_launch hk).trans ((performLaunch_eq rfl rfl hroom1).trans ?_))
      exact congrArg (Option.map _) hsub
  · have hfor : forUs s f = true := by simp [forUs, hup, hhd, hdst]
    have hten : tenantOk f = false := by simp [tenantOk, hbad.1, hbad.2]
    exact ⟨fun hk => exec_frameAck_bad hp hfor hk hten, fun hk => exec_frameNak_bad hp hfor hk hten⟩
  · have hfor : forUs s f = true := by simp [forUs, hup, hhd, hdst]
    have hmem : t ∈ s.port.tx := List.mem_of_find?_eq_some ht
    have hok (hk : f.kind = 4 ∨ f.kind = 5) : tenantOk f = true := by
      rcases hk with hk | hk <;> simpa [tenantOk, hk] using hten
    refine ⟨fun hk => ⟨fun hwait => ?_, fun hsingle => ?_⟩, fun hk => ⟨fun haux => exec_frameNak_full hp hfor (hok (.inr hk)) ht hk haux,
      fun haux => ⟨_, exec_frameNak_gap hp hfor (hok (.inr hk)) ht hk haux, rfl, rfl⟩⟩⟩
    · refine (exec_frameAck_good hp hfor (hok (.inl hk)) ht hk).trans (congrArg _ (pumpFlows_idle fun y hy => ?_))
      rcases List.mem_cons.1 hy with rfl | hy
      · exact hwait t hmem
      · exact hwait y (List.mem_filter.1 hy).1
    · have htx : (setTx s (ackedFlow t (leftOf f.ack t.window))).port.tx = [ackedFlow t (leftOf f.ack t.window)] := by
        refine congrArg (List.cons _) (List.filter_eq_nil_iff.2 fun y hy => ?_)
        rw [hsingle, List.mem_singleton] at hy
        subst hy
        simp [ackedFlow]
      obtain ⟨hwire, htx⟩ := pumpFlows_single htx
      exact ⟨_, exec_frameAck_good hp hfor (hok (.inl hk)) ht hk, hwire, htx⟩
  · have hkey := rxFlow_key s k
    refine ⟨_, _, exec_ackTimer_due hp hup hun hdue, by rw [sendAck_eq hup], rfl, rfl, rfl, ?_, ?_, by rw [sendAck_eq hup]; rfl⟩
    · rw [hkey]
      rfl
    · rw [sendAck_eq hup]
      exact congrArg RxFlow.unacked (hkey ▸ rxFlow_setRx s { rxFlow s k with unacked := 0 })
  · obtain ⟨hwire, htx⟩ := resendFlow_eq s hw
    have hkey : t.key = k := of_decide_eq_true (List.find?_some (p := fun x : TxFlow => decide (x.key = k)) ht)
    rw [hkey] at htx
    refine ⟨_, exec_retransmitTimeout_flow hp hup ht hw hno hlate, rfl, hwire, htx.trans ?_⟩
    rw [← hno, hkey]
  · have hexec := exec_frameDamagedDrop_up hp hup bytes
    refine ⟨hexec true, ?_, ?_⟩
    · rintro rfl hpause
      exact (hexec false).trans (congrArg _ (if_pos (decide_eq_true hpause)))
    · rintro rfl hpause
      have hno : ¬ pauseFrame bytes = true := by simpa [pauseFrame] using hpause
      have hexec := (hexec false).trans (congrArg Host.Outcome.next (if_neg hno))
      refine ⟨fun hfor => hexec.trans (congrArg _ (if_pos ((foreignFrame_iff bytes).2 hfor))), fun hfor hlen hwrong => ?_,
        fun hfor hlen hright hkind => ?_⟩
      · refine hexec.trans (congrArg _ ((if_neg (fun h => hfor ((foreignFrame_iff bytes).1 h))).trans (if_pos ?_)))
        exact (countedDamage_iff _).2 ⟨hlen, hwrong⟩
      · refine hexec.trans (congrArg _ ((if_neg (fun h => hfor ((foreignFrame_iff bytes).1 h))).trans ((if_neg ?_).trans (if_pos ?_))))
        · exact fun h => hright ((countedDamage_iff _).1 h).2
        · rw [transportOf, parseFrame_reserved hkind]
          rfl
  · have hport := port_netRefuses_down (s := { s with port := downPort s }) rfl (openFaults s)
    have hexec := exec_portDown_ethernet hp hup hfail
    obtain ⟨r, hr⟩ : ∃ r, r = (openFaults s).foldl (fun s x => netRefuse s x.1 x.2.1 x.2.2) { s with port := downPort s } := ⟨_, rfl⟩
    rw [← hr] at hport hexec
    rw [show ({ s with port := downPort s } : State).port = downPort s from rfl] at hport
    refine ⟨r, hexec, by rw [hport]; rfl, by rw [hport]; rfl, by rw [hport]; rfl, by rw [hport]; rfl, by rw [hport]; rfl, fun hnone => ?_,
      fun t o b h trap cor sent done hone hwork ht hold => ?_⟩
    · rw [hport, hr, openFaults, hnone]
      rfl
    · have hfaults : openFaults s = [(t, o, netFirst s t o b done)] := by
        rw [openFaults, hone, List.filterMap_cons_some (b := (t, o, netFirst s t o b done)) (by rw [hwork])]
        rfl
      have hlive := netRefuse_live (s := { s with port := downPort s }) (o := o) (a := netFirst s t o b done) ht hold
      rw [hport, hr, hfaults, List.foldl_cons, List.foldl_nil, hlive]
      rfl
  · exact (exec_portRetrainComplete _).trans (event_next (s := { s with port := { s.port with up := false } }) hp)

end Sys2Proof.Machine
end

section
/-! SUPPORT. Management requests at their flow: R453, R454, R456, R458; of O54. -/

namespace Sys2Proof.Machine

/-! ## A request at its flow (R453, R454, R456) -/

/-- The flow in which a host's requests come (R456). -/
def requestFlow (s : State) (m : MgmtHead) : FlowKey := ⟨true, false, m.host, s.devid, m.tenant, m.context⟩

/-- The state in which firmware performs a request: its frame is taken. -/
def requestTaken (s : State) (m : MgmtHead) : State := setRx s (takenFlow s.cycle (rxFlow s (requestFlow s m)))

theorem exec_request {i : Instr} {m : MgmtHead} {code : BitVec 8} (h : requestOf i = some (m, code)) (s : State) :
    ∃ lines run, exec i s = requestRun s m code lines run := by
  unfold requestOf at h
  split at h
  all_goals cases h
  · rw [exec_mgmtSetDevid, execMgmtSetDevid, request]
    exact ⟨_, _, rfl⟩
  · rw [exec_mgmtWritePseed, execMgmtWritePseed, request]
    exact ⟨_, _, rfl⟩
  · rw [exec_mgmtTenant, execMgmtTenant, request]
    exact ⟨_, _, rfl⟩
  · rw [exec_mgmtAssignQueue, execMgmtAssignQueue, request]
    exact ⟨_, _, rfl⟩
  · rw [exec_mgmtAccessTable, execMgmtAccessTable, request]
    exact ⟨_, _, rfl⟩
  · rw [exec_mgmtCreateContext, execMgmtCreateContext, request]
    exact ⟨_, _, rfl⟩
  · rw [exec_mgmtPageFaultAnswer, execMgmtPageFaultAnswer, request]
    exact ⟨_, _, rfl⟩
  · rw [exec_mgmtPreempt, execMgmtPreempt, request]
    exact ⟨_, _, rfl⟩
  · rw [exec_mgmtLoadObject, execMgmtLoadObject]
    exact ⟨_, _, rfl⟩
  · rw [exec_mgmtAttestation, execMgmtAttestation, request]
    exact ⟨_, _, rfl⟩
  · rw [exec_mgmtPowerCap, execMgmtPowerCap, request]
    exact ⟨_, _, rfl⟩
  · rw [exec_mgmtPackageReset, execMgmtPackageReset]
    exact ⟨_, _, rfl⟩
  · rw [exec_mgmtMapPages, execMgmtMapPages]
    exact ⟨_, _, rfl⟩
  · rw [exec_mgmtMigrate, execMgmtMigrate]
    exact ⟨_, _, rfl⟩
  · rw [exec_mgmtQueryQueue, execMgmtQueryQueue, request]
    exact ⟨_, _, rfl⟩
  · rw [exec_mgmtLinkParameters, execMgmtLinkParameters, request]
    exact ⟨_, _, rfl⟩
  · rw [exec_mgmtPinPartition, execMgmtPinPartition, request]
    exact ⟨_, _, rfl⟩
  · rw [exec_mgmtSpillGrant, execMgmtSpillGrant, request]
    exact ⟨_, _, rfl⟩
  · rw [exec_mgmtSigningKeys, execMgmtSigningKeys, request]
    exact ⟨_, _, rfl⟩

section
variable {s : State} {m : MgmtHead} {code : BitVec 8} {lines : State → List Nat} {run : State → State} (hp : s.mgmt.powered = true)
include hp

theorem requestRun_unheard (h : ¬ (s.port.up = true ∧ 25 ≤ s.mgmt.boot.stage ∧ m.host ∈ s.mgmt.hosts)) :
    requestRun s m code lines run = .next s := by
  rw [requestRun, event_next hp, if_neg]
  simpa [hostHeard, and_assoc] using h

variable (hheard : s.port.up = true ∧ 25 ≤ s.mgmt.boot.stage ∧ m.host ∈ s.mgmt.hosts)
include hheard

theorem requestRun_heard : requestRun s m code lines run = .next (receive s (requestFrame s m code) 10
    (firmwareRuns s (requestFrame s m code) (lines s) run).isNone
    (fun s' => (firmwareRuns s' (requestFrame s m code) (lines s') run).getD s')) := by
  rw [requestRun, event_next hp, if_pos]
  simpa [hostHeard, and_assoc] using hheard

omit hp in
theorem requestFrame_forUs : forUs s (requestFrame s m code) = true := by
  simp [forUs, requestFrame, hheard.1]

omit hp hheard in
theorem requestFrame_tenantOk : tenantOk (requestFrame s m code) = true := by simp [tenantOk, requestFrame]

theorem requestRun_gap (h0 : 0 < (m.seq - (rxFlow s (requestFlow s m)).expected).toNat)
    (h1 : (m.seq - (rxFlow s (requestFlow s m)).expected).toNat < 2 ^ 23) : requestRun s m code lines run = .next
      (if (rxFlow s (requestFlow s m)).gapSent then s else
        flowReply (setRx s { rxFlow s (requestFlow s m) with gapSent := true }) (rxFlow s (requestFlow s m)).key 5
          (rxFlow s (requestFlow s m)).expected 0) := by
  have hkey := rxFlow_key s (requestFlow s m)
  rw [requestRun_heard hp hheard, receive_gap (kind := 10) (requestFrame_forUs hheard) rfl requestFrame_tenantOk rfl h0 h1, hkey]
  rfl

theorem requestRun_old (h : 2 ^ 23 ≤ (m.seq - (rxFlow s (requestFlow s m)).expected).toNat) :
    requestRun s m code lines run = .next (sendAck s (rxFlow s (requestFlow s m))) := by
  rw [requestRun_heard hp hheard, receive_old (kind := 10) (requestFrame_forUs hheard) rfl requestFrame_tenantOk rfl h]
  rfl

variable (hseq : m.seq = (rxFlow s (requestFlow s m)).expected)
include hseq

theorem requestRun_busy (h : flowBusy s (requestFrame s m code) = true) : requestRun s m code lines run = .next
    (flowReply s (rxFlow s (requestFlow s m)).key 5 (rxFlow s (requestFlow s m)).expected 1) := by
  have hnone : firmwareRuns s (requestFrame s m code) (lines s) run = none := by
    rw [firmwareRuns, h]
    exact if_neg (by simp)
  have hkey := rxFlow_key s (requestFlow s m)
  rw [requestRun_heard hp hheard, hnone, hkey]
  exact congrArg _ (receive_full (kind := 10) (requestFrame_forUs hheard) rfl requestFrame_tenantOk rfl hseq)

/-- Firmware may perform a request: the lines that it reads are not held, and it writes to no bucket on the move. -/
def RequestRuns (lines : State → List Nat) (run : State → State) (s : State) : Prop :=
  (∀ n ∈ lines s, canSend s 0 n = true) ∧ writesHeld s (run s) = false

omit hp hheard hseq in
theorem firmwareRuns_eq {u : State} (hfree : flowBusy u (requestFrame s m code) = false) (hruns : RequestRuns lines run u) :
    firmwareRuns u (requestFrame s m code) (lines u) run = some (run u) := by
  rw [firmwareRuns, hfree, hruns.2]
  exact if_pos (by simpa using hruns.1)

theorem requestRun_next (hfree : flowBusy s (requestFrame s m code) = false) (h0 : RequestRuns lines run s)
    (h1 : RequestRuns lines run (requestTaken s m)) : requestRun s m code lines run = .next
      (if 16 ≤ (takenFlow s.cycle (rxFlow s (requestFlow s m))).unacked
        then sendAck (run (requestTaken s m)) (rxFlow (run (requestTaken s m)) (requestFlow s m)) else run (requestTaken s m)) := by
  have hkey : (takenFlow s.cycle (rxFlow s (requestFlow s m))).key = requestFlow s m := rxFlow_key s (requestFlow s m)
  have hthere := firmwareRuns_eq (s := s) (m := m) (code := code) (u := requestTaken s m) hfree h1
  rw [requestRun_heard hp hheard, firmwareRuns_eq hfree h0, Option.isNone_some,
    receive_next (kind := 10) (requestFrame_forUs hheard) rfl requestFrame_tenantOk rfl hseq]
  have hrun : (firmwareRuns (setRx s (takenFlow s.cycle (rxFlow s (flowOf (requestFrame s m code))))) (requestFrame s m code)
      (lines (setRx s (takenFlow s.cycle (rxFlow s (flowOf (requestFrame s m code)))))) run).getD
        (setRx s (takenFlow s.cycle (rxFlow s (flowOf (requestFrame s m code))))) = run (requestTaken s m) :=
    congrArg (fun x => x.getD (requestTaken s m)) hthere
  rw [hrun]
  exact congrArg (fun k => Host.Outcome.next (if 16 ≤ (takenFlow s.cycle (rxFlow s (requestFlow s m))).unacked
    then sendAck (run (requestTaken s m)) (rxFlow (run (requestTaken s m)) k) else run (requestTaken s m))) hkey

end

/-! ## Requests that write to no bucket (R68) -/

theorem writesHeld_of_counters {s t : State} (h : t.counters = s.counters) : writesHeld s t = false := by
  rw [writesHeld, h]
  simp only [List.any_cons, List.any_nil, Bool.or_false, Bool.or_eq_false_iff]
  constructor <;> split <;> simp

theorem writesHeld_of_still {s : State} (h : ∀ d : Fin 2, s.moves[d] = none) (t : State) : writesHeld s t = false := by
  have h0 : s.moves[0] = none := h 0
  have h1 : s.moves[1] = none := h 1
  simp [writesHeld, h0, h1]

theorem sendFrame_counters (s : State) (f : Frame) (op : Option OpRef) : (sendFrame s f op).counters = s.counters := by
  unfold sendFrame
  dsimp only
  split
  · rfl
  · split
    · rfl
    · split <;> rfl

theorem mgmtAnswer_counters (s : State) (host : BitVec 18) (code : BitVec 8) (st : BitVec 32) (more : List Byte) :
    (mgmtAnswer s host code st more).counters = s.counters := sendFrame_counters ..

/-- The status of a request that firmware refuses. -/
theorem answered_none (s : State) (m : MgmtHead) (code : BitVec 8) (more : List Byte) :
    ∃ x, x ≠ 0 ∧ answered s m code none more = mgmtAnswer s m.host code x := by
  by_cases h : Config.refusalStatus code = 0
  · exact ⟨1, by decide, congrArg (fun x => mgmtAnswer s m.host code x) (if_pos h)⟩
  · exact ⟨_, h, congrArg (fun x => mgmtAnswer s m.host code x) (if_neg h)⟩

theorem answered_counters {s : State} {done : Option State} (h : ∀ t, done = some t → t.counters = s.counters) (m : MgmtHead)
    (code : BitVec 8) (more : List Byte) : (answered s m code done more).counters = s.counters := by
  cases done with
  | none =>
    obtain ⟨x, -, hx⟩ := answered_none s m code more
    rw [hx, mgmtAnswer_counters]
  | some t => exact (mgmtAnswer_counters ..).trans (h t rfl)

/-! ## A request in its turn -/

/-- A host's request is the next of its flow, no earlier frame of which waits, and firmware runs. -/
structure InTurn (s : State) (m : MgmtHead) : Prop where
  powered : s.mgmt.powered = true
  heard : s.port.up = true ∧ 25 ≤ s.mgmt.boot.stage ∧ m.host ∈ s.mgmt.hosts
  seq : m.seq = (rxFlow s (requestFlow s m)).expected
  idle : ∀ r ∈ s.requests ++ s.intake, ∀ f, r.reply = some f → flowOf f ≠ requestFlow s m

/-- A request leads to a state, after which every sixteenth frame is acknowledged. -/
def RequestBecomes (s : State) (m : MgmtHead) (i : Instr) (t : State) : Prop :=
  exec i s = .next (if 16 ≤ (takenFlow s.cycle (rxFlow s (requestFlow s m))).unacked
    then sendAck t (rxFlow t (requestFlow s m)) else t)

section
variable {s : State} {m : MgmtHead} {i : Instr} {code : BitVec 8}

theorem InTurn.free (h : InTurn s m) (code : BitVec 8) : flowBusy s (requestFrame s m code) = false := by
  rw [flowBusy, List.any_eq_false]
  intro r hr
  split
  · next f hf => exact fun he => h.idle r hr f hf (of_decide_eq_true he)
  · exact Bool.false_ne_true

theorem requestBecomes_run (hturn : InTurn s m) {lines : State → List Nat} {run : State → State} (hexec : exec i s = requestRun s m code lines run)
    (h0 : RequestRuns lines run s) (h1 : RequestRuns lines run (requestTaken s m)) : RequestBecomes s m i (run (requestTaken s m)) :=
  hexec.trans (requestRun_next hturn.powered hturn.heard hturn.seq (hturn.free code) h0 h1)

/-- What a request does leaves the counters of the buckets as they are. -/
def CountersKept (done : State → Option State) (s : State) : Prop := ∀ t, done s = some t → t.counters = s.counters

variable {done : State → Option State} {more : State → List Byte}

theorem requestRuns_answered {u : State} (h : CountersKept done u) :
    RequestRuns (fun _ => []) (fun s => answered s m code (done s) (more s)) u :=
  ⟨fun _ hn => absurd hn List.not_mem_nil, writesHeld_of_counters (answered_counters h ..)⟩

theorem request_becomes (hturn : InTurn s m) (hexec : exec i s = request s m code done more) (h0 : CountersKept done s)
    (h1 : CountersKept done (requestTaken s m)) :
    RequestBecomes s m i (answered (requestTaken s m) m code (done (requestTaken s m)) (more (requestTaken s m))) :=
  requestBecomes_run hturn hexec (requestRuns_answered h0) (requestRuns_answered h1)

theorem request_done {t : State} (hturn : InTurn s m) (hexec : exec i s = request s m code done more) (h0 : CountersKept done s)
    (h1 : CountersKept done (requestTaken s m)) (hdone : done (requestTaken s m) = some t) :
    RequestBecomes s m i (mgmtAnswer t m.host code 0 (more (requestTaken s m))) := by
  have h := request_becomes hturn hexec h0 h1
  rwa [hdone] at h

theorem request_refused (hturn : InTurn s m) (hexec : exec i s = request s m code done more) (h0 : CountersKept done s)
    (h1 : CountersKept done (requestTaken s m)) (hdone : done (requestTaken s m) = none) :
    ∃ x, x ≠ 0 ∧ RequestBecomes s m i (mgmtAnswer (requestTaken s m) m.host code x) := by
  have h := request_becomes hturn hexec h0 h1
  obtain ⟨x, hx, he⟩ := answered_none (requestTaken s m) m code (more (requestTaken s m))
  rw [hdone, he] at h
  exact ⟨x, hx, h⟩

end

end Sys2Proof.Machine
end

section
/-! SUPPORT. State slots and the cipher engines: R133, R136, R440; for O48, O51, O54. -/

namespace Sys2Proof.Machine

/-! ## The lengths of what the cipher engines make (R136) -/

/-- A property of the state of a loop that its body carries on holds after any number of rounds. -/
theorem foldl_range_induction {α : Type} {P : Nat → α → Prop} {f : α → Nat → α} {a : α} (h0 : P 0 a)
    (hstep : ∀ j b, P j b → P (j + 1) (f b j)) (n : Nat) : P n ((List.range n).foldl f a) := by
  induction n with
  | zero => exact h0
  | succ n ih =>
    rw [List.range_succ, List.foldl_append]
    exact hstep n _ ih

theorem length_xorBytes (a b : List Nat) : (xorBytes a b).length = min a.length b.length := List.length_zipWith ..

/-- The words of a key schedule have four bytes. -/
def fourBytes (ws : List (List Nat)) : Prop := ∀ w ∈ ws, w.length = 4

theorem fourBytes_getD {ws : List (List Nat)} (h : fourBytes ws) {i : Nat} (hi : i < ws.length) : (ws.getD i []).length = 4 := by
  rw [List.getD_eq_getElem _ _ hi]
  exact h _ (List.getElem_mem hi)

/-- One more word of a key schedule. -/
def aesScheduleStep (ws : List (List Nat)) (j : Nat) : List (List Nat) :=
  ws ++ [xorBytes (ws.getD (j + 8 - 8) [])
    (if (j + 8) % 8 = 0 then
      xorBytes (((ws.getD (j + 8 - 1) []).drop 1 ++ (ws.getD (j + 8 - 1) []).take 1).map (boxAt aesBox)) [2 ^ ((j + 8) / 8 - 1), 0, 0, 0]
    else if (j + 8) % 8 = 4 then (ws.getD (j + 8 - 1) []).map (boxAt aesBox) else ws.getD (j + 8 - 1) [])]

theorem aesSchedule_eq (key : List Nat) : aesSchedule key =
    (List.range 52).foldl aesScheduleStep ((List.range 8).map (fun i => (key.drop (4 * i)).take 4)) := rfl

theorem aesSchedule_words {key : List Nat} (h : key.length = 32) : (aesSchedule key).length = 60 ∧ fourBytes (aesSchedule key) := by
  rw [aesSchedule_eq]
  refine foldl_range_induction (P := fun j ws => ws.length = 8 + j ∧ fourBytes ws) ?_ ?_ 52
  · refine ⟨by rw [List.length_map, List.length_range], fun w hw => ?_⟩
    obtain ⟨i, hi, rfl⟩ := List.mem_map.1 hw
    have hi := List.mem_range.1 hi
    rw [List.length_take, List.length_drop]
    omega
  · rintro j ws ⟨hlen, hws⟩
    have hlast := fourBytes_getD hws (i := j + 8 - 1) (by omega)
    have hold := fourBytes_getD hws (i := j + 8 - 8) (by omega)
    unfold aesScheduleStep
    refine ⟨by rw [List.length_append, hlen, List.length_singleton]; omega, fun w hw => ?_⟩
    rcases List.mem_append.1 hw with hw | hw
    · exact hws w hw
    · rw [List.mem_singleton.1 hw, length_xorBytes, hold]
      split
      · rw [length_xorBytes, List.length_map, List.length_append, List.length_drop, List.length_take, hlast]
        rfl
      · split
        · rw [List.length_map, hlast]
          rfl
        · rw [hlast]
          rfl

theorem length_flatten_four {ws : List (List Nat)} (h : fourBytes ws) : ws.flatten.length = 4 * ws.length := by
  induction ws with
  | nil => rfl
  | cons w ws ih =>
    rw [List.flatten_cons, List.length_append, ih fun x hx => h x (List.mem_cons_of_mem _ hx), h w List.mem_cons_self,
      List.length_cons]
    omega

theorem length_aesRoundKey {ws : List (List Nat)} (hlen : ws.length = 60) (h : fourBytes ws) {r : Nat} (hr : r ≤ 14) :
    (aesRoundKey ws r).length = 16 := by
  rw [aesRoundKey, length_flatten_four fun w hw => h w (List.mem_of_mem_drop (List.mem_of_mem_take hw)), List.length_take,
    List.length_drop]
  omega

theorem length_aesEncrypt {ws : List (List Nat)} (hlen : ws.length = 60) (h : fourBytes ws) (b : List Nat) :
    (aesEncrypt ws b).length = 16 := by
  rw [aesEncrypt, length_xorBytes, length_aesRoundKey hlen h (Nat.le_refl 14), aesShift, List.length_map, List.length_range, Nat.min_self]

theorem length_aesDecrypt {ws : List (List Nat)} (hlen : ws.length = 60) (h : fourBytes ws) (b : List Nat) :
    (aesDecrypt ws b).length = 16 := by
  rw [aesDecrypt, length_xorBytes, length_aesRoundKey hlen h (Nat.zero_le 14), List.length_map, aesShift, List.length_map,
    List.length_range, Nat.min_self]

theorem length_xtsUnit (encrypt : Bool) (k1 k2 : BitVec 256) (tweak : BitVec 128) (data : List Byte) :
    (xtsUnit encrypt k1 k2 tweak data).length = 512 := by
  obtain ⟨hlen, hws⟩ := aesSchedule_words (key := (bytesOf 32 k1.toNat).map (fun b => b.toNat))
    (by rw [List.length_map, Laws.bytesOf_length])
  refine foldl_range_induction (P := fun j (p : BitVec 128 × List Byte) => p.2.length = 16 * j) (List.length_nil) ?_ 32
  intro j p hp
  have hblock (x : List Nat) : (if encrypt = true then aesEncrypt (aesSchedule ((bytesOf 32 k1.toNat).map (fun b => b.toNat))) x
      else aesDecrypt (aesSchedule ((bytesOf 32 k1.toNat).map (fun b => b.toNat))) x).length = 16 := by
    split
    · exact length_aesEncrypt hlen hws x
    · exact length_aesDecrypt hlen hws x
  rw [List.length_append, hp, List.length_map, length_xorBytes, hblock, List.length_map, Laws.bytesOf_length]
  omega

theorem length_xtsUnits (encrypt : Bool) (k1 k2 : BitVec 256) (kdh : BitVec 32) (lbn : Word) (unit : Nat) (data : List Byte) :
    (xtsUnits encrypt k1 k2 kdh lbn unit data).length = 512 * (data.length / 512) := by
  rw [xtsUnits, List.length_flatMap, List.map_congr_left (g := fun _ => 512) fun i _ => length_xtsUnit .., List.map_const',
    List.sum_replicate, List.length_range, smul_eq_mul, Nat.mul_comm]

/-! ## State slots: what a write leaves, and what a dead handle zeroes (R133, R367) -/

theorem zRead_length (t : Slot) (z : BitVec 6) (off n : Nat) : (zRead t z off n).length = n := by
  rw [zRead, sgetRange_eq, List.length_map, List.length_range]

theorem zRead_zWrite {bs : List Byte} (hbs : bs.length = stateBytes) (t : Slot) (w z : BitVec 6) :
    zRead (zWrite t w 0 bs) z 0 stateBytes = if z = w then bs else zRead t z 0 stateBytes := by
  unfold zRead zWrite
  simp only [sgetRange_eq, sget_ssetRange, hbs]
  split
  · next hz =>
    subst hz
    refine List.ext_getElem (by simp [hbs]) fun i h1 h2 => ?_
    simp only [List.length_map, List.length_range] at h1
    simp only [List.getElem_map, List.getElem_range]
    rw [if_pos (by omega), Nat.add_sub_cancel_left, List.getD_eq_getElem _ _ h2]
  · next hz =>
    have hne : z.toNat ≠ w.toNat := fun h => hz (BitVec.eq_of_toNat_eq h)
    refine List.map_congr_left fun i hi => if_neg ?_
    have hi := List.mem_range.1 hi
    unfold stateBytes at hi ⊢
    omega

theorem zTag_of_mem {t : Slot} (h : tagsSafe t) {p : Nat × ZTag} (hp : p ∈ t.ztag) : zTag t (BitVec.ofNat 6 p.1) = p.2 := by
  have hlt : p.1 < 2 ^ 6 := h.2 p hp
  rw [zTag, BitVec.toNat_ofNat, Nat.mod_eq_of_lt hlt]
  exact sget_of_mem {} t.ztag ((swf_iff _ _).1 h.1).1 hp

theorem mem_of_zTag {t : Slot} {z : BitVec 6} (h : zTag t z ≠ {}) : (z.toNat, zTag t z) ∈ t.ztag := mem_of_sget_ne h

theorem tagsSafe_setTag {t : Slot} (h : tagsSafe t) {a : Nat} (ha : a < 64) (x : ZTag) :
    tagsSafe { t with ztag := sset {} t.ztag a x } := by
  refine ⟨swf_sset _ _ _ _ h.1, fun p hp => ?_⟩
  change p ∈ sset {} t.ztag a x at hp
  unfold sset at hp
  split at hp
  · exact h.2 p (List.mem_filter.1 hp).1
  · rcases mem_sput _ _ _ hp with rfl | hp
    · exact ha
    · exact h.2 p hp

/-- One state slot of a dead handle zeroed and marked DEAD. -/
def killOne (t : Slot) (p : Nat × ZTag) : Slot :=
  { t with
    z := sclear t.z (stateBytes * p.1) (stateBytes * (p.1 + 1))
    ztag := sset {} t.ztag p.1 { p.2 with state := 2, fresh := false } }

theorem zRead_killOne (t : Slot) {p : Nat × ZTag} (z : BitVec 6) : zRead (killOne t p) z 0 stateBytes =
    if z.toNat = p.1 then List.replicate stateBytes 0 else zRead t z 0 stateBytes := by
  unfold zRead killOne
  simp only [sgetRange_eq, sget_sclear]
  split
  · next hz =>
    rw [List.eq_replicate_iff]
    refine ⟨by rw [List.length_map, List.length_range], fun x hx => ?_⟩
    obtain ⟨i, hi, rfl⟩ := List.mem_map.1 hx
    have hi := List.mem_range.1 hi
    unfold stateBytes at hi ⊢
    exact if_pos (by omega)
  · next hz =>
    refine List.map_congr_left fun i hi => if_neg ?_
    have hi := List.mem_range.1 hi
    unfold stateBytes at hi ⊢
    omega

theorem zTag_killOne (t : Slot) (p : Nat × ZTag) (z : BitVec 6) : zTag (killOne t p) z =
    if z.toNat = p.1 then { p.2 with state := 2, fresh := false } else zTag t z := by
  unfold zTag killOne
  exact sget_sset {} t.ztag p.1 { p.2 with state := 2, fresh := false } z.toNat

theorem killOnes_spec (ps : List (Nat × ZTag)) (t : Slot) (z : BitVec 6) :
    zRead (ps.foldl killOne t) z 0 stateBytes = (if z.toNat ∈ ps.map (fun p => p.1) then List.replicate stateBytes 0
      else zRead t z 0 stateBytes)
    ∧ (z.toNat ∉ ps.map (fun p => p.1) → zTag (ps.foldl killOne t) z = zTag t z)
    ∧ (z.toNat ∈ ps.map (fun p => p.1) → ∃ p ∈ ps, zTag (ps.foldl killOne t) z = { p.2 with state := 2, fresh := false }
        ∧ z.toNat = p.1) := by
  induction ps using List.reverseRecOn with
  | nil => exact ⟨rfl, fun _ => rfl, fun h => absurd h List.not_mem_nil⟩
  | append_singleton ps p ih =>
    obtain ⟨hread, hout, hin⟩ := ih
    simp only [List.foldl_append, List.foldl_cons, List.foldl_nil, List.map_append, List.map_cons, List.map_nil, List.mem_append,
      List.mem_singleton, zRead_killOne, zTag_killOne]
    refine ⟨?_, fun hn => ?_, fun hm => ?_⟩
    · by_cases hz : z.toNat = p.1
      · rw [if_pos hz, if_pos (.inr hz)]
      · simp only [hz, or_false, if_false, hread]
    · rw [if_neg fun hz => hn (.inr hz)]
      exact hout fun h => hn (.inl h)
    · by_cases hz : z.toNat = p.1
      · exact ⟨p, .inr rfl, if_pos hz, hz⟩
      · obtain ⟨x, hx, ht, hzx⟩ := hin (hm.resolve_right hz)
        exact ⟨x, .inl hx, by rw [if_neg hz, ht], hzx⟩

/-- The state slots that a handle's death zeroes. -/
def killHit (kdh : BitVec 32) (t : Slot) : List (Nat × ZTag) := t.ztag.filter (fun p => p.2.state = 1 && p.2.kdh = kdh)

theorem killState_eq (kdh : BitVec 32) (t : Slot) : killState kdh t = (killHit kdh t).foldl killOne t := rfl

theorem mem_killHit {t : Slot} (h : tagsSafe t) (kdh : BitVec 32) (z : BitVec 6) :
    z.toNat ∈ (killHit kdh t).map (fun p => p.1) ↔ (zTag t z).state = 1 ∧ (zTag t z).kdh = kdh := by
  constructor
  · intro hm
    obtain ⟨p, hp, hz⟩ := List.mem_map.1 hm
    obtain ⟨hp, hcond⟩ := List.mem_filter.1 hp
    have htag := zTag_of_mem h hp
    rw [hz, BitVec.ofNat_toNat, BitVec.setWidth_eq] at htag
    rw [htag]
    simpa using hcond
  · rintro ⟨hs, hk⟩
    have hne : zTag t z ≠ {} := fun he => by rw [he] at hs; exact absurd hs (by decide)
    exact List.mem_map.2 ⟨_, List.mem_filter.2 ⟨mem_of_zTag hne, by simp [hs, hk]⟩, rfl⟩

theorem killState_frame (kdh : BitVec 32) (t : Slot) :
    killState kdh t = { t with z := (killState kdh t).z, ztag := (killState kdh t).ztag } := by
  rw [killState_eq]
  refine List.foldlRecOn (motive := fun u : Slot => u = { t with z := u.z, ztag := u.ztag }) _ _ rfl fun u hu p _ => ?_
  rw [killOne, hu]

theorem zRead_killState {t : Slot} (h : tagsSafe t) (kdh : BitVec 32) (z : BitVec 6) : zRead (killState kdh t) z 0 stateBytes =
    if (zTag t z).state = 1 ∧ (zTag t z).kdh = kdh then List.replicate stateBytes 0 else zRead t z 0 stateBytes := by
  rw [killState_eq, (killOnes_spec _ t z).1]
  exact if_congr (mem_killHit h kdh z) rfl rfl

theorem zTag_killState {t : Slot} (h : tagsSafe t) (kdh : BitVec 32) (z : BitVec 6) : zTag (killState kdh t) z =
    if (zTag t z).state = 1 ∧ (zTag t z).kdh = kdh then { zTag t z with state := 2, fresh := false } else zTag t z := by
  obtain ⟨-, hout, hin⟩ := killOnes_spec (killHit kdh t) t z
  rw [killState_eq]
  split
  · next hc =>
    obtain ⟨p, hp, ht, hz⟩ := hin ((mem_killHit h kdh z).2 hc)
    have htag := zTag_of_mem h (List.mem_filter.1 hp).1
    rw [← hz, BitVec.ofNat_toNat, BitVec.setWidth_eq] at htag
    rw [ht, htag]
  · next hc => exact hout fun hm => hc ((mem_killHit h kdh z).1 hm)

theorem tagsSafe_killState {t : Slot} (h : tagsSafe t) (kdh : BitVec 32) : tagsSafe (killState kdh t) := by
  rw [killState_eq]
  refine List.foldlRecOn (motive := tagsSafe) _ _ h fun u hu p hp => ?_
  exact tagsSafe_setTag hu (h.2 p (List.mem_filter.1 hp).1) _

/-! ## The state slots of a saved item through the cipher engines (R440) -/

/-- What the cipher engines make of one state slot. -/
def cipherOne (s : State) (encrypt : Bool) (serial : Nat) (t : Slot) (p : Nat × ZTag) : Slot :=
  if handleDead s p.2.kdh then killState p.2.kdh t
  else zWrite t (BitVec.ofNat 6 p.1) 0 (xtsUnits encrypt (keyOf s p.2.kdh).k1 (keyOf s p.2.kdh).k2 p.2.kdh (saveLbn serial p.1) 0
    (zRead t (BitVec.ofNat 6 p.1) 0 stateBytes))

/-- The tags that name a key domain. -/
def cipherTags (t : Slot) : List (Nat × ZTag) := t.ztag.filter (fun p => p.2.state = tagBound && p.2.kdh ≠ 0)

theorem cipherState_eq (s : State) (encrypt : Bool) (serial : Nat) (t : Slot) :
    cipherState s encrypt serial t = (cipherTags t).foldl (cipherOne s encrypt serial) t := rfl

theorem cipherState_frame (s : State) (encrypt : Bool) (serial : Nat) (t : Slot) : cipherState s encrypt serial t =
    { t with z := (cipherState s encrypt serial t).z, ztag := (cipherState s encrypt serial t).ztag } := by
  rw [cipherState_eq]
  refine List.foldlRecOn (motive := fun u : Slot => u = { t with z := u.z, ztag := u.ztag }) _ _ rfl fun u hu p _ => ?_
  unfold cipherOne
  split
  · have hframe := killState_frame p.2.kdh u
    rw [hframe, hu]
  · rw [zWrite, hu]

/-- What a state slot of `t` becomes. -/
def cipheredBytes (s : State) (encrypt : Bool) (serial : Nat) (t : Slot) (z : BitVec 6) : List Byte :=
  if (zTag t z).state ≠ tagBound ∨ (zTag t z).kdh = 0 then zRead t z 0 stateBytes
  else if handleDead s (zTag t z).kdh then List.replicate stateBytes 0
  else xtsUnits encrypt (keyOf s (zTag t z).kdh).k1 (keyOf s (zTag t z).kdh).k2 (zTag t z).kdh
    (word (2 ^ 63 + 64 * serial + z.toNat)) 0 (zRead t z 0 stateBytes)

/-- The cipher engines on their way through the state slots of `t`, of which `todo` are left: those done are final, and a dead
handle may have taken others of its own. -/
structure CipherMid (s : State) (encrypt : Bool) (serial : Nat) (t : Slot) (todo : List (Nat × ZTag)) (u : Slot) : Prop where
  safe : tagsSafe u
  done : ∀ z : BitVec 6, z.toNat ∉ todo.map (fun p => p.1) → zRead u z 0 stateBytes = cipheredBytes s encrypt serial t z
  live : ∀ z : BitVec 6, z.toNat ∈ todo.map (fun p => p.1) → handleDead s (zTag t z).kdh = false →
    zRead u z 0 stateBytes = zRead t z 0 stateBytes
  dead : ∀ z : BitVec 6, handleDead s (zTag t z).kdh = true → zTag u z = zTag t z ∨ zRead u z 0 stateBytes = cipheredBytes s encrypt serial t z
  kept : ∀ z : BitVec 6, handleDead s (zTag t z).kdh = false → zTag u z = zTag t z
  kdhs : ∀ z : BitVec 6, (zTag u z).kdh = (zTag t z).kdh ∧ ((zTag u z).state = 1 → (zTag t z).state = 1)

section
variable {s : State} {encrypt : Bool} {serial : Nat} {t u : Slot} {p : Nat × ZTag} {ps : List (Nat × ZTag)}

/-- A dead handle's turn. -/
theorem cipherMid_dead (hm : CipherMid s encrypt serial t (p :: ps) u) (ht : zTag t (BitVec.ofNat 6 p.1) = p.2)
    (hbound : p.2.state = tagBound) (hk : p.2.kdh ≠ 0) (hd : handleDead s p.2.kdh = true) :
    CipherMid s encrypt serial t ps (killState p.2.kdh u) := by
  have hread := zRead_killState hm.safe p.2.kdh
  have htag := zTag_killState hm.safe p.2.kdh
  have hzeros (z : BitVec 6) (h : (zTag u z).state = 1 ∧ (zTag u z).kdh = p.2.kdh) :
      cipheredBytes s encrypt serial t z = List.replicate stateBytes 0 := by
    obtain ⟨hkdh, hstate⟩ := hm.kdhs z
    rw [h.2] at hkdh
    rw [cipheredBytes, if_neg (fun hor => hor.elim (fun he => he (hstate h.1)) (fun he => hk (hkdh.trans he))), ← hkdh, hd, if_pos rfl]
  refine ⟨tagsSafe_killState hm.safe _, fun z hz => ?_, fun z hz hl => ?_, fun z hz => ?_, fun z hz => ?_, fun z => ?_⟩
  · rw [hread]
    split
    · next h => exact (hzeros z h).symm
    · next h =>
      by_cases hzp : z.toNat = p.1
      · have he : z = BitVec.ofNat 6 p.1 := by rw [← hzp, BitVec.ofNat_toNat, BitVec.setWidth_eq]
        subst he
        rw [← ht] at hd
        refine (hm.dead _ hd).resolve_left fun hsame => h ?_
        rw [hsame, ht]
        exact ⟨hbound, rfl⟩
      · exact hm.done z (by simpa [hzp] using hz)
  · have hne : ¬ ((zTag u z).state = 1 ∧ (zTag u z).kdh = p.2.kdh) := fun h => by
      rw [← (hm.kdhs z).1, h.2, hd] at hl
      exact Bool.noConfusion hl
    rw [hread, if_neg hne]
    exact hm.live z (List.mem_cons_of_mem _ hz) hl
  · rw [hread, htag]
    split
    · next h => exact .inr (hzeros z h).symm
    · exact hm.dead z hz
  · have hne : ¬ ((zTag u z).state = 1 ∧ (zTag u z).kdh = p.2.kdh) := fun h => by
      rw [← (hm.kdhs z).1, h.2, hd] at hz
      exact Bool.noConfusion hz
    rw [htag, if_neg hne]
    exact hm.kept z hz
  · rw [htag]
    split
    · exact ⟨(hm.kdhs z).1, fun h => absurd h (show ¬ (2 : BitVec 2) = 1 by decide)⟩
    · exact hm.kdhs z

/-- A live handle's turn. -/
theorem cipherMid_live (hm : CipherMid s encrypt serial t (p :: ps) u) (ht : zTag t (BitVec.ofNat 6 p.1) = p.2) (hlt : p.1 < 64)
    (hnew : p.1 ∉ ps.map (fun p => p.1)) (hbound : p.2.state = tagBound) (hk : p.2.kdh ≠ 0) (hd : handleDead s p.2.kdh = false) :
    CipherMid s encrypt serial t ps (zWrite u (BitVec.ofNat 6 p.1) 0 (xtsUnits encrypt (keyOf s p.2.kdh).k1 (keyOf s p.2.kdh).k2
      p.2.kdh (saveLbn serial p.1) 0 (zRead u (BitVec.ofNat 6 p.1) 0 stateBytes))) := by
  have hnum : (BitVec.ofNat 6 p.1).toNat = p.1 := by rw [BitVec.toNat_ofNat, Nat.mod_eq_of_lt hlt]
  have hread := zRead_zWrite (bs := xtsUnits encrypt (keyOf s p.2.kdh).k1 (keyOf s p.2.kdh).k2
      p.2.kdh (saveLbn serial p.1) 0 (zRead u (BitVec.ofNat 6 p.1) 0 stateBytes))
    (by rw [length_xtsUnits, zRead_length]; decide) u (BitVec.ofNat 6 p.1)
  refine ⟨hm.safe, fun z hz => ?_, fun z hz hl => ?_, fun z hz => ?_, hm.kept, hm.kdhs⟩
  · rw [hread]
    split
    · next h =>
      subst h
      rw [hm.live _ (by rw [hnum]; exact List.mem_cons_self) (by rw [ht, hd]), cipheredBytes, ht,
        if_neg (fun hor => hor.elim (fun he => he hbound) hk), hd,
        if_neg Bool.false_ne_true, hnum]
      rfl
    · next h =>
      refine hm.done z ?_
      have hne : z.toNat ≠ p.1 := fun he => h (by rw [← he, BitVec.ofNat_toNat, BitVec.setWidth_eq])
      simpa [hne] using hz
  · rw [hread, if_neg]
    · exact hm.live z (List.mem_cons_of_mem _ hz) hl
    · rintro rfl
      exact hnew (hnum ▸ hz)
  · rw [hread, if_neg]
    · exact hm.dead z hz
    · rintro rfl
      rw [ht, hd] at hz
      exact Bool.noConfusion hz

theorem cipherMid_all (hm : CipherMid s encrypt serial t ps u)
    (htags : ∀ p ∈ ps, zTag t (BitVec.ofNat 6 p.1) = p.2 ∧ p.1 < 64 ∧ p.2.state = tagBound ∧ p.2.kdh ≠ 0)
    (hnew : (ps.map (fun p => p.1)).Nodup) : CipherMid s encrypt serial t [] (ps.foldl (cipherOne s encrypt serial) u) := by
  induction ps generalizing u with
  | nil => exact hm
  | cons p ps ih =>
    obtain ⟨ht, hlt, hbound, hk⟩ := htags p List.mem_cons_self
    rw [List.map_cons, List.nodup_cons] at hnew
    refine ih ?_ (fun x hx => htags x (List.mem_cons_of_mem _ hx)) hnew.2
    unfold cipherOne
    split
    · next hd => exact cipherMid_dead hm ht hbound hk hd
    · next hd => exact cipherMid_live hm ht hlt hnew.1 hbound hk (Bool.eq_false_iff.2 hd)

end

theorem cipherMid_start (s : State) (encrypt : Bool) (serial : Nat) {t : Slot} (h : tagsSafe t) :
    CipherMid s encrypt serial t (cipherTags t) t := by
  refine ⟨h, fun z hz => ?_, fun _ _ _ => rfl, fun _ _ => .inl rfl, fun _ _ => rfl, fun _ => ⟨rfl, id⟩⟩
  rw [cipheredBytes, if_pos]
  by_contra hc
  obtain ⟨hs, hk⟩ := not_or.1 hc
  have hne : zTag t z ≠ {} := fun he => by rw [he] at hs; exact hs (by decide)
  exact hz (List.mem_map.2 ⟨_, List.mem_filter.2 ⟨mem_of_zTag hne, Bool.and_eq_true_iff.2 ⟨decide_eq_true (not_not.1 hs), decide_eq_true hk⟩⟩, rfl⟩)

/-- The state slots of an item through the cipher engines are those that the claims name. -/
theorem ciphered_cipherState (s : State) (encrypt : Bool) (serial : Nat) {t : Slot} (h : tagsSafe t) :
    ciphered s encrypt serial t (cipherState s encrypt serial t) := by
  have hall := cipherMid_all (cipherMid_start s encrypt serial h) (fun p hp => ?_) ?_
  · exact fun z => hall.done z List.not_mem_nil
  · obtain ⟨hp, hc⟩ := List.mem_filter.1 hp
    exact ⟨zTag_of_mem h hp, h.2 p hp, by simpa using hc⟩
  · have hsub : (cipherTags t).Pairwise (fun p q => p.1 < q.1) := ((swf_iff _ _).1 h.1).1.sublist List.filter_sublist
    exact List.pairwise_map.2 (hsub.imp fun h => Nat.ne_of_lt h)

end Sys2Proof.Machine
end

section
/-! SUPPORT. An item saved in the cc in which it stops: R437 to R440; for O51, O54. -/

namespace Sys2Proof.Machine

/-! ## An item saved in the cc in which it stops (R437, R438) -/

theorem ciphered_congr {s s' : State} (h : s'.kv = s.kv) {t t' : Slot} (hz : t'.z = t.z) (ht : t'.ztag = t.ztag) {encrypt : Bool}
    {serial : Nat} {u : Slot} (hc : ciphered s' encrypt serial t' u) : ciphered s encrypt serial t u := by
  intro z
  have hz' := hc z
  simp only [keyOf, handleDead, zTag, zRead, h, hz, ht] at hz' ⊢
  exact hz'

theorem stopWork_kv {o : Op} {r : KvReq} {g : Option (BitVec 6)} (h : (stopWork o).work = .kv r g) : o.work = .kv r g := by
  unfold stopWork at h
  split at h
  · cases h
  · exact h

theorem producersDone_iff {t : Slot} : producersDone t = true ↔ t.deferred = [] ∧ ∀ o ∈ t.ops, ∀ r g, o.work ≠ .kv r (some g) := by
  rw [producersDone, Bool.and_eq_true, Bool.not_eq_true', List.any_eq_false, List.isEmpty_iff]
  refine and_congr_right fun _ => forall₂_congr fun o _ => ⟨fun h r g hw => h (by rw [hw]), fun h => ?_⟩
  split
  · next hw => exact absurd hw (h _ _)
  · exact Bool.false_ne_true

theorem producersDone_stopSlot {t : Slot} (h : producersDone t = true) (z : Nat) : producersDone (stopSlot t z) = true := by
  obtain ⟨hd, ho⟩ := producersDone_iff.1 h
  refine producersDone_iff.2 ⟨hd, fun o' ho' r g hw => ?_⟩
  obtain ⟨o, hm, rfl⟩ := List.mem_map.1 ho'
  exact ho o hm r g (stopWork_kv hw)

theorem drainBarriers_none {s : State} {r : OpRef} (h : ∀ u ∈ s.barriers, sameItem u.issuer r = false) (n : Nat) :
    drainBarriers s r n = s := by
  cases n with
  | zero => rfl
  | succ n =>
    have hnone : s.barriers.findIdx? (fun u => sameItem u.issuer r) = none :=
      List.findIdx?_eq_none_iff.2 fun u hu => by rw [h u hu]
    rw [drainBarriers, hnone]

/-- A slot stopped for its save. -/
def stoppedSlot (t : Slot) (cycle : Nat) : Slot := { stopSlot t cycle with saving := true }

theorem drainDeferred_none {t : Slot} (h : t.deferred = []) : drainDeferred t = t := by
  rw [drainDeferred, h]
  rfl

theorem gangOf_single (s : State) {u : Slot} {i : Item} (hu : u.item = some i) (hsize : i.size = 0) : gangOf s u = [u] := by
  rw [gangOf, hu]
  exact if_pos hsize

/-- The state with a slot's item stopped for its save, which has nothing to finish. -/
theorem stopForSave_idle {s : State} {t : Slot} (hs : slotOf s t.id = some t) (hw : t.wait = none)
    (hbar : ∀ u ∈ s.barriers, sameItem u.issuer (refOf t 0) = false) :
    stopForSave s t = modSlot (modSlot s t.id drainDeferred) t.id (fun u => stoppedSlot u s.cycle) := by
  have hlatch : latchWait s t.id = s := by
    rw [latchWait, hs]
    dsimp only
    rw [hw]
  rw [stopForSave, drainSlot, hlatch, drainBarriers_none hbar]
  rfl

theorem drainDeferred_id (t : Slot) : (drainDeferred t).id = t.id := by
  refine List.foldlRecOn (motive := fun u : Slot => u.id = t.id) _ _ rfl fun u hu _ _ => ?_
  rw [← hu]
  unfold writeDeferred
  split
  · rfl
  · next d hd =>
    refine (List.foldlRecOn (motive := fun v : Slot => v.id = u.id) _ _ ?_ fun v hv p _ => (setV_id v p.1 p.2).trans hv)
    exact List.foldlRecOn (motive := fun v : Slot => v.id = u.id) _ _ rfl fun v hv p _ => (setG_id v p.1 p.2).trans hv

/-- The slot as it is saved, before the cipher engines. -/
def savedSlot (t : Slot) (cycle : Nat) : Slot := { restHandles (stopSlot t cycle) with saving := false }

/-- The die whose serials number the saves of a slot. -/
def saveDie (t : Slot) : Fin 2 := if dieOf t.id.core % 2 = 1 then 1 else 0

/-- The saved item of a slot. -/
def savedItem (s : State) (t : Slot) : Saved :=
  { slot := cipherState s true (s.saveSerial[saveDie t]) (savedSlot t s.cycle), since := s.cycle
    serial := s.saveSerial[saveDie t] }

/-- The state with an item saved, before its slot is freed. -/
def itemSaved (s : State) (t : Slot) : State :=
  { modAreas s t (fun n => n - 1) with
    saved := s.saved ++ [savedItem s t]
    saveSerial := s.saveSerial.set (saveDie t)
      ((s.saveSerial[saveDie t] + 1) % 2 ^ 48)
    pageFaults := s.pageFaults.filter (fun f => !(sameItem f.owner (refOf t 0) && f.handle.isSome)) }

theorem saveSlot_eq {s : State} {c : SlotId} {t : Slot} (hs : slotOf s c = some t) :
    saveSlot s c = freeSlot (wantSwitch (itemSaved s t) c) c := by
  have hid := slotOf_id hs
  subst hid
  rw [saveSlot, hs]
  rfl

theorem finishSave_single {s : State} {t : Slot} {i : Item} (hs : slotOf s t.id = some t) (hi : t.item = some i)
    (hsize : i.size = 0) (hsaving : t.saving = true) (hend : t.ending = []) (hprod : producersDone t = true) :
    finishSave s t.id = saveSlot s t.id := by
  rw [finishSave, hs]
  dsimp only
  rw [gangOf_single s hi hsize, if_pos]
  · rfl
  · simp [hsaving, hend, hprod]

theorem slotOf_freed {s : State} {c : SlotId} {u : Slot} (h : slotOf (freeSlot s c) c = some u) : u.item = none := by
  by_cases hc : s.cur.id = c
  · have hcur : slotOf (freeSlot s c) c = some (emptySlot s.cur) := by
      simp only [slotOf, freeSlot, modSlot, if_pos hc]
      exact if_pos hc
    rw [← Option.some.inj (hcur.symm.trans h)]
    rfl
  · simp only [slotOf, freeSlot, modSlot, if_neg hc] at h
    have hid := of_decide_eq_true (List.find?_some (p := fun v : Slot => decide (v.id = c)) h)
    obtain ⟨v, -, rfl⟩ := List.mem_map.1 (List.mem_filter.1 (List.mem_of_find?_eq_some h)).1
    split at hid
    · next hv =>
      rw [if_pos hv]
      rfl
    · next hv => exact absurd hid hv

theorem freeAreas_modAreas (s : State) (t : Slot) (f : Nat → Nat) (h : freeAreas s t ≠ 0) : freeAreas (modAreas s t f) t = f (freeAreas s t) := by
  have hfind : contextOf (modAreas s t f) t.tenant t.context = (contextOf s t.tenant t.context).map (fun c =>
      if c.tenant = t.tenant ∧ c.context = t.context then { c with areas := f c.areas } else c) := by
    rw [contextOf, contextOf, modAreas, List.find?_map]
    congr 2
    funext c
    dsimp only [Function.comp]
    split <;> rfl
  unfold freeAreas at h ⊢
  rw [hfind]
  cases hc : contextOf s t.tenant t.context with
  | none => rw [hc] at h; exact absurd rfl h
  | some c =>
    have hm := List.find?_some (p := fun c : Context => decide (c.tenant = t.tenant) && decide (c.context = t.context)) hc
    rw [Option.map_some]
    dsimp only
    rw [if_pos (by simpa using hm)]

theorem freed_fields (r : State) (c : SlotId) : (freeSlot (wantSwitch r c) c).saved = r.saved ∧ (freeSlot (wantSwitch r c) c).mem = r.mem
    ∧ (freeSlot (wantSwitch r c) c).counters = r.counters ∧ (freeSlot (wantSwitch r c) c).contexts = r.contexts
    ∧ (freeSlot (wantSwitch r c) c).saveSerial = r.saveSerial := by
  simp [freeSlot, wantSwitch, apply_ite]

theorem savedSlot_stopped {t v : Slot} {z z' : Nat} (hsaving : t.saving = false)
    (h : ∃ zs tags, v = { savedSlot (stoppedSlot t z) z' with z := zs, ztag := tags }) : v = { t with
      z := v.z, ztag := v.ztag, time := v.time, ops := v.ops, h := v.h
      walks := [], cache := [], blockedFor := 0, readyFor := 0, copied := 0 } := by
  obtain ⟨zs, tags, rfl⟩ := h
  cases t
  cases hsaving
  rfl

theorem savedItem_frame (s : State) {t : Slot} {z : Nat} (hsaving : t.saving = false) : (savedItem s (stoppedSlot t z)).slot = { t with
      z := (savedItem s (stoppedSlot t z)).slot.z, ztag := (savedItem s (stoppedSlot t z)).slot.ztag
      time := (savedItem s (stoppedSlot t z)).slot.time, ops := (savedItem s (stoppedSlot t z)).slot.ops
      h := (savedItem s (stoppedSlot t z)).slot.h
      walks := [], cache := [], blockedFor := 0, readyFor := 0, copied := 0 } := by
  refine savedSlot_stopped (z := z) (z' := s.cycle) hsaving ⟨(savedItem s (stoppedSlot t z)).slot.z, (savedItem s (stoppedSlot t z)).slot.ztag, ?_⟩
  exact cipherState_frame s true s.saveSerial[saveDie (stoppedSlot t z)] (savedSlot (stoppedSlot t z) s.cycle)

theorem savedItem_slot (s : State) (t : Slot) : (savedItem s t).slot = cipherState s true s.saveSerial[saveDie t] (savedSlot t s.cycle) := rfl

theorem savedItem_serial (s : State) (t : Slot) : (savedItem s t).serial = s.saveSerial[saveDie t] := rfl

theorem tagsSafe_congr {t u : Slot} (h : tagsSafe t) (hu : u.ztag = t.ztag) : tagsSafe u := by
  unfold tagsSafe
  rw [hu]
  exact h

theorem ciphered_savedItem (s : State) {t u : Slot} (h : tagsSafe t) (hz : u.z = t.z) (hu : u.ztag = t.ztag) :
    ciphered s true (savedItem s u).serial t (savedItem s u).slot := by
  rw [savedItem_slot, savedItem_serial]
  have hz' : (savedSlot u s.cycle).z = t.z := hz
  have hu' : (savedSlot u s.cycle).ztag = t.ztag := hu
  exact ciphered_congr rfl hz' hu' (ciphered_cipherState s true s.saveSerial[saveDie u] (tagsSafe_congr h hu'))

/-- A save of one slot's item that has nothing to finish. -/
theorem saveUnit_savesItem {s : State} {t : Slot} {i : Item} (hs : slotOf s t.id = some t) (hi : t.item = some i) (hsize : i.size = 0)
    (h : savable s t) : savesItem s (saveUnit s t) t ∧ (saveUnit s t).counters = s.counters := by
  obtain ⟨hsaving, hend, hwait, hprod, htags, hbar, hareas⟩ := h
  obtain ⟨s2, hs2⟩ : ∃ s2, s2 = stopForSave s t := ⟨_, rfl⟩
  have hstop := stopForSave_idle hs hwait hbar
  rw [← hs2] at hstop
  have hslot : slotOf s2 t.id = some (stoppedSlot t s.cycle) := by
    rw [hstop, slotOf_modSlot (f := fun u => stoppedSlot u s.cycle) (fun _ => rfl), slotOf_modSlot (f := drainDeferred) drainDeferred_id, if_pos rfl, if_pos rfl, hs,
      Option.map_some, Option.map_some, drainDeferred_none (producersDone_iff.1 hprod).1]
  have hunit : saveUnit s t = saveSlot s2 t.id := by
    rw [saveUnit, gangOf_single s hi hsize]
    rw [if_neg (by rw [List.length_singleton]; exact Nat.not_lt.2 (Nat.one_le_iff_ne_zero.2 hareas))]
    exact (congrArg (fun x => finishSave x t.id) hs2.symm).trans (finishSave_single (t := stoppedSlot t s.cycle)
      hslot hi hsize rfl hend (producersDone_stopSlot hprod s.cycle))
  have hcycle : s2.cycle = s.cycle := by rw [hstop, modSlot_cycle, modSlot_cycle]
  have hkv : s2.kv = s.kv := by rw [hstop, modSlot_kv, modSlot_kv]
  have hserial : s2.saveSerial = s.saveSerial := by rw [hstop, modSlot_saveSerial, modSlot_saveSerial]
  have hcontexts : s2.contexts = s.contexts := by rw [hstop, modSlot_contexts, modSlot_contexts]
  have hsaved : s2.saved = s.saved := by rw [hstop, modSlot_saved, modSlot_saved]
  have hfree : freeAreas s2 t = freeAreas s t := by rw [freeAreas, freeAreas, contextOf, contextOf, hcontexts]
  rw [hunit, saveSlot_eq hslot]
  obtain ⟨hrsaved, hrmem, hrcounters, hrcontexts, hrserial⟩ := freed_fields (itemSaved s2 (stoppedSlot t s.cycle)) t.id
  refine ⟨⟨savedItem s2 (stoppedSlot t s.cycle), ?_, ?_, hcycle, ?_, ?_, ?_, fun u hu => slotOf_freed hu, ?_, ?_⟩, ?_⟩
  · rw [hrsaved, ← hsaved]
    rfl
  · rw [hrmem]
    exact (congrArg State.mem hstop).trans (by rw [modSlot_mem, modSlot_mem])
  · exact congrArg (fun v => v[saveDie t]) hserial
  · rw [hrserial, ← hserial]
    exact Vector.getElem_set_self ..
  · rw [← hfree] at hareas ⊢
    have hmod := freeAreas_modAreas s2 t (fun n => n - 1) hareas
    rw [← hmod, freeAreas, freeAreas, contextOf, contextOf, hrcontexts]
    rfl
  · exact ciphered_congr (s' := s2) (t' := t) hkv rfl rfl (ciphered_savedItem s2 (u := stoppedSlot t s.cycle) htags rfl rfl)
  · exact savedItem_frame s2 hsaving
  · rw [hrcounters]
    exact (congrArg State.counters hstop).trans (by rw [modSlot_counters, modSlot_counters])

/-- A launch that a pre-emption stops mid-item, of whose items one runs on the slots concerned. -/
theorem preemptMid_savesItem {s : State} {q : BitVec 6} {n : Nat} {on : SlotId → Bool} {t : Slot} {i : Item} (why : HoldCause)
    (hslots : (launchSlots s q n).filter on = [t.id]) (hs : slotOf s t.id = some t) (hruns : slotRuns t q n = true)
    (hi : t.item = some i) (hsize : i.size = 0) (h : savable s t) :
    savesItem s (preemptMid s q n why on) t ∧ (preemptMid s q n why on).counters = s.counters := by
  have hone : preemptMid s q n why on = saveUnit (holdLaunch s q n why) t := by
    have hsame : (launchSlots (holdLaunch s q n why) q n).filter on = [t.id] := hslots
    have hslot : slotOf (holdLaunch s q n why) t.id = some t := hs
    rw [preemptMid, hsame, List.foldl_cons, List.foldl_nil, hslot]
    dsimp only
    rw [hruns, h.1]
    rfl
  rw [hone]
  exact saveUnit_savesItem (s := holdLaunch s q n why) hs hi hsize h

end Sys2Proof.Machine
end

section
/-! SUPPORT. What the end of a launch leaves, and page faults answered: R434, R435; for O54. -/

namespace Sys2Proof.Machine

/-! ## What the end of a launch leaves as it is (R435) -/

/-- Nothing differs but slots, launches, reservations, saved items with their areas, key domains, what items have on their way, and
the port; and every launch stays. -/
def DropsOnly (s t : State) : Prop :=
  t = { s with
    cores := t.cores, cur := t.cur, rest := t.rest, queues := t.queues, kv := t.kv, broadcasts := t.broadcasts
    replies := t.replies, barriers := t.barriers, carries := t.carries, pageFaults := t.pageFaults, saved := t.saved
    contexts := t.contexts, walkers := t.walkers, port := t.port }
  ∧ LaunchesKept s t

namespace DropsOnly

theorem refl (s : State) : DropsOnly s s := ⟨rfl, .refl s⟩

theorem trans {s t u : State} (h1 : DropsOnly s t) (h2 : DropsOnly t u) : DropsOnly s u :=
  ⟨by rw [h2.1, h1.1], h1.2.trans h2.2⟩

theorem after {s t u : State} (h2 : DropsOnly t u) (h1 : DropsOnly s t) : DropsOnly s u := h1.trans h2

theorem foldl {α : Type} {f : State → α → State} (hf : ∀ s a, DropsOnly s (f s a)) (xs : List α) (s : State) :
    DropsOnly s (xs.foldl f s) := by
  induction xs generalizing s with
  | nil => exact refl s
  | cons x xs ih => exact (hf s x).trans (ih _)

theorem mem {s t : State} (h : DropsOnly s t) : t.mem = s.mem := by rw [h.1]

theorem counters {s t : State} (h : DropsOnly s t) : t.counters = s.counters := by rw [h.1]

theorem modLaunch {f : Launch → Launch} (hf : ∀ l, (f l).ordinal = l.ordinal) (hh : ∀ l, (f l).held = l.held) (s : State)
    (q : BitVec 6) (n : Nat) : DropsOnly s (modLaunch s q n f) :=
  ⟨rfl, launchesKept_modLaunch hf (fun l _ hm => (hh l).symm ▸ hm) s q n⟩

theorem modSlot (s : State) (c : SlotId) (f : Slot → Slot) : DropsOnly s (modSlot s c f) := by
  refine ⟨?_, .of_steady (steady_modSlot ..)⟩
  unfold Machine.modSlot
  split <;> rfl

theorem sendFrame (s : State) (f : Frame) (op : Option OpRef) : DropsOnly s (sendFrame s f op) := by
  refine ⟨?_, .of_steady (steady_sendFrame ..)⟩
  unfold Machine.sendFrame
  dsimp only
  split
  · rfl
  · split
    · rfl
    · split <;> rfl

theorem wantSwitch (s : State) (c : SlotId) : DropsOnly s (wantSwitch s c) := by
  refine ⟨?_, .of_steady (steady_wantSwitch ..)⟩
  unfold Machine.wantSwitch
  dsimp only
  split <;> rfl

theorem releaseDomain (s : State) (kdh : BitVec 32) : DropsOnly s (releaseDomain s kdh) := by
  have hframe : (Machine.releaseDomain s kdh) = { s with kv := (Machine.releaseDomain s kdh).kv
                                                         broadcasts := (Machine.releaseDomain s kdh).broadcasts } := by
    unfold Machine.releaseDomain
    extract_lets die n d key
    split
    · rfl
    · split <;> rfl
  generalize Machine.releaseDomain s kdh = t at hframe
  rw [hframe]
  exact ⟨rfl, .of_steady ⟨rfl, rfl⟩⟩

theorem returnEntries (s : State) (t : Slot) : DropsOnly s (returnEntries s t) := by
  unfold Machine.returnEntries
  refine foldl (fun s e => ?_) t.inbox s
  exact ⟨rfl, .of_steady ⟨rfl, rfl⟩⟩

theorem lapsed (s : State) (key : Nat × Nat × Nat) : DropsOnly s (lapse s key) := ⟨rfl, .of_steady ⟨rfl, rfl⟩⟩

theorem dropWork (s : State) (t : Slot) : DropsOnly s (dropWork s t) := by
  unfold Machine.dropWork
  dsimp only
  have hfold := foldl (fun s (p : Nat × ZTag) => releaseDomain s p.2.kdh) (t.ztag.filter (fun p => p.2.fresh && p.2.state = 1)) s
  have hlapse := hfold.trans (.trans (returnEntries _ t) (lapsed _ (itemKey t)))
  split
  · next it _ =>
    split
    · exact hlapse.trans ⟨rfl, .of_steady ⟨rfl, rfl⟩⟩
    · have hmark := modLaunch (f := fun l => { l with running := l.running - 1 }) (fun _ => rfl) (fun _ => rfl)
        (Machine.lapse (Machine.returnEntries ((t.ztag.filter (fun p => p.2.fresh && p.2.state = 1)).foldl
          (fun s p => Machine.releaseDomain s p.2.kdh) s) t) (itemKey t)) it.queue it.ordinal
      exact hlapse.trans (hmark.trans ⟨rfl, .of_steady ⟨rfl, rfl⟩⟩)
  · exact hlapse.trans ⟨rfl, .of_steady ⟨rfl, rfl⟩⟩

theorem freeSlot (s : State) (c : SlotId) : DropsOnly s (freeSlot s c) :=
  .trans (modSlot s c emptySlot) ⟨rfl, .of_steady ⟨rfl, rfl⟩⟩

theorem removeItem (s : State) (c : SlotId) : DropsOnly s (removeItem s c) := by
  unfold Machine.removeItem
  split
  · exact refl s
  · split
    · exact refl s
    · exact .after (freeSlot ..) (.after (wantSwitch ..) (dropWork ..))

theorem dropSaved (s : State) (x : Saved) : DropsOnly s (dropSaved s x) :=
  .trans (dropWork s x.slot) ⟨rfl, .of_steady ⟨rfl, rfl⟩⟩

theorem endLaunch (s : State) (q : BitVec 6) (n : Nat) (tenant context : BitVec 16) (rep : BitVec 512) :
    DropsOnly s (endLaunch s q n tenant context rep) := by
  have hmark := modLaunch (f := fun l => { l with failed := true, owed := [], unplaceableSince := none }) (fun _ => rfl) (fun _ => rfl)
    s q n
  unfold Machine.endLaunch
  exact .after (sendFrame ..) (.after (foldl dropSaved _ _) (.after (foldl removeItem _ _) (hmark.trans ⟨rfl, .of_steady ⟨rfl, rfl⟩⟩)))

end DropsOnly

/-! ## Page faults answered (R434) -/

theorem slotOf_mapSlots {f : Slot → Slot} (hf : ∀ u, (f u).id = u.id) (s : State) (c : SlotId) :
    slotOf (mapSlots s f) c = (slotOf s c).map f := by
  unfold slotOf mapSlots
  dsimp only
  rw [hf, List.find?_map]
  have hsame : ((fun t : Slot => decide (t.id = c)) ∘ f) = fun t => decide (t.id = c) := by
    funext t
    exact congrArg (fun i => decide (i = c)) (hf t)
  rw [hsame]
  split <;> rfl

theorem resumeTime_frame (t : Slot) (z : Nat) : resumeTime t z = { t with time := (resumeTime t z).time, ops := (resumeTime t z).ops } := by
  unfold resumeTime
  split <;> rfl

theorem pageMapped_frame (s : State) (tenant context : BitVec 16) (vpage : BitVec 40) (t : Slot) :
    ∃ walks ops time answer, pageMapped s tenant context vpage t = { t with
      walks := walks, ops := ops, time := time, answer := answer } := by
  unfold pageMapped
  dsimp only
  split
  · split
    · exact ⟨_, _, _, _, resumeTime_frame ..⟩
    · exact ⟨_, _, _, _, rfl⟩
  · exact ⟨_, _, _, _, rfl⟩

theorem pageMapped_answer {s : State} {tenant context : BitVec 16} {vpage : BitVec 40} {t : Slot} {a : Answer} (ha : t.answer = some a)
    (ht : a.tenant = tenant) (hc : a.context = context) (hv : vpage ∈ a.pages) :
    (pageMapped s tenant context vpage t).answer = if (∀ p ∈ a.pages, p = vpage) then none
      else some { a with pages := a.pages.filter (fun p => p ≠ vpage) } := by
  have hwaits (w : List Walk) : waitsOn { t with walks := w } tenant context vpage = true := by
    rw [waitsOn, ha]
    simp [ht, hc, hv]
  have hanswer (w : List Walk) : (answeredPage { t with walks := w } vpage).answer = if (∀ p ∈ a.pages, p = vpage) then none
      else some { a with pages := a.pages.filter (fun p => p ≠ vpage) } := by
    rw [answeredPage, ha]
    exact if_congr (by simp) rfl rfl
  unfold pageMapped
  dsimp only
  rw [if_pos (hwaits _)]
  split
  · rw [resumeTime_frame]
    exact hanswer _
  · exact hanswer _

/-- What a fault on a declined page ends: its launch, if that has not failed already. -/
def declineOne (tenant context : BitVec 16) (s : State) (f : PageFault) : State :=
  if (launchOf s (BitVec.ofNat 6 f.owner.item.1) f.owner.item.2.1).any (fun l => !l.failed) then
    endLaunch s (BitVec.ofNat 6 f.owner.item.1) f.owner.item.2.1 tenant context f.report
  else s

theorem pageDeclined_eq (s : State) (tenant context : BitVec 16) (vpage : BitVec 40) : pageDeclined s tenant context vpage =
    (s.pageFaults.filter (fun f => onPage f tenant context vpage)).foldl (declineOne tenant context) s := rfl

theorem declineOne_drops (tenant context : BitVec 16) (s : State) (f : PageFault) : DropsOnly s (declineOne tenant context s f) := by
  unfold declineOne
  split
  · exact .endLaunch ..
  · exact .refl s

theorem declineOne_launches (tenant context : BitVec 16) (s : State) (f : PageFault) : LaunchesFail s (declineOne tenant context s f) := by
  unfold declineOne
  split
  · exact (endLaunch_fails ..).1
  · exact .refl s

theorem declineOne_fails {tenant context : BitVec 16} {s : State} {f : PageFault} {l : Launch}
    (h : launchOf (declineOne tenant context s f) (BitVec.ofNat 6 f.owner.item.1) f.owner.item.2.1 = some l) : l.failed = true := by
  unfold declineOne at h
  split at h
  · exact (endLaunch_fails ..).2 l h
  · next hf =>
    rw [h] at hf
    simpa using hf

theorem pageDeclined_drops (s : State) (tenant context : BitVec 16) (vpage : BitVec 40) :
    DropsOnly s (pageDeclined s tenant context vpage) := .foldl (declineOne_drops tenant context) _ s

/-- A declined page ends the launch of every fault on it. -/
theorem pageDeclined_fails {s : State} {tenant context : BitVec 16} {vpage : BitVec 40} {f : PageFault} (hf : f ∈ s.pageFaults)
    (hon : onPage f tenant context vpage = true) {l : Launch} (hl : launchOf s (BitVec.ofNat 6 f.owner.item.1) f.owner.item.2.1 = some l) :
    ∃ l', launchOf (pageDeclined s tenant context vpage) (BitVec.ofNat 6 f.owner.item.1) f.owner.item.2.1 = some l' ∧ l'.failed = true := by
  obtain ⟨l', hl', -⟩ := (pageDeclined_drops s tenant context vpage).2.2 _ _ l hl
  refine ⟨l', hl', ?_⟩
  obtain ⟨xs, ys, hsplit⟩ := List.append_of_mem (List.mem_filter (p := fun f => onPage f tenant context vpage).2 ⟨hf, hon⟩)
  rw [pageDeclined_eq, hsplit, List.foldl_append, List.foldl_cons] at hl'
  obtain ⟨l1, hl1, hkept⟩ := (LaunchesFail.foldl (declineOne_launches tenant context) ys _).2 _ _ l' hl'
  exact hkept (declineOne_fails hl1)

end Sys2Proof.Machine
end

section
/-! SUPPORT. Management requests that set what firmware keeps: R458; of O54. -/

namespace Sys2Proof.Machine

/-! ## Requests that set what firmware keeps (R458) -/

section
variable {s : State} {m : MgmtHead} {i : Instr} {code : BitVec 8} {more : State → List Byte} {f : State → State} {p : State → Prop}
  [DecidablePred p] (hturn : InTurn s m) (hf : ∀ u, (f u).counters = u.counters)
include hturn hf

theorem request_sets (hexec : exec i s = request s m code (fun s => some (f s)) more) :
    RequestBecomes s m i (mgmtAnswer (f (requestTaken s m)) m.host code 0 (more (requestTaken s m))) := by
  have hkept (u : State) : CountersKept (fun s => some (f s)) u := fun t ht => Option.some.inj ht ▸ hf u
  exact request_done hturn hexec (hkept _) (hkept _) rfl

theorem request_sets_unless (hexec : exec i s = request s m code (fun s => if p s then none else some (f s)) more) :
    (¬ p (requestTaken s m) → RequestBecomes s m i (mgmtAnswer (f (requestTaken s m)) m.host code 0 (more (requestTaken s m))))
    ∧ (p (requestTaken s m) → ∃ x, x ≠ 0 ∧ RequestBecomes s m i (mgmtAnswer (requestTaken s m) m.host code x)) := by
  have hkept (u : State) : CountersKept (fun s => if p s then none else some (f s)) u := by
    intro t ht
    dsimp only at ht
    split at ht
    · cases ht
    · exact Option.some.inj ht ▸ hf u
  exact ⟨fun h => request_done hturn hexec (hkept _) (hkept _) (if_neg h),
    fun h => request_refused hturn hexec (hkept _) (hkept _) (if_pos h)⟩

theorem request_sets_if (hexec : exec i s = request s m code (fun s => if p s then some (f s) else none) more) :
    (p (requestTaken s m) → RequestBecomes s m i (mgmtAnswer (f (requestTaken s m)) m.host code 0 (more (requestTaken s m))))
    ∧ (¬ p (requestTaken s m) → ∃ x, x ≠ 0 ∧ RequestBecomes s m i (mgmtAnswer (requestTaken s m) m.host code x)) := by
  have hkept (u : State) : CountersKept (fun s => if p s then some (f s) else none) u := by
    intro t ht
    dsimp only at ht
    split at ht
    · exact Option.some.inj ht ▸ hf u
    · cases ht
  exact ⟨fun h => request_done hturn hexec (hkept _) (hkept _) (if_pos h),
    fun h => request_refused hturn hexec (hkept _) (hkept _) (if_neg h)⟩

end

theorem beforeLaunch_iff (s : State) : beforeLaunch s = true ↔ ∀ p ∈ s.queues, p.2.accepted = 0 := by
  simp [beforeLaunch]

section
variable {s : State} {m : MgmtHead} (hturn : InTurn s m)
include hturn

theorem mgmtSetDevid_becomes (dev : BitVec 18) :
    ((∀ p ∈ s.queues, p.2.accepted = 0) → RequestBecomes s m (.mgmtSetDevid m dev)
      (mgmtAnswer { requestTaken s m with devid := dev } m.host 0x01 0 []))
    ∧ ((¬ ∀ p ∈ s.queues, p.2.accepted = 0) → ∃ x, x ≠ 0 ∧ RequestBecomes s m (.mgmtSetDevid m dev)
      (mgmtAnswer (requestTaken s m) m.host 0x01 x)) := by
  have h := request_sets_if (p := fun s => beforeLaunch s = true) (f := fun s => { s with devid := dev })
    (more := fun _ => []) hturn (fun _ => rfl) exec_mgmtSetDevid
  rwa [beforeLaunch_iff] at h

theorem mgmtWritePseed_becomes (seed : Word) : RequestBecomes s m (.mgmtWritePseed m seed) (mgmtAnswer { requestTaken s m with
    pseed := seed, pseedWas := some (s.cycle, pseedNow s) } m.host 0x02 0 []) :=
  request_sets (f := fun s => { s with pseed := seed, pseedWas := some (s.cycle, pseedNow s) }) (more := fun _ => []) hturn
    (fun _ => rfl) exec_mgmtWritePseed

/-- What MGMT_TENANT sets, if it is done. -/
def tenantDone (tenant : BitVec 16) (create : Bool) (weight : BitVec 8) (s : State) : Option State :=
  if tenant = 0 then none
  else if !create then some { s with
    tenants := s.tenants.filter (fun t => t.id ≠ tenant), translator := s.translator.filter (fun e => e.tenant ≠ tenant) }
  else if weight = 0 then none
  else some { s with tenants := s.tenants.filter (fun t => t.id ≠ tenant)
    ++ [{ (s.tenants.find? (fun t => t.id = tenant)).getD { id := tenant } with weight := weight }] }

omit hturn in
theorem exec_mgmtTenant_eq (tenant : BitVec 16) (create : Bool) (weight : BitVec 8) : exec (.mgmtTenant m tenant create weight) s =
    request s m 0x03 (tenantDone tenant create weight) (fun _ => []) := exec_mgmtTenant

omit hturn in
theorem tenantDone_kept (tenant : BitVec 16) (create : Bool) (weight : BitVec 8) (u : State) :
    CountersKept (tenantDone tenant create weight) u := by
  intro t h
  unfold tenantDone at h
  split at h
  · cases h
  · split at h
    · cases h; rfl
    · split at h
      · cases h
      · cases h; rfl

theorem mgmtTenant_done {tenant : BitVec 16} {create : Bool} {weight : BitVec 8} {t : State}
    (h : tenantDone tenant create weight (requestTaken s m) = some t) :
    RequestBecomes s m (.mgmtTenant m tenant create weight) (mgmtAnswer t m.host 0x03 0 []) :=
  request_done (more := fun _ => []) hturn (exec_mgmtTenant_eq ..) (tenantDone_kept tenant create weight _) (tenantDone_kept tenant create weight _) h

theorem mgmtTenant_refused {tenant : BitVec 16} {create : Bool} {weight : BitVec 8}
    (h : tenantDone tenant create weight (requestTaken s m) = none) :
    ∃ x, x ≠ 0 ∧ RequestBecomes s m (.mgmtTenant m tenant create weight) (mgmtAnswer (requestTaken s m) m.host 0x03 x) :=
  request_refused hturn (exec_mgmtTenant_eq ..) (tenantDone_kept tenant create weight _) (tenantDone_kept tenant create weight _) h

theorem mgmtAssignQueue_becomes (q : BitVec 6) (tenant : BitVec 16) : RequestBecomes s m (.mgmtAssignQueue m q tenant)
    (mgmtAnswer (setQueue (requestTaken s m) q { queueOf s q with tenant := tenant }) m.host 0x04 0 []) :=
  request_sets (f := fun s => setQueue s q { queueOf s q with tenant := tenant }) (more := fun _ => []) hturn (fun _ => rfl)
    exec_mgmtAssignQueue

theorem mgmtAccessTable_becomes (target : Target) (index : BitVec 10) (e : Word) : RequestBecomes s m (.mgmtAccessTable m target index e)
    (mgmtAnswer { requestTaken s m with
      access := sset 0 s.access (1024 * targetNum target + index.toNat) (e &&& 0xFFFFFFFF007F0001#64)
      accessWas := some (s.cycle, accessNow s) } m.host 0x05 0 []) :=
  request_sets (f := fun s => { s with
      access := sset 0 s.access (1024 * targetNum target + index.toNat) (e &&& 0xFFFFFFFF007F0001#64)
      accessWas := some (s.cycle, accessNow s) }) (more := fun _ => []) hturn (fun _ => rfl) exec_mgmtAccessTable

theorem mgmtCreateContext_becomes (tenant context : BitVec 16) (root : BitVec 52) (n : Nat) :
    let bad : Prop := tenant = 0 ∨ root.toNat % 4096 ≠ 0 ∨ !isMemory root.toNat ∨ (contextOf s tenant context).isSome
    (¬ bad → RequestBecomes s m (.mgmtCreateContext m tenant context root n) (mgmtAnswer { requestTaken s m with
      contexts := s.contexts ++ [⟨tenant, context, root.toNat, n⟩] } m.host 0x06 0 []))
    ∧ (bad → ∃ x, x ≠ 0 ∧ RequestBecomes s m (.mgmtCreateContext m tenant context root n)
      (mgmtAnswer (requestTaken s m) m.host 0x06 x)) :=
  request_sets_unless (p := fun s => tenant = 0 ∨ root.toNat % 4096 ≠ 0 ∨ !isMemory root.toNat ∨ (contextOf s tenant context).isSome)
    (f := fun s => { s with contexts := s.contexts ++ [⟨tenant, context, root.toNat, n⟩] }) (more := fun _ => []) hturn (fun _ => rfl)
    exec_mgmtCreateContext

omit hturn in
theorem pagesAnswered_counters (u : State) (tenant context : BitVec 16) (vpage : BitVec 40) (mapped : Bool) :
    (pagesAnswered u tenant context vpage mapped).counters = u.counters := by
  cases mapped with
  | true => rfl
  | false => exact (pageDeclined_drops u tenant context vpage).counters

theorem mgmtPageFaultAnswer_becomes (tenant context : BitVec 16) (vpage : BitVec 40) (mapped : Bool) :
    RequestBecomes s m (.mgmtPageFaultAnswer m tenant context vpage mapped)
      (mgmtAnswer (pagesAnswered (requestTaken s m) tenant context vpage mapped) m.host 0x07 0 []) :=
  request_sets (f := fun s => pagesAnswered s tenant context vpage mapped) (more := fun _ => []) hturn
    (fun u => pagesAnswered_counters u tenant context vpage mapped) exec_mgmtPageFaultAnswer

/-- What MGMT_PREEMPT does, if it is done. -/
def preemptDone (q : BitVec 6) (o : Nat) (kind : PreemptKind) (s : State) : Option State :=
  if (launchOf s q o).isNone then none
  else match kind with
  | .boundary => some (holdLaunch s q o .host)
  | .midItem => some (preemptMid s q o .host (fun _ => true))
  | .resume => some (resumeLaunch s q o)

omit hturn in
theorem exec_mgmtPreempt_eq (q : BitVec 6) (o : Nat) (kind : PreemptKind) : exec (.mgmtPreempt m q o kind) s =
    request s m 0x08 (preemptDone q o kind) (fun _ => []) := exec_mgmtPreempt

theorem mgmtPreempt_refused {q : BitVec 6} {o : Nat} (kind : PreemptKind) (h : launchOf s q o = none) :
    ∃ x, x ≠ 0 ∧ RequestBecomes s m (.mgmtPreempt m q o kind) (mgmtAnswer (requestTaken s m) m.host 0x08 x) := by
  have hnone {u : State} (hu : launchOf u q o = none) : preemptDone q o kind u = none := if_pos (by rw [hu]; rfl)
  have hkept {u : State} (hu : launchOf u q o = none) : CountersKept (preemptDone q o kind) u :=
    fun t ht => absurd (ht.symm.trans (hnone hu)) (Option.some_ne_none t)
  exact request_refused hturn (exec_mgmtPreempt_eq ..) (hkept h) (hkept h) (hnone h)

theorem mgmtPreempt_done {q : BitVec 6} {o : Nat} {kind : PreemptKind} {r : State → State}
    (hr : ∀ u, (launchOf u q o).isNone = false → preemptDone q o kind u = some (r u)) (h : (launchOf s q o).isNone = false)
    (h0 : (r s).counters = s.counters) (h1 : (r (requestTaken s m)).counters = s.counters) :
    RequestBecomes s m (.mgmtPreempt m q o kind) (mgmtAnswer (r (requestTaken s m)) m.host 0x08 0 []) := by
  have hkept {u : State} (hu : (launchOf u q o).isNone = false) (hc : (r u).counters = u.counters) : CountersKept (preemptDone q o kind) u :=
    fun t ht => Option.some.inj ((hr u hu).symm.trans ht) ▸ hc
  exact request_done (more := fun _ => []) hturn (exec_mgmtPreempt_eq ..) (hkept h h0) (hkept h h1) (hr _ h)

theorem mgmtAttestation_becomes (nonce : BitVec 256) (tenant : BitVec 16) : RequestBecomes s m (.mgmtAttestation m nonce tenant)
    (mgmtAnswer (requestTaken s m) m.host 0x0A 0
      (attestReport s nonce tenant ++ Config.mldsaSign (sha3 (attestReport s nonce tenant)))) :=
  request_sets (f := fun s => s) (more := fun s => attestReport s nonce tenant ++ Config.mldsaSign (sha3 (attestReport s nonce tenant)))
    hturn (fun _ => rfl) exec_mgmtAttestation

theorem mgmtPowerCap_becomes (w : Nat) :
    (¬ (w < 400 ∨ 1250 < w) → RequestBecomes s m (.mgmtPowerCap m w)
      (mgmtAnswer { requestTaken s m with mgmt := { s.mgmt with cap := w } } m.host 0x0B 0 []))
    ∧ ((w < 400 ∨ 1250 < w) → ∃ x, x ≠ 0 ∧ RequestBecomes s m (.mgmtPowerCap m w) (mgmtAnswer (requestTaken s m) m.host 0x0B x)) :=
  request_sets_unless (p := fun _ => w < 400 ∨ 1250 < w) (f := fun s => { s with mgmt := { s.mgmt with cap := w } })
    (more := fun _ => []) hturn (fun _ => rfl) exec_mgmtPowerCap

theorem mgmtQueryQueue_becomes (die : Bool) (q : BitVec 5) (tenant : BitVec 16) (n : Nat) :
    RequestBecomes s m (.mgmtQueryQueue m die q tenant n) (mgmtAnswer (putQueue (requestTaken s m) (dieFin die) q
      { queueAt s.kv[dieFin die] q with tenant := tenant, capacity := n }) m.host 0x0F 0 []) :=
  request_sets (f := fun s => putQueue s (dieFin die) q { queueAt s.kv[dieFin die] q with tenant := tenant, capacity := n })
    (more := fun _ => []) hturn (fun _ => rfl) exec_mgmtQueryQueue

/-- What MGMT_LINK_PARAMETERS sets, if it is done. -/
def linkDone (port : PortId) (k : BitVec 16) (n : Nat) (vlan : Option (BitVec 12)) (s : State) : Option State :=
  if k = 0 then none
  else match port with
  | .ethernet =>
    if n < 100 ∨ 1000000 < n then none
    else some { s with port := { s.port with backoff := k, retransmit := n, vlan := vlan } }
  | .chain c => some { s with chains := s.chains.set c.toNat { s.chains[c.toNat] with backoff := k, retransmit := n } }
  | .ucie c => (s.ucie[c.toNat]?).map (fun l => { s with ucie := s.ucie.setIfInBounds c.toNat { l with backoff := k } })

omit hturn in
theorem exec_mgmtLinkParameters_eq (port : PortId) (k : BitVec 16) (n : Nat) (vlan : Option (BitVec 12)) :
    exec (.mgmtLinkParameters m port k n vlan) s = request s m 0x10 (linkDone port k n vlan) (fun _ => []) :=
  exec_mgmtLinkParameters

omit hturn in
theorem linkDone_kept (port : PortId) (k : BitVec 16) (n : Nat) (vlan : Option (BitVec 12)) (u : State) :
    CountersKept (linkDone port k n vlan) u := by
  intro t h
  unfold linkDone at h
  split at h
  · cases h
  · split at h
    · split at h
      · cases h
      · cases h; rfl
    · cases h; rfl
    · obtain ⟨l, -, rfl⟩ := Option.map_eq_some_iff.1 h
      rfl

theorem mgmtLinkParameters_done {port : PortId} {k : BitVec 16} {n : Nat} {vlan : Option (BitVec 12)} {t : State}
    (h : linkDone port k n vlan (requestTaken s m) = some t) :
    RequestBecomes s m (.mgmtLinkParameters m port k n vlan) (mgmtAnswer t m.host 0x10 0 []) :=
  request_done (more := fun _ => []) hturn (exec_mgmtLinkParameters_eq ..) (linkDone_kept port k n vlan _) (linkDone_kept port k n vlan _) h

theorem mgmtLinkParameters_refused {port : PortId} {k : BitVec 16} {n : Nat} {vlan : Option (BitVec 12)}
    (h : linkDone port k n vlan (requestTaken s m) = none) :
    ∃ x, x ≠ 0 ∧ RequestBecomes s m (.mgmtLinkParameters m port k n vlan) (mgmtAnswer (requestTaken s m) m.host 0x10 x) :=
  request_refused hturn (exec_mgmtLinkParameters_eq ..) (linkDone_kept port k n vlan _) (linkDone_kept port k n vlan _) h

theorem mgmtPinPartition_becomes (n : Nat) :
    let okay : Prop := (beforeLaunch s && (n = 0 || n = 4 || n = 8)) = true
    (okay → RequestBecomes s m (.mgmtPinPartition m n) (mgmtAnswer { requestTaken s m with pinWays := n } m.host 0x11 0 []))
    ∧ (¬ okay → ∃ x, x ≠ 0 ∧ RequestBecomes s m (.mgmtPinPartition m n) (mgmtAnswer (requestTaken s m) m.host 0x11 x)) :=
  request_sets_if (p := fun s => (beforeLaunch s && (n = 0 || n = 4 || n = 8)) = true) (f := fun s => { s with pinWays := n })
    (more := fun _ => []) hturn (fun _ => rfl) exec_mgmtPinPartition

theorem mgmtSpillGrant_becomes (g : Option (Word × Nat)) : RequestBecomes s m (.mgmtSpillGrant m g)
    (mgmtAnswer { requestTaken s m with mgmt := { s.mgmt with spill := g } } m.host 0x12 0 []) :=
  request_sets (f := fun s => { s with mgmt := { s.mgmt with spill := g } }) (more := fun _ => []) hturn (fun _ => rfl)
    exec_mgmtSpillGrant

theorem mgmtSigningKeys_becomes (tenant : BitVec 16) (key : BitVec 256) (enrol : Bool) (n : Nat) :
    (¬ (s.tenants.find? (fun t => t.id = tenant)).isNone = true → RequestBecomes s m (.mgmtSigningKeys m tenant key enrol n)
      (mgmtAnswer { requestTaken s m with tenants := s.tenants.map (fun t =>
        if t.id = tenant then
          { t with keys := if enrol then t.keys.filter (fun k => k ≠ key) ++ [key] else t.keys.filter (fun k => k ≠ key), quota := n }
        else t) } m.host 0x13 0 []))
    ∧ ((s.tenants.find? (fun t => t.id = tenant)).isNone = true → ∃ x, x ≠ 0 ∧
      RequestBecomes s m (.mgmtSigningKeys m tenant key enrol n) (mgmtAnswer (requestTaken s m) m.host 0x13 x)) :=
  request_sets_unless (p := fun s => (s.tenants.find? (fun t => t.id = tenant)).isNone = true) (f := fun s => { s with tenants := s.tenants.map (fun t =>
        if t.id = tenant then
          { t with keys := if enrol then t.keys.filter (fun k => k ≠ key) ++ [key] else t.keys.filter (fun k => k ≠ key), quota := n }
        else t) }) (more := fun _ => []) hturn (fun _ => rfl) exec_mgmtSigningKeys

end

end Sys2Proof.Machine
end

section
/-! SUPPORT. Management requests on page tables: R108 to R112, R122; of O54. -/

namespace Sys2Proof.Machine

/-! ## Mappings (R108 to R112, R122) -/

theorem homeWrite_stores (s : State) (pa : Nat) (bs : List Byte) (mem : Bool) :
    homeOnly s (homeWrite s pa bs mem).1 ∧ storesMemory s (homeWrite s pa bs mem).1 pa bs := by
  rw [homeWrite_eq]
  exact storesMemory_writeMem (quiet_tagSteps mem (linesOf pa bs.length) (s, none)) pa bs

/-- Nothing differs but what `homeOnly` allows and the loaded class pages. -/
def pagesOnly (s t : State) : Prop := homeOnly { s with classPages := t.classPages } t

theorem pagesOnly_trans {s t u : State} (h1 : pagesOnly s t) (h2 : pagesOnly t u) : pagesOnly s u := by
  unfold pagesOnly homeOnly at *
  rw [h2, h1]

theorem pagesOnly_of_homeOnly {s t : State} (h : homeOnly s t) : pagesOnly s t := by
  unfold pagesOnly homeOnly at *
  rw [h]

theorem homeOnly_evictLines (ls : List Nat) (s : State) : homeOnly s (ls.foldl evictLine s) := by
  induction ls generalizing s with
  | nil => exact homeOnly_refl s
  | cons l ls ih => exact homeOnly_trans (touched_evictLine s l).quiet.1 (ih _)

theorem pagesOnly_unloadClass (s : State) (l : Leaf) : pagesOnly s (unloadClass s l) := by
  unfold unloadClass
  dsimp only
  split
  · exact homeOnly_refl s
  · split
    · exact homeOnly_refl _
    · exact pagesOnly_trans (t := { s with classPages := s.classPages.filter (fun x => x ≠ l) }) (homeOnly_refl _)
        (pagesOnly_of_homeOnly (homeOnly_evictLines ..))

theorem unloadClass_absent {s : State} {l : Leaf} (h : classLoaded s l = false) : unloadClass s l = s := by
  unfold unloadClass
  dsimp only
  exact if_pos (by rw [h]; rfl)

theorem pagesOnly_unloads (ls : List Leaf) (s : State) : pagesOnly s (ls.foldl unloadClass s) := by
  induction ls generalizing s with
  | nil => exact homeOnly_refl s
  | cons l ls ih => exact pagesOnly_trans (pagesOnly_unloadClass s l) (ih _)

theorem pagesOnly.itemSlots {s t : State} (h : pagesOnly s t) : itemSlots t = itemSlots s := by
  unfold pagesOnly homeOnly at h
  rw [h]
  rfl

theorem pagesOnly.shootdowns {s t : State} (h : pagesOnly s t) : t.shootdowns = s.shootdowns := by
  unfold pagesOnly homeOnly at h
  rw [h]

theorem pagesOnly.nextJob {s t : State} (h : pagesOnly s t) : nextJob t = nextJob s := by
  rw [Machine.nextJob, Machine.nextJob, h.shootdowns]

section
variable {s : State} {host : BitVec 18} {code : BitVec 8} {more : List Byte} {gone : List (Leaf × Nat)}

theorem replaceLeaves_unreached (h : gone = [] ∨ itemSlots s = []) : replaceLeaves s host code more gone =
    mgmtAnswer (dropL1 (gone.foldl (fun s l => unloadClass s l.1) s) (gone.map (fun l => l.1))) host code 0 more := by
  have hpages : pagesOnly s (gone.foldl (fun s l => unloadClass s l.1) s) := by
    rw [← List.foldl_map]
    exact pagesOnly_unloads ..
  refine if_pos (h.imp (fun h => List.isEmpty_iff.2 h) fun h => List.isEmpty_iff.2 ?_)
  rw [hpages.itemSlots, h]

theorem replaceLeaves_reached (h : gone ≠ []) (hs : itemSlots s ≠ []) : replaceLeaves s host code more gone =
    { gone.foldl (fun s l => unloadClass s l.1) s with
      shootdowns := s.shootdowns ++ gone.map (fun l =>
        { old := l.1, unreached := itemSlots s, entry := l.2, host := host, code := code, more := more, job := nextJob s }) } := by
  have hpages : pagesOnly s (gone.foldl (fun s l => unloadClass s l.1) s) := by
    rw [← List.foldl_map]
    exact pagesOnly_unloads ..
  rw [replaceLeaves]
  dsimp only
  rw [if_neg, hpages.itemSlots, hpages.shootdowns, hpages.nextJob]
  rw [hpages.itemSlots]
  simp [h, hs]

end

/-! ## Firmware may read and write every line -/

/-- No bucket is on the move and no link is in training. -/
def calm (s : State) : Prop :=
  (∀ d : Fin 2, s.moves[d] = none) ∧ (∀ n, lineHeld s n = false) ∧ ∀ n : Fin 5, s.ucie[n].training = false

theorem calm.runs {s : State} (h : calm s) (lines : State → List Nat) (run : State → State) : RequestRuns lines run s := by
  refine ⟨fun n _ => ?_, writesHeld_of_still h.1 _⟩
  rw [canSend, h.2.1 n]
  refine Bool.and_eq_true_iff.2 ⟨rfl, List.all_eq_true.2 fun l _ => ?_⟩
  rw [h.2.2 (linkNum l)]
  rfl

section
variable {s : State} {m : MgmtHead} (hturn : InTurn s m) (hcalm : calm s)
include hturn hcalm

theorem request_calm {i : Instr} {code : BitVec 8} {lines : State → List Nat} {run : State → State}
    (hexec : exec i s = requestRun s m code lines run) : RequestBecomes s m i (run (requestTaken s m)) :=
  requestBecomes_run hturn hexec (hcalm.runs lines run) (calm.runs (s := requestTaken s m) hcalm lines run)

theorem mgmtPackageReset_becomes : RequestBecomes s m (.mgmtPackageReset m) { powerGood (mgmtAnswer (requestTaken s m) m.host 0x0C 0) with
    port := { (powerGood (mgmtAnswer (requestTaken s m) m.host 0x0C 0)).port with
      wire := (mgmtAnswer (requestTaken s m) m.host 0x0C 0).port.wire } } := by
  have h := (exec_mgmtPackageReset (m := m) (s := s)).trans rfl
  exact request_calm (lines := fun _ => []) (run := fun s => { powerGood (mgmtAnswer s m.host 0x0C 0) with
    port := { (powerGood (mgmtAnswer s m.host 0x0C 0)).port with wire := (mgmtAnswer s m.host 0x0C 0).port.wire } }) hturn hcalm h

theorem mgmtMapPages_becomes (tenant context : BitVec 16) (va : BitVec 56) (e : BitVec 128) :
    RequestBecomes s m (.mgmtMapPages m tenant context va e)
      (laterDone (requestTaken s m) m 0x0D (mapPages (requestTaken s m) m.host tenant context va.toNat e.toNat)) :=
  request_calm (run := fun s => laterDone s m 0x0D (mapPages s m.host tenant context va.toNat e.toNat)) hturn hcalm
    exec_mgmtMapPages

theorem mgmtMigrate_becomes (tenant context : BitVec 16) (va : BitVec 56) (pa : BitVec 52) :
    RequestBecomes s m (.mgmtMigrate m tenant context va pa)
      (laterDone (requestTaken s m) m 0x0E (migrate (requestTaken s m) m.host tenant context va.toNat pa.toNat)) :=
  request_calm (run := fun s => laterDone s m 0x0E (migrate s m.host tenant context va.toNat pa.toNat)) hturn hcalm
    exec_mgmtMigrate

theorem mgmtLoadObject_becomes (tenant context : BitVec 16) (va dest : BitVec 56) (len : Nat) (pa : BitVec 52) (kind : BitVec 8) :
    RequestBecomes s m (.mgmtLoadObject m tenant context va dest len pa kind)
      (loadObject (requestTaken s m) m tenant context va.toNat dest.toNat len pa.toNat kind) :=
  request_calm (run := fun s => loadObject s m tenant context va.toNat dest.toNat len pa.toNat kind) hturn hcalm
    exec_mgmtLoadObject

omit hturn hcalm in
/-- A request that is not done is answered with a status that is not 0. -/
theorem later_refused {i : Instr} {code : BitVec 8} {done : Option State} (h : RequestBecomes s m i (laterDone (requestTaken s m) m code done))
    (hnone : done = none) : ∃ x, x ≠ 0 ∧ RequestBecomes s m i (mgmtAnswer (requestTaken s m) m.host code x) := by
  subst hnone
  obtain ⟨x, hx, he⟩ := answered_none (requestTaken s m) m code []
  exact ⟨x, hx, by rwa [laterDone, he] at h⟩

end

end Sys2Proof.Machine
end

section
/-! SUPPORT. Page-fault answers and page-table requests: R122, R434; of O54. -/

namespace Sys2Proof.Machine

/-! ## Answers (R456) -/

theorem mgmtAnswer_frame (t : State) (host : BitVec 18) (code : BitVec 8) (st : BitVec 32) (more : List Byte) :
    ∃ f, mgmtAnswer t host code st more = sendFrame t f
        ∧ f.kind = 10 ∧ f.hs = false ∧ f.hd = true ∧ f.src = t.devid ∧ f.dst = host ∧ f.aux = code.setWidth 32
        ∧ f.payload.take 4 = bytesOf 4 st.toNat ∧ (f.payload.drop 4).take more.length = more ∧ f.payload.length % 16 = 0 := by
  have hlen : (bytesOf 4 st.toNat).length = 4 := Laws.bytesOf_length ..
  refine ⟨_, rfl, rfl, rfl, rfl, rfl, rfl, rfl, ?_, ?_, ?_⟩
  · simp only [hostFrame, padFrame, List.append_assoc]
    exact List.take_left' hlen
  · simp only [hostFrame, padFrame, List.append_assoc]
    rw [List.drop_left' hlen]
    exact List.take_left' rfl
  · simp only [hostFrame, padFrame, List.length_append, List.length_replicate, hlen]
    omega

section
variable {s : State} {m : MgmtHead} (hturn : InTurn s m)
include hturn

theorem pageFault_mapped (tenant context : BitVec 16) (vpage : BitVec 40) :
    ∃ r, RequestBecomes s m (.mgmtPageFaultAnswer m tenant context vpage true) (mgmtAnswer r m.host 0x07 0 []) ∧ r.mem = s.mem
      ∧ r.pageFaults = s.pageFaults.filter (fun f => !onPage f tenant context vpage)
      ∧ ∀ c t a, slotOf s c = some t → t.answer = some a → a.tenant = tenant → a.context = context → vpage ∈ a.pages →
        ∃ u, slotOf r c = some u ∧ u.ctl = t.ctl ∧ u.g = t.g
          ∧ u.answer = if (∀ p ∈ a.pages, p = vpage) then none
              else some { a with pages := a.pages.filter (fun p => p ≠ vpage) } := by
  refine ⟨_, mgmtPageFaultAnswer_becomes hturn tenant context vpage true, rfl, rfl, fun c t a ht ha hten hcon hv => ?_⟩
  obtain ⟨b, hb⟩ : ∃ b : State, b = { requestTaken s m with pageFaults := s.pageFaults.filter (fun f => !onPage f tenant context vpage) } :=
    ⟨_, rfl⟩
  have hid (u : Slot) : (pageMapped b tenant context vpage u).id = u.id := by
    obtain ⟨w, o, z, a, hu⟩ := pageMapped_frame b tenant context vpage u
    rw [hu]
  have hslot : slotOf (mapSlots b (pageMapped b tenant context vpage)) c = some (pageMapped b tenant context vpage t) := by
    rw [slotOf_mapSlots hid, hb, ← Option.map_some]
    exact congrArg (Option.map _) ht
  obtain ⟨w, o, z, x, hu⟩ := pageMapped_frame b tenant context vpage t
  refine ⟨pageMapped b tenant context vpage t, hb ▸ hslot, by rw [hu], by rw [hu], pageMapped_answer ha hten hcon hv⟩

theorem pageFault_declined (tenant context : BitVec 16) (vpage : BitVec 40) :
    ∃ r, RequestBecomes s m (.mgmtPageFaultAnswer m tenant context vpage false) (mgmtAnswer r m.host 0x07 0 []) ∧ r.mem = s.mem
      ∧ (∀ f ∈ r.pageFaults, onPage f tenant context vpage = false)
      ∧ ∀ f ∈ s.pageFaults, onPage f tenant context vpage = true →
        ∀ l, launchOf s (BitVec.ofNat 6 f.owner.item.1) f.owner.item.2.1 = some l →
          ∃ l', launchOf r (BitVec.ofNat 6 f.owner.item.1) f.owner.item.2.1 = some l' ∧ l'.failed = true := by
  refine ⟨_, mgmtPageFaultAnswer_becomes hturn tenant context vpage false,
    (pageDeclined_drops (requestTaken s m) tenant context vpage).mem, fun f hf => ?_, fun f hf hon l hl => ?_⟩
  · have hf := (List.mem_filter.1 hf).2
    simpa using hf
  · exact pageDeclined_fails (s := requestTaken s m) hf hon hl

variable (hcalm : calm s)
include hcalm

theorem mapPages_done {tenant context : BitVec 16} {va : BitVec 56} {e : BitVec 128} {c : Context} {level : Nat} {s1 : State} {a : Nat}
    (hc : contextOf s tenant context = some c)
    (hlevel : requestLevel e.toNat (leafAt (requestTaken s m) tenant context va.toNat c.root [0, 1, 2, 3, 4]) = some level)
    (hleaf : leafWith (requestTaken s m) va.toNat level c.root [0, 1, 2, 3, 4] = some (s1, a)) :
    ∃ r, homeOnly s1 r ∧ storesMemory s1 r a (bytesOf 16 e.toNat)
      ∧ let gone := leavesOf s1 tenant context va.toNat level a
        let t := gone.foldl unloadClass r
        ((gone = [] ∨ itemSlots s1 = []) → RequestBecomes s m (.mgmtMapPages m tenant context va e) (mgmtAnswer
          { t with l1 := t.l1.filter (fun y => !gone.any (fun l => inLeafMemory l (128 * y.line))) } m.host 0x0D 0 []))
        ∧ (gone ≠ [] → itemSlots s1 ≠ [] → RequestBecomes s m (.mgmtMapPages m tenant context va e) { t with
            shootdowns := s1.shootdowns ++ gone.map (fun l =>
              { old := l, unreached := itemSlots s1, entry := a, host := m.host, code := 0x0D, job := nextJob s1 }) }) := by
  obtain ⟨hhome, hstores⟩ := homeWrite_stores s1 a (bytesOf 16 e.toNat) false
  have hpages := pagesOnly_of_homeOnly hhome
  have hmap : mapPages (requestTaken s m) m.host tenant context va.toNat e.toNat = some
      (replaceLeaves (homeWrite s1 a (bytesOf 16 e.toNat)).1 m.host 0x0D []
        ((leavesOf s1 tenant context va.toNat level a).map (fun l => (l, a)))) := by
    have hc' : contextOf (requestTaken s m) tenant context = some c := hc
    rw [mapPages, hc', Option.bind_some, hlevel, Option.bind_some, hleaf, Option.map_some]
  have hbecomes := mgmtMapPages_becomes hturn hcalm tenant context va e
  rw [hmap, laterDone] at hbecomes
  refine ⟨_, hhome, hstores, fun h => ?_, fun hne hs => ?_⟩
  · rw [replaceLeaves_unreached (h.imp (fun h => by rw [h]; rfl) fun h => hpages.itemSlots.trans h), List.foldl_map, List.map_map] at hbecomes
    have hfst : (leavesOf s1 tenant context va.toNat level a).map ((fun l : Leaf × Nat => l.1) ∘ fun l => (l, a))
        = leavesOf s1 tenant context va.toNat level a := List.map_id' _
    rwa [hfst] at hbecomes
  · rw [replaceLeaves_reached (by simpa using hne) (by rwa [hpages.itemSlots]), hpages.itemSlots, hpages.shootdowns, hpages.nextJob,
      List.foldl_map, List.map_map] at hbecomes
    exact hbecomes

theorem mapPages_refused {tenant context : BitVec 16} {va : BitVec 56} {e : BitVec 128} {c : Context}
    (hc : contextOf s tenant context = some c)
    (h : requestLevel e.toNat (leafAt (requestTaken s m) tenant context va.toNat c.root [0, 1, 2, 3, 4]) = none
      ∨ ∃ level, requestLevel e.toNat (leafAt (requestTaken s m) tenant context va.toNat c.root [0, 1, 2, 3, 4]) = some level
        ∧ leafWith (requestTaken s m) va.toNat level c.root [0, 1, 2, 3, 4] = none) :
    ∃ x, x ≠ 0 ∧ RequestBecomes s m (.mgmtMapPages m tenant context va e) (mgmtAnswer (requestTaken s m) m.host 0x0D x) := by
  refine later_refused (mgmtMapPages_becomes hturn hcalm tenant context va e) ?_
  have hc' : contextOf (requestTaken s m) tenant context = some c := hc
  rw [mapPages, hc', Option.bind_some]
  rcases h with hnone | ⟨level, hlevel, hnone⟩
  · rw [hnone, Option.bind_none]
  · rw [hlevel, Option.bind_some, hnone, Option.map_none]

theorem migrate_refused {tenant context : BitVec 16} {va : BitVec 56} {pa : BitVec 52} {c : Context}
    (hc : contextOf s tenant context = some c)
    (h : leafAt (requestTaken s m) tenant context va.toNat c.root [0, 1, 2, 3, 4] = none
      ∨ ∃ l level, leafAt (requestTaken s m) tenant context va.toNat c.root [0, 1, 2, 3, 4] = some (l, level)
        ∧ (leafWith (requestTaken s m) va.toNat level c.root [0, 1, 2, 3, 4] = none
          ∨ pa.toNat % pageBytes l.size ≠ 0 ∨ isMemory pa.toNat = false
          ∨ ∃ s1 a, leafWith (requestTaken s m) va.toNat level c.root [0, 1, 2, 3, 4] = some (s1, a) ∧ (memNat s1 a 16).testBit 11 = true)) :
    ∃ x, x ≠ 0 ∧ RequestBecomes s m (.mgmtMigrate m tenant context va pa) (mgmtAnswer (requestTaken s m) m.host 0x0E x) := by
  refine later_refused (mgmtMigrate_becomes hturn hcalm tenant context va pa) ?_
  have hc' : contextOf (requestTaken s m) tenant context = some c := hc
  rw [migrate, hc', Option.bind_some]
  rcases h with hnone | ⟨l, level, hl, hbad⟩
  · rw [hnone, Option.bind_none]
  · rw [hl, Option.bind_some]
    cases hleaf : leafWith (requestTaken s m) va.toNat level c.root [0, 1, 2, 3, 4] with
    | none => rw [Option.bind_none]
    | some x =>
      rw [Option.bind_some]
      refine if_pos ?_
      rw [hleaf] at hbad
      rcases hbad with h | h | h | ⟨s1, a, h, hbit⟩
      · cases h
      · exact .inl h
      · exact .inr (.inl (by rw [h]; rfl))
      · cases h
        exact .inr (.inr hbit)

theorem migrate_done {tenant context : BitVec 16} {va : BitVec 56} {pa : BitVec 52} {c : Context} {l : Leaf} {level : Nat} {s1 : State}
    {a : Nat} (hc : contextOf s tenant context = some c)
    (hl : leafAt (requestTaken s m) tenant context va.toNat c.root [0, 1, 2, 3, 4] = some (l, level))
    (hleaf : leafWith (requestTaken s m) va.toNat level c.root [0, 1, 2, 3, 4] = some (s1, a))
    (hpa : pa.toNat % pageBytes l.size = 0) (hmem : isMemory pa.toNat = true) (hmig : (memNat s1 a 16).testBit 11 = false) :
    ∃ r, homeOnly s1 r ∧ storesMemory s1 r a (bytesOf 16 (memNat s1 a 16 + 2 ^ 11))
      ∧ RequestBecomes s m (.mgmtMigrate m tenant context va pa) (startShootdown r
        { old := l, unreached := itemSlots s1, entry := a, move := some pa.toNat, code := 0x0E, host := m.host, job := nextJob s1 }) := by
  obtain ⟨hhome, hstores⟩ := homeWrite_stores s1 a (bytesOf 16 (memNat s1 a 16 + 2 ^ 11)) false
  have hpages := pagesOnly_of_homeOnly hhome
  have hc' : contextOf (requestTaken s m) tenant context = some c := hc
  have hbecomes := mgmtMigrate_becomes hturn hcalm tenant context va pa
  rw [migrate, hc', Option.bind_some, hl, Option.bind_some, hleaf, Option.bind_some] at hbecomes
  dsimp only at hbecomes
  rw [if_neg (by simp [hpa, hmem, hmig]), laterDone] at hbecomes
  rw [hpages.itemSlots, hpages.nextJob] at hbecomes
  exact ⟨_, hhome, hstores, hbecomes⟩

end

end Sys2Proof.Machine
end

section
/-! SUPPORT. Code objects, and every management request: O54. -/

namespace Sys2Proof.Machine

/-! ## Code objects (R465 to R467) -/

section
variable {s : State} {m : MgmtHead} (hturn : InTurn s m) (hcalm : calm s) {tenant context : BitVec 16} {va dest : BitVec 56} {len : Nat}
  {pa : BitVec 52} {kind : BitVec 8}

theorem loadObject_none {u : State} {va dest len pa : Nat} (h : contextOf u tenant context = none ∨ dest % 2 ^ 16 ≠ 0 ∨ pa % 2 ^ 16 ≠ 0
      ∨ isMemory pa = false ∨ (contextRead u tenant context va len).bind (signedObject u tenant) = none) :
    loadObject u m tenant context va dest len pa kind = answered u m 0x09 none := by
  have hnone : ((contextOf u tenant context).bind (fun c =>
      if dest % 2 ^ 16 ≠ 0 ∨ pa % 2 ^ 16 ≠ 0 ∨ !isMemory pa then none
      else (contextRead u tenant context va len).bind (fun bytes => (signedObject u tenant bytes).map (fun o => (c, o))))) = none := by
    cases hc : contextOf u tenant context with
    | none => rfl
    | some c =>
      rw [Option.bind_some]
      split
      · rfl
      · next hok =>
        obtain ⟨hd, hp, hm⟩ := not_or.1 hok |>.imp id not_or.1
        have hread := (h.resolve_left (by rw [hc]; exact Option.some_ne_none c)).resolve_left hd |>.resolve_left hp
          |>.resolve_left (by simpa using hm)
        exact Option.map_bind.symm.trans (congrArg (Option.map fun o => (c, o)) hread)
  rw [loadObject, hnone]

theorem objectOf_some {u : State} {va dest len pa : Nat} {c : Context} {o : Config.CodeObject} (hc : contextOf u tenant context = some c)
    (hd : dest % 2 ^ 16 = 0) (hp : pa % 2 ^ 16 = 0) (hm : isMemory pa = true)
    (ho : (contextRead u tenant context va len).bind (signedObject u tenant) = some o) :
    ((contextOf u tenant context).bind (fun c =>
      if dest % 2 ^ 16 ≠ 0 ∨ pa % 2 ^ 16 ≠ 0 ∨ !isMemory pa then none
      else (contextRead u tenant context va len).bind (fun bytes => (signedObject u tenant bytes).map (fun o => (c, o))))) = some (c, o) := by
  rw [hc, Option.bind_some, if_neg]
  · exact Option.map_bind.symm.trans (congrArg (Option.map fun o => (c, o)) ho)
  · exact fun h => h.elim (fun h => h hd) fun h => h.elim (fun h => h hp) fun h => by simp [hm] at h

theorem loadObject_error {u : State} {va dest len pa : Nat} {c : Context} {o : Config.CodeObject} {e : BitVec 32 × List Byte}
    (hc : contextOf u tenant context = some c) (hd : dest % 2 ^ 16 = 0) (hp : pa % 2 ^ 16 = 0) (hm : isMemory pa = true)
    (ho : (contextRead u tenant context va len).bind (signedObject u tenant) = some o) (he : objectCode u tenant o kind = .error e) :
    loadObject u m tenant context va dest len pa kind = mgmtAnswer u m.host 0x09 e.1 e.2 := by
  rw [loadObject, objectOf_some hc hd hp hm ho]
  dsimp only
  rw [he]

theorem loadObject_ok {u : State} {va dest len pa : Nat} {c : Context} {o : Config.CodeObject} {x : State × List Byte}
    (hc : contextOf u tenant context = some c) (hd : dest % 2 ^ 16 = 0) (hp : pa % 2 ^ 16 = 0) (hm : isMemory pa = true)
    (ho : (contextRead u tenant context va len).bind (signedObject u tenant) = some o) (hx : objectCode u tenant o kind = .ok x) :
    loadObject u m tenant context va dest len pa kind = laterDone u m 0x09 (placeCode x.1 m.host c dest pa x.2) := by
  rw [loadObject, objectOf_some hc hd hp hm ho]
  dsimp only
  rw [hx]

include hturn hcalm

theorem loadObject_refused (h : contextOf s tenant context = none ∨ dest.toNat % 2 ^ 16 ≠ 0 ∨ pa.toNat % 2 ^ 16 ≠ 0
      ∨ isMemory pa.toNat = false
      ∨ (contextRead (requestTaken s m) tenant context va.toNat len).bind (signedObject (requestTaken s m) tenant) = none) :
    ∃ x, x ≠ 0 ∧ RequestBecomes s m (.mgmtLoadObject m tenant context va dest len pa kind) (mgmtAnswer (requestTaken s m) m.host 0x09 x) := by
  have hbecomes := mgmtLoadObject_becomes hturn hcalm tenant context va dest len pa kind
  rw [loadObject_none (u := requestTaken s m) h] at hbecomes
  exact later_refused (done := none) hbecomes rfl

variable {c : Context} {o : Config.CodeObject} (hc : contextOf s tenant context = some c) (hd : dest.toNat % 2 ^ 16 = 0)
  (hp : pa.toNat % 2 ^ 16 = 0) (hm : isMemory pa.toNat = true)
  (ho : (contextRead (requestTaken s m) tenant context va.toNat len).bind (signedObject (requestTaken s m) tenant) = some o)
include hc hd hp hm ho

theorem loadObject_fails {e : BitVec 32 × List Byte} (he : objectCode (requestTaken s m) tenant o kind = .error e) :
    RequestBecomes s m (.mgmtLoadObject m tenant context va dest len pa kind) (mgmtAnswer (requestTaken s m) m.host 0x09 e.1 e.2) := by
  have hbecomes := mgmtLoadObject_becomes hturn hcalm tenant context va dest len pa kind
  rwa [loadObject_error (u := requestTaken s m) hc hd hp hm ho he] at hbecomes

theorem loadObject_unmapped {t0 : State} {code : List Byte} (hx : objectCode (requestTaken s m) tenant o kind = .ok (t0, code))
    (hmap : mapCode t0 c dest.toNat pa.toNat (pagesOf 0 code.length) = none)
    : ∃ x, x ≠ 0 ∧ RequestBecomes s m (.mgmtLoadObject m tenant context va dest len pa kind) (mgmtAnswer (requestTaken s m) m.host 0x09 x) := by
  have hbecomes := mgmtLoadObject_becomes hturn hcalm tenant context va dest len pa kind
  rw [loadObject_ok (u := requestTaken s m) hc hd hp hm ho hx] at hbecomes
  exact later_refused hbecomes (by rw [placeCode, hmap, Option.map_none])

omit hturn hcalm hc hd hp hm ho in
theorem unloads_absent {r : State} {old : List (Leaf × Nat)} (h : ∀ l ∈ old, classLoaded r l.1 = false) :
    old.foldl (fun s l => unloadClass s l.1) r = r := by
  induction old with
  | nil => rfl
  | cons l ls ih =>
    rw [List.foldl_cons, unloadClass_absent (h l List.mem_cons_self)]
    exact ih fun x hx => h x (List.mem_cons_of_mem _ hx)

theorem loadObject_maps {t0 t : State} {code : List Byte} {old : List (Leaf × Nat)}
    (hx : objectCode (requestTaken s m) tenant o kind = .ok (t0, code))
    (hmap : mapCode t0 c dest.toNat pa.toNat (pagesOf 0 code.length) = some (t, old)) :
    let i : Instr := .mgmtLoadObject m tenant context va dest len pa kind
    let answer := bytesOf 8 dest.toNat ++ bytesOf 8 code.length ++ bytesOf 32 (sha3 code).toNat
    ∃ r, storesMemory t r pa.toNat code ∧ homeOnly t r
      ∧ (old = [] → RequestBecomes s m i (mgmtAnswer r m.host 0x09 0 answer))
      ∧ (old ≠ [] → itemSlots t ≠ [] → (∀ l ∈ old, classLoaded t l.1 = false) → RequestBecomes s m i { r with
          shootdowns := t.shootdowns ++ old.map (fun l =>
            { old := l.1, unreached := itemSlots t, entry := l.2, host := m.host, code := 0x09, more := answer
              job := nextJob t }) }) := by
  obtain ⟨hhome, hstores⟩ := homeWrite_stores t pa.toNat code false
  have hpages := pagesOnly_of_homeOnly hhome
  have hbecomes := mgmtLoadObject_becomes hturn hcalm tenant context va dest len pa kind
  rw [loadObject_ok (u := requestTaken s m) hc hd hp hm ho hx, placeCode, hmap, Option.map_some, laterDone] at hbecomes
  refine ⟨_, hstores, hhome, fun hnil => ?_, fun hne hs hload => ?_⟩
  · subst hnil
    rw [replaceLeaves_unreached (.inl rfl)] at hbecomes
    have hdrop : dropL1 (homeWrite t pa.toNat code).1 [] = (homeWrite t pa.toNat code).1 := by
      simp [dropL1]
    have hsame : dropL1 (([] : List (Leaf × Nat)).foldl (fun s l => unloadClass s l.1) (homeWrite t pa.toNat code).1)
        (([] : List (Leaf × Nat)).map (fun l => l.1)) = (homeWrite t pa.toNat code).1 := hdrop
    rwa [hsame] at hbecomes
  · have hload' (l : Leaf × Nat) (hl : l ∈ old) : classLoaded (homeWrite t pa.toNat code).1 l.1 = false := by
      have hclass : (homeWrite t pa.toNat code).1.classPages = t.classPages := by rw [hhome]
      rw [classLoaded, hclass]
      exact hload l hl
    rw [replaceLeaves_reached hne (by rwa [hpages.itemSlots]), hpages.itemSlots, hpages.shootdowns, hpages.nextJob,
      unloads_absent hload'] at hbecomes
    exact hbecomes

end

/-! ## Every request -/

/-- Settles O54: what each request of a registered host changes, case by case. -/
theorem managementRequests : Obligations.ManagementRequests := by
  unfold Obligations.ManagementRequests
  refine ⟨fun s i m code hp hreq => ?_, fun t host code st more => mgmtAnswer_frame t host code st more,
    fun s m hp hup hstage hhost hseq hidle => ?_⟩
  · obtain ⟨lines, run, hexec⟩ := exec_request hreq s
    rw [hexec]
    exact ⟨requestRun_unheard hp, fun hheard h0 h1 => requestRun_gap hp hheard h0 h1, fun hheard h => requestRun_old hp hheard h,
      fun hheard h hbusy => requestRun_busy hp hheard (sub_eq_zero.1 (BitVec.eq_of_toNat_eq h)) hbusy⟩
  · have hturn : InTurn s m := ⟨hp, ⟨hup, hstage, hhost⟩, hseq, hidle⟩
    refine ⟨mgmtSetDevid_becomes hturn, mgmtWritePseed_becomes hturn, fun tenant weight ht => ⟨fun hw => ?_, ?_, fun create => ?_, ?_⟩,
      mgmtAssignQueue_becomes hturn, mgmtAccessTable_becomes hturn, fun tenant context root n => ?_,
      fun tenant context vpage => ⟨pageFault_mapped hturn tenant context vpage, pageFault_declined hturn tenant context vpage⟩,
      fun q o kind h => mgmtPreempt_refused hturn kind h, fun q o l hl => ⟨?_, ?_, fun c t i hslots hs hruns hi hsize hsave => ?_⟩,
      fun hcalm tenant context va dest len pa kind => ⟨loadObject_refused hturn hcalm, fun c o hc hd hpa hm ho =>
        ⟨fun e he => loadObject_fails hturn hcalm hc hd hpa hm ho he, fun t0 code hx => ?_⟩⟩,
      mgmtAttestation_becomes hturn,
      fun w => ⟨fun h1 h2 => (mgmtPowerCap_becomes hturn w).1 (by omega), (mgmtPowerCap_becomes hturn w).2⟩,
      fun hcalm => mgmtPackageReset_becomes hturn hcalm, fun hcalm tenant context va e pa hnone => ⟨?_, ?_⟩,
      fun hcalm tenant context va e c hc => ⟨mapPages_refused hturn hcalm hc, fun level s1 a hlevel hleaf =>
        mapPages_done hturn hcalm hc hlevel hleaf, fun pa => ⟨migrate_refused hturn hcalm hc,
          fun l at_ s1 a hl hleaf hpa hmem hmig => migrate_done hturn hcalm hc hl hleaf hpa hmem hmig⟩⟩,
      mgmtQueryQueue_becomes hturn, fun port n vlan => mgmtLinkParameters_refused hturn (if_pos rfl),
      fun k n vlan hk => ⟨fun hn => ?_, fun h1 h2 => ?_, fun c => ?_, fun c hc => ?_, fun c hc => ?_⟩,
      fun n hn hfresh => ?_, fun n hn => ?_, mgmtSpillGrant_becomes hturn,
      fun tenant key enrol n hnone => ?_, fun tenant key enrol n y hy => ?_⟩
    · refine ⟨{ (s.tenants.find? (fun t => t.id = tenant)).getD { id := tenant } with weight := weight }, ?_, rfl, fun y hy => ?_,
        mgmtTenant_done hturn ?_⟩
      · cases hfind : s.tenants.find? (fun t => t.id = tenant) with
        | none => rfl
        | some y =>
          have hid := List.find?_some (p := fun t : Tenant => decide (t.id = tenant)) hfind
          exact of_decide_eq_true hid
      · rw [hy]
        exact ⟨rfl, rfl⟩
      · rw [tenantDone, if_neg ht, if_neg (by decide), if_neg hw]
        rfl
    · refine mgmtTenant_refused hturn ?_
      rw [tenantDone, if_neg ht, if_neg (by decide), if_pos rfl]
    · exact mgmtTenant_refused hturn (if_pos rfl)
    · refine mgmtTenant_done hturn ?_
      rw [tenantDone, if_neg ht]
      rfl
    · obtain ⟨hdone, hrefused⟩ := mgmtCreateContext_becomes hturn tenant context root n
      refine ⟨fun ⟨hten, hroot, hmem, hctx⟩ => hdone ?_, fun hbad => hrefused ?_⟩
      · rintro (h | h | h | h)
        · exact hten h
        · exact h hroot
        · rw [hmem] at h
          exact Bool.noConfusion h
        · rw [hctx] at h
          exact Bool.noConfusion h
      · by_contra hno
        obtain ⟨h1, h2, h3, h4⟩ := (not_or.1 hno).imp id fun h => (not_or.1 h).imp id not_or.1
        exact hbad ⟨h1, not_not.1 h2, by simpa using h3, by simpa using h4⟩
    · exact mgmtPreempt_done (r := fun u => holdLaunch u q o .host) hturn (fun u hu => by rw [preemptDone, hu]; rfl)
        (by rw [hl]; rfl) rfl rfl
    · exact mgmtPreempt_done (r := fun u => resumeLaunch u q o) hturn (fun u hu => by rw [preemptDone, hu]; rfl)
        (by rw [hl]; rfl) rfl rfl
    · have hid := slotOf_id hs
      subst hid
      have hslots' : (launchSlots s q o).filter (fun _ => true) = [t.id] := by rw [hslots]; rfl
      obtain ⟨-, hcount⟩ := preemptMid_savesItem .host hslots' hs hruns hi hsize hsave
      obtain ⟨hsaved, hcount'⟩ := preemptMid_savesItem (s := requestTaken s m) .host hslots' hs hruns hi hsize hsave
      refine ⟨_, mgmtPreempt_done (r := fun u => preemptMid u q o .host (fun _ => true)) hturn (fun u hu => by rw [preemptDone, hu]; rfl)
        (by rw [hl]; rfl) hcount hcount', hsaved, preemptMid_held (s := requestTaken s m) .host _ hl⟩
    · cases hmap : mapCode t0 c dest.toNat pa.toNat (pagesOf 0 code.length) with
      | none => exact loadObject_unmapped hturn hcalm hc hd hpa hm ho hx hmap
      | some x => exact loadObject_maps hturn hcalm hc hd hpa hm ho hx hmap
    · refine later_refused (mgmtMapPages_becomes hturn hcalm tenant context va e) ?_
      have hnone' : contextOf (requestTaken s m) tenant context = none := hnone
      rw [mapPages, hnone', Option.bind_none]
    · refine later_refused (mgmtMigrate_becomes hturn hcalm tenant context va pa) ?_
      have hnone' : contextOf (requestTaken s m) tenant context = none := hnone
      rw [migrate, hnone', Option.bind_none]
    · exact mgmtLinkParameters_refused hturn (by rw [linkDone, if_neg hk]; exact if_pos hn)
    · exact mgmtLinkParameters_done hturn (by rw [linkDone, if_neg hk]; exact if_neg (by omega))
    · exact mgmtLinkParameters_done hturn (by rw [linkDone, if_neg hk]; rfl)
    · refine mgmtLinkParameters_refused hturn ?_
      rw [linkDone, if_neg hk]
      exact congrArg (Option.map _) (Vector.getElem?_eq_none hc)
    · refine mgmtLinkParameters_done hturn ?_
      rw [linkDone, if_neg hk]
      dsimp only
      have hget : (requestTaken s m).ucie[c.toNat]? = some s.ucie[c.toNat] := Vector.getElem?_eq_getElem hc
      rw [hget, Option.map_some]
      refine congrArg (fun v => some { requestTaken s m with ucie := v }) (Vector.ext fun i hi => ?_)
      rw [Vector.getElem_setIfInBounds, Vector.getElem_set]
      rfl
    · refine (mgmtPinPartition_becomes hturn n).1 ?_
      rw [(beforeLaunch_iff s).2 hfresh]
      simpa [or_assoc] using hn
    · refine (mgmtPinPartition_becomes hturn n).2 fun hok => ?_
      obtain ⟨hb, hn'⟩ := Bool.and_eq_true_iff.1 hok
      have hn'' : n = 0 ∨ n = 4 ∨ n = 8 := by simpa [or_assoc] using hn'
      exact hn.elim (by omega) fun h => h ((beforeLaunch_iff s).1 hb)
    · exact (mgmtSigningKeys_becomes hturn tenant key enrol n).2 (by rw [hnone]; rfl)
    · exact (mgmtSigningKeys_becomes hturn tenant key enrol n).1 (by rw [hy]; exact Bool.false_ne_true)

end Sys2Proof.Machine
end

section
/-! SUPPORT. A pre-emption for a reservation: R437; O51. -/

namespace Sys2Proof.Machine

/-! ## A pre-emption that meets another item at its place -/

/-- A launch record with core 0 of die 0 in its mask. -/
def victimRecord : BitVec 2048 := 1#2048 <<< 960

/-- An item of launch `n` of queue 0. -/
def itemOf (n : Nat) : Item := { queue := 0, ordinal := n, index := 0, wid := 0, rank := 0, size := 0, dispatched := 0 }

/-- Core 0 with an item of launch 2 in the turn, and behind it, at the same place, an item of launch 1, which the reservation of
launch 2 pre-empts. -/
def crowded : State :=
  { cur := { id := ⟨0, false⟩, item := some (itemOf 2), tenant := 1, context := 1 }
    rest := [{ id := ⟨0, false⟩, item := some (itemOf 1), tenant := 1, context := 1 }]
    cycle := 160000
    contexts := [⟨1, 1, 0, 1⟩]
    queues := [(0, { launches := [{ ordinal := 1, record := victimRecord, acceptedAt := 0 }, { ordinal := 2, record := victimRecord, acceptedAt := 0 }] })]
    walkers := Vector.replicate 4 { reservation := some (0, 2) } }

theorem crowded_savable : savable crowded crowded.cur := by
  refine ⟨rfl, rfl, rfl, rfl, ⟨rfl, fun p hp => absurd hp List.not_mem_nil⟩, fun u hu => absurd hu List.not_mem_nil, by decide⟩

/-- Refutes O51: the one item of the launch that the reservation pre-empts is not the slot that the place names first, whose item
the statement has saved. -/
theorem not_schedulingEvents : ¬ Obligations.SchedulingEvents := by
  unfold Obligations.SchedulingEvents
  intro h
  obtain ⟨-, hreserve, -⟩ := h crowded (by decide)
  obtain ⟨-, hlate⟩ := hreserve 0
  obtain ⟨hexec, hsaves⟩ := hlate 0 2 { ordinal := 2, record := victimRecord, acceptedAt := 0 } 0
    { ordinal := 1, record := victimRecord, acceptedAt := 0 } (by decide +kernel) (by decide +kernel) (by decide +kernel) (by decide +kernel)
  obtain ⟨r, hr, ⟨y, hy, -⟩, -⟩ := hsaves ⟨0, false⟩ crowded.cur (itemOf 2) (by decide +kernel) rfl rfl rfl crowded_savable
  have hnone : (preemptMid crowded 0 1 (.reservation 0 2) (fun c => dieOf c.core = (0 : BitVec 2).toNat)).saved.length = 0 := by
    decide +kernel
  rw [hexec] at hr
  obtain rfl := Host.Outcome.next.inj hr
  rw [hy] at hnone
  simp at hnone

end Sys2Proof.Machine
end

section
/-! SUPPORT. The rows, chunks and blocks of matrix records: R348, R352, R354, R356, R360 to R363; O42. -/

namespace Sys2Proof.Machine

/-! ## The products of a weight buffer (R88, R356) -/

/-- The trit of a weight buffer at K index `k` of column `c`. -/
def bufferTrit (w : WeightBuffer) (k c : Nat) : Int := tritValue (sget 0 w.bytes (64 * c + k / 5)).toNat (k % 5)

/-- The sum of the products of a column with a row of numbers, and the flags that it raises. -/
def columnSum (row : Array NumVal) (col : List (Nat × Int)) : Int × BitVec 3 :=
  col.foldl (fun a k => let x := productTerm k.2 (row.getD k.1 .nan); (a.1 + x.1, a.2 ||| x.2)) (0, 0)

theorem bufferColumns_eq {w : WeightBuffer} (h : w.transposed = false) : bufferColumns w = (List.range 256).map (fun c =>
    (List.range 320).filterMap (fun k => if bufferTrit w k c = 0 then none else some (k, bufferTrit w k c))) := by
  have hget {n : Nat} (hn : n < 16384) : ((sgetRange 0 w.bytes 0 16384).toArray).getD n 0 = sget 0 w.bytes n := by
    simp [sgetRange_eq, hn]
  unfold bufferColumns
  dsimp only
  refine List.map_congr_left fun c hc => ?_
  have hc := List.mem_range.1 hc
  refine List.filterMap_congr fun k hk => ?_
  have hk := List.mem_range.1 hk
  rw [h, if_neg Bool.false_ne_true, hget (by omega)]
  rfl

theorem columnSum_fst (row : Array NumVal) (col : List (Nat × Int)) :
    (columnSum row col).1 = col.foldl (fun a k => a + (productTerm k.2 (row.getD k.1 .nan)).1) 0 := by
  have hfold (a : Int × BitVec 3) : (col.foldl (fun a k => let x := productTerm k.2 (row.getD k.1 .nan); (a.1 + x.1, a.2 ||| x.2)) a).1
      = col.foldl (fun a k => a + (productTerm k.2 (row.getD k.1 .nan)).1) a.1 := by
    induction col generalizing a with
    | nil => rfl
    | cons k col ih => exact ih _
  exact hfold (0, 0)

/-- The sum of a column of trits over finite numbers is the exact dot product with their images. -/
theorem columnSum_image {row : Array NumVal} {image : Nat → Int} {trit : Nat → Int}
    (h : ∀ k, k < 320 → ∃ neg m e, image k = (if neg then -(m : Int) else m) ∧ row.getD k .nan = .fin neg m e) :
    (columnSum row ((List.range 320).filterMap (fun k => if trit k = 0 then none else some (k, trit k)))).1
      = (List.range 320).foldl (fun a k => a + trit k * image k) 0 := by
  rw [columnSum_fst, List.foldl_filterMap]
  refine List.foldl_ext _ _ _ fun a k hk => ?_
  obtain ⟨neg, m, e, hi, hr⟩ := h k (List.mem_range.1 hk)
  by_cases h0 : trit k = 0
  · simp [h0]
  · simp only [if_neg h0, hr, hi]
    rfl

/-! ## Terms added to a row of a tile -/

theorem addTerms_acc (t : Slot) (tile : BitVec 3) (j : Nat) (xs : List (Int × BitVec 3)) : (addTerms t tile j xs).acc =
    ssetRange 0 t.acc (accKey tile j 0)
      (List.zipWith (fun (y : BitVec 48) (x : Int × BitVec 3) => y + BitVec.ofInt 48 x.1) (accRow t tile j xs.length) xs) := by
  unfold addTerms
  dsimp only
  split <;> rfl

theorem acc_addTerms (t : Slot) (tile : BitVec 3) (j : Nat) (xs : List (Int × BitVec 3)) (a : Nat) :
    sget 0 (addTerms t tile j xs).acc a = sget 0 t.acc a + (if accKey tile j 0 ≤ a ∧ a < accKey tile j 0 + xs.length then
      BitVec.ofInt 48 (xs.getD (a - accKey tile j 0) (0, 0)).1 else 0) := by
  have hlen : (accRow t tile j xs.length).length = xs.length := by
    rw [accRow, sgetRange_eq, List.length_map, List.length_range]
  rw [addTerms_acc, sget_ssetRange, List.length_zipWith, hlen, Nat.min_self]
  split
  · next h =>
    have hlt : a - accKey tile j 0 < xs.length := by omega
    rw [List.getD_eq_getElem _ _ (by rw [List.length_zipWith, hlen, Nat.min_self]; exact hlt), List.getElem_zipWith,
      List.getD_eq_getElem _ _ hlt]
    simp only [accRow, sgetRange_eq, List.getElem_map, List.getElem_range]
    rw [Nat.add_sub_cancel' h.1]
  · exact (BitVec.add_zero _).symm

section
variable {h : RecHead} {b : MxNest} {cs k j bits : Nat} {t : Slot} {p : Position} {f : ElemFmt} {image : Nat → Int}
  (hpos : heldPosition t (if b.fsel then 1 else 0) (nestPos b cs k) = some p) (hact : activation p.fmt = some (f, bits))
  (hflat : (bufferOf t b.wbuf).transposed = false)
  (himage : ∀ k, k < 320 → ∃ neg m e, image k = (if neg then -(m : Int) else m) ∧
    activationOf f (elemOf bits (leNat (sgetRange 0 p.bytes (640 * j) (rowBytesOf bits))) k) = .fin neg m e)

/-- The exact dot product of a column of a buffer with the images of a row. -/
def columnTerm (w : WeightBuffer) (image : Nat → Int) (c : Nat) : Int :=
  (List.range 320).foldl (fun a k => a + bufferTrit w k c * image k) 0

include himage in
theorem positionRow_image : ∀ k, k < 320 → ∃ neg m e, image k = (if neg then -(m : Int) else m) ∧
    (positionRow p f bits j).getD k .nan = .fin neg m e := by
  intro k hk
  obtain ⟨neg, m, e, hi, ha⟩ := himage k hk
  refine ⟨neg, m, e, hi, ?_⟩
  simpa [positionRow, hk] using ha

include hflat himage in
theorem acc_addRow (a : Nat) : sget 0 (addRow t (.mxacc h b) b p f bits (nestTile b k) j).acc a = sget 0 t.acc a
    + (if 16384 * (nestTile b k).toNat + 256 * j ≤ a ∧ a < 16384 * (nestTile b k).toNat + 256 * j + 256 then
        BitVec.ofInt 48 (columnTerm (bufferOf t b.wbuf) image (a - (16384 * (nestTile b k).toNat + 256 * j))) else 0) := by
  have hcols : addRow t (.mxacc h b) b p f bits (nestTile b k) j = addTerms t (nestTile b k) j
      ((bufferColumns (bufferOf t b.wbuf)).map (columnSum (positionRow p f bits j))) := rfl
  rw [hcols, acc_addTerms, bufferColumns_eq hflat, List.length_map, List.length_map, List.length_range]
  refine congrArg (sget 0 t.acc a + ·) ?_
  refine ite_congr rfl (fun hin => ?_) fun _ => rfl
  have hlt : a - accKey (nestTile b k) j 0 < 256 := by
    have hkey : accKey (nestTile b k) j 0 = 16384 * (nestTile b k).toNat + 256 * j := rfl
    omega
  rw [List.getD_eq_getElem _ _ (by simpa using hlt)]
  simp only [List.getElem_map, List.getElem_range]
  rw [columnSum_image (positionRow_image himage)]
  rfl

include hpos hact in
theorem iterationRow_eq : iterationRow t (.mxacc h b) b cs k j = addRow t (.mxacc h b) b p f bits (nestTile b k) j := by
  have hpos' : (recFifo (.mxacc h b)).bind (fun f => heldPosition t f (nestPos b cs k)) = some p := hpos
  rw [iterationRow, hpos']
  dsimp only
  rw [hact]

theorem acc_tripleTile (t : Slot) (tile : BitVec 3) (a : Nat) : sget 0 (tripleTile t tile).acc a =
    if 16384 * tile.toNat ≤ a ∧ a < 16384 * tile.toNat + 16384 then sget 0 t.acc a * 3 else sget 0 t.acc a := by
  have hlo : accKey tile 0 0 = 16384 * tile.toNat := by simp [accKey]
  have hhi : accKey tile 64 0 = 16384 * tile.toNat + 16384 := by simp [accKey]
  unfold tripleTile
  dsimp only
  rw [hlo, hhi]
  induction t.acc with
  | nil => simp [sget]
  | cons q m ih =>
    rw [List.map_cons]
    by_cases hq : a = q.1
    · subst hq
      by_cases hin : 16384 * tile.toNat ≤ q.1 ∧ q.1 < 16384 * tile.toNat + 16384 <;> simp [sget, hin]
    · have hrest (x : Nat × BitVec 48) (hx : x.1 = q.1) (l : Sparse (BitVec 48)) : sget 0 (x :: l) a = sget 0 l a :=
        if_neg (by rw [hx]; exact hq)
      rw [hrest _ (by split <;> rfl), hrest q rfl, ih]

theorem acc_zeroTile (t : Slot) (tile : BitVec 3) (a : Nat) : sget 0 (zeroTile t tile).acc a =
    if 16384 * tile.toNat ≤ a ∧ a < 16384 * tile.toNat + 16384 then 0 else sget 0 t.acc a := by
  have hlo : accKey tile 0 0 = 16384 * tile.toNat := by simp [accKey]
  have hhi : accKey tile 64 0 = 16384 * tile.toNat + 16384 := by simp [accKey]
  rw [zeroTile, sget_sclear, hlo, hhi]

theorem firstWrite_zero (b : MxNest) : firstWrite b (nestTile b 0) = some 0 := by
  obtain ⟨n, hn⟩ : ∃ n, nestCount b = n + 1 := Nat.exists_eq_succ_of_ne_zero
    (Nat.mul_ne_zero (Nat.mul_ne_zero (Nat.mul_ne_zero (Nat.succ_ne_zero _) (Nat.succ_ne_zero _)) (Nat.succ_ne_zero _)) (Nat.succ_ne_zero _))
  rw [firstWrite, hn, List.range_succ_eq_map, List.find?_cons_of_pos]
  exact decide_eq_true rfl

/-- The slot whose tile an iteration begins: opened with zeros, or tripled, as its record says. -/
def nestOpened (t : Slot) (b : MxNest) : Slot :=
  let t1 := if b.opens then zeroTile t (nestTile b 0) else t
  if b.x3 then tripleTile t1 (nestTile b 0) else t1

theorem acc_nestOpened (t : Slot) (b : MxNest) (a : Nat) : sget 0 (nestOpened t b).acc a =
    if 16384 * (nestTile b 0).toNat ≤ a ∧ a < 16384 * (nestTile b 0).toNat + 16384 then
      (if b.opens then 0 else if b.x3 then sget 0 t.acc a * 3 else sget 0 t.acc a) else sget 0 t.acc a := by
  unfold nestOpened
  dsimp only
  cases b.opens <;> cases b.x3 <;> simp only [if_true, Bool.false_eq_true, if_false, acc_tripleTile, acc_zeroTile]
  · rw [ite_self]
  · split <;> simp

theorem nestOpened_wbuf (t : Slot) (b : MxNest) : (nestOpened t b).wbuf = t.wbuf := by
  unfold nestOpened
  dsimp only
  cases b.opens <;> cases b.x3 <;> rfl

omit hpos hact in
theorem ok_of_ite {α : Type} {c : Prop} [Decidable c] {x y : Res α} {u : α} (hx : x ≠ .ok u) (h : (if c then x else y) = .ok u) :
    y = .ok u := by
  split at h
  · exact absurd h hx
  · exact h

omit hpos hact hflat himage in
theorem addRow_acc_congr {v v' : Slot} (ha : v.acc = v'.acc) (hw : v.wbuf = v'.wbuf) (tile : BitVec 3) :
    (addRow v (.mxacc h b) b p f bits tile j).acc = (addRow v' (.mxacc h b) b p f bits tile j).acc := by
  have hrow (n : Nat) : accRow v tile j n = accRow v' tile j n := by rw [accRow, accRow, ha]
  have hbuf : bufferOf v b.wbuf = bufferOf v' b.wbuf := by rw [bufferOf, bufferOf, hw]
  unfold addRow
  dsimp only
  rw [addTerms_acc, addTerms_acc, hrow, ha, hbuf]

include hpos hact in
/-- The first iteration of a product writes what its first row adds to the opened tile. -/
theorem iteration_acc (hk : k = 0) {u : Slot} {y : Nat} (hu : iteration t (.mxacc h b) b cs 0 y = .ok u) :
    u.acc = (addRow (nestOpened t b) (.mxacc h b) b p f bits (nestTile b 0) 0).acc := by
  subst hk
  have hfifo : recFifo (.mxacc h b) = some (if b.fsel then 1 else 0) := rfl
  rw [iteration, hfifo] at hu
  dsimp only at hu
  rw [hpos] at hu
  dsimp only at hu
  rw [hact] at hu
  dsimp only at hu
  rw [firstWrite_zero] at hu
  simp only [decide_true, Bool.true_and] at hu
  have hu := ok_of_ite (fun h => by cases h) hu
  have hu := ok_of_ite (fun h => by cases h) hu
  have hu := ok_of_ite (fun h => by cases h) hu
  obtain ⟨x, hx⟩ : ∃ x, Except.ok u = (Except.ok (addLanding x ⟨nestTile b 0, y + nestSpan (.mxacc h b) b + 11,
    b.closes && !writesFrom b (0 + 1) (nestTile b 0)⟩) : Res Slot) ∧ x.acc = (addRow (nestOpened t b) (.mxacc h b) b p f bits (nestTile b 0) 0).acc := by
    refine ⟨_, hu.symm, ?_⟩
    split
    · exact addRow_acc_congr (v := setTile (nestOpened t b) _ _) (v' := nestOpened t b) rfl rfl _
    · exact addRow_acc_congr (v := setTile (nestOpened t b) _ _) (v' := nestOpened t b) rfl rfl _
  cases hx.1
  exact hx.2

/-- The first clause: a row of an iteration, and the first row of the first. -/
theorem mxacc_rows (hflat : (bufferOf t b.wbuf).transposed = false)
    (himage : ∀ k, k < 320 → ∃ neg m e, image k = (if neg then -(m : Int) else m) ∧
      activationOf f (elemOf bits (leNat (sgetRange 0 p.bytes (640 * 0) (rowBytesOf bits))) k) = .fin neg m e)
    (hpos : heldPosition t (if b.fsel then 1 else 0) (nestPos b cs 0) = some p) (hact : activation p.fmt = some (f, bits))
    {u : Slot} {y : Nat} (hu : iteration t (.mxacc h b) b cs 0 y = .ok u) (a : Nat) :
    sget 0 u.acc a = (if 16384 * (nestTile b 0).toNat ≤ a ∧ a < 16384 * (nestTile b 0).toNat + 16384 then
          (if b.opens then 0 else if b.x3 then sget 0 t.acc a * 3 else sget 0 t.acc a)
        else sget 0 t.acc a)
      + (if 16384 * (nestTile b 0).toNat ≤ a ∧ a < 16384 * (nestTile b 0).toNat + 256 then
          BitVec.ofInt 48 (columnTerm (bufferOf t b.wbuf) image (a - 16384 * (nestTile b 0).toNat)) else 0) := by
  have hbuf : bufferOf (nestOpened t b) b.wbuf = bufferOf t b.wbuf := by rw [bufferOf, bufferOf, nestOpened_wbuf]
  rw [iteration_acc hpos hact rfl hu, acc_addRow (by rwa [hbuf]) himage, acc_nestOpened, hbuf]
  simp only [Nat.mul_zero, Nat.add_zero]

end


/-! ## What a unit of the array needs (R348, R352) -/

theorem arrayRuns_of {t : Slot} {o : Op} (hs : o.stopped = false) (ht : t.time.stoppedAt = none) (ha : t.answer = none) :
    arrayRuns t o = true := by
  rw [arrayRuns, hs, ht, ha]
  rfl

/-- The states differ by a change of one slot that keeps its place. -/
def SlotChange (s s' : State) (c : SlotId) : Prop := ∃ g : Slot → Slot, (∀ u, (g u).id = u.id) ∧ s' = modSlot s c g

theorem SlotChange.mod {s s' : State} {c : SlotId} (h : SlotChange s s' c) {f : Slot → Slot} (hf : ∀ u, (f u).id = u.id) :
    SlotChange s (modSlot s' c f) c := by
  obtain ⟨g, hg, rfl⟩ := h
  exact ⟨_, fun u => (hf _).trans (hg u), modSlot_modSlot hg s c⟩

/-- A slot put into its place. -/
theorem slotOf_put {s : State} {c : SlotId} {t u : Slot} (h : slotOf s c = some t) (hu : u.id = c) :
    slotOf (modSlot s c (fun _ => u)) c = some u := by
  have hput : modSlot s c (fun _ => u) = modSlot s c (fun v => if v.id = c then u else v) := by
    unfold modSlot
    by_cases hc : s.cur.id = c
    · rw [if_pos hc, if_pos hc]
      dsimp only
      rw [if_pos hc]
    · rw [if_neg hc, if_neg hc]
      refine congrArg (fun r => { s with rest := r }) (List.map_congr_left fun v _ => ?_)
      by_cases hv : v.id = c <;> simp [hv]
  have hid (v : Slot) : (if v.id = c then u else v).id = v.id := by
    by_cases hv : v.id = c <;> simp [hv, hu]
  rw [hput, slotOf_modSlot hid, if_pos rfl, h, Option.map_some, if_pos (slotOf_id h)]

/-- A fault that ends the launch marks its slot alone. -/
theorem opFault_ends {f : FaultInfo} (hd : disposition f.code = 0) (s : State) (c : SlotId) (o : Op) :
    SlotChange s (opFault s c o f) c := by
  obtain ⟨s1, hs1⟩ : ∃ s1, s1 = modSlot s c (fun t => modOp t o.id (fun o => { o with stopped := true, staged := none })) := ⟨_, rfl⟩
  have hop : SlotChange s s1 c := ⟨fun t => modOp t o.id _, fun _ => rfl, hs1⟩
  rw [opFault, ← hs1, takeFault]
  cases hc : slotOf s1 (opSite c o).slot with
  | none => exact hop
  | some t =>
    dsimp only
    rw [hd]
    refine .mod (.mod hop fun u => ?_) fun _ => rfl
    dsimp only [opSite]
    cases sourceStream o.source with
    | none => rfl
    | some st => cases st <;> rfl

section
variable {s : State} {i : Instr} {t : Slot} {o : Op} {cap : RecCapture} {start k : Nat} {late : Bool}
  (hslot : slotOf s t.id = some t) (hw : o.work = .matrix i cap start k late) (hruns : arrayRuns t o = true)

include hw hruns in
theorem nextRow_eq {b : MxNest} (hi : nestOf i = some b) (hrow : cap.row < productRows i b)
    (hdue : start - nestSpan i b + cap.row ≤ s.cycle) :
    nextRow s t o = some (modSlot s t.id (fun _ => modOp (iterationRow t i b cap.cs (k - 1) cap.row) o.id (fun o =>
      { o with work := .matrix i { cap with row := cap.row + 1 } start k late }))) := by
  rw [nextRow, hw]
  dsimp only
  rw [hi]
  dsimp only
  rw [hruns, if_neg (by simpa using ⟨hrow, hdue⟩)]

/-! ## A chunk of a load (R352, R354) -/

section
variable {h : RecHead} {b : MxLdwBody} {p : Position} (hi : i = .mxldw h b) (hk : k < 64) (hdue : start + k + 1 ≤ s.cycle)
  (hpos : heldPosition t (if b.fsel then 3 else 2) (cap.cs + b.start.toInt) = some p)

/-- The slot after chunk `k` of a load has gone in. -/
def chunkSlot (t : Slot) (o : Op) (h : RecHead) (b : MxLdwBody) (p : Position) (cap : RecCapture) (start k : Nat) (late : Bool) : Slot :=
  modOp (loadChunk t b (if b.fsel then 3 else 2) (cap.cs + b.start.toInt) p k).1 o.id (fun o =>
    { o with work := .matrix (.mxldw h b) cap start (k + 1) late })

include hw hruns hi hk hdue hpos in
theorem nextChunk_eq : nextChunk s t o = some
    (match (loadChunk t b (if b.fsel then 3 else 2) (cap.cs + b.start.toInt) p k).2 with
     | some e => opFault (modSlot s t.id (fun _ => chunkSlot t o h b p cap start k late)) t.id o e
     | none => modSlot s t.id (fun _ => chunkSlot t o h b p cap start k late)) := by
  subst hi
  rw [nextChunk, hw]
  dsimp only
  rw [hruns, if_neg (by simpa using ⟨hk, hdue⟩), hpos]
  rfl

end

end

theorem loadChunk_legal {p : Position} {k : Nat} (hall : ∀ n, n < 256 → (sget 0 p.bytes (256 * k + n)).toNat < 243)
    (t : Slot) (b : MxLdwBody) (f : BitVec 2) (x : Int) : loadChunk t b f x p k = (setBuffer t b.wbuf { bufferOf t b.wbuf with
      bytes := ssetRange 0 (bufferOf t b.wbuf).bytes (256 * k) (sgetRange 0 p.bytes (256 * k) 256) }, none) := by
  have hnone : (sgetRange 0 p.bytes (256 * k) 256).findIdx? (fun y => decide (243 ≤ y.toNat)) = none := by
    rw [List.findIdx?_eq_none_iff, sgetRange_eq]
    intro y hy
    obtain ⟨n, hn, rfl⟩ := List.mem_map.1 hy
    simpa using hall n (List.mem_range.1 hn)
  rw [loadChunk, hnone]

theorem loadChunk_illegal {p : Position} {k n : Nat} (hn : n < 256) (hbad : 243 ≤ (sget 0 p.bytes (256 * k + n)).toNat)
    (hgood : ∀ m, m < n → (sget 0 p.bytes (256 * k + m)).toNat < 243) (t : Slot) (b : MxLdwBody) (f : BitVec 2) (x : Int) :
    loadChunk t b f x p k = (giveBack (setBuffer t b.wbuf { bytes := [], transposed := b.t }) f b.consume.toNat,
      some { code := 0x18, operand := positionOperand f x, elem := BitVec.ofNat 32 (256 * k + n) }) := by
  have hsome : (sgetRange 0 p.bytes (256 * k) 256).findIdx? (fun y => decide (243 ≤ y.toNat)) = some n := by
    rw [List.findIdx?_eq_some_iff_getElem, sgetRange_eq]
    refine ⟨by simpa using hn, by simpa using hbad, fun m hm => by simpa using hgood m hm⟩
  rw [loadChunk, hsome]

theorem loadChunk_id (t : Slot) (b : MxLdwBody) (f : BitVec 2) (x : Int) (p : Position) (k : Nat) : (loadChunk t b f x p k).1.id = t.id := by
  unfold loadChunk
  dsimp only
  split <;> rfl

theorem bufferOf_setBuffer (t : Slot) (n : Bool) (w : WeightBuffer) : bufferOf (setBuffer t n w) n = w := by
  cases n <;> simp [bufferOf, setBuffer]

/-- A chunk puts its 256 bytes into the buffer, which an illegal byte leaves all zero. -/
theorem chunk_goes_in {s : State} {t : Slot} {o : Op} {cap : RecCapture} {start k : Nat} {late : Bool} {h : RecHead} {b : MxLdwBody}
    {p : Position} (hslot : slotOf s t.id = some t) (hw : o.work = .matrix (.mxldw h b) cap start k late) (hruns : arrayRuns t o = true)
    (hk : k < 64) (hdue : start + k + 1 ≤ s.cycle)
    (hpos : heldPosition t (if b.fsel then 3 else 2) (cap.cs + b.start.toInt) = some p) :
    let f : BitVec 2 := if b.fsel then 3 else 2
    ∃ s' u, nextChunk s t o = some s' ∧ slotOf s' t.id = some u
      ∧ ((∀ n, n < 256 → (sget 0 p.bytes (256 * k + n)).toNat < 243) → ∀ n,
          sget 0 (bufferOf u b.wbuf).bytes n = (if 256 * k ≤ n ∧ n < 256 * k + 256 then sget 0 p.bytes n
            else sget 0 (bufferOf t b.wbuf).bytes n))
      ∧ ∀ n, n < 256 → 243 ≤ (sget 0 p.bytes (256 * k + n)).toNat →
          (∀ m, m < n → (sget 0 p.bytes (256 * k + m)).toNat < 243) →
          s' = opFault (modSlot s t.id (fun _ => modOp (giveBack (setBuffer t b.wbuf { bytes := [], transposed := b.t }) f
              b.consume.toNat) o.id (fun o => { o with work := .matrix (.mxldw h b) cap start (k + 1) late }))) t.id o
            { code := 0x18, operand := positionOperand f (cap.cs + b.start.toInt), elem := BitVec.ofNat 32 (256 * k + n) } := by
  intro f
  have hnext := nextChunk_eq hw hruns rfl hk hdue hpos
  have hid : (chunkSlot t o h b p cap start k late).id = t.id := loadChunk_id ..
  have hthere : slotOf (modSlot s t.id (fun _ => chunkSlot t o h b p cap start k late)) t.id = some (chunkSlot t o h b p cap start k late) :=
    slotOf_put hslot hid
  by_cases hall : ∀ n, n < 256 → (sget 0 p.bytes (256 * k + n)).toNat < 243
  · have hload := loadChunk_legal hall t b f (cap.cs + b.start.toInt)
    rw [hload] at hnext
    refine ⟨_, _, hnext, hthere, fun _ n => ?_, fun n hn hbad _ => absurd (hall n hn) (by omega)⟩
    have hbuf : bufferOf (chunkSlot t o h b p cap start k late) b.wbuf = bufferOf (loadChunk t b f (cap.cs + b.start.toInt) p k).1 b.wbuf := rfl
    rw [hbuf, hload, bufferOf_setBuffer]
    dsimp only
    rw [sget_ssetRange, sgetRange_eq, List.length_map, List.length_range]
    refine ite_congr rfl (fun hin => ?_) fun _ => rfl
    rw [List.getD_eq_getElem _ _ (by simp; omega)]
    simp only [List.getElem_map, List.getElem_range]
    rw [Nat.add_sub_cancel' hin.1]
  · obtain ⟨n, hn, hbad, hgood⟩ : ∃ n, n < 256 ∧ 243 ≤ (sget 0 p.bytes (256 * k + n)).toNat ∧
        ∀ m, m < n → (sget 0 p.bytes (256 * k + m)).toNat < 243 := by
      classical
      have hex : ∃ n, n < 256 ∧ 243 ≤ (sget 0 p.bytes (256 * k + n)).toNat := by
        simpa using hall
      refine ⟨Nat.find hex, (Nat.find_spec hex).1, (Nat.find_spec hex).2, fun m hm => ?_⟩
      have hmin := Nat.find_min hex hm
      have hlt := (Nat.find_spec hex).1
      by_contra hcon
      exact hmin ⟨by omega, by omega⟩
    have hload := loadChunk_illegal hn hbad hgood t b f (cap.cs + b.start.toInt)
    rw [hload] at hnext
    dsimp only at hnext
    obtain ⟨g, hg, hfault⟩ := opFault_ends rfl (modSlot s t.id (fun _ => chunkSlot t o h b p cap start k late)) t.id o
      (f := { code := 0x18, operand := positionOperand f (cap.cs + b.start.toInt), elem := BitVec.ofNat 32 (256 * k + n) })
    refine ⟨_, g (chunkSlot t o h b p cap start k late), hnext, ?_, fun h => absurd h hall, fun m hm hbad' hgood' => ?_⟩
    · rw [hfault, slotOf_modSlot hg, if_pos rfl, hthere]
      rfl
    · obtain rfl : m = n := by
        rcases Nat.lt_trichotomy m n with hlt | heq | hgt
        · exact absurd (hgood m hlt) (by omega)
        · exact heq
        · exact absurd (hgood' n hgt) (by omega)
      have hcs : chunkSlot t o h b p cap start k late = modOp (loadChunk t b f (cap.cs + b.start.toInt) p k).1 o.id (fun o =>
        { o with work := .matrix (.mxldw h b) cap start (k + 1) late }) := rfl
      rw [hcs, hload]


/-! ## Blocks (R348, R360, R362, R363) -/

section
variable {s : State} {i : Instr} {t : Slot} {o : Op} {cap : RecCapture} {start k off n : Nat} {late : Bool} {later : List (Nat × Nat)}
  (hslot : slotOf s t.id = some t) (hw : o.work = .matrix i cap start k late) (hruns : arrayRuns t o = true)
  (hblock : (matrixBlocks i (cap.fmts.headD 0)).drop k = (off, n) :: later) (hdue : blockDue i start k ≤ s.cycle)

/-- The operation after a block, with what is left of its bytes. -/
def blockTaken (t : Slot) (o : Op) (i : Instr) (cap : RecCapture) (start k : Nat) (late : Bool) (out : List Byte) : Slot :=
  modOp t o.id (fun o => { o with work := .matrix i { cap with out := out } start (k + 1) late })

include hw hruns hblock hdue in
theorem nextBlock_drain {h : RecHead} {b : MxDrainBody} (hi : i = .mxdrain h b) {r : State × List Byte}
    (hp : performBlock s t o i cap k off n later = .ok r) :
    nextBlock s t o = some (modSlot r.1 t.id (fun t => blockTaken t o i cap start k late r.2)) := by
  subst hi
  rw [nextBlock, hw]
  dsimp only
  rw [hblock]
  dsimp only
  rw [hruns, decide_eq_false (by omega), hp]
  rfl

section
variable {h : RecHead} {b : MxSaveBody} {c : Capture} {cs : List Capture} (hc : cap.handles = c :: cs)
  (hsend : ∀ l ∈ linesOf (c.base + b.off.toNat + off) n, canSend s (dieOf t.id.core) l = true)

include hw hruns hblock hdue hc hsend in
theorem nextBlock_save (hi : i = .mxsave h b) {r : State × List Byte} (hp : performBlock s t o i cap k off n later = .ok r) :
    nextBlock s t o = some (modSlot r.1 t.id (fun t => blockTaken t o i cap start k late r.2)) := by
  subst hi
  unfold blockTaken
  rw [nextBlock, hw]
  dsimp only
  rw [hblock]
  dsimp only
  rw [hruns, decide_eq_false (by omega), hc]
  dsimp only
  rw [List.all_eq_true.2 hsend, hp]
  rfl

include hw hruns hblock hdue hc hsend in
theorem nextBlock_rest (hi : i = .mxrest h b) {r : State × List Byte} (hp : performBlock s t o i cap k off n later = .ok r) :
    nextBlock s t o = some (modSlot r.1 t.id (fun t => blockTaken t o i cap start k late r.2)) := by
  subst hi
  unfold blockTaken
  rw [nextBlock, hw]
  dsimp only
  rw [hblock]
  dsimp only
  rw [hruns, decide_eq_false (by omega), hc]
  dsimp only
  rw [List.all_eq_true.2 hsend, hp]
  rfl

include hw hruns hblock hdue hc hsend in
theorem nextBlock_rest_fault (hi : i = .mxrest h b) {f : FaultInfo} (hp : performBlock s t o i cap k off n later = .error (.fault f)) :
    nextBlock s t o = some (opFault s t.id o f) := by
  subst hi
  rw [nextBlock, hw]
  dsimp only
  rw [hblock]
  dsimp only
  rw [hruns, decide_eq_false (by omega), hc]
  dsimp only
  rw [List.all_eq_true.2 hsend, hp]
  rfl

end

/-! ### A block of a drain -/

theorem drainBlock_banks (t : Slot) (a : Nat) (bs : List Byte) (later : List (Nat × Nat)) :
    drainBlock t a bs later = { bankWrite t a bs with empty := (drainBlock t a bs later).empty } := by
  have hfold (gs : List Nat) (u : Slot) : gs.foldl (fun t g => setGranule t g true) u
      = { u with empty := (gs.foldl (fun t g => setGranule t g true) u).empty } := by
    induction gs generalizing u with
    | nil => rfl
    | cons g gs ih =>
      rw [List.foldl_cons, ih]
      rfl
  exact hfold ..

theorem storesBank_drainBlock {t u : Slot} (hb : u.banks = t.banks) (hp : u.poison = t.poison) (a : Nat) (bs : List Byte)
    (later : List (Nat × Nat)) : storesBank t (drainBlock u a bs later) a bs := by
  rw [drainBlock_banks]
  refine ⟨by rw [← hp]; rfl, fun x => ?_⟩
  have hread : bankByte t x = bankByte u x := by rw [bankByte, bankByte, hb]
  rw [hread]
  exact bankByte_bankWrite u a bs x

theorem granuleFull_drainBlock (u : Slot) (a : Nat) (bs : List Byte) (g : Nat) :
    granuleFull (drainBlock u a bs []) g = (granuleFull u g || (granulesOf a bs.length).contains g) := by
  have hall : (granulesOf a bs.length).filter (fun g => !([] : List (Nat × Nat)).any
      (fun p => decide (p.1 < 16 * g + 16) && decide (16 * g < p.1 + p.2))) = granulesOf a bs.length :=
    List.filter_eq_self.2 fun _ _ => rfl
  unfold drainBlock
  dsimp only
  rw [hall, granuleFull_foldl]
  have hbank : granuleFull (bankWrite u a bs) g = granuleFull u g := rfl
  by_cases hg : g ∈ granulesOf a bs.length <;> simp [hg, hbank]

include hslot hw hruns hblock hdue in
/-- A block of a drain in its bank. -/
theorem drain_block_goes {h : RecHead} {b : MxDrainBody} {s1 : State} (hi : i = .mxdrain h b)
    (hcheck : checkGranules s t.id t.id (engineCode t.id (o.q.getD 0)) (.write t.det.rc) (b.dst.toNat + off) n = .ok s1)
    (hlen : (cap.out.take n).length = n) :
    ∃ s' u, nextBlock s t o = some s' ∧ slotOf s' t.id = some u ∧ storesBank t u (b.dst.toNat + off) (cap.out.take n)
      ∧ (∀ e, e ≠ t.id → slotOf s' e = slotOf s1 e)
      ∧ { s' with cur := s.cur, rest := s.rest } = s
      ∧ (later = [] → ∀ g, granuleFull u g = (granuleFull t g || (granulesOf (b.dst.toNat + off) n).contains g)) := by
  obtain ⟨hframe, hslots⟩ := bankOnly_checkGranules hcheck
  obtain ⟨u1, hu1, hu1eq, hkeep⟩ := hslots t.id t hslot
  obtain ⟨hbanks, hpoison⟩ := hkeep List.not_mem_nil
  obtain ⟨rest, hrest⟩ : ∃ rest, rest = later.map (fun p => (b.dst.toNat + p.1, p.2)) := ⟨_, rfl⟩
  have hdrop (u : Slot) : (drainBlock u (b.dst.toNat + off) (cap.out.take n) rest).id = u.id := by rw [drainBlock_banks]; rfl
  have hperform : performBlock s t o i cap k off n later
      = .ok (modSlot s1 t.id (fun t => drainBlock t (b.dst.toNat + off) (cap.out.take n) rest), cap.out.drop n) := by
    subst hi
    rw [hrest, performBlock, hcheck]
    rfl
  have hnext := nextBlock_drain hw hruns hblock hdue hi hperform
  dsimp only at hnext
  rw [modSlot_modSlot hdrop] at hnext
  have hid (u : Slot) : (blockTaken (drainBlock u (b.dst.toNat + off) (cap.out.take n) rest) o i cap start k late (cap.out.drop n)).id
      = u.id := hdrop u
  refine ⟨_, blockTaken (drainBlock u1 (b.dst.toNat + off) (cap.out.take n) rest) o i cap start k late (cap.out.drop n), hnext,
    ?_, storesBank_drainBlock hbanks hpoison _ _ rest, fun e he => ?_, ?_, fun hlast g => ?_⟩
  · rw [slotOf_modSlot hid, if_pos rfl, hu1]
    rfl
  · rw [slotOf_modSlot hid, if_neg he]
  · have hmod (f : Slot → Slot) : { modSlot s1 t.id f with cur := s.cur, rest := s.rest } = { s1 with cur := s.cur, rest := s.rest } := by
      unfold modSlot
      split <;> rfl
    rw [hmod, hframe]
  · subst hlast
    have hempty : u1.empty = t.empty := by rw [hu1eq]
    have hfull := granuleFull_drainBlock u1 (b.dst.toNat + off) (cap.out.take n) g
    rw [hlen, granuleFull_empty hempty] at hfull
    rw [hrest]
    exact hfull

/-! ### A block at a home -/

/-- The conflict word of a resident line goes with its line. -/
theorem touched_keepWord_resident {s : State} {line : Nat} (hl : (lineWord s line).getLsbD 0 = true) (t : Slot) (w : BitVec 32) :
    Touched s (keepWord s t line w) := by
  unfold keepWord
  dsimp only
  rw [if_pos hl]
  exact touched_of_lines ..

theorem touched_checkLine_resident {s s' : State} {t : Slot} {a : Access} {line : Nat} (h : checkLine s t a false line = .ok s') :
    Touched s s' := by
  unfold checkLine at h
  split at h
  · cases h
  · dsimp only at h
    split at h
    · cases h
    · obtain rfl := Except.ok.inj h
      exact (touched_touchLine s line false).trans (touched_keepWord_resident (present_touchLine s line) t _)

theorem touched_checkLines_resident {s s' : State} {t : Slot} {a : Access} {pa n : Nat} (h : checkLines s t a pa n = .ok s') :
    Touched s s' := by
  have hfold (ls : List Nat) (s : State) (h : ls.foldlM (fun s line => checkLine s t a false line) s = .ok s') : Touched s s' := by
    induction ls generalizing s with
    | nil => obtain rfl := Except.ok.inj h; exact .refl s
    | cons l ls ih =>
      rw [List.foldlM_cons] at h
      obtain ⟨s1, h1, h⟩ := res_bind_eq_ok.1 h
      exact (touched_checkLine_resident h1).trans (ih s1 h)
  unfold checkLines at h
  split at h
  · exact hfold _ s h
  · obtain rfl := Except.ok.inj h; exact .refl s

theorem judgeBlock_save {s1 : State} {b : MxSaveBody} {pa n : Nat} {c : Capture}
    (hr : refusedByte s t pa (linesOf pa n) rightWrite false = none) (hc : checkLines s t .write pa n = .ok s1) :
    judgeBlock s t b pa n true c = .ok s1 := by
  unfold judgeBlock
  rw [if_pos rfl, hr]
  dsimp only
  rw [if_pos rfl, hc]
  rfl

theorem judgeBlock_rest {s1 : State} {b : MxSaveBody} {pa n : Nat} {c : Capture}
    (hr : refusedByte s t pa (linesOf pa n) rightRead false = none) (hc : checkLines s t .read pa n = .ok s1)
    (hp : poisoned s1 pa n = false) : judgeBlock s t b pa n false c = .ok s1 := by
  unfold judgeBlock
  rw [if_neg Bool.false_ne_true, hr]
  dsimp only
  rw [if_neg Bool.false_ne_true, hc, res_ok_bind, hp]
  rfl

/-- A change of a slot leaves memory as it is. -/
theorem sameMemory_modSlot {s s' : State} (h : sameMemory s s') (c : SlotId) (f : Slot → Slot) : sameMemory s (modSlot s' c f) := by
  obtain ⟨hp, hm⟩ := h
  refine ⟨(modSlot_poison ..).trans hp, fun x hx => ?_⟩
  rw [memByte, modSlot_mem]
  exact hm x hx

section
variable {h : RecHead} {b : MxSaveBody} {c : Capture} {cs : List Capture} (hc : cap.handles = c :: cs)
  (hsend : ∀ l ∈ linesOf (c.base + b.off.toNat + off) n, canSend s (dieOf t.id.core) l = true)

include hw hruns hblock hdue hc hsend in
/-- A block of a save at its home. -/
theorem save_block_goes {s1 : State} (hi : i = .mxsave h b)
    (hr : refusedByte s t (c.base + b.off.toNat + off) (linesOf (c.base + b.off.toNat + off) n) rightWrite false = none)
    (hcheck : checkLines s t .write (c.base + b.off.toNat + off) n = .ok s1) :
    ∃ s', nextBlock s t o = some s' ∧ storesMemory s s' (c.base + b.off.toNat + off) (cap.out.take n)
      ∧ { s' with mem := s.mem, poison := s.poison, lines := s.lines, detWords := s.detWords, counters := s.counters
                  l1 := s.l1, cur := s.cur, rest := s.rest } = s := by
  obtain ⟨pa, hpa⟩ : ∃ pa, pa = c.base + b.off.toNat + off := ⟨_, rfl⟩
  rw [← hpa] at hr hcheck ⊢
  have hperform : performBlock s t o i cap k off n later = .ok ((homeWrite s1 pa (cap.out.take n)).1, cap.out.drop n) := by
    subst hi
    unfold performBlock
    rw [hc]
    dsimp only
    rw [← hpa, judgeBlock_save hr hcheck]
    rfl
  have hnext := nextBlock_save hw hruns hblock hdue hc hsend hi hperform
  obtain ⟨honly, hstores⟩ : homeOnly s (homeWrite s1 pa (cap.out.take n)).1 ∧
      storesMemory s (homeWrite s1 pa (cap.out.take n)).1 pa (cap.out.take n) := storesMemory_writeMem ((touched_checkLines_resident hcheck).quiet.trans
    (quiet_tagSteps false (linesOf pa (cap.out.take n).length) (s1, none))) pa (cap.out.take n)
  obtain ⟨r, hr'⟩ : ∃ r, r = (homeWrite s1 pa (cap.out.take n)).1 := ⟨_, rfl⟩
  rw [← hr'] at hnext honly hstores
  obtain ⟨hp, hin, hout⟩ := hstores
  refine ⟨_, hnext, ⟨(modSlot_poison ..).trans hp, fun j hj => ?_, fun x hx hs => ?_⟩, ?_⟩
  · rw [memByte, modSlot_mem]
    exact hin j hj
  · rw [memByte, modSlot_mem]
    exact hout x hx hs
  · have hmod (f : Slot → Slot) : { modSlot r t.id f with
        mem := s.mem, poison := s.poison, lines := s.lines, detWords := s.detWords, counters := s.counters, l1 := s.l1, cur := s.cur
        rest := s.rest } = { r with
        mem := s.mem, poison := s.poison, lines := s.lines, detWords := s.detWords, counters := s.counters, l1 := s.l1, cur := s.cur
        rest := s.rest } := by
      unfold modSlot
      split <;> rfl
    rw [hmod, honly]

theorem restoreTile_error {u : Slot} {tile : BitVec 3} {bs : List Byte} {e : Stop} (h : restoreTile u tile bs = .error e) :
    e = .fault { code := 0x17 } := by
  unfold restoreTile at h
  dsimp only at h
  split at h
  · exact (Except.error.inj h).symm
  · cases h

include hw hruns hblock hdue hc hsend in
/-- A block of a restore read at its home, and the tile set with the last. -/
theorem rest_block_goes {s1 : State} (hi : i = .mxrest h b)
    (hr : refusedByte s t (c.base + b.off.toNat + off) (linesOf (c.base + b.off.toNat + off) n) rightRead false = none)
    (hcheck : checkLines s t .read (c.base + b.off.toNat + off) n = .ok s1)
    (hclean : poisoned s1 (c.base + b.off.toNat + off) n = false) :
    let r := homeRead s1 (c.base + b.off.toNat + off) n
    let out := r.2.reverse ++ cap.out
    ∃ s', nextBlock s t o = some s' ∧ sameMemory s s'
      ∧ (k + 1 < 1665 → s' = modSlot r.1 t.id (fun t => modOp t o.id (fun o =>
          { o with work := .matrix i { cap with out := out } start (k + 1) late })))
      ∧ ∀ u x, k + 1 = 1665 → slotOf r.1 t.id = some u → restoreTile u b.tile out.reverse = .ok x →
          s' = modSlot (modSlot r.1 t.id (fun _ => x)) t.id (fun t => modOp t o.id (fun o =>
            { o with work := .matrix i { cap with out := [] } start (k + 1) late })) := by
  intro r out
  have hsame : sameMemory s r.1 := ((touched_checkLines_resident hcheck).trans (touched_homeRead s1 _ n false)).quiet.2
  have hgo {y : State × List Byte} (hy : performBlock s t o i cap k off n later = .ok y) :=
    nextBlock_rest hw hruns hblock hdue hc hsend hi hy
  have hperform : performBlock s t o i cap k off n later = (if k + 1 < 1665 then .ok (r.1, out) else match slotOf r.1 t.id with
      | some u => (restoreTile u b.tile out.reverse).map (fun u => (modSlot r.1 t.id (fun _ => u), []))
      | none => .ok (r.1, out)) := by
    subst hi
    unfold performBlock
    rw [hc]
    dsimp only
    rw [judgeBlock_rest hr hcheck hclean]
    rfl
  by_cases hk : k + 1 < 1665
  · rw [if_pos hk] at hperform
    exact ⟨_, hgo hperform, sameMemory_modSlot hsame .., fun _ => rfl, fun _ _ h => absurd h (by omega)⟩
  · rw [if_neg hk] at hperform
    cases hu : slotOf r.1 t.id with
    | none =>
      rw [hu] at hperform
      exact ⟨_, hgo hperform, sameMemory_modSlot hsame .., fun h => absurd h hk, fun _ _ _ h => by cases h⟩
    | some u =>
      rw [hu] at hperform
      dsimp only at hperform
      cases hx : restoreTile u b.tile out.reverse with
      | ok x =>
        rw [hx] at hperform
        refine ⟨_, hgo hperform, sameMemory_modSlot (sameMemory_modSlot hsame ..) .., fun h => absurd h hk, fun u' x' _ h h' => ?_⟩
        obtain rfl := Option.some.inj h
        obtain rfl := Except.ok.inj (hx.symm.trans h')
        rfl
      | error e =>
        obtain rfl := restoreTile_error hx
        rw [hx] at hperform
        obtain ⟨g, -, hfault⟩ := opFault_ends (f := { code := 0x17 }) rfl s t.id o
        refine ⟨_, nextBlock_rest_fault hw hruns hblock hdue hc hsend hi hperform, ?_, fun h => absurd h hk, fun u' x' _ h h' => ?_⟩
        · rw [hfault]
          exact sameMemory_modSlot ⟨rfl, fun _ _ => rfl⟩ ..
        · obtain rfl := Option.some.inj h
          cases hx.symm.trans h'

end

end

/-- Settles O42: each unit's move is one equation of its function, and its effect on tiles, buffers, banks and memory follows
from the laws of sums over columns, of banks and of homes. -/
theorem matrixUnits : Obligations.MatrixUnits := by
  refine ⟨fun h b cs k j bits t p f image => ?_, fun s i t o cap start k late hslot hw hstop hat hans => ?_⟩
  · intro i w tile trit term hpos hact hflat hj himage
    refine ⟨fun a => ?_, fun u y hk hj0 hu a => ?_⟩
    · rw [iterationRow_eq hpos hact]
      exact acc_addRow hflat himage a
    · subst hk hj0
      exact mxacc_rows hflat himage hpos hact hu a
  · have hruns := arrayRuns_of hstop hat hans
    refine ⟨fun b hi hrow hdue => nextRow_eq hw hruns hi hrow hdue, fun h b p hi hk hdue => ?_,
      fun off n later hblock hdue => ⟨fun h b s1 hi hcheck hlen => ?_, fun h b c cs s1 hi hc => ?_, fun h b c cs s1 hi hc => ?_⟩⟩
    · subst hi
      exact fun hpos => chunk_goes_in hslot hw hruns hk hdue hpos
    · exact drain_block_goes hslot hw hruns hblock hdue hi hcheck hlen
    · exact fun hsend hr hcheck => save_block_goes hw hruns hblock hdue hc hsend hi hr hcheck
    · exact fun hsend hr hcheck hclean => rest_block_goes hw hruns hblock hdue hc hsend hi hr hcheck hclean

end Sys2Proof.Machine
end

section
/-! SUPPORT. A transfer to another package from a place that two slots share: R390; O46. -/

namespace Sys2Proof.Machine

/-! ## A GET of two slots at one place -/

/-- A GET of one byte from package 1. -/
def getOne : CpyNetBody := { dev := 1, get := true }

/-- Slot 0 of core 0 with the GET on q3 under a number. -/
def getter (num : Nat) : Slot :=
  { id := ⟨0, false⟩, item := some (itemOf 1), ops := [{ id := 0, q := some 3, num := num, work := .net getOne none false false none 0 }] }

/-- Core 1 in the turn, and two slots at the place of core 0, whose GETs have the same identifier and other numbers. -/
def getters : State := { cur := { id := ⟨1, false⟩ }, rest := [getter 1, getter 2], port := { up := true } }

/-- The numbers of the operations that an event leaves in the slots behind. -/
def numbersAfter (i : Instr) (s : State) : List (List Nat) :=
  match exec i s with
  | .next r => r.rest.map (fun t => t.ops.map (fun o => o.num))
  | _ => []

theorem numbersAfter_next {i : Instr} {s r : State} (h : exec i s = .next r) :
    numbersAfter i s = r.rest.map (fun t => t.ops.map (fun o => o.num)) := by
  rw [numbersAfter, h]

/-- Refutes O46: the step changes the operation of each slot at the place as it finds it, where the statement puts the first
slot's operation, with its number, into both. -/
theorem not_copyEngineMoves : ¬ Obligations.CopyEngineMoves := by
  unfold Obligations.CopyEngineMoves
  intro h
  obtain ⟨-, -, hnet⟩ := h getters ⟨0, false⟩ (getter 1) 3 1 { id := 0, q := some 3, num := 1, work := .net getOne none false false none 0 }
    (by decide +kernel) (by decide +kernel) (by decide +kernel) (by decide +kernel) rfl (by decide +kernel) (by decide +kernel)
    (by decide +kernel) (by decide +kernel)
  obtain ⟨-, hfar⟩ := hnet getOne none false false none 0 rfl (by decide) rfl (by decide) (by decide +kernel) (by decide +kernel)
  obtain ⟨hget, -⟩ := hfar (by decide) rfl
  have hnums := numbersAfter_next (hget rfl rfl (by decide +kernel))
  exact absurd hnums (by decide +kernel)

end Sys2Proof.Machine
end

section
/-! SUPPORT. The positions of a troupe's state slots after a SCAN: R378; O47. -/

namespace Sys2Proof.Machine

/-! ## A SCAN whose members stand at other positions (R378) -/

/-- A tree operator of one component, by addition. -/
def treeAddition : ScanOp := { record := BitVec.ofNat 512 (1 + (4 * 2 ^ 12) * 2 ^ 192), mode := 0 }

/-- A member of a troupe of two whose SCAN on state slot 5, which stands at position `p`, has read its source. -/
def hubMember (core : BitVec 8) (rank p : Nat) : Slot :=
  { id := ⟨core, false⟩
    item := some { queue := 0, ordinal := 1, index := rank, wid := 0, rank := rank, size := 2, dispatched := 0 }
    z := ssetRange 0 [] (32768 * 5) (bytesOf 64 (p + 2 * 2 ^ 27 + 2 ^ 41))
    ztag := [(5, { state := 1 })]
    ops := [{ id := 0, q := some 3, num := 1, staged := some { values := List.replicate 16 0 }
              work := .scan 5 0x40000 0x80000 2 2 treeAddition true false true [] }] }

/-- The members, rank 0 at position 0 and rank 1 at position 2. -/
def hubMembers : List (Slot × Op) :=
  [hubMember 0 0 0, hubMember 1 1 2].map (fun t => (t, t.ops.headD { id := 0 }))

def hubs : State := { cur := hubMember 0 0 0, rest := [hubMember 1 1 2] }

/-- What the members' results come to. -/
def hubFold : Res (State × List Channel × Nat) :=
  hubMembers.foldl (scanMember (hdrP (zHeader (hubMember 0 0 0) 5)) 2 2 treeAddition) (.ok (hubs, channelsOf (hubMember 0 0 0) 5, 0))

@[irreducible] def hubResult : State × List Channel × Nat :=
  match hubFold with
  | .ok x => x
  | .error _ => (hubs, [], 0)

theorem hubFold_ok : hubFold = .ok hubResult := by
  have hok : hubFold.isOk = true := by decide +kernel
  unfold hubResult
  cases h : hubFold with
  | ok x => rfl
  | error e => rw [h] at hok; cases hok

/-- The positions of state slot 5 in the slots behind, after an event. -/
def positionsAfter (i : Instr) (s : State) : List Nat :=
  match exec i s with
  | .next r => r.rest.map (fun t => hdrP (zHeader t 5))
  | _ => []

theorem positionsAfter_next {i : Instr} {s r : State} (h : exec i s = .next r) :
    positionsAfter i s = r.rest.map (fun t => hdrP (zHeader t 5)) := by
  rw [positionsAfter, h]

/-- Refutes O47: the hubs count on from rank 0's position for every member, where the statement has each member's slot count on from
its own. -/
theorem not_scanAndCarryEvents : ¬ Obligations.ScanAndCarryEvents := by
  unfold Obligations.ScanAndCarryEvents
  intro h
  obtain ⟨hscan, -⟩ := h
  obtain ⟨-, -, hhubs, -⟩ := hscan hubs ⟨0, false⟩ (hubMember 0 0 0) (by decide +kernel) (by decide +kernel)
  obtain ⟨-, hgood⟩ := hhubs hubMembers (by decide +kernel)
  obtain ⟨-, hcombine⟩ := hgood (by decide +kernel) (by decide +kernel)
  have hfold := hubFold_ok
  rw [hubFold, ← Prod.eta hubResult, ← Prod.eta hubResult.2] at hfold
  have hexec := hcombine (hubMember 0 0 0, (hubMember 0 0 0).ops.headD { id := 0 })
    [(hubMember 1 1 2, (hubMember 1 1 2).ops.headD { id := 0 })] 5 0x40000 0x80000 2 2 treeAddition true false true []
    hubResult.1 hubResult.2.1 hubResult.2.2 rfl (by decide +kernel) rfl hfold
  exact absurd (positionsAfter_next hexec) (by decide +kernel)

end Sys2Proof.Machine
end

section
/-! SUPPORT. An eviction in a block table with two entries under one key: R141, R151; O49. -/

namespace Sys2Proof.Machine

/-! ## A block table with two entries under one key (R141, R151) -/

/-- Sequence 2 of 512 positions, whose table names blocks 1 and 2 under key 17, the second as a sealed span. -/
def twiceNamed : Sequence :=
  { id := 2, tenant := 0, context := 0, kdh := 0, doms := [], spans := 1, length := 512, stride := 0
    entries := [(17, { kdh := 0, pbid := 1, sealed_ := false }), (17, { kdh := 0, pbid := 2, sealed_ := true })] }

/-- Die 2 with the sequence; block 1 has one survivor, and block 2 none. -/
def twiceNamedState : State :=
  { cur := { id := ⟨0, false⟩ }, port := { up := true }
    kv := Vector.replicate 2 { seqs := [twiceNamed], blocks := [(1, { refs := 1, bitmap := 1 }), (2, { refs := 1, sealed_ := true })] } }

/-- The eviction of positions 256 to 259. -/
def evictFour : KvReq := { kind := .evict, seq := 2, second := 256, n := 4 }

/-- Refutes O49: the eviction finds a block by its key and reads the first entry under it at the place of the second, so that it
takes a position of block 1, where no entry names an evicted position. -/
theorem not_kvOperations : ¬ Obligations.KvOperations := by
  unfold Obligations.KvOperations
  intro h
  obtain ⟨-, -, -, hevict, -⟩ := h twiceNamedState twiceNamedState.cur evictFour [] twiceNamed (by decide +kernel) (by decide +kernel) rfl rfl
    (by decide +kernel)
  obtain ⟨-, hrange⟩ := hevict rfl
  obtain ⟨hnone, -⟩ := hrange (by decide +kernel)
  obtain ⟨hblocks, -⟩ := hnone (by decide +kernel)
  have hbits := congrArg (fun m => (sget ({} : Block) m 1).bitmap) hblocks
  exact absurd hbits (by decide +kernel)

end Sys2Proof.Machine
end

section
/-! SUPPORT. KV operations at their home slices, dead handles, tier moves and the query path (R133, R138, R153, R159 to R169) -/

namespace Sys2Proof.Machine

/-! ## KV operations at their home (R138, R159, R393) -/

theorem kvReady_of {s : State} {die : Fin 2} {k : Nat} {ref : OpRef} {t : Slot} {o : Op} {r : KvReq} {data : List Byte}
    (hstop : o.stopped = false) (hfirst : ∀ a ∈ (s.kv[die]).arrivals.take k, sameItem ref a = false)
    (hmove : ∀ b ∈ kvNamed s r data, b.moving = false) (hdue : o.due < s.cycle) (horder : inOrder t o = true)
    (hprefix : prefixSlice s ref = none ∨ ∀ a ∈ (s.kv[die]).arrivals.take k, prefixSlice s a ≠ prefixSlice s ref)
    (hpath : pathUp s (dieOf t.id.core) (die.val + 2) (kvHome r).2.toNat = true) : kvReady s die k ref t o r data = true := by
  have hsame : ((s.kv[die]).arrivals.take k).any (sameItem ref) = false := by
    rw [List.any_eq_false]
    exact fun a ha => by simp [hfirst a ha]
  have hmoving : (kvNamed s r data).any (fun b => b.moving) = false := by
    rw [List.any_eq_false]
    exact fun b hb => by simp [hmove b hb]
  have hslice : ((prefixSlice s ref).isNone || !((s.kv[die]).arrivals.take k).any (fun a => prefixSlice s a = prefixSlice s ref)) = true := by
    rcases hprefix with h | h
    · rw [h]
      rfl
    · have hany : ((s.kv[die]).arrivals.take k).any (fun a => prefixSlice s a = prefixSlice s ref) = false := by
        rw [List.any_eq_false]
        exact fun a ha => by simpa using h a ha
      rw [hany, Bool.not_false, Bool.or_true]
  unfold kvReady
  dsimp only
  rw [hstop, decide_eq_true hdue, hsame, hslice, horder, hpath, hmoving]
  rfl

theorem checkKvLines_plain {s : State} {t : Slot} (hdet : isDet t = false) (r : KvReq) (data : List Byte) (d : KvDone) :
    checkKvLines s t r data d = .ok d := by
  rw [checkKvLines, hdet]

/-- How an operation's slice answers it: into registers, into the banks, or after the acknowledgement of the domains destroyed. -/
def kvAnswered (s : State) (die : Fin 2) (t : Slot) (o : Op) (r : KvReq) (dest : Option (BitVec 6)) (done : KvDone) : State :=
  match dest with
  | some g => modSlot done.st t.id (fun t => kvPair t o.id g done)
  | none =>
    if (newlyDead s done.st die).isEmpty then engineFinish done.st t.id o r.status (kvReply r done)
    else modSlot done.st t.id (fun t => modOp t o.id (fun o =>
      { o with work := .status r.status (kvReply r done), dead := newlyDead s done.st die }))

section
variable {s : State} {die : Fin 2} {k : Nat} {ref : OpRef} {t : Slot} {o : Op} {r : KvReq} {dest : Option (BitVec 6)} {opens : Bool}
  (harr : (s.kv[die]).arrivals[k]? = some ref) (href : refOp s ref = some (t, o)) (hw : o.work = .kv r dest)
  (hopens : decide (r.kind = .opens) = opens) (hready : kvReady s die k ref t o r ((kvData o r).getD []) = true)
  (hdet : isDet t = false)
include harr href hw hopens hready hdet

theorem kvPerform_data {data : List Byte} (hdata : kvData o r = some data) : kvPerform s die k opens =
    kvAnswered s die t o r dest (kvRun (dropArrival s die k) t r data) := by
  unfold kvPerform
  rw [harr]
  dsimp only
  rw [href]
  dsimp only
  rw [hw]
  dsimp only
  rw [hopens, hready, hdata]
  dsimp only
  rw [checkKvLines_plain hdet, if_neg (by simp)]
  rfl

theorem kvPerform_reads (hslot : slotOf s t.id = some t) (htoken : (kvToken r).2 ≠ 0) (hstaged : o.staged = none)
    (hfull : firstEmpty t (kvToken r).1 (kvToken r).2 = none) (hclean : bankPoisoned t (kvToken r).1 (kvToken r).2 = false) :
    kvPerform s die k opens = modSlot s t.id (fun u => modOp u o.id (fun o =>
      { o with staged := some { values := (bankRead t (kvToken r).1 (kvToken r).2).map (fun b => b.toNat) } })) := by
  have hnone : kvData o r = none := by rw [kvData, if_neg htoken, hstaged]; rfl
  have htake : engineTake s t o (kvToken r).1 (kvToken r).2 = .ok (s, bankRead t (kvToken r).1 (kvToken r).2) := by
    rw [engineTake, hfull]
    dsimp only
    rw [checkGranules_of_plain hslot hdet, res_ok_bind, bankData, hslot]
    dsimp only
    rw [hclean]
    rfl
  unfold kvPerform
  rw [harr]
  dsimp only
  rw [href]
  dsimp only
  rw [hw]
  dsimp only
  rw [hopens, hready, hnone]
  dsimp only
  rw [htake, if_neg (by simp)]

end

/-! ### KVOPEN (R153) -/

theorem setGranules_id (t : Slot) (a n : Nat) (full : Bool) : (setGranules t a n full).id = t.id := by rw [setGranules_eq]

/-- What an engine writes for an operation changes slots alone. -/
theorem engineFinish_kv {s : State} {c : SlotId} {t : Slot} (hslot : slotOf s c = some t) (hdet : isDet t = false) (o : Op) (addr : Nat)
    (bs : List Byte) : ∃ f : Slot → Slot, (∀ u, (f u).id = u.id) ∧ engineFinish s c o addr bs = modSlot s c f := by
  refine ⟨fun u => modOp (setGranules (bankWrite u addr bs) addr bs.length true) o.id (fun o => { o with work := .none }),
    fun u => setGranules_id .., ?_⟩
  rw [engineFinish, engineFill, hslot]
  dsimp only
  rw [checkGranules_of_plain hslot hdet, res_ok_bind]
  exact modSlot_modSlot (f := fun t => setGranules (bankWrite t addr bs) addr bs.length true) (fun u => setGranules_id ..) s c

/-- The slots are those of another state. -/
theorem slotOf_setDie (s : State) (die : Fin 2) (d : KvDie) (c : SlotId) : slotOf (setDie s die d) c = slotOf s c := rfl

theorem newDomain_slotOf {s s1 : State} {die : Fin 2} {kdh : BitVec 32} (h : newDomain s die = some (s1, kdh)) (c : SlotId) :
    slotOf s1 c = slotOf s c := by
  unfold newDomain at h
  dsimp only at h
  split at h
  · cases h
  · cases h
    rfl

/-- The sequence that a KVOPEN opens, and what it answers. -/
def openedSeq (s : State) (die : Fin 2) (t : Slot) (id : BitVec 24) (kdh : BitVec 32) (w : Word) : Sequence :=
  placeSeq s die
    { id := id, tenant := t.tenant, context := t.context, kdh := kdh, doms := [kdh]
      spans := w.extractLsb' 7 18, stride := bits w 6 0 + 1 }

def openedDone (s : State) (die : Fin 2) (t : Slot) (id : BitVec 24) (kdh : BitVec 32) (w : Word) : KvDone :=
  { st := setDie s die { s.kv[die] with seqs := s.kv[die].seqs ++ [openedSeq s die t id kdh w] }, seq := id, kdh := kdh }

/-- What a KVOPEN performed adds: the sequence, at the end of its die's. -/
theorem kvRun_opens {s : State} {t : Slot} {r : KvReq} {die : Fin 2} {id : BitVec 24} (hk : r.kind = .opens)
    (hdie : (kvHome r).1 = die) (hword : r.word.toNat < 2 ^ 26) (hid : newSeqId s.kv[die] die = some id)
    (hdom : (newDomain s die).isSome = true) (hadm : kvAdmits s die 0 t.tenant t.context (kvRight .opens) = true) (data : List Byte) :
    ∃ x, x ∈ (kvRun s t r data).st.kv[die].seqs ∧ x.id = id ∧ x.length = 0 ∧ x.tenant = t.tenant ∧ x.context = t.context
      ∧ x.spans = r.word.extractLsb' 7 18 ∧ x.stride = r.word.toNat % 2 ^ 7 + 1
      ∧ ∀ c, slotOf (kvRun s t r data).st c = slotOf s c := by
  obtain ⟨⟨s1, kdh⟩, hs1⟩ := Option.isSome_iff_exists.1 hdom
  have hslice : (kvHome r).2 = 0 := by rw [kvHome, hk]
  have hbits : bits r.word 63 26 = 0 := by
    have : r.word.toNat >>> 26 = 0 := by rw [Nat.shiftRight_eq_div_pow]; omega
    rw [bits, this, Nat.zero_mod]
  have hopen : kvOpen s die t.tenant t.context r.word = .ok (openedDone s1 die t id kdh r.word) := by
    rw [kvOpen, if_neg (by simp [hbits]), hid]
    dsimp only
    rw [hs1]
    rfl
  have hnamed : (kvNamed s r data).any (fun b => b.tier = 3) = false := by
    rw [List.any_eq_false]
    intro b hb
    unfold kvNamed at hb
    dsimp only at hb
    split at hb
    · next x _ =>
      have hempty : kvBlocks s.kv[(kvHome r).1] x r data = [] := by rw [kvBlocks, hk]
      rw [hempty] at hb
      exact absurd hb List.not_mem_nil
    · exact absurd hb List.not_mem_nil
  have hjudge : kvJudge s t.tenant t.context r data = openedDone s1 die t id kdh r.word := by
    unfold kvJudge
    dsimp only
    rw [hdie, hslice, hk, hadm]
    dsimp only
    rw [hopen]
    rfl
  have hrun : kvRun s t r data = kvJudge s t.tenant t.context r data := by
    unfold kvRun
    dsimp only
    rw [hnamed, Bool.and_false, Bool.false_and]
    rfl
  rw [hrun, hjudge]
  refine ⟨openedSeq s1 die t id kdh r.word, ?_, rfl, rfl, rfl, rfl, rfl, ?_, fun c => newDomain_slotOf hs1 c⟩
  · simp [openedDone, setDie]
  · change bits r.word 6 0 + 1 = _
    rw [bits, Nat.shiftRight_zero]

theorem kvHome_opens {r : KvReq} {die : Bool} (hk : r.kind = .opens) (hd : r.word.getLsbD 25 = die) :
    (kvHome r).1 = if die then 1 else 0 := by
  rw [kvHome, hk]
  dsimp only
  rw [hd]

/-! ## Dead handles (R133) -/

theorem zByte_of_zRead {t u : Slot} {z : BitVec 6} (h : zRead u z 0 stateBytes = zRead t z 0 stateBytes) {k : Nat} (hk : k < 32768) :
    sget 0 u.z (32768 * z.toNat + k) = sget 0 t.z (32768 * z.toNat + k) := by
  have hbyte (v : Slot) : (zRead v z 0 stateBytes)[k]'(by rw [zRead_length]; exact hk) = sget 0 v.z (32768 * z.toNat + k) := by
    simp only [zRead, sgetRange_eq, List.getElem_map, List.getElem_range, Nat.add_zero]
  rw [← hbyte u, ← hbyte t]
  simp only [h]

/-- A state slot of a dead handle is zero and DEAD; every other one is as it was. -/
theorem killState_slots {t : Slot} (ht : swf {} t.ztag = true) (kdh : BitVec 32) (z : BitVec 6) :
    (((zTag t z).state = 1 ∧ (zTag t z).kdh = kdh) →
      (zTag (killState kdh t) z).state = 2 ∧ ∀ k, k < 32768 → sget 0 (killState kdh t).z (32768 * z.toNat + k) = 0)
    ∧ (¬ ((zTag t z).state = 1 ∧ (zTag t z).kdh = kdh) → zTag (killState kdh t) z = zTag t z ∧ ∀ k, k < 32768 →
        sget 0 (killState kdh t).z (32768 * z.toNat + k) = sget 0 t.z (32768 * z.toNat + k)) := by
  obtain ⟨hread, hout, hin⟩ := killOnes_spec (killHit kdh t) t z
  rw [← killState_eq] at hread hout hin
  have hmem : z.toNat ∈ (killHit kdh t).map (fun p => p.1) ↔ (zTag t z).state = 1 ∧ (zTag t z).kdh = kdh := by
    constructor
    · intro h
      obtain ⟨p, hp, hpz⟩ := List.mem_map.1 h
      obtain ⟨hmem, hhit⟩ := List.mem_filter.1 hp
      have htag : zTag t z = p.2 := by
        rw [zTag, ← hpz]
        exact sget_of_mem {} t.ztag ((swf_iff _ _).1 ht).1 hmem
      rw [htag]
      simpa using hhit
    · intro h
      have hne : zTag t z ≠ {} := fun h0 => by rw [h0] at h; exact absurd h.1 (by decide)
      exact List.mem_map.2 ⟨(z.toNat, zTag t z), List.mem_filter.2 ⟨mem_of_zTag hne, by simpa using h⟩, rfl⟩
  refine ⟨fun hhit => ⟨?_, fun k hk => ?_⟩, fun hhit => ⟨hout (hmem.not.2 hhit), fun k hk => ?_⟩⟩
  · obtain ⟨p, -, hp, -⟩ := hin (hmem.2 hhit)
    rw [hp]
  · rw [if_pos (hmem.2 hhit)] at hread
    have hbyte : (zRead (killState kdh t) z 0 stateBytes)[k]'(by rw [zRead_length]; exact hk)
        = sget 0 (killState kdh t).z (32768 * z.toNat + k) := by
      simp only [zRead, sgetRange_eq, List.getElem_map, List.getElem_range, Nat.add_zero]
    rw [← hbyte]
    simp only [hread, List.getElem_replicate]
  · rw [if_neg (hmem.not.2 hhit)] at hread
    exact zByte_of_zRead hread hk

theorem deadHandle_reaches {s : State} {core : BitVec 8} {b : BitVec 32 × BitVec 128} (hp : s.mgmt.powered = true)
    (hb : s.broadcasts.find? (fun b => core.toNat < 128 && b.2.getLsbD core.toNat) = some b) :
    ∃ r, exec (.deadHandleBroadcast core) s = .next r ∧ r.mem = s.mem
      ∧ (b.2 &&& ~~~(1#128 <<< core.toNat) = 0 → r.broadcasts = s.broadcasts.filter (fun x => x ≠ b))
      ∧ ∀ c t, slotOf s c = some t → c.core = core → swf {} t.ztag = true →
        ∃ u, slotOf r c = some u ∧ u.g = t.g ∧ u.banks = t.banks ∧ ∀ z : BitVec 6,
          let hit : Prop := (zTag t z).state = 1 ∧ (zTag t z).kdh = b.1
          (hit → (zTag u z).state = 2 ∧ ∀ k, k < 32768 → sget 0 u.z (32768 * z.toNat + k) = 0)
          ∧ (¬ hit → zTag u z = zTag t z ∧ ∀ k, k < 32768 →
              sget 0 u.z (32768 * z.toNat + k) = sget 0 t.z (32768 * z.toNat + k)) := by
  obtain ⟨kill, hkill⟩ : ∃ kill : Slot → Slot, kill = fun t => if t.id.core = core then killState b.1 t else t := ⟨_, rfl⟩
  have hid (u : Slot) : (kill u).id = u.id := by
    rw [hkill]
    dsimp only
    split
    · rw [killState_frame]
    · rfl
  have hhere {c : SlotId} {t : Slot} (ht : slotOf s c = some t) (hc : c.core = core) : kill t = killState b.1 t := by
    have htid := slotOf_id ht
    rw [hkill]
    exact if_pos (by rw [htid, hc])
  have hg (t : Slot) : (killState b.1 t).g = t.g ∧ (killState b.1 t).banks = t.banks := by
    rw [killState_frame]
    exact ⟨rfl, rfl⟩
  rw [exec_deadHandleBroadcast, execDeadHandleBroadcast, hb]
  dsimp only
  rw [← hkill, event_next hp]
  by_cases hleft : b.2 &&& ~~~(1#128 <<< core.toNat) = 0
  · rw [if_pos hleft]
    refine ⟨_, rfl, rfl, fun _ => rfl, fun c t ht hc hz => ⟨clearDead b.1 (killState b.1 t), ?_, (hg t).1, (hg t).2, fun z => killState_slots hz b.1 z⟩⟩
    rw [slotOf_mapSlots (f := clearDead b.1) fun _ => rfl]
    have hslots : slotOf (mapSlots s kill) c = some (killState b.1 t) := by
      rw [slotOf_mapSlots hid, ht, Option.map_some, hhere ht hc]
    exact congrArg (Option.map (clearDead b.1)) hslots
  · rw [if_neg hleft]
    refine ⟨_, rfl, rfl, fun h => absurd h hleft, fun c t ht hc hz => ⟨killState b.1 t, ?_, (hg t).1, (hg t).2, fun z => killState_slots hz b.1 z⟩⟩
    have hslots : slotOf (mapSlots s kill) c = some (killState b.1 t) := by
      rw [slotOf_mapSlots hid, ht, Option.map_some, hhere ht hc]
    exact hslots

/-! ## Tiers (R164) -/

section
variable {s : State} {die : Bool} {pbid : BitVec 26} {tier : BitVec 3} {loc : BitVec 64} (hp : s.mgmt.powered = true)
  {dieN : Fin 2} (hdie : (if die then 1 else 0) = dieN) {b : Block} (hb : blockOf s.kv[dieN] pbid.toNat = b)
include hp hdie hb

theorem exec_tierMove_free (h0 : b.refs = 0) : exec (.tierMove die pbid tier loc) s = .next s := by
  subst hdie
  rw [exec_tierMove, execTierMove]
  dsimp only
  rw [hb, if_pos h0]
  exact event_next hp

theorem exec_tierMove_ends (h0 : b.refs ≠ 0) (hm : b.moving = true) (hreach : moveReaches s b = true) :
    exec (.tierMove die pbid tier loc) s = .next (putMoved s dieN pbid.toNat { b with moving := false, tier := b.target.1, loc := b.target.2 }) := by
  subst hdie
  rw [exec_tierMove, execTierMove]
  dsimp only
  rw [hb, if_neg h0, if_pos hm, hreach]
  exact event_next hp

theorem exec_tierMove_waits (h0 : b.refs ≠ 0) (hm : b.moving = true) (hreach : moveReaches s b = false) :
    exec (.tierMove die pbid tier loc) s = .next s := by
  subst hdie
  rw [exec_tierMove, execTierMove]
  dsimp only
  rw [hb, if_neg h0, if_pos hm, hreach]
  exact event_next hp

theorem exec_tierMove_starts (h0 : b.refs ≠ 0) (hm : b.moving = false) (hok : tierOk s dieN pbid.toNat tier loc = true)
    (hup : s.port.up = true ∨ b.tier ≠ 3) :
    exec (.tierMove die pbid tier loc) s = .next (putMoved s dieN pbid.toNat { b with moving := true, target := (tier, loc) }) := by
  have hreach : (decide (b.tier = 3) && !s.port.up) = false := by
    rcases hup with h | h
    · rw [h]
      exact Bool.and_false _
    · rw [decide_eq_false h]
      rfl
  subst hdie
  rw [exec_tierMove, execTierMove]
  dsimp only
  rw [hb, if_neg h0, hm, if_neg Bool.false_ne_true, hok, hreach]
  exact event_next hp

theorem exec_tierMove_refused (h0 : b.refs ≠ 0) (hm : b.moving = false)
    (hno : tierOk s dieN pbid.toNat tier loc = false ∨ s.port.up = false ∧ (b.tier = 3 ∨ tier = 3)) :
    exec (.tierMove die pbid tier loc) s = .next s := by
  have hcond : (b.tier = 3 && !s.port.up || !tierOk s dieN pbid.toNat tier loc) = true := by
    rcases hno with h | ⟨hdown, h | h⟩
    · simp [h]
    · simp [h, hdown]
    · subst h
      have : tierOk s dieN pbid.toNat 3 loc = false := by
        unfold tierOk
        simp [hdown]
      rw [this, Bool.not_false, Bool.or_true]
  subst hdie
  rw [exec_tierMove, execTierMove]
  dsimp only
  rw [hb, if_neg h0, hm, if_neg Bool.false_ne_true, if_pos hcond]
  exact event_next hp

end

theorem putMoved_eq {s : State} {pbid : BitVec 26} {dieN : Fin 2} {b c : Block} (hb : blockOf s.kv[dieN] pbid.toNat = b)
    (hs : c.sealed_ = b.sealed_) (hst : c.stride = b.stride) :
    let u := putBlock s dieN pbid.toNat c
    putMoved s dieN pbid.toNat c = { u with kv := u.kv.set dieN { u.kv[dieN] with
      pool := s.kv[dieN].pool + (if inDieMemory b then blockBytes b.sealed_ b.stride else 0)
        - (if inDieMemory c then blockBytes b.sealed_ b.stride else 0) } } := by
  intro u
  have hpool : u.kv[dieN].pool = s.kv[dieN].pool := by simp [u, putBlock, setDie]
  unfold putMoved
  dsimp only
  rw [hb, hs, hst, ← hpool]
  rfl

/-! ## Queries (R165 to R169) -/

theorem engineTake_plain {s : State} {t : Slot} (hslot : slotOf s t.id = some t) (hdet : isDet t = false) (o : Op) {a n : Nat}
    (hfull : firstEmpty t a n = none) (hclean : bankPoisoned t a n = false) : engineTake s t o a n = .ok (s, bankRead t a n) := by
  rw [engineTake, hfull]
  dsimp only
  rw [checkGranules_of_plain hslot hdet, res_ok_bind, bankData, hslot]
  dsimp only
  rw [hclean]
  rfl

section
variable {s : State} {die : Bool} {i : Nat} {a : QueryArrival} {t : Slot} {o : Op} {queue : BitVec 5} {h : BitVec 512}
  {addr len status : Nat} (hp : s.mgmt.powered = true) {dieN : Fin 2} (hdie : (if die then 1 else 0) = dieN)
  (horder : inOrder t o = true) (hpath : pathUp s (dieOf t.id.core) (dieN.val + 2) (a.queue.toNat % 16) = true)
  (hat : (s.kv[dieN]).queries[i]? = some a) (href : refOp s a.sender = some (t, o)) (hw : o.work = .query queue h addr len status)
  (hstop : o.stopped = false) (hfirst : ∀ y ∈ (s.kv[dieN]).queries.take i, ¬ (sameItem y.sender a.sender = true ∧ y.queue = a.queue))
include hp hdie horder hpath hat href hw hstop hfirst

/-- The arrival whose turn it is: its payload is read, or it is judged. -/
theorem exec_queryEntryEnqueue_some {p : List Byte} (hpay : a.payload = some p) (hres : a.resendAt = none) :
    exec (.queryEntryEnqueue die i) s = .next (enqueueEntry s dieN i a t o h p status) := by
  have hany : ((s.kv[dieN]).queries.take i).any (fun x => sameItem x.sender a.sender && x.queue = a.queue) = false := by
    rw [List.any_eq_false]
    exact fun y hy => by simpa using hfirst y hy
  subst hdie
  rw [exec_queryEntryEnqueue, execQueryEntryEnqueue, hat]
  dsimp only
  rw [href]
  dsimp only
  rw [hw]
  dsimp only
  rw [hany, hstop, horder, hpath, hpay]
  dsimp only
  rw [hres]
  exact event_next hp

theorem exec_queryEntryEnqueue_none (hslot : slotOf s t.id = some t) (hdet : isDet t = false) (hpay : a.payload = none)
    (hfull : firstEmpty t addr len = none) (hclean : bankPoisoned t addr len = false) :
    exec (.queryEntryEnqueue die i) s = .next (putQuery s dieN i { a with payload := some (bankRead t addr len) }) := by
  have hany : ((s.kv[dieN]).queries.take i).any (fun x => sameItem x.sender a.sender && x.queue = a.queue) = false := by
    rw [List.any_eq_false]
    exact fun y hy => by simpa using hfirst y hy
  subst hdie
  rw [exec_queryEntryEnqueue, execQueryEntryEnqueue, hat]
  dsimp only
  rw [href]
  dsimp only
  rw [hw]
  dsimp only
  rw [hany, hstop, horder, hpath, hpay]
  dsimp only
  rw [engineTake_plain hslot hdet o hfull hclean]
  exact event_next hp

end

section
variable {s : State} {dieN : Fin 2} {i : Nat} {a : QueryArrival} {t : Slot} {o : Op} {h : BitVec 512} {p : List Byte} {status : Nat}
  (hok : (judgeQuery s t dieN a.queue h).1 = 0)
include hok

theorem enqueueEntry_enters (hroom : queueBytes (queueAt s.kv[dieN] a.queue) + 64 + p.length ≤ (queueAt s.kv[dieN] a.queue).capacity) :
    let d := s.kv[dieN]
    let x := queueAt d a.queue
    let v := judgeQuery s t dieN a.queue h
    let e : QueryEntry :=
      { no := d.nextEntry, sender := refOf t (o.id + 1)
        header := if hdrPos h = BitVec.allOnes 27 then putHdr h 437 27 v.2 else h, payload := p }
    let d' : KvDie := { d with
      nextEntry := d.nextEntry + 1, queries := d.queries.eraseIdx i
      queues := sset {} d.queues a.queue.toNat { x with entries := x.entries ++ [e] } }
    enqueueEntry s dieN i a t o h p status = engineFinish { s with kv := s.kv.set dieN d' } t.id o status (kvStatus 0 v.2 0 0 0) := by
  intro d x v e d'
  unfold enqueueEntry
  dsimp only
  rw [if_neg (by simp [hok]), if_neg (by omega)]
  have hkv : dropQuery (putQueue (setDie s dieN { d with nextEntry := d.nextEntry + 1 }) dieN a.queue { x with entries := x.entries ++ [e] }) dieN i
      = { s with kv := s.kv.set dieN d' } := by
    simp [dropQuery, putQueue, setDie, d']
  exact congrArg (fun s => engineFinish s t.id o status (kvStatus 0 v.2 0 0 0)) hkv

theorem enqueueEntry_full (hroom : (queueAt s.kv[dieN] a.queue).capacity < queueBytes (queueAt s.kv[dieN] a.queue) + 64 + p.length) :
    enqueueEntry s dieN i a t o h p status = putQuery s dieN i { a with
      payload := some p, refused := a.refused + 1
      resendAt := some (s.cycle + backoffTime (linkBackoff s (dieOf t.id.core) (dieN.val + 2) (a.queue.toNat % 16)) a.refused) } := by
  unfold enqueueEntry
  dsimp only
  rw [if_neg (by simp [hok]), if_pos hroom]

end

/-! ### Delivery -/

theorem finishOp_pushOp {t : Slot} (hfresh : ∀ p ∈ t.ops, p.id ≠ t.nextOp) (q : BitVec 4) {op : Op} {f : Slot → Slot}
    (hf : ∀ u, (f u).ops = u.ops) :
    (finishOp (f (pushOp t (some q) op)) t.nextOp).ops = t.ops
      ∧ (finishOp (f (pushOp t (some q) op)) t.nextOp).inbox = (f (pushOp t (some q) op)).inbox
      ∧ (finishOp (f (pushOp t (some q) op)) t.nextOp).banks = (f (pushOp t (some q) op)).banks := by
  have hops : (f (pushOp t (some q) op)).ops = t.ops ++ [{ op with id := t.nextOp, q := some q, num := t.q[q.toNat].issued.toNat + 1 }] := hf _
  have hfilter : (f (pushOp t (some q) op)).ops.filter (fun x => x.id ≠ t.nextOp) = t.ops := by
    rw [hops, List.filter_append, List.filter_eq_self.2 fun p hp => decide_eq_true (hfresh p hp)]
    simp
  unfold finishOp
  split
  · next hnone => exact ⟨absurd (List.find?_eq_none.1 hnone { op with id := t.nextOp, q := some q, num := t.q[q.toNat].issued.toNat + 1 }
      (by rw [hops]; exact List.mem_append_right _ (List.mem_singleton.2 rfl))) (by simp), rfl, rfl⟩
  · dsimp only
    split
    · exact ⟨hfilter, rfl, rfl⟩
    · split
      · exact ⟨hfilter, rfl, rfl⟩
      · exact ⟨hfilter, rfl, rfl⟩

section
variable {s : State} {die : Bool} {queue : BitVec 5} {e : QueryEntry} {t : Slot} {k : Nat} {dieN : Fin 2}

/-- A slot after an entry has come into its inbox slot `k`. -/
def inboxFilled (t : Slot) (id : Nat) (k : Nat) (queue : BitVec 5) (e : QueryEntry) (u : Slot) : Slot :=
  let bs := (bytesOf 64 (putHdr e.header 356 16 k).toNat ++ e.payload).take (16 * recIstride t.record)
  let at_ := recInbox t.record + 16 * recIstride t.record * k
  finishOp (setGranules (bankWrite (pushOp { u with inbox := u.inbox ++ [⟨k, queue, e.no⟩] } (some (recIq t.record))
    { id := 0, source := 3, work := .none }) at_ bs) at_ bs.length true) id

theorem finishOp_id (t : Slot) (id : Nat) : (finishOp t id).id = t.id := by
  unfold finishOp
  split
  · rfl
  · dsimp only
    split
    · rfl
    · split <;> rfl

theorem inboxFilled_id (t : Slot) (id k : Nat) (queue : BitVec 5) (e : QueryEntry) (u : Slot) : (inboxFilled t id k queue e u).id = u.id := by
  unfold inboxFilled
  dsimp only
  rw [finishOp_id, setGranules_id]
  rfl

variable (hp : s.mgmt.powered = true) (hdie : (if die then 1 else 0) = dieN) (hhead : headEntry (queueAt s.kv[dieN] queue) = some e)
  (hserve : servingSlot s dieN queue = some (t, k)) (hdet : isDet t = false) (hslot : slotOf s t.id = some t)

include hp hdie hhead hserve hdet hslot in
theorem exec_queryDelivery_eq : exec (.queryDelivery die queue) s = .next (modSlot (putQueue s dieN queue { queueAt s.kv[dieN] queue with
    entries := (queueAt s.kv[dieN] queue).entries.map (fun y => if y.no = e.no then { y with delivered := true } else y) }) t.id
      (inboxFilled t t.nextOp k queue e)) := by
  subst hdie
  rw [exec_queryDelivery, execQueryDelivery]
  dsimp only
  rw [hhead, hserve]
  dsimp only
  generalize hs1 : putQueue s (if die = true then (1 : Fin 2) else 0) queue { queueAt s.kv[(if die = true then (1 : Fin 2) else 0)] queue with
      entries := (queueAt s.kv[(if die = true then (1 : Fin 2) else 0)] queue).entries.map
        (fun y => if y.no = e.no then { y with delivered := true } else y) } = s1
  have hslot1 : slotOf s1 t.id = some t := by rw [← hs1]; exact hslot
  have hid1 : ∀ u : Slot, (pushOp { u with inbox := u.inbox ++ [⟨k, queue, e.no⟩] } (some (recIq t.record))
    { id := 0, source := 3, work := .none }).id = u.id := fun _ => rfl
  have hslot2 : slotOf (modSlot s1 t.id (fun u => pushOp { u with inbox := u.inbox ++ [⟨k, queue, e.no⟩] } (some (recIq t.record))
      { id := 0, source := 3, work := .none })) t.id = some (pushOp { t with inbox := t.inbox ++ [⟨k, queue, e.no⟩] } (some (recIq t.record))
      { id := 0, source := 3, work := .none }) := by
    rw [slotOf_modSlot hid1, if_pos rfl, hslot1]
    rfl
  have hdet2 : isDet (pushOp { t with inbox := t.inbox ++ [⟨k, queue, e.no⟩] } (some (recIq t.record))
      { id := 0, source := 3, work := .none }) = false := hdet
  rw [engineFill, hslot2]
  dsimp only
  rw [checkGranules_of_plain hslot2 hdet2, res_ok_bind, res_pure]
  dsimp only
  rw [modSlot_modSlot hid1, modSlot_modSlot fun u => by rw [setGranules_id]; rfl]
  exact event_next hp

theorem delivery_fills (hfresh : ∀ p ∈ t.ops, p.id ≠ t.nextOp) :
    let u := inboxFilled t t.nextOp k queue e t
    u.inbox = t.inbox ++ [⟨k, queue, e.no⟩] ∧ u.ops = t.ops
      ∧ ∀ j, j < min (16 * recIstride t.record) (64 + e.payload.length) →
          bankByte u (recInbox t.record + 16 * recIstride t.record * k + j) = (bytesOf 64 (putHdr e.header 356 16 k).toNat ++ e.payload).getD j 0 := by
  intro u
  obtain ⟨at_, hat⟩ : ∃ a, a = recInbox t.record + 16 * recIstride t.record * k := ⟨_, rfl⟩
  obtain ⟨bs, hbs⟩ : ∃ bs, bs = (bytesOf 64 (putHdr e.header 356 16 k).toNat ++ e.payload).take (16 * recIstride t.record) := ⟨_, rfl⟩
  have hu : u = finishOp (setGranules (bankWrite (pushOp { t with inbox := t.inbox ++ [⟨k, queue, e.no⟩] } (some (recIq t.record))
      { id := 0, source := 3, work := .none }) at_ bs) at_ bs.length true) t.nextOp := by rw [hbs, hat]; rfl
  obtain ⟨hops, hinbox, hbanks⟩ := finishOp_pushOp (t := { t with inbox := t.inbox ++ [⟨k, queue, e.no⟩] }) hfresh (recIq t.record)
    (op := { id := 0, source := 3, work := .none }) (f := fun v => setGranules (bankWrite v at_ bs) at_ bs.length true)
    fun v => by rw [setGranules_eq]; rfl
  refine ⟨?_, ?_, fun j hj => ?_⟩
  · rw [hu, hinbox, setGranules_eq]
    rfl
  · rw [hu]
    exact hops
  · rw [← hat]
    have hlen : bs.length = min (16 * recIstride t.record) (64 + e.payload.length) := by
      rw [hbs, List.length_take, List.length_append, Laws.bytesOf_length]
    have hbyte : bankByte u (at_ + j) = bankByte (bankWrite (pushOp { t with inbox := t.inbox ++ [⟨k, queue, e.no⟩] } (some (recIq t.record))
        { id := 0, source := 3, work := .none }) at_ bs) (at_ + j) := by
      rw [bankByte, bankByte, hu, hbanks, setGranules_eq]
    rw [hbyte, bankByte_bankWrite, if_pos (by omega), Nat.add_sub_cancel_left, hbs, List.getD_eq_getElem?_getD, List.getD_eq_getElem?_getD,
      List.getElem?_take_of_lt (by omega)]

end

/-! ### Replies -/

section
variable {s : State} {i : Nat} {r : Reply} (hp : s.mgmt.powered = true) (hat : s.replies[i]? = some r)
include hp hat

theorem exec_queryReplyArrival_unsent {t : Slot} {o : Op} {a n : Nat} {tag : BitVec 16} {status : Nat} (hsent : r.sent = none)
    (href : refOp s r.source = some (t, o)) (hw : o.work = .reply a n tag status) (hstop : o.stopped = false) (horder : inOrder t o = true) :
    exec (.queryReplyArrival i) s = .next (sendReply s i r t o a n tag status) := by
  rw [exec_queryReplyArrival, execQueryReplyArrival, hat]
  dsimp only
  rw [hsent, href]
  dsimp only
  rw [hw]
  dsimp only
  rw [hstop, horder]
  exact event_next hp

theorem exec_queryReplyArrival_sent {e : QueryEntry} {bs : List Byte} {u t : Slot} {p o : Op} {raddr len a n : Nat} {tag : BitVec 16} {status : Nat}
    (hsent : r.sent = some (e, bs)) (hhere : ∀ y ∈ s.saved, holdsItem y.slot e.sender.item e.sender.born = false)
    (hpath : pathUp s (dieOf r.source.slot.core) (dieOf e.sender.slot.core) 0 = true) (hto : refOp s e.sender = some (u, p))
    (hawait : p.work = .awaitReply raddr len) (href : refOp s r.source = some (t, o)) (hw : o.work = .reply a n tag status) :
    exec (.queryReplyArrival i) s = .next (engineFinish
      (engineFinish { s with replies := s.replies.eraseIdx i } u.id p raddr bs) t.id o status (kvStatus 0 0 0 0 0)) := by
  have hany : s.saved.any (fun y => holdsItem y.slot e.sender.item e.sender.born) = false := by
    rw [List.any_eq_false]
    exact fun y hy => by simp [hhere y hy]
  have hdeliver : deliverReply { s with replies := s.replies.eraseIdx i } e bs
      = engineFinish { s with replies := s.replies.eraseIdx i } u.id p raddr bs := by
    have hto' : refOp { s with replies := s.replies.eraseIdx i } e.sender = some (u, p) := hto
    rw [deliverReply, hto']
    dsimp only
    rw [hawait]
  rw [exec_queryReplyArrival, execQueryReplyArrival, hat]
  dsimp only
  rw [hsent, href]
  dsimp only
  rw [hany, hpath, hdeliver, hw]
  exact event_next hp

end

theorem sendReply_short {s : State} {i : Nat} {r : Reply} {t : Slot} {o : Op} {a n : Nat} {tag : BitVec 16} {status : Nat} {dieN : Fin 2}
    {b : InboxEntry} {e : QueryEntry} (hdie : (if dieOf t.id.core = 3 then 1 else 0) = dieN)
    (hb : t.inbox.find? (fun y => y.index = tag.toNat) = some b)
    (he : (queueAt s.kv[dieN] b.queue).entries.find? (fun y => y.no = b.no) = some e) (hlen : hdrReply e.header < n) :
    sendReply s i r t o a n tag status = opFault { s with replies := s.replies.eraseIdx i } t.id o { code := 0x05 } := by
  subst hdie
  rw [sendReply, hb]
  dsimp only
  rw [he]
  dsimp only
  rw [if_pos hlen]

theorem sendReply_reads {s : State} {i : Nat} {r : Reply} {t : Slot} {o : Op} {a n : Nat} {tag : BitVec 16} {status : Nat} {dieN : Fin 2}
    {b : InboxEntry} {e : QueryEntry} (hslot : slotOf s t.id = some t) (hdet : isDet t = false)
    (hdie : (if dieOf t.id.core = 3 then 1 else 0) = dieN) (hb : t.inbox.find? (fun y => y.index = tag.toNat) = some b)
    (he : (queueAt s.kv[dieN] b.queue).entries.find? (fun y => y.no = b.no) = some e) (hlen : n ≤ hdrReply e.header)
    (hfull : firstEmpty t a n = none) (hclean : bankPoisoned t a n = false) :
    let bs := bankRead t a n ++ List.replicate (hdrReply e.header - n) 0
    let s1 := putQueue s dieN b.queue { queueAt s.kv[dieN] b.queue with
      entries := (queueAt s.kv[dieN] b.queue).entries.filter (fun y => y.no ≠ e.no) }
    let s2 := modSlot s1 t.id (fun t => { t with inbox := t.inbox.filter (fun y => y.index ≠ b.index) })
    sendReply s i r t o a n tag status = { s2 with replies := s.replies.set i { r with sent := some (e, bs) } } := by
  intro bs s1 s2
  have hreplies : s2.replies = s.replies := modSlot_replies ..
  subst hdie
  rw [sendReply, hb]
  dsimp only
  rw [he]
  dsimp only
  rw [if_neg (by omega), engineTake_plain hslot hdet o hfull hclean]
  dsimp only
  rw [← hreplies]

/-! ## The obligation -/

theorem exec_kvopenAtSlice0_next {s : State} (hp : s.mgmt.powered = true) (die : Bool) (k : Nat) :
    exec (.kvopenAtSlice0 die k) s = .next (kvPerform s (if die then 1 else 0) k true) := by
  rw [exec_kvopenAtSlice0, execKvopenAtSlice0]
  exact event_next hp

theorem exec_kvOperationPerform_next {s : State} (hp : s.mgmt.powered = true) (die : Bool) (k : Nat) :
    exec (.kvOperationPerform die k) s = .next (kvPerform s (if die then 1 else 0) k false) := by
  rw [exec_kvOperationPerform, execKvOperationPerform]
  exact event_next hp

/-- The answer's three cases. -/
theorem kvAnswered_cases (s : State) (die : Fin 2) (t : Slot) (o : Op) (r : KvReq) (dest : Option (BitVec 6)) (done : KvDone) :
    let dead := newlyDead s done.st die
    (∀ g, dest = some g → kvAnswered s die t o r dest done = modSlot done.st t.id (fun t => kvPair t o.id g done))
    ∧ (dest = none → dead = [] → kvAnswered s die t o r dest done = engineFinish done.st t.id o r.status (kvReply r done))
    ∧ (dest = none → dead ≠ [] → kvAnswered s die t o r dest done = modSlot done.st t.id (fun t =>
        modOp t o.id (fun o => { o with work := .status r.status (kvReply r done), dead := dead }))) := by
  intro dead
  refine ⟨fun g hg => by rw [hg]; rfl, fun hd h0 => ?_, fun hd h0 => ?_⟩
  · subst hd
    rw [kvAnswered, if_pos (List.isEmpty_iff.2 h0)]
  · subst hd
    rw [kvAnswered, if_neg (by simpa using h0)]

/-- An opened sequence stands in its die's list whatever way the answer goes. -/
theorem kvAnswered_kv {s : State} {die : Fin 2} {t : Slot} {o : Op} {r : KvReq} {done : KvDone} (hdet : isDet t = false)
    (hslot : slotOf done.st t.id = some t) : (kvAnswered s die t o r none done).kv = done.st.kv := by
  unfold kvAnswered
  dsimp only
  split
  · obtain ⟨f, -, hf⟩ := engineFinish_kv hslot hdet o r.status (kvReply r done)
    rw [hf, modSlot_kv]
  · rw [modSlot_kv]

section
variable {s : State} {die : Bool} {k : Nat} {ref : OpRef} {t : Slot} {o : Op} {r : KvReq} {dest : Option (BitVec 6)}
  (hp : s.mgmt.powered = true) {dieN : Fin 2} (hdie : (if die then 1 else 0) = dieN)
  (harr : (s.kv[dieN]).arrivals[k]? = some ref) (href : refOp s ref = some (t, o)) (hslot : slotOf s t.id = some t)
  (hw : o.work = .kv r dest) (hready : kvReady s dieN k ref t o r ((kvData o r).getD []) = true) (hdet : isDet t = false)
include hp hdie harr href hw hready hdet

theorem kvopen_answers (hk : r.kind = .opens) {data : List Byte} (hdata : kvData o r = some data) :
    exec (.kvopenAtSlice0 die k) s = .next (kvAnswered s dieN t o r dest (kvRun (dropArrival s dieN k) t r data)) := by
  rw [exec_kvopenAtSlice0_next hp, hdie, kvPerform_data harr href hw (decide_eq_true hk) hready hdet hdata]

theorem kvOperation_answers (hk : r.kind ≠ .opens) {data : List Byte} (hdata : kvData o r = some data) :
    exec (.kvOperationPerform die k) s = .next (kvAnswered s dieN t o r dest (kvRun (dropArrival s dieN k) t r data)) := by
  rw [exec_kvOperationPerform_next hp, hdie, kvPerform_data harr href hw (decide_eq_false hk) hready hdet hdata]

include hslot in
/-- KVOPEN opens a sequence of length 0 (R153). -/
theorem kvopen_opens {id : BitVec 24} (hdest : dest = none) (hk : r.kind = .opens) (hd : r.word.getLsbD 25 = die) (hword : r.word.toNat < 2 ^ 26)
    (hid : newSeqId s.kv[dieN] dieN = some id) (hdom : (newDomain s dieN).isSome = true)
    (hadm : kvAdmits s dieN 0 t.tenant t.context (kvRight .opens) = true) :
    ∃ s' x, exec (.kvopenAtSlice0 die k) s = .next s' ∧ x ∈ s'.kv[dieN].seqs ∧ x.id = id ∧ x.length = 0
      ∧ x.tenant = t.tenant ∧ x.context = t.context ∧ x.spans = r.word.extractLsb' 7 18 ∧ x.stride = r.word.toNat % 2 ^ 7 + 1 := by
  have hdata : kvData o r = some [] := by
    have htoken : (kvToken r).2 = 0 := by rw [kvToken, hk]
    rw [kvData, if_pos htoken]
  obtain ⟨gone, hgone⟩ : ∃ g, g = dropArrival s dieN k := ⟨_, rfl⟩
  have hkvd : gone.kv[dieN] = { s.kv[dieN] with arrivals := (s.kv[dieN]).arrivals.eraseIdx k } := by
    rw [hgone]
    simp [dropArrival, setDie]
  have hids : newSeqId gone.kv[dieN] dieN = some id := by rw [hkvd]; exact hid
  have hdoms : (newDomain gone dieN).isSome = true := by
    have hfree : ¬ 65535 < lowestFree 1 (usedKeys s.kv[dieN]) := fun h => by
      rw [newDomain, if_pos h] at hdom
      exact absurd hdom (by decide)
    have hfree' : ¬ 65535 < lowestFree 1 (usedKeys gone.kv[dieN]) := by
      rw [hkvd]
      exact hfree
    rw [newDomain, if_neg hfree']
    rfl
  have hadms : kvAdmits gone dieN 0 t.tenant t.context (kvRight .opens) = true := by
    rw [hgone]
    exact hadm
  obtain ⟨x, hx, h1, h2, h3, h4, h5, h6, hslots⟩ := kvRun_opens (s := gone) (t := t) hk (hdie ▸ kvHome_opens hk hd) hword hids hdoms hadms []
  have hslotd : slotOf (kvRun gone t r []).st t.id = some t := by
    rw [hslots, hgone]
    exact hslot
  subst hdest
  refine ⟨_, x, kvopen_answers hp hdie harr href hw hready hdet hk hdata, ?_, h1, h2, h3, h4, h5, h6⟩
  rw [← hgone, kvAnswered_kv hdet hslotd]
  exact hx

end

theorem moveReaches_of {s : State} {b : Block} (h : s.port.up = true ∨ b.tier ≠ 3 ∧ b.target.1 ≠ 3) : moveReaches s b = true := by
  rcases h with h | ⟨h1, h2⟩
  · rw [moveReaches, h, Bool.true_or]
  · rw [moveReaches, decide_eq_true h1, decide_eq_true h2]
    exact Bool.or_true _

theorem moveReaches_down {s : State} {b : Block} (hup : s.port.up = false) (h : b.tier = 3 ∨ b.target.1 = 3) : moveReaches s b = false := by
  rcases h with h | h <;> simp [moveReaches, hup, h]

theorem putQuery_eq (s : State) (die : Fin 2) (i : Nat) (a : QueryArrival) : putQuery s die i a =
    { s with kv := s.kv.set die { s.kv[die] with queries := (s.kv[die]).queries.set i a } } := rfl

/-- Of an entry delivered, every copy in the queue is marked. -/
theorem delivered_marked {s : State} {dieN : Fin 2} {queue : BitVec 5} {x : QueryQueue} {e : QueryEntry} {c : SlotId} {f : Slot → Slot} :
    ∀ y ∈ (queueAt (modSlot (putQueue s dieN queue { x with
        entries := x.entries.map (fun y => if y.no = e.no then { y with delivered := true } else y) }) c f).kv[dieN] queue).entries,
      y.no = e.no → y.delivered = true := by
  have hqueue : queueAt (modSlot (putQueue s dieN queue { x with
        entries := x.entries.map (fun y => if y.no = e.no then { y with delivered := true } else y) }) c f).kv[dieN] queue
      = { x with entries := x.entries.map (fun y => if y.no = e.no then { y with delivered := true } else y) } := by
    rw [modSlot_kv]
    simp [queueAt, putQueue, setDie, sget_sset]
  rw [hqueue]
  intro y hy hno
  obtain ⟨z, -, rfl⟩ := List.mem_map.1 hy
  by_cases h : z.no = e.no
  · rw [if_pos h]
  · rw [if_neg h] at hno
    exact absurd hno h

/-- What a delivery does: the serving slot's inbox and bank bytes, and the entry's mark. -/
theorem delivery_reaches {s : State} {die : Bool} {queue : BitVec 5} {e : QueryEntry} {t : Slot} {k : Nat} {dieN : Fin 2}
    (hp : s.mgmt.powered = true) (hdie : (if die then 1 else 0) = dieN) (hhead : headEntry (queueAt s.kv[dieN] queue) = some e)
    (hserve : servingSlot s dieN queue = some (t, k)) (hdet : isDet t = false) (hslot : slotOf s t.id = some t)
    (hfresh : ∀ p ∈ t.ops, p.id ≠ t.nextOp) :
    ∃ r u, exec (.queryDelivery die queue) s = .next r ∧ slotOf r t.id = some u
      ∧ u.inbox = t.inbox ++ [⟨k, queue, e.no⟩] ∧ u.ops = t.ops ∧ r.mem = s.mem
      ∧ (∀ j, j < min (16 * recIstride t.record) (64 + e.payload.length) →
          bankByte u (recInbox t.record + 16 * recIstride t.record * k + j)
            = (bytesOf 64 (putHdr e.header 356 16 k).toNat ++ e.payload).getD j 0)
      ∧ (∀ y ∈ (queueAt r.kv[dieN] queue).entries, y.no = e.no → y.delivered = true) := by
  obtain ⟨f, hf⟩ : ∃ f, f = inboxFilled t t.nextOp k queue e := ⟨_, rfl⟩
  have hid (u : Slot) : (f u).id = u.id := by rw [hf, inboxFilled_id]
  obtain ⟨hinbox, hops, hbytes⟩ := delivery_fills (queue := queue) (e := e) (k := k) hfresh
  rw [exec_queryDelivery_eq hp hdie hhead hserve hdet hslot]
  rw [← hf] at hinbox hops hbytes ⊢
  refine ⟨_, f t, rfl, ?_, hinbox, hops, ?_, hbytes, delivered_marked⟩
  · rw [slotOf_modSlot hid, if_pos rfl]
    exact congrArg (Option.map f) hslot
  · rw [modSlot_mem]
    rfl

/-- Settles O48: each event is the model's own step on what its hypotheses name; KVOPEN is read through `kvRun`, and a dead
handle, an inbox and a reply through the slots that they change. -/
theorem kvAndQueryEvents : Obligations.KvAndQueryEvents := by
  refine ⟨?_, fun s core b hp hb => deadHandle_reaches hp hb, ?_, ?_, ?_, ?_⟩
  · intro s die k ref t o r dest hp dieN d token gone harr href hslot hw hstop hfirst hmove hdet hdue horder hprefix hpath performed
    have hready : kvReady s dieN k ref t o r ((kvData o r).getD []) = true := kvReady_of hstop hfirst hmove hdue horder hprefix hpath
    refine ⟨fun hk data hdata => ?_, fun hk data hdata => ?_, fun hk htoken hstaged hfull hclean => ?_, fun id hk hd hdest hword hid hdom hadm =>
      kvopen_opens hp rfl harr href hslot hw hready hdet hdest hk hd hword hid hdom hadm⟩
    · rw [kvopen_answers hp rfl harr href hw hready hdet hk hdata]
      obtain ⟨h1, h2, h3⟩ := kvAnswered_cases s dieN t o r dest (kvRun gone t r data)
      exact ⟨fun g hg => congrArg _ (h1 g hg), fun hd h0 => congrArg _ (h2 hd h0), fun hd h0 => congrArg _ (h3 hd h0)⟩
    · rw [kvOperation_answers hp rfl harr href hw hready hdet hk hdata]
      obtain ⟨h1, h2, h3⟩ := kvAnswered_cases s dieN t o r dest (kvRun gone t r data)
      exact ⟨fun g hg => congrArg _ (h1 g hg), fun hd h0 => congrArg _ (h2 hd h0), fun hd h0 => congrArg _ (h3 hd h0)⟩
    · intro read
      rw [exec_kvOperationPerform_next hp,
        kvPerform_reads harr href hw (decide_eq_false hk) hready hdet hslot htoken hstaged hfull hclean]
  · intro s die pbid tier loc hp dieN b
    refine ⟨fun h0 => exec_tierMove_free hp rfl rfl h0, ?_⟩
    intro becomes
    refine ⟨fun h0 hm => ⟨fun hup => ⟨_, ?_, rfl⟩, fun hup h3 => exec_tierMove_waits hp rfl rfl h0 hm (moveReaches_down hup h3)⟩,
      fun h0 hm hok hup => ⟨_, ?_, rfl⟩, fun h0 hm hno => exec_tierMove_refused hp rfl rfl h0 hm ?_⟩
    · exact (exec_tierMove_ends hp rfl rfl h0 hm (moveReaches_of hup)).trans (congrArg _ (putMoved_eq rfl rfl rfl))
    · exact (exec_tierMove_starts hp rfl rfl h0 hm hok hup).trans (congrArg _ (putMoved_eq rfl rfl rfl))
    · exact hno
  · intro s die i a t o queue h addr len status p hp dieN d x v horder hpath hat href hslot hw hstop hfirst
    refine ⟨fun hpay hfull hclean hdet => ?_, fun hpay hres hok hroom => ?_, fun hpay hres hok hroom => ?_⟩
    · exact exec_queryEntryEnqueue_none hp rfl horder hpath hat href hw hstop hfirst hslot hdet hpay hfull hclean
    · exact (exec_queryEntryEnqueue_some hp rfl horder hpath hat href hw hstop hfirst hpay hres).trans
        (congrArg _ (enqueueEntry_enters hok hroom))
    · exact (exec_queryEntryEnqueue_some hp rfl horder hpath hat href hw hstop hfirst hpay hres).trans
        (congrArg _ (enqueueEntry_full hok hroom))
  · intro s die queue e t k hp dieN d x stride hhead hserve hdet hslot hfresh
    exact delivery_reaches hp rfl hhead hserve hdet hslot hfresh
  · intro s i r hp hat
    refine ⟨fun t o a n tag status b e hsent href hw hstop horder hslot hdet => ?_,
      fun e bs u p raddr len t o a n tag status hsent hhere hpath hto hawait href hw =>
        exec_queryReplyArrival_sent hp hat hsent hhere hpath hto hawait href hw⟩
    intro dieN x hb he
    have hexec := exec_queryReplyArrival_unsent hp hat hsent href hw hstop horder
    exact ⟨fun hlen => hexec.trans (congrArg _ (sendReply_short rfl hb he hlen)),
      fun hlen hfull hclean => hexec.trans (congrArg _ (sendReply_reads hslot hdet rfl hb he hlen hfull hclean))⟩

end Sys2Proof.Machine
end

section
/-! SUPPORT. Cache hits, latency classes, walks and shootdowns (R62, R114 to R124, R434) -/

namespace Sys2Proof.Machine

/-! ## Cache hits (R117, R120) -/

section
variable {s : State} {c : SlotId} {t : Slot} {h : BitVec 4} {w : Walk}

/-- The only lookup of a handle is the first that a test accepts, or there is none. -/
theorem find_of_only {p : Walk → Bool} (honly : t.walks.filter (fun x => x.h = h) = [w]) (hp : ∀ x, p x = true → x.h = h) (hw : p w = true) :
    t.walks.find? p = some w := by
  have hmine : (fun x : Walk => decide (decide (x.h = h) = true ∧ p x = true)) = p := by
    funext x
    by_cases hx : p x = true
    · simp [hx, hp x hx]
    · simp [hx]
  have hfind : t.walks.find? p = ([w] : List Walk).find? p := by
    rw [← honly, List.find?_filter, hmine]
  rw [hfind, List.find?_cons_of_pos hw]

/-- A handle filled from a leaf, the cache being set too. -/
def filledSlot (t : Slot) (h : BitVec 4) (l : Leaf) (cache : List Leaf) : Slot :=
  { t with
    cache := cache, walks := t.walks.filter (fun y => y.h ≠ h)
    h := t.h.set h.toFin { t.h[h.toFin] with
      vpage := pageOf l.size t.h[h.toFin].vpage, pbase := l.pbase, perm := l.perm, lat := l.lat, size := l.size
      kdh := l.kdh, walk := false, full := true, valid := true } }

theorem exec_cacheHit (hp : s.mgmt.powered = true) (atUse : Bool) :
    exec (if atUse then .retranslationHitRefill c h else .xlatCacheHitFill c h) s = .next (hitFill s c atUse h) := by
  cases atUse with
  | false =>
    rw [if_neg Bool.false_ne_true, exec_xlatCacheHitFill]
    exact event_next hp
  | true =>
    rw [if_pos rfl, exec_retranslationHitRefill]
    exact event_next hp

variable (hp : s.mgmt.powered = true) (hslot : slotOf s c = some t) (honly : t.walks.filter (fun x => x.h = h) = [w])
  (hre : w.restart = false)
include hp hslot honly hre

theorem hit_fills {d : Nat} (hdue : w.due = some d) (hd : d ≤ s.cycle) :
    let i : Instr := if w.atUse then .retranslationHitRefill c h else .xlatCacheHitFill c h
    (∀ l, w.leaf = some l → slotBecomes i s c (filledSlot t h l t.cache))
    ∧ (w.leaf = none → slotBecomes i s c { t with
        h := t.h.set h.toFin { t.h[h.toFin] with full := false, walk := true }
        walks := t.walks.filter (fun y => y.h ≠ h) ++ [{ w with due := none, faulted := false, restart := false }] }) := by
  intro i
  have hwh : w.h = h := by
    have : w ∈ t.walks.filter (fun x => x.h = h) := by rw [honly]; exact List.mem_singleton.2 rfl
    simpa using (List.mem_filter.1 this).2
  have hhit : hitDue s t w.atUse h = some w := by
    refine find_of_only honly (fun x hx => ?_) ?_
    · simp only [Bool.and_eq_true, decide_eq_true_eq] at hx
      exact hx.1.1.1
    · simp [hwh, hre, hdue, hd]
  refine ⟨fun l hl => ⟨_, exec_cacheHit hp w.atUse, fun u hu => ?_⟩, fun hl => ⟨_, exec_cacheHit hp w.atUse, fun u hu => ?_⟩⟩
  · obtain rfl : t = u := Option.some.inj (hslot.symm.trans hu)
    rw [hhit]
    dsimp only
    rw [hl]
    rfl
  · obtain rfl : t = u := Option.some.inj (hslot.symm.trans hu)
    rw [hhit]
    dsimp only
    subst hwh
    unfold startWalk
    rw [hl]
    rfl

end

/-! ## Latency classes (R62, R114) -/

theorem lineWord_reloadLine {s : State} {line n : Nat} (h : n ≠ line) : lineWord (reloadLine s line) n = lineWord s n := by
  unfold reloadLine
  split
  · exact (lineWord_setLine ..).trans (if_neg h)
  · rfl

theorem lineWord_pinLine_other {s : State} {line n : Nat} (h : n ≠ line) : lineWord (pinLine s line) n = lineWord s n := by
  unfold pinLine
  dsimp only
  rw [lineWord_setLine, if_neg h]
  split
  · rfl
  · exact lineWord_reloadLine h

/-- Resident and pinned. -/
def pinnedLine (s : State) (n : Nat) : Prop := (lineWord s n).getLsbD 0 = true ∧ (lineWord s n).getLsbD 3 = true

theorem pinnedLine_pinLine (s : State) (line : Nat) : pinnedLine (pinLine s line) line := by
  unfold pinnedLine pinLine
  dsimp only
  rw [lineWord_setLine, if_pos rfl]
  simp

theorem pinLines_words (ls : List Nat) (s : State) (n : Nat) :
    (n ∈ ls → pinnedLine (ls.foldl pinLine s) n) ∧ (n ∉ ls → lineWord (ls.foldl pinLine s) n = lineWord s n)
      ∧ (pinnedLine s n → pinnedLine (ls.foldl pinLine s) n) := by
  induction ls generalizing s with
  | nil => exact ⟨fun h => absurd h List.not_mem_nil, fun _ => rfl, id⟩
  | cons l ls ih =>
    obtain ⟨hin, hout, hkeep⟩ := ih (pinLine s l)
    have hstay (h : pinnedLine s n) : pinnedLine (pinLine s l) n := by
      by_cases hn : n = l
      · rw [hn]
        exact pinnedLine_pinLine s l
      · unfold pinnedLine
        rw [lineWord_pinLine_other hn]
        exact h
    refine ⟨fun h => ?_, fun h => ?_, fun h => hkeep (hstay h)⟩
    · rcases List.mem_cons.1 h with rfl | h
      · exact hkeep (pinnedLine_pinLine s n)
      · exact hin h
    · rw [List.mem_cons, not_or] at h
      exact (hout h.2).trans (lineWord_pinLine_other h.1)

theorem touched_pinLine (s : State) (line : Nat) : Touched s (pinLine s line) := by
  unfold pinLine
  dsimp only
  split
  · exact touched_setLine ..
  · exact (touched_reloadLine ..).trans (touched_setLine ..)

theorem touched_pinLines (ls : List Nat) (s : State) : Touched s (ls.foldl pinLine s) := by
  induction ls generalizing s with
  | nil => exact .refl s
  | cons l ls ih => exact (touched_pinLine s l).trans (ih _)

theorem pinLine_mem (s : State) (line : Nat) : (pinLine s line).mem = s.mem := by
  unfold pinLine reloadLine
  dsimp only
  split
  · rfl
  · split <;> rfl

theorem pinLines_mem (ls : List Nat) (s : State) : (ls.foldl pinLine s).mem = s.mem := by
  induction ls generalizing s with
  | nil => rfl
  | cons l ls ih => exact (ih _).trans (pinLine_mem s l)

theorem loadClass_mem (s : State) (l : Leaf) : (loadClass s l).mem = s.mem := by
  unfold loadClass
  dsimp only
  split
  · rfl
  · split
    · rfl
    · exact pinLines_mem ..

theorem mem_leafLines {l : Leaf} {n : Nat} :
    n ∈ leafLines l ↔ l.pbase.toNat * 512 ≤ n ∧ n < l.pbase.toNat * 512 + pageBytes l.size / 128 := by
  unfold leafLines
  rw [List.mem_map]
  refine ⟨?_, fun h => ⟨n - l.pbase.toNat * 512, List.mem_range.2 (by omega), by omega⟩⟩
  rintro ⟨i, hi, rfl⟩
  have := List.mem_range.1 hi
  omega

/-- A page of class 1 or 2 loaded: its lines are pinned, and no other line changes (R62). -/
theorem loadClass_pins {s : State} {l : Leaf} (hlat : l.lat = 1 ∨ l.lat = 2) (hnew : classLoaded s l = false) (n : Nat) :
    if l.pbase.toNat * 512 ≤ n ∧ n < l.pbase.toNat * 512 + pageBytes l.size / 128 then
      (lineWord (loadClass s l) n).getLsbD 0 = true ∧ (lineWord (loadClass s l) n).getLsbD 3 = true
    else lineWord (loadClass s l) n = lineWord s n := by
  have h0 : l.lat ≠ 0 := by rcases hlat with h | h <;> rw [h] <;> decide
  have h3 : l.lat ≠ 3 := by rcases hlat with h | h <;> rw [h] <;> decide
  have hload : loadClass s l = (leafLines l).foldl pinLine { s with classPages := s.classPages ++ [l] } := by
    rw [loadClass, if_neg (not_or.2 ⟨h0, by simp [hnew]⟩), if_neg h3]
  obtain ⟨hin, hout, -⟩ := pinLines_words (leafLines l) { s with classPages := s.classPages ++ [l] } n
  rw [hload]
  split
  · next h => exact hin (mem_leafLines.2 h)
  · next h => exact hout fun hm => h (mem_leafLines.1 hm)

theorem loadClass_slotOf (s : State) (l : Leaf) (c : SlotId) : slotOf (loadClass s l) c = slotOf s c := by
  unfold loadClass
  dsimp only
  split
  · rfl
  · split
    · rfl
    · exact (touched_pinLines (leafLines l) _).quiet.1.slotOf c

/-! ## Walks (R117, R120, R434) -/

/-- What the port has to send, and from where, is the same in two states. -/
theorem sendFrame_port {s t : State} (hport : s.port = t.port) (hcycle : s.cycle = t.cycle) (f : Frame) (op : Option OpRef) :
    (sendFrame s f op).port = (sendFrame t f op).port := by
  unfold sendFrame
  dsimp only
  rw [hport, hcycle]
  split
  · exact hport
  · split
    · rfl
    · split <;> rfl

theorem sendFrame_frame (s : State) (f : Frame) (op : Option OpRef) : sendFrame s f op = { s with port := (sendFrame s f op).port } := by
  unfold sendFrame
  dsimp only
  split
  · rfl
  · split
    · rfl
    · split <;> rfl

theorem sendFrame_of {s t : State} (hport : s.port = t.port) (hcycle : s.cycle = t.cycle) (f : Frame) (op : Option OpRef) :
    sendFrame s f op = { s with port := (sendFrame t f op).port } := by
  have h := sendFrame_frame s f op
  rw [sendFrame_port hport hcycle] at h
  exact h

/-- What firmware sends as it asks for a page. -/
def asking (s : State) (t : Slot) (vpage : BitVec 40) (rep : BitVec 512) (asked : Bool) : State :=
  let told := sendFrame s (hostFrame s 9 (reportHost s) t.tenant t.context 0 (bytesOf 64 rep.toNat))
  if asked then told else sendFrame told (hostFrame s 10 (reportHost s) t.tenant t.context 7 (bytesOf 16 vpage.toNat))

/-- What is sent depends on no slot, and changes the port alone. -/
theorem asking_of {s u : State} (hport : u.port = s.port) (hcycle : u.cycle = s.cycle) (hdev : u.devid = s.devid) (hmgmt : u.mgmt = s.mgmt)
    (t : Slot) (vpage : BitVec 40) (rep : BitVec 512) (asked : Bool) :
    asking u t vpage rep asked = { u with port := (asking s t vpage rep asked).port } := by
  have hframe (kind : BitVec 4) (aux : BitVec 32) (bs : List Byte) : hostFrame u kind (reportHost u) t.tenant t.context aux bs
      = hostFrame s kind (reportHost s) t.tenant t.context aux bs := by
    rw [hostFrame, hostFrame, reportHost, reportHost, hdev, hmgmt]
  unfold asking
  dsimp only
  rw [hframe, hframe]
  obtain ⟨f, hf⟩ : ∃ f, f = hostFrame s 9 (reportHost s) t.tenant t.context 0 (bytesOf 64 rep.toNat) := ⟨_, rfl⟩
  rw [← hf, sendFrame_of hport hcycle]
  split
  · rfl
  · have hc : u.cycle = (sendFrame s f).cycle := by
      rw [sendFrame_frame s]
      exact hcycle
    rw [sendFrame_of (s := { u with port := (sendFrame s f).port }) (t := sendFrame s f) rfl hc]

/-- The page fault that firmware keeps. -/
def askedFault (t : Slot) (vpage : BitVec 40) (handle : Option (BitVec 4)) (rep : BitVec 512) : PageFault :=
  { tenant := t.tenant, context := t.context, vpage, owner := refOf t 0, handle, report := rep }

theorem askHost_eq (s : State) (t : Slot) (vpage : BitVec 40) (handle : Option (BitVec 4)) (rep : BitVec 512) :
    askHost s t vpage handle rep = asking { s with pageFaults := s.pageFaults ++ [askedFault t vpage handle rep] } t vpage rep
      (s.pageFaults.any (fun g => g.tenant = t.tenant && g.context = t.context && g.vpage = vpage)) := by
  have hframe (u : State) (f : Frame) (aux : BitVec 32) (bs : List Byte) :
      hostFrame (sendFrame u f) 10 (reportHost (sendFrame u f)) t.tenant t.context aux bs
        = hostFrame u 10 (reportHost u) t.tenant t.context aux bs := by
    rw [sendFrame_frame u]
    rfl
  unfold askHost asking
  dsimp only
  rw [hframe]
  rfl

/-- Asking a host changes the page faults and the port alone. -/
theorem askHost_reaches {s s1 : State} (hport : s1.port = s.port) (hcycle : s1.cycle = s.cycle) (hdev : s1.devid = s.devid)
    (hmgmt : s1.mgmt = s.mgmt) (hfaults : s1.pageFaults = s.pageFaults) (t : Slot) (vpage : BitVec 40) (handle : Option (BitVec 4))
    (rep : BitVec 512) :
    ∃ r, askHost s1 t vpage handle rep = r ∧ r.pageFaults = s.pageFaults ++ [askedFault t vpage handle rep]
      ∧ r.port = (asking s t vpage rep
          (s.pageFaults.any (fun g => g.tenant = t.tenant && g.context = t.context && g.vpage = vpage))).port
      ∧ (∀ c, slotOf r c = slotOf s1 c) ∧ r.mem = s1.mem := by
  rw [askHost_eq, asking_of (u := { s1 with pageFaults := s1.pageFaults ++ [askedFault t vpage handle rep] }) hport hcycle hdev hmgmt,
    hfaults]
  exact ⟨_, rfl, rfl, rfl, fun _ => rfl, rfl⟩

theorem report_modSlot (s : State) (c : SlotId) (f : Slot → Slot) (t : Slot) (w : Site) (i : FaultInfo) :
    report (modSlot s c f) t w i = report s t w i := by
  unfold report
  rw [modSlot_cycle]

section
variable {s : State} {c : SlotId} {t : Slot} {h : BitVec 4} {w : Walk} (hp : s.mgmt.powered = true) (hslot : slotOf s c = some t)
  (honly : t.walks.filter (fun x => x.h = h) = [w]) (hre : w.restart = false) (hdue : w.due = none) (hfault : w.faulted = false)
  (hsince : w.since + (if w.atUse then 48 else 32) < s.cycle)

include honly in
theorem walk_handle : w.h = h := by
  have : w ∈ t.walks.filter (fun x => x.h = h) := by rw [honly]; exact List.mem_singleton.2 rfl
  simpa using (List.mem_filter.1 this).2

include honly hre hdue hfault hsince in
theorem pendingWalk_only : pendingWalk s t h = some w := by
  refine find_of_only honly (fun x hx => ?_) ?_
  · simp only [Bool.and_eq_true, decide_eq_true_eq] at hx
    exact hx.1.1.1.1
  · simp [walk_handle honly, hre, hdue, hfault, hsince]

include hp hslot honly hre hdue hfault hsince

/-- A walk that ends in a leaf fills the handle and the cache. -/
theorem walk_fills {l : Leaf} {x} (hwalk : walk s t.tenant t.context w.va.toNat = .leaf l x) (hroom : overCapacity s l = false) :
    slotBecomesFrom (loadClass s l) (.translationWalkComplete c h) s c
      (filledSlot t h l ((l :: t.cache.filter (fun x =>
        x.vpage ≠ l.vpage || x.tenant ≠ l.tenant || x.context ≠ l.context)).take 256)) := by
  have hfinds : walkFinds s t w = .leaf l x := by
    rw [walkFinds, hwalk]
    dsimp only
    rw [hroom]
    rfl
  refine ⟨fun t => fillHandle (cacheLeaf t l) h l, ?_, fun u hu => ?_⟩
  · rw [exec_translationWalkComplete, execTranslationWalkComplete, hslot]
    dsimp only
    rw [pendingWalk_only honly hre hdue hfault hsince]
    dsimp only
    rw [hfinds]
    exact event_next hp
  · rw [loadClass_slotOf] at hu
    obtain rfl : t = u := Option.some.inj (hslot.symm.trans hu)
    rfl

/-- A leaf under migration keeps the walk waiting. -/
theorem walk_waits (hwalk : walk s t.tenant t.context w.va.toNat = .waits) : exec (.translationWalkComplete c h) s = .next s := by
  have hfinds : walkFinds s t w = .waits := by rw [walkFinds, hwalk]
  rw [exec_translationWalkComplete, execTranslationWalkComplete, hslot]
  dsimp only
  rw [pendingWalk_only honly hre hdue hfault hsince]
  dsimp only
  rw [hfinds]
  exact event_next hp

variable {code : BitVec 8} {level : Nat}
  (hends : walk s t.tenant t.context w.va.toNat = .fault code level
    ∨ ∃ l x, walk s t.tenant t.context w.va.toNat = .leaf l x ∧ overCapacity s l = true ∧ code = 0x23 ∧ level = 4 - l.size.toNat)
include hends

theorem exec_walkFault : exec (.translationWalkComplete c h) s =
    .next (if w.atUse then useFault s t w code level else xlatFault s t w code level) := by
  have hfinds : walkFinds s t w = .fault code level := by
    unfold walkFinds
    rcases hends with hwalk | ⟨l, x, hwalk, hover, rfl, rfl⟩
    · rw [hwalk]
    · rw [hwalk]
      dsimp only
      rw [hover]
      rfl
  rw [exec_translationWalkComplete, execTranslationWalkComplete, hslot]
  dsimp only
  rw [pendingWalk_only honly hre hdue hfault hsince]
  dsimp only
  rw [hfinds]
  exact event_next hp

/-- A walk fault at XLAT: firmware is told, and asks a host for the page once (R434). -/
theorem walk_asks (huse : w.atUse = false) (hcode : code ≠ 0x24) :
    let vpage := w.va.extractLsb' 16 40
    let f : FaultInfo := { code := code, operand := w.va, elem := BitVec.ofNat 32 level, vpage := some vpage }
    let rep := report s t { slot := t.id, source := 0, coff := w.coff, len := w.len } { f with handle := some h, imprecise := true }
    let told := sendFrame s (hostFrame s 9 (reportHost s) t.tenant t.context 0 (bytesOf 64 rep.toNat))
    let asked : Bool := s.pageFaults.any (fun g => g.tenant = t.tenant && g.context = t.context && g.vpage = vpage)
    ∃ r, exec (.translationWalkComplete c h) s = .next r
      ∧ r.pageFaults = s.pageFaults ++ [{
          tenant := t.tenant, context := t.context, vpage := vpage, owner := refOf t 0, handle := some h, report := rep }]
      ∧ r.port = (if asked then told
          else sendFrame told (hostFrame s 10 (reportHost s) t.tenant t.context 7 (bytesOf 16 vpage.toNat))).port
      ∧ slotOf r c = some { t with walks := t.walks.map (fun y => if y.h = h then { y with faulted := true } else y) }
      ∧ r.mem = s.mem := by
  intro vpage f rep told asked
  obtain rfl := slotOf_id hslot
  have hexec := exec_walkFault hp hslot honly hre hdue hfault hsince hends
  rw [huse, if_neg Bool.false_ne_true, xlatFault] at hexec
  dsimp only at hexec
  rw [if_neg hcode] at hexec
  obtain rfl := walk_handle honly
  obtain ⟨mark, hmark⟩ : ∃ mark : Slot → Slot, mark = fun t =>
    { t with walks := t.walks.map (fun y => if y.h = w.h then { y with faulted := true } else y) } := ⟨_, rfl⟩
  have hid (u : Slot) : (mark u).id = u.id := by rw [hmark]
  rw [← hmark, report_modSlot] at hexec
  obtain ⟨r, hr, hfaults, hport, hslots, hmem⟩ := askHost_reaches (modSlot_port s t.id mark) (modSlot_cycle s t.id mark) (modSlot_devid s t.id mark)
    (modSlot_mgmt s t.id mark) (modSlot_pageFaults s t.id mark) t vpage (some w.h) rep
  refine ⟨r, hexec.trans (congrArg _ hr), hfaults, hport, ?_, ?_⟩
  · rw [hslots, slotOf_modSlot hid, if_pos rfl, hslot, hmark]
    rfl
  · rw [hmem, modSlot_mem]

/-- A walk fault at a use is taken by the instruction or record (R427). -/
theorem walk_faultsUse (huse : w.atUse = true) :
    let f : FaultInfo :=
      { code := code, operand := w.va, elem := BitVec.ofNat 32 level, vpage := some (w.va.extractLsb' 16 40) }
    ∃ b : Slot → Slot,
      b t = { t with
        h := t.h.set h.toFin { t.h[h.toFin] with full := true, walk := false }, walks := t.walks.filter (fun y => y.h ≠ h) }
      ∧ exec (.translationWalkComplete c h) s = .next (takeFault (modSlot s c b)
        { slot := c, source := w.source, coff := w.coff, len := w.len, q := w.q, opnum := w.opnum } f 0) := by
  intro f
  have hexec := exec_walkFault hp hslot honly hre hdue hfault hsince hends
  rw [huse, if_pos rfl, useFault, slotOf_id hslot] at hexec
  obtain rfl := walk_handle honly
  exact ⟨_, rfl, hexec⟩

end

/-! ## The end of a shootdown (R122) -/

/-- The L1s, the port and the shootdowns are as they were. -/
structure CachesKept (s t : State) : Prop where
  l1 : t.l1 = s.l1
  port : t.port = s.port
  cycle : t.cycle = s.cycle
  devid : t.devid = s.devid
  shootdowns : t.shootdowns = s.shootdowns

namespace CachesKept

theorem refl (s : State) : CachesKept s s := ⟨rfl, rfl, rfl, rfl, rfl⟩

theorem trans {s t u : State} (h1 : CachesKept s t) (h2 : CachesKept t u) : CachesKept s u :=
  ⟨h2.l1.trans h1.l1, h2.port.trans h1.port, h2.cycle.trans h1.cycle, h2.devid.trans h1.devid, h2.shootdowns.trans h1.shootdowns⟩

theorem of_touched {s t : State} (h : Touched s t) : CachesKept s t := by
  have ho : homeOnly s t := h.quiet.1
  exact ⟨h.l1, by rw [ho], by rw [ho], by rw [ho], by rw [ho]⟩

theorem foldl {α : Type} {f : State → α → State} (hf : ∀ s a, CachesKept s (f s a)) (xs : List α) (s : State) : CachesKept s (xs.foldl f s) := by
  induction xs generalizing s with
  | nil => exact refl s
  | cons x xs ih => exact (hf s x).trans (ih _)

theorem evictLines (ls : List Nat) (s : State) : CachesKept s (ls.foldl evictLine s) := foldl (fun s n => of_touched (touched_evictLine s n)) ls s

theorem unloadClass (s : State) (l : Leaf) : CachesKept s (unloadClass s l) := by
  unfold Machine.unloadClass
  dsimp only
  split
  · exact refl s
  · split
    · exact ⟨rfl, rfl, rfl, rfl, rfl⟩
    · exact trans (t := { s with classPages := s.classPages.filter (fun x => x ≠ l) }) ⟨rfl, rfl, rfl, rfl, rfl⟩ (evictLines _ _)

theorem loadClass (s : State) (l : Leaf) : CachesKept s (loadClass s l) := by
  unfold Machine.loadClass
  dsimp only
  split
  · exact refl s
  · split
    · exact ⟨rfl, rfl, rfl, rfl, rfl⟩
    · exact trans (t := { s with classPages := s.classPages ++ [l] }) ⟨rfl, rfl, rfl, rfl, rfl⟩ (of_touched (touched_pinLines ..))

theorem tagWrite (s : State) (line : Nat) (mem : Bool) : CachesKept s (tagWrite s line mem).1 := by
  have htouch (k : Sparse (BitVec 16)) : CachesKept s (touchLine { s with counters := k } line mem) :=
    trans (t := { s with counters := k }) ⟨rfl, rfl, rfl, rfl, rfl⟩ (of_touched (touched_touchLine ..))
  unfold Machine.tagWrite
  dsimp only
  split
  · exact htouch _
  · exact (htouch _).trans (of_touched (touched_setLine ..))

theorem homeWrite (s : State) (pa : Nat) (bs : List Byte) (mem : Bool) : CachesKept s (homeWrite s pa bs mem).1 := by
  have hsteps (ls : List Nat) (x : State × Option (BitVec 16)) : CachesKept x.1 (ls.foldl (tagStep mem) x).1 := by
    induction ls generalizing x with
    | nil => exact refl x.1
    | cons l ls ih => exact (tagWrite x.1 l mem).trans (ih (tagStep mem x l))
  rw [homeWrite_eq]
  exact trans (hsteps _ (s, none)) ⟨rfl, rfl, rfl, rfl, rfl⟩

theorem loadIf (b : Bool) (s : State) (l : Leaf) : CachesKept s (if b then Machine.loadClass s l else s) := by
  cases b with
  | false => exact refl s
  | true => exact loadClass s l

theorem writeIf (b : Bool) (s : State) (pa : Nat) (bs : List Byte) : CachesKept s (if b then (Machine.homeWrite s pa bs).1 else s) := by
  cases b with
  | false => exact refl s
  | true => exact homeWrite s pa bs false

theorem mapItems (s : State) (f g : Slot → Slot) : CachesKept s (mapItems (mapSlots s f) g) := ⟨rfl, rfl, rfl, rfl, rfl⟩

theorem copyMem (s : State) (src dst n : Nat) : CachesKept s (copyMem s src dst n) := ⟨rfl, rfl, rfl, rfl, rfl⟩

end CachesKept

/-- The host's answer as every invalidation is over. -/
theorem shootdownAnswer_reaches {s s1 : State} (h : CachesKept s s1) (hnone : s.shootdowns = []) (x : Shootdown) :
    let r := shootdownAnswer s1 x
    r.shootdowns = [] ∧ r.l1 = s.l1 ∧ r.mem = s1.mem
      ∧ r.port = (sendFrame s (hostFrame s 10 x.host 0 0 (x.code.setWidth 32) (padFrame (bytesOf 4 0 ++ x.more)))).port := by
  intro r
  have hanswer : r = { s1 with
      port := (sendFrame s (hostFrame s 10 x.host 0 0 (x.code.setWidth 32) (padFrame (bytesOf 4 0 ++ x.more)))).port } := by
    have hframe : hostFrame s1 10 x.host 0 0 (x.code.setWidth 32) (padFrame (bytesOf 4 0 ++ x.more))
        = hostFrame s 10 x.host 0 0 (x.code.setWidth 32) (padFrame (bytesOf 4 0 ++ x.more)) := by
      rw [hostFrame, hostFrame, h.devid]
    have hr : r = sendFrame s1 (hostFrame s1 10 x.host 0 0 (x.code.setWidth 32) (padFrame (bytesOf 4 0 ++ x.more))) := by
      have hjobs : s1.shootdowns = [] := h.shootdowns.trans hnone
      change shootdownAnswer s1 x = _
      rw [shootdownAnswer, hjobs]
      rfl
    rw [hr, hframe, sendFrame_of h.port h.cycle]
  rw [hanswer]
  exact ⟨h.shootdowns.trans hnone, h.l1, rfl, rfl⟩

/-- The end of a shootdown: no copy of the page stays in an L1, and the host is answered. -/
theorem shootdownEnd_reaches {s : State} (hnone : s.shootdowns = []) (x : Shootdown) :
    let r := shootdownEnd s x
    r.shootdowns = [] ∧ (∀ l ∈ r.l1, inLeafMemory x.old (128 * l.line) = false) ∧ (x.move = none → r.mem = s.mem)
      ∧ r.port = (sendFrame s (hostFrame s 10 x.host 0 0 (x.code.setWidth 32) (padFrame (bytesOf 4 0 ++ x.more)))).port := by
  intro r
  obtain ⟨s0, hs0⟩ : ∃ s0, s0 = { s with l1 := s.l1.filter (fun y => !inLeafMemory x.old (128 * y.line)) } := ⟨_, rfl⟩
  have hl1 : ∀ l ∈ s0.l1, inLeafMemory x.old (128 * l.line) = false := by
    intro l hl
    rw [hs0] at hl
    simpa using (List.mem_filter.1 hl).2
  have hport0 (f : Frame) : (sendFrame s0 f).port = (sendFrame s f).port := by
    exact sendFrame_port (by rw [hs0]) (by rw [hs0]) f none
  have hend : ∃ s1, CachesKept s0 s1 ∧ r = shootdownAnswer s1 x ∧ (x.move = none → s1.mem = s.mem) := by
    change ∃ s1, CachesKept s0 s1 ∧ shootdownEnd s x = _ ∧ _
    unfold shootdownEnd
    dsimp only
    split
    · next hmove => exact ⟨s0, .refl s0, by rw [hs0], fun _ => by rw [hs0]⟩
    · next pa hmove =>
      refine ⟨_, ?_, rfl, fun h => absurd (h.symm.trans hmove) (Option.some_ne_none pa).symm⟩
      subst hs0
      refine CachesKept.trans ?_ (CachesKept.loadIf _ _ _)
      refine CachesKept.trans ?_ (CachesKept.mapItems _ _ _)
      refine CachesKept.trans ?_ (CachesKept.writeIf _ _ _ _)
      refine CachesKept.trans ?_ (CachesKept.copyMem _ _ _ _)
      exact (CachesKept.evictLines _ _).trans (CachesKept.unloadClass _ x.old)
  obtain ⟨s1, hkept, hr, hmem⟩ := hend
  obtain ⟨h1, h2, h3, h4⟩ := shootdownAnswer_reaches hkept (by rw [hs0]; exact hnone) x
  rw [← hr] at h1 h2 h3 h4
  refine ⟨h1, fun l hl => hl1 l (h2 ▸ hl), fun hm => h3.trans (hmem hm), ?_⟩
  rw [h4, hport0, hs0]
  rfl

/-! ## Shootdowns (R122, R123) -/

section
variable {s : State} {c : SlotId} {t : Slot} {x : Shootdown} (hp : s.mgmt.powered = true) (hslot : slotOf s c = some t)
  (honly : s.shootdowns = [x])
include hp hslot honly

/-- An invalidation reaches a slot. -/
theorem invalidation_reaches {vpage : BitVec 40} (hc : c ∈ x.unreached) (hpage : inLeafPage x.old vpage = true) :
    let y : Shootdown := { x with
      unreached := x.unreached.filter (fun d => d ≠ c), unacked := x.unacked ++ [c]
      held := if cacheHolds t x.old then x.held ++ [c] else x.held }
    slotBecomesFrom { s with shootdowns := [y] } (.shootdownInvalidation c x.old.tenant x.old.context vpage) s c (invalidate t x.old) := by
  intro y
  have hreach : reaching s c x.old.tenant x.old.context vpage = some (0, x) := by
    rw [reaching, honly]
    simp [List.zipIdx, hc, hpage]
  refine ⟨fun t => invalidate t x.old, ?_, fun u hu => ?_⟩
  · rw [exec_shootdownInvalidation, execShootdownInvalidation, hreach]
    dsimp only
    rw [hslot, honly]
    exact event_next hp
  · obtain rfl : t = u := Option.some.inj (hslot.symm.trans hu)
    rfl

variable (hc : c ∈ x.unacked) (hdone : usesPage s t x.old = false) (hsaved : ∀ y ∈ s.saved, usesPage s y.slot x.old = false)
  (hmove : x.move.isSome = true → ∀ y ∈ allSlots s, usesPage s y x.old = false)
include hc hdone hsaved hmove

omit hp in
theorem ackDue_only : ackDue s c = some (0, x) := by
  have hquiet : pageQuiet s x = true := by
    unfold pageQuiet
    dsimp only
    rw [List.all_eq_true]
    intro u hu
    rw [Bool.not_eq_true']
    rcases List.mem_append.1 hu with hu | hu
    · obtain ⟨y, hy, rfl⟩ := List.mem_map.1 hu
      exact hsaved y hy
    · by_cases h : (x.move.isSome && x.unreached.isEmpty && decide (x.unacked.length ≤ 1)) = true
      · rw [if_pos h] at hu
        simp only [Bool.and_eq_true] at h
        exact hmove h.1.1 u hu
      · rw [if_neg h] at hu
        exact absurd hu List.not_mem_nil
  rw [ackDue, honly, hslot]
  simp [List.zipIdx, hc, hquiet, hdone]

/-- An acknowledgement before the last. -/
theorem ack_leaves (hmore : ¬ (x.unreached = [] ∧ x.unacked.filter (fun d => d ≠ c) = [])) :
    slotBecomesFrom { s with
        l1 := s.l1.filter (fun l => !(l.core = c.core && inLeafMemory x.old (128 * l.line)))
        shootdowns := [{ x with unacked := x.unacked.filter (fun d => d ≠ c) }] } (.shootdownAck c) s c
      (if x.move.isSome then t else restartWalks s x.old t) := by
  obtain ⟨left, hleft⟩ : ∃ left, left = x.unacked.filter (fun d => d ≠ c) := ⟨_, rfl⟩
  rw [← hleft] at hmore ⊢
  have hcond : ¬ ((x.unreached.isEmpty && left.isEmpty) = true) := by
    rw [Bool.and_eq_true, List.isEmpty_iff, List.isEmpty_iff]
    exact hmore
  refine ⟨fun t => if x.move.isSome then t else restartWalks s x.old t, ?_, fun u hu => ?_⟩
  · rw [exec_shootdownAck, execShootdownAck, ackDue_only hslot honly hc hdone hsaved hmove]
    dsimp only
    rw [← hleft, if_neg hcond, honly]
    exact event_next hp
  · obtain rfl : t = u := Option.some.inj (hslot.symm.trans hu)
    rfl

theorem exec_ackLast (hr : x.unreached = []) (hleft : x.unacked.filter (fun d => d ≠ c) = []) :
    let ended := shootdownEnd { s with
      l1 := s.l1.filter (fun l => !(l.core = c.core && inLeafMemory x.old (128 * l.line))), shootdowns := [] } { x with unacked := [] }
    exec (.shootdownAck c) s = .next (mapSlots ended (restartWalks ended x.old)) := by
  intro ended
  have hended : ended = shootdownEnd { s with
      l1 := s.l1.filter (fun l => !(l.core = c.core && inLeafMemory x.old (128 * l.line))), shootdowns := s.shootdowns.eraseIdx 0 }
      { x with unacked := x.unacked.filter (fun d => d ≠ c) } := by
    rw [hleft, honly]
    rfl
  rw [exec_shootdownAck, execShootdownAck, ackDue_only hslot honly hc hdone hsaved hmove]
  dsimp only
  rw [← hended, hleft, hr]
  exact event_next hp

/-- The last acknowledgement ends the shootdown. -/
theorem ack_ends (hr : x.unreached = []) (hleft : x.unacked.filter (fun d => d ≠ c) = []) :
    ∃ r, exec (.shootdownAck c) s = .next r ∧ r.shootdowns = []
      ∧ (∀ l ∈ r.l1, inLeafMemory x.old (128 * l.line) = false) ∧ (x.move = none → r.mem = s.mem)
      ∧ r.port = (sendFrame s (hostFrame s 10 x.host 0 0 (x.code.setWidth 32) (padFrame (bytesOf 4 0 ++ x.more)))).port := by
  obtain ⟨s1, hs1⟩ : ∃ s1, s1 = { s with
      l1 := s.l1.filter (fun l => !(l.core = c.core && inLeafMemory x.old (128 * l.line))), shootdowns := [] } := ⟨_, rfl⟩
  obtain ⟨h1, h2, h3, h4⟩ := shootdownEnd_reaches (s := s1) (by rw [hs1]) { x with unacked := [] }
  have hexec := exec_ackLast hp hslot honly hc hdone hsaved hmove hr hleft
  dsimp only at hexec
  rw [← hs1] at hexec
  have hframe : hostFrame s1 10 x.host 0 0 (x.code.setWidth 32) (padFrame (bytesOf 4 0 ++ x.more))
      = hostFrame s 10 x.host 0 0 (x.code.setWidth 32) (padFrame (bytesOf 4 0 ++ x.more)) := by
    rw [hs1]
    rfl
  have hport := sendFrame_port (s := s1) (t := s) (by rw [hs1]) (by rw [hs1])
    (hostFrame s1 10 x.host 0 0 (x.code.setWidth 32) (padFrame (bytesOf 4 0 ++ x.more))) none
  exact ⟨_, hexec, h1, h2, fun hm => (h3 hm).trans (by rw [hs1]), h4.trans (hport.trans (by rw [hframe]))⟩

end

end Sys2Proof.Machine
end

section
/-! SUPPORT. Requests at their home slices, back-offs and the derailleur (R68, R76, R77, R126, R450) -/

namespace Sys2Proof.Machine

/-! ## Requests at their home slices (R76, R77, R126, R127) -/

/-- What one more line of a GETREQ changes. -/
theorem answerLine_reaches {s u : State} {i : Nat} {f : Frame} {r : Request} {n : Nat}
    (htouch : Touched { s with requests := s.requests.eraseIdx i } u) (bs : List Byte) :
    let whole := if r.offset + n = f.aux.toNat then bs else bs.take (bs.length / 16 * 16)
    let next (x : Request) : Request :=
      if x.reply = some f ∧ x.offset = r.offset + n then { x with before := bs.drop whole.length } else x
    let t := answerLine u f r n bs
    t.requests = (s.requests.eraseIdx i).map next ∧ t.intake = s.intake.map next ∧ sameMemory s t
      ∧ t.port = if whole = [] then s.port
          else (sendFrame s (answerFrame s f 3 f.rpa (BitVec.ofNat 32 (r.offset + n - bs.length)) (padFrame whole))).port := by
  intro whole next t
  obtain ⟨ho, hpoison, hbytes⟩ := htouch.quiet
  obtain ⟨p, hp⟩ : ∃ p, p = if whole = [] then s.port
      else (sendFrame s (answerFrame s f 3 f.rpa (BitVec.ofNat 32 (r.offset + n - bs.length)) (padFrame whole))).port := ⟨_, rfl⟩
  have hport : u.port = s.port := by rw [ho]
  have hnext : (fun x : Request =>
      if (x.reply = some f && x.offset = r.offset + n) = true then { x with before := bs.drop whole.length } else x) = next := by
    funext x
    simp only [Bool.and_eq_true, decide_eq_true_eq]
    rfl
  have hsent : (if whole.isEmpty then u else sendFrame u (answerFrame u f 3 f.rpa (BitVec.ofNat 32 (r.offset + n - bs.length)) (padFrame whole)))
      = { u with port := p } := by
    by_cases h : whole = []
    · rw [if_pos (List.isEmpty_iff.2 h), hp, if_pos h, ← hport]
    · have hframe : answerFrame u f 3 f.rpa (BitVec.ofNat 32 (r.offset + n - bs.length)) (padFrame whole)
          = answerFrame s f 3 f.rpa (BitVec.ofNat 32 (r.offset + n - bs.length)) (padFrame whole) := by
        rw [ho]
        rfl
      rw [if_neg (mt List.isEmpty_iff.1 h), hp, if_neg h, hframe, sendFrame_of hport (by rw [ho])]
  have ht : t = { u with port := p, requests := u.requests.map next, intake := u.intake.map next } := by
    change answerLine u f r n bs = _
    unfold answerLine
    dsimp only
    rw [hsent, hnext]
  rw [ht, ← hp]
  exact ⟨by rw [ho], by rw [ho], ⟨hpoison, hbytes⟩, rfl⟩

/-- The first line of a GETREQ that is still to be read. -/
theorem readsBefore_first {s : State} {i : Nat} {r : Request} {f : Frame} (hr : r.reply = some f)
    (hfirst : ∀ x ∈ s.requests.take i, x.reply ≠ some f) : readsBefore s i r = false := by
  have hany : (s.requests.take i).any (fun x => x.reply = r.reply && x.reply.isSome) = false := by
    rw [List.any_eq_false]
    intro x hx hc
    simp only [Bool.and_eq_true, decide_eq_true_eq] at hc
    exact hfirst x hx (hc.1.trans hr)
  rw [readsBefore, hany, Bool.and_false]

/-- What a home refuses. -/
theorem performLine_denied {s : State} {i : Nat} {r : Request} {right : Nat}
    (hk : (∃ bs, r.kind = .write bs ∧ right = rightWrite) ∨ ∃ n, r.kind = .read n ∧ right = rightRead)
    (hno : ¬ (isMemory r.addr = true ∧ admits s (homeTarget s r.addr) r.tenant r.context right = true)) :
    performLine s i r = refuseFrame s i r (if isMemory r.addr then 0 else 1) := by
  have hjudge (perform : State) : (if !isMemory r.addr then refuseFrame s i r 1
      else if !admits s (homeTarget s r.addr) r.tenant r.context right then refuseFrame s i r 0 else perform)
        = refuseFrame s i r (if isMemory r.addr then 0 else 1) := by
    by_cases hm : isMemory r.addr = true
    · have hadm : admits s (homeTarget s r.addr) r.tenant r.context right = false := by
        rw [Bool.eq_false_iff]
        exact fun h => hno ⟨hm, h⟩
      rw [hm, hadm]
      rfl
    · rw [Bool.eq_false_iff.2 hm]
      rfl
  unfold performLine
  dsimp only
  rcases hk with ⟨bs, hk, rfl⟩ | ⟨n, hk, rfl⟩
  · rw [hk]
    exact hjudge _
  · rw [hk]
    exact hjudge _

section
variable {s : State} {i : Nat} {r : Request} (hp : s.mgmt.powered = true) (hat : s.requests[i]? = some r) (hsend : r.resendAt = none)
  (hturn : r.held = true ∨ ∀ x ∈ s.requests.take i, x.source = r.source → x.resendAt = none)
  (harrive : isMemory r.addr = true → canArrive s 0 (r.addr / 128) r.sent = true)
include hp hat hsend hturn harrive

/-- A request that can arrive waits behind its predecessor, or is judged and performed. -/
theorem exec_homeSliceRequest_eq : exec (.homeSliceRequest i) s = .next (
    if reqWaits s i r then queueRequest s i r else if readsBefore s i r then s else performLine s i r) := by
  have hheld : ((s.requests.take i).any (fun x => x.source = r.source && x.resendAt.isSome) && !r.held) = false := by
    rcases hturn with h | h
    · rw [h]
      exact Bool.and_false _
    · have hany : (s.requests.take i).any (fun x => x.source = r.source && x.resendAt.isSome) = false := by
        rw [List.any_eq_false]
        intro x hx hc
        simp only [Bool.and_eq_true, decide_eq_true_eq] at hc
        rw [h x hx hc.1] at hc
        exact absurd hc.2 (by decide)
      rw [hany]
      rfl
  have hmem : (isMemory r.addr && !canArrive s 0 (r.addr / 128) r.sent) = false := by
    by_cases h : isMemory r.addr = true
    · rw [harrive h]
      exact Bool.and_false _
    · rw [Bool.eq_false_iff.2 h]
      rfl
  rw [exec_homeSliceRequest, execHomeSliceRequest, hat]
  dsimp only
  rw [hheld, hmem, hsend]
  exact event_next hp

/-- Behind its predecessor a request waits in the reorder buffer. -/
theorem request_held (hwait : reqWaits s i r = true) (hheld : r.held = false) (hroom : reorderRoom s r.addr = true) :
    exec (.homeSliceRequest i) s = .next { s with requests := s.requests.set i { r with held := true } } := by
  have hqueue : queueRequest s i r = { s with requests := s.requests.set i { r with held := true, resendAt := r.resendAt } } := by
    unfold queueRequest queueBehind
    dsimp only
    rw [hheld, if_neg Bool.false_ne_true, if_pos hroom]
  rw [exec_homeSliceRequest_eq hp hat hsend hturn harrive, if_pos hwait, hqueue]

/-- A request that the reorder buffer has no room for is refused. -/
theorem request_backsOff (hwait : reqWaits s i r = true) (hheld : r.held = false) (hroom : reorderRoom s r.addr = false) :
    exec (.homeSliceRequest i) s = .next { s with requests := s.requests.set i { r with
      refusals := r.refusals + 1
      resendAt := some (s.cycle + (linkBackoff s 0 (homeDie r.addr) 0).toNat * 2 ^ min r.refusals 6 * 16) } } := by
  have hqueue : queueRequest s i r = { s with requests := s.requests.set i { r with
      refusals := r.refusals + 1
      resendAt := some (s.cycle + (linkBackoff s 0 (homeDie r.addr) 0).toNat * 2 ^ min r.refusals 6 * 16) } } := by
    unfold queueRequest queueBehind
    dsimp only
    rw [if_neg (by simp [hheld]), if_neg (by simp [hroom])]
    rfl
  rw [exec_homeSliceRequest_eq hp hat hsend hturn harrive, if_pos hwait, hqueue]

variable (hnow : reqWaits s i r = false)
include hnow

theorem exec_request_performs (hread : readsBefore s i r = false) : exec (.homeSliceRequest i) s = .next (performLine s i r) := by
  rw [exec_homeSliceRequest_eq hp hat hsend hturn harrive, if_neg (by simp [hnow]), if_neg (by simp [hread])]

/-- A write is performed at its home. -/
theorem request_writes {bs : List Byte} (hk : r.kind = .write bs) (hm : isMemory r.addr = true)
    (hadm : admits s (homeTarget s r.addr) r.tenant r.context rightWrite = true) :
    let past : State := { s with requests := s.requests.eraseIdx i }
    ∃ t, exec (.homeSliceRequest i) s = .next t ∧ homeOnly past t ∧ storesMemory past t r.addr bs := by
  intro past
  have hperform : performLine s i r = (homeWrite past r.addr bs).1 := by
    unfold performLine
    dsimp only
    rw [hk]
    dsimp only
    rw [hm, hadm]
    rfl
  exact ⟨_, exec_request_performs hp hat hsend hturn harrive hnow (by rw [readsBefore, hk]; rfl),
    by rw [hperform]; exact homeWrite_stores past r.addr bs false⟩

/-- A line of a GETREQ is read at its home, and goes out in whole multiples of 16 bytes. -/
theorem request_reads {n : Nat} {f : Frame} (hk : r.kind = .read n) (hr : r.reply = some f) (hm : isMemory r.addr = true)
    (hfirst : ∀ x ∈ s.requests.take i, x.reply ≠ some f) (hadm : admits s (homeTarget s r.addr) r.tenant r.context rightRead = true) :
    let past : State := { s with requests := s.requests.eraseIdx i }
    let bs := r.before ++ (List.range n).map (fun k => memByte s (r.addr + k))
    let whole := if r.offset + n = f.aux.toNat then bs else bs.take (bs.length / 16 * 16)
    let next (x : Request) : Request :=
      if x.reply = some f ∧ x.offset = r.offset + n then { x with before := bs.drop whole.length } else x
    ∃ t, exec (.homeSliceRequest i) s = .next t ∧ t.requests = past.requests.map next ∧ t.intake = s.intake.map next
      ∧ sameMemory s t
      ∧ t.port = if whole = [] then s.port
          else (sendFrame s (answerFrame s f 3 f.rpa (BitVec.ofNat 32 (r.offset + n - bs.length)) (padFrame whole))).port := by
  intro past bs whole next
  have hperform : performLine s i r = answerLine (homeRead past r.addr n).1 f r n (r.before ++ readMem past r.addr n) := by
    unfold performLine
    dsimp only
    rw [hk]
    dsimp only
    rw [hm, hadm, hr]
    rfl
  have hbs : r.before ++ readMem past r.addr n = bs := congrArg (r.before ++ ·) (readMem_eq_map past r.addr n)
  have htouch : Touched past (homeRead past r.addr n).1 := touched_homeRead past r.addr n false
  refine ⟨_, exec_request_performs hp hat hsend hturn harrive hnow (readsBefore_first hr hfirst), ?_⟩
  rw [hperform, hbs]
  exact answerLine_reaches htouch bs

/-- The answer to what a home refuses. -/
theorem request_denied {f : Frame} (hr : r.reply = some f) (hread : readsBefore s i r = false)
    (hperform : performLine s i r = refuseFrame s i r (if isMemory r.addr then 0 else 1))
    (hfirst : ∀ x ∈ s.requests, (x.source = r.source && x.reply = some f) = true → r.offset ≤ x.offset) :
    let mine (x : Request) : Bool := x.source = r.source && x.reply = some f
    let at_ := (r.lead + r.offset) % 2 ^ 24 + (if isMemory r.addr then 0 else 1) * 2 ^ 24
    ∃ t, exec (.homeSliceRequest i) s = .next t ∧ t.mem = s.mem
      ∧ t.requests = s.requests.filter (fun x => !mine x) ∧ t.intake = s.intake.filter (fun x => !mine x)
      ∧ t.port = (sendFrame s (answerFrame s f 11 0 (BitVec.ofNat 32 at_) [])).port := by
  intro mine at_
  refine ⟨_, exec_request_performs hp hat hsend hturn harrive hnow hread, ?_⟩
  have hany : s.requests.any (fun x => mine x && x.offset < r.offset) = false := by
    rw [List.any_eq_false]
    intro x hx hc
    rw [Bool.and_eq_true, decide_eq_true_eq] at hc
    exact absurd (hfirst x hx hc.1) (by omega)
  have hrefuse : refuseFrame s i r (if isMemory r.addr then 0 else 1) = sendFrame { s with
      requests := s.requests.filter (fun x => !mine x), intake := s.intake.filter (fun x => !mine x) }
      (answerFrame s f 11 0 (BitVec.ofNat 32 at_) []) := by
    rw [refuseFrame, hr]
    dsimp only
    rw [if_neg (Bool.eq_false_iff.1 hany)]
    rfl
  rw [hperform, hrefuse, sendFrame_of (s := { s with
    requests := s.requests.filter (fun x => !mine x), intake := s.intake.filter (fun x => !mine x) }) (t := s) rfl rfl]
  exact ⟨rfl, rfl, rfl, rfl⟩

end

/-- The intake engine sends the one line that it has (R76). -/
theorem intake_sends {s : State} (hp : s.mgmt.powered = true) {j : Request} (hnone : s.requests = []) (hin : s.intake = [j])
    (hline : reqLen j.kind - j.offset ≤ 128 - (j.addr + j.offset) % 128) (hsome : 0 < reqLen j.kind - j.offset)
    (hsend : isMemory (j.addr + j.offset) = true → canSend s 0 ((j.addr + j.offset) / 128) = true) :
    ∃ t r, exec (.homeSliceRequest 0) s = .next t ∧ t.intake = [] ∧ t.requests = [r] ∧ t.mem = s.mem
      ∧ r.source = j.source ∧ r.num = sget 0 s.sourceNums j.source ∧ r.pred = none ∧ r.addr = j.addr + j.offset
      ∧ sget 0 t.sourceNums j.source = r.num + 1 ∧ r.sent = s.cycle := by
  have hkind : j.kind ≠ .perform := fun h => by
    rw [h] at hsome
    exact absurd hsome (by simp [reqLen])
  have hpath : (isMemory (j.addr + j.offset) && !canSend s 0 ((j.addr + j.offset) / 128)) = false := by
    by_cases h : isMemory (j.addr + j.offset) = true
    · rw [hsend h]
      exact Bool.and_false _
    · rw [Bool.eq_false_iff.2 h]
      rfl
  obtain ⟨t, r, ht, hsent⟩ : ∃ t r, sendRequest s = some t ∧ t.intake = [] ∧ t.requests = [r] ∧ t.mem = s.mem
      ∧ r.source = j.source ∧ r.num = sget 0 s.sourceNums j.source ∧ r.pred = none ∧ r.addr = j.addr + j.offset
      ∧ sget 0 t.sourceNums j.source = r.num + 1 ∧ r.sent = s.cycle := by
    unfold sendRequest
    rw [hin]
    dsimp only
    rw [if_neg hkind, hnone]
    dsimp only [List.filter_nil, List.any_nil, List.length_nil]
    rw [hpath]
    refine ⟨_, _, rfl, ?_, rfl, rfl, rfl, rfl, rfl, rfl, ?_, rfl⟩
    · dsimp only
      rw [if_pos (by omega)]
    · exact (sget_sset ..).trans (if_pos rfl)
  have hstop : sendRequest t = none := by
    rw [sendRequest, hsent.1]
  have hall : sendRequests s 64 = t := by
    rw [sendRequests, ht]
    dsimp only
    rw [sendRequests, hstop]
  refine ⟨t, r, ?_, hsent⟩
  rw [exec_homeSliceRequest, execHomeSliceRequest, hnone]
  dsimp only [List.getElem?_nil, List.length_nil]
  rw [if_pos rfl, hall]
  exact event_next hp

/-! ## Back-offs (R77, R450) -/

theorem backoffOver_due {s : State} {d : Nat} {at_ : Option Nat} (hat : at_ = some d) (hd : d ≤ s.cycle) : backoffOver s at_ = true := by
  rw [hat]
  exact decide_eq_true hd

section
variable {s : State} {d : Nat} (hp : s.mgmt.powered = true) (hd : d ≤ s.cycle)
include hp hd

theorem exec_backoffResend_request {i : Nat} {r : Request} (hat : s.requests[i]? = some r) (hre : r.resendAt = some d) :
    exec (.backoffResend (.request i)) s = .next { s with requests := s.requests.set i { r with resendAt := none } } := by
  rw [exec_backoffResend, execBackoffResend, hat]
  dsimp only
  rw [backoffOver_due hre hd]
  exact event_next hp

theorem exec_backoffResend_barrier {i : Nat} {u : BarrierUpdate} (hat : s.barriers[i]? = some u) (hre : u.order.resendAt = some d) :
    exec (.backoffResend (.barrier i)) s =
      .next { s with barriers := s.barriers.set i { u with order := { u.order with resendAt := none } } } := by
  rw [exec_backoffResend, execBackoffResend, hat]
  dsimp only
  rw [backoffOver_due hre hd]
  exact event_next hp

theorem exec_backoffResend_query {die : Bool} {i : Nat} {a : QueryArrival} (hat : (s.kv[dieFin die]).queries[i]? = some a)
    (hre : a.resendAt = some d) : exec (.backoffResend (.query die i)) s = .next { s with
      kv := s.kv.set (dieFin die) { s.kv[dieFin die] with queries := (s.kv[dieFin die]).queries.set i { a with resendAt := none } } } := by
  unfold dieFin at hat ⊢
  rw [exec_backoffResend, execBackoffResend]
  dsimp only
  rw [hat]
  dsimp only
  rw [backoffOver_due hre hd]
  exact event_next hp

/-- A flow sends its window again. -/
theorem backoffResend_flow {k : FlowKey} {x : TxFlow} (hflow : txFlow s k = some x) (hre : x.resendAt = some d) (hup : s.port.up = true) :
    ∃ r, exec (.backoffResend (.flow k)) s = .next r
      ∧ r.port.wire = (x.window.map (fun p => p.frame)).reverse ++ s.port.wire ∧ r.mem = s.mem := by
  refine ⟨resendFlow s x, ?_, rfl, rfl⟩
  rw [exec_backoffResend, execBackoffResend]
  rw [hflow]
  dsimp only
  rw [backoffOver_due hre hd, hup]
  exact event_next hp

end

/-! ## The derailleur (R68, R69) -/

theorem evictLine_lines (s : State) (n : Nat) : (evictLine s n).lines = sdel s.lines n := by
  unfold evictLine
  dsimp only
  split
  · split
    · split <;> rfl
    · rfl
  · rfl

/-- A line given up is in no slice. -/
theorem mem_lines_evictLines {p : Nat × BitVec 32} (ls : List Nat) (s : State) (h : p ∈ (ls.foldl evictLine s).lines) : p ∈ s.lines ∧ p.1 ∉ ls := by
  induction ls generalizing s with
  | nil => exact ⟨h, List.not_mem_nil⟩
  | cons l ls ih =>
    obtain ⟨hin, hout⟩ := ih (evictLine s l) h
    rw [evictLine_lines] at hin
    obtain ⟨hin, hne⟩ := List.mem_filter.1 hin
    exact ⟨hin, fun h => (List.mem_cons.1 h).elim (by simpa using hne) hout⟩

section
variable {s : State} {die : Bool} {bucket : BitVec 12} {target : BitVec 6} (hp : s.mgmt.powered = true)
include hp

theorem exec_derailleurMoveStart_next
    (hstate : (tableEntry s (4096 * die.toNat + bucket.toNat)).extractLsb' 14 2 = 0
      ∨ (tableEntry s (4096 * die.toNat + bucket.toNat)).extractLsb' 14 2 = 3)
    (hslice : (tableEntry s (4096 * die.toNat + bucket.toNat)).extractLsb' 0 6 ≠ target) (hfree : reservedCount s die bucket = 0)
    (hno : s.moves[dieFin die] = none) (hlast : ∀ c, s.lastMove[dieFin die] = some c → c + 16000 ≤ s.cycle) :
    exec (.derailleurMoveStart die bucket target) s = .next { s with
      table := (setTable s (4096 * die.toNat + bucket.toNat)
        (1#2 ++ target ++ 0#2 ++ (tableEntry s (4096 * die.toNat + bucket.toNat)).extractLsb' 0 6)).table
      moves := s.moves.set (dieFin die) (some { bucket := bucket, target := target })
      lastMove := s.lastMove.set (dieFin die) (some s.cycle) } := by
  have hallowed : moveAllowed s die bucket target = true := by
    have hst : (decide ((tableEntry s (4096 * die.toNat + bucket.toNat)).extractLsb' 14 2 = 0)
        || decide ((tableEntry s (4096 * die.toNat + bucket.toNat)).extractLsb' 14 2 = 3)) = true := by
      rw [Bool.or_eq_true, decide_eq_true_eq, decide_eq_true_eq]
      exact hstate
    unfold moveAllowed
    dsimp only
    rw [hst, hno, hfree, decide_eq_true hslice]
    cases h : s.lastMove[dieFin die] with
    | none => rfl
    | some c => exact decide_eq_true (hlast c h)
  rw [exec_derailleurMoveStart, execDerailleurMoveStart, hallowed]
  exact event_next hp

variable {m : Move} (hb : m.bucket = bucket) (ht : m.target = target) (hm : s.moves[dieFin die] = some m)

include hb hm in
theorem exec_derailleurHold_next (hheld : m.held = false) (hbusy : bucketBusy s (4096 * die.toNat + bucket.toNat) = false) :
    exec (.derailleurHold die) s = .next { s with
      moves := s.moves.set (dieFin die) (some { m with held := true })
      agenda := [.derailleurFlush die, .derailleurRelease die] ++ s.agenda } := by
  subst hb
  rw [exec_derailleurHold, execDerailleurHold, hm]
  dsimp only
  rw [hheld, moveKey, hbusy]
  exact event_next hp

include hb ht hm in
theorem derailleurFlush_reaches (hheld : m.held = true) (hflush : m.flushing = false) :
    ∃ r, exec (.derailleurFlush die) s = .next r
      ∧ (∀ p ∈ r.lines, bucketKey (128 * p.1) ≠ 4096 * die.toNat + bucket.toNat)
      ∧ r.table = (setTable s (4096 * die.toNat + bucket.toNat)
          (2#2 ++ target ++ 0#2 ++ (tableEntry s (4096 * die.toNat + bucket.toNat)).extractLsb' 0 6)).table
      ∧ r.moves = s.moves.set (dieFin die) (some { m with flushing := true }) ∧ r.counters = s.counters := by
  subst hb ht
  obtain ⟨ls, hls⟩ : ∃ ls, ls = (s.lines.map (fun p => p.1)).filter (fun n => bucketKey (128 * n) = moveKey die m) := ⟨_, rfl⟩
  obtain ⟨s1, hs1⟩ : ∃ s1, s1 = ls.foldl evictLine s := ⟨_, rfl⟩
  have ho : homeOnly s s1 := by rw [hs1]; exact homeOnly_evictLines ls s
  have hcount : s1.counters = s.counters := by
    have hfold (ls : List Nat) (s : State) : (ls.foldl evictLine s).counters = s.counters := by
      induction ls generalizing s with
      | nil => rfl
      | cons l ls ih => exact (ih _).trans (touched_evictLine s l).counters
    rw [hs1]
    exact hfold ls s
  have htable : s1.table = s.table := by rw [ho]
  have hmoves : s1.moves = s.moves := by rw [ho]
  have hexec : exec (.derailleurFlush die) s = .next { setTable s1 (moveKey die m) (tableWord 2 m.target
      ((tableEntry s (moveKey die m)).extractLsb' 0 6)) with moves := s1.moves.set (dieFin die) (some { m with flushing := true }) } := by
    rw [exec_derailleurFlush, execDerailleurFlush, hm]
    dsimp only
    rw [hheld, hflush, ← hls, ← hs1]
    exact event_next hp
  refine ⟨_, hexec, fun p hmem hkey => ?_, ?_, by rw [← hmoves], hcount⟩
  · have hmem' : p ∈ (ls.foldl evictLine s).lines := by rw [← hs1]; exact hmem
    obtain ⟨hin, hout⟩ := mem_lines_evictLines ls s hmem'
    refine hout ?_
    rw [hls]
    exact List.mem_filter.2 ⟨List.mem_map.2 ⟨p, hin, rfl⟩, decide_eq_true hkey⟩
  · change sset _ s1.table _ _ = sset _ s.table _ _
    rw [htable]
    rfl

include hb ht hm in
theorem exec_derailleurRelease_next (hflush : m.flushing = true) : exec (.derailleurRelease die) s = .next { s with
    table := (setTable s (4096 * die.toNat + bucket.toNat) (target.setWidth 16)).table, moves := s.moves.set (dieFin die) none } := by
  subst hb ht
  have hword : tableWord 0 0 m.target = m.target.setWidth 16 := by
    apply BitVec.eq_of_toNat_eq
    have hlt : m.target.toNat < 2 ^ 16 := lt_of_lt_of_le m.target.isLt (by decide)
    rw [tableWord, BitVec.toNat_setWidth, Nat.mod_eq_of_lt hlt]
    simp only [BitVec.toNat_append]
    simp
  rw [exec_derailleurRelease, execDerailleurRelease, hm]
  dsimp only
  rw [hflush, hword]
  exact event_next hp

end

/-! ## The obligation -/

/-- Settles O50: each event is the model's own step on the object that its hypotheses name; what evictions, tags and pinned lines
touch is kept apart by `Touched` and `CachesKept`. -/
theorem translationAndHomeEvents : Obligations.TranslationAndHomeEvents := by
  intro s hp
  refine ⟨?_, ?_, ?_, ?_, ?_, ?_, ?_, ?_⟩
  · intro c t h w hslot honly hre filled
    refine ⟨fun d hdue hd => hit_fills hp hslot honly hre hdue hd, fun hdue hfault hsince => ⟨fun l x hwalk hroom => ?_, fun hwalk => ?_, ?_⟩⟩
    · exact ⟨walk_fills hp hslot honly hre hdue hfault hsince hwalk hroom, fun hlat hnew n => loadClass_pins hlat hnew n, loadClass_mem s l⟩
    · exact walk_waits hp hslot honly hre hdue hfault hsince hwalk
    · intro code level hends vpage f
      exact ⟨fun huse hcode => walk_asks hp hslot honly hre hdue hfault hsince hends huse hcode,
        fun huse => walk_faultsUse hp hslot honly hre hdue hfault hsince hends huse⟩
  · intro c t x hslot honly serves
    refine ⟨fun vpage hc hpage => invalidation_reaches hp hslot honly hc hpage, fun hc hdone hsaved hmove => ?_⟩
    intro left kept
    exact ⟨fun hmore => ack_leaves hp hslot honly hc hdone hsaved hmove hmore,
      fun hr hleft => ack_ends hp hslot honly hc hdone hsaved hmove hr hleft⟩
  · intro i r hat
    refine ⟨fun d hre hd => exec_backoffResend_request hp hd hat hre, fun hsend hturn harrive => ?_⟩
    intro past admitted
    refine ⟨fun hwait hheld => ⟨request_held hp hat hsend hturn harrive hwait hheld, request_backsOff hp hat hsend hturn harrive hwait hheld⟩,
      fun bs hnow hk hadm => request_writes hp hat hsend hturn harrive hnow hk hadm.1 hadm.2,
      fun n f hnow hk hr hfirst hadm => request_reads hp hat hsend hturn harrive hnow hk hr hadm.1 hfirst hadm.2, ?_⟩
    intro f right hnow hr hkind hno mine hfirst at_
    cases hk : r.kind with
    | write bs =>
      rw [hk] at hkind
      exact request_denied hp hat hsend hturn harrive hnow hr (by rw [readsBefore, hk]; rfl)
        (performLine_denied (.inl ⟨bs, hk, hkind⟩) hno) hfirst
    | read n =>
      rw [hk] at hkind
      exact request_denied hp hat hsend hturn harrive hnow hr (readsBefore_first hr hkind.2)
        (performLine_denied (.inr ⟨n, hk, hkind.1⟩) hno) hfirst
    | perform =>
      rw [hk] at hkind
      exact hkind.elim
  · exact fun j hnone hin hline hsome hsend => intake_sends hp hnone hin hline hsome hsend
  · exact fun k x d hflow hre hd hup => backoffResend_flow hp hd hflow hre hup
  · exact fun i u d hat hre hd => exec_backoffResend_barrier hp hd hat hre
  · exact fun die i a d hat hre hd => exec_backoffResend_query hp hd hat hre
  · intro die bucket target key slice state set
    refine ⟨fun hstate hslice hfree hno hlast => exec_derailleurMoveStart_next hp hstate hslice hfree hno hlast, fun m hb ht hm => ?_⟩
    exact ⟨fun hheld hbusy => exec_derailleurHold_next hp hb hm hheld hbusy,
      fun hheld hflush => derailleurFlush_reaches hp hb ht hm hheld hflush,
      fun hflush => exec_derailleurRelease_next hp hb ht hm hflush⟩

end Sys2Proof.Machine
end

section
/-! SUPPORT. Rounding of exact values in the interchange formats (R79, R83, R93 to R97) -/

namespace Sys2Proof.Machine

/-! ## Dyadic magnitudes -/

/-- The number that a mantissa and an exponent stand for. -/
def dyadic (a : Nat × Int) : ℚ := a.1 * 2 ^ a.2

theorem two_zpow_pos (e : Int) : (0 : ℚ) < 2 ^ e := zpow_pos (by norm_num) e

theorem dyadic_nonneg (a : Nat × Int) : 0 ≤ dyadic a := mul_nonneg (Nat.cast_nonneg _) (two_zpow_pos _).le

/-- A mantissa shifted up to an exponent that is not above. -/
theorem dyadic_shift (m : Nat) {e low : Int} (h : low ≤ e) : dyadic (m, e) = ((m <<< (e - low).toNat : Nat) : ℚ) * 2 ^ low := by
  have hd : ((e - low).toNat : Int) = e - low := Int.toNat_of_nonneg (by omega)
  rw [dyadic, Nat.shiftLeft_eq, Nat.cast_mul, Nat.cast_pow, Nat.cast_two, ← zpow_natCast, hd, mul_assoc, ← zpow_add₀ two_ne_zero]
  congr 2
  omega

theorem compare_scaled (a b : Nat) (e : Int) : compare ((a : ℚ) * 2 ^ e) (b * 2 ^ e) = compare a b := by
  rcases lt_trichotomy a b with h | h | h
  · rw [compare_lt_iff_lt.2 h, compare_lt_iff_lt.2 (mul_lt_mul_of_pos_right (Nat.cast_lt.2 h) (two_zpow_pos e))]
  · rw [h, compare_eq_iff_eq.2 rfl, compare_eq_iff_eq.2 rfl]
  · rw [compare_gt_iff_gt.2 h, compare_gt_iff_gt.2 (mul_lt_mul_of_pos_right (Nat.cast_lt.2 h) (two_zpow_pos e))]

/-- Magnitudes compare as their numbers do. -/
theorem magCmp_eq (a b : Nat × Int) : magCmp a.1 a.2 b.1 b.2 = compare (dyadic a) (dyadic b) := by
  obtain ⟨m, e⟩ := a
  obtain ⟨n, g⟩ := b
  unfold magCmp
  dsimp only
  split
  · next h => rw [dyadic_shift n h, dyadic, compare_scaled]
  · next h => rw [dyadic_shift m (by omega : g ≤ e), dyadic, compare_scaled]

theorem magLe_iff (a b : Nat × Int) : magLe a b = true ↔ dyadic a ≤ dyadic b := by
  rw [magLe, magCmp_eq, bne_iff_ne, ne_eq, compare_gt_iff_gt, not_lt]

theorem dyadic_magAdd (a b : Nat × Int) : dyadic (magAdd a b) = dyadic a + dyadic b := by
  obtain ⟨m, e⟩ := a
  obtain ⟨n, g⟩ := b
  unfold magAdd
  dsimp only
  split
  · next h => rw [dyadic_shift n h, dyadic, dyadic, Nat.cast_add, add_mul]
  · next h => rw [dyadic_shift m (by omega : g ≤ e), dyadic, dyadic, Nat.cast_add, add_mul]

/-- Whether the upper of two neighbours is taken (R93). -/
def takesUpper (rnd : Nat) (neg : Bool) (x lo hi : ℚ) (even : Prop) : Prop :=
  if rnd = 1 then False else if rnd = 2 then neg = false else if rnd = 3 then neg = true
  else if rnd = 4 then lo + hi ≤ 2 * x else lo + hi < 2 * x ∨ (lo + hi = 2 * x ∧ ¬ even)

theorem roundUp_iff (rnd : Nat) (neg : Bool) (x lo hi : Nat × Int) (even : Bool) :
    roundUp rnd neg x lo hi even = true ↔ takesUpper rnd neg (dyadic x) (dyadic lo) (dyadic hi) (even = true) := by
  have htwice : dyadic (2 * x.1, x.2) = 2 * dyadic x := by
    rw [dyadic, dyadic, Nat.cast_mul, Nat.cast_two, mul_assoc]
  have hcmp : magCmp (2 * x.1) x.2 (magAdd lo hi).1 (magAdd lo hi).2 = compare (2 * dyadic x) (dyadic lo + dyadic hi) := by
    rw [← htwice, ← dyadic_magAdd]
    exact magCmp_eq (2 * x.1, x.2) (magAdd lo hi)
  unfold roundUp takesUpper
  dsimp only
  rw [hcmp]
  split
  · exact ⟨fun h => absurd h (by decide), False.elim⟩
  · split
    · rw [Bool.not_eq_true']
    · split
      · rfl
      · split
        · rw [bne_iff_ne, ne_eq, compare_lt_iff_lt, not_lt]
        · rw [Bool.or_eq_true, Bool.and_eq_true, beq_iff_eq, beq_iff_eq, compare_gt_iff_gt, compare_eq_iff_eq, Bool.not_eq_true',
            Bool.not_eq_true, eq_comm (a := dyadic lo + dyadic hi)]

/-! ## Codes and their magnitudes (R79, R83) -/

/-- What binary32, binary16 and bfloat16 have in common. -/
structure Interchange (f : NumFmt) : Prop where
  signed : f.s = true
  expo : f.e ≠ 0
  sub : f.sub = true
  sat : f.sat = false
  special : f.special = 1
  narrow : f.narrow = false
  frac : 1 ≤ f.m
  width : f.m + 3 ≤ f.w

theorem interchange_of_mem {f : NumFmt} (h : f ∈ [fmt32, fmt16, fmtB16]) : Interchange f := by
  simp only [List.mem_cons, List.not_mem_nil, or_false] at h
  rcases h with rfl | rfl | rfl <;> constructor <;> decide

/-- The magnitude of a code of an interchange format. -/
def codeMag (f : NumFmt) (k : Nat) : ℚ :=
  if k < 2 ^ f.m then k * 2 ^ (1 - f.bias - f.m)
  else (2 ^ f.m + k % 2 ^ f.m : Nat) * 2 ^ (((k / 2 ^ f.m : Nat) : Int) - f.bias - f.m)

section
variable {f : NumFmt} (hf : Interchange f)
include hf

theorem dyadic_magValue (k : Nat) : dyadic (magValue f k) = codeMag f k := by
  have hpos : 0 < 2 ^ f.m := Nat.two_pow_pos _
  unfold magValue codeMag dyadic
  dsimp only
  rw [if_neg hf.expo, hf.sub, Nat.shiftRight_eq_div_pow]
  by_cases hk : k < 2 ^ f.m
  · have h0 : k / 2 ^ f.m = 0 := Nat.div_eq_of_lt hk
    rw [if_pos hk, h0, Nat.mod_eq_of_lt hk]
    rfl
  · have h0 : k / 2 ^ f.m ≠ 0 := by
      rw [ne_eq, Nat.div_eq_zero_iff]
      omega
    rw [if_neg hk, if_neg (by simp [h0]), if_neg (by simp [h0])]

omit hf in
theorem codeMag_normal {k E M : Nat} (hE : E ≠ 0) (hM : M < 2 ^ f.m) (hk : M + 2 ^ f.m * E = k) :
    codeMag f k = ((2 ^ f.m + M : Nat) : ℚ) * 2 ^ ((E : Int) - f.bias - f.m) := by
  obtain ⟨hdiv, hmod⟩ := (Nat.div_mod_unique (Nat.two_pow_pos f.m)).2 ⟨hk, hM⟩
  have hle : 2 ^ f.m ≤ 2 ^ f.m * E := Nat.le_mul_of_pos_right _ (Nat.pos_of_ne_zero hE)
  rw [codeMag, if_neg (by omega), hdiv, hmod]

omit hf in
/-- The next code is one unit in the last place further. -/
theorem codeMag_succ (k : Nat) : codeMag f (k + 1) = codeMag f k + 2 ^ (((max (k / 2 ^ f.m) 1 : Nat) : Int) - f.bias - f.m) := by
  have hpos : 0 < 2 ^ f.m := Nat.two_pow_pos _
  by_cases hk : k < 2 ^ f.m
  · have hmax : ((max (k / 2 ^ f.m) 1 : Nat) : Int) = 1 := by rw [Nat.div_eq_of_lt hk]; rfl
    have hnext : codeMag f (k + 1) = ((k + 1 : Nat) : ℚ) * 2 ^ (1 - f.bias - f.m) := by
      by_cases hk1 : k + 1 < 2 ^ f.m
      · rw [codeMag, if_pos hk1]
      · rw [codeMag_normal one_ne_zero hpos (by omega), show 2 ^ f.m + 0 = k + 1 by omega]
        rfl
    rw [hnext, hmax, codeMag, if_pos hk, Nat.cast_succ]
    ring
  · have hE : k / 2 ^ f.m ≠ 0 := by rw [ne_eq, Nat.div_eq_zero_iff]; omega
    have hM : k % 2 ^ f.m < 2 ^ f.m := Nat.mod_lt k hpos
    have hsum : k % 2 ^ f.m + 2 ^ f.m * (k / 2 ^ f.m) = k := Nat.mod_add_div k _
    rw [Nat.max_eq_left (Nat.pos_of_ne_zero hE), codeMag_normal hE hM hsum]
    generalize k / 2 ^ f.m = E at *
    generalize k % 2 ^ f.m = M at *
    by_cases hM1 : M + 1 < 2 ^ f.m
    · rw [codeMag_normal (k := k + 1) hE hM1 (by omega), ← Nat.add_assoc, Nat.cast_succ]
      ring
    · have hlast : 2 ^ f.m + M = 2 ^ f.m + 2 ^ f.m - 1 := by omega
      rw [codeMag_normal (k := k + 1) (E := E + 1) (M := 0) (Nat.succ_ne_zero E) hpos (by rw [Nat.mul_add]; omega), hlast,
        Nat.cast_sub (by omega), Nat.cast_add, Nat.cast_succ, show ((E : Int) + 1 - f.bias - f.m) = ((E : Int) - f.bias - f.m) + 1 by ring,
        zpow_add₀ two_ne_zero, zpow_one]
      push_cast
      ring

omit hf in
theorem codeMag_strictMono : StrictMono (codeMag f) :=
  strictMono_nat_of_lt_succ fun k => by rw [codeMag_succ]; exact lt_add_of_pos_right _ (two_zpow_pos _)

omit hf in
theorem codeMag_zero : codeMag f 0 = 0 := by simp [codeMag]

omit hf in
/-- A whole binade further, a normal magnitude is doubled. -/
theorem codeMag_binade {k : Nat} (hk : 2 ^ f.m ≤ k) : codeMag f (k + 2 ^ f.m) = 2 * codeMag f k := by
  have hpos : 0 < 2 ^ f.m := Nat.two_pow_pos _
  have hE : k / 2 ^ f.m ≠ 0 := by rw [ne_eq, Nat.div_eq_zero_iff]; omega
  have hM : k % 2 ^ f.m < 2 ^ f.m := Nat.mod_lt k hpos
  have hsum : k % 2 ^ f.m + 2 ^ f.m * (k / 2 ^ f.m) = k := Nat.mod_add_div k _
  rw [codeMag_normal (k := k + 2 ^ f.m) (E := k / 2 ^ f.m + 1) (Nat.succ_ne_zero _) hM (by rw [Nat.mul_add]; omega), codeMag_normal hE hM hsum,
    Nat.cast_succ, show (((k / 2 ^ f.m : Nat) : Int) + 1 - f.bias - f.m) = (((k / 2 ^ f.m : Nat) : Int) - f.bias - f.m) + 1 by ring,
    zpow_add₀ two_ne_zero, zpow_one]
  ring

/-! ## The largest code below (R93) -/

/-- A search bit by bit from the top. -/
def bitSearch (p : Nat → Bool) (w : Nat) : Nat :=
  (List.range w).foldl (fun k i => if p (k + 2 ^ (w - 1 - i)) then k + 2 ^ (w - 1 - i) else k) 0

omit hf in
/-- The search finds the last of the numbers that a falling test accepts. -/
theorem bitSearch_last {p : Nat → Bool} {w : Nat} (hfall : ∀ i j, i ≤ j → p j = true → p i = true) (h0 : p 0 = true)
    (hlt : ∀ j, p j = true → j < 2 ^ w) : p (bitSearch p w) = true ∧ ∀ j, p j = true → j ≤ bitSearch p w := by
  have hinv (n : Nat) (hn : n ≤ w) :
      let k := (List.range n).foldl (fun k i => if p (k + 2 ^ (w - 1 - i)) then k + 2 ^ (w - 1 - i) else k) 0
      p k = true ∧ ∀ j, p j = true → j < k + 2 ^ (w - n) := by
    induction n with
    | zero => exact ⟨h0, fun j hj => by simpa using hlt j hj⟩
    | succ n ih =>
      obtain ⟨hk, hmax⟩ := ih (by omega)
      have hhalf : 2 ^ (w - n) = 2 ^ (w - 1 - n) + 2 ^ (w - 1 - n) := by
        rw [show w - n = w - 1 - n + 1 by omega, Nat.pow_succ, Nat.mul_two]
      rw [List.range_succ, List.foldl_append, List.foldl_cons, List.foldl_nil, show w - (n + 1) = w - 1 - n by omega]
      generalize (List.range n).foldl (fun k i => if p (k + 2 ^ (w - 1 - i)) then k + 2 ^ (w - 1 - i) else k) 0 = k at *
      by_cases hbit : p (k + 2 ^ (w - 1 - n)) = true
      · rw [if_pos hbit]
        exact ⟨hbit, fun j hj => by have := hmax j hj; omega⟩
      · rw [if_neg hbit]
        refine ⟨hk, fun j hj => ?_⟩
        by_contra hge
        exact hbit (hfall _ j (by omega) hj)
  obtain ⟨hk, hmax⟩ := hinv w le_rfl
  refine ⟨hk, fun j hj => ?_⟩
  have := hmax j hj
  rw [Nat.sub_self, Nat.pow_zero] at this
  exact Nat.lt_succ_iff.1 this

/-- The largest finite code. -/
def topCode (f : NumFmt) : Nat := 2 ^ (f.w - 1) - 2 ^ f.m - 1

theorem maxMag_eq : maxMag f = topCode f := by
  rw [maxMag, if_pos hf.special, magOnes, hf.signed, topCode]
  exact Nat.sub_right_comm ..

theorem topCode_lt : topCode f + 1 + 2 ^ f.m = 2 ^ (f.w - 1) ∧ 3 * 2 ^ f.m ≤ 2 ^ (f.w - 1) ∧ topCode f % 2 = 1 := by
  obtain ⟨d, hd⟩ : ∃ d, f.w - 1 = f.m + 2 + d := ⟨f.w - 3 - f.m, by have := hf.width; omega⟩
  obtain ⟨e, he⟩ : ∃ e, f.m = e + 1 := ⟨f.m - 1, by have := hf.frac; omega⟩
  have hm : 2 ^ f.m = 2 * 2 ^ e := by rw [he, Nat.pow_succ']
  have hpos : 0 < 2 ^ e := Nat.two_pow_pos _
  have hw : 2 ^ (f.w - 1) = 4 * 2 ^ f.m * 2 ^ d := by rw [hd, Nat.pow_add, Nat.pow_add]; ring
  have hle : 4 * 2 ^ f.m ≤ 2 ^ (f.w - 1) := by rw [hw]; exact Nat.le_mul_of_pos_right _ (Nat.two_pow_pos d)
  have heven : 2 ^ (f.w - 1) % 2 = 0 := by
    rw [hd, show f.m + 2 + d = (f.m + 1 + d) + 1 by omega, Nat.pow_succ]
    exact Nat.mul_mod_left ..
  unfold topCode
  omega

/-- The code that a positive number is rounded from: the largest one up to the top whose magnitude is at most it. -/
theorem codeBelow_spec (x : Nat × Int) : codeBelow f (maxMag f) x ≤ topCode f ∧ codeMag f (codeBelow f (maxMag f) x) ≤ dyadic x
    ∧ ∀ j, j ≤ topCode f → codeMag f j ≤ dyadic x → j ≤ codeBelow f (maxMag f) x := by
  obtain ⟨p, hp⟩ : ∃ p : Nat → Bool, p = fun k => decide (k ≤ maxMag f) && magLe (magValue f k) x := ⟨_, rfl⟩
  have hiff (k : Nat) : p k = true ↔ k ≤ topCode f ∧ codeMag f k ≤ dyadic x := by
    rw [hp]
    dsimp only
    rw [Bool.and_eq_true, decide_eq_true_eq, magLe_iff, dyadic_magValue hf, maxMag_eq hf]
  have hsearch : codeBelow f (maxMag f) x = bitSearch p f.w := by rw [hp]; rfl
  have htop : topCode f < 2 ^ f.w := by
    have := (topCode_lt hf).1
    have : 2 ^ (f.w - 1) ≤ 2 ^ f.w := Nat.pow_le_pow_right (by decide) (by omega)
    have := Nat.two_pow_pos f.m
    omega
  obtain ⟨hk, hmax⟩ := bitSearch_last (p := p) (w := f.w)
    (fun i j hij hj => (hiff i).2 ⟨hij.trans ((hiff j).1 hj).1, (codeMag_strictMono.monotone hij).trans ((hiff j).1 hj).2⟩)
    ((hiff 0).2 ⟨Nat.zero_le _, by rw [codeMag_zero]; exact dyadic_nonneg x⟩) fun j hj => by have := ((hiff j).1 hj).1; omega
  rw [← hsearch] at hk hmax
  exact ⟨((hiff _).1 hk).1, ((hiff _).1 hk).2, fun j h1 h2 => hmax j ((hiff j).2 ⟨h1, h2⟩)⟩

theorem codeBelow_eq {x : Nat × Int} {k : Nat} (hk : k ≤ topCode f) (hle : codeMag f k ≤ dyadic x)
    (hlt : k = topCode f ∨ dyadic x < codeMag f (k + 1)) : codeBelow f (maxMag f) x = k := by
  obtain ⟨hc, hcx, hmax⟩ := codeBelow_spec hf x
  refine le_antisymm ?_ (hmax k hk hle)
  rcases hlt with rfl | hlt
  · exact hc
  · exact Nat.lt_succ_iff.1 (codeMag_strictMono.lt_iff_lt.1 (hcx.trans_lt hlt))

/-! ## Tininess (R95) -/

/-- The smallest normal magnitude, and the number with as many fraction bits below it. -/
def leastMag (f : NumFmt) : ℚ := codeMag f (2 ^ f.m)

def belowMag (f : NumFmt) : ℚ := leastMag f - leastMag f / 2 ^ (f.m + 1)

/-- One unit in the last place below the smallest normal magnitude. -/
def tinyUnit (f : NumFmt) : ℚ := 2 ^ (-f.bias - f.m)

omit hf in
theorem leastMag_eq : leastMag f = (2 ^ (f.m + 1) : Nat) * tinyUnit f := by
  rw [leastMag, codeMag_normal one_ne_zero (Nat.two_pow_pos _) (by omega : 0 + 2 ^ f.m * 1 = 2 ^ f.m), tinyUnit, Nat.pow_succ,
    show ((1 : Nat) : Int) - f.bias - f.m = (-f.bias - f.m) + 1 by push_cast; ring, zpow_add₀ two_ne_zero, zpow_one]
  push_cast
  ring

omit hf in
theorem belowMag_eq : belowMag f = (2 ^ (f.m + 1) - 1 : Nat) * tinyUnit f := by
  have hpos : (2 : ℚ) ^ (f.m + 1) ≠ 0 := pow_ne_zero _ two_ne_zero
  rw [belowMag, leastMag_eq, Nat.cast_sub Nat.one_le_two_pow]
  push_cast
  field_simp

/-- A number is tiny as it rounds, with an unbounded exponent, below the smallest normal magnitude. -/
def tinyNum (f : NumFmt) (rnd : Nat) (neg : Bool) (x : ℚ) : Prop :=
  x < leastMag f ∧ (x ≤ belowMag f ∨ ¬ takesUpper rnd neg x (belowMag f) (leastMag f) False)

omit hf in
theorem belowMag_lt : belowMag f < leastMag f := by
  have hu : 0 < tinyUnit f := two_zpow_pos _
  rw [belowMag_eq, leastMag_eq]
  exact mul_lt_mul_of_pos_right (Nat.cast_lt.2 (Nat.sub_lt (Nat.two_pow_pos _) one_pos)) hu

omit hf in
/-- A number of few bits below the smallest normal magnitude is at most the one before it. -/
theorem le_belowMag_of_bits {X : Nat} {e : Int} (hX : X < 2 ^ (f.m + 1)) (hx : dyadic (X, e) < leastMag f) : dyadic (X, e) ≤ belowMag f := by
  rw [leastMag_eq] at hx
  rw [belowMag_eq]
  rcases le_total (-f.bias - f.m) e with h | h
  · rw [dyadic_shift X h] at hx ⊢
    have hu : (0 : ℚ) < 2 ^ (-f.bias - f.m) := two_zpow_pos _
    have hlt := Nat.cast_lt.1 (lt_of_mul_lt_mul_right hx hu.le)
    exact mul_le_mul_of_nonneg_right (Nat.cast_le.2 (Nat.le_sub_one_of_lt hlt)) hu.le
  · exact mul_le_mul (Nat.cast_le.2 (Nat.le_sub_one_of_lt hX)) (zpow_le_zpow_right₀ one_le_two h) (two_zpow_pos _).le (Nat.cast_nonneg _)

omit hf in
theorem bitLen_lt {n k : Nat} : bitLen n ≤ k ↔ n < 2 ^ k := by
  unfold bitLen
  split
  · next h => simp [h]
  · next h => rw [Nat.succ_le_iff, Nat.log2_lt h]

omit hf in
theorem dyadic_lt_iff {a b : Nat} {e : Int} : dyadic (a, e) < dyadic (b, e) ↔ a < b :=
  (mul_lt_mul_iff_left₀ (two_zpow_pos e)).trans Nat.cast_lt

omit hf in
theorem dyadic_le_iff {a b : Nat} {e : Int} : dyadic (a, e) ≤ dyadic (b, e) ↔ a ≤ b :=
  (mul_le_mul_iff_left₀ (two_zpow_pos e)).trans Nat.cast_le

omit hf in
theorem dyadic_raise (Y d : Nat) (e : Int) : dyadic (Y, e + d) = dyadic (Y <<< d, e) := by
  rw [dyadic_shift Y (by omega : e ≤ e + d), dyadic, show (e + d - e).toNat = d by omega]

omit hf in
/-- What is left of the bits of a number, and the next number, are its neighbours. -/
theorem dyadic_chop (X d : Nat) (e : Int) : dyadic (X >>> d, e + d) ≤ dyadic (X, e) ∧ dyadic (X, e) < dyadic (X >>> d + 1, e + d)
    ∧ ((X >>> d) <<< d = X ↔ dyadic (X >>> d, e + d) = dyadic (X, e)) := by
  have hpos : 0 < 2 ^ d := Nat.two_pow_pos d
  have hsplit := Nat.mod_add_div X (2 ^ d)
  have hmod := Nat.mod_lt X hpos
  rw [dyadic_raise, dyadic_raise, dyadic_le_iff, dyadic_lt_iff, Nat.shiftRight_eq_div_pow, Nat.shiftLeft_eq, Nat.shiftLeft_eq, Nat.add_mul,
    Nat.mul_comm (X / 2 ^ d)]
  refine ⟨by omega, by omega, fun h => by rw [h], fun h => ?_⟩
  have h1 : 2 ^ d * (X / 2 ^ d) ≤ X := dyadic_le_iff.1 h.le
  exact le_antisymm h1 (dyadic_le_iff.1 h.ge)

omit hf in
/-- Chopped to the bits of the format, a number below the smallest normal magnitude lies below the number before it, or between the
two. -/
theorem chop_below {Y : Nat} {g : Int} (hY : 2 ^ f.m ≤ Y) (hY' : Y < 2 ^ (f.m + 1)) (hlt : dyadic (Y, g) < leastMag f) :
    dyadic (Y + 1, g) ≤ belowMag f ∨ (dyadic (Y, g) = belowMag f ∧ dyadic (Y + 1, g) = leastMag f ∧ Y % 2 = 1) := by
  have hpow : 2 ^ (f.m + 1) = 2 * 2 ^ f.m := Nat.pow_succ'
  have hpos : 0 < 2 ^ f.m := Nat.two_pow_pos _
  obtain ⟨u, hu⟩ : ∃ u : Int, u = -f.bias - f.m := ⟨_, rfl⟩
  have hleast : leastMag f = dyadic (2 ^ (f.m + 1), u) := by rw [leastMag_eq, tinyUnit, ← hu]; rfl
  have hbelow : belowMag f = dyadic (2 ^ (f.m + 1) - 1, u) := by rw [belowMag_eq, tinyUnit, ← hu]; rfl
  have hg : g ≤ u := by
    by_contra hg
    have hle : dyadic (2 ^ (f.m + 1), u) ≤ dyadic (Y, g) := by
      rw [dyadic_shift Y (by omega : u ≤ g)]
      refine dyadic_le_iff.2 ?_
      rw [Nat.shiftLeft_eq, hpow, Nat.mul_comm 2]
      exact Nat.mul_le_mul hY (Nat.le_self_pow (by omega) 2)
    exact absurd hlt (not_lt.2 (hleast ▸ hle))
  rcases lt_or_eq_of_le hg with hg | rfl
  · left
    rw [hbelow, dyadic_shift (2 ^ (f.m + 1) - 1) hg.le]
    refine dyadic_le_iff.2 ?_
    have htwo : 2 ≤ 2 ^ (u - g).toNat := Nat.le_self_pow (by omega) 2
    rw [Nat.shiftLeft_eq]
    have := Nat.mul_le_mul_left (2 ^ (f.m + 1) - 1) htwo
    omega
  · rw [hleast, hbelow]
    by_cases hlast : Y + 1 = 2 ^ (f.m + 1)
    · exact .inr ⟨by rw [← hlast]; rfl, by rw [hlast], by omega⟩
    · exact .inl (dyadic_le_iff.2 (by omega))

theorem isTiny_iff (rnd : Nat) (neg : Bool) (x : Nat × Int) : isTiny f rnd neg x = true ↔ tinyNum f rnd neg (dyadic x) := by
  obtain ⟨X, e⟩ := x
  have hmin : minNormal f = some (2 ^ f.m) := by rw [minNormal, if_neg hf.expo, if_pos hf.sub]
  have hleast (r : Nat × Int) : magLe (magValue f (2 ^ f.m)) r = true ↔ leastMag f ≤ dyadic r := by
    rw [magLe_iff, dyadic_magValue hf, leastMag]
  unfold isTiny tinyNum
  rw [hmin]
  dsimp only
  by_cases hx : leastMag f ≤ dyadic (X, e)
  · rw [if_pos ((hleast _).2 hx)]
    exact ⟨fun h => absurd h (by decide), fun h => absurd h.1 (not_lt.2 hx)⟩
  · rw [if_neg (mt (hleast _).1 hx)]
    rw [not_le] at hx
    by_cases hdrop : (bitLen X : Int) - 1 - f.m ≤ 0
    · rw [if_pos hdrop]
      exact ⟨fun _ => ⟨hx, .inl (le_belowMag_of_bits (bitLen_lt.1 (by omega)) hx)⟩, fun _ => rfl⟩
    · rw [if_neg hdrop, Bool.not_eq_true', Bool.eq_false_iff, ne_eq, hleast, not_le]
      obtain ⟨d, hd⟩ : ∃ d : Nat, d = ((bitLen X : Int) - 1 - f.m).toNat := ⟨_, rfl⟩
      have hlen : bitLen X = f.m + 1 + d := by omega
      have hdrop' : e + ((bitLen X : Int) - 1 - f.m) = e + d := by omega
      rw [← hd, hdrop']
      have hY : 2 ^ f.m ≤ X >>> d := by
        have h : ¬ X < 2 ^ (f.m + d) := fun h => by have := bitLen_lt.2 h; omega
        rw [Nat.shiftRight_eq_div_pow, Nat.le_div_iff_mul_le (Nat.two_pow_pos d), ← Nat.pow_add]
        omega
      have hY' : X >>> d < 2 ^ (f.m + 1) := by
        rw [Nat.shiftRight_eq_div_pow, Nat.div_lt_iff_lt_mul (Nat.two_pow_pos d), ← Nat.pow_add, ← hlen]
        exact bitLen_lt.1 le_rfl
      obtain ⟨hlo, hhi, hexact⟩ := dyadic_chop X d e
      obtain ⟨r, hr⟩ : ∃ r, r = (if (!decide ((X >>> d) <<< d = X) && roundUp rnd neg (X, e) (X >>> d, e + d) (X >>> d + 1, e + d)
          (decide (X >>> d % 2 = 0))) = true then (X >>> d + 1, e + (d : Int)) else (X >>> d, e + (d : Int))) := ⟨_, rfl⟩
      rw [← hr]
      have hrle : dyadic r ≤ dyadic (X >>> d + 1, e + (d : Int)) := by
        rw [hr]
        split
        · exact le_rfl
        · exact (hlo.trans_lt hhi).le
      rcases chop_below hY hY' (hlo.trans_lt hx) with hbelow | ⟨hbelow, hleast', hodd⟩
      · exact ⟨fun _ => ⟨hx, .inl (hhi.le.trans hbelow)⟩, fun _ => (hrle.trans hbelow).trans_lt belowMag_lt⟩
      · by_cases hex : (X >>> d) <<< d = X
        · rw [hr, decide_eq_true hex, if_neg (by simp), hbelow]
          exact ⟨fun _ => ⟨hx, .inl (hexact.1 hex ▸ hbelow).le⟩, fun _ => belowMag_lt⟩
        · have hlt : belowMag f < dyadic (X, e) := hbelow ▸ lt_of_le_of_ne hlo (mt hexact.2 hex)
          have hup := roundUp_iff rnd neg (X, e) (X >>> d, e + d) (X >>> d + 1, e + d) false
          rw [hbelow, hleast', eq_iff_iff.1 (eq_false Bool.false_ne_true)] at hup
          rw [hr, decide_eq_false hex, decide_eq_false (by omega : ¬ X >>> d % 2 = 0), Bool.not_false, Bool.true_and]
          by_cases htake : roundUp rnd neg (X, e) (X >>> d, e + d) (X >>> d + 1, e + d) false = true
          · rw [if_pos htake, hleast']
            exact ⟨fun h => absurd h (lt_irrefl _), fun h => (h.2.elim (not_le.2 hlt) (not_not_intro (hup.1 htake))).elim⟩
          · rw [if_neg htake, hbelow]
            exact ⟨fun _ => ⟨hx, .inr (mt hup.2 htake)⟩, fun _ => belowMag_lt⟩

/-! ## Rounding a finite number (R93 to R95) -/

/-- A code with its sign (R83). -/
def signCode (f : NumFmt) (neg : Bool) (k : Nat) : Nat := if neg then 2 ^ (f.w - 1) + k else k

theorem signed_eq (neg : Bool) (k : Nat) : signed f neg k = signCode f neg k := by
  rw [signed, hf.signed, Bool.and_true, signCode, Nat.add_comm]

/-- Round, once it is known which neighbours a number has, which of them it takes, and whether it is exact and tiny. -/
theorem roundFin_eq {mode : BitVec 6} {neg : Bool} {x : Nat × Int} {k : Nat} {exact up tiny : Bool} (hk : codeBelow f (maxMag f) x = k)
    (hexact : exact = true ↔ codeMag f k = dyadic x)
    (hup : up = true ↔ (k = topCode f ∧ codeMag f (k + 1) ≤ dyadic x)
      ∨ (codeMag f k ≠ dyadic x ∧ takesUpper (modeRnd mode) neg (dyadic x) (codeMag f k) (codeMag f (k + 1)) (k % 2 = 0)))
    (htiny : tiny = true ↔ tinyNum f (modeRnd mode) neg (dyadic x)) :
    roundFin f mode neg x = if up && k = topCode f then overflow f mode neg
      else if tiny && modeFout mode then (signCode f neg 0, 3)
      else (signCode f neg (if up then k + 1 else k), if exact then 0 else if tiny then 3 else 1) := by
  have hexact' : (magCmp (magValue f k).1 (magValue f k).2 x.1 x.2 == .eq) = exact := by
    rw [Bool.eq_iff_iff, beq_iff_eq, magCmp_eq, compare_eq_iff_eq, dyadic_magValue hf, hexact]
  have hup' : (decide (k = topCode f) && magLe (magValue f (k + 1)) x
      || (!exact && roundUp (modeRnd mode) neg x (magValue f k) (magValue f (k + 1)) (decide (k % 2 = 0)))) = up := by
    rw [Bool.eq_iff_iff, Bool.or_eq_true, Bool.and_eq_true, Bool.and_eq_true, decide_eq_true_eq, magLe_iff, roundUp_iff,
      dyadic_magValue hf, dyadic_magValue hf, Bool.not_eq_true', Bool.eq_false_iff, ne_eq, hexact, decide_eq_true_eq, hup]
  have htiny' : isTiny f (modeRnd mode) neg x = tiny := by rw [Bool.eq_iff_iff, isTiny_iff hf, htiny]
  unfold roundFin
  dsimp only
  rw [hk, hexact', maxMag_eq hf, hup', htiny', hf.signed, hf.sub, Bool.and_true, signed_eq hf, signed_eq hf]
  rfl

/-- The code of an infinity follows the largest finite one. -/
theorem infMag_eq : magOnes f - (2 ^ f.m - 1) = topCode f + 1 := by
  have htop := (topCode_lt hf).1
  have hpos := Nat.two_pow_pos f.m
  rw [magOnes, hf.signed]
  change 2 ^ (f.w - 1) - 1 - (2 ^ f.m - 1) = _
  omega

theorem overflow_eq (mode : BitVec 6) (neg : Bool) : overflow f mode neg =
    if modeMaxf mode = true ∨ modeRnd mode = 1 ∨ (modeRnd mode = 2 ∧ neg = true) ∨ (modeRnd mode = 3 ∧ neg = false) then
      (signCode f neg (topCode f), 5)
    else (signCode f neg (topCode f + 1), 5) := by
  have hcode : infCode f neg = signCode f neg (topCode f + 1) := by rw [infCode, infMag_eq hf, signed_eq hf]
  unfold overflow
  dsimp only
  rw [hf.sat, hf.special, hcode, maxMag_eq hf, signed_eq hf]
  by_cases hmax : modeMaxf mode = true
  · rw [if_pos (by simp [hmax]), if_pos (.inl hmax)]
    rfl
  · rw [if_neg (by simp [hmax]), if_neg (by decide)]
    by_cases hdir : modeRnd mode = 1 ∨ (modeRnd mode = 2 ∧ neg = true) ∨ (modeRnd mode = 3 ∧ neg = false)
    · rw [if_pos (by simpa [or_assoc] using hdir), if_pos (.inr hdir)]
      rfl
    · rw [if_neg (by simpa [or_assoc] using hdir), if_neg (not_or.2 ⟨hmax, hdir⟩)]
      rfl

omit hf in
theorem exists_bool (P : Prop) : ∃ b : Bool, b = true ↔ P := by
  classical exact ⟨decide P, decide_eq_true_iff⟩

theorem least_lt_top : codeMag f (2 ^ f.m) < codeMag f (topCode f) := by
  have := topCode_lt hf
  have : 2 ≤ 2 ^ f.m := Nat.le_self_pow (by have := hf.frac; omega) 2
  exact codeMag_strictMono (by omega)

section
variable {mode : BitVec 6} {neg : Bool} {x : Nat × Int}

/-- Under FOUT a tiny result is a zero. -/
theorem round_flushed (htiny : tinyNum f (modeRnd mode) neg (dyadic x)) (hfout : modeFout mode = true) :
    roundFin f mode neg x = (signCode f neg 0, 3) := by
  obtain ⟨hk, hle, -⟩ := codeBelow_spec hf x
  obtain ⟨exact, hexact⟩ := exists_bool (codeMag f (codeBelow f (maxMag f) x) = dyadic x)
  obtain ⟨up, hup⟩ := exists_bool ((codeBelow f (maxMag f) x = topCode f ∧ codeMag f (codeBelow f (maxMag f) x + 1) ≤ dyadic x)
    ∨ (codeMag f (codeBelow f (maxMag f) x) ≠ dyadic x ∧ takesUpper (modeRnd mode) neg (dyadic x) (codeMag f (codeBelow f (maxMag f) x))
        (codeMag f (codeBelow f (maxMag f) x + 1)) (codeBelow f (maxMag f) x % 2 = 0)))
  have hbelow : codeBelow f (maxMag f) x ≠ topCode f := fun h => by
    rw [h] at hle
    exact absurd (hle.trans_lt htiny.1) (not_lt.2 (least_lt_top hf).le)
  rw [roundFin_eq hf rfl hexact hup (tiny := true) ⟨fun _ => htiny, fun _ => rfl⟩, decide_eq_false hbelow, Bool.and_false, hfout]
  rfl

/-- A value of the format stays. -/
theorem round_exact {k : Nat} (hk : k ≤ topCode f) (hx : codeMag f k = dyadic x)
    (hno : ¬ (tinyNum f (modeRnd mode) neg (dyadic x) ∧ modeFout mode = true)) : roundFin f mode neg x = (signCode f neg k, 0) := by
  have hlt : dyadic x < codeMag f (k + 1) := hx ▸ codeMag_strictMono (Nat.lt_succ_self k)
  obtain ⟨tiny, htiny⟩ := exists_bool (tinyNum f (modeRnd mode) neg (dyadic x))
  have hflush : (tiny && modeFout mode) = false := by
    rw [Bool.eq_false_iff, ne_eq, Bool.and_eq_true, htiny]
    exact hno
  rw [roundFin_eq hf (codeBelow_eq hf hk hx.le (.inr hlt)) (exact := true) (up := false) ⟨fun _ => hx, fun _ => rfl⟩
    ⟨fun h => absurd h (by decide), fun h => h.elim (fun h => absurd h.2 (not_le.2 hlt)) fun h => absurd hx h.1⟩ htiny, hflush]
  rfl

/-- Of two neighbours one is taken. -/
theorem round_between {k : Nat} (hk : k < topCode f) (hlo : codeMag f k < dyadic x) (hhi : dyadic x < codeMag f (k + 1))
    (hno : ¬ (tinyNum f (modeRnd mode) neg (dyadic x) ∧ modeFout mode = true)) {up tiny : Bool}
    (hup : up = true ↔ takesUpper (modeRnd mode) neg (dyadic x) (codeMag f k) (codeMag f (k + 1)) (k % 2 = 0))
    (htiny : tiny = true ↔ tinyNum f (modeRnd mode) neg (dyadic x)) :
    roundFin f mode neg x = (signCode f neg (if up then k + 1 else k), if tiny then 3 else 1) := by
  have hflush : (tiny && modeFout mode) = false := by
    rw [Bool.eq_false_iff, ne_eq, Bool.and_eq_true, htiny]
    exact hno
  rw [roundFin_eq hf (codeBelow_eq hf hk.le hlo.le (.inr hhi)) (exact := false) (up := up)
    ⟨fun h => absurd h (by decide), fun h => absurd h hlo.ne⟩
    ⟨fun h => .inr ⟨hlo.ne, hup.1 h⟩, fun h => h.elim (fun h => absurd h.1 hk.ne) fun h => hup.2 h.2⟩ htiny, hflush,
    decide_eq_false hk.ne, Bool.and_false]
  rfl

/-- Beyond the largest finite value a number overflows, or rounds back to it. -/
theorem round_beyond (hx : codeMag f (topCode f) < dyadic x) {up : Bool}
    (hup : up = true ↔ codeMag f (topCode f + 1) ≤ dyadic x
      ∨ takesUpper (modeRnd mode) neg (dyadic x) (codeMag f (topCode f)) (codeMag f (topCode f + 1)) False) :
    roundFin f mode neg x = if up then overflow f mode neg else (signCode f neg (topCode f), 1) := by
  have hodd : (topCode f % 2 = 0) = False := eq_false (by have := (topCode_lt hf).2.2; omega)
  have htiny : false = true ↔ tinyNum f (modeRnd mode) neg (dyadic x) :=
    ⟨fun h => absurd h (by decide), fun h => absurd (h.1.trans (least_lt_top hf)) (not_lt.2 hx.le)⟩
  rw [roundFin_eq hf (codeBelow_eq hf le_rfl hx.le (.inl rfl)) (exact := false) (up := up)
    ⟨fun h => absurd h (by decide), fun h => absurd h hx.ne⟩
    (by rw [hup, hodd]; exact ⟨fun h => h.imp (fun h => ⟨rfl, h⟩) fun h => ⟨hx.ne, h⟩, fun h => h.imp (fun h => h.2) fun h => h.2⟩) htiny]
  cases up with
  | true => rw [if_pos (by simp), if_pos rfl]
  | false => rfl

end

/-! ## Zeros, infinities and NaN (R97) -/

theorem roundNum_special (mode : BitVec 6) (neg : Bool) (e : Int) : roundNum f mode (.fin neg 0 e) = (signCode f neg 0, 0)
    ∧ roundNum f mode (.inf neg) = (signCode f neg (topCode f + 1), 0) ∧ roundNum f mode .nan = (topCode f + 1 + 2 ^ (f.m - 1), 0) := by
  refine ⟨?_, ?_, ?_⟩
  · rw [roundNum, if_pos rfl, signed_eq hf]
  · rw [roundNum, hf.signed, hf.narrow, infCode, infMag_eq hf, signed_eq hf]
    rfl
  · rw [roundNum, hf.narrow, canonNaN, if_pos hf.special, infMag_eq hf]
    rfl

/-! ## Reading codes (R79, R83, R95) -/

section
variable {k : Nat} (hk : k < 2 ^ (f.w - 1))
include hk

omit hf in
theorem signCode_mod (neg : Bool) : signCode f neg k % 2 ^ (f.w - 1) = k := by
  cases neg with
  | true => exact (Nat.add_mod_left ..).trans (Nat.mod_eq_of_lt hk)
  | false => exact Nat.mod_eq_of_lt hk

omit hf in
theorem signCode_testBit (neg : Bool) : (signCode f neg k).testBit (f.w - 1) = neg := by
  cases neg with
  | true => exact (Nat.testBit_two_pow_add_eq k _).trans (by rw [Nat.testBit_lt_two_pow hk]; rfl)
  | false => exact Nat.testBit_lt_two_pow hk

theorem decodeNum_eq (neg : Bool) : decodeNum f (signCode f neg k) = if k = topCode f + 1 then .inf neg else if topCode f < k then .nan
    else .fin neg (magValue f k).1 (magValue f k).2 := by
  have hmag : f.w - f.s.toNat = f.w - 1 := by rw [hf.signed]; rfl
  unfold decodeNum
  dsimp only
  rw [hmag, infMag_eq hf, hf.signed, hf.special, maxMag_eq hf, signCode_mod hk, signCode_testBit hk]
  simp

theorem readNum_inf (mode : BitVec 6) (neg : Bool) (h : k = topCode f + 1) : readNum f mode (signCode f neg k) = .inf neg := by
  rw [readNum, decodeNum_eq hf hk, if_pos h]

theorem readNum_nan (mode : BitVec 6) (neg : Bool) (h : topCode f + 1 < k) : readNum f mode (signCode f neg k) = .nan := by
  rw [readNum, decodeNum_eq hf hk, if_neg (by omega), if_pos (by omega)]

/-- A finite code reads as its magnitude, and under FIN a subnormal one as zero. -/
theorem readNum_fin (mode : BitVec 6) (neg : Bool) (h : k ≤ topCode f) : ∃ m e, readNum f mode (signCode f neg k) = .fin neg m e
    ∧ dyadic (m, e) = if modeFin mode = true ∧ k < 2 ^ f.m then 0 else codeMag f k := by
  have hread : readNum f mode (signCode f neg k) = if (modeFin mode && isSubnormal f (signCode f neg k)) = true then .fin neg 0 0
      else .fin neg (magValue f k).1 (magValue f k).2 := by
    rw [readNum, decodeNum_eq hf hk, if_neg (by omega), if_neg (by omega)]
  have hsub : isSubnormal f (signCode f neg k) = true ↔ k < 2 ^ f.m ∧ k ≠ 0 := by
    have hmag : f.w - f.s.toNat = f.w - 1 := by rw [hf.signed]; rfl
    have hdvd : 2 ^ f.m ∣ 2 ^ (f.w - 1) := Nat.pow_dvd_pow 2 (by have := hf.width; omega)
    have hmod : signCode f neg k % 2 ^ f.m = k % 2 ^ f.m := by rw [← Nat.mod_mod_of_dvd _ hdvd, signCode_mod hk]
    rw [isSubnormal, hmag, signCode_mod hk, hmod, hf.sub, Nat.shiftRight_eq_div_pow, Bool.and_eq_true, Bool.and_eq_true, Bool.and_eq_true,
      decide_eq_true_eq, decide_eq_true_eq, Nat.div_eq_zero_iff_lt (Nat.two_pow_pos _)]
    exact ⟨fun h => ⟨h.1.2, fun h0 => h.2 (by rw [h0, Nat.zero_mod])⟩,
      fun h => ⟨⟨⟨bne_iff_ne.2 hf.expo, rfl⟩, h.1⟩, by rw [Nat.mod_eq_of_lt h.1]; exact h.2⟩⟩
  rw [hread]
  by_cases hfin : modeFin mode = true ∧ k < 2 ^ f.m
  · rw [if_pos hfin]
    by_cases h0 : k = 0
    · rw [if_neg (by rw [Bool.and_eq_true, hsub]; exact fun h => h.2.2 h0)]
      exact ⟨_, _, rfl, by rw [dyadic_magValue hf, h0, codeMag_zero]⟩
    · rw [if_pos (by rw [Bool.and_eq_true, hsub]; exact ⟨hfin.1, hfin.2, h0⟩)]
      exact ⟨_, _, rfl, by rw [dyadic, Nat.cast_zero, zero_mul]⟩
  · rw [if_neg hfin, if_neg (by rw [Bool.and_eq_true, hsub]; exact fun h => hfin ⟨h.1, h.2.1⟩)]
    exact ⟨_, _, rfl, dyadic_magValue hf k⟩

end

end

/-! ## Exact products and sums (R96) -/

/-- A finite number with its sign. -/
def signedDyadic (neg : Bool) (m : Nat) (e : Int) : ℚ := (if neg then -1 else 1) * (m * 2 ^ e)

theorem signedDyadic_mul (a b : Bool) (m n : Nat) (e g : Int) :
    signedDyadic (a != b) (m * n) (e + g) = signedDyadic a m e * signedDyadic b n g := by
  have hsign : (if (a != b) = true then -1 else 1 : ℚ) = (if a = true then -1 else 1) * (if b = true then -1 else 1) := by
    cases a <;> cases b <;> norm_num
  rw [signedDyadic, signedDyadic, signedDyadic, zpow_add₀ two_ne_zero, hsign, Nat.cast_mul]
  ring

theorem atExp_eq (neg : Bool) (m : Nat) {e low : Int} (h : low ≤ e) : (atExp neg m e low : ℚ) * 2 ^ low = signedDyadic neg m e := by
  have hs : (m : ℚ) * 2 ^ e = ((m <<< (e - low).toNat : Nat) : ℚ) * 2 ^ low := dyadic_shift m h
  rw [signedDyadic, hs, atExp]
  generalize m <<< (e - low).toNat = q
  cases neg with
  | true => rw [if_pos rfl, if_pos rfl, Int.cast_neg, Int.cast_natCast, neg_one_mul, neg_mul]
  | false => rw [if_neg Bool.false_ne_true, if_neg Bool.false_ne_true, Int.cast_natCast, one_mul]

theorem signedDyadic_natAbs (v low : Int) : signedDyadic (decide (v < 0)) v.natAbs low = v * 2 ^ low := by
  have habs : ((v.natAbs : Nat) : ℚ) = ((|v| : Int) : ℚ) := by rw [Int.abs_eq_natAbs, Int.cast_natCast]
  rw [signedDyadic, habs]
  by_cases h : v < 0
  · rw [decide_eq_true h, if_pos rfl, abs_of_neg h, Int.cast_neg, neg_one_mul, neg_mul, neg_neg]
  · rw [decide_eq_false h, if_neg Bool.false_ne_true, abs_of_nonneg (not_lt.1 h), one_mul]

/-- A sum is exact, and an exact zero is negative towards −∞ and of two negative zeros. -/
theorem addNum_fin (mode : BitVec 6) (a b : Bool) (m n : Nat) (e g : Int) :
    ∃ c r h, addNum mode (.fin a m e) (.fin b n g) = (.fin c r h, 0) ∧ signedDyadic c r h = signedDyadic a m e + signedDyadic b n g
      ∧ (signedDyadic a m e + signedDyadic b n g = 0 → r = 0
        ∧ (c = true ↔ modeRnd mode = 3 ∨ (a = true ∧ m = 0) ∧ b = true ∧ n = 0)) := by
  obtain ⟨v, hv⟩ : ∃ v, v = atExp a m e (min e g) + atExp b n g (min e g) := ⟨_, rfl⟩
  have hsum : (v : ℚ) * 2 ^ (min e g) = signedDyadic a m e + signedDyadic b n g := by
    rw [hv, Int.cast_add, add_mul, atExp_eq a m (min_le_left e g), atExp_eq b n (min_le_right e g)]
  unfold addNum
  dsimp only
  rw [← hv]
  by_cases h0 : v = 0
  · rw [if_pos h0]
    refine ⟨_, _, _, rfl, ?_, fun _ => ⟨rfl, ?_⟩⟩
    · rw [← hsum, h0]
      simp [signedDyadic]
    · by_cases hz : (m = 0 ∧ n = 0) ∧ a = true ∧ b = true
      · simp [hz]
      · rw [if_neg (by rw [Bool.and_eq_true, Bool.and_eq_true, Bool.and_eq_true, decide_eq_true_eq, decide_eq_true_eq]
                       exact fun h => hz ⟨⟨h.1.1.1, h.1.1.2⟩, h.1.2, h.2⟩), decide_eq_true_eq]
        exact ⟨.inl, fun h => h.resolve_right fun h => hz ⟨⟨h.1.2, h.2.2⟩, h.1.1, h.2.1⟩⟩
  · rw [if_neg h0]
    refine ⟨_, _, _, rfl, ?_, fun h => ?_⟩
    · rw [← hsum, signedDyadic_natAbs]
    · rw [← hsum, mul_eq_zero] at h
      exact absurd (h.resolve_right (two_zpow_pos _).ne') (Int.cast_ne_zero.2 h0)

/-- Settles O7: magnitudes are rational numbers, the code search finds the last code at or below a number, and tininess is the
model's own rounding with an unbounded exponent. -/
theorem roundingOfExactValues : Obligations.RoundingOfExactValues := by
  intro f mode hmem mag value top sign up
  have hf : Interchange f := interchange_of_mem hmem
  refine ⟨fun neg m e hm => ?_, fun neg e => roundNum_special hf mode neg e, fun neg k hk => ⟨fun h => ?_,
    fun h => readNum_inf hf hk mode neg h, fun h => readNum_nan hf hk mode neg h⟩, fun x y v w hx hy => ?_⟩
  · intro x least below tiny writes
    have hround : roundNum f mode (.fin neg m e) = roundFin f mode neg (m, e) := by rw [roundNum, if_neg hm]
    have hdouble : 2 * mag (top + 1 - 2 ^ f.m) = codeMag f (topCode f + 1) := by
      have htop := topCode_lt hf
      have hsum : topCode f + 1 = topCode f + 1 - 2 ^ f.m + 2 ^ f.m := by omega
      rw [hsum]
      exact (codeMag_binade (by omega)).symm
    obtain ⟨t, ht⟩ := exists_bool (tinyNum f (modeRnd mode) neg (dyadic (m, e)))
    refine ⟨fun htiny hfout => hround.trans (round_flushed hf htiny hfout), fun hno => ⟨fun k hk hx => hround.trans (round_exact hf hk hx hno),
      fun k hk hlo hhi => ?_, fun hx => ?_⟩⟩
    · obtain ⟨u, hu⟩ := exists_bool (takesUpper (modeRnd mode) neg (dyadic (m, e)) (codeMag f k) (codeMag f (k + 1)) (k % 2 = 0))
      have hr := hround.trans (round_between (x := (m, e)) hf hk hlo hhi hno hu ht)
      have htrue (h : tiny) : t = true := ht.2 h
      have hfalse (h : ¬ tiny) : t = false := Bool.eq_false_iff.2 (mt ht.1 h)
      refine ⟨fun h => ?_, fun h => ?_⟩
      · rw [hu.2 h] at hr
        exact ⟨fun h => hr.trans (by rw [htrue h]; rfl), fun h => hr.trans (by rw [hfalse h]; rfl)⟩
      · rw [Bool.eq_false_iff.2 (mt hu.1 h)] at hr
        exact ⟨fun h => hr.trans (by rw [htrue h]; rfl), fun h => hr.trans (by rw [hfalse h]; rfl)⟩
    · obtain ⟨u, hu⟩ := exists_bool (codeMag f (topCode f + 1) ≤ dyadic (m, e)
        ∨ takesUpper (modeRnd mode) neg (dyadic (m, e)) (codeMag f (topCode f)) (codeMag f (topCode f + 1)) False)
      have hr := hround.trans (round_beyond (x := (m, e)) hf hx hu)
      rw [hdouble]
      refine ⟨fun h => ?_, fun h => ?_⟩
      · rw [hu.2 h, if_pos rfl, overflow_eq hf] at hr
        split
        · next hc => exact hr.trans (if_pos hc)
        · next hc => exact hr.trans (if_neg hc)
      · rw [Bool.eq_false_iff.2 (mt hu.1 h)] at hr
        exact hr
  · obtain ⟨m, e, hread, hval⟩ := readNum_fin hf hk mode neg h
    have hsigned : (if modeFin mode = true ∧ k < 2 ^ f.m then 0 else (if neg then -1 else 1) * codeMag f k) = signedDyadic neg m e := by
      change _ = (if neg then -1 else 1) * dyadic (m, e)
      rw [hval]
      split
      · rw [mul_zero]
      · rfl
    change value (readNum f mode (signCode f neg k)) _
    rw [hread]
    exact hsigned
  · cases x with
    | inf a => exact hx.elim
    | nan => exact hx.elim
    | fin a m e =>
      cases y with
      | inf b => exact hy.elim
      | nan => exact hy.elim
      | fin b n g =>
        obtain ⟨c, r, h, hadd, hsum, hzero⟩ := addNum_fin mode a b m n e g
        have hx : v = signedDyadic a m e := hx
        have hy : w = signedDyadic b n g := hy
        rw [hadd, hx, hy]
        refine ⟨(signedDyadic_mul a b m n e g).symm, rfl, hsum.symm, rfl, fun h0 => ?_⟩
        obtain ⟨rfl, hc⟩ := hzero h0
        refine ⟨c, h, rfl, hc.trans (or_congr Iff.rfl ⟨?_, ?_⟩)⟩
        · rintro ⟨⟨rfl, rfl⟩, rfl, rfl⟩
          exact ⟨e, g, rfl, rfl⟩
        · rintro ⟨a', b', hx', hy'⟩
          cases hx'
          cases hy'
          exact ⟨⟨rfl, rfl⟩, rfl, rfl⟩

end Sys2Proof.Machine
end

section
/-! SUPPORT. The canonical forms of memory and of the slots, as one predicate on states, and what combinators keep (R234, R471) -/

namespace Sys2Proof.Machine

/-- A slot keeps its canonical forms and its hard-wired register, where `deep` asks for it. -/
def SlotForm (deep : Bool) (t : Slot) : Prop := deep = true → slotSafe t = true

/-- Memory keeps its canonical form, and, where `deep` asks for it, so does every slot, that of a saved item too. -/
def Formed (deep : Bool) (s : State) : Prop :=
  Memory.wf s.mem = true ∧ SlotForm deep s.cur ∧ (∀ t ∈ s.rest, SlotForm deep t) ∧ ∀ x ∈ s.saved, SlotForm deep x.slot

/-- What an option holds has a property. -/
def Gives {α : Type} (p : α → Prop) (o : Option α) : Prop := ∀ a, o = some a → p a

/-- What a computation ends in has a property. -/
def Ends {ε α : Type} (p : α → Prop) (r : Except ε α) : Prop := ∀ a, r = .ok a → p a

/-- What a result goes on with keeps the forms. -/
def Steps (deep : Bool) (r : Result) : Prop := ∀ t, r = .next t → Formed deep t

section
variable {α β ε : Type} {p : α → Prop} {q : β → Prop}

theorem gives_none : Gives p none := fun _ h => nomatch h

theorem gives_some {a : α} (h : p a) : Gives p (some a) := fun _ e => Option.some.inj e ▸ h

theorem gives_bind {o : Option β} {f : β → Option α} (h : ∀ a, o = some a → Gives p (f a)) : Gives p (o.bind f) := by
  intro a ha
  obtain ⟨x, hx, hf⟩ := Option.bind_eq_some_iff.1 ha
  exact h x hx a hf

theorem gives_map {o : Option β} {f : β → α} (h : ∀ a, o = some a → p (f a)) : Gives p (o.map f) := by
  intro a ha
  obtain ⟨x, hx, rfl⟩ := Option.map_eq_some_iff.1 ha
  exact h x hx

theorem gives_hOrElse {x y : Option α} (hx : Gives p x) (hy : Gives p y) : Gives p (x <|> y) := fun a ha => by
  cases x with
  | none => exact hy a ha
  | some b => exact hx a ha

theorem ends_error {e : ε} : Ends p (.error e) := fun _ h => nomatch h

theorem ends_ok {a : α} (h : p a) : Ends (ε := ε) p (.ok a) := fun _ e => Except.ok.inj e ▸ h

theorem ends_pure {a : α} (h : p a) : Ends (ε := ε) p (pure a) := ends_ok h

theorem ends_bind {r : Except ε β} {f : β → Except ε α} (h : ∀ a, r = .ok a → Ends p (f a)) : Ends p (r >>= f) := by
  cases r with
  | error e => exact ends_error
  | ok a => exact h a rfl

theorem ends_map {r : Except ε β} {f : β → α} (h : ∀ a, r = .ok a → p (f a)) : Ends p (f <$> r) := by
  cases r with
  | error e => exact ends_error
  | ok a => exact ends_ok (h a rfl)

theorem ends_foldl {γ : Type} {f : Except ε α → γ → Except ε α} {r : Except ε α} {xs : List γ} (h : Ends p r)
    (hf : ∀ r a, Ends p r → Ends p (f r a)) : Ends p (xs.foldl f r) := by
  induction xs generalizing r with
  | nil => exact h
  | cons x xs ih => exact ih (hf r x h)

theorem ends_raise {code operand elem} : Ends p (raise (α := α) code operand elem) := ends_error
theorem ends_blockOn {o} : Ends p (blockOn (α := α) o) := ends_error

end

section
variable {deep : Bool} {s s' : State} {t t' : Slot}

theorem formed_same (h : Formed deep s) (hm : s'.mem = s.mem) (hc : s'.cur = s.cur) (hr : s'.rest = s.rest) (hs : s'.saved = s.saved) :
    Formed deep s' := by
  rw [Formed, hm, hc, hr, hs]
  exact h

theorem slotForm_iff (t : Slot) : SlotForm deep t ↔ (deep = true → swf 0 t.banks = true ∧ swf true t.empty = true ∧ swf 0 t.z = true
    ∧ swf {} t.ztag = true ∧ t.gEmpty.getLsbD 0 = false) := by
  simp [SlotForm, slotSafe, and_assoc]

theorem slotForm_same (h : SlotForm deep t) (hb : t'.banks = t.banks) (he : t'.empty = t.empty) (hz : t'.z = t.z) (ht : t'.ztag = t.ztag)
    (hg : t'.gEmpty = t.gEmpty) : SlotForm deep t' := by
  rw [slotForm_iff, hb, he, hz, ht, hg, ← slotForm_iff]
  exact h

theorem slotForm_foldl {α : Type} {f : Slot → α → Slot} {xs : List α} (h : SlotForm deep t)
    (hf : ∀ t a, SlotForm deep t → SlotForm deep (f t a)) :
    SlotForm deep (xs.foldl f t) := by
  induction xs generalizing t with
  | nil => exact h
  | cons x xs ih => exact ih (hf t x h)

theorem formed_foldl {α : Type} {f : State → α → State} {xs : List α} (h : Formed deep s)
    (hf : ∀ s a, Formed deep s → Formed deep (f s a)) : Formed deep (xs.foldl f s) := by
  induction xs generalizing s with
  | nil => exact h
  | cons x xs ih => exact ih (hf s x h)

theorem formed_fst {α : Type} {p : State × α} {x : α} (h : Formed deep p.1) (e : p = (s, x)) : Formed deep s := by
  rw [e] at h
  exact h

theorem formed_foldlPair {α β : Type} {f : State × β → α → State × β} {p : State × β} {xs : List α} (h : Formed deep p.1)
    (hf : ∀ p a, Formed deep p.1 → Formed deep (f p a).1) : Formed deep (xs.foldl f p).1 := by
  induction xs generalizing p with
  | nil => exact h
  | cons x xs ih => exact ih (hf p x h)

theorem ends_foldlM {α ε : Type} {f : State → α → Except ε State} {xs : List α} (h : Formed deep s)
    (hf : ∀ s a, Formed deep s → Ends (Formed deep) (f s a)) : Ends (Formed deep) (xs.foldlM f s) := by
  induction xs generalizing s with
  | nil => exact ends_pure h
  | cons x xs ih => exact ends_bind fun u hu => ih (hf s x h u hu)

theorem gives_foldlMPair {α β : Type} {f : State × β → α → Option (State × β)} {p : State × β} {xs : List α} (h : Formed deep p.1)
    (hf : ∀ p a, Formed deep p.1 → Gives (fun q => Formed deep q.1) (f p a)) : Gives (fun q => Formed deep q.1) (xs.foldlM f p) := by
  induction xs generalizing p with
  | nil => exact gives_some h
  | cons x xs ih => exact gives_bind fun u hu => ih (hf p x h u hu)

section
variable {α ε : Type} {p : α → Prop} {c : Prop} [Decidable c]

theorem ends_ite {x y : Except ε α} (hx : Ends p x) (hy : Ends p y) : Ends p (if c then x else y) := by
  split
  · exact hx
  · exact hy

theorem gives_ite {x y : Option α} (hx : Gives p x) (hy : Gives p y) : Gives p (if c then x else y) := by
  split
  · exact hx
  · exact hy

theorem steps_ite {x y : Result} (hx : Steps deep x) (hy : Steps deep y) : Steps deep (if c then x else y) := by
  split
  · exact hx
  · exact hy

theorem formed_ite {x y : State} (hx : Formed deep x) (hy : Formed deep y) : Formed deep (if c then x else y) := by
  split
  · exact hx
  · exact hy

theorem slotForm_ite {x y : Slot} (hx : SlotForm deep x) (hy : SlotForm deep y) : SlotForm deep (if c then x else y) := by
  split
  · exact hx
  · exact hy

end

theorem formed_getD {x : Option State} (hx : Gives (Formed deep) x) (h : Formed deep s) : Formed deep (x.getD s) := by
  cases x with
  | none => exact h
  | some u => exact hx u rfl

theorem slotForm_cur (h : Formed deep s) : SlotForm deep s.cur := h.2.1

theorem formed_setMem {m : List Host.Cell} (h : Formed deep s) (hm : Memory.wf s.mem = true → Memory.wf m = true) :
    Formed deep { s with mem := m } := ⟨hm h.1, h.2⟩

theorem formed_setCur (h : Formed deep s) (ht : SlotForm deep t) : Formed deep { s with cur := t } := ⟨h.1, ht, h.2.2⟩

theorem formed_setSaved {xs : List Saved} (h : Formed deep s) (hs : ∀ x ∈ xs, SlotForm deep x.slot) : Formed deep { s with saved := xs } :=
  ⟨h.1, h.2.1, h.2.2.1, hs⟩

theorem formed_mapSaved {f : Saved → Saved} (h : Formed deep s) (hf : ∀ x, SlotForm deep x.slot → SlotForm deep (f x).slot) :
    Formed deep { s with saved := s.saved.map f } := by
  obtain ⟨hm, hc, hr, hs⟩ := h
  refine ⟨hm, hc, hr, fun x hx => ?_⟩
  obtain ⟨y, hy, rfl⟩ := List.mem_map.1 hx
  exact hf y (hs y hy)

theorem formed_reset : Formed deep State.reset :=
  ⟨rfl, fun _ => rfl, fun _ h => absurd h List.not_mem_nil, fun _ h => absurd h List.not_mem_nil⟩

theorem formed_filterSaved {f : Saved → Bool} (h : Formed deep s) : Formed deep { s with saved := s.saved.filter f } :=
  ⟨h.1, h.2.1, h.2.2.1, fun x hx => h.2.2.2 x (List.mem_of_mem_filter hx)⟩

theorem slotForm_setBanks {m : List Host.Cell} (h : SlotForm deep t) (hm : swf 0 t.banks = true → swf 0 m = true) :
    SlotForm deep { t with banks := m } := by
  rw [slotForm_iff] at h ⊢
  exact fun hb => (h hb).imp_left hm

theorem slotForm_setEmpty {m : Sparse Bool} (h : SlotForm deep t) (hm : swf true t.empty = true → swf true m = true) :
    SlotForm deep { t with empty := m } := by
  rw [slotForm_iff] at h ⊢
  exact fun hb => (h hb).imp_right (And.imp_left hm)

theorem slotForm_setZ {m : List Host.Cell} (h : SlotForm deep t) (hm : swf 0 t.z = true → swf 0 m = true) :
    SlotForm deep { t with z := m } := by
  rw [slotForm_iff] at h ⊢
  exact fun hb => (h hb).imp_right (And.imp_right (And.imp_left hm))

theorem slotForm_setZtag {m : Sparse ZTag} (h : SlotForm deep t) (hm : swf {} t.ztag = true → swf {} m = true) :
    SlotForm deep { t with ztag := m } := by
  rw [slotForm_iff] at h ⊢
  exact fun hb => (h hb).imp_right (And.imp_right (And.imp_right (And.imp_left hm)))

theorem formed_foldlMem {α : Type} {f : State → α → State} {xs : List α} (h : Formed deep s)
    (hf : ∀ s, ∀ a ∈ xs, Formed deep s → Formed deep (f s a)) : Formed deep (xs.foldl f s) := by
  induction xs generalizing s with
  | nil => exact h
  | cons x xs ih => exact ih (hf s x List.mem_cons_self h) fun s a ha => hf s a (List.mem_cons_of_mem x ha)

theorem steps_fault {f} : Steps deep (.fault f) := fun _ h => nomatch h

theorem steps_next (h : Formed deep s) : Steps deep (.next s) := fun _ e => Host.Outcome.next.inj e ▸ h

theorem gives_slotOf {c : SlotId} (h : Formed deep s) : Gives (SlotForm deep) (slotOf s c) := by
  intro t ht
  unfold slotOf at ht
  split at ht
  · exact Option.some.inj ht ▸ h.2.1
  · exact h.2.2.1 t (List.mem_of_find?_eq_some ht)

variable {f : Slot → Slot}

theorem formed_modSlot {c : SlotId} (h : Formed deep s) (hf : ∀ t, SlotForm deep t → SlotForm deep (f t)) : Formed deep (modSlot s c f) := by
  obtain ⟨hm, hc, hr, hs⟩ := h
  unfold modSlot
  split
  · exact ⟨hm, hf _ hc, hr, hs⟩
  · refine ⟨hm, hc, fun t ht => ?_, hs⟩
    obtain ⟨u, hu, rfl⟩ := List.mem_map.1 ht
    split
    · exact hf u (hr u hu)
    · exact hr u hu

theorem formed_mapSlots (h : Formed deep s) (hf : ∀ t, SlotForm deep t → SlotForm deep (f t)) : Formed deep (mapSlots s f) := by
  obtain ⟨hm, hc, hr, hs⟩ := h
  refine ⟨hm, hf _ hc, fun t ht => ?_, hs⟩
  obtain ⟨u, hu, rfl⟩ := List.mem_map.1 ht
  exact hf u (hr u hu)

theorem formed_mapItems (h : Formed deep s) (hf : ∀ t, SlotForm deep t → SlotForm deep (f t)) : Formed deep (mapItems s f) := by
  obtain ⟨hm, hc, hr, hs⟩ := formed_mapSlots h hf
  refine ⟨hm, hc, hr, fun x hx => ?_⟩
  obtain ⟨y, hy, rfl⟩ := List.mem_map.1 hx
  exact hf _ (hs y hy)

theorem formed_onCur (h : Formed deep s) (hf : ∀ t, SlotForm deep t → SlotForm deep (f t)) : Formed deep (onCur s f) :=
  ⟨h.1, hf _ h.2.1, h.2.2⟩

end

end Sys2Proof.Machine

end

section
/-! SUPPORT. The shared operations on slots, faults and issues keep the forms -/

namespace Sys2Proof.Machine

section
variable {deep : Bool} {s : State} {t : Slot} {c : SlotId} {o : Opnd} {i : Instr}

theorem slotForm_modStream {st : StreamId} {f : Stream → Stream} (h : SlotForm deep t) : SlotForm deep (modStream t st f) := by
  unfold modStream
  split <;> exact h

theorem formed_setQueue {q : BitVec 6} {x : Queue} (h : Formed deep s) : Formed deep (setQueue s q x) := h

theorem formed_modLaunch {q : BitVec 6} {ord : Nat} {f : Launch → Launch} (h : Formed deep s) : Formed deep (modLaunch s q ord f) := by
  unfold modLaunch
  exact formed_setQueue h

theorem slotForm_setG {r : BitVec 6} {x : Word} (h : SlotForm deep t) : SlotForm deep (setG t r x) := by
  unfold setG
  split
  · exact h
  · rw [slotForm_iff] at h ⊢
    intro hb
    obtain ⟨hba, he, hz, ht, hg⟩ := h hb
    exact ⟨hba, he, hz, ht, by rw [BitVec.getLsbD_and, hg, Bool.false_and]⟩

theorem slotForm_emptyG {r : BitVec 6} (h : SlotForm deep t) : SlotForm deep (emptyG t r) := by
  unfold emptyG
  split
  · exact h
  · next hr =>
    rw [slotForm_iff] at h ⊢
    intro hb
    obtain ⟨hba, he, hz, ht, hg⟩ := h hb
    have hn : r.toNat ≠ 0 := fun h0 => hr (BitVec.eq_of_toNat_eq h0)
    exact ⟨hba, he, hz, ht, by rw [BitVec.getLsbD_or, hg, BitVec.getLsbD_shiftLeft]; simp [Nat.pos_of_ne_zero hn]⟩

theorem slotForm_setV {r : BitVec 5} {x : BitVec 4096} (h : SlotForm deep t) : SlotForm deep (setV t r x) := h

theorem slotForm_emptyV {r : BitVec 5} (h : SlotForm deep t) : SlotForm deep (emptyV t r) := h

theorem slotForm_settle {c : ResultReg} {r : Nat} {latency : Nat} (h : SlotForm deep t) : SlotForm deep (settle c r latency t) :=
  slotForm_ite h h

theorem slotForm_addFlags {f : BitVec 6} (h : SlotForm deep t) : SlotForm deep (addFlags t f) := h

theorem formed_jump {pc : Word} (h : Formed deep s) : Formed deep (jump s pc) := formed_onCur h fun _ ht => ht

theorem formed_advance (h : Formed deep s) : Formed deep (advance s o) := formed_jump h

theorem formed_blockCtl {obj : Obj} (h : Formed deep s) : Formed deep (blockCtl s obj) := formed_onCur h fun _ ht => ht

theorem formed_holdCtl (h : Formed deep s) : Formed deep (holdCtl s) := formed_onCur h fun _ ht => ht

theorem formed_holdFor {n : Nat} (h : Formed deep s) : Formed deep (holdFor n s) := formed_onCur h fun _ ht => ht

theorem formed_writeMem {a : Nat} {bs : List Byte} (h : Formed deep s) : Formed deep (writeMem s a bs) :=
  ⟨swf_ssetRange _ _ _ _ h.1, h.2⟩

theorem formed_clearMem {lo hi : Nat} (h : Formed deep s) : Formed deep (clearMem s lo hi) :=
  ⟨swf_sclear _ _ _ _ h.1, h.2⟩

theorem formed_sendFrame {f : Frame} {op : Option OpRef} (h : Formed deep s) : Formed deep (sendFrame s f op) := by
  unfold sendFrame
  exact formed_ite h (formed_ite h (formed_ite h h))

theorem formed_releaseDomain {kdh : BitVec 32} (h : Formed deep s) : Formed deep (releaseDomain s kdh) := by
  unfold releaseDomain
  exact formed_ite h (formed_ite h h)

theorem slotForm_emptySlot : SlotForm deep (emptySlot t) := by
  simp [slotForm_iff, emptySlot, swf]

theorem formed_freeSlot (h : Formed deep s) : Formed deep (freeSlot s c) := by
  obtain ⟨hm, hc, hr, hs⟩ := formed_modSlot (c := c) h fun t _ => slotForm_emptySlot (t := t)
  exact ⟨hm, hc, fun t ht => hr t (List.mem_of_mem_filter ht), hs⟩

theorem formed_returnEntries (h : Formed deep s) : Formed deep (returnEntries s t) := by
  unfold returnEntries
  exact formed_foldl h fun _ _ hs => hs

theorem formed_lapse {key : Nat × Nat × Nat} (h : Formed deep s) : Formed deep (lapse s key) := formed_mapItems h fun _ ht => ht

theorem formed_wantSwitch (h : Formed deep s) : Formed deep (wantSwitch s c) := by
  unfold wantSwitch
  exact formed_ite h h

theorem formed_dropWork (h : Formed deep s) : Formed deep (dropWork s t) := by
  unfold dropWork
  dsimp only
  dsimp only [Formed]
  change Formed deep _
  split
  · exact formed_ite (formed_lapse (formed_returnEntries (formed_foldl h fun _ _ hs => formed_releaseDomain hs))) (formed_modLaunch
      (formed_lapse (formed_returnEntries (formed_foldl h fun _ _ hs => formed_releaseDomain hs))))
  · exact formed_lapse (formed_returnEntries (formed_foldl h fun _ _ hs => formed_releaseDomain hs))

theorem formed_removeItem (h : Formed deep s) : Formed deep (removeItem s c) := by
  unfold removeItem
  split
  · exact h
  · split
    · exact h
    · exact formed_freeSlot (formed_wantSwitch (formed_dropWork h))

theorem formed_dropSaved {x : Saved} (h : Formed deep s) : Formed deep (dropSaved s x) := by
  obtain ⟨hm, hc, hr, hs⟩ := formed_dropWork (t := x.slot) h
  exact ⟨hm, hc, hr, fun y hy => hs y (List.mem_of_mem_filter hy)⟩

theorem formed_endLaunch {q : BitVec 6} {ord : Nat} {tenant : BitVec 16} {context : BitVec 16} {rep : BitVec 512}
    (h : Formed deep s) :
    Formed deep (endLaunch s q ord tenant context rep) := by
  unfold endLaunch
  refine formed_sendFrame (formed_foldl ?_ fun _ _ hs => formed_dropSaved hs)
  refine formed_foldl ?_ fun _ _ hs => formed_removeItem hs
  dsimp only [Formed]
  change Formed deep _
  exact formed_modLaunch h

theorem formed_endItem {rep : BitVec 512} (h : Formed deep s) : Formed deep (endItem s c rep) := by
  unfold endItem
  split
  · exact h
  · split
    · exact formed_endLaunch h
    · exact formed_modSlot h fun _ ht => ht

theorem formed_oweItem {it : Item} (h : Formed deep s) : Formed deep (oweItem s t it) := formed_modLaunch h

theorem formed_loseContext {rep : BitVec 512} (h : Formed deep s) : Formed deep (loseContext s c rep) := by
  unfold loseContext
  split
  · exact h
  · split
    · exact h
    · refine formed_ite ?_ (formed_endLaunch h)
      exact formed_sendFrame (formed_oweItem (formed_removeItem h))

theorem slotForm_enterHandler {rep : BitVec 512} {link : Word} (h : SlotForm deep t) : SlotForm deep (enterHandler t rep link) := by
  unfold enterHandler
  exact slotForm_setG (slotForm_setG (slotForm_setG (slotForm_setG h)))

theorem formed_endLater {e : Event} (h : Formed deep s) : Formed deep (endLater s c e) := formed_modSlot h fun _ ht => ht

theorem formed_endSlot (h : Formed deep s) : Formed deep (endSlot s c) := by
  unfold endSlot
  split
  · exact h
  · split
    · exact h
    · dsimp only
      exact formed_ite (formed_loseContext (formed_modSlot h fun _ ht => ht)) (formed_endItem (formed_modSlot h fun _ ht => ht))

theorem formed_holdEvent {e : Event} (h : Formed deep s) : Formed deep (holdEvent s c e) := by
  unfold holdEvent
  split
  · exact h
  · exact formed_ite (formed_endLater h) (formed_modSlot h fun _ ht => ht)

theorem formed_askHost {vpage : BitVec 40} {handle : Option (BitVec 4)} {rep : BitVec 512} (h : Formed deep s) :
    Formed deep (askHost s t vpage handle rep) := by
  unfold askHost
  exact formed_ite (formed_sendFrame h) (formed_sendFrame (formed_sendFrame h))

theorem slotForm_awaitAnswer {vpage : BitVec 40} {cycle : Nat} (h : SlotForm deep t) : SlotForm deep (awaitAnswer t vpage cycle) := by
  unfold awaitAnswer
  exact h

theorem formed_takeHandled {e : Event} {link : Word} (h : Formed deep s) : Formed deep (takeHandled s t e link) :=
  formed_ite (formed_modSlot h fun _ ht => slotForm_enterHandler ht) (formed_modSlot h fun _ ht => ht)

theorem formed_takeFault {w : Site} {f : FaultInfo} {link : Word} (h : Formed deep s) : Formed deep (takeFault s w f link) := by
  unfold takeFault
  split
  · exact h
  · dsimp only
    split
    · refine formed_askHost (formed_wantSwitch ?_)
      refine formed_modSlot h fun _ ht => slotForm_awaitAnswer ?_
      split
      · exact slotForm_modStream ht
      · exact ht
    · refine formed_ite ?_ ?_
      · refine formed_ite ?_ ?_
        · refine formed_endLater (formed_modSlot h fun _ ht => ?_)
          split
          · exact slotForm_modStream ht
          · exact ht
        · refine formed_ite (formed_takeHandled h) (formed_modSlot h fun _ ht => ?_)
          split
          · exact slotForm_modStream ht
          · exact ht
      · refine formed_holdEvent (formed_modSlot h fun _ ht => ?_)
        dsimp only [SlotForm, slotSafe]
        change SlotForm deep _
        split
        · exact slotForm_modStream ht
        · exact ht
    · refine formed_endLater (formed_modSlot h fun _ ht => ?_)
      split
      · exact slotForm_modStream ht
      · exact ht

theorem slotForm_cacheLeaf {e : Leaf} (h : SlotForm deep t) : SlotForm deep (cacheLeaf t e) := h

theorem formed_retranslate {h : BitVec 4} {trap : Bool} {off : Int} {w : Site} (hs : Formed deep s) :
    Formed deep (retranslate s c h trap off w).1 := by
  unfold retranslate
  dsimp only
  split
  · exact hs
  · split
    · exact hs
    · split <;> exact formed_modSlot hs fun _ ht => ht

theorem formed_finishG {r : BitVec 6} {x : Word} {fl : BitVec 6} {latency : Nat} (h : Formed deep s) :
    Formed deep (finishG s o r x fl latency) := formed_advance (formed_onCur h fun _ ht => slotForm_settle (slotForm_addFlags
      (slotForm_setG ht)))

theorem formed_finishV {vs : List (BitVec 5 × BitVec 4096)} {fl : BitVec 6} {latency : Nat} (h : Formed deep s) :
    Formed deep (finishV s o vs fl latency) := formed_advance (formed_onCur h fun _ ht => slotForm_foldl (slotForm_addFlags
      (slotForm_foldl ht fun _ _ ht1 => slotForm_setV ht1)) fun _ _ ht1 => slotForm_settle ht1)

theorem formed_finishL {gs : List (BitVec 6 × Word)} {vs : List (BitVec 5 × BitVec 4096)} {fl : BitVec 6} {deferred : Bool}
    {latency : Nat} (h : Formed deep s) :
    Formed deep (finishL s o gs vs fl deferred latency) := by
  unfold finishL
  refine formed_ite ?_ ?_
  · refine formed_advance (formed_onCur h fun _ ht => ?_)
    exact slotForm_foldl (slotForm_foldl ht fun _ _ ht1 => slotForm_emptyG ht1) fun _ _ ht1 => slotForm_emptyV ht1
  · refine formed_holdFor (formed_advance ?_)
    refine formed_onCur h fun _ ht => ?_
    exact slotForm_foldl (slotForm_foldl (slotForm_addFlags (slotForm_foldl (slotForm_foldl ht fun _ _ ht1 => slotForm_setG ht1) fun
      _ _ ht1 => slotForm_setV ht1)) fun _ _ ht1 => slotForm_settle ht1) fun _ _ ht1 => slotForm_settle ht1

theorem steps_issue {body : Res State} (h : Formed deep s) (hbody : Ends (Formed deep) body) : Steps deep (issue s o body) := by
  unfold issue
  refine steps_ite steps_fault ?_
  split
  · exact steps_next (hbody _ rfl)
  · exact steps_next (formed_blockCtl h)
  · exact steps_next (formed_holdCtl h)
  · exact steps_next (formed_takeFault h)
  · split
    · next hx1 => exact steps_next (formed_blockCtl (formed_fst (formed_retranslate h) hx1))
    · next hx1 => exact steps_next (formed_takeFault (formed_fst (formed_retranslate h) hx1))

theorem steps_issueTrap {f : FaultInfo} (h : Formed deep s) : Steps deep (issueTrap s o f) :=
  steps_ite steps_fault (steps_next (formed_takeFault h))

theorem steps_event {s s' : State} (h : Formed deep s') : Steps deep (event s s') := by
  unfold event
  split
  · exact steps_fault
  · exact steps_next h

theorem slotForm_pushOp {q : Option (BitVec 4)} {op : Op} (h : SlotForm deep t) : SlotForm deep (pushOp t q op) := by
  unfold pushOp
  split
  · dsimp only
    exact h
  · exact h

theorem slotForm_finishOp {id : Nat} (h : SlotForm deep t) : SlotForm deep (finishOp t id) := by
  unfold finishOp
  split
  · exact h
  · dsimp only
    split
    · dsimp only [SlotForm, slotSafe]
      change SlotForm deep _
      exact slotForm_addFlags h
    · refine slotForm_ite ?_ ?_
      · dsimp only [SlotForm, slotSafe]
        change SlotForm deep _
        exact slotForm_addFlags h
      · dsimp only [SlotForm, slotSafe]
        change SlotForm deep _
        exact slotForm_addFlags h

theorem slotForm_modOp {id : Nat} {f : Op → Op} (h : SlotForm deep t) : SlotForm deep (modOp t id f) := h

end

end Sys2Proof.Machine

end

section
/-! SUPPORT. Reads and writes at a home, the conflict rule and the banks keep the forms -/

namespace Sys2Proof.Machine

section
variable {deep : Bool} {s : State} {t : Slot} {c : SlotId} {o : Opnd} {i : Instr}

theorem formed_setTable {key : Nat} {e : BitVec 16} (h : Formed deep s) : Formed deep (setTable s key e) := h

theorem formed_setLine {line : Nat} {w : BitVec 32} (h : Formed deep s) : Formed deep (setLine s line w) := h

theorem formed_evictLine {line : Nat} (h : Formed deep s) : Formed deep (evictLine s line) := by
  unfold evictLine
  dsimp only
  split
  · split
    · split
      · exact formed_setMem h (swf_ssetRange _ _ _ _)
      · exact h
    · exact h
  · exact h

theorem formed_makeRoom {line : Nat} (h : Formed deep s) : Formed deep (makeRoom s line) := by
  unfold makeRoom
  exact formed_ite h (formed_evictLine h)

theorem formed_reloadLine {line : Nat} (h : Formed deep s) : Formed deep (reloadLine s line) := by
  unfold reloadLine
  split
  · dsimp only
    dsimp only [Formed]
    change Formed deep _
    exact formed_setLine h
  · exact h

theorem formed_bringLine {line : Nat} (h : Formed deep s) : Formed deep (bringLine s line) := by
  unfold bringLine
  exact formed_ite h (formed_setLine (formed_reloadLine (formed_makeRoom h)))

theorem formed_touchLine {line : Nat} {mem : Bool} (h : Formed deep s) : Formed deep (touchLine s line mem) :=
  formed_ite h (formed_bringLine h)

theorem formed_tagWrite {line : Nat} {mem : Bool} (h : Formed deep s) : Formed deep (tagWrite s line mem).1 := by
  unfold tagWrite
  dsimp only
  split
  · exact formed_touchLine h
  · exact formed_setLine (formed_touchLine h)

theorem formed_homeWrite {pa : Nat} {bs : List Byte} {mem : Bool} (h : Formed deep s) : Formed deep (homeWrite s pa bs mem).1 := by
  unfold homeWrite
  exact formed_writeMem (formed_foldlPair h fun _ _ hs => formed_tagWrite hs)

theorem formed_homeRead {pa : Nat} {n : Nat} {mem : Bool} (h : Formed deep s) : Formed deep (homeRead s pa n mem).1 :=
  formed_foldl h fun _ _ hs => formed_touchLine hs

theorem ends_detTrap {α : Type} {operand : Word} {check : BitVec 3} {wd : BitVec 32} {agent : BitVec 9} {p : α → Prop} :
    Ends p (detTrap operand check wd agent) := ends_error

theorem formed_keepWord {line : Nat} {w : BitVec 32} (h : Formed deep s) : Formed deep (keepWord s t line w) := by
  unfold keepWord
  dsimp only
  split
  · exact h
  · split
    · exact formed_setMem h (swf_ssetRange _ _ _ _)
    · exact h

theorem ends_checkLine {k : Access} {mem : Bool} {line : Nat} (h : Formed deep s) : Ends (Formed deep) (checkLine s t k mem line) := by
  unfold checkLine
  refine ends_ite ends_raise ?_
  dsimp only
  split
  · exact ends_detTrap
  · exact ends_ok (formed_keepWord (formed_touchLine h))

theorem ends_checkLines {k : Access} {pa : Nat} {n : Nat} {mem : Bool} (h : Formed deep s) :
    Ends (Formed deep) (checkLines s t k pa n mem) := ends_ite (ends_foldlM h fun _ _ hs => ends_checkLine hs) (ends_ok h)

theorem slotForm_addPending {wd : BitVec 32} {a : GranAccess} (h : SlotForm deep t) : SlotForm deep (addPending t wd a) := by
  unfold addPending
  split
  · refine slotForm_ite ?_ h
    exact slotForm_ite h h
  · exact h

theorem ends_checkGranule {by_ : SlotId} {x : BitVec 9} {a : GranAccess} {g : Nat} (h : Formed deep s) :
    Ends (Formed deep) (checkGranule s c by_ x a g) := by
  unfold checkGranule
  split
  · exact ends_ok h
  · dsimp only
    refine ends_ite ends_detTrap ?_
    split
    · exact ends_detTrap
    · exact ends_ok (formed_modSlot (formed_modSlot h fun _ ht => ht) fun _ ht => slotForm_addPending ht)

theorem ends_checkGranules {by_ : SlotId} {x : BitVec 9} {a : GranAccess} {addr : Nat} {n : Nat} (h : Formed deep s) :
    Ends (Formed deep) (checkGranules s c by_ x a addr n) := by
  unfold checkGranules
  split
  · exact ends_ite (ends_foldlM h fun _ _ hs => ends_checkGranule hs) (ends_ok h)
  · exact ends_ok h

theorem formed_l1Read {line : Nat} (h : Formed deep s) : Formed deep (l1Read s t line).1 := by
  unfold l1Read
  dsimp only
  split
  · exact h
  · exact formed_touchLine h

theorem formed_l1Bytes {pa : Nat} {n : Nat} (h : Formed deep s) : Formed deep (l1Bytes s t pa n).1 := by
  unfold l1Bytes
  exact formed_foldlPair h fun _ _ hs => formed_l1Read hs

theorem formed_l1Update {pa : Nat} {bs : List Byte} (h : Formed deep s) : Formed deep (l1Update s t pa bs) := h

theorem formed_l1Invalidate {core : BitVec 8} (h : Formed deep s) : Formed deep (l1Invalidate s core) := h

theorem formed_l1Drop {core : BitVec 8} {lo : Nat} {hi : Nat} (h : Formed deep s) : Formed deep (l1Drop s core lo hi) := h

theorem slotForm_bankWrite {a : Nat} {bs : List Byte} (h : SlotForm deep t) : SlotForm deep (bankWrite t a bs) :=
  slotForm_setBanks h (swf_ssetRange _ _ _ _)

theorem slotForm_setGranule {g : Nat} {full : Bool} (h : SlotForm deep t) : SlotForm deep (setGranule t g full) :=
  slotForm_setEmpty h (swf_sset _ _ _ _)

theorem slotForm_setGranules {a : Nat} {n : Nat} {full : Bool} (h : SlotForm deep t) : SlotForm deep (setGranules t a n full) :=
  slotForm_foldl h fun _ _ ht => slotForm_setGranule ht

end

end Sys2Proof.Machine

end

section
/-! SUPPORT. Fetch, dispatched slots and the intake of launches keep the forms -/

namespace Sys2Proof.Machine

section
variable {deep : Bool} {s : State} {t : Slot} {c : SlotId} {o : Opnd} {i : Instr}

theorem gives_fetched {st : StreamId} (h : Formed deep s) : Gives (Formed deep) (fetched s st) := by
  unfold fetched
  dsimp only
  split
  · exact gives_some h
  · exact gives_ite (gives_some (formed_foldl h fun _ _ hs => formed_touchLine hs)) gives_none

theorem slotForm_dispatchedSlot {r : BitVec 2048} {it : Item} {pins : List Pin} {idx : List Nat} :
    SlotForm deep (dispatchedSlot t r it pins idx) := by
  simp [slotForm_iff, dispatchedSlot, swf]

theorem gives_submit {q : BitVec 6} {r : BitVec 2048} {issuer : Option (BitVec 16)} (h : Formed deep s) :
    Gives (fun p => Formed deep p.1) (submit s q r issuer) := by
  unfold submit
  refine gives_ite (gives_some h) ?_
  split
  · exact gives_some h
  · refine gives_ite (gives_some h) ?_
    split
    · exact gives_none
    · exact gives_some h
    · exact gives_some (formed_setQueue h)

theorem ends_releaseCount (h : SlotForm deep t) : Ends (SlotForm deep) (releaseCount t) :=
  ends_ite (ends_ite ends_raise (ends_ok h)) (ends_ok h)

theorem steps_execLaunch (h : Formed deep s) : Steps deep (execLaunch o s) := by
  unfold execLaunch
  refine steps_issue h (ends_bind fun _ _ => ?_)
  dsimp only
  refine ends_bind fun _ _ => ends_bind fun _ hx2 => ends_bind fun _ _ => ends_bind fun _ _ => ends_ite ends_raise ?_
  refine ends_bind fun _ _ => ends_bind fun _ _ => ?_
  split
  · exact ends_raise
  · refine ends_ite ends_raise (ends_ite ends_blockOn ?_)
    split
    · exact ends_blockOn
    · next hx8 => exact ends_pure (formed_finishG (gives_submit (formed_onCur (formed_homeRead h) fun _ _ => ends_releaseCount
        (slotForm_cur h) _ hx2) _ hx8))

theorem formed_cancelLaunch {q : BitVec 6} {ordinal : Nat} {tenant : BitVec 16} {context : BitVec 16} (h : Formed deep s) :
    Formed deep (cancelLaunch s q ordinal tenant context).1 := by
  unfold cancelLaunch
  split
  · exact h
  · split
    · exact h
    · dsimp only
      split
      · exact h
      · dsimp only
        dsimp only [Formed]
        change Formed deep _
        exact formed_modLaunch h

theorem steps_execCancel (h : Formed deep s) : Steps deep (execCancel o s) := by
  unfold execCancel
  exact steps_issue h (ends_bind fun _ _ => ends_bind fun _ _ => ends_pure (formed_finishG (formed_cancelLaunch h)))

theorem steps_execCancelItem (h : Formed deep s) : Steps deep (execCancelItem o s) := by
  unfold execCancelItem
  refine steps_issue h (ends_bind fun _ _ => ends_bind fun _ _ => ends_ite ends_raise ?_)
  split
  · exact ends_pure (formed_finishG h)
  · split
    · exact ends_pure (formed_finishG h)
    · exact ends_ite (ends_pure (formed_finishG h)) (ends_ite (ends_pure (formed_foldl h fun _ _ hs => formed_removeItem hs))
        (ends_pure (formed_foldl (formed_finishG h) fun _ _ hs => formed_removeItem hs)))

end

end Sys2Proof.Machine

end

section
/-! SUPPORT. Operands, records, control and scalar instructions keep the forms -/

namespace Sys2Proof.Machine

section
variable {deep : Bool} {s : State} {t : Slot} {c : SlotId} {o : Opnd} {i : Instr}

theorem ends_admitRead {pa : Nat} {reg : Word} {n : Nat} {lv : Level} (h : Formed deep s) :
    Ends (Formed deep) (admitRead s t pa reg n lv) := by
  unfold admitRead
  refine ends_bind fun _ _ => ?_
  split
  · exact ends_raise
  · exact ends_bind fun _ hx2 => ends_ite ends_raise (ends_pure (ends_checkLines h _ hx2))

theorem ends_loadAt {p : Place} {n : Nat} {lv : Level} {g : GranAccess} (h : Formed deep s) :
    Ends (fun p => Formed deep p.1) (loadAt s p n lv g) := by
  unfold loadAt
  split
  · refine ends_bind fun _ hx => ends_pure ?_
    split
    · exact formed_l1Bytes (ends_admitRead h _ hx)
    · exact formed_homeRead (ends_admitRead h _ hx)
    · exact formed_homeRead (ends_admitRead h _ hx)
  · exact ends_bind fun _ hx => ends_map fun _ _ => ends_checkGranules h _ hx

theorem ends_storeAt {p : Place} {bs : List Byte} {lv : Level} {g : GranAccess} (h : Formed deep s) :
    Ends (fun p => Formed deep p.1) (storeAt s p bs lv g) := by
  unfold storeAt
  split
  · refine ends_bind fun _ _ => ?_
    split
    · exact ends_error
    · exact ends_bind fun _ hx2 => ends_pure (formed_l1Update (formed_homeWrite (ends_checkLines h _ hx2)))
  · exact ends_bind fun _ hx => ends_pure (formed_modSlot (ends_checkGranules h _ hx) fun _ ht => slotForm_bankWrite ht)

theorem formed_recordFault {matrix : Bool} {h : RecHead} {f : FaultInfo} (hs : Formed deep s) :
    Formed deep (recordFault s matrix h f) := by
  unfold recordFault
  exact formed_ite (formed_takeFault (formed_onCur hs fun _ ht => slotForm_pushOp ht)) (formed_takeFault hs)

theorem formed_holdRec {matrix : Bool} (h : Formed deep s) : Formed deep (holdRec s matrix) :=
  formed_onCur h fun _ ht => slotForm_modStream ht

theorem formed_advanceRec {matrix : Bool} (h : Formed deep s) : Formed deep (advanceRec s matrix) :=
  formed_onCur h fun _ ht => slotForm_modStream ht

theorem formed_blockRec {matrix : Bool} {obj : Obj} (h : Formed deep s) : Formed deep (blockRec s matrix obj) :=
  formed_onCur h fun _ ht => slotForm_modStream ht

theorem steps_issueRec {matrix : Bool} {h : RecHead} {body : Res State} (hs : Formed deep s) (hbody : Ends (Formed deep) body) :
    Steps deep (issueRec s matrix h body) := by
  unfold issueRec
  refine steps_ite steps_fault ?_
  split
  · exact steps_next (hbody _ rfl)
  · exact steps_next (formed_blockRec hs)
  · exact steps_next (formed_holdRec hs)
  · exact steps_next (formed_recordFault hs)
  · split
    · next hx1 => exact steps_next (formed_blockRec (formed_fst (formed_retranslate hs) hx1))
    · next hx1 => exact steps_next (formed_recordFault (formed_fst (formed_retranslate hs) hx1))

theorem formed_setCore {core : BitVec 8} {x : Core} (h : Formed deep s) : Formed deep (setCore s core x) := h

theorem formed_triggerSwitch {core : BitVec 8} (h : Formed deep s) : Formed deep (triggerSwitch s core) := by
  unfold triggerSwitch
  exact formed_ite (formed_setCore h) h

theorem formed_jumpTaken {pc : Word} (h : Formed deep s) : Formed deep (jumpTaken s pc) := formed_holdFor (formed_jump h)

theorem formed_branch (h : Formed deep s) : Formed deep (branch s o) := formed_jumpTaken h

theorem steps_execNop (h : Formed deep s) : Steps deep (execNop o s) := steps_issue h (ends_ok (formed_advance h))

theorem steps_execEndCtl (h : Formed deep s) : Steps deep (execEndCtl o s) := steps_issue h (ends_ok (formed_onCur h fun _ ht => ht))

theorem steps_execBr (h : Formed deep s) : Steps deep (execBr o s) := steps_issue h (ends_ok (formed_branch h))

theorem steps_execBrc (h : Formed deep s) : Steps deep (execBrc o s) :=
  steps_issue h (ends_bind fun _ _ => ends_bind fun _ _ => ends_pure (formed_ite (formed_branch h) (formed_advance h)))

theorem steps_execBri (h : Formed deep s) : Steps deep (execBri o s) :=
  steps_issue h (ends_bind fun _ _ => ends_pure (formed_jumpTaken h))

theorem steps_execCall (h : Formed deep s) : Steps deep (execCall o s) := by
  unfold execCall
  exact steps_issue h (ends_bind fun _ _ => ends_pure (formed_branch (formed_onCur h fun _ ht => slotForm_setG ht)))

theorem steps_execRet (h : Formed deep s) : Steps deep (execRet o s) :=
  steps_issue h (ends_bind fun _ _ => ends_pure (formed_jumpTaken h))

theorem steps_execLoop (h : Formed deep s) : Steps deep (execLoop o s) := by
  unfold execLoop
  refine steps_issue h (ends_bind fun _ _ => ?_)
  exact ends_pure (formed_ite (formed_advance (formed_onCur h fun _ ht => slotForm_setG ht)) (formed_branch
    (formed_onCur h fun _ ht => slotForm_setG ht)))

theorem steps_execTrap (h : Formed deep s) : Steps deep (execTrap o s) := steps_issueTrap h

theorem steps_execYield (h : Formed deep s) : Steps deep (execYield o s) :=
  steps_issue h (ends_ok (formed_triggerSwitch (formed_advance h)))

theorem steps_execRunMx (h : Formed deep s) : Steps deep (execRunMx o s) :=
  steps_issue h (ends_bind fun _ _ => ends_pure (formed_advance (formed_onCur h fun _ ht => ht)))

theorem steps_execRunCp (h : Formed deep s) : Steps deep (execRunCp o s) :=
  steps_issue h (ends_bind fun _ _ => ends_pure (formed_advance (formed_onCur h fun _ ht => ht)))

theorem steps_binaryOp {f : Word → Word → Word × BitVec 6} {latency : Nat} (h : Formed deep s) : Steps deep
  (binaryOp s o f latency) := by
  unfold binaryOp
  exact steps_issue h (ends_bind fun _ _ => ends_bind fun _ _ => ends_bind fun _ _ => ends_pure (formed_finishG h))

theorem steps_unaryOp {f : Word → Word × BitVec 6} {latency : Nat} (h : Formed deep s) : Steps deep (unaryOp s o f latency) := by
  unfold unaryOp
  exact steps_issue h (ends_bind fun _ _ => ends_bind fun _ _ => ends_pure (formed_finishG h))

theorem steps_execAdd (h : Formed deep s) : Steps deep (execAdd o s) := steps_binaryOp h

theorem steps_execSub (h : Formed deep s) : Steps deep (execSub o s) := steps_binaryOp h

theorem steps_execMul (h : Formed deep s) : Steps deep (execMul o s) := steps_binaryOp h

theorem steps_execMulh (h : Formed deep s) : Steps deep (execMulh o s) := steps_binaryOp h

theorem steps_execAnd (h : Formed deep s) : Steps deep (execAnd o s) := steps_binaryOp h

theorem steps_execOr (h : Formed deep s) : Steps deep (execOr o s) := steps_binaryOp h

theorem steps_execXor (h : Formed deep s) : Steps deep (execXor o s) := steps_binaryOp h

theorem steps_execShl (h : Formed deep s) : Steps deep (execShl o s) := steps_binaryOp h

theorem steps_execShr (h : Formed deep s) : Steps deep (execShr o s) := steps_binaryOp h

theorem steps_execSar (h : Formed deep s) : Steps deep (execSar o s) := steps_binaryOp h

theorem steps_execRot (h : Formed deep s) : Steps deep (execRot o s) := steps_binaryOp h

theorem steps_execMin (h : Formed deep s) : Steps deep (execMin o s) := steps_binaryOp h

theorem steps_execMax (h : Formed deep s) : Steps deep (execMax o s) := steps_binaryOp h

theorem steps_execCmp (h : Formed deep s) : Steps deep (execCmp o s) := steps_binaryOp h

theorem steps_execDiv (h : Formed deep s) : Steps deep (execDiv o s) := by
  unfold execDiv
  exact steps_issue h (ends_bind fun _ _ => ends_bind fun _ _ => ends_bind fun _ _ => ends_pure (formed_finishL h))

theorem steps_execRem (h : Formed deep s) : Steps deep (execRem o s) := by
  unfold execRem
  exact steps_issue h (ends_bind fun _ _ => ends_bind fun _ _ => ends_bind fun _ _ => ends_pure (formed_finishL h))

theorem steps_execAddi (h : Formed deep s) : Steps deep (execAddi o s) := steps_unaryOp h

theorem steps_execAbs (h : Formed deep s) : Steps deep (execAbs o s) := steps_unaryOp h

theorem steps_execSel (h : Formed deep s) : Steps deep (execSel o s) :=
  steps_issue h (ends_bind fun _ _ => ends_bind fun _ _ => ends_bind fun _ _ => ends_bind fun _ _ => ends_pure (formed_finishG h))

theorem steps_execClz (h : Formed deep s) : Steps deep (execClz o s) := steps_unaryOp h

theorem steps_execPopc (h : Formed deep s) : Steps deep (execPopc o s) := steps_unaryOp h

theorem steps_execBfx (h : Formed deep s) : Steps deep (execBfx o s) := steps_unaryOp h

theorem steps_execBfi (h : Formed deep s) : Steps deep (execBfi o s) :=
  steps_issue h (ends_bind fun _ _ => ends_bind fun _ _ => ends_pure (formed_finishG h))

theorem steps_execLi (h : Formed deep s) : Steps deep (execLi o s) :=
  steps_issue h (ends_bind fun _ _ => ends_pure (formed_finishG h))

theorem steps_execMov (h : Formed deep s) : Steps deep (execMov o s) := steps_unaryOp h

end

end Sys2Proof.Machine

end

section
/-! SUPPORT. Memory instructions, waiting, barriers and gathers keep the forms -/

namespace Sys2Proof.Machine

section
variable {deep : Bool} {s : State} {t : Slot} {c : SlotId} {o : Opnd} {i : Instr}

theorem steps_execAddr (h : Formed deep s) : Steps deep (execAddr o s) := by
  unfold execAddr
  refine steps_issue h (ends_bind fun _ _ => ends_bind fun _ _ => ends_ite ?_ (ends_pure (formed_finishG h)))
  split
  · exact ends_error
  · exact ends_pure (formed_finishG h)
  · exact ends_pure (formed_finishG h)

theorem steps_execLd (h : Formed deep s) : Steps deep (execLd o s) := by
  unfold execLd
  refine steps_issue h ?_
  exact ends_bind fun _ _ => ends_bind fun _ _ => ends_bind fun _ _ => ends_bind fun _ hx3 => ends_pure (formed_finishL
    (ends_loadAt h _ hx3))

theorem steps_execSt (h : Formed deep s) : Steps deep (execSt o s) := by
  unfold execSt
  refine steps_issue h ?_
  exact ends_bind fun _ _ => ends_bind fun _ _ => ends_bind fun _ _ => ends_bind fun _ hx3 => ends_pure (formed_advance
    (ends_storeAt h _ hx3))

theorem steps_execStT (h : Formed deep s) : Steps deep (execStT o s) := by
  unfold execStT
  refine steps_issue h (ends_bind fun _ _ => ends_bind fun _ _ => ends_bind fun _ _ => ?_)
  split
  · exact ends_error
  · exact ends_ite ends_raise (ends_bind fun _ _ => ends_bind fun _ _ => ends_bind fun _ hx5 => ends_pure (formed_finishL
      (ends_storeAt h _ hx5)))

theorem steps_execLdv (h : Formed deep s) : Steps deep (execLdv o s) := by
  unfold execLdv
  refine steps_issue h ?_
  exact ends_bind fun _ _ => ends_ite (ends_bind fun _ _ => ends_ite (ends_bind fun _ _ => ends_pure (formed_finishL h))
    (ends_bind fun _ _ => ends_bind fun _ _ => ends_bind fun _ hx4 => ends_pure (formed_finishL (ends_loadAt h _ hx4))))
      (ends_bind fun _ _ => ends_ite (ends_bind fun _ _ => ends_pure (formed_finishL h)) (ends_bind fun _ _ => ends_bind fun _ _ =>
        ends_bind fun _ hx4 => ends_pure (formed_finishL (ends_loadAt h _ hx4))))

theorem steps_execStv (h : Formed deep s) : Steps deep (execStv o s) := by
  unfold execStv
  refine steps_issue h ?_
  exact ends_bind fun _ _ => ends_bind fun _ _ => ends_ite (ends_bind fun _ _ => ends_ite (ends_pure (formed_advance h))
    (ends_bind fun _ _ => ends_bind fun _ hx4 => ends_pure (formed_advance (ends_storeAt h _ hx4)))) (ends_bind fun _ _ => ends_ite
      (ends_pure (formed_advance h)) (ends_bind fun _ _ => ends_bind fun _ hx4 => ends_pure (formed_advance (ends_storeAt h _ hx4))))

theorem formed_markPlace {p : Place} {full : Bool} (h : Formed deep s) : Formed deep (markPlace s p full) := by
  unfold markPlace
  split
  · exact h
  · exact formed_modSlot h fun _ ht => slotForm_setGranule ht

theorem steps_execLdfe (h : Formed deep s) : Steps deep (execLdfe o s) := by
  unfold execLdfe
  refine steps_issue h ?_
  exact ends_bind fun _ _ => ends_bind fun _ _ => ends_bind fun _ _ => ends_bind fun _ _ => ends_bind fun _ _ => ends_bind fun _ hx5
    => ends_pure (formed_finishL (formed_ite (formed_markPlace (ends_loadAt h _ hx5)) (ends_loadAt h _ hx5)))

theorem steps_execStfe (h : Formed deep s) : Steps deep (execStfe o s) := by
  unfold execStfe
  refine steps_issue h ?_
  exact ends_bind fun _ _ => ends_bind fun _ _ => ends_bind fun _ _ => ends_bind fun _ hx3 => ends_pure (formed_advance
    (formed_markPlace (ends_storeAt h _ hx3)))

theorem steps_execFeset (h : Formed deep s) : Steps deep (execFeset o s) := by
  unfold execFeset
  refine steps_issue h ?_
  exact ends_bind fun _ _ => ends_bind fun _ hx1 => ends_pure (formed_advance (formed_modSlot
    (ends_checkGranules h _ hx1) fun _ ht => slotForm_setGranules ht))

theorem steps_execFeclr (h : Formed deep s) : Steps deep (execFeclr o s) := by
  unfold execFeclr
  refine steps_issue h ?_
  exact ends_bind fun _ _ => ends_bind fun _ hx1 => ends_pure (formed_advance (formed_modSlot
    (ends_checkGranules h _ hx1) fun _ ht => slotForm_setGranules ht))

theorem steps_execFepeek (h : Formed deep s) : Steps deep (execFepeek o s) :=
  steps_issue h (ends_bind fun _ _ => ends_bind fun _ _ => ends_ite ends_error (ends_pure (formed_finishG h)))

theorem formed_dropWalk {h : BitVec 4} (hs : Formed deep s) : Formed deep (dropWalk s h) := by
  unfold dropWalk
  exact formed_onCur hs fun _ ht => ht

theorem steps_execXlat (h : Formed deep s) : Steps deep (execXlat o s) := by
  unfold execXlat
  refine steps_issue h (ends_bind fun _ _ => ?_)
  exact ends_ite ends_raise (ends_pure (formed_advance (formed_onCur (formed_dropWalk h) fun _ ht => ht)))

theorem steps_execHrel (h : Formed deep s) : Steps deep (execHrel o s) := by
  unfold execHrel
  exact steps_issue h (ends_ok (formed_advance (formed_onCur (formed_dropWalk h) fun _ ht => ht)))

theorem steps_execHinfo (h : Formed deep s) : Steps deep (execHinfo o s) := by
  unfold execHinfo
  refine steps_issue h ?_
  exact ends_ite (ends_bind fun _ _ => ends_bind fun _ _ => ends_pure (formed_finishG h)) (ends_bind fun _ _ => ends_bind fun _ _ =>
    ends_pure (formed_finishG h))

theorem ends_admitAtomic {pa : Nat} {reg : Word} {n : Nat} {mem : Bool} {reduce : Bool} (h : Formed deep s) :
    Ends (Formed deep) (admitAtomic s pa reg n mem reduce) := by
  unfold admitAtomic
  refine ends_bind fun _ _ => ?_
  split
  · exact ends_raise
  · exact ends_bind fun _ hx2 => ends_ite ends_raise (ends_pure (ends_checkLines h _ hx2))

theorem ends_atomicAt {p : Place} {n : Nat} {mem : Bool} {reduce : Bool} {f : Nat → Nat} (h : Formed deep s) :
    Ends (fun p => Formed deep p.1) (atomicAt s p n mem reduce f) := by
  unfold atomicAt
  split
  · exact ends_bind fun _ hx => ends_pure (formed_l1Update (formed_homeWrite (ends_admitAtomic h _ hx)))
  · refine ends_bind fun _ hx => ends_bind fun _ _ => ?_
    exact ends_pure (formed_modSlot (ends_checkGranules h _ hx) fun _ ht => slotForm_bankWrite ht)

theorem steps_atomic {reduce : Bool} {f : Nat → Nat → Nat → Nat} {compare : Bool} (h : Formed deep s) :
    Steps deep (atomic o s reduce f compare) := by
  unfold atomic
  refine steps_issue h ?_
  exact ends_bind fun _ _ => ends_bind fun _ _ => ends_ite (ends_bind fun _ _ => ends_bind fun _ _ => ends_bind fun _ _ => ends_bind
    fun _ hx5 => ends_pure (formed_finishL (ends_atomicAt h _ hx5))) (ends_bind fun _ _ => ends_bind fun _ _ => ends_bind fun _ _ =>
      ends_bind fun _ hx5 => ends_pure (formed_finishL (ends_atomicAt h _ hx5)))

theorem steps_execAtom (h : Formed deep s) : Steps deep (execAtom o s) := steps_atomic h

theorem steps_execCas (h : Formed deep s) : Steps deep (execCas o s) := steps_atomic h

theorem steps_execXchg (h : Formed deep s) : Steps deep (execXchg o s) := steps_atomic h

theorem ends_acquirePending (h : SlotForm deep t) : Ends (SlotForm deep) (acquirePending t) := by
  unfold acquirePending
  exact ends_ite (ends_ite ends_raise (ends_ok h)) (ends_ok h)

theorem formed_scopeInvalidate {core : BitVec 8} {scope : BitVec 3} (h : Formed deep s) : Formed deep (scopeInvalidate s core scope) :=
  formed_ite (formed_l1Invalidate h) h

theorem steps_execMark (h : Formed deep s) : Steps deep (execMark o s) :=
  steps_issue h (ends_bind fun _ _ => ends_pure (formed_advance h))

theorem steps_execFenceAcq (h : Formed deep s) : Steps deep (execFenceAcq o s) :=
  steps_issue h (ends_bind fun _ _ => ends_bind fun _ hx1 => ends_pure (formed_advance (formed_scopeInvalidate
    (formed_onCur h fun _ _ => ends_acquirePending (slotForm_cur h) _ hx1))))

theorem steps_execFenceRel (h : Formed deep s) : Steps deep (execFenceRel o s) :=
  steps_issue h (ends_bind fun _ _ => ends_bind fun _ hx1 => ends_pure (formed_advance (formed_onCur h fun _ _ => ends_releaseCount
    (slotForm_cur h) _ hx1)))

theorem steps_execFenceAr (h : Formed deep s) : Steps deep (execFenceAr o s) :=
  steps_issue h (ends_bind fun _ _ => ends_bind fun _ hx1 => ends_bind fun _ hx2 => ends_pure (formed_advance
    (formed_scopeInvalidate (formed_onCur h fun _ _ => ends_releaseCount (ends_acquirePending (slotForm_cur h) _ hx1) _ hx2))))

theorem steps_execFenceWack (h : Formed deep s) : Steps deep (execFenceWack o s) :=
  steps_issue h (ends_bind fun _ _ => ends_pure (formed_advance h))

theorem formed_acquireCond {w : WaitState} {i : Nat} (h : Formed deep s) : Formed deep (acquireCond s c w i) := by
  unfold acquireCond
  split
  · exact h
  · refine formed_ite h ?_
    split
    · split
      · dsimp only
        exact formed_ite (formed_ite (formed_l1Invalidate (formed_modSlot h fun _ ht => ht)) (formed_modSlot h fun _ ht => ht)) h
    · exact formed_scopeInvalidate h
    · exact h

theorem ends_waitReads {w : WaitState} (h : Formed deep s) : Ends (Formed deep) (waitReads s c w) := by
  unfold waitReads
  refine ends_foldlM h fun _ _ hs => ?_
  split
  · exact ends_ok hs
  · dsimp only
    exact ends_ite (ends_checkGranules hs) (ends_ok hs)

theorem formed_waitFinish {w : WaitState} {timeout : Bool} (h : Formed deep s) : Formed deep (waitFinish s c w timeout) := by
  unfold waitFinish
  split
  · exact h
  · dsimp only
    exact formed_modSlot (formed_foldl h fun _ _ hs => formed_acquireCond hs) fun _ ht => slotForm_setG ht

theorem steps_execWait (h : Formed deep s) : Steps deep (execWait o s) := by
  unfold execWait
  refine steps_issue h (ends_bind fun _ _ => ends_bind fun _ _ => ends_bind fun _ _ => ends_bind fun _ _ => ?_)
  exact ends_ite ends_error (ends_ite (ends_bind fun _ hx4 => ends_pure (formed_waitFinish (ends_waitReads h _ hx4))) (ends_pure
    (formed_onCur h fun _ ht => ht)))

theorem formed_waitFault {f : FaultInfo} (h : Formed deep s) : Formed deep (waitFault s t f) := formed_takeFault h

theorem formed_waitEnd {w : WaitState} {timeout : Bool} (h : Formed deep s) : Formed deep (waitEnd s t w timeout) := by
  unfold waitEnd
  split
  · next hx1 => exact formed_waitFinish (ends_waitReads h _ hx1)
  · exact formed_waitFault h
  · exact h

theorem steps_execWaitReturn (h : Formed deep s) : Steps deep (execWaitReturn c s) := by
  unfold execWaitReturn
  refine steps_event ?_
  split
  · exact h
  · split
    · exact formed_ite (formed_waitEnd h) h
    · exact h

theorem steps_execWaitTimeout (h : Formed deep s) : Steps deep (execWaitTimeout c s) := by
  unfold execWaitTimeout
  refine steps_event ?_
  split
  · exact h
  · split
    · exact formed_ite h (formed_ite (formed_waitFault h) (formed_waitEnd h))
    · exact h

theorem steps_execQpub (h : Formed deep s) : Steps deep (execQpub o s) := by
  unfold execQpub
  refine steps_issue h (ends_bind fun _ _ => ends_bind fun _ _ => ends_ite ends_raise ?_)
  refine ends_ite ends_raise ?_
  split
  · exact ends_pure (formed_finishG h)
  · split
    · exact ends_pure (formed_finishG h)
    · exact ends_ite (ends_pure (formed_finishG h)) (ends_ite (ends_pure (formed_finishG h)) (ends_ite (ends_pure
        (formed_finishG h)) (ends_pure (formed_finishG (formed_onCur (formed_modSlot h fun _ ht => ht) fun _ ht => ht)))))

theorem steps_execQpubOff (h : Formed deep s) : Steps deep (execQpubOff o s) := by
  unfold execQpubOff
  refine steps_issue h (ends_bind fun _ _ => ends_bind fun _ _ => ends_ite ends_raise ?_)
  refine ends_ite ends_raise ?_
  split
  · exact ends_pure (formed_finishG h)
  · exact ends_pure (formed_finishG (formed_mapItems (formed_onCur h fun _ ht => ht) fun _ ht => slotForm_ite ht ht))

theorem formed_forwardTo {q : BitVec 4} {b : Binding} (h : Formed deep s) : Formed deep (forwardTo s t q b) := by
  unfold forwardTo
  dsimp only
  split
  · exact h
  · split
    · exact formed_takeFault h
    · exact formed_modSlot (formed_modSlot h fun _ ht => ht) fun _ ht => ht

theorem steps_execQpubForward {q : BitVec 4} (h : Formed deep s) : Steps deep (execQpubForward c q s) := by
  unfold execQpubForward
  refine steps_event ?_
  split
  · exact h
  · split
    · exact formed_forwardTo h
    · exact h

theorem formed_zeroSpill {l : Launch} (h : Formed deep s) : Formed deep (zeroSpill s l) := by
  unfold zeroSpill
  split
  · exact formed_clearMem h
  · exact h

theorem formed_clearDet {hit : Nat → BitVec 32 → Bool} (h : Formed deep s) : Formed deep (clearDet s hit) := h

theorem formed_clearWindow {l : Launch} (h : Formed deep s) : Formed deep (clearWindow s l) := by
  unfold clearWindow
  split
  · exact formed_clearDet h
  · exact h

theorem formed_clearIndex {idx : Nat} (h : Formed deep s) : Formed deep (clearIndex s idx) := formed_clearDet h

theorem formed_phaseChange {q : BitVec 6} {l : Launch} (h : Formed deep s) : Formed deep (phaseChange s q l) := by
  unfold phaseChange
  exact formed_mapItems (formed_modLaunch (formed_ite (formed_clearWindow (formed_zeroSpill h)) h)) fun _ ht => slotForm_ite ht ht

theorem ends_barrierUpdate {addr : Nat} {arrival : Bool} {delta : Int} (h : Formed deep s) :
    Ends (fun p => Formed deep p.1) (barrierUpdate s addr arrival delta) := by
  unfold barrierUpdate
  exact ends_ite ends_error (ends_ite ends_error (ends_ite (ends_ok (formed_mapItems (formed_foldl
    (formed_homeWrite h) fun _ _ hs => formed_phaseChange hs) fun _ ht => ht)) (ends_ok (formed_homeWrite h))))

theorem steps_execBararr (h : Formed deep s) : Steps deep (execBararr o s) := by
  unfold execBararr
  refine steps_issue h (ends_bind fun _ _ => ends_bind fun _ _ => ends_bind fun _ _ => ends_bind fun _ _ => ends_ite ends_raise ?_)
  refine ends_ite ends_raise ?_
  split
  · exact ends_raise
  · next hx4 => exact ends_pure (formed_finishG (ends_barrierUpdate h _ hx4))

theorem formed_sendUpdate {u : BarrierUpdate} (h : Formed deep s) : Formed deep (sendUpdate s u) := by
  unfold sendUpdate
  exact h

theorem steps_execBarexp (h : Formed deep s) : Steps deep (execBarexp o s) := by
  unfold execBarexp
  refine steps_issue h (ends_bind fun _ _ => ends_bind fun _ _ => ends_bind fun _ _ => ?_)
  exact ends_ite ends_error (ends_pure (formed_advance (formed_sendUpdate h)))

theorem formed_updateDone {u : BarrierUpdate} (h : Formed deep s) : Formed deep (updateDone s u) := by
  unfold updateDone
  split
  · exact formed_modSlot h fun _ ht => slotForm_finishOp ht
  · exact h

theorem formed_barrierArrive {i : Nat} (h : Formed deep s) : Formed deep (barrierArrive s i) := by
  unfold barrierArrive
  split
  · exact h
  · dsimp only
    refine formed_ite h (formed_ite h ?_)
    refine formed_ite ?_ ?_
    · split
      · exact formed_takeFault (formed_updateDone h)
      · exact h
    · split
      · split
        · exact formed_takeFault (formed_updateDone h)
        · exact h
      · next hx2 => exact formed_updateDone (ends_barrierUpdate (by exact h) _ hx2)

theorem steps_execBarrierHomeUpdate {i : Nat} (h : Formed deep s) : Steps deep (execBarrierHomeUpdate i s) :=
  steps_event (formed_barrierArrive h)

theorem steps_execBarrierPhaseSignal (h : Formed deep s) : Steps deep (execBarrierPhaseSignal c s) :=
  steps_event (formed_modSlot h fun _ ht => ht)

theorem steps_execGather (h : Formed deep s) : Steps deep (execGather o s) := by
  unfold execGather
  refine steps_issue h (ends_bind fun _ _ => ends_bind fun _ _ => ends_bind fun _ _ => ?_)
  exact ends_bind fun _ _ => ends_bind fun _ _ => ends_ite ends_raise (ends_bind fun _ _ => ends_ite ends_raise (ends_ite ends_raise
    (ends_pure (formed_advance (formed_onCur h fun _ ht => slotForm_pushOp (slotForm_setGranules ht))))))

theorem formed_opFault {o : Op} {f : FaultInfo} (h : Formed deep s) : Formed deep (opFault s c o f) :=
  formed_takeFault (formed_modSlot h fun _ ht => slotForm_modOp ht)

theorem ends_gatherIndices {op : Op} {idx fuel : Nat} {index : List Nat} (h : Formed deep s) :
    Ends (fun p => Formed deep p.1) (gatherIndices s t op idx index fuel) := by
  induction fuel generalizing s index with
  | zero => exact ends_ok h
  | succ n ih =>
    unfold gatherIndices
    dsimp only
    split
    · exact ends_ok h
    · split
      · exact ends_bind fun u hu => ends_bind fun _ _ => ih (ends_ok h u hu)
      · exact ends_bind fun u hu => ends_bind fun _ _ => ih (ends_checkGranules h u hu)

theorem ends_gatherFetch {h : Capture} {off : Nat} {esize : Nat} (hs : Formed deep s) :
    Ends (fun p => Formed deep p.1) (gatherFetch s t h off esize) := ends_bind fun _ _ => ends_bind fun _ _ => ends_ite ends_raise
      (ends_ite ends_raise (ends_bind fun _ hx2 => ends_pure (formed_touchLine (ends_checkLines hs _ hx2))))

theorem ends_gatherFault {α : Type} {k : Nat} {r : Res α} {p : α → Prop} (h : Ends p r) : Ends p (gatherFault k r) := by
  unfold gatherFault
  split
  · exact ends_error
  · exact h

theorem ends_gatherWrite {o : Op} {dst : Nat} {idx : Nat} {h : Capture} {esize : Nat} {count : Nat} {index : List Nat}
    {written : List Nat} {lines : List (Nat × List Byte)} {gs : List Nat} (hs : Formed deep s) :
    Ends (Formed deep) (gatherWrite s t o dst idx h esize count index written lines gs) := by
  unfold gatherWrite
  exact ends_ite (ends_bind fun _ hx => ends_pure (formed_modSlot (ends_foldlM hs (fun _ _ hs1 => ends_checkGranule hs1) _ hx) fun _
    ht => slotForm_modOp (slotForm_foldl (slotForm_foldl ht fun _ _ ht1 => slotForm_bankWrite ht1) fun _ _ ht1 => slotForm_setGranule
      (slotForm_ite (slotForm_bankWrite ht1) ht1)))) (ends_bind fun _ hx => ends_pure (formed_modSlot
        (ends_ok hs _ hx) fun _ ht => slotForm_modOp (slotForm_foldl (slotForm_foldl ht fun _ _ ht1 => slotForm_bankWrite ht1) fun _
          _ ht1 => slotForm_setGranule (slotForm_ite (slotForm_bankWrite ht1) ht1))))

theorem ends_gatherStep {o : Op} {dst : Nat} {idx : Nat} {h : Capture} {esize : Nat} {count : Nat} {index : List Nat}
    {written : List Nat} {lines : List (Nat × List Byte)} {reads : Bool} (hs : Formed deep s) :
    Ends (Formed deep) (gatherStep s t o dst idx h esize count index written lines reads) := by
  unfold gatherStep
  refine ends_ite (ends_ite ends_error (ends_ok (formed_modSlot hs fun _ ht => slotForm_modOp ht))) ?_
  refine ends_ite (ends_ite ends_error (ends_map fun _ hx => formed_modSlot (ends_gatherFault
    (ends_gatherIndices hs) _ hx) fun _ ht => slotForm_modOp ht)) ?_
  split
  · split
    · exact ends_error
    · exact ends_map fun _ hx => formed_modSlot (ends_gatherFault (ends_gatherFetch hs) _ hx) fun _ ht => slotForm_modOp ht
  · exact ends_gatherWrite hs

theorem steps_execCinv (h : Formed deep s) : Steps deep (execCinv o s) :=
  steps_issue h (ends_bind fun _ _ => ends_pure (formed_advance (formed_l1Drop h)))

theorem steps_execCwb (h : Formed deep s) : Steps deep (execCwb o s) :=
  steps_issue h (ends_bind fun _ _ => ends_bind fun _ _ => ends_pure (formed_advance (formed_foldl h fun _ _ hs => formed_ite
    (formed_setLine hs) hs)))

theorem steps_execPref (h : Formed deep s) : Steps deep (execPref o s) :=
  steps_issue h (ends_bind fun _ _ => ends_bind fun _ _ => ends_pure (formed_advance (formed_foldl h fun _ _ hs => formed_ite hs
    (formed_ite (formed_touchLine hs) (formed_ite hs (formed_l1Read hs))))))

end

end Sys2Proof.Machine

end

section
/-! SUPPORT. KV operations, fences and system registers keep the forms -/

namespace Sys2Proof.Machine

section
variable {deep : Bool} {s : State} {t : Slot} {c : SlotId} {o : Opnd} {i : Instr}

theorem formed_setDie {die : Fin 2} {d : KvDie} (h : Formed deep s) : Formed deep (setDie s die d) := h

theorem formed_setKey {kdh : BitVec 32} {k : KeySlot} (h : Formed deep s) : Formed deep (setKey s kdh k) := by
  unfold setKey
  exact formed_setDie h

theorem gives_newDomain {die : Fin 2} (h : Formed deep s) : Gives (fun p => Formed deep p.1) (newDomain s die) := by
  unfold newDomain
  exact gives_ite gives_none (gives_some (formed_setKey h))

theorem formed_addHolders {kdh : BitVec 32} {n : Nat} (h : Formed deep s) : Formed deep (addHolders s kdh n) := by
  unfold addHolders
  exact formed_setKey h

theorem formed_shareDomain {kdh : BitVec 32} (h : Formed deep s) : Formed deep (shareDomain s kdh) := formed_setKey h

theorem formed_putBlock {die : Fin 2} {pbid : Nat} {b : Block} (h : Formed deep s) : Formed deep (putBlock s die pbid b) := by
  unfold putBlock
  exact formed_setDie h

theorem gives_newBlock {die : Fin 2} {sealed_ : Bool} {kdh : BitVec 32} {tenant : BitVec 16} {stride : Nat} (h : Formed deep s) :
    Gives (fun p => Formed deep p.1) (newBlock s die sealed_ kdh tenant stride) := by
  unfold newBlock
  exact gives_ite gives_none (gives_some (formed_setDie (formed_putBlock h)))

theorem formed_releaseBlock {die : Fin 2} {pbid : Nat} (h : Formed deep s) : Formed deep (releaseBlock s die pbid) := by
  unfold releaseBlock
  exact formed_ite (formed_setDie (formed_putBlock h)) (formed_putBlock h)

theorem formed_addRefs {die : Fin 2} {pbid : Nat} {n : Nat} (h : Formed deep s) : Formed deep (addRefs s die pbid n) := by
  unfold addRefs
  exact formed_putBlock h

theorem formed_blockWrite {die : Fin 2} {pbid : Nat} {off : Nat} {new : List Byte} (h : Formed deep s) :
    Formed deep (blockWrite s die pbid off new) := by
  unfold blockWrite
  exact formed_putBlock h

theorem gives_copyBlock {die : Fin 2} {pbid : Nat} {kdh : BitVec 32} {tenant : BitVec 16} (h : Formed deep s) :
    Gives (fun p => Formed deep p.1) (copyBlock s die pbid kdh tenant) := by
  unfold copyBlock
  exact gives_map fun _ hx => formed_putBlock (formed_ite (formed_putBlock (gives_newBlock h _ hx)) (formed_blockWrite
    (formed_putBlock (gives_newBlock h _ hx))))

theorem formed_writeToken {die : Fin 2} {pbid : Nat} {i : Nat} {token : List Byte} (h : Formed deep s) :
    Formed deep (writeToken s die pbid i token) := by
  unfold writeToken
  exact formed_putBlock (formed_blockWrite h)

theorem formed_putSeq {die : Fin 2} {x : Sequence} (h : Formed deep s) : Formed deep (putSeq s die x) := by
  unfold putSeq
  exact formed_setDie h

theorem ends_kvOpen {die : Fin 2} {tenant : BitVec 16} {context : BitVec 16} {w : Word} (h : Formed deep s) :
    Ends (fun d => Formed deep d.st) (kvOpen s die tenant context w) := by
  unfold kvOpen
  refine ends_ite ends_error ?_
  split
  · exact ends_error
  · split
    · exact ends_error
    · next hx2 =>
      exact ends_ok (formed_setDie (gives_newDomain h _ hx2))

theorem ends_kvClose {die : Fin 2} {x : Sequence} (h : Formed deep s) : Ends (fun d => Formed deep d.st) (kvClose s die x) := by
  unfold kvClose
  exact ends_ok (formed_setDie (formed_foldl (formed_foldl h fun _ _ hs => formed_releaseBlock hs) fun _ _ hs => formed_releaseDomain
    hs))

theorem gives_forkChildren {die : Fin 2} {base : Sequence} {tenant context : BitVec 16} {n : Nat} (h : Formed deep s) :
    Gives (fun p => Formed deep p.1) (forkChildren s die base tenant context n) := by
  induction n generalizing s with
  | zero => exact gives_some h
  | succ n ih =>
    unfold forkChildren
    split
    · next hd =>
      have hf := gives_newDomain h _ hd
      exact gives_map fun r hx => ih (by exact hf) r hx
    · exact gives_none

theorem ends_kvFork {die : Fin 2} {x : Sequence} {tenant : BitVec 16} {context : BitVec 16} {n : Nat} (h : Formed deep s) :
    Ends (fun d => Formed deep d.st) (kvFork s die x tenant context n) := by
  unfold kvFork
  dsimp only
  refine ends_ite ends_error (ends_ite ends_error ?_)
  refine ends_ite ends_error (ends_ite ends_error ?_)
  split
  · exact ends_error
  · next hx1 =>
    split
    · exact ends_error
    · next hx2 => exact ends_ok (gives_forkChildren (formed_putSeq (gives_newDomain (formed_shareDomain (formed_foldl
        (formed_foldl h fun _ _ hs => formed_addRefs hs) fun _ _ hs => formed_addHolders hs)) _ hx1)) _ hx2)

theorem gives_writableTail {die : Fin 2} {x : Sequence} {e : Option BlockEntry} (h : Formed deep s) :
    Gives (fun p => Formed deep p.1) (writableTail s die x e) := by
  unfold writableTail
  split
  · exact gives_map fun _ hx => gives_newBlock h _ hx
  · dsimp only
    exact gives_ite (gives_map fun _ hx => formed_releaseBlock (gives_copyBlock h _ hx)) (gives_some h)

theorem ends_kvAppend {die : Fin 2} {x : Sequence} {stride : Nat} {token : List Byte} (h : Formed deep s) :
    Ends (fun d => Formed deep d.st) (kvAppend s die x stride token) := by
  unfold kvAppend
  refine ends_ite ends_error (ends_ite ends_error ?_)
  refine ends_ite ends_error ?_
  dsimp only
  split
  · exact ends_error
  · next hx1 => exact ends_ok (formed_putSeq (formed_writeToken (gives_writableTail h _ hx1)))

theorem formed_repack {die : Fin 2} {pbid : Nat} {keep : Nat → Bool} (h : Formed deep s) : Formed deep (repack s die pbid keep) := by
  unfold repack
  exact formed_putBlock (formed_ite h (formed_blockWrite h))

theorem gives_evictEntry {die : Fin 2} {x : Sequence} {k : Nat} {base : Nat} {lo : Nat} {hi : Nat} (h : Formed deep s) :
    Gives (fun p => Formed deep p.1) (evictEntry s die x k base lo hi) := by
  unfold evictEntry
  split
  · exact gives_some h
  · dsimp only
    exact gives_ite (gives_some h) (gives_ite (gives_map fun _ hx => formed_repack (formed_releaseBlock (gives_copyBlock h _ hx)))
      (gives_some (formed_repack h)))

theorem ends_kvEvict {die : Fin 2} {x : Sequence} {p : Word} {n : Nat} (h : Formed deep s) :
    Ends (fun d => Formed deep d.st) (kvEvict s die x p n) := by
  unfold kvEvict
  refine ends_ite ends_error ?_
  dsimp only
  split
  · exact ends_error
  · next hx1 => exact ends_ok (formed_putSeq (gives_foldlMPair h (fun _ _ hs => gives_evictEntry hs) _ hx1))

theorem ends_kvCompact {die : Fin 2} {x : Sequence} {span : Word} (h : Formed deep s) :
    Ends (fun d => Formed deep d.st) (kvCompact s die x span) := by
  unfold kvCompact
  refine ends_ite ends_error (ends_ite (ends_ok h) ?_)
  refine ends_ite ends_error ?_
  split
  · exact ends_error
  · next hx1 => exact ends_ok (formed_putSeq (formed_foldl (formed_putBlock (formed_ite (gives_newBlock h _ hx1) (formed_blockWrite
      (gives_newBlock h _ hx1)))) fun _ _ hs => formed_releaseBlock hs))

theorem gives_draftTokens {die : Fin 2} {x : Sequence} {toks : List (List Byte)} (h : Formed deep s) :
    Gives (fun p => Formed deep p.1) (draftTokens s die x toks) := by
  induction toks generalizing s x with
  | nil => exact gives_some h
  | cons tok rest ih =>
    unfold draftTokens
    dsimp only
    split
    · exact gives_none
    · next hp =>
      refine ih (formed_writeToken ?_)
      split at hp
      · cases hp
        exact h
      · split at hp
        · obtain ⟨r, hr, hrs⟩ := Option.map_eq_some_iff.1 hp
          cases hrs
          exact gives_copyBlock h _ hr
        · exact gives_writableTail h _ hp

theorem ends_kvDraft {die : Fin 2} {x : Sequence} {stride : Nat} {toks : List (List Byte)} (h : Formed deep s) :
    Ends (fun d => Formed deep d.st) (kvDraft s die x stride toks) := by
  unfold kvDraft
  refine ends_ite ends_error (ends_ite ends_error ?_)
  split
  · exact ends_error
  · next hx1 => exact ends_ok (formed_putSeq (gives_draftTokens h _ hx1))

theorem ends_kvAccept {die : Fin 2} {x : Sequence} {m : Nat} (h : Formed deep s) :
    Ends (fun d => Formed deep d.st) (kvAccept s die x m) := by
  unfold kvAccept
  refine ends_ite ends_error (ends_ok ?_)
  refine formed_putSeq (formed_foldl ?_ fun _ _ hs => formed_releaseBlock hs)
  refine formed_foldlPair h fun _ _ hs => formed_ite ?_ ?_
  · refine formed_putBlock ?_
    split
    · exact formed_releaseBlock hs
    · exact hs
  · split
    · exact formed_releaseBlock hs
    · exact hs

theorem formed_touchIndex {die : Fin 2} {e : PrefixEntry} (h : Formed deep s) : Formed deep (touchIndex s die e) := by
  unfold touchIndex
  exact formed_setDie h

theorem ends_holdDomain {x : Sequence} {kdh : BitVec 32} (h : Formed deep s) : Ends (fun p => Formed deep p.1) (holdDomain s x kdh) :=
  ends_ite (ends_ok h) (ends_ite ends_error (ends_ok (formed_addHolders h)))

theorem ends_kvLook {die : Fin 2} {x : Sequence} {hash : BitVec 128} (h : Formed deep s) :
    Ends (fun d => Formed deep d.st) (kvLook s die x hash) := by
  unfold kvLook
  split
  · exact ends_ok h
  · dsimp only
    exact ends_ite ends_error (ends_ite ends_error (ends_bind fun _ hx => ends_pure (formed_putSeq (formed_touchIndex
      (formed_addRefs (ends_holdDomain h _ hx))))))

theorem ends_kvInsert {die : Fin 2} {x : Sequence} {hash : BitVec 128} (h : Formed deep s) :
    Ends (fun d => Formed deep d.st) (kvInsert s die x hash) := by
  unfold kvInsert
  refine ends_ite ends_error ?_
  split
  · exact ends_error
  · dsimp only
    refine ends_ite ends_error ?_
    split
    · exact ends_ite ends_error (ends_bind fun _ hx => ends_pure (formed_putSeq (formed_touchIndex (formed_releaseBlock
        (formed_addRefs (ends_holdDomain h _ hx))))))
    · refine ends_ite ends_error ?_
      split
      · exact ends_error
      · next hx3 =>
        split
        · exact ends_error
        · next hx4 =>
          refine ends_ok (formed_putSeq ?_)
          refine formed_setDie ?_
          split
          · exact formed_releaseDomain (formed_releaseBlock (formed_shareDomain (formed_addHolders (formed_releaseBlock
              (formed_addRefs (gives_copyBlock (gives_newDomain h _ hx3) _ hx4))))))
          · exact formed_shareDomain (formed_addHolders (formed_releaseBlock (formed_addRefs (gives_copyBlock
              (gives_newDomain h _ hx3) _ hx4))))

theorem ends_kvEffect {die : Fin 2} {tenant : BitVec 16} {context : BitVec 16} {r : KvReq} {x : Sequence} {data : List Byte}
    (h : Formed deep s) :
    Ends (fun d => Formed deep d.st) (kvEffect s die tenant context r x data) := by
  unfold kvEffect
  dsimp only
  split
  · exact ends_kvOpen h
  · exact ends_kvClose h
  · exact ends_kvFork h
  · exact ends_kvAppend h
  · exact ends_kvEvict h
  · exact ends_kvCompact h
  · exact ends_ite ends_error (ends_ok h)
  · exact ends_ite ends_error (ends_ok h)
  · exact ends_kvDraft h
  · exact ends_kvAccept h
  · exact ends_kvAccept h
  · exact ends_kvLook h
  · exact ends_kvInsert h

theorem formed_kvJudge {tenant : BitVec 16} {context : BitVec 16} {r : KvReq} {data : List Byte} (h : Formed deep s) :
    Formed deep (kvJudge s tenant context r data).st := by
  unfold kvJudge
  split
  · dsimp only
    split
    · exact h
    · split
      · split
        · next hx4 => exact ends_kvOpen h _ hx4
        · exact h
      · split
        · exact h
        · split
          · next hx5 => exact ends_kvEffect h _ hx5
          · exact h

theorem steps_execSysrd (h : Formed deep s) : Steps deep (execSysrd o s) := by
  unfold execSysrd
  refine steps_issue h (ends_bind fun _ _ => ends_bind fun _ _ => ?_)
  split
  · exact ends_raise
  · exact ends_pure (formed_finishG h)

theorem steps_execSysrdFlags (h : Formed deep s) : Steps deep (execSysrdFlags o s) :=
  steps_issue h (ends_ite ends_blockOn (ends_ite ends_error (ends_bind fun _ _ => ends_pure (formed_finishG h))))

theorem steps_execSyswr (h : Formed deep s) : Steps deep (execSyswr o s) := steps_issue h (ends_bind fun _ _ => ends_raise)

theorem slotForm_digestWrite {reg : Nat} {value : BitVec 32} (h : SlotForm deep t) : SlotForm deep (digestWrite t reg value) := h

theorem slotForm_writeMode {x : Word} (h : SlotForm deep t) : SlotForm deep (writeMode t x) := by
  unfold writeMode
  exact slotForm_digestWrite h

theorem steps_execSyswrMode (h : Formed deep s) : Steps deep (execSyswrMode o s) :=
  steps_issue h (ends_bind fun _ _ => ends_pure (formed_advance (formed_onCur h fun _ ht => slotForm_writeMode ht)))

theorem steps_execSyswrBfmt (h : Formed deep s) : Steps deep (execSyswrBfmt o s) := by
  unfold execSyswrBfmt
  refine steps_issue h (ends_bind fun _ _ => ends_bind fun _ _ => ?_)
  exact ends_pure (formed_onCur (formed_advance (formed_onCur h fun _ ht => slotForm_digestWrite ht)) fun _ ht => slotForm_ite ht ht)

theorem steps_execSyswrFlags (h : Formed deep s) : Steps deep (execSyswrFlags o s) :=
  steps_issue h (ends_bind fun _ _ => ends_pure (formed_advance (formed_onCur h fun _ ht => ht)))

theorem steps_execSyswrStampb (h : Formed deep s) : Steps deep (execSyswrStampb o s) :=
  steps_issue h (ends_bind fun _ _ => ends_pure (formed_advance (formed_onCur h fun _ ht => ht)))

theorem steps_execSyswrTrapv (h : Formed deep s) : Steps deep (execSyswrTrapv o s) :=
  steps_issue h (ends_bind fun _ _ => ends_bind fun _ _ => ends_pure (formed_advance (formed_onCur h fun _ ht => ht)))

theorem steps_execGetmode (h : Formed deep s) : Steps deep (execGetmode o s) :=
  steps_issue h (ends_bind fun _ _ => ends_pure (formed_finishG h))

theorem steps_execSetmode (h : Formed deep s) : Steps deep (execSetmode o s) :=
  steps_issue h (ends_bind fun _ _ => ends_pure (formed_advance (formed_onCur h fun _ ht => slotForm_writeMode ht)))

theorem steps_execSignrd (h : Formed deep s) : Steps deep (execSignrd o s) := by
  unfold execSignrd
  exact steps_issue h (ends_bind fun _ _ => ends_bind fun _ _ => ends_pure (formed_finishG (formed_onCur h fun _ ht => ht)))

theorem steps_execFeat (h : Formed deep s) : Steps deep (execFeat o s) := steps_unaryOp h

theorem steps_execRdtime (h : Formed deep s) : Steps deep (execRdtime o s) :=
  steps_issue h (ends_bind fun _ _ => ends_pure (formed_finishG h))

theorem steps_execStamp (h : Formed deep s) : Steps deep (execStamp o s) := by
  unfold execStamp
  exact steps_issue h (ends_bind fun _ _ => ends_bind fun _ _ => ends_pure (formed_finishG (formed_onCur h fun _ ht => ht)))

end

end Sys2Proof.Machine

end

section
/-! SUPPORT. Copy records, floating instructions and KV instructions keep the forms -/

namespace Sys2Proof.Machine

section
variable {deep : Bool} {s : State} {t : Slot} {c : SlotId} {o : Opnd} {i : Instr}

theorem steps_cpIssue {h : RecHead} {body : State → Res (State × Work)} (hs : Formed deep s)
    (hbody : ∀ a0, Formed deep a0 → Ends (fun p => Formed deep p.1) (body a0)) :
    Steps deep (cpIssue s h body) := by
  unfold cpIssue
  refine steps_issueRec hs (ends_ite (ends_pure (formed_holdRec hs)) ?_)
  refine ends_bind fun _ _ => ends_bind fun _ _ => ends_bind fun _ hx2 => ?_
  exact ends_pure (formed_advanceRec (formed_onCur (hbody _ hs _ hx2) fun _ ht => slotForm_pushOp ht))

theorem steps_execRcfence {h : RecHead} (hs : Formed deep s) : Steps deep (execRcfence h s) :=
  steps_cpIssue hs fun _ hs1 => ends_ok (formed_onCur hs1 fun _ ht => ht)

theorem steps_execCpyend {h : RecHead} (hs : Formed deep s) : Steps deep (execCpyend h s) :=
  steps_cpIssue hs fun _ hs1 => ends_ok (formed_onCur hs1 fun _ ht => ht)

theorem steps_execCpy {h : RecHead} {b : CpyBody} (hs : Formed deep s) : Steps deep (execCpy h b s) :=
  steps_cpIssue hs fun _ hs1 => ends_map fun _ _ => hs1

theorem steps_execCpyfill {h : RecHead} {b : CpyBody} (hs : Formed deep s) : Steps deep (execCpyfill h b s) :=
  steps_cpIssue hs fun _ hs1 => ends_map fun _ _ => hs1

theorem steps_execCpyfifo {h : RecHead} {b : CpyFifoBody} (hs : Formed deep s) : Steps deep (execCpyfifo h b s) := by
  unfold execCpyfifo
  exact steps_cpIssue hs fun _ hs1 => ends_ok hs1

theorem ends_fillPosition {o : Op} {b : CpyFifoBody} {cap : RecCapture} {cor : Bool} {k : Nat} (h : Formed deep s) :
    Ends (Formed deep) (fillPosition s t o b cap cor k) := by
  unfold fillPosition
  refine ends_ite ends_blockOn (ends_ite ends_raise ?_)
  refine ends_ite ends_raise ?_
  split
  · exact ends_raise
  · split
    · exact ends_ite ends_error ends_blockOn
    · exact ends_bind fun _ hx => ends_pure (formed_modSlot (ends_foldlM h (fun _ _ hs => ends_checkGranules hs) _ hx) fun _ ht =>
        slotForm_modOp ht)

theorem slotForm_refillFifos {z : Nat} (h : SlotForm deep t) : SlotForm deep (refillFifos t z) := h

theorem formed_setKeys {keys : List Nat} {full : Bool} (h : Formed deep s) : Formed deep (setKeys s t keys full) := by
  unfold setKeys
  refine formed_foldl h fun _ _ hs => formed_ite (formed_modSlot hs fun _ ht => slotForm_setGranule ht) ?_
  split
  · exact formed_modSlot hs fun _ ht => slotForm_setGranule ht
  · exact hs

theorem ends_engineRead {o : Op} {p : Place} {n : Nat} {mem : Bool} {cor : Bool} {trap : Bool} (h : Formed deep s) :
    Ends (fun p => Formed deep p.1) (engineRead s t o p n mem cor trap) := by
  unfold engineRead
  split
  · refine ends_bind fun _ _ => ?_
    split
    · exact ends_raise
    · exact ends_ite ends_raise (ends_bind fun _ hx2 => ends_pure (formed_homeRead (ends_checkLines h _ hx2)))
  · exact ends_bind fun _ _ => ends_bind fun _ hx1 => ends_map fun _ _ => ends_checkGranules h _ hx1

theorem ends_engineWrite {o : Op} {p : Place} {bs : List Byte} {mem : Bool} (h : Formed deep s) :
    Ends (Formed deep) (engineWrite s t o p bs mem) := by
  unfold engineWrite
  split
  · refine ends_bind fun _ _ => ?_
    split
    · exact ends_raise
    · exact ends_bind fun _ hx2 => ends_pure (formed_modSlot (formed_homeWrite (ends_checkLines h _ hx2)) fun _ ht => slotForm_modOp ht)
  · exact ends_bind fun _ hx => ends_pure (formed_modSlot (ends_checkGranules h _ hx) fun _ ht => slotForm_bankWrite ht)

theorem ends_readIndex {o : Op} {b : CpyBody} {cor : Bool} {trap : Bool} {k : Nat} (h : Formed deep s) :
    Ends (fun p => Formed deep p.1) (readIndex s t o b cor trap k) := by
  unfold readIndex
  refine ends_ite (ends_ok h) ?_
  exact ends_ite ends_raise (ends_bind fun _ hx => ends_pure (ends_engineRead h _ hx))

theorem ends_fetchElement {o : Op} {fill : Bool} {b : CpyBody} {cap : RecCapture} {cor : Bool} {ix : Option Nat} {k : Nat}
    {w : Option Produced} (h : Formed deep s) :
    Ends (fun p => Formed deep p.1) (fetchElement s t o fill b cap cor ix k w) := by
  unfold fetchElement
  exact ends_bind fun x hx => ends_bind fun _ _ => ends_pure ((ends_ite (ends_ok h) (ends_ite (ends_map fun _ _ => h)
    (ends_bind fun _ _ => ends_bind fun _ hx3 => ends_pure (ends_engineRead h _ hx3))) : Ends (fun x => Formed deep x.1) _) _ hx)

theorem formed_fetchElements {op : Op} {fill : Bool} {b : CpyBody} {cap : RecCapture} {cor : Bool} {ix : Option Nat} {k n : Nat}
    {w : Option Produced} (h : Formed deep s) : Formed deep (fetchElements s t op fill b cap cor ix k w n).1 := by
  induction n generalizing s k w with
  | zero => exact h
  | succ n ih =>
    unfold fetchElements
    split
    · exact h
    · next hx => exact ih (ends_fetchElement h _ hx)

theorem ends_readTransfer {o : Op} {fill : Bool} {b : CpyBody} {cap : RecCapture} {cor : Bool} {k : Nat} (h : Formed deep s) :
    Ends (fun p => Formed deep p.1) (readTransfer s t o fill b cap cor k) := by
  unfold readTransfer
  dsimp only
  refine ends_bind fun _ hx => ?_
  split
  · exact ends_error
  · exact ends_pure (formed_fetchElements (ends_readIndex h _ hx))

theorem ends_writeTransfer {o : Op} {fill : Bool} {b : CpyBody} {cap : RecCapture} {cor : Bool} {k : Nat} {read : List Nat}
    {pend : List Nat} {w : Staged} (h : Formed deep s) :
    Ends (Formed deep) (writeTransfer s t o fill b cap cor k read pend w) := by
  unfold writeTransfer
  exact ends_bind fun _ _ => ends_ite (ends_bind fun _ _ => ends_ite (ends_bind fun _ hx2 => ends_pure (formed_modSlot
    (formed_setKeys (ends_ok h _ hx2)) fun _ ht => slotForm_modOp ht)) (ends_bind fun _ hx2 => ends_pure (formed_modSlot
      (formed_setKeys (ends_engineWrite h _ hx2)) fun _ ht => slotForm_modOp ht))) (ends_bind fun _ _ => ends_ite
        (ends_bind fun _ hx2 => ends_pure (formed_modSlot (formed_setKeys (ends_ok h _ hx2)) fun _ ht => slotForm_modOp ht))
          (ends_bind fun _ hx2 => ends_pure (formed_modSlot (formed_setKeys (ends_engineWrite h _ hx2)) fun _ ht => slotForm_modOp ht)))

theorem ends_copyTransfer {o : Op} {fill : Bool} {b : CpyBody} {cap : RecCapture} {cor : Bool} {k : Nat} {read : List Nat}
    {pend : List Nat} (h : Formed deep s) :
    Ends (Formed deep) (copyTransfer s t o fill b cap cor k read pend) := by
  unfold copyTransfer
  split
  · exact ends_writeTransfer h
  · exact ends_bind fun _ hx => ends_ite (ends_pure (formed_modSlot (ends_readTransfer h _ hx) fun _ ht => slotForm_modOp ht))
      (ends_writeTransfer (ends_readTransfer h _ hx))

theorem steps_execCpyind {h : RecHead} {b : CpyIndBody} (hs : Formed deep s) : Steps deep (execCpyind h b s) := by
  unfold execCpyind
  refine steps_cpIssue hs fun _ hs1 => ?_
  dsimp only
  refine ends_ite ?_ ?_
  · refine ends_bind fun _ _ => ?_
    split
    · exact ends_bind fun _ _ => ends_pure hs1
    · refine ends_ite ?_ ?_
      · refine ends_bind fun _ hx2 => ?_
        split
        · exact ends_error
        · exact ends_bind fun _ _ => ends_pure (formed_onCur (nomatch hx2) fun _ ht => ht)
      · refine ends_ite ?_ ?_
        · split
          · refine ends_ite ?_ ?_
            · refine ends_bind fun _ hx3 => ?_
              split
              · exact ends_error
              · exact ends_bind fun _ _ => ends_pure (formed_onCur (nomatch hx3) fun _ ht => ht)
            · refine ends_bind fun _ hx3 => ?_
              split
              · exact ends_error
              · exact ends_bind fun _ _ => ends_pure (formed_onCur (nomatch hx3) fun _ ht => ht)
          · refine ends_bind fun _ hx3 => ends_bind fun _ _ => ends_bind fun x4 hx5 => ?_
            split
            · exact ends_error
            · exact ends_bind fun _ _ => ends_pure (formed_onCur ((ends_pure (ends_checkGranules hs1 _ hx3) : Ends
                (fun x4 => Formed deep x4.1) _) _ hx5) fun _ ht => ht)
        · refine ends_ite ?_ ?_
          · refine ends_bind fun _ hx2 => ?_
            split
            · exact ends_error
            · exact ends_bind fun _ _ => ends_pure (formed_onCur (nomatch hx2) fun _ ht => ht)
          · refine ends_ite ?_ ?_
            · refine ends_bind fun _ hx2 => ?_
              split
              · exact ends_error
              · exact ends_bind fun _ _ => ends_pure (formed_onCur (nomatch hx2) fun _ ht => ht)
            · refine ends_ite ?_ ?_
              · refine ends_bind fun _ hx2 => ?_
                split
                · exact ends_error
                · exact ends_bind fun _ _ => ends_pure (formed_onCur (nomatch hx2) fun _ ht => ht)
              · refine ends_bind fun x2 hx2 => ?_
                split
                · exact ends_error
                · exact ends_bind fun _ _ => ends_pure (formed_onCur ((ends_ok (formed_homeRead hs1) : Ends
                    (fun x2 => Formed deep x2.1) _) _ hx2) fun _ ht => ht)
  · refine ends_bind fun _ _ => ends_bind fun _ _ => ?_
    split
    · exact ends_bind fun _ _ => ends_pure hs1
    · refine ends_ite ?_ ?_
      · refine ends_bind fun _ hx3 => ?_
        split
        · exact ends_error
        · exact ends_bind fun _ _ => ends_pure (formed_onCur (nomatch hx3) fun _ ht => ht)
      · refine ends_ite ?_ ?_
        · split
          · refine ends_ite ?_ ?_
            · refine ends_bind fun _ hx4 => ?_
              split
              · exact ends_error
              · exact ends_bind fun _ _ => ends_pure (formed_onCur (nomatch hx4) fun _ ht => ht)
            · refine ends_bind fun _ hx4 => ?_
              split
              · exact ends_error
              · exact ends_bind fun _ _ => ends_pure (formed_onCur (nomatch hx4) fun _ ht => ht)
          · refine ends_bind fun _ hx4 => ends_bind fun _ _ => ends_bind fun x5 hx6 => ?_
            split
            · exact ends_error
            · exact ends_bind fun _ _ => ends_pure (formed_onCur ((ends_pure (ends_checkGranules hs1 _ hx4) : Ends
                (fun x5 => Formed deep x5.1) _) _ hx6) fun _ ht => ht)
        · refine ends_ite ?_ ?_
          · refine ends_bind fun _ hx3 => ?_
            split
            · exact ends_error
            · exact ends_bind fun _ _ => ends_pure (formed_onCur (nomatch hx3) fun _ ht => ht)
          · refine ends_ite ?_ ?_
            · refine ends_bind fun _ hx3 => ?_
              split
              · exact ends_error
              · exact ends_bind fun _ _ => ends_pure (formed_onCur (nomatch hx3) fun _ ht => ht)
            · refine ends_ite ?_ ?_
              · refine ends_bind fun _ hx3 => ?_
                split
                · exact ends_error
                · exact ends_bind fun _ _ => ends_pure (formed_onCur (nomatch hx3) fun _ ht => ht)
              · refine ends_bind fun x3 hx3 => ?_
                split
                · exact ends_error
                · exact ends_bind fun _ _ => ends_pure (formed_onCur ((ends_ok (formed_homeRead hs1) : Ends
                    (fun x3 => Formed deep x3.1) _) _ hx3) fun _ ht => ht)

theorem formed_clearRead {w : Work} (h : Formed deep s) : Formed deep (clearRead s t w) := by
  unfold clearRead
  exact formed_setKeys h

theorem steps_floatOp {latency : Nat} {f : Word → Word → Word × BitVec 6} (h : Formed deep s) : Steps deep (floatOp s o latency f) := by
  unfold floatOp
  exact steps_issue h (ends_bind fun _ _ => ends_bind fun _ _ => ends_bind fun _ _ => ends_pure (formed_finishG h))

theorem steps_execFadd (h : Formed deep s) : Steps deep (execFadd o s) := by
  unfold execFadd
  exact steps_floatOp h

theorem steps_execFmul (h : Formed deep s) : Steps deep (execFmul o s) := by
  unfold execFmul
  exact steps_floatOp h

theorem steps_execFfma (h : Formed deep s) : Steps deep (execFfma o s) := by
  unfold execFfma
  refine steps_issue h (ends_bind fun _ _ => ends_bind fun _ _ => ends_bind fun _ _ => ends_bind fun _ _ => ?_)
  exact ends_pure (formed_finishG h)

theorem steps_execFmin (h : Formed deep s) : Steps deep (execFmin o s) := by
  unfold execFmin
  exact steps_floatOp h

theorem steps_execFmax (h : Formed deep s) : Steps deep (execFmax o s) := by
  unfold execFmax
  exact steps_floatOp h

theorem steps_execFcmp (h : Formed deep s) : Steps deep (execFcmp o s) := by
  unfold execFcmp
  exact steps_floatOp h

theorem steps_execCvt (h : Formed deep s) : Steps deep (execCvt o s) := steps_unaryOp h

theorem formed_sendKv {q : Option (BitVec 4)} {coff : BitVec 32} {r : KvReq} {dest : Option (BitVec 6)} (h : Formed deep s) :
    Formed deep (sendKv s q coff r dest) := by
  unfold sendKv
  exact formed_onCur (formed_setDie h) fun _ ht => slotForm_pushOp ht

theorem steps_kvIssue {kind : KvKind} {size : Nat} {tok : Nat} {n : Nat} {stride : Nat} {second : Bool} (h : Formed deep s) :
    Steps deep (kvIssue s o kind size tok n stride second) := by
  unfold kvIssue
  refine steps_issue h (ends_bind fun _ _ => ends_bind fun _ _ => ?_)
  exact ends_ite (ends_bind fun _ _ => ends_bind fun _ _ => ends_ite (ends_bind fun _ _ => ends_ite ends_raise (ends_ite ends_raise
    (ends_bind fun _ _ => ends_ite ends_error (ends_pure (formed_advance (formed_sendKv (formed_onCur h fun _ ht =>
      slotForm_setGranules ht))))))) (ends_bind fun _ _ => ends_ite ends_raise (ends_ite ends_raise
        (ends_bind fun _ _ => ends_ite ends_error (ends_pure (formed_advance (formed_sendKv
          (formed_onCur h fun _ ht => slotForm_setGranules ht)))))))) (ends_bind fun _ _ => ends_bind fun _ _ => ends_ite
            (ends_bind fun _ _ => ends_ite ends_raise (ends_ite ends_raise (ends_bind fun _ _ => ends_ite ends_error (ends_pure
              (formed_advance (formed_sendKv (formed_onCur h fun _ ht => slotForm_setGranules ht)))))))
                (ends_bind fun _ _ => ends_ite ends_raise (ends_ite ends_raise (ends_bind fun _ _ => ends_ite ends_error (ends_pure
                  (formed_advance (formed_sendKv (formed_onCur h fun _ ht => slotForm_setGranules ht))))))))

theorem steps_execKvopen (h : Formed deep s) : Steps deep (execKvopen o s) := steps_kvIssue h

theorem steps_execKvclose (h : Formed deep s) : Steps deep (execKvclose o s) := steps_kvIssue h

theorem steps_execKvfork (h : Formed deep s) : Steps deep (execKvfork o s) := by
  unfold execKvfork
  exact steps_kvIssue h

theorem steps_execKvappend (h : Formed deep s) : Steps deep (execKvappend o s) := by
  unfold execKvappend
  exact steps_kvIssue h

theorem steps_execKvevict (h : Formed deep s) : Steps deep (execKvevict o s) := steps_kvIssue h

theorem steps_execKvcompact (h : Formed deep s) : Steps deep (execKvcompact o s) := steps_kvIssue h

theorem steps_execKvmapV (h : Formed deep s) : Steps deep (execKvmapV o s) := by
  unfold execKvmapV
  exact steps_kvIssue h

theorem steps_execKvdraft (h : Formed deep s) : Steps deep (execKvdraft o s) := by
  unfold execKvdraft
  exact steps_kvIssue h

theorem steps_execKvaccept (h : Formed deep s) : Steps deep (execKvaccept o s) := steps_kvIssue h

theorem steps_execKvreject (h : Formed deep s) : Steps deep (execKvreject o s) := steps_kvIssue h

theorem steps_execKvprefixLook (h : Formed deep s) : Steps deep (execKvprefixLook o s) := steps_kvIssue h

theorem steps_execKvprefixIns (h : Formed deep s) : Steps deep (execKvprefixIns o s) := steps_kvIssue h

theorem steps_execKvmap (h : Formed deep s) : Steps deep (execKvmap o s) := by
  unfold execKvmap
  refine steps_issue h (ends_bind fun _ _ => ends_bind fun _ _ => ends_bind fun _ _ => ends_bind fun _ _ => ?_)
  exact ends_ite (ends_pure (formed_onCur (formed_advance (formed_sendKv h)) fun _ ht => slotForm_emptyG (slotForm_emptyG ht)))
    (ends_pure (formed_onCur (formed_advance (formed_sendKv h)) fun _ ht => ht))

theorem formed_kvRun {r : KvReq} {data : List Byte} (h : Formed deep s) : Formed deep (kvRun s t r data).st := by
  unfold kvRun
  dsimp only
  split
  · exact h
  · exact formed_kvJudge h

theorem ends_engineFill {q : BitVec 4} {addr : Nat} {bs : List Byte} (h : Formed deep s) :
    Ends (Formed deep) (engineFill s c q addr bs) := by
  unfold engineFill
  split
  · exact ends_ok h
  · exact ends_bind fun _ hx => ends_pure (formed_modSlot (ends_checkGranules h _ hx) fun _ ht => slotForm_setGranules
      (slotForm_bankWrite ht))

theorem formed_engineFinish {o : Op} {addr : Nat} {bs : List Byte} (h : Formed deep s) : Formed deep (engineFinish s c o addr bs) := by
  unfold engineFinish
  split
  · next hx1 => exact formed_modSlot (ends_engineFill h _ hx1) fun _ ht => slotForm_modOp ht
  · exact formed_opFault h
  · exact h

theorem ends_checkKvLines {r : KvReq} {data : List Byte} {d : KvDone} (h : Formed deep s) (hd : Formed deep d.st) :
    Ends (fun d => Formed deep d.st) (checkKvLines s t r data d) := by
  unfold checkKvLines
  split
  · exact ends_map fun _ _ => formed_modLaunch hd
  · exact ends_ok hd

theorem formed_dropArrival {die : Fin 2} {i : Nat} (h : Formed deep s) : Formed deep (dropArrival s die i) := by
  unfold dropArrival
  exact formed_setDie h

theorem slotForm_kvPair {id : Nat} {r : BitVec 6} {d : KvDone} (h : SlotForm deep t) (hd : Formed deep d.st) :
    SlotForm deep (kvPair t id r d) := by
  unfold kvPair
  exact slotForm_finishOp (slotForm_setG (slotForm_setG h))

theorem ends_engineTake {o : Op} {a : Nat} {n : Nat} (h : Formed deep s) : Ends (fun p => Formed deep p.1) (engineTake s t o a n) := by
  unfold engineTake
  split
  · exact ends_blockOn
  · exact ends_bind fun _ hx => ends_map fun _ _ => ends_checkGranules h _ hx

theorem formed_kvPerform {die : Fin 2} {i : Nat} {opens : Bool} (h : Formed deep s) : Formed deep (kvPerform s die i opens) := by
  unfold kvPerform
  split
  · exact h
  · split
    · exact h
    · dsimp only
      split
      · refine formed_ite h ?_
        split
        · split
          · next hx5 => exact formed_modSlot (ends_engineTake h _ hx5) fun _ ht => slotForm_modOp ht
          · exact formed_opFault (formed_dropArrival h)
          · exact h
        · split
          · exact formed_opFault (formed_dropArrival h)
          · exact h
          · next hx5 =>
            split
            · exact formed_modSlot (ends_checkKvLines (formed_dropArrival h) (formed_kvRun (formed_dropArrival h)) _ hx5) fun _ ht =>
                slotForm_kvPair ht (ends_checkKvLines (formed_dropArrival h) (formed_kvRun (formed_dropArrival h)) _ hx5)
            · exact formed_ite (formed_engineFinish (ends_checkKvLines (formed_dropArrival h) (formed_kvRun
                (formed_dropArrival h)) _ hx5)) (formed_modSlot (ends_checkKvLines (formed_dropArrival h) (formed_kvRun
                  (formed_dropArrival h)) _ hx5) fun _ ht => slotForm_modOp ht)
      · exact h

theorem steps_execKvopenAtSlice0 {die : Bool} {i : Nat} (h : Formed deep s) : Steps deep (execKvopenAtSlice0 die i s) :=
  steps_event (formed_kvPerform h)

theorem steps_execKvOperationPerform {die : Bool} {i : Nat} (h : Formed deep s) : Steps deep (execKvOperationPerform die i s) :=
  steps_event (formed_kvPerform h)

theorem slotForm_killState {kdh : BitVec 32} (h : SlotForm deep t) : SlotForm deep (killState kdh t) :=
  slotForm_foldl h fun t p ht =>
    slotForm_same (slotForm_setZtag (m := sset {} t.ztag p.1 { p.2 with state := 2, fresh := false })
      (slotForm_setZ ht (swf_sclear _ _ (stateBytes * p.1) (stateBytes * (p.1 + 1)))) (swf_sset _ _ _ _)) rfl rfl rfl rfl rfl

theorem slotForm_clearDead {kdh : BitVec 32} (h : SlotForm deep t) : SlotForm deep (clearDead kdh t) := h

theorem steps_execDeadHandleBroadcast {core : BitVec 8} (h : Formed deep s) : Steps deep (execDeadHandleBroadcast core s) := by
  unfold execDeadHandleBroadcast
  refine steps_event ?_
  split
  · exact h
  · next d _ =>
    have hkill : ∀ t, SlotForm deep t → SlotForm deep (if t.id.core = core then killState d.1 t else t) := fun t ht => by
      split
      · exact slotForm_killState ht
      · exact ht
    have hs := formed_mapSaved (f := fun x => if x.slot.id.core = core then { x with slot := killState d.1 x.slot } else x)
      (formed_mapSlots h hkill) fun x hx => by
        split
        · exact slotForm_killState hx
        · exact hx
    dsimp only
    split
    · exact formed_mapSlots (formed_mapSaved hs fun x hx => slotForm_clearDead hx) fun t ht => slotForm_clearDead ht
    · exact hs

theorem formed_closeDomains (h : Formed deep s) : Formed deep (closeDomains s) := by
  unfold closeDomains
  refine formed_foldl h fun _ _ hs => ?_
  split
  · exact hs
  · exact formed_releaseDomain (formed_setDie hs)

theorem formed_putMoved {die : Fin 2} {pbid : Nat} {b : Block} (h : Formed deep s) : Formed deep (putMoved s die pbid b) := by
  unfold putMoved
  exact formed_setDie (formed_putBlock h)

theorem steps_execTierMove {die : Bool} {pbid : BitVec 26} {tier : BitVec 3} {loc : BitVec 64} (h : Formed deep s) :
    Steps deep (execTierMove die pbid tier loc s) := by
  unfold execTierMove
  exact steps_event (formed_ite h (formed_ite (formed_ite h (formed_putMoved h)) (formed_ite h (formed_putMoved h))))

end

end Sys2Proof.Machine

end

section
/-! SUPPORT. Queries, attention dots, state slots and scans keep the forms -/

namespace Sys2Proof.Machine

section
variable {deep : Bool} {s : State} {t : Slot} {c : SlotId} {o : Opnd} {i : Instr}

theorem steps_execQsend (h : Formed deep s) : Steps deep (execQsend o s) := by
  unfold execQsend
  refine steps_issue h (ends_bind fun _ _ => ends_bind fun _ _ => ends_bind fun _ _ => ends_bind fun _ _ => ends_ite ends_raise ?_)
  split
  · exact ends_blockOn
  · dsimp only
    exact ends_bind fun _ hx5 => ends_bind fun _ _ => ends_ite ends_raise (ends_ite ends_raise (ends_ite ends_raise
      (ends_bind fun _ _ => ends_pure (formed_advance (formed_onCur (formed_setDie (ends_checkGranules h _ hx5)) fun _ ht =>
        slotForm_pushOp (slotForm_pushOp (slotForm_setGranules (slotForm_setGranules ht))))))))

theorem steps_execQsendReply (h : Formed deep s) : Steps deep (execQsendReply o s) := by
  unfold execQsendReply
  refine steps_issue h (ends_bind fun _ _ => ends_bind fun _ _ => ends_bind fun _ _ => ends_bind fun _ _ => ends_bind fun _ _ => ?_)
  exact ends_ite ends_raise (ends_bind fun _ _ => ends_pure (formed_advance (formed_onCur h fun _ ht => slotForm_pushOp
    (slotForm_setGranules ht))))

theorem formed_putQueue {die : Fin 2} {q : BitVec 5} {x : QueryQueue} (h : Formed deep s) : Formed deep (putQueue s die q x) := by
  unfold putQueue
  exact formed_setDie h

theorem formed_dropQuery {die : Fin 2} {i : Nat} (h : Formed deep s) : Formed deep (dropQuery s die i) := by
  unfold dropQuery
  exact formed_setDie h

theorem formed_putQuery {die : Fin 2} {i : Nat} {x : QueryArrival} (h : Formed deep s) : Formed deep (putQuery s die i x) := by
  unfold putQuery
  exact formed_setDie h

theorem formed_enqueueEntry {die : Fin 2} {i : Nat} {a : QueryArrival} {o : Op} {h : BitVec 512} {payload : List Byte}
    {status : Nat} (hs : Formed deep s) :
    Formed deep (enqueueEntry s die i a t o h payload status) := by
  unfold enqueueEntry
  exact formed_ite (formed_modSlot (formed_engineFinish (formed_dropQuery hs)) fun _ ht => slotForm_modOp ht) (formed_ite
    (formed_putQuery hs) (formed_engineFinish (formed_dropQuery (formed_putQueue (formed_setDie hs)))))

theorem steps_execQueryEntryEnqueue {die : Bool} {i : Nat} (h : Formed deep s) : Steps deep (execQueryEntryEnqueue die i s) := by
  unfold execQueryEntryEnqueue
  refine steps_event ?_
  split
  · exact h
  · split
    · exact h
    · split
      · refine formed_ite h ?_
        split
        · exact formed_ite h (formed_enqueueEntry h)
        · split
          · exact formed_opFault (formed_dropQuery h)
          · exact h
          · next hx5 => exact formed_putQuery (ends_engineTake h _ hx5)
      · exact h

theorem steps_execQueryDelivery {die : Bool} {queue : BitVec 5} (h : Formed deep s) : Steps deep (execQueryDelivery die queue s) := by
  unfold execQueryDelivery
  dsimp only
  refine steps_event ?_
  split
  · split
    · next hx3 => exact formed_modSlot (ends_engineFill
        (by exact formed_modSlot (formed_putQueue h) (fun _ ht => slotForm_pushOp ht)) _ hx3) (fun _ ht => slotForm_finishOp ht)
    · exact formed_opFault (formed_modSlot (formed_putQueue h) (fun _ ht => slotForm_pushOp ht))
    · exact formed_modSlot (formed_putQueue h) (fun _ ht => slotForm_pushOp ht)
  · exact h

theorem formed_sendReply {i : Nat} {r : Reply} {o : Op} {a : Nat} {n : Nat} {tag : BitVec 16} {status : Nat} (h : Formed deep s) :
    Formed deep (sendReply s i r t o a n tag status) := by
  unfold sendReply
  dsimp only
  split
  · exact formed_engineFinish h
  · split
    · exact formed_engineFinish h
    · refine formed_ite (formed_opFault h) ?_
      split
      · exact formed_opFault h
      · exact h
      · next hx3 => exact formed_modSlot (formed_putQueue (ends_engineTake h _ hx3)) fun _ ht => ht

theorem formed_deliverReply {e : QueryEntry} {bs : List Byte} (h : Formed deep s) : Formed deep (deliverReply s e bs) := by
  unfold deliverReply
  split
  · exact h
  · split
    · exact formed_engineFinish h
    · exact h

theorem steps_execQueryReplyArrival {i : Nat} (h : Formed deep s) : Steps deep (execQueryReplyArrival i s) := by
  unfold execQueryReplyArrival
  refine steps_event ?_
  split
  · exact h
  · dsimp only
    split
    · exact h
    · split
      · exact formed_ite h (formed_sendReply h)
      · exact h
    · refine formed_ite h ?_
      split
      · split
        · exact formed_engineFinish (formed_deliverReply h)
        · exact formed_deliverReply h
      · exact formed_deliverReply h

theorem steps_attentionDot {columns : Bool} (h : Formed deep s) : Steps deep (attentionDot o s columns) := by
  unfold attentionDot
  refine steps_issue h (ends_bind fun _ _ => ends_bind fun _ _ => ends_bind fun _ _ => ends_bind fun _ _ => ?_)
  refine ends_ite ends_raise (ends_bind fun _ _ => ends_bind fun _ _ => ends_bind fun _ _ => ?_)
  refine ends_ite ends_raise (ends_ite ends_raise (ends_ite ends_raise ?_))
  split
  · refine ends_ite ends_raise (ends_ite ends_raise (ends_ite ends_raise ?_))
    dsimp only
    split
    · exact ends_blockOn
    · refine ends_bind fun u hu => ends_bind fun _ _ => ends_bind fun v hv => ends_pure ?_
      have hu := ends_foldlM h (fun _ _ hs => ends_checkGranules hs) u hu
      have hv := ends_checkGranules hu v hv
      exact formed_holdFor (formed_advance (formed_onCur hv fun _ ht =>
        slotForm_addFlags (slotForm_setGranules (slotForm_bankWrite ht))))
  · exact ends_raise

theorem steps_execAdot (h : Formed deep s) : Steps deep (execAdot o s) := steps_attentionDot h

theorem steps_execAacc (h : Formed deep s) : Steps deep (execAacc o s) := steps_attentionDot h

theorem ends_plainRead {pa : Nat} {n : Nat} {reg : Word} (h : Formed deep s) :
    Ends (fun p => Formed deep p.1) (plainRead s pa n reg) := by
  unfold plainRead
  refine ends_bind fun _ _ => ?_
  split
  · exact ends_raise
  · exact ends_ite ends_raise (ends_ok (formed_homeRead h))

theorem steps_execSopset (h : Formed deep s) : Steps deep (execSopset o s) := by
  unfold execSopset
  refine steps_issue h ?_
  exact ends_bind fun _ _ => ends_ite ends_raise (ends_bind fun _ _ => ends_bind fun _ hx2 => ends_ite ends_error
    (ends_ite ends_error (ends_pure (formed_advance (formed_onCur (ends_plainRead h _ hx2) fun _ ht => ht)))))

theorem slotForm_zWrite {z : BitVec 6} {off : Nat} {bs : List Byte} (h : SlotForm deep t) : SlotForm deep (zWrite t z off bs) :=
  slotForm_setZ h (swf_ssetRange _ _ _ _)

theorem slotForm_setZTag {z : BitVec 6} {x : ZTag} (h : SlotForm deep t) : SlotForm deep (setZTag t z x) :=
  slotForm_setZtag h (swf_sset _ _ _ _)

theorem formed_rebind {z : BitVec 6} {nch : Nat} (h : Formed deep s) : Formed deep (rebind s z nch) := by
  unfold rebind
  exact formed_onCur (formed_ite (formed_releaseDomain h) h) fun t ht => slotForm_zWrite (slotForm_setZ ht (swf_sclear _ _ _ _))

theorem steps_bindState {malformed : Word → Bool} {tag : State → Word → State × ZTag × Nat} (h : Formed deep s)
    (htag : ∀ a0 a1, Formed deep a0 → Formed deep (tag a0 a1).1) :
    Steps deep (bindState o s malformed tag) := by
  unfold bindState
  refine steps_issue h (ends_bind fun _ _ => ?_)
  exact ends_bind fun _ _ => ends_ite ends_raise (ends_ite ends_raise (ends_bind fun _ _ => ends_bind fun _ _ => ends_pure
    (formed_finishG (formed_onCur (htag _ _ (formed_rebind h)) fun _ ht => slotForm_setZTag ht))))

theorem steps_execSbind (h : Formed deep s) : Steps deep (execSbind o s) := steps_bindState h fun _ _ hs => hs

theorem steps_execSbindNew (h : Formed deep s) : Steps deep (execSbindNew o s) := by
  unfold execSbindNew
  refine steps_bindState h fun _ _ hs => ?_
  split
  · next hx1 => exact gives_newDomain hs _ hx1
  · exact hs

theorem steps_execSld (h : Formed deep s) : Steps deep (execSld o s) := by
  unfold execSld
  refine steps_issue h (ends_bind fun _ _ => ends_bind fun _ _ => ends_bind fun _ _ => ends_bind fun _ _ => ends_bind fun _ _ => ?_)
  exact ends_bind fun _ _ => ends_pure (formed_finishL h)

theorem steps_execSst (h : Formed deep s) : Steps deep (execSst o s) :=
  steps_issue h (ends_bind fun _ _ => ends_bind fun _ _ => ends_bind fun _ _ => ends_bind fun _ _ => ends_bind fun _ _ => ends_bind
    fun _ _ => ends_pure (formed_advance (formed_onCur h fun _ ht => slotForm_zWrite ht)))

theorem steps_scanIssue {n : Nat} {troupe : Bool} {step : Bool} (h : Formed deep s) : Steps deep (scanIssue o s n troupe step) := by
  unfold scanIssue
  refine steps_issue h (ends_bind fun _ _ => ends_bind fun _ _ => ends_bind fun _ _ => ends_bind fun _ _ => ?_)
  split
  · exact ends_raise
  · dsimp only
    exact ends_bind fun _ _ => ends_bind fun _ _ => ends_ite ends_raise (ends_pure (formed_advance
      (formed_onCur h fun _ ht => slotForm_pushOp (slotForm_setGranules ht))))

theorem steps_execScanl (h : Formed deep s) : Steps deep (execScanl o s) := steps_scanIssue h

theorem steps_execScan (h : Formed deep s) : Steps deep (execScan o s) := steps_scanIssue h

theorem steps_execSstep (h : Formed deep s) : Steps deep (execSstep o s) := steps_scanIssue h

theorem slotForm_storeState {z : BitVec 6} {op : ScanOp} {p : Nat} {nch : Nat} {cs : List Channel} (h : SlotForm deep t) :
    SlotForm deep (storeState t z op p nch cs) := by
  unfold storeState
  exact slotForm_zWrite h

theorem steps_execScanUnitStart (h : Formed deep s) : Steps deep (execScanUnitStart c s) := by
  unfold execScanUnitStart
  refine steps_event ?_
  split
  · exact h
  · split
    · exact h
    · split
      · split
        · exact formed_opFault h
        · exact h
        · exact formed_modSlot h fun _ ht => slotForm_modOp ht
      · exact h

theorem ends_scanTake {o : Op} {src : Nat} {dst : Nat} {got : Nat} {upto : Nat} (h : Formed deep s) :
    Ends (fun p => Formed deep p.1) (scanTake s t o src dst got upto) := ends_bind fun _ hx => ends_map fun _ _ => ends_checkGranules
      h _ hx

theorem ends_scanRead {o : Op} {z : BitVec 6} {src : Nat} {dst : Nat} {n : Nat} {nch : Nat} {op : ScanOp} {troupe : Bool}
    {step : Bool} {read : List Byte} (h : Formed deep s) :
    Ends (Formed deep) (scanRead s t o z src dst n nch op troupe step read) := by
  unfold scanRead
  exact ends_bind fun _ _ => ends_bind fun _ hx1 => ends_pure (formed_modSlot (ends_scanTake h _ hx1) fun _ ht => slotForm_modOp ht)

theorem ends_scanWrite {o : Op} {z : BitVec 6} {dst : Nat} {n : Nat} {nch : Nat} {op : ScanOp} {step : Bool} {read : List Byte}
    {w : Staged} (h : Formed deep s) :
    Ends (Formed deep) (scanWrite s t o z dst n nch op step read w) := by
  unfold scanWrite
  refine ends_bind fun _ _ => ?_
  exact ends_bind fun _ hx1 => ends_pure (formed_modSlot (ends_checkGranules h _ hx1) fun _ ht => slotForm_ite (slotForm_modOp
    (slotForm_storeState (slotForm_setGranules (slotForm_bankWrite ht)))) (slotForm_modOp (slotForm_setGranules
      (slotForm_bankWrite ht))))

theorem steps_execScanComplete (h : Formed deep s) : Steps deep (execScanComplete c s) := by
  unfold execScanComplete
  refine steps_event ?_
  split
  · exact h
  · split
    · exact h
    · split
      · dsimp only
        split
        · next hx4 =>
          refine (?_ : Ends (Formed deep) _) _ hx4
          split
          · exact ends_scanWrite h
          · exact ends_scanRead h
        · exact formed_opFault h
        · exact h
      · exact h

theorem ends_scanMemberRead {m : Slot × Op} (h : Formed deep s) : Ends (Formed deep) (scanMemberRead s m) := by
  unfold scanMemberRead
  split
  · exact ends_bind fun _ hx => ends_pure (formed_modSlot (ends_scanTake h _ hx) fun _ ht => slotForm_modOp ht)
  · exact ends_ok h

theorem ends_scanMember {p0 : Nat} {n : Nat} {nch : Nat} {op : ScanOp} {r : Res (State × List Channel × Nat)} {m : Slot × Op}
    (hr : Ends (fun p => Formed deep p.1) r) :
    Ends (fun p => Formed deep p.1) (scanMember p0 n nch op r m) := by
  unfold scanMember
  refine ends_bind fun _ hx => ?_
  split
  · split
    · dsimp only
      exact ends_bind fun _ hx2 => ends_pure (formed_modSlot (ends_checkGranules (hr _ hx) _ hx2) fun _ ht => slotForm_modOp
        (slotForm_setGranules (slotForm_bankWrite ht)))
    · exact ends_pure (hr _ hx)

theorem ends_scanCombine {ms : List (Slot × Op)} (h : Formed deep s) : Ends (Formed deep) (scanCombine s ms) := by
  unfold scanCombine
  split
  · split
    · dsimp only
      refine ends_bind fun x hx => ends_pure ?_
      refine formed_foldl ((ends_foldl (ends_ok h) (fun _ _ hx2 => ends_scanMember hx2) : Ends
        (fun x => Formed deep x.1) _) _ hx) fun _ _ hs => ?_
      refine formed_modSlot hs fun _ ht => ?_
      split
      · exact slotForm_modOp (slotForm_storeState ht)
      · exact ht
    · exact ends_ok h
  · exact ends_ok h

theorem steps_execScanHubCombine (h : Formed deep s) : Steps deep (execScanHubCombine c s) := by
  unfold execScanHubCombine
  refine steps_event ?_
  split
  · exact h
  · split
    · exact formed_foldl h (fun _ _ hs => formed_opFault hs)
    · refine formed_ite h ?_
      split
      · next hx3 => exact ends_bind (fun _ _ => ends_ite (ends_scanCombine h) (ends_foldlM h
          (fun _ _ hs => ends_scanMemberRead hs))) _ hx3
      · exact formed_foldl h (fun _ _ hs => formed_opFault hs)
      · exact h

theorem steps_pannierIssue {fill : Bool} (h : Formed deep s) : Steps deep (pannierIssue o s fill) := by
  unfold pannierIssue
  refine steps_issue h ?_
  exact ends_bind fun _ _ => ends_bind fun _ _ => ends_bind fun _ _ => ends_ite ends_raise (ends_bind fun _ _ => ends_pure
    (formed_advance (formed_onCur h fun _ ht => slotForm_pushOp ht)))

theorem steps_execSspill (h : Formed deep s) : Steps deep (execSspill o s) := steps_pannierIssue h

theorem steps_execSfill (h : Formed deep s) : Steps deep (execSfill o s) := steps_pannierIssue h

theorem ends_pannierRun {fill : Bool} {z : BitVec 6} {h : Capture} {off : Nat} (hs : Formed deep s) :
    Ends (Formed deep) (pannierRun s t fill z h off) := by
  unfold pannierRun
  refine ends_bind fun _ _ => ends_bind fun _ _ => ?_
  split
  · exact ends_raise
  · exact ends_bind fun _ _ => ends_ite (ends_ite ends_raise (ends_bind fun _ _ => ends_pure (formed_modSlot
      (formed_homeRead hs) fun _ ht => slotForm_zWrite ht))) (ends_bind fun _ _ => ends_pure (formed_homeWrite hs))

theorem steps_execPannierTransferComplete {q : BitVec 4} {n : Nat} (h : Formed deep s) :
    Steps deep (execPannierTransferComplete c q n s) := by
  unfold execPannierTransferComplete
  refine steps_event ?_
  split
  · exact h
  · split
    · exact h
    · split
      · refine formed_ite h ?_
        split
        · next hx4 => exact formed_modSlot (ends_pannierRun h _ hx4) fun _ ht => slotForm_modOp ht
        · exact formed_opFault h
        · exact h
      · exact h

end

end Sys2Proof.Machine

end

section
/-! SUPPORT. Carries, chain links and the matrix array keep the forms -/

namespace Sys2Proof.Machine

section
variable {deep : Bool} {s : State} {t : Slot} {c : SlotId} {o : Opnd} {i : Instr}

theorem steps_execChsend (h : Formed deep s) : Steps deep (execChsend o s) := by
  unfold execChsend
  refine steps_issue h (ends_bind fun _ _ => ends_bind fun _ _ => ends_ite ends_raise ?_)
  exact ends_ite ends_raise (ends_bind fun _ _ => ends_pure (formed_advance (formed_onCur h fun _ ht => slotForm_pushOp ht)))

theorem steps_execChrecv (h : Formed deep s) : Steps deep (execChrecv o s) := by
  unfold execChrecv
  refine steps_issue h (ends_bind fun _ _ => ends_bind fun _ _ => ?_)
  exact ends_pure (formed_advance (formed_onCur h fun _ ht => slotForm_pushOp ht))

theorem formed_linkSend {link : Nat} {p : ChainPacket} (h : Formed deep s) : Formed deep (linkSend s link p) := by
  unfold linkSend
  split
  · exact h
  · dsimp only
    exact h

theorem formed_setChain {link : Fin 8} {l : ChainLink} (h : Formed deep s) : Formed deep (setChain s link l) := h

theorem formed_linkReply {link : Fin 8} {form : LinkForm} {seq : BitVec 24} (h : Formed deep s) :
    Formed deep (linkReply s link form seq) := by
  unfold linkReply
  exact formed_setChain h

theorem formed_resendLink {link : Fin 8} {l : ChainLink} (h : Formed deep s) : Formed deep (resendLink s link l) := by
  unfold resendLink
  exact formed_setChain h

theorem formed_linkAnswered {link : Fin 8} {p : ChainPacket} (h : Formed deep s) : Formed deep (linkAnswered s link p) := by
  unfold linkAnswered
  dsimp only
  split
  · exact formed_resendLink h
  · exact formed_setChain h
  · exact formed_setChain h

theorem formed_linkDrop {link : Fin 8} (h : Formed deep s) : Formed deep (linkDrop s link) := by
  unfold linkDrop
  exact formed_setChain h

theorem formed_sendFlit {link : Fin 5} {vc : Nat} {payload : List Byte} (h : Formed deep s) :
    Formed deep (sendFlit s link vc payload) := by
  unfold sendFlit
  exact h

theorem formed_laneSend {ps : List ChainPacket} (h : Formed deep s) : Formed deep (laneSend s ps) := by
  unfold laneSend
  exact formed_foldl h fun _ _ hs => formed_sendFlit hs

theorem formed_carryFault {i : Nat} {o : Op} {f : FaultInfo} (h : Formed deep s) : Formed deep (carryFault s i t o f) :=
  formed_opFault h

theorem formed_carrySend {i : Nat} {c : Carry} {o : Op} {z : BitVec 6} {w : Word} {tag : BitVec 16} (h : Formed deep s) :
    Formed deep (carrySend s i c t o z w tag) := by
  unfold carrySend
  refine formed_ite h ?_
  split
  · exact formed_carryFault h
  · exact h
  · dsimp only
    refine formed_ite (formed_ite (formed_carryFault h) (formed_ite h (formed_modSlot (formed_ite h
      (formed_laneSend h)) fun _ ht => slotForm_modOp ht))) ?_
    split
    · exact formed_carryFault h
    · exact formed_ite (formed_carryFault h) (formed_ite h (formed_modSlot (formed_foldl h fun _ _ hs => formed_linkSend hs) fun _ ht
        => slotForm_modOp ht))

theorem formed_answerCarry {c : Carry} {answer : CarryAnswer} (h : Formed deep s) : Formed deep (answerCarry s c answer) := by
  unfold answerCarry
  split
  · exact h
  · exact formed_linkSend h

theorem formed_carryFull {i : Nat} {c : Carry} (h : Formed deep s) : Formed deep (carryFull s i c) := by
  unfold carryFull
  split
  · dsimp only
    exact h
  · exact formed_answerCarry h

theorem formed_carryReceive {i : Nat} {c : Carry} (h : Formed deep s) : Formed deep (carryReceive s i c) := by
  unfold carryReceive
  dsimp only
  split
  · exact formed_ite h (formed_ite (formed_carryFull h) (formed_answerCarry (formed_modSlot h fun _ ht => ht)))
  · split
    · exact formed_ite h (formed_carryFull h)
    · exact formed_answerCarry h

theorem steps_execCarryArrival {i : Nat} (h : Formed deep s) : Steps deep (execCarryArrival i s) := by
  unfold execCarryArrival
  refine steps_event ?_
  split
  · exact h
  · refine formed_ite h ?_
    split
    · exact formed_carryReceive h
    · split
      · split
        · exact formed_carrySend h
        · exact h
      · exact h

theorem formed_answerSender {c : Carry} {o : Op} (h : Formed deep s) : Formed deep (answerSender s c t o) := by
  unfold answerSender
  split
  · exact formed_modSlot h fun _ ht => slotForm_modOp ht
  · exact formed_opFault h
  · exact formed_opFault h
  · dsimp only
    exact formed_modSlot h fun _ ht => slotForm_modOp ht

theorem steps_execAcceptancePacketArrival {i : Nat} (h : Formed deep s) : Steps deep (execAcceptancePacketArrival i s) := by
  unfold execAcceptancePacketArrival
  refine steps_event ?_
  split
  · exact h
  · refine formed_ite h ?_
    dsimp only
    split
    · exact formed_answerSender h
    · exact h

theorem formed_recvRun {o : Op} {z : BitVec 6} {tag : BitVec 16} (h : Formed deep s) : Formed deep (recvRun s t o z tag) := by
  unfold recvRun
  split
  · exact formed_opFault h
  · exact h
  · exact h
  · dsimp only
    exact formed_modSlot h fun _ ht => slotForm_modOp (slotForm_zWrite ht)

theorem gives_refuseTrain {link : Nat} {p : ChainPacket} {answer : CarryAnswer} (h : Formed deep s) :
    Gives (Formed deep) (refuseTrain s link p answer) := gives_ite (gives_some h) (gives_ite (gives_some
      (formed_linkSend h)) gives_none)

theorem gives_forwardPacket {link : Nat} {p : ChainPacket} (h : Formed deep s) : Gives (Formed deep) (forwardPacket s link p) :=
  gives_ite (gives_some (formed_linkSend h)) gives_none

theorem gives_packetHere {link : Nat} {p : ChainPacket} (h : Formed deep s) : Gives (Formed deep) (packetHere s link p) := by
  unfold packetHere
  refine gives_ite ?_ ?_
  · refine gives_some ?_
    split <;> exact h
  · refine gives_ite (gives_refuseTrain h) (gives_ite ?_ (gives_some h))
    refine gives_some ?_
    split <;> exact h

theorem gives_chainTake {link : Nat} {p : ChainPacket} (h : Formed deep s) : Gives (Formed deep) (chainTake s link p) := by
  unfold chainTake
  refine gives_ite (gives_some h) (gives_ite (gives_refuseTrain h) ?_)
  refine gives_ite (gives_packetHere h) ?_
  refine gives_ite ?_ ?_
  · split
    · exact gives_forwardPacket h
    · exact gives_some h
  · split
    · exact gives_ite (gives_forwardPacket h) (gives_refuseTrain h)
    · exact gives_refuseTrain h

theorem steps_execChainPacket {link : BitVec 3} {p : ChainPacket} (h : Formed deep s) : Steps deep (execChainPacket link p s) := by
  unfold execChainPacket
  refine steps_event (formed_ite h ?_)
  refine formed_ite (formed_linkDrop h) (formed_ite (formed_linkAnswered h) ?_)
  refine formed_ite ?_ (formed_ite (formed_ite h (formed_linkReply (formed_setChain h))) (formed_linkReply h))
  split
  · next hx1 => exact formed_linkReply (gives_chainTake (formed_setChain h) _ hx1)
  · exact formed_linkReply h

theorem formed_linkTimeout {link : Fin 8} (h : Formed deep s) : Formed deep (linkTimeout s link) := by
  unfold linkTimeout
  dsimp only
  split
  · exact formed_ite (formed_resendLink h) h
  · exact h

theorem formed_linkBackoffEnds {link : Fin 8} (h : Formed deep s) : Formed deep (linkBackoffEnds s link) := by
  unfold linkBackoffEnds
  dsimp only
  split
  · exact formed_ite (formed_resendLink h) h
  · exact h

theorem formed_reroute {die : Nat} {p : ChainPacket} (h : Formed deep s) : Formed deep (reroute s die p) := by
  unfold reroute
  split
  · exact formed_linkSend h
  · refine formed_ite h ?_
    refine formed_ite ?_ ?_
    · split <;> exact h
    · split
      · exact formed_linkSend h
      · exact h

theorem formed_chainDown {dev : BitVec 18} {n : BitVec 3} {why : PortFailure} (h : Formed deep s) :
    Formed deep (chainDown s dev n why) := by
  unfold chainDown
  exact formed_ite h (formed_ite h (formed_foldl (formed_setChain h) fun _ _ hs => formed_reroute hs))

theorem formed_chainUp {dev : BitVec 18} {n : BitVec 3} (h : Formed deep s) : Formed deep (chainUp s dev n) := by
  unfold chainUp
  exact formed_ite h (formed_ite h (formed_setChain h))

theorem ends_mxLate (h : Formed deep s) : Ends (Formed deep) (mxLate s) :=
  ends_ite ends_raise (ends_pure (formed_onCur (formed_holdRec h) fun _ ht => ht))

theorem slotForm_slip {n : Nat} {counted : Bool} (h : SlotForm deep t) : SlotForm deep (slip t n counted) := h

theorem steps_mxIssue {check : Slot → Res Unit} {perform : State → Option Capture → Res (State × BitVec 6 × List Byte)}
    (h : Formed deep s) (hperform : ∀ a0 a1, Formed deep a0 → Ends (fun p => Formed deep p.1) (perform a0 a1)) :
    Steps deep (mxIssue s i check perform) := by
  unfold mxIssue
  refine steps_issueRec h (ends_ite (ends_pure (formed_holdRec h)) ?_)
  refine ends_bind fun _ _ => ends_bind fun _ _ => ?_
  split
  · exact ends_ite ends_error (ends_mxLate h)
  · refine ends_ite (ends_mxLate h) ?_
    split
    · exact ends_ite (ends_mxLate h) ends_error
    · exact ends_error
    · exact ends_ite (ends_mxLate h) (ends_bind fun _ hx4 => ends_pure (formed_advanceRec (formed_onCur (hperform _ _
        (formed_onCur h fun _ ht => slotForm_slip ht) _ hx4) fun _ ht => slotForm_pushOp ht)))

theorem slotForm_zeroTile {tile : BitVec 3} (h : SlotForm deep t) : SlotForm deep (zeroTile t tile) := h

theorem slotForm_setTile {tile : BitVec 3} {x : Tile} (h : SlotForm deep t) : SlotForm deep (setTile t tile x) := h

theorem slotForm_addLanding {l : Landing} (h : SlotForm deep t) : SlotForm deep (addLanding t l) := h

theorem slotForm_addRead {tile : BitVec 3} {last : Nat} (h : SlotForm deep t) : SlotForm deep (addRead t tile last) := h

theorem slotForm_clearTile {tile : BitVec 3} {lands : Nat} (h : SlotForm deep t) : SlotForm deep (clearTile t tile lands) :=
  slotForm_addLanding (slotForm_setTile (slotForm_zeroTile h))

theorem slotForm_addTerms {tile : BitVec 3} {j : Nat} {xs : List (Int × BitVec 3)} (h : SlotForm deep t) :
    SlotForm deep (addTerms t tile j xs) := by
  unfold addTerms
  exact slotForm_ite h h

theorem slotForm_tripleTile {tile : BitVec 3} (h : SlotForm deep t) : SlotForm deep (tripleTile t tile) := h

theorem slotForm_setBuffer {n : Bool} {x : WeightBuffer} (h : SlotForm deep t) : SlotForm deep (setBuffer t n x) := h

theorem slotForm_addRow {b : MxNest} {p : Position} {f : ElemFmt} {bits : Nat} {tile : BitVec 3} {j : Nat} (h : SlotForm deep t) :
    SlotForm deep (addRow t i b p f bits tile j) := by
  unfold addRow
  dsimp only
  split <;> exact slotForm_addTerms h

theorem slotForm_iterationRow {b : MxNest} {cs : Nat} {k : Nat} {j : Nat} (h : SlotForm deep t) :
    SlotForm deep (iterationRow t i b cs k j) := by
  unfold iterationRow
  split
  · split
    · exact slotForm_addRow h
    · exact h
  · exact h

theorem ends_iteration {b : MxNest} {cs : Nat} {k : Nat} {y : Nat} (h : SlotForm deep t) :
    Ends (SlotForm deep) (iteration t i b cs k y) := by
  unfold iteration
  dsimp only
  split
  · exact ends_ok h
  · split
    · exact ends_raise
    · split
      · exact ends_raise
      · exact ends_ite ends_raise (ends_ite ends_raise (ends_ite ends_raise (ends_pure (slotForm_addLanding (slotForm_ite
          (slotForm_setTile (slotForm_addRow (slotForm_setTile (slotForm_ite (slotForm_tripleTile (slotForm_ite
            (slotForm_zeroTile h) h)) (slotForm_ite (slotForm_zeroTile h) h))))) (slotForm_addRow (slotForm_setTile (slotForm_ite
              (slotForm_tripleTile (slotForm_ite (slotForm_zeroTile h) h)) (slotForm_ite (slotForm_zeroTile h) h)))))))))

theorem slotForm_consumeAt {f : BitVec 2} {n : Nat} (h : SlotForm deep t) : SlotForm deep (consumeAt t f n) := by
  unfold consumeAt
  exact h

theorem steps_mxProduct {b : MxNest} (h : Formed deep s) : Steps deep (mxProduct s i b) := by
  unfold mxProduct
  refine steps_mxIssue h fun _ _ hs => ?_
  split
  · exact ends_ok hs
  · exact ends_bind fun _ hx => ends_pure (formed_onCur hs fun _ _ => slotForm_consumeAt (ends_iteration (slotForm_cur hs) _ hx))

theorem steps_execMxacc {h : RecHead} {b : MxNest} (hs : Formed deep s) : Steps deep (execMxacc h b s) := steps_mxProduct hs

theorem steps_execMxperm {h : RecHead} {b : MxNest} (hs : Formed deep s) : Steps deep (execMxperm h b s) := steps_mxProduct hs

theorem steps_execMxred {h : RecHead} {b : MxNest} (hs : Formed deep s) : Steps deep (execMxred h b s) := steps_mxProduct hs

theorem steps_execMxtrn {h : RecHead} {b : MxNest} (hs : Formed deep s) : Steps deep (execMxtrn h b s) := steps_mxProduct hs

theorem slotForm_giveBack {f : BitVec 2} {n : Nat} (h : SlotForm deep t) : SlotForm deep (giveBack t f n) := by
  unfold giveBack
  exact h

theorem slotForm_loadChunk {b : MxLdwBody} {f : BitVec 2} {p : Int} {x : Position} {k : Nat} (h : SlotForm deep t) :
    SlotForm deep (loadChunk t b f p x k).1 := by
  unfold loadChunk
  dsimp only
  split
  · exact slotForm_giveBack (slotForm_setBuffer h)
  · exact slotForm_setBuffer h

theorem steps_execMxldw {h : RecHead} {b : MxLdwBody} (hs : Formed deep s) : Steps deep (execMxldw h b s) := by
  unfold execMxldw
  dsimp only
  refine steps_mxIssue hs fun _ _ hs1 => ?_
  split
  · exact ends_raise
  · exact ends_ite ends_raise (ends_ok (formed_onCur hs1 fun _ ht => slotForm_consumeAt (slotForm_setBuffer ht)))

theorem steps_execMxzero {h : RecHead} {mask : BitVec 8} (hs : Formed deep s) : Steps deep (execMxzero h mask s) :=
  steps_mxIssue hs fun _ _ hs1 => ends_ok (formed_onCur hs1 fun _ ht => slotForm_foldl ht fun _ _ ht1 => slotForm_clearTile ht1)

theorem slotForm_drainBlock {a : Nat} {bs : List Byte} {later : List (Nat × Nat)} (h : SlotForm deep t) :
    SlotForm deep (drainBlock t a bs later) := by
  unfold drainBlock
  exact slotForm_foldl (slotForm_bankWrite h) fun _ _ ht => slotForm_setGranule ht

theorem ends_restoreTile {tile : BitVec 3} {bs : List Byte} (h : SlotForm deep t) : Ends (SlotForm deep) (restoreTile t tile bs) := by
  unfold restoreTile
  refine ends_ite ends_raise (ends_ok ?_)
  dsimp only [SlotForm, slotSafe]
  change SlotForm deep _
  exact slotForm_setTile h

theorem ends_judgeBlock {b : MxSaveBody} {pa : Nat} {n : Nat} {write : Bool} {c : Capture} (h : Formed deep s) :
    Ends (Formed deep) (judgeBlock s t b pa n write c) := by
  unfold judgeBlock
  split
  · exact ends_raise
  · exact ends_bind fun _ hx => ends_ite ends_raise (ends_pure (ends_checkLines h _ hx))

theorem ends_performBlock {o : Op} {cap : RecCapture} {next : Nat} {off : Nat} {n : Nat} {later : List (Nat × Nat)}
    (h : Formed deep s) :
    Ends (fun p => Formed deep p.1) (performBlock s t o i cap next off n later) := by
  unfold performBlock
  split
  · dsimp only
    exact ends_bind (fun _ hx => ends_pure (formed_modSlot (ends_checkGranules h _ hx) (fun _ ht => slotForm_drainBlock ht)))
  · dsimp only
    exact ends_bind (fun _ hx => ends_pure (formed_homeWrite (ends_judgeBlock h _ hx)))
  · dsimp only
    refine ends_bind ?_
    intro _ hx
    refine ends_ite (ends_pure (formed_homeRead (ends_judgeBlock h _ hx))) ?_
    split
    · next hx2 => exact ends_map (fun _ hx3 => formed_modSlot (formed_homeRead (ends_judgeBlock h _ hx))
        (fun _ _ => ends_restoreTile (gives_slotOf (formed_homeRead (ends_judgeBlock h _ hx)) _ hx2) _ hx3))
    · exact ends_pure (formed_homeRead (ends_judgeBlock h _ hx))
  · exact ends_ok h

theorem gives_nextBlock {o : Op} (h : Formed deep s) : Gives (Formed deep) (nextBlock s t o) := by
  unfold nextBlock
  split
  · split
    · exact gives_none
    · dsimp only
      refine gives_ite gives_none ?_
      split
      · next hx3 => exact gives_some (formed_modSlot (ends_performBlock h _ hx3) fun _ ht => slotForm_modOp ht)
      · exact gives_some (formed_opFault h)
      · exact gives_none
  · exact gives_none

theorem gives_nextChunk {o : Op} (h : Formed deep s) (ht : SlotForm deep t) : Gives (Formed deep) (nextChunk s t o) := by
  unfold nextChunk
  split
  · dsimp only
    refine gives_ite gives_none (gives_map fun _ _ => ?_)
    split
    · exact formed_opFault (formed_modSlot h fun _ _ => slotForm_modOp (slotForm_loadChunk ht))
    · exact formed_modSlot h fun _ _ => slotForm_modOp (slotForm_loadChunk ht)
  · exact gives_none

theorem gives_nextRow {o : Op} (h : Formed deep s) (ht : SlotForm deep t) : Gives (Formed deep) (nextRow s t o) := by
  unfold nextRow
  split
  · split
    · dsimp only
      exact gives_ite gives_none (gives_some (formed_modSlot h fun _ _ => slotForm_modOp (slotForm_iterationRow ht)))
    · exact gives_none
  · exact gives_none

theorem formed_moveBlocks (h : Formed deep s) : Formed deep (moveBlocks s) := by
  unfold moveBlocks
  refine formed_foldl h fun _ _ hs => formed_foldl hs fun _ _ hs1 => ?_
  split
  · next hx1 => exact formed_getD (gives_hOrElse (gives_nextBlock hs1) (gives_hOrElse (gives_nextChunk hs1 (gives_slotOf hs1 _ hx1))
      (gives_nextRow hs1 (gives_slotOf hs1 _ hx1)))) hs1
  · exact hs1

theorem steps_execMxdrain {h : RecHead} {b : MxDrainBody} (hs : Formed deep s) : Steps deep (execMxdrain h b s) := by
  unfold execMxdrain
  refine steps_mxIssue hs fun _ _ hs1 => ?_
  dsimp only
  split
  · exact ends_bind fun _ hx => ends_bind fun _ _ => ends_pure (formed_onCur (ends_checkGranules hs1 _ hx) fun _ ht => slotForm_ite
      (slotForm_clearTile (slotForm_addRead ht)) (slotForm_addRead ht))
  · exact ends_raise

theorem steps_execMxsave {h : RecHead} {b : MxSaveBody} (hs : Formed deep s) : Steps deep (execMxsave h b s) := by
  unfold execMxsave
  refine steps_mxIssue hs fun _ _ hs1 => ?_
  split
  · exact ends_ok hs1
  · exact ends_bind fun _ _ => ends_pure (formed_onCur hs1 fun _ ht => slotForm_addRead ht)

theorem steps_execMxrest {h : RecHead} {b : MxSaveBody} (hs : Formed deep s) : Steps deep (execMxrest h b s) := by
  unfold execMxrest
  refine steps_mxIssue hs fun _ _ hs1 => ?_
  split
  · exact ends_ok hs1
  · exact ends_bind fun _ _ => ends_pure hs1

theorem steps_execMxstamp {h : RecHead} {b : MxStampBody} (hs : Formed deep s) : Steps deep (execMxstamp h b s) :=
  steps_mxIssue hs fun _ _ hs1 => ends_ok (formed_onCur hs1 fun _ ht => ht)

theorem steps_execMxend {h : RecHead} (hs : Formed deep s) : Steps deep (execMxend h s) :=
  steps_mxIssue hs fun _ _ hs1 => ends_ok (formed_onCur hs1 fun _ ht => ht)

theorem steps_execMatrixIterationStart (h : Formed deep s) : Steps deep (execMatrixIterationStart c s) := by
  unfold execMatrixIterationStart
  refine steps_event ?_
  split
  · exact h
  · next hx1 =>
    split
    · exact h
    · split
      · exact h
      · dsimp only
        refine formed_ite (formed_ite (formed_opFault h) (formed_ite (formed_opFault h) h)) ?_
        split
        · exact formed_opFault h
        · exact h
        · next hx4 => exact formed_modSlot h fun _ _ => slotForm_modOp (slotForm_slip (ends_iteration (gives_slotOf h _ hx1) _ hx4))

theorem steps_execTileRowLand (h : Formed deep s) : Steps deep (execTileRowLand c s) := by
  unfold execTileRowLand
  refine steps_event (formed_modSlot h fun _ ht => slotForm_ite ht ?_)
  exact slotForm_foldl ht fun _ _ ht1 => slotForm_ite ht1 (slotForm_setTile ht1)

theorem slotForm_countConsumed (h : SlotForm deep t) : SlotForm deep (countConsumed t i) := by
  unfold countConsumed
  dsimp only
  split <;> exact h

theorem slotForm_finishMatrix (h : SlotForm deep t) : SlotForm deep (finishMatrix t i) := by
  unfold finishMatrix
  split
  · exact slotForm_ite (slotForm_setGranules h) h
  · exact h
  · exact slotForm_countConsumed h

end

end Sys2Proof.Machine

end

section
/-! SUPPORT. Network copies, completion, barrier objects and migration keep the forms -/

namespace Sys2Proof.Machine

section
variable {deep : Bool} {s : State} {t : Slot} {c : SlotId} {o : Opnd} {i : Instr}

theorem steps_execCpynet {h : RecHead} {b : CpyNetBody} (hs : Formed deep s) : Steps deep (execCpynet h b s) := by
  unfold execCpynet
  exact steps_cpIssue hs fun _ hs1 => ends_ite (ends_map fun _ _ => hs1) (ends_ok hs1)

theorem ends_netRead {o : Op} {b : CpyNetBody} {h : Option Capture} {trap : Bool} {cor : Bool} {off : Nat} {n : Nat}
    (hs : Formed deep s) :
    Ends (fun p => Formed deep p.1) (netRead s t o b h trap cor off n) := ends_bind fun _ _ => ends_engineRead hs

theorem ends_netWrite {o : Op} {b : CpyNetBody} {h : Option Capture} {off : Nat} {bs : List Byte} (hs : Formed deep s) :
    Ends (Formed deep) (netWrite s t o b h off bs) := by
  unfold netWrite
  refine ends_bind fun _ _ => ?_
  exact ends_bind fun _ hx1 => ends_pure (formed_ite (formed_setKeys (ends_engineWrite hs _ hx1)) (ends_engineWrite hs _ hx1))

theorem formed_netGather {op : Op} {b : CpyNetBody} {h : Option Capture} {trap cor : Bool} {off upto n : Nat} (hs : Formed deep s) :
    Formed deep (netGather s t op b h trap cor off upto n).1 := by
  induction n generalizing s off with
  | zero => exact hs
  | succ n ih =>
    unfold netGather
    dsimp only
    split
    · exact hs
    · split
      · exact hs
      · next hx => exact ih (ends_netRead hs _ hx)

theorem ends_netRefused {α : Type} {b : CpyNetBody} {off : Nat} {p : α → Prop} : Ends p (netRefused b off) := ends_raise

theorem formed_netAdvance {o : Op} {b : CpyNetBody} {h : Option Capture} {trap : Bool} {cor : Bool} {sent : Option Nat}
    {done : Nat} (hs : Formed deep s) :
    Formed deep (netAdvance s t o b h trap cor sent done) := formed_modSlot hs fun _ ht => slotForm_modOp ht

theorem ends_netLocal {o : Op} {b : CpyNetBody} {h : Option Capture} {trap : Bool} {cor : Bool} {off : Nat} (hs : Formed deep s) :
    Ends (Formed deep) (netLocal s t o b h trap cor off) := by
  unfold netLocal
  dsimp only
  refine ends_ite ends_netRefused ?_
  refine ends_ite (ends_ite ends_netRefused (ends_ite ends_raise (ends_bind fun _ _ => ends_bind fun _ hx1 => ends_pure
    (formed_netAdvance (ends_netWrite (formed_homeRead hs) _ hx1))))) ?_
  split
  · exact ends_error
  · exact ends_error
  · exact ends_error
  · exact ends_ite ends_netRefused (ends_ite ends_error (ends_ok (formed_netAdvance (formed_modSlot (formed_homeWrite
      (formed_netGather hs)) fun _ ht => slotForm_modOp ht))))

theorem ends_netSend {o : Op} {b : CpyNetBody} {h : Option Capture} {trap : Bool} {cor : Bool} {sent : Option Nat} {off : Nat}
    (hs : Formed deep s) :
    Ends (Formed deep) (netSend s t o b h trap cor sent off) := by
  unfold netSend
  refine ends_ite ends_netRefused (ends_ite ends_netRefused ?_)
  refine ends_ite ?_ ?_
  · dsimp only
    exact ends_ite ends_blockOn (ends_ok (formed_netAdvance (formed_sendFrame hs)))
  · dsimp only
    refine ends_ite ends_blockOn ?_
    split
    · exact ends_error
    · exact ends_blockOn
    · exact ends_ok (formed_netAdvance (formed_sendFrame (formed_netGather hs)))

theorem ends_netStep {o : Op} {b : CpyNetBody} {h : Option Capture} {trap : Bool} {cor : Bool} {sent : Option Nat} {done : Nat}
    (hs : Formed deep s) :
    Ends (Formed deep) (netStep s t o b h trap cor sent done) := ends_ite ends_error (ends_ite (ends_netLocal hs) (ends_netSend hs))

theorem gives_copyStep {o : Op} (h : Formed deep s) : Gives (Ends (Formed deep)) (copyStep s t o) := by
  unfold copyStep
  refine gives_ite gives_none ?_
  dsimp only
  split
  · refine gives_ite ?_ gives_none
    split
    · exact gives_none
    · exact gives_none
    · exact gives_some (ends_copyTransfer h)
  · refine gives_ite ?_ gives_none
    split
    · exact gives_none
    · exact gives_none
    · exact gives_some (ends_netStep h)
  · refine gives_ite ?_ gives_none
    split
    · exact gives_none
    · exact gives_none
    · exact gives_some (ends_fillPosition h)
  · exact gives_none

theorem steps_execCopyElement {q : BitVec 4} {n : Nat} (h : Formed deep s) : Steps deep (execCopyElement c q n s) := by
  unfold execCopyElement
  refine steps_event ?_
  split
  · exact h
  · split
    · exact h
    · split
      · next hx3 =>
        exact formed_modSlot (gives_copyStep h _ hx3 _ rfl) fun _ ht => ht
      · dsimp only
        exact formed_opFault h
      · exact h

theorem gives_gatherNow {o : Op} {reads : Bool} (h : Formed deep s) : Gives (Ends (Formed deep)) (gatherNow s t o reads) := by
  unfold gatherNow
  split
  · refine gives_ite gives_none ?_
    split
    · exact gives_none
    · exact gives_none
    · exact gives_some (ends_gatherStep h)
  · exact gives_none

theorem gives_gatherTurn {o : Op} (h : Formed deep s) : Gives (Ends (Formed deep)) (gatherTurn s t o) :=
  gives_hOrElse (gives_gatherNow h) (gives_gatherNow h)

theorem steps_execGatherLineReply {q : BitVec 4} {n : Nat} (h : Formed deep s) : Steps deep (execGatherLineReply c q n s) := by
  unfold execGatherLineReply
  refine steps_event ?_
  split
  · exact h
  · split
    · exact h
    · split
      · next hx3 => exact gives_gatherTurn h _ hx3 _ rfl
      · exact formed_opFault h
      · exact h

theorem formed_completeWork {op : Op} (h : Formed deep s) : Formed deep (completeWork s t op) := by
  unfold completeWork
  generalize op.work = w
  cases w with
  | chrecv z tag => exact formed_recvRun h
  | matrix => exact formed_modSlot h fun _ ht => slotForm_modOp (slotForm_finishMatrix ht)
  | copy | fifo | net => exact formed_modSlot (formed_clearRead h) fun _ ht => slotForm_modOp ht
  | status addr bs => exact formed_engineFinish h
  | end_ => exact formed_modSlot h fun _ ht => slotForm_modOp ht
  | _ => exact h

theorem formed_complete {id : Nat} (h : Formed deep s) : Formed deep (complete s c id) := by
  unfold complete
  split
  · exact h
  · split
    · exact h
    · refine formed_ite h ?_
      split
      · exact formed_modSlot h fun _ ht => slotForm_finishOp ht
      · dsimp only
        exact formed_modSlot (formed_sendUpdate h) fun _ ht => slotForm_modOp ht

theorem steps_execRecordComplete {q : BitVec 4} {n : Nat} (h : Formed deep s) : Steps deep (execRecordComplete c q n s) := by
  unfold execRecordComplete
  refine steps_event ?_
  split
  · exact h
  · split
    · exact h
    · exact formed_ite (formed_complete (formed_completeWork h)) h

theorem slotForm_writeDeferred {i : Nat} (h : SlotForm deep t) : SlotForm deep (writeDeferred t i) := by
  unfold writeDeferred
  split
  · exact h
  · dsimp only
    exact slotForm_addFlags (slotForm_foldl (slotForm_foldl h fun _ _ ht => slotForm_setG ht) fun _ _ ht => slotForm_setV ht)

theorem steps_execDeferredWrite {i : Nat} (h : Formed deep s) : Steps deep (execDeferredWrite c i s) :=
  steps_event (formed_modSlot h fun _ ht => slotForm_ite (slotForm_writeDeferred ht) ht)

theorem steps_execStreamUnblock {st : StreamId} (h : Formed deep s) : Steps deep (execStreamUnblock c st s) := by
  unfold execStreamUnblock
  refine steps_event ?_
  split
  · exact h
  · exact formed_ite (formed_modSlot h fun _ ht => slotForm_modStream ht) h

theorem slotForm_closeWork {w : Option Work} (h : SlotForm deep t) : SlotForm deep (closeWork t w) := by
  unfold closeWork
  split
  · exact slotForm_countConsumed h
  · exact h

theorem slotForm_takeEvent {e : Event} (h : SlotForm deep t) : SlotForm deep (takeEvent t e) := by
  unfold takeEvent
  refine slotForm_enterHandler ?_
  split
  · refine slotForm_finishOp (slotForm_closeWork ?_)
    split
    · exact slotForm_modStream h
    · exact h
  · split
    · exact slotForm_modStream h
    · exact h

theorem steps_execAsyncEventTake (h : Formed deep s) : Steps deep (execAsyncEventTake c s) := by
  unfold execAsyncEventTake
  refine steps_event ?_
  split
  · exact h
  · refine formed_ite h ?_
    split
    · exact h
    · exact formed_ite (formed_endItem h) (formed_modSlot h fun _ ht => slotForm_takeEvent ht)

theorem slotForm_fillHandle {h : BitVec 4} {l : Leaf} (hs : SlotForm deep t) : SlotForm deep (fillHandle t h l) := by
  unfold fillHandle
  exact hs

theorem slotForm_startWalk {w : Walk} (h : SlotForm deep t) : SlotForm deep (startWalk t w) := by
  unfold startWalk
  exact h

theorem formed_hitFill {atUse : Bool} {h : BitVec 4} (hs : Formed deep s) : Formed deep (hitFill s c atUse h) := by
  unfold hitFill
  refine formed_modSlot hs fun _ ht => ?_
  split
  · exact ht
  · split
    · exact slotForm_fillHandle ht
    · exact slotForm_startWalk ht

theorem steps_execXlatCacheHitFill {h : BitVec 4} (hs : Formed deep s) : Steps deep (execXlatCacheHitFill c h s) :=
  steps_event (formed_hitFill hs)

theorem steps_execRetranslationHitRefill {h : BitVec 4} (hs : Formed deep s) : Steps deep (execRetranslationHitRefill c h s) :=
  steps_event (formed_hitFill hs)

theorem formed_pinLine {line : Nat} (h : Formed deep s) : Formed deep (pinLine s line) := by
  unfold pinLine
  exact formed_setLine (formed_ite h (formed_reloadLine h))

theorem formed_loadClass {l : Leaf} (h : Formed deep s) : Formed deep (loadClass s l) := by
  unfold loadClass
  exact formed_ite h (formed_ite h (formed_foldl h fun _ _ hs => formed_pinLine hs))

theorem formed_unloadClass {l : Leaf} (h : Formed deep s) : Formed deep (unloadClass s l) := by
  unfold unloadClass
  exact formed_ite h (formed_ite h (formed_foldl h fun _ _ hs => formed_evictLine hs))

theorem formed_xlatFault {w : Walk} {code : BitVec 8} {level : Nat} (h : Formed deep s) : Formed deep (xlatFault s t w code level) := by
  unfold xlatFault
  exact formed_ite (formed_takeFault h) (formed_askHost (formed_modSlot h fun _ ht => ht))

theorem formed_useFault {w : Walk} {code : BitVec 8} {level : Nat} (h : Formed deep s) : Formed deep (useFault s t w code level) := by
  unfold useFault
  exact formed_takeFault (formed_modSlot h fun _ ht => ht)

theorem steps_execTranslationWalkComplete {h : BitVec 4} (hs : Formed deep s) : Steps deep (execTranslationWalkComplete c h s) := by
  unfold execTranslationWalkComplete
  refine steps_event ?_
  split
  · exact hs
  · split
    · exact hs
    · split
      · exact hs
      · exact formed_modSlot (formed_loadClass hs) fun _ ht => slotForm_fillHandle (slotForm_cacheLeaf ht)
      · exact formed_ite (formed_useFault hs) (formed_xlatFault hs)

theorem slotForm_invalidate {l : Leaf} (h : SlotForm deep t) : SlotForm deep (invalidate t l) := h

theorem steps_execShootdownInvalidation {tenant : BitVec 16} {context : BitVec 16} {vpage : BitVec 40} (h : Formed deep s) :
    Steps deep (execShootdownInvalidation c tenant context vpage s) := by
  unfold execShootdownInvalidation
  refine steps_event ?_
  split
  · exact h
  · dsimp only
    exact formed_modSlot h fun _ ht => slotForm_invalidate ht

theorem slotForm_restartWalks {l : Leaf} (h : SlotForm deep t) : SlotForm deep (restartWalks s l t) := by
  unfold restartWalks
  refine slotForm_foldl h fun _ _ ht => ?_
  split
  · dsimp only
    exact ht
  · exact slotForm_startWalk ht

/-- A range of a map copied over another keeps the canonical form. -/
theorem swf_moved {α : Type} [DecidableEq α] {d : α} {m : Sparse α} {src dst n : Nat} (h : swf d m = true) :
    swf d (m.filter (fun p => p.1 < dst)
      ++ (m.filter (fun p => src ≤ p.1 && p.1 < src + n)).map (fun p => (p.1 - src + dst, p.2))
      ++ m.filter (fun p => dst + n ≤ p.1)) = true := by
  rw [swf_iff] at h ⊢
  obtain ⟨hs, hd⟩ := h
  refine ⟨List.pairwise_append.2 ⟨List.pairwise_append.2 ⟨hs.filter _, ?_, ?_⟩, hs.filter _, ?_⟩, ?_⟩
  · refine List.pairwise_map.2 ((hs.filter _).imp_of_mem fun hp hq hlt => ?_)
    have hp := (List.mem_filter.1 hp).2
    simp only [Bool.and_eq_true, decide_eq_true_eq] at hp
    dsimp only
    omega
  · intro p hp q hq
    obtain ⟨r, hr, rfl⟩ := List.mem_map.1 hq
    have hp := (List.mem_filter.1 hp).2
    simp only [decide_eq_true_eq] at hp
    dsimp only
    omega
  · intro p hp q hq
    have hq := (List.mem_filter.1 hq).2
    simp only [decide_eq_true_eq] at hq
    rcases List.mem_append.1 hp with hp | hp
    · have hp := (List.mem_filter.1 hp).2
      simp only [decide_eq_true_eq] at hp
      omega
    · obtain ⟨r, hr, rfl⟩ := List.mem_map.1 hp
      have hr := (List.mem_filter.1 hr).2
      simp only [Bool.and_eq_true, decide_eq_true_eq] at hr
      dsimp only
      omega
  · intro p hp
    rcases List.mem_append.1 hp with hp | hp
    · rcases List.mem_append.1 hp with hp | hp
      · exact hd p (List.mem_filter.1 hp).1
      · obtain ⟨r, hr, rfl⟩ := List.mem_map.1 hp
        exact hd r (List.mem_filter.1 hr).1
    · exact hd p (List.mem_filter.1 hp).1

theorem formed_copyMem {src dst n : Nat} (h : Formed deep s) : Formed deep (copyMem s src dst n) :=
  formed_setMem h swf_moved

theorem formed_mgmtAnswer {host : BitVec 18} {code : BitVec 8} {status : BitVec 32} {more : List Byte} (h : Formed deep s) :
    Formed deep (mgmtAnswer s host code status more) := formed_sendFrame h

theorem formed_shootdownAnswer {x : Shootdown} (h : Formed deep s) : Formed deep (shootdownAnswer s x) :=
  formed_ite h (formed_mgmtAnswer h)

theorem formed_shootdownEnd {x : Shootdown} (h : Formed deep s) : Formed deep (shootdownEnd s x) := by
  unfold shootdownEnd
  dsimp only
  split
  · exact formed_shootdownAnswer h
  · exact formed_shootdownAnswer (formed_ite (formed_loadClass (formed_mapItems (formed_mapSlots (formed_ite (formed_homeWrite
      (formed_copyMem (formed_unloadClass (formed_foldl h fun _ _ hs => formed_evictLine hs)))) (formed_copyMem (formed_unloadClass
        (formed_foldl h fun _ _ hs => formed_evictLine hs)))) fun _ ht => slotForm_ite (slotForm_cacheLeaf ht) ht) fun _ ht => ht))
          (formed_mapItems (formed_mapSlots (formed_ite (formed_homeWrite (formed_copyMem (formed_unloadClass
            (formed_foldl h fun _ _ hs => formed_evictLine hs)))) (formed_copyMem (formed_unloadClass
              (formed_foldl h fun _ _ hs => formed_evictLine hs)))) fun _ ht => slotForm_ite
                (slotForm_cacheLeaf ht) ht) fun _ ht => ht))

theorem steps_execShootdownAck (h : Formed deep s) : Steps deep (execShootdownAck c s) := by
  unfold execShootdownAck
  refine steps_event ?_
  split
  · exact h
  · dsimp only
    exact formed_ite (formed_mapSlots (formed_shootdownEnd h) fun _ ht => slotForm_restartWalks ht)
      (formed_modSlot h fun _ ht => slotForm_ite ht (slotForm_restartWalks ht))

end

end Sys2Proof.Machine

end

section
/-! SUPPORT. Walks, the port, the intake engine and the scheduler keep the forms -/

namespace Sys2Proof.Machine

section
variable {deep : Bool} {s : State} {t : Slot} {c : SlotId} {o : Opnd} {i : Instr}

theorem formed_setRx {x : RxFlow} (h : Formed deep s) : Formed deep (setRx s x) := h

theorem formed_flowReply {k : FlowKey} {kind : BitVec 4} {ack : BitVec 24} {reason : BitVec 32} (h : Formed deep s) :
    Formed deep (flowReply s k kind ack reason) := by
  unfold flowReply
  exact formed_sendFrame h

theorem formed_sendAck {x : RxFlow} (h : Formed deep s) : Formed deep (sendAck s x) := formed_flowReply (formed_setRx h)

theorem formed_countDrop (h : Formed deep s) : Formed deep (countDrop s) := h

theorem formed_receive {f : Frame} {kind : BitVec 4} {full : Bool} {intake : State → State} (h : Formed deep s)
    (hintake : ∀ a0, Formed deep a0 → Formed deep (intake a0)) :
    Formed deep (receive s f kind full intake) := by
  unfold receive
  refine formed_ite h (formed_ite (formed_countDrop h) ?_)
  exact formed_ite (formed_ite (formed_flowReply h) (formed_ite (formed_sendAck (hintake _ (formed_setRx h))) (hintake _
    (formed_setRx h)))) (formed_ite (formed_ite h (formed_flowReply (formed_setRx h))) (formed_sendAck h))

theorem steps_execAckTimer {f : FlowKey} (h : Formed deep s) : Steps deep (execAckTimer f s) := by
  unfold execAckTimer
  exact steps_event (formed_ite (formed_sendAck h) h)

theorem formed_setTx {x : TxFlow} (h : Formed deep s) : Formed deep (setTx s x) := h

theorem formed_resendFlow {x : TxFlow} (h : Formed deep s) : Formed deep (resendFlow s x) := by
  unfold resendFlow
  dsimp only
  dsimp only [Formed]
  change Formed deep _
  exact formed_setTx h

theorem formed_pumpFlow {x : TxFlow} (h : Formed deep s) : Formed deep (pumpFlow s x) := by
  unfold pumpFlow
  split
  · exact h
  · dsimp only
    exact formed_ite h h

theorem formed_pumpFlows (h : Formed deep s) : Formed deep (pumpFlows s) := formed_foldl h fun _ _ hs => formed_pumpFlow hs

theorem steps_execFrameAck {f : Frame} (h : Formed deep s) : Steps deep (execFrameAck f s) := by
  unfold execFrameAck
  refine steps_event (formed_ite h ?_)
  refine formed_ite (formed_countDrop h) ?_
  split
  · exact h
  · dsimp only
    exact formed_pumpFlows (formed_setTx h)

theorem steps_execFrameNak {f : Frame} (h : Formed deep s) : Steps deep (execFrameNak f s) := by
  unfold execFrameNak
  refine steps_event (formed_ite h ?_)
  refine formed_ite (formed_countDrop h) ?_
  split
  · exact h
  · dsimp only
    exact formed_ite (formed_setTx h) (formed_resendFlow h)

theorem formed_flowTimeout {k : FlowKey} (h : Formed deep s) : Formed deep (flowTimeout s k) := by
  unfold flowTimeout
  split
  · exact h
  · split
    · exact formed_ite (formed_resendFlow h) h
    · exact h

theorem steps_execRetransmitTimeout {f : Sender} (h : Formed deep s) : Steps deep (execRetransmitTimeout f s) := by
  unfold execRetransmitTimeout
  refine steps_event ?_
  split
  · exact formed_flowTimeout h
  · exact formed_linkTimeout h

theorem ends_netFill {op : Op} {b : CpyNetBody} {h : Option Capture} {off n : Nat} {bs : List Byte} (hs : Formed deep s) :
    Ends (Formed deep) (netFill s c op b h off bs n) := by
  induction n generalizing s off bs with
  | zero => exact ends_ok hs
  | succ n ih =>
    unfold netFill
    dsimp only
    split
    · exact ends_ok hs
    · split
      · exact ends_ok hs
      · split
        · exact ends_error
        · next hw => exact ih (ends_netWrite hs _ hw)

theorem gives_heldGet {f : Frame} (h : Formed deep s) : Gives (fun p => SlotForm deep p.2.1.slot) (heldGet s f) := by
  intro p hp
  obtain ⟨q, hq, hf⟩ := List.exists_of_findSome?_eq_some hp
  obtain ⟨_, _, rfl⟩ := Option.map_eq_some_iff.1 hf
  exact h.2.2.2 q.1 (List.fst_mem_of_mem_zipIdx hq)

theorem formed_performData {f : Frame} (h : Formed deep s) : Formed deep (performData s f) := by
  unfold performData
  split
  · split
    · next hx =>
      refine formed_setSaved h fun y hy => ?_
      rcases List.mem_or_eq_of_mem_set hy with hy | rfl
      · exact h.2.2.2 y hy
      · exact gives_heldGet h _ hx
    · exact h
  · split
    · dsimp only
      split
      · next hx => exact formed_netAdvance (ends_netFill h _ hx)
      · exact formed_opFault h
      · exact h
    · exact h

theorem formed_netRefuse {o : Op} {at_ : Nat} (h : Formed deep s) : Formed deep (netRefuse s t o at_) := by
  unfold netRefuse
  dsimp only
  split
  · exact formed_opFault h
  · split
    · exact formed_endLaunch h
    · exact h

theorem formed_performRefuse {f : Frame} (h : Formed deep s) : Formed deep (performRefuse s f) := by
  unfold performRefuse
  split
  · exact h
  · split
    · exact formed_netRefuse h
    · exact h

theorem gives_performLaunch {f : Frame} (h : Formed deep s) : Gives (Formed deep) (performLaunch s f) := by
  unfold performLaunch
  exact gives_ite gives_none (gives_map fun _ hx => formed_sendFrame (gives_submit h _ hx))

theorem formed_performCancel {f : Frame} (h : Formed deep s) : Formed deep (performCancel s f) := by
  unfold performCancel
  exact formed_sendFrame (formed_cancelLaunch h)

theorem gives_performFrame {f : Frame} (h : Formed deep s) : Gives (Formed deep) (performFrame s f) := by
  unfold performFrame
  split
  · exact gives_some (formed_performData h)
  · exact gives_performLaunch h
  · exact gives_some (formed_performCancel h)
  · exact gives_some (formed_performRefuse h)
  · exact gives_some h

theorem gives_sendRequest (h : Formed deep s) : Gives (Formed deep) (sendRequest s) := by
  unfold sendRequest
  split
  · exact gives_none
  · dsimp only
    exact gives_ite (gives_ite gives_none (gives_bind fun _ _ => gives_performFrame h)) (gives_ite gives_none (gives_some h))

theorem formed_sendRequests {n : Nat} (h : Formed deep s) : Formed deep (sendRequests s n) := by
  induction n generalizing s with
  | zero => exact h
  | succ n ih =>
    unfold sendRequests
    split
    · next hx => exact ih (gives_sendRequest h _ hx)
    · exact h

theorem formed_pushRequest {f : Frame} {kind : ReqKind} {lead : Nat} (h : Formed deep s) : Formed deep (pushRequest s f kind lead) := by
  unfold pushRequest
  exact formed_sendRequests h

theorem formed_performNext {f : Frame} (h : Formed deep s) : Formed deep (performNext s f) :=
  formed_ite (formed_pushRequest h) (formed_getD (gives_performFrame h) (formed_pushRequest h))

theorem formed_pushPut {f : Frame} (h : Formed deep s) : Formed deep (pushPut s f) := by
  unfold pushPut
  exact formed_ite h (formed_pushRequest (formed_setRx h))

theorem formed_refuseFrame {i : Nat} {r : Request} {reason : Nat} (h : Formed deep s) : Formed deep (refuseFrame s i r reason) := by
  unfold refuseFrame
  split
  · dsimp only
    exact formed_ite h (formed_sendFrame h)
  · exact h

theorem formed_answerLine {f : Frame} {r : Request} {n : Nat} {bs : List Byte} (h : Formed deep s) :
    Formed deep (answerLine s f r n bs) := by
  unfold answerLine
  exact formed_ite h (formed_sendFrame h)

theorem formed_performLine {i : Nat} {r : Request} (h : Formed deep s) : Formed deep (performLine s i r) := by
  unfold performLine
  dsimp only
  split
  · exact formed_ite (formed_refuseFrame h) (formed_ite (formed_refuseFrame h) (formed_homeWrite h))
  · refine formed_ite (formed_refuseFrame h) (formed_ite (formed_refuseFrame h) ?_)
    split
    · exact formed_answerLine (formed_homeRead h)
    · exact formed_homeRead h
  · exact h

theorem formed_queueRequest {i : Nat} {r : Request} (h : Formed deep s) : Formed deep (queueRequest s i r) := by
  unfold queueRequest
  exact h

theorem steps_execHomeSliceRequest {i : Nat} (h : Formed deep s) : Steps deep (execHomeSliceRequest i s) := by
  unfold execHomeSliceRequest
  refine steps_event ?_
  split
  · exact formed_ite (formed_sendRequests h) h
  · dsimp only
    exact formed_ite h (formed_ite (formed_queueRequest h) (formed_ite h (formed_performLine h)))

theorem steps_execBackoffResend {b : Resend} (h : Formed deep s) : Steps deep (execBackoffResend b s) := by
  unfold execBackoffResend
  refine steps_event ?_
  split
  · split
    · exact formed_ite h h
    · exact h
  · split
    · exact formed_ite (formed_resendFlow h) h
    · exact h
  · split
    · exact formed_ite h h
    · exact h
  · exact formed_linkBackoffEnds h
  · dsimp only
    split
    · exact formed_ite h h
    · exact h

theorem steps_execFramePut {f : Frame} (h : Formed deep s) : Steps deep (execFramePut f s) :=
  steps_event (formed_receive h fun _ hs => formed_pushPut hs)

theorem steps_execFrameGetreq {f : Frame} (h : Formed deep s) : Steps deep (execFrameGetreq f s) :=
  steps_event (formed_receive h fun _ hs => formed_ite (formed_sendFrame hs) (formed_pushRequest hs))

theorem steps_execFrameGetdata {f : Frame} (h : Formed deep s) : Steps deep (execFrameGetdata f s) :=
  steps_event (formed_receive h fun _ hs => formed_performNext hs)

theorem steps_execFrameRefuse {f : Frame} (h : Formed deep s) : Steps deep (execFrameRefuse f s) :=
  steps_event (formed_receive h fun _ hs => formed_performNext hs)

theorem steps_execFrameLaunch {f : Frame} (h : Formed deep s) : Steps deep (execFrameLaunch f s) :=
  steps_event (formed_receive h fun _ hs => formed_performNext hs)

theorem steps_execFrameLresult {f : Frame} (h : Formed deep s) : Steps deep (execFrameLresult f s) :=
  steps_event (formed_receive h fun _ hs => hs)

theorem steps_execFrameCancel {f : Frame} (h : Formed deep s) : Steps deep (execFrameCancel f s) :=
  steps_event (formed_receive h fun _ hs => formed_performNext hs)

theorem steps_execFrameReport {f : Frame} (h : Formed deep s) : Steps deep (execFrameReport f s) :=
  steps_event (formed_receive h fun _ hs => hs)

theorem formed_noteDrop (h : Formed deep s) : Formed deep (noteDrop s) := by
  unfold noteDrop
  exact formed_countDrop h

theorem steps_execFrameDamagedDrop {bytes : List Byte} {fcsError : Bool} (h : Formed deep s) :
    Steps deep (execFrameDamagedDrop bytes fcsError s) := steps_event (formed_ite h (formed_ite (formed_noteDrop h) (formed_ite h
      (formed_ite (formed_countDrop h) (formed_ite (formed_noteDrop h) (formed_ite (formed_countDrop h) h))))))

theorem formed_portDown {why : PortFailure} (h : Formed deep s) : Formed deep (portDown s why) := by
  unfold portDown
  exact formed_ite h (formed_foldl h fun _ _ hs => formed_netRefuse hs)

theorem steps_execPortDown {p : PortLoss} (h : Formed deep s) : Steps deep (execPortDown p s) := by
  unfold execPortDown
  refine steps_event ?_
  split
  · exact formed_portDown h
  · exact formed_chainDown h

theorem steps_execPortRetrainComplete (h : Formed deep s) : Steps deep (execPortRetrainComplete s) := steps_event (formed_ite h h)

theorem formed_noteHolds (h : Formed deep s) : Formed deep (noteHolds s) := by
  refine formed_same (formed_mapSaved (f := fun x =>
    match x.slot.item.bind (fun i => launchOf s i.queue i.ordinal) with
    | some l => if holdPassed s l then x else { x with since := s.cycle + 1 }
    | none => x) h fun x hx => ?_) rfl rfl rfl rfl
  split
  · split
    · exact hx
    · exact hx
  · exact hx

theorem formed_setFused {core : BitVec 8} {fuse : Bool} (h : Formed deep s) : Formed deep (setFused s core fuse) := by
  unfold setFused
  split
  · exact h
  · exact formed_ite h h

theorem formed_putSlot (h : Formed deep s) (ht : SlotForm deep t) : Formed deep (putSlot s t) := by
  unfold putSlot
  split
  · exact formed_setCur h ht
  · refine ⟨h.1, h.2.1, fun u hu => ?_, h.2.2.2⟩
    rcases List.mem_append.1 hu with hu | hu
    · exact h.2.2.1 u (List.mem_of_mem_filter hu)
    · exact List.mem_singleton.1 hu ▸ ht

theorem formed_occupy (h : Formed deep s) (ht : SlotForm deep t) : Formed deep (occupy s t) := formed_l1Invalidate (formed_putSlot h ht)

theorem formed_dispatchItem {u : DispatchUnit} {c : Nat} {slot : SlotId} (h : Formed deep s) : Formed deep
  (dispatchItem s u c slot) := by
  unfold dispatchItem
  refine formed_occupy (formed_setFused h) ?_
  dsimp only [SlotForm, slotSafe]
  change SlotForm deep _
  exact slotForm_dispatchedSlot

theorem formed_writeTrace {l : Launch} {first : Nat} {c : Nat} {slot : SlotId} (h : Formed deep s) :
    Formed deep (writeTrace s l first c slot) := by
  unfold writeTrace
  split
  · dsimp only
    exact formed_homeWrite h
  · exact h

theorem formed_startDet {q : BitVec 6} {l : Launch} (h : Formed deep s) : Formed deep (startDet s q l) :=
  formed_ite (formed_modLaunch (formed_zeroSpill h)) h

theorem formed_modWalker {die : Nat} {f : Walker → Walker} (h : Formed deep s) : Formed deep (modWalker s die f) := h

theorem formed_dropReservation {q : BitVec 6} {ord : Nat} (h : Formed deep s) : Formed deep (dropReservation s q ord) := by
  unfold dropReservation
  exact h

theorem formed_dispatchUnit {die : Nat} {u : DispatchUnit} (h : Formed deep s) : Formed deep (dispatchUnit s die u) := by
  unfold dispatchUnit
  exact formed_modWalker (formed_dropReservation (formed_modLaunch (formed_foldl (formed_startDet h) fun _ _ hs => formed_ite
    (formed_writeTrace (formed_dispatchItem hs)) (formed_dispatchItem hs))))

theorem formed_restWalkers (h : Formed deep s) : Formed deep (restWalkers s) := h

theorem steps_execWalkerStep {die : BitVec 2} (h : Formed deep s) : Steps deep (execWalkerStep die s) := by
  unfold execWalkerStep
  refine steps_event ?_
  dsimp only
  refine formed_ite h ?_
  split
  · split
    · exact h
    · exact formed_modWalker (formed_dispatchUnit h)
  · exact h

theorem steps_execTroupeReservation {die : BitVec 2} (h : Formed deep s) : Steps deep (execTroupeReservation die s) := by
  unfold execTroupeReservation
  refine steps_event ?_
  split
  · exact formed_ite h (formed_modWalker h)
  · exact h

theorem formed_noteUnplaceable (h : Formed deep s) : Formed deep (noteUnplaceable s) := by
  unfold noteUnplaceable
  exact formed_foldl h fun _ _ hs => formed_ite (formed_modLaunch hs) (formed_ite (formed_modLaunch hs) hs)

theorem steps_execItemRetire (h : Formed deep s) : Steps deep (execItemRetire c s) := by
  unfold execItemRetire
  refine steps_event ?_
  split
  · exact h
  · refine formed_ite h ?_
    split
    · exact h
    · dsimp only
      exact formed_ite (formed_foldl (formed_wantSwitch (formed_lapse (formed_modSlot (formed_returnEntries
        (formed_modLaunch h)) fun _ ht => ht))) fun _ _ hs => formed_removeItem hs) (formed_wantSwitch (formed_lapse (formed_modSlot
          (formed_returnEntries (formed_modLaunch h)) fun _ ht => ht)))

theorem formed_pinWrite {pins : List Pin} {va : Nat} {bs : List Byte} (h : Formed deep s) : Formed deep (pinWrite s pins va bs) := by
  unfold pinWrite
  split
  · exact formed_homeWrite h
  · exact h

theorem steps_execLaunchCompletion {queue : BitVec 6} {ordinal : Nat} (h : Formed deep s) :
    Steps deep (execLaunchCompletion queue ordinal s) := by
  unfold execLaunchCompletion
  refine steps_event ?_
  split
  · exact h
  · refine formed_ite h ?_
    exact formed_setQueue (formed_ite (formed_clearIndex (formed_ite (formed_pinWrite (formed_ite h (formed_pinWrite h)))
      (formed_ite h (formed_pinWrite h)))) (formed_ite (formed_pinWrite (formed_ite h (formed_pinWrite h))) (formed_ite h
        (formed_pinWrite h))))

end

end Sys2Proof.Machine

end

section
/-! SUPPORT. Saves and restores, management requests and power keep the forms -/

namespace Sys2Proof.Machine

section
variable {deep : Bool} {s : State} {t : Slot} {c : SlotId} {o : Opnd} {i : Instr}

theorem slotForm_resumeTime {z : Nat} (h : SlotForm deep t) : SlotForm deep (resumeTime t z) := by
  unfold resumeTime
  split
  · exact h
  · dsimp only
    exact h

theorem slotForm_stopSlot {cycle : Nat} (h : SlotForm deep t) : SlotForm deep (stopSlot t cycle) := h

theorem slotForm_restartGathers (h : SlotForm deep t) : SlotForm deep (restartGathers t) := h

theorem slotForm_resumeSlot {z : Nat} (h : SlotForm deep t) : SlotForm deep (resumeSlot t z) := by
  unfold resumeSlot
  refine slotForm_ite ?_ ?_
  · refine slotForm_resumeTime (slotForm_restartGathers ?_)
    dsimp only [SlotForm, slotSafe]
    change SlotForm deep _
    exact slotForm_refillFifos h
  · dsimp only [SlotForm, slotSafe]
    change SlotForm deep _
    exact slotForm_refillFifos h

theorem formed_latchWait (h : Formed deep s) : Formed deep (latchWait s c) := by
  unfold latchWait
  split
  · split
    · exact formed_ite (formed_waitEnd h) h
    · exact h
  · exact h

theorem steps_execSlotSwitch {core : BitVec 8} (h : Formed deep s) : Steps deep (execSlotSwitch core s) := by
  unfold execSlotSwitch
  refine steps_event (formed_ite h ?_)
  exact formed_ite (formed_setCore h) (formed_setCore (formed_modSlot (formed_modSlot (formed_latchWait h) fun _ ht =>
    slotForm_stopSlot ht) fun _ ht => slotForm_resumeSlot ht))

theorem steps_execBlockedSwitchTrigger {core : BitVec 8} (h : Formed deep s) : Steps deep (execBlockedSwitchTrigger core s) :=
  steps_event (formed_ite (formed_triggerSwitch h) h)

theorem steps_execPrioritySwitchTrigger {core : BitVec 8} (h : Formed deep s) : Steps deep (execPrioritySwitchTrigger core s) :=
  steps_event (formed_ite (formed_triggerSwitch h) h)

theorem steps_execTimeSliceSwitchTrigger {core : BitVec 8} (h : Formed deep s) : Steps deep (execTimeSliceSwitchTrigger core s) :=
  steps_event (formed_ite (formed_triggerSwitch h) h)

theorem formed_drainBarriers {r : OpRef} {n : Nat} (h : Formed deep s) : Formed deep (drainBarriers s r n) := by
  induction n generalizing s with
  | zero => exact h
  | succ n ih =>
    unfold drainBarriers
    split
    · exact ih (formed_barrierArrive h)
    · exact h

theorem slotForm_drainDeferred (h : SlotForm deep t) : SlotForm deep (drainDeferred t) :=
  slotForm_foldl h fun _ _ ht => slotForm_writeDeferred ht

theorem formed_drainSlot (h : Formed deep s) : Formed deep (drainSlot s t) :=
  formed_modSlot (formed_drainBarriers (formed_latchWait h)) fun _ ht => slotForm_drainDeferred ht

theorem formed_stopForSave (h : Formed deep s) : Formed deep (stopForSave s t) := by
  unfold stopForSave
  refine formed_modSlot (formed_drainSlot h) fun _ ht => ?_
  dsimp only
  dsimp only [SlotForm, slotSafe]
  change SlotForm deep _
  exact slotForm_stopSlot ht

theorem formed_modAreas {f : Nat → Nat} (h : Formed deep s) : Formed deep (modAreas s t f) := h

theorem slotForm_restHandles (h : SlotForm deep t) : SlotForm deep (restHandles t) := h

theorem slotForm_cipherState {encrypt : Bool} {serial : Nat} (h : SlotForm deep t) : SlotForm deep
  (cipherState s encrypt serial t) := by
  unfold cipherState
  exact slotForm_foldl h fun _ _ ht => slotForm_ite (slotForm_killState ht) (slotForm_zWrite ht)

theorem formed_saveSlot (h : Formed deep s) : Formed deep (saveSlot s c) := by
  unfold saveSlot
  split
  · exact h
  · next t ht =>
    have hrest : SlotForm deep (restHandles (stopSlot t s.cycle)) := slotForm_restHandles (slotForm_stopSlot (gives_slotOf h t ht))
    refine formed_freeSlot (formed_wantSwitch ?_)
    refine formed_setSaved h fun x hs => ?_
    rcases List.mem_append.1 hs with hs | hs
    · exact h.2.2.2 x hs
    · rw [List.mem_singleton.1 hs]
      exact slotForm_cipherState hrest

theorem formed_finishSave (h : Formed deep s) : Formed deep (finishSave s c) := by
  unfold finishSave
  split
  · exact h
  · dsimp only
    exact formed_ite (formed_foldl h fun _ _ hs => formed_saveSlot hs) h

theorem formed_finishSaves (h : Formed deep s) : Formed deep (finishSaves s) := formed_foldl h fun _ _ hs => formed_finishSave hs

theorem formed_saveUnit (h : Formed deep s) : Formed deep (saveUnit s t) := by
  unfold saveUnit
  exact formed_ite h (formed_finishSave (formed_foldl h fun _ _ hs => formed_stopForSave hs))

theorem formed_holdLaunch {q : BitVec 6} {ord : Nat} {why : HoldCause} (h : Formed deep s) : Formed deep (holdLaunch s q ord why) :=
  formed_modLaunch h

theorem formed_resumeLaunch {q : BitVec 6} {ord : Nat} (h : Formed deep s) : Formed deep (resumeLaunch s q ord) := formed_modLaunch h

theorem formed_preemptMid {q : BitVec 6} {ord : Nat} {why : HoldCause} {on : SlotId → Bool} (h : Formed deep s) :
    Formed deep (preemptMid s q ord why on) := by
  unfold preemptMid
  refine formed_foldl (formed_holdLaunch h) fun _ _ hs => ?_
  split
  · exact formed_ite (formed_saveUnit hs) hs
  · exact hs

theorem steps_execReservationPreempt {die : BitVec 2} (h : Formed deep s) : Steps deep (execReservationPreempt die s) := by
  unfold execReservationPreempt
  refine steps_event ?_
  split
  · exact formed_preemptMid h
  · exact h

theorem formed_modSaved {i : Nat} {f : Saved → Saved} (h : Formed deep s)
    (hf : ∀ x, SlotForm deep x.slot → SlotForm deep (f x).slot) : Formed deep (modSaved s i f) := by
  refine formed_setSaved h fun x hx => ?_
  obtain ⟨j, hj, rfl⟩ := List.mem_mapIdx.1 hx
  split
  · exact hf _ (h.2.2.2 _ (List.getElem_mem hj))
  · exact h.2.2.2 _ (List.getElem_mem hj)

theorem formed_modSavedOp {i : Nat} {id : Nat} {f : Op → Op} (h : Formed deep s) : Formed deep (modSavedOp s i id f) :=
  formed_modSaved h fun _ ht => slotForm_modOp ht

theorem gives_heldKv {i : Nat} {x : Saved} {die : Fin 2} (h : Formed deep s) : Gives (Formed deep) (heldKv s i x die) := by
  unfold heldKv
  dsimp only
  split
  · exact gives_none
  · refine gives_bind fun _ _ => ?_
    split
    · refine gives_bind fun _ _ => gives_ite gives_none ?_
      split
      · exact gives_none
      · next hx4 => exact gives_ite gives_none (gives_some (formed_modSavedOp (ends_checkKvLines (formed_dropArrival h)
          (formed_kvRun (formed_dropArrival h)) _ hx4)))
    · exact gives_none

theorem gives_heldReply {i : Nat} {x : Saved} (h : Formed deep s) : Gives (Formed deep) (heldReply s i x) := by
  unfold heldReply
  refine gives_bind fun _ _ => ?_
  split
  · exact gives_none
  · refine gives_ite gives_none ?_
    dsimp only
    split
    · split
      · exact gives_some (formed_engineFinish (formed_modSavedOp h))
      · exact gives_some (formed_modSavedOp h)
    · exact gives_some (formed_modSavedOp h)

theorem gives_heldAcceptance {i : Nat} {x : Saved} (h : Formed deep s) : Gives (Formed deep) (heldAcceptance s i x) :=
  gives_map fun _ _ => formed_modSavedOp h

theorem gives_heldCarry {i : Nat} {x : Saved} (h : Formed deep s) : Gives (Formed deep) (heldCarry s i x) := by
  unfold heldCarry
  exact gives_bind fun _ _ => gives_ite gives_none (gives_some (formed_answerCarry (formed_modSaved h fun _ ht => ht)))

theorem gives_heldNext {i : Nat} (h : Formed deep s) : Gives (Formed deep) (heldNext s i) := by
  unfold heldNext
  split
  · exact gives_none
  · exact gives_hOrElse (gives_heldKv h) (gives_hOrElse (gives_heldKv h) (gives_hOrElse (gives_heldReply h) (gives_hOrElse
      (gives_heldAcceptance h) (gives_heldCarry h))))

theorem steps_execHeldCompletion {i : Nat} (h : Formed deep s) : Steps deep (execHeldCompletion i s) :=
  steps_event (formed_getD (gives_heldNext h) h)

theorem formed_applyHeld {p : Nat × List Byte} (h : Formed deep s) : Formed deep (applyHeld s c p) := by
  unfold applyHeld
  split
  · exact h
  · split
    · dsimp only
      split
      · next hx3 => exact formed_netAdvance (ends_netFill h _ hx3)
      · exact formed_opFault h
      · exact h
    · exact h

theorem formed_applyCompletions (h : Formed deep s) : Formed deep (applyCompletions s c) := by
  unfold applyCompletions
  split
  · exact h
  · refine formed_foldl h fun _ _ hs => ?_
    split
    · exact hs
    · dsimp only
      exact formed_ite (formed_complete (formed_completeWork hs)) hs

theorem formed_restoreSlot {x : Saved} (h : Formed deep s) (hx : SlotForm deep x.slot) : Formed deep (restoreSlot s x c) := by
  unfold restoreSlot
  refine formed_modSlot (formed_foldl (formed_applyCompletions (formed_occupy (formed_setFused (formed_modAreas (formed_filterSaved h)))
    (slotForm_cipherState hx))) fun _ _ hs => formed_applyHeld hs) fun _ ht => ?_
  exact slotForm_ite (slotForm_resumeSlot ht) ht

theorem savedGang_saved {x y : Saved} (hx : x ∈ s.saved) (hy : y ∈ savedGang s x) : y ∈ s.saved := by
  unfold savedGang at hy
  split at hy
  · exact absurd hy List.not_mem_nil
  · split at hy
    · exact List.mem_singleton.1 hy ▸ hx
    · obtain ⟨r, _, hf⟩ := List.mem_filterMap.1 hy
      exact List.mem_of_mem_filter (List.mem_of_find?_eq_some hf)

theorem restoreTo_saved {n : Nat} {ps : List (Saved × SlotId)} (h : restoreTo s n = some ps) : ∀ p ∈ ps, p.1 ∈ s.saved := by
  intro p hp
  unfold restoreTo at h
  obtain ⟨x, hx, hf⟩ := Option.bind_eq_some_iff.1 h
  split at hf
  · exact nomatch hf
  · obtain ⟨l, _, hl⟩ := Option.bind_eq_some_iff.1 hf
    dsimp only at hl
    split at hl
    · exact nomatch hl
    · obtain ⟨cs, _, rfl⟩ := Option.map_eq_some_iff.1 hl
      exact savedGang_saved (List.mem_of_getElem? hx) (List.of_mem_zip hp).1

theorem formed_restoreAll {ps : List (Saved × SlotId)} (h : Formed deep s) (hps : ∀ p ∈ ps, SlotForm deep p.1.slot) :
    Formed deep (ps.foldl (fun s p => restoreSlot s p.1 p.2) s) := by
  exact formed_foldlMem h fun u p hp hu => formed_restoreSlot hu (hps p hp)

theorem steps_execRestore {n : Nat} (h : Formed deep s) : Steps deep (execRestore n s) := by
  unfold execRestore
  refine steps_event ?_
  split
  · exact h
  · next ps hps =>
    have hs := formed_restoreAll h fun p hp => h.2.2.2 p.1 (restoreTo_saved hps p hp)
    dsimp only
    split
    · exact formed_modWalker (formed_dropReservation hs)
    · exact hs

theorem formed_loseSaved {x : Saved} {section_ : Nat} (h : Formed deep s) : Formed deep (loseSaved s x section_) := by
  unfold loseSaved
  split
  · exact h
  · dsimp only
    exact formed_ite (formed_sendFrame (formed_oweItem (formed_dropSaved h))) (formed_endLaunch h)

theorem steps_execContextLost {section_ : Nat} (h : Formed deep s) : Steps deep (execContextLost c section_ s) := by
  unfold execContextLost
  refine steps_event (formed_ite h ?_)
  split
  · exact formed_loseSaved h
  · exact formed_ite (formed_takeFault h) h

theorem formed_logError {p : ErrorPlace} {corrected : Bool} (h : Formed deep s) : Formed deep (logError s p corrected) := by
  unfold logError
  exact h

theorem formed_strike {p : ErrorPlace} (h : Formed deep s) : Formed deep (strike s p) := by
  unfold strike
  split
  · exact h
  · exact formed_modSlot h fun _ ht => ht
  · dsimp only
    exact formed_ite h (formed_putBlock h)
  · exact formed_l1Drop h

theorem formed_drainLog {die : BitVec 2} (h : Formed deep s) : Formed deep (drainLog s die) := by
  unfold drainLog
  exact formed_ite h (formed_sendFrame h)

theorem steps_execScrub {f : Finding} (h : Formed deep s) : Steps deep (execScrub f s) := by
  unfold execScrub
  refine steps_event ?_
  split
  · exact formed_drainLog h
  · refine formed_logError ?_
    split
    · exact formed_strike h
    · exact h
  · exact formed_logError (formed_strike h)

theorem gives_firmwareRuns {f : Frame} {lines : List Nat} {run : State → State} (h : Formed deep s)
    (hrun : ∀ a0, Formed deep a0 → Formed deep (run a0)) :
    Gives (Formed deep) (firmwareRuns s f lines run) := by
  unfold firmwareRuns
  exact gives_ite (gives_some (hrun _ h)) gives_none

theorem steps_requestRun {m : MgmtHead} {code : BitVec 8} {lines : State → List Nat} {run : State → State} (h : Formed deep s)
    (hrun : ∀ a0, Formed deep a0 → Formed deep (run a0)) :
    Steps deep (requestRun s m code lines run) := by
  unfold requestRun
  exact steps_event (formed_ite (formed_receive h fun _ hs => formed_getD (gives_firmwareRuns hs fun _ hs1 => hrun _ hs1) hs) h)

theorem formed_answered {m : MgmtHead} {code : BitVec 8} {done : Option State} {more : List Byte} (h : Formed deep s)
    (hdone : Gives (Formed deep) done) :
    Formed deep (answered s m code done more) := by
  unfold answered
  split
  · exact formed_mgmtAnswer (hdone _ rfl)
  · dsimp only
    exact formed_mgmtAnswer h

theorem steps_request {m : MgmtHead} {code : BitVec 8} {done : State → Option State} {more : State → List Byte}
    (h : Formed deep s) (hdone : ∀ a0, Formed deep a0 → Gives (Formed deep) (done a0)) :
    Steps deep (request s m code done more) := steps_requestRun h fun _ hs => formed_answered hs (hdone _ hs)

theorem steps_execMgmtSetDevid {m : MgmtHead} {dev : BitVec 18} (h : Formed deep s) : Steps deep (execMgmtSetDevid m dev s) :=
  steps_request h fun _ hs => gives_ite (gives_some hs) gives_none

theorem steps_execMgmtWritePseed {m : MgmtHead} {seed : Word} (h : Formed deep s) : Steps deep (execMgmtWritePseed m seed s) :=
  steps_request h fun _ hs => gives_some hs

theorem steps_execMgmtTenant {m : MgmtHead} {tenant : BitVec 16} {create : Bool} {weight : BitVec 8} (h : Formed deep s) :
    Steps deep (execMgmtTenant m tenant create weight s) := by
  unfold execMgmtTenant
  exact steps_request h fun _ hs => gives_ite gives_none (gives_ite (gives_some hs) (gives_ite gives_none (gives_some hs)))

theorem steps_execMgmtAssignQueue {m : MgmtHead} {queue : BitVec 6} {tenant : BitVec 16} (h : Formed deep s) :
    Steps deep (execMgmtAssignQueue m queue tenant s) := steps_request h fun _ hs => gives_some (formed_setQueue hs)

theorem steps_execMgmtAccessTable {m : MgmtHead} {target : Target} {index : BitVec 10} {entry : Word} (h : Formed deep s) :
    Steps deep (execMgmtAccessTable m target index entry s) := by
  unfold execMgmtAccessTable
  exact steps_request h fun _ hs => gives_some hs

theorem steps_execMgmtCreateContext {m : MgmtHead} {tenant : BitVec 16} {context : BitVec 16} {root : BitVec 52}
    {saveAreas : Nat} (h : Formed deep s) :
    Steps deep (execMgmtCreateContext m tenant context root saveAreas s) := steps_request h fun _ hs => gives_ite gives_none
      (gives_some hs)

theorem slotForm_answeredPage {vpage : BitVec 40} (h : SlotForm deep t) : SlotForm deep (answeredPage t vpage) := h

theorem slotForm_pageMapped {tenant : BitVec 16} {context : BitVec 16} {vpage : BitVec 40} (h : SlotForm deep t) :
    SlotForm deep (pageMapped s tenant context vpage t) := by
  unfold pageMapped
  exact slotForm_ite (slotForm_ite (slotForm_resumeTime (slotForm_restartGathers (slotForm_answeredPage h)))
    (slotForm_answeredPage h)) h

theorem formed_pageDeclined {tenant : BitVec 16} {context : BitVec 16} {vpage : BitVec 40} (h : Formed deep s) :
    Formed deep (pageDeclined s tenant context vpage) := by
  unfold pageDeclined
  exact formed_foldl h fun _ _ hs => formed_ite (formed_endLaunch hs) hs

theorem formed_pagesAnswered {tenant context : BitVec 16} {vpage : BitVec 40} {mapped : Bool} (h : Formed deep s) :
    Formed deep (pagesAnswered s tenant context vpage mapped) := by
  unfold pagesAnswered
  dsimp only
  split
  · refine formed_mapSaved (formed_mapSlots h fun _ ht => slotForm_pageMapped ht) fun x hx => ?_
    split
    · exact slotForm_answeredPage hx
    · exact hx
  · exact formed_pageDeclined h

theorem steps_execMgmtPageFaultAnswer {m : MgmtHead} {tenant : BitVec 16} {context : BitVec 16} {vpage : BitVec 40}
    {mapped : Bool} (h : Formed deep s) :
    Steps deep (execMgmtPageFaultAnswer m tenant context vpage mapped s) := steps_request h fun _ hs => gives_some
      (formed_pagesAnswered hs)

theorem steps_execMgmtPreempt {m : MgmtHead} {queue : BitVec 6} {ordinal : Nat} {kind : PreemptKind} (h : Formed deep s) :
    Steps deep (execMgmtPreempt m queue ordinal kind s) := by
  unfold execMgmtPreempt
  refine steps_request h fun _ hs => gives_ite gives_none ?_
  split
  · exact gives_some (formed_holdLaunch hs)
  · exact gives_some (formed_preemptMid hs)
  · exact gives_some (formed_resumeLaunch hs)

theorem gives_leafWith {va level table : Nat} {levels : List Nat} (h : Formed deep s) :
    Gives (fun p => Formed deep p.1) (leafWith s va level table levels) := by
  induction levels generalizing s table with
  | nil => exact gives_none
  | cons lv rest ih =>
    unfold leafWith
    dsimp only
    split
    · exact gives_some h
    · split
      · exact ih (formed_homeWrite (formed_clearMem h))
      · split
        · exact gives_none
        · exact ih h
      · exact gives_none

theorem formed_startShootdown {x : Shootdown} (h : Formed deep s) : Formed deep (startShootdown s x) :=
  formed_ite (formed_shootdownEnd h) h

theorem formed_dropL1 {old : List Leaf} (h : Formed deep s) : Formed deep (dropL1 s old) := h

theorem formed_replaceLeaves {host : BitVec 18} {code : BitVec 8} {more : List Byte} {old : List (Leaf × Nat)} (h : Formed deep s) :
    Formed deep (replaceLeaves s host code more old) := by
  unfold replaceLeaves
  exact formed_ite (formed_mgmtAnswer (formed_dropL1 (formed_foldl h fun _ _ hs => formed_unloadClass hs)))
    (formed_foldl h fun _ _ hs => formed_unloadClass hs)

theorem gives_mapPages {host : BitVec 18} {tenant : BitVec 16} {context : BitVec 16} {va : Nat} {e : Nat} (h : Formed deep s) :
    Gives (Formed deep) (mapPages s host tenant context va e) := by
  unfold mapPages
  refine gives_bind fun _ _ => gives_bind fun _ _ => gives_map fun _ hx2 => ?_
  exact formed_replaceLeaves (formed_homeWrite (gives_leafWith h _ hx2))

theorem formed_laterDone {m : MgmtHead} {code : BitVec 8} {done : Option State} (h : Formed deep s)
    (hdone : Gives (Formed deep) done) :
    Formed deep (laterDone s m code done) := by
  unfold laterDone
  split
  · exact hdone _ rfl
  · exact formed_answered h hdone

theorem steps_execMgmtMapPages {m : MgmtHead} {tenant : BitVec 16} {context : BitVec 16} {va : BitVec 56} {entry : BitVec 128}
    (h : Formed deep s) :
    Steps deep (execMgmtMapPages m tenant context va entry s) := steps_requestRun h fun _ hs => formed_laterDone hs (gives_mapPages hs)

theorem gives_migrate {host : BitVec 18} {tenant : BitVec 16} {context : BitVec 16} {va : Nat} {pa : Nat} (h : Formed deep s) :
    Gives (Formed deep) (migrate s host tenant context va pa) := by
  unfold migrate
  refine gives_bind fun _ _ => gives_bind fun _ _ => gives_bind fun _ hx2 => ?_
  exact gives_ite gives_none (gives_some (formed_startShootdown (formed_homeWrite (gives_leafWith h _ hx2))))

theorem steps_execMgmtMigrate {m : MgmtHead} {tenant : BitVec 16} {context : BitVec 16} {va : BitVec 56} {pa : BitVec 52}
    (h : Formed deep s) :
    Steps deep (execMgmtMigrate m tenant context va pa s) := steps_requestRun h fun _ hs => formed_laterDone hs (gives_migrate hs)

theorem ends_translateFor {tenant : BitVec 16} {kind : BitVec 8} {lpf : List Byte} (h : Formed deep s) :
    Ends (fun p => Formed deep p.1) (translateFor s tenant kind lpf) := by
  unfold translateFor
  dsimp only
  split
  · exact ends_ok h
  · exact ends_map fun _ _ => formed_ite h h

theorem gives_mapCode {x : Context} {va pa n : Nat} (h : Formed deep s) :
    Gives (fun p => Formed deep p.1) (mapCode s x va pa n) := by
  induction n generalizing s va pa with
  | zero => exact gives_some h
  | succ n ih =>
    unfold mapCode
    exact gives_bind fun r hr => gives_map fun y hy => ih (formed_homeWrite (gives_leafWith h r hr)) y hy

theorem ends_objectCode {tenant : BitVec 16} {o : Config.CodeObject} {kind : BitVec 8} (h : Formed deep s) :
    Ends (fun p => Formed deep p.1) (objectCode s tenant o kind) := by
  unfold objectCode
  split
  · exact ends_ok h
  · exact ends_translateFor h

theorem gives_placeCode {host : BitVec 18} {c : Context} {dest : Nat} {pa : Nat} {code : List Byte} (h : Formed deep s) :
    Gives (Formed deep) (placeCode s host c dest pa code) := gives_map fun _ hx => formed_replaceLeaves (formed_homeWrite
      (gives_mapCode h _ hx))

theorem formed_loadObject {m : MgmtHead} {tenant : BitVec 16} {context : BitVec 16} {va : Nat} {dest : Nat} {len : Nat}
    {pa : Nat} {kind : BitVec 8} (h : Formed deep s) :
    Formed deep (loadObject s m tenant context va dest len pa kind) := by
  unfold loadObject
  dsimp only
  split
  · exact formed_answered h gives_none
  · split
    · exact formed_mgmtAnswer h
    · next hx2 => exact formed_laterDone h (gives_placeCode (ends_objectCode h _ hx2))

theorem steps_execMgmtLoadObject {m : MgmtHead} {tenant : BitVec 16} {context : BitVec 16} {va : BitVec 56} {dest : BitVec 56}
    {len : Nat} {pa : BitVec 52} {kind : BitVec 8} (h : Formed deep s) :
    Steps deep (execMgmtLoadObject m tenant context va dest len pa kind s) := steps_requestRun h fun _ hs => formed_loadObject hs

theorem steps_execMgmtAttestation {m : MgmtHead} {nonce : BitVec 256} {tenant : BitVec 16} (h : Formed deep s) :
    Steps deep (execMgmtAttestation m nonce tenant s) := steps_request h fun _ hs => gives_some hs

theorem steps_execMgmtPowerCap {m : MgmtHead} {watts : Nat} (h : Formed deep s) : Steps deep (execMgmtPowerCap m watts s) :=
  steps_request h fun _ hs => gives_ite gives_none (gives_some hs)

theorem steps_execMgmtQueryQueue {m : MgmtHead} {die : Bool} {queue : BitVec 5} {tenant : BitVec 16} {capacity : Nat}
    (h : Formed deep s) :
    Steps deep (execMgmtQueryQueue m die queue tenant capacity s) := by
  unfold execMgmtQueryQueue
  exact steps_request h fun _ hs => gives_some (formed_putQueue hs)

theorem steps_execMgmtLinkParameters {m : MgmtHead} {port : PortId} {backoff : BitVec 16} {retransmit : Nat}
    {vlan : Option (BitVec 12)} (h : Formed deep s) :
    Steps deep (execMgmtLinkParameters m port backoff retransmit vlan s) := by
  unfold execMgmtLinkParameters
  refine steps_request h fun _ hs => gives_ite gives_none ?_
  split
  · exact gives_ite gives_none (gives_some hs)
  · dsimp only
    exact gives_some hs
  · exact gives_map fun _ _ => hs

theorem steps_execMgmtPinPartition {m : MgmtHead} {ways : Nat} (h : Formed deep s) : Steps deep (execMgmtPinPartition m ways s) :=
  steps_request h fun _ hs => gives_ite (gives_some hs) gives_none

theorem steps_execMgmtSpillGrant {m : MgmtHead} {grant : Option (Word × Nat)} (h : Formed deep s) :
    Steps deep (execMgmtSpillGrant m grant s) := steps_request h fun _ hs => gives_some hs

theorem steps_execMgmtSigningKeys {m : MgmtHead} {tenant : BitVec 16} {keyHash : BitVec 256} {enrol : Bool} {quota : Nat}
    (h : Formed deep s) :
    Steps deep (execMgmtSigningKeys m tenant keyHash enrol quota s) := by
  unfold execMgmtSigningKeys
  exact steps_request h fun _ hs => gives_ite gives_none (gives_some hs)

theorem steps_execDerailleurMoveStart {die : Bool} {bucket : BitVec 12} {target : BitVec 6} (h : Formed deep s) :
    Steps deep (execDerailleurMoveStart die bucket target s) := by
  unfold execDerailleurMoveStart
  refine steps_event (formed_ite h ?_)
  dsimp only
  dsimp only [Formed]
  change Formed deep _
  exact formed_setTable h

theorem steps_execDerailleurHold {die : Bool} (h : Formed deep s) : Steps deep (execDerailleurHold die s) := by
  unfold execDerailleurHold
  refine steps_event ?_
  split
  · exact h
  · exact formed_ite h h

theorem steps_execDerailleurFlush {die : Bool} (h : Formed deep s) : Steps deep (execDerailleurFlush die s) := by
  unfold execDerailleurFlush
  refine steps_event ?_
  split
  · exact h
  · refine formed_ite h ?_
    dsimp only
    dsimp only [Formed]
    change Formed deep _
    exact formed_setTable (formed_foldl h fun _ _ hs => formed_evictLine hs)

theorem steps_execDerailleurRelease {die : Bool} (h : Formed deep s) : Steps deep (execDerailleurRelease die s) := by
  unfold execDerailleurRelease
  refine steps_event ?_
  split
  · exact h
  · refine formed_ite h ?_
    dsimp only
    dsimp only [Formed]
    change Formed deep _
    exact formed_setTable h

theorem steps_execFlitReceive {link : UcieLink} {u : LinkUnit} (h : Formed deep s) : Steps deep (execFlitReceive link u s) := by
  unfold execFlitReceive
  exact steps_event (formed_ite h h)

theorem formed_packageFails (h : Formed deep s) : Formed deep (packageFails s) := by
  unfold packageFails
  exact formed_foldl h fun _ _ hs => formed_endLaunch hs

theorem formed_ucieRetrains {link : UcieLink} {succeeds : Bool} (h : Formed deep s) : Formed deep (ucieRetrains s link succeeds) := by
  unfold ucieRetrains
  exact formed_ite h (formed_ite (formed_packageFails h) h)

theorem steps_execLinkRetrain {link : RetrainedLink} {succeeds : Bool} (h : Formed deep s) :
    Steps deep (execLinkRetrain link succeeds s) := by
  unfold execLinkRetrain
  refine steps_event ?_
  split
  · exact formed_ucieRetrains h
  · exact formed_ite (formed_chainUp h) h

theorem formed_powerOff : Formed deep (powerOff s) := by
  unfold powerOff
  exact formed_reset

theorem formed_powerGood : Formed deep (powerGood s) := by
  unfold powerGood
  exact formed_reset

theorem formed_bootUnit {n : Nat} (h : Formed deep s) : Formed deep (bootUnit s n) := by
  unfold bootUnit
  refine formed_ite h (formed_ite h (formed_ite h (formed_ite ?_ (formed_ite h (formed_ite h h)))))
  exact formed_setMem h fun _ => rfl

theorem formed_bootTo {n : Nat} (h : Formed deep s) : Formed deep (bootTo s n) := by
  unfold bootTo
  exact formed_bootUnit h

theorem steps_execPowerUp {unit : Nat} (h : Formed deep s) : Steps deep (execPowerUp unit s) :=
  steps_next (formed_ite (formed_ite formed_powerGood h) (formed_ite (formed_bootTo h) h))

theorem steps_execPowerRemoval (h : Formed deep s) : Steps deep (execPowerRemoval s) := steps_event formed_powerOff

theorem steps_execMgmtPackageReset {m : MgmtHead} (h : Formed deep s) : Steps deep (execMgmtPackageReset m s) := by
  unfold execMgmtPackageReset
  refine steps_requestRun h fun _ _ => ?_
  dsimp only
  dsimp only [Formed]
  change Formed deep _
  exact formed_powerGood

theorem steps_execBootHandshake {reply : HostReply} {version : BitVec 32} {image : List Byte} {signature : List Byte}
    (h : Formed deep s) :
    Steps deep (execBootHandshake reply version image signature s) := by
  unfold execBootHandshake
  refine steps_event (formed_ite h ?_)
  exact formed_ite (formed_bootTo h) h

theorem formed_setWithheld {die : BitVec 2} {stop : Bool} (h : Formed deep s) : Formed deep (setWithheld s die stop) := h

theorem steps_execThermalWithhold {die : BitVec 2} {celsius : Nat} (h : Formed deep s) :
    Steps deep (execThermalWithhold die celsius s) := steps_event (formed_ite (formed_setWithheld h) (formed_ite
      (formed_setWithheld h) h))

theorem steps_execThermalPreempt {die : BitVec 2} {celsius : Nat} (h : Formed deep s) :
    Steps deep (execThermalPreempt die celsius s) := by
  unfold execThermalPreempt
  refine steps_event (formed_ite h ?_)
  exact formed_foldl (formed_setWithheld h) fun _ _ hs => formed_preemptMid hs

theorem steps_execThermalTrip {celsius : Nat} (h : Formed deep s) : Steps deep (execThermalTrip celsius s) :=
  steps_event (formed_ite formed_powerOff h)

theorem steps_execPowerCapCheck {watts : Nat} (h : Formed deep s) : Steps deep (execPowerCapCheck watts s) :=
  steps_event (formed_ite h h)

end

end Sys2Proof.Machine

end

section
/-! SUPPORT. Vector instructions keep the forms, and so does the execution of every instruction -/

namespace Sys2Proof.Machine

section
variable {deep : Bool} {s : State} {t : Slot} {c : SlotId} {o : Opnd} {i : Instr}

theorem ends_optional {α β ε : Type} {p : α → Prop} {q : Prop} [Decidable q] {x y : Except ε β} {f : β → Except ε α}
    (h : ∀ a, Ends p (f a)) : Ends p (if q then x >>= f else y >>= f) :=
  ends_ite (ends_bind fun a _ => h a) (ends_bind fun a _ => h a)

theorem steps_vectorOp {v : VecForm} {f : VecSrc → Nat → Nat × BitVec 6} (h : Formed deep s) : Steps deep (vectorOp o s v f) := by
  unfold vectorOp
  refine steps_issue h (ends_optional fun _ => ends_optional fun _ => ends_optional fun _ => ends_optional fun _ =>
    ends_optional fun _ => ends_bind fun _ _ => ends_bind fun _ _ => ends_bind fun _ _ => ends_pure ?_)
  exact formed_ite (formed_finishL h) (formed_finishV h)

theorem steps_vecFloat {long : Bool} {op : BitVec 6 → NumVal → NumVal → NumVal × BitVec 6} (h : Formed deep s) :
    Steps deep (vecFloat o s long op) := by
  unfold vecFloat
  exact steps_vectorOp h

theorem steps_execVadd (h : Formed deep s) : Steps deep (execVadd o s) := steps_vecFloat h

theorem steps_execVsub (h : Formed deep s) : Steps deep (execVsub o s) := steps_vecFloat h

theorem steps_execVmul (h : Formed deep s) : Steps deep (execVmul o s) := steps_vecFloat h

theorem steps_execVdiv (h : Formed deep s) : Steps deep (execVdiv o s) := steps_vecFloat h

theorem steps_execVfma (h : Formed deep s) : Steps deep (execVfma o s) := by
  unfold execVfma
  exact steps_vectorOp h

theorem steps_vecMinMax {isMax : Bool} (h : Formed deep s) : Steps deep (vecMinMax o s isMax) := by
  unfold vecMinMax
  exact steps_vectorOp h

theorem steps_execVmin (h : Formed deep s) : Steps deep (execVmin o s) := steps_vecMinMax h

theorem steps_execVmax (h : Formed deep s) : Steps deep (execVmax o s) := steps_vecMinMax h

theorem steps_vecInt {op : Int → Int → Int} (h : Formed deep s) : Steps deep (vecInt o s op) := by
  unfold vecInt
  exact steps_vectorOp h

theorem steps_execViadd (h : Formed deep s) : Steps deep (execViadd o s) := steps_vecInt h

theorem steps_execVisub (h : Formed deep s) : Steps deep (execVisub o s) := steps_vecInt h

theorem steps_vecBits {op : Nat → Nat → Nat} (h : Formed deep s) : Steps deep (vecBits o s op) := by
  unfold vecBits
  exact steps_vectorOp h

theorem steps_execVand (h : Formed deep s) : Steps deep (execVand o s) := steps_vecBits h

theorem steps_execVor (h : Formed deep s) : Steps deep (execVor o s) := steps_vecBits h

theorem steps_execVxor (h : Formed deep s) : Steps deep (execVxor o s) := steps_vecBits h

theorem steps_execVshl (h : Formed deep s) : Steps deep (execVshl o s) := by
  unfold execVshl
  exact steps_vectorOp h

theorem steps_execVshr (h : Formed deep s) : Steps deep (execVshr o s) := by
  unfold execVshr
  exact steps_vectorOp h

theorem steps_vecSign {neg : Bool} (h : Formed deep s) : Steps deep (vecSign o s neg) := by
  unfold vecSign
  exact steps_vectorOp h

theorem steps_execVabs (h : Formed deep s) : Steps deep (execVabs o s) := steps_vecSign h

theorem steps_execVneg (h : Formed deep s) : Steps deep (execVneg o s) := steps_vecSign h

theorem steps_vecFunction {latency : Nat} {op : NumVal → NumVal × BitVec 6} (h : Formed deep s) :
    Steps deep (vecFunction o s latency op) := by
  unfold vecFunction
  exact steps_vectorOp h

theorem steps_execVsqrt (h : Formed deep s) : Steps deep (execVsqrt o s) := steps_vecFunction h

theorem steps_execVrsqrt (h : Formed deep s) : Steps deep (execVrsqrt o s) := steps_vecFunction h

theorem steps_execVrcp (h : Formed deep s) : Steps deep (execVrcp o s) := steps_vecFunction h

theorem steps_execVexp2 (h : Formed deep s) : Steps deep (execVexp2 o s) := steps_vecFunction h

theorem steps_execVlog2 (h : Formed deep s) : Steps deep (execVlog2 o s) := steps_vecFunction h

theorem steps_execVcvt (h : Formed deep s) : Steps deep (execVcvt o s) := by
  unfold execVcvt
  refine steps_issue h ?_
  exact ends_ite (ends_bind fun _ _ => ends_bind fun _ _ => ends_bind fun _ _ => ends_bind fun _ _ => ends_bind fun _ _ => ends_bind
    fun _ _ => ends_pure (formed_finishV h)) (ends_bind fun _ _ => ends_bind fun _ _ => ends_bind fun _ _ => ends_bind fun _ _ =>
      ends_bind fun _ _ => ends_bind fun _ _ => ends_pure (formed_finishV h))

theorem steps_execVcmp (h : Formed deep s) : Steps deep (execVcmp o s) := by
  unfold execVcmp
  exact steps_vectorOp h

theorem steps_execVsel (h : Formed deep s) : Steps deep (execVsel o s) := by
  unfold execVsel
  exact steps_vectorOp h

theorem steps_execVdot4 (h : Formed deep s) : Steps deep (execVdot4 o s) := by
  unfold execVdot4
  exact steps_vectorOp h

theorem steps_execVshape (h : Formed deep s) : Steps deep (execVshape o s) :=
  steps_issue h (ends_ok (formed_advance (formed_onCur h fun _ ht => ht)))

theorem steps_execVshapeRd (h : Formed deep s) : Steps deep (execVshapeRd o s) :=
  steps_issue h (ends_bind fun _ _ => ends_pure (formed_finishG h))

theorem slotForm_writeK {k : BitVec 6} {x : Int} (h : SlotForm deep t) : SlotForm deep (writeK t k x) := by
  unfold writeK
  exact slotForm_ite h h

theorem steps_execKset (h : Formed deep s) : Steps deep (execKset o s) :=
  steps_issue h (ends_bind fun _ _ => ends_pure (formed_advance (formed_onCur h fun _ ht => slotForm_writeK ht)))

theorem steps_execKadd (h : Formed deep s) : Steps deep (execKadd o s) :=
  steps_issue h (ends_bind fun _ _ => ends_pure (formed_advance (formed_onCur h fun _ ht => slotForm_writeK ht)))

theorem steps_execKmin (h : Formed deep s) : Steps deep (execKmin o s) :=
  steps_issue h (ends_ok (formed_advance (formed_onCur h fun _ ht => slotForm_writeK ht)))

theorem steps_execVred (h : Formed deep s) : Steps deep (execVred o s) := by
  unfold execVred
  refine steps_issue h ?_
  exact ends_bind fun _ _ => ends_bind fun _ _ => ends_bind fun _ _ => ends_ite (ends_bind fun _ _ => ends_pure (formed_finishL h))
    (ends_bind fun _ _ => ends_pure (formed_finishL h))

theorem steps_execVscan (h : Formed deep s) : Steps deep (execVscan o s) := by
  unfold execVscan
  refine steps_issue h ?_
  exact ends_bind fun _ _ => ends_bind fun _ _ => ends_bind fun _ _ => ends_bind fun _ _ => ends_pure (formed_finishL h)

theorem steps_execVshuf (h : Formed deep s) : Steps deep (execVshuf o s) := by
  unfold execVshuf
  exact steps_vectorOp h

theorem steps_execVbcastG (h : Formed deep s) : Steps deep (execVbcastG o s) := by
  unfold execVbcastG
  exact steps_issue h (ends_bind fun _ _ => ends_bind fun _ _ => ends_bind fun _ _ => ends_pure (formed_finishV h))

theorem steps_execVbcastImm (h : Formed deep s) : Steps deep (execVbcastImm o s) := by
  unfold execVbcastImm
  exact steps_vectorOp h

theorem steps_execVbcastRow (h : Formed deep s) : Steps deep (execVbcastRow o s) := by
  unfold execVbcastRow
  exact steps_vectorOp h

theorem steps_execVbcastCol (h : Formed deep s) : Steps deep (execVbcastCol o s) := by
  unfold execVbcastCol
  exact steps_vectorOp h

theorem steps_execVtrans (h : Formed deep s) : Steps deep (execVtrans o s) := by
  unfold execVtrans
  exact steps_issue h (ends_bind fun _ _ => ends_bind fun _ _ => ends_bind fun _ _ => ends_pure (formed_finishL h))

theorem steps_execVmove (h : Formed deep s) : Steps deep (execVmove o s) := by
  unfold execVmove
  exact steps_vectorOp h

theorem steps_execVmoveTog (h : Formed deep s) : Steps deep (execVmoveTog o s) := by
  unfold execVmoveTog
  exact steps_issue h (ends_bind fun _ _ => ends_bind fun _ _ => ends_bind fun _ _ => ends_pure (formed_finishG h))

theorem steps_execVmoveFromg (h : Formed deep s) : Steps deep (execVmoveFromg o s) := by
  unfold execVmoveFromg
  exact steps_issue h (ends_bind fun _ _ => ends_bind fun _ _ => ends_bind fun _ _ => ends_pure (formed_finishV h))

theorem steps_execVidx (h : Formed deep s) : Steps deep (execVidx o s) := by
  unfold execVidx
  refine steps_issue h ?_
  exact ends_bind fun _ _ => ends_bind fun _ _ => ends_bind fun _ _ => ends_bind fun _ _ => ends_pure (formed_finishV h)

theorem steps_execVrand (h : Formed deep s) : Steps deep (execVrand o s) := by
  unfold execVrand
  refine steps_issue h ?_
  exact ends_bind fun _ _ => ends_bind fun _ _ => ends_bind fun _ _ => ends_bind fun _ _ => ends_pure (formed_finishL h)

theorem steps_execTrunpack (h : Formed deep s) : Steps deep (execTrunpack o s) := by
  unfold execTrunpack
  refine steps_issue h (ends_bind fun _ _ => ends_bind fun _ _ => ends_bind fun _ _ => ?_)
  split
  · exact ends_raise
  · exact ends_bind fun _ _ => ends_pure (formed_finishV h)

theorem steps_tritPack {digit : Int → Int × BitVec 6} (h : Formed deep s) : Steps deep (tritPack o s digit) := by
  unfold tritPack
  refine steps_issue h ?_
  exact ends_bind fun _ _ => ends_bind fun _ _ => ends_bind fun _ _ => ends_bind fun _ _ => ends_pure (formed_finishV h)

theorem steps_execTrpack (h : Formed deep s) : Steps deep (execTrpack o s) := steps_tritPack h

theorem steps_execTrsplit (h : Formed deep s) : Steps deep (execTrsplit o s) := steps_tritPack h

theorem steps_exec (h : Formed deep s) : Steps deep (exec i s) := by
  cases i with
  | nop => exact steps_execNop h
  | endCtl => exact steps_execEndCtl h
  | br => exact steps_execBr h
  | brc => exact steps_execBrc h
  | bri => exact steps_execBri h
  | call => exact steps_execCall h
  | ret => exact steps_execRet h
  | loop => exact steps_execLoop h
  | trap => exact steps_execTrap h
  | sysrd => exact steps_execSysrd h
  | sysrdFlags => exact steps_execSysrdFlags h
  | syswr => exact steps_execSyswr h
  | syswrMode => exact steps_execSyswrMode h
  | syswrBfmt => exact steps_execSyswrBfmt h
  | syswrFlags => exact steps_execSyswrFlags h
  | syswrStampb => exact steps_execSyswrStampb h
  | syswrTrapv => exact steps_execSyswrTrapv h
  | getmode => exact steps_execGetmode h
  | setmode => exact steps_execSetmode h
  | signrd => exact steps_execSignrd h
  | feat => exact steps_execFeat h
  | rdtime => exact steps_execRdtime h
  | stamp => exact steps_execStamp h
  | yield => exact steps_execYield h
  | launch => exact steps_execLaunch h
  | cancel => exact steps_execCancel h
  | cancelItem => exact steps_execCancelItem h
  | runMx => exact steps_execRunMx h
  | runCp => exact steps_execRunCp h
  | add => exact steps_execAdd h
  | addi => exact steps_execAddi h
  | sub => exact steps_execSub h
  | mul => exact steps_execMul h
  | mulh => exact steps_execMulh h
  | div => exact steps_execDiv h
  | rem => exact steps_execRem h
  | and => exact steps_execAnd h
  | or => exact steps_execOr h
  | xor => exact steps_execXor h
  | shl => exact steps_execShl h
  | shr => exact steps_execShr h
  | sar => exact steps_execSar h
  | rot => exact steps_execRot h
  | min => exact steps_execMin h
  | max => exact steps_execMax h
  | abs => exact steps_execAbs h
  | sel => exact steps_execSel h
  | cmp => exact steps_execCmp h
  | clz => exact steps_execClz h
  | popc => exact steps_execPopc h
  | bfx => exact steps_execBfx h
  | bfi => exact steps_execBfi h
  | li => exact steps_execLi h
  | mov => exact steps_execMov h
  | addr => exact steps_execAddr h
  | cvt => exact steps_execCvt h
  | fadd => exact steps_execFadd h
  | fmul => exact steps_execFmul h
  | ffma => exact steps_execFfma h
  | fmin => exact steps_execFmin h
  | fmax => exact steps_execFmax h
  | fcmp => exact steps_execFcmp h
  | ld => exact steps_execLd h
  | st => exact steps_execSt h
  | stT => exact steps_execStT h
  | ldv => exact steps_execLdv h
  | stv => exact steps_execStv h
  | ldfe => exact steps_execLdfe h
  | stfe => exact steps_execStfe h
  | feset => exact steps_execFeset h
  | feclr => exact steps_execFeclr h
  | fepeek => exact steps_execFepeek h
  | xlat => exact steps_execXlat h
  | hrel => exact steps_execHrel h
  | hinfo => exact steps_execHinfo h
  | atom => exact steps_execAtom h
  | cas => exact steps_execCas h
  | xchg => exact steps_execXchg h
  | mark => exact steps_execMark h
  | fenceAcq => exact steps_execFenceAcq h
  | fenceRel => exact steps_execFenceRel h
  | fenceAr => exact steps_execFenceAr h
  | fenceWack => exact steps_execFenceWack h
  | wait => exact steps_execWait h
  | qpub => exact steps_execQpub h
  | qpubOff => exact steps_execQpubOff h
  | bararr => exact steps_execBararr h
  | barexp => exact steps_execBarexp h
  | gather => exact steps_execGather h
  | cinv => exact steps_execCinv h
  | cwb => exact steps_execCwb h
  | pref => exact steps_execPref h
  | vadd => exact steps_execVadd h
  | vsub => exact steps_execVsub h
  | vmul => exact steps_execVmul h
  | vfma => exact steps_execVfma h
  | vmin => exact steps_execVmin h
  | vmax => exact steps_execVmax h
  | vabs => exact steps_execVabs h
  | vneg => exact steps_execVneg h
  | vdiv => exact steps_execVdiv h
  | vsqrt => exact steps_execVsqrt h
  | vrsqrt => exact steps_execVrsqrt h
  | vrcp => exact steps_execVrcp h
  | vexp2 => exact steps_execVexp2 h
  | vlog2 => exact steps_execVlog2 h
  | vcvt => exact steps_execVcvt h
  | vcmp => exact steps_execVcmp h
  | vsel => exact steps_execVsel h
  | vand => exact steps_execVand h
  | vor => exact steps_execVor h
  | vxor => exact steps_execVxor h
  | vshl => exact steps_execVshl h
  | vshr => exact steps_execVshr h
  | viadd => exact steps_execViadd h
  | visub => exact steps_execVisub h
  | vdot4 => exact steps_execVdot4 h
  | vred => exact steps_execVred h
  | vscan => exact steps_execVscan h
  | vshuf => exact steps_execVshuf h
  | vbcastG => exact steps_execVbcastG h
  | vbcastImm => exact steps_execVbcastImm h
  | vbcastRow => exact steps_execVbcastRow h
  | vbcastCol => exact steps_execVbcastCol h
  | vtrans => exact steps_execVtrans h
  | vmove => exact steps_execVmove h
  | vmoveTog => exact steps_execVmoveTog h
  | vmoveFromg => exact steps_execVmoveFromg h
  | vshape => exact steps_execVshape h
  | vshapeRd => exact steps_execVshapeRd h
  | kset => exact steps_execKset h
  | kadd => exact steps_execKadd h
  | kmin => exact steps_execKmin h
  | vidx => exact steps_execVidx h
  | vrand => exact steps_execVrand h
  | trpack => exact steps_execTrpack h
  | trunpack => exact steps_execTrunpack h
  | trsplit => exact steps_execTrsplit h
  | sopset => exact steps_execSopset h
  | scanl => exact steps_execScanl h
  | scan => exact steps_execScan h
  | sstep => exact steps_execSstep h
  | sld => exact steps_execSld h
  | sst => exact steps_execSst h
  | sbind => exact steps_execSbind h
  | sbindNew => exact steps_execSbindNew h
  | sspill => exact steps_execSspill h
  | sfill => exact steps_execSfill h
  | chsend => exact steps_execChsend h
  | chrecv => exact steps_execChrecv h
  | kvopen => exact steps_execKvopen h
  | kvclose => exact steps_execKvclose h
  | kvfork => exact steps_execKvfork h
  | kvappend => exact steps_execKvappend h
  | kvevict => exact steps_execKvevict h
  | kvcompact => exact steps_execKvcompact h
  | kvmap => exact steps_execKvmap h
  | kvmapV => exact steps_execKvmapV h
  | kvdraft => exact steps_execKvdraft h
  | kvaccept => exact steps_execKvaccept h
  | kvreject => exact steps_execKvreject h
  | kvprefixLook => exact steps_execKvprefixLook h
  | kvprefixIns => exact steps_execKvprefixIns h
  | qsend => exact steps_execQsend h
  | qsendReply => exact steps_execQsendReply h
  | adot => exact steps_execAdot h
  | aacc => exact steps_execAacc h
  | mxldw => exact steps_execMxldw h
  | mxacc => exact steps_execMxacc h
  | mxdrain => exact steps_execMxdrain h
  | mxzero => exact steps_execMxzero h
  | mxperm => exact steps_execMxperm h
  | mxred => exact steps_execMxred h
  | mxtrn => exact steps_execMxtrn h
  | mxsave => exact steps_execMxsave h
  | mxrest => exact steps_execMxrest h
  | mxstamp => exact steps_execMxstamp h
  | mxend => exact steps_execMxend h
  | cpy => exact steps_execCpy h
  | cpyind => exact steps_execCpyind h
  | cpyfifo => exact steps_execCpyfifo h
  | cpynet => exact steps_execCpynet h
  | cpyfill => exact steps_execCpyfill h
  | rcfence => exact steps_execRcfence h
  | cpyend => exact steps_execCpyend h
  | matrixIterationStart => exact steps_execMatrixIterationStart h
  | tileRowLand => exact steps_execTileRowLand h
  | recordComplete => exact steps_execRecordComplete h
  | deferredWrite => exact steps_execDeferredWrite h
  | streamUnblock => exact steps_execStreamUnblock h
  | waitReturn => exact steps_execWaitReturn h
  | waitTimeout => exact steps_execWaitTimeout h
  | xlatCacheHitFill => exact steps_execXlatCacheHitFill h
  | translationWalkComplete => exact steps_execTranslationWalkComplete h
  | shootdownInvalidation => exact steps_execShootdownInvalidation h
  | shootdownAck => exact steps_execShootdownAck h
  | homeSliceRequest => exact steps_execHomeSliceRequest h
  | backoffResend => exact steps_execBackoffResend h
  | derailleurMoveStart => exact steps_execDerailleurMoveStart h
  | derailleurHold => exact steps_execDerailleurHold h
  | derailleurFlush => exact steps_execDerailleurFlush h
  | derailleurRelease => exact steps_execDerailleurRelease h
  | gatherLineReply => exact steps_execGatherLineReply h
  | copyElement => exact steps_execCopyElement h
  | scanUnitStart => exact steps_execScanUnitStart h
  | scanComplete => exact steps_execScanComplete h
  | scanHubCombine => exact steps_execScanHubCombine h
  | pannierTransferComplete => exact steps_execPannierTransferComplete h
  | carryArrival => exact steps_execCarryArrival h
  | acceptancePacketArrival => exact steps_execAcceptancePacketArrival h
  | chainPacket => exact steps_execChainPacket h
  | kvopenAtSlice0 => exact steps_execKvopenAtSlice0 h
  | kvOperationPerform => exact steps_execKvOperationPerform h
  | deadHandleBroadcast => exact steps_execDeadHandleBroadcast h
  | tierMove => exact steps_execTierMove h
  | queryEntryEnqueue => exact steps_execQueryEntryEnqueue h
  | queryDelivery => exact steps_execQueryDelivery h
  | queryReplyArrival => exact steps_execQueryReplyArrival h
  | qpubForward => exact steps_execQpubForward h
  | barrierHomeUpdate => exact steps_execBarrierHomeUpdate h
  | barrierPhaseSignal => exact steps_execBarrierPhaseSignal h
  | walkerStep => exact steps_execWalkerStep h
  | troupeReservation => exact steps_execTroupeReservation h
  | reservationPreempt => exact steps_execReservationPreempt h
  | itemRetire => exact steps_execItemRetire h
  | launchCompletion => exact steps_execLaunchCompletion h
  | slotSwitch => exact steps_execSlotSwitch h
  | blockedSwitchTrigger => exact steps_execBlockedSwitchTrigger h
  | prioritySwitchTrigger => exact steps_execPrioritySwitchTrigger h
  | timeSliceSwitchTrigger => exact steps_execTimeSliceSwitchTrigger h
  | asyncEventTake => exact steps_execAsyncEventTake h
  | heldCompletion => exact steps_execHeldCompletion h
  | restore => exact steps_execRestore h
  | contextLost => exact steps_execContextLost h
  | scrub => exact steps_execScrub h
  | framePut => exact steps_execFramePut h
  | frameGetreq => exact steps_execFrameGetreq h
  | frameGetdata => exact steps_execFrameGetdata h
  | frameAck => exact steps_execFrameAck h
  | frameNak => exact steps_execFrameNak h
  | frameLaunch => exact steps_execFrameLaunch h
  | frameLresult => exact steps_execFrameLresult h
  | frameCancel => exact steps_execFrameCancel h
  | frameReport => exact steps_execFrameReport h
  | frameRefuse => exact steps_execFrameRefuse h
  | frameDamagedDrop => exact steps_execFrameDamagedDrop h
  | ackTimer => exact steps_execAckTimer h
  | retransmitTimeout => exact steps_execRetransmitTimeout h
  | portDown => exact steps_execPortDown h
  | portRetrainComplete => exact steps_execPortRetrainComplete h
  | mgmtSetDevid => exact steps_execMgmtSetDevid h
  | mgmtWritePseed => exact steps_execMgmtWritePseed h
  | mgmtTenant => exact steps_execMgmtTenant h
  | mgmtAssignQueue => exact steps_execMgmtAssignQueue h
  | mgmtAccessTable => exact steps_execMgmtAccessTable h
  | mgmtCreateContext => exact steps_execMgmtCreateContext h
  | mgmtPageFaultAnswer => exact steps_execMgmtPageFaultAnswer h
  | mgmtPreempt => exact steps_execMgmtPreempt h
  | mgmtLoadObject => exact steps_execMgmtLoadObject h
  | mgmtAttestation => exact steps_execMgmtAttestation h
  | mgmtPowerCap => exact steps_execMgmtPowerCap h
  | mgmtPackageReset => exact steps_execMgmtPackageReset h
  | mgmtMapPages => exact steps_execMgmtMapPages h
  | mgmtMigrate => exact steps_execMgmtMigrate h
  | mgmtQueryQueue => exact steps_execMgmtQueryQueue h
  | mgmtLinkParameters => exact steps_execMgmtLinkParameters h
  | mgmtPinPartition => exact steps_execMgmtPinPartition h
  | mgmtSpillGrant => exact steps_execMgmtSpillGrant h
  | mgmtSigningKeys => exact steps_execMgmtSigningKeys h
  | flitReceive => exact steps_execFlitReceive h
  | linkRetrain => exact steps_execLinkRetrain h
  | powerUp => exact steps_execPowerUp h
  | bootHandshake => exact steps_execBootHandshake h
  | thermalWithhold => exact steps_execThermalWithhold h
  | thermalPreempt => exact steps_execThermalPreempt h
  | thermalTrip => exact steps_execThermalTrip h
  | powerCapCheck => exact steps_execPowerCapCheck h
  | retranslationHitRefill => exact steps_execRetranslationHitRefill h
  | powerRemoval => exact steps_execPowerRemoval h

end

end Sys2Proof.Machine

end

section
/-! SUPPORT. The turns of a step keep the forms (R234, R471) -/

namespace Sys2Proof.Machine

section
variable {deep : Bool} {s : State} {t : Slot} {c : SlotId} {o : Opnd} {i : Instr}

theorem formed_giveTurn (h : Formed deep s) (ht : SlotForm deep t) : Formed deep (giveTurn s t) := by
  have hrest : ∀ u ∈ s.rest.filter fun x => x.id ≠ t.id, SlotForm deep u := fun u hu => h.2.2.1 u (List.mem_of_mem_filter hu)
  refine ⟨h.1, ht, fun u hu => ?_, h.2.2.2⟩
  unfold giveTurn at hu
  dsimp only at hu
  split at hu
  · rcases List.mem_cons.1 hu with rfl | hu
    · exact h.2.1
    · exact hrest u hu
  · exact hrest u hu

theorem slotForm_slotTick (h : SlotForm deep t) : SlotForm deep (slotTick s t) := by
  unfold slotTick
  exact h

theorem formed_slotTicks (h : Formed deep s) : Formed deep (mapSlots s (slotTick s)) :=
  formed_mapSlots h fun _ ht => slotForm_slotTick ht

theorem formed_nextCycle (h : Formed deep s) :
    Formed deep (moveBlocks { mapSlots s (slotTick s) with cycle := s.cycle + 1, stage := 0 }) := by
  have ht := formed_slotTicks h
  exact formed_moveBlocks ht

theorem formed_endCycle (h : Formed deep s) : Formed deep (endCycle s) := by
  unfold endCycle
  have hs := formed_foldl (f := endSlot) (xs := (allSlots s).map fun t => t.id) h fun _ _ hs => formed_endSlot hs
  exact formed_nextCycle (formed_restWalkers (formed_noteUnplaceable (formed_noteHolds (formed_closeDomains (formed_finishSaves hs)))))

theorem formed_holdStream {st : StreamId} (h : Formed deep s) : Formed deep (holdStream s st) :=
  formed_onCur h fun _ ht => slotForm_modStream ht

theorem formed_issuing (h : Formed deep s) : Formed deep (issuing s i) := formed_ite (formed_onCur h fun _ ht => ht) h

theorem steps_issueStream {st : StreamId} (h : Formed deep s) : Steps deep (issueStream s st) := by
  unfold issueStream
  split
  · exact steps_next (formed_holdStream h)
  · next hf =>
    have hs := gives_fetched h _ hf
    split
    · exact steps_exec (formed_issuing hs)
    · exact steps_next (formed_takeFault hs)

theorem steps_endingIssue {st : StreamId} {r : Result} (h : Formed deep s) (hr : Steps deep r) : Steps deep (endingIssue s st r) := by
  unfold endingIssue
  split
  · exact steps_next (formed_onCur h fun _ ht => slotForm_modStream ht)
  · exact hr

theorem steps_issueTurn {st : StreamId} (h : Formed deep s) : Steps deep (issueTurn s st) := by
  unfold issueTurn
  exact steps_ite (steps_issueStream h) (steps_endingIssue h (steps_issueStream h))

theorem mem_of_issuers {k : Nat} (h : t ∈ issuers s k) : t = s.cur ∨ t ∈ s.rest := by
  unfold issuers at h
  rcases List.mem_append.1 h with h | h
  · split at h
    · exact .inl (List.mem_singleton.1 h)
    · exact absurd h List.not_mem_nil
  · exact .inr (List.mem_of_mem_filter h)

theorem issueOf_pass {k : Nat} {u : Slot} (h : issueOf s k u = .pass t) : t = u := by
  unfold issueOf at h
  split at h
  · exact nomatch h
  · exact (Turn.pass.inj h).symm

theorem mem_of_stageTurn_pass {due : List Instr} {k : Nat} (h : stageTurn s due k = some (.pass t)) : t ∈ issuers s k := by
  unfold stageTurn at h
  dsimp only at h
  split at h
  · split at h
    · next u _ hu =>
      split at h
      · exact nomatch h
      · exact issueOf_pass (Option.some.inj h) ▸ leastBy_eq_some hu
    · exact nomatch h
    · obtain ⟨u, hu, ht⟩ := Option.map_eq_some_iff.1 h
      exact issueOf_pass ht ▸ leastBy_eq_some hu
  · split at h
    · exact nomatch h
    · obtain ⟨u, hu, ht⟩ := Option.map_eq_some_iff.1 h
      exact issueOf_pass ht ▸ List.mem_of_head? hu

/-- The turn passes to a slot of the state. -/
theorem mem_of_nextTurn_pass (h : nextTurn s = .pass t) : t = s.cur ∨ t ∈ s.rest := by
  unfold nextTurn at h
  split at h
  · exact nomatch h
  · split at h
    · exact nomatch h
    · dsimp only at h
      cases hk : ((List.range 10).drop s.stage).findSome? (stageTurn s (dueEvents s)) with
      | none => rw [hk] at h; exact nomatch h
      | some r =>
        rw [hk] at h
        obtain ⟨k, _, hr⟩ := List.exists_of_findSome?_eq_some hk
        obtain rfl : r = .pass t := h
        exact mem_of_issuers (mem_of_stageTurn_pass hr)

/-- A step keeps the forms. -/
theorem steps_step (h : Formed deep s) : Steps deep (step s) := by
  unfold step
  split
  · exact steps_exec h
  · exact steps_fault
  · exact steps_exec h
  · exact steps_issueTurn h
  · next ht =>
    refine steps_next (formed_giveTurn h ?_)
    rcases mem_of_nextTurn_pass ht with rfl | hm
    · exact h.2.1
    · exact h.2.2.1 _ hm
  · exact steps_next (formed_endCycle h)

end

theorem formed_memory {s : State} : Formed false s ↔ Memory.wf s.mem = true := by
  simp [Formed, SlotForm]

theorem formed_safe {s : State} : Formed true s ↔ safe s = true := by
  simp [Formed, SlotForm, safe, allSlots, and_assoc]

/-- Settles O58: a step of every turn keeps the forms, by the lemma of each function that it goes through. -/
theorem stepKeepsMemoryCanonical : Obligations.StepKeepsMemoryCanonical := by
  intro s t hst
  exact ⟨fun h => formed_memory.1 (steps_step (formed_memory.2 h) t hst), fun h => formed_safe.1 (steps_step (formed_safe.2 h) t hst)⟩

end Sys2Proof.Machine

end
